-- ==== Sys2Proof/Word.lean ====
section
/-!
DEFINITION. Word types of the Ferul FV64 and their plainest arithmetic (spec/00_scope.md, spec/01_architecture.md R16-R20).
-/

namespace Sys2Proof

/-- One byte. -/
abbrev Byte := BitVec 8
/-- A 16-bit value. -/
abbrev W16 := BitVec 16
/-- A 32-bit value. -/
abbrev W32 := BitVec 32
/-- A 64-bit value. -/
abbrev W64 := BitVec 64
/-- A 128-bit word, the unit of memory, vectors and streams. -/
abbrev W128 := BitVec 128
/-- A 40-bit address. -/
abbrev Addr := BitVec 40

/-- A partition number, 0-15 (R19). -/
abbrev PartId := Fin 16
/-- A vector-engine number, 0-63 (R16). -/
abbrev VeId := Fin 64
/-- A cluster number, 0-7 (R16). -/
abbrev ClusterId := Fin 8
/-- A die number, 0-3 (R15). -/
abbrev DieId := Fin 4
/-- An HBM stack number, 0-7 (R18). -/
abbrev StackId := Fin 8
/-- A scratchpad bank number, 0-255 (R17). -/
abbrev BankId := Fin 256
/-- A host-port number, 0-3 (R19). -/
abbrev PortId := Fin 4
/-- A CRC-unit number, 0-15 (R15). -/
abbrev CrcId := Fin 16
/-- An event source number, 0-799 (R340). -/
abbrev SrcId := Fin 800

end Sys2Proof
end

