-- ==== Sys2Proof/Syntax.lean ====
section
/-!
DEFINITION. The commands of the FV64: one constructor of `Instr` for each row of spec/opcode_table.json, with the operands
its rule gives it. Field widths are those of the encodings and frames of spec/, so that a reserved value of a
field can be written and meets the outcome the spec gives it.
-/

namespace Sys2Proof

/-- A sequencer core: the one inside VE `n`, or the lockstep supervisor pair seen as one core (R15, R191, R216). -/
inductive CoreId where
  | ve (n : VeId)
  | sv
deriving DecidableEq, Repr

/-- The six requesters of the dictionary (R316): 0-3 the host ports, 4 the I3C target, 5 the supervisor. -/
abbrev Requester := Fin 6

/-- One dictionary write as it arrives: `bytes` bytes of `val` at byte offset `off` of the entry's slot (R312, R313). -/
structure DAcc where
  bytes : Nat
  off : Nat
  val : W128
deriving DecidableEq, Repr

/-- A write of SOFT_RESET, and the level on the BOOTSEL pins, which the reset samples at its end (R425). -/
structure SoftReset where
  acc : DAcc
  pins : BitVec 2
deriving DecidableEq, Repr

/-- Register and immediate forms every ALU operation has (R164-R167): H0, C0 and C1. -/
inductive AluForm where
  /-- 16-bit register form, `rd := rd op rs`, 4-bit fields. -/
  | h0 (rd rs : BitVec 4)
  /-- 32-bit register form; `rsv` is the reserved field [6:0]. -/
  | c0 (rd ra rb : BitVec 5) (rsv : BitVec 7)
  /-- 32-bit immediate form. -/
  | c1 (rd ra : BitVec 5) (imm : BitVec 12)
deriving DecidableEq, Repr

/-- The forms of `ADD`, `SUB`, `CMP` and `MOV`: those of `AluForm` and the 16-bit immediate H1. -/
inductive AddForm where
  | alu (f : AluForm)
  | h1 (rd : BitVec 4) (imm : BitVec 6)
deriving DecidableEq, Repr

/-- The forms of the shifts: those of `AluForm` and the 16-bit shift H2. -/
inductive ShForm where
  | alu (f : AluForm)
  | h2 (rd : BitVec 4) (amt : BitVec 6)
deriving DecidableEq, Repr

/-- Forms of `LD` and `ST` (R164, R165): H0, H5 and C3 with its SZ and X fields. For a load `rt` receives, for a store it is stored. -/
inductive MemForm where
  | h0 (rt base : BitVec 4)
  | h5 (rt : BitVec 4) (off : BitVec 7)
  | c3 (sz : BitVec 3) (x : Bool) (rt base : BitVec 5) (off : BitVec 11)
deriving DecidableEq, Repr

/-- Forms of the conditional branch (R164, R165): H3 and C4. -/
inductive BrForm where
  | h3 (cond : BitVec 4) (off : BitVec 8)
  | c4 (cond : BitVec 4) (off : BitVec 22)
deriving DecidableEq, Repr

/-- Forms of `SETVL` (R164, R165): H6, with its reserved field, and C6 OP 3, with its reserved field. -/
inductive VlForm where
  | h6 (rd rs rsv : BitVec 4)
  | c6 (rd rs : BitVec 5) (rsv : BitVec 12)
deriving DecidableEq, Repr

/-- Forms of `VISSUE` (R164, R165, R184): H4 OP 8 (`low` is ARG[3:0]) and C6 OP 4. -/
inductive VisForm where
  | h4 (rs low : BitVec 4)
  | c6 (rs : BitVec 5) (t : Bool) (fm : BitVec 3) (rsv : BitVec 13)
deriving DecidableEq, Repr

/-- Fields of `RPT` (R173) beside KIND. -/
structure RptForm where
  sz : BitVec 3
  fm : BitVec 3
  pred : BitVec 2
  gap : BitVec 3
  rsv : BitVec 9
deriving DecidableEq, Repr

/-- Operand fields of a vector instruction (R65, R89). -/
structure VOps where
  d : BitVec 4
  a : BitVec 4
  b : BitVec 4
  c : BitVec 4
  g : Bool
  k : Bool
deriving DecidableEq, Repr

/-- Where a request of a host port lands: BAR0 or BAR2, and the byte offset there (R289, R290). -/
inductive HostAddr where
  | bar0 (off : BitVec 28)
  | bar2 (off : BitVec 20)
deriving DecidableEq, Repr

/-- The byte offset within its BAR. -/
def HostAddr.offset : HostAddr → Nat
  | .bar0 off => off.toNat
  | .bar2 off => off.toNat

/-- The 4 KiB page of a host address: in BAR0 the index of the entry, in BAR2 the aperture (R289, R290). -/
def HostAddr.page : HostAddr → BitVec 16
  | .bar0 off => off.extractLsb' 12 16
  | .bar2 off => (off.extractLsb' 12 8).setWidth 16

/-- The 16-byte slot within the page: in BAR0 the subindex (R289). -/
def HostAddr.slot : HostAddr → BitVec 8
  | .bar0 off => off.extractLsb' 4 8
  | .bar2 off => off.extractLsb' 4 8

/-- The byte within the slot. -/
def HostAddr.low : HostAddr → BitVec 4
  | .bar0 off => off.extractLsb' 0 4
  | .bar2 off => off.extractLsb' 0 4

/-- The address lies in BAR0. -/
def HostAddr.inBar0 : HostAddr → Bool
  | .bar0 _ => true
  | .bar2 _ => false

/-- The address with a page, a slot and a byte; BAR2 has 256 pages (R290). -/
def hostAddr (page : BitVec 16) (slot : BitVec 8) (bar0 : Bool) (low : BitVec 4) : HostAddr :=
  if bar0 then .bar0 (page ++ slot ++ low) else .bar2 (page.setWidth 8 ++ slot ++ low)

/-- A bit upset that an access finds in memory: `flips` are the data bits turned over in the word, and
`multi` says that the word's stored bits differ in more than one place (R220). -/
structure Upset where
  word : Nat
  flips : W128
  multi : Bool
deriving DecidableEq, Repr

/-- A read or write fragment of the bus matrix (R244, R246): master number, tag, first byte address and length in bytes. -/
structure Frag where
  master : BitVec 10
  tag : BitVec 5
  addr : Nat
  len : Nat
deriving DecidableEq, Repr

/-- What an arbiter meets at one decision (R253): the other slots that request, and whether it is idle or decides in the last beat of a
transfer. -/
structure Contest where
  others : List (Fin 16)
  idle : Bool
deriving DecidableEq, Repr

/-- An idle arbiter with one requester. -/
def Contest.alone : Contest := { others := [], idle := true }

/-- What a request meets on its way (Table 9.3): the other masters of its own VE, its cluster port or the management port, each bridge that
its path crosses, and the arbiter of its target. -/
structure Rivals where
  own : List (Fin 8)
  port : Contest
  bridges : List Contest
  target : Contest
deriving DecidableEq, Repr

/-- Nothing else requests. -/
def Rivals.none : Rivals := { own := [], port := .alone, bridges := [], target := .alone }

/-- One wait that the wait-for watchdog times (R258): a master's request held at a bank in handover (rank 1) or at a
rigging receive port (rank 2). -/
inductive WaitOn where
  | bank (master : BitVec 10) (b : BankId)
  | rxPort (sender : VeId) (port : Fin 128)
deriving DecidableEq, Repr

/-- What a boot step found, for the parts of Table 17.2 whose outcome is decided by matter outside the model. -/
structure BootFindings where
  /-- PLLs that locked, by domain number (step 1). -/
  locked : W32
  /-- Sequencers whose start-up read-back failed, bit n for VE n (R215). -/
  selfTestFail : W64
  /-- Stacks whose training failed (step 6). -/
  stackFail : Byte
  /-- Dies whose bridges or fabric failed. -/
  dieFail : BitVec 4
  /-- CRC units failing their check strings. -/
  crcFail : W16
  /-- Stack temperatures and supplies at training, mV in 10 bits. -/
  temp : Byte
  volt : BitVec 10
  /-- Milliseconds taken since reset. -/
  ms : W32
deriving DecidableEq, Repr

/-- The clock whose PLL lost lock (R430): a monitored domain of Table 17.5, SYSCLK or REFCLK. -/
inductive ClockSrc where
  | domain (i : Fin 26)
  | sysclk
  | refclk (h : PortId)
deriving DecidableEq, Repr

/-- The owner's write that a bank accepts in the sense cycle of a tap read (R238): the word of the line and its new value. -/
structure SenseWrite where
  word : BitVec 2
  val : W128
deriving DecidableEq, Repr

/-- What a tap read meets: the requesters that compete for the bank's tap port, and the owner's write in its sense cycle (R237, R238). -/
structure TapHit where
  rivals : Contest
  sense : Option SenseWrite
deriving DecidableEq, Repr

/-- What a slot start meets at the receive port: the VEs that request it too, and whether its arbiter is idle (R253, R273). -/
structure RxRivals where
  ves : List VeId
  idle : Bool
deriving DecidableEq, Repr

/-- A partition under observation, and whether a reset of the unit cuts its capture short (R262, R410). -/
structure Observed where
  part : PartId
  cut : Bool
deriving DecidableEq, Repr

/-- A ring of the event store (Table 13.4). -/
inductive RingId where
  | sv
  | seq (n : VeId)
  | host (p : PartId)
deriving DecidableEq, Repr

/-- Bits of the event store turned over in the word of a ring's record, counted from the head: one bit, or more than the check corrects (R356). -/
structure EventUpset where
  ring : RingId
  place : Nat
  multi : Bool
deriving DecidableEq, Repr

/-- A source whose arrival is served, and the bits of the event store that have turned over by then (R344, R356). -/
structure Served where
  src : SrcId
  upsets : List EventUpset
deriving DecidableEq, Repr

/-- The device's own tap requesters (R237, R238); host debug has the row DEBUG_READ. -/
inductive TapReq where
  | nest
  | scrub
  | crc (u : CrcId)
deriving DecidableEq, Repr

/-- The responses that the sink of each master absorbs when it is reset, by master number (R261). -/
abbrev Sunk := List (BitVec 10 × Fin 33)

/-- A die that is fenced, and what the sinks of its masters absorb (Table 15.4, R261). -/
structure DieLoss where
  die : DieId
  sunk : Sunk
deriving DecidableEq, Repr

/-- A host port whose stream path fails, and the responses that its sink absorbs (R309, R261). -/
structure PathLoss where
  port : PortId
  sunk : Fin 33
deriving DecidableEq, Repr

/-- A clock that is lost, and what the sinks of the masters that stop with it absorb (R430, R261). -/
structure ClockLoss where
  src : ClockSrc
  sunk : Sunk
deriving DecidableEq, Repr

/-- How an exchange that stops finds its slots (R276, R279): of each slot in progress the words whose fragments were accepted, and of each
VE the responses that its exchange engine's sink absorbs. -/
structure ExchCut where
  moved : List (Fin 4096 × Nat)
  sunk : List (VeId × Fin 33)
deriving DecidableEq, Repr

/-- A partition whose barrier timer runs out, and the part of its running slots that had moved (R276). -/
structure BarrierEnd where
  part : PartId
  cut : ExchCut
deriving DecidableEq, Repr

/-- A Sundov frame as received: its header word and its payload (Table 15.6). -/
structure SFrame where
  hdr : W128
  payload : List W128
deriving DecidableEq, Repr

/-- What the sensors and counters hold at a dispatch tick (R362, R363), in W, mV, degrees Celsius, nJ and bytes. -/
structure TickMeas where
  /-- P_pkg, averaged over the last tick, in W. -/
  pkg : Nat
  /-- P_c of each cluster, in W. -/
  cluster : Vector Nat 8
  /-- Temperature of each die. -/
  dieTemp : Vector Byte 4
  /-- Temperature of each stack. -/
  stackTemp : Vector Byte 8
  /-- VDDQ_Hs of each stack, in mV. -/
  vddq : Vector Nat 8
  /-- Voltage sensed on each cluster rail, in mV. -/
  vdd : Vector Nat 8
  /-- Load band of group g of stack s at 4s + g. -/
  load : Vector (BitVec 2) 32
  /-- Weighted activity of each VE while it executed for a partition, or for none. -/
  activity : List (VeId × Option PartId × Nat)
  /-- Energy of each stack's rails over the tick, in nJ. -/
  stackNj : Vector Nat 8
  /-- Bytes each stack served to a partition's masters, or to masters of no partition. -/
  served : List (StackId × Option PartId × Nat)
  /-- Partitions that were runnable at no moment of the tick. -/
  idle : W16
  /-- Clusters that met the three sleep conditions throughout the tick. -/
  sleepy : Byte
deriving DecidableEq, Repr

/-- The commands of the FV64, one constructor for each row of spec/opcode_table.json, in its order. -/
inductive Instr where
  -- Boot, reset and clocks (spec/17)
  | powerOnReset (bootsel : BitVec 2) (twinRole : Bool)
  | pwrokFall
  | resetNPulse (bootsel : BitVec 2)
  | softReset (r : Requester) (a : SoftReset)
  | bootStepComplete (f : BootFindings)
  | pllLossOfLock (c : ClockLoss)
  | dieFence (d : DieLoss)
  | recoveryStart (hdr : Option Byte) (frame : List Byte)
  | recoveryData (hdr : Option Byte) (frame : List Byte)
  | recoveryFinish (hdr : Option Byte) (frame : List Byte)
  | recoveryQuery (hdr : Option Byte) (frame : List Byte)
  | recoveryBootContinue
  | flashSlotWriteDone (failed : Bool)
  | timeSync
  -- Host ports, streams and jobs (spec/11, spec/02)
  | hostLinkUp (h : PortId) (width : BitVec 4) (speed : BitVec 3) (volt : BitVec 10) (load : BitVec 2)
  | hostLinkDown (h : PortId) (sunk : Fin 33)
  | hotReset (h : PortId) (sunk : Fin 33)
  | functionLevelReset (h : PortId) (sunk : Fin 33)
  | inStreamWrite (h : PortId) (page : BitVec 16) (slot : BitVec 8) (bar0 : Bool) (low : BitVec 4) (bytes : Nat) (data : List Byte)
  | outStreamRead (h : PortId) (page : BitVec 16) (slot : BitVec 8) (bar0 : Bool) (low : BitVec 4) (bytes : Nat)
  | outBlockPresent (p : PartId) (k : Fin 8)
  | fifoHoldTimeout (h : PortId)
  | intArm (r : Requester) (p : PartId) (a : DAcc)
  | resync (r : Requester) (p : PartId) (k : Fin 8) (a : DAcc)
  | replaySeq (r : Requester) (p : PartId) (k : Fin 8) (a : DAcc)
  | loadReset (r : Requester) (p : PartId) (a : DAcc)
  | jobStart (p : PartId)
  | checkpointSave (p : PartId)
  | ingest (p : PartId)
  | commitPhase (p : PartId)
  | observation (p : Observed)
  | resultRelease (p : PartId)
  -- Sequencer instructions (spec/06)
  | add (c : CoreId) (f : AddForm)
  | adc (c : CoreId) (f : AluForm)
  | sub (c : CoreId) (f : AddForm)
  | sbc (c : CoreId) (f : AluForm)
  | and (c : CoreId) (f : AluForm)
  | or (c : CoreId) (f : AluForm)
  | xor (c : CoreId) (f : AluForm)
  | shl (c : CoreId) (f : ShForm)
  | shr (c : CoreId) (f : ShForm)
  | sar (c : CoreId) (f : ShForm)
  | cmp (c : CoreId) (f : AddForm)
  | mov (c : CoreId) (f : AddForm)
  | movk (c : CoreId) (rd : BitVec 5) (hw : BitVec 2) (rsv : BitVec 3) (imm : BitVec 16)
  | mstep (c : CoreId) (rd ra rb : BitVec 5) (rsv : BitVec 7)
  | dstep (c : CoreId) (rd ra rb : BitVec 5) (rsv : BitVec 7)
  | ld (c : CoreId) (f : MemForm)
  | st (c : CoreId) (f : MemForm)
  | bCond (c : CoreId) (f : BrForm)
  | bReg (c : CoreId) (rs : BitVec 5) (rsvHi : BitVec 3) (rsvLo : BitVec 16)
  | call (c : CoreId) (off : BitVec 24)
  | callReg (c : CoreId) (rs : BitVec 5) (rsvHi : BitVec 3) (rsvLo : BitVec 16)
  | ret (c : CoreId) (arg : BitVec 8)
  | trap (c : CoreId) (arg : BitVec 8)
  | rti (c : CoreId) (arg : BitVec 8)
  | nop (c : CoreId) (arg : BitVec 8)
  | wait (c : CoreId) (arg : BitVec 8)
  | barrier (c : CoreId) (arg : BitVec 8)
  | syncI (c : CoreId) (arg : BitVec 8)
  | cinvI (c : CoreId)
  | cinvD (c : CoreId)
  | cinvDRange (c : CoreId) (ra rb : BitVec 5) (rsv : BitVec 12)
  | movFromSr (c : CoreId) (rd : BitVec 5) (sr : BitVec 4) (rsv : BitVec 13)
  | movToSr (c : CoreId) (sr : BitVec 4) (rs : BitVec 5) (rsv : BitVec 13)
  | rptMovs (c : CoreId) (f : RptForm) (upto : Option Nat)
  | rptFills (c : CoreId) (f : RptForm) (upto : Option Nat)
  | rptCmps (c : CoreId) (f : RptForm) (upto : Option Nat)
  | rptScans (c : CoreId) (f : RptForm) (upto : Option Nat)
  | setvl (c : CoreId) (f : VlForm)
  | vissue (c : CoreId) (f : VisForm)
  | movX (c : CoreId) (xd xs : BitVec 5) (rsv : BitVec 12)
  | movWHalf (c : CoreId) (rg : BitVec 5) (wn : BitVec 3) (h dir : Bool) (rsv : BitVec 12)
  | addSn (c : CoreId) (sn : BitVec 4) (rs : BitVec 5) (rsv : BitVec 13)
  -- Sequencer entries and doorbells (spec/07)
  | vectorFaultEntry (n : VeId)
  | interruptEntry (c : CoreId)
  | doorbell (r : Requester) (n : VeId) (a : DAcc)
  | dbValueRead (n : VeId)
  | vfSubstEn (n : VeId) (val : W64)
  | lockstepMismatch
  -- Logic and route instructions (spec/04)
  | vlut (n : VeId) (tt : BitVec 8) (o : VOps)
  | vqlut (n : VeId) (tt : BitVec 8) (o : VOps)
  | vres (n : VeId) (fn : BitVec 6) (o : VOps)
  | vcmpr (n : VeId) (fn : BitVec 6) (o : VOps)
  | vexpd (n : VeId) (fn : BitVec 6) (o : VOps)
  | vchg (n : VeId) (fn : BitVec 8) (o : VOps)
  | vperm (n : VeId) (fn : BitVec 5) (o : VOps)
  | vbgath (n : VeId) (fn : BitVec 5) (o : VOps)
  | vgath (n : VeId) (fn : BitVec 5) (o : VOps)
  | vscat (n : VeId) (fn : BitVec 5) (o : VOps)
  -- Vector arithmetic (spec/05)
  | vadd (n : VeId) (fn : BitVec 4) (o : VOps)
  | vadc (n : VeId) (fn : BitVec 4) (o : VOps)
  | vsub (n : VeId) (fn : BitVec 4) (o : VOps)
  | vsbc (n : VeId) (fn : BitVec 4) (o : VOps)
  | vcmp (n : VeId) (fn : BitVec 4) (o : VOps)
  | vsel (n : VeId) (fn : BitVec 4) (o : VOps)
  | vshl (n : VeId) (fn : BitVec 4) (o : VOps)
  | vshr (n : VeId) (fn : BitVec 4) (o : VOps)
  | vrot (n : VeId) (fn : BitVec 4) (o : VOps)
  | vmulw (n : VeId) (fn : BitVec 6) (o : VOps)
  | vmull (n : VeId) (fn : BitVec 6) (o : VOps)
  | vdivsInit (n : VeId) (fn : BitVec 4) (o : VOps)
  | vdivsStep (n : VeId) (fn : BitVec 4) (o : VOps)
  | vdivsFix (n : VeId) (fn : BitVec 4) (o : VOps)
  | vfadd (n : VeId) (fn : BitVec 4) (o : VOps)
  | vfsub (n : VeId) (fn : BitVec 4) (o : VOps)
  | vfmul (n : VeId) (fn : BitVec 4) (o : VOps)
  | vfma (n : VeId) (fn : BitVec 4) (o : VOps)
  | vfmin (n : VeId) (fn : BitVec 4) (o : VOps)
  | vfmax (n : VeId) (fn : BitVec 4) (o : VOps)
  | vfcmp (n : VeId) (fn : BitVec 4) (o : VOps)
  | vfcvt (n : VeId) (fn : BitVec 4) (o : VOps)
  -- Chain groups (spec/03)
  | chainGroupStart (n : VeId) (readsIssued : Bool)
  | groupComplete (n : VeId)
  | elementFault (n : VeId) (sunk : Sunk)
  -- Memory and scratchpad (spec/08)
  | memoryRead (f : Frag) (rivals : Rivals) (upsets : List Upset)
  | memoryWrite (f : Frag) (data : List Byte) (enable : List Bool) (tap : Bool) (rivals : Rivals) (upsets : List Upset)
  | correctedWriteBack (word : Nat)
  | patrolScrub (unit : StackId ⊕ BankId) (upsets : List Upset)
  | refresh (q : Fin 256)
  | atomicOr (f : Frag) (v : W128) (rivals : Rivals) (upsets : List Upset)
  | atomicAnd (f : Frag) (v : W128) (rivals : Rivals) (upsets : List Upset)
  | atomicAdd64 (f : Frag) (v : W128) (rivals : Rivals) (upsets : List Upset)
  | atomicSwap (f : Frag) (v : W128) (rivals : Rivals) (upsets : List Upset)
  | atomicCas (f : Frag) (e v : W128) (rivals : Rivals) (upsets : List Upset)
  | calRecordBreak (s : StackId) (g : Fin 4)
  | quietWindowEnd (s : StackId) (ok : Bool) (volt : BitVec 10) (load : BitVec 2)
  | stackOverheat (s : StackId) (temp : Byte)
  | owner (r : Requester) (b : BankId) (a : DAcc)
  | bankDrainEnd (b : BankId)
  | tapRead (b : BankId) (line : BitVec 16) (who : TapReq) (hit : TapHit)
  | tapGuaranteedCycle (b : BankId) (line : BitVec 16) (who : TapReq)
  | stackFence (r : Requester) (s : StackId) (a : DAcc)
  | bankFence (r : Requester) (b : BankId) (a : DAcc)
  -- Bus matrix (spec/09)
  | watchdogExpiry (w : WaitOn) (sunk : Sunk)
  | linkFence (r : Requester) (a : DAcc)
  | remap (v : W64)
  -- Rigging (spec/10)
  | slotStart (p : PartId) (slot : Fin 4096) (others : RxRivals)
  | slotComplete (p : PartId) (slot : Fin 4096)
  | exchangeFault (p : PartId) (slot : Fin 4096) (cut : ExchCut)
  | barrierRelease (p : PartId)
  | barrierTimeout (p : BarrierEnd)
  | exchEditSlot (r : Requester) (p : PartId) (a : DAcc)
  | exchEditGo (r : Requester) (p : PartId) (a : DAcc)
  -- Object dictionary (spec/12)
  | stagingWrite (r : Requester) (ix : W16) (sub : Byte) (a : DAcc)
  | commit (r : Requester) (ix : W16) (sub : Byte) (a : DAcc)
  | discard (r : Requester) (ix : W16) (sub : Byte) (a : DAcc)
  | commitApply (ix : W16) (sub : Byte)
  | stageTimeoutExpiry (ix : W16) (sub : Byte)
  | abortLast (h : PortId) (bytes off : Nat)
  | registerWrite (r : Requester) (ix : W16) (sub : Byte) (a : DAcc)
  | alertClear (r : Requester) (a : DAcc)
  -- Management over I3C (spec/12)
  | i3cReadRequest (hdr : Option Byte) (frame : List Byte)
  | i3cWriteRequest (hdr : Option Byte) (frame : List Byte)
  | i3cPrivateRead (hdr : Option Byte)
  | enec (dst : Option (BitVec 7))
  | disec (dst : Option (BitVec 7))
  | entas (code : Byte) (dst : Option (BitVec 7))
  | rstdaa
  | entdaa (dyn : BitVec 7)
  | setmwl (dst : Option (BitVec 7)) (v : W16)
  | setmrl (dst : Option (BitVec 7)) (v : W16)
  | enthdr0
  | rstact (dst : Option (BitVec 7)) (action : Byte)
  | setdasa (static dyn : BitVec 7)
  | setnewda (dst dyn : BitVec 7)
  | getmwl (dst : BitVec 7)
  | getmrl (dst : BitVec 7)
  | getpid (dst : BitVec 7)
  | getbcr (dst : BitVec 7)
  | getdcr (dst : BitVec 7)
  | getstatus (dst : BitVec 7)
  | getmxds (dst : BitVec 7)
  -- Events (spec/13)
  | eventRaise (x : SrcId) (detail : W32)
  | eventServe (x : Served)
  | svPop
  | evPop (n : VeId)
  | target (r : Requester) (x : SrcId) (a : DAcc)
  | arrivalsClr (r : Requester) (x : SrcId) (a : DAcc)
  -- Power and dispatch (spec/14)
  | dispatchTick (m : TickMeas)
  | slotTicksExpiry
  | veSlotStop (n : VeId)
  | wakeRequest (c : ClusterId)
  | reefRailArrival (c : ClusterId)
  | fastLimit (watts : W16)
  | tjAlertReached (d : DieId) (temp : Byte)
  | thermalEmergency (d : DieId) (temp : Byte)
  | thermtrip (d : DieId)
  | sensorCalOutOfBand (c : ClusterId)
  | eqCalOutOfBand (h : PortId)
  | slotActive (r : Requester) (i : Fin 64) (a : DAcc)
  -- Integrity (spec/15)
  | crcStart (u : CrcId) (master : BitVec 10) (poly : BitVec 2) (tag expected : W64) (cmp : Bool) (count : BitVec 32) (rivals : Contest)
  | crcRunEnd (u : CrcId) (words : List W128)
  | crcSelfCheck (u : CrcId) (results : Vector W64 4)
  | crcFence (r : Requester) (u : CrcId) (a : DAcc)
  | pairedMismatch (pair : Fin 32) (kind : BitVec 2) (slot : Fin 4096) (sunk : Sunk)
  | veFence (r : Requester) (n : VeId) (a : DAcc) (sunk : Sunk)
  | portFence (r : Requester) (h : PortId) (a : DAcc) (sunk : Fin 33)
  | partFence (r : Requester) (p : PartId) (a : DAcc)
  -- Sundov twin (spec/15)
  | sundovLinkUp (lanes : BitVec 4)
  | heartbeat (f : SFrame)
  | heartbeatSend
  | forwardedInput (f : SFrame)
  | digest (f : SFrame)
  | ledgerCopy (f : SFrame)
  | progress (f : SFrame)
  | resyncData (f : SFrame)
  | fatalNotice (f : SFrame)
  | frameResend
  | sundovLinkLoss (sunk : Fin 33)
  | presenceWaitExpiry
  | twinPair (r : Requester) (a : DAcc)
  | resyncPassEnd (failed : Bool)
  | twinDetach (r : Requester) (a : DAcc)
  | twinPromote (r : Requester) (a : DAcc)
  -- Debug, freeze and the remaining events (spec/16, spec/07, spec/14)
  | debugRead (r : Requester) (b : BankId) (bytes off : Nat) (hit : Option SenseWrite)
  | holdNAssert
  | holdNDeassert
  | dbgFreeze (r : Requester) (a : DAcc)
  | illegalInstruction (c : CoreId) (long : Bool) (enc : W32)
  | instructionAccess (c : CoreId)
  | stackAboveThermalLimit (s : StackId) (temp : Byte)
  | twinPresentNHigh
  | freezeEntered
  | reefClockRestart (c : ClusterId)
  | controllerOrPhyFailure (s : StackId)
  | streamPathFault (h : PathLoss)
  | correctableLinkError (h : PortId)
deriving DecidableEq, Repr

/-- The write packet of a host port at an address (IN_STREAM_WRITE). -/
def hostWrite (h : PortId) (a : HostAddr) (data : List Byte) : Instr := .inStreamWrite h a.page a.slot a.inBar0 a.low data.length data

/-- The read packet of a host port at an address (OUT_STREAM_READ). -/
def hostRead (h : PortId) (a : HostAddr) (bytes : Nat) : Instr := .outStreamRead h a.page a.slot a.inBar0 a.low bytes

end Sys2Proof
end

