-- ==== Sys2Proof/Config.lean ====
section
/-!
DEFINITION. What a part fixes and the free values: constants without a body, so that no proof can see a value.
A free value the machine draws is `freeWord` or `freeNat` at the state's counter `free` (spec/00_scope.md R10).
-/

namespace Sys2Proof.Config

/-- The free value drawn at a given count: R10's "undefined" of 128 bits (assumption log 2). -/
opaque freeWord : Nat → W128
/-- A free choice drawn at a given count: which of the values the spec allows is taken (R63, R274; log 2). -/
opaque freeNat : Nat → Nat

/-- An STR of characters, the first in the lowest byte, padded with 0x00 (Table 12.1). -/
def strOf (cs : List Nat) : W128 := BitVec.ofNat 128 (cs.foldr (fun c r => c % 256 + 256 * r) 0)

/-- The digits of SERIAL, per part (R325). -/
opaque serialDigit : Fin 12 → Fin 10
/-- SERIAL: 12 ASCII decimal digits (Table 12.7). -/
def serial : W128 := strOf ((List.finRange 12).map fun i => 0x30 + (serialDigit i).val)
/-- The characters of LOT of a die (R326). -/
opaque lotChar : DieId → Fin 7 → Fin 127
/-- LOT of a die: 7 ASCII characters (Table 12.8). -/
def lot (d : DieId) : W128 := strOf ((List.finRange 7).map fun i => 1 + (lotChar d i).val)
/-- The wafer of a die (R326). -/
opaque waferNo : DieId → Fin 25
/-- WAFER of a die, 1-25 (Table 12.8). -/
def wafer (d : DieId) : Byte := BitVec.ofNat 8 ((waferNo d).val + 1)
/-- DIE_X of a die (R326). -/
opaque dieX : DieId → Byte
/-- DIE_Y of a die (R326). -/
opaque dieY : DieId → Byte
/-- HBM_VENDOR of a stack (R326). -/
opaque hbmVendor : StackId → Byte
/-- The part name that a stack reports (R326). -/
opaque hbmPartChars : StackId → List (Fin 127)
/-- HBM_PART of a stack: up to 16 ASCII characters (Table 12.8). -/
def hbmPart (k : StackId) : W128 := strOf (((hbmPartChars k).take 16).map fun c => 1 + c.val)
/-- HBM_SERIAL of a stack (R326). -/
opaque hbmSerial : StackId → W64
/-- SPARE_ROWS of a bank (Table 8.6). -/
opaque spareRows : BankId → W16
/-- VMIN_2G of a cluster above 840 mV, fused (Table 14.2). -/
opaque vminFuse : ClusterId → Fin 61
/-- VMIN_2G of a cluster in mV, 840 to 900 (Table 14.2). -/
def vmin2g (c : ClusterId) : W16 := BitVec.ofNat 16 (840 + (vminFuse c).val)
/-- LEAK_85 of a cluster in units of 0.1 W, fused (Table 14.2). -/
opaque leak85 : ClusterId → W16
/-- Whether a key hash is fused (0xA000:0A). -/
opaque fuseKeySet : Bool
/-- SHA-384 of a public key equals the fused key hash (R423); the hash itself is not modelled (log 9). -/
opaque keyHashMatches : List Byte → Bool
/-- An ECDSA P-384 signature with SHA-384 verifies: public key, signature and message (R423); log 9. -/
opaque signatureVerifies : List Byte → List Byte → List Byte → Bool
/-- The image's read from the boot flash succeeds (BOOT_FAIL reason 4; log 82). -/
opaque flashReads : Bool → Bool
/-- Byte of the boot ROM at an offset (R249): the spec does not give its contents (log 10). -/
opaque romByte : Nat → Byte
/-- CLK_HPh in MHz at LINK_SPEED 1-4: lower than 1,000 MHz, by a figure the spec does not give (Table 17.5, log 70). -/
opaque hpClock : Nat → W16
/-- The arbiter whose FREEZE the supervisor writes at an address of the internal register space (R256), in the order pseudo-channels, bank
taps, receive ports, CRC units, cluster ports, bridges, management port: the spec gives no address (log 28). -/
opaque freezeReg : Nat → Option Nat
/-! ### The PCI Express endpoint (R286, Table 11.1) -/

/-- Class code of the one physical function. -/
def classCode : BitVec 24 := 0x120000
/-- Max_Payload_Size in bytes, also the most a completion carries. -/
def maxPayload : Nat := 512
/-- Bytes of the longest read request accepted. -/
def maxRead : Nat := 4096
/-- MSI-X vectors. -/
def msixVectors : Nat := 16
/-- A link width and a LINK_SPEED to which the port trains: x1, x2, x4 or x8 at 2.5 to 32 GT/s. -/
def linkTrains (width : BitVec 4) (speed : BitVec 3) : Bool :=
  (width == 1 || width == 2 || width == 4 || width == 8) && decide (1 ≤ speed.toNat ∧ speed.toNat ≤ 5)

/-- Stepping letter and metal revision of the stepping B1, bits [15:0] of REVISION (R1, R2). -/
def dieRevision : W16 := 0x4201

end Sys2Proof.Config
end

