-- ==== Sys2Proof/Machine/State.lean ====
section
/-!
DEFINITION. The state of the FV64 as plain data, and the machine right after reset.
One structure per unit of spec/01 Table 1.1; INVENTORY.md lists every field with its rule and reset value.
-/

namespace Sys2Proof.Machine

/-- Reasons a step stops with a fault: none. Every failure the spec describes is a status, an event, a ledger record or an
exception of the part, and the machine goes on; no meaning raises a fault (safe). -/
inductive Fault
deriving DecidableEq, Repr

/-- Reasons a step is refused. -/
inductive Refusal where
  /-- An instruction with no meaning yet, by its mnemonic. Raised by `exec`'s arm for it. Safe. -/
  | notModelled (mnemonic : String)
deriving DecidableEq, Repr

/-! ### Sequencer cores (spec/06, spec/07) -/

/-- SEQ_STATE (Table 7.10). -/
inductive SeqState where
  | unbound
  | running
  | parked
  | doubleFault
  | escalated
  | recovery
  | failedSelfTest
  | stopped
deriving DecidableEq, Repr

/-- The architectural state of Table 6.1 with the window state of R160: what a context save keeps (R159). -/
structure Regs where
  /-- G0-G7. -/
  g : Vector W64 8
  /-- Sixteen windows of sixteen: register i of window w at 16w + i, A0-A7 then L0-L7 (R155). -/
  win : Vector W64 256
  ra : Vector Addr 16
  w : Vector W128 8
  f : Vector W128 8
  s : Vector W128 12
  pc : Addr
  fl : W64
  slim : W64
  vbase : W64
  vl : W64
  bc : W64
  bs : W64
  bd : W64
  cwp : Fin 16
  resident : Fin 16
  wslot : Vector W64 16
  spillTop : W64
deriving DecidableEq, Repr

/-- One data-cache line: its line number (sequencer address over 64) and its four words (R179). -/
structure CacheLine where
  line : Nat
  words : List W128
deriving DecidableEq, Repr

/-- The emergency frame (Table 7.10). -/
structure Emergency where
  reason : Byte
  pc : W64
  fl : W64
  cause : W64
  detail : W64
  g7 : W64
  win : W32
  spillTop : W64
deriving DecidableEq, Repr

/-- A vector fault whose handler's frame has not been popped (R207): the frame's G7 and the record. -/
structure OpenFault where
  frame : W64
  cause : Nat
  elem : Nat
  addr : W64
  drain : Bool
  /-- It was found at issue (R78). -/
  issue : Bool
deriving DecidableEq, Repr

/-- What the fetch unit of a deterministic VE holds: the address last fetched, and the words of its 32-byte block and of the next one that have been
read, by word number with the status that each read gave (R189). -/
structure FetchBuf where
  at' : Nat
  words : List (Nat × Nat)
deriving DecidableEq, Repr

/-- An exception entry that waits for its frame's writes (R196): vector, CODE, QUAL, DETAIL and the PC to save. -/
structure EntryDue where
  v : Nat
  code : Nat
  qual : Nat
  detail : W64
  saved : Addr
deriving DecidableEq, Repr

/-- One sequencer core. The supervisor pair uses the same structure (R191). -/
structure Core where
  r : Regs
  st : SeqState
  /-- What `st` returns to when recovery microcode ends (R212). -/
  back : SeqState
  entry : Option EntryDue
  ahead : Option FetchBuf
  emer : Emergency
  /-- Instruction-cache line numbers, most recently used first (R179). -/
  icache : List Nat
  /-- Data-cache lines, most recently used first (R179). -/
  dcache : List CacheLine
  /-- 512 two-bit counters (R182). -/
  bp : Vector (BitVec 2) 512
  cycles : W64
  retired : W64
  icMiss : W32
  dcMiss : W32
  bpMiss : W32
  spills : W32
  intEv : Byte
  intDb : Byte
  db : W32
  dbPend : Bool
  openFaults : List OpenFault
  /-- The `BARRIER` at the PC has begun to execute (R276) and its drain has ended, so the VE has arrived (R186). -/
  begunBarrier : Bool
  arrived : Bool
deriving DecidableEq, Repr

/-! ### Vector engines (spec/03, spec/05) -/

/-- A vector instruction in the issue queue with what it captured (R61). -/
structure QInstr where
  enc : W32
  vl : Nat
  desc : Vector W128 12
  vctl : W32
  fpsub : Byte
  pc : Addr
deriving DecidableEq, Repr

/-- A closed chain group in the issue queue (R65). -/
structure Group where
  ins : List QInstr
  started : Bool
  staged : Bool
  /-- Words (sequencer address over 16) that the sequencer stored to while the group was queued or running (R63). -/
  taint : List Nat
  /-- Cause, element and number of consecutive faults of this group (VF_REPEAT, R83). -/
  hist : Option (Nat × Nat × Nat)
deriving DecidableEq, Repr

/-- The vector side of one VE (Tables 3.1, 3.7, 4.x, 5.3, 15.5). -/
structure Engine where
  queue : List Group
  openIns : List QInstr
  stopped : Bool
  vfDue : Bool
  vfCause : Byte
  vfElem : W16
  vfAddr : W64
  vfPc : W64
  vfRepeat : Byte
  vfTotal : W32
  /-- The last fault was found at issue, so a bounds fault is no element's (R86). -/
  vfIssue : Bool
  stagedTotal : W32
  wdAborts : W32
  vcount : W32
  vflags : W16
  vflagsAcc : W16
  vctl : W32
  vfPos : Byte
  vfOpa : W128
  vfOpb : W128
  vfOpc : W128
  vfSubst : W128
  substEn : Bool
  substElem : W16
  substPos : Byte
  fenced : Byte
  pairMismatches : W32
  /-- The boundaries (false) and slots (true) of this design cycle that mismatched, each with its count (R389). -/
  pairLog : List ((Bool × Nat) × Nat)
deriving DecidableEq, Repr

/-- The context of logical VE `lve` that a VE of the pool saved on leaving its slot (R159, R371): the registers, where its sequencer
stood, and the vector side with its queue and its arithmetic settings (R381). -/
structure SavedCtx where
  lve : Nat
  r : Regs
  st : SeqState
  openFaults : List OpenFault
  begunBarrier : Bool
  arrived : Bool
  eng : Engine
deriving DecidableEq, Repr

/-! ### Memory and scratchpad (spec/08) -/

/-- A word whose stored bits have been upset and not yet rewritten (R220). -/
structure Latent where
  word : Nat
  flips : W128
  multi : Bool
deriving DecidableEq, Repr

/-- The stores: bytes by device address, poisoned and upset words by word number (address over 16), corrected
words waiting for their write-back, working RAM and the patrol positions. -/
structure Store where
  cells : List Host.Cell
  poison : List Nat
  latent : List Latent
  writeBack : List Nat
  ram : List Host.Cell
  /-- Next word of each stack's patrol, and of each bank's (R222). -/
  patrolStack : Vector Nat 8
  patrolBank : Vector Nat 256
deriving DecidableEq, Repr

/-- One arbiter of Table 9.3: slot priorities, the last granted slot and the supervisor's freeze source (R253, R256). -/
structure Arb where
  prio : List Nat
  last : Nat
  frozen : Bool
deriving DecidableEq, Repr

/-- One HBM stack (Table 8.4). -/
structure Stack where
  ready : Bool
  fenced : Bool
  pcFenced : W32
  temp : Byte
  hot : Bool
  ce : W32
  ue : W32
  lastUe : W64
  calSafe : BitVec 4
  /-- The group in its quiet window (R228). -/
  quiet : Option (Fin 4)
  calRec : Vector W128 4
  /-- Distinct granule rows with an uncorrectable error, per pseudo-channel (R223). -/
  ueRows : Vector (List Nat) 32
  /-- Corrected errors counted without saturation, for the event of every 256th (Table 8.5). -/
  ceSeen : Nat
  /-- Device time of each pseudo-channel's last refresh (R224). -/
  refreshedAt : Vector W64 32
  throttle : Nat
  /-- Supply and load bands as last measured (R227). -/
  vddq : Nat
  band : Vector (BitVec 2) 4
deriving DecidableEq, Repr

/-- A fragment of the new owner held at a draining bank (R234). -/
structure HeldFrag where
  frag : Frag
  /-- `none` for a read, the bytes and their enables for a write. -/
  data : Option (List Byte × List Bool)
deriving DecidableEq, Repr

/-- Who asked for a handover: its dictionary write completes at the drain's end (R234), or it is the device's own or a commit's. -/
inductive DrainFor where
  | write (r : Requester)
  | device
  | commit (part : Byte)
deriving DecidableEq, Repr

/-- One requester's debug-read entries (Table 16.4). -/
structure Dbg where
  addr : W32
  flags : Byte
deriving DecidableEq, Repr

/-- One scratchpad bank (Tables 8.6, 16.4). -/
structure Bank where
  part : Byte
  owner : Byte
  /-- The new owner of a drain in progress, with what started it. -/
  drain : Option (Byte × DrainFor)
  held : List HeldFrag
  /-- Masters of the new owner whose accesses wait at the bank beside the held fragments: fetches, loads and stores, streams and frames (R234, R258). -/
  waiters : List (BitVec 10)
  fenced : Bool
  ce : W32
  ue : W32
  nonowner : W32
  tapRetries : W32
  torn : W32
  ceSeen : Nat
  dbg : Vector Dbg 6
deriving DecidableEq, Repr

/-! ### Bus matrix (spec/09) -/

/-- One die-to-die bridge (R260): the number of fragments and responses it has sent, the highest number that its far bridge has passed on, and
what it keeps unacknowledged, by link sequence number with the master whose transaction it is. -/
structure Bridge where
  sent : Nat
  passed : Nat
  kept : List (Nat × BitVec 10)
deriving DecidableEq, Repr

/-- The matrix entries of Table 9.7 and its arbiters. -/
structure Fabric where
  remap : Bool
  remapDue : Bool
  wdTimeout : W32
  wdBreaks : W32
  sink : W32
  pcBasePrio : W64
  links : BitVec 4
  pcArb : Vector Arb 256
  tapArb : Vector Arb 256
  rxArb : Vector Arb 128
  crcArb : Vector Arb 16
  clusterArb : Vector Arb 8
  bridgeArb : Vector Arb 8
  /-- Bridge 2l + d of link l in direction d. -/
  bridges : Vector Bridge 8
  mgtArb : Arb
  /-- The master of each VE last granted in the fixed rotation at its cluster port (R251). -/
  veTurn : Vector (Fin 8) 64
  /-- Partitions that a memory or link fence has reached and whose in-flight items have still to end (R26, R241). -/
  hit : W16
  /-- Places 64q + n where INJ 0 was the injection port last granted for slot n at receive port q (R253). -/
  lastInj : List Nat
deriving DecidableEq, Repr

/-! ### Streams, jobs and partitions (spec/02, spec/10, spec/11) -/

/-- An in-stream block: its header and the payload received. -/
structure InBlock where
  seq : W32
  len : Nat
  crc : W32
  got : List W128
  /-- The block has failed and its remaining payload words pass by (R300). -/
  skip : Bool
  /-- The twin must still acknowledge the forwarded copy: its last frame's sequence number (R399). -/
  wait : Option W32
  /-- On entry 1, the image position of its first word (R450) and how many words it has put among those that wait for memory (R302). -/
  mark : Nat
  left : Nat
deriving DecidableEq, Repr

/-- A presented out block: its words, header first, how many are read, and whether it replays or ends a segment's last frame. -/
structure OutBlock where
  seq : W32
  words : List W128
  read : Nat
  replay : Bool
  last : Bool
  /-- What its completion ends: records of a ring (entries 5, 6), words of the trace ring (4), the design cycle of the frame whose last
  block it is (3), or a save whose last block it is (7); 0 for nothing. -/
  recs : Nat
deriving DecidableEq, Repr

/-- Stream entry k of a partition (Table 11.5). -/
structure Stream where
  depth : W16
  watermark : W16
  /-- Words of completed in-stream blocks not yet taken. -/
  fifo : List W128
  /-- The block in progress at the port. -/
  cur : Option InBlock
  /-- The block received whole whose item has not ended: the twin's acknowledgement is awaited (R399). -/
  recvd : List InBlock
  /-- Words held behind such a block, or behind the last block while the ledger holds: read when its item has ended, so that an entry never has two
  blocks in flight (R308, log 107). -/
  raw : List W128
  discard : Bool
  seqIn : W32
  /-- Presented blocks in reading order. -/
  out : List OutBlock
  /-- Blocks ready to present and not yet presented: result blocks of released frames, checkpoint blocks. -/
  ready : List OutBlock
  kept : List OutBlock
  seqOut : W32
  blocks : W64
  fails : W32
  emptyReads : W32
  discarded : W32
deriving DecidableEq, Repr

/-- A job descriptor in the queue (Table 11.9). -/
structure Job where
  w0 : W128
  w1 : W128
  /-- It arrived while IMAGE_STATE was 0, 1 or 4 (R28). -/
  early : Bool
deriving DecidableEq, Repr

/-- The image header (Table 2.2). -/
structure Header where
  sectCount : Nat
  lveCount : Nat
  fourState : Bool
  gated : Bool
  fold : Nat
  resultDepth : Nat
  rnMask : W64
  stateBytes : Nat
  cbmpOff : Nat
  rsltOff : Nat
  stimWords : Nat
  resultWords : Nat
  dmwMax : Nat
  energyNj : Nat
  exchSlots : Nat
  crc : W32
deriving DecidableEq, Repr

/-- A section-table entry (Table 2.3). -/
structure Section where
  kind : Nat
  lve : Nat
  space : Nat
  crc : W32
  offset : Nat
  length : Nat
deriving DecidableEq, Repr

/-- A valid image: header, sections, port map and trigger section. -/
structure Image where
  hdr : Header
  sections : List Section
  portMap : List Nat
  triggers : List W128
deriving DecidableEq, Repr

/-- Where a run stands in its design cycle: ingest, evaluation with exchange, or commit (Table 2.6). -/
inductive Phase where
  | ingest
  | evaluate
  | commit
deriving DecidableEq, Repr

/-- Progress of one exchange slot of the phase (R272). -/
inductive SlotState where
  | running (data : List W128)
  | complete
deriving DecidableEq, Repr

/-- A word that a slot of this exchange phase wrote, with the value before that write (R274). -/
structure PhaseWrite where
  addr : Nat
  old : W128
  slot : Nat
deriving DecidableEq, Repr

/-- A design-memory word write waiting for commit (R44): the logical VE, the partition-relative word address, the word and its bytes written. -/
structure DmWrite where
  lve : Nat
  addr : Nat
  data : W128
  mask : List Bool
deriving DecidableEq, Repr

/-- A design-memory undo record: its design cycle and address, the old value, and the number of its place in the journal (R45, R401). -/
structure Undo where
  cycle : Nat
  addr : Nat
  old : W128
  /-- The old value could not be read, so the record holds it as poison (log 104). -/
  bad : Bool
  place : Nat
deriving DecidableEq, Repr

/-- A committed frame not yet released, with its digest in twin mode (R37, R400). -/
structure Frame where
  cycle : Nat
  own : Option W64
  /-- Stimulus words the design cycle consumed, kept until it is agreed (R401). -/
  stim : List W128
deriving DecidableEq, Repr

/-- The trace state of a segment (spec/16). -/
structure Trace where
  state : Fin 4
  lost : W32
  cycles : W64
  /-- Die whose trigger slots the segment holds, and how many. -/
  slots : Option (DieId × Nat)
  /-- Match counters and previous values per trigger (R409). -/
  counts : List Nat
  prev : List W128
  /-- Ring words written and freed so far, since the segment's image load. -/
  head : Nat
  tail : Nat
  first : Bool
  lostPend : Bool
  /-- Records in the ring: design cycle and words (R412, R413). -/
  recs : List (Nat × Nat)
  /-- State, counters and previous values as the observation of each design cycle found them, for those not agreed (R402, R410). -/
  past : List (Nat × Fin 4 × List Nat × List W128)
deriving DecidableEq, Repr

/-- The job segment in execution. -/
structure Run where
  job : Job
  /-- Last design cycle of the segment: that of its job, or the one at which a trigger ended it (R410). -/
  last : Nat
  jobLast : Nat
  /-- Design cycle in progress. -/
  cycle : Nat
  phase : Phase
  /-- Observation of the last committed design cycle has not ended (R24, R410). -/
  obs : Bool
  trace : Bool
  det : Bool
  /-- Design cycle at which a trigger asked the segment to end (R410). -/
  brk : Bool
  /-- The frame of the last design cycle has been handed to release. -/
  draining : Bool
  /-- Stimulus words consumed by the design cycle in progress. -/
  stim : List W128
  /-- Bound VEs done in this exchange, and when the first was (R275, R276). -/
  done : List VeId
  firstDone : Option W64
  slots : List (Nat × SlotState)
  writes : List PhaseWrite
  dmq : List DmWrite
  /-- Rigging grants held: slot, receive port and the order of granting. -/
  grants : List (Nat × Nat × Nat)
  grantSeq : Nat
deriving DecidableEq, Repr

/-- A checkpoint restore in execution (R392). -/
structure Restore where
  job : Job
  words : List W128
deriving DecidableEq, Repr

/-- A held edit of an exchange slot (R281): the writer whose access waits for it, none for an edit that the primary forwarded; the design
cycle at whose release it lands, before or after a swap made there, and the table it names (R282). -/
structure Edit where
  slot : Nat
  w0 : W128
  w1 : W128
  by' : Option Requester
  due : Nat
  post : Bool
  shadow : Bool
deriving DecidableEq, Repr

/-- The partition entries that its consistency group holds in force, and the single entries. -/
structure PartCfg where
  veSet : W64
  fpsub : Byte
  deterministic : Bool
  hbmMode : Byte
  hbmStacks : Byte
  hbmBase : Byte
  hbmSize : Byte
  exchShadowSlots : W16
  exchSwap : Bool
  ownerPort : Byte
  paired : Bool
  twinMode : Bool
  barTimeout : W32
  msixEvq : Byte
  msixLedger : Byte
  msixStream : Byte
  pwrCap : W16
  weight : Byte
deriving DecidableEq, Repr

/-- The completion ledger (Table 11.11). -/
structure Ledger where
  ring : List W128
  appended : W64
  held : Bool
  failed : W32
  lastCause : W16
  /-- Oldest records of the ring and of the blocks made of it that were never copied to the present secondary (R403). -/
  uncopied : Nat
  /-- Records of a paired primary whose copies the secondary has not acknowledged, with the frame that carries each (R403). -/
  waiting : List (W32 × W128)
deriving DecidableEq, Repr

/-- One partition. -/
structure Partition where
  cfg : PartCfg
  imageState : Fin 5
  designCycle : Nat
  /-- Image words received so far of a load in progress (R29, R450). -/
  load : List W128
  /-- Image words that memory has not yet accepted, each with the space and offset it is written to, if any: the words that the FIFO of
  entry 1 holds (R302). -/
  loadQ : List (W128 × Option (Bool × Nat))
  image : Option Image
  /-- Physical VE bound to each logical VE (R35). -/
  bind : List VeId
  curBuf : Nat
  jobs : List Job
  run : Option Run
  /-- The save in execution and how many words of its checkpoint have been made into blocks (R390). -/
  save : Option (Job × Nat)
  restore : Option Restore
  /-- The first segment after a load, or the segment after a failed one, starts its sequencers afresh (R159). -/
  fresh : Bool
  /-- The banks still go to their VEs at the first job after a load (R36). -/
  handDue : Bool
  frames : List Frame
  released : Nat
  undo : List Undo
  /-- Number of the next undo record's place in the journal (R401). -/
  undoNext : Nat
  streams : Vector Stream 8
  ledger : Ledger
  armEvq : Bool
  armLedger : Bool
  armStream : Bool
  -- exchange (Table 10.3)
  exchActive : Bool
  exchTables : Vector (List (W128 × W128)) 2
  exchSlotsAct : W16
  exchEditSlot : W16
  exchEditW0 : W128
  exchEditW1 : W128
  exchWraps : W64
  exchWords : W64
  barLastNs : W32
  swapDue : Bool
  edits : List Edit
  -- power (Table 14.5)
  demand : Nat
  pwrNow : W16
  energyModel : W32
  energyUsed : W64
  usedNj : Nat
  accNj : Nat
  accCycles : Nat
  /-- Design cycles committed in the present slot, and the rate of the previous one in Hz (R364). -/
  slotCycles : Nat
  slotRate : Option Nat
  /-- Contexts in the context area (R372). -/
  saved : List SavedCtx
  charge : Nat
  -- integrity (Table 15.5)
  stateLost : Bool
  fenced : Bool
  agreed : W64
  /-- Last design cycle whose ingest the primary has ended, on a paired secondary (R399); and the primary has gone back to an earlier one since, so
  that what it reports is of the repeated design cycles (R402). -/
  farIngest : Nat
  farAgain : Bool
  /-- Digests received from the far device, by design cycle (R400). -/
  farDig : List (Nat × W64)
  /-- Job starts that the primary forwarded and that have not been made here (R382, R399). -/
  farStarts : Nat
  /-- A forwarded failure not yet applied: the primary's DESIGN_CYCLE when its segment ended, cause and detail (R434 row 6). -/
  farFail : Option (Nat × Nat × W64)
  rollbacks : W32
  mismatchAt : Nat
  mismatchRepeat : Nat
  trace : Trace
  /-- Mirror ledger of a secondary (R403). -/
  mirror : List W128
deriving DecidableEq, Repr

/-! ### Host ports (spec/11) -/

/-- Words that a full in-stream FIFO holds in the port's receive buffer, with later writes behind them (R302). -/
structure RxItem where
  part : PartId
  k : Fin 8
  words : List W128
deriving DecidableEq, Repr

/-- The configuration space of a host port as far as R286 and Table 11.1 name what it presents: the class code, the power state (D3hot or D0),
memory space enabled, MSI-X enabled and its function mask, whether ECRC is checked, and the error status of Advanced Error Reporting. -/
structure PciCfg where
  classCode : BitVec 24
  d3hot : Bool
  memOn : Bool
  msixOn : Bool
  msixMask : Bool
  ecrcCheck : Bool
  aerUncorrectable : W32
  aerCorrectable : W32
deriving DecidableEq, Repr

/-- Host port h (Tables 11.12, 12.4). -/
structure Port where
  cfg : PciCfg
  link : Fin 4
  width : Byte
  speed : Byte
  creditStalls : W32
  fenced : Bool
  rx : List RxItem
  correctable : Nat
  abortLast : W64
  abortCount : W32
  msixTable : List Byte
  msixPending : W64
  eqCal : W128
  eqOut : Bool
deriving DecidableEq, Repr

/-! ### Object dictionary and I3C (spec/12) -/

/-- A consistency group (Table 12.10). -/
inductive Grp where
  | part (p : PartId)
  | stream (p : PartId) (k : Fin 8)
  | bank (b : BankId)
  | mem
  | reef (c : ClusterId)
  | slots
deriving DecidableEq, Repr

/-- A claim: the claimant, the shadow of every member by subindex (index offset for a stream), and the last staging write's time. -/
structure Claim where
  grp : Grp
  by' : Requester
  shadow : List (Byte × W128)
  at' : W64
deriving DecidableEq, Repr

/-- An accepted commit that is pending (R331), with the design cycle at whose end it applies in a twin-mode partition (R399). -/
structure Pending where
  grp : Grp
  by' : Requester
  tag : W32
  set : List (Byte × W128)
  due : Nat
deriving DecidableEq, Repr

/-- An access that its port or the dictionary has not served yet (R302, R317). -/
inductive Access where
  | write (r : Requester) (ix : W16) (sub : Byte) (a : DAcc) (sunk : Sunk)
  | read (r : Requester) (ix : W16) (sub : Byte) (bytes off : Nat) (hit : Option SenseWrite)
  | tlpWrite (h : PortId) (a : HostAddr) (data : List Byte)
  | tlpRead (h : PortId) (a : HostAddr) (bytes : Nat)
deriving DecidableEq, Repr

/-- The requester of an access. -/
def Access.by' : Access → Requester
  | .write r _ _ _ _ => r
  | .read r _ _ _ _ _ => r
  | .tlpWrite h _ _ => h.castLE (by decide)
  | .tlpRead h _ _ => h.castLE (by decide)

/-- The dictionary's own state. -/
structure Dict where
  /-- The dictionary is open (step 8 of Table 17.2). -/
  isOpen : Bool
  stageTimeout : W32
  commits : W64
  results : Vector W64 6
  claims : List Claim
  lost : List (Grp × Requester)
  pending : List Pending
  /-- Low half of a W128 held for a requester (R314). -/
  half : Vector (Option (W16 × Byte × W64)) 6
  /-- Accesses that wait, oldest first: behind a write of their requester that is held, or behind words that their port holds. -/
  waiting : List Access
  alertCause : W32
deriving DecidableEq, Repr

/-- The I3C target (spec/12). -/
structure I3c where
  dyn : Option (BitVec 7)
  ibiOn : Bool
  mwl : W16
  mrl : W16
  ddr : Bool
  /-- SEQ of the last executed request and its response without CRC; whether it is ready, read, and whether its in-band
  interrupt is pending. -/
  lastSeq : Option Byte
  resp : List Byte
  /-- The answer to a request that was not executed, returned in place of the stored response (STATUS 0x03 and 0x04). -/
  alt : Option (List Byte)
  ready : Bool
  unread : Bool
  ibiResp : Bool
  ibiAlert : Bool
  ibiRecovery : Bool
  /-- A request is waiting on a held completion (R234, R281) or a flash write (R426). -/
  busy : Bool
deriving DecidableEq, Repr

/-! ### Events (spec/13) -/

/-- An event record in a ring (Table 13.1), whether it is still open and whether its word is lost (R344, R356). -/
structure EvRec where
  ts : W64
  detail : W32
  count : Byte
  target : Byte
  moved : Bool
  retargeted : Bool
  overflowed : Bool
  last : Bool
  seq : BitVec 12
  src : SrcId
  isOpen : Bool
  lost : Bool
  /-- The partition that TARGET 0xFE named at its arrival (R342), which a later TARGET of 0xFE resolves to (R351). -/
  part : Option PartId
deriving DecidableEq, Repr

/-- What a full ring holds back: the pending state of a source for the code that the record names (R345), or a record that waits for room as
it is (R351, R352). -/
structure Held where
  ev : EvRec
  pend : Bool
deriving DecidableEq, Repr

/-- One event ring (Table 13.4). -/
structure Ring where
  recs : List EvRec
  held : List Held
  next : BitVec 12
deriving DecidableEq, Repr

/-- Per-source configuration (Table 13.6). -/
structure SrcCfg where
  target : Byte
  coalesce : Bool
  keep : Bool
  wake : Bool
  svCopy : Bool
  arrivals : Byte
deriving DecidableEq, Repr

/-- A source latch (R344). The resolution of TARGET 0xFE at arrival is kept with it (R342). -/
structure Latch where
  src : SrcId
  ts : W64
  detail : W32
  count : Byte
  /-- Timestamp and detail are the latest arrival's; the count saturated. -/
  last : Bool
  sat : Bool
  part : Option PartId
deriving DecidableEq, Repr

/-- The event controller. -/
structure Events where
  src : Vector SrcCfg 800
  latches : List Latch
  svRing : Ring
  seqRing : Vector Ring 64
  hostRing : Vector Ring 16
  arrivalsTotal : W64
  recordsTotal : W64
  heldTotal : W32
  /-- Dies unreachable from Q0 (EC_STATE, R355). -/
  unreachable : BitVec 4
  /-- The controller has started (step 8 of Table 17.2). -/
  started : Bool
  /-- Device time of each die (R343). -/
  time : Vector W64 4
deriving DecidableEq, Repr

/-! ### Power and dispatch (spec/14) -/

/-- A reef change in progress (R359). -/
inductive ReefChange where
  /-- The rail rises to the new level's voltage while the clock runs at the old frequency. -/
  | raising (lvl : Nat)
  /-- The clock is paused and restarts at the level's frequency. -/
  | paused (lvl : Nat)
deriving DecidableEq, Repr

/-- One cluster (Tables 14.1, 14.2). -/
structure Cluster where
  row : Vector W32 8
  level : Nat
  asleep : Bool
  change : Option ReefChange
  /-- Present clock in MHz; 0 when stopped. -/
  freq : Nat
  lost : Bool
  vid : BitVec 6
  pwr : W16
  wakeReq : Bool
  csCal : W128
  csOut : Bool
  /-- Rail voltage as last measured, mV. -/
  mv : Nat
  /-- Remainder of the cycle counter's accumulation, in MHz times ns below 1000. -/
  frac : Nat
deriving DecidableEq, Repr

/-- The dispatcher. -/
structure Power where
  limit : W16
  now : W16
  tjTarget : Byte
  tjAlert : Byte
  stackTlimit : Byte
  dieTemp : Vector Byte 4
  demand : Vector Nat 4
  /-- TJ_ALERT already reported and still exceeded, per die (R374). -/
  hot : BitVec 4
  sleepEn : Bool
  ticks : W64
  step : Nat
  slots : Vector W128 64
  active : Vector W128 64
  slotsLen : Byte
  poolSet : W64
  slotNow : Byte
  wraps : W64
  /-- Ticks left of the running slot, its contents and whether it serves its partition. -/
  left : Nat
  running : Option W128
  /-- Edits of the active table for a slot's next start. -/
  edits : List (Fin 64 × W128)
  /-- Pool VEs that have not yet reached their stop point. -/
  leaving : List VeId
  /-- Partition they leave. -/
  leavingPart : Option PartId
  /-- The running slot's start waits for them (R371). -/
  due : Bool
deriving DecidableEq, Repr

/-! ### Integrity, twin and trace (spec/15, spec/16) -/

/-- A run held by a CRC unit (R384). -/
structure CrcRun where
  poly : BitVec 2
  tag : W64
  expected : W64
  cmp : Bool
  left : Nat
deriving DecidableEq, Repr

/-- CRC unit u (Table 15.2). -/
structure CrcUnit where
  fenced : Bool
  master : BitVec 10
  runs : W64
  mismatches : W32
  last : W64
  reg : W64
  run : Option CrcRun
deriving DecidableEq, Repr

/-- Where the resync item stands (R406). -/
inductive ResyncPhase where
  | whole
  | pass (n : Nat)
  | hold
deriving DecidableEq, Repr

/-- A twin resync item. -/
structure Resync where
  tag : W32
  phase : ResyncPhase
  /-- The copy of the whole memory still waits for an arbiter that makes no grant (R256). -/
  due : Bool
deriving DecidableEq, Repr

/-- The twin engine and the Sundov link (Table 15.7, R396). -/
structure Twin where
  primary : Bool
  state : Fin 7
  mapBase : W64
  resends : W32
  linkUp : Bool
  sendSeq : W32
  recvSeq : W32
  unacked : List (W32 × Byte × List W128)
  fatal : Bool
  detachDue : Bool
  resync : Option Resync
  /-- Words received of a list of the resync copy that is not yet whole (R406, log 76). -/
  buf : List W128
  /-- The far device's state and revision as last reported, and whether it has been reset since it served (R406). -/
  farState : Fin 7
  farRevision : W32
  farFresh : Bool
  /-- This device has been reset since it last served. -/
  selfFresh : Bool
  /-- Device time at which the link was lost, while the presence wait runs (R405). -/
  lostAt : Option W64
deriving DecidableEq, Repr

/-- Debug freeze (Table 16.5). -/
structure Freeze where
  holdN : Bool
  dbg : Bool
  state : Fin 3
  ns : W64
  trigFree : Vector Nat 4
  startAt : W64
deriving DecidableEq, Repr

/-- The lockstep pair (Table 7.14, R386). -/
structure Lockstep where
  state : Fin 3
  mismatches : W32
  lastPc : W64
  patchId : W32
  patchUsed : Byte
  /-- Patch set: sixteen match words and 128 microwords (R214). -/
  patchMatch : List W32
  patchWords : List W32
  repeatAt : Option Addr
  repeats : Nat
  /-- Retired count when the last mismatch resumed. -/
  atRetired : W64
  /-- Device times of the mismatches within the last second. -/
  recent : List W64
  fenceNotice : Bool
  dictRequest : Bool
deriving DecidableEq, Repr

/-! ### Boot (spec/17) -/

/-- Boot and recovery state (Table 17.7). -/
structure Boot where
  pwrok : Bool
  /-- The device is held in reset. -/
  inReset : Bool
  /-- The device as a whole is lost (R26, R376). -/
  lost : Bool
  state : Nat
  /-- Next step of Table 17.2 to complete, 1-8; 9 when all have. -/
  step : Nat
  slot : Nat
  fail : W32
  cause : Nat
  ms : W32
  fwA : W32
  fwB : W32
  /-- BOOTSEL[1:0] as sampled at the last power-on or package reset, and the level on its pins (R425). -/
  bootsel : BitVec 2
  bootPins : BitVec 2
  /-- PLLs that have lost lock since the last reset (R430). -/
  pllGone : W32
  pllLock : W32
  pllLosses : W32
  flashA : List Byte
  flashB : List Byte
  /-- Image being received over I3C: target, declared size and bytes by offset (R426). -/
  incoming : Option (Nat × Nat × List (Nat × Byte))
  recDone : Bool
  flashBusy : Option Nat
  softDue : Bool
  /-- Header of the running firmware image. -/
  fwMajor : Byte
  fwMinor : Byte
  entry : W32
  warm : W32
  thermtrip : Bool
  twinPresentN : Bool
deriving DecidableEq, Repr

/-! ### The whole state -/

/-- What the part puts on its pins and ports (the model's own record of outputs; log 5). -/
inductive Out where
  /-- Completion of a read through a host port: data, or Unsupported Request. -/
  | cpl (h : PortId) (data : List W128)
  | unsupported (h : PortId)
  /-- Answer of the dictionary to a requester: the value read, done, or an abort code. -/
  | dictRead (r : Requester) (v : W128)
  | dictDone (r : Requester)
  | abort (r : Requester) (code : W16)
  /-- Response of a memory target to a fragment: words read, and status 0 done, 4 bounds, 5 ownership, 6 uncorrectable, 7 poison, 8 fenced. -/
  | bus (master : BitVec 10) (tag : BitVec 5) (data : List W128) (status : Nat)
  /-- A register read by its own core. -/
  | block (c : CoreId) (v : W128)
  /-- The message of an MSI-X vector: the address and data of its table entry (R287). -/
  | msix (h : PortId) (vector : Byte) (addr : W64) (data : W32)
  | i3c (bytes : List Byte)
  | i3cNack
  | ibi (bytes : List Byte)
  | frame (kind : Byte) (f : SFrame)
  | crcResult (master : BitVec 10) (v : W64)
  | tap (b : BankId) (data : List W128) (busy : Bool) (status : Nat)
deriving DecidableEq, Repr

/-- The state of the device. -/
structure State where
  boot : Boot
  seq : Vector Core 64
  eng : Vector Engine 64
  sv : Core
  ls : Lockstep
  mem : Store
  stk : Vector Stack 8
  banks : Vector Bank 256
  ceTotal : W32
  ueTotal : W32
  wideGib : Byte
  scrubHours : Byte
  pcUeLimit : Byte
  bankUeLimit : Byte
  atomicOps : W64
  fab : Fabric
  parts : Vector Partition 16
  ports : Vector Port 4
  dict : Dict
  i3c : I3c
  ev : Events
  clusters : Vector Cluster 8
  pw : Power
  crc : Vector CrcUnit 16
  twin : Twin
  fz : Freeze
  dieFenced : BitVec 4
  outs : List Out
  free : Nat
  pending : List Instr
deriving DecidableEq, Repr

/-! ### Reset -/

/-- The registers of a core at a sequencer start (R159): all zero, VL 1, one window resident, none spilled. -/
def Regs.start : Regs where
  g := .replicate 8 0
  win := .replicate 256 0
  ra := .replicate 16 0
  w := .replicate 8 0
  f := .replicate 8 0
  s := .replicate 12 0
  pc := 0
  fl := 0
  slim := 0
  vbase := 0
  vl := 1
  bc := 0
  bs := 0
  bd := 0
  cwp := 0
  resident := 1
  wslot := .replicate 16 0
  spillTop := 1

/-- Emergency frame after reset (Table 7.10). -/
def Emergency.reset : Emergency :=
  { reason := 0, pc := 0, fl := 0, cause := 0, detail := 0, g7 := 0, win := 0, spillTop := 1 }

/-- A core after reset (Tables 6.10, 7.6, 7.10; caches and predictor empty, counters weakly not taken, R182). -/
def Core.reset : Core where
  r := .start
  st := .unbound
  back := .unbound
  entry := none
  ahead := none
  emer := .reset
  icache := []
  dcache := []
  bp := .replicate 512 1
  cycles := 0
  retired := 0
  icMiss := 0
  dcMiss := 0
  bpMiss := 0
  spills := 0
  intEv := 2
  intDb := 4
  db := 0
  dbPend := false
  openFaults := []
  begunBarrier := false
  arrived := false

/-- The vector side of a VE after reset (Tables 3.7, 5.3, 15.5). -/
def Engine.reset : Engine where
  queue := []
  openIns := []
  stopped := false
  vfDue := false
  vfCause := 0
  vfElem := 0
  vfAddr := 0
  vfPc := 0
  vfRepeat := 0
  vfTotal := 0
  vfIssue := false
  stagedTotal := 0
  wdAborts := 0
  vcount := 0
  vflags := 0
  vflagsAcc := 0
  vctl := 0
  vfPos := 0
  vfOpa := 0
  vfOpb := 0
  vfOpc := 0
  vfSubst := 0
  substEn := false
  substElem := 0
  substPos := 0
  fenced := 0
  pairMismatches := 0
  pairLog := []

/-- The stores after reset: nothing listed. -/
def Store.reset : Store where
  cells := []
  poison := []
  latent := []
  writeBack := []
  ram := []
  patrolStack := .replicate 8 0
  patrolBank := .replicate 256 0

/-- An arbiter with `n` slots after reset: every priority at its base of zero, last grant at the last slot. -/
def Arb.reset (n : Nat) : Arb := { prio := List.replicate n 0, last := n - 1, frozen := false }

/-- A stack after reset (Table 8.4). -/
def Stack.reset : Stack where
  ready := false
  fenced := false
  pcFenced := 0
  temp := 0
  hot := false
  ce := 0
  ue := 0
  lastUe := 0
  calSafe := 0
  quiet := none
  calRec := .replicate 4 0
  ueRows := .replicate 32 []
  ceSeen := 0
  refreshedAt := .replicate 32 0
  throttle := 0
  vddq := 0
  band := .replicate 4 0

/-- A bank after reset (Tables 8.6, 16.4). -/
def Bank.reset : Bank where
  part := 0xFF
  owner := 0
  drain := none
  held := []
  waiters := []
  fenced := false
  ce := 0
  ue := 0
  nonowner := 0
  tapRetries := 0
  torn := 0
  ceSeen := 0
  dbg := .replicate 6 { addr := 0, flags := 0 }

/-- The bus matrix after reset (Table 9.7). -/
def Fabric.reset : Fabric where
  remap := false
  remapDue := false
  wdTimeout := 10000
  wdBreaks := 0
  sink := 0
  pcBasePrio := 0
  links := 0
  pcArb := .replicate 256 (.reset 16)
  tapArb := .replicate 256 (.reset 5)
  rxArb := .replicate 128 (.reset 64)
  crcArb := .replicate 16 (.reset 16)
  clusterArb := .replicate 8 (.reset 8)
  bridgeArb := .replicate 8 (.reset 16)
  bridges := .replicate 8 { sent := 0, passed := 0, kept := [] }
  mgtArb := .reset 16
  veTurn := .replicate 64 6
  hit := 0
  lastInj := []

/-- A stream entry after reset (Table 11.5). -/
def Stream.reset : Stream where
  depth := 1024
  watermark := 256
  fifo := []
  cur := none
  recvd := []
  raw := []
  discard := false
  seqIn := 0
  out := []
  ready := []
  kept := []
  seqOut := 0
  blocks := 0
  fails := 0
  emptyReads := 0
  discarded := 0

/-- A partition's trace state after reset (Table 16.5). -/
def Trace.reset : Trace where
  state := 0
  lost := 0
  cycles := 0
  slots := none
  counts := []
  prev := []
  head := 0
  tail := 0
  first := true
  lostPend := false
  recs := []
  past := []

/-- The configuration of partition `p` after reset (Tables 8.1, 10.3, 11.3, 12.6, 14.5, 15.5). -/
def PartCfg.reset (p : PartId) : PartCfg where
  veSet := 0
  fpsub := 0
  deterministic := false
  hbmMode := 0
  hbmStacks := 0
  hbmBase := 0
  hbmSize := 0
  exchShadowSlots := 0
  exchSwap := false
  ownerPort := BitVec.ofNat 8 (p.val / 4)
  paired := false
  twinMode := false
  barTimeout := 100000
  msixEvq := 0xFF
  msixLedger := 0xFF
  msixStream := 0xFF
  pwrCap := 0
  weight := 16

/-- Partition `p` after reset. -/
def Partition.reset (p : PartId) : Partition where
  cfg := .reset p
  imageState := 0
  designCycle := 0
  load := []
  loadQ := []
  image := none
  bind := []
  curBuf := 0
  jobs := []
  run := none
  save := none
  restore := none
  fresh := true
  handDue := false
  frames := []
  released := 0
  undo := []
  undoNext := 0
  streams := .replicate 8 .reset
  ledger := { ring := [], appended := 0, held := false, failed := 0, lastCause := 0, uncopied := 0, waiting := [] }
  armEvq := true
  armLedger := true
  armStream := true
  exchActive := false
  exchTables := .replicate 2 []
  exchSlotsAct := 0
  exchEditSlot := 0
  exchEditW0 := 0
  exchEditW1 := 0
  exchWraps := 0
  exchWords := 0
  barLastNs := 0
  swapDue := false
  edits := []
  demand := 0
  pwrNow := 0
  energyModel := 0
  energyUsed := 0
  usedNj := 0
  accNj := 0
  accCycles := 0
  slotCycles := 0
  slotRate := none
  saved := []
  charge := 0
  stateLost := false
  fenced := false
  agreed := 0
  farIngest := 0
  farAgain := false
  farDig := []
  farStarts := 0
  farFail := none
  rollbacks := 0
  mismatchAt := 0
  mismatchRepeat := 0
  trace := .reset
  mirror := []

/-- Configuration space after a reset of the port (R286, R288): D0, nothing enabled, no error logged (log 101). -/
def PciCfg.reset : PciCfg :=
  { classCode := Config.classCode, d3hot := false, memOn := false, msixOn := false, msixMask := false, ecrcCheck := false
    aerUncorrectable := 0, aerCorrectable := 0 }

/-- The MSI-X table after reset: every vector masked, addresses and data zero (log 91). -/
def msixTableReset : List Byte := (List.range 256).map fun i => if i % 16 = 12 then 1 else 0

/-- A host port after reset (Tables 11.12, 12.4). -/
def Port.reset : Port where
  cfg := .reset
  link := 0
  width := 0
  speed := 0
  creditStalls := 0
  fenced := false
  rx := []
  correctable := 0
  abortLast := 0
  abortCount := 0
  msixTable := msixTableReset
  msixPending := 0
  eqCal := 0
  eqOut := false

/-- The dictionary after reset: closed until step 8 of Table 17.2. -/
def Dict.reset : Dict where
  isOpen := false
  stageTimeout := 1000
  commits := 0
  results := .replicate 6 0
  claims := []
  lost := []
  pending := []
  half := .replicate 6 none
  waiting := []
  alertCause := 0

/-- The I3C target after reset (R334, R335): no dynamic address, in-band interrupts enabled as MIPI I3C Basic has them (log 40). -/
def I3c.reset : I3c where
  dyn := none
  ibiOn := true
  mwl := 256
  mrl := 256
  ddr := false
  lastSeq := none
  resp := []
  alt := none
  ready := false
  unread := false
  ibiResp := false
  ibiAlert := false
  ibiRecovery := false
  busy := false

/-- An empty ring (R347). -/
def Ring.reset : Ring := { recs := [], held := [], next := 0 }

/-- The default TARGET of source `x` (Table 13.2). -/
def SrcCfg.defaultTarget (x : Nat) : Byte :=
  if x < 512 then 0xFE else if 608 ≤ x ∧ x < 672 then 0xFE else 0

/-- Source `x` after reset (Tables 13.2, 13.6). -/
def SrcCfg.reset (x : Nat) : SrcCfg where
  target := SrcCfg.defaultTarget x
  coalesce := !(720 ≤ x && x < 736)
  keep := false
  wake := true
  svCopy := false
  arrivals := 0

/-- The event controller after reset (Tables 13.4-13.6). -/
def Events.reset : Events where
  src := .ofFn fun x => .reset x.val
  latches := []
  svRing := .reset
  seqRing := .replicate 64 .reset
  hostRing := .replicate 16 .reset
  arrivalsTotal := 0
  recordsTotal := 0
  heldTotal := 0
  unreachable := 0
  started := false
  time := .replicate 4 0

/-- REEF_ROW entry of a level: VOLT in [25:16], FREQ in [11:0] (Table 14.2). -/
def reefEntry (freq volt : Nat) : W32 := BitVec.ofNat 32 (volt * 65536 + freq)

/-- The default reef row (Table 14.1). -/
def reefDefault : Vector W32 8 :=
  #v[reefEntry 2000 900, reefEntry 1800 860, reefEntry 1600 820, reefEntry 1400 780,
     reefEntry 1200 740, reefEntry 1000 700, reefEntry 800 650, reefEntry 600 600]

/-- A cluster after reset: level 7, code 0 on its rail (Table 14.2, R440). -/
def Cluster.reset : Cluster where
  row := reefDefault
  level := 7
  asleep := false
  change := none
  freq := 600
  lost := false
  vid := 0
  pwr := 0
  wakeReq := false
  csCal := 0
  csOut := false
  mv := 600
  frac := 0

/-- The default dispatch slot: EMPTY, TICKS 1 (Table 14.6). -/
def slotDefault : W128 := 0x00000000000000000000100000000010

/-- The dispatcher after reset (Tables 14.6, 14.7). -/
def Power.reset : Power where
  limit := 900
  now := 0
  tjTarget := 95
  tjAlert := 105
  stackTlimit := 95
  dieTemp := .replicate 4 0
  demand := .replicate 4 0
  hot := 0
  sleepEn := true
  ticks := 0
  step := 0
  slots := .replicate 64 slotDefault
  active := .replicate 64 slotDefault
  slotsLen := 1
  poolSet := 0
  slotNow := 0
  wraps := 0
  left := 0
  running := none
  edits := []
  leaving := []
  leavingPart := none
  due := false

/-- A CRC unit after reset (Table 15.2). -/
def CrcUnit.reset : CrcUnit where
  fenced := false
  master := 0x3FF
  runs := 0
  mismatches := 0
  last := 0
  reg := 0
  run := none

/-- The twin engine after reset (Table 15.7); TWIN_ROLE as sampled. -/
def Twin.reset (primary : Bool) : Twin where
  primary := primary
  state := 0
  mapBase := 0
  resends := 0
  linkUp := false
  sendSeq := 0
  recvSeq := 0
  unacked := []
  fatal := false
  detachDue := false
  resync := none
  buf := []
  farState := 0
  farRevision := 0
  farFresh := false
  selfFresh := true
  lostAt := none

/-- The freeze and trace entries after reset (Table 16.5). -/
def Freeze.reset : Freeze where
  holdN := false
  dbg := false
  state := 0
  ns := 0
  trigFree := .replicate 4 64
  startAt := 0

/-- The lockstep pair after reset (Table 7.14). -/
def Lockstep.reset : Lockstep where
  state := 0
  mismatches := 0
  lastPc := 0
  patchId := 0
  patchUsed := 0
  patchMatch := List.replicate 16 0
  patchWords := List.replicate 128 0
  repeatAt := none
  repeats := 0
  atRetired := 0
  recent := []
  fenceNotice := false
  dictRequest := false

/-- Boot state at the first step of Table 17.2 after a power-on reset (Table 17.7). -/
def Boot.reset (bootsel : BitVec 2) : Boot where
  pwrok := true
  inReset := false
  lost := false
  state := 0
  step := 1
  slot := 0
  fail := 0
  cause := 0
  ms := 0
  fwA := 0
  fwB := 0
  bootsel := bootsel
  bootPins := bootsel
  pllGone := 0
  pllLock := 0
  pllLosses := 0
  flashA := []
  flashB := []
  incoming := none
  recDone := false
  flashBusy := none
  softDue := false
  fwMajor := 0
  fwMinor := 0
  entry := 0
  warm := 0
  thermtrip := false
  twinPresentN := true

/-- The machine after a power-on reset that sampled BOOTSEL and TWIN_ROLE (R418, Table 17.1), with its queue empty. -/
def State.powerOn (bootsel : BitVec 2) (twinRole : Bool) : State where
  boot := .reset bootsel
  seq := .replicate 64 .reset
  eng := .replicate 64 .reset
  sv := .reset
  ls := .reset
  mem := .reset
  stk := .replicate 8 .reset
  banks := .replicate 256 .reset
  ceTotal := 0
  ueTotal := 0
  wideGib := 24
  scrubHours := 24
  pcUeLimit := 4
  bankUeLimit := 4
  atomicOps := 0
  fab := .reset
  parts := .ofFn fun p => .reset p
  ports := .replicate 4 .reset
  dict := .reset
  i3c := .reset
  ev := .reset
  clusters := .replicate 8 .reset
  pw := .reset
  crc := .replicate 16 .reset
  twin := .reset twinRole
  fz := .reset
  dieFenced := 0
  outs := []
  free := 0
  pending := []

/-- The machine right after reset: PWROK has risen, BOOTSEL and TWIN_ROLE read 0, and boot step 1 is under way (log 1). -/
def State.reset : State := State.powerOn 0 false

end Sys2Proof.Machine
end

