-- ==== Sys2Proof/Machine/Bits.lean ====
section
/-!
DEFINITION. Bit fields, byte order, counters and small list operations that every unit uses (R3-R9: little-endian fields).
-/

namespace Sys2Proof.Machine

/-- Bits `hi` down to `lo` of `x` as a number. -/
def fld {n : Nat} (x : BitVec n) (hi lo : Nat) : Nat := (x.toNat >>> lo) % 2 ^ (hi + 1 - lo)

/-- Bit `i` of `x`. -/
def bit {n : Nat} (x : BitVec n) (i : Nat) : Bool := x.toNat.testBit i

/-- `b` as the bit vector 1 or 0. -/
def ofBit {n : Nat} (b : Bool) : BitVec n := if b then 1 else 0

/-- `x` with bit `i` set to `b`. -/
def setBit {n : Nat} (x : BitVec n) (i : Nat) (b : Bool) : BitVec n :=
  if b then x ||| BitVec.ofNat n (2 ^ i) else x &&& ~~~ BitVec.ofNat n (2 ^ i)

/-- `v` placed at bit `lo` of an `n`-bit value whose other bits are zero. -/
def at' (n lo v : Nat) : BitVec n := BitVec.ofNat n (v <<< lo)

/-- One more, held at the largest value (the saturating counters of the spec). -/
def satInc {n : Nat} (x : BitVec n) : BitVec n := if x = BitVec.allOnes n then x else x + 1

/-- `k` more, held at the largest value. -/
def satAdd {n : Nat} (x : BitVec n) (k : Nat) : BitVec n :=
  if x.toNat + k < 2 ^ n then BitVec.ofNat n (x.toNat + k) else BitVec.allOnes n

/-- Byte `i` of `x`, byte 0 the least significant. -/
def byteOf {n : Nat} (x : BitVec n) (i : Nat) : Byte := BitVec.ofNat 8 (x.toNat >>> (8 * i))

/-- The `k` low bytes of `x`, least significant first (little-endian). -/
def bytesOf {n : Nat} (x : BitVec n) (k : Nat) : List Byte := (List.range k).map (byteOf x)

/-- The number that bytes spell, least significant first. -/
def natOfBytes : List Byte → Nat
  | [] => 0
  | b :: bs => b.toNat + 256 * natOfBytes bs

/-- The 128-bit word that sixteen bytes spell, least significant first. -/
def wordOfBytes (bs : List Byte) : W128 := BitVec.ofNat 128 (natOfBytes bs)

/-- `x` sign-extended from `k` bits to `n` bits. -/
def sext (n k : Nat) (x : Nat) : BitVec n := ((BitVec.ofNat k x).signExtend n)

/-- The signed reading of a `k`-bit field. -/
def sint (k : Nat) (x : Nat) : Int := (BitVec.ofNat k x).toInt

/-- Ceiling division. -/
def cdiv (a b : Nat) : Nat := (a + b - 1) / b

/-- Element `i` of a vector changed by `f`. -/
def updV {α : Type} {n : Nat} (v : Vector α n) (i : Fin n) (f : α → α) : Vector α n := v.set i (f v[i])

/-- Element `i` of a list, with a default. -/
def nth {α : Type} (l : List α) (i : Nat) (d : α) : α := l.getD i d

/-- Element `i` of a list changed by `f`. -/
def updL {α : Type} (l : List α) (i : Nat) (f : α → α) : List α := l.modify i f

/-- Insertion into a strictly ascending list of numbers. -/
def insertAsc (x : Nat) : List Nat → List Nat
  | [] => [x]
  | y :: ys => if x < y then x :: y :: ys else if x = y then y :: ys else y :: insertAsc x ys

/-- Numbers below `n` whose bit is set in `x`, ascending. -/
def bitsSet {w : Nat} (x : BitVec w) (n : Nat) : List Nat := (List.range n).filter fun i => bit x i

/-- The VEs whose bit is set, ascending. -/
def vesOf (x : W64) : List VeId := (List.finRange 64).filter fun i => bit x i.val

/-- The least element of a list by a key, the first on ties. -/
def argMin {α : Type} (key : α → Nat) : List α → Option α
  | [] => none
  | x :: xs =>
    match argMin key xs with
    | none => some x
    | some y => if key y < key x then some y else some x

/-- `xs` cut into pieces of `n` (the last may be shorter). -/
def chunks {α : Type} (n : Nat) (xs : List α) : List (List α) :=
  (List.range (cdiv xs.length n)).map fun i => (xs.drop (i * n)).take n

/-- XOR of all bits of a number below `2^n`. -/
def parity (n x : Nat) : Bool := (List.range n).foldl (fun acc i => acc != x.testBit i) false

end Sys2Proof.Machine
end

