-- ==== Sys2Proof/Machine/Crc.lean ====
section
/-!
DEFINITION. The CRCs of Table 15.1, with the tag folded into the initial value (R299, R384), and the fold-in-free forms of R30 and R337.
-/

namespace Sys2Proof.Machine

/-- One bit of a reflected CRC. -/
def crcBitR (poly r : W64) : W64 := if r.getLsbD 0 then (r >>> 1) ^^^ poly else r >>> 1

/-- One bit of a non-reflected CRC of `w` bits. -/
def crcBitN (w : Nat) (poly r : W64) : W64 :=
  let m : W64 := BitVec.ofNat 64 (2 ^ w - 1)
  if r.getLsbD (w - 1) then ((r <<< 1) ^^^ poly) &&& m else (r <<< 1) &&& m

/-- `f` applied `n` times. -/
def iter {α : Type} (f : α → α) : Nat → α → α
  | 0, x => x
  | n + 1, x => iter f n (f x)

/-- One byte of a reflected CRC. -/
def crcByteR (poly r : W64) (b : Byte) : W64 := iter (crcBitR poly) 8 (r ^^^ b.setWidth 64)

/-- One byte of a non-reflected CRC of `w` bits. -/
def crcByteN (w : Nat) (poly r : W64) (b : Byte) : W64 := iter (crcBitN w poly) 8 (r ^^^ (b.setWidth 64 <<< (w - 8)))

/-- Width of POLY (Table 15.1). -/
def crcWidth (p : BitVec 2) : Nat := if p = 0 then 16 else if p = 3 then 64 else 32

/-- Initial value of POLY (Table 15.1). -/
def crcInit (p : BitVec 2) : W64 := if p = 0 then 0xFFFF else if p = 3 then 0 else 0xFFFFFFFF

/-- The register at a run's start: the initial value xor the low bits of the tag (R384). -/
def crcStart (p : BitVec 2) (tag : W64) : W64 := crcInit p ^^^ (tag &&& BitVec.ofNat 64 (2 ^ crcWidth p - 1))

/-- The register after a byte. -/
def crcStep (p : BitVec 2) (r : W64) (b : Byte) : W64 :=
  if p = 0 then crcByteN 16 0x1021 r b
  else if p = 1 then crcByteR 0xEDB88320 r b
  else if p = 2 then crcByteR 0x82F63B78 r b
  else crcByteN 64 0x42F0E1EBA9EA3693 r b

/-- The result after the final XOR (Table 15.1). -/
def crcFinal (p : BitVec 2) (r : W64) : W64 := if p = 1 ∨ p = 2 then r ^^^ 0xFFFFFFFF else r

/-- The CRC of bytes under POLY with a tag (R384). -/
def crcOf (p : BitVec 2) (tag : W64) (bs : List Byte) : W64 := crcFinal p (bs.foldl (crcStep p) (crcStart p tag))

/-- The bytes of words in ascending address order. -/
def bytesOfWords (ws : List W128) : List Byte := ws.flatMap fun w => bytesOf w 16

/-- CRC-32C without fold-in (R30). -/
def crc32c (bs : List Byte) : W32 := (crcOf 2 0 bs).setWidth 32

/-- CRC-32C of words with SEQ folded in (R299). -/
def crcBlock (seq : W32) (ws : List W128) : W32 := (crcOf 2 (seq.setWidth 64) (bytesOfWords ws)).setWidth 32

/-- CRC-16/CCITT of an I3C frame (R337). -/
def crc16 (bs : List Byte) : W16 := (crcOf 0 0 bs).setWidth 16

end Sys2Proof.Machine
end

