-- ==== Sys2Proof/Machine/Ops.lean ====
section
/-!
DEFINITION. The named operations on the state that every family uses: access to one unit, outputs, free values, device time,
raising an event and an alert, and the ledger's counters.
-/

namespace Sys2Proof.Machine

/-- VE `n`'s die (R16). -/
def dieOfVe (n : VeId) : DieId := ⟨n.val / 16, by omega⟩
/-- VE `n`'s cluster (R16). -/
def clusterOfVe (n : VeId) : ClusterId := ⟨n.val / 8, by omega⟩
/-- Cluster `c`'s die (R16). -/
def dieOfCluster (c : ClusterId) : DieId := ⟨c.val / 2, by omega⟩
/-- Bank `b`'s die (R17). -/
def dieOfBank (b : BankId) : DieId := ⟨b.val / 64, by omega⟩
/-- Stack `s`'s die (R18). -/
def dieOfStack (s : StackId) : DieId := ⟨s.val / 2, by omega⟩
/-- The RN engines are VE 8c + 7 (R16). -/
def isRn (n : VeId) : Bool := n.val % 8 == 7

/-- One sequencer core changed. -/
def modSeq (s : State) (n : VeId) (f : Core → Core) : State := { s with seq := updV s.seq n f }
/-- One VE's vector side changed. -/
def modEng (s : State) (n : VeId) (f : Engine → Engine) : State := { s with eng := updV s.eng n f }
/-- One partition changed. -/
def modPart (s : State) (p : PartId) (f : Partition → Partition) : State := { s with parts := updV s.parts p f }
/-- One bank changed. -/
def modBank (s : State) (b : BankId) (f : Bank → Bank) : State := { s with banks := updV s.banks b f }
/-- One stack changed. -/
def modStack (s : State) (i : StackId) (f : Stack → Stack) : State := { s with stk := updV s.stk i f }
/-- One host port changed. -/
def modPort (s : State) (h : PortId) (f : Port → Port) : State := { s with ports := updV s.ports h f }
/-- One cluster changed. -/
def modCluster (s : State) (c : ClusterId) (f : Cluster → Cluster) : State := { s with clusters := updV s.clusters c f }
/-- One CRC unit changed. -/
def modCrc (s : State) (u : CrcId) (f : CrcUnit → CrcUnit) : State := { s with crc := updV s.crc u f }
/-- One stream entry changed. -/
def modStream (s : State) (p : PartId) (k : Fin 8) (f : Stream → Stream) : State :=
  modPart s p fun q => { q with streams := updV q.streams k f }

/-- The core an instruction runs on. -/
def core (s : State) (c : CoreId) : Core :=
  match c with
  | .ve n => s.seq[n]
  | .sv => s.sv

/-- That core changed. -/
def modCore (s : State) (c : CoreId) (f : Core → Core) : State :=
  match c with
  | .ve n => modSeq s n f
  | .sv => { s with sv := f s.sv }

/-- Its registers changed. -/
def modRegs (s : State) (c : CoreId) (f : Regs → Regs) : State := modCore s c fun k => { k with r := f k.r }

/-- One more output of the part (log 5). -/
def emit (s : State) (o : Out) : State := { s with outs := s.outs ++ [o] }

/-- A free 128-bit value, and the state with the next one due (R10, log 2). -/
def drawWord (s : State) : W128 × State := (Config.freeWord s.free, { s with free := s.free + 1 })
/-- A free choice, and the state with the next one due (R10, log 2). -/
def drawNat (s : State) : Nat × State := (Config.freeNat s.free, { s with free := s.free + 1 })

/-- Device time on die `d` in ns since reset (R343). -/
def timeOn (s : State) (d : DieId) : W64 := s.ev.time[d]
/-- Device time on Q0, TIME_NOW (Table 13.5). -/
def timeNow (s : State) : W64 := s.ev.time[(0 : Fin 4)]

/-- VE_PARTITION of VE `n`: the partition whose VE_SET holds it (Table 12.6). -/
def vePartition (s : State) (n : VeId) : Option PartId :=
  (List.finRange 16).find? fun p => bit s.parts[p].cfg.veSet n.val

/-- The partition that the running dispatch slot serves, if pool VE `n` serves it (Table 14.4). -/
def slotPartOf (s : State) (n : VeId) : Option PartId :=
  match s.pw.running with
  | some w => if bit w 4 || !bit w (64 + n.val) then none else some (Fin.ofNat 16 (fld w 3 0))
  | none => none

/-- The partition for which VE `n` executes: the one bound to it with a segment in execution; for a VE of the shared pool the one its
dispatch slot served; otherwise VE_PARTITION (R342). -/
def execPart (s : State) (n : VeId) : Option PartId :=
  match (List.finRange 16).find? fun p => s.parts[p].bind.contains n && (s.parts[p].run.isSome || bit s.pw.poolSet n.val) with
  | some p => some p
  | none => if bit s.pw.poolSet n.val then slotPartOf s n else vePartition s n

/-- The partition a bank belongs to, if its PARTITION names one (R232). -/
def bankPart (s : State) (b : BankId) : Option PartId :=
  if h : s.banks[b].part.toNat < 16 then some ⟨s.banks[b].part.toNat, h⟩ else none

/-- The partition TARGET 0xFE names for an arrival of source `x` with detail `dt` (R342). -/
def srcPartition (s : State) (x : SrcId) (dt : W32) : Option PartId :=
  if h : x.val < 512 then execPart s ⟨x.val / 8, by omega⟩
  else if h : 608 ≤ x.val ∧ x.val < 672 then bankPart s ⟨(x.val - 608) * 4 + fld dt 27 26, by
    have : fld dt 27 26 < 4 := by unfold fld; exact Nat.mod_lt _ (by decide)
    omega⟩
  else none

/-- Die on which a source arises, for its timestamp (R343, Table 13.2). -/
def srcDie (x : SrcId) : DieId :=
  if x.val < 512 then ⟨x.val / 128 % 4, by omega⟩
  else if x.val < 576 then ⟨(x.val - 512) / 16 % 4, by omega⟩
  else if x.val < 608 then ⟨(x.val - 576) / 8 % 4, by omega⟩
  else if x.val < 672 then ⟨(x.val - 608) / 16 % 4, by omega⟩
  else if 704 ≤ x.val && x.val < 720 then 3
  else if 736 ≤ x.val && x.val < 768 then ⟨(x.val - 736) / 8 % 4, by omega⟩
  else if 768 ≤ x.val && x.val < 784 then ⟨(x.val - 768) / 4 % 4, by omega⟩
  else 0

/-- The ALERT_CAUSE bit an event sets (R327, Table 12.9): [0] supervisor double fault, [1] fence or unreachable die,
[2] thermal, [4] lockstep pair fenced. Bit 3 follows TWIN_STATE (`toTwinState`). -/
def alertBit (x : SrcId) (dt : W32) : Option Nat :=
  if x.val = 725 ∨ x.val = 721 then some 1
  else if x.val = 727 then some 4
  else if x.val = 723 ∧ fld dt 31 24 = 3 then some 0
  else if 672 ≤ x.val ∧ x.val < 676 then some 2
  else if 512 ≤ x.val ∧ x.val < 576 ∧ x.val % 8 = 5 then some 2
  else none

/-- An in-band interrupt can be raised: the target has a dynamic address and interrupts are enabled (R335, R338). -/
def ibiCan (s : State) : Bool := s.i3c.ibiOn && s.i3c.dyn.isSome

/-- ALERT_CAUSE gains a bit; a bit becoming set raises the in-band interrupt 0x02, or leaves it pending while disabled (R339). -/
def setAlert (s : State) (i : Nat) : State :=
  let c := setBit s.dict.alertCause i true
  let s1 := { s with dict := { s.dict with alertCause := c } }
  if bit s.dict.alertCause i then s1
  else if ibiCan s then emit s1 (.ibi ((0x02 : Byte) :: bytesOf c 4))
  else { s1 with i3c := { s1.i3c with ibiAlert := true } }

/-- TWIN_STATE takes a value; a change sets ALERT_CAUSE[3] (R327, Table 12.9). -/
def toTwinState (s : State) (st : Fin 7) : State :=
  let s1 := { s with twin := { s.twin with state := st } }
  if s.twin.state ≠ st ∧ s.ev.started then setAlert s1 3 else s1

/-- The response that a held I3C request waits for is ready: the in-band interrupt 0x01 is raised, or left pending while disabled (R338). A
later request that still waits has replaced it. -/
def i3cReady (s : State) : State :=
  if !s.i3c.busy || s.dict.waiting.any (·.by' == 4) then s
  else
    let s1 := { s with i3c := { s.i3c with busy := false, ready := true, unread := true } }
    if ibiCan s then emit s1 (.ibi [0x01]) else { s1 with i3c := { s1.i3c with ibiResp := true } }

/-- A response that completes a request, without its CRC (Table 12.13). -/
def respDone (seq : Byte) (data : List Byte) : List Byte := [0x00, seq, BitVec.ofNat 8 data.length] ++ data
/-- A response that refuses a request. -/
def respRefused (seq : Byte) (code : Nat) : List Byte := [0x01, seq, 2, BitVec.ofNat 8 code, BitVec.ofNat 8 (code / 256)]

/-- ABORT_LAST and ABORT_COUNT of a host port take a refusal (R318, R320). -/
def portAbort (s : State) (h : PortId) (ix sub : Nat) (write : Bool) (code : Nat) : State :=
  modPort s h fun t =>
    { t with abortLast := at' 64 48 ix ||| at' 64 40 sub ||| at' 64 32 write.toNat ||| BitVec.ofNat 64 code, abortCount := satInc t.abortCount }

/-- A refusal reaches its requester (R318). -/
def dictRefuse (s : State) (r : Requester) (ix sub : Nat) (write : Bool) (code : Nat) : State :=
  if r.val = 4 then
    i3cReady { s with i3c := { s.i3c with busy := true, ready := false, resp := respRefused (s.i3c.lastSeq.getD 0) code } }
  else
    let s1 := if h : r.val < 4 then portAbort s ⟨r.val, h⟩ ix sub write code else s
    emit s1 (.abort r (BitVec.ofNat 16 code))

/-- A dictionary write of requester `r` that was held is refused. Management's answer is that of the request it waits for: where a later request has
replaced it, the refusal reaches nobody (R338). -/
def refuseHeld (s : State) (r : Requester) (ix sub code : Nat) : State :=
  if r.val = 4 ∧ (!s.i3c.busy || s.dict.waiting.any (·.by' == 4)) then s else dictRefuse s r ix sub true code

/-- A held dictionary write of requester `r` completes (R234, R281). -/
def dictFinish (s : State) (r : Requester) : State := if r.val = 4 then i3cReady s else emit s (.dictDone r)

/-- ALERT_N is asserted while any cause bit is set (R327). -/
def alertN (s : State) : Bool := s.dict.alertCause != 0

/-- An arrival written to its latch, merging with one not yet forwarded (R344). -/
def latchIn (keep : Bool) (l : Latch) : List Latch → List Latch
  | [] => [l]
  | m :: ms =>
    if m.src = l.src then
      (if keep then { l with count := satInc m.count, last := true, sat := m.sat || m.count == 255 }
       else { m with count := satInc m.count, sat := m.sat || m.count == 255 }) :: ms
    else m :: latchIn keep l ms

/-- A unit raises event `x` with detail `dt`: the latch is written, and its alert bit is set once the controller has started. -/
def raise (s : State) (x : SrcId) (dt : W32) : State :=
  let l : Latch := { src := x, ts := timeOn s (srcDie x), detail := dt, count := 1, last := false, sat := false, part := srcPartition s x dt }
  let s1 := { s with ev := { s.ev with latches := latchIn s.ev.src[x].keep l s.ev.latches } }
  match alertBit x dt with
  | some i => if s.ev.started then setAlert s1 i else s1
  | none => s1

/-- `raise` on a computed source number; numbers from 800 name no source. -/
def raiseN (s : State) (x : Nat) (dt : W32) : State :=
  if h : x < 800 then raise s ⟨x, h⟩ dt else s

/-- The device serves nothing: PWROK low, held in reset, or lost as a whole (R26, R376, R419). -/
def dead (s : State) : Bool := !s.boot.pwrok || s.boot.inReset || s.boot.lost

/-- The debug freeze is in force: FREEZE_STATE is 1 or 2 (R415, Table 18.1). -/
def frozen (s : State) : Bool := s.fz.state != 0

/-- The clock of cluster `c` runs: not asleep, lost, paused by a reef change or frozen. -/
def clockRuns (s : State) (c : ClusterId) : Bool :=
  let k := s.clusters[c]
  !dead s && !k.asleep && !k.lost && !frozen s &&
    (match k.change with | some (.paused _) => false | _ => true)

/-- Add a counter value to the responses absorbed by sinks, with event 787 when there was one (R261). -/
def sinkResponses (s : State) (master sunk : Nat) : State :=
  if sunk = 0 then s
  else raiseN { s with fab := { s.fab with sink := satAdd s.fab.sink sunk } } 787
    (at' 32 0 master ||| at' 32 10 sunk)

/-- Responses that master `m`'s sink absorbs. -/
def sunkOf (l : Sunk) (m : Nat) : Nat := ((l.find? fun x => x.1.toNat == m).map (·.2.val)).getD 0

/-- The sinks of VE `n`'s masters with units below `k` absorb their responses, each with its event (R261). -/
def sinkVe (s : State) (n : VeId) (k : Nat) (l : Sunk) : State :=
  (List.range k).foldl (fun t u => sinkResponses t (8 * n.val + u) (sunkOf l (8 * n.val + u))) s

end Sys2Proof.Machine
end

