-- ==== Sys2Proof/Machine/Memory.lean ====
section
/-!
DEFINITION. HBM and scratchpad: where an address lives (R31, R217, R219), the canonical byte store, check bits and poison
(R220-R222), ownership (R235), fences of memory (R223, R239, R240) and the memory-side atomics (R225, R226).
Every access of every unit goes through `readWord`, `tapWord`, `writeWord` or `atomicWord`.
-/

namespace Sys2Proof.Machine

/-- First HBM device address (R217). -/
def hbmLo : Nat := 0x1000000000
/-- One past the last HBM device address. -/
def hbmHi : Nat := 0x4000000000
/-- First scratchpad device address (R17). -/
def spLo : Nat := 0x40000000
/-- One past the last scratchpad device address. -/
def spHi : Nat := 0x80000000
/-- Bytes of one bank (R17). -/
def bankBytes : Nat := 0x400000
/-- One GiB. -/
def gib : Nat := 0x40000000

/-! ### The byte store -/

/-- The byte at address `a`; an address that nothing lists reads 0 (log 3). -/
def cellGet : List Host.Cell → Nat → Byte
  | [], _ => 0
  | (x, v) :: r, a => if a < x then 0 else if a = x then v else cellGet r a

/-- Address `a` set to `v`, in canonical form: addresses strictly rising, no entry of 0. -/
def cellSet : List Host.Cell → Nat → Byte → List Host.Cell
  | [], a, v => if v = 0 then [] else [(a, v)]
  | (x, w) :: r, a, v =>
    if a < x then (if v = 0 then (x, w) :: r else (a, v) :: (x, w) :: r)
    else if a = x then (if v = 0 then r else (a, v) :: r)
    else (x, w) :: cellSet r a v

/-- Bytes set from address `a` upward. -/
def cellsSet (m : List Host.Cell) (a : Nat) : List Byte → List Host.Cell
  | [] => m
  | b :: bs => cellsSet (cellSet m a b) (a + 1) bs

/-- `n` bytes from address `a`. -/
def cellsGet (m : List Host.Cell) (a n : Nat) : List Byte := (List.range n).map fun i => cellGet m (a + i)

/-- The canonical form of a byte store. -/
def cellsWf : List Host.Cell → Bool
  | [] => true
  | [(_, v)] => v != 0
  | (a, v) :: (b, w) :: r => v != 0 && decide (a < b) && cellsWf ((b, w) :: r)

/-- The 16-byte word with word number `w` (address over 16). -/
def wordGet (m : Store) (w : Nat) : W128 := wordOfBytes (cellsGet m.cells (16 * w) 16)

/-- That word stored with its poison bit clear and fresh check bits: any upset and waiting write-back of it end (R221, R222). -/
def wordSet (m : Store) (w : Nat) (v : W128) : Store :=
  { m with
    cells := cellsSet m.cells (16 * w) (bytesOf v 16)
    poison := m.poison.filter (· ≠ w)
    latent := m.latent.filter (·.word ≠ w)
    writeBack := m.writeBack.filter (· ≠ w) }

/-- That word stored with its poison bit set. -/
def wordPoison (m : Store) (w : Nat) (v : W128) : Store :=
  let m1 := wordSet m w v
  { m1 with poison := insertAsc w m1.poison }

/-- An upset added to the word's stored bits; a second upset of a word makes it a multi-bit error (R220). -/
def addUpset (m : Store) (u : Upset) : Store :=
  match m.latent.find? (·.word = u.word) with
  | some l => { m with latent := { word := u.word, flips := l.flips ^^^ u.flips, multi := true } :: m.latent.filter (·.word ≠ u.word) }
  | none => { m with latent := { word := u.word, flips := u.flips, multi := u.multi } :: m.latent }

/-- Upsets that an access finds. -/
def addUpsets (s : State) (us : List Upset) : State := { s with mem := us.foldl addUpset s.mem }

/-! ### Where an address lives -/

/-- Physical place of an HBM byte (R217). -/
structure HbmLoc where
  stack : Nat
  c : Nat
  row : Nat
  word : Nat
deriving DecidableEq, Repr

/-- R217, with `w` = WIDE_GIB and `a` the device address less the HBM base. -/
def hbmLoc (w a : Nat) : HbmLoc :=
  if a < w * 2 ^ 33 then
    let g := a / 256
    let q := (g % 256) ^^^ (g / 2 ^ 8 % 256) ^^^ (g / 2 ^ 16 % 256) ^^^ (g / 2 ^ 24 % 256)
    { stack := q / 32, c := q % 32, row := g / 256, word := a / 16 % 16 }
  else
    let l := a - w * 2 ^ 33
    let per := (24 - w) * gib
    let g := l % per / 256
    let c := (g % 32) ^^^ (g / 2 ^ 5 % 32) ^^^ (g / 2 ^ 10 % 32) ^^^ (g / 2 ^ 15 % 32) ^^^ (g / 2 ^ 20 % 32) ^^^ (g / 2 ^ 25 % 32)
    { stack := l / per, c := c, row := w * 2 ^ 17 + g / 32, word := a / 16 % 16 }

/-- Device address of a physical place: the inverse of R217. -/
def hbmAddr (w st c row word : Nat) : Nat :=
  if row < w * 2 ^ 17 then
    let q := 32 * st + c
    let lo := q ^^^ (row % 256) ^^^ (row / 2 ^ 8 % 256) ^^^ (row / 2 ^ 16 % 256)
    hbmLo + (row * 256 + lo) * 256 + 16 * word
  else
    let r := row - w * 2 ^ 17
    let lo := c ^^^ (r % 32) ^^^ (r / 2 ^ 5 % 32) ^^^ (r / 2 ^ 10 % 32) ^^^ (r / 2 ^ 15 % 32) ^^^ (r / 2 ^ 20 % 32)
    hbmLo + w * 2 ^ 33 + st * ((24 - w) * gib) + (r * 32 + lo) * 256 + 16 * word

/-- Where the byte at device address `a` lies once WIDE_GIB goes from `w` to `v`: the address that names its physical place (R217). -/
def rehome (w v a : Nat) : Nat :=
  if hbmLo ≤ a ∧ a < hbmHi then
    let l := hbmLoc w (a - hbmLo)
    hbmAddr v l.stack l.c l.row l.word + a % 16
  else a

/-- The stores after a change of WIDE_GIB: every word keeps its physical place and takes the device address that now names it (R217). -/
def Store.rehome (m : Store) (w v : Nat) : Store :=
  let word (x : Nat) : Nat := Machine.rehome w v (16 * x) / 16
  { m with
    cells := m.cells.foldl (fun c x => cellSet c (Machine.rehome w v x.1) x.2) []
    poison := m.poison.foldl (fun l x => insertAsc (word x) l) []
    latent := m.latent.map fun l => { l with word := word l.word }
    writeBack := m.writeBack.foldl (fun l x => insertAsc (word x) l) [] }

/-- What serves a device address: a pseudo-channel of a stack, or a bank's owner port. -/
inductive MemUnit where
  | pc (s : StackId) (c : Fin 32) (row word : Nat)
  | bank (b : BankId)
deriving DecidableEq, Repr

/-- The unit that serves device address `a`, if the address exists. -/
def unitOf (s : State) (a : Nat) : Option MemUnit :=
  if spLo ≤ a ∧ a < spHi then some (.bank (Fin.ofNat 256 ((a - spLo) / bankBytes)))
  else if hbmLo ≤ a ∧ a < hbmHi then
    let l := hbmLoc s.wideGib.toNat (a - hbmLo)
    some (.pc (Fin.ofNat 8 l.stack) (Fin.ofNat 32 l.c) l.row l.word)
  else none

/-- A partition's banks in ascending bank number (R31, R232). -/
def partBanks (s : State) (p : PartId) : List BankId :=
  (List.finRange 256).filter fun b => s.banks[b].part.toNat = p.val

/-- Lowest stack of a stack set, and its size (R218). -/
def stackSet (x : Byte) : Nat × Nat :=
  let l := bitsSet x 8
  (l.headD 0, l.length)

/-- Device address of a partition-relative HBM offset below the limit (R219). -/
def hbmDev (w : Nat) (c : PartCfg) (x : Nat) : Nat :=
  if c.hbmMode = 0 then hbmLo + c.hbmBase.toNat * gib + x
  else
    let (s0, k) := stackSet c.hbmStacks
    let g := x / 256
    let st := s0 + g % k
    let ls := c.hbmBase.toNat * gib + g / k * 256 + x % 256
    hbmLo + w * 2 ^ 33 + st * ((24 - w) * gib) + ls

/-- Device address of a partition-relative offset in a space, or none outside the partition's bounds (R31, R57, R219). -/
def partDev (s : State) (p : PartId) (space : Bool) (x : Nat) : Option Nat :=
  if space then
    match (partBanks s p)[x / bankBytes]? with
    | some b => some (spLo + b.val * bankBytes + x % bankBytes)
    | none => none
  else
    let c := s.parts[p].cfg
    if x < c.hbmSize.toNat * gib then some (hbmDev s.wideGib.toNat c x) else none

/-- The partition's limit in a space, in bytes (R57). -/
def partLimit (s : State) (p : PartId) (space : Bool) : Nat :=
  if space then (partBanks s p).length * bankBytes else s.parts[p].cfg.hbmSize.toNat * gib

/-! ### Die-to-die reachability (R21) -/

/-- The ring position of a die along Q0, Q1, Q3, Q2. -/
def ringPos (d : Nat) : Nat := if d = 2 then 3 else if d = 3 then 2 else d

/-- Links crossed going forward round the ring from position `a` to position `b`: link i joins positions i and i + 1. -/
def arcLinks (a b : Nat) : List Nat := (List.range ((b + 4 - a) % 4)).map fun i => (a + i) % 4

/-- The dies can reach one another by one side of the ring at least (R21). -/
def reachable (s : State) (a b : Nat) : Bool :=
  let x := ringPos a
  let y := ringPos b
  (arcLinks x y).all (fun i => !bit s.fab.links i) || (arcLinks y x).all (fun i => !bit s.fab.links i)

/-- The way between two dies (R21): their shared link, or between opposite dies the way through link 0; the other way round the ring when
that is cut. Each link is given with its direction, 0 forward round the ring. -/
def diePath (s : State) (a b : Nat) : Option (List (Nat × Nat)) :=
  let x := ringPos a
  let y := ringPos b
  let fwd := (arcLinks x y).map fun i => (i, 0)
  let bwd := (arcLinks y x).reverse.map fun i => (i, 1)
  let ok (l : List (Nat × Nat)) : Bool := l.all fun i => !bit s.fab.links i.1
  let first := if fwd.length < bwd.length ∨ (fwd.length = bwd.length ∧ fwd.any (·.1 == 0)) then fwd else bwd
  let other := if first = fwd then bwd else fwd
  if ok first then some first else if ok other then some other else none

/-- Hops between two dies by the links in service (R21, R247). -/
def dieHops (s : State) (a b : Nat) : Option Nat := (diePath s a b).map (·.length)

/-- Die of the unit. -/
def unitDie : MemUnit → Nat
  | .pc st _ _ _ => st.val / 2
  | .bank b => b.val / 64

/-- The unit is fenced, or out of reach from die `d` (R21, R239). -/
def unitFenced (s : State) (d : Nat) (u : MemUnit) : Bool :=
  !reachable s d (unitDie u) ||
  match u with
  | .pc st c _ _ => s.stk[st].fenced || bit s.stk[st].pcFenced c.val
  | .bank b => s.banks[b].fenced

/-! ### Fences of memory (R239, R240, R393) -/

/-- Event 725 and the supervisor's fence notice (R393): kind, number and reason. -/
def fenceEvent (s : State) (kind number reason : Nat) : State :=
  raiseN { s with ls := { s.ls with fenceNotice := true } } 725 (at' 32 28 kind ||| at' 32 16 number ||| at' 32 8 reason)

/-- Partitions that the fence of a stack's memory reaches (R241). -/
def stackReach (s : State) (st : StackId) : W16 :=
  BitVec.ofNat 16 (((List.finRange 16).filter fun p =>
    let c := s.parts[p].cfg
    c.hbmSize != 0 && (c.hbmMode == 0 || bit c.hbmStacks st.val)).map fun p => 2 ^ p.val).sum

/-- The in-flight items of the given partitions are to end (R26, Table 15.4). -/
def hitParts (s : State) (m : W16) : State := { s with fab := { s.fab with hit := s.fab.hit ||| m } }

/-- A pseudo-channel is fenced (R239, Table 8.5 event 6). -/
def fencePc (s : State) (st : StackId) (c reason : Nat) : State :=
  if bit s.stk[st].pcFenced c then s
  else
    let s1 := modStack (hitParts s (stackReach s st)) st fun k => { k with pcFenced := setBit k.pcFenced c true }
    fenceEvent (raiseN s1 (518 + 8 * st.val) (at' 32 0 c ||| at' 32 8 reason)) 3 (32 * st.val + c) reason

/-- A stack and all its pseudo-channels are fenced (R240, Table 8.5 event 7). -/
def fenceStack (s : State) (st : StackId) (reason : Nat) : State :=
  if s.stk[st].fenced then s
  else
    let s1 := modStack (hitParts s (stackReach s st)) st fun k => { k with fenced := true, pcFenced := BitVec.allOnes 32, quiet := none }
    fenceEvent (raiseN s1 (519 + 8 * st.val) (at' 32 8 reason)) 4 st.val reason

/-- The bank-group event of R236: kind, bank, requester's code, and a word or fence reason. -/
def bankEvent (s : State) (b : BankId) (kind code low : Nat) : State :=
  raiseN s (608 + b.val / 4) (at' 32 28 kind ||| at' 32 26 (b.val % 4) ||| at' 32 18 code ||| BitVec.ofNat 32 (low % 2 ^ 18))

/-- A bank is fenced (R239, R236 kind 6): a handover under way ends with it, and held requests return the fenced status. -/
def fenceBank (s : State) (b : BankId) (reason : Nat) : State :=
  if s.banks[b].fenced then s
  else
    let s0 := hitParts s (match bankPart s b with | some p => BitVec.ofNat 16 (2 ^ p.val) | none => 0)
    let sh := s.banks[b].held.foldl (fun t h => emit t (.bus h.frag.master h.frag.tag [] 8)) s0
    let s1 := modBank sh b fun k => { k with fenced := true, drain := none, held := [], waiters := [] }
    let s2 := match s.banks[b].drain with
      | some (_, .write r) => refuseHeld s1 r (0x5000 + b.val) 2 0x0008
      | _ => s1
    fenceEvent (bankEvent s2 b 6 0 reason) 2 b.val reason

/-! ### What a read finds (R220-R223) -/

/-- The ECC layout of a stack event's detail (R231). -/
def eccDetail (c row word : Nat) : W32 := at' 32 27 c ||| at' 32 5 (row % 2 ^ 22) ||| BitVec.ofNat 32 (word % 16)

/-- A corrected error: counted, reported the first time and every 256th, and queued for write-back (R220, R222, R231, R236). -/
def corrected (s : State) (u : MemUnit) (code w : Nat) : State :=
  let s0 := { s with ceTotal := satInc s.ceTotal, mem := { s.mem with writeBack := insertAsc w s.mem.writeBack } }
  match u with
  | .pc st c row word =>
    let n := s.stk[st].ceSeen
    let s1 := modStack s0 st fun k => { k with ce := satInc k.ce, ceSeen := n + 1 }
    if n % 256 = 0 then raiseN s1 (512 + 8 * st.val) (eccDetail c.val row word) else s1
  | .bank b =>
    let n := s.banks[b].ceSeen
    let s1 := modBank s0 b fun k => { k with ce := satInc k.ce, ceSeen := n + 1 }
    if n % 256 = 0 then bankEvent s1 b 3 code (w % 2 ^ 18) else s1

/-- The requests of the given masters that wait at banks are withdrawn without effect, and their tags are free again (R261). -/
def withdraw (s : State) (who : Nat → Bool) : State :=
  { s with banks := s.banks.map fun k =>
    { k with held := k.held.filter fun h => !who h.frag.master.toNat, waiters := k.waiters.filter fun m => !who m.toNat } }

/-- The masters of VE `n` with units below `k` (Table 9.1): 4 for its stream units, 7 for all. -/
def veMasters (n : VeId) (k : Nat) (m : Nat) : Bool := decide (m < 512) && decide (m / 8 = n.val) && decide (m % 8 < k)

/-- An uncorrectable error: counted and reported, the word rewritten with its poison bit set over the data as read, and the
unit fenced when it reaches its limit (R221, R223). -/
def uncorrectable (s : State) (u : MemUnit) (code w : Nat) (asRead : W128) : State :=
  let s0 := { s with ueTotal := satInc s.ueTotal, mem := wordPoison s.mem w asRead }
  match u with
  | .pc st c row word =>
    let rows := insertAsc row s.stk[st].ueRows[c]
    let s1 := modStack s0 st fun k =>
      { k with ue := satInc k.ue, lastUe := BitVec.ofNat 64 (16 * w), ueRows := updV k.ueRows c fun _ => rows }
    let s2 := raiseN s1 (513 + 8 * st.val) (eccDetail c.val row word)
    if s.pcUeLimit ≠ 0 ∧ s.pcUeLimit.toNat ≤ rows.length then fencePc s2 st c.val 1 else s2
  | .bank b =>
    let s1 := modBank s0 b fun k => { k with ue := satInc k.ue }
    let s2 := bankEvent s1 b 4 code (w % 2 ^ 18)
    if s.bankUeLimit ≠ 0 ∧ s.bankUeLimit.toNat ≤ s1.banks[b].ue.toNat then fenceBank s2 b 1 else s2

/-- A read of a poisoned word is reported (Table 8.5 event 2, R236 kind 5). -/
def poisonedRead (s : State) (u : MemUnit) (code w : Nat) : State :=
  match u with
  | .pc st c row word => raiseN s (514 + 8 * st.val) (eccDetail c.val row word)
  | .bank b => bankEvent s b 5 code (w % 2 ^ 18)

/-- The outcome of an access: data, status (0 done; 4 bounds, 5 ownership, 6 uncorrectable, 7 poison, 8 fenced as the
VF_CAUSE codes; 9 held at a draining bank, or on its way at an arbiter that makes no grant) and the state after it. -/
structure Acc where
  data : W128
  status : Nat
  s : State

/-- The ECC part of a read of word `w` at unit `u` (R220, R221). -/
def checkWord (s : State) (u : MemUnit) (code w : Nat) : Acc :=
  let v := wordGet s.mem w
  match s.mem.latent.find? (·.word = w) with
  | some l =>
    if l.multi then
      let bad := v ^^^ l.flips
      { data := bad, status := 6, s := uncorrectable s u code w bad }
    else if s.mem.poison.contains w then { data := v, status := 7, s := poisonedRead (corrected s u code w) u code w }
    else { data := v, status := 0, s := corrected s u code w }
  | none =>
    if s.mem.poison.contains w then { data := v, status := 7, s := poisonedRead s u code w }
    else { data := v, status := 0, s := s }

/-- How a bank's owner port meets a request with owner code `code` (R234, R235): 0 served, 5 refused as non-owner, 9 held. -/
def ownerCheck (k : Bank) (code : Nat) : Nat :=
  match k.drain with
  | some (new, _) => if new.toNat = code then (if k.owner.toNat = code then 0 else 9) else 5
  | none => if k.owner.toNat = code then 0 else 5

/-- A non-owner access: counted and reported (R235, R236). -/
def nonOwner (s : State) (b : BankId) (code w : Nat) (write : Bool) : State :=
  bankEvent (modBank s b fun k => { k with nonowner := satInc k.nonowner }) b (if write then 2 else 1) code (w % 2 ^ 18)

/-- A read of the 16-byte word at device address `a` by a master on die `d` with owner code `code` (R220, R235, R239). -/
def readWord (s : State) (d code a : Nat) : Acc :=
  match unitOf s a with
  | none => { data := 0, status := 4, s := s }
  | some u =>
    if unitFenced s d u then { data := 0, status := 8, s := s }
    else
      match u with
      | .bank b =>
        match ownerCheck s.banks[b] code with
        | 0 => checkWord s u code (a / 16)
        | 9 => { data := 0, status := 9, s := s }
        | _ => { data := 0, status := 5, s := nonOwner s b code (a / 16) false }
      | .pc _ _ _ _ => checkWord s u code (a / 16)

/-- A tap-port read from die `d` of the word at device address `a` in bank `b`: no ownership check (R237). -/
def tapWord (s : State) (d : Nat) (b : BankId) (code a : Nat) : Acc :=
  if unitFenced s d (.bank b) then { data := BitVec.allOnes 128, status := 8, s := s }
  else checkWord s (.bank b) code (a / 16)

/-- An atomic OR of the device's own on the HBM word at address `a`, issued from die `d`: nothing is applied to a fenced or bad word (R226). -/
def orWord (s : State) (d a : Nat) (v : W128) : State :=
  match unitOf s a with
  | some (.pc st c row word) =>
    if unitFenced s d (.pc st c row word) then s
    else
      let r := checkWord s (.pc st c row word) 0 (a / 16)
      if r.status ≠ 0 then r.s else { r.s with mem := wordSet r.s.mem (a / 16) (r.data ||| v), atomicOps := r.s.atomicOps + 1 }
  | _ => s

/-- Dirty-granule tracking of a resync (R406): an accepted write to a twin-mode partition's HBM sets its granule's bit. -/
def dirtyMark (s : State) (a : Nat) : State :=
  match s.twin.resync with
  | none => s
  | some _ =>
    if s.twin.mapBase = 0 ∨ a < hbmLo ∨ hbmHi ≤ a then s
    else
      let inside := (List.finRange 16).any fun p =>
        let c := s.parts[p].cfg
        c.twinMode && (if c.hbmMode = 0 then
            decide (hbmLo + c.hbmBase.toNat * gib ≤ a ∧ a < hbmLo + (c.hbmBase.toNat + c.hbmSize.toNat) * gib)
          else
            let w := s.wideGib.toNat
            let x := a - hbmLo - w * 2 ^ 33
            let per := (24 - w) * gib
            decide (hbmLo + w * 2 ^ 33 ≤ a) && bit c.hbmStacks (x / per) &&
              decide (c.hbmBase.toNat * gib ≤ x % per ∧ x % per < (c.hbmBase.toNat + c.hbmSize.toNat / (stackSet c.hbmStacks).2) * gib))
      if inside then
        let g := (a - hbmLo) / 65536
        orWord s 3 (s.twin.mapBase.toNat / 16 * 16 + g / 128 * 16) (BitVec.ofNat 128 (2 ^ (g % 128)))
      else s

/-- Bytes of `old` replaced by those of `new` where the mask says so, byte 0 first. -/
def mergeBytes (old new : W128) (mask : List Bool) : W128 :=
  wordOfBytes ((List.range 16).map fun i => if nth mask i false then byteOf new i else byteOf old i)

/-- A write of the masked bytes of the word at device address `a`; a whole word clears poison, a narrower write is a
read-modify-write that a bad word discards (R221, R235, R239). -/
def writeMasked (s : State) (d code a : Nat) (v : W128) (mask : List Bool) : Acc :=
  match unitOf s a with
  | none => { data := 0, status := 4, s := s }
  | some u =>
    if unitFenced s d u then { data := 0, status := 8, s := s }
    else
      let own : Nat := match u with
        | .bank b => ownerCheck s.banks[b] code
        | .pc _ _ _ _ => 0
      if own = 9 then { data := 0, status := 9, s := s }
      else if own ≠ 0 then
        match u with
        | .bank b => { data := 0, status := 5, s := nonOwner s b code (a / 16) true }
        | .pc _ _ _ _ => { data := 0, status := 5, s := s }
      else if (List.range 16).all (fun i => nth mask i false) then
        { data := 0, status := 0, s := dirtyMark { s with mem := wordSet s.mem (a / 16) v } a }
      else
        let r := checkWord s u code (a / 16)
        if r.status ≠ 0 then { data := 0, status := r.status, s := r.s }
        else { data := 0, status := 0, s := dirtyMark { r.s with mem := wordSet r.s.mem (a / 16) (mergeBytes r.data v mask) } a }

/-- A write of a whole word. -/
def writeWord (s : State) (d code a : Nat) (v : W128) : Acc := writeMasked s d code a v (List.replicate 16 true)

/-- A whole word stored with its poison bit set over `v`, for a copy whose source is bad (log 104): as a write, nothing is stored in a fenced unit
(R239), and the dirty map is marked (R406). -/
def writePoison (s : State) (d a : Nat) (v : W128) : Acc :=
  match unitOf s a with
  | none => { data := 0, status := 4, s := s }
  | some u =>
    if unitFenced s d u then { data := 0, status := 8, s := s }
    else { data := 0, status := 0, s := dirtyMark { s with mem := wordPoison s.mem (a / 16) v } a }

/-- An atomic on the HBM word at device address `a` (R225, R226): the old word, or a status with no update; scratchpad and
addresses that do not exist give the bounds status. -/
def atomicWord (s : State) (d a : Nat) (f : W128 → W128) : Acc :=
  match unitOf s a with
  | some (.pc st c row word) =>
    if unitFenced s d (.pc st c row word) then { data := 0, status := 8, s := s }
    else
      let r := checkWord s (.pc st c row word) 0 (a / 16)
      if r.status ≠ 0 then r
      else
        { data := r.data, status := 0,
          s := dirtyMark { r.s with mem := wordSet r.s.mem (a / 16) (f r.data), atomicOps := r.s.atomicOps + 1 } a }
  | _ => { data := 0, status := 4, s := s }

/-! ### Owner codes and partitions' memory -/

/-- The owner code of VE `n` (R233); in paired mode the pair's leader's (R388). -/
def veCode (s : State) (n : VeId) : Nat :=
  match execPart s n with
  | some p => if s.parts[p].cfg.paired then 0x40 + n.val / 2 * 2 else 0x40 + n.val
  | none => 0x40 + n.val

/-- Any bank, pseudo-channel or stack of the partition's memory is fenced (R241). -/
def partMemFenced (s : State) (p : PartId) : Bool :=
  let c := s.parts[p].cfg
  ((List.finRange 8).any fun st =>
    (s.stk[st].fenced || s.stk[st].pcFenced != 0) && c.hbmSize != 0 && (c.hbmMode == 0 || bit c.hbmStacks st.val)) ||
  (partBanks s p).any fun b => s.banks[b].fenced

end Sys2Proof.Machine
end

