-- ==== Sys2Proof/Machine/Ledger.lean ====
section
/-!
DEFINITION. Stream levels (R295, R303), interrupt messages (R294), Sundov frames (Table 15.6) and the completion ledger (R307, R308, R403).
-/

namespace Sys2Proof.Machine

/-! ### Levels -/

/-- Words of presented blocks not yet read (AVAIL, Table 11.5). -/
def outAvail (st : Stream) : Nat := (st.out.map fun b => b.words.length - b.read).sum

/-- Words the out-stream side holds: presented blocks stay whole until they complete (R288). -/
def outHeld (st : Stream) : Nat := (st.out.map fun b => b.words.length).sum

/-- Words the in-stream side holds: those of received blocks, a block in progress with its header, and what came behind a block in flight. Entry 1 drains as memory accepts
its words, so its level is the words that wait to drain (R302). -/
def inLevel (q : Partition) (k : Fin 8) : Nat :=
  let st := q.streams[k]
  if k.val = 1 then q.loadQ.length + st.raw.length
  else st.fifo.length + st.raw.length + (st.recvd.map fun b => b.got.length).sum +
    (match st.cur with | some c => if c.skip then 0 else c.got.length + 1 | none => 0)

/-- Stream entry `k` is read as its in-stream side now: entries 0-2, and 7 while a restore executes (R295). -/
def actsIn (q : Partition) (k : Fin 8) : Bool := k.val ≤ 2 || (k.val == 7 && q.restore.isSome)

/-- Stimulus words consumed by design cycles not yet agreed (R401). -/
def stimHeld (q : Partition) : Nat :=
  (q.frames.map fun f => f.stim.length).sum + (match q.run with | some r => r.stim.length | none => 0)

/-- The partition runs in twin mode: TWIN_MODE 1 and TWIN_STATE 3 (R397). -/
def twinActive (s : State) (p : PartId) : Bool := s.parts[p].cfg.twinMode && s.twin.state == 3

/-- LEVEL of stream entry `k` (Table 11.5, R401). -/
def streamLevel (s : State) (p : PartId) (k : Fin 8) : Nat :=
  let q := s.parts[p]
  let st := q.streams[k]
  if actsIn q k then inLevel q k + (if k.val = 2 ∧ twinActive s p then stimHeld q else 0) else outHeld st

/-- CREDIT: DEPTH less LEVEL on an in-stream entry, 0 on an out-stream entry (Table 11.5). -/
def streamCredit (s : State) (p : PartId) (k : Fin 8) : Nat :=
  if actsIn s.parts[p] k then s.parts[p].streams[k].depth.toNat - streamLevel s p k else 0

/-- The host port that owns a partition (R292). -/
def ownerOf (s : State) (p : PartId) : PortId := Fin.ofNat 4 s.parts[p].cfg.ownerPort.toNat

/-- The partition's port serves it: not fenced. -/
def portServes (s : State) (p : PartId) : Bool := !s.ports[ownerOf s p].fenced

/-! ### Interrupt messages -/

/-- STREAM holds (R294). -/
def streamCond (s : State) (p : PartId) : Bool :=
  (List.finRange 8).any fun k =>
    let st := s.parts[p].streams[k]
    if actsIn s.parts[p] k then decide (st.watermark.toNat ≤ streamCredit s p k)
    else decide (st.watermark.toNat ≤ outAvail st) || st.out.any (·.last)

/-- A vector of the port is masked: by its mask bit in the table (R294), by the function mask, or while MSI-X is not enabled (log 101). -/
def msixMasked (t : Port) (v : Nat) : Bool := !t.cfg.msixOn || t.cfg.msixMask || bit (nth t.msixTable (16 * v + 12) 0) 0

/-- Bytes `i` to `i + 3` of the port's MSI-X table. -/
def msixDword (t : Port) (i : Nat) : Nat := natOfBytes ((t.msixTable.drop i).take 4)

/-- One message of vector `v`, to the address and with the data of its table entry (R287), or its pending bit while masked (R294). -/
def msixSend (s : State) (h : PortId) (v : Nat) : State :=
  if msixMasked s.ports[h] v then modPort s h fun t => { t with msixPending := setBit t.msixPending v true }
  else
    let t := s.ports[h]
    emit s (.msix h (BitVec.ofNat 8 v) (BitVec.ofNat 64 (msixDword t (16 * v) + 2 ^ 32 * msixDword t (16 * v + 4))) (BitVec.ofNat 32 (msixDword t (16 * v + 8))))

/-- Pending vectors that are no longer masked send their message (R294). -/
def msixFlush (s : State) (h : PortId) : State :=
  (List.range Config.msixVectors).foldl (fun t v =>
    if bit t.ports[h].msixPending v && !msixMasked t.ports[h] v then
      msixSend (modPort t h fun u => { u with msixPending := setBit u.msixPending v false }) h v
    else t) s

/-- Every armed cause with a vector whose condition holds sends its message once and is disarmed, while the owning port's link is up (R294). -/
def msix (s : State) (p : PartId) : State :=
  let h := ownerOf s p
  if s.ports[h].link ≠ 2 then s
  else
    let c := s.parts[p].cfg
    let s1 := if s.parts[p].armEvq && c.msixEvq != 0xFF && !s.ev.hostRing[p].recs.isEmpty
      then modPart (msixSend s h c.msixEvq.toNat) p fun q => { q with armEvq := false } else s
    let s2 := if s1.parts[p].armLedger && c.msixLedger != 0xFF && !s1.parts[p].ledger.ring.isEmpty
      then modPart (msixSend s1 h c.msixLedger.toNat) p fun q => { q with armLedger := false } else s1
    if s2.parts[p].armStream && c.msixStream != 0xFF && streamCond s2 p
    then modPart (msixSend s2 h c.msixStream.toNat) p fun q => { q with armStream := false } else s2

/-! ### Sundov frames -/

/-- The header of a frame and its CRC over header bits [127:32] and the payload (Table 15.6). -/
def frameOf (seq ack : W32) (kind : Byte) (payload : List W128) : SFrame :=
  let h : W128 := at' 128 96 seq.toNat ||| at' 128 88 kind.toNat ||| at' 128 64 payload.length ||| at' 128 32 ack.toNat
  let c := crcOf 2 (seq.setWidth 64) ((bytesOf h 16).drop 4 ++ bytesOfWords payload)
  { hdr := h ||| at' 128 0 (c.setWidth 32).toNat, payload := payload }

/-- A frame is sent on the Sundov link and kept until acknowledged (R396). -/
def sendFrame (s : State) (kind : Byte) (payload : List W128) : State :=
  if s.twin.linkUp then
    let t := s.twin
    emit { s with twin := { t with sendSeq := t.sendSeq + 1, unacked := t.unacked ++ [(t.sendSeq, kind, payload)] } }
      (.frame kind (frameOf t.sendSeq (t.recvSeq - 1) kind payload))
  else s

/-- First payload word of a forwarded input: what it is, the partition and the stream entry (the layout is the model's, log 35). -/
def inputWord (kind : Nat) (p : PartId) (k x : Nat) : W128 := at' 128 120 kind ||| at' 128 116 p.val ||| at' 128 112 k ||| BitVec.ofNat 128 x

/-! ### The ledger -/

/-- A ledger record (R307). -/
def ledgerRec (item : W32) (kind cause : Nat) (detail : W64) : W128 :=
  at' 128 96 item.toNat ||| at' 128 88 kind ||| at' 128 80 (if cause = 0 then 0 else 1) ||| at' 128 64 cause ||| at' 128 0 detail.toNat

/-- A record enters the ring; the hold begins at 3,584 unread records (R308). -/
def ledgerPut (s : State) (p : PartId) (r : W128) : State :=
  let cause := fld r 79 64
  msix (modPart s p fun q =>
    let l := q.ledger
    let ring := l.ring ++ [r]
    { q with ledger :=
      { l with ring := ring, appended := l.appended + 1, held := l.held || decide (3584 ≤ ring.length)
               failed := if cause = 0 then l.failed else satInc l.failed
               lastCause := if cause = 0 then l.lastCause else BitVec.ofNat 16 cause } }) p

/-- An item ends (R307). A paired primary sends the copy and appends when it is acknowledged; a paired secondary only mirrors (R403). -/
def ledgerEnd (s : State) (p : PartId) (item : W32) (kind cause : Nat) (detail : W64) : State :=
  let r := ledgerRec item kind cause detail
  if twinActive s p then
    if s.twin.primary then
      let seq := s.twin.sendSeq
      modPart (sendFrame s 0x04 [BitVec.ofNat 128 p.val, r]) p fun q =>
        { q with ledger := { q.ledger with waiting := q.ledger.waiting ++ [(seq, r)] } }
    else s
  else ledgerPut s p r

/-- A cause whose detail is a device address in bits [39:0] (R242, Table 15.9). -/
def isMemCause (c : Nat) : Bool := c == 0x0801 || c == 0x0802 || c == 0x0803 || c == 0x0F22

/-- A detail that no rule gives: a free value, whose bits [63:40] are zero where R242 lays it out (R10, log 2). -/
def freeDetail (s : State) (cause : Nat) : W64 :=
  if isMemCause cause then ((drawWord s).1.setWidth 40).setWidth 64 else (drawWord s).1.setWidth 64

/-- An item ends, `cause` 0 for completed; a detail that no rule gives is free. -/
def ledgerItem (s : State) (p : PartId) (item : W32) (kind cause : Nat) (detail : Option W64) : State :=
  match detail with
  | some d => ledgerEnd s p item kind cause d
  | none => ledgerEnd (drawWord s).2 p item kind cause (freeDetail s cause)

/-- `n` records leave the ring; the hold ends below 3,072 (R308). -/
def ledgerTake (s : State) (p : PartId) (n : Nat) : State :=
  modPart s p fun q =>
    let ring := q.ledger.ring.drop n
    { q with ledger := { q.ledger with ring := ring, held := q.ledger.held && decide (3072 ≤ ring.length), uncopied := q.ledger.uncopied - n } }

/-- Every record whose copy frame is acknowledged up to `ack` is appended; with `none` all of them are (R403, R404). -/
def ledgerAcked (s : State) (ack : Option W32) (p : PartId) : State :=
  let w := s.parts[p].ledger.waiting
  let ok : W32 × W128 → Bool := fun x => match ack with
    | none => true
    | some a => decide ((a - x.1).toNat < 2 ^ 31)
  let s1 := modPart s p fun q => { q with ledger := { q.ledger with waiting := w.dropWhile ok } }
  (w.takeWhile ok).foldl (fun t x => ledgerPut t p x.2) s1

end Sys2Proof.Machine
end

