-- ==== Sys2Proof/Machine/RunCtl.lean ====
section
/-!
DEFINITION. Job segments: engine binding (R35), the start of sequencers (R159), how a segment ends (R83, R187, R188, R208, R306)
and held exchange edits and swaps (R281, R282).
-/

namespace Sys2Proof.Machine

/-! ### Binding -/

/-- A slot serves partition `p`: not EMPTY and naming it (Table 14.4). -/
def slotServes (w : W128) (p : PartId) : Bool := !bit w 4 && fld w 3 0 == p.val

/-- The partition is named in a slot of the active table: a pooled partition (R369). -/
def pooled (s : State) (p : PartId) : Bool :=
  (List.finRange 64).any fun i => decide (i.val < s.pw.slotsLen.toNat) && slotServes s.pw.active[i] p

/-- The unfenced VEs a partition binds now: its VE_SET, or the mask of the running slot that serves it (R35, R370). -/
def bindSet (s : State) (p : PartId) : List VeId :=
  let m : W64 := match s.pw.running with
    | some w => if slotServes w p then BitVec.ofNat 64 (fld w 127 64) else s.parts[p].cfg.veSet
    | none => s.parts[p].cfg.veSet
  (vesOf m).filter fun n => s.eng[n].fenced == 0

/-- Logical VEs taken one by one from the free RN and standard engines (R35). -/
def bindGo (rnMask : W64) (i : Nat) : Nat → List VeId → List VeId → Option (List VeId)
  | 0, _, _ => some []
  | k + 1, rn, st =>
    if bit rnMask i then
      match rn with
      | n :: rest => (bindGo rnMask (i + 1) k rest st).map (n :: ·)
      | [] => none
    else
      match st with
      | n :: rest => (bindGo rnMask (i + 1) k rn rest).map (n :: ·)
      | [] => none

/-- R35: the physical VE of each logical VE, or none when a class lacks engines. In paired mode only leaders count, and those of whole pairs
(R387, R388). -/
def bindVes (avail : List VeId) (paired : Bool) (h : Header) : Option (List VeId) :=
  let a := if paired then avail.filter (fun n => n.val % 2 == 0 && avail.any fun m => m.val == n.val + 1) else avail
  bindGo h.rnMask 0 h.lveCount (a.filter isRn) (a.filter fun n => !isRn n)

/-! ### Sequencer starts -/

/-- Sequencer address of a section's first byte: SPACE in bit 38, the offset below (R153). -/
def sectAddr (x : Section) : Addr := BitVec.ofNat 40 (x.space * 2 ^ 38 + x.offset)

/-- Entry point of a logical VE: its first SEQ_CODE section (R449). -/
def entryOf (im : Image) (lve : Nat) : Addr :=
  match im.sections.find? fun x => x.kind == 1 && x.lve == lve with
  | some x => sectAddr x
  | none => 0

/-- A sequencer starts as R159 gives: registers cleared, caches and predictor empty, its VE's queue empty. -/
def startSeq (s : State) (n : VeId) (entry : Addr) : State :=
  let s1 := modSeq s n fun c =>
    { c with r := { Regs.start with pc := entry }, st := .running, icache := [], dcache := [], bp := .replicate 512 1
             openFaults := [], begunBarrier := false, arrived := false, entry := none, ahead := none, back := .unbound }
  modEng s1 n fun e => { e with queue := [], openIns := [], stopped := false, vfDue := false }

/-- Every bound sequencer starts at its entry point. -/
def startAll (s : State) (p : PartId) : State :=
  match s.parts[p].image with
  | some im => (s.parts[p].bind.zipIdx).foldl (fun t x => startSeq t x.1 (entryOf im x.2)) s
  | none => s

/-! ### Exchange edits -/

/-- Table index 0 or 1 of the active table. -/
def actTable (q : Partition) : Fin 2 := if q.exchActive then 1 else 0
/-- Table index of the shadow. -/
def shadowTable (q : Partition) : Fin 2 := if q.exchActive then 0 else 1

/-- Slot `i` of a table set; slots beyond the words a load brought are zero (log 34). -/
def tableSet (t : List (W128 × W128)) (i : Nat) (v : W128 × W128) : List (W128 × W128) :=
  if i < t.length then t.set i v else t ++ List.replicate (i - t.length) (0, 0) ++ [v]

/-- One edit lands in its table, and the write that waits for it completes (R281). -/
def landEdit (p : PartId) (s : State) (e : Edit) : State :=
  let s1 := modPart s p fun q =>
    { q with exchTables := updV q.exchTables (if e.shadow then shadowTable q else actTable q) fun t => tableSet t e.slot (e.w0, e.w1) }
  match e.by' with
  | some r => dictFinish s1 r
  | none => s1

/-- The held edits that `ok` selects land (R281). -/
def applyEdits (s : State) (p : PartId) (ok : Edit → Bool) : State :=
  (s.parts[p].edits.filter ok).foldl (landEdit p) (modPart s p fun q => { q with edits := q.edits.filter fun e => !ok e })

/-- The tables swap: the shadow becomes active with the length EXCH_SHADOW_SLOTS holds (R282). -/
def applySwap (s : State) (p : PartId) : State :=
  if s.parts[p].swapDue then
    let s1 := modPart s p fun q =>
      { q with exchActive := !q.exchActive, swapDue := false, exchSlotsAct := q.cfg.exchShadowSlots
               cfg := { q.cfg with exchSwap := false, exchShadowSlots := q.exchSlotsAct } }
    let q := s1.parts[p]
    raiseN s1 793 (at' 32 5 (q.exchSlotsAct.toNat - 1) ||| at' 32 4 (if q.exchActive then 1 else 0) ||| at' 32 0 p.val)
  else s

/-- Held edits and a due swap at the release of design cycle `k`; edits for the active table come before the swap (R281, R282). -/
def tablesRelease (s : State) (p : PartId) (k : Nat) : State :=
  let s1 := applyEdits s p fun e => decide (e.due < k) || (e.due == k && !e.post)
  applyEdits (applySwap s1 p) p fun e => decide (e.due ≤ k)

/-- Held edits and a due swap when a segment ends (R281, R282). -/
def tablesEnd (s : State) (p : PartId) : State :=
  applyEdits (applySwap (applyEdits s p fun e => !e.post) p) p fun _ => true

/-! ### IMAGE_STATE and ends of a segment -/

/-- IMAGE_STATE of a partition with a valid image: 3 while a segment executes or is queued, else 2 (Table 2.1). -/
def settle (s : State) (p : PartId) : State :=
  modPart s p fun q =>
    if q.imageState = 2 ∨ q.imageState = 3 then
      { q with imageState := if q.run.isSome || q.save.isSome || q.restore.isSome || !q.jobs.isEmpty then 3 else 2 }
    else q

/-- Done event 8n + 0 (R188). -/
def doneEvent (how : Nat) (p : PartId) (s : State) (n : VeId) : State :=
  raiseN s (8 * n.val) (at' 32 28 how ||| at' 32 24 p.val ||| BitVec.ofNat 32 (s.parts[p].designCycle % 2 ^ 24))

/-- The trigger slots a segment holds become free (R409). -/
def freeTriggers (s : State) (p : PartId) : State :=
  match s.parts[p].trace.slots with
  | some (d, n) =>
    modPart { s with fz := { s.fz with trigFree := updV s.fz.trigFree d (· + n) } } p fun q =>
      { q with trace := { q.trace with slots := none, state := 0 } }
  | none => modPart s p fun q => { q with trace := { q.trace with state := 0 } }

/-- No substitution of the partition's VEs stays armed when its segment ends, those in saved contexts included (R146). -/
def disarm (s : State) (p : PartId) : State :=
  modPart (s.parts[p].bind.foldl (fun t n => modEng t n fun e => { e with substEn := false }) s) p fun q =>
    { q with saved := q.saved.map fun x => { x with eng := { x.eng with substEn := false } } }

/-- A bound sequencer stops with its segment's failure: SEQ_STATE 7 unless 3, 4 or 6; its queue is discarded (R208) and its
substitution disarmed (R146). -/
def stopSeq (s : State) (n : VeId) : State :=
  let s1 := modSeq s n fun c =>
    { c with st := match c.st with
                   | .doubleFault => .doubleFault
                   | .escalated => .escalated
                   | .failedSelfTest => .failedSelfTest
                   | _ => .stopped
             openFaults := [], begunBarrier := false, arrived := false, entry := none, ahead := none, back := .unbound }
  modEng s1 n fun e => { e with queue := [], openIns := [], stopped := false, vfDue := false, substEn := false, pairLog := [] }

/-- JOB_ID of a descriptor (Table 11.9). -/
def jobId (j : Job) : W32 := BitVec.ofNat 32 (fld j.w0 127 96)

/-- The executing job segment ends with a failure on this device (R83, R208): its record, the stop of every bound sequencer, the done
events; the design cycle in progress commits nothing and its stimulus is consumed again. -/
def failRun (s : State) (p : PartId) (cause : Nat) (detail : W64) : State :=
  match s.parts[p].run with
  | none => s
  | some r =>
    let b := s.parts[p].bind
    let s1 := disarm (b.foldl stopSeq s) p
    let s2 := modPart s1 p fun q =>
      { q with run := none, fresh := true
               streams := updV q.streams 2 fun st => { st with fifo := r.stim ++ st.fifo } }
    let s3 := b.foldl (doneEvent 1 p) (freeTriggers s2 p)
    let s4 := tablesEnd s3 p
    settle (ledgerEnd s4 p (jobId r.job) 0x01 cause detail) p

/-- Causes with which a fence fails a job segment (Table 15.4). -/
def fenceCause (c : Nat) : Bool := [0x0304, 0x0306, 0x0803, 0x0A03, 0x0F01, 0x0F03, 0x0F04, 0x0F06].contains c

/-- The executing job segment fails. A fence's failure in twin mode is forwarded by the primary, and on the secondary makes the primary treat
the twin as lost (R434 row 6). -/
def failSegment (s : State) (p : PartId) (cause : Nat) (detail : W64) : State :=
  match s.parts[p].run with
  | none => s
  | some _ =>
    if twinActive s p && fenceCause cause then
      if s.twin.primary then
        failRun (sendFrame s 0x02 [inputWord 9 p 0 s.parts[p].designCycle, at' 128 64 cause ||| detail.setWidth 128]) p cause detail
      else
        let s1 := sendFrame s 0x02 [inputWord 10 p 0 0]
        failRun (toTwinState s1 4) p cause detail
    else failRun s p cause detail

/-- The executing job segment fails with a cause whose detail no rule lays out: a free value (log 2). -/
def failSegmentFree (s : State) (p : PartId) (cause : Nat) : State :=
  failSegment (drawWord s).2 p cause (freeDetail s cause)

/-- The executing job segment completes (R187, R306): sequencers stay parked in their `BARRIER`, and no substitution stays armed (R146). -/
def completeSegment (s : State) (p : PartId) : State :=
  match s.parts[p].run with
  | none => s
  | some r =>
    let s1 := modPart s p fun q => { q with run := none, farFail := none }
    let s2 := s.parts[p].bind.foldl (doneEvent 0 p) (freeTriggers s1 p)
    let s3 := tablesEnd (disarm s2 p) p
    settle (ledgerEnd s3 p (jobId r.job) 0x01 0 (BitVec.ofNat 64 s.parts[p].designCycle)) p

/-- Detail of a vector ledger cause (Table 3.10). -/
def vecDetail (n : VeId) (cause elem : Nat) (addr : W64) : W64 :=
  at' 64 58 n.val ||| at' 64 54 cause ||| at' 64 38 elem ||| BitVec.ofNat 64 (fld addr 37 0)

/-- Ledger cause of a vector fault that fails its segment (Table 3.9, R75, R83, R147). -/
def vecCause (cause : Nat) (drain : Bool) (issue : Bool) : Nat :=
  if drain then (if cause = 5 then 0x0306 else 0x0304)
  else if cause = 8 then 0x0304
  else if cause = 4 then (if issue then 0x0301 else 0x0302)
  else if cause = 1 ∨ cause = 2 ∨ cause = 3 then 0x0301
  else if cause = 9 then 0x0305
  else 0x0303

end Sys2Proof.Machine
end

