-- ==== Sys2Proof/Machine/Commit.lean ====
section
/-!
DEFINITION. Consistency groups: their indices, members in force, and the outcome of a commit (R328-R333).
-/

namespace Sys2Proof.Machine

/-- Index and subindex of a group's CLAIM, COMMIT and DISCARD entries (Table 12.10). -/
def grpCtl : Grp → W16 × Byte × Byte × Byte
  | .part p => (BitVec.ofNat 16 (0x2000 + p.val), 0xFD, 0xFE, 0xFF)
  | .stream p k => (BitVec.ofNat 16 (0xF000 + 8 * p.val + k.val), 0xFD, 0xFE, 0xFF)
  | .bank b => (BitVec.ofNat 16 (0x5000 + b.val), 0xFD, 0xFE, 0xFF)
  | .mem => (0x4000, 0xFD, 0xFE, 0xFF)
  | .reef c => (0x7100, BitVec.ofNat 8 (0xF0 + c.val), BitVec.ofNat 8 (0xE0 + c.val), BitVec.ofNat 8 (0xE8 + c.val))
  | .slots => (0x7200, 0xFD, 0xFE, 0xFF)

/-- The group an RWS member or a control entry belongs to (Table 12.10). -/
def grpOf (ix : W16) (sub : Byte) : Option Grp :=
  let i := ix.toNat
  let u := sub.toNat
  if h : 0x2000 ≤ i ∧ i < 0x2010 then
    if u ∈ [0x10, 0x23, 0x24, 0x30, 0x31, 0x32, 0x33, 0x47, 0x48, 0x50, 0x70, 0x71, 0xFD, 0xFE, 0xFF] then some (.part ⟨i - 0x2000, by omega⟩) else none
  else if h : 0xF000 ≤ i ∧ i < 0xF080 then
    if u ∈ [1, 2, 0xFD, 0xFE, 0xFF] then some (.stream ⟨(i - 0xF000) / 8, by omega⟩ ⟨(i - 0xF000) % 8, by omega⟩) else none
  else if h : 0x5000 ≤ i ∧ i < 0x5100 then
    if u ∈ [1, 0xFD, 0xFE, 0xFF] then some (.bank ⟨i - 0x5000, by omega⟩) else none
  else if i = 0x4000 then if u ∈ [1, 0xFD, 0xFE, 0xFF] then some .mem else none
  else if i = 0x7100 then
    if h : u < 64 then some (.reef ⟨u / 8, by omega⟩)
    else if h : 0xE0 ≤ u ∧ u < 0x100 ∧ (u < 0xF8) then some (.reef ⟨u % 8, by omega⟩)
    else none
  else if i = 0x7200 then if u < 64 ∨ u ∈ [0x40, 0x41, 0xFD, 0xFE, 0xFF] then some .slots else none
  else none

/-- `b` as a word. -/
def boolW (b : Bool) : W128 := if b then 1 else 0

/-- The members of a group in force, by subindex (R329). -/
def members (s : State) : Grp → List (Byte × W128)
  | .part p =>
    let c := s.parts[p].cfg
    [(0x10, c.veSet.setWidth 128), (0x23, c.fpsub.setWidth 128), (0x24, boolW c.deterministic), (0x30, c.hbmMode.setWidth 128),
     (0x31, c.hbmStacks.setWidth 128), (0x32, c.hbmBase.setWidth 128), (0x33, c.hbmSize.setWidth 128),
     (0x47, c.exchShadowSlots.setWidth 128), (0x48, boolW c.exchSwap), (0x50, c.ownerPort.setWidth 128),
     (0x70, boolW c.paired), (0x71, boolW c.twinMode)]
  | .stream p k => let st := s.parts[p].streams[k]; [(1, st.depth.setWidth 128), (2, st.watermark.setWidth 128)]
  | .bank b => [(1, s.banks[b].part.setWidth 128)]
  | .mem => [(1, s.wideGib.setWidth 128)]
  | .reef c => (List.finRange 8).map fun l => (BitVec.ofNat 8 (8 * c.val + l.val), (s.clusters[c].row[l]).setWidth 128)
  | .slots => ((List.finRange 64).map fun i => (BitVec.ofNat 8 i.val, s.pw.slots[i])) ++
      [(0x40, s.pw.slotsLen.setWidth 128), (0x41, s.pw.poolSet.setWidth 128)]

/-- Member `u` of a set. -/
def member (set : List (Byte × W128)) (u : Nat) : Nat :=
  match set.find? fun x => x.1.toNat == u with
  | some x => x.2.toNat
  | none => 0

/-- Partitions whose ledger records a commit of the group: those of a partition or stream group, and of a bank group the partition
before and after (R333). -/
def grpLedgers (s : State) (g : Grp) (set : List (Byte × W128)) : List PartId :=
  match g with
  | .part p => [p]
  | .stream p _ => [p]
  | .bank b =>
    let new := member set 1
    (bankPart s b).toList ++ (if h : new < 16 then (if bankPart s b = some ⟨new, h⟩ then [] else [⟨new, h⟩]) else [])
  | _ => []

/-- Partitions whose ledger records a commit of the group that failed: a bank stays where it is, so only its partition's (R333). -/
def failLedgers (s : State) : Grp → List PartId
  | .bank b => (bankPart s b).toList
  | g => grpLedgers s g []

/-- A pending commit ends: COMMIT_RESULT, the ledger records and the queue (R333). `cause` 0 means applied; `parts` receive the record. -/
def commitDone (s : State) (pd : Pending) (parts : List PartId) (cause code : Nat) (detail : W64) : State :=
  let s1 := { s with dict := { s.dict with
    pending := s.dict.pending.filter (· ≠ pd)
    results := updV s.dict.results pd.by' fun _ =>
      at' 64 32 pd.tag.toNat ||| at' 64 24 (if cause = 0 then 2 else 3) ||| BitVec.ofNat 64 code } }
  parts.foldl (fun t p => ledgerEnd t p pd.tag 0x04 cause detail) s1

/-- Detail of a commit's record: index and subindex of COMMIT and the abort code (R333). -/
def commitDetail (g : Grp) (code : Nat) : W64 :=
  let (ix, _, c, _) := grpCtl g
  at' 64 48 ix.toNat ||| at' 64 40 c.toNat ||| BitVec.ofNat 64 code

/-- A pending commit fails with a cause and an abort code (R333). -/
def commitFails (s : State) (pd : Pending) (cause code : Nat) : State :=
  commitDone s pd (failLedgers s pd.grp) cause code (commitDetail pd.grp code)

/-- A claim ends other than by its own commit or DISCARD: the claimant's next access to the group is refused once (R330). -/
def loseClaims (s : State) (which : Claim → Bool) : State :=
  let gone := s.dict.claims.filter which
  { s with dict := { s.dict with
    claims := s.dict.claims.filter fun c => !which c
    lost := s.dict.lost ++ gone.map fun c => (c.grp, c.by') } }

end Sys2Proof.Machine
end

