-- ==== Sys2Proof/Machine/Events.lean ====
section
/-!
DEFINITION. The event controller's rings (R340, R344, R345, R347, R350-R356): delivery, copies, taking a record and moving a ring.
-/

namespace Sys2Proof.Machine

/-- The ring a TARGET code names; other codes name none. -/
def ringOf (code : Nat) : Option RingId :=
  if code = 0 then some .sv
  else if h : 0x40 ≤ code ∧ code < 0x80 then some (.seq ⟨code - 0x40, by omega⟩)
  else if h : 0x80 ≤ code ∧ code < 0x90 then some (.host ⟨code - 0x80, by omega⟩)
  else none

/-- Size in records (Table 13.4). -/
def ringSize : RingId → Nat
  | .sv => 4096
  | .seq _ => 256
  | .host _ => 1024

/-- One ring. -/
def ringGet (s : State) : RingId → Ring
  | .sv => s.ev.svRing
  | .seq n => s.ev.seqRing[n]
  | .host p => s.ev.hostRing[p]

/-- One ring changed. -/
def modRing (s : State) (r : RingId) (f : Ring → Ring) : State :=
  match r with
  | .sv => { s with ev := { s.ev with svRing := f s.ev.svRing } }
  | .seq n => { s with ev := { s.ev with seqRing := updV s.ev.seqRing n f } }
  | .host p => { s with ev := { s.ev with hostRing := updV s.ev.hostRing p f } }

/-- A record as its reader receives it (Table 13.1). -/
def recWord (e : EvRec) : W128 :=
  at' 128 80 (e.ts.toNat % 2 ^ 48) ||| at' 128 48 e.detail.toNat ||| at' 128 40 e.count.toNat ||| at' 128 32 e.target.toNat |||
  at' 128 31 e.moved.toNat ||| at' 128 30 e.retargeted.toNat ||| at' 128 29 e.overflowed.toNat ||| at' 128 28 e.last.toNat |||
  at' 128 12 e.seq.toNat ||| at' 128 0 e.src.val

/-- A record appended with the ring's next SEQUENCE; a host ring's condition may send its message (R340, R294). -/
def ringAppend (s : State) (r : RingId) (e : EvRec) : State :=
  let s1 := modRing s r fun g => { g with recs := g.recs ++ [{ e with seq := g.next }], next := g.next + 1 }
  let s2 := { s1 with ev := { s1.ev with recordsTotal := s1.ev.recordsTotal + 1 } }
  match r with
  | .host p => msix s2 p
  | _ => s2

/-- COUNT after merging `c` more, and whether the sum exceeded 255 (R344). -/
def mergeCount (a c : Byte) : Byte × Bool :=
  if a.toNat + c.toNat ≤ 255 then (a + c, false) else (255, true)

/-- An arrival on its way into a ring. -/
structure Arrival where
  src : SrcId
  ts : W64
  detail : W32
  count : Byte
  last : Bool
  sat : Bool
  part : Option PartId
deriving DecidableEq, Repr

/-- Index of the latest open record of a source with a TARGET code (R344). -/
def openAt (x : SrcId) (code : Byte) (recs : List EvRec) : Option Nat :=
  ((List.range recs.length).filter fun i =>
    match recs[i]? with
    | some e => e.isOpen && e.src == x && e.target == code
    | none => false).getLast?

/-- The merge of an arrival into an open record (R344). -/
def mergeRec (keep : Bool) (a : Arrival) (e : EvRec) : EvRec :=
  let m := mergeCount e.count a.count
  let e1 := { e with count := m.1, overflowed := e.overflowed || m.2 || a.sat }
  if keep then { e1 with ts := a.ts, detail := a.detail, last := true } else e1

/-- The merge of an arrival into a pending state (R345). -/
def mergeHeld (keep : Bool) (a : Arrival) (h : Held) : Held :=
  let e := { h.ev with count := (mergeCount h.ev.count a.count).1 }
  { h with ev := if keep then { e with ts := a.ts, detail := a.detail, last := true } else e }

/-- An arrival as a new open record (R344). -/
def arrivalRec (a : Arrival) (code : Byte) (ret : Bool) : EvRec :=
  { ts := a.ts, detail := a.detail, count := a.count, target := code, moved := false, retargeted := ret, overflowed := a.sat
    last := a.last, seq := 0, src := a.src, isOpen := true, lost := false, part := a.part }

/-- An arrival that finds a ring full joins its pending state for the ring and code, or begins it (R345). -/
def hold (keep : Bool) (a : Arrival) (code : Byte) (ret : Bool) (hs : List Held) : List Held :=
  let same : Held → Bool := fun h => h.pend && h.ev.src == a.src && h.ev.target == code
  if hs.any same then hs.map fun h => if same h then mergeHeld keep a h else h
  else hs ++ [{ ev := arrivalRec a code ret, pend := true }]

/-- `deliver` of R344, with the holding of R345: merged into an open record, held at a full ring, or written. -/
def deliverAs (s : State) (a : Arrival) (r : RingId) (code : Byte) (ret : Bool) : State :=
  let c := s.ev.src[a.src]
  let g := ringGet s r
  match (if c.coalesce then openAt a.src code g.recs else none) with
  | some i => modRing s r fun g => { g with recs := updL g.recs i (mergeRec c.keep a) }
  | none =>
    if ringSize r ≤ g.recs.length then modRing s r fun g => { g with held := hold c.keep a code ret g.held }
    else ringAppend s r (arrivalRec a code ret)

/-- `deliver` of R344 for an arrival that no ring has held yet: one that finds the ring full counts in HELD_TOTAL. -/
def deliver (s : State) (a : Arrival) (r : RingId) (code : Byte) (ret : Bool) : State :=
  let s1 := deliverAs s a r code ret
  let c := s.ev.src[a.src]
  if ringSize r ≤ (ringGet s r).recs.length ∧ !(c.coalesce && (openAt a.src code (ringGet s r).recs).isSome) then
    { s1 with ev := { s1.ev with heldTotal := satAdd s1.ev.heldTotal a.count.toNat } }
  else s1

/-- One held state written as a record: a pending state is an open record with OVERFLOWED (R345), another one is written as it is. -/
def heldRec (h : Held) : EvRec := if h.pend then { h.ev with overflowed := true, isOpen := true } else h.ev

/-- The arrivals of a pending state, on their way to another ring (R351, R352). -/
def heldArrival (h : Held) : Arrival :=
  { src := h.ev.src, ts := h.ev.ts, detail := h.ev.detail, count := h.ev.count, last := h.ev.last, sat := true, part := h.ev.part }

/-- A record that no arrival makes enters a ring, or waits there for room (R351, R352). -/
def ringPut (s : State) (r : RingId) (e : EvRec) : State :=
  if ringSize r ≤ (ringGet s r).recs.length then modRing s r fun g => { g with held := g.held ++ [{ ev := e, pend := false }] }
  else ringAppend s r e

/-- Held states enter a ring that has gained room, in the order of their first held arrival (R345). -/
def ringFill (r : RingId) : Nat → State → State
  | 0, s => s
  | n + 1, s =>
    match (ringGet s r).held with
    | [] => s
    | h :: hs =>
      if ringSize r ≤ (ringGet s r).recs.length then s
      else ringFill r n (ringAppend (modRing s r fun g => { g with held := hs }) r (heldRec h))

/-- Records leave the head of a ring, and held states take their room. -/
def ringDrop (s : State) (r : RingId) (n : Nat) : State :=
  ringFill r (ringGet s r).held.length (modRing s r fun g => { g with recs := g.recs.drop n })

/-- The TARGET code of a ring. -/
def ringCode : RingId → Nat
  | .sv => 0
  | .seq n => 0x40 + n.val
  | .host p => 0x80 + p.val

/-- The record of source 722 that stands in for a lost one of a ring, with the ring's TARGET and the SEQUENCE in its detail (R356, Table 13.3). -/
def lostRec (r : RingId) (e : EvRec) : EvRec :=
  { e with src := 722, count := 1, detail := at' 32 12 (ringCode r) ||| at' 32 0 e.seq.toNat }

/-- A record as the reader of its ring receives it: one that is lost, as its stand-in (R347, R356). -/
def readRec (r : RingId) (e : EvRec) : W128 := recWord (if e.lost then lostRec r e else e)

/-- The head of a ring, all ones when it is empty (R347). -/
def ringHead (s : State) (r : RingId) : W128 :=
  match (ringGet s r).recs with
  | [] => BitVec.allOnes 128
  | e :: _ => readRec r e

/-- Bits of the event store turn over: an uncorrectable word loses its record, and a single bit is corrected where the record is read (R356). -/
def storeUpsets (s : State) (us : List EventUpset) : State :=
  us.foldl (fun t u => if u.multi then modRing t u.ring fun g => { g with recs := updL g.recs u.place fun e => { e with lost := true } } else t) s

/-- The head is taken; a lost one raises event 722 (R347, R356). -/
def ringTake (s : State) (r : RingId) : W128 × State :=
  match (ringGet s r).recs with
  | [] => (BitVec.allOnes 128, s)
  | e :: _ =>
    let s1 := ringDrop s r 1
    (readRec r e, if e.lost then raiseN s1 722 (lostRec r e).detail else s1)

/-! ### Serving an arrival -/

/-- A record of a double fault (R350). -/
def isDouble (x : SrcId) (dt : W32) : Bool := decide (x.val < 512) && x.val % 8 == 6 && fld dt 31 24 == 3

/-- The code TARGET resolves to, or none where 0xFE finds no partition (R342). -/
def resolveTarget (t : Byte) (part : Option PartId) : Option Byte :=
  if t = 0xFE then part.map fun p => BitVec.ofNat 8 (0x80 + p.val) else some t

/-- The sequencer cannot read its ring (R350). -/
def cannotRead (s : State) (n : VeId) : Bool :=
  match s.seq[n].st with
  | .unbound | .doubleFault | .escalated | .failedSelfTest | .stopped => true
  | _ => false

/-- A copy to the supervisor's ring is required (R350). -/
def copyNeeded (s : State) (x : SrcId) (dt : W32) (r : RingId) : Bool :=
  let c := s.ev.src[x]
  match r with
  | .sv => false
  | .seq n => isDouble x dt || c.svCopy || cannotRead s n || (s.clusters[clusterOfVe n].asleep && !c.wake)
  | .host _ => isDouble x dt || c.svCopy

/-- A wake request to the dispatcher for a record of a sleeping sequencer (R353). -/
def wakeFor (s : State) (x : SrcId) (r : RingId) : State :=
  match r with
  | .seq n =>
    if s.clusters[clusterOfVe n].asleep && s.ev.src[x].wake then
      modCluster s (clusterOfVe n) fun k => { k with wakeReq := true }
    else s
  | _ => s

/-- The ring that records for a code go to: the supervisor's for a fenced sequencer's (R355). -/
def liveRing (s : State) (code : Byte) : Option RingId :=
  match ringOf code.toNat with
  | some (.seq n) => if s.eng[n].fenced ≠ 0 then some .sv else some (.seq n)
  | o => o

/-- A resolved arrival goes to its ring, redirected under R355, and is then copied where R350 requires it (R344). -/
def route (s : State) (a : Arrival) (code : Byte) (unresolved : Bool) : State :=
  match ringOf code.toNat, liveRing s code with
  | some r, some g =>
    let s1 := wakeFor (deliver s a g code (unresolved || g != r)) a.src g
    if copyNeeded s a.src a.detail r then deliver s1 a .sv code true else s1
  | _, _ => if isDouble a.src a.detail then deliver s a .sv code true else s

/-- The controller serves a forwarded latch (R344). -/
def serveLatch (s : State) (l : Latch) : State :=
  let c := s.ev.src[l.src]
  let s1 := { s with ev :=
    { s.ev with src := updV s.ev.src l.src fun c => { c with arrivals := satAdd c.arrivals l.count.toNat }
                arrivalsTotal := s.ev.arrivalsTotal + l.count.setWidth 64
                latches := s.ev.latches.filter (· ≠ l) } }
  let a : Arrival := { src := l.src, ts := l.ts, detail := l.detail, count := l.count, last := l.last, sat := l.sat, part := l.part }
  match resolveTarget c.target l.part with
  | some code => route s1 a code false
  | none => route s1 a 0 true

/-- The unread records of sequencer `n`'s ring move to the supervisor's ring with RETARGETED and new SEQUENCE values, and its pending
states go there with them (R352, R355). -/
def moveRing (s : State) (n : VeId) : State :=
  let g := s.ev.seqRing[n]
  let s1 := modRing s (.seq n) fun g => { g with recs := [], held := [] }
  let s2 := g.recs.foldl (fun t e => ringPut t .sv { e with retargeted := true }) s1
  g.held.foldl (fun t h =>
    if h.pend then deliverAs t (heldArrival h) .sv h.ev.target true else ringPut t .sv { h.ev with retargeted := true }) s2

/-- A code is one that a TARGET of `old` resolves to (R342). -/
def codeUnder (old code : Byte) : Bool :=
  if old = 0xFE then code == 0 || (match ringOf code.toNat with | some (.host _) => true | _ => false) else code == old

/-- The moved record of an open record, in the ring that the new TARGET names (R351). -/
def movedRec (now : W64) (code : Byte) (ret : Bool) (e : EvRec) : EvRec :=
  { e with ts := now, detail := at' 32 12 e.seq.toNat ||| at' 32 0 e.target.toNat, count := 0, target := code, moved := true
           retargeted := ret, overflowed := false, last := false, seq := 0, isOpen := false, lost := false }

/-- A moved record that finds its ring full is written before any pending state of its source (R351). -/
def putMoved (s : State) (r : RingId) (e : EvRec) : State :=
  if ringSize r ≤ (ringGet s r).recs.length then
    modRing s r fun g =>
      { g with held := g.held.takeWhile (fun y => !(y.pend && y.ev.src == e.src)) ++ [{ ev := e, pend := false }] ++
          g.held.dropWhile (fun y => !(y.pend && y.ev.src == e.src)) }
  else ringAppend s r e

/-- Code, ring and RETARGETED of what source `x` now sends to a TARGET `v` that names a ring (R342, R355). -/
def newRing (s : State) (v : Byte) (part : Option PartId) : Option (Byte × RingId × Bool) :=
  let code : Byte := (resolveTarget v part).getD 0
  let unresolved := (resolveTarget v part).isNone
  (liveRing s code).map fun r => (code, r, unresolved || (r == .sv && code != 0))

/-- Arrivals of a pending state go to the ring of a new target and merge there, with the wake request and the copy to the supervisor that a record
for that target takes (R351, R353, R350). -/
def resend (s : State) (a : Arrival) (code : Byte) (nr : RingId) (ret : Bool) : State :=
  let s1 := wakeFor (deliverAs s a nr code ret) a.src nr
  match ringOf code.toNat with
  | some r => if copyNeeded s a.src a.detail r then deliver s1 a .sv code true else s1
  | none => s1

/-- One ring's part of a write of TARGET (R351): the open record of the source there stops being open and leaves a moved record; its pending
states go to the new ring. Under 0xFF every open record of the source stops being open, its copies too, and pending states are counted only, but for
a double fault's copy (R350). -/
def retargetRing (x : SrcId) (old v : Byte) (s : State) (r : RingId) : State :=
  let g := ringGet s r
  let mine : EvRec → Bool := fun e => e.src == x && codeUnder old e.target && liveRing s e.target == some r
  let goes : Held → Bool := fun h =>
    h.pend && (mine h.ev || (v == 0xFF && h.ev.src == x)) && !(v == 0xFF && r == .sv && isDouble x h.ev.detail && h.ev.retargeted)
  let opens := g.recs.filter fun e => e.isOpen && mine e
  let shuts : EvRec → Bool := fun e => mine e || (v == 0xFF && e.src == x)
  let s1 := modRing s r fun g =>
    { g with recs := g.recs.map fun e => if e.isOpen && shuts e then { e with isOpen := false } else e
             held := g.held.filter fun h => !goes h }
  if v = 0xFF then
    (g.held.filter fun h => goes h && r == .sv && isDouble x h.ev.detail).foldl (fun u h => deliverAs u (heldArrival h) .sv 0xFF true) s1
  else
    let s2 := match opens.getLast? with
      | none => s1
      | some e => (match newRing s v e.part with
        | some (code, nr, ret) => putMoved s1 nr (movedRec (timeNow s) code ret e)
        | none => s1)
    (g.held.filter goes).foldl (fun u h => match newRing s v h.ev.part with
      | some (code, nr, ret) => resend u (heldArrival h) code nr ret
      | none => u) s2

/-- A write of TARGET (R351): arrivals not yet written go to the new target, an open record leaves a moved record. -/
def retarget (s : State) (x : SrcId) (v : Byte) : State :=
  let old := s.ev.src[x].target
  if old = v then s
  else
    let s1 := { s with ev := { s.ev with src := updV s.ev.src x fun c => { c with target := v } } }
    let rings : List RingId := .sv :: ((List.finRange 64).map .seq ++ (List.finRange 16).map .host)
    (rings.filter fun r => (ringGet s r).recs.any (·.src == x) || (ringGet s r).held.any (·.ev.src == x)).foldl (retargetRing x old v) s1

/-- The codes that a source's TARGET may resolve to, for OPEN and PENDING (Table 13.6). -/
def primaryCodes (s : State) (x : SrcId) : List Byte :=
  if s.ev.src[x].target = 0xFE then (List.range 16).map (fun p => BitVec.ofNat 8 (0x80 + p)) ++ [0] else [s.ev.src[x].target]

/-- OPEN of source `x`: whether an open record stands in its primary ring, and its SEQUENCE. -/
def evOpen (s : State) (x : SrcId) : W16 :=
  let found := (primaryCodes s x).filterMap fun c => (liveRing s c).bind fun r =>
    (openAt x c (ringGet s r).recs).bind fun i => (ringGet s r).recs[i]?
  match found with
  | e :: _ => at' 16 15 1 ||| e.seq.setWidth 16
  | [] => 0

/-- PENDING of source `x`: arrivals held for its primary ring, saturating. -/
def evPending (s : State) (x : SrcId) : Byte :=
  let n := ((primaryCodes s x).map fun c => match liveRing s c with
    | some r => (((ringGet s r).held.filter fun h => h.pend && h.ev.src == x && h.ev.target == c).map (·.ev.count.toNat)).sum
    | none => 0).sum
  satAdd (0 : Byte) n

/-! ### Which latches the controller reaches -/

/-- The controller can serve the latch of a source: it has started and the source's die reaches it (R344, R355, Table 17.2). -/
def canServe (s : State) (x : SrcId) : Bool := !dead s && s.ev.started && !bit s.ev.unreachable (srcDie x).val

/-- Serving the latch sends the dispatcher a wake request for cluster `c`, were it asleep (R353). -/
def wakesCluster (s : State) (c : ClusterId) (l : Latch) : Bool :=
  s.ev.src[l.src].wake && (match (resolveTarget s.ev.src[l.src].target l.part).bind (liveRing s) with
    | some (.seq n) => clusterOfVe n == c
    | _ => false)

end Sys2Proof.Machine
end

