-- ==== Sys2Proof/Machine/Arbiter.lean ====
section
/-!
DEFINITION. The masters of Table 9.1, the arbiters on their way to memory (R250-R256), the bridges that carry their traffic (R260), and the
access of one word by a master: every unit's reads and writes of memory but the device's own upkeep go through `via`.
-/

namespace Sys2Proof.Machine

/-- Base priority of pseudo-channel slot `i` (Table 9.7). -/
def pcBase (s : State) (i : Nat) : Nat := fld s.fab.pcBasePrio (4 * i + 3) (4 * i)

/-- The winner among the requesting slots: the highest priority, ties to the parked slot at an idle arbiter, else to the first tied slot
after the last granted one, wrapping (R253). -/
def arbPick (a : Arb) (parked : Nat) (idle : Bool) (c : List Nat) : Option Nat :=
  let best := (c.map fun i => nth a.prio i 0).foldl max 0
  let tied := c.filter fun i => nth a.prio i 0 == best
  if idle && tied.contains parked then some parked
  else argMin (fun i => (i + 2 * a.prio.length - a.last - 1) % a.prio.length) tied

/-- The arbiter after the decision: losers gain a priority up to 15, the winner returns to its base (R253). -/
def arbGrant (a : Arb) (base : Nat → Nat) (c : List Nat) (w : Nat) : Arb :=
  { a with
    last := w
    prio := a.prio.zipIdx.map fun (p, i) => if i = w then base i else if c.contains i then min (p + 1) 15 else p }

/-- A decision with requester `me` among `others`: the arbiter after it when `me` wins. -/
def arbWin (a : Arb) (base : Nat → Nat) (parked : Nat) (idle : Bool) (me : Nat) (others : List Nat) : Option Arb :=
  let c := (me :: others).eraseDups
  if arbPick a parked idle c = some me then some (arbGrant a base c me) else none

/-- A decision in a contest; an arbiter whose FREEZE is set makes no grant (R253, R256). -/
def arbContest (a : Arb) (base : Nat → Nat) (parked me : Nat) (k : Contest) : Option Arb :=
  if a.frozen then none else arbWin a base parked k.idle me (k.others.map (·.val))

/-! ### Masters and their targets -/

/-- The kinds of master of Table 9.1. -/
inductive MasterKind where
  | engine (n : VeId) (unit : Nat)
  | hostPath (h : PortId)
  | nest (d : DieId)
  | twin
  | crc (u : CrcId)
  | supervisor
  | events
  | ledger
  | dictionary
  | unused
deriving DecidableEq, Repr

/-- The master that a number names (Table 9.1). -/
def masterKind (m : Nat) : MasterKind :=
  if m < 512 then (if m % 8 = 7 then .unused else .engine (Fin.ofNat 64 (m / 8)) (m % 8))
  else if m < 0x204 then .hostPath (Fin.ofNat 4 (m - 0x200))
  else if 0x210 ≤ m ∧ m < 0x214 then .nest (Fin.ofNat 4 (m - 0x210))
  else if m = 0x220 then .twin
  else if 0x230 ≤ m ∧ m < 0x240 then .crc (Fin.ofNat 16 (m - 0x230))
  else if m = 0x240 then .supervisor
  else if m = 0x241 then .events
  else if m = 0x242 then .ledger
  else if m = 0x243 then .dictionary
  else .unused

/-- The number of a master (Table 9.1). -/
def masterNum : MasterKind → BitVec 10
  | .engine n u => BitVec.ofNat 10 (8 * n.val + u)
  | .hostPath h => BitVec.ofNat 10 (0x200 + h.val)
  | .nest d => BitVec.ofNat 10 (0x210 + d.val)
  | .twin => 0x220
  | .crc u => BitVec.ofNat 10 (0x230 + u.val)
  | .supervisor => 0x240
  | .events => 0x241
  | .ledger => 0x242
  | .dictionary => 0x243
  | .unused => 0x3FF

/-- The die a master's requests start from (R247). -/
def masterDie : MasterKind → Nat
  | .engine n _ => n.val / 16
  | .hostPath h => h.val
  | .nest d => d.val
  | .twin => 3
  | .crc u => u.val / 4
  | _ => 0

/-- Its slot at a pseudo-channel arbiter (Table 9.3). -/
def pcSlot : MasterKind → Nat
  | .engine n _ => n.val / 8
  | .hostPath h => 8 + h.val
  | .nest _ => 12
  | .twin => 13
  | .crc _ => 15
  | _ => 14

/-- Its owner code at a bank (R233); masters that never own a bank have 0. -/
def masterCode (s : State) (b : BankId) : MasterKind → Nat
  | .engine n _ => veCode s n
  | .hostPath _ => 0x80 + s.banks[b].part.toNat
  | .nest d => 0xC0 + d.val
  | _ => 0

/-! ### Arbitration -/

/-- Pseudo-channel number of Table 9.3. -/
def pcIndex (st : StackId) (c : Fin 32) : Fin 256 := ⟨32 * st.val + c.val, by omega⟩

/-- A quiet window freezes the pseudo-channel (R228). -/
def inQuiet (k : Stack) (c : Nat) : Bool :=
  match k.quiet with
  | some g => c / 8 == g.val
  | none => false

/-- The pseudo-channel's arbiter grants slot `me` now, in a contest (R250, R253, R256). -/
def pcGrant (s : State) (st : StackId) (c : Fin 32) (me : Nat) (k : Contest) : Option State :=
  let q := pcIndex st c
  if inQuiet s.stk[st] c.val then none
  else (arbContest s.fab.pcArb[q] (pcBase s) st.val me k).map fun a => { s with fab := { s.fab with pcArb := updV s.fab.pcArb q fun _ => a } }

/-- The bank's tap arbiter grants slot `me` now. In the debug freeze host debug, slots 1-4, is the emergency requester, granted without a
decision on priorities, and no other slot is granted (R253, R256, Table 9.3). -/
def tapGrant (s : State) (b : BankId) (me : Nat) (k : Contest) : Option State :=
  if frozen s then (if me = 0 then none else some s)
  else (arbContest s.fab.tapArb[b] (fun _ => 0) 0 me k).map fun a => { s with fab := { s.fab with tapArb := updV s.fab.tapArb b fun _ => a } }

/-- The target's arbiter decides for a fragment of master `m`; the owner port has no arbiter (R251). -/
def grantFor (s : State) (m : MasterKind) (u : MemUnit) (viaTap : Bool) (k : Contest) : Option State :=
  match u with
  | .pc st c _ _ => pcGrant s st c (pcSlot m) k
  | .bank b => if viaTap then tapGrant s b 0 k else some s

/-- The next of a VE's masters in the fixed rotation after the one last granted (R251). -/
def nextUnit (last : Nat) (units : List Nat) : Option Nat := argMin (fun i => (i + 13 - last) % 7) units

/-- A request leaves its master: a VE's takes its turn among the VE's masters and wins the cluster port, a management master's wins the
management port; the others have no such arbiter (R251, Table 9.3). -/
def portGrant (s : State) (m : MasterKind) (r : Rivals) : Option State :=
  match m with
  | .engine n unit =>
    if nextUnit s.fab.veTurn[n].val (unit :: r.own.map (·.val)) ≠ some unit then none
    else (arbContest s.fab.clusterArb[clusterOfVe n] (fun _ => 0) 0 (n.val % 8) r.port).map fun a =>
      { s with fab := { s.fab with clusterArb := updV s.fab.clusterArb (clusterOfVe n) fun _ => a
                                   veTurn := updV s.fab.veTurn n fun _ => Fin.ofNat 8 unit } }
  | .supervisor => mgt 0
  | .events => mgt 1
  | .ledger => mgt 2
  | .dictionary => mgt 3
  | _ => some s
where
  /-- The management port's decision for one of its slots. -/
  mgt (slot : Nat) : Option State :=
    (arbContest s.fab.mgtArb (fun _ => 0) 0 slot r.port).map fun a => { s with fab := { s.fab with mgtArb := a } }

/-- A master's slot at the bridge by which its requests leave their die (Table 9.3). -/
def bridgeSlot : MasterKind → Nat
  | .engine n _ => n.val / 8 % 2
  | .hostPath _ => 2
  | .nest _ => 3
  | .twin => 5
  | .crc _ => 6
  | _ => 4

/-- A bridge sends a fragment or a response of master `m`: it takes the next number of the link sequence, the far bridge passes it on, and the
bridge keeps it until the acknowledgement comes back (R260, log 103). -/
def carry (m : BitVec 10) (b : Bridge) : Bridge := { sent := b.sent + 1, passed := b.sent + 1, kept := b.kept ++ [(b.sent + 1, m)] }

/-- A request of master `m` goes over the bridges of its way, and its response comes back over those of the other direction (R247, R260). -/
def crossWay (m : MasterKind) (way : List (Nat × Nat)) (s : State) : State :=
  if way.isEmpty then s
  else
    { s with fab := { s.fab with bridges := way.foldl (fun v x =>
      updV (updV v (Fin.ofNat 8 (2 * x.1 + x.2)) (carry (masterNum m))) (Fin.ofNat 8 (2 * x.1 + (1 - x.2))) (carry (masterNum m))) s.fab.bridges } }

/-- The acknowledgements of everything that the bridges have sent come back: they are there by the next nanosecond of device time (R260, log 103). -/
def ackBridges (s : State) : State := { s with fab := { s.fab with bridges := s.fab.bridges.map fun b => { b with kept := [] } } }

/-- A request crosses its path's bridges, relayed traffic with slot 7, the parked slot (R250, R251). -/
def bridgesGrant (slot : Nat) : List (Nat × Nat) → List Contest → State → Option State
  | [], _, s => some s
  | (l, d) :: r, ks, s =>
    let i : Fin 8 := Fin.ofNat 8 (2 * l + d)
    (arbContest s.fab.bridgeArb[i] (fun _ => 0) 7 slot (ks.headD .alone)).bind fun a =>
      bridgesGrant 7 r ks.tail { s with fab := { s.fab with bridgeArb := updV s.fab.bridgeArb i fun _ => a } }

/-- The way of a request of master `m` to unit `u`: the links it crosses (R21). -/
def wayOf (s : State) (m : MasterKind) (u : MemUnit) : List (Nat × Nat) := (diePath s (masterDie m) (unitDie u)).getD []

/-- A request of master `m` wins every arbiter on its way to unit `u` and there (R251). -/
def pathGrant (s : State) (m : MasterKind) (u : MemUnit) (viaTap : Bool) (r : Rivals) : Option State :=
  if frozen s then none
  else (portGrant s m r).bind fun s1 =>
    (bridgesGrant (bridgeSlot m) (wayOf s m u) r.bridges s1).bind fun s2 => (grantFor s2 m u viaTap r.target).map (crossWay m (wayOf s m u))

/-! ### Requests that meet no rival

The accesses of engines, sequencers, stream paths, the nest and the twin that a command makes as a whole meet no rival at any arbiter: the
commands of single fragments spell the contests (log 102). -/

/-- The arbiter after a grant to its only requester (R253). -/
def arbAlone (base : Nat → Nat) (me : Nat) (a : Arb) : Arb := arbGrant a base [me] me

/-- A cluster or management port makes no grant to the master (R256). -/
def portFrozen (s : State) : MasterKind → Bool
  | .engine n _ => s.fab.clusterArb[clusterOfVe n].frozen
  | .supervisor => s.fab.mgtArb.frozen
  | .events => s.fab.mgtArb.frozen
  | .ledger => s.fab.mgtArb.frozen
  | .dictionary => s.fab.mgtArb.frozen
  | _ => false

/-- The target makes no grant: a quiet window or a FREEZE of its arbiter (R228, R256); the owner port has none (R251). -/
def targetFrozen (s : State) (viaTap : Bool) : MemUnit → Bool
  | .pc st c _ _ => inQuiet s.stk[st] c.val || s.fab.pcArb[pcIndex st c].frozen
  | .bank b => viaTap && s.fab.tapArb[b].frozen

/-- The debug freeze holds the master's requests (R415); the nest's observation of a design cycle that has committed goes on in it (R434 row 23). -/
def freezeHolds (s : State) : MasterKind → Bool
  | .nest _ => false
  | _ => frozen s

/-- A request of master `m` to unit `u` waits at an arbiter that makes no grant (R256). -/
def pathWaits (s : State) (m : MasterKind) (u : MemUnit) (viaTap : Bool) : Bool :=
  freezeHolds s m || portFrozen s m || ((wayOf s m u).any fun x => s.fab.bridgeArb[Fin.ofNat 8 (2 * x.1 + x.2)].frozen) || targetFrozen s viaTap u

/-- The cluster or management port after the master's request has left through it (R251, R253). -/
def portTake (s : State) : MasterKind → State
  | .engine n u =>
    { s with fab := { s.fab with clusterArb := updV s.fab.clusterArb (clusterOfVe n) (arbAlone (fun _ => 0) (n.val % 8))
                                 veTurn := updV s.fab.veTurn n fun _ => Fin.ofNat 8 u } }
  | .supervisor => mgt 0
  | .events => mgt 1
  | .ledger => mgt 2
  | .dictionary => mgt 3
  | _ => s
where
  /-- The management port after one of its slots has been granted. -/
  mgt (slot : Nat) : State := { s with fab := { s.fab with mgtArb := arbAlone (fun _ => 0) slot s.fab.mgtArb } }

/-- The bridges' arbiters after a request has crossed them, beyond the first with the slot of relayed traffic. -/
def bridgesTake (slot : Nat) : List (Nat × Nat) → State → State
  | [], s => s
  | x :: r, s =>
    bridgesTake 7 r { s with fab := { s.fab with bridgeArb := updV s.fab.bridgeArb (Fin.ofNat 8 (2 * x.1 + x.2)) (arbAlone (fun _ => 0) slot) } }

/-- The target's arbiter after it has granted the master. -/
def targetTake (s : State) (m : MasterKind) (viaTap : Bool) : MemUnit → State
  | .pc st c _ _ => { s with fab := { s.fab with pcArb := updV s.fab.pcArb (pcIndex st c) (arbAlone (pcBase s) (pcSlot m)) } }
  | .bank b => if viaTap then { s with fab := { s.fab with tapArb := updV s.fab.tapArb b (arbAlone (fun _ => 0) 0) } } else s

/-- A request of master `m` reaches unit `u`: each arbiter on its way has granted it, its only requester, and the bridges have carried it and its
response (R251, R253, R260). -/
def pathTake (s : State) (m : MasterKind) (u : MemUnit) (viaTap : Bool) : State :=
  let w := wayOf s m u
  targetTake (crossWay m w (bridgesTake (bridgeSlot m) w (portTake s m))) m viaTap u

/-- An access of master `m` to device address `a`: a fenced or unreachable unit answers at once (R21, R239); a frozen arbiter or a quiet window on
the way makes it wait, status 9; otherwise `f` serves it at its target. -/
def via (s : State) (m : MasterKind) (a : Nat) (f : State → Acc) : Acc :=
  match unitOf s a with
  | none => { data := 0, status := 4, s := s }
  | some u =>
    if unitFenced s (masterDie m) u then { data := 0, status := 8, s := s }
    else if pathWaits s m u false then { data := 0, status := 9, s := s }
    else f (pathTake s m u false)

/-- The same by a bank's tap port, from the die of the bank's own nest (R237). -/
def viaTap (s : State) (m : MasterKind) (b : BankId) (f : State → Acc) : Acc :=
  if pathWaits s m (.bank b) true then { data := 0, status := 9, s := s } else f (pathTake s m (.bank b) true)

/-- A master of a bank's new owner waits at the bank while it is handed over (R234): the wait-for watchdog times it (R258). -/
def noteWait (s : State) (m : MasterKind) (a : Nat) : State :=
  match unitOf s a with
  | some (.bank b) =>
    if ownerCheck s.banks[b] (masterCode s b m) = 9 ∧ !s.banks[b].waiters.contains (masterNum m) then
      modBank s b fun k => { k with waiters := k.waiters ++ [masterNum m] }
    else s
  | _ => s

/-! ### FREEZE -/

/-- FREEZE of the arbiter with a number in the order of `Config.freezeReg` (R256). -/
def setFreeze (s : State) (i : Nat) (v : Bool) : State :=
  let f := s.fab
  let up {n : Nat} (x : Vector Arb n) (j : Nat) : Vector Arb n :=
    .ofFn fun q => if q.val = j then { x[q] with frozen := v } else x[q]
  { s with fab :=
    if i < 256 then { f with pcArb := up f.pcArb i }
    else if i < 512 then { f with tapArb := up f.tapArb (i - 256) }
    else if i < 640 then { f with rxArb := up f.rxArb (i - 512) }
    else if i < 656 then { f with crcArb := up f.crcArb (i - 640) }
    else if i < 664 then { f with clusterArb := up f.clusterArb (i - 656) }
    else if i < 672 then { f with bridgeArb := up f.bridgeArb (i - 664) }
    else if i = 672 then { f with mgtArb := { f.mgtArb with frozen := v } }
    else f }

/-- The supervisor's write of an arbiter's FREEZE through the internal register space; a write elsewhere there is discarded (R256, logs 21
and 28). -/
def freezeWrite (s : State) (a : Nat) (v : Bool) : State :=
  match Config.freezeReg a with
  | some i => setFreeze s i v
  | none => s

/-! ### Partition-relative access -/

/-- A read by master `m` of the word at partition-relative offset `x`; outside the bounds no access is made. -/
def readPart (s : State) (p : PartId) (m : MasterKind) (code : Nat) (space : Bool) (x : Nat) : Acc :=
  match partDev s p space x with
  | some a => via s m a fun t => readWord t (masterDie m) code (a / 16 * 16)
  | none => { data := 0, status := 4, s := s }

/-- A write of masked bytes at partition-relative offset `x`. -/
def writePart (s : State) (p : PartId) (m : MasterKind) (code : Nat) (space : Bool) (x : Nat) (v : W128) (mask : List Bool) : Acc :=
  match partDev s p space x with
  | some a => via s m a fun t => writeMasked t (masterDie m) code (a / 16 * 16) v mask
  | none => { data := 0, status := 4, s := s }

/-- All of a word's bytes. -/
def allBytes : List Bool := List.replicate 16 true

/-- A master waits at the bank that holds partition-relative offset `x`. -/
def noteWaitAt (s : State) (p : PartId) (m : MasterKind) (space : Bool) (x : Nat) : State :=
  match partDev s p space x with
  | some a => noteWait s m a
  | none => s

/-- Words read at ascending offsets; stops at the first bad status, giving its offset and status. -/
def readRun (s : State) (p : PartId) (m : MasterKind) (code : Nat) (space : Bool) (x : Nat) : Nat → List W128 × Option (Nat × Nat) × State
  | 0 => ([], none, s)
  | n + 1 =>
    let r := readPart s p m code space x
    if r.status ≠ 0 then ([], some (x, r.status), r.s)
    else
      let (l, e, s2) := readRun r.s p m code space (x + 16) n
      (r.data :: l, e, s2)

/-- Words written at ascending offsets; stops at the first bad status, giving the offset and status. -/
def writeRun (s : State) (p : PartId) (m : MasterKind) (code : Nat) (space : Bool) (x : Nat) : List W128 → Option (Nat × Nat) × State
  | [] => (none, s)
  | v :: vs =>
    let r := writePart s p m code space x v allBytes
    if r.status ≠ 0 then (some (x, r.status), r.s) else writeRun r.s p m code space (x + 16) vs

end Sys2Proof.Machine
end

