-- ==== Sys2Proof/Machine/Except.lean ====
section
/-!
DEFINITION. What a sequencer core may reach (R153, R154, R192), the exception frame, entry, double fault and the interrupt
sources (R193-R209), shared by every instruction.
-/

namespace Sys2Proof.Machine

/-- The partition a VE core works for. -/
def corePart (s : State) : CoreId → Option PartId
  | .ve n => execPart s n
  | .sv => none

/-- Working RAM offset that a low-window address reaches, or none where it is boot ROM (R249). -/
def lowRam (s : State) (a : Nat) : Bool := s.fab.remap || decide (0x40000 ≤ a)

/-- Kind of access a core makes. -/
inductive Want where
  | read
  | write
  | fetch
deriving DecidableEq, Repr

/-- Checks an access of up to 16 bytes in one word meets before it is sent (R154, Table 7.2): 0 admitted, a fault kind of R195, or 9
held at a bank in handover. Bit 39 of a VE core's address is its register block, which is no memory. -/
def accCheck (s : State) (c : CoreId) (w : Want) (a : Nat) : Nat :=
  match c with
  | .ve n =>
    if 2 ^ 39 ≤ a then 0x0B
    else
      match execPart s n with
      | none => 4
      | some p =>
        match partDev s p (a.testBit 38) (a % 2 ^ 38) with
        | none => 4
        | some d =>
          match unitOf s d with
          | none => 4
          | some u =>
            if unitFenced s (n.val / 16) u then 8
            else
              match u with
              | .bank b => ownerCheck s.banks[b] (veCode s n)
              | .pc _ _ _ _ => 0
  | .sv =>
    if a < 0x100000 then (if w = .write && !lowRam s a then 0x0C else 0)
    else if hbmLo ≤ a ∧ a < hbmHi then
      if w = .fetch then 0x0C
      else
        match unitOf s a with
        | some u => if unitFenced s 0 u then 8 else 0
        | none => 4
    else if 0x8000000000 ≤ a ∧ w ≠ .fetch then 0
    else 0x0C

/-- The master that makes a core's access (Table 9.1). -/
def coreMaster (c : CoreId) (w : Want) : MasterKind :=
  match c with
  | .ve n => .engine n (if w = .fetch then 4 else 5)
  | .sv => .supervisor

/-- A core's access to partition memory at `a` waits at the bank that is handed over to it (R234, R258). -/
def noteCore (s : State) (c : CoreId) (w : Want) (a : Nat) : State :=
  match c with
  | .sv => s
  | .ve n =>
    match execPart s n with
    | some p => noteWaitAt s p (.engine n (if w = .fetch then 4 else 5)) (a.testBit 38) (a % 2 ^ 38)
    | none => s

/-- An access of the supervisor to its internal space and the boot window passes the management port (Table 9.3); the debug freeze does not
hold it, for the supervisor goes on serving (R415; log 102). -/
def internalVia (s : State) (f : State → Acc) : Acc :=
  if s.fab.mgtArb.frozen then { data := 0, status := 9, s := s } else f (portTake s .supervisor)

/-- The word at a 16-byte aligned address of working RAM or boot ROM. -/
def ramWord (s : State) (rom : Bool) (off : Nat) : W128 :=
  if rom then wordOfBytes ((List.range 16).map fun i => Config.romByte (off + i))
  else wordOfBytes (cellsGet s.mem.ram off 16)

/-- The supervisor's read of the word at `a` outside HBM: working RAM, boot ROM, or a register of the internal space, whose value no rule gives. -/
def internalWord (s : State) (a : Nat) : Acc :=
  if a < 0x100000 then { data := ramWord s (!lowRam s a) a, status := 0, s := s }
  else if 0x80F0000000 ≤ a ∧ a < 0x80F0100000 then { data := ramWord s false (a - 0x80F0000000), status := 0, s := s }
  else if 0x80F0100000 ≤ a ∧ a < 0x80F0140000 then { data := ramWord s true (a - 0x80F0100000), status := 0, s := s }
  else { data := (drawWord s).1, status := 0, s := (drawWord s).2 }

/-- An admitted read of the word holding address `a` (16-byte aligned), with its ECC outcome; status 9 while an arbiter on the way makes no
grant (R256). -/
def coreRead (s : State) (c : CoreId) (w : Want) (a : Nat) : Acc :=
  match c with
  | .ve n =>
    match execPart s n with
    | none => { data := 0, status := 4, s := s }
    | some p => readPart s p (coreMaster c w) (veCode s n) (a.testBit 38) (a % 2 ^ 38)
  | .sv =>
    if hbmLo ≤ a ∧ a < hbmHi then via s .supervisor a fun t => readWord t 0 0 a
    else internalVia s fun t => internalWord t a

/-- The partition-relative HBM offset lies in a DMEM_INIT section (R44). -/
def inDmem (q : Partition) (x : Nat) : Bool :=
  match q.image with
  | some im => im.sections.any fun e => e.kind == 6 && decide (e.offset ≤ x ∧ x < e.offset + e.length)
  | none => false

/-- The JOURNAL section of an image (Table 2.3). -/
def journalOf (im : Image) : Option Section := im.sections.find? fun x => x.kind == 7

/-- Entry `i` of the design-memory write queue is put in the first 32 bytes per word of the JOURNAL section (R401); its two words are laid out
by no rule, so they are free values (log 83). The status is 9 while the writes wait, else 0: a fence ends the segment by itself (R241). -/
def journalQueue (s : State) (m : MasterKind) (code : Nat) (p : PartId) (i : Nat) : Nat × State :=
  match s.parts[p].image with
  | none => (0, s)
  | some im =>
    match journalOf im with
    | some x =>
      if i < im.hdr.dmwMax then
        let r := drawWord s
        let t := drawWord r.2
        let w := writeRun t.2 p m code (x.space == 1) (x.offset + 32 * i) [r.1, t.1]
        if w.1.map (·.2) = some 9 then (9, s) else (0, w.2)
      else (0, s)
    | none => (0, s)

/-- A write of VE `n`'s unit `u` during evaluation of its partition: design-memory words join the write queue, others are written (R44). -/
def veWrite (s : State) (n : VeId) (u : Nat) (p : PartId) (space : Bool) (x : Nat) (v : W128) (mask : List Bool) : Acc :=
  let q := s.parts[p]
  match q.run with
  | some r =>
    if !space && inDmem q x then
      match partDev s p false x with
      | none => { data := 0, status := 4, s := s }
      | some _ =>
        let lve := (q.bind.idxOf n)
        let w : DmWrite := { lve := lve, addr := x / 16 * 16, data := v, mask := mask }
        let j := journalQueue s (.engine n u) (veCode s n) p r.dmq.length
        { data := 0, status := j.1
          s := if j.1 = 0 then modPart j.2 p fun q => { q with run := some { r with dmq := r.dmq ++ [w] } } else s }
    else writePart s p (.engine n u) (veCode s n) space x v mask
  | none => writePart s p (.engine n u) (veCode s n) space x v mask

/-- The supervisor's store to an arbiter's FREEZE: bit 0 of the word, where its byte is written (R256). -/
def setFreezeOf (s : State) (a : Nat) (v : W128) (mask : List Bool) : State := if nth mask 0 false then freezeWrite s a (bit v 0) else s

/-- The supervisor's write outside HBM: working RAM takes it; in the internal register space an arbiter's FREEZE does, and a write elsewhere is
discarded (R249, R256, logs 21 and 28). -/
def internalStore (s : State) (a : Nat) (v : W128) (mask : List Bool) : State :=
  let put (off : Nat) : State :=
    { s with mem := { s.mem with ram := cellsSet s.mem.ram off (bytesOf (mergeBytes (ramWord s false off) v mask) 16) } }
  if a < 0x100000 then put a
  else if 0x80F0000000 ≤ a ∧ a < 0x80F0100000 then put (a - 0x80F0000000)
  else setFreezeOf s a v mask

/-- An admitted write of masked bytes of the word at `a` (16-byte aligned). -/
def coreWrite (s : State) (c : CoreId) (a : Nat) (v : W128) (mask : List Bool) : Acc :=
  match c with
  | .ve n =>
    match execPart s n with
    | none => { data := 0, status := 4, s := s }
    | some p => veWrite s n 5 p (a.testBit 38) (a % 2 ^ 38) v mask
  | .sv =>
    if hbmLo ≤ a ∧ a < hbmHi then via s .supervisor a fun t => writeMasked t 0 0 a v mask
    else internalVia s fun t => { data := 0, status := 0, s := internalStore t a v mask }

/-- The address by which a core's caches may hold the word stored at `a`: the supervisor's working RAM has one in the low window too (R249). -/
def cacheAddr (s : State) (c : CoreId) (a : Nat) : Nat :=
  if c = .sv ∧ 0x80F0000000 ≤ a ∧ a < 0x80F0100000 ∧ lowRam s (a - 0x80F0000000) then a - 0x80F0000000 else a

/-- A store's effect on the core's own caches: the data cache's copy is kept current, its line keeping its place in the order of use (log 105), and a
code line or a prefetched word holding a byte of it is discarded (R179, R180). -/
def cacheStore (s : State) (c : CoreId) (a : Nat) (v : W128) (mask : List Bool) : State :=
  let x := cacheAddr s c a
  modCore s c fun k =>
    { k with
      icache := k.icache.filter (· ≠ x / 64)
      ahead := k.ahead.map fun b => { b with words := b.words.filter fun w => w.1 ≠ x / 16 }
      dcache := k.dcache.map fun l =>
        if l.line = x / 64 then { l with words := updL l.words (x / 16 % 4) fun w => mergeBytes w v mask } else l }

/-- The store enters the design-memory write queue, so memory and caches keep their old value until commit (R44). -/
def storeQueued (s : State) (c : CoreId) (a : Nat) : Bool :=
  match corePart s c with
  | some p => s.parts[p].run.isSome && !a.testBit 38 && inDmem s.parts[p] (a % 2 ^ 38)
  | none => false

/-- Masked bytes of a 16-byte word stored by a core with its caches. -/
def coreStore (s : State) (c : CoreId) (a : Nat) (v : W128) (mask : List Bool) : Acc :=
  let r := coreWrite s c a v mask
  if r.status = 0 ∧ !storeQueued s c a then { r with s := cacheStore r.s c a v mask } else r

/-- Lines of one set keep the four most recently used (R179): `key` gives a line's number. -/
def lru {α : Type} (key : α → Nat) (x : α) (ls : List α) : List α :=
  let rest := ls.filter fun y => key y ≠ key x
  let set := rest.filter fun y => key y % 64 = key x % 64
  match set.drop 3 with
  | [] => x :: rest
  | old => x :: rest.filter fun y => !(old.map key).contains (key y)

/-- A partition in deterministic mode has caches and prediction off (R189). -/
def detCore (s : State) (c : CoreId) : Bool :=
  match corePart s c with
  | some p => (match s.parts[p].run with | some r => r.det | none => false)
  | none => false

/-- The four words of line `l` read from memory: their statuses and data. -/
def lineRead (s : State) (c : CoreId) (l : Nat) : List (Nat × W128) × State :=
  (List.range 4).foldl (fun (x : List (Nat × W128) × State) i =>
    let r := coreRead x.2 c .fetch (64 * l + 16 * i)
    (x.1 ++ [(r.status, r.data)], r.s)) ([], s)

/-- Words that the fetch unit in deterministic mode has read, good or bad; one that waits or is not admitted is asked for again. -/
def aheadRead (c : CoreId) (ws : List Nat) (s : State) : List (Nat × Nat) × State :=
  ws.foldl (fun x w =>
    let r := coreRead x.2 c .fetch (16 * w)
    if r.status = 9 then x else (if r.status = 0 ∨ r.status = 6 ∨ r.status = 7 then x.1 ++ [(w, r.status)] else x.1, r.s)) ([], s)

/-- A fetch in deterministic mode (R189): it reads aligned 32-byte blocks one block ahead. Going on into a new block reads the block behind it, and
a transfer of control reads its block and the next; a word already read is not read again. -/
def fetchDet (s : State) (c : CoreId) (a : Nat) : Nat × State :=
  let f := core s c
  let old : FetchBuf := f.ahead.getD { at' := 0, words := [] }
  let onward := f.ahead.isSome && (a == old.at' || a == old.at' + 2 || a == old.at' + 4)
  let known := if onward then old.words.filter fun w => a / 32 ≤ w.1 / 2 && w.1 / 2 ≤ a / 32 + 1 else []
  let want := if onward && a / 32 == old.at' / 32 then [a / 16] else (List.range 4).map (a / 32 * 2 + ·)
  let r := aheadRead c (want.filter fun w => !known.any (·.1 == w)) s
  let all := known ++ r.1
  let t := modCore r.2 c fun _ => { f with ahead := some { at' := a, words := all } }
  match all.find? (·.1 == a / 16) with
  | some w => (w.2, t)
  | none => ((coreRead s c .fetch (a / 16 * 16)).status, t)

/-- The fetch of the halfword at `a`: 0, the fault kind it fails with (R154, R192, R195), or 9 while its bank is being handed over (R234) or an
arbiter on the way makes no grant (R256). A hit of the instruction cache reads nothing; a miss is counted and reads the line, which is allocated
unless one of its words is bad (R179). In deterministic mode there is no cache (R189). -/
def fetchAt (s : State) (c : CoreId) (a : Nat) : Nat × State :=
  let k := accCheck s c .fetch a
  if k = 9 then (9, noteCore s c .fetch a)
  else if k ≠ 0 then (k, s)
  else if detCore s c then
    let r := fetchDet s c a
    if r.1 = 9 then (9, s) else r
  else
    let l := a / 64
    let f := core s c
    if f.icache.contains l then (0, modCore s c fun k => { k with icache := lru id l k.icache })
    else
      let r := lineRead s c l
      let k := (nth r.1 (a / 16 % 4) (0, 0)).1
      if k = 9 then (9, s)
      else
        (k, modCore r.2 c fun _ =>
          { f with icMiss := satInc f.icMiss, icache := if r.1.all (·.1 == 0) then lru id l f.icache else f.icache })

/-- What the fetch of an instruction finds: it is served, waits at a bank in handover or at an arbiter, or fails with a kind at an address. -/
inductive FetchRes where
  | ok
  | held
  | bad (kind addr : Nat)
deriving DecidableEq, Repr

/-- The fetch of the instruction at the PC, and of the second halfword of a 32-bit one that goes on in the next word (R154, R163). -/
def fetchGo (s : State) (c : CoreId) (long : Bool) : FetchRes × State :=
  let pc := (core s c).r.pc.toNat
  let x := fetchAt s c pc
  if x.1 = 9 then (.held, x.2)
  else if x.1 ≠ 0 then (.bad x.1 pc, x.2)
  else if long ∧ pc % 16 = 14 then
    let b := (pc + 2) % 2 ^ 40
    let y := fetchAt x.2 c b
    if y.1 = 9 then (.held, y.2) else if y.1 ≠ 0 then (.bad y.1 b, y.2) else (.ok, y.2)
  else (.ok, x.2)

/-- An instruction word is 32 bits long: the two highest bits of its first halfword are 1 (R163). -/
def isLong (enc : W32) : Bool := fld enc 31 30 == 3

/-- The state once the instruction at the PC, of 32 bits or of 16, has been fetched. -/
def fetched (s : State) (c : CoreId) (long : Bool) : State := (fetchGo s c long).2

/-! ### Event numbers of a core -/

/-- Source 8n + i of VE n; on the supervisor 723 stands for 8n + 6 and 724 for 8n + 7 (Table 13.3). -/
def coreEvent (s : State) (c : CoreId) (i : Nat) (dt : W32) : State :=
  match c with
  | .ve n => raiseN s (8 * n.val + i) dt
  | .sv => if i = 6 then raiseN s 723 dt else if i = 7 then raiseN s 724 dt else s

/-! ### Double fault -/

/-- The CAUSE word of a frame (R194). -/
def causeWord (v code qual : Nat) : W64 := at' 64 56 v ||| at' 64 32 code ||| BitVec.ofNat 64 qual

/-- The emergency frame of a core (Table 7.10). -/
def emerOf (r : Regs) (reason : Nat) (pc : W64) (cause detail : W64) : Emergency :=
  { reason := BitVec.ofNat 8 reason, pc := pc, fl := r.fl, cause := cause, detail := detail, g7 := r.g[(7 : Fin 8)]
    win := at' 32 8 r.cwp.val ||| at' 32 4 r.resident.val, spillTop := r.spillTop }

/-- The firmware begins to restart at its warm entry (R209): both cores' state is cleared and in recovery microcode, claims of the supervisor are
lost, and accepted commits fail with 0x0703. -/
def warmRestart (s : State) : State :=
  let s1 := { s with sv :=
    { s.sv with r := { Regs.start with pc := s.boot.warm.setWidth 40 }, st := .recovery, icache := [], dcache := []
                bp := .replicate 512 1, openFaults := [], begunBarrier := false, arrived := false, entry := none } }
  let s2 := loseClaims s1 fun c => c.by'.val == 5
  s2.dict.pending.foldl (fun t pd => commitDone t pd (failLedgers t pd.grp) 0x0703 0x0030 ((grpCtl pd.grp).1.setWidth 64)) s2

/-- The supervisor is in the recovery microcode of a restart (R209, R212), not in start-up or after a lockstep mismatch. -/
def restarting (s : State) : Bool := s.sv.st == .recovery && decide (2 < s.boot.step) && s.ls.state != 1

/-- Recovery microcode of the supervisor ends (log 20): after a restart the firmware runs from its warm entry and raises event 720 (R209); after a
lockstep mismatch both cores resume where they were compared last (R216). -/
def restartEnd (s : State) : State :=
  if s.sv.st == .recovery && s.ls.state == 1 then { s with sv := { s.sv with st := .running }, ls := { s.ls with state := 0 } }
  else if restarting s && s.ls.state != 2 then raiseN { s with sv := { s.sv with st := .running } } 720 (s.sv.emer.reason.setWidth 32)
  else s

/-- The VEs' recovery microcode ends once boot has left start-up behind: the restart of a paired engine goes on from its last compared boundary
(R215, R389; log 20). -/
def recoveryEnd (s : State) : State :=
  { s with seq := .ofFn fun n : Fin 64 =>
    let k := s.seq[n]
    if k.st = .recovery ∧ k.back ≠ .unbound ∧ 5 < s.boot.step ∧ clockRuns s (clusterOfVe n) then { k with st := k.back, back := .unbound } else k }

/-- A double fault (R206, R208, R209): `v` the vector being entered (0 for reason 4), with the frame that failed. -/
def doubleFault (s : State) (c : CoreId) (reason v : Nat) (pc : Addr) (cause detail : W64) : State :=
  let e := emerOf (core s c).r reason (pc.setWidth 64) cause detail
  let s1 := coreEvent (modCore s c fun k => { k with emer := e }) c 6 (at' 32 24 3 ||| at' 32 16 v)
  match c with
  | .ve n =>
    let s2 := modEng (modSeq s1 n fun k => { k with st := .doubleFault, openFaults := [], entry := none }) n fun g =>
      { g with queue := [], openIns := [], stopped := false, vfDue := false }
    match execPart s n with
    | some p => failSegment s2 p 0x0701 (at' 64 58 n.val ||| at' 64 50 v ||| at' 64 46 reason ||| pc.setWidth 64)
    | none => s2
  | .sv => warmRestart s1

/-! ### Entry -/

/-- The handler address of vector `v` (R193). -/
def vectorAddr (r : Regs) (v : Nat) : Addr := (r.vbase.setWidth 40 &&& ~~~(0x1FF : Addr)) + BitVec.ofNat 40 (16 * v)

/-- The frame's first word: PC_SAVED and FL_SAVED. -/
def frameLo (pc : Addr) (fl : W64) : W128 := at' 128 0 (pc.toNat / 2 * 2) ||| at' 128 64 fl.toNat
/-- The frame's second word: CAUSE and DETAIL. -/
def frameHi (cause detail : W64) : W128 := at' 128 0 cause.toNat ||| at' 128 64 detail.toNat

/-- The two words of a frame written at `a`: none while a write waits (R234, R256). -/
def frameWrite (s : State) (c : CoreId) (a : Nat) (lo hi : W128) : Option State :=
  let x := coreStore s c a lo allBytes
  let y := coreStore x.s c (a + 16) hi allBytes
  if x.status = 9 ∨ y.status = 9 then none else some y.s

/-- Entry to vector `v` (R196): the frame below G7, LEVEL for an interrupt, the handler's address; or a double fault. An entry whose frame cannot
be written yet, at a bank in handover or an arbiter that makes no grant, waits and is done again whole (R234, R256, R262). -/
def enter (s : State) (c : CoreId) (v code qual : Nat) (detail : W64) (saved : Addr) : State :=
  let r := (core s c).r
  let g7 := r.g[(7 : Fin 8)]
  let cause := causeWord v code qual
  if g7.toNat % 16 ≠ 0 ∨ (g7.toNat : Int) - 32 < r.slim.toNat then doubleFault s c 1 v saved cause detail
  else
    let a := (g7.toNat - 32) % 2 ^ 40
    let k1 := accCheck s c .write a
    let k2 := accCheck s c .write (a + 16)
    let wait : State := modCore (noteCore (noteCore s c .write a) c .write (a + 16)) c fun k =>
      { k with entry := some { v := v, code := code, qual := qual, detail := detail, saved := saved } }
    if k1 ≠ 0 ∧ k1 ≠ 9 then doubleFault s c 2 v saved cause (BitVec.ofNat 64 a)
    else if k2 ≠ 0 ∧ k2 ≠ 9 then doubleFault s c 2 v saved cause (BitVec.ofNat 64 (a + 16))
    else if k1 = 9 ∨ k2 = 9 then wait
    else
      match frameWrite s c a (frameLo saved r.fl) (frameHi cause detail) with
      | none => wait
      | some s2 =>
        let s3 := modRegs s2 c fun r =>
          { r with g := updV r.g 7 (· - 32)
                   fl := if 0x11 ≤ v ∧ v ≤ 0x17 then (r.fl &&& ~~~(0xE00 : W64)) ||| at' 64 9 (v - 0x10) else r.fl
                   pc := vectorAddr r v }
        let f := fetchAt s3 c (vectorAddr r v).toNat
        if f.1 ≠ 0 ∧ f.1 ≠ 9 then doubleFault f.2 c 3 v saved cause detail else f.2

/-- The core's clock runs and it is in a running state. -/
def coreRuns (s : State) (c : CoreId) : Bool :=
  match c with
  | .ve n => clockRuns s (clusterOfVe n) && s.eng[n].fenced == 0 && s.seq[n].st == .running
  | .sv => !dead s && s.ls.state == 0 && s.sv.st == .running

/-- An entry that waited is done again (R262): it completes once its frame can be written. -/
def resumeEntry (s : State) (c : CoreId) : State :=
  match (core s c).entry with
  | some e => if coreRuns s c then enter (modCore s c fun k => { k with entry := none }) c e.v e.code e.qual e.detail e.saved else s
  | none => s

/-! ### Interrupt sources (R201, R203) -/

/-- Pending sources of a core: level, source code and DETAIL. -/
def sources (s : State) (c : CoreId) : List (Nat × Nat × W64) :=
  match c with
  | .ve n =>
    let k := s.seq[n]
    (if s.ev.seqRing[n].recs.isEmpty then [] else [(k.intEv.toNat, 1, 0)]) ++
    (if k.dbPend then [(k.intDb.toNat, 2, k.db.setWidth 64)] else [])
  | .sv =>
    (if s.ev.svRing.recs.isEmpty then [] else [(3, 1, 0)]) ++
    (if s.ls.dictRequest then [(4, 3, 0)] else []) ++
    (if s.ls.fenceNotice then [(6, 4, 0)] else [])

/-- The highest pending level, the lower source code first on a tie (R199, R201); level 0 disables a source. -/
def highest (l : List (Nat × Nat × W64)) : Option (Nat × Nat × W64) :=
  argMin (fun x => (8 - x.1) * 8 + x.2.1) (l.filter fun x => x.1 != 0)

/-- LEVEL of FL. -/
def levelOf (fl : W64) : Nat := fld fl 11 9

/-- The pending source that FL admits (R199). -/
def admitted (s : State) (c : CoreId) (fl : W64) : Option (Nat × Nat × W64) :=
  match highest (sources s c) with
  | some x => if levelOf fl < x.1 && (bit fl 8 || x.1 == 7) then some x else none
  | none => none

/-- The supervisor's notices are taken with their entry (log 12). -/
def takeNotice (s : State) (c : CoreId) (code : Nat) : State :=
  match c with
  | .ve _ => s
  | .sv =>
    if code = 3 then { s with ls := { s.ls with dictRequest := false } }
    else if code = 4 then { s with ls := { s.ls with fenceNotice := false } }
    else s

/-! ### Instruction boundaries -/

/-- The core may execute an instruction now: it runs and no entry of it waits for its frame. -/
def canRun (s : State) (c : CoreId) : Bool := coreRuns s c && (core s c).entry.isNone

/-- The vector instruction group that is open on the core. -/
def openGroup (s : State) : CoreId → List QInstr
  | .ve n => s.eng[n].openIns
  | .sv => []

/-- The open chain group is discarded without effect (R67, R183). -/
def discardOpen (s : State) : CoreId → State
  | .ve n => modEng s n fun e => { e with openIns := [] }
  | .sv => s

/-- A reported vector fault is due at the core's boundary (R199). -/
def faultDue (s : State) : CoreId → Bool
  | .ve n => s.eng[n].vfDue
  | .sv => false

/-- A reported vector fault or an interrupt that FL admits is entered at this boundary before any instruction, unless a chain group is open
(R183, R199). -/
def entryDue (s : State) (c : CoreId) : Bool :=
  (openGroup s c).isEmpty && (faultDue s c || (admitted s c (core s c).r.fl).isSome)

/-- Address of the next instruction. -/
def nextPc (s : State) (c : CoreId) (len : Nat) : Addr := (core s c).r.pc + BitVec.ofNat 40 len

/-- The instruction retires: the retired count and the PC (R163, Table 6.10). -/
def retire (s : State) (c : CoreId) (pc : Addr) : State :=
  modCore s c fun k => { k with retired := k.retired + 1, r := { k.r with pc := pc &&& ~~~(1 : Addr) } }

/-- The illegal-instruction exception (R166, R210): saved PC at the instruction, DETAIL its encoding, the open group discarded. -/
def illegal (s : State) (c : CoreId) (code : Nat) (enc : W32) : State :=
  enter (discardOpen s c) c 1 code 0 (enc.setWidth 64) (core s c).r.pc

/-- An instruction reaches a core's boundary: it executes on a running core with no entry due there (R199) and is fetched first, a failing
fetch being its first exception (R198); `f` is what it then does. A core that cannot execute it leaves the state unchanged (log 6). -/
def atFetch (s : State) (c : CoreId) (long : Bool) (f : State → State) : State :=
  if !canRun s c || entryDue s c then s
  else
    match fetchGo s c long with
    | (.held, u) => u
    | (.bad k a, u) => enter (discardOpen u c) c 2 k 0 (BitVec.ofNat 64 a) (core s c).r.pc
    | (.ok, u) => f u

/-- A non-vector instruction at a boundary: it raises CODE 3 while a group is open (R183); otherwise `f` is its effect. -/
def atBoundary (s : State) (c : CoreId) (enc : W32) (f : State → State) : State :=
  atFetch s c (isLong enc) fun u => if (openGroup s c).isEmpty then f u else illegal u c 3 enc

end Sys2Proof.Machine
end

