-- ==== Sys2Proof/WellFormed.lean ====
section
/-!
DEFINITION. When a command's operands spell a command of the spec at all. Reserved and illegal encodings are well formed:
their outcome is the illegal-instruction exception or a refusal that the spec gives. What is excluded here is a fragment that
no master sends (R246), a packet that no link carries (Table 11.1), and data of another length than the command declares. Such a command has no
effect (log 84).
-/

namespace Sys2Proof

/-- A fragment of R246: 1 to 8 beats of 64 bytes within one 512-byte block, and in HBM within one 256-byte granule. -/
def Frag.wf (f : Frag) : Bool :=
  decide (0 < f.len) && decide (f.len ≤ 512) && decide (f.addr < 2 ^ 40) &&
  decide (f.addr / 512 = (f.addr + f.len - 1) / 512) &&
  (decide (f.addr < 0x1000000000) || decide (0x4000000000 ≤ f.addr) || decide (f.addr / 256 = (f.addr + f.len - 1) / 256))

/-- Byte enables of a write fragment: one for each word of a beat, so that a write narrower than a word is a fragment of one beat (R246). -/
def Frag.enablesWf (f : Frag) (en : List Bool) : Bool :=
  decide (f.addr / 64 = (f.addr + f.len - 1) / 64) ||
  (f.addr % 16 == 0 && f.len % 16 == 0 && (List.range (f.len / 16)).all fun w =>
    (List.range 16).all fun j => en.getD (16 * w + j) false == en.getD (16 * w) false)

/-- An atomic's fragment: one aligned 128-bit word (R225). -/
def Frag.oneWord (f : Frag) : Bool := f.wf && decide (f.len = 16) && decide (f.addr % 16 = 0)

/-- A packet of at most `limit` bytes that crosses no 4 KiB boundary (Table 11.1). -/
def tlpWf (limit : Nat) (a : HostAddr) (bytes : Nat) : Bool :=
  decide (0 < bytes) && decide (bytes ≤ limit) && decide (a.offset % 4096 + bytes ≤ 4096)

/-- A packet of a host port lands in its BAR (BAR2 has 256 pages, R290) and keeps to the link's limit. -/
def packetWf (limit : Nat) (page : BitVec 16) (slot : BitVec 8) (bar0 : Bool) (low : BitVec 4) (bytes : Nat) : Bool :=
  (bar0 || decide (page.toNat < 256)) && tlpWf limit (hostAddr page slot bar0 low) bytes

/-- A command is well formed. -/
def Instr.wf : Instr → Bool
  | .memoryRead f _ _ => f.wf
  | .memoryWrite f d e _ _ _ => f.wf && decide (d.length = f.len) && decide (e.length = f.len) && f.enablesWf e
  | .atomicOr f _ _ _ => f.oneWord
  | .atomicAnd f _ _ _ => f.oneWord
  | .atomicAdd64 f _ _ _ => f.oneWord
  | .atomicSwap f _ _ _ => f.oneWord
  | .atomicCas f _ _ _ _ => f.oneWord
  | .inStreamWrite _ page slot bar0 low bytes data => decide (bytes = data.length) && packetWf Config.maxPayload page slot bar0 low bytes
  | .outStreamRead _ page slot bar0 low bytes => packetWf Config.maxRead page slot bar0 low bytes
  | _ => true

end Sys2Proof
end

