-- ==== Sys2Proof/Machine/MemCmds.lean ====
section
/-!
DEFINITION. Memory fragments of every master (R243-R246), the atomics (R225, R226), ECC write-back and patrol (R222), refresh (R224),
calibration (R227, R228), tap reads (R237, R238) and the fences a stack raises itself (R224, R240).
-/

namespace Sys2Proof.Machine

/-! ### Targets -/

/-- Device address `a` lies in the HBM placement of partition `p` (R218, R219). -/
def inPlacement (s : State) (p : PartId) (a : Nat) : Bool :=
  let c := s.parts[p].cfg
  let w := s.wideGib.toNat
  let x := a - hbmLo
  if c.hbmSize = 0 ∨ a < hbmLo ∨ hbmHi ≤ a then false
  else if c.hbmMode = 0 then decide (c.hbmBase.toNat * gib ≤ x ∧ x < (c.hbmBase.toNat + c.hbmSize.toNat) * gib)
  else if x < w * 2 ^ 33 then false
  else
    let y := x - w * 2 ^ 33
    let per := (24 - w) * gib
    let lo := c.hbmBase.toNat * gib
    bit c.hbmStacks (y / per) && decide (lo ≤ y % per ∧ y % per < lo + c.hbmSize.toNat / (stackSet c.hbmStacks).2 * gib)

/-- The unit is a target of the master's row of Table 9.1. -/
def mayReach (s : State) (m : MasterKind) (u : MemUnit) (a : Nat) : Bool :=
  match m, u with
  | .engine n unit, .bank b => decide (unit < 6) && (match execPart s n with
      | some p => s.banks[b].part.toNat == p.val
      | none => false)
  | .engine _ unit, .pc .. => decide (unit < 6)
  | .hostPath h, .bank b => (match bankPart s b with
      | some p => ownerOf' s p == h
      | none => false)
  | .hostPath h, .pc .. => (List.finRange 16).any fun p => ownerOf' s p == h && inPlacement s p a
  | .nest d, .bank b => b.val / 64 == d.val
  | .nest _, .pc .. => true
  | .crc u, .bank b => u.val / 4 == b.val / 64
  | .unused, _ => false
  | _, .bank _ => false
  | _, .pc .. => true
where
  /-- The port that owns a partition. -/
  ownerOf' (s : State) (p : PartId) : PortId := Fin.ofNat 4 s.parts[p].cfg.ownerPort.toNat

/-! ### Fragments -/

/-- Words of a fragment: word address and, of the fragment's bytes, the mask in that word. -/
def fragWords (f : Frag) : List (Nat × List Bool) :=
  (List.range (cdiv (f.addr % 16 + f.len) 16)).map fun i =>
    let w := f.addr / 16 * 16 + 16 * i
    (w, (List.range 16).map fun j => decide (f.addr ≤ w + j ∧ w + j < f.addr + f.len))

/-- Upsets that concern the fragment's words. -/
def fragUpsets (f : Frag) (us : List Upset) : List Upset :=
  us.filter fun u => decide (f.addr / 16 ≤ u.word ∧ u.word ≤ (f.addr + f.len - 1) / 16)

/-- A fragment read at its target: the words, the first bad status and the state. -/
def fragRead (m : MasterKind) (code : Nat) (tap : Option BankId) : List (Nat × List Bool) → State → List W128 × Nat × State
  | [], s => ([], 0, s)
  | (a, _) :: r, s =>
    let x := match tap with
      | some b => tapWord s (masterDie m) b code a
      | none => readWord s (masterDie m) code a
    let y := fragRead m code tap r x.s
    ((if x.status = 5 then 0 else x.data) :: y.1, if x.status ≠ 0 then x.status else y.2.1, y.2.2)

/-- The sixteen data bytes of the word at `w` in a fragment. -/
def fragByteWord (f : Frag) (data : List Byte) (w : Nat) : W128 :=
  wordOfBytes ((List.range 16).map fun j => if f.addr ≤ w + j then nth data (w + j - f.addr) 0 else 0)

/-- The enabled bytes of the word at `w`. -/
def fragEnable (f : Frag) (en : List Bool) (w : Nat) (mask : List Bool) : List Bool :=
  (List.range 16).map fun j => nth mask j false && nth en (w + j - f.addr) false

/-- Partition-relative offset of an HBM device address that the partition's placement holds: the inverse of R219. -/
def partOffset (s : State) (p : PartId) (a : Nat) : Option Nat :=
  if !inPlacement s p a then none
  else
    let c := s.parts[p].cfg
    let x := a - hbmLo
    if c.hbmMode = 0 then some (x - c.hbmBase.toNat * gib)
    else
      let w := s.wideGib.toNat
      let y := x - w * 2 ^ 33
      let per := (24 - w) * gib
      let k := stackSet c.hbmStacks
      let l := y % per - c.hbmBase.toNat * gib
      some ((l / 256 * k.2 + (y / per - k.1)) * 256 + l % 256)

/-- The word at `a` that an engine writes is a design-memory word of its partition's executing segment: its offset (R44). -/
def dmOffset (s : State) (m : MasterKind) (a : Nat) : Option (VeId × Nat × PartId × Nat) :=
  match m with
  | .engine n unit =>
    match execPart s n with
    | some p =>
      match partOffset s p a with
      | some x => if s.parts[p].run.isSome && inDmem s.parts[p] x then some (n, unit, p, x) else none
      | none => none
    | none => none
  | _ => none

/-- A fragment written at its target: the first bad status and the state. An engine's write of a design-memory
word joins the write queue (R44). -/
def fragWrite (m : MasterKind) (code : Nat) (f : Frag) (data : List Byte) (en : List Bool) :
    List (Nat × List Bool) → State → Nat × State
  | [], s => (0, s)
  | (a, mask) :: r, s =>
    let k := fragEnable f en a mask
    if k.all (! ·) then fragWrite m code f data en r s
    else
      let x := match dmOffset s m a with
        | some (n, unit, p, o) => veWrite s n unit p false o (fragByteWord f data a) k
        | none => writeMasked s (masterDie m) code a (fragByteWord f data a) k
      let y := fragWrite m code f data en r x.s
      (if x.status ≠ 0 then x.status else y.1, y.2)

/-- A transaction of the master with this tag is outstanding, or all 32 of its tags are in use: it issues nothing (R244). Only a request held
at a bank stays outstanding between two commands. -/
def tagBusy (s : State) (f : Frag) : Bool :=
  let mine := ((List.finRange 256).flatMap fun b => s.banks[b].held).filter fun h => h.frag.master == f.master
  mine.any (fun h => h.frag.tag == f.tag) || decide (32 ≤ mine.length)

/-- The request reaches its target: a fenced unit, or one out of reach, answers at once (R21, R239); to another it wins every arbiter on its way. -/
def sentTo (s : State) (m : MasterKind) (u : MemUnit) (viaTap : Bool) (r : Rivals) : Option State :=
  if unitFenced s (masterDie m) u then some s else pathGrant s m u viaTap r

/-- The bank holds the fragment of a new owner during a handover (R234); one fenced or out of reach holds nothing (R21, R239). -/
def heldAt (s : State) (m : MasterKind) (u : MemUnit) : Option BankId :=
  match u with
  | .bank b => if !unitFenced s (masterDie m) u && ownerCheck s.banks[b] (masterCode s b m) == 9 then some b else none
  | .pc .. => none

/-- The internal working RAM and boot ROM that the supervisor and the dictionary engine reach (Table 7.2, R249). -/
def internalRead (s : State) (a : Nat) : Option W128 × State :=
  if a < 0x100000 then (some (if !s.fab.remap && decide (a < 0x40000) then wordOfBytes ((List.range 16).map fun i => Config.romByte (a + i))
    else wordOfBytes (cellsGet s.mem.ram a 16)), s)
  else if 0x80F0000000 ≤ a ∧ a < 0x80F0100000 then (some (wordOfBytes (cellsGet s.mem.ram (a - 0x80F0000000) 16)), s)
  else if 0x80F0100000 ≤ a ∧ a < 0x80F0140000 then (some (wordOfBytes ((List.range 16).map fun i => Config.romByte (a - 0x80F0100000 + i))), s)
  else if 0x8000000000 ≤ a then (some (drawWord s).1, (drawWord s).2)
  else (none, s)

/-- Masters with a row in the internal space. -/
def hasInternal (m : MasterKind) (a : Nat) : Bool :=
  match m with
  | .supervisor => true
  | .dictionary => decide (0x8000000000 ≤ a)
  | _ => false

/-- A read of internal space, word by word. -/
def internalReads : List (Nat × List Bool) → State → List W128 × Nat × State
  | [], s => ([], 0, s)
  | (a, _) :: r, s =>
    let x := internalRead s a
    let y := internalReads r x.2
    match x.1 with
    | some v => (v :: y.1, y.2.1, y.2.2)
    | none => (0 :: y.1, 4, y.2.2)

/-- A write of internal space, word by word: working RAM takes it, boot ROM refuses it (R249). -/
def internalWrites (f : Frag) (data : List Byte) (en : List Bool) : List (Nat × List Bool) → State → Nat × State
  | [], s => (0, s)
  | (a, mask) :: r, s =>
    let v := fragByteWord f data a
    let k := fragEnable f en a mask
    let put (off : Nat) : State :=
      let old := wordOfBytes (cellsGet s.mem.ram off 16)
      { s with mem := { s.mem with ram := cellsSet s.mem.ram off (bytesOf (mergeBytes old v k) 16) } }
    if a < 0x100000 then
      if !s.fab.remap && decide (a < 0x40000) then (4, s) else internalWrites f data en r (put a)
    else if 0x80F0000000 ≤ a ∧ a < 0x80F0100000 then internalWrites f data en r (put (a - 0x80F0000000))
    else if 0x80F0100000 ≤ a ∧ a < 0x80F0140000 then (4, s)
    else if 0x8000000000 ≤ a then internalWrites f data en r (setFreezeOf s a v k)
    else (4, s)

/-- A crow's nest and a CRC unit reach a bank through its tap port, unless the nest owns it (Table 9.1, R237). -/
def tapOf (s : State) (m : MasterKind) (u : MemUnit) : Option BankId :=
  match m, u with
  | .nest d, .bank b => if s.banks[b].owner.toNat = 0xC0 + d.val then none else some b
  | .crc _, .bank b => some b
  | _, _ => none

/-- A request for the internal space or the boot window passes the management port (Table 9.3), in the debug freeze too (R415; log 102). -/
def internalPath (s : State) (m : MasterKind) (rv : Rivals) (f : State → State) : State :=
  match portGrant s m rv with
  | some s1 => f s1
  | none => s

/-- MEMORY_READ: a read fragment is accepted and its response returned (R243-R246, R220, R235). -/
def memReadOp (s : State) (f : Frag) (rv : Rivals) (us : List Upset) : State :=
  let m := masterKind f.master.toNat
  if dead s || tagBusy s f then s
  else
    match unitOf s f.addr with
    | none =>
      if hasInternal m f.addr then
        internalPath s m rv fun s1 =>
        let r := internalReads (fragWords f) s1
        emit r.2.2 (.bus f.master f.tag (if r.2.1 = 0 then r.1 else []) r.2.1)
      else emit s (.bus f.master f.tag [] 4)
    | some u =>
      if !mayReach s m u f.addr then emit s (.bus f.master f.tag [] 4)
      else
        let tap := tapOf s m u
        match sentTo s m u tap.isSome rv with
        | none => s
        | some s1 =>
          match (if tap.isSome then none else heldAt s1 m u) with
          | some b => modBank s1 b fun k => { k with held := k.held ++ [{ frag := f, data := none }] }
          | none =>
            let code := match u with | .bank b => masterCode s b m | .pc .. => 0
            let r := fragRead m code tap (fragWords f) (addUpsets s1 (fragUpsets f us))
            emit r.2.2 (.bus f.master f.tag r.1 r.2.1)

/-- MEMORY_WRITE: a write fragment is accepted and applied whole; a write on a tap port is refused (R237, R243-R246). -/
def memWriteOp (s : State) (f : Frag) (data : List Byte) (en : List Bool) (tap : Bool) (rv : Rivals) (us : List Upset) : State :=
  let m := masterKind f.master.toNat
  if dead s || tagBusy s f then s
  else
    match unitOf s f.addr with
    | none =>
      if hasInternal m f.addr then
        internalPath s m rv fun s1 =>
        let r := internalWrites f data en (fragWords f) s1
        emit r.2 (.bus f.master f.tag [] r.1)
      else emit s (.bus f.master f.tag [] 4)
    | some u =>
      if !mayReach s m u f.addr || (tapOf s m u).isSome || (tap && (match u with | .bank _ => true | .pc .. => false)) then
        emit s (.bus f.master f.tag [] 4)
      else
        match sentTo s m u false rv with
        | none => s
        | some s1 =>
          match heldAt s1 m u with
          | some b => modBank s1 b fun k => { k with held := k.held ++ [{ frag := f, data := some (data, en) }] }
          | none =>
            let code := match u with | .bank b => masterCode s b m | .pc .. => 0
            let r := fragWrite m code f data en (fragWords f) (addUpsets s1 (fragUpsets f us))
            emit r.2 (.bus f.master f.tag [] r.1)

/-- A fragment that a bank held is admitted when the drain ends (R234). -/
def admitHeld (s : State) (x : HeldFrag) : State :=
  let m := masterKind x.frag.master.toNat
  match unitOf s x.frag.addr with
  | some (.bank b) =>
    let code := masterCode s b m
    match x.data with
    | none =>
      let r := fragRead m code none (fragWords x.frag) s
      emit r.2.2 (.bus x.frag.master x.frag.tag r.1 r.2.1)
    | some (data, en) =>
      let r := fragWrite m code x.frag data en (fragWords x.frag) s
      emit r.2 (.bus x.frag.master x.frag.tag [] r.1)
  | _ => s

/-- MEMORY_READ (R246). -/
def execMemoryRead (f : Frag) (rivals : Rivals) (upsets : List Upset) (s : State) : Host.Outcome State Fault Refusal :=
  .next (if f.wf then memReadOp s f rivals upsets else s)

/-- MEMORY_WRITE (R246). -/
def execMemoryWrite (f : Frag) (data : List Byte) (enable : List Bool) (tap : Bool) (rivals : Rivals) (upsets : List Upset)
    (s : State) : Host.Outcome State Fault Refusal :=
  .next (if f.wf && decide (data.length = f.len) && decide (enable.length = f.len) && f.enablesWf enable then
      memWriteOp s f data enable tap rivals upsets
    else s)

/-! ### Atomics -/

/-- Masters that issue atomics (R225, Table 9.1): a VE's write stream unit only the OR; the stream entries' ring indices are the host stream
path's. -/
def mayAtomic (m : MasterKind) (isOr : Bool) : Bool :=
  match m with
  | .engine _ u => u == 3 && isOr
  | .twin => true
  | .events => true
  | .ledger => true
  | .hostPath _ => true
  | _ => false

/-- An atomic at its pseudo-channel; `ret` says that it returns the old word (Table 8.2). -/
def atomicOp (s : State) (f : Frag) (rv : Rivals) (us : List Upset) (isOr ret : Bool) (g : W128 → W128) : State :=
  let m := masterKind f.master.toNat
  if dead s || tagBusy s f then s
  else
    match unitOf s f.addr with
    | some (.pc st c row word) =>
      if !mayAtomic m isOr || !mayReach s m (.pc st c row word) f.addr then emit s (.bus f.master f.tag [] 4)
      else
        match sentTo s m (.pc st c row word) false rv with
        | none => s
        | some s1 =>
          let r := atomicWord (addUpsets s1 (fragUpsets f us)) (masterDie m) f.addr g
          emit r.s (.bus f.master f.tag (if ret && r.status == 0 then [r.data] else []) r.status)
    | _ => emit s (.bus f.master f.tag [] 4)

/-- The sum of `ADD64` (Table 8.2). -/
def add64 (m v : W128) : W128 := at' 128 64 (fld m 127 64) ||| at' 128 0 ((fld m 63 0 + fld v 63 0) % 2 ^ 64)

/-- ATOMIC_OR (R225). -/
def execAtomicOr (f : Frag) (v : W128) (rivals : Rivals) (upsets : List Upset) (s : State) : Host.Outcome State Fault Refusal :=
  .next (if f.oneWord then atomicOp s f rivals upsets true false (· ||| v) else s)
/-- ATOMIC_AND (R225). -/
def execAtomicAnd (f : Frag) (v : W128) (rivals : Rivals) (upsets : List Upset) (s : State) : Host.Outcome State Fault Refusal :=
  .next (if f.oneWord then atomicOp s f rivals upsets false false (· &&& v) else s)
/-- ATOMIC_ADD64 (R225). -/
def execAtomicAdd64 (f : Frag) (v : W128) (rivals : Rivals) (upsets : List Upset) (s : State) : Host.Outcome State Fault Refusal :=
  .next (if f.oneWord then atomicOp s f rivals upsets false true fun m => add64 m v else s)
/-- ATOMIC_SWAP (R225). -/
def execAtomicSwap (f : Frag) (v : W128) (rivals : Rivals) (upsets : List Upset) (s : State) : Host.Outcome State Fault Refusal :=
  .next (if f.oneWord then atomicOp s f rivals upsets false true fun _ => v else s)
/-- ATOMIC_CAS (R225). -/
def execAtomicCas (f : Frag) (e v : W128) (rivals : Rivals) (upsets : List Upset) (s : State) : Host.Outcome State Fault Refusal :=
  .next (if f.oneWord then atomicOp s f rivals upsets false true fun m => if m = e then v else m else s)

/-! ### Write-back, patrol and refresh -/

/-- A corrected word is written back in an idle cycle (R222); a fence stops it (R239). -/
def writeBackOp (s : State) (w : Nat) : State :=
  if dead s || frozen s || !s.mem.writeBack.contains w then s
  else
    match unitOf s (16 * w) with
    | some u =>
      if unitFenced s (unitDie u) u then s
      else { s with mem := { s.mem with writeBack := s.mem.writeBack.filter (· ≠ w), latent := s.mem.latent.filter (·.word ≠ w) } }
    | none => s

/-- CORRECTED_WRITE_BACK (R222). -/
def execCorrectedWriteBack (word : Nat) (s : State) : Host.Outcome State Fault Refusal := .next (writeBackOp s word)

/-- Words of a stack: 3 x 2^20 granules of sixteen words in each of 32 pseudo-channels (R217). -/
def stackWords : Nat := 3 * 2 ^ 29

/-- The patrol of a stack reads its next word (R222); fenced pseudo-channels are passed over (R241), and it waits for one whose arbiter makes no
grant (R228, R256). -/
def patrolStackOp (s : State) (st : StackId) (us : List Upset) : State :=
  if s.scrubHours = 0 ∨ s.stk[st].fenced then s
  else
    let i := s.mem.patrolStack[st]
    let c : Fin 32 := Fin.ofNat 32 (i / 16)
    let a := hbmAddr s.wideGib.toNat st.val c.val (i / 512) (i % 16)
    let s1 := { s with mem := { s.mem with patrolStack := updV s.mem.patrolStack st fun i => (i + 1) % stackWords } }
    if bit s.stk[st].pcFenced c.val then s1
    else if targetFrozen s false (.pc st c (i / 512) (i % 16)) then s
    else (checkWord (addUpsets s1 (us.filter fun u => u.word = a / 16)) (.pc st c (i / 512) (i % 16)) 0 (a / 16)).s

/-- The patrol of a bank reads its next word through the tap port (R222). -/
def patrolBankOp (s : State) (b : BankId) (us : List Upset) : State :=
  if s.banks[b].fenced || s.fab.tapArb[b].frozen then s
  else
    let i := s.mem.patrolBank[b]
    let a := spLo + b.val * bankBytes + 16 * i
    let s1 := { s with mem := { s.mem with patrolBank := updV s.mem.patrolBank b fun i => (i + 1) % 2 ^ 18 } }
    (tapWord (addUpsets s1 (us.filter fun u => u.word = a / 16)) (b.val / 64) b 0 a).s

/-- PATROL_SCRUB (R222). -/
def execPatrolScrub (unit : StackId ⊕ BankId) (upsets : List Upset) (s : State) : Host.Outcome State Fault Refusal :=
  .next (if dead s || frozen s then s
    else
      match unit with
      | .inl st => patrolStackOp s st upsets
      | .inr b => patrolBankOp s b upsets)

/-- A refresh of pseudo-channel `q`, taken by the emergency requester; a fenced one is refreshed no more (R224, R241, R255). -/
def refreshOp (s : State) (q : Fin 256) : State :=
  let st : StackId := ⟨q.val / 32, by omega⟩
  let c : Fin 32 := ⟨q.val % 32, by omega⟩
  if dead s || bit s.stk[st].pcFenced c.val then s
  else modStack s st fun k => { k with refreshedAt := updV k.refreshedAt c fun _ => timeOn s (dieOfStack st) }

/-- REFRESH (R224). -/
def execRefresh (q : Fin 256) (s : State) : Host.Outcome State Fault Refusal := .next (refreshOp s q)

/-! ### Calibration -/

/-- Absolute difference. -/
def absDiff (a b : Nat) : Nat := (a - b) + (b - a)

/-- A calibration record holds under the present conditions (R227). -/
def recordHolds (r : W128) (temp volt load : Nat) : Bool :=
  decide (absDiff temp (fld r 7 0) ≤ 8) && decide (absDiff volt (fld r 17 8) ≤ 15) && decide (load ≤ fld r 19 18)

/-- A record made now, with its COUNT one higher (Table 8.3). -/
def newRecord (old : W128) (time : W64) (load volt temp : Nat) : W128 :=
  at' 128 64 time.toNat ||| at' 128 24 (min 255 (fld old 31 24 + 1)) ||| at' 128 18 load ||| at' 128 8 volt ||| BitVec.ofNat 128 temp

/-- A group's record stops holding: safe margin and event 3 (R228). -/
def calBreakOp (s : State) (st : StackId) (g : Fin 4) : State :=
  let k := s.stk[st]
  if dead s || k.fenced || bit k.calSafe g.val || recordHolds k.calRec[g] k.temp.toNat k.vddq k.band[g].toNat then s
  else raiseN (modStack s st fun k => { k with calSafe := setBit k.calSafe g.val true }) (515 + 8 * st.val) (BitVec.ofNat 32 g.val)

/-- CAL_RECORD_BREAK (R228). -/
def execCalRecordBreak (st : StackId) (g : Fin 4) (s : State) : Host.Outcome State Fault Refusal := .next (calBreakOp s st g)

/-- The quiet window of a group ends: a new record at the present conditions, or the fence of its eight pseudo-channels (R228). -/
def quietEndOp (s : State) (st : StackId) (ok : Bool) (volt : BitVec 10) (load : BitVec 2) : State :=
  let k := s.stk[st]
  match k.quiet with
  | none => s
  | some g =>
    if dead s || k.fenced then s
    else
      let s1 := modStack s st fun k => { k with quiet := none }
      if ok then
        let r := newRecord k.calRec[g] (timeOn s (dieOfStack st)) (max load.toNat k.band[g].toNat) volt.toNat k.temp.toNat
        raiseN (modStack s1 st fun k => { k with calRec := updV k.calRec g fun _ => r, calSafe := setBit k.calSafe g.val false })
          (516 + 8 * st.val) (at' 32 2 (fld r 31 24) ||| BitVec.ofNat 32 g.val)
      else
        (List.range 8).foldl (fun t i => fencePc t st (8 * g.val + i) 2)
          (modStack s1 st fun k => { k with calSafe := setBit k.calSafe g.val false })

/-- A stack at 105 degrees or above is fenced (R224, R240). -/
def overheatOp (s : State) (st : StackId) (temp : Byte) : State :=
  if dead s || decide (temp.toNat < 105) then s
  else fenceStack (modStack s st fun k => { k with temp := temp }) st 3

/-! ### Tap reads -/

/-- The device's requester may tap this bank: its own die's nest, scrubber and CRC units (R237, Table 9.1). -/
def tapMay (b : BankId) : TapReq → Bool
  | .crc u => u.val / 4 == b.val / 64
  | _ => true

/-- Die from which a requester taps a bank. -/
def tapDie (b : BankId) : TapReq → Nat
  | .crc u => u.val / 4
  | _ => b.val / 64

/-- A tap requester's code in a bank event (R236). -/
def tapCode (b : BankId) : TapReq → Nat
  | .nest => 0xC0 + b.val / 64
  | _ => 0

/-- Device address of word `w` of a 64-byte line of a bank. -/
def lineWord (b : BankId) (line : BitVec 16) (w : Nat) : Nat := spLo + b.val * bankBytes + 64 * line.toNat + 16 * w

/-- The four words of a line through the tap port from die `d`: the data, the first bad status, and the state (R220, R237, R239). -/
def tapLine (s : State) (d : Nat) (b : BankId) (code : Nat) (line : BitVec 16) : List W128 × Nat × State :=
  (List.range 4).foldl (fun (x : List W128 × Nat × State) w =>
    let r := tapWord x.2.2 d b code (lineWord b line w)
    (x.1 ++ [r.data], if x.2.1 = 0 then r.status else x.2.1, r.s)) ([], 0, s)

/-- The owner's write that the bank has accepted and that meets a tap read's sense cycle takes effect normally, in a handover too (R238,
Table 8.7). -/
def senseWrite (s : State) (b : BankId) (line : BitVec 16) (h : SenseWrite) : State :=
  { s with mem := wordSet s.mem (lineWord b line h.word.toNat / 16) h.val }

/-- Four free words: the undefined data of a torn line (R238, R10). -/
def drawLine (s : State) : List W128 × State :=
  (List.range 4).foldl (fun x _ => let d := drawWord x.2; (x.1 ++ [d.1], d.2)) ([], s)

/-- A tap request is served now: the nest and the CRC units win slot 0; the scrubber uses a cycle that no slot requests and takes no grant (R222,
R251). -/
def tapTurn (s : State) (b : BankId) (who : TapReq) (k : Contest) : Option State :=
  match who with
  | .scrub => if frozen s || s.fab.tapArb[b].frozen || !k.others.isEmpty then none else some s
  | _ => tapGrant s b 0 k

/-- A tap read of a line: clean or with the status of its first bad word, or torn by an owner's write with BUSY and a retry counted (R220,
R238, R239). -/
def tapReadOp (s : State) (b : BankId) (line : BitVec 16) (who : TapReq) (k : Contest) (hit : Option SenseWrite) : State :=
  if dead s || !tapMay b who then s
  else
    match tapTurn s b who k with
    | none => s
    | some s1 =>
      match (if s.banks[b].fenced then none else hit) with
      | some h =>
        if s.banks[b].owner = 0 then s
        else
          let d := drawLine (senseWrite s1 b line h)
          emit (modBank d.2 b fun k => { k with tapRetries := satInc k.tapRetries }) (.tap b d.1 true 0)
      | none =>
        let r := tapLine s1 (tapDie b who) b (tapCode b who) line
        emit r.2.2 (.tap b r.1 false r.2.1)

/-- TAP_READ (R238). -/
def execTapRead (b : BankId) (line : BitVec 16) (who : TapReq) (hit : TapHit) (s : State) : Host.Outcome State Fault Refusal :=
  .next (tapReadOp s b line who hit.rivals hit.sense)

/-- The guaranteed single-cycle read after 63 cycles of waiting is never torn (R237, R238). -/
def execTapGuaranteedCycle (b : BankId) (line : BitVec 16) (who : TapReq) (s : State) : Host.Outcome State Fault Refusal :=
  .next (tapReadOp s b line who .alone none)

end Sys2Proof.Machine
end

