-- ==== Sys2Proof/Machine/VeBlock.lean ====
section
/-!
DEFINITION. The entries of index 0x3000 + n, as the dictionary and the VE register block read them (R178; Tables 3.7, 3.8, 4.6, 5.4,
6.10, 7.6, 7.10, 12.6, 13.5, 15.5), and the sequencer's own stores to them (Table 6.9).
-/

namespace Sys2Proof.Machine

/-- SEQ_STATE as its entry shows it (Table 7.10). -/
def seqStateCode : SeqState → Nat
  | .unbound => 0
  | .running => 1
  | .parked => 2
  | .doubleFault => 3
  | .escalated => 4
  | .recovery => 5
  | .failedSelfTest => 6
  | .stopped => 7

/-- INT_PENDING: bit L set while a source of level L is pending (Table 7.6). -/
def intPending (s : State) (n : VeId) : W128 :=
  (sources s (.ve n)).foldl (fun m x => if x.1 = 0 then m else setBit m x.1 true) 0

/-- Issue-queue entries occupied (QUEUE_FILL). -/
def queueFill (e : Engine) : Nat := (e.queue.map fun g => g.ins.length).sum + e.openIns.length

/-- Width in bytes and value of an emergency-frame entry: `i` = 0 for EMER_REASON up to 7 for EMER_SPILLTOP. -/
def emerEntry (e : Emergency) (i : Nat) : Option (Nat × W128) :=
  match i with
  | 0 => some (1, e.reason.setWidth 128)
  | 1 => some (8, e.pc.setWidth 128)
  | 2 => some (8, e.fl.setWidth 128)
  | 3 => some (8, e.cause.setWidth 128)
  | 4 => some (8, e.detail.setWidth 128)
  | 5 => some (8, e.g7.setWidth 128)
  | 6 => some (4, e.win.setWidth 128)
  | 7 => some (8, e.spillTop.setWidth 128)
  | _ => none

/-- The engine whose execution VE `n` shows: a bound pair's trailer executes the instructions of its leader, behind it, so that it shows its leader's
(R388, log 115). -/
def shownAs (s : State) (n : VeId) : VeId :=
  let l : VeId := ⟨n.val / 2 * 2, by omega⟩
  match vePartition s n with
  | some p => if s.parts[p].cfg.paired ∧ s.parts[p].bind.contains l then l else n
  | none => n

/-- Width in bytes and value of entry 0x3000+n:sub; DOORBELL (22), which is write-only, is not among them. What a VE executes is that of its pair
(R388); its clock, interrupts, ring, fence and pair count are its own. -/
def veEntry (s : State) (n : VeId) (sub : Nat) : Option (Nat × W128) :=
  let own := s.seq[n]
  let c := s.seq[shownAs s n]
  let e := s.eng[shownAs s n]
  if sub = 0x01 then some (1, boolW (isRn n))
  else if sub = 0x02 then some (1, match vePartition s n with | some p => BitVec.ofNat 128 p.val | none => 0xFF)
  else if sub = 0x10 then some (8, own.cycles.setWidth 128)
  else if sub = 0x11 then some (8, c.retired.setWidth 128)
  else if sub = 0x12 then some (4, c.icMiss.setWidth 128)
  else if sub = 0x13 then some (4, c.dcMiss.setWidth 128)
  else if sub = 0x14 then some (4, c.bpMiss.setWidth 128)
  else if sub = 0x15 then some (4, c.spills.setWidth 128)
  else if sub = 0x16 then some (1, BitVec.ofNat 128 c.r.resident.val)
  else if sub = 0x20 then some (1, own.intEv.setWidth 128)
  else if sub = 0x21 then some (1, own.intDb.setWidth 128)
  else if sub = 0x23 then some (4, own.db.setWidth 128)
  else if sub = 0x24 then some (1, intPending s n)
  else if sub = 0x25 then some (2, BitVec.ofNat 128 s.ev.seqRing[n].recs.length)
  else if sub = 0x26 then some (16, ringHead s (.seq n))
  else if sub = 0x30 then some (1, e.vfCause.setWidth 128)
  else if sub = 0x31 then some (2, e.vfElem.setWidth 128)
  else if sub = 0x32 then some (8, e.vfAddr.setWidth 128)
  else if sub = 0x33 then some (8, e.vfPc.setWidth 128)
  else if sub = 0x34 then some (1, e.vfRepeat.setWidth 128)
  else if sub = 0x35 then some (4, e.vfTotal.setWidth 128)
  else if sub = 0x36 then some (4, e.stagedTotal.setWidth 128)
  else if sub = 0x37 then some (1, BitVec.ofNat 128 (queueFill e))
  else if sub = 0x38 then some (4, e.wdAborts.setWidth 128)
  else if sub = 0x39 then some (4, e.vcount.setWidth 128)
  else if sub = 0x3A then some (2, e.vflags.setWidth 128)
  else if sub = 0x3B then some (2, e.vflagsAcc.setWidth 128)
  else if sub = 0x3C then some (4, e.vctl.setWidth 128)
  else if sub = 0x3D then some (1, e.vfPos.setWidth 128)
  else if sub = 0x3E then some (16, e.vfOpa)
  else if sub = 0x3F then some (16, e.vfOpb)
  else if sub = 0x40 then some (16, e.vfOpc)
  else if sub = 0x41 then some (16, e.vfSubst)
  else if sub = 0x42 then some (1, boolW e.substEn)
  else if sub = 0x50 then some (1, BitVec.ofNat 128 (seqStateCode c.st))
  else if 0x51 ≤ sub ∧ sub ≤ 0x58 then emerEntry c.emer (sub - 0x51)
  else if sub = 0x60 then some (1, boolW (s.eng[n].fenced != 0))
  else if sub = 0x61 then some (1, s.eng[n].fenced.setWidth 128)
  else if sub = 0x62 then some (4, s.eng[n].pairMismatches.setWidth 128)
  else none

/-- VF_SUBST_EN is written by the sequencer: bit 0 arms the substitution and latches its target, or disarms it (R146). -/
def substArm (s : State) (n : VeId) (v : W64) : State :=
  modEng s n fun e =>
    if bit v 0 then { e with substEn := true, substElem := e.vfElem, substPos := e.vfPos } else { e with substEn := false }

/-- A store of the sequencer to its register block, at the one width of Table 6.9; none where it is not admitted (R178). -/
def veStore (s : State) (n : VeId) (sub bytes : Nat) (v : W128) : Option State :=
  if sub = 0x3B ∧ bytes = 8 then some (modEng s n fun e => { e with vflagsAcc := v.setWidth 16 })
  else if sub = 0x3C ∧ bytes = 8 then some (modEng s n fun e => { e with vctl := v.setWidth 32 &&& 0x00070003 })
  else if sub = 0x41 ∧ bytes = 16 then some (modEng s n fun e => { e with vfSubst := v })
  else if sub = 0x42 ∧ bytes = 8 then some (substArm s n (v.setWidth 64))
  else none

/-- A read of the register block by its own sequencer, 8 or 16 bytes: DB_VALUE clears the doorbell source (R201), a 128-bit read of
EV_POP takes the head record (R347). -/
def veLoad (s : State) (n : VeId) (sub bytes : Nat) : Option (W128 × State) :=
  match veEntry s n sub with
  | none => none
  | some (_, v) =>
    let w : W128 := if bytes = 8 then v &&& BitVec.ofNat 128 (2 ^ 64 - 1) else v
    if sub = 0x23 then some (w, modSeq s n fun c => { c with dbPend := false })
    else if sub = 0x26 ∧ bytes = 16 then some ((ringTake s (.seq n)).1, (ringTake s (.seq n)).2)
    else some (w, s)

end Sys2Proof.Machine
end

