-- ==== Sys2Proof/Machine/Handover.lean ====
section
/-!
DEFINITION. Bank handover (R234): its start and its end, shared by the write of OWNER, the load (R29), the first job (R36), slots (R370),
commits of a bank group (R232) and the fence of a VE (Table 15.4).
-/

namespace Sys2Proof.Machine

/-- Sequencer line `l` of partition `p` lies in bank `b`. -/
def lineInBank (s : State) (p : PartId) (b : BankId) (l : Nat) : Bool :=
  let a := l * 64
  a.testBit 38 && (partBanks s p)[a % 2 ^ 38 / bankBytes]? == some b

/-- An old owner that is a VE loses its data-cache lines of the bank (R234, R179). -/
def dropLines (s : State) (b : BankId) : State :=
  let o := s.banks[b].owner.toNat
  if h : 0x40 ≤ o ∧ o < 0x80 then
    let n : VeId := ⟨o - 0x40, by omega⟩
    match execPart s n with
    | some p => modSeq s n fun c => { c with dcache := c.dcache.filter fun l => !lineInBank s p b l.line }
    | none => s
  else s

/-- The dictionary write that a drain completes, if one started it. -/
def drainWriter (s : State) : DrainFor → State
  | .write r => dictFinish s r
  | .device => s
  | .commit _ => s

/-- A handover of bank `b` starts; writing the present owner completes at once (R233), and a fenced bank moves no more. A handover the
device makes during a drain replaces the drain's new owner. -/
def startDrain (s : State) (b : BankId) (new : Byte) (why : DrainFor) : State :=
  let k := s.banks[b]
  if k.fenced then s
  else
    match k.drain with
    | some (_, old) => modBank (drainWriter s old) b fun k => { k with drain := some (new, why) }
    | none =>
      if k.owner = new then drainWriter s why
      else modBank (dropLines s b) b fun k => { k with drain := some (new, why) }

/-- The exception entries that waited at a bank for their frames are done again (R234, R262). -/
def resumeWaiters (s : State) (ms : List (BitVec 10)) : State :=
  ms.foldl (fun t m => match masterKind m.toNat with
    | .engine n 5 => resumeEntry t (.ve n)
    | _ => t) s

/-- The drain of bank `b` has ended: OWNER changes, and the new owner's held requests and what else of it waits are admitted in arrival order
(R234). -/
def finishDrain (s : State) (b : BankId) : State :=
  match s.banks[b].drain with
  | none => s
  | some (new, why) =>
    let s1 := s.banks[b].held.foldl admitHeld (modBank s b fun k => { k with owner := new, drain := none, held := [], waiters := [] })
    drainWriter (resumeWaiters s1 s.banks[b].waiters) why

/-- BANK_STATE (Table 8.6). -/
def bankState (k : Bank) : Nat := if k.fenced then 3 else if k.drain.isSome then 2 else if k.owner = 0 then 0 else 1

/-- Every bank of the partition passes to its host stream path (R29). -/
def banksToHost (s : State) (p : PartId) : State :=
  (partBanks s p).foldl (fun t b => startDrain t b (BitVec.ofNat 8 (0x80 + p.val)) .device) s

/-- The banks that VE `n` owns pass to its partition's host stream path (Table 15.4). -/
def veBanksToHost (s : State) (p : PartId) (n : VeId) : State :=
  (partBanks s p).foldl (fun t b =>
    if t.banks[b].owner.toNat = 0x40 + n.val ∨ (t.banks[b].drain.map (·.1.toNat)) = some (0x40 + n.val) then
      startDrain t b (BitVec.ofNat 8 (0x80 + p.val)) .device
    else t) s

/-- Logical VE that a bank's sections name: that of a section with an LVE other than 0xFF (R36). -/
def bankLve (im : Image) (j : Nat) : Option Nat :=
  (im.sections.find? fun x => x.space == 1 && x.kind != 5 && x.offset / bankBytes == j && x.lve != 0xFF).map (·.lve)

/-- Section-holding banks pass to the VEs bound to their logical VEs (R36, R370). -/
def banksToVes (s : State) (p : PartId) : State :=
  match s.parts[p].image with
  | none => s
  | some im =>
    ((partBanks s p).zipIdx).foldl (fun t x =>
      match (bankLve im x.2).bind fun l => s.parts[p].bind[l]? with
      | some n => startDrain t x.1 (BitVec.ofNat 8 (0x40 + n.val)) .device
      | none => t) s

/-- A handover that the device started is under way on a bank of the partition. -/
def devDraining (s : State) (p : PartId) : Bool :=
  (partBanks s p).any fun b => match s.banks[b].drain with
    | some (_, .device) => true
    | _ => false

end Sys2Proof.Machine
end

