-- ==== Sys2Proof/Machine/Flags.lean ====
section
/-!
DEFINITION. The flags of FL (Table 6.2), how each class of instruction sets them (R168, R125), and the condition codes (Table 6.7).
-/

namespace Sys2Proof.Machine

/-- Flag V. -/
def flV (fl : W64) : Bool := bit fl 0
/-- Flag C. -/
def flC (fl : W64) : Bool := bit fl 1
/-- Flag Z. -/
def flZ (fl : W64) : Bool := bit fl 2
/-- Flag N. -/
def flN (fl : W64) : Bool := bit fl 3
/-- OVE, the signed-overflow trap enable. -/
def flOve (fl : W64) : Bool := bit fl 4
/-- DZE, the divide-by-zero trap enable. -/
def flDze (fl : W64) : Bool := bit fl 5

/-- FL with N, Z, C and V replaced. -/
def setNzcv (fl : W64) (n z c v : Bool) : W64 := setBit (setBit (setBit (setBit fl 3 n) 2 z) 1 c) 0 v

/-- FL after a result that sets N and Z only. -/
def setNz (fl : W64) (r : W64) : W64 := setBit (setBit fl 3 r.msb) 2 (r == 0)

/-- An exact sum at 64 bits: result, carry and signed overflow (R125 at 64 bits). -/
structure Sum where
  res : W64
  c : Bool
  v : Bool
deriving DecidableEq, Repr

/-- a + b + cin (R125). -/
def addC (a b : W64) (cin : Bool) : Sum :=
  let t := a.toNat + b.toNat + cin.toNat
  let r := BitVec.ofNat 64 t
  { res := r, c := decide (2 ^ 64 ≤ t), v := a.msb == b.msb && r.msb != a.msb }

/-- a + not b + cin; C is 1 when there is no borrow (R125). -/
def subC (a b : W64) (cin : Bool) : Sum :=
  let t := a.toNat + (~~~b).toNat + cin.toNat
  let r := BitVec.ofNat 64 t
  { res := r, c := decide (2 ^ 64 ≤ t), v := a.msb != b.msb && r.msb != a.msb }

/-- FL after `ADD`, `ADC`, `SUB`, `SBC` or `CMP`. -/
def sumFlags (fl : W64) (x : Sum) : W64 := setNzcv fl x.res.msb (x.res == 0) x.c x.v

/-- The shifts. -/
inductive ShKind where
  | shl
  | shr
  | sar
deriving DecidableEq, Repr

/-- A shift by `n`, 0-63. -/
def shiftRes (k : ShKind) (a : W64) (n : Nat) : W64 :=
  match k with
  | .shl => a <<< n
  | .shr => a >>> n
  | .sar => a.sshiftRight n

/-- The last bit shifted out by a shift of `n`, 1-63. -/
def shiftOut (k : ShKind) (a : W64) (n : Nat) : Bool :=
  match k with
  | .shl => bit a (64 - n)
  | .shr => bit a (n - 1)
  | .sar => bit a (n - 1)

/-- FL after a shift: N and Z, and C unless the amount is 0 (R168). -/
def shiftFlags (fl : W64) (k : ShKind) (a : W64) (n : Nat) : W64 :=
  let f := setNz fl (shiftRes k a n)
  if n = 0 then f else setBit f 1 (shiftOut k a n)

/-- COND holds (Table 6.7); 0xF is reserved and never asked. -/
def condHolds (c : Nat) (fl : W64) : Bool :=
  match c with
  | 0 => true
  | 1 => flZ fl
  | 2 => !flZ fl
  | 3 => flN fl != flV fl
  | 4 => flN fl == flV fl
  | 5 => flZ fl || flN fl != flV fl
  | 6 => !flZ fl && flN fl == flV fl
  | 7 => !flC fl
  | 8 => flC fl
  | 9 => !flC fl || flZ fl
  | 10 => flC fl && !flZ fl
  | 11 => flN fl
  | 12 => !flN fl
  | 13 => flV fl
  | 14 => !flV fl
  | _ => false

/-- FL as `MOV FL, rs` writes it: bits [5:0] only (R157). -/
def flWrite (fl rs : W64) : W64 := (fl &&& ~~~(0x3F : W64)) ||| (rs &&& 0x3F)

/-- FL as `RTI` restores it: reserved bits zero (R197). -/
def flRestore (x : W64) : W64 := x &&& 0xF3F

end Sys2Proof.Machine
end

