-- ==== Sys2Proof/Machine/Operands.lean ====
section
/-!
DEFINITION. Register fields (R156), the operand forms of the sequencer's instructions (Tables 6.4, 6.5), their encodings and the checks of R166.
-/

namespace Sys2Proof.Machine

/-! ### Register fields -/

/-- Place of A or L register `i` of window `w`. -/
def winIx (w : Fin 16) (i : Fin 16) : Fin 256 := ⟨16 * w.val + i.val, by omega⟩

/-- The next window, whose A registers are this window's P registers (R155). -/
def nextWin (w : Fin 16) : Fin 16 := w + 1

/-- A 5-bit register field read (R156). -/
def regGet (r : Regs) (x : BitVec 5) : W64 :=
  if h : x.toNat < 8 then r.g[(⟨x.toNat, h⟩ : Fin 8)]
  else if x.toNat < 24 then r.win[winIx r.cwp (Fin.ofNat 16 (x.toNat - 8))]
  else r.win[winIx (nextWin r.cwp) (Fin.ofNat 16 (x.toNat - 24))]

/-- A 5-bit register field written. -/
def regSet (r : Regs) (x : BitVec 5) (v : W64) : Regs :=
  if h : x.toNat < 8 then { r with g := r.g.set x.toNat v }
  else if x.toNat < 24 then { r with win := r.win.set (winIx r.cwp (Fin.ofNat 16 (x.toNat - 8))) v }
  else { r with win := r.win.set (winIx (nextWin r.cwp) (Fin.ofNat 16 (x.toNat - 24))) v }

/-- A 4-bit field names register 8 plus its value. -/
def hreg (x : BitVec 4) : BitVec 5 := x.setWidth 5 + 8

/-- A 5-bit 128-bit register field read: W, F or S; 28-31 name none. -/
def xGet (r : Regs) (x : BitVec 5) : W128 :=
  let i := x.toNat
  if h : i < 8 then r.w[(⟨i, h⟩ : Fin 8)]
  else if h : i < 16 then r.f[(⟨i - 8, by omega⟩ : Fin 8)]
  else if h : i < 28 then r.s[(⟨i - 16, by omega⟩ : Fin 12)]
  else 0

/-- A 5-bit 128-bit register field written. -/
def xSet (r : Regs) (x : BitVec 5) (v : W128) : Regs :=
  let i := x.toNat
  if h : i < 8 then { r with w := r.w.set i v }
  else if h : i < 16 then { r with f := r.f.set (i - 8) v }
  else if h : i < 28 then { r with s := r.s.set (i - 16) v }
  else r

/-- The field names a 128-bit register. -/
def xOk (x : BitVec 5) : Bool := decide (x.toNat < 28)

/-! ### ALU forms -/

/-- An encoding of `n` low bits. -/
def word32 (parts : List (Nat × Nat)) : W32 := parts.foldl (fun w p => w ||| at' 32 p.2 p.1) 0

/-- What an ALU instruction does with its form: destination, operands, length in bytes, encoding and whether R166 admits it. -/
structure AluOps where
  rd : BitVec 5
  a : W64
  b : W64
  len : Nat
  enc : W32
  ok : Bool
deriving DecidableEq, Repr

/-- Operands of the H0, C0 and C1 forms of operation `op` (Tables 6.4-6.6). -/
def aluOps (r : Regs) (op : Nat) : AluForm → AluOps
  | .h0 rd rs =>
    { rd := hreg rd, a := regGet r (hreg rd), b := regGet r (hreg rs), len := 2
      enc := word32 [(op, 8), (rd.toNat, 4), (rs.toNat, 0)], ok := true }
  | .c0 rd ra rb rsv =>
    { rd := rd, a := regGet r ra, b := regGet r rb, len := 4
      enc := word32 [(0x30, 26), (rd.toNat, 21), (ra.toNat, 16), (rb.toNat, 11), (op, 7), (rsv.toNat, 0)], ok := rsv == 0 }
  | .c1 rd ra imm =>
    { rd := rd, a := regGet r ra, b := imm.signExtend 64, len := 4
      enc := word32 [(0x31, 26), (rd.toNat, 21), (ra.toNat, 16), (op, 12), (imm.toNat, 0)], ok := true }

/-- OP of H1 (Table 6.4). -/
def h1Op (op : Nat) : Nat := if op = 0xB then 0 else if op = 0 then 1 else if op = 0xA then 2 else 3

/-- Operands of the forms that also have H1. -/
def addOps (r : Regs) (op : Nat) : AddForm → AluOps
  | .alu f => aluOps r op f
  | .h1 rd imm =>
    { rd := hreg rd, a := regGet r (hreg rd), b := imm.signExtend 64, len := 2
      enc := word32 [(1, 12), (h1Op op, 10), (rd.toNat, 6), (imm.toNat, 0)], ok := true }

/-- `CMP` forms: C0 and C1 need RD zero (R166). -/
def cmpOk : AddForm → Bool
  | .alu (.c0 rd _ _ _) => rd == 0
  | .alu (.c1 rd _ _) => rd == 0
  | _ => true

/-- `MOV` forms: C0 and C1 need RA zero (R166). -/
def movOk : AddForm → Bool
  | .alu (.c0 _ ra _ _) => ra == 0
  | .alu (.c1 _ ra _) => ra == 0
  | _ => true

/-- Operands of a shift: `b` is the amount, 0-63; C1 reserves [11:6] (Table 6.5). -/
def shOps (r : Regs) (op : Nat) : ShForm → AluOps
  | .h2 rd amt =>
    { rd := hreg rd, a := regGet r (hreg rd), b := amt.setWidth 64, len := 2
      enc := word32 [(2, 12), (op - 7, 10), (rd.toNat, 6), (amt.toNat, 0)], ok := true }
  | .alu f =>
    let x := aluOps r op f
    { x with b := x.b &&& 0x3F, ok := x.ok && (match f with | .c1 _ _ imm => decide (imm.toNat < 64) | _ => true) }

/-! ### The frame of an instruction -/

/-- An instruction of a sequencer core at its boundary (R166, R183, R199): with `bad` a CODE of Table 7.12 it is illegal, else `f` is
its effect. -/
def seqOp (s : State) (c : CoreId) (enc : W32) (bad : Option Nat) (f : State → State) : State :=
  atBoundary s c enc fun s =>
    match bad with
    | some code => illegal s c code enc
    | none => f s

/-- CODE 0x01 unless `ok` (R166). -/
def badIf (ok : Bool) : Option Nat := if ok then none else some 1

/-- Engine-privilege instructions are illegal on the supervisor with CODE 0x04 (R191). -/
def engineOnly (c : CoreId) (ok : Bool) : Option Nat :=
  match c with
  | .sv => some 4
  | .ve _ => badIf ok

/-- An instruction of `len` bytes that only changes registers. -/
def regOp (s : State) (c : CoreId) (len : Nat) (f : Regs → Regs) : State := modRegs (retire s c (nextPc s c len)) c f

end Sys2Proof.Machine
end

