-- ==== Sys2Proof/Machine/Encoding.lean ====
section
/-!
DEFINITION. Vector instructions: their words (R89), classes and fields (R90, Tables 4.1, 4.2, 4.5, 5.1, 5.2), and the checks
made at decode (R51, R91, R93, R120, R123).
-/

namespace Sys2Proof.Machine

/-- A vector operation with the fields of its FN. -/
inductive VOp where
  | lut (tt : Nat)
  | qlut (tt : Nat)
  | res (mode : Nat)
  | cmpr
  | expd
  | chg (nopass acc cmt : Bool) (bmr : Nat)
  | perm (shared : Bool)
  | bgath (shared : Bool)
  | gath
  | scat
  /-- `VADD`, `VADC`, `VSUB`, `VSBC` by `sub` and `carry`, with CR. -/
  | addsub (sub carry : Bool) (cr : Nat)
  | cmp (packed : Bool) (cond : Nat)
  | sel
  | shl
  | shr (arith : Bool)
  | rot (right : Bool)
  | mulw (sa sb ha hb : Bool)
  | mull
  | divInit (sg : Bool)
  | divStep (sg : Bool) (count : Nat)
  | divFix (sg : Bool)
  | fadd (dbl : Bool)
  | fsub (dbl : Bool)
  | fmul (dbl : Bool)
  | fma (dbl np nc : Bool)
  | fmin (dbl : Bool)
  | fmax (dbl : Bool)
  | fcmp (dbl : Bool) (cond : Nat)
  | fcvt (cv : Nat)
deriving DecidableEq, Repr

/-- A decoded vector instruction: its operation, pair elements, and operand fields. -/
structure VIns where
  op : VOp
  pair : Bool
  d : Nat
  a : Nat
  b : Nat
  c : Nat
  g : Bool
  k : Bool
deriving DecidableEq, Repr

/-- The four pipes (Table 3.3). -/
inductive Pipe where
  | route
  | logic
  | int
  | fp
deriving DecidableEq, Repr

/-- The pipe of an operation (Table 3.3). -/
def VOp.pipe : VOp → Pipe
  | .perm _ | .bgath _ | .gath | .scat => .route
  | .lut _ | .qlut _ | .res _ | .chg .. | .cmpr | .expd => .logic
  | .addsub .. | .cmp .. | .sel | .shl | .shr _ | .rot _ | .mulw .. | .mull | .divInit _ | .divStep .. | .divFix _ => .int
  | .fadd _ | .fsub _ | .fmul _ | .fma .. | .fmin _ | .fmax _ | .fcmp .. | .fcvt _ => .fp

/-- The word of a vector instruction (R89). -/
def vword (vop fn : Nat) (o : VOps) : W32 :=
  word32 [(vop, 26), (fn, 18), (o.d.toNat, 14), (o.a.toNat, 10), (o.b.toNat, 6), (o.c.toNat, 2), (o.g.toNat, 1), (o.k.toNat, 0)]

/-- The operation that VOP and FN select; none where an FN value or bit is reserved (R93, R95, R99, R109, R119, R120). -/
def vopOf (vop fn : Nat) : Option (VOp × Bool) :=
  let b (i : Nat) : Bool := fn.testBit i
  if vop = 0x38 then some (.lut fn, false)
  else if vop = 0x39 then some (.qlut fn, true)
  else if vop = 0x3A then
    match fn / 64 with
    | 0 => if fn % 8 = 0 ∧ fn / 8 % 8 ≠ 7 then some (.res (fn / 8 % 8), true) else none
    | 1 => if fn / 2 % 32 = 0 then some (.cmpr, b 0) else none
    | 2 => if fn / 2 % 32 = 0 then some (.expd, b 0) else none
    | _ => none
  else if vop = 0x3B then
    if fn % 16 < 12 then some (.chg (b 6) (b 5) (b 4) (fn % 16), b 7) else none
  else if vop = 0x3C then
    if fn / 2 % 8 ≠ 0 then none
    else
      match fn / 32 with
      | 0 => some (.perm (b 4), b 0)
      | 1 => some (.bgath (b 4), b 0)
      | 2 => if b 4 then none else some (.gath, b 0)
      | 3 => if b 4 then none else some (.scat, b 0)
      | _ => none
  else if vop = 0x3D then
    let low := fn % 16
    match fn / 16 with
    | 0 => if low < 12 ∨ low = 15 then some (.addsub false false low, false) else none
    | 1 => if low < 12 ∨ low = 15 then some (.addsub false true low, false) else none
    | 2 => if low < 12 ∨ low = 15 then some (.addsub true false low, false) else none
    | 3 => if low < 12 ∨ low = 15 then some (.addsub true true low, false) else none
    | 4 => some (.cmp (b 3) (low % 8), false)
    | 5 => if low = 0 then some (.sel, false) else none
    | 6 => if low = 0 then some (.shl, false) else none
    | 7 => if low < 2 then some (.shr (b 0), false) else none
    | 8 => if low < 2 then some (.rot (b 0), false) else none
    | _ => none
  else if vop = 0x3E then
    match fn / 64 with
    | 0 => if fn % 4 = 0 then some (.mulw (b 5) (b 4) (b 3) (b 2), false) else none
    | 1 => if fn % 64 = 0 then some (.mull, false) else none
    | 2 =>
      if b 2 then none
      else
        match fn / 16 % 4 with
        | 0 => if fn % 4 = 0 then some (.divInit (b 3), false) else none
        | 1 => some (.divStep (b 3) (fn % 4 + 1), false)
        | 2 => if fn % 4 = 0 then some (.divFix (b 3), false) else none
        | _ => none
    | _ => none
  else if vop = 0x3F then
    let z := b 3
    let low := fn % 8
    match fn / 16 with
    | 0 => if low = 0 then some (.fadd z, false) else none
    | 1 => if low = 0 then some (.fsub z, false) else none
    | 2 => if low = 0 then some (.fmul z, false) else none
    | 3 => if low < 4 then some (.fma z (b 1) (b 0), false) else none
    | 4 => if low = 0 then some (.fmin z, false) else none
    | 5 => if low = 0 then some (.fmax z, false) else none
    | 6 => if low < 5 then some (.fcmp z low, false) else none
    | 7 => if fn % 16 < 10 then some (.fcvt (fn % 16), false) else none
    | _ => none
  else none

/-- How an operand position is used (Tables 4.2, 5.2): unused, any stream or halyard, a stream register, or a linear one. -/
inductive Use where
  | none
  | any
  | stream
  | linear
deriving DecidableEq, Repr

/-- Use of D, A, B and C by an operation. -/
def VOp.uses : VOp → Use × Use × Use × Use
  | .lut _ => (.any, .any, .any, .any)
  | .qlut _ => (.any, .any, .any, .any)
  | .res m => if m = 3 ∨ m = 4 then (.any, .any, .any, .none) else (.any, .any, .any, .any)
  | .cmpr => (.stream, .any, .linear, .none)
  | .expd => (.stream, .stream, .linear, .none)
  | .chg np acc _ _ => (if np then .none else .any, .any, .any, if acc then .linear else .none)
  | .perm _ => (.any, .any, .linear, .none)
  | .bgath _ => (.any, .any, .any, .linear)
  | .gath => (.any, .stream, .none, .none)
  | .scat => (.stream, .any, .none, .none)
  | .addsub _ cy _ => (.any, .any, .any, if cy then .linear else .none)
  | .cmp packed _ => (if packed then .linear else .any, .any, .any, .none)
  | .sel => (.any, .any, .any, .linear)
  | .shl | .shr _ | .rot _ | .mulw .. | .mull | .divStep .. | .divFix _ => (.any, .any, .any, .none)
  | .divInit _ => (.any, .any, .none, .none)
  | .fadd _ | .fsub _ | .fmul _ | .fmin _ | .fmax _ | .fcmp .. => (.any, .any, .any, .none)
  | .fma .. => (.any, .any, .any, .any)
  | .fcvt _ => (.any, .any, .none, .none)

/-- A field value meets its use: zero where unused, a stream register where a stream is needed (R91, R93, R94). -/
def useOk (u : Use) (x : Nat) : Bool :=
  match u with
  | .none => x == 0
  | .any => true
  | .stream => decide (x < 12)
  | .linear => decide (x < 12)

/-- The instruction a word encodes; none where R93 or R120 makes it illegal. -/
def vdecode (w : W32) : Option VIns :=
  match vopOf (fld w 31 26) (fld w 25 18) with
  | none => none
  | some (op, pair) =>
    let i : VIns := { op := op, pair := pair, d := fld w 17 14, a := fld w 13 10, b := fld w 9 6, c := fld w 5 2, g := bit w 1, k := bit w 0 }
    let u := op.uses
    if useOk u.1 i.d && useOk u.2.1 i.a && useOk u.2.2.1 i.b && useOk u.2.2.2 i.c then some i else none

/-- The instruction needs an RN engine (R51, R139, Table 5.5). -/
def VOp.rnOnly : VOp → Bool
  | .fma .. => true
  | .fcvt cv => decide (6 ≤ cv)
  | _ => false

/-- RM of VCTL (R123). -/
def rmOf (vctl : W32) : Nat := fld vctl 18 16

/-- The engine admits the instruction under its VCTL (R51, R123). -/
def engineOk (rn : Bool) (vctl : W32) (op : VOp) : Bool :=
  (rn || !op.rnOnly) && (op.pipe != .fp || decide (rmOf vctl < 4) || (rn && rmOf vctl == 4))

/-! ### Chain groups (Table 3.4, R111, R116) -/

/-- Registers and halyards an instruction reads: A, B and C where it uses them. -/
def VIns.reads (i : VIns) : List Nat :=
  let u := i.op.uses
  (if u.2.1 = .none then [] else [i.a]) ++ (if u.2.2.1 = .none then [] else [i.b]) ++ (if u.2.2.2 = .none then [] else [i.c])

/-- The field D, where the instruction uses it. -/
def VIns.writes (i : VIns) : List Nat := if i.op.uses.1 = .none then [] else [i.d]

/-- The register of a packed output: BMR, CR, or D of `VCMP` FORM 1 (R110, R126, R128). -/
def VIns.packedOut (i : VIns) : Option Nat :=
  match i.op with
  | .chg _ _ _ bmr => some bmr
  | .addsub _ _ cr => if cr = 15 then none else some cr
  | .cmp true _ => some i.d
  | _ => none

/-- Every register the instruction names. -/
def VIns.names (i : VIns) : List Nat := i.reads ++ i.writes ++ i.packedOut.toList

/-- MODE of a descriptor (Table 3.2). -/
def dMode (x : W128) : Nat := fld x 127 125

/-- The register of the indexed operand, where the instruction accepts one and it holds an indexed descriptor (R94, R107). -/
def VIns.indexed (i : VIns) (regs : Vector W128 12) : Option Nat :=
  let at? (r : Nat) : Option Nat := if h : r < 12 then (if dMode regs[r] = 4 then some r else none) else none
  match i.op with
  | .gath => at? i.a
  | .scat => at? i.d
  | _ => none

/-- All elements of a list differ. -/
def distinct : List Nat → Bool
  | [] => true
  | x :: xs => !xs.contains x && distinct xs

/-- The halyards of a group: each written once, by an instruction ahead of all its readers, and read (Table 3.4). -/
def halyardsOk (g : List VIns) : Bool :=
  let idx := g.zipIdx
  idx.all fun (i, p) =>
    (i.reads.all fun r => r < 12 || (idx.any fun (j, q) => decide (q < p) && j.writes.contains r)) &&
    (i.writes.all fun r => r < 12 ||
      ((idx.all fun (j, q) => q == p || !j.writes.contains r) &&
       (idx.any fun (j, q) => decide (p < q) && j.reads.contains r)))

/-- Read streams of a group: distinct registers among A, B, C, and one more for each index stream (Table 3.4, R107). -/
def readStreams (g : List VIns) (regs : Vector W128 12) : Nat :=
  ((g.flatMap VIns.reads).filter (· < 12)).eraseDups.length + (g.filterMap fun i => i.indexed regs).length

/-- A closed group meets Table 3.4, R111 and R116. -/
def groupOk (g : List VIns) (regs : Vector W128 12) : Bool :=
  decide (g.length ≤ 4) &&
  decide ((g.map fun i => i.op.pipe).eraseDups.length = g.length) &&
  halyardsOk g &&
  decide (readStreams g regs ≤ 3) &&
  decide ((g.filter fun i => i.writes.any (· < 12)).length ≤ 1) &&
  (g.all fun i => i.pair == (g.head?.map (·.pair)).getD false) &&
  (g.all fun i => i.g == (g.head?.map (·.g)).getD false) &&
  (g.all fun i => !i.g || !i.names.contains 11) &&
  decide ((g.filterMap VIns.packedOut).length ≤ 1) &&
  ((g.zipIdx).all fun (i, p) =>
    match i.op with
    | .cmpr => p + 1 == g.length && !i.g
    | .expd => p == 0 && !i.g
    | _ => true)

end Sys2Proof.Machine
end

