-- ==== Sys2Proof/Machine/VecInt.lean ====
section
/-!
DEFINITION. Element functions of the logic, route and integer pipes (R97-R102, R110, R125, R128-R134).
-/

namespace Sys2Proof.Machine

/-- A 128-bit word built bit by bit. -/
def bitsOf (f : Nat → Bool) : W128 :=
  BitVec.ofNat 128 ((List.range 128).foldl (fun acc j => if f j then acc + 2 ^ j else acc) 0)

/-- `VLUT`: bit `t` of the table at every position (R97). -/
def lutWord (tt : Nat) (a b c : W128) : W128 :=
  bitsOf fun j => tt.testBit (4 * (bit c j).toNat + 2 * (bit b j).toNat + (bit a j).toNat)

/-- `VQLUT` at one position, inputs as (v, u): the values the table can take over the inputs that fit (R98). -/
def qlutBit (tt : Nat) (a b c : Bool × Bool) : Bool × Bool :=
  let fits (x : Bool × Bool) (t : Bool) : Bool := x.2 || x.1 == t
  let ts := (List.range 8).filter fun t => fits a (t.testBit 0) && fits b (t.testBit 1) && fits c (t.testBit 2)
  let can1 := ts.any fun t => tt.testBit t
  let can0 := ts.any fun t => !tt.testBit t
  if can1 && can0 then (true, true) else if can1 then (true, false) else (false, false)

/-- Four values of a net. -/
inductive Net where
  | zero
  | one
  | z
  | x
deriving DecidableEq, Repr

/-- A net value from (v, u): Z is (0, 1), X is (1, 1) (R100). -/
def netOf (p : Bool × Bool) : Net := if p.2 then (if p.1 then .x else .z) else (if p.1 then .one else .zero)
/-- Its (v, u). -/
def ofNet : Net → Bool × Bool
  | .zero => (false, false)
  | .one => (true, false)
  | .z => (false, true)
  | .x => (true, true)

/-- WIRE of Table 4.4. -/
def resWire (l : List Net) : Net :=
  let d := l.filter (· ≠ .z)
  if d.isEmpty then .z
  else if d.contains .x || (d.contains .zero && d.contains .one) then .x
  else if d.contains .one then .one else .zero

/-- WAND of Table 4.4. -/
def resWand (l : List Net) : Net :=
  let d := l.filter (· ≠ .z)
  if d.isEmpty then .z else if d.contains .zero then .zero else if d.contains .x then .x else .one

/-- WOR of Table 4.4. -/
def resWor (l : List Net) : Net :=
  let d := l.filter (· ≠ .z)
  if d.isEmpty then .z else if d.contains .one then .one else if d.contains .x then .x else .zero

/-- BUFIF1 of Table 4.4: data `d`, enable `e`. -/
def resBuf (d e : Net) : Net :=
  match e with
  | .one => if d = .z then .x else d
  | .zero => .z
  | _ => if d = .z then .z else .x

/-- `VRES` at one position (R100). -/
def resBit (mode : Nat) (a b c : Net) : Net :=
  match mode with
  | 0 => resWire [a, b, c]
  | 1 => resWand [a, b, c]
  | 2 => resWor [a, b, c]
  | 3 => resBuf a b
  | 4 => resBuf a (match b with | .one => .zero | .zero => .one | o => o)
  | 5 => if resWire [a, b, c] = .z then .zero else resWire [a, b, c]
  | _ => if resWire [a, b, c] = .z then .one else resWire [a, b, c]

/-- A function of one bit position of pair elements over whole pair elements: word v, then word u (R41). -/
def pairMap (f : Bool × Bool → Bool × Bool → Bool × Bool → Bool × Bool) (a b c : List W128) : List W128 :=
  let p (x : List W128) (j : Nat) : Bool × Bool := (bit (nth x 0 0) j, bit (nth x 1 0) j)
  [bitsOf fun j => (f (p a j) (p b j) (p c j)).1, bitsOf fun j => (f (p a j) (p b j) (p c j)).2]

/-- One swap of the network: lines `lo` and `lo + 2^d` exchanged. -/
def swapBits (w : W128) (lo d : Nat) : W128 :=
  let x := bit w lo
  let y := bit w (lo + 2 ^ d)
  setBit (setBit w lo y) (lo + 2 ^ d) x

/-- `VPERM` of one word through the 13 stages of 64 switches (R101). -/
def permWord (ctl : List W128) (a : W128) : W128 :=
  (List.range 13).foldl (fun line t =>
    let d := if t ≤ 6 then 6 - t else t - 6
    (List.range 64).foldl (fun line m =>
      let k := 64 * t + m
      if bit (nth ctl (k / 128) 0) (k % 128) then swapBits line (m / 2 ^ d * 2 ^ (d + 1) + m % 2 ^ d) d else line) line) a

/-- `VBGATH` of one word from A and B (R102). -/
def bgathWord (ctl : List W128) (a b : W128) : W128 :=
  bitsOf fun j =>
    let s := (byteOf (nth ctl (j / 16) 0) (j % 16)).toNat
    if s < 128 then bit a s else bit b (s - 128)

/-- An add or subtract on 129-bit values: result, carry out and signed overflow (R125). -/
def addWord (sub : Bool) (cin : Bool) (a b : W128) : W128 × Bool × Bool :=
  let t := a.toNat + (if sub then (~~~b).toNat else b.toNat) + cin.toNat
  let r := BitVec.ofNat 128 t
  let sv := if sub then a.msb != b.msb && r.msb != a.msb else a.msb == b.msb && r.msb != a.msb
  (r, decide (2 ^ 128 ≤ t), sv)

/-- The condition of `VCMP` (R128). -/
def cmpWord (cond : Nat) (a b : W128) : Bool :=
  match cond with
  | 0 => a == b
  | 1 => a != b
  | 2 => decide (a.toNat < b.toNat)
  | 3 => decide (b.toNat ≤ a.toNat)
  | 4 => decide (a.toInt < b.toInt)
  | 5 => decide (b.toInt ≤ a.toInt)
  | 6 => decide (a.toNat ≤ b.toNat)
  | _ => decide (a.toInt ≤ b.toInt)

/-- Amount of a vector shift: B[6:0] (R130). -/
def shAmt (b : W128) : Nat := b.toNat % 128

/-- `VMULW`: one half of each operand, signed or unsigned (R131). -/
def mulwWord (sa sb ha hb : Bool) (a b : W128) : W128 :=
  let x := a.toNat / (if ha then 2 ^ 64 else 1) % 2 ^ 64
  let y := b.toNat / (if hb then 2 ^ 64 else 1) % 2 ^ 64
  BitVec.ofInt 128 ((if sa then sint 64 x else x) * (if sb then sint 64 y else y))

/-- `VMULL`: lane by lane, low halves (R132). -/
def mullWord (a b : W128) : W128 :=
  let lo := a.toNat % 2 ^ 64 * (b.toNat % 2 ^ 64) % 2 ^ 64
  let hi := a.toNat / 2 ^ 64 * (b.toNat / 2 ^ 64) % 2 ^ 64
  at' 128 64 hi ||| at' 128 0 lo

/-- The unsigned magnitude of a 64-bit two's complement value (R133). -/
def mag64 (x : Nat) : Nat := (sint 64 x).natAbs

/-- `VDIVS` INIT (R133). -/
def divInitWord (sg : Bool) (w : W128) : W128 :=
  let n := w.toNat % 2 ^ 64
  at' 128 0 (if sg then mag64 n else n)

/-- One step on (R, Q) with divisor `dv`. -/
def divStep1 (dv : Nat) (x : Nat × Nat) : Nat × Nat :=
  let t := x.1 * 2 + x.2 / 2 ^ 63
  let q := x.2 * 2 % 2 ^ 64
  if dv ≤ t then ((t - dv) % 2 ^ 64, q + 1) else (t % 2 ^ 64, q)

/-- `n` steps. -/
def divSteps (dv : Nat) : Nat → Nat × Nat → Nat × Nat
  | 0, x => x
  | n + 1, x => divSteps dv n (divStep1 dv x)

/-- `VDIVS` STEP: state `a`, operand word `b` (R133). -/
def divStepWord (sg : Bool) (n : Nat) (a b : W128) : W128 :=
  let d := b.toNat / 2 ^ 64
  let x := divSteps (if sg then mag64 d else d) n (a.toNat / 2 ^ 64, a.toNat % 2 ^ 64)
  at' 128 64 x.1 ||| at' 128 0 x.2

/-- `VDIVS` FIX: the result word, SV and ZD (R133, R134). -/
def divFixWord (sg : Bool) (a b : W128) : W128 × Bool × Bool :=
  let d := b.toNat / 2 ^ 64
  let n := b.toNat % 2 ^ 64
  if d = 0 then (at' 128 64 n ||| at' 128 0 (2 ^ 64 - 1), false, true)
  else
    let q0 := a.toNat % 2 ^ 64
    let r0 := a.toNat / 2 ^ 64
    let nn := n.testBit 63
    let q := if sg && nn != d.testBit 63 then (2 ^ 64 - q0) % 2 ^ 64 else q0
    let r := if sg && nn then (2 ^ 64 - r0) % 2 ^ 64 else r0
    (at' 128 64 r ||| at' 128 0 q, sg && n == 2 ^ 63 && d == 2 ^ 64 - 1, false)

end Sys2Proof.Machine
end

