-- ==== Sys2Proof/Machine/VecFloat.lean ====
section
/-!
DEFINITION. The FP pipe (R138-R152): exact dyadic values, one rounding, flags and subnormal handling.
-/

namespace Sys2Proof.Machine

/-- A binary format: exponent and fraction widths. -/
structure Fmt where
  eb : Nat
  mb : Nat
deriving DecidableEq, Repr

/-- binary32. -/
def fmtS : Fmt := { eb := 8, mb := 23 }
/-- binary64. -/
def fmtD : Fmt := { eb := 11, mb := 52 }

/-- Width of a format. -/
def Fmt.width (f : Fmt) : Nat := 1 + f.eb + f.mb
/-- Exponent bias, which is also the largest exponent. -/
def Fmt.bias (f : Fmt) : Nat := 2 ^ (f.eb - 1) - 1
/-- Smallest normal exponent. -/
def Fmt.emin (f : Fmt) : Int := 1 - (f.bias : Int)
/-- The all-ones exponent field. -/
def Fmt.emax (f : Fmt) : Nat := 2 ^ f.eb - 1
/-- Infinity of a sign. -/
def Fmt.inf (f : Fmt) (sg : Bool) : Nat := (if sg then 2 ^ (f.eb + f.mb) else 0) + f.emax * 2 ^ f.mb
/-- The default NaN (R140). -/
def Fmt.qnan (f : Fmt) : Nat := f.emax * 2 ^ f.mb + 2 ^ (f.mb - 1)
/-- Zero of a sign. -/
def Fmt.zero (f : Fmt) (sg : Bool) : Nat := if sg then 2 ^ (f.eb + f.mb) else 0
/-- The largest finite value of a sign. -/
def Fmt.big (f : Fmt) (sg : Bool) : Nat := f.inf sg - 1

/-- How an engine treats subnormals: an RN engine in full (R150), a standard one by flushing (R144) or trapping (R145). -/
inductive SubMode where
  | full
  | flush
  | trap
deriving DecidableEq, Repr

/-- A lane's result: its bits, the flags it raises (Table 5.3) and whether it traps (R145). -/
structure Lane where
  bits : Nat
  flags : Nat
  trap : Bool
deriving DecidableEq, Repr

/-- Flag NV. -/
def fNV : Nat := 1
/-- Flags OF and IX. -/
def fOF : Nat := 2
/-- Flag UF. -/
def fUF : Nat := 4
/-- Flag IX. -/
def fIX : Nat := 8
/-- Flag DI. -/
def fDI : Nat := 16

/-- A lane's value: a NaN, an infinity, or sign, magnitude and power of two. -/
inductive FV where
  | nan (bits : Nat) (sig : Bool)
  | inf (sg : Bool)
  | fin (sg : Bool) (m : Nat) (e : Int)
deriving DecidableEq, Repr

/-- Sign bit. -/
def Fmt.sign (f : Fmt) (x : Nat) : Bool := x.testBit (f.eb + f.mb)

/-- The lane holds a subnormal. -/
def Fmt.isSub (f : Fmt) (x : Nat) : Bool := x / 2 ^ f.mb % 2 ^ f.eb == 0 && x % 2 ^ f.mb != 0

/-- The value of a lane; under flush a subnormal reads as zero of its sign (R144). -/
def Fmt.val (f : Fmt) (mode : SubMode) (x : Nat) : FV :=
  let fr := x % 2 ^ f.mb
  let ex := x / 2 ^ f.mb % 2 ^ f.eb
  let sg := f.sign x
  if ex = f.emax then (if fr = 0 then .inf sg else .nan x (!fr.testBit (f.mb - 1)))
  else if ex = 0 then
    (if mode = .flush then .fin sg 0 0 else .fin sg fr (f.emin - f.mb))
  else .fin sg (2 ^ f.mb + fr) ((ex : Int) - f.bias - f.mb)

/-- A quieted NaN. -/
def Fmt.quiet (f : Fmt) (x : Nat) : Nat := x ||| 2 ^ (f.mb - 1)

/-- Flags raised by input lanes: DI for a subnormal, NV for a signalling NaN (R140, R144, R150). -/
def inFlags (f : Fmt) (mode : SubMode) (xs : List Nat) : Nat :=
  xs.foldl (fun acc x =>
    acc ||| (if f.isSub x then fDI else 0) ||| (match f.val mode x with | .nan _ true => fNV | _ => 0)) 0

/-- The first NaN among inputs, quieted (R140). -/
def firstNan (f : Fmt) (mode : SubMode) : List Nat → Option Nat
  | [] => none
  | x :: xs => match f.val mode x with
    | .nan b _ => some (f.quiet b)
    | _ => firstNan f mode xs

/-- Whether a quotient with remainder is rounded up in magnitude: `rem` of `div`, sign and the quotient's parity. -/
def roundUp (rm : Nat) (sg : Bool) (q rem div : Nat) : Bool :=
  rem != 0 && match rm with
    | 0 => decide (div < 2 * rem) || (decide (2 * rem = div) && q % 2 == 1)
    | 1 => false
    | 2 => !sg
    | 3 => sg
    | _ => decide (div ≤ 2 * rem)

/-- `m * 2^e` rounded to a multiple of `2^q`: the multiple, and whether it is inexact. -/
def roundTo (rm : Nat) (sg : Bool) (m : Nat) (e q : Int) : Nat × Bool :=
  if q ≤ e then (m * 2 ^ (e - q).toNat, false)
  else
    let dv := 2 ^ (q - e).toNat
    let r := m % dv
    (m / dv + (if roundUp rm sg (m / dv) r dv then 1 else 0), r != 0)

/-- Number of bits of a number. -/
def bitLen (m : Nat) : Nat := if m = 0 then 0 else Nat.log2 m + 1

/-- Encoding of `r * 2^q` with `r` below `2^(mb+1)`, where `q` is at least the subnormal quantum; the caller has excluded overflow. -/
def Fmt.pack (f : Fmt) (sg : Bool) (r : Nat) (q : Int) : Nat :=
  if r < 2 ^ f.mb then f.zero sg + r
  else f.zero sg + ((q + f.mb + f.bias).toNat * 2 ^ f.mb + (r - 2 ^ f.mb))

/-- One rounding of the exact nonzero value (-1)^sg m 2^e (R139, R144, R145, R150). -/
def Fmt.round (f : Fmt) (rm : Nat) (mode : SubMode) (sg : Bool) (m : Nat) (e : Int) : Lane :=
  let top : Int := e + bitLen m - 1
  let u := roundTo rm sg m e (top - f.mb)
  let topR : Int := if u.1 = 2 ^ (f.mb + 1) then top + 1 else top
  if topR < f.emin then
    match mode with
    | .trap => { bits := f.zero sg, flags := 0, trap := true }
    | .flush => { bits := f.zero sg, flags := fUF ||| fIX, trap := false }
    | .full =>
      let s := roundTo rm sg m e (f.emin - f.mb)
      { bits := f.pack sg s.1 (f.emin - f.mb), flags := if s.2 then fUF ||| fIX else 0, trap := false }
  else if (f.bias : Int) < topR then
    let toInf := match rm with
      | 1 => false
      | 2 => !sg
      | 3 => sg
      | _ => true
    { bits := if toInf then f.inf sg else f.big sg, flags := fOF ||| fIX, trap := false }
  else
    let r := if u.1 = 2 ^ (f.mb + 1) then 2 ^ f.mb else u.1
    { bits := f.pack sg r (topR - f.mb), flags := if u.2 then fIX else 0, trap := false }

/-- A lane without rounding. -/
def laneOf (bits flags : Nat) : Lane := { bits := bits, flags := flags, trap := false }

/-- Flags added to a lane. -/
def Lane.add (l : Lane) (fl : Nat) : Lane := { l with flags := l.flags ||| fl }

/-- The exact sum of two finite values, rounded; an exact zero takes the sign of equal zeros, else + or, in RDN, - (IEEE 754-2019). -/
def sumFin (f : Fmt) (rm : Nat) (mode : SubMode) (s1 : Bool) (m1 : Nat) (e1 : Int) (s2 : Bool) (m2 : Nat) (e2 : Int) : Lane :=
  let e := if e1 ≤ e2 then e1 else e2
  let x : Int := (if s1 then -1 else 1) * (m1 * 2 ^ (e1 - e).toNat : Nat)
  let y : Int := (if s2 then -1 else 1) * (m2 * 2 ^ (e2 - e).toNat : Nat)
  let t := x + y
  if t = 0 then laneOf (f.zero (if m1 = 0 ∧ m2 = 0 ∧ s1 = s2 then s1 else rm == 3)) 0
  else f.round rm mode (decide (t < 0)) t.natAbs e

/-- A lane traps when an input is subnormal under trap (R145). -/
def inTrap (f : Fmt) (mode : SubMode) (xs : List Nat) : Bool := mode == .trap && xs.any f.isSub

/-- `VFADD` and, with `neg`, `VFSUB` of one lane. -/
def addLane (f : Fmt) (rm : Nat) (mode : SubMode) (neg : Bool) (a b : Nat) : Lane :=
  let fl := inFlags f mode [a, b]
  if inTrap f mode [a, b] then { bits := 0, flags := 0, trap := true }
  else
    match firstNan f mode [a, b] with
    | some n => laneOf n fl
    | none =>
      match f.val mode a, f.val mode b with
      | .inf s1, .inf s2 => if s1 = (s2 != neg) then laneOf (f.inf s1) fl else laneOf f.qnan (fl ||| fNV)
      | .inf s1, _ => laneOf (f.inf s1) fl
      | _, .inf s2 => laneOf (f.inf (s2 != neg)) fl
      | .fin s1 m1 e1, .fin s2 m2 e2 => (sumFin f rm mode s1 m1 e1 (s2 != neg) m2 e2).add fl
      | _, _ => laneOf f.qnan fl

/-- `VFMUL` of one lane. -/
def mulLane (f : Fmt) (rm : Nat) (mode : SubMode) (a b : Nat) : Lane :=
  let fl := inFlags f mode [a, b]
  if inTrap f mode [a, b] then { bits := 0, flags := 0, trap := true }
  else
    match firstNan f mode [a, b] with
    | some n => laneOf n fl
    | none =>
      match f.val mode a, f.val mode b with
      | .inf s1, .inf s2 => laneOf (f.inf (s1 != s2)) fl
      | .inf s1, .fin s2 m _ => if m = 0 then laneOf f.qnan (fl ||| fNV) else laneOf (f.inf (s1 != s2)) fl
      | .fin s1 m _, .inf s2 => if m = 0 then laneOf f.qnan (fl ||| fNV) else laneOf (f.inf (s1 != s2)) fl
      | .fin s1 m1 e1, .fin s2 m2 e2 =>
        if m1 * m2 = 0 then laneOf (f.zero (s1 != s2)) fl else (f.round rm mode (s1 != s2) (m1 * m2) (e1 + e2)).add fl
      | _, _ => laneOf f.qnan fl

/-- `VFMA` of one lane: (-1)^np a b + (-1)^nc c with one rounding (R140, R148). -/
def fmaLane (f : Fmt) (rm : Nat) (np nc : Bool) (a b c : Nat) : Lane :=
  let fl := inFlags f .full [a, b, c]
  let va := f.val .full a
  let vb := f.val .full b
  let inval := match va, vb with
    | .inf _, .fin _ m _ => m == 0
    | .fin _ m _, .inf _ => m == 0
    | _, _ => false
  let fl := if inval then fl ||| fNV else fl
  match firstNan f .full [a, b, c] with
  | some n => laneOf n fl
  | none =>
    if inval then laneOf f.qnan fl
    else
      match va, vb, f.val .full c with
      | .fin s1 m1 e1, .fin s2 m2 e2, .fin s3 m3 e3 =>
        (sumFin f rm .full ((s1 != s2) != np) (m1 * m2) (e1 + e2) (s3 != nc) m3 e3).add fl
      | .fin _ _ _, .fin _ _ _, .inf s3 => laneOf (f.inf (s3 != nc)) fl
      | x, y, z =>
        let sx := match x with | .inf s => s | .fin s _ _ => s | .nan _ _ => false
        let sy := match y with | .inf s => s | .fin s _ _ => s | .nan _ _ => false
        let sp := (sx != sy) != np
        match z with
        | .inf s3 => if sp = (s3 != nc) then laneOf (f.inf sp) fl else laneOf f.qnan (fl ||| fNV)
        | _ => laneOf (f.inf sp) fl

/-- A value as a key of the total order of numbers, -0 below +0 when `zeros` is set (R141). -/
def lessFV (zeros : Bool) (x y : FV) : Bool :=
  match x, y with
  | .inf s1, .inf s2 => s1 && !s2
  | .inf s1, _ => s1
  | _, .inf s2 => !s2
  | .fin s1 m1 e1, .fin s2 m2 e2 =>
    if m1 = 0 ∧ m2 = 0 then zeros && s1 && !s2
    else
      let e := if e1 ≤ e2 then e1 else e2
      let a : Int := (if s1 then -1 else 1) * (m1 * 2 ^ (e1 - e).toNat : Nat)
      let b : Int := (if s2 then -1 else 1) * (m2 * 2 ^ (e2 - e).toNat : Nat)
      decide (a < b)
  | _, _ => false

/-- The lane as read: zero of its sign where flush replaces it. -/
def asRead (f : Fmt) (mode : SubMode) (x : Nat) : Nat := if mode = .flush ∧ f.isSub x = true then f.zero (f.sign x) else x

/-- `VFMIN` and, with `mx`, `VFMAX` of one lane (R141). -/
def minLane (f : Fmt) (mode : SubMode) (mx : Bool) (a b : Nat) : Lane :=
  let fl := inFlags f mode [a, b]
  if inTrap f mode [a, b] then { bits := 0, flags := 0, trap := true }
  else
    match f.val mode a, f.val mode b with
    | .nan n _, .nan _ _ => laneOf (f.quiet n) fl
    | .nan _ _, _ => laneOf (asRead f mode b) fl
    | _, .nan _ _ => laneOf (asRead f mode a) fl
    | x, y =>
      let aFirst := if mx then !lessFV true x y else !lessFV true y x
      laneOf (asRead f mode (if aFirst then a else b)) fl

/-- `VFCMP` of one lane (R141). -/
def fcmpLane (f : Fmt) (mode : SubMode) (cond : Nat) (a b : Nat) : Lane :=
  let fl := inFlags f mode [a, b]
  if inTrap f mode [a, b] then { bits := 0, flags := 0, trap := true }
  else
    let x := f.val mode a
    let y := f.val mode b
    let un := (firstNan f mode [a, b]).isSome
    let eq := !un && !lessFV false x y && !lessFV false y x
    let lt := !un && lessFV false x y
    let t := match cond with
      | 0 => eq
      | 1 => !eq
      | 2 => lt
      | 3 => lt || eq
      | _ => un
    let nv := if un && (cond == 2 || cond == 3) then fNV else 0
    laneOf (if t then 2 ^ f.width - 1 else 0) (fl ||| nv)

/-! ### Conversions (R142) -/

/-- A float of format `f` to format `g`. -/
def cvtLane (f g : Fmt) (rm : Nat) (mode : SubMode) (a : Nat) : Lane :=
  let fl := inFlags f mode [a]
  if inTrap f mode [a] then { bits := 0, flags := 0, trap := true }
  else
    match f.val mode a with
    | .nan _ _ => laneOf g.qnan fl
    | .inf s => laneOf (g.inf s) fl
    | .fin s m e => if m = 0 then laneOf (g.zero s) fl else (g.round rm mode s m e).add fl

/-- A signed integer of `w` bits to format `g`. -/
def fromInt (g : Fmt) (w rm : Nat) (mode : SubMode) (a : Nat) : Lane :=
  let v := sint w a
  if v = 0 then laneOf 0 0 else g.round rm mode (decide (v < 0)) v.natAbs 0

/-- A float to a signed integer of `w` bits, saturating with NV (R142). -/
def toIntLane (f : Fmt) (w rm : Nat) (mode : SubMode) (a : Nat) : Lane :=
  let fl := inFlags f mode [a]
  if inTrap f mode [a] then { bits := 0, flags := 0, trap := true }
  else
    let sat (neg : Bool) : Lane := laneOf (if neg then 2 ^ (w - 1) else 2 ^ (w - 1) - 1) (fl ||| fNV)
    match f.val mode a with
    | .nan _ _ => laneOf 0 (fl ||| fNV)
    | .inf s => sat s
    | .fin s m e =>
      let r := roundTo rm s m e 0
      if s then (if 2 ^ (w - 1) < r.1 then sat true else laneOf ((2 ^ w - r.1) % 2 ^ w) (fl ||| (if r.2 then fIX else 0)))
      else if 2 ^ (w - 1) ≤ r.1 then sat false
      else laneOf r.1 (fl ||| (if r.2 then fIX else 0))

/-! ### Estimates (R149) -/

/-- The integer square root of `n`, by bits from bit `k` down. -/
def isqrtGo (n : Nat) : Nat → Nat → Nat
  | 0, r => if (r + 1) * (r + 1) ≤ n then r + 1 else r
  | k + 1, r =>
    let t := r + 2 ^ (k + 1)
    isqrtGo n k (if t * t ≤ n then t else r)

/-- The integer square root. -/
def isqrt (n : Nat) : Nat := isqrtGo n (bitLen n / 2) 0

/-- `r * 2^e`, with `r` at least 12 bits long, cut to 12 significant bits and then truncated into the format. -/
def estPack (f : Fmt) (sg : Bool) (r : Nat) (e : Int) : Nat :=
  let cut := bitLen r - 12
  let t := r / 2 ^ cut
  let e12 : Int := e + cut
  let top : Int := e12 + 11
  if (f.bias : Int) < top then f.inf sg
  else if top < f.emin then f.pack sg (roundTo 1 false t e12 (f.emin - f.mb)).1 (f.emin - f.mb)
  else f.pack sg (t * 2 ^ (f.mb - 11)) (top - f.mb)

/-- `VFCVT.RCP` of one lane. -/
def rcpLane (f : Fmt) (a : Nat) : Lane :=
  let fl := inFlags f .full [a]
  match f.val .full a with
  | .nan n _ => laneOf (f.quiet n) fl
  | .inf s => laneOf (f.zero s) fl
  | .fin s m e =>
    if m = 0 then laneOf (f.inf s) fl
    else
      let k := bitLen m + 13
      laneOf (estPack f s (2 ^ k / m) (-(k : Int) - e)) fl

/-- `VFCVT.RSQ` of one lane; a negative nonzero number is invalid (R140). -/
def rsqLane (f : Fmt) (a : Nat) : Lane :=
  let fl := inFlags f .full [a]
  match f.val .full a with
  | .nan n _ => laneOf (f.quiet n) fl
  | .inf s => if s then laneOf f.qnan (fl ||| fNV) else laneOf (f.zero false) fl
  | .fin s m e =>
    if m = 0 then laneOf (f.inf s) fl
    else if s then laneOf f.qnan (fl ||| fNV)
    else
      let m2 := if e % 2 = 0 then m else 2 * m
      let e2 := if e % 2 = 0 then e else e - 1
      let k := bitLen m2 + 15
      laneOf (estPack f false (isqrt (2 ^ (2 * k) / m2)) (-(k : Int) - e2 / 2)) fl

/-! ### Whole words -/

/-- Lane `k` of width `w`. -/
def laneGet (w k : Nat) (x : W128) : Nat := x.toNat / 2 ^ (w * k) % 2 ^ w

/-- A word from the results of its lanes of width `w`: its bits, its flags and its lowest trapping lane. -/
def joinLanes (w : Nat) (ls : List Lane) : W128 × Nat × Option Nat :=
  (BitVec.ofNat 128 ((ls.zipIdx.map fun (l, k) => l.bits * 2 ^ (w * k)).sum),
   ls.foldl (fun acc l => acc ||| l.flags) 0,
   ((ls.zipIdx.filter fun (l, _) => l.trap).map (·.2)).head?)

/-- A two-input lane function over a word. -/
def lanes2 (dbl : Bool) (fn : Fmt → Nat → Nat → Lane) (a b : W128) : W128 × Nat × Option Nat :=
  let f := if dbl then fmtD else fmtS
  joinLanes f.width ((List.range (128 / f.width)).map fun k => fn f (laneGet f.width k a) (laneGet f.width k b))

/-- The FP result of an operation on words: bits, flags and the lowest trapping lane (R138). -/
def fpWord (op : VOp) (rm : Nat) (mode : SubMode) (a b c : W128) : W128 × Nat × Option Nat :=
  match op with
  | .fadd z => lanes2 z (fun f x y => addLane f rm mode false x y) a b
  | .fsub z => lanes2 z (fun f x y => addLane f rm mode true x y) a b
  | .fmul z => lanes2 z (fun f x y => mulLane f rm mode x y) a b
  | .fma z np nc =>
    let f := if z then fmtD else fmtS
    joinLanes f.width ((List.range (128 / f.width)).map fun k =>
      fmaLane f rm np nc (laneGet f.width k a) (laneGet f.width k b) (laneGet f.width k c))
  | .fmin z => lanes2 z (fun f x y => minLane f mode false x y) a b
  | .fmax z => lanes2 z (fun f x y => minLane f mode true x y) a b
  | .fcmp z cond => lanes2 z (fun f x y => fcmpLane f mode cond x y) a b
  | .fcvt cv =>
    match cv with
    | 0 => joinLanes 64 ((List.range 2).map fun k => cvtLane fmtS fmtD rm mode (laneGet 32 k a))
    | 1 => joinLanes 32 ((List.range 2).map fun k => cvtLane fmtD fmtS rm mode (laneGet 64 k a))
    | 2 => joinLanes 64 ((List.range 2).map fun k => fromInt fmtD 64 rm mode (laneGet 64 k a))
    | 3 => joinLanes 64 ((List.range 2).map fun k => toIntLane fmtD 64 rm mode (laneGet 64 k a))
    | 4 => joinLanes 32 ((List.range 4).map fun k => fromInt fmtS 32 rm mode (laneGet 32 k a))
    | 5 => joinLanes 32 ((List.range 4).map fun k => toIntLane fmtS 32 rm mode (laneGet 32 k a))
    | 6 => joinLanes 32 ((List.range 4).map fun k => rcpLane fmtS (laneGet 32 k a))
    | 7 => joinLanes 64 ((List.range 2).map fun k => rcpLane fmtD (laneGet 64 k a))
    | 8 => joinLanes 32 ((List.range 4).map fun k => rsqLane fmtS (laneGet 32 k a))
    | _ => joinLanes 64 ((List.range 2).map fun k => rsqLane fmtD (laneGet 64 k a))
  | _ => (0, 0, none)

end Sys2Proof.Machine
end

