-- ==== Sys2Proof/Machine/VecGroup.lean ====
section
/-!
DEFINITION. Chain groups: descriptors and footprints (R52-R57, R72), the issue checks (R56-R59, R76, R78, R112), the execution of a group
element by element (R68, R69, R74, R75, R79, R80, R103, R106-R118), its flags and its traps.
-/

namespace Sys2Proof.Machine

/-! ### Descriptors (Table 3.2) -/

/-- SPACE. -/
def dSpace (x : W128) : Bool := bit x 124
/-- IXS. -/
def dIxs (x : W128) : Nat := fld x 123 120
/-- ICNT. -/
def dIcnt (x : W128) : Nat := fld x 119 104
/-- OSTR, in bytes. -/
def dOstr (x : W128) : Int := sint 32 (fld x 103 72) * 16
/-- ISTR, in bytes. -/
def dIstr (x : W128) : Int := sint 24 (fld x 71 48) * 16
/-- BASE. -/
def dBase (x : W128) : Nat := fld x 37 0

/-- The field rules of R56 for one descriptor with element size `e` (R53). -/
def descWf (x : W128) (e : Nat) : Bool :=
  let m := dMode x
  decide (1 ≤ m ∧ m ≤ 4) && fld x 47 38 == 0 && dBase x % 16 == 0 &&
  (m == 4 || dIxs x == 0) && (m == 3 || (dIcnt x == 0 && fld x 103 72 == 0)) && (m == 2 || m == 3 || fld x 71 48 == 0) &&
  (e == 16 || (dBase x % 32 == 0 && dIstr x % 32 == 0 && dOstr x % 32 == 0))

/-- Partition-relative byte address of element `i`, with `ix` the index of an indexed descriptor (R54). -/
def elemAddr (x : W128) (e i ix : Nat) : Int :=
  match dMode x with
  | 1 => (dBase x + i * e : Nat)
  | 2 => dBase x + i * dIstr x
  | 3 => dBase x + (i % (dIcnt x + 1) : Nat) * dIstr x + (i / (dIcnt x + 1) : Nat) * dOstr x
  | _ => (dBase x + ix * e : Nat)

/-- A footprint (R72): the whole of a space, or the words (address over 16) of elements in their order. -/
structure Foot where
  space : Bool
  whole : Bool
  words : List Int
deriving DecidableEq, Repr

/-- Footprint of `n` elements of size `e`. -/
def footOf (x : W128) (e n : Nat) : Foot :=
  if dMode x = 4 then { space := dSpace x, whole := true, words := [] }
  else
    { space := dSpace x, whole := false
      words := (List.range n).flatMap fun i =>
        let a := elemAddr x e i 0 / 16
        if e = 32 then [a, a + 1] else [a] }

/-- Two footprints share a word. -/
def footsMeet (x y : Foot) : Bool :=
  x.space == y.space && ((x.whole && (y.whole || !y.words.isEmpty)) || (y.whole && !x.words.isEmpty) || x.words.any fun w => y.words.contains w)

/-! ### What an instruction touches -/

/-- How an operand position is read. -/
inductive Role where
  | elem
  | packed
  | ctl
deriving DecidableEq, Repr

/-- Roles of A, B and C. -/
def VOp.roles : VOp → Role × Role × Role
  | .perm _ => (.elem, .ctl, .elem)
  | .bgath _ => (.elem, .elem, .ctl)
  | .cmpr => (.elem, .packed, .elem)
  | .expd => (.elem, .packed, .elem)
  | .chg .. => (.elem, .elem, .packed)
  | .addsub .. => (.elem, .elem, .packed)
  | .sel => (.elem, .elem, .packed)
  | _ => (.elem, .elem, .elem)

/-- Element size (R53). -/
def VIns.size (i : VIns) : Nat := if i.pair then 32 else 16

/-- Descriptor captured for a stream register (R61). -/
def QInstr.dsc (q : QInstr) (r : Nat) : W128 := if h : r < 12 then q.desc[r] else 0

/-- Words of one control element (R101, R102). -/
def ctlWords : VOp → Nat
  | .perm _ => 7
  | _ => 8

/-- Control elements of an instruction's control stream: 1, W or VL (R103). -/
def ctlCount (q : QInstr) (i : VIns) : Nat :=
  match i.op with
  | .perm true | .bgath true => 1
  | _ => if i.a < 12 ∧ dMode (q.dsc i.a) = 3 then dIcnt (q.dsc i.a) + 1 else q.vl

/-- Control element that data element `e` uses (R103). -/
def ctlIndex (q : QInstr) (i : VIns) (e : Nat) : Nat :=
  match i.op with
  | .perm true | .bgath true => 0
  | _ => if i.a < 12 ∧ dMode (q.dsc i.a) = 3 then e % (dIcnt (q.dsc i.a) + 1) else e

/-- Words of a packed stream for VL elements. -/
def packWords (vl : Nat) : Nat := cdiv vl 128

/-- What one instruction touches: whether its descriptors pass R56, R69, R94, R110, R126-R129, its read and write footprints, and
the words its staged results need (R76). -/
structure Touch where
  ok : Bool
  reads : List Foot
  writes : List Foot
  words : Nat
deriving DecidableEq, Repr

/-- One element operand in register `r`; `ixOk` where an indexed descriptor is accepted. -/
def touchElem (q : QInstr) (i : VIns) (r : Nat) (ixOk : Bool) : Bool × Foot × List Foot :=
  let x := q.dsc r
  let f := footOf x i.size q.vl
  if dMode x = 4 then
    let ir := dIxs x
    let y := q.dsc ir
    (descWf x i.size && ixOk && decide (ir < 12) && ir != r && (dMode y == 1 || dMode y == 2) && descWf y 16, f,
      [footOf y 16 (cdiv q.vl 4)])
  else (descWf x i.size, f, [])

/-- A linear stream of `n` words in register `r`. -/
def touchLinear (q : QInstr) (r n : Nat) : Bool × Foot :=
  (dMode (q.dsc r) == 1 && descWf (q.dsc r) 16, footOf (q.dsc r) 16 n)

/-- One used input field. -/
def touchIn (q : QInstr) (i : VIns) (u : Use) (role : Role) (x : Nat) (ixOk : Bool) : Bool × List Foot :=
  if u = .none ∨ 12 ≤ x then (true, [])
  else
    match role with
    | .elem => let t := touchElem q i x ixOk; (t.1, t.2.1 :: t.2.2)
    | .packed => let t := touchLinear q x (packWords q.vl); (t.1, [t.2])
    | .ctl => let t := touchLinear q x (ctlCount q i * ctlWords i.op); (t.1, [t.2])

/-- What an instruction touches. -/
def touchOf (q : QInstr) (i : VIns) : Touch :=
  let u := i.op.uses
  let r := i.op.roles
  let a := touchIn q i u.2.1 r.1 i.a (i.op == .gath)
  let b := touchIn q i u.2.2.1 r.2.1 i.b false
  let c := touchIn q i u.2.2.2 r.2.2 i.c false
  let isPackedD : Bool := match i.op with | .cmp true _ => true | _ => false
  let d : Bool × List Foot × List Foot × Nat :=
    if u.1 = .none ∨ 12 ≤ i.d ∨ isPackedD then (true, [], [], 0)
    else let t := touchElem q i i.d (i.op == .scat); (t.1, t.2.2, [t.2.1], q.vl * (i.size / 16))
  let p : Bool × List Foot × Nat := match i.packedOut with
    | none => (true, [], 0)
    | some x => let t := touchLinear q x (packWords q.vl); (t.1, [t.2], packWords q.vl)
  { ok := a.1 && b.1 && c.1 && d.1 && p.1, reads := a.2 ++ b.2 ++ c.2 ++ d.2.1, writes := d.2.2.1 ++ p.2.1, words := d.2.2.2 + p.2.2 }

/-- The decoded instructions of a group with what each captured. -/
def groupIns (g : Group) : List (QInstr × VIns) := g.ins.filterMap fun q => (vdecode q.enc).map fun i => (q, i)

/-- What a group touches, the gate of R69 included. -/
def groupTouch (g : Group) : Touch :=
  let l := groupIns g
  let ts := l.map fun x => touchOf x.1 x.2
  let gate : Bool × List Foot := match l.head? with
    | some (q, i) => if i.g then (let t := touchLinear q 11 (packWords q.vl); (t.1, [t.2])) else (true, [])
    | none => (true, [])
  { ok := ts.all (·.ok) && gate.1, reads := (ts.flatMap (·.reads)) ++ gate.2, writes := ts.flatMap (·.writes), words := (ts.map (·.words)).sum }

/-! ### State buffers -/

/-- The partition's current next state buffer: its index (R43). A partition with TWIN_MODE 1 keeps its ring in every TWIN_STATE (R397). -/
def nextBuf (s : State) (p : PartId) : Nat :=
  let q := s.parts[p]
  if q.cfg.twinMode then (q.curBuf + 1) % 3 else (q.curBuf + 1) % 2

/-- Offset of STATE_AREA. -/
def stateArea (im : Image) : Nat := ((im.sections.find? fun x => x.kind == 4).map (·.offset)).getD 0

/-- Start of state buffer `m`. -/
def bufBase (im : Image) (m : Nat) : Nat := stateArea im + m * im.hdr.stateBytes

/-- Bytes of a state element (R41). -/
def elemBytes (im : Image) : Nat := if im.hdr.fourState then 32 else 16

/-- Words of one commit-bitmap region (R43, R47). -/
def bmpWords (im : Image) : Nat := cdiv (im.hdr.stateBytes / elemBytes im) 128

/-- Offset of the commit-bitmap region of design cycle `k`: with TWIN_MODE 1 the two regions alternate (R401). -/
def bmpOff (s : State) (p : PartId) (im : Image) (k : Nat) : Nat :=
  im.hdr.cbmpOff + if s.parts[p].cfg.twinMode then k % 2 * (16 * bmpWords im) else 0

/-- Offset of the region that the design cycle in progress marks. -/
def markOff (s : State) (p : PartId) (im : Image) : Nat :=
  bmpOff s p im (match s.parts[p].run with | some r => r.cycle | none => 0)

/-- R112: the location of a `VCHG` with CMT. -/
def cmtOk (s : State) (p : PartId) (q : QInstr) (i : VIns) : Bool :=
  match i.op with
  | .chg np _ true _ =>
    let loc := if np then i.b else i.d
    match s.parts[p].image with
    | none => false
    | some im =>
      let f := footOf (q.dsc loc) i.size q.vl
      let base := bufBase im (nextBuf s p)
      decide (loc < 12) && !f.whole && !f.space && i.pair == im.hdr.fourState && im.hdr.gated &&
        f.words.all fun w => decide ((base : Int) ≤ w * 16 ∧ w * 16 + 16 ≤ base + im.hdr.stateBytes)
  | _ => true

/-! ### Issue checks (R78) -/

/-- A vector fault as its record reports it (Tables 3.7, 5.4). -/
structure VFault where
  cause : Nat
  elem : Nat
  addr : W64
  pos : Nat
  lane : Nat
  ops : W128 × W128 × W128
  drain : Bool
deriving DecidableEq, Repr

/-- A fault with no operands to report. -/
def vfault (cause elem : Nat) (addr : W64) (pos : Nat) : VFault :=
  { cause := cause, elem := elem, addr := addr, pos := pos, lane := 0, ops := (0, 0, 0), drain := false }

/-- VF_ADDR: SPACE in bit 38 over the low 38 bits of the address. -/
def vfAddrOf (space : Bool) (a : Int) : W64 := at' 64 38 space.toNat ||| BitVec.ofNat 64 (a % 2 ^ 38).toNat

/-- The first word of the footprints outside the partition's bounds (R57). -/
def outOfBounds (s : State) (p : PartId) (fs : List Foot) : Option W64 :=
  (fs.findSome? fun f =>
    (f.words.find? fun w => w < 0 || decide (partLimit s p f.space < (w * 16 + 16).toNat)).map fun w => vfAddrOf f.space (w * 16))

/-- The issue checks of a group: the fault it takes, or whether it runs staged (R73, R77, R78); VF_ADDR is 0 but for a bounds fault (log 111). -/
def issueCheck (s : State) (n : VeId) (p : PartId) (g : Group) : VFault ⊕ Bool :=
  let l := groupIns g
  let t := groupTouch g
  if !t.ok || !(l.all fun x => cmtOk s p x.1 x.2) then .inl (vfault 1 0 0 0)
  else if l.any fun x => x.2.pair && decide (32768 < x.1.vl) then .inl (vfault 2 0 0 0)
  else
    match outOfBounds s p (t.reads ++ t.writes) with
    | some a => .inl (vfault 4 0 a 0)
    | none =>
      let staged := (t.writes.any fun w => t.reads.any fun r => footsMeet w r) ||
        (!isRn n && l.any fun x => x.2.op.pipe == .fp && x.1.fpsub == 1)
      if staged && decide (4096 < t.words) then .inl (vfault 3 0 0 0) else .inr staged

/-! ### Running a group -/

/-- A result word on its way to memory: the element it is reported at (R79), the last element it describes, where it goes, its value, the
position of its instruction and the VF_ADDR of a fault on it. -/
structure VWord where
  elem : Nat
  last : Nat
  space : Bool
  addr : Nat
  val : W128
  pos : Nat
  fa : W64

/-- An operand's words, and whether one of them is undefined because the sequencer stored to it (R63). -/
structure VVal where
  ws : List W128
  und : Bool

/-- No words. -/
def VVal.none : VVal := { ws := [], und := false }

/-- Where a running group stands. -/
structure VRun where
  s : State
  fault : Option VFault
  /-- An access waits, at a bank in handover or an arbiter: the group waits, with the unit, space and address of the access. -/
  held : Option (Nat × Bool × Nat)
  staged : Bool
  /-- Result words of the strip in progress, and staged ones of finished strips. -/
  pend : List VWord
  stage : List VWord
  flags : Nat
  /-- Lowest element and position that qualify for the arithmetic trap, and VF_ADDR (R136). -/
  trap : Option (Nat × Nat × W64)
  /-- Elements selected so far by a `VCMPR` or `VEXPD`; ones written by a `VCHG`. -/
  count : Nat
  /-- The packed output word in progress. -/
  out : Nat
  /-- Packed input words of the current 128 elements, by register, and whether each is undefined. -/
  packs : List (Nat × W128 × Bool)
  /-- Index words read, by register and word number, and whether each is undefined. -/
  index : List (Nat × Nat × W128 × Bool)
  /-- Control elements held in the control buffer (R104). -/
  ctl : List (Nat × VVal)
  /-- Changed elements of the strip in progress with their commit-bitmap bits, and those of finished strips when staged (R112). -/
  marks : List (Nat × Nat)
  markStrips : List (List (Nat × Nat))
  -- element in progress
  hal : List (Nat × VVal)
  got : List (Nat × VVal)
  /-- Positions of `VCMPR` and `VEXPD` that have met an undefined mask word: what their later elements read or where they land is undefined. -/
  adrift : List Nat

/-- The run is still going. -/
def VRun.live (r : VRun) : Bool := r.fault.isNone && r.held.isNone

/-- The run stops with a fault. -/
def VRun.fail (r : VRun) (f : VFault) : VRun := if r.live then { r with fault := some f } else r

/-- Words that the group's instructions use and the sequencer has stored to (R63). -/
def tainted (g : Group) (space : Bool) (a : Nat) : Bool := g.taint.contains (space.toNat * 2 ^ 34 + a / 16)

/-- The stream units of the operand positions A, B, C and D (Table 9.1). -/
def unitA : Nat := 0
def unitB : Nat := 1
def unitC : Nat := 2
def unitD : Nat := 3

/-- `k` words at ascending addresses read by unit `u` of VE `n`: the words, whether one is undefined, and the first bad status. -/
def vwords (n : VeId) (p : PartId) (g : Group) (u : Nat) (space : Bool) : Nat → Nat → State → VVal × Nat × State
  | _, 0, s => (.none, 0, s)
  | a, k + 1, s =>
    let x := readPart s p (.engine n u) (veCode s n) space a
    let d : (W128 × Bool) × State := if tainted g space a then (((drawWord x.s).1, true), (drawWord x.s).2) else ((x.data, false), x.s)
    let y := vwords n p g u space (a + 16) k d.2
    ({ ws := d.1.1 :: y.1.ws, und := d.1.2 || y.1.und }, if x.status ≠ 0 then x.status else y.2.1, y.2.2)

/-- The words of one element or of one control element, read as one transaction (R108): all are read, and the first bad status is a fault at
element `i`, reported with address `fa`. -/
def vreads (n : VeId) (p : PartId) (g : Group) (u : Nat) (space : Bool) (a i pos : Nat) (fa : W64) (k : Nat) (r : VRun) : VVal × VRun :=
  if !r.live then ({ ws := List.replicate k 0, und := false }, r)
  else
    let x := vwords n p g u space a k r.s
    if x.2.1 = 9 then (x.1, { r with held := some (u, space, a) })
    else if x.2.1 ≠ 0 then (x.1, { r with s := x.2.2, fault := some (vfault x.2.1 i fa pos) })
    else (x.1, { r with s := x.2.2 })

/-- One word read by a stream unit, with whether it is undefined. -/
def vread (n : VeId) (p : PartId) (g : Group) (u : Nat) (space : Bool) (a i pos : Nat) (fa : W64) (r : VRun) : (W128 × Bool) × VRun :=
  let x := vreads n p g u space a i pos fa 1 r
  ((nth x.1.ws 0 0, x.1.und), x.2)

/-- The VE's own data cache is kept current with its write streams (R179). -/
def vecCache (s : State) (n : VeId) (space : Bool) (a : Nat) (v : W128) : State :=
  modSeq s n fun k =>
    { k with dcache := k.dcache.map fun l =>
        if l.line = (space.toNat * 2 ^ 38 + a) / 64 then { l with words := updL l.words (a / 16 % 4) fun _ => v } else l }

/-- A word stored to memory by the write stream of VE `n`: the state and the status. -/
def vstore (n : VeId) (p : PartId) (space : Bool) (a : Nat) (v : W128) (s : State) : Nat × State :=
  let x := veWrite s n unitD p space a v allBytes
  if x.status ≠ 0 then (x.status, x.s)
  else if !space && inDmem s.parts[p] a && s.parts[p].run.isSome then (0, x.s)
  else (0, vecCache x.s n space a v)

/-- A result word leaves the group for memory, which its strip's commit or the drain writes (R74, R75); a word that the sequencer stored to
is left undefined (R63). -/
def vwrite (g : Group) (space : Bool) (a i last pos : Nat) (fa : W64) (v : W128) (r : VRun) : VRun :=
  if !r.live then r
  else
    let d := if tainted g space a then drawWord r.s else (v, r.s)
    { r with s := d.2, pend := r.pend ++ [{ elem := i, last := last, space := space, addr := a, val := d.1, pos := pos, fa := fa }] }

/-- A result element word by word. -/
def vwrites (g : Group) (space : Bool) (a i pos : Nat) (fa : W64) : List W128 → VRun → VRun
  | [], r => r
  | v :: vs, r => vwrites g space (a + 16) i pos fa vs (vwrite g space a i i pos fa v r)

/-- Index of element `i` in index register `ir` (R54, R55), with whether it is undefined; each index word is read once. -/
def vindex (n : VeId) (p : PartId) (g : Group) (u : Nat) (q : QInstr) (ir i pos : Nat) (r : VRun) : (Nat × Bool) × VRun :=
  let w := i / 4
  let lane (x : W128) : Nat := fld x (32 * (i % 4) + 31) (32 * (i % 4))
  match r.index.find? fun x => x.1 == ir && x.2.1 == w with
  | some x => ((lane x.2.2.1, x.2.2.2), r)
  | none =>
    let y := q.dsc ir
    let a := (elemAddr y 16 w 0).toNat
    let x := vread n p g u (dSpace y) a i pos (vfAddrOf (dSpace y) a) r
    ((lane x.1.1, x.1.2), { x.2 with index := [(ir, w, x.1)] ++ x.2.index.filter fun z => z.1 != ir })

/-- Address of element `e` of stream register `x`, which element `i` of the group needs, with the bounds check of R57 where it is indexed. With an
undefined index no access is made, for a read or a write: it causes no fault and no change of state elsewhere (R10). -/
def vaddr (n : VeId) (p : PartId) (g : Group) (u : Nat) (q : QInstr) (ins : VIns) (x e i pos : Nat) (r : VRun) : Option Nat × VRun :=
  let d := q.dsc x
  if dMode d = 4 then
    let y := vindex n p g u q (dIxs d) e pos r
    let a := elemAddr d ins.size e y.1.1
    let out := decide (partLimit y.2.s p (dSpace d) < (a + ins.size).toNat)
    if y.1.2 then (none, y.2)
    else if y.2.live && out then (none, y.2.fail (vfault 4 i (vfAddrOf (dSpace d) a) pos))
    else (some a.toNat, y.2)
  else (some (elemAddr d ins.size e 0).toNat, r)

/-- Operand field `x` of an instruction for element `e`: a halyard, or a stream element fetched once per element (R68, R92). -/
def voperand (n : VeId) (p : PartId) (g : Group) (u : Nat) (q : QInstr) (ins : VIns) (x e i pos : Nat) (r : VRun) : VVal × VRun :=
  if 12 ≤ x then (((r.hal.find? fun y => y.1 == x).map (·.2)).getD .none, r)
  else
    match r.got.find? fun y => y.1 == x with
    | some y => (y.2, r)
    | none =>
      let a := vaddr n p g u q ins x e i pos r
      let d := q.dsc x
      let v := match a.1 with
        | some ad => vreads n p g u (dSpace d) ad i pos (vfAddrOf (dSpace d) ad) (ins.size / 16) a.2
        | none => ({ ws := List.replicate (ins.size / 16) 0, und := true }, a.2)
      (v.1, { v.2 with got := (x, v.1) :: v.2.got })

/-- The control element that element `i` needs, from the control buffer where R104 holds it. -/
def vcontrol (n : VeId) (p : PartId) (g : Group) (u : Nat) (q : QInstr) (ins : VIns) (x i pos : Nat) (r : VRun) : VVal × VRun :=
  let c := ctlIndex q ins i
  let cw := ctlWords ins.op
  match r.ctl.find? fun y => y.1 == c with
  | some y => (y.2, r)
  | none =>
    let d := q.dsc x
    let a := dBase d + c * cw * 16
    let v := vreads n p g u (dSpace d) a i pos (vfAddrOf (dSpace d) a) cw r
    (v.1, if ctlCount q ins * cw ≤ 4096 then { v.2 with ctl := (c, v.1) :: v.2.ctl } else v.2)

/-- Bit of element `i` in the packed input of register `x`. -/
def packBit (r : VRun) (x i : Nat) : Bool :=
  match r.packs.find? fun y => y.1 == x with
  | some y => bit y.2.1 (i % 128)
  | none => false

/-- The packed input of register `x` is undefined for the current elements. -/
def packUnd (r : VRun) (x : Nat) : Bool := r.packs.any fun y => y.1 == x && y.2.2

/-- What an element function yields: result words, flags (Table 5.3), signed overflow and division by zero, its packed bit, and the
lane that traps. -/
structure VRes where
  out : List W128
  flags : Nat
  sv : Bool
  zd : Bool
  pbit : Bool
  trap : Option Nat
deriving DecidableEq, Repr

/-- A result without flags. -/
def vres (out : List W128) : VRes := { out := out, flags := 0, sv := false, zd := false, pbit := false, trap := none }

/-- The element function of an operation: inputs A, B, C, control words, and the packed input bit. -/
def velem (rn : Bool) (q : QInstr) (op : VOp) (a b c ctl : List W128) (pin : Bool) : VRes :=
  let a0 := nth a 0 0
  let b0 := nth b 0 0
  let c0 := nth c 0 0
  match op with
  | .lut tt => vres [lutWord tt a0 b0 c0]
  | .qlut tt => vres (pairMap (qlutBit tt) a b c)
  | .res m => vres (pairMap (fun x y z => ofNet (resBit m (netOf x) (netOf y) (netOf z))) a b c)
  | .cmpr => vres a
  | .expd => vres a
  | .chg .. => { vres b with pbit := a != b }
  | .perm _ => vres (a.map (permWord ctl))
  | .bgath _ => vres ((List.range a.length).map fun k => bgathWord ctl (nth a k 0) (nth b k 0))
  | .gath => vres a
  | .scat => vres a
  | .addsub sub cy _ =>
    let t := addWord sub (if cy then pin else sub) a0 b0
    { vres [t.1] with flags := if t.2.2 then 0x80 else 0, sv := t.2.2, pbit := t.2.1 }
  | .cmp packed cond =>
    let t := cmpWord cond a0 b0
    { vres (if packed then [] else [if t then BitVec.allOnes 128 else 0]) with pbit := t }
  | .sel => vres [if pin then b0 else a0]
  | .shl => vres [a0 <<< shAmt b0]
  | .shr ar => vres [if ar then a0.sshiftRight (shAmt b0) else a0 >>> shAmt b0]
  | .rot right => vres [if right then a0.rotateRight (shAmt b0) else a0.rotateLeft (shAmt b0)]
  | .mulw sa sb ha hb => vres [mulwWord sa sb ha hb a0 b0]
  | .mull => vres [mullWord a0 b0]
  | .divInit sg => vres [divInitWord sg a0]
  | .divStep sg k => vres [divStepWord sg k a0 b0]
  | .divFix sg =>
    let t := divFixWord sg a0 b0
    { vres [t.1] with flags := (if t.2.1 then 0x80 else 0) ||| (if t.2.2 then 0x100 else 0), sv := t.2.1, zd := t.2.2 }
  | .fadd _ | .fsub _ | .fmul _ | .fma .. | .fmin _ | .fmax _ | .fcmp .. | .fcvt _ =>
    let mode : SubMode := if rn then .full else if q.fpsub = 1 then .trap else .flush
    let t := fpWord op (rmOf q.vctl) mode a0 b0 c0
    { vres [t.1] with flags := t.2.1, trap := t.2.2 }

/-- The arithmetic trap qualifies (R136). -/
def qualifies (q : QInstr) (x : VRes) : Bool := (x.sv && bit q.vctl 0) || (x.zd && bit q.vctl 1)

/-- VF_ADDR of a result: the D element's address, or 0 where D is a halyard (R136). -/
def dAddr (q : QInstr) (i : VIns) (e : Nat) : W64 :=
  if i.d < 12 ∧ dMode (q.dsc i.d) ≠ 4 then vfAddrOf (dSpace (q.dsc i.d)) (elemAddr (q.dsc i.d) i.size e 0) else 0

/-- An undefined result: free words and a free packed bit, and neither flags nor a trap (R10, R63). -/
def undRes (s : State) (x : VRes) : VRes × State :=
  let o := x.out.foldl (fun (y : List W128 × State) _ => (y.1 ++ [(drawWord y.2).1], (drawWord y.2).2)) ([], s)
  let b := drawNat o.2
  ({ vres o.1 with pbit := b.1 % 2 == 1 }, b.2)

/-- The result of an element that VF_SUBST replaces, without flags or trap (R146); the second word of a pair is given by no rule and is free
(log 87). -/
def substRes (s : State) (v : W128) (x : VRes) : VRes × State :=
  match x.out with
  | [] => ({ x with flags := 0, sv := false, zd := false, trap := none }, s)
  | [_] => ({ x with out := [v], flags := 0, sv := false, zd := false, trap := none }, s)
  | _ => ({ x with out := [v, (drawWord s).1], flags := 0, sv := false, zd := false, trap := none }, (drawWord s).2)

/-- The changed element with its commit-bitmap bit (R112). -/
def markOf (s : State) (p : PartId) (q : QInstr) (i : VIns) (e : Nat) : List (Nat × Nat) :=
  match i.op, s.parts[p].image with
  | .chg np _ true _, some im =>
    let loc := if np then i.b else i.d
    let a := (elemAddr (q.dsc loc) i.size e 0).toNat
    [(e, (a - bufBase im (nextBuf s p)) / (if im.hdr.fourState then 32 else 16))]
  | _, _ => []

/-- The operands of one instruction at element `i`, read where they are stream elements, with the control words of `VPERM` and `VBGATH` (R68, R103):
A, B, C, control. -/
def vinputs (n : VeId) (p : PartId) (g : Group) (i pos : Nat) (q : QInstr) (ins : VIns) (r : VRun) : (VVal × VVal × VVal × VVal) × VRun :=
  let us := ins.op.uses
  let ro := ins.op.roles
  let isExp := ins.op == .expd
  let get (w : Use) (rl : Role) (u x : Nat) (r : VRun) : VVal × VRun :=
    if w = .none ∨ rl ≠ .elem then (.none, r) else voperand n p g u q ins x (if isExp then r.count else i) i pos r
  let a := get us.2.1 ro.1 unitA ins.a { r with got := if isExp then [] else r.got }
  let b := get us.2.2.1 ro.2.1 unitB ins.b a.2
  let c := get us.2.2.2 ro.2.2 unitC ins.c b.2
  let k : VVal × VRun := match ins.op with
    | .perm _ => vcontrol n p g unitB q ins ins.b i pos c.2
    | .bgath _ => vcontrol n p g unitC q ins ins.c i pos c.2
    | _ => (.none, c.2)
  ((a.1, b.1, c.1, k.1), if isExp then { k.2 with got := r.got } else k.2)

/-- Operands of an element whose taking part is itself undefined: nothing is read (R10). -/
def noInputs (ins : VIns) : VVal × VVal × VVal × VVal :=
  let v : VVal := { ws := List.replicate (ins.size / 16) 0, und := true }
  (v, v, v, .none)

/-- Where the result of element `i` goes, if anywhere: the D element with its bounds and ownership checks (R57, R58). An element whose taking part is
undefined writes only where that has no other effect (R10, log 118): to a D element that no index names and that the VE may write. -/
def vdest (n : VeId) (p : PartId) (g : Group) (forced : Bool) (i pos : Nat) (q : QInstr) (ins : VIns) (r : VRun) : Option Nat × VRun :=
  let d := q.dsc ins.d
  let seqA (ad : Nat) : Nat := (dSpace d).toNat * 2 ^ 38 + ad
  let de := if ins.op == .cmpr then r.count else i
  if forced then
    let ad := (elemAddr d ins.size de 0).toNat
    (if dMode d ≠ 4 ∧ (List.range (ins.size / 16)).all (fun k => accCheck r.s (.ve n) .write (seqA (ad + 16 * k)) == 0) then some ad else none, r)
  else
    let t := vaddr n p g unitD q ins ins.d de i pos r
    match t.1 with
    | some ad =>
      let own := if ins.op == .scat && t.2.live then accCheck t.2.s (.ve n) .write (seqA ad) else 0
      (some ad, if own = 5 then t.2.fail (vfault 5 i (vfAddrOf (dSpace d) ad) pos) else t.2)
    | none => t

/-- The result of one instruction at element `i` from its operands: VF_SUBST in its place, free where an operand or the element itself is undefined
(R10, R63, R146). -/
def vresult (n : VeId) (i pos : Nat) (q : QInstr) (ins : VIns) (forced : Bool) (v : VVal × VVal × VVal × VVal) (r : VRun) : VRes × Bool × State :=
  let e := r.s.eng[n]
  let us := ins.op.uses
  let subst := e.substEn && e.substElem.toNat == i && fld e.substPos 1 0 == pos
  let hasPin := us.2.2.2 != .none && ins.op.roles.2.2 == .packed
  let pin := hasPin && packBit r ins.c i
  let y := velem (isRn n) q ins.op v.1.ws v.2.1.ws v.2.2.1.ws v.2.2.2.ws pin
  let und := forced || v.1.und || v.2.1.und || v.2.2.1.und || v.2.2.2.und || (hasPin && packUnd r ins.c)
  if subst then
    let z := substRes r.s e.vfSubst y
    (z.1, false, modEng z.2 n fun e => { e with substEn := false })
  else if und then
    let z := undRes r.s y
    (z.1, true, z.2)
  else (y, false, r.s)

/-- One instruction of the group at active element `i` (R68, R74); `forced` where an undefined gate bit has let the element take part (R10). -/
def vstep (n : VeId) (p : PartId) (g : Group) (i : Nat) (pos : Nat) (q : QInstr) (ins : VIns) (gateUnd : Bool) (rs : VRun) : VRun :=
  if !rs.live then rs
  else
    let masked := ins.op == .cmpr || ins.op == .expd
    let r0 : VRun := if masked && packUnd rs ins.b && !rs.adrift.contains pos then { rs with adrift := pos :: rs.adrift } else rs
    let forced := gateUnd || r0.adrift.contains pos
    let sel := !masked || packBit r0 ins.b i
    if ins.op == .expd && !sel then r0
    else
      let v := if forced then (noInputs ins, r0) else vinputs n p g i pos q ins r0
      let r := v.2
      if !r.live then r
      else
        let z := vresult n i pos q ins forced v.1 r
        let x := z.1
        match x.trap with
        | some lane =>
          r.fail { cause := 9, elem := i, addr := dAddr q ins i, pos := pos, lane := lane
                   ops := (nth v.1.1.ws 0 0, nth v.1.2.1.ws 0 0, nth v.1.2.2.1.ws 0 0), drain := false }
        | none =>
          let pb := match ins.op with
            | .chg _ acc _ _ => x.pbit || (acc && packBit r ins.c i)
            | _ => x.pbit
          let r2 : VRun :=
            { r with
              s := z.2.2
              flags := r.flags ||| x.flags
              trap := if r.trap.isNone && qualifies q x then some (i, pos, dAddr q ins i) else r.trap
              out := if ins.packedOut.isSome && pb then r.out + 2 ^ (i % 128) else r.out
              marks := if x.pbit && !z.2.1 then r.marks ++ markOf r.s p q ins i else r.marks }
          if ins.op.uses.1 = .none ∨ x.out.isEmpty then r2
          else if 12 ≤ ins.d then { r2 with hal := (ins.d, { ws := x.out, und := z.2.1 }) :: r2.hal }
          else if ins.op == .cmpr && !sel then r2
          else
            let d := q.dsc ins.d
            let t := vdest n p g forced i pos q ins r2
            let r4 := match t.1 with
              | none => t.2
              | some ad => vwrites g (dSpace d) ad i pos (vfAddrOf (dSpace d) ad) x.out t.2
            if r4.live && masked then { r4 with count := r4.count + 1 } else r4

/-- The instructions of the group in order at element `i`. -/
def vsteps (n : VeId) (p : PartId) (g : Group) (i : Nat) (gateUnd : Bool) : List (QInstr × VIns) → Nat → VRun → VRun
  | [], _, r => r
  | x :: xs, pos, r => vsteps n p g i gateUnd xs (pos + 1) (vstep n p g i pos x.1 x.2 gateUnd r)

/-- A skipped element of a gated group: only the prior bit of a `VCHG` with ACC enters a packed output (R117, R127, R128). -/
def vskip (i : Nat) (l : List (QInstr × VIns)) (r : VRun) : VRun :=
  if !r.live then r
  else
    l.foldl (fun r x =>
      match x.2.op with
      | .chg _ true _ _ => if packBit r x.2.c i then { r with out := r.out + 2 ^ (i % 128) } else r
      | _ => r) r

/-- The commit-bitmap ORs of one strip, one for each distinct word in the order of its lowest changed element, at which a bad word faults the
group (R112, R226), with the bitmap word's address and position 0 (log 111). -/
def orMarks (n : VeId) (p : PartId) (ms : List (Nat × Nat)) (r : VRun) : VRun :=
  ((ms.map (·.2 / 128)).eraseDups).foldl (fun r w =>
    if !r.live then r
    else
      match r.s.parts[p].image with
      | none => r
      | some im =>
        let a := markOff r.s p im + 16 * w
        let mine := ms.filter fun m => m.2 / 128 == w
        let i := ((mine.head?).map (·.1)).getD 0
        let v : W128 := mine.foldl (fun x m => setBit x (m.2 % 128) true) 0
        match partDev r.s p false a with
        | none => r.fail (vfault 4 i (vfAddrOf false a) 0)
        | some d =>
          let x := via r.s (.engine n unitD) d fun t => atomicWord t (n.val / 16) d (· ||| v)
          if x.status = 9 then { r with held := some (unitD, false, a) }
          else if x.status ≠ 0 then { r with s := x.s, fault := some (vfault x.status i (vfAddrOf false a) 0) }
          else { r with s := x.s }) r

/-- Result words written in their order, those only that describe elements below `limit`; the first that goes bad ends it: a wait, or its status
and itself (R74, R75). -/
def putWords (n : VeId) (p : PartId) (limit : Nat) : List VWord → State → Option (Nat × VWord) × State
  | [], s => (none, s)
  | w :: ws, s =>
    if limit ≤ w.last then putWords n p limit ws s
    else
      let x := vstore n p w.space w.addr w.val s
      if x.1 ≠ 0 then (some (x.1, w), x.2) else putWords n p limit ws x.2

/-- The commit of a strip in strip-commit form: its ORs, then its words in ascending element order, none at or above an element that has
faulted (R74, R80, R112); a strip that faults issues no OR (log 111). -/
def commitStrip (n : VeId) (p : PartId) (vl : Nat) (r0 : VRun) : VRun :=
  if r0.held.isSome then r0
  else
    let r := if r0.live then orMarks n p r0.marks r0 else r0
    let x := putWords n p (match r.fault with | some f => f.elem | none => vl) r.pend r.s
    let t : VRun := { r with s := x.2, pend := [], marks := [] }
    match x.1 with
    | none => t
    | some (9, w) => { t with held := some (unitD, w.space, w.addr) }
    | some (st, w) => { t with fault := some (vfault st w.elem w.fa w.pos) }

/-- The end of a strip: it commits, or joins the stage buffer (R74, R75). -/
def endStrip (n : VeId) (p : PartId) (vl : Nat) (r : VRun) : VRun :=
  if r.staged then { r with pend := [], stage := r.stage ++ r.pend, marks := [], markStrips := r.markStrips ++ [r.marks] }
  else commitStrip n p vl r

/-- Packed inputs of a group: the gate, and each packed operand with its position and stream unit (R79, R118); the gate, which has no operand position,
is read by unit A's stream (log 102). -/
def packedIns (l : List (QInstr × VIns)) : List (Nat × Nat × Nat) :=
  (match l.head? with
    | some (_, i) => if i.g then [(11, 0, unitA)] else []
    | none => []) ++
  (l.zipIdx.flatMap fun (x, pos) =>
    let u := x.2.op.uses
    let ro := x.2.op.roles
    (if ro.2.1 = .packed ∧ u.2.2.1 ≠ .none then [(x.2.b, pos, unitB)] else []) ++
    (if ro.2.2 = .packed ∧ u.2.2.2 ≠ .none then [(x.2.c, pos, unitC)] else []))

/-- The 128 elements that word `w` of a packed stream describes: its packed inputs, its elements, its packed output (R79). -/
def vblock (n : VeId) (p : PartId) (g : Group) (l : List (QInstr × VIns)) (q : QInstr) (gated : Bool) (w : Nat) (r0 : VRun) : VRun :=
  let r1 := (packedIns l).foldl (fun (r : VRun) (x : Nat × Nat × Nat) =>
    let d := q.dsc x.1
    let a := dBase d + 16 * w
    let v := vread n p g x.2.2 (dSpace d) a (128 * w) x.2.1 (vfAddrOf (dSpace d) a) r
    { v.2 with packs := (x.1, v.1) :: v.2.packs }) { r0 with packs := [], out := 0 }
  let hi := if 128 * w + 128 ≤ q.vl then 128 else q.vl - 128 * w
  let r2 := (List.range hi).foldl (fun (r : VRun) k =>
    let i := 128 * w + k
    if gated && !packBit r 11 i then vskip i l r
    else vsteps n p g i (gated && packUnd r 11) l 0 { r with hal := [], got := [] }) r1
  let r3 := l.zipIdx.foldl (fun (r : VRun) x =>
    match x.1.2.packedOut with
    | none => r
    | some reg =>
      let d := q.dsc reg
      let a := dBase d + 16 * w
      let r' := vwrite g (dSpace d) a (128 * w) (128 * w + hi - 1) x.2 (vfAddrOf (dSpace d) a) (BitVec.ofNat 128 r.out) r
      match x.1.2.op with
      | .chg .. => if r'.live then { r' with count := r'.count + (bitsSet (BitVec.ofNat 128 r.out) 128).length } else r'
      | _ => r') r2
  if !r3.live || w % 2 == 1 || w + 1 == packWords q.vl then endStrip n p q.vl r3 else r3

/-- The commit of a staged group: its ORs (R112), then the drain in ascending element order, where a bad status is a drain fault (R75). -/
def vdrain (n : VeId) (p : PartId) (vl : Nat) (r0 : VRun) : VRun :=
  let r := r0.markStrips.foldl (fun r ms => orMarks n p ms r) r0
  if !r.live then r
  else
    let x := putWords n p vl r.stage r.s
    match x.1 with
    | none => { r with s := x.2 }
    | some (9, w) => { r with s := x.2, held := some (unitD, w.space, w.addr) }
    | some (st, w) => { r with s := x.2, fault := some { (vfault st w.elem w.fa w.pos) with drain := true } }

/-- A group run whole from element 0 on state `s`. -/
def runGroup (s : State) (n : VeId) (p : PartId) (g : Group) : VRun :=
  let l := groupIns g
  let r0 : VRun := { s := s, fault := none, held := none, staged := g.staged, pend := [], stage := [], flags := 0, trap := none, count := 0, out := 0
                     packs := [], index := [], ctl := [], marks := [], markStrips := [], hal := [], got := [], adrift := [] }
  match l.head? with
  | none => r0
  | some (q, i) =>
    let r1 := (List.range (packWords q.vl)).foldl (fun r w => if r.live then vblock n p g l q i.g w r else r) r0
    if r1.live && r1.staged then vdrain n p q.vl r1 else r1

end Sys2Proof.Machine
end

