-- ==== Sys2Proof/Machine/VecIssue.lean ====
section
/-!
DEFINITION. Issue of vector instructions (R61, R62, R65-R67, R93, R183, R184), the start, completion and faults of chain groups
(R64, R79-R83, R113, R122, R136, R146), and the entry of a reported fault (R199).
-/

namespace Sys2Proof.Machine

/-! ### Issue -/

/-- What VE `n` captures when an instruction enters its queue (R61). -/
def capture (s : State) (n : VeId) (enc : W32) : QInstr :=
  let r := s.seq[n].r
  { enc := enc, vl := r.vl.toNat, desc := r.s, vctl := s.eng[n].vctl
    fpsub := (match execPart s n with | some p => s.parts[p].cfg.fpsub | none => 0), pc := r.pc }

/-- A vector instruction reaches decode at VE `n`: `enc` its word, `len` the bytes of the issuing instruction and `det` the encoding that an
illegal-instruction exception reports. A full queue stalls it (R62); a fault or interrupt that is due waits for an open group (R199). -/
def vissueOp (s : State) (n : VeId) (enc det : W32) (len : Nat) : State :=
  atFetch s (.ve n) (len == 4) fun s =>
    match vdecode enc with
    | none => illegal s (.ve n) 1 det
    | some i =>
      if !engineOk (isRn n) s.eng[n].vctl i.op then illegal s (.ve n) 1 det
      else if 32 ≤ queueFill s.eng[n] then s
      else
        let q := capture s n enc
        let ins := s.eng[n].openIns ++ [q]
        let dec := ins.filterMap fun q => vdecode q.enc
        if i.k then
          if 4 ≤ ins.length then illegal s (.ve n) 2 det
          else retire (modEng s n fun e => { e with openIns := ins }) (.ve n) (nextPc s (.ve n) len)
        else if !groupOk dec q.desc then illegal s (.ve n) 2 det
        else
          retire (modEng s n fun e =>
            { e with openIns := [], queue := e.queue ++ [{ ins := ins, started := false, staged := false, taint := [], hist := none }] })
            (.ve n) (nextPc s (.ve n) len)

/-! ### Start -/

/-- The pipes of a group. -/
def groupPipes (g : Group) : List Pipe := (groupIns g).map fun x => x.2.op.pipe

/-- R64: group `b` may begin while group `a` runs, `a` having issued all its reads; `a` occupies its pipes until it completes (log 111). -/
def mayOverlap (a b : Group) : Bool :=
  let ta := groupTouch a
  let tb := groupTouch b
  !((groupPipes b).any fun x => (groupPipes a).contains x) &&
  !(tb.writes.any fun w => (ta.reads ++ ta.writes).any fun x => footsMeet w x) &&
  !(tb.reads.any fun x => ta.writes.any fun w => footsMeet x w)

/-- The address of a group's first instruction (VF_PC). -/
def groupPc (g : Group) : Addr := ((g.ins.head?).map (·.pc)).getD 0

/-- The engine may run groups: its clock runs, it is not fenced and its queue is not stopped (R63, R81). -/
def engineRuns (s : State) (n : VeId) : Bool :=
  clockRuns s (clusterOfVe n) && s.eng[n].fenced == 0 && !s.eng[n].stopped

/-- Event of a vector fault (R81). -/
def vfEvent (s : State) (n : VeId) (cause elem : Nat) : State :=
  raiseN s (8 * n.val + (if cause = 9 then 2 else if cause = 10 then 3 else 1)) (at' 32 16 elem ||| BitVec.ofNat 32 cause)

/-- The fault record of Tables 3.7 and 5.4 for group `g`. -/
def vfRecord (s : State) (n : VeId) (g : Group) (f : VFault) (rep : Nat) : State :=
  modEng s n fun e =>
    { e with vfCause := BitVec.ofNat 8 f.cause, vfElem := BitVec.ofNat 16 f.elem, vfAddr := f.addr
             vfPc := (groupPc g).setWidth 64, vfRepeat := BitVec.ofNat 8 rep, vfTotal := satInc e.vfTotal, vfIssue := !g.started
             vfPos := at' 8 4 f.drain.toNat ||| at' 8 2 f.lane ||| BitVec.ofNat 8 f.pos
             vfOpa := if f.cause = 9 then f.ops.1 else e.vfOpa
             vfOpb := if f.cause = 9 then f.ops.2.1 else e.vfOpb
             vfOpc := if f.cause = 9 then f.ops.2.2 else e.vfOpc
             stopped := true }

/-- How often the group has now faulted in a row at this element with this cause (VF_REPEAT). -/
def faultRepeat (g : Group) (f : VFault) : Nat :=
  match g.hist with
  | some (c, e, k) => if c = f.cause ∧ e = f.elem then k + 1 else 1
  | none => 1

/-- A vector fault of the group at the queue's head: record, event, and the handler's entry due, or the third repeat that fails the job
segment without it (R81, R83, R147); the stream units are reset (R261), and a later group that had begun begins again. -/
def reportFault (s : State) (n : VeId) (p : PartId) (g : Group) (f : VFault) (sunk : Sunk) : State :=
  let rep := faultRepeat g f
  let s1 := sinkVe (withdraw (vfEvent (vfRecord s n g f rep) n f.cause f.elem) (veMasters n 4)) n 4 sunk
  let s2 := modEng s1 n fun e =>
    { e with queue := match e.queue with
               | [] => []
               | x :: xs => { x with hist := some (f.cause, f.elem, rep) } :: xs.map fun y => { y with started := false } }
  if 3 ≤ rep ∧ !f.drain ∧ (f.cause = 5 ∨ f.cause = 6 ∨ f.cause = 7 ∨ f.cause = 9) then
    failSegment s2 p (if f.cause = 9 then 0x0305 else 0x0303) (vecDetail n f.cause f.elem f.addr)
  else modEng s2 n fun e => { e with vfDue := true }

/-- The group at place `k` of the queue begins, staged or not; each beginning of a staged one counts in STAGED_TOTAL (log 111). -/
def beginGroup (s : State) (n : VeId) (k : Nat) (staged : Bool) : State :=
  modEng s n fun e =>
    { e with queue := updL e.queue k fun g => { g with started := true, staged := staged }
             stagedTotal := if staged then satInc e.stagedTotal else e.stagedTotal }

/-- The next group of the queue passes its issue checks and begins, or takes its issue fault (R65, R64, R78). -/
def groupStart (s : State) (n : VeId) (readsIssued : Bool) : State :=
  match execPart s n with
  | none => s
  | some p =>
    if !engineRuns s n then s
    else
      match s.eng[n].queue with
      | [] => s
      | g :: rest =>
        if !g.started then
          match issueCheck s n p g with
          | .inl f => reportFault s n p g f []
          | .inr st => beginGroup s n 0 st
        else
          match rest with
          | [] => s
          | h :: _ =>
            let det := match s.parts[p].run with | some r => r.det | none => false
            if h.started || !readsIssued || det || !mayOverlap g h then s
            else
              match issueCheck s n p h with
              | .inl _ => s
              | .inr st => beginGroup s n 1 st

/-! ### Completion -/

/-- The group holds an arithmetic instruction, so VFLAGS is set (R122). -/
def isArith (g : Group) : Bool := (groupIns g).any fun x => x.2.op.pipe == .int || x.2.op.pipe == .fp

/-- VCOUNT is set by the group (R113). -/
def setsVcount (g : Group) : Bool :=
  (groupIns g).any fun x => match x.2.op with | .chg .. | .cmpr | .expd => true | _ => false

/-- The head group completes with run `r`: flags, VCOUNT, an armed substitution disarmed, and the arithmetic trap reported (R113, R122, R136, R146). -/
def completeGroup (s : State) (n : VeId) (g : Group) (r : VRun) : State :=
  let fl : W16 := BitVec.ofNat 16 r.flags
  let s1 := modEng s n fun e =>
    { e with queue := e.queue.drop 1
             vflags := if isArith g then fl else e.vflags
             vflagsAcc := if isArith g then e.vflagsAcc ||| fl else e.vflagsAcc
             vcount := if setsVcount g then BitVec.ofNat 32 r.count else e.vcount
             substEn := false }
  match r.trap with
  | none => s1
  | some (i, pos, a) =>
    let s2 := vfEvent (vfRecord s1 n g (vfault 10 i a pos) 1) n 10 i
    modEng s2 n fun e => { e with vfDue := true, queue := e.queue.map fun y => { y with started := false } }

/-- The running group at the queue's head ends: it completes when no element faults (R62, R75, R84). A group that waits at a bank in handover is
timed there (R258). -/
def groupComplete (s : State) (n : VeId) : State :=
  match execPart s n, s.eng[n].queue with
  | some p, g :: _ =>
    if !engineRuns s n || !g.started then s
    else
      let r := runGroup s n p g
      if r.live then completeGroup r.s n g r
      else
        match r.held with
        | some (u, space, a) => noteWaitAt s p (.engine n u) space a
        | none => s
  | _, _ => s

/-- The running group meets its lowest faulting element (R79-R81). -/
def elementFault (s : State) (n : VeId) (sunk : Sunk) : State :=
  match execPart s n, s.eng[n].queue with
  | some p, g :: _ =>
    if !engineRuns s n || !g.started then s
    else
      let r := runGroup s n p g
      match r.fault with
      | some f => reportFault r.s n p g f sunk
      | none => s
  | _, _ => s

/-! ### Entry and return of a vector fault -/

/-- The reported fault is entered at the boundary, or in place of an open group that finds the queue full (R199). -/
def faultEntry (s : State) (n : VeId) : State :=
  let e := s.eng[n]
  if !canRun s (.ve n) || !e.vfDue || (!e.openIns.isEmpty && decide (queueFill e < 32)) then s
  else
    let saved := match e.openIns with
      | [] => s.seq[n].r.pc
      | q :: _ => q.pc
    let s1 := modEng s n fun e => { e with vfDue := false, openIns := [] }
    let s2 := modSeq s1 n fun k =>
      { k with openFaults := { frame := k.r.g[(7 : Fin 8)] - 32, cause := e.vfCause.toNat, elem := e.vfElem.toNat, addr := e.vfAddr
                               drain := bit e.vfPos 4, issue := e.vfIssue } :: k.openFaults }
    enter s2 (.ve n) 8 e.vfCause.toNat e.vfElem.toNat e.vfPc saved

/-- A vector fault that no handler repairs (R83). -/
def unfixable (o : OpenFault) : Bool := o.drain || o.cause ≤ 4 || o.cause == 8

/-- The cause of Table 3.9 for an open fault. -/
def openCause (o : OpenFault) : Nat := vecCause o.cause o.drain o.issue

/-- The frame of an open vector fault is popped by `RTI`: the queue runs again, or the job segment fails (R82, R83, R136). -/
def closeFault (s : State) (n : VeId) (o : OpenFault) : State :=
  let s1 := modSeq s n fun k => { k with openFaults := k.openFaults.filter (· ≠ o) }
  if unfixable o then
    match execPart s n with
    | some p => failSegment s1 p (openCause o) (vecDetail n o.cause o.elem o.addr)
    | none => s1
  else withdraw (modEng s1 n fun e => { e with stopped := false }) (veMasters n 4)

end Sys2Proof.Machine
end

