-- ==== Sys2Proof/Machine/Rigging.lean ====
section
/-!
DEFINITION. The rigging: exchange slots (R268-R274), their faults (R279), the partition barrier (R275, R276) and slot edits (R271, R281).
-/

namespace Sys2Proof.Machine

/-- An exchange slot (Table 10.2). -/
structure Slot where
  src : Nat
  dst : Nat
  srcSpace : Bool
  dstSpace : Bool
  rport : Nat
  inj : Nat
  words : Nat
  depen : Bool
  cmt : Bool
  srcRel : Bool
  dstRel : Bool
  after : Nat
  srcOff : Nat
  dstOff : Nat
deriving DecidableEq, Repr

/-- Fields of a slot's two words. -/
def slotOf (w : W128 × W128) : Slot :=
  { src := fld w.1 127 122, dst := fld w.1 121 116, srcSpace := bit w.1 115, dstSpace := bit w.1 114, rport := fld w.1 113 113
    inj := fld w.1 112 112, words := fld w.1 111 96 + 1, depen := bit w.1 95, cmt := bit w.1 94, srcRel := bit w.1 93
    dstRel := bit w.1 92, after := fld w.1 91 80, srcOff := fld w.1 37 0, dstOff := fld w.2 37 0 }

/-- A null slot (R270). -/
def Slot.isNull (x : Slot) : Bool := x.src == x.dst

/-- A null slot's other fields are zero (R270). -/
def nullOk (w : W128 × W128) : Bool :=
  fld w.1 115 0 == 0 && w.2 == 0

/-- Reserved bits of a slot's words are nonzero (R271). -/
def slotReserved (w : W128 × W128) : Bool := fld w.1 79 38 != 0 || fld w.2 127 38 != 0

/-- The conditions of R271 on a slot's fields, reserved bits apart; bits 3 to 0 of the offsets, zero by Table 10.2, are among them (log 114). -/
def slotFields (im : Image) (i : Nat) (table : List (W128 × W128)) (w : W128 × W128) : Bool :=
  let x := slotOf w
  decide (x.src < im.hdr.lveCount) && decide (x.dst < im.hdr.lveCount) && x.srcOff % 16 == 0 && x.dstOff % 16 == 0 &&
  (!x.isNull || nullOk w) &&
  (!x.depen || (decide (x.after < i) && (match table[x.after]? with
    | some y => (slotOf y).dst == x.src
    | none => false))) &&
  (!x.srcRel || !x.srcSpace) && (!x.dstRel || !x.dstSpace) &&
  (!x.cmt || (x.dstRel && im.hdr.gated && (!im.hdr.fourState || (x.dstOff % 32 == 0 && x.words % 2 == 0))))

/-- One region of a slot lies where R271 lets it: within a state buffer, below the HBM limit, or in one bank that holds a section of the
logical VE. -/
def regionOk (s : State) (p : PartId) (im : Image) (rel space : Bool) (off words lve : Nat) : Bool :=
  let hi := off + 16 * words
  if rel then decide (hi ≤ im.hdr.stateBytes)
  else if !space then decide (hi ≤ partLimit s p false)
  else
    decide (hi ≤ partLimit s p true) && off / bankBytes == (hi - 1) / bankBytes &&
    im.sections.any fun x => x.space == 1 && x.lve == lve && x.offset / bankBytes == off / bankBytes

/-- The region conditions of R271. -/
def slotRegions (s : State) (p : PartId) (im : Image) (w : W128 × W128) : Bool :=
  let x := slotOf w
  x.isNull || (regionOk s p im x.srcRel x.srcSpace x.srcOff x.words x.src && regionOk s p im x.dstRel x.dstSpace x.dstOff x.words x.dst)

/-! ### The phase -/

/-- Slots of the active table in force. -/
def actSlots (q : Partition) : List Slot := (List.range q.exchSlotsAct.toNat).map fun i => slotOf (nth q.exchTables[actTable q] i (0, 0))

/-- Physical VE of a logical VE. -/
def boundVe (q : Partition) (lve : Nat) : Option VeId := q.bind[lve]?

/-- Slot `i` has completed in this phase; a null slot with its sender's drain (R270). -/
def slotComplete (s : State) (p : PartId) (r : Run) (x : Slot) (i : Nat) : Bool :=
  if x.isNull then (match boundVe s.parts[p] x.src with | some n => s.seq[n].arrived && s.seq[n].begunBarrier | none => false)
  else r.slots.any fun y => y.1 == i && y.2 == .complete

/-- Bound VE `n` is done: its drain has ended and every slot it sends has completed (R275). -/
def veDone (s : State) (p : PartId) (r : Run) (n : VeId) : Bool :=
  s.seq[n].arrived && s.seq[n].begunBarrier &&
  (actSlots s.parts[p]).zipIdx.all fun (x, i) => boundVe s.parts[p] x.src != some n || slotComplete s p r x i

/-- The done VEs, and when the first was done (R275, R276). -/
def refreshDone (s : State) (p : PartId) : State :=
  match s.parts[p].run with
  | none => s
  | some r =>
    let d := s.parts[p].bind.filter fun n => veDone s p r n
    modPart s p fun q =>
      { q with run := some { r with done := d, firstDone := if d.isEmpty then none else
          match r.firstDone with | some t => some t | none => some (timeNow s) } }

/-- Partition-relative offset of a slot's end, REL resolved against the next state buffer (R273). -/
def slotOff (s : State) (p : PartId) (rel : Bool) (off : Nat) : Nat :=
  match s.parts[p].image with
  | some im => if rel then bufBase im (nextBuf s p) + off else off
  | none => off

/-- Slot `i` may start: its VE's drain has ended, the previous slot on its port and the slot it waits for have completed (R272). -/
def slotEligible (s : State) (p : PartId) (r : Run) (i : Nat) : Bool :=
  let ss := actSlots s.parts[p]
  match ss[i]? with
  | none => false
  | some x =>
    match boundVe s.parts[p] x.src with
    | none => false
    | some n =>
      s.seq[n].arrived && s.seq[n].begunBarrier && !x.isNull && r.phase == .evaluate && !(r.slots.any fun y => y.1 == i) &&
      ((ss.take i).zipIdx.all fun (y, j) => y.src != x.src || y.inj != x.inj || y.isNull || slotComplete s p r y j) &&
      (!x.depen || (match ss[x.after]? with | some y => slotComplete s p r y x.after | none => false))

/-- Receive port of a slot: 2m + RPORT of the receiving VE. -/
def slotPort (s : State) (p : PartId) (x : Slot) : Nat :=
  match boundVe s.parts[p] x.dst with
  | some m => 2 * m.val + x.rport
  | none => 0

/-- A receive port is held by some slot of some partition. -/
def portHeld (s : State) (port : Nat) : Bool :=
  (List.finRange 16).any fun p => match s.parts[p].run with
    | some r => r.grants.any fun g => g.2.1 == port
    | none => false

/-- The injection port that slot `n` of receive port `q` requests while both request: the one not last granted, INJ 0 first (R253). -/
def injTurn (s : State) (port : Nat) (n : VeId) : Nat := if s.fab.lastInj.contains (64 * port + n.val) then 1 else 0

/-- The dies of a slot's sender and receiver reach one another (R21, R279). -/
def slotReach (s : State) (n m : VeId) : Bool := reachable s (n.val / 16) (m.val / 16)

/-- Slot `i` starts: it wins its receive port against the other VEs that request it, and holds it until its last word (R273, R254). -/
def slotStartOp (s : State) (p : PartId) (i : Nat) (others : List VeId) (idle : Bool) : State :=
  match s.parts[p].run, (actSlots s.parts[p])[i]? with
  | some r, some x =>
    match boundVe s.parts[p] x.src, boundVe s.parts[p] x.dst with
    | some n, some m =>
      if dead s || frozen s || !slotEligible s p r i || s.eng[n].fenced != 0 || !slotReach s n m then s
      else
        let port := slotPort s p x
        let rival := (List.range (actSlots s.parts[p]).length).any fun j =>
          match (actSlots s.parts[p])[j]? with
          | some y => y.src == x.src && y.inj != x.inj && slotEligible s p r j && slotPort s p y == port
          | none => false
        let arb := s.fab.rxArb[(Fin.ofNat 128 port)]
        if portHeld s port || arb.frozen || (rival && injTurn s port n != x.inj) then s
        else
          match arbWin arb (fun _ => 0) (Nat.xor (port / 2) 1) idle n.val (others.map (·.val)) with
          | none => s
          | some a =>
            let key := 64 * port + n.val
            let s1 := { s with fab := { s.fab with
              rxArb := updV s.fab.rxArb (Fin.ofNat 128 port) fun _ => a
              lastInj := if x.inj = 0 then insertAsc key s.fab.lastInj else s.fab.lastInj.filter (· ≠ key) } }
            modPart s1 p fun q => { q with run := some { r with
              slots := r.slots ++ [(i, .running [])], grants := r.grants ++ [(i, port, r.grantSeq)], grantSeq := r.grantSeq + 1 } }
    | _, _ => s
  | _, _ => s

/-- Two slots are ordered: a chain of dependences or of one injection port leads from the lower to the higher (R274). -/
def slotsOrdered (ss : List Slot) : Nat → Nat → Nat → Bool
  | 0, _, _ => false
  | fuel + 1, a, b =>
    if a = b then true
    else if b < a then slotsOrdered ss fuel b a
    else
      match ss[b]? with
      | none => false
      | some y =>
        (y.depen && decide (a ≤ y.after) && slotsOrdered ss fuel a y.after) ||
        ((List.range b).any fun j => decide (a ≤ j) && (match ss[j]? with
          | some x => !x.isNull && x.src == y.src && x.inj == y.inj && slotsOrdered ss fuel a j
          | none => false))

/-- How far a slot has come when it stops: good, waiting at a bank, or a fault with its status, end and place. -/
inductive SlotEnd where
  | good
  | held
  | bad (status : Nat) (atDst : Bool) (space : Bool) (addr : Nat)
deriving DecidableEq, Repr

/-- A slot's transfer so far. -/
structure SlotRun where
  s : State
  data : List W128
  writes : List PhaseWrite
  stop : SlotEnd

/-- Place in the phase's list of written words. -/
def phaseKey (space : Bool) (off : Nat) : Nat := space.toNat * 2 ^ 38 + off

/-- The word stored at a partition-relative offset. -/
def storedWord (s : State) (p : PartId) (space : Bool) (off : Nat) : Option W128 := (partDev s p space off).map fun a => wordGet s.mem (a / 16)

/-- What an unordered slot that is still running may already have written to a place: the word that stands in its source (R274). -/
def runningWrite (s : State) (p : PartId) (r : Run) (ss : List Slot) (i : Nat) (key : Nat) : Option W128 :=
  (r.slots.filter fun y => y.2 != .complete && y.1 != i && !slotsOrdered ss (ss.length + i + y.1 + 2) y.1 i).findSome? fun y =>
    match ss[y.1]? with
    | some x =>
      let lo := phaseKey x.dstSpace (slotOff s p x.dstRel x.dstOff)
      if lo ≤ key ∧ key < lo + 16 * x.words then storedWord s p x.srcSpace (slotOff s p x.srcRel x.srcOff + (key - lo)) else none
    | none => none

/-- The writes of the phase to a place, in the order made: the slot and the value it left there; `now` stands there. -/
def placeWrites (ws : List PhaseWrite) (key : Nat) (now : W128) : List (Nat × W128) :=
  let l := ws.filter (·.addr == key)
  (l.map (·.slot)).zip ((l.drop 1).map (·.old) ++ [now])

/-- Slot `j` races with slot `i`: they are not ordered (R274). -/
def racesWith (ss : List Slot) (i j : Nat) : Bool := !slotsOrdered ss (ss.length + i + j + 2) j i

/-- What slot `i` may read at a place where `now` stands (R274): with no unordered writer that value alone; else the value written last by a slot
ordered before it, or the one before the phase where none is, or what any unordered slot has written. -/
def readChoices (ss : List Slot) (ws : List PhaseWrite) (i key : Nat) (now : W128) (extra : Option W128) : List W128 :=
  let all := placeWrites ws key now
  let racing := (all.filter fun w => racesWith ss i w.1).map (·.2)
  if racing.isEmpty && extra.isNone then [now]
  else
    let before := match (all.filter fun w => !racesWith ss i w.1).getLast? with
      | some w => w.2
      | none => ((ws.find? fun w => w.addr == key).map (·.old)).getD now
    before :: (racing ++ extra.toList)

/-- What a place holds after slot `i` has written `v` to it (R274): `v`, or what an unordered slot has written. -/
def writeChoices (ss : List Slot) (ws : List PhaseWrite) (i key : Nat) (now v : W128) : List W128 :=
  v :: (((placeWrites ws key now).filter fun w => racesWith ss i w.1).map (·.2))

/-- One of the values, free where there are several (R10, log 117). -/
def pickWord (s : State) (l : List W128) : W128 × State :=
  match l with
  | [v] => (v, s)
  | _ => let d := drawNat s; (nth l (d.1 % l.length) 0, d.2)

/-- How a slot's words reach memory: through the arbiters on their way, or already accepted by their target (R246, R261). -/
def slotGet (direct : Bool) (s : State) (p : PartId) (n : VeId) (code : Nat) (space : Bool) (off : Nat) : Acc :=
  if direct then
    match (partDev s p space off).bind fun a => (unitOf s a).map fun u => (a, u) with
    | some (a, u) => readWord s (unitDie u) code a
    | none => { data := 0, status := 4, s := s }
  else readPart s p (.engine n 6) code space off

/-- The same for a word written. -/
def slotPut (direct : Bool) (s : State) (p : PartId) (n : VeId) (code : Nat) (space : Bool) (off : Nat) (v : W128) : Acc :=
  if direct then
    match (partDev s p space off).bind fun a => (unitOf s a).map fun u => (a, u) with
    | some (a, u) => writeWord s (unitDie u) code a v
    | none => { data := 0, status := 4, s := s }
  else writePart s p (.engine n 6) code space off v allBytes

/-- Words of the source, read in ascending order by the sender's exchange engine with the sender's rights; a word that an unordered slot writes in
this phase reads as before it or after it (R273, R274). -/
def slotReads (direct : Bool) (p : PartId) (r0 : Run) (n : VeId) (ss : List Slot) (i : Nat) (x : Slot) : Nat → Nat → SlotRun → SlotRun
  | 0, _, t => t
  | k + 1, off, t =>
    if t.stop ≠ .good then t
    else
      let r := slotGet direct t.s p n (veCode t.s n) x.srcSpace off
      if r.status = 9 then { t with stop := .held }
      else if r.status ≠ 0 then { t with s := r.s, stop := .bad r.status false x.srcSpace off }
      else
        let key := phaseKey x.srcSpace off
        let w := pickWord r.s (readChoices ss t.writes i key r.data (runningWrite t.s p r0 ss i key))
        slotReads direct p r0 n ss i x k (off + 16) { t with s := w.2, data := t.data ++ [w.1] }

/-- Words written in ascending order with the receiver's rights; a word that an unordered slot also wrote keeps one of the values (R273, R274). -/
def slotWrites (direct : Bool) (p : PartId) (n m : VeId) (ss : List Slot) (i : Nat) (x : Slot) : List W128 → Nat → SlotRun → SlotRun
  | [], _, t => t
  | v :: vs, off, t =>
    if t.stop ≠ .good then t
    else
      let key := phaseKey x.dstSpace off
      let old := (storedWord t.s p x.dstSpace off).getD 0
      let d := pickWord t.s (writeChoices ss t.writes i key old v)
      let r := slotPut direct d.2 p n (veCode d.2 m) x.dstSpace off d.1
      if r.status = 9 then { t with stop := .held }
      else if r.status ≠ 0 then { t with s := r.s, stop := .bad r.status true x.dstSpace off }
      else slotWrites direct p n m ss i x vs (off + 16) { t with s := r.s, writes := t.writes ++ [{ addr := key, old := old, slot := i }] }

/-- The memory-side OR of a slot's marks, by the sender's exchange engine. -/
def slotOr (direct : Bool) (s : State) (n : VeId) (d : Nat) (v : W128) : Acc :=
  if direct then
    match unitOf s d with
    | some u => atomicWord s (unitDie u) d (· ||| v)
    | none => { data := 0, status := 4, s := s }
  else via s (.engine n 6) d fun t => atomicWord t (n.val / 16) d (· ||| v)

/-- Destination elements of `words` words from DST_OFF `off` marked by atomic OR, one for each commit-bitmap word (R273). -/
def slotMarks (direct : Bool) (p : PartId) (n : VeId) (im : Image) (off words : Nat) (t : SlotRun) : SlotRun :=
  if t.stop ≠ .good then t
  else
    let es := if im.hdr.fourState then 32 else 16
    let els := (List.range (cdiv (off % es + 16 * words) es)).map (off / es + ·)
    ((els.map (· / 128)).eraseDups).foldl (fun t w =>
      if t.stop ≠ .good then t
      else
        let a := markOff t.s p im + 16 * w
        let v : W128 := (els.filter fun m => m / 128 == w).foldl (fun y m => setBit y (m % 128) true) 0
        match partDev t.s p false a with
        | none => { t with stop := .bad 4 true false a }
        | some d =>
          let r := slotOr direct t.s n d v
          if r.status = 9 then { t with stop := .held }
          else if r.status ≠ 0 then { t with s := r.s, stop := .bad r.status true false a } else { t with s := r.s }) t

/-- Words from an offset to the end of their fragment: a granule of HBM, a 512-byte block of a bank (R246). -/
def fragRoom (space : Bool) (off : Nat) : Nat := let b := if space then 512 else 256; (b - off % b) / 16

/-- The words of a slot written fragment by fragment, each fragment's elements marked as it is written (R273). `done` counts the words
written. -/
def slotFrags (direct : Bool) (p : PartId) (n m : VeId) (ss : List Slot) (i : Nat) (x : Slot) (im : Image) (base : Nat) :
    Nat → List W128 → Nat → SlotRun → SlotRun
  | 0, _, _, t => t
  | fuel + 1, vs, done, t =>
    if t.stop ≠ .good ∨ vs.isEmpty then t
    else
      let off := base + 16 * done
      let k := min (fragRoom x.dstSpace off) vs.length
      let t1 := slotWrites direct p n m ss i x (vs.take k) off t
      let t2 := if x.cmt then slotMarks direct p n im (x.dstOff + 16 * done) k t1 else t1
      slotFrags direct p n m ss i x im base fuel (vs.drop k) (done + k) t2

/-- The first `words` words of slot `i`'s transfer; `direct` those that their targets have accepted. -/
def slotMove (direct : Bool) (s : State) (p : PartId) (r : Run) (i : Nat) (x : Slot) (n m : VeId) (im : Image) (words : Nat) : SlotRun :=
  let ss := actSlots s.parts[p]
  let t1 := slotReads direct p r n ss i x words (slotOff s p x.srcRel x.srcOff) { s := s, data := [], writes := r.writes, stop := .good }
  slotFrags direct p n m ss i x im (slotOff s p x.dstRel x.dstOff) (words + 1) t1.data 0 t1

/-- The first `words` words of slot `i`'s transfer. A receiver that cannot be reached counts as fenced once the source has been read (R279, R21). -/
def slotRun (s : State) (p : PartId) (r : Run) (i : Nat) (x : Slot) (n m : VeId) (im : Image) (words : Nat) : SlotRun :=
  if slotReach s n m then slotMove false s p r i x n m im words
  else
    let t := slotReads false p r n (actSlots s.parts[p]) i x words (slotOff s p x.srcRel x.srcOff) { s := s, data := [], writes := r.writes, stop := .good }
    if t.stop ≠ .good then t else { t with stop := .bad 8 true x.dstSpace (slotOff s p x.dstRel x.dstOff) }

/-- Slot `i` is in progress. -/
def slotRuns (r : Run) (i : Nat) : Bool := r.slots.any fun y => y.1 == i && y.2 != .complete

/-- Slot `i` completes: its words are in place and its grant ends (R273). -/
def slotCompleteOp (s : State) (p : PartId) (i : Nat) : State :=
  match s.parts[p].run, (actSlots s.parts[p])[i]?, s.parts[p].image with
  | some r, some x, some im =>
    match boundVe s.parts[p] x.src, boundVe s.parts[p] x.dst with
    | some n, some m =>
      if dead s || !slotRuns r i then s
      else
        let t := slotRun s p r i x n m im x.words
        if t.stop ≠ .good then s
        else
          let s1 := modPart t.s p fun q =>
            { q with
              exchWords := q.exchWords + BitVec.ofNat 64 x.words
              run := some { r with slots := (r.slots.filter fun y => y.1 != i) ++ [(i, .complete)], writes := t.writes
                                   grants := r.grants.filter fun g => g.1 != i } }
          refreshDone s1 p
    | _, _ => s
  | _, _, _ => s

/-- The exchange of a partition stops: of each slot in progress but `but` the fragments that were accepted complete, all others are withdrawn,
and the exchange engines' sinks absorb their responses (R261, R276, R279). -/
def exchangeStops (s : State) (p : PartId) (but : Option Nat) (cut : ExchCut) : State :=
  let s1 := cut.moved.foldl (fun t y =>
    match t.parts[p].run, (actSlots t.parts[p])[y.1.val]?, t.parts[p].image with
    | some r, some x, some im =>
      match boundVe t.parts[p] x.src, boundVe t.parts[p] x.dst with
      | some n, some m =>
        if !slotRuns r y.1.val || but == some y.1.val then t
        else
          let u := slotMove true t p r y.1.val x n m im (min y.2 x.words)
          modPart u.s p fun q => { q with run := some { r with writes := u.writes } }
      | _, _ => t
    | _, _, _ => t) s
  cut.sunk.foldl (fun t y => sinkResponses t (8 * y.1.val + 6) y.2.val) s1

/-- Ledger cause of an exchange fault (Table 10.5). -/
def exchCause (status : Nat) (atDst : Bool) : Nat := if status = 8 then 0x0A03 else if atDst then 0x0A02 else 0x0A01

/-- The words of a faulting slot: those whose fragments had been accepted are in place, and the transfer goes on from them to the word that fails (R279).
A receiver that cannot be reached fails the first word that had not been accepted. -/
def faultRun (s : State) (p : PartId) (r : Run) (i : Nat) (x : Slot) (n m : VeId) (im : Image) (cut : ExchCut) : SlotRun :=
  let runs := slotRuns r i
  let k := if runs then min (((cut.moved.find? fun y => y.1.val == i).map (·.2)).getD 0) x.words else 0
  let whole := slotRun s p r i x n m im (if runs then x.words else 0)
  let src := slotReads false p r n (actSlots s.parts[p]) i x x.words (slotOff s p x.srcRel x.srcOff) { s := s, data := [], writes := r.writes, stop := .good }
  match src.stop with
  | .bad .. =>
    let u := slotMove true s p r i x n m im (min k src.data.length)
    let v := slotReads false p r n (actSlots s.parts[p]) i x x.words (slotOff s p x.srcRel x.srcOff) { u with data := [], stop := .good }
    { v with stop := src.stop }
  | _ =>
    if slotReach s n m then whole
    else
      let u := slotMove true s p r i x n m im k
      { u with stop := .bad 8 true x.dstSpace (slotOff s p x.dstRel x.dstOff + 16 * k) }

/-- What the first exchange fault of a partition does: its exchange stops, event 792, and the job segment fails with the cause and detail of Table
10.5 and R285: slot `i` of sender `n` failed at `a` with a status. -/
def exchangeFails (s : State) (p : PartId) (i : Nat) (n : VeId) (st : Nat) (atDst space : Bool) (a : Nat) (cut : ExchCut) : State :=
  let s1 := raiseN (exchangeStops s p (some i) cut) 792
    (at' 32 26 n.val ||| at' 32 22 st ||| at' 32 10 i ||| at' 32 9 atDst.toNat ||| BitVec.ofNat 32 p.val)
  failSegment s1 p (exchCause st atDst)
    (at' 64 58 n.val ||| at' 64 54 st ||| at' 64 42 i ||| at' 64 41 atDst.toNat ||| at' 64 38 space.toNat ||| BitVec.ofNat 64 (a % 2 ^ 38))

/-- The first exchange fault of a partition: slot `i` meets a bad status, and the job segment fails (R279). A slot that is eligible and has not
its receive port yet meets one only at its source, or when its receiver cannot be reached. -/
def exchangeFaultOp (s : State) (p : PartId) (i : Nat) (cut : ExchCut) : State :=
  match s.parts[p].run, (actSlots s.parts[p])[i]?, s.parts[p].image with
  | some r, some x, some im =>
    match boundVe s.parts[p] x.src, boundVe s.parts[p] x.dst with
    | some n, some m =>
      if dead s || !(slotEligible s p r i || slotRuns r i) then s
      else
        let t := faultRun s p r i x n m im cut
        match t.stop with
        | .bad st atDst space a => exchangeFails t.s p i n st atDst space a cut
        | _ => s
    | _, _ => s
  | _, _, _ => s

/-- How far the running slots of a partition have come, and what the sinks of its exchange engines absorb, when memory or a link is fenced under
them: no command says it, so both are free (log 106). -/
def freeCut (s : State) (p : PartId) : ExchCut × State :=
  match s.parts[p].run with
  | none => ({ moved := [], sunk := [] }, s)
  | some r =>
    let a := (r.slots.filter fun y => y.2 != .complete).foldl (fun (x : List (Fin 4096 × Nat) × State) y =>
      let d := drawNat x.2
      (x.1 ++ [(Fin.ofNat 4096 y.1, d.1 % 65537)], d.2)) ([], s)
    let b := s.parts[p].bind.foldl (fun (x : List (VeId × Fin 33) × State) n =>
      let d := drawNat x.2
      (x.1 ++ [(n, Fin.ofNat 33 d.1)], d.2)) ([], a.2)
    ({ moved := a.1, sunk := b.1 }, b.2)

/-- A running slot of the partition that memory now refuses, and where (R279). -/
def fencedSlot (s : State) (p : PartId) : Option (Nat × VeId × Nat × Bool × Bool × Nat) :=
  match s.parts[p].run, s.parts[p].image with
  | some r, some im =>
    ((List.range (actSlots s.parts[p]).length).filter (slotRuns r)).findSome? fun i =>
      match (actSlots s.parts[p])[i]? with
      | some x =>
        match boundVe s.parts[p] x.src, boundVe s.parts[p] x.dst with
        | some n, some m =>
          match (slotRun s p r i x n m im x.words).stop with
          | .bad st atDst space a => some (i, n, st, atDst, space, a)
          | _ => none
        | _, _ => none
      | none => none
  | _, _ => none

/-! ### The barrier -/

/-- The barrier releases when every bound VE is done: held edits and a due swap apply, and commit starts (R275, R281, R282). -/
def barrierReleaseOp (s : State) (p : PartId) : State :=
  match s.parts[p].run with
  | none => s
  | some r =>
    if dead s || r.phase != .evaluate || s.parts[p].bind.isEmpty || !(s.parts[p].bind.all fun n => r.done.contains n) then s
    else
      let ns := match r.firstDone with | some t => timeNow s - t | none => 0
      let s1 := modPart s p fun q =>
        { q with exchWraps := q.exchWraps + 1, barLastNs := ns.setWidth 32
                 run := some { r with phase := .commit, done := [], firstDone := none, slots := [], writes := [], grants := [] } }
      tablesRelease s1 p r.cycle

/-- The lowest-numbered slot that VE `n` sends and that has not completed, or 0xFFF before the end of its drain (R276); a VE that is still in the
handler it entered from the `BARRIER` before has not begun this one. -/
def lateSlot (s : State) (p : PartId) (r : Run) (n : VeId) : Nat :=
  if !s.seq[n].arrived || !s.seq[n].begunBarrier then 0xFFF
  else
    match (actSlots s.parts[p]).zipIdx.find? fun (x, i) => boundVe s.parts[p] x.src == some n && !slotComplete s p r x i with
    | some (_, i) => i
    | none => 0xFFF

/-- Every bound VE is resident under the dispatch slot table: the partition is not pooled, or its slot runs and none of its VEs leaves or has
still to arrive (R276, R371). -/
def allResident (s : State) (p : PartId) : Bool :=
  !pooled s p || (s.pw.leavingPart != some p && !s.pw.due && (match s.pw.running with | some w => slotServes w p | none => false))

/-- The barrier timer passes BAR_TIMEOUT (R276): it counts only while every bound VE is resident. -/
def barrierTimeoutOp (s : State) (p : PartId) (cut : ExchCut) : State :=
  match s.parts[p].run with
  | none => s
  | some r =>
    let late := s.parts[p].bind.filter fun n => !r.done.contains n
    if dead s || frozen s || r.phase != .evaluate || r.firstDone.isNone || late.isEmpty || !allResident s p then s
    else
      let s1 := late.foldl (fun t n =>
        raiseN t (8 * n.val + 5) (at' 32 12 (if s.seq[n].begunBarrier then 0 else 1) ||| BitVec.ofNat 32 (lateSlot s p r n))) s
      let low := (late.map (·.val)).foldl min 63
      let dt := low * 16 + p.val
      failSegment (exchangeStops (raiseN s1 794 (BitVec.ofNat 32 dt)) p none cut) p 0x0A04 (BitVec.ofNat 64 dt)

/-- SLOT_START (R272). -/
def execSlotStart (p : PartId) (slot : Fin 4096) (others : RxRivals) (s : State) : Host.Outcome State Fault Refusal :=
  .next (slotStartOp s p slot.val others.ves others.idle)
/-- SLOT_COMPLETE (R273). -/
def execSlotComplete (p : PartId) (slot : Fin 4096) (s : State) : Host.Outcome State Fault Refusal := .next (slotCompleteOp s p slot.val)
/-- EXCHANGE_FAULT (R279). -/
def execExchangeFault (p : PartId) (slot : Fin 4096) (cut : ExchCut) (s : State) : Host.Outcome State Fault Refusal :=
  .next (exchangeFaultOp s p slot.val cut)
/-- BARRIER_RELEASE (R275). -/
def execBarrierRelease (p : PartId) (s : State) : Host.Outcome State Fault Refusal := .next (barrierReleaseOp s p)
/-- BARRIER_TIMEOUT (R276). -/
def execBarrierTimeout (p : BarrierEnd) (s : State) : Host.Outcome State Fault Refusal := .next (barrierTimeoutOp s p.part p.cut)

end Sys2Proof.Machine
end

