-- ==== Sys2Proof/Machine/Image.lean ====
section
/-!
DEFINITION. The image (R27-R36, R40, R41, R268, R271, R407, R449, R450): each word's checks as it arrives, its write, and the end of a load.
-/

namespace Sys2Proof.Machine

/-! ### Fields -/

/-- `n` bytes at offset `o` of a byte string, little-endian. -/
def le (b : List Byte) (o n : Nat) : Nat := natOfBytes ((b.drop o).take n)

/-- The header of an image (Table 2.2). -/
def headerOf (b : List Byte) : Header where
  sectCount := le b 0x06 2
  lveCount := le b 0x08 1
  fourState := le b 0x09 1 == 1
  gated := le b 0x0A 2 % 2 == 1
  fold := le b 0x0C 2
  resultDepth := le b 0x0E 2
  rnMask := BitVec.ofNat 64 (le b 0x10 8)
  stateBytes := le b 0x18 8
  cbmpOff := le b 0x20 8
  rsltOff := le b 0x28 8
  stimWords := le b 0x30 4
  resultWords := le b 0x34 4
  dmwMax := le b 0x38 4
  energyNj := le b 0x3C 4
  exchSlots := le b 0x40 2
  crc := BitVec.ofNat 32 (le b 0xFC 4)

/-- The fields in word `i` of the header are as Table 2.2 has them; `b` holds the header's bytes up to that word. -/
def headerWordOk (b : List Byte) (i : Nat) : Bool :=
  let h := headerOf b
  if i = 0 then
    le b 0 4 == 0x34365646 && le b 4 2 == 3 && decide (1 ≤ h.sectCount ∧ h.sectCount ≤ 255) &&
    decide (1 ≤ h.lveCount ∧ h.lveCount ≤ 64) && decide (le b 9 1 ≤ 1) && decide (le b 0x0A 2 ≤ 1) && decide (1 ≤ h.fold) &&
    decide (2 ≤ h.resultDepth ∧ h.resultDepth ≤ 256)
  else if i = 1 then
    decide (h.rnMask.toNat < 2 ^ h.lveCount) && decide (h.stateBytes ≠ 0) && h.stateBytes % 256 == 0
  else if i = 2 then (!h.gated || h.cbmpOff % 16 == 0) && h.rsltOff % 16 == 0
  else if i = 3 then decide (h.stimWords ≤ 65536) && decide (h.resultWords ≤ 65536)
  else if i = 4 then decide (1 ≤ h.exchSlots ∧ h.exchSlots ≤ 4096) && le b 0x42 6 == 0
  else if i < 15 then le b (16 * i) 16 == 0
  else le b 0xF0 12 == 0 && crc32c (b.take 0xFC) == h.crc

/-- A section-table entry from its two words (Table 2.3). -/
def sectionOf (a c : W128) : Section where
  kind := fld a 7 0
  lve := fld a 15 8
  space := fld a 23 16
  crc := BitVec.ofNat 32 (fld a 63 32)
  offset := fld a 127 64
  length := fld c 63 0

/-- The kind has contents (Table 2.4). -/
def hasContents (k : Nat) : Bool := [1, 2, 3, 5, 6, 8, 9, 10].contains k
/-- At most one section of the kind (R449). -/
def onlyOnce (k : Nat) : Bool := [4, 7, 8, 9, 10].contains k

/-- The first `n` sections of the table whose words are `ws`, header included. -/
def sectionsOf (ws : List W128) (n : Nat) : List Section :=
  (List.range n).map fun j => sectionOf (nth ws (16 + 2 * j) 0) (nth ws (17 + 2 * j) 0)

/-- First word of an entry: KIND, LVE, SPACE, reserved bits, SECT_CRC, OFFSET and the section's count (R32, R449). -/
def entryHeadOk (h : Header) (old : List Section) (w : W128) : Bool :=
  let x := sectionOf w 0
  decide (1 ≤ x.kind ∧ x.kind ≤ 11) && fld w 31 24 == 0 && decide (x.space ≤ 1) &&
  (if x.kind = 1 then decide (x.lve < h.lveCount)
   else if x.kind = 2 ∨ x.kind = 3 then decide (x.lve < h.lveCount ∨ (x.lve = 0xFF ∧ x.space = 0))
   else if x.kind = 11 then decide (x.lve < h.lveCount ∨ x.lve = 0xFF)
   else decide (x.lve = 0xFF ∧ x.space = 0)) &&
  (hasContents x.kind || x.crc == 0) && x.offset % 16 == 0 && !(onlyOnce x.kind && old.any fun y => y.kind == x.kind)

/-- Two sections overlap, or one bank would hold sections of two logical VEs (Table 2.5). -/
def sectionsClash (x y : Section) : Bool :=
  x.kind != 5 && y.kind != 5 && x.space == y.space &&
  (decide (x.offset < y.offset + y.length ∧ y.offset < x.offset + x.length) ||
   (x.space == 1 && x.offset / bankBytes == y.offset / bankBytes && x.lve != 0xFF && y.lve != 0xFF && x.lve != y.lve))

/-- Offset of the context area of a partition (R372). -/
def ctxArea (q : Partition) : Nat := q.cfg.hbmSize.toNat * gib - 0x40000

/-- Second word of an entry: 0, or the cause it fails with (R31, R268, R372, R449, R397). -/
def entryTail (s : State) (p : PartId) (h : Header) (old : List Section) (x : Section) (w : W128) : Nat :=
  let q := s.parts[p]
  let n := h.stimWords + h.resultWords
  if fld w 127 64 ≠ 0 ∨ x.length = 0 ∨ x.length % 16 ≠ 0 then 0x0202
  else if x.kind = 4 ∧ x.length ≠ 2 * h.stateBytes ∧ x.length ≠ 3 * h.stateBytes then 0x0202
  else if x.kind = 4 ∧ x.length = 2 * h.stateBytes ∧ q.cfg.twinMode then 0x0205
  else if x.kind = 8 ∧ x.length ≠ 32 * h.exchSlots then 0x0202
  else if x.kind = 9 ∧ (n = 0 ∨ x.length ≠ 16 * cdiv n 2) then 0x0202
  else if x.kind = 7 ∧ q.cfg.twinMode ∧ x.length < 128 * h.dmwMax then 0x0205
  else if x.kind = 7 ∧ x.length < 32 * h.dmwMax then 0x0202
  else if x.kind = 5 then (if h.stateBytes < x.offset + x.length then 0x0203 else 0)
  else if partLimit s p (x.space == 1) < x.offset + x.length then 0x0203
  else if x.space = 1 ∧ x.offset / bankBytes ≠ (x.offset + x.length - 1) / bankBytes then 0x0203
  else if old.any (sectionsClash x) then 0x0203
  else if x.space = 0 ∧ pooled s p ∧ ctxArea q < x.offset + x.length then 0x0203
  else 0

/-- `size` bytes at `off` lie in one RESERVE section of SPACE 0. -/
def inReserve (xs : List Section) (off size : Nat) : Bool :=
  xs.any fun x => x.kind == 11 && x.space == 0 && decide (x.offset ≤ off ∧ off + max size 1 ≤ x.offset + x.length)

/-- Checks at the end of the section table: counts (R449) and the fixed regions (Table 2.5, R397). -/
def tableEnd (s : State) (p : PartId) (h : Header) (xs : List Section) : Nat :=
  let has : Nat → Bool := fun k => xs.any fun x => x.kind == k
  let bm := 16 * cdiv (h.stateBytes / (if h.fourState then 32 else 16)) 128
  if !has 4 || !has 8 || (h.stimWords + h.resultWords != 0 && !has 9) || (h.dmwMax != 0 && !has 7) ||
      !((List.range h.lveCount).all fun l => xs.any fun x => x.kind == 1 && x.lve == l) then 0x0202
  else if h.gated && !inReserve xs h.cbmpOff (if s.parts[p].cfg.twinMode then 2 * bm else bm) then 0x0203
  else if !inReserve xs h.rsltOff (h.resultDepth * h.resultWords * 16) then 0x0203
  else 0

/-! ### Contents -/

/-- The section that word `i` of the contents belongs to, and the word's number in it. -/
def contentAt : List Section → Nat → Option (Section × Nat)
  | [], _ => none
  | x :: xs, i =>
    if !hasContents x.kind then contentAt xs i
    else if i < x.length / 16 then some (x, i)
    else contentAt xs (i - x.length / 16)

/-- Words of contents in all. -/
def contentWords (xs : List Section) : Nat := (xs.map fun x => if hasContents x.kind then x.length / 16 else 0).sum

/-- First content word of the first section that satisfies `f`. -/
def contentStart (f : Section → Bool) : List Section → Nat
  | [] => 0
  | x :: xs => if f x then 0 else (if hasContents x.kind then x.length / 16 else 0) + contentStart f xs

/-- Contents of the section of kind `k` among the image's words. -/
def contentsOf (ws : List W128) (xs : List Section) (k : Nat) : List W128 :=
  match xs.find? fun x => x.kind == k with
  | some x => (ws.drop (16 + 2 * xs.length + contentStart (fun y => y.kind == k) xs)).take (x.length / 16)
  | none => []

/-- A PORT_MAP entry (R40): 0, 0x0202 or 0x0203. -/
def portEntry (h : Header) (e : Nat) : Nat := if e % 16 ≠ 0 then 0x0202 else if h.stateBytes < e + 16 then 0x0203 else 0

/-- A word of the port map, entries 2i and 2i + 1 (R40). -/
def portWord (h : Header) (i : Nat) (w : W128) : Nat :=
  let n := h.stimWords + h.resultWords
  let a := portEntry h (fld w 63 0)
  if a ≠ 0 then a
  else if 2 * i + 1 < n then portEntry h (fld w 127 64)
  else if fld w 127 64 ≠ 0 then 0x0202 else 0

/-- Entries of a port map. -/
def portMapOf (h : Header) (ws : List W128) : List Nat :=
  (ws.flatMap fun w => [fld w 63 0, fld w 127 64]).take (h.stimWords + h.resultWords)

/-- Pairs of consecutive words. -/
def pairUp : List W128 → List (W128 × W128)
  | a :: b :: r => (a, b) :: pairUp r
  | _ => []

/-- A region named by a watch entry or a trigger: a relative one within the state buffer, any other within the partition's bounds, and one of
SPACE 1 within one bank of the partition (R407). -/
def trigRegion (s : State) (p : PartId) (h : Header) (rel space : Bool) (off len : Nat) : Bool :=
  decide (off + len ≤ if rel then h.stateBytes else partLimit s p space) &&
  (!space || (decide (off + len ≤ partLimit s p true) && off / bankBytes == (off + len - 1) / bankBytes))

/-- A 64-bit watch entry (Table 16.1). -/
def watchEntry (s : State) (p : PartId) (h : Header) (e : Nat) : Nat :=
  let pair := e.testBit 61
  let off := e % 2 ^ 38
  if e / 2 ^ 38 % 2 ^ 23 ≠ 0 ∨ off % (if pair then 32 else 16) ≠ 0 then 0x0202
  else if trigRegion s p h (e.testBit 63) (e.testBit 62) off (if pair then 32 else 16) then 0 else 0x0203

/-- First word of a trigger (Table 16.2). -/
def trigHead (s : State) (p : PartId) (h : Header) (w : W128) : Nat :=
  let off := fld w 37 0
  if fld w 127 126 = 3 ∨ fld w 102 38 ≠ 0 ∨ off % 16 ≠ 0 ∨ (bit w 119 ∧ !h.fourState) then 0x0202
  else if trigRegion s p h (bit w 121) (bit w 120) off (if bit w 119 then 32 else 16) then 0 else 0x0203

/-- Word `i` of the TRIGGERS contents, `ws` being those up to it (R407). -/
def triggerWord (s : State) (p : PartId) (h : Header) (xs : List Section) (x : Section) (ws : List W128) (i : Nat) (w : W128) : Nat :=
  let w0 := ws.headD 0
  let wc := fld w0 15 0
  let tc := fld w0 23 16
  let arr := 4 + cdiv wc 2
  if i = 0 then
    if 4096 < wc ∨ 64 < tc ∨ fld w 31 26 ≠ 0 ∨ fld w 63 32 ≠ 0 ∨ fld w 127 64 % 65536 ≠ 0 ∨ x.length ≠ 16 * arr + 48 * tc then 0x0202 else 0
  else if i = 1 then
    let n := fld w 63 0
    if n % 65536 ≠ 0 ∨ n < 262144 ∨ fld w 127 64 ≠ 0 then 0x0202
    else if inReserve xs (fld w0 127 64) n then 0 else 0x0203
  else if i < 4 then (if w = 0 then 0 else 0x0202)
  else if i < arr then
    let a := watchEntry s p h (fld w 63 0)
    if a ≠ 0 then a else if 2 * (i - 4) + 1 < wc then watchEntry s p h (fld w 127 64) else 0
  else if (i - arr) % 3 = 0 then trigHead s p h w
  else 0

/-- The outcome of an image word, or of the end of a load. -/
inductive ImgEnd where
  | ok
  /-- The block fails with a cause, and a detail where a rule gives one (R242). -/
  | fail (cause : Nat) (detail : Option W64)
  /-- The write waits at a bank in handover or at an arbiter that makes no grant (R234, R256). -/
  | wait
deriving DecidableEq, Repr

/-- State and outcome. -/
structure ImgRes where
  s : State
  stop : ImgEnd

/-- The host stream path writes a word at a partition-relative offset (R233, R242). -/
def imgPut (s : State) (p : PartId) (space : Bool) (off : Nat) (w : W128) : ImgRes :=
  let r := writePart s p (.hostPath (ownerOf s p)) (0x80 + p.val) space off w allBytes
  if r.status = 0 then { s := r.s, stop := .ok }
  else if r.status = 9 then { s := noteWaitAt s p (.hostPath (ownerOf s p)) space off, stop := .wait }
  else { s := r.s, stop := .fail (if r.status = 5 then 0x0801 else 0x0803) (some (BitVec.ofNat 64 ((partDev s p space off).getD 0))) }

/-- Words written in order until one stops. -/
def imgPuts (p : PartId) (space : Bool) (f : Nat → W128) : List Nat → ImgRes → ImgRes
  | [], r => r
  | o :: os, r =>
    if r.stop ≠ .ok then r else imgPuts p space f os (imgPut r.s p space o (f o))

/-- A failed check of R33: the load is abandoned. -/
def imgAbandon (s : State) (p : PartId) (cause : Nat) : ImgRes :=
  { s := modPart s p fun q => { q with imageState := 4 }, stop := .fail cause none }

/-- What the checks of R33 say of an image word: the cause of Table 2.5 it fails with, or where it is written, if anywhere. -/
abbrev WordCheck := Except Nat (Option (Bool × Nat))

/-- A content word's check and, at the section's last word, SECT_CRC (R33); where it is written. STATE_INIT is written when the load ends
(R41). -/
def contentWord (s : State) (p : PartId) (h : Header) (xs : List Section) (ws : List W128) (x : Section) (k : Nat) (w : W128) : WordCheck :=
  let own := (ws.drop (ws.length - k)) ++ [w]
  let im : Image := { hdr := h, sections := xs, portMap := [], triggers := [] }
  let c :=
    if x.kind = 9 then portWord h k w
    else if x.kind = 10 then triggerWord s p h xs x own k w
    else if x.kind = 8 ∧ k % 2 = 1 then
      let t := pairUp own
      let pr := (nth own (k - 1) 0, w)
      if slotReserved pr || !slotFields im (k / 2) t pr then 0x0202
      else if slotRegions s p im pr then 0 else 0x0203
    else 0
  if c ≠ 0 then .error c
  else if k + 1 = x.length / 16 ∧ crc32c (bytesOfWords own) ≠ x.crc then .error 0x0202
  else .ok (if x.kind = 5 then none else some (x.space == 1, x.offset + 16 * k))

/-- The checks of an image word as it arrives (R29, R33). -/
def imageWord (s : State) (p : PartId) (w : W128) : WordCheck :=
  let ws := s.parts[p].load
  let i := ws.length
  let b := bytesOfWords ((ws ++ [w]).take 16)
  let h := headerOf b
  if i < 16 then (if headerWordOk b i then .ok none else .error 0x0201)
  else
    let t := i - 16
    if t < 2 * h.sectCount then
      let old := sectionsOf ws (t / 2)
      if t % 2 = 0 then (if entryHeadOk h old w then .ok none else .error 0x0202)
      else
        let x := sectionOf (nth ws (i - 1) 0) w
        let c := entryTail s p h old x w
        let e := if c = 0 ∧ t + 1 = 2 * h.sectCount then tableEnd s p h (old ++ [x]) else c
        if e = 0 then .ok none else .error e
    else
      let xs := sectionsOf ws h.sectCount
      match contentAt xs (t - 2 * h.sectCount) with
      | some (x, k) => contentWord s p h xs ws x k w
      | none => .error 0x0202

/-- All words of the image have arrived. -/
def loadWhole (q : Partition) : Bool :=
  let h := headerOf (bytesOfWords (q.load.take 16))
  decide (16 ≤ q.load.length) && decide (16 + 2 * h.sectCount ≤ q.load.length) &&
  q.load.length == 16 + 2 * h.sectCount + contentWords (sectionsOf q.load h.sectCount)

/-- The image that the words of a whole load spell. -/
def imageOf (ws : List W128) : Image :=
  let h := headerOf (bytesOfWords (ws.take 16))
  let xs := sectionsOf ws h.sectCount
  { hdr := h, sections := xs, portMap := portMapOf h (contentsOf ws xs 9), triggers := contentsOf ws xs 10 }

/-- Word offsets of a region. -/
def regionWords (off len : Nat) : List Nat := (List.range (len / 16)).map fun i => off + 16 * i

/-- The fills at a load's end: zero for sections without contents, logic 0 or X in the state buffers, STATE_INIT over every buffer
(R33, R41, R43). -/
def loadFills (s : State) (p : PartId) (im : Image) (ws : List W128) : ImgRes :=
  let z := im.sections.foldl (fun r x =>
    if x.kind = 7 ∨ x.kind = 11 then imgPuts p (x.space == 1) (fun _ => 0) (regionWords x.offset x.length) r
    else if x.kind = 4 then
      imgPuts p false (fun _ => if im.hdr.fourState then BitVec.allOnes 128 else 0) (regionWords x.offset x.length) r
    else r) { s := s, stop := .ok }
  let bufs := ((im.sections.find? fun x => x.kind == 4).map (·.length)).getD 0 / im.hdr.stateBytes
  let base := 16 + 2 * im.sections.length
  (List.range im.sections.length).foldl (fun r j =>
    match im.sections[j]? with
    | some x =>
      if x.kind = 5 then
        let c := base + contentWords (im.sections.take j)
        (List.range bufs).foldl (fun r m =>
          let b := bufBase im m + x.offset
          imgPuts p false (fun o => nth ws (c + (o - b) / 16) 0) (regionWords b x.length) r) r
      else r
    | none => r) z

/-- Nothing is written for the load now: the freeze stands, the ledger holds, or a bank has not passed to the host stream path yet (R29, R308). -/
def loadStill (s : State) (p : PartId) : Bool := frozen s || s.parts[p].ledger.held || devDraining s p

/-- The load ends (R34): binding, fills, the exchange tables (R268), and the state of a new image (R27, R36, R364). Frames of the image before
are dropped (log 86), and queued jobs make IMAGE_STATE 3 (Table 2.1). Fills that cannot be made yet follow the words that wait for memory, and the
image's words are kept for them. -/
def loadEnd (s : State) (p : PartId) : ImgRes :=
  let ws := s.parts[p].load
  let im := imageOf ws
  let bound := bindVes (bindSet s p) s.parts[p].cfg.paired im.hdr
  if bound.isNone ∧ !pooled s p then imgAbandon s p 0x0204
  else
    let r := if loadStill s p ∨ !s.parts[p].loadQ.isEmpty then { s := s, stop := .wait } else loadFills s p im ws
    match r.stop with
    | .fail c d => { s := r.s, stop := .fail c d }
    | _ =>
      let t := pairUp (contentsOf ws im.sections 8)
      { s := settle (modPart r.s p fun q =>
          { q with imageState := 2, designCycle := 0, load := if r.stop = .ok then [] else ws, image := some im, bind := bound.getD []
                   curBuf := 0, fresh := true, handDue := true, frames := [], released := 0, undo := [], undoNext := 0
                   exchTables := .replicate 2 t, exchSlotsAct := BitVec.ofNat 16 im.hdr.exchSlots, swapDue := false
                   cfg := { q.cfg with exchShadowSlots := BitVec.ofNat 16 im.hdr.exchSlots, exchSwap := false }
                   exchWraps := 0, exchWords := 0, energyModel := BitVec.ofNat 32 im.hdr.energyNj
                   usedNj := 0, accNj := 0, accCycles := 0, energyUsed := 0
                   farIngest := 0, farAgain := false, stateLost := false, agreed := 0, rollbacks := 0, mismatchAt := 0, mismatchRepeat := 0
                   trace := .reset
                   streams := updV (updV q.streams 3 fun st => { st with ready := [] }) 4 fun st =>
                     { st with out := st.out.map fun b => { b with recs := 0 } } }) p
        stop := .ok }

/-- A load that has ended still has fills to make: no segment starts before (log 108). -/
def fillDue (q : Partition) : Bool := (q.imageState == 2 || q.imageState == 3) && (!q.load.isEmpty || !q.loadQ.isEmpty)

/-- The fills of a load that has ended are made once every image word is written; one that its target refuses is lost (log 108). -/
def fillGo (s : State) (p : PartId) : State :=
  let q := s.parts[p]
  match q.image with
  | some im =>
    if !fillDue q || loadStill s p || !q.loadQ.isEmpty then s
    else
      let r := loadFills s p im q.load
      if r.stop = .wait then r.s else modPart r.s p fun q => { q with load := [] }
  | none => s

end Sys2Proof.Machine
end

