-- ==== Sys2Proof/Machine/Streams.lean ====
section
/-!
DEFINITION. Stream entries (R295-R303): the words of in-stream blocks, their checks and ends, the receive buffer of a host port, and the
presentation and completion of out blocks.
-/

namespace Sys2Proof.Machine

/-! ### Forwarding to the twin (R399) -/

/-- The partition's inputs are forwarded. -/
def forwards (s : State) (p : PartId) : Bool := twinActive s p && s.twin.primary

/-- A forwarded input, in frames of at most 256 payload words. -/
def forward (s : State) (kind : Nat) (p : PartId) (k x : Nat) (body : List W128) : State :=
  if body.isEmpty then sendFrame s 0x02 [inputWord kind p k x]
  else (chunks 255 body).foldl (fun t c => sendFrame t 0x02 (inputWord kind p k x :: c)) s

/-! ### In-stream blocks -/

/-- Item kind of a block on entry k (Table 11.10). -/
def blockKind (k : Fin 8) : Nat := 0x10 + k.val

/-- Detail of the causes 0x0B01-0x0B08 (R311). -/
def blockDetail (len got : Nat) : W64 := at' 64 32 len ||| BitVec.ofNat 64 (got % 2 ^ 13)

/-- A cause whose detail R311 lays out. -/
def isBlockCause (c : Nat) : Bool := decide (0x0B01 ≤ c ∧ c ≤ 0x0B08)

/-- An in-stream block fails: FAILS and its record (R300, R311); `got` are the words received, header included. -/
def blockFails (s : State) (p : PartId) (k : Fin 8) (b : InBlock) (cause : Nat) (detail : Option W64) : State :=
  ledgerItem (modStream s p k fun st => { st with fails := satInc st.fails }) p b.seq (blockKind k) cause
    (if isBlockCause cause then some (blockDetail b.len (b.got.length + 1)) else detail)

/-- The image words from position `mark` on are dropped: the load's position returns there (R450). -/
def dropLoad (s : State) (p : PartId) (mark left : Nat) : State :=
  modPart s p fun q =>
    { q with load := if q.imageState = 1 then q.load.take mark else q.load, loadQ := q.loadQ.take (q.loadQ.length - left) }

/-- The block in progress fails and the entry is between blocks: its words are removed, and a load's position returns to the block's first
word (R300, R450). A block that has failed before ends only once. -/
def failBlock (s : State) (p : PartId) (k : Fin 8) (b : InBlock) (cause : Nat) (detail : Option W64) : State :=
  let s1 := modStream s p k fun st => { st with cur := none }
  if b.skip then s1
  else blockFails (if k.val = 1 then dropLoad s1 p b.mark b.left else s1) p k b cause detail

/-- The block in progress fails and its remaining words pass by with the entry in step (R300). -/
def failSkip (s : State) (p : PartId) (k : Fin 8) (b : InBlock) (cause : Nat) (detail : Option W64) : State :=
  let s1 := failBlock s p k b cause detail
  if b.got.length < b.len then modStream s1 p k fun st => { st with cur := some { b with skip := true } } else s1

/-- Job segments accepted and not yet ended (JOBS_QUEUED). -/
def jobsQueued (q : Partition) : Nat := q.jobs.length + q.run.isSome.toNat + q.save.isSome.toNat + q.restore.isSome.toNat

/-- A job that joins the queue now meets no valid image (R28); a descriptor that waits in the FIFO is judged when it joins (log 112). -/
def earlyJob (q : Partition) : Bool := q.imageState == 0 || q.imageState == 1 || q.imageState == 4

/-- Descriptors join the job queue while it has room (R305). -/
def takeJobs (p : PartId) : Nat → State → State
  | 0, s => s
  | n + 1, s =>
    match s.parts[p].streams[(0 : Fin 8)].fifo with
    | a :: b :: r =>
      if s.parts[p].ledger.held || decide (64 ≤ jobsQueued s.parts[p]) then s
      else takeJobs p n (settle (modPart (modStream s p 0 fun st => { st with fifo := r }) p fun q =>
        { q with jobs := q.jobs ++ [{ w0 := a, w1 := b, early := earlyJob q }] }) p)
    | _ => s

/-- Descriptors join the queue as far as they can. -/
def joinJobs (s : State) (p : PartId) : State := takeJobs p s.parts[p].streams[(0 : Fin 8)].fifo.length s

/-- A received block completes: BLOCKS and its record; its payload acts (R300, Table 11.4). -/
def completeBlock (s : State) (p : PartId) (k : Fin 8) (b : InBlock) : State :=
  let s1 := modStream s p k fun st => { st with blocks := st.blocks + 1, fifo := if k.val = 1 then st.fifo else st.fifo ++ b.got }
  let s2 := ledgerEnd s1 p b.seq (blockKind k) 0 (BitVec.ofNat 64 b.len)
  if k.val = 0 then joinJobs s2 p else s2

/-- Every word of the image has come and the load has not ended (R34). -/
def loadEnding (s : State) (p : PartId) : Bool := s.parts[p].imageState == 1 && loadWhole s.parts[p]

/-- A header on entry 1 that passed Table 11.7: refused by IMAGE_STATE, or the beginning or next block of a load (R28, R29, R33). -/
def loadBlock (s : State) (p : PartId) : Option Nat × State :=
  let q := s.parts[p]
  if q.imageState = 3 then (some 0x0206, s)
  else if q.imageState = 4 then (some 0x0207, s)
  else if q.imageState = 1 then (none, s)
  else (none, banksToHost (modPart s p fun q => { q with imageState := 1, image := none, bind := [], load := [], loadQ := [] }) p)

/-- The checks of Table 11.7 after those of the header's form, in order. -/
def headerSkip (s : State) (p : PartId) (k : Fin 8) (seq : W32) (len : Nat) : Option Nat :=
  if seq ≠ s.parts[p].streams[k].seqIn then some 0x0B02
  else if k.val = 7 ∧ s.parts[p].restore.isNone then some 0x0B08
  else if k.val = 0 ∧ len % 2 = 1 then some 0x0B01
  else if s.parts[p].fenced then some 0x0F03
  else if partMemFenced s p then some 0x0803
  else if s.crc.all (·.fenced) then some 0x0F06
  else none

/-- The block that a header announces (R298). -/
def headBlock (w : W128) (mark : Nat) : InBlock :=
  { seq := BitVec.ofNat 32 (fld w 127 96), len := fld w 75 64 + 1, crc := BitVec.ofNat 32 (fld w 63 32), got := [], skip := false, wait := none
    mark := mark, left := 0 }

/-- A header word (R298, R300): a block that fails at its header ends there. -/
def headerWord (s : State) (p : PartId) (k : Fin 8) (w : W128) : State :=
  let len := fld w 75 64 + 1
  let b := headBlock w s.parts[p].load.length
  let toDiscard (b : InBlock) : State := modStream (blockFails s p k b 0x0B01 none) p k fun st =>
    { st with discard := true, discarded := satAdd st.discarded st.raw.length, raw := [] }
  let skipped (t : State) (c : Nat) : State :=
    modStream (blockFails t p k b c none) p k fun st => { st with cur := some { b with skip := true } }
  if fld w 95 88 ≠ 0xA5 ∨ fld w 87 76 ≠ 0 ∨ fld w 31 4 ≠ 0 ∨ bit w 3 ∨ fld w 2 0 ≠ k.val then toDiscard { b with len := 0 }
  else if k.val ≠ 1 ∧ s.parts[p].streams[k].depth.toNat < len + 1 then toDiscard b
  else
    match headerSkip s p k b.seq len with
    | some c => skipped s c
    | none =>
      let r := if k.val = 1 then loadBlock s p else (none, s)
      match r.1 with
      | some c => skipped r.2 c
      | none =>
        let s1 := modStream r.2 p k fun st => { st with cur := some { b with mark := r.2.parts[p].load.length } }
        if forwards s p then forward s1 0 p k.val 0 [w] else s1

/-- The received block ends once it waits for nothing more (R300, R399): with the image's last word the load ends (R34). -/
def endRecvd (s : State) (p : PartId) (k : Fin 8) : State :=
  match s.parts[p].streams[k].recvd with
  | [] => s
  | b :: r =>
    if b.wait.isSome then s
    else
      let s1 := modStream s p k fun st => { st with recvd := r }
      let x := if k.val = 1 ∧ loadEnding s1 p then loadEnd s1 p else { s := s1, stop := .ok }
      match x.stop with
      | .fail c d => blockFails (dropLoad (modStream x.s p k fun st => { st with seqIn := b.seq }) p b.mark b.left) p k b c d
      | _ => completeBlock x.s p k b

/-- Every payload word of the block has come (R300): a wrong CRC fails it; else it is received, NEXT_SEQ increments, and the twin gets its
payload (R399). -/
def endBlock (s : State) (p : PartId) (k : Fin 8) (b : InBlock) : State :=
  if crcBlock b.seq b.got ≠ b.crc then failBlock s p k b 0x0B03 none
  else
    let s1 := if forwards s p then forward s 1 p k.val 0 b.got else s
    let b1 := if forwards s p then { b with wait := some (s1.twin.sendSeq - 1) } else b
    endRecvd (modStream s1 p k fun st => { st with cur := none, recvd := st.recvd ++ [b1], seqIn := st.seqIn + 1 }) p k

/-! ### Entry 1 drains as memory accepts its words (R302) -/

/-- The first word of the queue has left it. -/
def wordTaken (s : State) (p : PartId) : State := modPart s p fun q => { q with loadQ := q.loadQ.drop 1 }

/-- The write of the queue's first word is refused. A word of the block in flight fails it: the position returns to the block's first word, and
NEXT_SEQ does not advance (R300, R450). The word of a block that has completed is lost (log 108). -/
def writeFails (s : State) (p : PartId) (c : Nat) (d : Option W64) : State :=
  let st := s.parts[p].streams[(1 : Fin 8)]
  let mine (b : InBlock) : Bool := !b.skip && decide (s.parts[p].loadQ.length ≤ b.left)
  match st.cur, st.recvd with
  | some b, _ => if mine b then failSkip s p 1 b c d else wordTaken s p
  | none, b :: r =>
    if mine b then
      blockFails (dropLoad (modStream s p 1 fun st => { st with recvd := r, seqIn := b.seq }) p b.mark b.left) p 1 b c d
    else wordTaken s p
  | none, [] => wordTaken s p

/-- The words that wait for memory are written in order; none before every bank of the partition has passed to the host stream path (R29),
none in the hold of R308 or while the freeze stands. -/
def drainLoad (p : PartId) : Nat → State → State
  | 0, s => s
  | n + 1, s =>
    match s.parts[p].loadQ with
    | [] => s
    | (_, x) :: _ =>
      if loadStill s p then s
      else
        match x with
        | none => drainLoad p n (wordTaken s p)
        | some (space, off) =>
          let r := imgPut s p space off ((s.parts[p].loadQ.headD (0, none)).1)
          match r.stop with
          | .ok => drainLoad p n (wordTaken r.s p)
          | .wait => r.s
          | .fail c d => drainLoad p n (writeFails r.s p c d)

/-- Entry 1 goes on: its words are written, then what a load that has ended still has to fill. -/
def loadGo (s : State) (p : PartId) : State := fillGo (drainLoad p s.parts[p].loadQ.length s) p

/-- An image word (R33): its checks, and its place among the words that wait for memory, which are written as they arrive (R300). -/
def imageInWord (s : State) (p : PartId) (b : InBlock) (w : W128) : State :=
  let b1 := { b with got := b.got ++ [w] }
  let put (t : State) (b : InBlock) : State := modStream t p 1 fun st => { st with cur := some b }
  if s.parts[p].imageState ≠ 1 then (if b1.got.length = b1.len then endBlock (put s b1) p 1 b1 else put s b1)
  else
    match imageWord s p w with
    | .error c => failSkip (imgAbandon s p c).s p 1 b1 c none
    | .ok x =>
      let b2 := { b1 with left := b.left + 1 }
      let s1 := loadGo (put (modPart s p fun q => { q with load := q.load ++ [w], loadQ := q.loadQ ++ [(w, x)] }) b2) p
      match s1.parts[p].streams[(1 : Fin 8)].cur with
      | some b3 => if !b3.skip ∧ b3.got.length = b3.len then endBlock s1 p 1 b3 else s1
      | none => s1

/-- One word read by an in-stream entry: a header, a word of a block that failed, or a payload word (R300). -/
def feedWord (s : State) (p : PartId) (k : Fin 8) (w : W128) : State :=
  match s.parts[p].streams[k].cur with
  | none => headerWord s p k w
  | some b =>
    let b1 := { b with got := b.got ++ [w] }
    if b.skip then modStream s p k fun st => { st with cur := if b1.got.length = b.len then none else some b1 }
    else if k.val = 1 then imageInWord s p b w
    else
      let s1 := modStream s p k fun st => { st with cur := some b1 }
      if b1.got.length = b.len then endBlock s1 p k b1 else s1

/-- The entry reads no word now: its last block is still in flight, or the ledger holds (R308, log 107). -/
def mustWait (s : State) (p : PartId) (k : Fin 8) : Bool :=
  let st := s.parts[p].streams[k]
  st.cur.isNone && (!st.recvd.isEmpty || s.parts[p].ledger.held)

/-- Words that were held behind a block are read. -/
def readRaw (p : PartId) (k : Fin 8) : Nat → State → State
  | 0, s => s
  | n + 1, s =>
    match s.parts[p].streams[k].raw with
    | [] => s
    | w :: r => if mustWait s p k then s else readRaw p k n (feedWord (modStream s p k fun st => { st with raw := r }) p k w)

/-- The received block of an entry ends if it can, and the words behind it are read. -/
def endBlocks (s : State) (p : PartId) (k : Fin 8) : State :=
  let t := endRecvd s p k
  readRaw p k t.parts[p].streams[k].raw.length t

/-- Words held behind a block cut into blocks: how many belong to whole ones, and the block that has not come whole (R298). -/
def rawTail (ws : List W128) : Nat × Option InBlock :=
  ws.foldl (fun x w =>
    match x.2 with
    | none => (x.1, some (headBlock w 0))
    | some b => if b.got.length + 1 = b.len then (x.1 + b.len + 1, none) else (x.1, some { b with got := b.got ++ [w] })) (0, none)

/-- A word needs no room in the FIFO: it passes by (R295). -/
def needsNone (s : State) (p : PartId) (k : Fin 8) : Bool :=
  match s.parts[p].streams[k].cur with
  | some b => b.skip
  | none => k.val == 7 && s.parts[p].restore.isNone

/-- A word that arrives at the port's side of the entry: discarded in discard (R301), taken, or refused for want of room (R302). -/
def pushWord (s : State) (p : PartId) (k : Fin 8) (w : W128) : Option State :=
  let st := s.parts[p].streams[k]
  let room := decide (streamLevel s p k < st.depth.toNat)
  if st.discard then some (modStream s p k fun st => { st with discarded := satInc st.discarded })
  else if mustWait s p k || !st.raw.isEmpty then (if room then some (modStream s p k fun st => { st with raw := st.raw ++ [w] }) else none)
  else if needsNone s p k || room then some (feedWord s p k w)
  else none

/-- Words pushed in order; those from the first that finds no room are left. -/
def pushWords (p : PartId) (k : Fin 8) : List W128 → State → List W128 × State
  | [], s => ([], s)
  | w :: ws, s =>
    match pushWord s p k w with
    | some t => pushWords p k ws t
    | none => (w :: ws, s)

/-- Words held in a port's receive buffer enter their FIFO as room appears, in order (R302). -/
def drainRx (h : PortId) : Nat → State → State
  | 0, s => s
  | n + 1, s =>
    match s.ports[h].rx with
    | [] => s
    | x :: r =>
      let y := pushWords x.part x.k x.words s
      if y.1.isEmpty then drainRx h n (modPort y.2 h fun t => { t with rx := r })
      else modPort y.2 h fun t => { t with rx := { x with words := y.1 } :: r }

/-- Entries with an in-stream side. -/
def inEntries : List (Fin 8) := [0, 1, 2, 7]

/-- What follows when a FIFO of partition `p` gains room or a wait ends: undrained words, blocks in flight and what stands behind them,
descriptors and the port's receive buffer move on. -/
def kick (s : State) (p : PartId) : State :=
  let s1 := joinJobs (inEntries.foldl (fun t k => endBlocks t p k) (loadGo s p)) p
  let h := ownerOf s p
  msix (drainRx h s1.ports[h].rx.length s1) p

/-- The push block that has partly arrived on entry `k`, its words dropped: the one in progress, or one that stands behind a block in flight. -/
def failPush (s : State) (p : PartId) (k : Fin 8) (cause : Nat) (detail : Option W64) : State :=
  let st := s.parts[p].streams[k]
  match st.cur, rawTail st.raw with
  | some b, _ => failBlock s p k b cause detail
  | none, (n, some b) => blockFails (modStream s p k fun st => { st with raw := st.raw.take n }) p k b cause detail
  | none, (_, none) => s

/-- Push blocks in progress fail and the entries are between blocks again (R265, R293, R309); blocks received whole stay. -/
def failPushes (s : State) (p : PartId) (cause : Nat) (detail : Option W64) : State := inEntries.foldl (fun t k => failPush t p k cause detail) s

/-- Push blocks in progress and received blocks whose item has not ended fail (R395, R241): NEXT_SEQ returns to the first of them. -/
def failItems (s : State) (p : PartId) (cause : Nat) (detail : Option W64) : State :=
  inEntries.foldl (fun t k =>
    let bs := t.parts[p].streams[k].recvd
    let t1 := modStream t p k fun st => { st with recvd := [], seqIn := (bs.head?.map (·.seq)).getD st.seqIn }
    let t2 := match k.val == 1, bs with
      | true, b :: _ => dropLoad t1 p b.mark b.left
      | _, _ => t1
    bs.foldl (fun u b => blockFails u p k b cause detail) t2) (failPushes s p cause detail)

/-- Out blocks partly read are presented again from their header (R288, R293). -/
def rewindOut (s : State) (p : PartId) : State :=
  modPart s p fun q => { q with streams := q.streams.map fun st => { st with out := st.out.map fun b => { b with read := 0 } } }

/-- Partitions that port `h` owns. -/
def ownedBy (s : State) (h : PortId) : List PartId := (List.finRange 16).filter fun p => ownerOf s p = h

/-! ### Out blocks -/

/-- The entry may present a block of `n` payload words now (R303, R308, R385); a paired secondary presents none (R398). -/
def canPresent (s : State) (p : PartId) (k : Fin 8) (n : Nat) : Bool :=
  let st := s.parts[p].streams[k]
  (!twinActive s p || s.twin.primary) && (k.val == 6 || !s.parts[p].ledger.held) && !s.crc.all (·.fenced) && decide (st.out.length < 16) &&
  decide (outHeld st + n + 1 ≤ st.depth.toNat)

/-- A block is presented: its header with SEQ, LEN_M1, CRC and DIR 1 enters with its payload (R298, R299, R303). -/
def presentBlock (s : State) (p : PartId) (k : Fin 8) (pay : List W128) (last : Bool) (recs : Nat) : State :=
  let seq := s.parts[p].streams[k].seqOut
  let hdr : W128 := at' 128 96 seq.toNat ||| at' 128 88 0xA5 ||| at' 128 64 (pay.length - 1) ||| at' 128 32 (crcBlock seq pay).toNat |||
    at' 128 3 1 ||| BitVec.ofNat 128 k.val
  msix (modStream s p k fun st =>
    { st with seqOut := st.seqOut + 1, out := st.out ++ [{ seq := seq, words := hdr :: pay, read := 0, replay := false, last := last, recs := recs }] }) p

/-- The limit of a block on entries 4-6 (R303). -/
def outLimit (st : Stream) : Nat := min 4096 (st.depth.toNat - 1)

/-- The event queue presents what it holds; the records stop being open (R344), and a lost one appears as source 722 (R356). -/
def presentEvents (s : State) (p : PartId) : State :=
  let st := s.parts[p].streams[(5 : Fin 8)]
  let n := min (outLimit st) s.ev.hostRing[p].recs.length
  if n = 0 ∨ !st.out.isEmpty ∨ !canPresent s p 5 n then s
  else
    let recs := s.ev.hostRing[p].recs.take n
    let s1 := modRing s (.host p) fun g =>
      { g with recs := (g.recs.take n).map (fun e => { e with isOpen := false }) ++ g.recs.drop n }
    presentBlock s1 p 5 (recs.map (readRec (.host p))) false n

/-- The ledger presents what it holds. -/
def presentLedger (s : State) (p : PartId) : State :=
  let st := s.parts[p].streams[(6 : Fin 8)]
  let n := min (outLimit st) s.parts[p].ledger.ring.length
  if n = 0 ∨ !st.out.isEmpty ∨ !canPresent s p 6 n then s
  else presentBlock s p 6 (s.parts[p].ledger.ring.take n) false n

/-- Blocks that wait in `ready` (result and checkpoint blocks) are presented while there is room. -/
def presentReady (p : PartId) (k : Fin 8) : Nat → State → State
  | 0, s => s
  | n + 1, s =>
    match s.parts[p].streams[k].ready with
    | [] => s
    | b :: r =>
      if canPresent s p k b.words.length then
        presentReady p k n (modStream (presentBlock s p k b.words b.last b.recs) p k fun st => { st with ready := r })
      else s

/-- Event 722 for each lost record that a completed block carried (R356). -/
def lostNotices (s : State) (p : PartId) (recs : List EvRec) : State :=
  recs.foldl (fun t e => if e.lost then raiseN t 722 (lostRec (.host p) e).detail else t) s

/-- An out block completes (R299, R303): its item ends, its records leave their ring, and the twin hears of it (R399). A replay ends nothing. -/
def completeOut (s : State) (p : PartId) (k : Fin 8) (b : OutBlock) : State :=
  if b.replay then s
  else
    let s1 := modStream s p k fun st => { st with blocks := st.blocks + 1, kept := (st.kept ++ [b]).drop (st.kept.length - 3) }
    let s2 :=
      if k.val = 5 then
        let lost := (s1.ev.hostRing[p].recs.take b.recs)
        lostNotices (ringDrop s1 (.host p) b.recs) p lost
      else if k.val = 6 then ledgerTake s1 p b.recs
      else if k.val = 4 then modPart s1 p fun q => { q with trace := { q.trace with tail := q.trace.tail + b.recs } }
      else s1
    -- of a ledger block, only the records that the secondary mirrors leave its mirror (R403)
    let n := if k.val = 6 then b.recs - s.parts[p].ledger.uncopied else b.recs
    let s3 := if forwards s p then sendFrame s2 0x05 [inputWord 0 p k.val n ||| at' 128 64 b.seq.toNat] else s2
    let s4 := if k.val = 6 then s3 else ledgerEnd s3 p b.seq (blockKind k) 0 (BitVec.ofNat 64 (b.words.length - 1))
    match k.val == 7 && b.recs != 0, s4.parts[p].save with
    | true, some (j, _) => settle (ledgerItem (modPart s4 p fun q => { q with save := none }) p (jobId j) 0x02 0 none) p
    | _, _ => s4

/-- Words read from an out entry (R303). -/
def readOut (p : PartId) (k : Fin 8) : Nat → State → List W128 × State
  | 0, s => ([], s)
  | n + 1, s =>
    match s.parts[p].streams[k].out with
    | [] =>
      let y := readOut p k n s
      ((0 : W128) :: y.1, y.2)
    | b :: r =>
      let w := nth b.words b.read 0
      let s1 := if b.read + 1 < b.words.length then
          modStream s p k fun st => { st with out := { b with read := b.read + 1 } :: r }
        else completeOut (modStream s p k fun st => { st with out := r }) p k b
      let y := readOut p k n s1
      (w :: y.1, y.2)

/-! ### Entries -/

/-- NEXT_SEQ (Table 11.5, R295). -/
def nextSeq (q : Partition) (k : Fin 8) : W32 := if actsIn q k then q.streams[k].seqIn else q.streams[k].seqOut

/-- A block is in progress on the entry: partly pushed or partly read (R297). -/
def blockBusy (st : Stream) : Bool := st.cur.isSome || st.out.any fun b => b.read != 0

/-- STREAM_STATE (Table 11.5, R295, R309). -/
def streamState (s : State) (p : PartId) (k : Fin 8) : Nat :=
  let st := s.parts[p].streams[k]
  if !portServes s p then 3
  else if st.discard then 2
  else if actsIn s.parts[p] k then (if st.cur.isSome then 1 else 0)
  else if st.out.any fun b => b.read != 0 then 1 else 0

/-- RESYNC: a write of 1 ends discard (R301). -/
def resyncOp (s : State) (p : PartId) (k : Fin 8) (v : Nat) : State :=
  if v = 1 then modStream s p k fun st => { st with discard := false } else s

/-- REPLAY_SEQ: the block with this SEQ among the last four is presented again, ahead of blocks not yet presented (R299). -/
def replayOp (s : State) (p : PartId) (k : Fin 8) (v : W32) : Option State :=
  let st := s.parts[p].streams[k]
  if (st.out.any fun b => b.read != 0) || s.crc.all (·.fenced) then none
  else match st.kept.find? fun b => b.seq == v with
    | some b => some (msix (modStream s p k fun st => { st with out := st.out ++ [{ b with read := 0, replay := true, last := false }] }) p)
    | none => none

end Sys2Proof.Machine
end

