-- ==== Sys2Proof/Machine/Trace.lean ====
section
/-!
DEFINITION. The crow's nest's trace (R407-R413): triggers, cycle records, the trace ring and its presentation on stream entry 4.
-/

namespace Sys2Proof.Machine

/-- The trigger section of an image, by its fields (Table 16.1). -/
structure TrigSect where
  autostart : Bool
  fullHold : Bool
  off : Nat
  bytes : Nat
  watch : List Nat
  trigs : List (W128 × W128 × W128)

/-- Three words at a time. -/
def triples : List W128 → List (W128 × W128 × W128)
  | a :: b :: c :: r => (a, b, c) :: triples r
  | _ => []

/-- The fields of a TRIGGERS section; none where the image has none. -/
def trigSect (im : Image) : Option TrigSect :=
  match im.triggers with
  | w0 :: w1 :: _ =>
    let wc := fld w0 15 0
    let arr := 4 + cdiv wc 2
    some { autostart := bit w0 24, fullHold := bit w0 25, off := fld w0 127 64, bytes := fld w1 63 0
           watch := (((im.triggers.drop 4).take (cdiv wc 2)).flatMap fun w => [fld w 63 0, fld w 127 64]).take wc
           trigs := (triples (im.triggers.drop arr)).take (fld w0 23 16) }
  | _ => none

/-- Lowest VE of a set. -/
def lowestVe (x : W64) : Option VeId := (vesOf x).head?

/-- The lead die of a partition (R408). -/
def leadDie (s : State) (p : PartId) : DieId :=
  match lowestVe (if pooled s p then s.pw.poolSet else s.parts[p].cfg.veSet) with
  | some n => dieOfVe n
  | none => 0

/-- The base of the current state buffer. -/
def curBase (s : State) (p : PartId) : Nat :=
  match s.parts[p].image with
  | some im => bufBase im s.parts[p].curBuf
  | none => 0

/-- A word read by the crow's nest of die `d`: HBM directly, a bank through the tap port of its own die (R408, R237). -/
def nestRead (s : State) (p : PartId) (d : DieId) (rel space : Bool) (off : Nat) : Acc :=
  let x := if rel then curBase s p + off else off
  match partDev s p (space && !rel) x with
  | none => { data := 0, status := 4, s := s }
  | some a =>
    match unitOf s a with
    | some (.bank b) =>
      if reachable s d.val (b.val / 64) then
        viaTap s (.nest (dieOfBank b)) b fun t => tapWord t (b.val / 64) b (0xC0 + b.val / 64) (a / 16 * 16)
      else { data := BitVec.allOnes 128, status := 8, s := s }
    | _ => via s (.nest d) a fun t => readWord t d.val 0 (a / 16 * 16)

/-- A watch entry's words, v first, and the first bad status (R411). -/
def watchRead (s : State) (p : PartId) (d : DieId) (e : Nat) : List W128 × Nat × State :=
  let off := e % 2 ^ 38
  let a := nestRead s p d (e.testBit 63) (e.testBit 62) off
  if e.testBit 61 then
    let b := nestRead a.s p d (e.testBit 63) (e.testBit 62) (off + 16)
    ([a.data, b.data], if a.status ≠ 0 then a.status else b.status, b.s)
  else ([a.data], a.status, a.s)

/-- The word a trigger compares, at OFFSET + 16 PLANE; a failing read gives a free value (log 2), and status 9 says that it waits (R256). -/
def trigRead (s : State) (p : PartId) (d : DieId) (t : W128) : Acc :=
  let r := nestRead s p d (bit t 121) (bit t 120) (fld t 37 0 + 16 * fld t 119 119)
  if r.status = 0 ∨ r.status = 9 then r else { data := (drawWord r.s).1, status := 0, s := (drawWord r.s).2 }

/-- COND of a trigger (Table 16.2). -/
def trigHolds (t : W128 × W128 × W128) (prev now : W128) : Bool :=
  let m := t.2.1
  let c := fld t.1 127 126
  if c = 0 then (prev &&& m) != (now &&& m)
  else if c = 1 then (now &&& m) == (t.2.2 &&& m)
  else (now &&& m) != (t.2.2 &&& m)

/-- All trigger words, in order, and whether one of the reads waits. -/
def trigReads (p : PartId) (d : DieId) : List (W128 × W128 × W128) → State → List W128 × Bool × State
  | [], s => ([], false, s)
  | t :: ts, s =>
    let r := trigRead s p d t.1
    let y := trigReads p d ts r.s
    (r.data :: y.1, r.status == 9 || y.2.1, y.2.2)

/-- A traced segment holds `n` trigger slots of die `d`, which the triggers' counters and previous values stand in (R409). -/
def holdTriggers (s : State) (p : PartId) (d : DieId) (n : Nat) (st : Fin 4) (counts : List Nat) (prev : List W128) : State :=
  modPart { s with fz := { s.fz with trigFree := updV s.fz.trigFree d (· - n) } } p fun q => { q with trace :=
    { q.trace with state := st, slots := some (d, n), counts := counts, prev := prev, first := true, lostPend := false, past := [] } }

/-- Trace is armed at a segment's start: its trigger slots, counters and previous values (R409); none while a trigger word's read waits (R256). -/
def armTrace (s : State) (p : PartId) (t : TrigSect) : Option State :=
  let d := leadDie s p
  let n := t.trigs.length
  let r := trigReads p d t.trigs s
  if r.2.1 then none else some (holdTriggers r.2.2 p d n (if t.autostart then 2 else 1) (List.replicate n 0) r.1)

/-- Words of the trace ring. -/
def ringWords (t : TrigSect) : Nat := (t.bytes - 0x20000) / 16

/-- Partition-relative offset of ring word `i`. -/
def ringOff (t : TrigSect) (i : Nat) : Nat := t.off + 0x20000 + 16 * (i % ringWords t)

/-- Offset of the shadow of watch entry `i`: 32 bytes each in the first 128 KiB (log 36). -/
def shadowOff (t : TrigSect) (i : Nat) : Nat := t.off + 32 * i

/-- Every watch entry is read, with an event for each read that fails: its number, its words and its status (R410, R411). -/
def watchReads (p : PartId) (d : DieId) : List (Nat × Nat) → State → List (Nat × List W128 × Nat) × State
  | [], s => ([], s)
  | (e, i) :: es, s =>
    let x := watchRead s p d e
    let s1 := if x.2.1 = 0 then x.2.2
      else raiseN x.2.2 (738 + 8 * d.val) (at' 32 28 p.val ||| at' 32 16 i ||| BitVec.ofNat 32 x.2.1)
    let y := watchReads p d es s1
    ((i, x.1, x.2.1) :: y.1, y.2)

/-- What a cycle record takes of the watched values: entries to record with their words, whether a read failed, a shadow's write met a fence or an
access waits, and the state. -/
structure Watched where
  s : State
  out : List (Nat × List W128)
  err : Bool
  fenced : Bool
  wait : Bool

/-- Each entry is compared with its shadow, which takes the new value; one whose read failed is recorded with zero words (R411). -/
def watchAll (p : PartId) (d : DieId) (t : TrigSect) (first : Bool) : List (Nat × List W128 × Nat) → Watched → Watched
  | [], r => r
  | (i, ws, st) :: es, r =>
    if st ≠ 0 then watchAll p d t first es { r with out := r.out ++ [(i, ws.map fun _ => 0)], err := true }
    else
      let old := readRun r.s p (.nest d) 0 false (shadowOff t i) ws.length
      if !first && old.1 == ws then watchAll p d t first es { r with s := old.2.2 }
      else
        let w := writeRun old.2.2 p (.nest d) 0 false (shadowOff t i) ws
        let still := [old.2.1.map (·.2), w.1.map (·.2)].contains (some 9)
        watchAll p d t first es { s := w.2, out := r.out ++ [(i, ws)], err := r.err, fenced := r.fenced || w.1.isSome, wait := r.wait || still }

/-- Index words: eight 16-bit indices each, unused ones 0xFFFF (R411). -/
def indexWords (ix : List Nat) : List W128 :=
  (chunks 8 ix).map fun c => (List.range 8).foldl (fun w j => w ||| at' 128 (16 * j) (nth c j 0xFFFF)) 0

/-- The words of a cycle record (Table 16.3). -/
def cycleRecord (k : Nat) (out : List (Nat × List W128)) (first cut lost trig err : Bool) : List W128 :=
  let body := indexWords (out.map (·.1)) ++ out.flatMap (·.2)
  let tag : W32 := BitVec.ofNat 32 k
  (at' 128 64 k ||| at' 128 48 out.length ||| at' 128 47 first.toNat ||| at' 128 46 cut.toNat ||| at' 128 45 lost.toNat ||| at' 128 44 trig.toNat |||
    at' 128 43 err.toNat ||| at' 128 0 (crcBlock tag body).toNat) :: body

/-- Words appended to the trace ring as one record, and the status of the write that ended it: 9 where it waits, another where it met a fence
(R412, R256). -/
def traceWords (s : State) (p : PartId) (d : DieId) (t : TrigSect) (k : Nat) (ws : List W128) : State × Nat :=
  let h := s.parts[p].trace.head
  let r := (ws.zipIdx).foldl (fun (x : State × Nat) (w, i) =>
    if x.2 ≠ 0 then x
    else
      let a := writePart x.1 p (.nest d) 0 false (ringOff t (h + i)) w allBytes
      (a.s, a.status)) (s, 0)
  if r.2 ≠ 0 then r
  else (modPart r.1 p fun q => { q with trace :=
    { q.trace with head := h + ws.length
                   recs := (q.trace.recs.filter fun x => decide (q.agreed.toNat < x.1)) ++ [(k, ws.length)] } }, 0)

/-- Capture stops for the segment (R412, R385). -/
def stopTrace (s : State) (p : PartId) (d : DieId) : State :=
  raiseN (modPart s p fun q => { q with trace := { q.trace with state := 3 } }) (739 + 8 * d.val) (BitVec.ofNat 32 p.val)

/-- The crow's nest of die `d` has no unfenced CRC unit (R385). -/
def nestNoCrc (s : State) (d : DieId) : Bool := (List.finRange 4).all fun i => s.crc[(⟨4 * d.val + i.val, by omega⟩ : CrcId)].fenced

/-- The cycle record of design cycle `k`: written whole, or a header alone for want of room, or nothing in a run of lost cycles (R411, R412). A
reset of the unit cuts capture short: the record is a header marked incomplete, and capture has broken off (R262). None while an access of it
waits (R256). -/
def writeRecord (s : State) (p : PartId) (d : DieId) (t : TrigSect) (k : Nat) (ws : List (Nat × List W128 × Nat)) (trig cut : Bool) :
    Option State :=
  let tr := s.parts[p].trace
  let w : Watched := if cut then { s := s, out := [], err := false, fenced := false, wait := false }
    else watchAll p d t tr.first ws { s := s, out := [], err := false, fenced := false, wait := false }
  let put (u : State) (rec' : List W128) (f : State → State) : Option State :=
    let r := traceWords u p d t k rec'
    if r.2 = 9 then none else if r.2 ≠ 0 then some (stopTrace r.1 p d) else some (f r.1)
  if w.wait then none
  else if w.fenced then some (stopTrace w.s p d)
  else
    let rec' := cycleRecord k w.out (tr.first && !cut) cut tr.lostPend trig w.err
    let used := tr.head - tr.tail
    if used + rec'.length + 1 ≤ ringWords t then
      put w.s rec' fun u => modPart u p fun q =>
        { q with trace := { q.trace with first := cut, lostPend := false, cycles := q.trace.cycles + 1 } }
    else
      let s1 := modPart w.s p fun q => { q with trace := { q.trace with lost := satInc q.trace.lost, first := true, lostPend := true } }
      if tr.lostPend ∨ ringWords t < used + 1 then some s1
      else put s1 (cycleRecord k [] false false true trig false) fun u => raiseN u (736 + 8 * d.val) (BitVec.ofNat 32 p.val)

/-- The cycle record of what was watched fits the ring, which keeps room for one header more (R412). -/
def recordFits (s : State) (p : PartId) (d : DieId) (t : TrigSect) (ws : List (Nat × List W128 × Nat)) : Bool :=
  let tr := s.parts[p].trace
  let out := (watchAll p d t tr.first ws { s := s, out := [], err := false, fenced := false, wait := false }).out
  decide (tr.head - tr.tail + (1 + cdiv out.length 8 + (out.map (·.2.length)).sum) + 1 ≤ ringWords t)

/-- Counters and firing of every trigger: its number, whether it fired, and the new count. -/
def fireAll (ts : List (W128 × W128 × W128)) (prev now : List W128) (counts : List Nat) : List (Nat × Bool × Nat) :=
  ts.zipIdx.map fun (t, i) =>
    if trigHolds t (nth prev i 0) (nth now i 0) then
      let c := nth counts i 0 + 1
      if fld t.1 118 103 + 1 ≤ c then (i, true, 0) else (i, false, c)
    else (i, false, nth counts i 0)

/-- What the triggers stood at before the observation of design cycle `k` is kept until `k` is agreed, for a rollback of it (R402, R410). -/
def keepPast (s : State) (p : PartId) (k : Nat) : State :=
  if !twinActive s p then s
  else modPart s p fun q => { q with trace :=
    { q.trace with past := (q.trace.past.filter fun x => decide (q.agreed.toNat < x.1) && x.1 != k) ++
        [(k, q.trace.state, q.trace.counts, q.trace.prev)] } }

/-- Observation of design cycle `k` by the lead unit, in the order of R410; none while FULL_HOLD waits for room (R412) or one of its accesses waits
at an arbiter (R256). Stopped capture, also for
want of a CRC unit (R385), leaves the triggers at work. In twin mode only the primary captures (R413). `cut` is a reset of the unit in capture
(R262). -/
def observe (s : State) (p : PartId) (t : TrigSect) (k : Nat) (cut : Bool) : Option State :=
  let d := leadDie s p
  let sk := keepPast s p k
  let s0 := if nestNoCrc sk d && sk.parts[p].trace.state != 3 then stopTrace sk p d else sk
  let tr := s0.parts[p].trace
  let w := watchReads p d t.watch.zipIdx s0
  let r := trigReads p d t.trigs w.2
  let fs := fireAll t.trigs tr.prev r.1 tr.counts
  let fired := fs.filter (·.2.1)
  let act (b : Nat) : Bool := fired.any fun f => match t.trigs[f.1]? with | some x => bit x.1 b | none => false
  let capture := tr.state != 3 && (tr.state == 2 || act 125)
  let s1 := modPart r.2.2 p fun q => { q with trace :=
    { q.trace with counts := fs.map (·.2.2), prev := r.1, first := q.trace.first || (capture && tr.state != 2) } }
  let mine := !twinActive s p || s.twin.primary
  if r.2.1 || w.1.any (fun x => x.2.2 == 9) || (capture && mine && t.fullHold && !cut && !recordFits s1 p d t w.1) then none
  else
    let s2 := if !capture then some s1
      else if mine then writeRecord s1 p d t k w.1 (!fired.isEmpty) cut
      else some (modPart s1 p fun q => { q with trace := { q.trace with first := true } })
    s2.map fun s2 =>
    let s3 := modPart s2 p fun q => { q with trace :=
      { q.trace with state := if q.trace.state = 3 then 3 else if capture && !act 124 then 2 else 1 } }
    let s4 := fired.foldl (fun u f => match t.trigs[f.1]? with
      | some x => if bit x.1 123 then raiseN u (737 + 8 * d.val) (at' 32 26 f.1 ||| BitVec.ofNat 32 (k % 2 ^ 26)) else u
      | none => u) s3
    if act 122 then modPart s4 p fun q => { q with run := q.run.map fun r => { r with brk := true } } else s4

/-- The triggers stand again as before the observation of the first design cycle after `j`, if it was made, and the records of later cycles are gone
(R402, R410, R413). Capture that a fence or the CRC units stopped stays stopped. -/
def rewindTrace (t : Trace) (j : Nat) : Trace :=
  match t.past.find? fun x => x.1 == j + 1 with
  | some (_, st, counts, prev) =>
    { t with state := if t.state = 3 then 3 else st, counts := counts, prev := prev, past := t.past.filter fun x => decide (x.1 ≤ j) }
  | none => t

/-- Words of the ring that may be presented: in a twin-mode partition only those of agreed design cycles (R413). -/
def ringShown (s : State) (p : PartId) : Nat :=
  let q := s.parts[p]
  let late := if q.cfg.twinMode then ((q.trace.recs.filter fun x => decide (q.agreed.toNat < x.1)).map (·.2)).sum else 0
  q.trace.head - q.trace.tail - late

/-- The trace ring presents what it holds on entry 4, in ring order (R412); a word that cannot be read ends the block and its item fails
(R242, R297), while one that waits at an arbiter presents nothing yet (R256). -/
def presentTrace (s : State) (p : PartId) : State :=
  let st := s.parts[p].streams[(4 : Fin 8)]
  match (s.parts[p].image.bind trigSect) with
  | none => s
  | some t =>
    let n := min (outLimit st) (ringShown s p)
    if n = 0 ∨ !st.out.isEmpty ∨ !canPresent s p 4 n then s
    else
      let r := (List.range n).foldl (fun (x : List W128 × Option (Nat × Nat) × State) i =>
        if x.2.1.isSome then x
        else
          let off := ringOff t (s.parts[p].trace.tail + i)
          let a := readPart x.2.2 p (.hostPath (ownerOf s p)) 0 false off
          if a.status = 0 then (x.1 ++ [a.data], none, a.s) else (x.1, some (off, a.status), a.s)) ([], none, s)
      match r.2.1 with
      | some (off, stt) =>
        if stt = 9 then s
        else
        let s1 := modStream (modPart r.2.2 p fun q => { q with trace := { q.trace with tail := q.trace.tail + n, first := true } }) p 4 fun st =>
          { st with fails := satInc st.fails }
        ledgerItem s1 p st.seqOut (blockKind 4) (if stt = 8 then 0x0803 else 0x0802) (some (BitVec.ofNat 64 ((partDev s p false off).getD 0)))
      | none => presentBlock r.2.2 p 4 r.1 false n

end Sys2Proof.Machine
end

