-- ==== Sys2Proof/Machine/Jobs.lean ====
section
/-!
DEFINITION. Jobs and the phases of a design cycle: start (R28, R35, R36, R305), ingest (R38), commit (R39, R43-R45, R401, R451), observation
(R410), release (R37, R306), checkpoints (R390-R392).
-/

namespace Sys2Proof.Machine

/-- The device takes jobs: not a secondary that is paired, detached or isolated (R398, R405, R406). -/
def takesJobs (s : State) : Bool := s.twin.primary || !(s.twin.state == 3 || s.twin.state == 4 || s.twin.state == 5)

/-- A twin-mode partition is held by the last step of a resync (R406). -/
def resyncHeld (s : State) (p : PartId) : Bool :=
  s.parts[p].cfg.twinMode && (match s.twin.resync with | some r => r.phase == .hold | none => false)

/-- A pooled partition runs only in its slot (R370). -/
def inSlot (s : State) (p : PartId) : Bool :=
  !pooled s p || (!s.pw.due && match s.pw.running with | some w => slotServes w p | none => false)

/-- The master that does the partition's own commit work: the write stream unit of its first bound VE (log 109). -/
def commitMaster (s : State) (p : PartId) : MasterKind :=
  match s.parts[p].bind.head? with
  | some n => .engine n 3
  | none => .hostPath (ownerOf s p)

/-- Ledger kind of a job's KIND (Table 11.10). -/
def jobKind (j : Job) : Nat := if fld j.w0 95 92 = 1 then 0x02 else if fld j.w0 95 92 = 2 then 0x03 else 0x01

/-- Device address of a partition-relative HBM offset, as a ledger detail (R242). -/
def devDetail (s : State) (p : PartId) (off : Nat) : W64 := BitVec.ofNat 64 ((partDev s p false off).getD 0)

/-! ### Job start -/

/-- Reserved values of a descriptor (Table 11.9, R305). -/
def jobBad (j : Job) : Bool :=
  let kind := fld j.w0 95 92
  let cyc := fld j.w0 79 40
  decide (2 < kind) || fld j.w0 91 88 != 0 || fld j.w0 87 81 != 0 || fld j.w0 39 0 != 0 || fld j.w1 63 0 != 0 ||
  (if kind = 0 then cyc == 0 else cyc != 0)

/-- The checks of a job's start, in order: the cause and, where a rule lays it out, the detail. -/
def jobCheck (s : State) (p : PartId) (j : Job) : Option (Nat × Option W64) :=
  let q := s.parts[p]
  let dc : W64 := BitVec.ofNat 64 q.designCycle
  let isRun := fld j.w0 95 92 == 0
  if q.fenced then some (0x0F03, none)
  else if jobBad j then some (0x0B10, some dc)
  else if fld j.w1 127 64 ≠ 2 ^ 64 - 1 ∧ fld j.w1 127 64 ≠ q.designCycle % 2 ^ 64 then some (0x0B11, some dc)
  else if j.early || earlyJob q then some (0x0208, none)
  else if isRun ∧ q.stateLost then some (0x0F23, none)
  else
    match q.image with
    | none => some (0x0208, none)
    | some im =>
      if (bindVes (bindSet s p) q.cfg.paired im.hdr).isNone then some (0x0204, none)
      else if partMemFenced s p then some (0x0803, none)
      else if q.streams[(3 : Fin 8)].depth.toNat < min im.hdr.resultWords 4096 + 1 then some (0x0B12, some dc)
      else if isRun ∧ bit j.w0 80 then
        match trigSect im with
        | none => some (0x1001, some dc)
        | some t =>
          let free := s.fz.trigFree[leadDie s p]
          if free < t.trigs.length then some (0x1002, some (at' 64 8 t.trigs.length ||| BitVec.ofNat 64 free)) else none
      else none

/-- The partition binds anew: VEs that leave are unbound, and a changed binding starts every sequencer afresh. -/
def rebind (s : State) (p : PartId) (b : List VeId) : State :=
  let old := s.parts[p].bind
  if old = b then s
  else
    let s1 := (old.filter fun n => !b.contains n).foldl (fun t n => modSeq t n fun c => { c with st := .unbound }) s
    modPart s1 p fun q => { q with bind := b, fresh := true }

/-- The first job after a load hands the banks to their VEs (R36). -/
def firstHandover (s : State) (p : PartId) : State :=
  if s.parts[p].handDue then modPart (banksToVes s p) p fun q => { q with handDue := false } else s

/-- A run job segment starts: trace is armed (R409), none while its reads wait. -/
def startRun (s : State) (p : PartId) (j : Job) (im : Image) : Option State :=
  let s3 := modPart s p fun q =>
    { q with
      run := some { job := j, last := q.designCycle + fld j.w0 79 40, jobLast := q.designCycle + fld j.w0 79 40, cycle := q.designCycle + 1, phase := .ingest, obs := false
                    trace := bit j.w0 80, det := q.cfg.deterministic, brk := false, draining := false, stim := [], done := []
                    firstDone := none, slots := [], writes := [], dmq := [], grants := [], grantSeq := 0 } }
  match (if bit j.w0 80 then trigSect im else none) with
  | some t => armTrace s3 p t
  | none => some s3

/-- The head job of the queue is checked and started, or fails without effect (R305). -/
def jobStartHead (s : State) (p : PartId) : Option State :=
  let q := s.parts[p]
  match q.jobs with
  | [] => some s
  | j :: rest =>
    let s1 := modPart s p fun q => { q with jobs := rest }
    let s2 := match jobCheck s p j with
      | some (c, d) => some (ledgerItem s1 p (jobId j) (jobKind j) c d)
      | none =>
        match q.image with
        | none => some s1
        | some im =>
          let s2 := rebind s1 p ((bindVes (bindSet s p) q.cfg.paired im.hdr).getD [])
          let s3 := firstHandover s2 p
          if fld j.w0 95 92 = 1 then some (modPart s3 p fun q => { q with save := some (j, 0) })
          else if fld j.w0 95 92 = 2 then some (modPart s3 p fun q => { q with restore := some { job := j, words := [] } })
          else startRun s3 p j im
    s2.map fun t => kick (settle t p) p

/-- Nothing of the partition executes. -/
def partIdle (q : Partition) : Bool := q.run.isNone && q.save.isNone && q.restore.isNone

/-- A paired secondary starts a job of a twin-mode partition when the primary has forwarded its start (R382, R399). -/
def farStart (s : State) (p : PartId) : Bool := twinActive s p && !s.twin.primary && decide (0 < s.parts[p].farStarts)

/-- JOB_START: the primary forwards the start to its twin (R382). No job starts before the fills of its image are made (log 108). -/
def jobStartOp (s : State) (p : PartId) : State :=
  if dead s || frozen s || resyncHeld s p || !inSlot s p || !partIdle s.parts[p] || s.parts[p].jobs.isEmpty || fillDue s.parts[p] then s
  else if farStart s p then (jobStartHead (modPart s p fun q => { q with farStarts := q.farStarts - 1 }) p).getD s
  else if !takesJobs s then s
  else (jobStartHead (if forwards s p then forward s 3 p 0 0 [] else s) p).getD s

/-! ### Ingest -/

/-- The release of the barrier that VE `n` is parked in can reach it now. -/
def releaseDue (s : State) (n : VeId) : Bool :=
  let c := s.seq[n]
  c.st == .parked && c.arrived && !c.begunBarrier && clockRuns s (clusterOfVe n)

/-- The release of a barrier reaches a sequencer that is parked in it, and its `BARRIER` completes (R186); a cluster whose clock is paused gets it
when the clock resumes (R277). -/
def deliverRelease (s : State) (n : VeId) : State :=
  if releaseDue s n then
    modSeq s n fun c => { c with st := .running, retired := c.retired + 1, arrived := false, r := { c.r with pc := c.r.pc + 2 } }
  else s

/-- The barrier is released: a sequencer that has arrived and has not begun another is released. One interrupted while it waited completes its
`BARRIER` when it is executed again (R186). -/
def releaseBarrier (s : State) (n : VeId) : State := deliverRelease (modSeq s n fun c => { c with begunBarrier := false }) n

/-- Stimulus words that ingest may take (R38, R308). -/
def stimReady (s : State) (p : PartId) (n : Nat) : Bool :=
  n == 0 || (!s.parts[p].ledger.held && decide (n ≤ s.parts[p].streams[(2 : Fin 8)].fifo.length))

/-- A failure that the primary forwarded is applied once the segment stands at the design cycle at which the primary's ended (R434 row 6). -/
def farFailGo (s : State) (p : PartId) : State :=
  match s.parts[p].farFail, s.parts[p].run with
  | some (k, c, d), some r =>
    if !dead s ∧ !frozen s ∧ s.parts[p].designCycle = k ∧ r.phase = .ingest then
      kick (failRun (modPart s p fun q =>
        { q with farFail := none, farIngest := if q.farAgain then q.farIngest else min q.farIngest k, farAgain := false }) p c d) p
    else s
  | _, _ => s

/-- A paired secondary waits with the ingest of `k` until the primary has ended that of `k + 1` (R399), or has ended its segment at `k` or later. -/
def farHolds (s : State) (p : PartId) (k : Nat) : Bool :=
  twinActive s p && !s.twin.primary && decide (s.parts[p].farIngest < k + 1) && !(s.parts[p].farFail.any fun x => decide (k ≤ x.1))

/-- A forwarded failure ends the segment before its next design cycle (R434 row 6). -/
def farEnds (s : State) (p : PartId) : Bool := s.parts[p].farFail.any fun x => x.1 == s.parts[p].designCycle

/-- Ingest of a design cycle (R38, R40): the stimulus words enter the current buffer, and evaluation starts. It follows the observation of the
design cycle before, which reads that buffer (R37, R410; log 89). -/
def ingestOp (s : State) (p : PartId) : State :=
  match s.parts[p].run, s.parts[p].image with
  | some r, some im =>
    let n := im.hdr.stimWords
    if dead s || frozen s || r.phase != .ingest || r.draining || r.obs || devDraining s p || resyncHeld s p || !inSlot s p || !stimReady s p n ||
        farHolds s p r.cycle || farEnds s p then farFailGo s p
    else
      let ws := s.parts[p].streams[(2 : Fin 8)].fifo.take n
      let w := (ws.zipIdx).foldl (fun (x : Option (Nat × Nat) × State) (v, i) =>
        if x.1.isSome then x
        else
          let off := curBase x.2 p + nth im.portMap i 0
          let a := writePart x.2 p (.hostPath (ownerOf s p)) (0x80 + p.val) false off v allBytes
          (if a.status = 0 then none else some (off, a.status), a.s)) (none, s)
      match w.1 with
      | some (_, 9) => s
      | some (off, _) => failSegment w.2 p 0x0803 (devDetail s p off)
      | none =>
        let s0 := s.parts[p].bind.foldl (fun t m => modEng t m fun e => { e with pairLog := [] }) w.2
        let s1 := modPart (modStream s0 p 2 fun st => { st with fifo := st.fifo.drop n }) p fun q =>
          { q with fresh := false, run := some { r with phase := .evaluate, stim := ws } }
        let s2 := if s.parts[p].fresh then startAll s1 p else s.parts[p].bind.foldl releaseBarrier s1
        kick (if forwards s p then forward s2 7 p 0 r.cycle [] else s2) p
  | _, _ => s

/-! ### Commit -/

/-- Progress of a commit: the state, and the first offset whose access did not succeed with its status, 9 where it waits (R256). -/
structure CommitRun where
  s : State
  bad : Option (Nat × Nat)

/-- The bad end of an access at offset `x`, if it is one. -/
def badAt (x status : Nat) : Option (Nat × Nat) := if status = 0 then none else some (x, status)

/-- A word written with its poison bit set at a partition-relative HBM offset (R451, log 104). -/
def poisonPart (s : State) (p : PartId) (m : MasterKind) (x : Nat) (v : W128) : Acc :=
  match partDev s p false x with
  | some a => via s m a fun t => writePoison t (masterDie m) (a / 16 * 16) v
  | none => { data := 0, status := 4, s := s }

/-- One word copied; a bad word is copied as poison (R451). -/
def copyWord (p : PartId) (m : MasterKind) (src dst : Nat) (c : CommitRun) : CommitRun :=
  if c.bad.isSome then c
  else
    let r := readPart c.s p m (0x80 + p.val) false src
    if r.status = 6 ∨ r.status = 7 then
      let w := poisonPart r.s p m dst r.data
      { s := w.s, bad := badAt dst w.status }
    else if r.status ≠ 0 then { s := r.s, bad := some (src, r.status) }
    else
      let w := writePart r.s p m (0x80 + p.val) false dst r.data allBytes
      { s := w.s, bad := badAt dst w.status }

/-- Elements that a commit bitmap region flags, in ascending order (R43, R47); a bad word of it is used as read. -/
def flagged (s : State) (p : PartId) (im : Image) (off : Nat) : List Nat × CommitRun :=
  let nel := im.hdr.stateBytes / elemBytes im
  (List.range (bmpWords im)).foldl (fun (x : List Nat × CommitRun) w =>
    if x.2.bad.isSome then x
    else
      let r := readPart x.2.s p (commitMaster s p) (0x80 + p.val) false (off + 16 * w)
      if r.status ≠ 0 ∧ r.status ≠ 6 ∧ r.status ≠ 7 then (x.1, { s := r.s, bad := some (off + 16 * w, r.status) })
      else (x.1 ++ ((bitsSet r.data 128).map (128 * w + ·)).filter (· < nel), { s := r.s, bad := none })) ([], { s := s, bad := none })

/-- A bitmap region cleared. -/
def clearRegion (p : PartId) (d : MasterKind) (im : Image) (off : Nat) (c : CommitRun) : CommitRun :=
  (List.range (bmpWords im)).foldl (fun c w =>
    if c.bad.isSome then c
    else
      let r := writePart c.s p d (0x80 + p.val) false (off + 16 * w) 0 allBytes
      { s := r.s, bad := badAt (off + 16 * w) r.status }) c

/-- Elements copied from buffer base `src` to buffer base `dst`. -/
def copyElems (p : PartId) (d : MasterKind) (im : Image) (els : List Nat) (src dst : Nat) (c : CommitRun) : CommitRun :=
  let e := elemBytes im
  els.foldl (fun c m => (List.range (e / 16)).foldl (fun c j => copyWord p d (src + m * e + 16 * j) (dst + m * e + 16 * j) c) c) c

/-- Levelling after the role exchange (R43, R401): the commit bitmap's elements are copied and its region cleared. -/
def levelBuffers (s : State) (p : PartId) (im : Image) (k : Nat) : CommitRun :=
  if !im.hdr.gated then { s := s, bad := none }
  else
    let d := commitMaster s p
    let q := s.parts[p]
    let src := bufBase im q.curBuf
    let dst := bufBase im (nextBuf s p)
    let a := flagged s p im (bmpOff s p im k)
    if q.cfg.twinMode then
      let b := flagged a.2.s p im (bmpOff s p im (k + 1))
      let c := copyElems p d im (a.1 ++ b.1.filter fun m => !a.1.contains m) src dst { s := b.2.s, bad := a.2.bad <|> b.2.bad }
      clearRegion p d im (bmpOff s p im (k + 1)) c
    else clearRegion p d im (bmpOff s p im k) (copyElems p d im a.1 src dst a.2)

/-- Partition-relative offset of place `i` for an undo record: the records stand above the write queue's 32 bytes per word and use the rest of
the JOURNAL section in turn (R45, R401, log 83). -/
def undoOff (im : Image) (i : Nat) : Nat :=
  match journalOf im with
  | some x => x.offset + 32 * im.hdr.dmwMax + 32 * (i % max 1 ((x.length - 32 * im.hdr.dmwMax) / 32))
  | none => 0

/-- The value before design cycle `k`'s first write to an address, with whether it could not be read (R45, R220). -/
def oldValue (p : PartId) (d : MasterKind) (k addr : Nat) (c : CommitRun) : W128 × Bool × CommitRun :=
  match c.s.parts[p].undo.find? fun u => u.cycle == k && u.addr == addr with
  | some u => (u.old, u.bad, c)
  | none =>
    let r := readPart c.s p d (0x80 + p.val) false addr
    (r.data, r.status == 6 || r.status == 7, { s := r.s, bad := if r.status = 6 ∨ r.status = 7 then none else badAt addr r.status })

/-- An undo record is appended to the journal: two words, the second the value before the design cycle's first write to the address, as poison where
it could not be read (R45, log 104). -/
def appendUndo (p : PartId) (d : MasterKind) (im : Image) (k addr : Nat) (c : CommitRun) : CommitRun :=
  let o := oldValue p d k addr c
  if o.2.2.bad.isSome then o.2.2
  else
    let off := undoOff im o.2.2.s.parts[p].undoNext
    let r := writeRun o.2.2.s p d (0x80 + p.val) false off [at' 128 64 k ||| BitVec.ofNat 128 addr, o.1]
    let t := if r.1.isNone ∧ o.2.1 then poisonPart r.2 p d (off + 16) o.1 else { data := 0, status := 0, s := r.2 }
    { s := modPart t.s p fun q =>
        { q with undo := q.undo ++ [{ cycle := k, addr := addr, old := o.1, bad := o.2.1, place := q.undoNext }], undoNext := q.undoNext + 1 }
      bad := r.1 <|> badAt (off + 16) t.status }

/-- One queued design-memory write applied (R44); with TWIN_MODE 1 it first appends its undo record (R45). The data-cache lines of the VE that
queued it take the new bytes (R179). -/
def applyDm (p : PartId) (d : MasterKind) (k : Nat) (im : Image) (c : CommitRun) (w : DmWrite) : CommitRun :=
  if c.bad.isSome then c
  else
    let c1 := if c.s.parts[p].cfg.twinMode then appendUndo p d im k w.addr c else c
    if c1.bad.isSome then c1
    else
      let r := writePart c1.s p d (0x80 + p.val) false w.addr w.data w.mask
      let s1 := match r.status, c.s.parts[p].bind[w.lve]? with
        | 0, some n => cacheStore r.s (.ve n) w.addr w.data w.mask
        | _, _ => r.s
      { s := s1, bad := if r.status = 8 ∨ r.status = 9 then some (w.addr, r.status) else none }

/-- The write queue in order of application: ascending logical VE, then issue order (R44). -/
def dmOrder (ws : List DmWrite) : List DmWrite := (List.range 64).flatMap fun l => ws.filter fun w => w.lve == l

/-- Offset of word `j` of staging frame `k` (R43). -/
def frameOff (im : Image) (k j : Nat) : Nat := im.hdr.rsltOff + 16 * (k % im.hdr.resultDepth * im.hdr.resultWords + j)

/-- Result words copied to the staging ring. -/
def stageFrame (p : PartId) (d : MasterKind) (im : Image) (k : Nat) (base : Nat) (c : CommitRun) : CommitRun :=
  (List.range im.hdr.resultWords).foldl (fun c j => copyWord p d (base + nth im.portMap (im.hdr.stimWords + j) 0) (frameOff im k j) c) c

/-- The CRC unit that computes a partition's digests: 12 + p mod 4, else the nearest unfenced one to the twin engine's die by the links in service (R400, R385, R21). -/
def digestUnit (s : State) (p : PartId) : Option CrcId :=
  let pref : CrcId := ⟨12 + p.val % 4, by omega⟩
  let order : List CrcId := pref :: (List.range 4).flatMap fun k => (List.finRange 16).filter fun u => dieHops s 3 (u.val / 4) == some k
  order.find? fun u => !s.crc[u].fenced

/-- Words of a staged frame as a CRC unit reads them: a bad word as read, reported (R220, R221), and a free value where its unit gives no data
(log 2); none while a read waits. -/
def frameWords (s : State) (p : PartId) (im : Image) (k : Nat) (u : CrcId) : Option (List W128 × State) :=
  (List.range im.hdr.resultWords).foldl (fun x j => x.bind fun y =>
    let r := readPart y.2 p (.crc u) 0 false (frameOff im k j)
    if r.status = 9 then none
    else if r.status = 0 ∨ r.status = 6 ∨ r.status = 7 then some (y.1 ++ [r.data], r.s)
    else some (y.1 ++ [(drawWord r.s).1], (drawWord r.s).2)) (some ([], s))

/-- The digest of a staged frame, run on its unit, whose counters take the result (R400, R306, Table 15.2). -/
def frameDigest (s : State) (p : PartId) (im : Image) (k : Nat) (u : CrcId) : Option (W64 × State) :=
  (frameWords s p im k u).map fun x =>
    let v := crcOf 3 (BitVec.ofNat 64 k) (bytesOfWords x.1)
    (v, modCrc x.2 u fun c => { c with runs := c.runs + 1, last := v })

/-- Commit of design cycle `k` may begin (R39, R24, R308). The last step of a resync holds the next design cycle, not this one (R406). -/
def commitReady (s : State) (p : PartId) (r : Run) (im : Image) : Bool :=
  let q := s.parts[p]
  r.phase == .commit && !q.ledger.held && !r.obs && decide (r.cycle ≤ q.released + im.hdr.resultDepth) &&
  (!twinActive s p || decide (r.cycle ≤ q.agreed.toNat + 1)) && inSlot s p

/-- The work of commit, in the order of R43. -/
def commitWork (s : State) (p : PartId) (r : Run) (im : Image) : CommitRun :=
  let k := r.cycle
  let s0 := modPart s p fun q => { q with curBuf := nextBuf s p }
  let c1 := levelBuffers s0 p im k
  let c2 := (dmOrder r.dmq).foldl (applyDm p (commitMaster s p) k im) c1
  stageFrame p (commitMaster s p) im k (bufBase im s0.parts[p].curBuf) c2

/-- The books of a commit that has ended: DESIGN_CYCLE, the frame with its digest, and the next design cycle or the segment's tail. -/
def commitBooks (s : State) (p : PartId) (r : Run) (own : Option W64) : State :=
  let k := r.cycle
  let tail := decide (r.last ≤ k)
  let solo := !twinActive s p
  modPart s p fun q =>
    { q with
      designCycle := k
      accCycles := q.accCycles + 1
      slotCycles := q.slotCycles + 1
      agreed := if q.cfg.twinMode && solo then BitVec.ofNat 64 k else q.agreed
      undo := q.undo.filter fun u => !(q.cfg.twinMode && solo && decide (u.cycle ≤ k))
      frames := q.frames ++ [{ cycle := k, own := own
                               stim := if solo then [] else r.stim }]
      run := some { r with cycle := if tail then k else k + 1, phase := .ingest, draining := tail, stim := [], dmq := [], obs := r.trace } }

/-! ### Agreement and rollback -/

/-- A word copied during a rollback: a bad word or a fence ends it (R402). -/
def copyStrict (p : PartId) (d : MasterKind) (src dst : Nat) (c : CommitRun) : CommitRun :=
  if c.bad.isSome then c
  else
    let r := readPart c.s p d (0x80 + p.val) false src
    if r.status ≠ 0 then { s := r.s, bad := some (src, r.status) }
    else
      let w := writePart r.s p d (0x80 + p.val) false dst r.data allBytes
      { s := w.s, bad := badAt dst w.status }

/-- Step 2 of R402: both other buffers receive every flagged element from the buffer that holds the state after j, and both bitmap regions
are cleared. -/
def restoreBuffers (s : State) (p : PartId) (im : Image) : CommitRun :=
  if !im.hdr.gated then { s := s, bad := none }
  else
    let d := commitMaster s p
    let cur := s.parts[p].curBuf
    let a := flagged s p im (bmpOff s p im 0)
    let b := flagged a.2.s p im (bmpOff s p im 1)
    let els := a.1 ++ b.1.filter fun m => !a.1.contains m
    let e := elemBytes im
    let words (c : CommitRun) (m to' : Nat) : CommitRun := (List.range (e / 16)).foldl (fun c i =>
      copyStrict p d (bufBase im cur + m * e + 16 * i) (bufBase im to' + m * e + 16 * i) c) c
    let c := els.foldl (fun c m => words (words c m ((cur + 1) % 3)) m ((cur + 2) % 3)) { s := b.2.s, bad := a.2.bad <|> b.2.bad }
    clearRegion p d im (bmpOff s p im 1) (clearRegion p d im (bmpOff s p im 0) c)

/-- Step 3 of R402: the undo records of design cycles after j are read from the journal and applied in reverse order. -/
def undoAfter (p : PartId) (d : MasterKind) (j : Nat) (im : Image) (c : CommitRun) : CommitRun :=
  ((c.s.parts[p].undo.filter fun u => decide (j < u.cycle)).reverse).foldl (fun c u =>
    if c.bad.isSome then c
    else
      let off := undoOff im u.place
      let r := readRun c.s p d (0x80 + p.val) false off 2
      match r.1, r.2.1 with
      | [a, old], none =>
        let w := writePart r.2.2 p d (0x80 + p.val) false (fld a 63 0) old allBytes
        { s := w.s, bad := badAt (fld a 63 0) w.status }
      | _, e => { s := r.2.2, bad := some (e.getD (off, 4)) }) c

/-- Step 4 of R402: frames, stimulus, triggers and trace records of design cycles after j (R410, R413), and the end that a BREAK among them set. A
secondary waits again for the primary's repeated ingest (R399). -/
def rewindBooks (s : State) (p : PartId) (j : Nat) : State :=
  modPart s p fun q =>
    let late := q.frames.filter fun f => decide (j < f.cycle)
    let stim := late.flatMap (·.stim) ++ (match q.run with | some r => r.stim | none => [])
    let gone := ((q.trace.recs.filter fun x => decide (j < x.1)).map (·.2)).sum
    { q with
      designCycle := j, fresh := true
      undo := q.undo.filter fun u => decide (u.cycle ≤ j)
      frames := q.frames.filter fun f => decide (f.cycle ≤ j)
      farDig := q.farDig.filter fun x => decide (x.1 ≤ j)
      streams := updV q.streams 2 fun st => { st with fifo := stim ++ st.fifo }
      farIngest := if q.farAgain then q.farIngest else min q.farIngest j
      farAgain := false
      trace := { rewindTrace q.trace j with
        head := q.trace.head - gone, first := true, recs := q.trace.recs.filter fun x => decide (x.1 ≤ j) }
      run := q.run.map fun r =>
        { r with last := r.jobLast, cycle := j + 1, phase := .ingest, obs := false, brk := false, draining := false, stim := [], done := []
                 firstDone := none, slots := [], writes := [], dmq := [], grants := [] } }

/-- A VE is reset for a rollback (R402, R261): its queue is discarded, its requests that wait are withdrawn, and of a VE that was at work the sinks
absorb what was on its way, how much no command says (log 2). -/
def resetVe (s : State) (n : VeId) : State :=
  let t := withdraw (stopSeq s n) (veMasters n 7)
  if s.seq[n].st = .running ∨ !s.eng[n].queue.isEmpty then
    (List.range 7).foldl (fun t u => sinkResponses (drawNat t).2 (8 * n.val + u) ((drawNat t).1 % 33)) t
  else t

/-- Rollback to the design cycle before `k` (R402): the third mismatch at `k` fails the segment. It waits while the debug freeze stands (R415) or one
of its accesses waits (R256). -/
def rollback (s : State) (p : PartId) (k : Nat) : State :=
  match s.parts[p].image with
  | none => s
  | some im =>
    let q := s.parts[p]
    let j := k - 1
    let rep := if q.mismatchAt = k then q.mismatchRepeat + 1 else 1
    let s1 := q.bind.foldl resetVe s
    let s2 := modPart s1 p fun q =>
      { q with curBuf := (q.curBuf + 2) % 3, mismatchAt := k, mismatchRepeat := rep, rollbacks := satInc q.rollbacks }
    let s3 := raiseN s2 707 (at' 32 4 rep ||| BitVec.ofNat 32 p.val)
    let c := undoAfter p (commitMaster s p) j im (restoreBuffers s3 p im)
    let s4 := rewindBooks c.s p j
    if frozen s then s
    else match c.bad with
    | some (_, 9) => s
    | some (off, _) => failSegment (modPart s4 p fun q => { q with stateLost := true }) p 0x0F31 (devDetail s4 p off)
    | none =>
      if 3 ≤ rep then failSegment (modPart s4 p fun q => { q with mismatchAt := 0, mismatchRepeat := 0 }) p 0x0F30 (BitVec.ofNat 64 k) else s4

/-- Design cycle `k` is agreed (R400, R401): its undo records, digests and stimulus are held no longer. -/
def agreeTo (s : State) (p : PartId) (k : Nat) : State :=
  modPart s p fun q =>
    { q with
      agreed := BitVec.ofNat 64 k
      undo := q.undo.filter fun u => decide (k < u.cycle)
      farDig := q.farDig.filter fun x => decide (k < x.1)
      frames := q.frames.map fun f => if f.cycle ≤ k then { f with stim := [] } else f }

/-- The next design cycle is agreed or rolled back once both digests of it are held (R400, R402). -/
def agreeGo (s : State) (p : PartId) : State :=
  if !twinActive s p then s
  else
    let q := s.parts[p]
    let k := q.agreed.toNat + 1
    match (q.frames.find? fun f => f.cycle == k).bind (·.own), q.farDig.find? fun x => x.1 == k with
    | some v, some d => kick (if v = d.2 then agreeTo s p k else rollback s p k) p
    | _, _ => s

/-- Commit of a design cycle (R39, R43-R45, R401): past DMW_MAX queued words the segment fails (R44), and a fenced word fails it. Its digest
goes to the twin (R400). -/
def commitOp (s : State) (p : PartId) : State :=
  match s.parts[p].run, s.parts[p].image with
  | some r, some im =>
    if dead s || frozen s || !commitReady s p r im then s
    else if im.hdr.dmwMax < r.dmq.length then failSegmentFree s p 0x0209
    else
      let c := commitWork s p r im
      match c.bad with
      | some (_, 9) => s
      | some (off, _) =>
        failSegment (modPart c.s p fun q => { q with curBuf := s.parts[p].curBuf }) p 0x0803 (devDetail s p off)
      | none =>
        match twinActive s p, digestUnit s p with
        | true, some u =>
          match frameDigest c.s p im r.cycle u with
          | none => s
          | some (v, s1) =>
            agreeGo (sendFrame (commitBooks s1 p r (some v)) 0x03
              [at' 128 64 v.toNat ||| at' 128 60 p.val ||| BitVec.ofNat 128 (r.cycle % 2 ^ 60)]) p
        | _, _ => commitBooks c.s p r none
  | _, _ => s

/-! ### Observation and release -/

/-- A segment whose last frame is released and whose last observation has ended completes (R306). -/
def tryComplete (s : State) (p : PartId) : State :=
  match s.parts[p].run with
  | some r => if r.draining && !r.obs && decide (r.last ≤ s.parts[p].released) && s.parts[p].frames.isEmpty then completeSegment s p else s
  | none => s

/-- Observation of the last committed design cycle (R410); a BREAK ends the segment there. It goes on in the debug freeze, since its clock runs
(R434 row 23). -/
def observationOp (s : State) (p : PartId) (cut : Bool) : State :=
  match s.parts[p].run, s.parts[p].image.bind trigSect with
  | some r, some t =>
    if dead s || !r.obs then s
    else
      let k := s.parts[p].designCycle
      match observe s p t k cut with
      | none => s
      | some s1 =>
        tryComplete (modPart s1 p fun q => { q with run := q.run.map fun r =>
          if r.brk then { r with obs := false, last := k, cycle := k, draining := true, phase := .ingest } else { r with obs := false } }) p
  | _, _ => s

/-- A frame's blocks: at most 4,096 payload words each (R303). -/
def frameBlocks (ws : List W128) (k : Nat) (last : Bool) : List OutBlock :=
  let cs := chunks 4096 ws
  cs.zipIdx.map fun (c, i) =>
    let fin := i + 1 == cs.length
    { seq := 0, words := c, read := 0, replay := false, last := last && fin, recs := if fin then k else 0 }

/-- The oldest frame counts as released (R37, R306). -/
def frameReleased (s : State) (p : PartId) (f : Frame) : State :=
  tryComplete (modPart s p fun q => { q with released := f.cycle, frames := q.frames.drop 1 }) p

/-- The oldest frame may be released: agreed in twin mode, and never by a paired secondary (R400). -/
def mayRelease (s : State) (p : PartId) (f : Frame) : Bool :=
  !twinActive s p || (s.twin.primary && decide (f.cycle ≤ s.parts[p].agreed.toNat))

/-- Frame blocks go on entering the FIFO; the frame is released with its last (R37 phase 6). -/
def releaseBlocks (s : State) (p : PartId) (f : Frame) : State :=
  let s1 := presentReady p 3 s.parts[p].streams[(3 : Fin 8)].ready.length s
  if s1.parts[p].streams[(3 : Fin 8)].ready.isEmpty then frameReleased s1 p f else s1

/-- Release of the oldest committed frame (R25, R37, R306); an empty frame counts as released once agreed, on both devices. A bad word of it fails its segment (R242). -/
def releaseOp (s : State) (p : PartId) : State :=
  match s.parts[p].frames, s.parts[p].image with
  | f :: _, some im =>
    if dead s || frozen s then s
    else if im.hdr.resultWords = 0 ∧ (!twinActive s p || decide (f.cycle ≤ s.parts[p].agreed.toNat)) then frameReleased s p f
    else if !mayRelease s p f then s
    else if !s.parts[p].streams[(3 : Fin 8)].ready.isEmpty then releaseBlocks s p f
    else if s.parts[p].ledger.held || s.crc.all (·.fenced) then s
    else
      let r := (List.range im.hdr.resultWords).foldl (fun (x : List W128 × Option (Nat × Nat) × State) j =>
        if x.2.1.isSome then x
        else
          let a := readPart x.2.2 p (.hostPath (ownerOf s p)) (0x80 + p.val) false (frameOff im f.cycle j)
          if a.status = 0 then (x.1 ++ [a.data], none, a.s) else (x.1, some (frameOff im f.cycle j, a.status), a.s)) ([], none, s)
      match r.2.1 with
      | some (_, 9) => s
      | some (off, st) =>
        let s1 := modPart r.2.2 p fun q => { q with released := f.cycle, frames := q.frames.drop 1 }
        failSegment s1 p (if st = 8 then 0x0803 else 0x0802) (devDetail s p off)
      | none =>
        let lastOne := match s.parts[p].run with | some u => u.draining && u.last == f.cycle | none => false
        releaseBlocks (modStream r.2.2 p 3 fun st => { st with ready := frameBlocks r.1 f.cycle lastOne }) p f
  | _, _ => s

/-! ### Checkpoints -/

/-- The regions of a checkpoint in order (Table 15.3): space and word offsets of the state buffer, then of DMEM_INIT and SEQ_DATA sections. -/
def ckptRegions (im : Image) (buf : Nat) : List (Bool × Nat) :=
  let sect (k : Nat) : List (Bool × Nat) := (im.sections.filter fun x => x.kind == k).flatMap fun x =>
    (regionWords x.offset x.length).map fun o => (x.space == 1, o)
  ((regionWords (bufBase im buf) im.hdr.stateBytes).map fun o => (false, o)) ++ sect 6 ++ sect 2

/-- Header words of a checkpoint. -/
def ckptHeader (im : Image) (c bytes : Nat) : List W128 :=
  [at' 128 64 im.hdr.crc.toNat ||| at' 128 32 1 ||| BitVec.ofNat 128 0x54504B43, at' 128 64 bytes ||| BitVec.ofNat 128 c] ++ List.replicate 14 0

/-- Owner code that the checkpoint engine uses at a word: the present owner's, so that ownership never refuses it (log 37). -/
def ckptCode (s : State) (p : PartId) (space : Bool) (off : Nat) : Nat :=
  match (partDev s p space off).bind (unitOf s) with
  | some (.bank b) => s.banks[b].owner.toNat
  | _ => 0

/-- The words of the regions as they are stored. -/
def ckptContent (s : State) (p : PartId) (rs : List (Bool × Nat)) : List W128 :=
  rs.map fun x => wordGet s.mem (((partDev s p x.1 x.2).getD 0) / 16)

/-- The word lies in a bank whose handover has not ended. -/
def inDrain (s : State) (p : PartId) (space : Bool) (off : Nat) : Bool :=
  match (partDev s p space off).bind (unitOf s) with
  | some (.bank b) => s.banks[b].drain.isSome
  | _ => false

/-- Word `i` of the checkpoint of the present design cycle: its value and status, 9 while its bank is in handover (R234). -/
def ckptWord (s : State) (p : PartId) (im : Image) (i : Nat) : Acc :=
  let q := s.parts[p]
  let rs := ckptRegions im q.curBuf
  if i < 16 then { data := nth (ckptHeader im q.designCycle (16 * rs.length)) i 0, status := 0, s := s }
  else
    match rs[i - 16]? with
    | some x =>
      if inDrain s p x.1 x.2 then { data := 0, status := 9, s := s }
      else readPart s p (.hostPath (ownerOf s p)) (ckptCode s p x.1 x.2) x.1 x.2
    | none => { data := (crcOf 3 (BitVec.ofNat 64 q.designCycle) (bytesOfWords (ckptContent s p rs))).setWidth 128, status := 0, s := s }

/-- The save's next block is read and presented; an uncorrectable, poisoned or fenced word fails the save (R390, R391), and a bank in handover
is waited for (R234). -/
def saveBlock (s : State) (p : PartId) (j : Job) (done : Nat) (im : Image) : State :=
  let total := 17 + (ckptRegions im s.parts[p].curBuf).length
  let n := min (outLimit s.parts[p].streams[(7 : Fin 8)]) (total - done)
  if n = 0 ∨ !canPresent s p 7 n then s
  else
    let r := (List.range n).foldl (fun (x : List W128 × Option (Nat × Nat) × State) i =>
      if x.2.1.isSome then x
      else
        let a := ckptWord x.2.2 p im (done + i)
        if a.status = 0 then (x.1 ++ [a.data], none, a.s) else (x.1, some (done + i, a.status), a.s)) ([], none, s)
    match r.2.1 with
    | some (_, 9) => s
    | some (i, _) =>
      let at0 := match (ckptRegions im s.parts[p].curBuf)[i - 16]? with | some x => (partDev s p x.1 x.2).getD 0 | none => 0
      settle (ledgerEnd (modPart r.2.2 p fun q => { q with save := none }) p (jobId j) 0x02 0x0F22 (BitVec.ofNat 64 at0)) p
    | none =>
      presentBlock (modPart r.2.2 p fun q => { q with save := some (j, done + n) }) p 7 r.1 false (if done + n = total then 1 else 0)

/-- A save presents its blocks while there is room, once its design cycle is agreed (R390). -/
def saveBlocks (p : PartId) : Nat → State → State
  | 0, s => s
  | n + 1, s =>
    match s.parts[p].save, s.parts[p].image with
    | some (j, done), some im =>
      let t := saveBlock s p j done im
      if (match t.parts[p].save with | some (_, d) => d == done | none => true) then t else saveBlocks p n t
    | _, _ => s

/-- CHECKPOINT_SAVE. At most sixteen blocks stand presented. -/
def saveOp (s : State) (p : PartId) : State :=
  if dead s || frozen s || (twinActive s p && decide (s.parts[p].agreed.toNat < s.parts[p].designCycle)) then s
  else saveBlocks p 16 s

/-- A restore ends: its record, and the FIFO's in-stream words of it are gone. One that a memory error or a mismatch ends after content was written
sets STATE_LOST (R392). -/
def restoreEnd (s : State) (p : PartId) (r : Restore) (cause : Nat) (detail : Option W64) : State :=
  let lost := (cause == 0x0F21 || cause == 0x0F22) && decide (16 < r.words.length)
  settle (ledgerItem (modPart (modStream s p 7 fun st => { st with fifo := [] }) p fun q =>
      { q with restore := none, stateLost := q.stateLost || lost }) p
    (jobId r.job) 0x03 cause detail) p

/-- What a completed restore leaves (R392). -/
def restoreDone (s : State) (p : PartId) (im : Image) (c : Nat) : CommitRun :=
  let d : MasterKind := .hostPath (ownerOf s p)
  let c1 := if im.hdr.gated then
      clearRegion p d im im.hdr.cbmpOff { s := s, bad := none }
    else { s := s, bad := none }
  let c2 := if im.hdr.gated ∧ s.parts[p].cfg.twinMode then clearRegion p d im (im.hdr.cbmpOff + 16 * bmpWords im) c1 else c1
  { s := modPart (modStream (modStream c2.s p 2 fun st => { st with fifo := [] }) p 3 fun st => { st with ready := [] }) p fun q =>
      { q with designCycle := c, frames := [], released := c, undo := [], stateLost := false, fresh := true, agreed := BitVec.ofNat 64 c
               farIngest := min q.farIngest c, farAgain := false }
    bad := c2.bad }

/-- One word of a restore (R392); none while its write waits (R256). -/
def restoreWord (s : State) (p : PartId) (r : Restore) (im : Image) (w : W128) : Option State :=
  let i := r.words.length
  let q := s.parts[p]
  let keep (t : State) : State := modPart t p fun q => { q with restore := some { r with words := r.words ++ [w] } }
  let rs := ckptRegions im q.curBuf
  if i = 0 then
    if fld w 31 0 ≠ 0x54504B43 ∨ fld w 47 32 ≠ 1 ∨ fld w 63 48 ≠ 0 ∨ fld w 127 96 ≠ 0 then some (restoreEnd s p r 0x0F21 none)
    else if fld w 95 64 ≠ im.hdr.crc.toNat then some (restoreEnd s p r 0x0F20 none)
    else some (keep s)
  else if i = 1 then some (if fld w 127 64 ≠ 16 * rs.length then restoreEnd s p r 0x0F21 none else keep s)
  else if i < 16 then some (if w ≠ 0 then restoreEnd s p r 0x0F21 none else keep s)
  else
    match rs[i - 16]? with
    | some x =>
      let inBuf := i - 16 < im.hdr.stateBytes / 16
      let bufs := ((im.sections.find? fun y => y.kind == 4).map (·.length)).getD 0 / im.hdr.stateBytes
      let offs := if inBuf then (List.range bufs).map fun m => bufBase im m + 16 * (i - 16) else [x.2]
      let o := offs.foldl (fun (y : Option (Nat × Nat) × State) off =>
        if y.1.isSome then y
        else
          let a := writePart y.2 p (.hostPath (ownerOf s p)) (ckptCode s p x.1 off) x.1 off w allBytes
          (badAt off a.status, a.s)) (none, s)
      match o.1 with
      | some (_, 9) => none
      | some (off, _) =>
        some (restoreEnd (modPart o.2 p fun q => { q with stateLost := true }) p r 0x0F22
          (some (BitVec.ofNat 64 ((partDev s p x.1 off).getD 0))))
      | none => some (keep o.2)
    | none =>
      let c := fld (nth r.words 1 0) 63 0
      let v := crcOf 3 (BitVec.ofNat 64 c) (bytesOfWords (r.words.drop 16))
      if w ≠ v.setWidth 128 then some (restoreEnd (modPart s p fun q => { q with stateLost := true }) p r 0x0F21 none)
      else
        let d := restoreDone s p im c
        match d.bad with
        | some (_, 9) => none
        | some (off, _) => some (restoreEnd s p r 0x0F22 (some (devDetail s p off)))
        | none => some (restoreEnd d.s p r 0 none)

/-- The next word of a restore waits for a bank in handover (R234). -/
def restoreWaits (s : State) (p : PartId) (r : Restore) (im : Image) : Bool :=
  match (ckptRegions im s.parts[p].curBuf)[r.words.length - 16]? with
  | some x => decide (16 ≤ r.words.length) && inDrain s p x.1 x.2
  | none => false

/-- The restore consumes the words that have become available (R392, R308). -/
def restoreTake (p : PartId) : Nat → State → State
  | 0, s => s
  | n + 1, s =>
    match s.parts[p].restore, s.parts[p].image, s.parts[p].streams[(7 : Fin 8)].fifo with
    | some r, some im, w :: ws =>
      if frozen s || s.parts[p].ledger.held || restoreWaits s p r im || s.parts[p].streams[(7 : Fin 8)].out.any (fun b => !b.replay) then s
      else
        match restoreWord (modStream s p 7 fun st => { st with fifo := ws }) p r im w with
        | some t => restoreTake p n t
        | none => s
    | _, _, _ => s

/-- A restore goes on with what its FIFO holds. -/
def restoreGo (s : State) (p : PartId) : State := restoreTake p s.parts[p].streams[(7 : Fin 8)].fifo.length s

end Sys2Proof.Machine
end

