-- ==== Sys2Proof/Machine/Resync.lean ====
section
/-!
DEFINITION. The copy of a resync item (R406): what the primary sends of its twin-mode partitions, and what the secondary makes of it. The payload
layout of the frames is the model's (log 76).
-/

namespace Sys2Proof.Machine

/-- Partitions with TWIN_MODE 1. -/
def twinParts (s : State) : List PartId := (List.finRange 16).filter fun p => s.parts[p].cfg.twinMode

/-! ### The dirty map -/

/-- Device address `a` lies in the dirty map. -/
def inMap (s : State) (a : Nat) : Bool := decide (s.twin.mapBase.toNat ≤ a ∧ a < s.twin.mapBase.toNat + 393216)

/-- Words of the map that are not plain zero, by word number, ascending. -/
def mapWords (s : State) : List Nat :=
  let m := s.mem
  let ws : List Nat := m.cells.map (fun c => c.1 / 16) ++ m.poison ++ m.latent.map (fun l => l.word)
  (ws.filter fun w => inMap s (16 * w)).foldl (fun l w => insertAsc w l) []

/-- A unit that holds part of the map is fenced, so the map cannot be read whole. -/
def mapBad (s : State) : Bool :=
  (List.range 1536).any fun i => match unitOf s (s.twin.mapBase.toNat + 256 * i) with
    | some u => unitFenced s 3 u
    | none => true

/-- Progress of a copy: the state, and 0, or the status of the access that stopped it: 9 where it waits (R256), another for a memory error. -/
structure Copying where
  s : State
  bad : Nat

/-- The dirty map read by the twin engine (R406): the dirty granules, ascending. Its words are corrected and reported as any other (R220, R221). -/
def readMap (s : State) : List Nat × Copying :=
  (mapWords s).foldl (fun x w =>
    if x.2.bad ≠ 0 then x
    else
      let r := via x.2.s .twin (16 * w) fun t => readWord t 3 0 (16 * w)
      (x.1 ++ (bitsSet r.data 128).map (128 * (w - s.twin.mapBase.toNat / 16) + ·), { s := r.s, bad := r.status }))
    ([], { s := s, bad := if mapBad s then 8 else 0 })

/-- Dirty granules in the map. -/
def dirtyCount (s : State) : Nat := (readMap s).1.length

/-- The dirty map cleared for the next pass: the words that are not zero are written. -/
def clearMap (c : Copying) : Copying :=
  (mapWords c.s).foldl (fun c w =>
    if c.bad ≠ 0 then c
    else
      let r := via c.s .twin (16 * w) fun t => writeWord t 3 0 (16 * w) 0
      { s := r.s, bad := r.status }) c

/-! ### Memory -/

/-- Partition-relative offset of HBM device address `a`, if the placement holds it: the inverse of R219. -/
def partOff (s : State) (p : PartId) (a : Nat) : Option Nat :=
  let c := s.parts[p].cfg
  let w := s.wideGib.toNat
  if c.hbmMode = 0 then
    let lo := hbmLo + c.hbmBase.toNat * gib
    if lo ≤ a ∧ a < lo + c.hbmSize.toNat * gib then some (a - lo) else none
  else
    let lo := hbmLo + w * 2 ^ 33
    let per := (24 - w) * gib
    let st := (a - lo) / per
    let ls := (a - lo) % per - c.hbmBase.toNat * gib
    let (s0, k) := stackSet c.hbmStacks
    if lo ≤ a ∧ bit c.hbmStacks st ∧ c.hbmBase.toNat * gib ≤ (a - lo) % per ∧ ls < c.hbmSize.toNat / k * gib then
      some ((ls / 256 * k + (st - s0)) * 256 + ls % 256)
    else none

/-- Partition-relative offset of scratchpad device address `a`, if a bank of the partition holds it. -/
def bankOff (s : State) (p : PartId) (a : Nat) : Option Nat :=
  if spLo ≤ a ∧ a < spHi then
    ((partBanks s p).findIdx? fun b => b.val == (a - spLo) / bankBytes).map fun j => j * bankBytes + (a - spLo) % bankBytes
  else none

/-- The 256-byte blocks of a space that hold a listed word, by partition-relative offset, ascending. -/
def listedBlocks (s : State) (p : PartId) (space : Bool) : List Nat :=
  let off (a : Nat) : Option Nat := if space then bankOff s p a else partOff s p a
  let at0 : List Nat := s.mem.cells.map fun c => c.1
  let at1 : List Nat := s.mem.poison.map fun w => 16 * w
  let at2 : List Nat := s.mem.latent.map fun l => 16 * l.word
  ((at0 ++ at1 ++ at2).filterMap fun a => off (a / 256 * 256)).foldl (fun l x => insertAsc x l) []

/-- Blocks of the partition in granule `g`, by partition-relative offset. -/
def granuleBlocks (s : State) (p : PartId) (g : Nat) : List Nat := (List.range 256).filterMap fun i => partOff s p (hbmLo + 65536 * g + 256 * i)

/-- One block read and sent. -/
def sendBlock (p : PartId) (space : Bool) (c : Copying) (off : Nat) : Copying :=
  if c.bad ≠ 0 then c
  else
    let r := readRun c.s p .twin (ckptCode c.s p space off) space off 16
    match r.2.1 with
    | some (_, st) => { s := r.2.2, bad := st }
    | none => { s := sendFrame r.2.2 0x06 (inputWord 2 p space.toNat off :: r.1), bad := 0 }

/-- A space of the partition whole: what no block lists is zero. -/
def sendSpace (space : Bool) (c : Copying) (p : PartId) : Copying :=
  if c.bad ≠ 0 then c
  else if partMemFenced c.s p then { c with bad := 8 }
  else (listedBlocks c.s p space).foldl (sendBlock p space) { c with s := sendFrame c.s 0x06 [inputWord 4 p space.toNat 0] }

/-- The dirty granules: the map is read and cleared, and each of them is sent of the partitions it belongs to (R406). -/
def sendDirty (s : State) : Copying :=
  let m := readMap s
  (twinParts s).foldl (fun c p => (m.1.flatMap (granuleBlocks s p)).foldl (sendBlock p false) c) (clearMap m.2)

/-! ### Words of an image -/

/-- Header words that `headerOf` reads back. -/
def headerWords (h : Header) : List W128 :=
  [ at' 128 0 0x34365646 ||| at' 128 32 3 ||| at' 128 48 h.sectCount ||| at' 128 64 h.lveCount ||| at' 128 72 h.fourState.toNat |||
      at' 128 80 h.gated.toNat ||| at' 128 96 h.fold ||| at' 128 112 h.resultDepth,
    at' 128 64 h.stateBytes ||| BitVec.ofNat 128 h.rnMask.toNat,
    at' 128 64 h.rsltOff ||| BitVec.ofNat 128 h.cbmpOff,
    at' 128 96 h.energyNj ||| at' 128 64 h.dmwMax ||| at' 128 32 h.resultWords ||| BitVec.ofNat 128 h.stimWords,
    BitVec.ofNat 128 h.exchSlots ] ++ List.replicate 10 0 ++ [at' 128 96 h.crc.toNat]

/-- Table words of a section that `sectionOf` reads back. -/
def sectionWords (x : Section) : List W128 :=
  [at' 128 64 x.offset ||| at' 128 32 x.crc.toNat ||| at' 128 16 x.space ||| at' 128 8 x.lve ||| BitVec.ofNat 128 x.kind, BitVec.ofNat 128 x.length]

/-- An image as a list of words: header, section table, port map, one entry a word, and TRIGGERS contents. -/
def imageWords (im : Image) : List W128 :=
  headerWords im.hdr ++ im.sections.flatMap sectionWords ++ im.portMap.map (BitVec.ofNat 128 ·) ++ im.triggers

/-- The image that such a list spells; none for an empty list. -/
def imageFrom (ws : List W128) : Option Image :=
  if ws.isEmpty then none
  else
    let h := headerOf (bytesOfWords (ws.take 16))
    let rest := ws.drop (16 + 2 * h.sectCount)
    let n := h.stimWords + h.resultWords
    some { hdr := h, sections := sectionsOf ws h.sectCount, portMap := (rest.take n).map (·.toNat), triggers := rest.drop n }

/-! ### Lists -/

/-- A list of words of partition `p`, in frames of at most 256 payload words, the last of them marked. -/
def sendList (kind : Nat) (k : Nat) (p : PartId) (s : State) (ws : List W128) : State :=
  let cs := chunks 255 ws
  if cs.isEmpty then sendFrame s 0x06 [inputWord kind p k 1]
  else cs.zipIdx.foldl (fun t (c, i) => sendFrame t 0x06 (inputWord kind p k (decide (i + 1 = cs.length)).toNat :: c)) s

/-- Single entries of a partition that the copy holds. -/
def singleWords (q : Partition) : List W128 :=
  [q.cfg.barTimeout.setWidth 128, q.cfg.msixEvq.setWidth 128, q.cfg.msixLedger.setWidth 128, q.cfg.msixStream.setWidth 128,
   q.cfg.pwrCap.setWidth 128, q.cfg.weight.setWidth 128, boolW q.armEvq, boolW q.armLedger, boolW q.armStream,
   q.exchEditSlot.setWidth 128, q.exchEditW0, q.exchEditW1]

/-- A stream entry's settings, sequence numbers and in-stream words. -/
def streamWords (st : Stream) : List W128 :=
  (at' 128 96 st.seqOut.toNat ||| at' 128 64 st.seqIn.toNat ||| at' 128 32 st.discard.toNat ||| at' 128 16 st.watermark.toNat |||
    BitVec.ofNat 128 st.depth.toNat) :: st.fifo

/-- A bank's number and owner. -/
def bankWord (s : State) (b : BankId) : W128 := at' 128 8 s.banks[b].owner.toNat ||| BitVec.ofNat 128 b.val

/-- A VE's number and its interrupt levels. -/
def levelWord (s : State) (n : VeId) : W128 := at' 128 16 s.seq[n].intDb.toNat ||| at' 128 8 s.seq[n].intEv.toNat ||| BitVec.ofNat 128 n.val

/-- The configuration of a twin-mode partition (R398, R406): the members of its group, its single entries, its stream entries, its banks and the
interrupt levels of its VEs. -/
def sendCfg (s : State) (p : PartId) : State :=
  let s1 := sendList 1 0 p s ((members s (.part p)).map fun m => at' 128 120 m.1.toNat ||| (m.2.setWidth 120).setWidth 128)
  let s2 := sendList 6 0 p s1 (singleWords s.parts[p])
  let s3 := (List.finRange 8).foldl (fun t k => sendList 7 k.val p t (streamWords s.parts[p].streams[k])) s2
  sendList 18 0 p (sendList 8 0 p s3 ((partBanks s p).map (bankWord s))) ((vesOf s.parts[p].cfg.veSet).map (levelWord s))

/-- A block in progress and the words received of it. -/
def blockWords : Option InBlock → List W128
  | some b =>
    (at' 128 96 b.seq.toNat ||| at' 128 64 b.len ||| at' 128 32 b.crc.toNat ||| at' 128 31 b.skip.toNat ||| BitVec.ofNat 128 b.mark) :: b.got
  | none => []

/-- Words of a job. -/
def jobWords (j : Job) : List W128 := [j.w0, j.w1, boolW j.early]

/-- The segment in execution, at a design-cycle boundary: a run, a save or a restore, told by the entry of the list. -/
def sendExec (s : State) (p : PartId) : State :=
  let q := s.parts[p]
  match q.run, q.save, q.restore with
  | some r, _, _ => sendList 11 1 p s (jobWords r.job ++ [at' 128 127 r.draining.toNat ||| at' 128 126 r.trace.toNat ||| at' 128 125 r.det.toNat |||
      at' 128 64 r.cycle ||| BitVec.ofNat 128 r.last, BitVec.ofNat 128 r.jobLast])
  | none, some (j, n), _ => sendList 11 2 p s (jobWords j ++ [BitVec.ofNat 128 n])
  | none, none, some r => sendList 11 3 p s (jobWords r.job ++ r.words)
  | none, none, none => sendList 11 0 p s []

/-- The books of a partition: its cycle counters, buffers and flags. -/
def bookWords (q : Partition) : List W128 :=
  [at' 128 72 q.handDue.toNat ||| at' 128 71 q.stateLost.toNat ||| at' 128 70 q.swapDue.toNat ||| at' 128 69 q.exchActive.toNat |||
     at' 128 66 q.curBuf ||| at' 128 80 q.imageState.val ||| at' 128 96 q.exchSlotsAct.toNat ||| BitVec.ofNat 128 q.designCycle,
   BitVec.ofNat 128 q.released]

/-- What else the next design cycle of a held partition takes from it (R406). -/
def sendLive (s : State) (p : PartId) : State :=
  let q := s.parts[p]
  let s1 := sendList 5 0 p s (match q.image with | some im => imageWords im | none => [])
  let s2 := inEntries.foldl (fun t k => sendList 9 k.val p t (blockWords q.streams[k].cur)) s1
  let s3 := sendExec (sendList 10 0 p s2 (q.jobs.flatMap jobWords)) p
  let s4 := (List.finRange 2).foldl (fun t i => sendList 12 i.val p t (q.exchTables[i].flatMap fun w => [w.1, w.2])) s3
  let s5 := sendList 14 0 p s4 (q.frames.map fun f => BitVec.ofNat 128 f.cycle)
  let s6 := sendList 16 0 p s5 (BitVec.ofNat 128 q.trace.state.val :: (q.trace.counts.map (BitVec.ofNat 128 ·) ++ q.trace.prev))
  sendList 15 0 p (sendList 17 0 p s6 q.load) (bookWords q)

/-! ### At the secondary -/

/-- Configuration words of a resync set a partition's members on the secondary. -/
def resyncCfg (c : PartCfg) (set : List (Byte × W128)) : PartCfg :=
  let m (u : Nat) : Nat := member set u
  { c with
    veSet := BitVec.ofNat 64 (m 0x10), fpsub := BitVec.ofNat 8 (m 0x23), deterministic := m 0x24 != 0, hbmMode := BitVec.ofNat 8 (m 0x30)
    hbmStacks := BitVec.ofNat 8 (m 0x31), hbmBase := BitVec.ofNat 8 (m 0x32), hbmSize := BitVec.ofNat 8 (m 0x33)
    exchShadowSlots := BitVec.ofNat 16 (m 0x47), exchSwap := m 0x48 != 0, ownerPort := BitVec.ofNat 8 (m 0x50), paired := m 0x70 != 0
    twinMode := m 0x71 != 0 }

/-- Word `i` of a list, as a number. -/
def numAt (ws : List W128) (i : Nat) : Nat := (nth ws i 0).toNat

/-- The banks of a partition on the secondary are those that the list names, with their owners. -/
def resyncBanks (s : State) (p : PartId) (ws : List W128) : State :=
  let s1 := (partBanks s p).foldl (fun t b => modBank t b fun k => { k with part := 0xFF, owner := 0 }) s
  ws.foldl (fun t w => modBank t (Fin.ofNat 256 (fld w 7 0)) fun k =>
    { k with part := BitVec.ofNat 8 p.val, owner := BitVec.ofNat 8 (fld w 15 8), drain := none, held := [], waiters := [] }) s1

/-- The image of the primary becomes the secondary's, bound to its own engines. -/
def resyncImage (s : State) (p : PartId) (im : Option Image) : State :=
  let b := match im with
    | some x => (bindVes (bindSet s p) s.parts[p].cfg.paired x.hdr).getD []
    | none => []
  modPart (rebind s p b) p fun q => { q with image := im, fresh := true, loadQ := [] }

/-- A block in progress from its words. -/
def blockFrom : List W128 → Option InBlock
  | [] => none
  | w :: got => some { seq := BitVec.ofNat 32 (fld w 127 96), len := fld w 95 64, crc := BitVec.ofNat 32 (fld w 63 32), got := got
                       skip := bit w 31, wait := none, mark := fld w 30 0, left := 0 }

/-- Jobs from their words. -/
def jobsFrom : List W128 → List Job
  | a :: b :: e :: r => { w0 := a, w1 := b, early := e != 0 } :: jobsFrom r
  | _ => []

/-- The segment in execution. -/
def resyncExec (q : Partition) (k : Nat) (ws : List W128) : Partition :=
  match jobsFrom (ws.take 3) with
  | j :: _ =>
    let w := nth ws 3 0
    if k = 1 then
      { q with save := none, restore := none
               run := some { job := j, last := fld w 63 0, jobLast := numAt ws 4, cycle := fld w 124 64, phase := .ingest, obs := false, trace := bit w 126, det := bit w 125
                             brk := false, draining := bit w 127, stim := [], done := [], firstDone := none, slots := [], writes := [], dmq := []
                             grants := [], grantSeq := 0 } }
    else if k = 2 then { q with run := none, restore := none, save := some (j, w.toNat) }
    else { q with run := none, save := none, restore := some { job := j, words := ws.drop 3 } }
  | [] => { q with run := none, save := none, restore := none }

/-- The trigger slots that a traced segment holds on the secondary, with the primary's counters and previous values (R409, R434 row 18). -/
def resyncTrace (s : State) (p : PartId) (ws : List W128) : State :=
  let s1 := freeTriggers s p
  match s.parts[p].run, s.parts[p].image.bind trigSect with
  | some r, some t =>
    if r.trace then
      let n := t.trigs.length
      holdTriggers s1 p (leadDie s p) n (Fin.ofNat 4 (numAt ws 0)) (((ws.drop 1).take n).map (·.toNat)) (ws.drop (1 + n))
    else s1
  | _, _ => s1

/-- A whole list of the copy takes effect on partition `p`. -/
def resyncList (s : State) (p : PartId) (k : Fin 8) (kind : Nat) (ws : List W128) : State :=
  let md (f : Partition → Partition) : State := modPart s p f
  if kind = 1 then md fun q => { q with cfg := resyncCfg q.cfg (ws.map fun x => (BitVec.ofNat 8 (fld x 127 120), BitVec.ofNat 128 (fld x 119 0))) }
  else if kind = 5 then resyncImage s p (imageFrom ws)
  else if kind = 6 then md fun q =>
    { q with cfg := { q.cfg with barTimeout := BitVec.ofNat 32 (numAt ws 0), msixEvq := BitVec.ofNat 8 (numAt ws 1)
                                 msixLedger := BitVec.ofNat 8 (numAt ws 2), msixStream := BitVec.ofNat 8 (numAt ws 3)
                                 pwrCap := BitVec.ofNat 16 (numAt ws 4), weight := BitVec.ofNat 8 (numAt ws 5) }
             armEvq := numAt ws 6 != 0, armLedger := numAt ws 7 != 0, armStream := numAt ws 8 != 0
             exchEditSlot := BitVec.ofNat 16 (numAt ws 9), exchEditW0 := nth ws 10 0, exchEditW1 := nth ws 11 0 }
  else if kind = 7 then
    let w := nth ws 0 0
    modStream s p k fun st => { st with depth := BitVec.ofNat 16 (fld w 15 0), watermark := BitVec.ofNat 16 (fld w 31 16), discard := bit w 32
                                        seqIn := BitVec.ofNat 32 (fld w 95 64), seqOut := BitVec.ofNat 32 (fld w 127 96), fifo := ws.drop 1 }
  else if kind = 8 then resyncBanks s p ws
  else if kind = 9 then modStream s p k fun st => { st with cur := blockFrom ws, recvd := [], raw := [], out := [], ready := [] }
  else if kind = 10 then md fun q => { q with jobs := jobsFrom ws }
  else if kind = 11 then md fun q => resyncExec q k.val ws
  else if kind = 12 then md fun q => { q with exchTables := updV q.exchTables (Fin.ofNat 2 k.val) fun _ => pairUp ws }
  else if kind = 14 then md fun q => { q with frames := ws.map fun w => { cycle := w.toNat, own := none, stim := [] } }
  else if kind = 15 then
    let w := nth ws 0 0
    md fun q => { q with designCycle := fld w 63 0, curBuf := fld w 68 66 % 3, exchActive := bit w 69, swapDue := bit w 70, stateLost := bit w 71
                         edits := [], handDue := bit w 72, imageState := Fin.ofNat 5 (fld w 82 80), exchSlotsAct := BitVec.ofNat 16 (fld w 111 96)
                         released := numAt ws 1, fresh := true, undo := [], undoNext := 0, farDig := [], farStarts := 0, farIngest := 0, farAgain := false
                         farFail := none, mirror := [], mismatchAt := 0, mismatchRepeat := 0 }
  else if kind = 16 then resyncTrace s p ws
  else if kind = 17 then md fun q => { q with load := ws, loadQ := [] }
  else if kind = 18 then
    ws.foldl (fun t w => modSeq t (Fin.ofNat 64 (fld w 7 0)) fun c =>
      { c with intEv := BitVec.ofNat 8 (fld w 15 8), intDb := BitVec.ofNat 8 (fld w 23 16) }) s
  else s

/-- A word of the copy written by the twin engine; a frame does not wait, so a write that would wait at an arbiter is made at its target (log 76). -/
def copyIn (s : State) (p : PartId) (space : Bool) (off : Nat) (v : W128) : Acc :=
  let r := writePart s p .twin (ckptCode s p space off) space off v allBytes
  if r.status = 9 then
    match partDev s p space off with
    | some a => writeWord s 3 (ckptCode s p space off) a v
    | none => r
  else r

/-- The copy met a fence on the secondary: it reports it, and the item fails (R406, R434 row 6; log 76). -/
def copyFails (s : State) (p : PartId) : State := toTwinState (sendFrame s 0x02 [inputWord 10 p 0 0]) 4

/-- Memory words of the copy: a block at a partition-relative offset. -/
def resyncMem (s : State) (p : PartId) (space : Bool) (off : Nat) (ws : List W128) : State :=
  let r := ws.zipIdx.foldl (fun (x : State × Bool) y =>
    if x.2 then x
    else
      let a := copyIn x.1 p space (off + 16 * y.2) y.1
      (a.s, a.status != 0)) (s, false)
  if r.2 then copyFails r.1 p else r.1

/-- A space of the partition is zero before its listed blocks come; none of it is written where a unit of it is fenced (R239). -/
def resyncZero (s : State) (p : PartId) (space : Bool) : State :=
  let mine (a : Nat) : Bool := (if space then bankOff s p a else partOff s p a).isSome
  if partMemFenced s p then copyFails s p
  else
    { s with mem := { s.mem with
        cells := s.mem.cells.filter fun c => !mine c.1
        poison := s.mem.poison.filter fun w => !mine (16 * w)
        latent := s.mem.latent.filter fun l => !mine (16 * l.word)
        writeBack := s.mem.writeBack.filter fun w => !mine (16 * w) } }

end Sys2Proof.Machine
end

