-- ==== Sys2Proof/Machine/Twin.lean ====
section
/-!
DEFINITION. The Sundov twin (R396-R406): frames received, the loss of the twin, promotion, detach and the resync item. The payload layouts of
heartbeat, forwarded-input, progress and resync frames are the model's (log 35).
-/

namespace Sys2Proof.Machine

/-- Received blocks whose last frame `ok` selects wait for the twin no more, and complete (R399). -/
def finishWaits (s : State) (p : PartId) (ok : W32 → Bool) : State :=
  inEntries.foldl (fun t k =>
    let t1 := modStream t p k fun st => { st with recvd := st.recvd.map fun b => { b with wait := b.wait.filter fun w => !ok w } }
    endBlocks t1 p k) s

/-- A partition goes on after a change of its twin's state. -/
def partGo (s : State) (p : PartId) : State := restoreGo (kick s p) p

/-! ### Loss of the twin -/

/-- A twin-mode partition goes on solo: items that waited for the twin complete, and each committed design cycle is agreed (R404). -/
def soloPart (s : State) (p : PartId) : State :=
  let s1 := finishWaits (ledgerAcked s none p) p fun _ => true
  partGo (agreeTo s1 p s1.parts[p].designCycle) p

/-- A resync item ends: its record in the ledger of every twin-mode partition and event 711 (R406). -/
def resyncEnd (s : State) (cause : Nat) : State :=
  match s.twin.resync with
  | none => s
  | some r =>
    let s1 := { s with twin := { s.twin with resync := none } }
    let s2 := (twinParts s).foldl (fun t p => ledgerItem t p r.tag 0x05 cause none) s1
    raiseN s2 711 (if cause = 0 then 0 else 1)

/-- The primary treats the twin as lost, or detaches from it (R404, R406): state 4, solo partitions and event 710; a resync in progress fails. -/
def loseTwin (s : State) (byDetach : Bool) : State :=
  if s.twin.state = 1 ∨ s.twin.state = 2 ∨ s.twin.state = 3 then
    let s1 := resyncEnd (toTwinState { s with twin := { s.twin with detachDue := false } } 4) 0x0F32
    raiseN ((twinParts s).foldl soloPart s1) 710 (ofBit byDetach)
  else s

/-- A promoted secondary's partition (R405): the mirror's records enter the ledger (R403), then a failed record for each block whose header was
forwarded and whose payload was not; committed design cycles stand. -/
def promotePart (s : State) (p : PartId) : State :=
  let m := s.parts[p].mirror
  let s1 := modPart s p fun q => { q with mirror := [], trace := { q.trace with first := true } }
  let s2 := m.foldl (fun t r => ledgerPut t p r) s1
  let s3 := inEntries.foldl (fun t k => match t.parts[p].streams[k].cur with
    | some b => failBlock t p k b 0x0F40 none
    | none => t) s2
  partGo (agreeTo s3 p s3.parts[p].designCycle) p

/-- Promotion (R405): state 6, its own ports and dispatch, and event 709. -/
def promote (s : State) : State :=
  let s1 := toTwinState { s with twin := { s.twin with lostAt := none, selfFresh := false } } 6
  raiseN ((twinParts s).foldl promotePart s1) 709 0

/-- The secondary's side of a loss (R405): promotion at once, or the wait for TWIN_PRESENT_N. One that was not paired holds nothing to go on with:
linking or synchronising it has no twin any more, detached it stays so (R397, log 19). -/
def secondaryLoss (s : State) : State :=
  if s.twin.state = 1 ∨ s.twin.state = 2 then toTwinState s 0
  else if s.twin.state ≠ 3 then s
  else if s.boot.twinPresentN || s.twin.fatal then promote s
  else { s with twin := { s.twin with lostAt := some (timeNow s) } }

/-- The twin is lost to this device (R385, R404, R405). -/
def twinIsLost (s : State) : State := if s.twin.primary then loseTwin s false else secondaryLoss s

/-- The link is lost (R396): event 705, the twin engine's transactions are reset (R261), and no frame awaits an acknowledgement. -/
def sundovDown (s : State) (sunk : Nat) : State :=
  if !s.twin.linkUp then s
  else
    let s1 := { s with twin := { s.twin with linkUp := false, unacked := [] } }
    twinIsLost (raiseN (sinkResponses s1 0x220 sunk) 705 0)

/-- Forwarding stops once every committed design cycle of every twin-mode partition is agreed (R406). -/
def detachGo (s : State) : State :=
  if s.twin.detachDue && s.twin.state == 3 && s.twin.primary &&
      ((twinParts s).all fun p => decide (s.parts[p].designCycle ≤ s.parts[p].agreed.toNat)) then
    loseTwin (sendFrame s 0x02 [inputWord 8 0 0 0]) true
  else s

/-! ### Frames -/

/-- What an acknowledgement lets go: frames, ledger records (R403) and in-stream blocks (R399). -/
def frameAcked (s : State) (ack : W32) : State :=
  let done : W32 → Bool := fun w => decide ((ack - w).toNat < 2 ^ 31)
  let s1 := { s with twin := { s.twin with unacked := s.twin.unacked.dropWhile fun x => done x.1 } }
  (List.finRange 16).foldl (fun t p =>
    if forwards t p then partGo (finishWaits (ledgerAcked t (some ack) p) p done) p else t) s1

/-- The frame's CRC over header bits [127:32] and the payload, with tag SEQ (Table 15.6). -/
def frameCrcOk (f : SFrame) : Bool :=
  (crcOf 2 (BitVec.ofNat 64 (fld f.hdr 127 96)) ((bytesOf f.hdr 16).drop 4 ++ bytesOfWords f.payload)).toNat % 2 ^ 32 == fld f.hdr 31 0

/-- A frame of TYPE `kind` arrives (R396): discarded when the CRC is wrong or SEQ is not the next expected, else its ACK is taken. -/
def rxFrame (s : State) (kind : Nat) (f : SFrame) : Option State :=
  if dead s || !s.twin.linkUp || fld f.hdr 95 88 != kind || fld f.hdr 76 64 != f.payload.length || decide (256 < f.payload.length) ||
      !frameCrcOk f || fld f.hdr 127 96 != s.twin.recvSeq.toNat then none
  else some (frameAcked { s with twin := { s.twin with recvSeq := s.twin.recvSeq + 1 } } (BitVec.ofNat 32 (fld f.hdr 63 32)))

/-- The first payload word. -/
def payHead (f : SFrame) : W128 := f.payload.headD 0

/-- Partition and stream entry that a payload's first word names. -/
def payPart (w : W128) : PartId := Fin.ofNat 16 (fld w 119 116)
/-- The stream entry. -/
def payEntry (w : W128) : Fin 8 := Fin.ofNat 8 (fld w 115 112)

/-- REVISION (R2, R325). -/
def revision (s : State) : W32 := at' 32 24 s.boot.fwMajor.toNat ||| at' 32 16 s.boot.fwMinor.toNat ||| Config.dieRevision.setWidth 32

/-- What this device reports of itself in a heartbeat. -/
def heartWord (s : State) (rev : W32) : W128 :=
  at' 128 96 s.twin.state.val ||| at' 128 64 s.twin.selfFresh.toNat ||| BitVec.ofNat 128 rev.toNat

/-- A heartbeat reports the far device's state, freshness and revision (R406). -/
def heartbeatOp (s : State) (f : SFrame) : State :=
  match rxFrame s 1 f with
  | none => s
  | some t =>
    if f.payload.isEmpty then t
    else
      let w := payHead f
      { t with twin := { t.twin with farState := Fin.ofNat 7 (fld w 98 96), farFresh := bit w 64, farRevision := BitVec.ofNat 32 (fld w 31 0) } }

/-- A digest (R400). -/
def digestOp (s : State) (f : SFrame) : State :=
  match rxFrame s 3 f with
  | none => s
  | some t =>
    let w := payHead f
    let p : PartId := Fin.ofNat 16 (fld w 63 60)
    if !twinActive t p then t
    else
      detachGo (agreeGo (modPart t p fun q =>
        { q with farDig := q.farDig ++ [(fld w 59 0, BitVec.ofNat 64 (fld w 127 64))] }) p)

/-- A save in execution with this item sequence ends: its record was copied from the primary (R390, R399). -/
def farSaveEnds (s : State) (p : PartId) (item : Nat) : State :=
  match s.parts[p].save with
  | some (j, _) => if (jobId j).toNat = item then kick (settle (modPart s p fun q => { q with save := none }) p) p else s
  | none => s

/-- A ledger copy enters the mirror ledger (R403); that of a save ends the save here too. -/
def ledgerCopyOp (s : State) (f : SFrame) : State :=
  match rxFrame s 4 f with
  | none => s
  | some t =>
    let p : PartId := Fin.ofNat 16 (fld (payHead f) 3 0)
    let r := nth f.payload 1 0
    if twinActive t p && !t.twin.primary then
      let u := modPart t p fun q => { q with mirror := q.mirror ++ [r] }
      if fld r 95 88 = 0x02 then farSaveEnds u p (fld r 127 96) else u
    else t

/-- Progress: an out block of the primary completed (R400, R403): frames up to its design cycle are dropped, the mirror's oldest records leave. -/
def progressOp (s : State) (f : SFrame) : State :=
  match rxFrame s 5 f with
  | none => s
  | some t =>
    let w := payHead f
    let p := payPart w
    let x := fld w 63 0
    if !twinActive t p || t.twin.primary then t
    else
      let u := modStream t p (payEntry w) fun st => { st with seqOut := BitVec.ofNat 32 (fld w 95 64) + 1 }
      if payEntry w = 6 then modPart u p fun q => { q with mirror := q.mirror.drop x }
      else if payEntry w = 3 ∧ x ≠ 0 then
        tryComplete (modPart u p fun q =>
          { q with released := max q.released x, frames := q.frames.filter fun g => decide (x < g.cycle) }) p
      else u

/-- A fatal notice (R405). -/
def fatalOp (s : State) (f : SFrame) : State :=
  match rxFrame s 7 f with
  | none => s
  | some t => { t with twin := { t.twin with fatal := true } }

/-! ### The resync item -/

/-- The partition can be copied whole: it stands at a design-cycle boundary, and nothing of it is under way in its banks or on entry 1. -/
def heldStill (s : State) (p : PartId) : Bool :=
  let q := s.parts[p]
  (match q.run with | some r => r.phase == .ingest && !r.obs | none => true) && q.loadQ.isEmpty && !fillDue q && q.edits.isEmpty &&
  (partBanks s p).all fun b => s.banks[b].drain.isNone

/-- Every twin-mode partition stands at a design-cycle boundary. -/
def allHeld (s : State) : Bool := (twinParts s).all (heldStill s)

/-- The accepted commit goes to the twin (R399). -/
def forwardCommit (s : State) (pd : Pending) : State :=
  let (ix, _, c, _) := grpCtl pd.grp
  let body := (at' 128 64 pd.by'.val ||| at' 128 32 pd.tag.toNat) :: (BitVec.ofNat 128 pd.due) ::
    pd.set.map fun m => at' 128 120 m.1.toNat ||| (m.2.setWidth 120).setWidth 128
  match (grpLedgers s pd.grp pd.set).filter fun p => forwards s p with
  | p :: _ => forward s 2 p 0 (ix.toNat * 256 + c.toNat) body
  | [] => s

/-- Both devices are paired: state 3, with the secondary beginning at the next design cycle (R406). The records that the ledgers hold now are
mirrored nowhere (R403). -/
def pairUpNow (s : State) : State :=
  let s1 := toTwinState { s with twin := { s.twin with selfFresh := false, fatal := false } } 3
  raiseN ((twinParts s).foldl (fun t p => modPart (agreeTo t p t.parts[p].designCycle) p fun q =>
    { q with ledger := { q.ledger with uncopied := q.ledger.ring.length } }) s1) 706 0

/-- A resync item fails: the primary returns to state 4 (R406). -/
def resyncFails (s : State) : State := resyncEnd (toTwinState s 4) 0x0F32

/-- A part of the copy has been read and sent: the item goes on, or fails at a memory error; where an access waits, nothing is copied yet and the
state stays `s`. -/
def copied (s : State) (c : Copying) (r : Resync) (ph : ResyncPhase) : State :=
  if c.bad = 9 then s
  else if c.bad ≠ 0 then resyncFails c.s
  else { c.s with twin := { c.s.twin with resync := some { r with phase := ph, due := false } } }

/-- The hold's end (R406): the remaining dirty granules, every partition bank and what the next design cycle takes are copied, both devices
enter state 3, and pending commits are forwarded. -/
def holdEnds (s : State) : State :=
  let c := (twinParts s).foldl (sendSpace true) (sendDirty s)
  if c.bad = 9 then s
  else if c.bad ≠ 0 then resyncFails c.s
  else
    let s1 := (twinParts s).foldl (fun t p => sendLive (sendCfg t p) p) c.s
    let s2 := resyncEnd (pairUpNow (sendFrame s1 0x06 [inputWord 3 0 0 0])) 0
    s2.dict.pending.foldl forwardCommit s2

/-- The copy of each twin-mode partition's whole HBM (R406). -/
def copyWhole (s : State) (r : Resync) : State :=
  copied s ((twinParts s).foldl (sendSpace false) { s := s, bad := if mapBad s then 8 else 0 }) r .whole

/-- The map is read at the end of pass `n`: the next pass, or the hold. -/
def passOn (s : State) (r : Resync) (n : Nat) : State :=
  let m := readMap s
  if m.2.bad = 9 then s
  else if m.2.bad ≠ 0 then resyncFails m.2.s
  else if m.1.length < 1024 ∨ 8 ≤ n then { m.2.s with twin := { m.2.s.twin with resync := some { r with phase := .hold } } }
  else copied s (sendDirty s) r (.pass (n + 1))

/-- A copy pass ends (R406): another pass while 64 MiB or more are dirty and fewer than eight have run, else the hold, and pairing at its
end. A memory error fails the item. What a pass copies is read when the pass begins; later writes are in the dirty map. -/
def resyncPassOp (s : State) (failed : Bool) : State :=
  match s.twin.resync with
  | none => s
  | some r =>
    if dead s || s.twin.state != 2 then s
    else if failed then resyncFails s
    else
      match r.phase with
      | .whole => if r.due then copyWhole s r else copied s (sendDirty s) r (.pass 1)
      | .pass n => passOn s r n
      | .hold => if allHeld s then holdEnds s else s

/-- A tag written to TWIN_PAIR starts the item (R406): event 708, the configuration of each twin-mode partition, dirty tracking, and the copy of
each partition's whole HBM. -/
def resyncStart (s : State) (tag : W32) : State :=
  let r : Resync := { tag := tag, phase := .whole, due := true }
  let s1 := toTwinState { s with twin := { s.twin with resync := some r } } 2
  let s2 := sendFrame (raiseN s1 708 tag) 0x06 [inputWord 0 0 0 0]
  copyWhole (clearMap { s := (twinParts s).foldl sendCfg s2, bad := 0 }).s r

/-- Resync data on the secondary (R406): the begin, memory words, a space all zero, the frames of a list, and the end. -/
def resyncDataOp (s : State) (f : SFrame) : State :=
  match rxFrame s 6 f with
  | none => s
  | some t =>
    let w := payHead f
    let p := payPart w
    let body := f.payload.drop 1
    let kind := fld w 127 120
    if t.twin.primary || f.payload.isEmpty then t
    else if kind = 0 then (if t.twin.state = 1 then toTwinState { t with twin := { t.twin with buf := [] } } 2 else t)
    else if t.twin.state ≠ 2 then t
    else if kind = 2 then resyncMem t p (bit w 112) (fld w 111 0) body
    else if kind = 4 then resyncZero t p (bit w 112)
    else if kind = 3 then pairUpNow t
    else
      let ws := t.twin.buf ++ body
      if bit w 0 then resyncList { t with twin := { t.twin with buf := [] } } p (payEntry w) kind ws
      else { t with twin := { t.twin with buf := ws } }

/-! ### Commands -/

/-- HEARTBEAT (R396). -/
def execHeartbeat (f : SFrame) (s : State) : Host.Outcome State Fault Refusal := .next (heartbeatOp s f)
/-- HEARTBEAT_SEND (R396): after 1 µs with no other frame. -/
def execHeartbeatSend (s : State) : Host.Outcome State Fault Refusal :=
  .next (if dead s then s else sendFrame s 1 [heartWord s (revision s)])
/-- DIGEST (R400). -/
def execDigest (f : SFrame) (s : State) : Host.Outcome State Fault Refusal := .next (digestOp s f)
/-- LEDGER_COPY (R403). -/
def execLedgerCopy (f : SFrame) (s : State) : Host.Outcome State Fault Refusal := .next (ledgerCopyOp s f)
/-- PROGRESS (R400, R403). -/
def execProgress (f : SFrame) (s : State) : Host.Outcome State Fault Refusal := .next (progressOp s f)
/-- RESYNC_DATA (R406). -/
def execResyncData (f : SFrame) (s : State) : Host.Outcome State Fault Refusal := .next (resyncDataOp s f)
/-- FATAL_NOTICE (R405). -/
def execFatalNotice (f : SFrame) (s : State) : Host.Outcome State Fault Refusal := .next (fatalOp s f)

/-- Every unacknowledged frame is sent again from the oldest (R396). -/
def resendOp (s : State) : State :=
  if dead s || !s.twin.linkUp then s
  else
    s.twin.unacked.foldl (fun t x =>
      emit { t with twin := { t.twin with resends := satInc t.twin.resends } } (.frame x.2.1 (frameOf x.1 (t.twin.recvSeq - 1) x.2.1 x.2.2))) s

/-- FRAME_RESEND (R396). -/
def execFrameResend (s : State) : Host.Outcome State Fault Refusal := .next (resendOp s)

/-- The link comes up (R397, event 704): sequence numbers start at 0, and a device without a twin is linking. The twin then has power, so the
board drives TWIN_PRESENT_N low (R396, log 39). -/
def sundovUpOp (s : State) (lanes : BitVec 4) : State :=
  if dead s || s.twin.linkUp || bit s.boot.pllGone 24 then s
  else
    let t := s.twin
    let s1 := { s with
      twin := { t with linkUp := true, sendSeq := 0, recvSeq := 0, unacked := [] }
      boot := { s.boot with twinPresentN := false } }
    raiseN (if t.state = 0 then toTwinState s1 1 else s1) 704 (lanes.setWidth 32)

/-- SUNDOV_LINK_UP (R397). -/
def execSundovLinkUp (lanes : BitVec 4) (s : State) : Host.Outcome State Fault Refusal := .next (sundovUpOp s lanes)
/-- SUNDOV_LINK_LOSS: no valid frame for 4 us, not counting frozen time (R396, R404, R405, R416). -/
def execSundovLinkLoss (sunk : Fin 33) (s : State) : Host.Outcome State Fault Refusal :=
  .next (if dead s || frozen s then s else sundovDown s sunk.val)

/-- The presence wait ends with TWIN_PRESENT_N still low: isolated, event 712 (R405). -/
def presenceOp (s : State) : State :=
  if dead s || s.twin.lostAt.isNone then s
  else raiseN (toTwinState { s with twin := { s.twin with lostAt := none } } 5) 712 0

/-- PRESENCE_WAIT_EXPIRY (R405). -/
def execPresenceWaitExpiry (s : State) : Host.Outcome State Fault Refusal := .next (presenceOp s)

/-- TWIN_PRESENT_N rises: a secondary in its presence wait is promoted (R405). -/
def presentHighOp (s : State) : State :=
  let s1 := { s with boot := { s.boot with twinPresentN := true } }
  if dead s || s.twin.lostAt.isNone then s1 else promote s1

/-- TWIN_PRESENT_N_HIGH (R405). -/
def execTwinPresentNHigh (s : State) : Host.Outcome State Fault Refusal := .next (presentHighOp s)
/-- RESYNC_PASS_END (R406). -/
def execResyncPassEnd (failed : Bool) (s : State) : Host.Outcome State Fault Refusal := .next (resyncPassOp s failed)

end Sys2Proof.Machine
end

