-- ==== Sys2Proof/Machine/Fence.lean ====
section
/-!
DEFINITION. Fences (R393-R395, Table 15.4) of VEs, host ports, partitions, CRC units, links, dies and the lockstep pair, the reset of a host
port (R288), paired mismatches (R389) and the loss of a clock (R430).
-/

namespace Sys2Proof.Machine

/-- Event 725 with a reason that no rule gives for the kind: a free value (log 2). -/
def fenceEventFree (s : State) (kind number : Nat) : State :=
  fenceEvent (drawNat s).2 kind number ((drawNat s).1 % 256)

/-! ### Items of a partition -/

/-- A save and a restore in execution fail with one cause. -/
def failCkpt (s : State) (p : PartId) (cause : Nat) (detail : Option W64) : State :=
  let s1 := match s.parts[p].save with
    | some (j, _) => settle (ledgerItem (modPart s p fun q => { q with save := none }) p (jobId j) 0x02 cause detail) p
    | none => s
  match s1.parts[p].restore with
  | some r => restoreEnd s1 p r cause detail
  | none => s1

/-- Exchange slots of the partition are in progress. -/
def slotsRun (s : State) (p : PartId) : Bool :=
  match s.parts[p].run with
  | some r => r.slots.any fun y => y.2 != .complete
  | none => false

/-- What a fence leaves of the exchange of partition `p`, `but` a VE that the fence's own sinks speak for: the slots in progress stop, their accepted
fragments complete and the others are withdrawn (R261, R279). -/
def stopSlots (s : State) (p : PartId) (but : List VeId) : State :=
  if slotsRun s p then
    let c := freeCut s p
    exchangeStops c.2 p none { c.1 with sunk := c.1.sunk.filter fun y => !but.contains y.1 }
  else s

/-- Every executing or queued job segment, save and restore of a partition fails with one cause. -/
def failJobs (s : State) (p : PartId) (cause : Nat) (detail : Option W64) : State :=
  let s0 := stopSlots s p []
  let s1 := match detail with
    | some d => failSegment s0 p cause d
    | none => failSegmentFree s0 p cause
  let s2 := failCkpt s1 p cause detail
  settle (s2.parts[p].jobs.foldl (fun t j => ledgerItem t p (jobId j) (jobKind j) cause detail) (modPart s2 p fun q => { q with jobs := [] })) p

/-- The executing segment ends as a memory fence ends it (Table 15.4): a running slot that meets the fenced memory is the exchange fault of R279, with
its detail (R285); else it ends with 0x0304. -/
def endSegment (s : State) (p : PartId) : State :=
  match fencedSlot s p with
  | some (i, n, st, atDst, space, a) =>
    let c := freeCut s p
    exchangeFails c.2 p i n st atDst space a c.1
  | none => failSegmentFree (stopSlots s p []) p 0x0304

/-- What the host stream path carries ends as a memory fence ends it: save and restore, and push blocks in progress (Table 15.4). -/
def endHostItems (s : State) (p : PartId) : State := kick (failItems (failCkpt s p 0x0F22 none) p 0x0803 none) p

/-- The in-flight items of every partition that a memory fence has reached end (R26, R241, Table 15.4). -/
def endReached (s : State) : State :=
  let m := s.fab.hit
  if m = 0 then s
  else
    (List.finRange 16).foldl (fun t p => if bit m p.val then endHostItems (endSegment t p) p else t) { s with fab := { s.fab with hit := 0 } }

/-- What follows a fence: the items of the partitions it reaches end, and one that reaches a twin-mode partition on the paired secondary makes
the primary treat the twin as lost (R434 row 6). -/
def fenceReach (s : State) : State :=
  endReached (if s.twin.state = 3 ∧ !s.twin.primary ∧ ((twinParts s).any fun p =>
      partMemFenced s p || s.parts[p].fenced || s.parts[p].bind.any fun n => s.eng[n].fenced != 0) then
    toTwinState (sendFrame s 0x02 [inputWord 10 0 0 0]) 4
  else s)

/-! ### VEs -/

/-- VE `n` takes part in the executing segment of `p`, as a bound engine or as the trailer of a bound pair (R388). -/
def servesRun (s : State) (p : PartId) (n : VeId) : Bool :=
  let q := s.parts[p]
  q.run.isSome && (q.bind.contains n || (q.cfg.paired && q.bind.any fun m => m.val == n.val / 2 * 2))

/-- A VE is fenced (Table 15.4): its segment fails with 0x0F01, its banks pass to the host stream path, its ring moves (R355), its requests are
withdrawn (R261) and its substitution is disarmed (R146). -/
def fenceVe (s : State) (n : VeId) (reason : Nat) (sunk : Sunk) : State :=
  if s.eng[n].fenced ≠ 0 then s
  else
    let s1 := modEng s n fun e =>
      { e with fenced := BitVec.ofNat 8 reason, queue := [], openIns := [], stopped := false, vfDue := false, substEn := false }
    let s2 := sinkVe (modSeq (withdraw s1 (veMasters n 7)) n fun k => { k with entry := none }) n 7 sunk
    let s3 := match (List.finRange 16).find? fun p => servesRun s p n with
      | some p => failSegment (stopSlots s2 p [n]) p 0x0F01 (at' 64 58 n.val ||| BitVec.ofNat 64 reason)
      | none => s2
    let s4 := match execPart s n with
      | some p => veBanksToHost s3 p n
      | none => s3
    fenceEvent (moveRing s4 n) 1 n.val reason

/-! ### Host ports -/

/-- Requests and held words of the port's receive buffer are gone, and blocks partly read are presented again (R261, R288). -/
def portStreams (s : State) (h : PortId) (cause : Nat) (detail : Option W64) (sunk : Nat) : State :=
  let s1 := modPort s h fun t => { t with rx := [] }
  let s2 := sinkResponses (withdraw s1 fun m => m == 0x200 + h.val) (0x200 + h.val) sunk
  let s3 := loseClaims s2 fun c => c.by'.val == h.val
  let s4 := { s3 with dict :=
    { s3.dict with half := updV s3.dict.half (h.castLE (by decide)) fun _ => none, waiting := s3.dict.waiting.filter fun x => x.by' != h.castLE (by decide) } }
  (ownedBy s h).foldl (fun t p => rewindOut (failPushes t p cause detail) p) s4

/-- A port's PCIe logic, configuration space, MSI-X table and stream path are reset (R288, R265). -/
def portReset (s : State) (h : PortId) (sunk : Nat) : State :=
  let s1 := portStreams s h 0x0901 (some (BitVec.ofNat 64 (0x200 + h.val))) sunk
  modPort s1 h fun t => { t with msixTable := msixTableReset, msixPending := 0, cfg := .reset }

/-- A host port is fenced (R309): `why` 1 management, 2 stream-path fault, 3 its die. -/
def fencePort (s : State) (h : PortId) (why sunk : Nat) : State :=
  if s.ports[h].fenced then s
  else
    let s1 := modPort s h fun t => { t with fenced := true, link := 3, width := 0, speed := 0 }
    let s2 := portStreams s1 h 0x0B07 none sunk
    fenceEvent (raiseN s2 (583 + 8 * h.val) (BitVec.ofNat 32 why)) 5 h.val why

/-- A host port's link goes down (R288, Table 11.8 event 1). -/
def linkDown (s : State) (h : PortId) (sunk : Nat) : State :=
  if s.ports[h].fenced || s.ports[h].link == 0 then s
  else raiseN (portReset (modPort s h fun t => { t with link := 0, width := 0, speed := 0 }) h sunk) (577 + 8 * h.val) 0

/-! ### Partitions -/

/-- A group of partition `p`: its own, its stream entries', and its banks'. -/
def grpIn (s : State) (p : PartId) : Grp → Bool
  | .part q => q == p
  | .stream q _ => q == p
  | .bank b => bankPart s b == some p
  | _ => false

/-- PART_FENCE (R395): executing and queued jobs, push blocks in progress and pending commits of its groups fail with 0x0F03. -/
def fencePart (s : State) (p : PartId) : State :=
  if s.parts[p].fenced then s
  else
    let s1 := failJobs s p 0x0F03 none
    let s2 := failItems s1 p 0x0F03 none
    let s3 := (s2.dict.pending.filter fun d => grpIn s2 p d.grp).foldl (fun t d => commitFails t d 0x0F03 0x0008) s2
    fenceEventFree (modPart s3 p fun q => { q with fenced := true }) 7 p.val

/-! ### CRC units -/

/-- Push blocks in progress have no CRC unit any more (R385): they fail with 0x0F06, and the rest of their payload passes by in step. -/
def failUnchecked (s : State) (p : PartId) : State :=
  inEntries.foldl (fun t k => match t.parts[p].streams[k].cur with
    | some b => failSkip t p k b 0x0F06 none
    | none => t) s

/-- No CRC unit is left (R385): the jobs and the push blocks in progress of every partition fail with 0x0F06 and the twin is lost. -/
def noCrc (s : State) : State :=
  if s.crc.all (·.fenced) then
    twinIsLost ((List.finRange 16).foldl (fun t p => failUnchecked (failJobs t p 0x0F06 none) p) s)
  else s

/-- Traces served by a nest without units stop (R385, R412). -/
def stopTraces (s : State) (d : DieId) : State :=
  if !nestNoCrc s d then s
  else (List.finRange 16).foldl (fun t p =>
    if (match t.parts[p].run with | some r => r.trace | none => false) && leadDie t p == d && t.parts[p].trace.state != 3 then stopTrace t p d
    else t) s

/-- A CRC unit is fenced (R385): `low` are the detail's POLY and tag bits. A run in progress ends; its master starts it again elsewhere. -/
def fenceCrc (s : State) (u : CrcId) (reason : Nat) (low : Nat) : State :=
  if s.crc[u].fenced then s
  else
    let s1 := modCrc s u fun c => { c with fenced := true, run := none, master := 0x3FF }
    let s2 := fenceEvent (raiseN s1 (768 + u.val) (at' 32 22 0x3FF ||| BitVec.ofNat 32 (low % 2 ^ 22))) 9 u.val reason
    noCrc (stopTraces s2 ⟨u.val / 4, by omega⟩)

/-! ### Links and dies -/

/-- Pairs of dies. -/
def diePairs : List (Nat × Nat) := (List.range 4).flatMap fun a => (List.range 4).map fun b => (a, b)

/-- Dies that have become unreachable from Q0: event 721 each (R355). -/
def markUnreachable (s : State) : State :=
  (List.finRange 4).foldl (fun t d =>
    if !reachable t 0 d.val && !bit t.ev.unreachable d.val then
      raiseN { t with ev := { t.ev with unreachable := setBit t.ev.unreachable d.val true } } 721 (BitVec.ofNat 32 d.val)
    else t) s

/-- Dies that hold memory of a partition. -/
def memDies (s : State) (p : PartId) : List Nat :=
  let c := s.parts[p].cfg
  (partBanks s p).map (fun b => (dieOfBank b).val) ++
  if c.hbmSize = 0 then [] else if c.hbmMode = 0 then List.range 4 else (bitsSet c.hbmStacks 8).map (· / 2)

/-- Dies from which a partition's segment works: those of its bound engines. -/
def veDies (s : State) (p : PartId) : List Nat := s.parts[p].bind.map fun n => (dieOfVe n).val

/-- Of two states about a link fence, the second has lost a path that the first had, from a die of `xs` to one of `ys`. -/
def cutsOff (s t : State) (xs ys : List Nat) : Bool := xs.any fun a => ys.any fun b => reachable s a b && !reachable t a b

/-- Items of partition `p` that used a target which the link's fence has cut off end with its fenced cause (Table 15.4): the segment whose engines, or
whose ingest and release by the owning port, lose memory, and what the port carries. -/
def cutItems (s : State) (t : State) (p : PartId) : State :=
  let host := cutsOff s t [(ownerOf s p).val] (memDies s p)
  let t1 := if host || cutsOff s t (veDies s p) (veDies s p ++ memDies s p) then endSegment t p else t
  if host then endHostItems t1 p else t1

/-- Requests that wait at banks which their masters can no longer reach end with the fenced status (R260, R239). -/
def cutHeld (s : State) : State :=
  (List.finRange 256).foldl (fun t b =>
    let out (m : BitVec 10) : Bool := !reachable s (masterDie (masterKind m.toNat)) (unitDie (.bank b))
    let u := (t.banks[b].held.filter fun h => out h.frag.master).foldl (fun u h => emit u (.bus h.frag.master h.frag.tag [] 8)) t
    modBank u b fun k => { k with held := k.held.filter fun h => !out h.frag.master, waiters := k.waiters.filter fun m => !out m }) s

/-- What the bridges of the fenced link `i` keep unacknowledged goes the other way round the ring, in its order, where that way is whole: the bridges
of the three other links number and keep it in their turn, and the far bridges of link `i`, which had passed all of it on, discard it (R260). -/
def resendKept (s : State) (i : Nat) : State :=
  let way := [1, 2, 3].map fun j => (i + j) % 4
  let from' (d : Nat) (f : Vector Bridge 8) : Vector Bridge 8 :=
    let b : Fin 8 := Fin.ofNat 8 (2 * i + d)
    let g := if way.all fun l => !bit s.fab.links l then
        f[b].kept.foldl (fun v x => way.foldl (fun v l => updV v (Fin.ofNat 8 (2 * l + (1 - d))) (carry x.2)) v) f
      else f
    updV g b fun k => { k with kept := [] }
  { s with fab := { s.fab with bridges := from' 1 (from' 0 s.fab.bridges) } }

/-- A die-to-die link is fenced (R260, R21): what it carried is sent another way, or ends where no way is left. -/
def fenceLink (s : State) (i : Nat) : State :=
  if bit s.fab.links i then s
  else
    let s1 := resendKept { s with fab := { s.fab with links := setBit s.fab.links i true } } i
    let cut := diePairs.any fun x => reachable s x.1 x.2 && !reachable s1 x.1 x.2
    let s2 := if cut then cutHeld ((List.finRange 16).foldl (cutItems s) s1) else s1
    markUnreachable (fenceEventFree (raiseN s2 786 (at' 32 4 cut.toNat ||| BitVec.ofNat 32 i)) 6 i)

/-- A segment that the fence of die `d` reaches: an engine of the die is bound, or the die holds memory of the partition. -/
def dieReaches (s : State) (p : PartId) (d : DieId) : Bool := (veDies s p).contains d.val || (memDies s p).contains d.val

/-- The device as a whole is lost (R376, Table 15.4, R430): host links go down; a primary whose twin link is up sends the fatal notice (R405). -/
def loseDevice (s : State) : State :=
  let s1 := if s.twin.primary ∧ s.twin.linkUp then sendFrame s 0x07 [] else s
  { s1 with boot := { s1.boot with lost := true }
            ports := s1.ports.map fun t => if t.fenced then t else { t with link := 0, width := 0, speed := 0 } }

/-- A die is fenced (Table 15.4); `sunk` are the responses that the sinks of its VEs and of its stream path absorb (R261). -/
def fenceDie (s : State) (d : DieId) (sunk : Sunk) : State :=
  if bit s.dieFenced d.val then s
  else if d = 0 then loseDevice (setAlert s 1)
  else
    let s0 := { s with dieFenced := setBit s.dieFenced d.val true }
    let s1 := (List.finRange 16).foldl (fun t p =>
      if dieReaches s p d then failSegment (stopSlots t p (t.parts[p].bind.filter fun n => dieOfVe n == d)) p 0x0F04 (BitVec.ofNat 64 d.val) else t) s0
    let s2 := ((List.finRange 64).filter fun n => dieOfVe n == d).foldl (fun t n => fenceVe t n 4 sunk) s1
    let s3 := ((List.finRange 256).filter fun b => dieOfBank b == d).foldl (fun t b => fenceBank t b 6) s2
    let s4 := ((List.finRange 8).filter fun k => dieOfStack k == d).foldl (fun t k => fenceStack t k 6) s3
    let s5 := fencePort s4 d 3 (sunkOf sunk (0x200 + d.val))
    let x := ringPos d.val
    let s6 := fenceLink (fenceLink s5 x) ((x + 3) % 4)
    fenceEventFree s6 8 d.val

/-! ### The lockstep pair -/

/-- The pair is fenced (R386): its cores halt, SEQ_STATE reads 7 (log 113), pending commits fail with 0x0F05. -/
def fenceLockstep (s : State) : State :=
  let s1 := { s with ls := { s.ls with state := 2 }, sv := { s.sv with st := .stopped } }
  let s2 := s1.dict.pending.foldl (fun t d => commitFails t d 0x0F05 0x0008) s1
  fenceEventFree (raiseN s2 727 0) 0xA 0

/-- A lockstep mismatch (R216, R386): both cores enter recovery microcode, which ends with their resuming at the last compared boundary (log 20), or
are fenced at the third mismatch there or the seventeenth within a second. -/
def lockstepOp (s : State) : State :=
  if dead s || s.ls.state != 0 || s.sv.st != .running then s
  else
    let pc := s.sv.r.pc
    let again := s.ls.repeatAt == some pc && s.ls.atRetired == s.sv.retired
    let n := if again then s.ls.repeats + 1 else 1
    let now := timeNow s
    let recent := (s.ls.recent.filter fun t => decide ((now - t).toNat < 1000000000)) ++ [now]
    let s1 := { s with ls := { s.ls with
      mismatches := satInc s.ls.mismatches, lastPc := pc.setWidth 64, repeatAt := some pc, repeats := n, atRetired := s.sv.retired, recent := recent } }
    let s2 := raiseN s1 726 (BitVec.ofNat 32 (pc.toNat % 2 ^ 32))
    if 3 ≤ n ∨ 17 ≤ recent.length then fenceLockstep s2
    else { s2 with ls := { s2.ls with state := 1 }, sv := { s2.sv with st := .recovery } }

/-! ### Paired VEs -/

/-- How often a place has mismatched in this design cycle, this time included (R389). -/
def pairRepeat (e : Engine) (here : Bool × Nat) : Nat := ((e.pairLog.find? fun x => x.1 == here).map (·.2)).getD 0 + 1

/-- A sequencer enters recovery microcode and keeps what it is to go on as (R212, R215). -/
def recoverSeq (k : Core) : Core := { k with st := .recovery, back := k.st }

/-- A pair's outputs differ (R389): both engines are reset as masters (R261), recovery microcode reloads them from the leader's last compared boundary
(R215, log 20), and a third mismatch there within the design cycle fences both. -/
def pairedOp (s : State) (pair : Fin 32) (kind : Nat) (slot : Nat) (sunk : Sunk) : State :=
  let n : VeId := ⟨2 * pair.val, by omega⟩
  let m : VeId := ⟨2 * pair.val + 1, by omega⟩
  match execPart s n with
  | none => s
  | some p =>
    if !clockRuns s (clusterOfVe n) || s.seq[n].st == .recovery || s.eng[n].fenced != 0 || s.eng[m].fenced != 0 || !s.parts[p].cfg.paired || !servesRun s p n then s
    else
      let place := if kind = 2 then slot else s.seq[n].r.pc.toNat
      let here := (kind == 2, place)
      let rep := pairRepeat s.eng[n] here
      let restart (e : Engine) : Engine := { e with queue := e.queue.map fun g => { g with started := false } }
      let s1 := modEng (withdraw (withdraw s (veMasters n 7)) (veMasters m 7)) n fun e => restart
        { e with pairMismatches := satInc e.pairMismatches, pairLog := (here, rep) :: e.pairLog.filter fun x => x.1 != here }
      let s2 := modEng s1 m restart
      let s3 := if kind = 2 then
          modPart s2 p fun q => { q with run := q.run.map fun r =>
            { r with slots := r.slots.filter fun y => !(y.1 == slot && y.2 != .complete), grants := r.grants.filter fun g => g.1 != slot } }
        else s2
      let s4 := raiseN (sinkVe (sinkVe s3 n 7 sunk) m 7 sunk) (16 * pair.val + 4)
        (at' 32 28 kind ||| at' 32 26 rep ||| BitVec.ofNat 32 (place % 2 ^ 26))
      if 3 ≤ rep then fenceReach (fenceVe (fenceVe (endReached s4) n 2 []) m 2 []) else modSeq s4 n recoverSeq

/-! ### Clocks -/

/-- PLL of domain `i` is no longer locked, and never again before reset; the loss is counted and reported (R430, Table 17.7). -/
def pllLost (s : State) (i : Nat) : State :=
  raiseN { s with boot := { s.boot with
    pllLock := setBit s.boot.pllLock i false, pllGone := setBit s.boot.pllGone i true, pllLosses := satInc s.boot.pllLosses } } 729 (BitVec.ofNat 32 i)

/-- All host ports and the twin link go down together (R430). -/
def allLinksDown (s : State) (sunk : Sunk) : State :=
  sundovDown ((List.finRange 4).foldl (fun t h => linkDown t h (sunkOf sunk (0x200 + h.val))) s) (sunkOf sunk 0x220)

/-- The clock of a domain is lost (R430); `sunk` are the responses that the sinks of the masters which stop with it absorb (R261). -/
def domainLost (s : State) (i : Nat) (sunk : Sunk) : State :=
  if h : i < 8 then
    let s1 := modCluster s ⟨i, h⟩ fun c => { c with lost := true, freq := 0, change := none }
    ((List.finRange 64).filter fun n => n.val / 8 == i).foldl (fun t n => fenceVe t n 5 sunk) s1
  else if h : i < 12 then fenceDie s ⟨i - 8, by omega⟩ sunk
  else if h : i < 20 then fenceStack s ⟨i - 12, by omega⟩ 5
  else if h : i < 24 then fencePort s ⟨i - 20, by omega⟩ 2 (sunkOf sunk (0x200 + (i - 20)))
  else if i = 24 then sundovDown s (sunkOf sunk 0x220)
  else fenceDie s 0 sunk

/-- A monitored PLL, SYSCLK or REFCLK is lost (R430): a reference takes the PLLs it feeds with it (R427). -/
def clockLost (s : State) (sunk : Sunk) : ClockSrc → State
  | .domain i => if bit s.boot.pllLock i.val then domainLost (pllLost s i.val) i.val sunk else s
  | .sysclk =>
    fenceDie (((List.range 20) ++ [25]).foldl (fun t i => if bit t.boot.pllLock i then pllLost t i else t) s) 0 sunk
  | .refclk _ => allLinksDown ([20, 21, 22, 23, 24].foldl (fun t i => if bit t.boot.pllLock i then pllLost t i else t) s) sunk

/-! ### Commands -/

/-- QUIET_WINDOW_END (R228). -/
def execQuietWindowEnd (st : StackId) (ok : Bool) (volt : BitVec 10) (load : BitVec 2) (s : State) : Host.Outcome State Fault Refusal :=
  .next (fenceReach (quietEndOp s st ok volt load))
/-- STACK_OVERHEAT (R224). -/
def execStackOverheat (st : StackId) (temp : Byte) (s : State) : Host.Outcome State Fault Refusal := .next (fenceReach (overheatOp s st temp))
/-- CONTROLLER_OR_PHY_FAILURE: the device finds it and fences the stack (R240 reason 5). -/
def execControllerOrPhyFailure (st : StackId) (s : State) : Host.Outcome State Fault Refusal :=
  .next (if dead s then s else fenceReach (fenceStack s st 5))
/-- DIE_FENCE (Table 15.4). Items that an earlier fence has reached end with its cause (R394). -/
def execDieFence (d : DieLoss) (s : State) : Host.Outcome State Fault Refusal :=
  .next (if dead s then s else fenceReach (fenceDie (endReached s) d.die d.sunk))
/-- PLL_LOSS_OF_LOCK (R430). -/
def execPllLossOfLock (c : ClockLoss) (s : State) : Host.Outcome State Fault Refusal :=
  .next (if dead s then s else fenceReach (clockLost (endReached s) c.sunk c.src))
/-- LOCKSTEP_MISMATCH (R386). -/
def execLockstepMismatch (s : State) : Host.Outcome State Fault Refusal := .next (lockstepOp s)
/-- PAIRED_MISMATCH (R389). -/
def execPairedMismatch (pair : Fin 32) (kind : BitVec 2) (slot : Fin 4096) (sunk : Sunk) (s : State) : Host.Outcome State Fault Refusal :=
  .next (pairedOp s pair kind.toNat slot.val sunk)
/-- STREAM_PATH_FAULT (R309): the port is fenced. -/
def execStreamPathFault (h : PathLoss) (s : State) : Host.Outcome State Fault Refusal :=
  .next (if dead s then s else fencePort (endReached s) h.port 2 h.sunk.val)

end Sys2Proof.Machine
end

