-- ==== Sys2Proof/Machine/Boot.lean ====
section
/-!
DEFINITION. Kinds of reset (R418-R420), the boot steps of Table 17.2 (R421-R425), firmware images (R423, Table 17.3) and their reception over
I3C (R426).
-/

namespace Sys2Proof.Machine

/-! ### Firmware images -/

/-- Bytes `lo` to `hi - 1` of an image are zero. -/
def zeroFrom (b : List Byte) (lo hi : Nat) : Bool := ((b.drop lo).take (hi - lo)).all (· == 0)

/-- BODY_BYTES. -/
def bodyBytes (b : List Byte) : Nat := le b 8 4
/-- PATCH_OFF. -/
def patchOff (b : List Byte) : Nat := 512 + le b 0x1C 4
/-- The body of an image. -/
def imageBody (b : List Byte) : List Byte := (b.drop 512).take (bodyBytes b)

/-- The header is well formed (Table 17.3), in an image or slot of `b.length` bytes. -/
def fwHeaderOk (b : List Byte) : Bool :=
  decide (512 ≤ b.length) && le b 0 4 == 0x33574657 && le b 6 2 == 0 && bodyBytes b % 16 == 0 && decide (16 ≤ bodyBytes b) &&
  decide (bodyBytes b ≤ 983040) && decide (512 + bodyBytes b ≤ b.length) && le b 0xC 4 % 2 == 0 && decide (le b 0xC 4 < bodyBytes b) &&
  decide (le b 0x18 2 ≤ 128) && le b 0x1A 2 == 0 && le b 0x1C 4 % 16 == 0 && le b 0x20 1 == 4 && zeroFrom b 0x81 0x100 && zeroFrom b 0x160 0x200

/-- A match word: its reserved bits zero, and when enabled a read-only address and a patch address (R214, Table 17.3). -/
def matchOk (w : Nat) : Bool :=
  decide ((w >>> 22) % 512 = 0) && (!w.testBit 31 || (decide ((w >>> 11) % 2048 < 0x780) && decide (0x780 ≤ w % 2048)))

/-- The patch block is well formed (Table 17.3). -/
def patchOk (b : List Byte) : Bool :=
  decide (le b 0x1C 4 + 576 ≤ bodyBytes b) && ((List.range 16).all fun i => matchOk (le b (patchOff b + 4 * i) 4)) &&
  (List.range 128).all fun i => decide (le b (patchOff b + 64 + 4 * i) 4 < 2 ^ 18)

/-- Reason an image is refused (R423, 0xA000:03), 0 when it is accepted. The signature SIG is over the header's first 256 bytes and the body. -/
def imageVerdict (b : List Byte) : Nat :=
  if !fwHeaderOk b then 1
  else if !Config.fuseKeySet || !Config.keyHashMatches ((b.drop 0x20).take 97) then 2
  else if !Config.signatureVerifies ((b.drop 0x20).take 97) ((b.drop 0x100).take 96) (b.take 0x100 ++ imageBody b) then 3
  else if !patchOk b then 5
  else 0

/-- Reason the image of a flash slot is refused: 4 when the slot cannot be read. -/
def slotVerdict (s : State) (second : Bool) : Nat :=
  if !Config.flashReads second then 4 else imageVerdict (if second then s.boot.flashB else s.boot.flashA)

/-- FW_SLOT_A and FW_SLOT_B (Table 17.7). -/
def fwWord (b : List Byte) (verdict : Nat) : W32 := if verdict = 0 then at' 32 24 (le b 4 1) ||| at' 32 16 (le b 5 1) else 0

/-- Bytes of the image received over I3C, in order; a byte that has not been received is free (log 2). -/
def receivedImage (s : State) : List Byte :=
  match s.boot.incoming with
  | some (_, size, got) => (List.range size).map fun i => ((got.find? fun x => x.1 == i).map (·.2)).getD ((Config.freeWord (s.free + i)).setWidth 8)
  | none => []

/-- The image that boots: slot A, slot B, or the one received over I3C (BOOT_SLOT). -/
def bootImage (s : State) : List Byte :=
  if s.boot.slot = 0 then s.boot.flashA else if s.boot.slot = 1 then s.boot.flashB else receivedImage s

/-! ### Resets -/

/-- A slot whose write a reset broke off holds what R426 does not say: free bytes (log 2). -/
def brokenFlash (s : State) : List Byte := bytesOfWords ((List.range 61472).map fun i => Config.freeWord (s.free + i))

/-- Flash contents as a reset leaves them. -/
def flashKept (s : State) : List Byte × List Byte × Nat :=
  match s.boot.flashBusy with
  | some 0 => (brokenFlash s, s.boot.flashB, s.free + 61472)
  | some _ => (s.boot.flashA, brokenFlash s, s.free + 61472)
  | none => (s.boot.flashA, s.boot.flashB, s.free)

/-- The state after a reset that samples BOOTSEL and TWIN_ROLE: everything cleared but the boot flash; levels of input pins, outputs made so
far, free values drawn and waiting commands are not the device's to clear (R418, Table 17.1). -/
def cleared (s : State) (bootsel : BitVec 2) (twinRole : Bool) : State :=
  let f := flashKept s
  let z := State.powerOn bootsel twinRole
  { z with
    boot := { z.boot with flashA := f.1, flashB := f.2.1, twinPresentN := s.boot.twinPresentN }
    fz := { z.fz with holdN := s.fz.holdN }
    outs := s.outs, free := f.2.2, pending := s.pending }

/-- A package reset keeps TWIN_ROLE, the THERMTRIP_N latch and RESET_CAUSE, which names it (Table 17.1). -/
def packageReset (s : State) (bootsel : BitVec 2) (cause : Nat) : State :=
  let z := cleared s bootsel s.twin.primary
  { z with boot := { z.boot with cause := cause, thermtrip := s.boot.thermtrip } }

/-- The package reset that a SOFT_RESET write started, once it has been answered: a paired primary sends a fatal notice first (R420), and BOOTSEL is
sampled at the end (R425). -/
def softResetGo (s : State) : State :=
  if !s.boot.softDue then s
  else
    let s1 := if s.twin.primary ∧ s.twin.state = 3 then sendFrame s 0x07 [] else s
    packageReset s1 s.boot.bootPins 2

/-- PWROK falls: the device is held in reset and every host link goes down (R419). -/
def pwrokFallOp (s : State) : State :=
  let z := cleared s s.boot.bootsel s.twin.primary
  { z with boot := { z.boot with pwrok := false, inReset := true, bootPins := s.boot.bootPins } }

/-! ### Boot steps -/

/-- Recovery mode: BOOT_STATE 7, and the in-band interrupt 0x03 (R425, R426). -/
def enterRecovery (s : State) : State :=
  let s1 := { s with boot := { s.boot with state := 7, slot := 2 } }
  if ibiCan s then emit s1 (.ibi [0x03]) else { s1 with i3c := { s1.i3c with ibiRecovery := true } }

/-- The next step of Table 17.2, with the BOOT_STATE that holds meanwhile. -/
def bootAt (s : State) (step state : Nat) : State := { s with boot := { s.boot with step := step, state := state } }

/-- The body of the boot image is written to working RAM (steps 4 and 5). -/
def loadBody (s : State) : State := { s with mem := { s.mem with ram := cellsSet s.mem.ram 0 (imageBody (bootImage s)) } }

/-- The boot ROM's own data in the top 64 KiB of working RAM (step 3): the spec does not say what it holds, so its words are free values (log 2). -/
def romData (s : State) : State :=
  { s with mem := { s.mem with ram := cellsSet s.mem.ram 0xF0000 (bytesOfWords ((List.range 4096).map fun i => Config.freeWord (s.free + i))) }
           free := s.free + 4096 }

/-- FW_SLOT_A and FW_SLOT_B show the images in the flash slots (Table 17.7). -/
def showSlots (s : State) : State :=
  { s with boot := { s.boot with fwA := fwWord s.boot.flashA (slotVerdict s false), fwB := fwWord s.boot.flashB (slotVerdict s true) } }

/-- Step 4: slot A, then slot B; recovery when both fail (R423). -/
def bootFlash (s : State) : State :=
  let a := slotVerdict s false
  let b := slotVerdict s true
  let s1 := showSlots s
  if a = 0 then bootAt (loadBody { s1 with boot := { s1.boot with slot := 0 } }) 5 3
  else if b = 0 then
    raiseN (bootAt (loadBody { s1 with boot := { s1.boot with slot := 1, fail := BitVec.ofNat 32 a } }) 5 3) 730 (BitVec.ofNat 32 a)
  else enterRecovery { s1 with boot := { s1.boot with fail := at' 32 8 b ||| BitVec.ofNat 32 a } }

/-- Step 5: the patch set goes to all 66 cores (R214), engines leave start-up, and the firmware is entered with REMAP set (R249). -/
def bootPatch (s : State) (failed : W64) : State :=
  let im := bootImage s
  let words (o n : Nat) : List W32 := (List.range n).map fun i => BitVec.ofNat 32 (le im (patchOff im + o + 4 * i) 4)
  let bad (n : VeId) : Bool := bit failed n.val || s.seq[n].back == .failedSelfTest
  let s1 := { s with
    ls := { s.ls with patchId := BitVec.ofNat 32 (le im 0x14 4), patchUsed := BitVec.ofNat 8 (le im 0x18 2), patchMatch := words 0 16, patchWords := words 64 128 }
    seq := .ofFn fun n => { s.seq[n] with st := if bad n then .failedSelfTest else .unbound, back := .unbound }
    fab := { s.fab with remap := true, remapDue := false }
    sv := { s.sv with r := { s.sv.r with pc := BitVec.ofNat 40 (le im 0xC 4) }, icache := [] }
    boot := { s.boot with fwMajor := BitVec.ofNat 8 (le im 4 1), fwMinor := BitVec.ofNat 8 (le im 5 1), entry := BitVec.ofNat 32 (le im 0xC 4), warm := BitVec.ofNat 32 (le im 0x10 4) } }
  bootAt (((List.finRange 64).filter bad).foldl (fun t n => fenceVe t n 3 []) s1) 6 4

/-- Words of the device's memory are written with zero and fresh check bits. -/
def zeroWords (s : State) (which : Nat → Bool) : State :=
  { s with mem := { s.mem with
    cells := s.mem.cells.filter fun c => !which (c.1 / 16), poison := s.mem.poison.filter fun w => !which w
    latent := s.mem.latent.filter fun l => !which l.word, writeBack := s.mem.writeBack.filter fun w => !which w } }

/-- Word `w` lies in the scratchpad. -/
def spWord (w : Nat) : Bool := decide (spLo ≤ 16 * w ∧ 16 * w < spHi)

/-- Step 6: the scratchpad and the event store hold zero, and dies and CRC units that fail are fenced (R385, R422). -/
def bootDies (s : State) (dies : BitVec 4) (units : W16) : State :=
  let s1 := zeroWords s spWord
  let s2 := (List.finRange 16).foldl (fun t u =>
    if bit units u.val then fenceCrc (drawNat t).2 u 2 (at' 32 20 ((drawNat t).1 % 4)).toNat else t) s1
  bootAt (([1, 2, 3] : List DieId).foldl (fun t d => if bit dies d.val then fenceDie t d [] else t) s2) 7 5

/-- A stack after training: ready, with a band-0 record for every group, or fenced (R227, R422). -/
def trainStack (temp : Byte) (volt : BitVec 10) (fail : Bool) (s : State) (i : StackId) : State :=
  if fail then fenceStack s i 5
  else modStack s i fun k =>
    { k with ready := true, temp := temp, vddq := volt.toNat, band := .replicate 4 0
             calRec := k.calRec.map fun r => newRecord r (timeOn s (dieOfStack i)) 0 volt.toNat temp.toNat }

/-- Step 7: the stacks are trained, and every HBM word is zero with fresh check bits. -/
def bootStacks (s : State) (fail : Byte) (temp : Byte) (volt : BitVec 10) : State :=
  let s1 := zeroWords s fun w => !spWord w
  bootAt ((List.finRange 8).foldl (fun t i => if t.stk[i].fenced then t else trainStack temp volt (bit fail i.val) t i) s1) 8 5

/-- Step 8: the controller starts and the dictionary opens; alerts of arrivals from before are set (R422), and a low HOLD_N freezes now
(Table 19.5). -/
def bootOpen (s : State) (ms : W32) : State :=
  let s1 := { s with ev := { s.ev with started := true }, dict := { s.dict with isOpen := true }, boot := { s.boot with step := 9, state := 6, ms := ms }
                     fz := { s.fz with state := if s.fz.holdN && s.fz.state == 0 then 1 else s.fz.state } }
  let s2 := s1.ev.latches.foldl (fun t l => match alertBit l.src l.detail with | some i => setAlert t i | none => t) s1
  raiseN s2 728 ms

/-- Start-up microcode begins on all 66 cores: SEQ_STATE 5 (R212, R215); and the host ports' links begin to train, but in scan hold (R424, R425,
log 67). -/
def startUp (s : State) : State :=
  bootAt { s with seq := s.seq.map fun c => { c with st := .recovery }, sv := { s.sv with st := .recovery }
                  ports := if s.boot.bootsel.toNat < 2 then s.ports.map fun t => if t.link = 0 then { t with link := 1 } else t else s.ports } 2 1

/-- The boot step under way completes with what it found. Step 1 ends only with all 26 PLLs locked, of which one that has lost lock since the reset
locks no more (R430); a VE that fails start-up holds with the others until step 5; after step 3 BOOTSEL decides (R425). -/
def bootStepOp (s : State) (f : BootFindings) : State :=
  if dead s || 7 ≤ s.boot.state then s
  else if s.boot.step = 1 then
    let s1 := { s with boot := { s.boot with pllLock := f.locked &&& 0x3FFFFFF &&& ~~~s.boot.pllGone } }
    if s1.boot.pllLock = 0x3FFFFFF then startUp s1 else s1
  else if s.boot.step = 2 then
    let s1 := { s with
      seq := .ofFn fun n => { s.seq[n] with st := .recovery, back := if bit f.selfTestFail n.val then .failedSelfTest else .unbound }
      sv := { s.sv with r := { Regs.start with pc := 0 }, st := .running } }
    bootAt s1 3 2
  else if s.boot.step = 3 then
    let s1 := romData s
    if s.boot.bootsel = 0 then bootAt s1 4 3
    else if s.boot.bootsel = 1 then enterRecovery (showSlots s1)
    else { showSlots s1 with boot := { (showSlots s1).boot with state := 8 }, ports := s.ports.map fun t => { t with link := 0, width := 0, speed := 0 } }
  else if s.boot.step = 4 then bootFlash s
  else if s.boot.step = 5 then bootPatch s f.selfTestFail
  else if s.boot.step = 6 then bootDies s f.dieFail f.crcFail
  else if s.boot.step = 7 then bootStacks s f.stackFail f.temp f.volt
  else if s.boot.step = 8 then bootOpen s f.ms
  else s

/-! ### Images over I3C (R426) -/

/-- START: an image of `size` bytes for a target begins, or the abort code. While a slot is being written no other image is taken (log 93). -/
def recStart (s : State) (target size : Nat) : Except Nat State :=
  if 2 < target then .error 0x0005
  else if target = 0 ∧ s.boot.state ≠ 7 ∨ target ≠ 0 ∧ (s.boot.state ≠ 6 ∨ s.boot.slot + 1 = target) ∨ s.boot.flashBusy.isSome then .error 0x0007
  else if 983552 < size then .error 0x0015
  else .ok { s with boot := { s.boot with incoming := some (target, size, []), recDone := false } }

/-- DATA: bytes at an offset of the image being received. -/
def recData (s : State) (off : Nat) (data : List Byte) : Except Nat State :=
  match s.boot.incoming with
  | none => .error 0x0007
  | some (t, size, got) =>
    if s.boot.recDone then .error 0x0007
    else if size < off + data.length then .error 0x0005
    else
      let new := data.zipIdx.map fun x => (off + x.2, x.1)
      let old := got.filter fun x => !decide (off ≤ x.1 ∧ x.1 < off + data.length)
      .ok { s with boot := { s.boot with incoming := some (t, size, old ++ new) } }

/-- FINISH: the image is verified; for a flash slot its write begins, and the answer waits for it (the second component). -/
def recFinish (s : State) : Except (Nat × State) (State × Bool) :=
  match s.boot.incoming with
  | none => .error (0x0007, s)
  | some (t, size, _) =>
    if s.boot.recDone then .error (0x0007, s)
    else
      let v := if size = 512 + bodyBytes (receivedImage s) then imageVerdict (receivedImage s) else 1
      let s1 := { s with free := s.free + size
                         boot := { s.boot with fail := (s.boot.fail &&& 0xFFFF) ||| at' 32 16 v } }
      if v ≠ 0 then .error (0x0007, s1)
      else
        let whole := some (t, size, (receivedImage s).zipIdx.map fun x => (x.2, x.1))
        if t = 0 then .ok ({ s1 with boot := { s1.boot with recDone := true, incoming := whole } }, false)
        else .ok ({ s1 with boot := { s1.boot with recDone := true, incoming := whole, flashBusy := some (t - 1) } }, true)

/-- Little-endian bytes of a number. -/
def leBytes (n k : Nat) : List Byte := bytesOf (BitVec.ofNat 128 n) k

/-- QUERY: BOOT_STATE, BOOT_FAIL and the bytes received. -/
def recQuery (s : State) : List Byte :=
  leBytes s.boot.state 1 ++ leBytes s.boot.fail.toNat 4 ++ leBytes (match s.boot.incoming with | some (_, _, g) => g.length | none => 0) 4

/-- Recovery boot goes on from step 5 once the response of FINISH has been read, and asks for no more interrupts of the recovery state (R426). -/
def recoveryContinueOp (s : State) : State :=
  match s.boot.incoming with
  | some (0, _, _) => if dead s || s.boot.state != 7 || !s.boot.recDone || s.i3c.unread then s
    else bootAt (loadBody { s with i3c := { s.i3c with ibiRecovery := false } }) 5 3
  | _ => s

/-- The slot has been erased, written and read back: event 731 and the answer of FINISH. What a failed write leaves in the slot, and whether its
FINISH is then answered as refused, is free (log 2). -/
def flashDoneOp (s : State) (failed : Bool) : State :=
  match s.boot.flashBusy with
  | none => s
  | some k =>
    if dead s then s
    else
      let img := if failed then brokenFlash s else receivedImage s
      let s0 := if failed then { s with free := s.free + 61472 } else s
      let b := { s0.boot with flashBusy := none, incoming := none, recDone := false }
      let s1 := if k = 0 then { s0 with boot := { b with flashA := img, fwA := fwWord img (imageVerdict img) } }
        else { s0 with boot := { b with flashB := img, fwB := fwWord img (imageVerdict img) } }
      let seq := s1.i3c.lastSeq.getD 0
      let d := drawNat s1
      let s2 := if failed ∧ s1.i3c.busy then { d.2 with i3c := { d.2.i3c with resp := if d.1 % 2 = 0 then respDone seq [] else respRefused seq 0x0007 } } else s1
      raiseN (i3cReady s2) 731 (at' 32 8 failed.toNat ||| BitVec.ofNat 32 k)

/-! ### Commands -/

/-- POWER_ON_RESET: PWROK rises (R418, R421). -/
def execPowerOnReset (bootsel : BitVec 2) (twinRole : Bool) (s : State) : Host.Outcome State Fault Refusal := .next (cleared s bootsel twinRole)
/-- PWROK_FALL (R419). -/
def execPwrokFall (s : State) : Host.Outcome State Fault Refusal := .next (pwrokFallOp s)
/-- RESET_N_PULSE: a package reset while PWROK is high; no effect while it is low (R418, R419). -/
def execResetNPulse (bootsel : BitVec 2) (s : State) : Host.Outcome State Fault Refusal :=
  .next (if s.boot.pwrok then packageReset s bootsel 1 else s)
/-- BOOT_STEP_COMPLETE (Table 17.2). -/
def execBootStepComplete (f : BootFindings) (s : State) : Host.Outcome State Fault Refusal := .next (bootStepOp s f)
/-- RECOVERY_BOOT_CONTINUE (R426). -/
def execRecoveryBootContinue (s : State) : Host.Outcome State Fault Refusal := .next (recoveryContinueOp s)
/-- FLASH_SLOT_WRITE_DONE (R426). -/
def execFlashSlotWriteDone (failed : Bool) (s : State) : Host.Outcome State Fault Refusal := .next (flashDoneOp s failed)
/-- TIME_SYNC: every die's counter is corrected to that of Q0 (R428). -/
def execTimeSync (s : State) : Host.Outcome State Fault Refusal :=
  .next (if dead s then s else { s with ev := { s.ev with time := .replicate 4 (timeNow s) } })

end Sys2Proof.Machine
end

