-- ==== Sys2Proof/Machine/Groups.lean ====
section
/-!
DEFINITION. The validation of a commit's set and its application (R332): partition (R218, R282, R293, R324, R369, R387, R397), stream entry
(R297), bank (R232), memory system (R230), reef row (R358) and dispatch slot table (R369).
-/

namespace Sys2Proof.Machine

/-- The first failing rule's abort code, 0 for none. -/
def firstCode : List (Bool × Nat) → Nat
  | [] => 0
  | (bad, c) :: r => if bad then c else firstCode r

/-! ### Placement (R218) -/

/-- An HBM placement. -/
structure Place where
  mode : Nat
  stk : Byte
  base : Nat
  size : Nat
deriving DecidableEq, Repr

/-- Placement of a partition in force. -/
def placeOf (c : PartCfg) : Place := { mode := c.hbmMode.toNat, stk := c.hbmStacks, base := c.hbmBase.toNat, size := c.hbmSize.toNat }

/-- The stack set is an aligned run of 1, 2, 4 or 8 stacks. -/
def alignedRun (x : Byte) : Bool :=
  [1, 2, 4, 8].any fun k => (List.range (8 / k)).any fun i => x == BitVec.ofNat 8 ((2 ^ k - 1) * 2 ^ (i * k))

/-- Two intervals of the given starts and lengths share a point. -/
def meet (a n b m : Nat) : Bool := decide (n ≠ 0 ∧ m ≠ 0 ∧ a < b + m ∧ b < a + n)

/-- GiB that each stack of the set gives. -/
def perStack (x : Place) : Nat := x.size / (stackSet x.stk).2

/-- Two placements share a location. -/
def placesMeet (x y : Place) : Bool :=
  if x.mode ≠ y.mode then false
  else if x.mode = 0 then meet x.base x.size y.base y.size
  else (x.stk &&& y.stk) != 0 && meet x.base (perStack x) y.base (perStack y)

/-- The placement holds a byte of the dirty map (Table 15.7). -/
def placeMap (s : State) (x : Place) : Bool :=
  let m := s.twin.mapBase.toNat
  let w := s.wideGib.toNat
  if m = 0 ∨ x.size = 0 then false
  else if x.mode = 0 then meet (hbmLo + x.base * gib) (x.size * gib) m 393216
  else (bitsSet x.stk 8).any fun st =>
    meet (hbmLo + w * 2 ^ 33 + st * ((24 - w) * gib) + x.base * gib) (perStack x * gib) m 393216

/-- The rules of R218 for a changed placement, in order. -/
def placeRules (s : State) (p : PartId) (x : Place) : List (Bool × Nat) :=
  let w := s.wideGib.toNat
  let k := (stackSet x.stk).2
  [ (s.parts[p].imageState != 0, 0x0007),
    (if x.mode = 0 then decide (w < x.base + x.size) else k != 0 && decide (24 - w < x.base + x.size / k), 0x0014),
    (if x.mode = 0 then x.stk != 0 else !alignedRun x.stk, 0x0014),
    (x.mode != 0 && k != 0 && x.size % k != 0, 0x0014),
    ((List.finRange 16).any fun q => q != p && placesMeet x (placeOf s.parts[q].cfg), 0x0014) ]

/-! ### Partition groups -/

/-- The partition is named in a committed dispatch slot (R369). -/
def slotNamed (s : State) (p : PartId) : Bool :=
  pooled s p || (List.finRange 64).any fun i => decide (i.val < s.pw.slotsLen.toNat) && slotServes s.pw.slots[i] p

/-- Sum of DEPTH over the partitions that port `h` owns (POOL_USED). -/
def poolUsed (s : State) (h : PortId) : Nat :=
  ((ownedBy s h).map fun p => ((List.finRange 8).map fun k => s.parts[p].streams[k].depth.toNat).sum).sum

/-- Sum of a partition's DEPTHs. -/
def partDepths (s : State) (p : PartId) : Nat := ((List.finRange 8).map fun k => s.parts[p].streams[k].depth.toNat).sum

/-- Configuration that a partition group's set spells. -/
def cfgOf (c : PartCfg) (set : List (Byte × W128)) : PartCfg :=
  let m (u : Nat) : Nat := member set u
  { c with
    veSet := BitVec.ofNat 64 (m 0x10), fpsub := BitVec.ofNat 8 (m 0x23), deterministic := m 0x24 != 0, hbmMode := BitVec.ofNat 8 (m 0x30)
    hbmStacks := BitVec.ofNat 8 (m 0x31), hbmBase := BitVec.ofNat 8 (m 0x32), hbmSize := BitVec.ofNat 8 (m 0x33)
    exchShadowSlots := BitVec.ofNat 16 (m 0x47), exchSwap := m 0x48 != 0, ownerPort := BitVec.ofNat 8 (m 0x50), paired := m 0x70 != 0
    twinMode := m 0x71 != 0 }

/-- The VE set holds one VE of a pair without the other (R387). -/
def halfPair (x : W64) : Bool := (List.range 32).any fun k => bit x (2 * k) != bit x (2 * k + 1)

/-- The rules for a partition group, in the order of the chapters. -/
def partRules (s : State) (p : PartId) (c : PartCfg) : List (Bool × Nat) :=
  let q := s.parts[p]
  let o := q.cfg
  let named := slotNamed s p
  (if placeOf c ≠ placeOf o then placeRules s p (placeOf c) else []) ++
  [ (c.exchSwap && (q.imageState == 0 || q.imageState == 1 || q.imageState == 4), 0x0007),
    (c.ownerPort != o.ownerPort && decide (65536 < poolUsed s (Fin.ofNat 4 c.ownerPort.toNat) + partDepths s p), 0x0015) ] ++
  (if c.veSet ≠ o.veSet then
    [ (q.imageState == 3, 0x0007),
      ((List.finRange 16).any fun r => r != p && (s.parts[r].cfg.veSet &&& c.veSet) != 0, 0x0014),
      ((vesOf c.veSet).any fun n => s.eng[n].fenced != 0, 0x0008) ]
  else []) ++
  [ (c.hbmSize != o.hbmSize && c.hbmSize == 0 && named, 0x0015),
    (c.veSet != o.veSet && ((c.veSet &&& s.pw.poolSet) != 0 || (c.veSet != 0 && named)), 0x0014) ] ++
  (if c.paired && !o.paired then
    [ (q.imageState != 0, 0x0007), (halfPair c.veSet, 0x0014), (named, 0x0014), (o.twinMode || c.twinMode, 0x0014) ]
  else []) ++
  (if c.twinMode && !o.twinMode then [ (q.imageState != 0, 0x0007), (o.paired || c.paired || named, 0x0014) ] else []) ++
  [ (placeOf c != placeOf o && placeMap s (placeOf c), 0x0014) ]

/-- Detail of the events of a stream access. -/
def accessDetail (p : PartId) (k : Fin 8) (write : Bool) : W32 := at' 32 7 write.toNat ||| at' 32 4 k.val ||| BitVec.ofNat 32 p.val

/-- OWNER_PORT changes (R293): push blocks in progress fail with 0x0B06, blocks partly read are presented again, the vectors return to 0xFF
and all causes are armed; writes still in the old port's receive buffer are discarded with R291's event. -/
def ownerMoves (s : State) (p : PartId) (old : PortId) : State :=
  let s1 := rewindOut (failPushes s p 0x0B06 none) p
  let s2 := modPort s1 old fun t => { t with rx := t.rx.filter fun x => x.part != p }
  let s3 := (s.ports[old].rx.filter fun x => x.part == p).foldl (fun t x => raiseN t (579 + 8 * old.val) (accessDetail p x.k true)) s2
  modPart s3 p fun q =>
    { q with cfg := { q.cfg with msixEvq := 0xFF, msixLedger := 0xFF, msixStream := 0xFF }, armEvq := true, armLedger := true, armStream := true }

/-- A partition group's set is in force (R328: between two accesses), with what each member's rule adds; the ring of every VE that leaves the
VE_SET moves first, and what has come since into the ring of one that joins it (R352). -/
def applyPart (s : State) (p : PartId) (c : PartCfg) : State :=
  let o := s.parts[p].cfg
  let s0 := (vesOf (o.veSet ^^^ c.veSet)).foldl moveRing s
  let s1 := modPart s0 p fun q => { q with cfg := c, swapDue := q.swapDue || c.exchSwap }
  let s2 := if c.ownerPort ≠ o.ownerPort then ownerMoves s1 p (Fin.ofNat 4 o.ownerPort.toNat) else s1
  if s2.parts[p].run.isNone then applySwap s2 p else s2

/-! ### Reef rows and slots -/

/-- FREQ of a reef entry in MHz. -/
def reefFreq (x : W32) : Nat := fld x 11 0
/-- VOLT of a reef entry in mV. -/
def reefVolt (x : W32) : Nat := fld x 25 16

/-- A reef row is sound (R358). -/
def rowOk (c : ClusterId) (r : List W32) : Bool :=
  (List.range 7).all (fun i => decide (reefFreq (nth r (i + 1) 0) ≤ reefFreq (nth r i 0) ∧ reefVolt (nth r (i + 1) 0) ≤ reefVolt (nth r i 0))) &&
  r.all fun x => decide (600 ≤ reefVolt x ∧ 100 * (Config.vmin2g c).toNat ≤ 100 * reefVolt x + 22 * (2000 - reefFreq x))

/-- A row's entries from a set. -/
def rowOf (c : ClusterId) (set : List (Byte × W128)) : List W32 := (List.range 8).map fun l => BitVec.ofNat 32 (member set (8 * c.val + l))

/-- Sections of the partition's valid image overlap its context area (R372). -/
def ctxOverlap (s : State) (p : PartId) : Bool :=
  match s.parts[p].image with
  | some im =>
    let lim := s.parts[p].cfg.hbmSize.toNat * gib
    im.sections.any fun x => x.space == 0 && x.kind != 5 && decide (lim - 0x40000 < x.offset + x.length)
  | none => false

/-- The rules for the slot table, in the order of R369. -/
def slotRules (s : State) (set : List (Byte × W128)) : List (Bool × Nat) :=
  let pool : W64 := BitVec.ofNat 64 (member set 0x41)
  let ws := (List.range (member set 0x40)).map fun i => BitVec.ofNat 128 (member set i)
  let named (f : PartId → Bool) : Bool := ws.any fun w => !bit w 4 && f (Fin.ofNat 16 (fld w 3 0))
  [ ((List.finRange 16).any fun p => (s.parts[p].cfg.veSet &&& pool) != 0, 0x0014),
    ((vesOf pool).any fun n => s.eng[n].fenced != 0, 0x0008),
    (ws.any fun w => (BitVec.ofNat 64 (fld w 127 64) &&& ~~~pool) != 0, 0x0014),
    (named fun p => s.parts[p].cfg.veSet != 0, 0x0014),
    (named fun p => s.parts[p].cfg.paired || s.parts[p].cfg.twinMode, 0x0014),
    (named fun p => s.parts[p].cfg.hbmSize == 0, 0x0015),
    (named fun p => ctxOverlap s p, 0x0014) ]

/-! ### Any group -/

/-- The rules that a commit's set must meet now. -/
def groupRules (s : State) (g : Grp) (set : List (Byte × W128)) : List (Bool × Nat) :=
  match g with
  | .part p => partRules s p (cfgOf s.parts[p].cfg set)
  | .stream p k =>
    let d := member set 1
    let h := ownerOf s p
    [ (decide (d < member set 2), 0x0014),
      (decide (65536 < poolUsed s h - s.parts[p].streams[k].depth.toNat + d), 0x0015) ]
  | .bank b =>
    let new := member set 1
    let busy (x : Nat) : Bool := if h : x < 16 then s.parts[(⟨x, h⟩ : Fin 16)].imageState != 0 else false
    [ (new != s.banks[b].part.toNat && (busy new || busy s.banks[b].part.toNat), 0x0007) ]
  | .mem => [ (member set 1 != s.wideGib.toNat && (List.finRange 16).any fun p => s.parts[p].cfg.hbmSize != 0, 0x0014) ]
  | .reef c => [ (!rowOk c (rowOf c set), 0x0014) ]
  | .slots => slotRules s set

/-- The set of a group is in force. -/
def applySet (s : State) (g : Grp) (set : List (Byte × W128)) : State :=
  match g with
  | .part p => applyPart s p (cfgOf s.parts[p].cfg set)
  | .stream p k =>
    kick (modStream s p k fun st => { st with depth := BitVec.ofNat 16 (member set 1), watermark := BitVec.ofNat 16 (member set 2) }) p
  | .bank b => modBank s b fun k =>
      let new := member set 1
      if new = k.part.toNat then k
      else { k with part := BitVec.ofNat 8 new, owner := if new < 16 then BitVec.ofNat 8 (0x80 + new) else 0 }
  | .mem => { s with wideGib := BitVec.ofNat 8 (member set 1), mem := s.mem.rehome s.wideGib.toNat (member set 1 % 256) }
  | .reef c => modCluster s c fun k => { k with row := .ofFn fun l => nth (rowOf c set) l.val 0 }
  | .slots =>
    let ws : Vector W128 64 := .ofFn fun i => BitVec.ofNat 128 (member set i.val)
    let len := member set 0x40
    raiseN { s with pw := { s.pw with slots := ws, active := ws, slotsLen := BitVec.ofNat 8 len, poolSet := BitVec.ofNat 64 (member set 0x41), edits := [] } }
      692 (BitVec.ofNat 32 len)

/-- An accepted commit reaches its safe point: validated as a whole, then applied or failed (R332, R333). -/
def settleCommit (s : State) (pd : Pending) : State :=
  let code := firstCode (groupRules s pd.grp pd.set)
  if code = 0 then commitDone (applySet s pd.grp pd.set) pd (grpLedgers s pd.grp pd.set) 0 0 (commitDetail pd.grp 0)
  else commitFails s pd 0x0C01 code

/-- The pending commit of a group. -/
def pendingOf (s : State) (g : Grp) : Option Pending := s.dict.pending.find? fun d => d.grp == g

/-- The bank group's drain ends with its commit: applied, or failed with the old owner kept (R232, R332). -/
def finishBankCommit (s : State) (b : BankId) : State :=
  match pendingOf s (.bank b) with
  | none => s
  | some pd =>
    let old := s.banks[b]
    let s1 := settleCommit (modBank s b fun k => { k with drain := none, held := [], waiters := [] }) pd
    resumeWaiters (old.held.foldl admitHeld s1) old.waiters

/-- The end of a drain of bank `b`, whatever started it (R234). -/
def drainEnds (s : State) (b : BankId) : State :=
  match s.banks[b].drain with
  | none => s
  | some (_, why) =>
    let p := bankPart s b
    let s1 := match why with
      | .commit _ => finishBankCommit s b
      | _ => finishDrain s b
    match p with
    | some p => kick s1 p
    | none => s1

/-- The drain that a bank's commit needs begins (R232); none for an unchanged or fenced bank. -/
def bankCommitDrain (s : State) (b : BankId) (set : List (Byte × W128)) : State :=
  let new := member set 1
  if new = s.banks[b].part.toNat then s
  else
    let code : Byte := if new < 16 then BitVec.ofNat 8 (0x80 + new) else 0
    let k := s.banks[b]
    if k.fenced then s
    else
      match k.drain with
      | some (_, old) => modBank (drainWriter s old) b fun k => { k with drain := some (code, .commit (BitVec.ofNat 8 new)) }
      | none => modBank (dropLines s b) b fun k => { k with drain := some (code, .commit (BitVec.ofNat 8 new)) }

end Sys2Proof.Machine
end

