-- ==== Sys2Proof/Machine/Power.lean ====
section
/-!
DEFINITION. Reef levels, sleep, the energy model, the dispatch tick and the slot table (R358-R382).
-/

namespace Sys2Proof.Machine

/-! ### Reef changes (R359, R440) -/

/-- Entry of level `l` of a cluster's row. -/
def rowAt (k : Cluster) (l : Nat) : W32 := nth k.row.toList l 0
/-- FREQ of level `l` in MHz. -/
def freqAt (k : Cluster) (l : Nat) : Nat := reefFreq (rowAt k l)
/-- VOLT of level `l` in mV. -/
def voltAt (k : Cluster) (l : Nat) : Nat := reefVolt (rowAt k l)
/-- VID code of a voltage (R440). -/
def vidOf (mv : Nat) : BitVec 6 := BitVec.ofNat 6 ((mv - 600) / 5)
/-- The voltage in mV that a VID code drives (R440). -/
def vidVolt (v : BitVec 6) : Nat := 600 + 5 * v.toNat
/-- The level a cluster is in or is changing to. -/
def headed (k : Cluster) : Nat :=
  match k.change with
  | some (.raising m) => m
  | some (.paused m) => m
  | none => k.level

/-- The primary of a pair forwards what its dispatcher decides (R382): a first word, and the slot's contents for a slot start. -/
def forwardPower (s : State) (kind : Nat) (p : PartId) (k x : Nat) (more : List W128) : State :=
  if s.twin.primary ∧ s.twin.state = 3 then sendFrame s 0x02 (inputWord kind p k x :: more) else s

/-- The device follows its primary's dispatcher (R382). -/
def follows (s : State) : Bool := s.twin.state == 3 && !s.twin.primary

/-- A dispatch event, which a following secondary does not raise (R382). -/
def dispatchEvent (s : State) (x : Nat) (dt : W32) : State := if follows s then s else raiseN s x dt

/-- A change of cluster `c` to level `l` begins: deeper at once with a pause, shallower once the rail has risen; a deeper order abandons a
raise (R359, R375). At the present level a change of the row's values is made the same way (R360). An order that finds the clock paused for another
change takes its place: under the rail in force the clock restarts in the new level, and a level above it waits for its rail, the clock running as
before (R366, R368, R440). The rail of a sleeping cluster follows the row's level 7 (R361). -/
def reefTo (s : State) (c : ClusterId) (l : Nat) : State :=
  let k := s.clusters[c]
  let rise (x : Cluster) : Cluster := { x with change := some (.raising l), vid := vidOf (voltAt x l) }
  let pause (x : Cluster) : Cluster := { x with change := some (.paused l) }
  if k.lost then s
  else if k.asleep then modCluster s c fun x => { x with vid := vidOf (voltAt x 7) }
  else
    match k.change with
    | none =>
      if l > k.level then modCluster s c pause
      else if l < k.level then modCluster s c rise
      else if k.freq = freqAt k l ∧ k.vid = vidOf (voltAt k l) then s
      else if k.vid.toNat < (vidOf (voltAt k l)).toNat then modCluster s c rise
      else modCluster s c pause
    | some (.raising m) =>
      if k.level < l then modCluster s c pause
      else if l ≠ m ∧ l = k.level ∧ k.freq = freqAt k l then modCluster s c fun x => { x with change := none, vid := vidOf (voltAt x l) }
      else modCluster s c rise
    | some (.paused _) => if voltAt k l ≤ vidVolt k.vid then modCluster s c pause else modCluster s c rise

/-- The dispatcher orders a level, and the primary of a pair forwards it (R366, R382). -/
def orderLevel (s : State) (c : ClusterId) (l : Nat) : State :=
  forwardPower (reefTo s c l) 6 0 c.val l []

/-- The raised rail has come within 10 mV of what VID drives: the clock pauses (R359, R440). -/
def railArrives (s : State) (c : ClusterId) : State :=
  match s.clusters[c].change with
  | some (.raising l) => if dead s then s else modCluster s c fun k => { k with change := some (.paused l), mv := vidVolt k.vid }
  | _ => s

/-- The paused clock restarts at the new FREQ, and the rail is lowered to the new VOLT (R359); event 680 + c reports a changed level. -/
def clockRestart (s : State) (c : ClusterId) : State :=
  match s.clusters[c].change with
  | some (.paused l) =>
    if dead s || frozen s || s.clusters[c].lost then s
    else
      let old := s.clusters[c].level
      let s1 := modCluster s c fun k => { k with change := none, level := l, freq := freqAt k l, vid := vidOf (voltAt k l) }
      if old = l then s1 else dispatchEvent s1 (680 + c.val) (at' 32 4 old ||| BitVec.ofNat 32 l)
  | _ => s

/-! ### Ready and runnable (R365) -/

/-- The partition has a job segment executing or queued. -/
def partReady (q : Partition) : Bool := q.run.isSome || q.save.isSome || q.restore.isSome || !q.jobs.isEmpty

/-- Observation waits for room in the trace ring under FULL_HOLD (R412). -/
def fullHoldWaits (s : State) (p : PartId) (r : Run) : Bool :=
  r.obs && (match s.parts[p].image.bind trigSect with
    | some t => (observe s p t s.parts[p].designCycle false).isNone
    | none => false)

/-- The partition waits at ingest, at commit, at the ledger hold, or for room under FULL_HOLD (R38, R39, R308, R412). -/
def partWaits (s : State) (p : PartId) : Bool :=
  let q := s.parts[p]
  match q.run, q.image with
  | some r, some im =>
    fullHoldWaits s p r ||
    match r.phase with
    | .ingest => !r.draining && !stimReady s p im.hdr.stimWords
    | .commit => q.ledger.held || decide (q.released + im.hdr.resultDepth < r.cycle) || (twinActive s p && decide (q.agreed.toNat + 1 < r.cycle))
    | .evaluate => false
  | _, _ => q.ledger.held

/-- READINESS (Table 14.5). -/
def readiness (s : State) (p : PartId) : Nat := if !partReady s.parts[p] then 0 else if partWaits s p then 1 else 2

/-- The clusters of a VE mask: byte c of it. -/
def onCluster (m : W64) (c : ClusterId) : Bool := fld m (8 * c.val + 7) (8 * c.val) != 0

/-- The mask of the running slot. -/
def slotMask (s : State) : W64 := match s.pw.running with | some w => BitVec.ofNat 64 (fld w 127 64) | none => 0

/-- A ready partition has a VE on the cluster, by its VE_SET or the running slot (R365). -/
def hasOn (s : State) (p : PartId) (c : ClusterId) : Bool :=
  partReady s.parts[p] && (onCluster s.parts[p].cfg.veSet c || (match s.pw.running with
    | some w => slotServes w p && onCluster (slotMask s) c
    | none => false))

/-! ### Sleep (R361, R354) -/

/-- A condition for sleep fails now. -/
def mustWake (s : State) (c : ClusterId) : Bool :=
  s.clusters[c].wakeReq || ((List.finRange 16).any fun p => hasOn s p c) || onCluster (slotMask s) c

/-- The latches of a cluster that its event port can forward (R354, R355). -/
def portLatches (s : State) (c : ClusterId) : List Latch :=
  s.ev.latches.filter fun l => decide (l.src.val < 512) && decide (l.src.val / 64 = c.val) && canServe s l.src

/-- A sleeping cluster wakes at level 7 (R361). -/
def wakeNow (s : State) (c : ClusterId) : State :=
  let s1 := modCluster s c fun k => { k with asleep := false, wakeReq := false, level := 7, freq := freqAt k 7, vid := vidOf (voltAt k 7) }
  dispatchEvent s1 (680 + c.val) (at' 32 4 0xF ||| 7)

/-- The cluster sleeps: latches forwarded, the clock stopped, the rail at level 7, the current sensor zeroed (R361, R378). A wake request
that a forwarded latch makes is served as soon as the entry ends. -/
def sleepNow (s : State) (c : ClusterId) : State :=
  let old := s.clusters[c].level
  let go := portLatches s c
  let s1 := go.foldl serveLatch s
  let s2 := modCluster s1 c fun k =>
    { k with asleep := true, freq := 0, change := none, vid := vidOf (voltAt k 7), csOut := false
             csCal := newRecord k.csCal (timeNow s) 0 (voltAt k 7) s.pw.dieTemp[dieOfCluster c].toNat }
  let s3 := dispatchEvent s2 (680 + c.val) (at' 32 4 old ||| 0xF)
  if go.any (wakesCluster s c) then wakeNow s3 c else s3

/-- WAKE_REQUEST: served at once, or after a freeze (R361, R434 row 24). -/
def wakeOp (s : State) (c : ClusterId) : State :=
  if dead s || frozen s || s.clusters[c].lost then s
  else if !s.clusters[c].asleep then modCluster s c fun k => { k with wakeReq := false }
  else if mustWake s c then wakeNow s c else s

/-! ### Slots (R369-R372) -/

/-- Offset of the context of logical VE `i` (R372). -/
def ctxOff (s : State) (p : PartId) (i : Nat) : Nat := s.parts[p].cfg.hbmSize.toNat * gib - 0x40000 + i * 0x1000

/-- A context save or restore meets a bad word: event 693, and the job segment fails with 0x0E01 (R372, Table 14.8). -/
def ctxFails (s : State) (p : PartId) (n : VeId) (lve status off : Nat) : State :=
  let s1 := raiseN s 693 (at' 32 6 p.val ||| BitVec.ofNat 32 n.val)
  failSegment s1 p 0x0E01 (at' 64 58 n.val ||| at' 64 54 status ||| at' 64 38 lve ||| BitVec.ofNat 64 (off % 2 ^ 38))

/-- The 4 KiB of a context are written; their layout is not given, so the words are free values (log 2). -/
def ctxWrite (s : State) (p : PartId) (n : VeId) (lve : Nat) : Option (Nat × Nat) × State :=
  (List.range 256).foldl (fun (x : Option (Nat × Nat) × State) i =>
    if x.1.isSome then x
    else
      let d := drawWord x.2
      let a := writePart d.2 p (.engine n 5) 0 false (ctxOff s p lve + 16 * i) d.1 allBytes
      (if a.status = 0 then none else some (a.status, ctxOff s p lve + 16 * i), a.s)) (none, s)

/-- The 4 KiB of a context are read. -/
def ctxRead (s : State) (p : PartId) (n : VeId) (lve : Nat) : Option (Nat × Nat) × State :=
  (List.range 256).foldl (fun (x : Option (Nat × Nat) × State) i =>
    if x.1.isSome then x
    else
      let a := readPart x.2 p (.engine n 5) 0 false (ctxOff s p lve + 16 * i)
      (if a.status = 0 then none else some (a.status, ctxOff s p lve + 16 * i), a.s)) (none, s)

/-- The vector side that a context brings to a VE: its own but for the VE's fence, its counters and its record of mismatches. -/
def ctxEngine (x e : Engine) : Engine :=
  { x with openIns := [], fenced := e.fenced, vfTotal := e.vfTotal, stagedTotal := e.stagedTotal, wdAborts := e.wdAborts
           pairMismatches := e.pairMismatches, pairLog := e.pairLog }

/-- A context is restored into VE `n`, whose caches and predictor are empty (R159, R370, R381). -/
def ctxLoad (s : State) (n : VeId) (x : SavedCtx) : State :=
  let s1 := modSeq s n fun c =>
    { c with r := x.r, st := x.st, openFaults := x.openFaults, begunBarrier := x.begunBarrier, arrived := x.arrived
             icache := [], dcache := [], bp := .replicate 512 1, entry := none, ahead := none, back := .unbound }
  modEng s1 n (ctxEngine x.eng)

/-- Contexts of a partition's logical VEs are restored in order: none while a read waits (R256). -/
def ctxLoads (p : PartId) : List (VeId × Nat) → State → Option State
  | [], s => some s
  | (n, i) :: r, s =>
    match s.parts[p].saved.find? fun x => x.lve == i with
    | none => ctxLoads p r s
    | some x =>
      let y := ctxRead s p n i
      match y.1 with
      | some (9, _) => none
      | some (st, off) => some (ctxFails y.2 p n i st off)
      | none => ctxLoads p r (ctxLoad y.2 n x)

/-- The VEs that a slot's partition would bind now (R35, R370). -/
def slotBind (s : State) (p : PartId) : Option (List VeId) :=
  s.parts[p].image.bind fun im => bindVes (bindSet s p) s.parts[p].cfg.paired im.hdr

/-- The ring of a pool VE that comes to partition `p` holds no record of another partition's (R352). -/
def ownRing (p : PartId) (s : State) (n : VeId) : State :=
  let g := s.ev.seqRing[n]
  let other (e : EvRec) : Bool := e.part.isSome && e.part != some p
  if g.recs.any other || g.held.any (fun h => other h.ev) then moveRing s n else s

/-- The slot's partition takes its VEs: binding, rings, banks and contexts (R370). The slot stays due while a context cannot be read yet (R256). -/
def enterSlot (s : State) (p : PartId) : State :=
    match slotBind s p with
    | none => s
    | some b =>
      let s1 := modPart (b.foldl (ownRing p) s) p fun q => { q with bind := b }
      let s2 := if s.parts[p].handDue then s1 else banksToVes s1 p
      match (if s.parts[p].fresh then some s2 else ctxLoads p b.zipIdx s2) with
      | some s3 => modPart { s3 with pw := { s3.pw with due := false } } p fun q => { q with saved := [] }
      | none => { s with pw := { s.pw with due := true } }

/-- A slot start that waited goes on once the VEs have left and its contexts can be read (R370, R256). -/
def slotGo (s : State) : State :=
  match s.pw.due && s.pw.leaving.isEmpty && !frozen s, s.pw.running with
  | true, some w => enterSlot s (Fin.ofNat 16 (fld w 3 0))
  | _, _ => s

/-- The running slot ends: the rate is measured, and its VEs leave at their stop points (R364, R370, R371). -/
def endSlot (s : State) : State :=
  match s.pw.running with
  | none => s
  | some w =>
    let s0 := { s with pw := { s.pw with running := none, left := 0, due := false } }
    if bit w 4 then s0
    else
      let p : PartId := Fin.ofNat 16 (fld w 3 0)
      let ran := max 1 (fld w 55 44 - s.pw.left)
      let s1 := modPart s0 p fun q => { q with slotRate := some (q.slotCycles * 10000 / ran) }
      let s2 := if s.pw.due || s.parts[p].bind.isEmpty then s1
        else { s1 with pw := { s1.pw with leaving := s.parts[p].bind, leavingPart := some p } }
      forwardPower s2 5 p 0 s.pw.slotNow.toNat []

/-- A slot is skipped or ends early (event 691): 0 not ready, 1 not runnable, 2 binding failed. -/
def slotEvent (s : State) (p : PartId) (why : Nat) : State :=
  raiseN s 691 (at' 32 10 why ||| at' 32 6 p.val ||| BitVec.ofNat 32 s.pw.slotNow.toNat)

/-- The job segment that a slot without a binding would have run fails with 0x0204 (R370). -/
def slotUnbound (s : State) (p : PartId) : State :=
  if s.parts[p].run.isSome then failSegmentFree s p 0x0204
  else
    match s.parts[p].jobs with
    | [] => s
    | j :: r => settle (ledgerItem (modPart s p fun q => { q with jobs := r }) p (jobId j) (jobKind j) 0x0204 none) p

/-- A slot that has been entered in the table takes its VEs: at once when no VE is still leaving, or when those that are leave this same
partition and keep their logical VEs; otherwise once they have left (R370, R371). -/
def beginSlot (s : State) (p : PartId) : State :=
  let keeps := s.pw.leavingPart = some p ∧
    s.pw.leaving.all fun n => (match slotBind s p with | some b => b.idxOf n == s.parts[p].bind.idxOf n | none => false)
  if s.pw.leaving.isEmpty then enterSlot s p
  else if keeps then enterSlot { s with pw := { s.pw with leaving := [], leavingPart := none } } p
  else { s with pw := { s.pw with due := true } }

/-- Slot `i` starts (R370, R373): an edit of it takes effect; a partition that is not ready or cannot bind is skipped. -/
def startSlot (s : State) (i : Fin 64) : State :=
  let w := match s.pw.edits.find? fun e => e.1 == i with | some e => e.2 | none => s.pw.active[i]
  let s1 := { s with pw :=
    { s.pw with active := updV s.pw.active i fun _ => w, edits := s.pw.edits.filter (·.1 != i), slotNow := BitVec.ofNat 8 i.val } }
  let p : PartId := Fin.ofNat 16 (fld w 3 0)
  let on : State := { s1 with pw := { s1.pw with running := some w, left := fld w 55 44 } }
  if bit w 4 then on
  else if !partReady s.parts[p] then slotEvent s1 p 0
  else if s.parts[p].image.isSome && (slotBind on p).isNone then slotUnbound (slotEvent s1 p 2) p
  else
    beginSlot (forwardPower (modPart on p fun q => { q with slotCycles := 0 }) 4 p 0 i.val [w]) p

/-- The next slot starts; a wrap applies a committed table (R369). -/
def nextSlot (s : State) : State :=
  let i := if s.pw.ticks = 1 then 0 else s.pw.slotNow.toNat + 1
  if i < s.pw.slotsLen.toNat then startSlot s (Fin.ofNat 64 i)
  else
    let s1 := { s with pw := { s.pw with wraps := s.pw.wraps + 1 } }
    startSlot (match pendingOf s1 .slots with | some d => settleCommit s1 d | none => s1) 0

/-- The slots at a tick: the running one goes on, ends with its TICKS, or ends early (R370). -/
def tickSlots (s : State) (waited : W16) : State :=
  match s.pw.running with
  | none => nextSlot s
  | some w =>
    let p : PartId := Fin.ofNat 16 (fld w 3 0)
    let s1 := { s with pw := { s.pw with left := s.pw.left - 1 } }
    if s.pw.left ≤ 1 then nextSlot (endSlot s1)
    else if bit w 4 then s1
    else if !partReady s.parts[p] then slotEvent (endSlot s1) p 0
    else if bit waited p.val then slotEvent (endSlot s1) p 1
    else s1

/-- VE `n` has reached its stop point (R371): no exception entry and no recovery microcode is under way. -/
def canStop (s : State) (n : VeId) : Bool :=
  let e := s.eng[n]
  let k := s.seq[n]
  let released := match s.pw.leavingPart with
    | some p => (match s.parts[p].run with | some r => r.phase != .evaluate | none => true)
    | none => true
  let det := match s.pw.leavingPart with
    | some p => (match s.parts[p].run with | some r => r.det | none => false)
    | none => false
  k.entry.isNone && k.st != .recovery && e.openIns.isEmpty && (e.stopped || !(e.queue.any (·.started))) && (if k.begunBarrier then released else !det)

/-- A VE leaving its slot saves its context and is free; the last one lets a waiting slot start (R371, R372). While a write of the context waits, the
VE does (R256). -/
def slotStopOp (s : State) (n : VeId) : State :=
  match s.pw.leavingPart with
  | none => s
  | some p =>
    if dead s || frozen s || (!clockRuns s (clusterOfVe n) && s.eng[n].fenced == 0) || !s.pw.leaving.contains n || !canStop s n then s
    else
      let lve := s.parts[p].bind.idxOf n
      let k := s.seq[n]
      let e := s.eng[n]
      let x : SavedCtx := { lve := lve, r := k.r, st := k.st, openFaults := k.openFaults, begunBarrier := k.begunBarrier
                            arrived := k.arrived, eng := e }
      let y := ctxWrite s p n lve
      if y.1.any (·.1 == 9) then s
      else
      let s1 := modPart y.2 p fun q => { q with saved := q.saved.filter (·.lve != lve) ++ [x] }
      let s2 := modSeq s1 n fun c =>
        { c with st := .unbound, icache := [], dcache := [], bp := .replicate 512 1, openFaults := [], begunBarrier := false, arrived := false
                 ahead := none }
      let s3 := modEng s2 n (ctxEngine .reset)
      let s4 := match y.1 with
        | some (st, off) => ctxFails s3 p n lve st off
        | none => if s.parts[p].run.isSome then doneEvent 2 p s3 n else s3
      let rest := s.pw.leaving.filter (· != n)
      let s5 := { s4 with pw := { s4.pw with leaving := rest } }
      if !rest.isEmpty then s5
      else
        let s6 := modPart { s5 with pw := { s5.pw with leavingPart := none } } p fun q => { q with bind := [] }
        slotGo s6

/-- SLOT_TICKS_EXPIRY: the running slot's TICKS have passed at this tick boundary (R370). -/
def slotExpiryOp (s : State) : State :=
  if dead s || frozen s || follows s || s.pw.running.isNone || decide (1 < s.pw.left) then s else endSlot { s with pw := { s.pw with left := 0 } }

/-! ### Leakage, prediction and energy (R362-R364, R366) -/

/-- 2^(r/25) in millionths. -/
def pow25 : List Nat :=
  [1000000, 1028114, 1057018, 1086735, 1117287, 1148698, 1180993, 1214195, 1248331, 1283426, 1319508, 1356604, 1394744,
   1433955, 1474269, 1515717, 1558329, 1602140, 1647182, 1693491, 1741101, 1790050, 1840375, 1892115, 1945310]

/-- Modelled leakage of cluster `c` in mW at a voltage in mV and its die's temperature (R362), in fixed point (log 38). -/
def leakMw (s : State) (c : ClusterId) (mv : Nat) : Nat :=
  let e := s.pw.dieTemp[dieOfCluster c].toNat + 15
  (Config.leak85 c).toNat * 100 * mv ^ 3 * nth pow25 (e % 25) 0 * 2 ^ (e / 25) / (900 ^ 3 * 16 * 1000000)

/-- Predicted power of cluster `c` at level `l`, in mW (R366). -/
def predictW (s : State) (c : ClusterId) (l : Nat) : Nat :=
  let k := s.clusters[c]
  if k.asleep || k.lost then 0
  else
    let dyn := k.pwr.toNat * 1000 - leakMw s c (voltAt k k.level)
    dyn * (freqAt k l * voltAt k l ^ 2) / (freqAt k k.level * voltAt k k.level ^ 2) + leakMw s c (voltAt k l)

/-- Demand levels of the partitions, and thermal demands of the dies. -/
structure Demands where
  d : List Nat
  td : List Nat
deriving DecidableEq, Repr

/-- Level of cluster `c` under given demands (R365). -/
def levelOf' (s : State) (x : Demands) (c : ClusterId) : Nat :=
  let ds := ((List.finRange 16).filter fun p => hasOn s p c).map fun p => nth x.d p.val 0
  if ds.isEmpty then 7 else ds.foldl max (nth x.td (dieOfCluster c).val 0)

/-- Predicted power of all clusters under given demands, in mW. -/
def powerAt (s : State) (x : Demands) : Nat := ((List.finRange 8).map fun c => predictW s c (levelOf' s x c)).sum

/-- D_p set. -/
def setD (x : Demands) (p : PartId) (v : Nat) : Demands := { x with d := updL x.d p.val fun _ => v }

/-- Insertion by an order, stable. -/
def insBy {α : Type} (lt : α → α → Bool) (x : α) : List α → List α
  | [] => [x]
  | y :: r => if lt x y then x :: y :: r else y :: insBy lt x r

/-- Sorted by an order, earlier elements first on ties. -/
def sortBy {α : Type} (lt : α → α → Bool) (l : List α) : List α := l.foldl (fun acc x => insBy lt x acc) []

/-- Ready partitions in descending J_p / WEIGHT_p, ascending number on ties (R366). -/
def byCharge (s : State) : List PartId :=
  sortBy (fun p q => decide (s.parts[q].charge * s.parts[p].cfg.weight.toNat < s.parts[p].charge * s.parts[q].cfg.weight.toNat))
    ((List.finRange 16).filter fun p => partReady s.parts[p])

/-- Ready partitions in ascending J_p / WEIGHT_p. -/
def byChargeUp (s : State) : List PartId :=
  sortBy (fun p q => decide (s.parts[p].charge * s.parts[q].cfg.weight.toNat < s.parts[q].charge * s.parts[p].cfg.weight.toNat))
    ((List.finRange 16).filter fun p => partReady s.parts[p])

/-- One pass that deepens ready partitions while the deficit (mW) is above 0. -/
def deepenPass (s : State) : List PartId → Int × Demands → Int × Demands
  | [], y => y
  | p :: r, (deficit, x) =>
    if deficit ≤ 0 then (deficit, x)
    else if 7 ≤ nth x.d p.val 0 then deepenPass s r (deficit, x)
    else
      let x1 := setD x p (nth x.d p.val 0 + 1)
      deepenPass s r (deficit - ((powerAt s x : Int) - powerAt s x1), x1)

/-- Passes until the deficit is met or every ready partition is at level 7. -/
def deepen (s : State) (order : List PartId) : Nat → Int × Demands → Int × Demands
  | 0, y => y
  | n + 1, y => if y.1 ≤ 0 ∨ order.all (fun p => 7 ≤ nth y.2.d p.val 0) then y else deepen s order n (deepenPass s order y)

/-- Relaxation of one tick: `room` in mW (R366). -/
def relax (s : State) (pNow : PartId → Nat) : List PartId → Int × Demands → Int × Demands
  | [], y => y
  | p :: r, (room, x) =>
    let d := nth x.d p.val 0
    if d = 0 then relax s pNow r (room, x)
    else
      let x1 := setD x p (d - 1)
      let cost : Int := (powerAt s x1 : Int) - powerAt s x
      let cap := s.parts[p].cfg.pwrCap.toNat
      if cost ≤ room ∧ (cap = 0 ∨ (pNow p : Int) * 1000 + cost ≤ cap * 1000) then relax s pNow r (room - cost, x1)
      else relax s pNow r (room, x)

/-- Dynamic energy of cluster `c` over the tick, in nJ (R362). -/
def dynNj (s : State) (m : TickMeas) (c : ClusterId) : Nat := m.cluster[c] * 100000 - leakMw s c m.vdd[c] * 100

/-- Energy of the VEs that executed for `p`, in nJ; `reef0` scales each part by (0.90 / V) squared (R363, R364). -/
def veNj (s : State) (m : TickMeas) (p : PartId) (reef0 : Bool) : Nat :=
  (m.activity.map fun x =>
    if x.2.1 = some p then
      let c := clusterOfVe x.1
      let tot := ((m.activity.filter fun y => clusterOfVe y.1 == c).map (·.2.2)).sum
      let e := dynNj s m c * x.2.2 / tot
      if reef0 then e * 810000 / m.vdd[c] ^ 2 else e
    else 0).sum

/-- Its share of the stacks' energy, in nJ: of each stack's, by the bytes served to the partition among all that the stack served (R363). -/
def stackShare (m : TickMeas) (p : PartId) : Nat :=
  (m.served.map fun x =>
    if x.2.1 = some p then
      let tot := ((m.served.filter fun y => y.1 == x.1).map (·.2.2)).sum
      m.stackNj[x.1] * x.2.2 / tot
    else 0).sum

/-- W_p, the charge, the energy totals and the model of partition `p` (R363-R365). -/
def tickEnergy (m : TickMeas) (s : State) (p : PartId) : State :=
  let w := veNj s m p false + stackShare m p
  let a := veNj s m p true + stackShare m p
  modPart s p fun q =>
    let acc := q.accNj + a
    let model := q.energyModel.toNat
    let upd := decide (16 ≤ q.accCycles)
    let meas := acc / q.accCycles
    let e : Int := (model : Int) + ((meas : Int) - model) / 4
    { q with
      pwrNow := BitVec.ofNat 16 (w / 100000)
      charge := q.charge * 15 / 16 + w
      usedNj := q.usedNj + w
      energyUsed := BitVec.ofNat 64 ((q.usedNj + w) / 1000)
      energyModel := if upd then BitVec.ofNat 32 e.toNat else q.energyModel
      accNj := if upd then 0 else acc
      accCycles := if upd then 0 else q.accCycles }

/-! ### The tick -/

/-- What the sensors hold is taken. -/
def tickMeasure (s : State) (m : TickMeas) : State :=
  let s1 := { s with
    pw := { s.pw with now := BitVec.ofNat 16 m.pkg, dieTemp := m.dieTemp, ticks := s.pw.ticks + 1
                      hot := BitVec.ofNat 4 ((List.finRange 4).foldl (fun (x : Nat) (d : DieId) =>
                        if bit s.pw.hot d.val && decide (s.pw.tjAlert.toNat ≤ m.dieTemp[d].toNat) then x + 2 ^ d.val else x) 0) }
    clusters := .ofFn fun c => { s.clusters[c] with pwr := BitVec.ofNat 16 m.cluster[c], mv := m.vdd[c] } }
  { s1 with stk := .ofFn fun i =>
      { s1.stk[i] with temp := m.stackTemp[i], vddq := m.vddq[i]
                       hot := s1.stk[i].hot && decide (s.pw.stackTlimit.toNat < m.stackTemp[i].toNat)
                       band := .ofFn fun g => m.load[(⟨4 * i.val + g.val, by omega⟩ : Fin 32)] } }

/-- A stack serves a deterministic partition with a segment executing (R229). -/
def stackDet (s : State) (i : StackId) : Bool :=
  (List.finRange 16).any fun p =>
    let c := s.parts[p].cfg
    (match s.parts[p].run with | some r => r.det | none => false) && c.hbmSize != 0 && (c.hbmMode == 0 || bit c.hbmStacks i.val)

/-- At most one quiet window per stack, for its lowest group in safe margin (R379). -/
def tickQuiet (s : State) : State :=
  (List.finRange 8).foldl (fun t i =>
    let k := t.stk[i]
    match (List.finRange 4).find? fun g => bit k.calSafe g.val && fld k.pcFenced (8 * g.val + 7) (8 * g.val) != 255 with
    | some g =>
      if k.quiet.isSome || k.fenced || stackDet t i then t
      else dispatchEvent (modStack t i fun k => { k with quiet := some g }) 696 (at' 32 3 g.val ||| BitVec.ofNat 32 i.val)
    | none => t) s

/-- Each stack's throttle moves one step (R377). -/
def tickStacks (s : State) : State :=
  { s with stk := s.stk.map fun k =>
      if s.pw.stackTlimit.toNat < k.temp.toNat then { k with throttle := min (k.throttle + 1) 4 }
      else if k.temp.toNat + 3 ≤ s.pw.stackTlimit.toNat then { k with throttle := k.throttle - 1 }
      else k }

/-- The calibration guard G in W (R378). -/
def calGuard (s : State) : Nat := 4 * ((List.finRange 8).filter fun c => s.clusters[c].csOut).length

/-- P_p in W for the tick's decisions: measured, or predicted for a pooled partition whose slot has just started (R364). -/
def partPower (s : State) (started : Option PartId) (p : PartId) : Nat :=
  if started = some p then
    match s.parts[p].slotRate with
    | some r => s.parts[p].energyModel.toNat * r / 1000000000
    | none => if s.parts[p].cfg.pwrCap = 0 then s.pw.limit.toNat / 4 else s.parts[p].cfg.pwrCap.toNat
  else s.parts[p].pwrNow.toNat

/-- Heat (R374): each die's demand moves by one. -/
def heat (s : State) : List Nat :=
  (List.finRange 4).map fun d =>
    let t := s.pw.dieTemp[d].toNat
    let x := s.pw.demand[d]
    if s.pw.tjTarget.toNat < t then min (x + 1) 7 else if t + 3 ≤ s.pw.tjTarget.toNat then x - 1 else x

/-- What a tick decides: the demands, the throttle step after it, the step taken in it, and the partitions above their caps. -/
structure Decision where
  dem : Demands
  step : Nat
  taken : Option Nat
  above : List PartId
deriving DecidableEq, Repr

/-- The decisions of R366. -/
def decideTick (s : State) (started : Option PartId) : Decision :=
  let pNow := partPower s started
  let x0 : Demands := { d := (List.finRange 16).map fun p => s.parts[p].demand, td := heat s }
  let above := (List.finRange 16).filter fun p =>
    partReady s.parts[p] && s.parts[p].cfg.pwrCap != 0 && decide (s.parts[p].cfg.pwrCap.toNat < pNow p)
  let x1 := above.foldl (fun x p => setD x p (min (nth x.d p.val 0 + 1) 7)) x0
  let def0 : Int := ((s.pw.now.toNat + calGuard s : Nat) : Int) * 1000 - s.pw.limit.toNat * 1000
  let y := deepen s (byCharge s) 8 (def0, x1)
  let step1 := if 0 < y.1 then min (s.pw.step + 1) 4 else s.pw.step
  let rose := (List.finRange 16).any (fun p => decide (s.parts[p].demand < nth y.2.d p.val 0)) ||
    (List.finRange 4).any fun d => decide (s.pw.demand[d] < nth x0.td d.val 0)
  let taken := if s.pw.step < step1 then some step1 else none
  let room : Int := (s.pw.limit.toNat * 49 * 1000 / 50 : Nat) - ((s.pw.now.toNat + calGuard s : Nat) : Int) * 1000
  { dem := if rose || decide (0 < step1) then y.2 else (relax s pNow (byChargeUp s) (room, y.2)).2
    step := if rose then step1 else step1 - 1, taken := taken, above := above }

/-- The decisions take effect: events, demands and the level orders (R365-R367). -/
def tickDecide (s : State) (started : Option PartId) : State :=
  let r := decideTick s started
  let s1 := r.above.foldl (fun t p => raiseN t 690 (at' 32 4 (partPower s started p) ||| BitVec.ofNat 32 p.val)) s
  let s2 := { s1 with
    parts := .ofFn fun p => { s1.parts[p] with demand := nth r.dem.d p.val 0 }
    pw := { s1.pw with demand := .ofFn fun d => nth r.dem.td d.val 0, step := r.step } }
  let s3 := match r.taken with
    | some x => raiseN s2 688 (at' 32 16 s.pw.now.toNat ||| BitVec.ofNat 32 x)
    | none => s2
  (List.finRange 8).foldl (fun t c => orderLevel t c (levelOf' s3 r.dem c)) s3

/-- Clusters that met the conditions throughout the tick sleep (R361). -/
def tickSleep (s : State) (sleepy : Byte) : State :=
  (List.finRange 8).foldl (fun t c =>
    let k := t.clusters[c]
    if s.pw.sleepEn && bit sleepy c.val && !mustWake t c && !k.asleep && !k.lost then sleepNow t c else t) s

/-- Pending reef-row commits reach their safe point (R360). -/
def tickRows (s : State) : State :=
  (List.finRange 8).foldl (fun t c => match pendingOf t (.reef c) with
    | some d => reefTo (settleCommit t d) c (headed t.clusters[c])
    | none => t) s

/-- The partition whose slot has started at this tick. -/
def startedSlot (before after : State) : Option PartId :=
  match after.pw.running with
  | some w => if bit w 4 then none
      else if before.pw.running.isSome && decide (1 < before.pw.left) then none else some (Fin.ofNat 16 (fld w 3 0))
  | none => none

/-- DISPATCH_TICK (R366). On a paired secondary only its own protections act (R382). -/
def dispatchTickOp (s : State) (m : TickMeas) : State :=
  if dead s || frozen s then s
  else
    let s0 := tickQuiet (tickMeasure s m)
    let s1 := tickRows s0
    let s2 := if follows s then s1 else tickSlots s1 m.idle
    let s3 := (List.finRange 16).foldl (tickEnergy m) s2
    let s4 := if follows s then s3 else tickDecide s3 (startedSlot s1 s2)
    tickSleep (tickStacks s4) m.sleepy

/-! ### Protections between ticks -/

/-- The level two below the present one, or that of a deeper change under way (R368). -/
def twoDeeper (k : Cluster) : Nat := max (min (k.level + 2) 7) (match k.change with | some (.paused m) => m | _ => 0)

/-- FAST_LIMIT: package power over 10 µs above 1.2 times PKG_PWR_LIMIT, and every cluster deepens two levels (R368). -/
def fastLimitOp (s : State) (watts : W16) : State :=
  if dead s || decide (5 * watts.toNat ≤ 6 * s.pw.limit.toNat) then s
  else
    raiseN ((List.finRange 8).foldl (fun t c => reefTo t c (twoDeeper t.clusters[c])) s) 689 (watts.setWidth 32)

/-- A die's temperature as last read. -/
def setDieTemp (s : State) (d : DieId) (t : Byte) : State := { s with pw := { s.pw with dieTemp := updV s.pw.dieTemp d fun _ => t } }

/-- TJ_ALERT_REACHED (R374). -/
def tjAlertOp (s : State) (d : DieId) (t : Byte) : State :=
  if dead s || decide (t.toNat < s.pw.tjAlert.toNat) || bit s.pw.hot d.val then s
  else
    let s1 := setDieTemp s d t
    raiseN { s1 with pw := { s1.pw with hot := setBit s1.pw.hot d.val true } } (672 + d.val) (t.setWidth 32)

/-- THERMAL_EMERGENCY at 110 degrees (R375). -/
def thermalOp (s : State) (d : DieId) (t : Byte) : State :=
  if dead s || decide (t.toNat < 110) then s
  else
    let s1 := ((List.finRange 8).filter fun c => dieOfCluster c == d).foldl (fun u c => reefTo u c 7) (setDieTemp s d t)
    raiseN { s1 with pw := { s1.pw with demand := updV s1.pw.demand d fun _ => 7 } } (676 + d.val) (t.setWidth 32)

/-- THERMTRIP at 120 degrees: the device is lost as a whole (R376). -/
def thermtripOp (s : State) : State :=
  if dead s then s
  else
    let s1 := loseDevice s
    { s1 with boot := { s1.boot with thermtrip := true } }

/-- The current-sensor record of a cluster no longer holds (R378). -/
def csOutOp (s : State) (c : ClusterId) : State :=
  let k := s.clusters[c]
  let t := s.pw.dieTemp[dieOfCluster c].toNat
  if dead s || k.csOut || (decide (absDiff t (fld k.csCal 7 0) ≤ 10) && decide (absDiff k.mv (fld k.csCal 17 8) ≤ 15)) then s
  else raiseN (modCluster s c fun k => { k with csOut := true }) 694 (BitVec.ofNat 32 c.val)

/-- The equalisation record of a port no longer holds (R380). -/
def eqOutOp (s : State) (h : PortId) : State :=
  let t := s.pw.dieTemp[(h : DieId)].toNat
  if dead s || s.ports[h].eqOut || decide (absDiff t (fld s.ports[h].eqCal 7 0) ≤ 30) then s
  else raiseN (modPort s h fun x => { x with eqOut := true }) 695 (BitVec.ofNat 32 h.val)

/-- A stack rises above STACK_TLIMIT (R377, Table 8.5 event 5). -/
def stackHotOp (s : State) (st : StackId) (t : Byte) : State :=
  if dead s || s.stk[st].fenced || s.stk[st].hot || decide (t.toNat ≤ s.pw.stackTlimit.toNat) then s
  else raiseN (modStack s st fun k => { k with temp := t, hot := true }) (517 + 8 * st.val) (t.setWidth 32)

/-! ### Commands -/

/-- DISPATCH_TICK (R366). -/
def execDispatchTick (m : TickMeas) (s : State) : Host.Outcome State Fault Refusal := .next (dispatchTickOp s m)
/-- SLOT_TICKS_EXPIRY (R370). -/
def execSlotTicksExpiry (s : State) : Host.Outcome State Fault Refusal := .next (slotExpiryOp s)
/-- VE_SLOT_STOP (R371). -/
def execVeSlotStop (n : VeId) (s : State) : Host.Outcome State Fault Refusal := .next (slotStopOp s n)
/-- WAKE_REQUEST (R361). -/
def execWakeRequest (c : ClusterId) (s : State) : Host.Outcome State Fault Refusal := .next (wakeOp s c)
/-- REEF_RAIL_ARRIVAL (R359). -/
def execReefRailArrival (c : ClusterId) (s : State) : Host.Outcome State Fault Refusal := .next (railArrives s c)
/-- REEF_CLOCK_RESTART (R359, R277). -/
def execReefClockRestart (c : ClusterId) (s : State) : Host.Outcome State Fault Refusal := .next (clockRestart s c)
/-- FAST_LIMIT (R368). -/
def execFastLimit (watts : W16) (s : State) : Host.Outcome State Fault Refusal := .next (fastLimitOp s watts)
/-- TJ_ALERT_REACHED (R374). -/
def execTjAlertReached (d : DieId) (temp : Byte) (s : State) : Host.Outcome State Fault Refusal := .next (tjAlertOp s d temp)
/-- THERMAL_EMERGENCY (R375). -/
def execThermalEmergency (d : DieId) (temp : Byte) (s : State) : Host.Outcome State Fault Refusal := .next (thermalOp s d temp)
/-- THERMTRIP (R376): whichever die. -/
def execThermtrip (_d : DieId) (s : State) : Host.Outcome State Fault Refusal := .next (thermtripOp s)
/-- SENSOR_CAL_OUT_OF_BAND (R378). -/
def execSensorCalOutOfBand (c : ClusterId) (s : State) : Host.Outcome State Fault Refusal := .next (csOutOp s c)
/-- EQ_CAL_OUT_OF_BAND (R380). -/
def execEqCalOutOfBand (h : PortId) (s : State) : Host.Outcome State Fault Refusal := .next (eqOutOp s h)
/-- STACK_ABOVE_THERMAL_LIMIT (R377). -/
def execStackAboveThermalLimit (s' : StackId) (temp : Byte) (s : State) : Host.Outcome State Fault Refusal := .next (stackHotOp s s' temp)

end Sys2Proof.Machine
end

