-- ==== Sys2Proof/Machine/Entries.lean ====
section
/-!
DEFINITION. Every entry of the object dictionary: its type, access class, marks, refused values and the value it reads as (spec/12 and the entry
tables of the other chapters), and the rights of each role (R316, Table 12.2).
-/

namespace Sys2Proof.Machine

/-- Types of Table 12.1; BOOL and ENUM have the width of U8. -/
inductive Ty where
  | u8
  | u16
  | u32
  | u64
  | w128
  | str
deriving DecidableEq, Repr

/-- Bytes of a value. -/
def Ty.bytes : Ty → Nat
  | .u8 => 1
  | .u16 => 2
  | .u32 => 4
  | .u64 => 8
  | .w128 => 16
  | .str => 16

/-- Access classes of R315. -/
inductive Class where
  | ro
  | wo
  | rw
  | rws
deriving DecidableEq, Repr

/-- An entry: its value in force, its reserved bits, the values it admits, and whether management alone may write it (R316). -/
structure Entry where
  ty : Ty
  cls : Class
  val : W128
  rsv : Nat
  ok : Nat → Bool
  mgmt : Bool

/-- A read-only entry. -/
def eRo (ty : Ty) (val : W128) : Option Entry := some { ty := ty, cls := .ro, val := val, rsv := 0, ok := fun _ => true, mgmt := false }
/-- An entry of another class. -/
def eOf (ty : Ty) (cls : Class) (val : W128) (ok : Nat → Bool) : Option Entry :=
  some { ty := ty, cls := cls, val := val, rsv := 0, ok := ok, mgmt := false }
/-- With reserved bits. -/
def withRsv (m : Nat) (e : Option Entry) : Option Entry := e.map fun x => { x with rsv := m }
/-- Marked management only. -/
def mgmtOnly (e : Option Entry) : Option Entry := e.map fun x => { x with mgmt := true }

/-- Any value of the type. -/
def anyVal : Nat → Bool := fun _ => true
/-- Values from `a` to `b`. -/
def within (a b : Nat) : Nat → Bool := fun v => decide (a ≤ v ∧ v ≤ b)
/-- 0 or 1: BOOL, and the ENUM entries with two values. -/
def twoVal : Nat → Bool := fun v => decide (v ≤ 1)

/-- A number as a value. -/
def nv (n : Nat) : W128 := BitVec.ofNat 128 n
/-- A bit vector as a value. -/
def bv {n : Nat} (x : BitVec n) : W128 := x.setWidth 128

/-- ASCII text in its low bytes, padded with zero (Table 12.1). -/
def strVal (t : String) : W128 := wordOfBytes (t.toList.map fun c => BitVec.ofNat 8 c.toNat)

/-! ### Control entries of the consistency groups -/

/-- CLAIM of a group (Table 12.11). -/
def claimVal (s : State) (g : Grp) : W128 :=
  match s.dict.claims.find? fun c => c.grp == g with
  | some c => nv c.by'.val
  | none => 0xFF

/-- Entry `sub` when it is CLAIM, COMMIT or DISCARD of group `g`. -/
def ctlEntry (s : State) (g : Grp) (sub : Nat) : Option Entry :=
  let (_, a, b, c) := grpCtl g
  if sub = a.toNat then eRo .u8 (claimVal s g)
  else if sub = b.toNat then eOf .u32 .wo 0 anyVal
  else if sub = c.toNat then eOf .u8 .wo 0 twoVal
  else none

/-! ### Partitions -/

/-- Entries 0x2000+p. -/
def partEntry (s : State) (p : PartId) (u : Nat) : Option Entry :=
  let q := s.parts[p]
  let c := q.cfg
  let vec (v : Byte) : Option Entry := eOf .u8 .rw (bv v) fun x => decide (x ≤ 15 ∨ x = 0xFF)
  if u = 0x10 then mgmtOnly (eOf .u64 .rws (bv c.veSet) anyVal)
  else if u = 0x20 then eRo .u8 (nv q.imageState.val)
  else if u = 0x21 then eRo .u64 (nv q.designCycle)
  else if u = 0x22 then eOf .u8 .wo 0 twoVal
  else if u = 0x23 then eOf .u8 .rws (bv c.fpsub) twoVal
  else if u = 0x24 then eOf .u8 .rws (boolW c.deterministic) twoVal
  else if u = 0x30 then eOf .u8 .rws (bv c.hbmMode) twoVal
  else if u = 0x31 then eOf .u8 .rws (bv c.hbmStacks) anyVal
  else if u = 0x32 then eOf .u8 .rws (bv c.hbmBase) anyVal
  else if u = 0x33 then eOf .u8 .rws (bv c.hbmSize) anyVal
  else if u = 0x40 then eOf .u32 .rw (bv c.barTimeout) (within 100 10000000)
  else if u = 0x41 then withRsv 0x7000 (eOf .u16 .rw (bv q.exchEditSlot) anyVal)
  else if u = 0x42 then eOf .w128 .rw q.exchEditW0 anyVal
  else if u = 0x43 then eOf .w128 .rw q.exchEditW1 anyVal
  else if u = 0x44 then eOf .u8 .wo 0 fun v => v == 1
  else if u = 0x45 then eRo .u8 (boolW q.exchActive)
  else if u = 0x46 then eRo .u16 (bv q.exchSlotsAct)
  else if u = 0x47 then eOf .u16 .rws (bv c.exchShadowSlots) (within 1 4096)
  else if u = 0x48 then eOf .u8 .rws (boolW c.exchSwap) twoVal
  else if u = 0x49 then eRo .u64 (bv q.exchWraps)
  else if u = 0x4A then eRo .u64 (bv q.exchWords)
  else if u = 0x4B then eRo .u32 (bv q.barLastNs)
  else if u = 0x50 then eOf .u8 .rws (bv c.ownerPort) (within 0 3)
  else if u = 0x51 then vec c.msixEvq
  else if u = 0x52 then vec c.msixLedger
  else if u = 0x53 then vec c.msixStream
  else if u = 0x54 then withRsv 0xF8 (eOf .u8 .wo 0 anyVal)
  else if u = 0x55 then eRo .u8 (nv (jobsQueued q))
  else if u = 0x60 then eOf .u16 .rw (bv c.pwrCap) fun v => decide (v = 0 ∨ (20 ≤ v ∧ v ≤ 1100))
  else if u = 0x61 then eOf .u8 .rw (bv c.weight) (within 1 255)
  else if u = 0x62 then eRo .u8 (nv q.demand)
  else if u = 0x63 then eRo .u16 (bv q.pwrNow)
  else if u = 0x64 then eRo .u32 (bv q.energyModel)
  else if u = 0x65 then eRo .u64 (bv q.energyUsed)
  else if u = 0x66 then eRo .u8 (nv (readiness s p))
  else if u = 0x70 then eOf .u8 .rws (boolW c.paired) twoVal
  else if u = 0x71 then eOf .u8 .rws (boolW c.twinMode) twoVal
  else if u = 0x72 then eRo .u8 (boolW q.stateLost)
  else if u = 0x73 then mgmtOnly (eOf .u8 .rw (boolW q.fenced) twoVal)
  else if u = 0x74 then eRo .u64 (bv q.agreed)
  else if u = 0x75 then eRo .u32 (bv q.rollbacks)
  else ctlEntry s (.part p) u

/-- Entries 0xC000+p (Table 11.11). -/
def ledgerEntry (s : State) (p : PartId) (u : Nat) : Option Entry :=
  let g := s.parts[p].ledger
  if u = 1 then eRo .u16 (nv g.ring.length)
  else if u = 2 then eRo .u64 (bv g.appended)
  else if u = 3 then eRo .u8 (boolW g.held)
  else if u = 4 then eRo .u32 (bv g.failed)
  else if u = 5 then eRo .u16 (bv g.lastCause)
  else none

/-- Entries 0xF000+8p+k other than the FIFO (Table 11.5). -/
def streamEntry (s : State) (p : PartId) (k : Fin 8) (u : Nat) : Option Entry :=
  let st := s.parts[p].streams[k]
  let inSide := actsIn s.parts[p] k
  if u = 1 then eOf .u16 .rws (bv st.depth) (within 64 16384)
  else if u = 2 then eOf .u16 .rws (bv st.watermark) (within 1 65535)
  else if u = 3 then eRo .u16 (nv (streamLevel s p k))
  else if u = 4 then eRo .u16 (nv (streamCredit s p k))
  else if u = 5 then eRo .u16 (nv (if inSide then 0 else outAvail st))
  else if u = 6 then eRo .u32 (bv (nextSeq s.parts[p] k))
  else if u = 7 then eRo .u8 (nv (streamState s p k))
  else if u = 8 then eOf .u8 .wo 0 twoVal
  else if u = 9 ∧ 3 ≤ k.val then eOf .u32 .wo 0 anyVal
  else if u = 0xA then eRo .u64 (bv st.blocks)
  else if u = 0xB then eRo .u32 (bv st.fails)
  else if u = 0xC then eRo .u32 (bv st.emptyReads)
  else if u = 0xD then eRo .u32 (bv st.discarded)
  else ctlEntry s (.stream p k) u

/-! ### Ports, engines, memory and banks -/

/-- Entries 0x2100+h (Tables 11.12, 12.4). -/
def portEntryOf (s : State) (h : PortId) (u : Nat) : Option Entry :=
  let t := s.ports[h]
  if u = 1 then eRo .u8 (nv t.link.val)
  else if u = 2 then eRo .u8 (bv t.width)
  else if u = 3 then eRo .u8 (bv t.speed)
  else if u = 4 then eRo .u32 (nv (poolUsed s h))
  else if u = 5 then mgmtOnly (eOf .u8 .rw (boolW t.fenced) twoVal)
  else if u = 6 then eRo .u32 (bv t.creditStalls)
  else if u = 0x10 then eRo .u64 (bv t.abortLast)
  else if u = 0x11 then eRo .u32 (bv t.abortCount)
  else none

/-- Type of a value of so many bytes. -/
def tyOf (bytes : Nat) : Ty := if bytes = 1 then .u8 else if bytes = 2 then .u16 else if bytes = 4 then .u32 else if bytes = 8 then .u64 else .w128

/-- Entries 0x3000+n. -/
def engineEntry (s : State) (n : VeId) (u : Nat) : Option Entry :=
  if u = 0x22 then eOf .u32 .wo 0 anyVal
  else match veEntry s n u with
    | none => none
    | some (b, v) =>
      if u = 0x20 ∨ u = 0x21 then eOf .u8 .rw v (within 0 7)
      else if u = 0x60 then mgmtOnly (eOf .u8 .rw v twoVal)
      else eRo (tyOf b) v

/-- Entries 0x4000 (Table 8.3's memory system). -/
def memEntry (s : State) (u : Nat) : Option Entry :=
  if u = 1 then eOf .u8 .rws (bv s.wideGib) (within 0 24)
  else if u = 2 then eOf .u8 .rw (bv s.scrubHours) (within 0 168)
  else if u = 3 then eRo .u32 (bv s.ceTotal)
  else if u = 4 then eRo .u32 (bv s.ueTotal)
  else if u = 5 then eOf .u8 .rw (bv s.pcUeLimit) anyVal
  else if u = 6 then eOf .u8 .rw (bv s.bankUeLimit) anyVal
  else if u = 7 then eRo .u64 (bv s.atomicOps)
  else ctlEntry s .mem u

/-- STACK_STATE (Table 8.4). -/
def stackState (k : Stack) : Nat := if k.fenced then 3 else if !k.ready then 0 else if k.calSafe != 0 || k.quiet.isSome then 2 else 1

/-- Entries 0x4010+s (Table 8.4). -/
def stackEntry (s : State) (i : StackId) (u : Nat) : Option Entry :=
  let k := s.stk[i]
  if u = 1 then eRo .u8 (nv (stackState k))
  else if u = 2 then eRo .u32 (bv k.pcFenced)
  else if u = 3 then eRo .u8 (bv k.temp)
  else if u = 4 then eRo .u32 (bv k.ce)
  else if u = 5 then eRo .u32 (bv k.ue)
  else if u = 6 then eRo .u64 (bv k.lastUe)
  else if u = 7 then eRo .u8 (bv k.calSafe)
  else if u = 8 then mgmtOnly (eOf .u8 .rw (boolW k.fenced) twoVal)
  else if h : 0x10 ≤ u ∧ u < 0x14 then eRo .w128 k.calRec[(⟨u - 0x10, by omega⟩ : Fin 4)]
  else none

/-- OWNER's codes (R233): the device knows 0, 0x40-0x7F, 0x80-0x8F, and the crow's nest of the bank's die. -/
def ownerOk (b : BankId) (v : Nat) : Bool :=
  v == 0 || decide (0x40 ≤ v ∧ v < 0x90) || v == 0xC0 + b.val / 64

/-- Entries 0x5000+b (Tables 8.6, 16.4) as requester `r` sees them; DBG_DATA is read by its own command. -/
def bankEntry (s : State) (r : Requester) (b : BankId) (u : Nat) : Option Entry :=
  let k := s.banks[b]
  if u = 1 then eOf .u8 .rws (bv k.part) fun v => decide (v ≤ 15 ∨ v = 0xFF)
  else if u = 2 then eOf .u8 .rw (bv k.owner) (ownerOk b)
  else if u = 3 then eRo .u8 (nv (bankState k))
  else if u = 4 then eRo .u32 (bv k.ce)
  else if u = 5 then eRo .u32 (bv k.ue)
  else if u = 6 then eRo .u32 (bv k.nonowner)
  else if u = 7 then eRo .u32 (bv k.tapRetries)
  else if u = 8 then eRo .u32 (bv k.torn)
  else if u = 9 then mgmtOnly (eOf .u8 .rw (boolW k.fenced) twoVal)
  else if u = 0xA then eRo .u16 (bv (Config.spareRows b))
  else if u = 0x10 then withRsv 0xFFFC0000 (eOf .u32 .rw (bv k.dbg[r].addr) anyVal)
  else if u = 0x11 then eRo .w128 0
  else if u = 0x12 then eRo .u8 (bv k.dbg[r].flags)
  else ctlEntry s (.bank b) u

/-! ### Events, power and dispatch -/

/-- Entries 0x6000 (Table 13.5). -/
def eventEntry (s : State) (u : Nat) : Option Entry :=
  let e := s.ev
  if u = 1 then eRo .u8 (boolW (e.unreachable != 0))
  else if u = 2 then eRo .u64 (bv e.arrivalsTotal)
  else if u = 3 then eRo .u64 (bv e.recordsTotal)
  else if u = 4 then eRo .u32 (bv e.heldTotal)
  else if u = 5 then eRo .u64 (bv (timeNow s))
  else if u = 8 then eRo .u16 (nv e.svRing.recs.length)
  else if u = 0x10 then eRo .w128 (ringHead s .sv)
  else if h : 0x40 ≤ u ∧ u < 0x50 then eRo .u16 (nv e.hostRing[(⟨u - 0x40, by omega⟩ : PartId)].recs.length)
  else none

/-- TARGET's values for source `x` (Table 13.6, R342). -/
def targetOk (x : SrcId) (v : Nat) : Bool :=
  if 720 ≤ x.val ∧ x.val ≤ 735 then v == 0
  else v == 0 || v == 0xFF || decide (0x40 ≤ v ∧ v < 0x90) || (v == 0xFE && (decide (x.val < 512) || decide (608 ≤ x.val ∧ x.val < 672)))

/-- Entries 0x6100+x (Table 13.6). -/
def sourceEntry (s : State) (x : SrcId) (u : Nat) : Option Entry :=
  let c := s.ev.src[x]
  if u = 1 then eOf .u8 .rw (bv c.target) (targetOk x)
  else if u = 2 then eOf .u8 .rw (boolW c.coalesce) twoVal
  else if u = 3 then eOf .u8 .rw (boolW c.keep) twoVal
  else if u = 4 then eOf .u8 .rw (boolW c.wake) twoVal
  else if u = 5 then eOf .u8 .rw (boolW c.svCopy) twoVal
  else if u = 6 then eRo .u8 (bv c.arrivals)
  else if u = 7 then eOf .u8 .wo 0 twoVal
  else if u = 8 then eRo .u16 (bv (evOpen s x))
  else if u = 9 then eRo .u8 (bv (evPending s x))
  else none

/-- HBM_THROTTLE (Table 14.7). -/
def throttleVal (s : State) : Nat := (List.finRange 7).foldl (fun (a : Nat) (i : Fin 7) => a + s.stk[(⟨i.val, by omega⟩ : StackId)].throttle * 2 ^ (4 * i.val + 4)) s.pw.step

/-- Entries 0x7000 (Table 14.7). -/
def powerEntry (s : State) (u : Nat) : Option Entry :=
  let w := s.pw
  if u = 1 then eOf .u16 .rw (bv w.limit) (within 400 1100)
  else if u = 2 then eRo .u16 (bv w.now)
  else if u = 3 then eOf .u8 .rw (bv w.tjTarget) (within 80 100)
  else if u = 4 then eOf .u8 .rw (bv w.tjAlert) (within 95 109)
  else if u = 5 then eOf .u8 .rw (bv w.stackTlimit) (within 80 95)
  else if u = 6 then eRo .u32 (nv ((List.finRange 4).map fun d => w.dieTemp[d].toNat * 2 ^ (8 * d.val)).sum)
  else if u = 7 then eRo .u16 (nv ((List.finRange 4).map fun d => w.demand[d] * 2 ^ (4 * d.val)).sum)
  else if u = 8 then eOf .u8 .rw (boolW w.sleepEn) twoVal
  else if u = 9 then eRo .u64 (bv w.ticks)
  else if u = 0xA then eRo .u32 (nv (throttleVal s))
  else if u = 0xB then eRo .u8 (nv s.stk[(7 : StackId)].throttle)
  else if u = 0xC then eRo .u16 (nv (calGuard s))
  else if h : 0x30 ≤ u ∧ u < 0x38 then eRo .w128 s.clusters[(⟨u - 0x30, by omega⟩ : ClusterId)].csCal
  else if h : 0x40 ≤ u ∧ u < 0x44 then eRo .w128 s.ports[(⟨u - 0x40, by omega⟩ : PortId)].eqCal
  else none

/-- A reef entry's values (R358). -/
def reefOk (v : Nat) : Bool :=
  let f := v % 4096
  let m := v / 65536 % 1024
  decide (600 ≤ f ∧ f ≤ 2000) && f % 50 == 0 && decide (600 ≤ m ∧ m ≤ 900) && m % 5 == 0

/-- Entries 0x7100 (Table 14.2). -/
def reefEntryOf (s : State) (u : Nat) : Option Entry :=
  if h : u < 0x40 then
    let c : ClusterId := ⟨u / 8, by omega⟩
    withRsv 0xFC00F000 (eOf .u32 .rws (bv s.clusters[c].row[(⟨u % 8, by omega⟩ : Fin 8)]) reefOk)
  else if h : u < 0x48 then
    let k := s.clusters[(⟨u - 0x40, by omega⟩ : ClusterId)]
    eRo .u8 (nv (if k.asleep then 0xF else k.level))
  else if h : u < 0x50 then eRo .u16 (bv (Config.vmin2g ⟨u - 0x48, by omega⟩))
  else if h : u < 0x58 then eRo .u16 (bv (Config.leak85 ⟨u - 0x50, by omega⟩))
  else if h : u < 0x60 then eRo .u16 (bv s.clusters[(⟨u - 0x58, by omega⟩ : ClusterId)].pwr)
  else if h : 0xE0 ≤ u ∧ u < 0xF8 then ctlEntry s (.reef ⟨u % 8, by omega⟩) u
  else none

/-- A dispatch slot's values: TICKS is not 0, and an EMPTY slot names no partition (Table 14.4). -/
def slotOk (v : Nat) : Bool := decide ((v >>> 44) % 4096 ≠ 0) && (!v.testBit 4 || v % 16 == 0)

/-- Reserved bits of a dispatch slot. -/
def slotRsv : Nat := (2 ^ 64 - 2 ^ 56) + (2 ^ 44 - 2 ^ 5)

/-- Entries 0x7200 (Table 14.6). -/
def dispatchEntry (s : State) (u : Nat) : Option Entry :=
  if h : u < 0x40 then withRsv slotRsv (eOf .w128 .rws s.pw.slots[(⟨u, h⟩ : Fin 64)] slotOk)
  else if u = 0x40 then eOf .u8 .rws (bv s.pw.slotsLen) (within 1 64)
  else if u = 0x41 then eOf .u64 .rws (bv s.pw.poolSet) anyVal
  else if u = 0x42 then eRo .u8 (bv s.pw.slotNow)
  else if u = 0x43 then eRo .u64 (bv s.pw.wraps)
  else if h : 0x80 ≤ u ∧ u < 0xC0 then withRsv slotRsv (eOf .w128 .rw s.pw.active[(⟨u - 0x80, by omega⟩ : Fin 64)] slotOk)
  else ctlEntry s .slots u

/-! ### Identity, alerts, commits, lockstep, CRC units, twin, crow's nest, boot and fabric -/

/-- Entries 0x1000-0x11FF (Tables 12.7-12.9). -/
def identEntry (s : State) (i u : Nat) : Option Entry :=
  if i = 0x1000 ∧ u = 1 then eRo .u32 0x00010040
  else if i = 0x1008 ∧ u = 1 then eRo .str (strVal "Ferul FV64")
  else if i = 0x1018 ∧ u = 1 then eRo .u32 0x00000A7D
  else if i = 0x1018 ∧ u = 2 then eRo .u32 0x0000F064
  else if i = 0x1018 ∧ u = 3 then eRo .u32 (bv (revision s))
  else if i = 0x1018 ∧ u = 4 then eRo .str Config.serial
  else if i = 0x10F0 ∧ u = 1 then eRo .u32 (bv s.dict.alertCause)
  else if i = 0x10F0 ∧ u = 2 then mgmtOnly (withRsv 0xFFFFFFE0 (eOf .u32 .wo 0 anyVal))
  else if h : 0x1100 ≤ i ∧ i < 0x1104 then
    let d : DieId := ⟨i - 0x1100, by omega⟩
    if u = 1 then eRo .str (Config.lot d)
    else if u = 2 then eRo .u8 (bv (Config.wafer d))
    else if u = 3 then eRo .u8 (bv (Config.dieX d))
    else if u = 4 then eRo .u8 (bv (Config.dieY d))
    else if u = 5 then eRo .u8 (nv d.val)
    else if u = 6 then eRo .u8 (boolW (bit s.dieFenced d.val))
    else none
  else if h : 0x1110 ≤ i ∧ i < 0x1118 then
    let k : StackId := ⟨i - 0x1110, by omega⟩
    if u = 1 then eRo .u8 (bv (Config.hbmVendor k))
    else if u = 2 then eRo .str (Config.hbmPart k)
    else if u = 3 then eRo .u64 (bv (Config.hbmSerial k))
    else if u = 4 then eRo .u8 24
    else if u = 5 then eRo .u8 12
    else none
  else none

/-- Entries 0x1F00 (Table 12.11). -/
def commitEntry (s : State) (u : Nat) : Option Entry :=
  if u = 1 then mgmtOnly (eOf .u32 .rw (bv s.dict.stageTimeout) (within 10 60000))
  else if u = 2 then eRo .u64 (bv s.dict.commits)
  else if h : 0x10 ≤ u ∧ u < 0x16 then eRo .u64 (bv s.dict.results[(⟨u - 0x10, by omega⟩ : Requester)])
  else none

/-- Entries 0x8000 (Table 7.14 and the supervisor's emergency frame). -/
def lockstepEntry (s : State) (u : Nat) : Option Entry :=
  let l := s.ls
  if u = 1 then eRo .u8 (nv l.state.val)
  else if u = 2 then eRo .u32 (bv l.mismatches)
  else if u = 3 then eRo .u64 (bv l.lastPc)
  else if u = 8 then eRo .u32 (bv l.patchId)
  else if u = 9 then eRo .u8 (bv l.patchUsed)
  else if u = 0x20 then eRo .u8 (nv (seqStateCode s.sv.st))
  else if 0x21 ≤ u ∧ u ≤ 0x28 then (match emerEntry s.sv.emer (u - 0x21) with | some (b, v) => eRo (tyOf b) v | none => none)
  else none

/-- Entries 0x8010+u (Table 15.2). -/
def crcEntry (s : State) (i : CrcId) (u : Nat) : Option Entry :=
  let k := s.crc[i]
  if u = 1 then eRo .u8 (nv (if k.fenced then 2 else if k.run.isSome then 1 else 0))
  else if u = 2 then eRo .u16 (bv k.master)
  else if u = 3 then eRo .u64 (bv k.runs)
  else if u = 4 then eRo .u32 (bv k.mismatches)
  else if u = 5 then eRo .u64 (bv k.last)
  else if u = 6 then mgmtOnly (eOf .u8 .rw (boolW k.fenced) twoVal)
  else none

/-- TWIN_MAP_BASE: 0, or a 64 KiB aligned HBM address with room for the map (Table 15.7). -/
def mapOk (v : Nat) : Bool := v == 0 || (v % 65536 == 0 && decide (hbmLo ≤ v ∧ v + 393216 ≤ hbmHi))

/-- Entries 0x8100 (Table 15.7). -/
def twinEntry (s : State) (u : Nat) : Option Entry :=
  let t := s.twin
  if u = 1 then eRo .u8 (boolW t.primary)
  else if u = 2 then eRo .u8 (nv t.state.val)
  else if u = 3 then mgmtOnly (eOf .u32 .wo 0 anyVal)
  else if u = 4 then mgmtOnly (eOf .u8 .wo 0 twoVal)
  else if u = 5 then mgmtOnly (eOf .u8 .wo 0 twoVal)
  else if u = 6 then eOf .u64 .rw (bv t.mapBase) mapOk
  else if u = 7 then eRo .u32 (bv t.resends)
  else none

/-- FREEZE_SRC (Table 16.5). -/
def freezeSrc (s : State) : Nat := (if s.fz.holdN then 1 else 0) + (if s.fz.dbg then 2 else 0)

/-- Entries 0x9000 (Table 16.5). -/
def nestEntry (s : State) (u : Nat) : Option Entry :=
  if u = 1 then eRo .u8 (nv s.fz.state.val)
  else if u = 2 then eRo .u8 (nv (freezeSrc s))
  else if u = 3 then eOf .u8 .rw (boolW s.fz.dbg) twoVal
  else if u = 4 then eRo .u64 (bv s.fz.ns)
  else if h : 0x10 ≤ u ∧ u < 0x14 then eRo .u8 (nv s.fz.trigFree[(⟨u - 0x10, by omega⟩ : DieId)])
  else if h : 0x18 ≤ u ∧ u < 0x28 then eRo .u8 (nv s.parts[(⟨u - 0x18, by omega⟩ : PartId)].trace.state.val)
  else if h : 0x28 ≤ u ∧ u < 0x38 then eRo .u32 (bv s.parts[(⟨u - 0x28, by omega⟩ : PartId)].trace.lost)
  else if h : 0x38 ≤ u ∧ u < 0x48 then eRo .u64 (bv s.parts[(⟨u - 0x38, by omega⟩ : PartId)].trace.cycles)
  else none

/-- Present frequency of clock domain `i` in MHz (Table 17.5); 0 without lock. -/
def clkFreq (s : State) (i : Nat) : W128 :=
  if !bit s.boot.pllLock i then 0
  else if h : i < 8 then nv s.clusters[(⟨i, h⟩ : ClusterId)].freq
  else if i < 12 then 2000
  else if i < 20 then 1150
  else if h : i < 24 then
    let t := s.ports[(⟨i - 20, by omega⟩ : PortId)]
    if t.link = 2 ∧ t.speed ≠ 5 then bv (Config.hpClock t.speed.toNat) else 1000
  else if i = 24 then 1750
  else 1000

/-- Arbiters whose FREEZE is set now: by the supervisor, a quiet window or the debug freeze (R256, FROZEN). -/
def frozenCount (s : State) : Nat :=
  let f := s.fab
  let n (l : List Arb) : Nat := (l.filter fun a => a.frozen || frozen s).length
  let pcs := (List.finRange 256).filter fun q =>
    f.pcArb[q].frozen || frozen s || inQuiet s.stk[(⟨q.val / 32, by omega⟩ : StackId)] (q.val % 32)
  pcs.length + n f.tapArb.toList + n f.rxArb.toList + n f.crcArb.toList + n f.clusterArb.toList + n f.bridgeArb.toList + n [f.mgtArb]

/-- Entries 0xA000 (Tables 9.7, 17.7). -/
def clockEntry (s : State) (u : Nat) : Option Entry :=
  let b := s.boot
  let f := s.fab
  if u = 1 then eRo .u8 (nv b.state)
  else if u = 2 then eRo .u8 (nv b.slot)
  else if u = 3 then eRo .u32 (bv b.fail)
  else if u = 4 then eRo .u8 (nv b.cause)
  else if u = 5 then mgmtOnly (eOf .u8 .wo 0 fun v => v == 0xA5)
  else if u = 6 then eRo .u32 (bv b.ms)
  else if u = 7 then eRo .u32 (bv b.fwA)
  else if u = 8 then eRo .u32 (bv b.fwB)
  else if u = 9 then eRo .u8 (bv b.bootsel)
  else if u = 0xA then eRo .u8 (boolW Config.fuseKeySet)
  else if 0x10 ≤ u ∧ u < 0x2A then eRo .u16 (clkFreq s (u - 0x10))
  else if u = 0x2A then eRo .u32 (bv b.pllLock)
  else if u = 0x2B then eRo .u32 (bv b.pllLosses)
  else if u = 0x40 then eRo .u8 (boolW f.remap)
  else if u = 0x41 then eOf .u32 .rw (bv f.wdTimeout) (within 1000 1000000)
  else if u = 0x42 then eRo .u32 (bv f.wdBreaks)
  else if u = 0x43 then eRo .u32 (bv f.sink)
  else if u = 0x44 then eOf .u64 .rw (bv f.pcBasePrio) anyVal
  else if u = 0x45 then eRo .u8 (bv f.links)
  else if u = 0x46 then mgmtOnly (withRsv 0xF0 (eOf .u8 .rw (bv f.links) anyVal))
  else if u = 0x47 then eRo .u32 (nv (frozenCount s))
  else none

/-! ### The dictionary -/

/-- Entry index:sub as requester `r` finds it, other than a stream FIFO; none where no chapter defines it (R323, Table 12.5). -/
def entryAt (s : State) (r : Requester) (i u : Nat) : Option Entry :=
  if 0x1000 ≤ i ∧ i < 0x1200 then identEntry s i u
  else if i = 0x1F00 then commitEntry s u
  else if h : 0x2000 ≤ i ∧ i < 0x2010 then partEntry s ⟨i - 0x2000, by omega⟩ u
  else if h : 0x2100 ≤ i ∧ i < 0x2104 then portEntryOf s ⟨i - 0x2100, by omega⟩ u
  else if h : 0x3000 ≤ i ∧ i < 0x3040 then engineEntry s ⟨i - 0x3000, by omega⟩ u
  else if i = 0x4000 then memEntry s u
  else if h : 0x4010 ≤ i ∧ i < 0x4018 then stackEntry s ⟨i - 0x4010, by omega⟩ u
  else if h : 0x5000 ≤ i ∧ i < 0x5100 then bankEntry s r ⟨i - 0x5000, by omega⟩ u
  else if i = 0x6000 then eventEntry s u
  else if h : 0x6100 ≤ i ∧ i < 0x6100 + 800 then sourceEntry s ⟨i - 0x6100, by omega⟩ u
  else if i = 0x7000 then powerEntry s u
  else if i = 0x7100 then reefEntryOf s u
  else if i = 0x7200 then dispatchEntry s u
  else if i = 0x8000 then lockstepEntry s u
  else if h : 0x8010 ≤ i ∧ i < 0x8020 then crcEntry s ⟨i - 0x8010, by omega⟩ u
  else if i = 0x8100 then twinEntry s u
  else if i = 0x9000 then nestEntry s u
  else if i = 0xA000 then clockEntry s u
  else if h : 0xC000 ≤ i ∧ i < 0xC010 then ledgerEntry s ⟨i - 0xC000, by omega⟩ u
  else if h : 0xF000 ≤ i ∧ i < 0xF080 then streamEntry s ⟨(i - 0xF000) / 8, by omega⟩ ⟨(i - 0xF000) % 8, by omega⟩ u
  else none

/-- The stream FIFO at index:00 (Table 11.5). -/
def isFifo (i u : Nat) : Bool := decide (0xF000 ≤ i ∧ i < 0xF080) && u == 0

/-! ### Rights (R316, R329, Table 12.2) -/

/-- The partition whose owning host an index belongs to. -/
def indexPart (s : State) (i : Nat) : Option PartId :=
  if h : 0x2000 ≤ i ∧ i < 0x2010 then some ⟨i - 0x2000, by omega⟩
  else if h : 0xC000 ≤ i ∧ i < 0xC010 then some ⟨i - 0xC000, by omega⟩
  else if h : 0xF000 ≤ i ∧ i < 0xF080 then some ⟨(i - 0xF000) / 8, by omega⟩
  else if h : 0x3000 ≤ i ∧ i < 0x3040 then vePartition s ⟨i - 0x3000, by omega⟩
  else if h : 0x5000 ≤ i ∧ i < 0x5100 then bankPart s ⟨i - 0x5000, by omega⟩
  else none

/-- Requester `r` is the owning host of an index. -/
def ownsIndex (s : State) (r : Requester) (i : Nat) : Bool :=
  match indexPart s i with
  | some p => (ownerOf s p).val == r.val
  | none => false

/-- Table 12.2, reading. -/
def mayRead (s : State) (r : Requester) (i u : Nat) : Bool :=
  let host := decide (r.val < 4)
  if 0xF000 ≤ i then (if u = 0 then host && ownsIndex s r i else !host || ownsIndex s r i)
  else if (0x2000 ≤ i ∧ i < 0x2010) ∨ 0xC000 ≤ i then !host || ownsIndex s r i
  else if 0x2100 ≤ i ∧ i < 0x2104 then !host || r.val == i - 0x2100
  else if 0x5000 ≤ i ∧ i < 0x5100 ∧ u = 0x11 then !host || ownsIndex s r i
  else true

/-- Table 12.2, writing. -/
def mayWrite (s : State) (r : Requester) (i u : Nat) : Bool :=
  let host := decide (r.val < 4)
  let mg := r.val == 4
  if i < 0x1200 then mg && i == 0x10F0 && u == 2
  else if i = 0x1F00 then mg && u == 1
  else if 0xF000 ≤ i then (if u = 0 then host && ownsIndex s r i else !mg && (!host || ownsIndex s r i))
  else if 0x2100 ≤ i ∧ i < 0x2104 then !host || r.val == i - 0x2100
  else if (0x2000 ≤ i ∧ i < 0x2010) ∨ 0xC000 ≤ i ∨ (0x3000 ≤ i ∧ i < 0x3040) ∨ (0x5000 ≤ i ∧ i < 0x5100) then !host || ownsIndex s r i
  else !host

/-- Table 12.10: commits of bank, memory-system, reef-row and slot-table groups are not accepted from hosts (R329). -/
def grpAdmits (r : Requester) : Grp → Bool
  | .part _ => true
  | .stream _ _ => true
  | _ => decide (4 ≤ r.val)

end Sys2Proof.Machine
end

