-- ==== Sys2Proof/Machine/HostCmds.lean ====
section
/-!
DEFINITION. Host ports: link events (R288, R310, R380), writes and reads of stream entries (R289, R291, R296, R302, R303), and the commands by
which a partition's jobs, design cycles and blocks go on.
-/

namespace Sys2Proof.Machine

/-! ### Links -/

/-- Host software has enumerated the port's function: D0, with memory space and MSI-X enabled (R286, log 101). -/
def enumerated (c : PciCfg) : PciCfg := { c with d3hot := false, memOn := true, msixOn := true }

/-- The link of port `h` has trained to a width and speed of Table 11.1, and host software enumerates it: both, the equalisation record and event 0
(R286, R310, R380). A port whose PLL has lost lock trains no more (R430). -/
def linkUpOp (s : State) (h : PortId) (width : BitVec 4) (speed : BitVec 3) (volt : BitVec 10) (load : BitVec 2) : State :=
  let t := s.ports[h]
  if dead s || t.fenced || t.link == 2 || s.boot.state == 8 || bit s.boot.pllGone (20 + h.val) || !Config.linkTrains width speed then s
  else
    let d : DieId := h
    let s1 := modPort s h fun t =>
      { t with link := 2, cfg := enumerated t.cfg, width := width.setWidth 8, speed := speed.setWidth 8, eqOut := false
               eqCal := newRecord t.eqCal (timeOn s d) load.toNat volt.toNat s.pw.dieTemp[d].toNat }
    let s2 := raiseN (msixFlush s1 h) (576 + 8 * h.val) (at' 32 4 speed.toNat ||| width.setWidth 32)
    (ownedBy s2 h).foldl (fun u p => kick u p) s2

/-- A port whose link is up and whose function a reset has left in its reset state is enumerated again (R288, log 101). -/
def enumerate (s : State) (h : PortId) : State :=
  if s.ports[h].link = 2 ∧ !s.ports[h].cfg.memOn then msixFlush (modPort s h fun t => { t with cfg := enumerated t.cfg }) h else s

/-- The port's function serves memory requests: memory space enabled, in D0 (Table 11.1). -/
def takesTlps (t : Port) : Bool := t.cfg.memOn && !t.cfg.d3hot

/-- A request that the function does not support, logged by Advanced Error Reporting as an Unsupported Request (Table 11.1, log 101). -/
def unsupported (s : State) (h : PortId) : State :=
  modPort s h fun t => { t with cfg := { t.cfg with aerUncorrectable := t.cfg.aerUncorrectable ||| at' 32 20 1 } }

/-- Hot reset of a port whose link is up: its PCIe logic is reset and the link trains again (R288). -/
def hotResetOp (s : State) (h : PortId) (sunk : Nat) : State :=
  if dead s || s.ports[h].link != 2 then s
  else raiseN (portReset (modPort s h fun t => { t with link := 1, width := 0, speed := 0 }) h sunk) (577 + 8 * h.val) 0

/-- Function Level Reset of a port: the link stays up (R288). -/
def flrOp (s : State) (h : PortId) (sunk : Nat) : State :=
  if dead s || s.ports[h].link != 2 then s else raiseN (portReset s h sunk) (578 + 8 * h.val) 0

/-- A correctable link error: the first and every 256th raise event 6 with the count (Table 11.8). Which error it is, and so the bit that Advanced
Error Reporting logs, no command says (log 101). -/
def linkErrorOp (s : State) (h : PortId) : State :=
  if dead s || s.ports[h].link == 0 || s.ports[h].link == 3 then s
  else
    let n := s.ports[h].correctable + 1
    let d := drawWord s
    let s1 := modPort d.2 h fun t => { t with correctable := n, cfg := { t.cfg with aerCorrectable := t.cfg.aerCorrectable ||| d.1.setWidth 32 } }
    if n = 1 ∨ n % 256 = 0 then raiseN s1 (582 + 8 * h.val) (BitVec.ofNat 32 (n % 65536)) else s1

/-! ### Requests of a host port -/

/-- A paired secondary serves no host but for identity and twin entries, and an isolated one takes no host traffic (R398, R405). -/
def hostShut (s : State) : Bool := !s.twin.primary && (s.twin.state == 3 || s.twin.state == 5)

/-- A BAR0 access to subindex 0x00 is a dictionary access, so it drops a low half that the port's requester holds (R291, R314). -/
def dropHalf (s : State) (h : PortId) (bar0 : Bool) : State :=
  if bar0 then { s with dict := { s.dict with half := updV s.dict.half (h.castLE (by decide)) fun _ => none } } else s

/-- A stream access that reaches no FIFO: closed dictionary, shut secondary, or a partition of another port (R291, R398, R424); through BAR0 the
abort code is recorded. Second component: whether it is so. -/
def strayAccess (s : State) (h : PortId) (p : PartId) (k : Fin 8) (bar0 write : Bool) : State × Bool :=
  let ab (t : State) (code : Nat) : State := if bar0 then portAbort t h (0xF000 + 8 * p.val + k.val) 0 write code else t
  let ev (t : State) : State := raiseN t (579 + 8 * h.val) (accessDetail p k write)
  if !s.dict.isOpen then (ab s 0x0030, true)
  else if hostShut s then (if bar0 then ab s 0x0007 else ev s, true)
  else if ownerOf s p ≠ h then (ab (ev s) 0x0004, true)
  else (s, false)

/-- A write whose address or length is no multiple of 16 bytes, or to an entry without an in-stream side (R296). -/
def malformedWrite (s : State) (h : PortId) (p : PartId) (k : Fin 8) : State :=
  let s1 := raiseN s (580 + 8 * h.val) (accessDetail p k false)
  if k.val ≤ 2 ∨ k.val = 7 then
    modStream (failPush s1 p k 0x0B04 none) p k fun st => { st with discard := true }
  else s1

/-- The words of a write enter the FIFO in order; from the first that finds none of its room they are held in the port (R302). -/
def pushTlp (s : State) (h : PortId) (p : PartId) (k : Fin 8) (data : List W128) : State :=
  let y := pushWords p k data s
  if y.1.isEmpty then y.2
  else
    let z := restoreGo y.2 p
    let w := pushWords p k y.1 z
    if w.1.isEmpty then w.2
    else modPort w.2 h fun t => { t with rx := t.rx ++ [{ part := p, k := k, words := w.1 }], creditStalls := satInc t.creditStalls }

/-- Words that bytes make, least significant byte first. -/
def wordsOf (data : List Byte) : List W128 := (chunks 16 data).map wordOfBytes

/-- A write to the FIFO of stream entry (p, k), through its BAR2 aperture or BAR0 subindex 0x00 (IN_STREAM_WRITE, R291, R296). -/
def inWriteOp (s : State) (h : PortId) (p : PartId) (k : Fin 8) (bar0 : Bool) (off : Nat) (data : List Byte) : State :=
  let x := strayAccess (dropHalf s h bar0) h p k bar0 true
  if x.2 then x.1
  else if off % 16 ≠ 0 ∨ data.length % 16 ≠ 0 ∨ (3 ≤ k.val ∧ k.val ≤ 6) then kick (malformedWrite x.1 h p k) p
  else partGo (pushTlp x.1 h p k (wordsOf data)) p

/-- Data of a refused read: all ones. -/
def onesWords (bytes : Nat) : List W128 := List.replicate (cdiv bytes 16) (BitVec.allOnes 128)

/-- A read of the FIFO of stream entry (p, k): words of presented blocks, then zeros that are counted (OUT_STREAM_READ, R291, R296, R303). -/
def outReadOp (s : State) (h : PortId) (p : PartId) (k : Fin 8) (bar0 : Bool) (off bytes : Nat) : State :=
  let x := strayAccess (dropHalf s h bar0) h p k bar0 false
  if x.2 then (if bar0 then emit x.1 (.cpl h (onesWords bytes)) else emit (unsupported x.1 h) (.unsupported h))
  else if k.val ≤ 2 then emit x.1 (.cpl h (List.replicate (cdiv bytes 16) 0))
  else if off % 16 ≠ 0 ∨ bytes % 16 ≠ 0 then emit (unsupported x.1 h) (.unsupported h)
  else
    let n := bytes / 16
    let m := min n (outAvail x.1.parts[p].streams[k])
    let r := readOut p k m x.1
    let s1 := modStream r.2 p k fun st => { st with emptyReads := satAdd st.emptyReads (n - m) }
    kick (emit s1 (.cpl h (r.1 ++ List.replicate (n - m) 0))) p

/-! ### The MSI-X structures (Table 11.2) -/

/-- Byte of BAR2 outside the apertures: the MSI-X table, the pending bit array, and zero elsewhere (R290). -/
def bar2Byte (t : Port) (off : Nat) : Byte :=
  if 0x80000 ≤ off ∧ off < 0x80100 then nth t.msixTable (off - 0x80000) 0
  else if 0x88000 ≤ off ∧ off < 0x88008 then byteOf t.msixPending (off - 0x88000)
  else 0

/-- A write to BAR2 outside the apertures: bytes of the MSI-X table change, others are discarded; a vector unmasked with its pending bit set
sends its message (R290, R294). -/
def bar2Write (s : State) (h : PortId) (off : Nat) (data : List Byte) : State :=
  msixFlush (modPort s h fun t => { t with msixTable := (List.range 256).map fun i =>
    if off ≤ 0x80000 + i ∧ 0x80000 + i < off + data.length then nth data (0x80000 + i - off) 0 else nth t.msixTable i 0 }) h

/-- A read of BAR2 outside the apertures. -/
def bar2Read (s : State) (h : PortId) (off bytes : Nat) : State :=
  emit s (.cpl h (wordsOf ((List.range bytes).map fun i => bar2Byte s.ports[h] (off + i))))

/-- A block of entry `k` is presented while its conditions hold (R303). -/
def presentOp (s : State) (p : PartId) (k : Fin 8) : State :=
  if dead s then s
  else if k.val = 3 then
    match s.parts[p].frames with
    | f :: _ => if s.parts[p].streams[k].ready.isEmpty then s else releaseBlocks s p f
    | [] => s
  else if k.val = 4 then (if frozen s then s else presentTrace s p)
  else if k.val = 5 then presentEvents s p
  else if k.val = 6 then presentLedger s p
  else if k.val = 7 then saveOp s p
  else s

/-- A held word finds no room within 4 us: it and the rest of its block, the one in progress or the one whose header it is, are discarded
(R302, log 107). -/
def holdTimeoutOp (s : State) (h : PortId) : State :=
  match s.ports[h].rx with
  | x :: _ =>
    if dead s || frozen s then s
    else
      let st := s.parts[x.part].streams[x.k]
      let f := if st.cur.isSome || (rawTail st.raw).2.isSome then failPush s x.part x.k 0x0B05 none
        else failBlock s x.part x.k (headBlock (x.words.headD 0) s.parts[x.part].load.length) 0x0B05 none
      let s1 := modPort f h fun t => { t with rx := [] }
      let s2 := modStream s1 x.part x.k fun st => { st with discard := true, discarded := satAdd st.discarded (x.words.length - 1) }
      partGo (raiseN s2 (581 + 8 * h.val) (accessDetail x.part x.k false)) x.part
  | [] => s

/-! ### Design cycles -/

/-- COMMIT_PHASE with what waits for its end: commits of a twin-mode partition (R399), and a detach (R406). -/
def commitPhaseOp (s : State) (p : PartId) : State :=
  let t := commitOp s p
  let u := if t.parts[p].designCycle ≠ s.parts[p].designCycle ∧ twinActive s p then
      match pendingOf t (.part p) with
      | some pd => if pd.due ≤ t.parts[p].designCycle then settleCommit t pd else t
      | none => t
    else t
  detachGo u

/-! ### Commands -/

/-- HOST_LINK_UP. -/
def execHostLinkUp (h : PortId) (width : BitVec 4) (speed : BitVec 3) (volt : BitVec 10) (load : BitVec 2) (s : State) :
    Host.Outcome State Fault Refusal := .next (linkUpOp s h width speed volt load)
/-- HOST_LINK_DOWN (R288). -/
def execHostLinkDown (h : PortId) (sunk : Fin 33) (s : State) : Host.Outcome State Fault Refusal := .next (if dead s then s else linkDown s h sunk.val)
/-- HOT_RESET (R288). -/
def execHotReset (h : PortId) (sunk : Fin 33) (s : State) : Host.Outcome State Fault Refusal := .next (hotResetOp s h sunk.val)
/-- FUNCTION_LEVEL_RESET (R288). -/
def execFunctionLevelReset (h : PortId) (sunk : Fin 33) (s : State) : Host.Outcome State Fault Refusal := .next (flrOp s h sunk.val)
/-- CORRECTABLE_LINK_ERROR (Table 11.8). -/
def execCorrectableLinkError (h : PortId) (s : State) : Host.Outcome State Fault Refusal := .next (linkErrorOp s h)
/-- OUT_BLOCK_PRESENT (R303). -/
def execOutBlockPresent (p : PartId) (k : Fin 8) (s : State) : Host.Outcome State Fault Refusal := .next (presentOp s p k)
/-- FIFO_HOLD_TIMEOUT (R302). -/
def execFifoHoldTimeout (h : PortId) (s : State) : Host.Outcome State Fault Refusal := .next (holdTimeoutOp s h)
/-- JOB_START (R305). -/
def execJobStart (p : PartId) (s : State) : Host.Outcome State Fault Refusal := .next (jobStartOp s p)
/-- CHECKPOINT_SAVE (R390). -/
def execCheckpointSave (p : PartId) (s : State) : Host.Outcome State Fault Refusal := .next (saveOp s p)
/-- INGEST (R38). -/
def execIngest (p : PartId) (s : State) : Host.Outcome State Fault Refusal := .next (ingestOp s p)
/-- COMMIT_PHASE (R39, R43). -/
def execCommitPhase (p : PartId) (s : State) : Host.Outcome State Fault Refusal := .next (commitPhaseOp s p)
/-- OBSERVATION (R410). -/
def execObservation (p : Observed) (s : State) : Host.Outcome State Fault Refusal := .next (observationOp s p.part p.cut)
/-- RESULT_RELEASE (R37). -/
def execResultRelease (p : PartId) (s : State) : Host.Outcome State Fault Refusal := .next (releaseOp s p)

end Sys2Proof.Machine
end

