-- ==== Sys2Proof/Machine/Dict.lean ====
section
/-!
DEFINITION. The dictionary engine (R312-R322, R329-R333, R452): the checks of an access in their order, the effect of a write to each entry,
staging, COMMIT and DISCARD, reads that change state, and the answer to the requester.
-/

namespace Sys2Proof.Machine

/-- How a write ends: accepted, held until its own rule completes it (R234, R281), or refused with an abort code. -/
inductive DRes where
  | done
  | held
  | refused (code : Nat)
deriving DecidableEq, Repr

/-! ### Checks 1 to 5 (R452) -/

/-- What I3C may read before the dictionary opens (R424). -/
def preOpen (r : Requester) (ix sub : Nat) (write : Bool) : Bool :=
  r.val == 4 && !write && (decide (0x1000 ≤ ix ∧ ix < 0x1200) || decide (ix = 0xA000 ∧ 1 ≤ sub ∧ sub ≤ 0xA))

/-- A host's access that a paired or isolated secondary refuses (R398). -/
def shutOut (s : State) (r : Requester) (ix : Nat) (write : Bool) : Bool :=
  decide (r.val < 4) && hostShut s && !(!write && (decide (0x1000 ≤ ix ∧ ix < 0x1200) || ix == 0x8100))

/-- A write of the group's member, COMMIT or DISCARD that R329 does not let this requester make. -/
def grpShut (r : Requester) (ix sub : Nat) (e : Entry) : Bool :=
  match grpOf (BitVec.ofNat 16 ix) (BitVec.ofNat 8 sub) with
  | some g => (e.cls == .rws || e.cls == .wo) && !grpAdmits r g
  | none => false

/-- The right to write (R316, R329, Table 12.2). -/
def writeRight (s : State) (r : Requester) (ix sub : Nat) (e : Entry) : Bool :=
  mayWrite s r ix sub && (!e.mgmt || r.val == 4) && !grpShut r ix sub e

/-- A host port whose die no link joins to the dictionary engine on die Q0 (R21, R243). -/
def hostCut (s : State) (r : Requester) : Bool := decide (r.val < 4) && !reachable s r.val 0

/-- The entry is a group's COMMIT, the access that needs the firmware (R203, log 23). -/
def isCommit (ix sub : Nat) : Bool :=
  match grpOf (BitVec.ofNat 16 ix) (BitVec.ofNat 8 sub) with
  | some g => (grpCtl g).2.2.1.toNat == sub
  | none => false

/-- Checks 1 to 4 of R452: the abort code of the first that fails. An access that cannot reach the engine ends with the fenced status. -/
def headCode (s : State) (r : Requester) (ix sub : Nat) (write : Bool) : Option Nat :=
  if !(s.dict.isOpen || r.val == 5 || preOpen r ix sub write) || (restarting s && write && isCommit ix sub) then some 0x0030
  else if hostCut s r then some 0x0008
  else if shutOut s r ix write then some 0x0007
  else
    match entryAt s r ix sub with
    | none => if isFifo ix sub then some 0x0004 else some 0x0001
    | some e =>
      if write then
        if !writeRight s r ix sub e then some 0x0004
        else if e.cls = .ro then some 0x0003 else none
      else if !mayRead s r ix sub then some 0x0004
      else if e.cls = .wo then some 0x0003 else none

/-- Widths and offsets that Table 12.1 admits; over I3C, and for the supervisor beside them, the entry's own width (R313, R336). -/
def widthOk (r : Requester) (t : Ty) (bytes off : Nat) : Bool :=
  let slot := match t with
    | .u64 => bytes == 8 && off == 0
    | .w128 => (off == 0 && (bytes == 16 || bytes == 8)) || (off == 8 && bytes == 8)
    | .str => (bytes == 16 && off == 0) || (bytes == 8 && (off == 0 || off == 8)) ||
        (bytes == 4 && (off == 0 || off == 4 || off == 8 || off == 12))
    | _ => off == 0 && (bytes == 4 || bytes == 8)
  let own := off == 0 && bytes == t.bytes
  if r.val = 4 then own else if r.val = 5 then slot || own else slot

/-! ### Exchange edits (R281) -/

/-- The exchange phase of the partition is in progress: a bound VE has reached `BARRIER` and the barrier has not released (Table 2.6). -/
def exchanging (s : State) (p : PartId) : Bool :=
  match s.parts[p].run with
  | some r => r.phase == .evaluate && s.parts[p].bind.any fun n => s.seq[n].begunBarrier
  | none => false

/-- The design cycle of the partition's last release. -/
def lastRelease (q : Partition) : Nat :=
  match q.run with
  | none => q.designCycle
  | some r => if r.phase = .commit ∨ r.draining then r.cycle else r.cycle - 1

/-- Position at which an edit made now lands (R281, R399). -/
def editAt (s : State) (p : PartId) (w : W128 × W128) (slot : Nat) (shadow : Bool) (by' : Option Requester) : Edit :=
  let q := s.parts[p]
  let wait := !shadow && exchanging s p
  { slot := slot, w0 := w.1, w1 := w.2, by' := by', due := if wait then lastRelease q + 1 else lastRelease q, post := !wait, shadow := shadow }

/-- Word that carries an edit's position to the twin (log 35). -/
def editWord (e : Edit) : W128 := BitVec.ofNat 128 e.due ||| at' 128 64 e.post.toNat ||| at' 128 65 e.shadow.toNat ||| at' 128 80 e.slot

/-- The table that EXCH_EDIT_SLOT names. -/
def editTable (q : Partition) : List (W128 × W128) := q.exchTables[if bit q.exchEditSlot 15 then shadowTable q else actTable q]

/-- EXCH_EDIT_SLOT loads the slot's present contents. -/
def editSlot (s : State) (p : PartId) (v : Nat) : State :=
  let s1 := modPart s p fun q => { q with exchEditSlot := BitVec.ofNat 16 v }
  let w := nth (editTable s1.parts[p]) (v % 4096) (0, 0)
  modPart s1 p fun q => { q with exchEditW0 := w.1, exchEditW1 := w.2 }

/-- EXCH_EDIT_GO: the staged slot is checked under R271 and applied, now or at the release. -/
def editGo (s : State) (r : Requester) (p : PartId) : State × DRes :=
  let q := s.parts[p]
  let w := (q.exchEditW0, q.exchEditW1)
  let slot := q.exchEditSlot.toNat % 4096
  match q.image with
  | none => (s, .refused 0x0007)
  | some im =>
    if q.imageState ≠ 2 ∧ q.imageState ≠ 3 then (s, .refused 0x0007)
    else if slotReserved w then (s, .refused 0x0006)
    else if !slotFields im slot (editTable q) w || !slotRegions s p im w then (s, .refused 0x0005)
    else
      let e := editAt s p w slot (bit q.exchEditSlot 15) (some r)
      let s1 := if forwards s p then forward s 2 p 0 (0x200044 + p.val * 256) [editWord e, w.1, w.2] else s
      if e.post then (landEdit p s1 { e with by' := none }, .done)
      else (modPart s1 p fun q => { q with edits := q.edits ++ [e] }, .held)

/-! ### Single entries -/

/-- LOAD_RESET while IMAGE_STATE is not 3: the image is gone, the table lengths are 0, and a partition fence is lifted (R27, R282, R395). Words
of entry 1 that memory has not accepted go with the load, so that its blocks await nothing more (log 56). -/
def loadReset (s : State) (p : PartId) : State :=
  let none' (b : InBlock) : InBlock := { b with mark := 0, left := 0 }
  let s1 := modPart s p fun q =>
    { q with imageState := 0, image := none, bind := [], load := [], loadQ := [], exchSlotsAct := 0, swapDue := false
             cfg := { q.cfg with exchShadowSlots := 0, exchSwap := false }
             frames := [], saved := [], fenced := false }
  let s2 := modStream s1 p 1 fun st => { st with cur := st.cur.map none', recvd := st.recvd.map none' }
  kick (modStream s2 p 3 fun st => { st with ready := [] }) p

/-- Writes of the single entries of partition `p` (0x2000+p). -/
def partWrite (s : State) (r : Requester) (p : PartId) (u v : Nat) : State × DRes :=
  let cfg (f : PartCfg → PartCfg) : State := modPart s p fun q => { q with cfg := f q.cfg }
  if u = 0x22 then
    if v = 0 then (s, .done)
    else if s.parts[p].imageState = 3 then (s, .refused 0x0007)
    else (loadReset s p, .done)
  else if u = 0x40 then (cfg fun c => { c with barTimeout := BitVec.ofNat 32 v }, .done)
  else if u = 0x41 then (editSlot s p v, .done)
  else if u = 0x42 then (modPart s p fun q => { q with exchEditW0 := BitVec.ofNat 128 v }, .done)
  else if u = 0x43 then (modPart s p fun q => { q with exchEditW1 := BitVec.ofNat 128 v }, .done)
  else if u = 0x44 then editGo s r p
  else if u = 0x51 then (msix (cfg fun c => { c with msixEvq := BitVec.ofNat 8 v }) p, .done)
  else if u = 0x52 then (msix (cfg fun c => { c with msixLedger := BitVec.ofNat 8 v }) p, .done)
  else if u = 0x53 then (msix (cfg fun c => { c with msixStream := BitVec.ofNat 8 v }) p, .done)
  else if u = 0x54 then
    (msix (modPart s p fun q =>
      { q with armEvq := q.armEvq || v.testBit 0, armLedger := q.armLedger || v.testBit 1, armStream := q.armStream || v.testBit 2 }) p, .done)
  else if u = 0x60 then (cfg fun c => { c with pwrCap := BitVec.ofNat 16 v }, .done)
  else if u = 0x61 then (cfg fun c => { c with weight := BitVec.ofNat 8 v }, .done)
  else if u = 0x73 then (if v = 1 then fenceReach (fencePart (endReached s) p) else s, .done)
  else (s, .done)

/-- Writes of a stream entry's single entries: RESYNC and REPLAY_SEQ. -/
def streamWrite (s : State) (p : PartId) (k : Fin 8) (u v : Nat) : State × DRes :=
  if u = 8 then (kick (resyncOp s p k v) p, .done)
  else if u = 9 then
    match replayOp s p k (BitVec.ofNat 32 v) with
    | some t => (t, .done)
    | none => (s, .refused 0x0007)
  else (s, .done)

/-- Writes of VE and sequencer `n` (0x3000+n): interrupt levels, doorbell and fence (R201, R393). -/
def engineWrite (s : State) (n : VeId) (u v : Nat) (sunk : Sunk) : State :=
  if u = 0x20 then modSeq s n fun c => { c with intEv := BitVec.ofNat 8 v }
  else if u = 0x21 then modSeq s n fun c => { c with intDb := BitVec.ofNat 8 v }
  else if u = 0x22 then modSeq s n fun c => { c with db := BitVec.ofNat 32 v, dbPend := true }
  else if u = 0x60 ∧ v = 1 then fenceReach (fenceVe (endReached s) n 1 sunk)
  else s

/-- Writes of the memory system's single entries (Table 8.4); a lowered limit acts at the next uncorrectable error (R223, log 114). -/
def memEntryWrite (s : State) (u v : Nat) : State :=
  if u = 2 then { s with scrubHours := BitVec.ofNat 8 v }
  else if u = 5 then { s with pcUeLimit := BitVec.ofNat 8 v }
  else if u = 6 then { s with bankUeLimit := BitVec.ofNat 8 v }
  else s

/-- The cases in which a write of OWNER is refused after its value is known, in order (R233). -/
def ownerRules (s : State) (b : BankId) (v : Nat) : List (Bool × Nat) :=
  let k := s.banks[b]
  [ (decide (0x40 ≤ v ∧ v < 0x80) && (match bankPart s b with | some p => !bit s.parts[p].cfg.veSet (v - 0x40) | none => true), 0x0014),
    (decide (0x80 ≤ v ∧ v < 0x90) && v - 0x80 != k.part.toNat, 0x0014),
    ((bankPart s b).isNone && v != 0 && v != 0xC0 + b.val / 64, 0x0014),
    (k.drain.isSome && !k.fenced, 0x0007),
    (k.fenced, 0x0008) ]

/-- OWNER of bank `b`: the present owner at once, another by a drain that holds the write's completion (R233, R234). -/
def ownerWrite (s : State) (r : Requester) (b : BankId) (v : Nat) : State × DRes :=
  let c := firstCode (ownerRules s b v)
  if c ≠ 0 then (s, .refused c)
  else if s.banks[b].owner.toNat = v then (s, .done)
  else (startDrain s b (BitVec.ofNat 8 v) (.write r), .held)

/-- Writes of a bank's single entries (Tables 8.6, 16.4). -/
def bankWrite (s : State) (r : Requester) (b : BankId) (u v : Nat) : State × DRes :=
  if u = 2 then ownerWrite s r b v
  else if u = 9 ∧ v = 1 then (fenceReach (fenceBank s b 4), .done)
  else if u = 0x10 then (modBank s b fun k => { k with dbg := updV k.dbg r fun d => { d with addr := BitVec.ofNat 32 v } }, .done)
  else (s, .done)

/-- Writes of source `x` (Table 13.6). -/
def sourceWrite (s : State) (x : SrcId) (u v : Nat) : State :=
  let md (f : SrcCfg → SrcCfg) : State := { s with ev := { s.ev with src := updV s.ev.src x f } }
  if u = 1 then retarget s x (BitVec.ofNat 8 v)
  else if u = 2 then md fun c => { c with coalesce := v != 0 }
  else if u = 3 then md fun c => { c with keep := v != 0 }
  else if u = 4 then md fun c => { c with wake := v != 0 }
  else if u = 5 then md fun c => { c with svCopy := v != 0 }
  else if u = 7 ∧ v = 1 then md fun c => { c with arrivals := 0 }
  else s

/-- Writes of the dispatcher's entries (Table 14.7). -/
def powerWrite (s : State) (u v : Nat) : State :=
  let md (f : Power → Power) : State := { s with pw := f s.pw }
  if u = 1 then md fun w => { w with limit := BitVec.ofNat 16 v }
  else if u = 3 then md fun w => { w with tjTarget := BitVec.ofNat 8 v }
  else if u = 4 then md fun w => { w with tjAlert := BitVec.ofNat 8 v }
  else if u = 5 then md fun w => { w with stackTlimit := BitVec.ofNat 8 v }
  else if u = 8 then md fun w => { w with sleepEn := v != 0 }
  else s

/-- SLOT_ACTIVE_i: from the slot's next start, unless a commit of the table is pending (R373). -/
def slotActiveWrite (s : State) (i : Fin 64) (v : Nat) : State × DRes :=
  if (pendingOf s .slots).isSome then (s, .refused 0x0011)
  else ({ s with pw := { s.pw with edits := s.pw.edits.filter (·.1 != i) ++ [(i, BitVec.ofNat 128 v)] } }, .done)

/-- ALERT_CLEAR: bits whose condition does not hold any more (R327, log 41). -/
def alertWrite (s : State) (v : Nat) : State :=
  let hot := s.pw.hot != 0 || (List.finRange 8).any fun i => s.stk[i].hot
  let keep := (if hot then 4 else 0) + (if s.ls.state = 2 then 16 else 0)
  { s with dict := { s.dict with alertCause := s.dict.alertCause &&& ~~~(BitVec.ofNat 32 v &&& ~~~BitVec.ofNat 32 keep) } }

/-- TWIN_PAIR may start a resync (R406). -/
def pairOk (s : State) : Bool :=
  let t := s.twin
  t.primary && (t.state == 1 || t.state == 4) && t.linkUp && t.farState == 1 && t.farFresh && t.farRevision == revision s && t.mapBase != 0

/-- Writes of the twin entries (Table 15.7). -/
def twinWrite (s : State) (u v : Nat) : State × DRes :=
  if u = 3 then (if pairOk s then (resyncStart s (BitVec.ofNat 32 v), .done) else (s, .refused 0x0007))
  else if u = 4 ∧ v = 1 then
    if s.twin.primary ∧ s.twin.state = 3 then (detachGo { s with twin := { s.twin with detachDue := true } }, .done) else (s, .refused 0x0007)
  else if u = 5 ∧ v = 1 then (if s.twin.state = 5 then (promote s, .done) else (s, .refused 0x0007))
  else if u = 6 then
    let s1 := { s with twin := { s.twin with mapBase := BitVec.ofNat 64 v } }
    if (List.finRange 16).any fun p => placeMap s1 (placeOf s.parts[p].cfg) then (s, .refused 0x0014) else (s1, .done)
  else (s, .done)

/-! ### The debug freeze (R415, R416) -/

/-- The freeze ends: event 736 + 8d + 5 from every die with the time frozen, and what waited goes on. -/
def thaw (s : State) : State :=
  let us := (timeNow s - s.fz.startAt).toNat / 1000
  let was := s.fz.state = 2
  let s1 := { s with fz := { s.fz with state := 0 } }
  let s2 := if was then (List.finRange 4).foldl (fun (t : State) (d : Fin 4) => raiseN t (741 + 8 * d.val) (satAdd (0 : W32) us)) s1 else s1
  (List.finRange 16).foldl (fun t p => partGo t p) s2

/-- One source of the freeze changes: both clear ends it, and the first starts the entry. HOLD_N alone has no effect before the dictionary opens
(R415, Table 19.5). -/
def freezeSet (s : State) (holdN dbg : Bool) : State :=
  let now := dbg || (holdN && s.dict.isOpen)
  let s1 := { s with fz := { s.fz with holdN := holdN, dbg := dbg } }
  if now then (if s.fz.state = 0 then { s1 with fz := { s1.fz with state := 1 } } else s1)
  else if s.fz.state = 0 then s1 else thaw s1

/-- Writes of clocks, fabric and boot (Tables 9.7, 17.7). -/
def clockWrite (s : State) (u v : Nat) : State :=
  if u = 5 then { s with boot := { s.boot with softDue := true } }
  else if u = 0x41 then { s with fab := { s.fab with wdTimeout := BitVec.ofNat 32 v } }
  else if u = 0x44 then { s with fab := { s.fab with pcBasePrio := BitVec.ofNat 64 v } }
  else if u = 0x46 then fenceReach ((List.range 4).foldl (fun t i => if v.testBit i then fenceLink t i else t) (endReached s))
  else s

/-- CRC_FENCE of unit `u` by management; the event's low bits, which no run gives, are free (log 2). -/
def crcFenceWrite (s : State) (u : CrcId) (v : Nat) : State :=
  let e := endReached s
  if v = 1 then fenceReach (fenceCrc (drawNat e).2 u 1 (drawNat e).1) else s

/-- The write of a value to a single entry, after the checks 1 to 7. -/
def singleWrite (s : State) (r : Requester) (ix u v : Nat) (sunk : Sunk) : State × DRes :=
  if ix = 0x10F0 then (alertWrite s v, .done)
  else if ix = 0x1F00 then ({ s with dict := { s.dict with stageTimeout := BitVec.ofNat 32 v } }, .done)
  else if h : 0x2000 ≤ ix ∧ ix < 0x2010 then partWrite s r ⟨ix - 0x2000, by omega⟩ u v
  else if h : 0x2100 ≤ ix ∧ ix < 0x2104 then
    (if v = 1 then fenceReach (fencePort (endReached s) ⟨ix - 0x2100, by omega⟩ 1 (sunkOf sunk (0x200 + (ix - 0x2100)))) else s, .done)
  else if h : 0x3000 ≤ ix ∧ ix < 0x3040 then (engineWrite s ⟨ix - 0x3000, by omega⟩ u v sunk, .done)
  else if ix = 0x4000 then (memEntryWrite s u v, .done)
  else if h : 0x4010 ≤ ix ∧ ix < 0x4018 then (if v = 1 then fenceReach (fenceStack s ⟨ix - 0x4010, by omega⟩ 4) else s, .done)
  else if h : 0x5000 ≤ ix ∧ ix < 0x5100 then bankWrite s r ⟨ix - 0x5000, by omega⟩ u v
  else if h : 0x6100 ≤ ix ∧ ix < 0x6100 + 800 then (sourceWrite s ⟨ix - 0x6100, by omega⟩ u v, .done)
  else if ix = 0x7000 then (powerWrite s u v, .done)
  else if h : ix = 0x7200 ∧ 0x80 ≤ u ∧ u < 0xC0 then slotActiveWrite s ⟨u - 0x80, by omega⟩ v
  else if h : 0x8010 ≤ ix ∧ ix < 0x8020 then (crcFenceWrite s ⟨ix - 0x8010, by omega⟩ v, .done)
  else if ix = 0x8100 then twinWrite s u v
  else if ix = 0x9000 then (freezeSet s s.fz.holdN (v == 1), .done)
  else if ix = 0xA000 then (clockWrite s u v, .done)
  else if h : 0xF000 ≤ ix ∧ ix < 0xF080 then streamWrite s ⟨(ix - 0xF000) / 8, by omega⟩ ⟨(ix - 0xF000) % 8, by omega⟩ u v
  else (s, .done)

/-! ### Groups (R329-R331) -/

/-- The requester's claim on the group was lost, and this access hears of it (R330). -/
def claimLost (s : State) (g : Grp) (r : Requester) : Bool := s.dict.lost.contains (g, r)

/-- The notice is given once. -/
def hearLost (s : State) (g : Grp) (r : Requester) : State := { s with dict := { s.dict with lost := s.dict.lost.filter (· != (g, r)) } }

/-- A group of a fenced partition (R395). -/
def grpFenced (s : State) (g : Grp) : Bool := (List.finRange 16).any fun p => s.parts[p].fenced && grpIn s p g

/-- A staging write (R329). -/
def stageWrite (s : State) (r : Requester) (g : Grp) (sub v : Nat) : State × DRes :=
  let put (l : List (Byte × W128)) : List (Byte × W128) := l.map fun m => if m.1.toNat = sub then (m.1, BitVec.ofNat 128 v) else m
  if claimLost s g r then (hearLost s g r, .refused 0x0016)
  else if (pendingOf s g).isSome then (s, .refused 0x0011)
  else if grpFenced s g then (s, .refused 0x0008)
  else
    match s.dict.claims.find? fun c => c.grp == g with
    | none =>
      let c : Claim := { grp := g, by' := r, shadow := put (members s g), at' := timeNow s }
      ({ s with dict := { s.dict with claims := s.dict.claims ++ [c] } }, .done)
    | some c =>
      if c.by' ≠ r then (s, .refused 0x0010)
      else
        ({ s with dict := { s.dict with claims := s.dict.claims.map fun c => if c.grp = g then { c with shadow := put c.shadow, at' := timeNow s } else c } },
          .done)

/-- DISCARD (R330). -/
def discardWrite (s : State) (r : Requester) (g : Grp) (v : Nat) : State × DRes :=
  if v = 0 then (s, .done)
  else if claimLost s g r then (hearLost s g r, .refused 0x0016)
  else if (pendingOf s g).isSome then (s, .refused 0x0011)
  else if s.dict.claims.any fun c => c.grp == g && c.by' == r then
    ({ s with dict := { s.dict with claims := s.dict.claims.filter fun c => c.grp != g } }, .done)
  else (s, .refused 0x0012)

/-- The partition a group belongs to. -/
def grpPart (s : State) (g : Grp) : Option PartId := (List.finRange 16).find? fun p => grpIn s p g

/-- Commits that a requester has pending in the group's partition. -/
def pendingCount (s : State) (r : Requester) (g : Grp) : Nat :=
  match grpPart s g with
  | some p => (s.dict.pending.filter fun d => d.by' == r && grpIn s p d.grp).length
  | none => 0

/-- The design cycle at whose end a commit accepted now applies in a twin-mode partition: the one in progress, or the next (R399). -/
def commitDue (s : State) (g : Grp) : Nat :=
  match g with
  | .part p => (match s.parts[p].run with | some r => if r.draining then r.cycle + 1 else r.cycle | none => s.parts[p].designCycle + 1)
  | _ => 0

/-- An accepted commit comes to its safe point at once, or waits for it (Table 12.10). -/
def commitGo (s : State) (pd : Pending) : State :=
  match pd.grp with
  | .part p => if twinActive s p then s else settleCommit s pd
  | .mem => settleCommit s pd
  | .bank b => bankCommitDrain s b pd.set
  | _ => s

/-- COMMIT (R331, R386): a request of a host port or of the I3C target awaits the supervisor's firmware (R203). -/
def commitWrite (s : State) (r : Requester) (g : Grp) (tag : Nat) : State × DRes :=
  if s.ls.state = 2 then (s, .refused 0x0008)
  else if claimLost s g r then (hearLost s g r, .refused 0x0016)
  else if (pendingOf s g).isSome then (s, .refused 0x0011)
  else
    match s.dict.claims.find? fun c => c.grp == g && c.by' == r with
    | none => (s, .refused 0x0012)
    | some c =>
      if 32 ≤ pendingCount s r g then (s, .refused 0x0013)
      else
        let pd : Pending := { grp := g, by' := r, tag := BitVec.ofNat 32 tag, set := c.shadow, due := commitDue s g }
        let s1 := { s with
          dict := { s.dict with
            claims := s.dict.claims.filter fun c => c.grp != g
            pending := s.dict.pending ++ [pd], commits := s.dict.commits + 1
            results := updV s.dict.results r fun _ => at' 64 32 (BitVec.ofNat 32 tag).toNat ||| at' 64 24 1 }
          ls := { s.ls with dictRequest := s.ls.dictRequest || r != 5 } }
        (commitGo (forwardCommit s1 pd) pd, .done)

/-- The commit of a group is at its safe point now (Table 12.10); reef rows and the slot table reach theirs within a dispatch tick. -/
def atSafePoint (s : State) (g : Grp) : Bool :=
  match g with
  | .part p => !twinActive s p
  | .stream p k => !blockBusy s.parts[p].streams[k]
  | .bank b => s.banks[b].drain.isNone
  | .mem => true
  | .reef _ => false
  | .slots => false

/-- COMMIT_APPLY: a pending commit at its safe point (R332). -/
def commitApplyOp (s : State) (ix : W16) (sub : Byte) : State :=
  match grpOf ix sub with
  | none => s
  | some g =>
    match pendingOf s g with
    | none => s
    | some pd => if dead s || !atSafePoint s g then s else settleCommit s pd

/-- STAGE_TIMEOUT passes for a claim, frozen time excluded (R330, R416). -/
def stageExpiryOp (s : State) (ix : W16) (sub : Byte) : State :=
  match grpOf ix sub with
  | none => s
  | some g => if dead s || frozen s then s else loseClaims s fun c => c.grp == g

/-! ### A whole write -/

/-- The write of a checked value by the entry's class. -/
def entryWrite (s : State) (r : Requester) (ix sub : Nat) (cls : Class) (v : Nat) (sunk : Sunk) : State × DRes :=
  match grpOf (BitVec.ofNat 16 ix) (BitVec.ofNat 8 sub) with
  | some g =>
    if cls = .rws then stageWrite s r g sub v
    else if sub = (grpCtl g).2.2.1.toNat then commitWrite s r g v
    else discardWrite s r g v
  | none => singleWrite s r ix sub v sunk

/-- A single entry of a twin-mode partition that the primary forwards as written: its own, those of its stream entries, of its sequencers and
of its banks, but for a unit's fence and the debug address (R399); an exchange edit is forwarded with its position. -/
def forwardSingle (s : State) (ix sub v : Nat) (e : Entry) : State :=
  match (if e.cls = .rws ∨ (grpOf (BitVec.ofNat 16 ix) (BitVec.ofNat 8 sub)).isSome then none
      else if 0x2000 ≤ ix ∧ ix < 0x2010 then (if sub = 0x44 then none else indexPart s ix)
      else if 0x3000 ≤ ix ∧ ix < 0x3040 then (if 0x20 ≤ sub ∧ sub ≤ 0x22 then indexPart s ix else none)
      else if 0x5000 ≤ ix ∧ ix < 0x5100 then (if sub = 2 then indexPart s ix else none)
      else if 0xF000 ≤ ix then indexPart s ix else none) with
  | some p => if forwards s p then forward s 2 p 0 (ix * 256 + sub) [BitVec.ofNat 128 v] else s
  | none => s

/-- The value an access carries, with the low half held before it for the high half of a W128 (R314); none when the high half stands alone. -/
def accValue (half : Option (W16 × Byte × W64)) (ix sub : Nat) (e : Entry) (a : DAcc) : Option Nat :=
  if e.ty = .w128 ∧ a.bytes = 8 then
    match half with
    | some (i, u, lo) => if i.toNat = ix ∧ u.toNat = sub then some (a.val.toNat % 2 ^ 64 * 2 ^ 64 + lo.toNat) else none
    | none => none
  else some (a.val.toNat % 2 ^ (8 * a.bytes))

/-- A dictionary write: the checks of R452 in order, then the entry's own rule. -/
def dictWrite (s : State) (r : Requester) (ix sub : Nat) (a : DAcc) (sunk : Sunk) : State × DRes :=
  let half := s.dict.half[r]
  let setHalf (h : Option (W16 × Byte × W64)) : State := { s with dict := { s.dict with half := updV s.dict.half r fun _ => h } }
  let s0 := setHalf none
  match headCode s r ix sub true, entryAt s r ix sub with
  | some c, _ => (s0, .refused c)
  | none, none => (s0, .refused 0x0001)
  | none, some e =>
    if !widthOk r e.ty a.bytes a.off then (s0, .refused 0x0002)
    else if e.ty = .w128 ∧ a.bytes = 8 ∧ a.off = 0 then
      (setHalf (some (BitVec.ofNat 16 ix, BitVec.ofNat 8 sub, BitVec.ofNat 64 a.val.toNat)), .done)
    else
      match accValue half ix sub e a with
      | none => (s0, .refused 0x0002)
      | some v =>
        if v % 2 ^ (8 * e.ty.bytes) &&& e.rsv ≠ 0 then (s0, .refused 0x0006)
        else if 2 ^ (8 * e.ty.bytes) ≤ v ∨ !e.ok v then (s0, .refused 0x0005)
        else
          let y := entryWrite s0 r ix sub e.cls v sunk
          match y.2 with
          | .refused c => (y.1, .refused c)
          | k => (forwardSingle y.1 ix sub v e, k)

/-! ### Requesters and answers (R317, R318) -/

/-- The requester has a write whose completion is held, so a later access of it waits (R317). -/
def waits (s : State) (r : Requester) : Bool :=
  (r.val == 4 && s.boot.flashBusy.isSome) ||
  (s.banks.toList.any fun k => match k.drain with | some (_, .write q) => q == r | _ => false) ||
  (List.finRange 16).any fun p => s.parts[p].edits.any fun e => e.by' == some r

/-- The I3C target's stored response for the request being answered, ready or held back. -/
def i3cHold (s : State) (resp : List Byte) : State := { s with i3c := { s.i3c with busy := true, ready := false, resp := resp } }

/-- SEQ of the request being answered. -/
def i3cSeq (s : State) : Byte := s.i3c.lastSeq.getD 0

/-- The requester hears how its write ended (R318). -/
def answerWrite (s : State) (r : Requester) (ix sub : Nat) (x : DRes) : State :=
  match x with
  | .done => if r.val = 4 then i3cReady (i3cHold s (respDone (i3cSeq s) [])) else emit s (.dictDone r)
  | .held => if r.val = 4 then i3cHold s (respDone (i3cSeq s) []) else s
  | .refused c => dictRefuse s r ix sub true c

/-- A write of requester `r` to index:sub, served and answered. -/
def dictWriteOp (s : State) (r : Requester) (ix sub : Nat) (a : DAcc) (sunk : Sunk) : State :=
  let y := dictWrite s r ix sub a sunk
  answerWrite y.1 r ix sub y.2

/-! ### Reads that change state -/

/-- Die of a requester: a host port's own, Q0 for the I3C target and the supervisor (R15). -/
def reqDie (r : Requester) : Nat := if r.val < 4 then r.val else 0

/-- Tap slot of a debug read (R414). -/
def debugSlot (r : Requester) (b : BankId) : Nat := if r.val < 4 then 1 + r.val else 1 + b.val / 64

/-- The debug read of R414: one tap read of the word that the requester's DBG_ADDR names, with its flags; none while the tap arbiter is
held back. A read torn by the owner's write gives free data (log 2); frozen, the owner port is idle (R415). -/
def debugTap (s : State) (r : Requester) (b : BankId) (hit : Option SenseWrite) : Option (W128 × State) :=
  let w := s.banks[b].dbg[r].addr.toNat % 2 ^ 18
  let flags (t : State) (v : Byte) : State := modBank t b fun k => { k with dbg := updV k.dbg r fun d => { d with flags := v } }
  if unitFenced s (reqDie r) (.bank b) then some (BitVec.allOnes 128, flags s 8)
  else
    match tapGrant s b (debugSlot r b) .alone with
    | none => none
    | some s1 =>
      match (if frozen s ∨ s.banks[b].owner = 0 then none else hit) with
      | some h =>
        let d := drawWord (senseWrite s1 b (BitVec.ofNat 16 (w / 4)) h)
        some (d.1, flags (modBank d.2 b fun k => { k with torn := satInc k.torn }) 1)
      | none =>
        let y := tapWord s1 (reqDie r) b 0 (spLo + b.val * bankBytes + 16 * w)
        some (y.data, flags y.s (if y.status = 6 then 2 else if y.status = 7 then 4 else 0))

/-- The outcome of a read. -/
inductive RRes where
  | value (v : W128)
  | refused (code : Nat)
  /-- The tap arbiter grants nothing yet. -/
  | wait
deriving DecidableEq, Repr

/-- A dictionary read with the effects a read has: DBG_DATA reads the bank, and ABORT_LAST is cleared (R320, R414). -/
def dictRead (s : State) (r : Requester) (ix sub bytes off : Nat) (hit : Option SenseWrite) : State × RRes :=
  let s0 := { s with dict := { s.dict with half := updV s.dict.half r fun _ => none } }
  let cut (v : W128) : W128 := BitVec.ofNat 128 (v.toNat / 2 ^ (8 * off) % 2 ^ (8 * bytes))
  match headCode s r ix sub false, entryAt s r ix sub with
  | some c, _ => (s0, .refused c)
  | none, none => (s0, .refused 0x0001)
  | none, some e =>
    if !widthOk r e.ty bytes off then (s0, .refused 0x0002)
    else if h : (0x5000 ≤ ix ∧ ix < 0x5100) ∧ sub = 0x11 then
      match debugTap s0 r ⟨ix - 0x5000, by omega⟩ hit with
      | some y => (y.2, .value (cut y.1))
      | none => (s, .wait)
    else if h : (0x2100 ≤ ix ∧ ix < 0x2104) ∧ sub = 0x10 then
      (modPort s0 ⟨ix - 0x2100, by omega⟩ fun t => { t with abortLast := 0 }, .value (cut e.val))
    else (s0, .value (cut e.val))

/-- A read of requester `r`, served and answered; a refused read returns all ones. None while the tap arbiter grants nothing. -/
def dictReadOp (s : State) (r : Requester) (ix sub bytes off : Nat) (hit : Option SenseWrite) : Option State :=
  let y := dictRead s r ix sub bytes off hit
  match y.2 with
  | .wait => none
  | .value v => some (if r.val = 4 then i3cReady (i3cHold y.1 (respDone (i3cSeq s) (bytesOf v bytes))) else emit y.1 (.dictRead r v))
  | .refused c =>
    let t := dictRefuse y.1 r ix sub false c
    some (if r.val = 4 then t else emit t (.dictRead r (BitVec.allOnes 128)))

/-! ### Accesses in their order (R302, R317) -/

/-- A write of a host port at one of its base addresses: a stream FIFO, another dictionary entry, or the MSI-X structures (R289, R290). -/
def tlpWriteOp (s : State) (h : PortId) (a : HostAddr) (data : List Byte) : State :=
  match a with
  | .bar0 off =>
    let ix := off.toNat / 4096
    let sub := off.toNat / 16 % 256
    if hx : (0xF000 ≤ ix ∧ ix < 0xF080) ∧ sub = 0 then
      inWriteOp s h ⟨(ix - 0xF000) / 8, by omega⟩ ⟨(ix - 0xF000) % 8, by omega⟩ true (off.toNat % 16) data
    else dictWriteOp s (h.castLE (by decide)) ix sub { bytes := data.length, off := off.toNat % 16, val := wordOfBytes data } []
  | .bar2 off =>
    if hx : off.toNat < 0x80000 then
      inWriteOp s h ⟨off.toNat / 4096 / 8, by omega⟩ ⟨off.toNat / 4096 % 8, by omega⟩ false (off.toNat % 4096) data
    else bar2Write s h off.toNat data

/-- A read of a host port at one of its base addresses. -/
def tlpReadOp (s : State) (h : PortId) (a : HostAddr) (bytes : Nat) : Option State :=
  match a with
  | .bar0 off =>
    let ix := off.toNat / 4096
    let sub := off.toNat / 16 % 256
    if hx : (0xF000 ≤ ix ∧ ix < 0xF080) ∧ sub = 0 then
      some (outReadOp s h ⟨(ix - 0xF000) / 8, by omega⟩ ⟨(ix - 0xF000) % 8, by omega⟩ true (off.toNat % 16) bytes)
    else dictReadOp s (h.castLE (by decide)) ix sub bytes (off.toNat % 16) none
  | .bar2 off =>
    if hx : off.toNat < 0x80000 then
      some (outReadOp s h ⟨off.toNat / 4096 / 8, by omega⟩ ⟨off.toNat / 4096 % 8, by omega⟩ false (off.toNat % 4096) bytes)
    else some (bar2Read s h off.toNat bytes)

/-- A dictionary access of a host to a stream FIFO arrives as a packet of its port (R289). -/
def fifoSub (r : Requester) (ix sub : Nat) : Bool := decide (r.val < 4) && decide (0xF000 ≤ ix ∧ ix < 0xF080) && sub == 0

/-- BAR0 offset of index:sub with a byte offset in its slot (R312). -/
def slotAddr (ix : W16) (sub : Byte) (off : Nat) : HostAddr := .bar0 (BitVec.ofNat 28 (ix.toNat * 4096 + sub.toNat * 16 + off % 16))

/-- One access is served; none while the tap arbiter grants nothing. -/
def serve (s : State) : Access → Option State
  | .write r ix sub a sunk =>
    if h : r.val < 4 ∧ fifoSub r ix.toNat sub.toNat then
      some (tlpWriteOp s ⟨r.val, h.1⟩ (slotAddr ix sub a.off) (bytesOf a.val (min a.bytes 16)))
    else some (dictWriteOp s r ix.toNat sub.toNat a sunk)
  | .read r ix sub bytes off hit =>
    if h : r.val < 4 ∧ fifoSub r ix.toNat sub.toNat then tlpReadOp s ⟨r.val, h.1⟩ (slotAddr ix sub off) bytes
    else dictReadOp s r ix.toNat sub.toNat bytes off hit
  | .tlpWrite h a data => some (tlpWriteOp s h a data)
  | .tlpRead h a bytes => tlpReadOp s h a bytes

/-- The access goes by way of the dictionary: all but those of BAR2. -/
def viaDict : Access → Bool
  | .tlpWrite _ (.bar2 _) _ => false
  | .tlpRead _ (.bar2 _) _ => false
  | _ => true

/-- The access must wait: its requester has a held write (R317), or its port holds words whose credit it withholds (R302). -/
def blocked (s : State) (x : Access) : Bool :=
  (viaDict x && waits s x.by') || (if h : x.by'.val < 4 then !s.ports[x.by'.val].rx.isEmpty else false)

/-- An access of the same requester on the same way waits in `l`. -/
def behind (l : List Access) (x : Access) : Bool := l.any fun y => y.by' == x.by' && viaDict y == viaDict x

/-- The waiting accesses from place `i` on are served as far as they can be, each requester's in its order. -/
def serveFrom : Nat → Nat → State → State
  | 0, _, s => s
  | n + 1, i, s =>
    match s.dict.waiting[i]? with
    | none => s
    | some x =>
      if blocked s x || behind (s.dict.waiting.take i) x then serveFrom n (i + 1) s
      else
        match serve { s with dict := { s.dict with waiting := s.dict.waiting.eraseIdx i } } x with
        | some t => serveFrom n i t
        | none => serveFrom n (i + 1) s

/-- Waiting accesses that can be served now are. -/
def serveWaiting (s : State) : State := if dead s then s else serveFrom s.dict.waiting.length 0 s

/-- The access reaches the part: it runs, the port's link is up, and a halted supervisor makes none (R386). -/
def arrives (s : State) (x : Access) : Bool :=
  !dead s && (if h : x.by'.val < 4 then s.ports[x.by'.val].link == 2 else true) && (x.by' != 5 || s.ls.state != 2)

/-- The host port's function that turns the access away: its memory space is not enabled (Table 11.1). -/
def turnsAway (s : State) (x : Access) : Option PortId :=
  if h : x.by'.val < 4 then (if takesTlps s.ports[x.by'.val] then none else some ⟨x.by'.val, h⟩) else none

/-- A request that the port's function does not serve: an Unsupported Request, which answers a read (Table 11.1, log 101). -/
def turnedAway (s : State) (h : PortId) : Access → State
  | .read .. => emit (unsupported s h) (.unsupported h)
  | .tlpRead .. => emit (unsupported s h) (.unsupported h)
  | _ => unsupported s h

/-- An access arrives: those before it are served first, and it is served, or waits behind them (R317). -/
def accessOp (s : State) (x : Access) : State :=
  if !arrives s x then s
  else if let some h := turnsAway s x then turnedAway s h x
  else
    let t := serveWaiting s
    let wait : State := { t with dict := { t.dict with waiting := t.dict.waiting ++ [x] } }
    if blocked t x || behind t.dict.waiting x then wait
    else match serve t x with
      | some u => u
      | none => wait

/-- A dictionary write of requester `r` arrives. -/
def writeAccess (s : State) (r : Requester) (ix sub : Nat) (a : DAcc) (sunk : Sunk) : State :=
  accessOp s (.write r (BitVec.ofNat 16 ix) (BitVec.ofNat 8 sub) a sunk)

/-- A dictionary read of requester `r` arrives. -/
def readAccess (s : State) (r : Requester) (ix sub bytes off : Nat) (hit : Option SenseWrite) : State :=
  accessOp s (.read r (BitVec.ofNat 16 ix) (BitVec.ofNat 8 sub) bytes off hit)

end Sys2Proof.Machine
end

