-- ==== Sys2Proof/Machine/CrcCmds.lean ====
section
/-!
DEFINITION. The CRC units' own commands (R383-R385): the start word of a run, its words with its end, and the self-check.
-/

namespace Sys2Proof.Machine

/-- A master's slot at the arbiter of unit `u` (Table 9.3); a crow's nest has one only at its own die's units. -/
def crcSlot (u : CrcId) : MasterKind → Option Nat
  | .hostPath h => some h.val
  | .twin => some 4
  | .supervisor => some 5
  | .nest d => if u.val / 4 = d.val then some 6 else none
  | _ => none

/-- The unit is one of the nearest unfenced units to its master's die, by the links in service (R385, R21). -/
def crcNearest (s : State) (u : CrcId) (m : MasterKind) : Bool :=
  match dieHops s (masterDie m) (u.val / 4) with
  | none => false
  | some k => (List.finRange 16).all fun v => s.crc[v].fenced || (match dieHops s (masterDie m) (v.val / 4) with
    | some j => decide (k ≤ j)
    | none => true)

/-- A start word (R384): the unit's arbiter grants the run and its register is initialised. A fenced unit, and one out
of the master's reach, answers with the fenced status (R385, R21). -/
def crcStartOp (s : State) (u : CrcId) (master : BitVec 10) (poly : BitVec 2) (tag expected : W64) (cmp : Bool) (count : Nat) (k : Contest) :
    State :=
  let m := masterKind master.toNat
  match crcSlot u m with
  | none => s
  | some slot =>
    if dead s || frozen s then s
    else if s.crc[u].fenced || (dieHops s (masterDie m) (u.val / 4)).isNone then emit s (.bus master 0 [] 8)
    else if s.crc[u].run.isSome || !crcNearest s u m then s
    else
      match arbContest s.fab.crcArb[u] (fun _ => 0) (u.val / 4) slot k with
      | none => s
      | some a =>
        let s1 := crossWay m ((diePath s (masterDie m) (u.val / 4)).getD [])
          { s with fab := { s.fab with crcArb := updV s.fab.crcArb u fun _ => a } }
        modCrc s1 u fun c =>
          { c with master := master, reg := crcStart poly tag, run := some { poly := poly, tag := tag, expected := expected, cmp := cmp, left := count } }

/-- Detail of event 768 + u (R384). -/
def crcDetail (master : BitVec 10) (poly : BitVec 2) (tag : W64) : W32 :=
  at' 32 22 master.toNat ||| at' 32 20 poly.toNat ||| BitVec.ofNat 32 (fld tag 19 0)

/-- Words of a run arrive; after the last the final XOR is applied, the result is returned, and a compare that differs is counted and reported. -/
def crcWordsOp (s : State) (u : CrcId) (words : List W128) : State :=
  match s.crc[u].run with
  | none => s
  | some r =>
    if dead s || s.crc[u].fenced then s
    else
      let ws := words.take r.left
      let reg := (bytesOfWords ws).foldl (crcStep r.poly) s.crc[u].reg
      if ws.length < r.left then modCrc s u fun c => { c with reg := reg, run := some { r with left := r.left - ws.length } }
      else
        let v := crcFinal r.poly reg
        let bad := r.cmp && v != r.expected
        let s1 := modCrc s u fun c =>
          { c with reg := reg, run := none, master := 0x3FF, runs := c.runs + 1, last := v, mismatches := if bad then satInc c.mismatches else c.mismatches }
        let s2 := emit s1 (.crcResult s.crc[u].master v)
        if bad then raiseN s2 (768 + u.val) (crcDetail s.crc[u].master r.poly r.tag) else s2

/-- Check values of Table 15.1. -/
def crcCheckValue (p : Nat) : W64 := if p = 0 then 0x29B1 else if p = 1 then 0xCBF43926 else if p = 2 then 0xE3069283 else 0x6C40DF5F0B497347

/-- The self-check of an idle unit: a wrong value fences it with reason 2, the event naming the first POLY that failed (R385). -/
def crcCheckOp (s : State) (u : CrcId) (results : Vector W64 4) : State :=
  if dead s || s.crc[u].fenced || s.crc[u].run.isSome then s
  else
    match (List.finRange 4).find? fun i => results[i] != crcCheckValue i.val with
    | some i => fenceReach (fenceCrc s u 2 (i.val * 2 ^ 20))
    | none => s

/-- CRC_START of `count` + 1 words, 1 to 2^32 (R384). -/
def execCrcStart (u : CrcId) (master : BitVec 10) (poly : BitVec 2) (tag expected : W64) (cmp : Bool) (count : BitVec 32) (rivals : Contest)
    (s : State) : Host.Outcome State Fault Refusal :=
  .next (crcStartOp s u master poly tag expected cmp (count.toNat + 1) rivals)
/-- CRC_RUN_END (R384). -/
def execCrcRunEnd (u : CrcId) (words : List W128) (s : State) : Host.Outcome State Fault Refusal := .next (crcWordsOp s u words)
/-- CRC_SELF_CHECK (R385). -/
def execCrcSelfCheck (u : CrcId) (results : Vector W64 4) (s : State) : Host.Outcome State Fault Refusal := .next (crcCheckOp s u results)

end Sys2Proof.Machine
end

