-- ==== Sys2Proof/Machine/DictCmds.lean ====
section
/-!
DEFINITION. The commands that are dictionary accesses: each is the write or read of the entry its row names, with the checks of R452; and the
safe point of a commit, the end of a bank's drain and the expiry of a claim.
-/

namespace Sys2Proof.Machine

/-- Index 0x2000 + p. -/
def ixPart (p : PartId) : Nat := 0x2000 + p.val
/-- Index 0xF000 + 8p + k. -/
def ixStream (p : PartId) (k : Fin 8) : Nat := 0xF000 + 8 * p.val + k.val

/-- SOFT_RESET (0xA000:05): the reset follows the reading of the answer (R419). -/
def execSoftReset (r : Requester) (a : SoftReset) (s : State) : Host.Outcome State Fault Refusal :=
  .next (writeAccess { s with boot := { s.boot with bootPins := a.pins } } r 0xA000 0x05 a.acc [])
/-- IN_STREAM_WRITE (R289, R290, R296): a write packet of a host port; one that no link carries has no effect. -/
def execInStreamWrite (h : PortId) (page : BitVec 16) (slot : BitVec 8) (bar0 : Bool) (low : BitVec 4) (bytes : Nat) (data : List Byte) (s : State) :
    Host.Outcome State Fault Refusal :=
  .next (if bytes = data.length ∧ packetWf Config.maxPayload page slot bar0 low bytes then accessOp s (.tlpWrite h (hostAddr page slot bar0 low) data) else s)
/-- OUT_STREAM_READ (R289, R290, R303): a read packet of a host port; one that no link carries has no effect. -/
def execOutStreamRead (h : PortId) (page : BitVec 16) (slot : BitVec 8) (bar0 : Bool) (low : BitVec 4) (bytes : Nat) (s : State) :
    Host.Outcome State Fault Refusal :=
  .next (if packetWf Config.maxRead page slot bar0 low bytes then accessOp s (.tlpRead h (hostAddr page slot bar0 low) bytes) else s)
/-- INT_ARM (0x2000+p:54, R294). -/
def execIntArm (r : Requester) (p : PartId) (a : DAcc) (s : State) : Host.Outcome State Fault Refusal := .next (writeAccess s r (ixPart p) 0x54 a [])
/-- RESYNC (0xF000+8p+k:08, R301). -/
def execResync (r : Requester) (p : PartId) (k : Fin 8) (a : DAcc) (s : State) : Host.Outcome State Fault Refusal :=
  .next (writeAccess s r (ixStream p k) 0x08 a [])
/-- REPLAY_SEQ (0xF000+8p+k:09, R299). -/
def execReplaySeq (r : Requester) (p : PartId) (k : Fin 8) (a : DAcc) (s : State) : Host.Outcome State Fault Refusal :=
  .next (writeAccess s r (ixStream p k) 0x09 a [])
/-- LOAD_RESET (0x2000+p:22, R27). -/
def execLoadReset (r : Requester) (p : PartId) (a : DAcc) (s : State) : Host.Outcome State Fault Refusal := .next (writeAccess s r (ixPart p) 0x22 a [])
/-- DOORBELL (0x3000+n:22, R201). -/
def execDoorbell (r : Requester) (n : VeId) (a : DAcc) (s : State) : Host.Outcome State Fault Refusal := .next (writeAccess s r (0x3000 + n.val) 0x22 a [])
/-- OWNER (0x5000+b:02, R233). -/
def execOwner (r : Requester) (b : BankId) (a : DAcc) (s : State) : Host.Outcome State Fault Refusal := .next (writeAccess s r (0x5000 + b.val) 0x02 a [])
/-- BANK_DRAIN_END (R234): the accesses that waited behind its request go on (R317). -/
def execBankDrainEnd (b : BankId) (s : State) : Host.Outcome State Fault Refusal := .next (if dead s then s else serveWaiting (drainEnds s b))
/-- STACK_FENCE (0x4010+s:08, R239). -/
def execStackFence (r : Requester) (st : StackId) (a : DAcc) (s : State) : Host.Outcome State Fault Refusal := .next (writeAccess s r (0x4010 + st.val) 0x08 a [])
/-- BANK_FENCE (0x5000+b:09, R239). -/
def execBankFence (r : Requester) (b : BankId) (a : DAcc) (s : State) : Host.Outcome State Fault Refusal := .next (writeAccess s r (0x5000 + b.val) 0x09 a [])
/-- LINK_FENCE (0xA000:46, R260). -/
def execLinkFence (r : Requester) (a : DAcc) (s : State) : Host.Outcome State Fault Refusal := .next (writeAccess s r 0xA000 0x46 a [])
/-- EXCH_EDIT_SLOT (0x2000+p:41, R281). -/
def execExchEditSlot (r : Requester) (p : PartId) (a : DAcc) (s : State) : Host.Outcome State Fault Refusal := .next (writeAccess s r (ixPart p) 0x41 a [])
/-- EXCH_EDIT_GO (0x2000+p:44, R281). -/
def execExchEditGo (r : Requester) (p : PartId) (a : DAcc) (s : State) : Host.Outcome State Fault Refusal := .next (writeAccess s r (ixPart p) 0x44 a [])
/-- STAGING_WRITE (R329). -/
def execStagingWrite (r : Requester) (ix : W16) (sub : Byte) (a : DAcc) (s : State) : Host.Outcome State Fault Refusal :=
  .next (writeAccess s r ix.toNat sub.toNat a [])
/-- COMMIT (R331): a write of the group's COMMIT entry. -/
def execCommit (r : Requester) (ix : W16) (sub : Byte) (a : DAcc) (s : State) : Host.Outcome State Fault Refusal :=
  .next (writeAccess s r ix.toNat sub.toNat a [])
/-- DISCARD (R330): a write of the group's DISCARD entry. -/
def execDiscard (r : Requester) (ix : W16) (sub : Byte) (a : DAcc) (s : State) : Host.Outcome State Fault Refusal :=
  .next (writeAccess s r ix.toNat sub.toNat a [])
/-- COMMIT_APPLY (R332): the group of this entry is at its safe point. -/
def execCommitApply (ix : W16) (sub : Byte) (s : State) : Host.Outcome State Fault Refusal := .next (commitApplyOp s ix sub)
/-- STAGE_TIMEOUT_EXPIRY (R330). -/
def execStageTimeoutExpiry (ix : W16) (sub : Byte) (s : State) : Host.Outcome State Fault Refusal := .next (stageExpiryOp s ix sub)
/-- ABORT_LAST (0x2100+h:10, R320): read by its own host. -/
def execAbortLast (h : PortId) (bytes off : Nat) (s : State) : Host.Outcome State Fault Refusal :=
  .next (readAccess s (h.castLE (by decide)) (0x2100 + h.val) 0x10 bytes off none)
/-- REGISTER_WRITE (R322): any write of the dictionary. -/
def execRegisterWrite (r : Requester) (ix : W16) (sub : Byte) (a : DAcc) (s : State) : Host.Outcome State Fault Refusal :=
  .next (writeAccess s r ix.toNat sub.toNat a [])
/-- ALERT_CLEAR (0x10F0:02, R327). -/
def execAlertClear (r : Requester) (a : DAcc) (s : State) : Host.Outcome State Fault Refusal := .next (writeAccess s r 0x10F0 0x02 a [])
/-- TARGET (0x6100+x:01, R351). -/
def execTarget (r : Requester) (x : SrcId) (a : DAcc) (s : State) : Host.Outcome State Fault Refusal := .next (writeAccess s r (0x6100 + x.val) 0x01 a [])
/-- ARRIVALS_CLR (0x6100+x:07, R357). -/
def execArrivalsClr (r : Requester) (x : SrcId) (a : DAcc) (s : State) : Host.Outcome State Fault Refusal := .next (writeAccess s r (0x6100 + x.val) 0x07 a [])
/-- SLOT_ACTIVE (0x7200:80+i, R373). -/
def execSlotActive (r : Requester) (i : Fin 64) (a : DAcc) (s : State) : Host.Outcome State Fault Refusal := .next (writeAccess s r 0x7200 (0x80 + i.val) a [])
/-- CRC_FENCE (0x8010+u:06, R385). -/
def execCrcFence (r : Requester) (u : CrcId) (a : DAcc) (s : State) : Host.Outcome State Fault Refusal := .next (writeAccess s r (0x8010 + u.val) 0x06 a [])
/-- VE_FENCE (0x3000+n:60, R393). -/
def execVeFence (r : Requester) (n : VeId) (a : DAcc) (sunk : Sunk) (s : State) : Host.Outcome State Fault Refusal :=
  .next (writeAccess s r (0x3000 + n.val) 0x60 a sunk)
/-- PORT_FENCE (0x2100+h:05, R309). -/
def execPortFence (r : Requester) (h : PortId) (a : DAcc) (sunk : Fin 33) (s : State) : Host.Outcome State Fault Refusal :=
  .next (writeAccess s r (0x2100 + h.val) 0x05 a [(BitVec.ofNat 10 (0x200 + h.val), sunk)])
/-- PART_FENCE (0x2000+p:73, R395). -/
def execPartFence (r : Requester) (p : PartId) (a : DAcc) (s : State) : Host.Outcome State Fault Refusal := .next (writeAccess s r (ixPart p) 0x73 a [])
/-- TWIN_PAIR (0x8100:03, R406). -/
def execTwinPair (r : Requester) (a : DAcc) (s : State) : Host.Outcome State Fault Refusal := .next (writeAccess s r 0x8100 0x03 a [])
/-- TWIN_DETACH (0x8100:04, R406). -/
def execTwinDetach (r : Requester) (a : DAcc) (s : State) : Host.Outcome State Fault Refusal := .next (writeAccess s r 0x8100 0x04 a [])
/-- TWIN_PROMOTE (0x8100:05, R405). -/
def execTwinPromote (r : Requester) (a : DAcc) (s : State) : Host.Outcome State Fault Refusal := .next (writeAccess s r 0x8100 0x05 a [])
/-- DEBUG_READ: a read of DBG_DATA (0x5000+b:11, R414). -/
def execDebugRead (r : Requester) (b : BankId) (bytes off : Nat) (hit : Option SenseWrite) (s : State) : Host.Outcome State Fault Refusal :=
  .next (readAccess s r (0x5000 + b.val) 0x11 bytes off hit)

/-! ### The debug freeze (R415, R416) -/

/-- DBG_FREEZE (0x9000:03, R415). -/
def execDbgFreeze (r : Requester) (a : DAcc) (s : State) : Host.Outcome State Fault Refusal := .next (writeAccess s r 0x9000 0x03 a [])
/-- HOLD_N_ASSERT: the pin goes low (R415); before the dictionary opens only the level is kept. -/
def execHoldNAssert (s : State) : Host.Outcome State Fault Refusal := .next (freezeSet s true s.fz.dbg)
/-- HOLD_N_DEASSERT: the pin goes high (R416). -/
def execHoldNDeassert (s : State) : Host.Outcome State Fault Refusal := .next (freezeSet s false s.fz.dbg)

/-- Every cluster clock has paused and every arbiter is frozen (R415, Table 16.6). -/
def freezeEnteredOp (s : State) : State :=
  if dead s || s.fz.state != 1 then s
  else
    (List.finRange 4).foldl (fun (t : State) (d : Fin 4) => raiseN t (740 + 8 * d.val) (BitVec.ofNat 32 (freezeSrc s)))
      { s with fz := { s.fz with state := 2, startAt := timeNow s } }

/-- FREEZE_ENTERED (R415). -/
def execFreezeEntered (s : State) : Host.Outcome State Fault Refusal := .next (freezeEnteredOp s)

end Sys2Proof.Machine
end

