-- ==== Sys2Proof/Machine/EventCmds.lean ====
section
/-!
DEFINITION. The commands of the event controller that are no dictionary writes (spec/13): an arrival, its service, and the reads that take a
record.
-/

namespace Sys2Proof.Machine

/-- Sources that a chapter names as reserved and never raised (R264, R284, R341, R417, R431, Tables 14.9 and 15.8). -/
def reservedSource (x : Nat) : Bool :=
  decide (697 ≤ x ∧ x ≤ 703) || decide (713 ≤ x ∧ x ≤ 719) || decide (732 ≤ x ∧ x ≤ 735) ||
  (decide (736 ≤ x ∧ x < 768) && decide (6 ≤ x % 8)) || decide (788 ≤ x ∧ x ≤ 791) || decide (795 ≤ x)

/-- The source can raise an event now: it is not reserved, and no VE of a sleeping cluster raises one (R341, R354). -/
def canRaise (s : State) (x : SrcId) : Bool :=
  !dead s && !reservedSource x.val &&
  (if h : x.val < 512 then !s.clusters[(⟨x.val / 64, by omega⟩ : ClusterId)].asleep else true)

/-- The controller serves the forwarded latch of source `x` (R344). -/
def serveOp (s : State) (x : SrcId) : State :=
  if canServe s x then
    match s.ev.latches.find? fun l => l.src == x with
    | some l => serveLatch s l
    | none => s
  else s

/-- EVENT_RAISE: an arrival of source `x` (R344). -/
def execEventRaise (x : SrcId) (detail : W32) (s : State) : Host.Outcome State Fault Refusal :=
  .next (if canRaise s x then raise s x detail else s)
/-- EVENT_SERVE (R344), behind the upsets of the event store (R356, log 16). -/
def execEventServe (x : Served) (s : State) : Host.Outcome State Fault Refusal := .next (serveOp (storeUpsets s x.upsets) x.src)
/-- Core `c` takes the head of ring `r` (R347, R356). -/
def popOp (s : State) (c : CoreId) (r : RingId) : State :=
  if !canRun s c then s
  else
    let t := ringTake s r
    emit t.2 (.block c t.1)

/-- SV_POP: a 128-bit supervisor read takes the head of its ring (R347). -/
def execSvPop (s : State) : Host.Outcome State Fault Refusal := .next (popOp s .sv .sv)
/-- EV_POP: a 128-bit register-block read takes the head of sequencer `n`'s ring (R347, R349). -/
def execEvPop (n : VeId) (s : State) : Host.Outcome State Fault Refusal := .next (popOp s (.ve n) (.seq n))

end Sys2Proof.Machine
end

