-- ==== Sys2Proof/Machine/FabricCmds.lean ====
section
/-!
DEFINITION. The wait-for watchdog and the deadlock breaker (R257-R259), and the supervisor's write of REMAP (R249).
-/

namespace Sys2Proof.Machine

/-- VE `n` has a slot of its partition's phase that could start but for a receive port that another VE's grant holds: the holders. -/
def portHolders (s : State) (p : PartId) (r : Run) (n : VeId) : List (Nat × VeId) :=
  (List.range (actSlots s.parts[p]).length).filterMap fun i =>
    match (actSlots s.parts[p])[i]? with
    | some x =>
      if boundVe s.parts[p] x.src = some n ∧ slotEligible s p r i then
        let port := slotPort s p x
        match r.grants.find? fun g => g.2.1 == port with
        | some g =>
          match ((actSlots s.parts[p])[g.1]?).bind fun y => boundVe s.parts[p] y.src with
          | some h => if h = n then none else some (port, h)
          | none => none
        | none => none
      else none
    | none => none

/-- A run of `words` words from a scratchpad offset of partition `p` meets bank `b`. -/
def meetsBank (s : State) (p : PartId) (b : BankId) (space : Bool) (off words : Nat) : Bool :=
  space && (match (partBanks s p).idxOf? b with
    | some j => decide (off < (j + 1) * bankBytes ∧ j * bankBytes < off + 16 * words)
    | none => false)

/-- A granted slot that VE `n` sends meets bank `b`, which is handed over to its sender or to its receiver (R257). -/
def slotWaits (s : State) (n : VeId) (b : BankId) (new : Nat) : Bool :=
  match execPart s n with
  | some p =>
    match s.parts[p].run with
    | some r => r.grants.any fun g =>
        match (actSlots s.parts[p])[g.1]? with
        | some x => boundVe s.parts[p] x.src == some n &&
            ((new == veCode s n && meetsBank s p b x.srcSpace (slotOff s p x.srcRel x.srcOff) x.words) ||
             (match boundVe s.parts[p] x.dst with
              | some m => new == veCode s m && meetsBank s p b x.dstSpace (slotOff s p x.dstRel x.dstOff) x.words
              | none => false))
        | none => false
    | none => false
  | none => false

/-- The VE that an owner code names (R233). -/
def codeVe (c : Nat) : Option VeId := if h : 0x40 ≤ c ∧ c < 0x80 then some ⟨c - 0x40, by omega⟩ else none

/-- The agent with owner code `c`, a VE, a host stream path or a crow's nest (R233), waits for admission to bank `b` in handover: a fragment of
its masters is held there, another access of theirs waits there, or a transfer for which it holds a receive port meets the bank (R257). -/
def waitsBank (s : State) (c : Nat) (b : BankId) : Bool :=
  match s.banks[b].drain with
  | some (new, _) =>
    (new.toNat == c && (s.banks[b].held.map (·.frag.master) ++ s.banks[b].waiters).any fun m => masterCode s b (masterKind m.toNat) == c) ||
    (match codeVe c with
     | some n => slotWaits s n b new.toNat
     | none => false)
  | none => false

/-- The agents that agent `c` waits for: the old owner of a bank in handover whose drain it waits on, and the holder of a receive port it wants
(R257). -/
def waitsFor (s : State) (c : Nat) : List Nat :=
  let banks := (List.finRange 256).filterMap fun b => if waitsBank s c b then some s.banks[b].owner.toNat else none
  let ports := match codeVe c with
    | some n => (match execPart s n with
      | some p => (match s.parts[p].run with | some r => (portHolders s p r n).map fun x => 0x40 + x.2.val | none => [])
      | none => [])
    | none => []
  banks ++ ports

/-- A chain of waits from `at0` back to `goal`, as the agents on it. -/
def waitPath (s : State) (goal : Nat) : Nat → Nat → Option (List Nat)
  | 0, _ => none
  | fuel + 1, at0 =>
    if at0 = goal then some [goal]
    else ((waitsFor s at0).findSome? fun m => waitPath s goal fuel m).map (at0 :: ·)

/-- The first agent that a wait waits for, beside the waiter: the bank's old owner, or the port's holder. A timer does not run while the arbiter
that it waits at is frozen (R258). -/
def waitStart (s : State) : WaitOn → Option (Nat × List Nat)
  | .bank m b =>
    let c := masterCode s b (masterKind m.toNat)
    if waitsBank s c b then some (c, [s.banks[b].owner.toNat]) else none
  | .rxPort n q =>
    if s.fab.rxArb[q].frozen then none
    else
      match execPart s n with
      | some p =>
        match s.parts[p].run with
        | some r =>
          match (portHolders s p r n).find? fun x => x.1 == q.val with
          | some x => some (0x40 + n.val, [0x40 + x.2.val])
          | none => none
        | none => none
      | none => none

/-- Detail fields of events 784 and 785 (Table 9.5). -/
def waitDetail : WaitOn → W32
  | .bank m b => at' 32 16 m.toNat ||| at' 32 12 1 ||| BitVec.ofNat 32 b.val
  | .rxPort n q => at' 32 16 (8 * n.val + 6) ||| at' 32 12 2 ||| BitVec.ofNat 32 q.val

/-- The most recent rigging grant held by an agent of a circle: partition, slot, its order and the holder. -/
def latestGrant (s : State) (circle : List Nat) : Option (PartId × Nat × Nat × VeId) :=
  let all := (List.finRange 16).flatMap fun p =>
    match s.parts[p].run with
    | some r => r.grants.filterMap fun g =>
        match ((actSlots s.parts[p])[g.1]?).bind fun x => boundVe s.parts[p] x.src with
        | some h => if circle.contains (0x40 + h.val) then some (p, g.1, g.2.2, h) else none
        | none => none
    | none => []
  all.foldl (fun best x =>
    match best with
    | none => some x
    | some y => if y.2.2.1 < x.2.2.1 then some x else some y) none

/-- The breaker revokes a grant: the transfer starts again later, the holder's chain group restarts and its held fragments are withdrawn (R259, R261). -/
def revokeGrant (s : State) (p : PartId) (slot : Nat) (n : VeId) (sunk : Sunk) : State :=
  let s1 := modPart s p fun q => { q with run := q.run.map fun r =>
    { r with slots := r.slots.filter fun y => y.1 != slot, grants := r.grants.filter fun g => g.1 != slot } }
  let s2 := modEng s1 n fun e =>
    { e with wdAborts := satInc e.wdAborts, queue := e.queue.map fun g => { g with started := false } }
  sinkVe (withdraw s2 (veMasters n 7)) n 7 sunk

/-- A timer of the wait-for watchdog passes WD_TIMEOUT (R258, R259): a circle is broken, any other wait reported. -/
def watchdogOp (s : State) (w : WaitOn) (sunk : Sunk) : State :=
  if dead s || frozen s then s
  else
    match waitStart s w with
    | none => s
    | some (n, firsts) =>
      match firsts.findSome? fun m => waitPath s n 96 m with
      | none => raiseN s 785 (waitDetail w)
      | some circle =>
        match latestGrant s circle with
        | none => raiseN s 785 (waitDetail w)
        | some (p, slot, _, h) =>
          let s1 := revokeGrant s p slot h sunk
          raiseN { s1 with fab := { s1.fab with wdBreaks := satInc s1.fab.wdBreaks } } 784 (at' 32 26 h.val ||| waitDetail w)

/-- WATCHDOG_EXPIRY (R258). -/
def execWatchdogExpiry (w : WaitOn) (sunk : Sunk) (s : State) : Host.Outcome State Fault Refusal := .next (watchdogOp s w sunk)

/-- REMAP: the supervisor's write of 1 takes effect at its next `SYNC.I`; a write of 0 is ignored (R249). -/
def execRemap (v : W64) (s : State) : Host.Outcome State Fault Refusal :=
  .next (if !canRun s .sv then s
    else if bit v 0 && !s.fab.remap then { s with fab := { s.fab with remapDue := true } } else s)

end Sys2Proof.Machine
end

