-- ==== Sys2Proof/Machine/I3cCmds.lean ====
section
/-!
DEFINITION. The management port (R334-R339): common command codes (Table 12.12), request frames (Tables 12.13 and 17.4), private reads and the
pending in-band interrupts.
-/

namespace Sys2Proof.Machine

/-! ### Frames -/

/-- A frame with its CRC-16, high byte first (R337). -/
def withCrc (b : List Byte) : List Byte := b ++ [byteOf (crc16 b) 1, byteOf (crc16 b) 0]

/-- The CRC of a request is right (R337). -/
def frameOk (b : List Byte) : Bool := decide (2 ≤ b.length) && withCrc (b.take (b.length - 2)) == b

/-- The target takes a private transfer: it has a dynamic address and, in HDR-DDR, has been brought there and the command code is `code`, 0x10
for a request and 0x90 for a response (R336, Table 12.12). -/
def takesTransfer (s : State) (code : Byte) (hdr : Option Byte) : Bool :=
  s.i3c.dyn.isSome && (match hdr with | none => true | some c => s.i3c.ddr && c == code)

/-- The bus leaves HDR-DDR after a transfer. -/
def leaveDdr (s : State) : State := { s with i3c := { s.i3c with ddr := false } }

/-- The answer to a request that is not executed: STATUS, SEQ and no data (Table 12.13). -/
def notExecuted (s : State) (status seq : Byte) : State :=
  i3cReady { s with i3c := { s.i3c with busy := true, ready := false, alt := some [status, seq, 0] } }

/-- The request is executed: its SEQ is the last executed one. -/
def executing (s : State) (seq : Byte) : State := { s with i3c := { s.i3c with lastSeq := some seq, alt := none } }

/-- An executed request ends with a response. -/
def respond (s : State) (resp : List Byte) : State := i3cReady (i3cHold s resp)

/-- Data bytes of a value of an entry: its own width, 16 for STR and W128. -/
def entryBytes (s : State) (ix sub : Nat) : Option Nat := (entryAt s 4 ix sub).map fun e => e.ty.bytes

/-- OP 0x01: a dictionary read (R336). -/
def i3cRead (s : State) (seq : Byte) (b : List Byte) : State :=
  if b.length ≠ 8 ∨ le b 5 1 ≠ 0 then notExecuted s 0x04 seq
  else
    let ix := le b 2 2
    let sub := le b 4 1
    readAccess (i3cHold (executing s seq) []) 4 ix sub ((entryBytes s ix sub).getD 1) 0 none

/-- OP 0x02: a dictionary write of the entry's width (R336). -/
def i3cWrite (s : State) (seq : Byte) (b : List Byte) : State :=
  let n := le b 5 1
  let ix := le b 2 2
  let sub := le b 4 1
  if n < 1 ∨ 16 < n ∨ b.length ≠ 8 + n then notExecuted s 0x04 seq
  else if (match entryBytes s ix sub with | some w => n != w | none => false) then notExecuted s 0x04 seq
  else
    writeAccess (i3cHold (executing s seq) []) 4 ix sub { bytes := n, off := 0, val := BitVec.ofNat 128 (le b 6 n) } []

/-- The outcome of a recovery request becomes its response. -/
def recAnswer (s : State) (seq : Byte) : Except Nat State → State
  | .ok t => respond (executing t seq) (respDone seq [])
  | .error c => dictRefuse (executing s seq) 4 0 0 true c

/-- OP 0x40: START (Table 17.4). -/
def i3cStart (s : State) (seq : Byte) (b : List Byte) : State :=
  if b.length ≠ 9 then notExecuted s 0x04 seq else recAnswer s seq (recStart s (le b 2 1) (le b 3 4))

/-- OP 0x41: DATA. -/
def i3cData (s : State) (seq : Byte) (b : List Byte) : State :=
  let n := le b 6 1
  if n < 1 ∨ 240 < n ∨ b.length ≠ 9 + n then notExecuted s 0x04 seq else recAnswer s seq (recData s (le b 2 4) ((b.drop 7).take n))

/-- OP 0x42: FINISH; for a flash slot the answer waits for the write (R426). -/
def i3cFinish (s : State) (seq : Byte) (b : List Byte) : State :=
  if b.length ≠ 4 then notExecuted s 0x04 seq
  else
    match recFinish s with
    | .ok (t, true) => i3cHold (executing t seq) (respDone seq [])
    | .ok (t, false) => respond (executing t seq) (respDone seq [])
    | .error (c, t) => dictRefuse (executing t seq) 4 0 0 true c

/-- OP 0x43: QUERY. -/
def i3cQuery (s : State) (seq : Byte) (b : List Byte) : State :=
  if b.length ≠ 4 then notExecuted s 0x04 seq else respond (executing s seq) (respDone seq (recQuery s))

/-- The operation of a request frame whose CRC is right; any other OP is malformed (Table 12.13, R426). -/
def i3cOperate (s : State) (seq : Byte) (b : List Byte) : State :=
  let op := le b 0 1
  if op = 0x01 then i3cRead s seq b
  else if op = 0x02 then i3cWrite s seq b
  else if op = 0x40 then i3cStart s seq b
  else if op = 0x41 then i3cData s seq b
  else if op = 0x42 then i3cFinish s seq b
  else if op = 0x43 then i3cQuery s seq b
  else notExecuted s 0x04 seq

/-- An access of the target is still to end: its response is not ready (R338). -/
def i3cAwaits (s : State) : Bool := waits s 4 || s.dict.waiting.any (·.by' == 4)

/-- A request frame arrives: bytes past the maximum write length are not taken, a wrong CRC is answered with STATUS 0x03, the SEQ of the last
executed request brings its stored response again, and any other is executed, its response replacing one not yet read (R337, R338). -/
def i3cRequest (s : State) (hdr : Option Byte) (frame : List Byte) : State :=
  if dead s then s
  else if !takesTransfer s 0x10 hdr then emit s .i3cNack
  else
    let b := frame.take s.i3c.mwl.toNat
    let seq := nth b 1 0
    let s1 := leaveDdr s
    if !frameOk b then notExecuted s1 0x03 seq
    else if b.length < 4 then notExecuted s1 0x04 seq
    else if s.i3c.lastSeq = some seq then
      let again : State := { s1 with i3c := { s1.i3c with busy := true, ready := false, alt := none } }
      if i3cAwaits s then again else i3cReady again
    else i3cOperate s1 seq b

/-- A private read: the response, or the busy reply until it is ready (R338); nothing has been asked: NACK. A reset that waited for the answer of
SOFT_RESET follows it (R419). -/
def i3cReadOp (s : State) (hdr : Option Byte) : State :=
  if dead s then s
  else if !takesTransfer s 0x90 hdr then emit s .i3cNack
  else
    let s1 := leaveDdr s
    if s.i3c.busy then emit s1 (.i3c (withCrc [0x02, i3cSeq s]))
    else if s.i3c.ready then
      softResetGo (emit { s1 with i3c := { s1.i3c with unread := false, ibiResp := false } } (.i3c (withCrc (s.i3c.alt.getD s.i3c.resp))))
    else emit s1 .i3cNack

/-! ### In-band interrupts -/

/-- Interrupts that are pending are raised when they can be: 0x02 before 0x01, and 0x03 in recovery mode (R338, R339, R426). -/
def flushIbi (s : State) : State :=
  if !ibiCan s then s
  else
    let s1 := if s.i3c.ibiAlert then emit { s with i3c := { s.i3c with ibiAlert := false } } (.ibi ((0x02 : Byte) :: bytesOf s.dict.alertCause 4)) else s
    let s2 := if s1.i3c.ibiResp then emit { s1 with i3c := { s1.i3c with ibiResp := false } } (.ibi [0x01]) else s1
    if s2.i3c.ibiRecovery && s2.boot.state == 7 then emit { s2 with i3c := { s2.i3c with ibiRecovery := false } } (.ibi [0x03]) else s2

/-! ### Common command codes -/

/-- The command is for this target: broadcast, or sent to its dynamic address. -/
def forMe (s : State) (dst : Option (BitVec 7)) : Bool :=
  !dead s && (match dst with | none => true | some a => s.i3c.dyn == some a)

/-- ENEC: interrupts are enabled; in recovery mode 0x03 is raised again (R335, R426). -/
def enecOp (s : State) (dst : Option (BitVec 7)) : State :=
  if !forMe s dst then s
  else flushIbi { s with i3c := { s.i3c with ibiOn := true, ibiRecovery := s.i3c.ibiRecovery || s.boot.state == 7 } }

/-- DISEC: interrupts are disabled, and causes stay pending (R335). -/
def disecOp (s : State) (dst : Option (BitVec 7)) : State :=
  if !forMe s dst then s else { s with i3c := { s.i3c with ibiOn := false } }

/-- A dynamic address is taken. -/
def setDyn (s : State) (dyn : BitVec 7) : State := flushIbi { s with i3c := { s.i3c with dyn := some dyn } }

/-- SETMWL, SETMRL: 26 to 256 bytes, other values NACKed (Table 12.12). -/
def setLimit (s : State) (dst : Option (BitVec 7)) (v : W16) (f : I3c → I3c) : State :=
  if !forMe s dst then s
  else if 26 ≤ v.toNat ∧ v.toNat ≤ 256 then { s with i3c := f s.i3c } else emit s .i3cNack

/-- RSTACT: action 0x00 resets the target's frame state; others are NACKed (Table 12.12). -/
def rstactOp (s : State) (dst : Option (BitVec 7)) (action : Byte) : State :=
  if !forMe s dst then s
  else if action ≠ 0 then emit s .i3cNack
  else
    { s with i3c := { s.i3c with ddr := false, lastSeq := none, resp := [], alt := none, ready := false, unread := false, ibiResp := false, busy := false } }

/-- Direct codes of Table 12.12. -/
def directCodes : List Byte :=
  [0x80, 0x81, 0x82, 0x83, 0x84, 0x85, 0x87, 0x88, 0x89, 0x8A, 0x8B, 0x8C, 0x8D, 0x8E, 0x8F, 0x90, 0x94, 0x9A]

/-- A code without effect: ENTAS0-3 are accepted and a broadcast code that Table 12.12 does not list is ignored; a direct one that it does not list
is NACKed (R335, log 92). -/
def entasOp (s : State) (code : Byte) (dst : Option (BitVec 7)) : State :=
  if dst.isNone || directCodes.contains code || !forMe s dst then s else emit s .i3cNack

/-- The answer to a direct GET command. -/
def ccGet (s : State) (dst : BitVec 7) (data : List Byte) : State := if forMe s (some dst) then emit s (.i3c data) else s

/-- The provisional ID (R334), most significant byte first. -/
def pidBytes : List Byte :=
  let c := crc32c ((bytesOf Config.serial 16).take 12)
  let v := 0x0A7D * 2 ^ 33 + 2 ^ 32 + c.toNat
  (bytesOf (BitVec.ofNat 48 v) 6).reverse

/-- Pending in-band interrupts (GETSTATUS). -/
def ibiCount (s : State) : Nat := s.i3c.ibiResp.toNat + s.i3c.ibiAlert.toNat

/-! ### Commands -/

/-- I3C_READ_REQUEST (R336): a request frame; every row takes the frame by its own OP, and an OP that names no request is malformed. -/
def execI3cReadRequest (hdr : Option Byte) (frame : List Byte) (s : State) : Host.Outcome State Fault Refusal := .next (i3cRequest s hdr frame)
/-- I3C_WRITE_REQUEST (R336). -/
def execI3cWriteRequest (hdr : Option Byte) (frame : List Byte) (s : State) : Host.Outcome State Fault Refusal := .next (i3cRequest s hdr frame)
/-- RECOVERY_START (R426). -/
def execRecoveryStart (hdr : Option Byte) (frame : List Byte) (s : State) : Host.Outcome State Fault Refusal := .next (i3cRequest s hdr frame)
/-- RECOVERY_DATA (R426). -/
def execRecoveryData (hdr : Option Byte) (frame : List Byte) (s : State) : Host.Outcome State Fault Refusal := .next (i3cRequest s hdr frame)
/-- RECOVERY_FINISH (R426). -/
def execRecoveryFinish (hdr : Option Byte) (frame : List Byte) (s : State) : Host.Outcome State Fault Refusal := .next (i3cRequest s hdr frame)
/-- RECOVERY_QUERY (R426). -/
def execRecoveryQuery (hdr : Option Byte) (frame : List Byte) (s : State) : Host.Outcome State Fault Refusal := .next (i3cRequest s hdr frame)
/-- I3C_PRIVATE_READ (R338). -/
def execI3cPrivateRead (hdr : Option Byte) (s : State) : Host.Outcome State Fault Refusal := .next (i3cReadOp s hdr)
/-- ENEC (R335). -/
def execEnec (dst : Option (BitVec 7)) (s : State) : Host.Outcome State Fault Refusal := .next (enecOp s dst)
/-- DISEC (R335). -/
def execDisec (dst : Option (BitVec 7)) (s : State) : Host.Outcome State Fault Refusal := .next (disecOp s dst)
/-- ENTAS0-3 (R335), and codes that no row of Table 12.12 lists. -/
def execEntas (code : Byte) (dst : Option (BitVec 7)) (s : State) : Host.Outcome State Fault Refusal := .next (entasOp s code dst)
/-- RSTDAA (R335). -/
def execRstdaa (s : State) : Host.Outcome State Fault Refusal := .next (if dead s then s else { s with i3c := { s.i3c with dyn := none } })
/-- ENTDAA (R335): a target without an address takes part and is given one. -/
def execEntdaa (dyn : BitVec 7) (s : State) : Host.Outcome State Fault Refusal := .next (if dead s || s.i3c.dyn.isSome then s else setDyn s dyn)
/-- SETMWL (Table 12.12). -/
def execSetmwl (dst : Option (BitVec 7)) (v : W16) (s : State) : Host.Outcome State Fault Refusal :=
  .next (setLimit s dst v fun c => { c with mwl := v })
/-- SETMRL (Table 12.12). -/
def execSetmrl (dst : Option (BitVec 7)) (v : W16) (s : State) : Host.Outcome State Fault Refusal :=
  .next (setLimit s dst v fun c => { c with mrl := v })
/-- ENTHDR0 (R335): HDR-DDR is entered. -/
def execEnthdr0 (s : State) : Host.Outcome State Fault Refusal := .next (if dead s then s else { s with i3c := { s.i3c with ddr := true } })
/-- RSTACT (Table 12.12). -/
def execRstact (dst : Option (BitVec 7)) (action : Byte) (s : State) : Host.Outcome State Fault Refusal := .next (rstactOp s dst action)
/-- SETDASA (R334): an address from the static address 0x3A. -/
def execSetdasa (static dyn : BitVec 7) (s : State) : Host.Outcome State Fault Refusal :=
  .next (if dead s || static != 0x3A || s.i3c.dyn.isSome then s else setDyn s dyn)
/-- SETNEWDA (R335). -/
def execSetnewda (dst dyn : BitVec 7) (s : State) : Host.Outcome State Fault Refusal := .next (if forMe s (some dst) then setDyn s dyn else s)
/-- GETMWL (R335). -/
def execGetmwl (dst : BitVec 7) (s : State) : Host.Outcome State Fault Refusal := .next (ccGet s dst (bytesOf s.i3c.mwl 2).reverse)
/-- GETMRL (R335). -/
def execGetmrl (dst : BitVec 7) (s : State) : Host.Outcome State Fault Refusal := .next (ccGet s dst (bytesOf s.i3c.mrl 2).reverse)
/-- GETPID (R334). -/
def execGetpid (dst : BitVec 7) (s : State) : Host.Outcome State Fault Refusal := .next (ccGet s dst pidBytes)
/-- GETBCR (R334). -/
def execGetbcr (dst : BitVec 7) (s : State) : Host.Outcome State Fault Refusal := .next (ccGet s dst [0x26])
/-- GETDCR (R334). -/
def execGetdcr (dst : BitVec 7) (s : State) : Host.Outcome State Fault Refusal := .next (ccGet s dst [0x00])
/-- GETSTATUS (R335): the number of pending in-band interrupts. -/
def execGetstatus (dst : BitVec 7) (s : State) : Host.Outcome State Fault Refusal := .next (ccGet s dst [0x00, BitVec.ofNat 8 (ibiCount s)])
/-- GETMXDS (R335): no limits. -/
def execGetmxds (dst : BitVec 7) (s : State) : Host.Outcome State Fault Refusal := .next (ccGet s dst [0x00, 0x00])

end Sys2Proof.Machine
end

