-- ==== Sys2Proof/Machine/SeqAlu.lean ====
section
/-!
DEFINITION. Sequencer arithmetic, logic, shift, move and step instructions (R167, R168, R170, R171).
-/

namespace Sys2Proof.Machine

/-- A sum written to its destination with its flags; a signed overflow traps after completion while OVE is 1 (R168). -/
def sumOp (s : State) (c : CoreId) (x : AluOps) (t : Sum) : State :=
  let s1 := regOp s c x.len fun r => { regSet r x.rd t.res with fl := sumFlags r.fl t }
  if t.v && flOve (core s c).r.fl then
    enter s1 c 6 0 0 ((core s c).r.pc.setWidth 64) (nextPc s c x.len)
  else s1

/-- A logical result with N and Z (R168). -/
def logicOp (s : State) (c : CoreId) (x : AluOps) (v : W64) : State :=
  regOp s c x.len fun r => { regSet r x.rd v with fl := setNz r.fl v }

/-- A shift with N, Z and C (R168). -/
def shiftOp (s : State) (c : CoreId) (x : AluOps) (k : ShKind) : State :=
  regOp s c x.len fun r => { regSet r x.rd (shiftRes k x.a x.b.toNat) with fl := shiftFlags r.fl k x.a x.b.toNat }

/-- `ADD` (R167). -/
def execAdd (c : CoreId) (f : AddForm) (s : State) : Host.Outcome State Fault Refusal :=
  let x := addOps (core s c).r 0x0 f
  .next (seqOp s c x.enc (badIf x.ok) fun s => sumOp s c x (addC x.a x.b false))

/-- `ADC` (R167). -/
def execAdc (c : CoreId) (f : AluForm) (s : State) : Host.Outcome State Fault Refusal :=
  let x := aluOps (core s c).r 0x1 f
  .next (seqOp s c x.enc (badIf x.ok) fun s => sumOp s c x (addC x.a x.b (flC (core s c).r.fl)))

/-- `SUB` (R167). -/
def execSub (c : CoreId) (f : AddForm) (s : State) : Host.Outcome State Fault Refusal :=
  let x := addOps (core s c).r 0x2 f
  .next (seqOp s c x.enc (badIf x.ok) fun s => sumOp s c x (subC x.a x.b true))

/-- `SBC`: ra - rb - (1 - C) (R167). -/
def execSbc (c : CoreId) (f : AluForm) (s : State) : Host.Outcome State Fault Refusal :=
  let x := aluOps (core s c).r 0x3 f
  .next (seqOp s c x.enc (badIf x.ok) fun s => sumOp s c x (subC x.a x.b (flC (core s c).r.fl)))

/-- `AND` (R167). -/
def execAnd (c : CoreId) (f : AluForm) (s : State) : Host.Outcome State Fault Refusal :=
  let x := aluOps (core s c).r 0x4 f
  .next (seqOp s c x.enc (badIf x.ok) fun s => logicOp s c x (x.a &&& x.b))

/-- `OR` (R167). -/
def execOr (c : CoreId) (f : AluForm) (s : State) : Host.Outcome State Fault Refusal :=
  let x := aluOps (core s c).r 0x5 f
  .next (seqOp s c x.enc (badIf x.ok) fun s => logicOp s c x (x.a ||| x.b))

/-- `XOR` (R167). -/
def execXor (c : CoreId) (f : AluForm) (s : State) : Host.Outcome State Fault Refusal :=
  let x := aluOps (core s c).r 0x6 f
  .next (seqOp s c x.enc (badIf x.ok) fun s => logicOp s c x (x.a ^^^ x.b))

/-- `SHL` (R167). -/
def execShl (c : CoreId) (f : ShForm) (s : State) : Host.Outcome State Fault Refusal :=
  let x := shOps (core s c).r 0x7 f
  .next (seqOp s c x.enc (badIf x.ok) fun s => shiftOp s c x .shl)

/-- `SHR` (R167). -/
def execShr (c : CoreId) (f : ShForm) (s : State) : Host.Outcome State Fault Refusal :=
  let x := shOps (core s c).r 0x8 f
  .next (seqOp s c x.enc (badIf x.ok) fun s => shiftOp s c x .shr)

/-- `SAR` (R167). -/
def execSar (c : CoreId) (f : ShForm) (s : State) : Host.Outcome State Fault Refusal :=
  let x := shOps (core s c).r 0x9 f
  .next (seqOp s c x.enc (badIf x.ok) fun s => shiftOp s c x .sar)

/-- `CMP`: the flags of a subtraction, no result (R168); nonzero RD of C0 and C1 is illegal (R166). -/
def execCmp (c : CoreId) (f : AddForm) (s : State) : Host.Outcome State Fault Refusal :=
  let x := addOps (core s c).r 0xA f
  .next (seqOp s c x.enc (badIf (x.ok && cmpOk f)) fun s =>
    regOp s c x.len fun r => { r with fl := sumFlags r.fl (subC x.a x.b true) })

/-- `MOV rd, rs` and `MOV rd, #imm`; nonzero RA of C0 and C1 is illegal (R166). -/
def execMov (c : CoreId) (f : AddForm) (s : State) : Host.Outcome State Fault Refusal :=
  let x := addOps (core s c).r 0xB f
  .next (seqOp s c x.enc (badIf (x.ok && movOk f)) fun s => regOp s c x.len fun r => regSet r x.rd x.b)

/-- `MOVK`: IMM16 into halfword HW of rd (R167). -/
def execMovk (c : CoreId) (rd : BitVec 5) (hw : BitVec 2) (rsv : BitVec 3) (imm : BitVec 16) (s : State) :
    Host.Outcome State Fault Refusal :=
  let enc := word32 [(0x32, 26), (rd.toNat, 21), (hw.toNat, 19), (rsv.toNat, 16), (imm.toNat, 0)]
  .next (seqOp s c enc (badIf (rsv == 0)) fun s => regOp s c 4 fun r =>
    let m : W64 := (0xFFFF : W64) <<< (16 * hw.toNat)
    regSet r rd ((regGet r rd &&& ~~~m) ||| (imm.setWidth 64 <<< (16 * hw.toNat))))

/-- `MSTEP`: rd and ra after one multiply step (R170). -/
def execMstep (c : CoreId) (rd ra rb : BitVec 5) (rsv : BitVec 7) (s : State) : Host.Outcome State Fault Refusal :=
  let enc := word32 [(0x30, 26), (rd.toNat, 21), (ra.toNat, 16), (rb.toNat, 11), (0xC, 7), (rsv.toNat, 0)]
  .next (seqOp s c enc (badIf (rsv == 0)) fun s => regOp s c 4 fun r =>
    let a := (regGet r ra).toNat
    let t := (regGet r rd).toNat + (if a % 2 = 1 then (regGet r rb).toNat else 0)
    regSet (regSet r ra (BitVec.ofNat 64 (t % 2 * 2 ^ 63 + a / 2))) rd (BitVec.ofNat 64 (t / 2)))

/-- `DSTEP`: rd and ra after one divide step, or the divide-by-zero exception (R171); its statements take effect in order (R12), which
shows when two fields name one register. -/
def execDstep (c : CoreId) (rd ra rb : BitVec 5) (rsv : BitVec 7) (s : State) : Host.Outcome State Fault Refusal :=
  let enc := word32 [(0x30, 26), (rd.toNat, 21), (ra.toNat, 16), (rb.toNat, 11), (0xD, 7), (rsv.toNat, 0)]
  .next (seqOp s c enc (badIf (rsv == 0)) fun s =>
    let r := (core s c).r
    if regGet r rb = 0 ∧ flDze r.fl = true then enter s c 7 0 0 (r.pc.setWidth 64) r.pc
    else
      regOp s c 4 fun r =>
        let a := (regGet r ra).toNat
        let t := (regGet r rd).toNat * 2 + a / 2 ^ 63
        let a2 := a * 2 % 2 ^ 64
        let r1 := regSet r ra (BitVec.ofNat 64 a2)
        let d := (regGet r1 rb).toNat
        if d ≤ t then
          let r2 := regSet r1 rd (BitVec.ofNat 64 (t - d))
          regSet r2 ra (setBit (regGet r2 ra) 0 true)
        else regSet r1 rd (BitVec.ofNat 64 t))

end Sys2Proof.Machine
end

