-- ==== Sys2Proof/Machine/SeqMem.lean ====
section
/-!
DEFINITION. Sequencer loads and stores (R154, R177-R180) with the hazards of R63, and block repeat (R173-R175).
-/

namespace Sys2Proof.Machine

/-! ### One access of up to 16 bytes -/

/-- Outcome of an access: a value, an exception of vector 0x03 with its kind, part and address, or a wait at a bank in handover or at an arbiter. -/
inductive MemRes where
  | ok (v : W128) (s : State)
  | bad (kind : Nat) (upper : Bool) (addr : Nat) (s : State)
  | held (s : State)

/-- The parts of an access of `w` bytes at `a` (R177): address and bytes, the lower part first. -/
def accParts (a w : Nat) : List (Nat × Nat) :=
  if a % 16 + w ≤ 16 then [(a, w)] else [(a, 16 - a % 16), ((a / 16 + 1) * 16 % 2 ^ 40, a % 16 + w - 16)]

/-- The first part that fails its checks before any part is sent (R177): the part's place, kind and address. -/
def partsBad (s : State) (c : CoreId) (want : Want) (ps : List (Nat × Nat)) : Option (Nat × Nat × Nat) :=
  ps.zipIdx.findSome? fun (p, i) =>
    let k := accCheck s c want p.1
    if k = 0 ∨ k = 9 then none else some (i, k, p.1)

/-- A part is held at a bank in handover. -/
def partsHeld (s : State) (c : CoreId) (want : Want) (ps : List (Nat × Nat)) : Bool :=
  ps.any fun p => accCheck s c want p.1 == 9

/-- The core waits at the banks in handover that hold its parts. -/
def partsNote (s : State) (c : CoreId) (want : Want) (ps : List (Nat × Nat)) : State := ps.foldl (fun t p => noteCore t c want p.1) s

/-- The group writes the word of address `a` (R72). -/
def groupWrites (g : Group) (a : Nat) : Bool :=
  (groupTouch g).writes.any fun f => f.space == a.testBit 38 && (f.whole || f.words.contains ((a % 2 ^ 38 / 16 : Nat) : Int))

/-- The VE's queue may still change words that a load reads: its groups run or may begin (R63). -/
def mayChange (s : State) (n : VeId) (a : Nat) : Bool := !s.eng[n].stopped && s.eng[n].queue.any fun g => groupWrites g a

/-- The word of address `a` once the first `k` queued groups have run: what a load may also return (R63). -/
def wordAfter (s : State) (n : VeId) (p : PartId) (a : Nat) (k : Nat) : W128 :=
  let t := (s.eng[n].queue.take k).foldl (fun t g =>
    match issueCheck t n p g with
    | .inl _ => t
    | .inr st => (runGroup t n p { g with staged := st }).s) s
  (coreRead t (.ve n) .read a).data

/-- The value that a load of the word of address `a` returns, where `r` has read it: of a word that queued groups write, the value before or after
any of them, a free choice (R63); what memory and the data cache hold is not touched by it. -/
def hazard (c : CoreId) (a : Nat) (r : Acc) : Acc :=
  match c with
  | .sv => r
  | .ve n =>
    match execPart r.s n with
    | none => r
    | some p =>
      if r.status = 0 && mayChange r.s n a then
        let d := drawNat r.s
        let k := d.1 % (r.s.eng[n].queue.length + 1)
        { data := if (r.s.eng[n].queue.take k).any fun g => groupWrites g a then wordAfter r.s n p a k else r.data, status := 0, s := d.2 }
      else r

/-- The word holding aligned address `a` for a load that reads memory. -/
def loadWord (s : State) (c : CoreId) (a : Nat) : Acc := hazard c a (coreRead s c .read a)

/-- The data cache serves the core at this address: not in deterministic mode (R189), and not the supervisor's internal register space, whose
registers change by themselves (log 25). -/
def dcServes (s : State) (c : CoreId) (a : Nat) : Bool :=
  match c with
  | .ve _ => !detCore s c
  | .sv => decide (a < 0x8000000000)

/-- The word at aligned address `a` by the data cache: a hit answers from the line, a miss fills a line of four words unless one of them is bad, and
only the word requested decides the access (R179). -/
def cacheWord (s : State) (c : CoreId) (a : Nat) : Acc :=
  let ln := a / 64
  match (core s c).dcache.find? fun l => l.line == ln with
  | some l =>
    { data := nth l.words (a / 16 % 4) 0, status := 0
      s := modCore s c fun k => { k with dcache := lru CacheLine.line l k.dcache } }
  | none =>
    let s0 := modCore s c fun k => { k with dcMiss := satInc k.dcMiss }
    let rs := (List.range 4).foldl (fun (x : List (Nat × W128) × State) i =>
      let r := coreRead x.2 c .read (64 * ln + 16 * i)
      (x.1 ++ [(r.status, r.data)], r.s)) ([], s0)
    let mine := nth rs.1 (a / 16 % 4) (0, 0)
    { data := mine.2, status := mine.1
      s := if rs.1.all fun x => x.1 == 0 then
          modCore rs.2 c fun k => { k with dcache := lru CacheLine.line { line := ln, words := rs.1.map (·.2) } k.dcache }
        else rs.2 }

/-- A read of the word at aligned address `a` for a load, through the data cache where it serves the core (R179, R63). -/
def cachedRead (s : State) (c : CoreId) (a : Nat) : Acc :=
  if !dcServes s c a then loadWord s c a else hazard c a (cacheWord s c a)

/-- Byte lanes `lo` to `lo + n - 1` of a word. -/
def byteMask (lo n : Nat) : List Bool := (List.range 16).map fun i => decide (lo ≤ i ∧ i < lo + n)

/-- A load of `w` bytes at `a`, little-endian in the low bits of the value (R177, R178). -/
def loadAcc (s : State) (c : CoreId) (a w : Nat) : MemRes :=
  match c with
  | .ve n =>
    if 2 ^ 39 ≤ a then
      if (w = 8 ∨ w = 16) ∧ a % 16 = 0 ∧ (a - 2 ^ 39) / 16 < 256 then
        match veLoad s n ((a - 2 ^ 39) / 16) w with
        | some (v, s1) => .ok v s1
        | none => .bad 0x0B false a s
      else .bad 0x0B false a s
    else go s a w
  | .sv => if 2 ^ 39 ≤ a ∧ ¬((w = 8 ∨ w = 16) ∧ a % 16 = 0) then .bad 0x0C false a s else go s a w
where
  /-- The load in memory, part by part. -/
  go (s : State) (a w : Nat) : MemRes :=
    let ps := accParts a w
    match partsBad s c .read ps with
    | some (i, k, pa) => .bad k (i == 1) pa s
    | none =>
      if partsHeld s c .read ps then .held (partsNote s c .read ps)
      else
        let r := ps.foldl (fun (x : Nat × Nat × List (Nat × Nat) × State) p =>
          let y := cachedRead x.2.2.2 c (p.1 / 16 * 16)
          let v := y.data.toNat / 2 ^ (8 * (p.1 % 16)) % 2 ^ (8 * p.2)
          (x.1 + v * 2 ^ (8 * x.2.1), x.2.1 + p.2, if y.status = 0 then x.2.2.1 else x.2.2.1 ++ [(y.status, p.1)], y.s)) (0, 0, [], s)
        match r.2.2.1 with
        | (k, pa) :: more => if ((k, pa) :: more).any (·.1 == 9) then .held s else .bad k (pa != a) pa r.2.2.2
        | [] => .ok (BitVec.ofNat 128 r.1) r.2.2.2

/-- Queued groups that read or write the word of address `a` are left with an undefined result there (R63). -/
def taintStore (s : State) (c : CoreId) (a : Nat) : State :=
  match c with
  | .sv => s
  | .ve n =>
    if s.eng[n].stopped || s.eng[n].queue.isEmpty then s
    else modEng s n fun e => { e with queue := e.queue.map fun g => { g with taint := insertAsc (a % 2 ^ 39 / 16) g.taint } }

/-- A store of the low `w` bytes of `v` at `a` (R177, R178): no effect unless every part is good. -/
def storeAcc (s : State) (c : CoreId) (a w : Nat) (v : W128) : MemRes :=
  match c with
  | .ve n =>
    if 2 ^ 39 ≤ a then
      if a % 16 = 0 ∧ (a - 2 ^ 39) / 16 < 256 then
        match veStore s n ((a - 2 ^ 39) / 16) w v with
        | some s1 => .ok 0 s1
        | none => .bad 0x0B false a s
      else .bad 0x0B false a s
    else go s a w v
  | .sv => if 2 ^ 39 ≤ a ∧ ¬((w = 8 ∨ w = 16) ∧ a % 16 = 0) then .bad 0x0C false a s else go s a w v
where
  /-- One part written: the bytes of `x` at `pa`. -/
  put (s : State) (pa n x : Nat) : Acc :=
    coreStore s c (pa / 16 * 16) (BitVec.ofNat 128 (x * 2 ^ (8 * (pa % 16)))) (byteMask (pa % 16) n)
  /-- The store in memory, part by part. -/
  go (s : State) (a w : Nat) (v : W128) : MemRes :=
    let ps := accParts a w
    match partsBad s c .write ps with
    | some (i, k, pa) => .bad k (i == 1) pa s
    | none =>
      if partsHeld s c .write ps then .held (partsNote s c .write ps)
      else
        match ps with
        | [(pa, n)] =>
          let r := put s pa n (v.toNat % 2 ^ (8 * n))
          if r.status = 9 then .held s
          else if r.status = 0 then .ok 0 (taintStore r.s c pa) else .bad r.status false pa r.s
        | [(pa, n), (pb, m)] =>
          let lo := v.toNat % 2 ^ (8 * n)
          let hi := v.toNat / 2 ^ (8 * n) % 2 ^ (8 * m)
          let r1 := put s pa n lo
          let r2 := put s pb m hi
          if r1.status = 9 ∨ r2.status = 9 then .held s
          else if r1.status ≠ 0 then .bad r1.status false pa r1.s
          else if r2.status ≠ 0 then .bad r2.status true pb r2.s
          else
            let r3 := put r1.s pb m hi
            .ok 0 (taintStore (taintStore r3.s c pa) c pb)
        | _ => .held s

/-- The data-access exception (Table 7.3): QUAL holds store, SZ and the part. -/
def dataFault (s : State) (c : CoreId) (kind : Nat) (store : Bool) (sz : Nat) (upper : Bool) (addr : Nat) : State :=
  enter s c 3 kind (store.toNat * 2 ^ 31 + sz * 2 ^ 28 + upper.toNat * 2 ^ 27) (BitVec.ofNat 64 addr) (core s c).r.pc

/-! ### LD and ST -/

/-- What a load or store does with its form. -/
structure MemOps where
  addr : Nat
  sz : Nat
  ext : Bool
  rt : BitVec 5
  len : Nat
  enc : W32
  ok : Bool
deriving DecidableEq, Repr

/-- Address of a base register and an offset: 40 bits (R153). -/
def effAddr (base : W64) (off : Int) : Nat := (((base.toNat : Int) + off) % 2 ^ 40).toNat

/-- Operands of `LD` and `ST` (Tables 6.4, 6.5). -/
def memOps (r : Regs) (st : Bool) : MemForm → MemOps
  | .h0 rt base =>
    { addr := effAddr (regGet r (hreg base)) 0, sz := 3, ext := false, rt := hreg rt, len := 2
      enc := if st then word32 [(0xD, 8), (base.toNat, 4), (rt.toNat, 0)] else word32 [(0xC, 8), (rt.toNat, 4), (base.toNat, 0)]
      ok := true }
  | .h5 rt off =>
    { addr := effAddr r.g[(7 : Fin 8)] (8 * off.toNat : Nat), sz := 3, ext := false, rt := hreg rt, len := 2
      enc := word32 [(5, 12), (st.toNat, 11), (rt.toNat, 7), (off.toNat, 0)], ok := true }
  | .c3 sz x rt base off =>
    { addr := effAddr (regGet r base) off.toInt, sz := sz.toNat, ext := x, rt := rt, len := 4
      enc := word32 [(0x33, 26), (st.toNat, 25), (sz.toNat, 22), (x.toNat, 21), (rt.toNat, 16), (base.toNat, 11), (off.toNat, 0)]
      ok := decide (sz.toNat ≤ 4) && (!x || (!st && decide (sz.toNat < 3))) && (sz != 4 || xOk rt) }

/-- The register a load writes: zero- or sign-extended, or a whole 128-bit register (R177). -/
def loadReg (r : Regs) (x : MemOps) (v : W128) : Regs :=
  if x.sz = 4 then xSet r x.rt v
  else if x.ext then regSet r x.rt (sext 64 (8 * 2 ^ x.sz) v.toNat)
  else regSet r x.rt (v.setWidth 64)

/-- `LD` (R177). -/
def execLd (c : CoreId) (f : MemForm) (s : State) : Host.Outcome State Fault Refusal :=
  let x := memOps (core s c).r false f
  .next (seqOp s c x.enc (badIf x.ok) fun s =>
    match loadAcc s c x.addr (2 ^ x.sz) with
    | .ok v s1 => regOp s1 c x.len fun r => loadReg r x v
    | .bad k up a s1 => dataFault s1 c k false x.sz up a
    | .held s1 => s1)

/-- `ST` (R177). -/
def execSt (c : CoreId) (f : MemForm) (s : State) : Host.Outcome State Fault Refusal :=
  let x := memOps (core s c).r true f
  .next (seqOp s c x.enc (badIf x.ok) fun s =>
    let v : W128 := if x.sz = 4 then xGet (core s c).r x.rt else (regGet (core s c).r x.rt).setWidth 128
    match storeAcc s c x.addr (2 ^ x.sz) v with
    | .ok _ s1 => retire s1 c (nextPc s c x.len)
    | .bad k up a s1 => dataFault s1 c k true x.sz up a
    | .held s1 => s1)

/-! ### Block repeat -/

/-- The four kinds of `RPT` (R173). -/
inductive RptKind where
  | movs
  | fills
  | cmps
  | scans
deriving DecidableEq, Repr

/-- KIND of an encoding. -/
def RptKind.code : RptKind → Nat
  | .movs => 0
  | .fills => 1
  | .cmps => 2
  | .scans => 3

/-- Where a run of `RPT` stands after an element. -/
inductive RptEnd where
  /-- BC reached 0. -/
  | done
  /-- `CMPS` found a difference, `x` greater than `y` or not; `SCANS` found its element. -/
  | stopped (greater : Bool)
  /-- An interrupt is taken at this boundary, or an access waits. -/
  | paused
  | bad (kind : Nat) (store upper : Bool) (addr : Nat)

/-- The predicate of `SCANS` on a masked element (R173). -/
def predHolds (pred x v : Nat) : Bool :=
  match pred with
  | 0 => x == v
  | 1 => x != v
  | 2 => decide (x < v)
  | _ => decide (v ≤ x)

/-- Pattern or search value, and search mask, of F register `fm` for elements of `w` bytes (R173). -/
def rptOperand (r : Regs) (fm : BitVec 3) (w : Nat) : Nat × Nat :=
  let f := (r.f[(⟨fm.toNat, fm.isLt⟩ : Fin 8)]).toNat
  if w = 16 then (f, 2 ^ 128 - 1) else (f % 2 ^ (8 * w), f / 2 ^ 64 % 2 ^ (8 * w))

/-- BS, BD and BC after an element that was counted. -/
def rptNext (k : RptKind) (step : Nat) (r : Regs) : Regs :=
  { r with bs := if k = .fills then r.bs else r.bs + BitVec.ofNat 64 step
           bd := if k = .scans then r.bd else r.bd + BitVec.ofNat 64 step
           bc := r.bc - 1 }

/-- One element: the state after it and, when the run stops there, how. -/
def rptElem (s : State) (c : CoreId) (k : RptKind) (w pred : Nat) (pat mask : Nat) : State × Option RptEnd :=
  let r := (core s c).r
  let a := r.bs.toNat % 2 ^ 40
  let b := r.bd.toNat % 2 ^ 40
  let put (s : State) (v : Nat) : State × Option RptEnd :=
    match storeAcc s c b w (BitVec.ofNat 128 v) with
    | .ok _ s1 => (s1, none)
    | .bad kd up ad s1 => (s1, some (.bad kd true up ad))
    | .held s1 => (s1, some .paused)
  match k with
  | .fills => put s pat
  | .movs =>
    match loadAcc s c a w with
    | .ok v s1 => put s1 v.toNat
    | .bad kd up ad s1 => (s1, some (.bad kd false up ad))
    | .held s1 => (s1, some .paused)
  | .cmps =>
    match loadAcc s c a w with
    | .bad kd up ad s1 => (s1, some (.bad kd false up ad))
    | .held s1 => (s1, some .paused)
    | .ok x s1 =>
      match loadAcc s1 c b w with
      | .bad kd up ad s2 => (s2, some (.bad kd false up ad))
      | .held s2 => (s2, some .paused)
      | .ok y s2 => if x = y then (s2, none) else (s2, some (.stopped (decide (y.toNat < x.toNat))))
  | .scans =>
    match loadAcc s c a w with
    | .bad kd up ad s1 => (s1, some (.bad kd false up ad))
    | .held s1 => (s1, some .paused)
    | .ok x s1 => if predHolds pred (x.toNat &&& mask) pat then (s1, some (.stopped false)) else (s1, none)

/-- Elements in ascending order, at most `fuel` of them (R173). -/
def rptLoop (c : CoreId) (k : RptKind) (w step pred pat mask : Nat) : Nat → State → State × RptEnd
  | 0, s => (s, if (core s c).r.bc = 0 then .done else .paused)
  | fuel + 1, s =>
    if (core s c).r.bc = 0 then (s, .done)
    else
      match rptElem s c k w pred pat mask with
      | (s1, none) => rptLoop c k w step pred pat mask fuel (modRegs s1 c (rptNext k step))
      | (s1, some e) => (s1, e)

/-- FL after a run that ended (R174). -/
def rptFlags (k : RptKind) (fl : W64) (e : RptEnd) : W64 :=
  match k, e with
  | .cmps, .done => setNzcv fl false true false false
  | .cmps, .stopped g => setNzcv fl false false g false
  | .scans, .done => setNzcv fl false false (flC fl) false
  | .scans, .stopped _ => setNzcv fl false true (flC fl) false
  | _, _ => fl

/-- Word of an `RPT` (Table 6.5). -/
def rptEnc (k : RptKind) (f : RptForm) : W32 :=
  word32 [(0x36, 26), (2, 22), (k.code, 20), (f.sz.toNat, 17), (f.fm.toNat, 14), (f.pred.toNat, 12), (f.gap.toNat, 9), (f.rsv.toNat, 0)]

/-- The fields of an `RPT` are admitted: SZ, FM for `FILLS` and `SCANS` alone, PRED for `SCANS` alone (R173). -/
def rptOk (k : RptKind) (f : RptForm) : Bool :=
  decide (f.sz.toNat ≤ 4) && f.rsv == 0 &&
  (f.fm == 0 || k == .fills || k == .scans) && (f.pred == 0 || k == .scans)

/-- An `RPT`; `upto` is the number of elements done when an interrupt arrives that is taken at the element boundary (R175): the commands that
make it pending and enter it come next, and until then the registers hold the progress. -/
def rptOp (s : State) (c : CoreId) (k : RptKind) (f : RptForm) (upto : Option Nat) : State :=
  seqOp s c (rptEnc k f) (badIf (rptOk k f)) fun s =>
    let r := (core s c).r
    let w := 2 ^ f.sz.toNat
    let o := rptOperand r f.fm w
    let fuel := match upto with
      | some m => min m r.bc.toNat
      | none => r.bc.toNat
    let x := rptLoop c k w (w * (f.gap.toNat + 1)) f.pred.toNat o.1 o.2 fuel s
    match x.2 with
    | .paused => x.1
    | .bad kd st up ad => dataFault x.1 c kd st f.sz.toNat up ad
    | .done => regOp x.1 c 4 fun r => { r with fl := rptFlags k r.fl .done }
    | .stopped g => regOp x.1 c 4 fun r => { r with fl := rptFlags k r.fl (.stopped g) }

/-- `RPT MOVS` (R173). -/
def execRptMovs (c : CoreId) (f : RptForm) (upto : Option Nat) (s : State) : Host.Outcome State Fault Refusal :=
  .next (rptOp s c .movs f upto)
/-- `RPT FILLS` (R173). -/
def execRptFills (c : CoreId) (f : RptForm) (upto : Option Nat) (s : State) : Host.Outcome State Fault Refusal :=
  .next (rptOp s c .fills f upto)
/-- `RPT CMPS` (R173). -/
def execRptCmps (c : CoreId) (f : RptForm) (upto : Option Nat) (s : State) : Host.Outcome State Fault Refusal :=
  .next (rptOp s c .cmps f upto)
/-- `RPT SCANS` (R173). -/
def execRptScans (c : CoreId) (f : RptForm) (upto : Option Nat) (s : State) : Host.Outcome State Fault Refusal :=
  .next (rptOp s c .scans f upto)

end Sys2Proof.Machine
end

