-- ==== Sys2Proof/Machine/SeqCtl.lean ====
section
/-!
DEFINITION. Control flow of the sequencer: branches (R164, R165, R182), calls, returns and register windows (R160-R162), traps (R207)
and the return from an exception (R197).
-/

namespace Sys2Proof.Machine

/-! ### Branches -/

/-- What a conditional branch does with its form. -/
structure BrOps where
  cond : Nat
  off : Int
  len : Nat
  enc : W32
deriving DecidableEq, Repr

/-- Fields of the H3 and C4 forms. -/
def brOps : BrForm → BrOps
  | .h3 cond off =>
    { cond := cond.toNat, off := off.toInt, len := 2, enc := word32 [(3, 12), (cond.toNat, 8), (off.toNat, 0)] }
  | .c4 cond off =>
    { cond := cond.toNat, off := off.toInt, len := 4, enc := word32 [(0x34, 26), (cond.toNat, 22), (off.toNat, 0)] }

/-- The address `off` halfwords from `pc` (R163). -/
def relPc (pc : Addr) (off : Int) : Addr := BitVec.ofInt 40 ((pc.toNat : Int) + 2 * off)

/-- A two-bit counter moved by an outcome (R182; log 33). -/
def bpMove (x : BitVec 2) (taken : Bool) : BitVec 2 :=
  if taken then (if x = 3 then 3 else x + 1) else (if x = 0 then 0 else x - 1)

/-- The predictor's part of a conditional branch: its counter, and a misprediction counted (R182, R189, Table 6.10). -/
def predict (s : State) (c : CoreId) (taken : Bool) : State :=
  let det := detCore s c
  modCore s c fun k =>
    let i : Fin 512 := Fin.ofNat 512 (fld k.r.pc 9 1)
    let guess := !det && decide (2 ≤ (k.bp[i]).toNat)
    { k with bp := if det then k.bp else updV k.bp i fun x => bpMove x taken
             bpMiss := if guess = taken then k.bpMiss else satInc k.bpMiss }

/-- `B cond, label` (R163, R166). -/
def execBCond (c : CoreId) (f : BrForm) (s : State) : Host.Outcome State Fault Refusal :=
  let x := brOps f
  .next (seqOp s c x.enc (badIf (x.cond != 15)) fun s =>
    let taken := condHolds x.cond (core s c).r.fl
    retire (predict s c taken) c (if taken then relPc (core s c).r.pc x.off else nextPc s c x.len))

/-- `B rs`: bit 0 of the target is ignored (R163). -/
def execBReg (c : CoreId) (rs : BitVec 5) (rsvHi : BitVec 3) (rsvLo : BitVec 16) (s : State) : Host.Outcome State Fault Refusal :=
  .next (seqOp s c (word32 [(0x35, 26), (2, 24), (rsvHi.toNat, 21), (rs.toNat, 16), (rsvLo.toNat, 0)])
    (badIf (rsvHi == 0 && rsvLo == 0)) fun s =>
      retire s c ((regGet (core s c).r rs).setWidth 40))

/-! ### Window slots -/

/-- The parts of a 144-byte slot at `a`: word address, first byte lane and length of each (R162). -/
def slotParts (a : Nat) : List (Nat × Nat × Nat) :=
  if a % 16 = 0 then (List.range 9).map fun i => ((a + 16 * i) % 2 ^ 40, 0, 16)
  else
    let lo := a % 16
    (a % 2 ^ 40 - lo, lo, 16 - lo) :: ((List.range 8).map fun i => ((a - lo + 16 * (i + 1)) % 2 ^ 40, 0, 16)) ++
      [((a - lo + 144) % 2 ^ 40, 0, lo)]

/-- The fault kind of the slot's first part that fails its checks (R154). -/
def slotBad (s : State) (c : CoreId) (w : Want) (a : Nat) : Option Nat :=
  (slotParts a).findSome? fun p =>
    let k := accCheck s c w p.1
    if k = 0 ∨ k = 9 then none else some k

/-- A part of the slot is held at a bank in handover. -/
def slotHeld (s : State) (c : CoreId) (w : Want) (a : Nat) : Bool := (slotParts a).any fun p => accCheck s c w p.1 == 9

/-- The core waits at the banks in handover that hold the slot. -/
def slotNote (s : State) (c : CoreId) (w : Want) (a : Nat) : State := (slotParts a).foldl (fun t p => noteCore t c w p.1) s

/-- The bytes of a window's slot (Table 6.3). -/
def slotBytes (r : Regs) (w : Fin 16) : List Byte :=
  (List.finRange 16).flatMap (fun i => bytesOf (r.win[winIx w i]) 8) ++ bytesOf r.spillTop 8 ++ bytesOf r.ra[w] 8

/-- Those bytes stored at `a`; the first part that goes bad ends it. -/
def slotStore (c : CoreId) : List (Nat × Nat × Nat) → List Byte → State → Option Nat × State
  | [], _, s => (none, s)
  | (a, lo, n) :: ps, bs, s =>
    let v : W128 := BitVec.ofNat 128 (natOfBytes (bs.take n) * 2 ^ (8 * lo))
    let r := coreStore s c a v (byteMask lo n)
    if r.status ≠ 0 then (some r.status, r.s) else slotStore c ps (bs.drop n) (taintStore r.s c a)

/-- The slot's bytes loaded; the first part that goes bad ends it. -/
def slotLoad (c : CoreId) : List (Nat × Nat × Nat) → State → List Byte × Option Nat × State
  | [], s => ([], none, s)
  | (a, lo, n) :: ps, s =>
    let r := loadWord s c a
    if r.status ≠ 0 then ([], some r.status, r.s)
    else
      let t := slotLoad c ps r.s
      (((bytesOf r.data 16).drop lo).take n ++ t.1, t.2.1, t.2.2)

/-- Outcome of a spill or fill: the new registers, a fault kind with the slot's address, or a wait. -/
inductive WinRes where
  | ok (s : State)
  | bad (kind : Nat) (slot : W64) (s : State)
  | held (s : State)

/-- One more window moved (SEQ_SPILLS, Table 6.10). -/
def countSpill (s : State) (c : CoreId) : State := modCore s c fun k => { k with spills := satInc k.spills }

/-- The oldest resident window. -/
def oldest (r : Regs) : Fin 16 := r.cwp - (r.resident - 1)

/-- A spill of the oldest resident window (R162). -/
def spill (s : State) (c : CoreId) : WinRes :=
  let r := (core s c).r
  let o := oldest r
  let a := r.wslot[o]
  match slotBad s c .write (a.toNat % 2 ^ 40) with
  | some k => .bad k a s
  | none =>
    if slotHeld s c .write (a.toNat % 2 ^ 40) then .held (slotNote s c .write (a.toNat % 2 ^ 40))
    else
      match slotStore c (slotParts (a.toNat % 2 ^ 40)) (slotBytes r o) s with
      | (some k, s1) => if k = 9 then .held s else .bad k a s1
      | (none, s1) => .ok (modRegs (countSpill s1 c) c fun r => { r with spillTop := a, resident := r.resident - 1 })

/-- Eight bytes of a list from place `i`. -/
def word64At (bs : List Byte) (i : Nat) : W64 := BitVec.ofNat 64 (natOfBytes ((bs.drop i).take 8))

/-- A window's registers, return address and link put back from slot bytes (Table 6.3). -/
def winRestore (r : Regs) (w : Fin 16) (bs : List Byte) : Regs :=
  { r with
    win := (List.finRange 16).foldl (fun v i => v.set (winIx w i) (word64At bs (8 * i.val))) r.win
    ra := r.ra.set w ((word64At bs 0x88).setWidth 40 &&& ~~~(1 : Addr))
    wslot := r.wslot.set w r.spillTop
    spillTop := word64At bs 0x80
    resident := 1 }

/-- A fill of window `w` from SPILLTOP (R162). -/
def fill (s : State) (c : CoreId) (w : Fin 16) : WinRes :=
  let a := (core s c).r.spillTop
  match slotBad s c .read (a.toNat % 2 ^ 40) with
  | some k => .bad k a s
  | none =>
    if slotHeld s c .read (a.toNat % 2 ^ 40) then .held (slotNote s c .read (a.toNat % 2 ^ 40))
    else
      match slotLoad c (slotParts (a.toNat % 2 ^ 40)) s with
      | (_, some k, s1) => if k = 9 then .held s else .bad k a s1
      | (bs, none, s1) => .ok (modRegs (countSpill s1 c) c fun r => winRestore r w bs)

/-- The window exception with its event (R162, Table 7.3). -/
def windowFault (s : State) (c : CoreId) (code kind : Nat) (slot : W64) : State :=
  enter (coreEvent s c 6 (at' 32 24 2)) c 5 code kind slot (core s c).r.pc

/-! ### CALL and RET -/

/-- The registers after a `CALL` whose windows have room (R160). -/
def callRegs (r : Regs) (next : Addr) : Regs :=
  let slot := r.g[(7 : Fin 8)] - 144
  let w := r.cwp + 1
  { r with wslot := r.wslot.set r.cwp slot, cwp := w, ra := r.ra.set w next, resident := r.resident + 1
           g := updV r.g 7 fun _ => slot }

/-- `CALL` to `target` (R160). -/
def callOp (s : State) (c : CoreId) (target : Addr) : State :=
  let r := (core s c).r
  let g7 := r.g[(7 : Fin 8)]
  if g7.toNat % 16 ≠ 0 ∨ g7.toNat < r.slim.toNat + 144 then
    enter (coreEvent s c 6 (at' 32 24 1)) c 4 0 0 g7 r.pc
  else
    let finish (s : State) : State :=
      retire (modRegs s c fun r => callRegs r (r.pc + 4)) c target
    if r.resident = 15 then
      match spill s c with
      | .ok s1 => finish s1
      | .bad k a s1 => windowFault s1 c 1 k a
      | .held s1 => s1
    else finish s

/-- `CALL label` (R160). -/
def execCall (c : CoreId) (off : BitVec 24) (s : State) : Host.Outcome State Fault Refusal :=
  .next (seqOp s c (word32 [(0x35, 26), (off.toNat, 0)]) none fun s => callOp s c (relPc (core s c).r.pc off.toInt))

/-- `CALL rs` (R160). -/
def execCallReg (c : CoreId) (rs : BitVec 5) (rsvHi : BitVec 3) (rsvLo : BitVec 16) (s : State) : Host.Outcome State Fault Refusal :=
  .next (seqOp s c (word32 [(0x35, 26), (1, 24), (rsvHi.toNat, 21), (rs.toNat, 16), (rsvLo.toNat, 0)])
    (badIf (rsvHi == 0 && rsvLo == 0)) fun s => callOp s c ((regGet (core s c).r rs).setWidth 40))

/-- `RET` (R161). -/
def retOp (s : State) (c : CoreId) : State :=
  let r := (core s c).r
  if r.resident = 1 ∧ r.spillTop = 1 then windowFault s c 3 0 0
  else
    let target := r.ra[r.cwp]
    let w := r.cwp - 1
    let finish (s : State) : State :=
      let s1 := modRegs s c fun r => { r with cwp := w, g := updV r.g 7 fun _ => r.wslot[w] + 144 }
      retire s1 c target
    if r.resident = 1 then
      match fill s c w with
      | .ok s1 => finish s1
      | .bad k a s1 => windowFault s1 c 2 k a
      | .held s1 => s1
    else finish (modRegs s c fun r => { r with resident := r.resident - 1 })

/-- An H4 encoding. -/
def h4 (op : Nat) (arg : BitVec 8) : W32 := word32 [(4, 12), (op, 8), (arg.toNat, 0)]

/-- `RET` (R161). -/
def execRet (c : CoreId) (arg : BitVec 8) (s : State) : Host.Outcome State Fault Refusal :=
  .next (seqOp s c (h4 1 arg) (badIf (arg == 0)) fun s => retOp s c)

/-! ### TRAP -/

/-- An escalation halts the sequencer and fails its job segment, with the cause of Table 3.9 where no handler can repair the open vector fault
(R83, R207, R208, Table 7.11; log 88). -/
def escalate (s : State) (c : CoreId) : State :=
  let s1 := coreEvent s c 7 0xFF
  let s2 := modCore s1 c fun k => { k with st := .escalated }
  match c with
  | .sv => s2
  | .ve n =>
    match execPart s n with
    | none => s2
    | some p =>
      match s.seq[n].openFaults with
      | o :: _ => failSegment s2 p (if unfixable o then openCause o else 0x0702)
          (vecDetail n o.cause o.elem o.addr)
      | [] => failSegment s2 p 0x0702 (at' 64 58 n.val ||| BitVec.ofNat 64 (fld s.seq[n].r.pc 37 0))

/-- `TRAP #ARG` (R193, R207). -/
def execTrap (c : CoreId) (arg : BitVec 8) (s : State) : Host.Outcome State Fault Refusal :=
  .next (seqOp s c (h4 3 arg) none fun s =>
    if arg = 0xFF then escalate s c
    else
      let s1 := retire s c (nextPc s c 2)
      let s2 := if 0x80 ≤ arg.toNat then coreEvent s1 c 7 (arg.setWidth 32) else s1
      enter s2 c 9 arg.toNat 0 ((core s c).r.pc.setWidth 64) (nextPc s c 2))

/-! ### RTI -/

/-- Outcome of reading a frame: its two words, the failing address, or a wait. -/
inductive FrameRes where
  | ok (lo hi : W128) (s : State)
  | bad (addr : Nat) (s : State)
  | held (s : State)

/-- The two 16-byte reads of a frame, checked before either is sent (R197); a frame in the register block is a fault (log 113). -/
def frameRead (s : State) (c : CoreId) (a : Nat) : FrameRes :=
  let b := (a + 16) % 2 ^ 40
  let block : Bool := match c with | .ve _ => decide (2 ^ 39 ≤ a ∨ 2 ^ 39 ≤ b) | .sv => false
  if block then .bad (if 2 ^ 39 ≤ a then a else b) s
  else
    match partsBad s c .read (accParts a 16), partsBad s c .read (accParts b 16) with
    | some (_, _, pa), _ => .bad pa s
    | none, some (_, _, pb) => .bad pb s
    | none, none =>
      match loadAcc s c a 16 with
      | .bad _ _ x s1 => .bad x s1
      | .held s1 => .held s1
      | .ok lo s1 =>
        match loadAcc s1 c b 16 with
        | .bad _ _ x s2 => .bad x s2
        | .held s2 => .held s2
        | .ok hi s2 => .ok lo hi s2

/-- A plain exit pops the frame; an open vector fault whose frame it was is closed (R82, R197, R207). -/
def popFrame (s : State) (c : CoreId) (fl : W64) (pc : Addr) : State :=
  let g7 := (core s c).r.g[(7 : Fin 8)]
  let s1 := retire (modRegs s c fun r => { r with fl := fl, g := updV r.g 7 (· + 32) }) c pc
  match c with
  | .sv => s1
  | .ve n =>
    match s1.seq[n].openFaults.find? fun o => o.frame == g7 with
    | some o => closeFault s1 n o
    | none => s1

/-- A chained exit: the frame stays, with the cause of the interrupt entered next (R197). -/
def chainExit (s : State) (c : CoreId) (fl : W64) (pc : Addr) (x : Nat × Nat × W64) : State :=
  let g7 := (core s c).r.g[(7 : Fin 8)]
  let a := (g7.toNat + 16) % 2 ^ 40
  let v := 0x10 + x.1
  let cause := causeWord v x.2.1 0
  match storeAcc s c a 16 (frameHi cause x.2.2) with
  | .held s1 => s1
  | .bad _ _ ad s1 => doubleFault s1 c 2 v pc cause (BitVec.ofNat 64 ad)
  | .ok _ s1 =>
    let s2 := modRegs s1 c fun r => { r with fl := (fl &&& ~~~(0xE00 : W64)) ||| at' 64 9 x.1 }
    let h := vectorAddr (core s2 c).r v
    let s3 := takeNotice (retire s2 c h) c x.2.1
    let f := fetchAt s3 c h.toNat
    if f.1 ≠ 0 ∧ f.1 ≠ 9 then doubleFault f.2 c 3 v pc cause x.2.2 else f.2

/-- `RTI` (R197). -/
def rtiOp (s : State) (c : CoreId) : State :=
  let r := (core s c).r
  let a := r.g[(7 : Fin 8)].toNat % 2 ^ 40
  match frameRead s c a with
  | .held s1 => s1
  | .bad ad s1 => doubleFault s1 c 4 0 r.pc 0 (BitVec.ofNat 64 ad)
  | .ok lo _ s1 =>
    let pc : Addr := BitVec.ofNat 40 (fld lo 39 0) &&& ~~~(1 : Addr)
    let fl := flRestore (BitVec.ofNat 64 (fld lo 127 64))
    match admitted s1 c fl with
    | some x => chainExit s1 c fl pc x
    | none => popFrame s1 c fl pc

/-- `RTI` (R197). -/
def execRti (c : CoreId) (arg : BitVec 8) (s : State) : Host.Outcome State Fault Refusal :=
  .next (seqOp s c (h4 2 arg) (badIf (arg == 0)) fun s => rtiOp s c)

end Sys2Proof.Machine
end

