-- ==== Sys2Proof/Machine/SeqSys.lean ====
section
/-!
DEFINITION. System instructions of the sequencer (R158, R164, R179, R181, R183-R186), and the commands of its entries: interrupts (R199-R201),
illegal encodings (R166, R210) and failing fetches (R154, R192).
-/

namespace Sys2Proof.Machine

/-- `NOP` and the hint space (R164). -/
def execNop (c : CoreId) (arg : BitVec 8) (s : State) : Host.Outcome State Fault Refusal :=
  .next (seqOp s c (h4 0 arg) none fun s => retire s c (nextPc s c 2))

/-- `WAIT`: completes once the queue is empty; until then the sequencer waits in it (R62). -/
def execWait (c : CoreId) (arg : BitVec 8) (s : State) : Host.Outcome State Fault Refusal :=
  .next (seqOp s c (h4 4 arg) (engineOnly c (arg == 0)) fun s =>
    match c with
    | .sv => s
    | .ve n => if (s.eng[n].queue).isEmpty then retire s c (nextPc s c 2) else s)

/-- `BARRIER` at VE `n` (R62, R186): it drains, then arrives and parks; re-executed after an interrupt it arrives no second time, and
completes at once when the release came meanwhile. -/
def barrierOp (s : State) (n : VeId) : State :=
  let k := s.seq[n]
  if k.arrived && !k.begunBarrier then
    modSeq (retire s (.ve n) (nextPc s (.ve n) 2)) n fun k => { k with arrived := false }
  else if !(s.eng[n].queue).isEmpty then modSeq s n fun k => { k with begunBarrier := true }
  else
    let s1 := modSeq s n fun k => { k with begunBarrier := true, arrived := true, st := .parked }
    match execPart s n with
    | some p => refreshDone s1 p
    | none => s1

/-- `BARRIER` (R186). -/
def execBarrier (c : CoreId) (arg : BitVec 8) (s : State) : Host.Outcome State Fault Refusal :=
  .next (seqOp s c (h4 6 arg) (engineOnly c (arg == 0)) fun s =>
    match c with
    | .sv => s
    | .ve n => barrierOp s n)

/-- `SYNC.I` (R181); on the supervisor a written REMAP takes effect (R249). -/
def execSyncI (c : CoreId) (arg : BitVec 8) (s : State) : Host.Outcome State Fault Refusal :=
  .next (seqOp s c (h4 5 arg) (badIf (arg == 0)) fun s =>
    let s1 := modCore (retire s c (nextPc s c 2)) c fun k => { k with icache := [], ahead := none }
    match c with
    | .ve _ => s1
    | .sv => if s.fab.remapDue then { s1 with fab := { s1.fab with remap := true, remapDue := false } } else s1)

/-- `CINV.I` (R179). -/
def execCinvI (c : CoreId) (s : State) : Host.Outcome State Fault Refusal :=
  .next (seqOp s c (h4 7 0) none fun s => modCore (retire s c (nextPc s c 2)) c fun k => { k with icache := [] })

/-- `CINV.D` (R179). -/
def execCinvD (c : CoreId) (s : State) : Host.Outcome State Fault Refusal :=
  .next (seqOp s c (h4 7 1) none fun s => modCore (retire s c (nextPc s c 2)) c fun k => { k with dcache := [] })

/-- Line `l` holds a byte of the `n` bytes from `a` (R179). -/
def lineMeets (l a n : Nat) : Bool :=
  let start := l * 64 % 2 ^ 40
  decide ((start + 2 ^ 40 - a) % 2 ^ 40 < n) || (decide (0 < n) && decide ((a + 2 ^ 40 - start) % 2 ^ 40 < 64))

/-- `CINV.D ra, rb` (R179). -/
def execCinvDRange (c : CoreId) (ra rb : BitVec 5) (rsv : BitVec 12) (s : State) : Host.Outcome State Fault Refusal :=
  .next (seqOp s c (word32 [(0x36, 26), (8, 22), (ra.toNat, 17), (rb.toNat, 12), (rsv.toNat, 0)]) (badIf (rsv == 0)) fun s =>
    let r := (core s c).r
    let a := (regGet r ra).toNat % 2 ^ 40
    let n := (regGet r rb).toNat
    modCore (retire s c (nextPc s c 4)) c fun k => { k with dcache := k.dcache.filter fun l => !lineMeets l.line a n })

/-! ### Special registers -/

/-- Special register `sr`, 0-9 (R158). -/
def srGet (r : Regs) (sr : Nat) : W64 :=
  match sr with
  | 0 => r.pc.setWidth 64
  | 1 => r.fl
  | 2 => r.slim
  | 3 => r.vbase
  | 4 => r.vl
  | 5 => 65536
  | 6 => r.bc
  | 7 => r.bs
  | 8 => r.bd
  | _ => (r.ra[r.cwp]).setWidth 64

/-- Special register `sr` written (R157, R158). -/
def srSet (r : Regs) (sr : Nat) (v : W64) : Regs :=
  match sr with
  | 1 => { r with fl := flWrite r.fl v }
  | 2 => { r with slim := v &&& ~~~(0xF : W64) }
  | 3 => { r with vbase := v }
  | 6 => { r with bc := v }
  | 7 => { r with bs := v }
  | 8 => { r with bd := v }
  | 9 => { r with ra := r.ra.set r.cwp (v.setWidth 40 &&& ~~~(1 : Addr)) }
  | _ => r

/-- CODE 0x01 for reserved bits, then 0x05 unless the register is admitted (Table 7.12). -/
def srBad (rsv : BitVec 13) (ok : Bool) : Option Nat := if rsv != 0 then some 1 else if ok then none else some 5

/-- Registers that `MOV sr, rs` writes (R158). -/
def srWritable (sr : Nat) : Bool := sr ∈ [1, 2, 3, 6, 7, 8, 9]

/-- `MOV rd, sr` (R158). -/
def execMovFromSr (c : CoreId) (rd : BitVec 5) (sr : BitVec 4) (rsv : BitVec 13) (s : State) : Host.Outcome State Fault Refusal :=
  .next (seqOp s c (word32 [(0x36, 26), (rd.toNat, 17), (sr.toNat, 13), (rsv.toNat, 0)]) (srBad rsv (decide (sr.toNat < 10))) fun s =>
    let v := srGet (core s c).r sr.toNat
    regOp s c 4 fun r => regSet r rd v)

/-- `MOV sr, rs` (R157, R158). -/
def execMovToSr (c : CoreId) (sr : BitVec 4) (rs : BitVec 5) (rsv : BitVec 13) (s : State) : Host.Outcome State Fault Refusal :=
  .next (seqOp s c (word32 [(0x36, 26), (1, 22), (rs.toNat, 17), (sr.toNat, 13), (rsv.toNat, 0)]) (srBad rsv (srWritable sr.toNat)) fun s =>
    let v := regGet (core s c).r rs
    regOp s c 4 fun r => srSet r sr.toNat v)

/-! ### Vector length and issue -/

/-- What `SETVL` does with its form: registers, length, encoding and whether reserved fields are zero. -/
def vlOps : VlForm → BitVec 5 × BitVec 5 × Nat × W32 × Bool
  | .h6 rd rs rsv => (hreg rd, hreg rs, 2, word32 [(6, 12), (rd.toNat, 8), (rs.toNat, 4), (rsv.toNat, 0)], rsv == 0)
  | .c6 rd rs rsv => (rd, rs, 4, word32 [(0x36, 26), (3, 22), (rd.toNat, 17), (rs.toNat, 12), (rsv.toNat, 0)], rsv == 0)

/-- The registers after `SETVL` with requested length `l` (R58). -/
def setVl (r : Regs) (rd : BitVec 5) (l : W64) : Regs :=
  if l = 0 then { regSet r rd 0 with fl := setBit r.fl 2 true }
  else
    let v : W64 := if l.toNat < 65536 then l else 65536
    { regSet r rd v with vl := v, fl := setBit r.fl 2 false }

/-- `SETVL rd, rs` (R58). -/
def execSetvl (c : CoreId) (f : VlForm) (s : State) : Host.Outcome State Fault Refusal :=
  let (rd, rs, len, enc, ok) := vlOps f
  .next (seqOp s c enc (engineOnly c ok) fun s =>
    let l := regGet (core s c).r rs
    regOp s c len fun r => setVl r rd l)

/-- What `VISSUE` does with its form: the vector word it issues, its length, its own encoding and whether its reserved fields are zero (R184). -/
def visOps (r : Regs) : VisForm → W32 × Nat × W32 × Bool
  | .h4 rs low => ((regGet r (hreg rs)).setWidth 32, 2, word32 [(4, 12), (8, 8), (rs.toNat, 4), (low.toNat, 0)], low == 0)
  | .c6 rs t fm rsv =>
    let v := regGet r rs
    let fn := byteOf (r.f[(⟨fm.toNat, fm.isLt⟩ : Fin 8)]) (fld v 35 32)
    let w : W32 := if t then (v.setWidth 32 &&& ~~~(0x03FC0000 : W32)) ||| at' 32 18 fn.toNat else v.setWidth 32
    (w, 4, word32 [(0x36, 26), (4, 22), (rs.toNat, 17), (t.toNat, 16), (fm.toNat, 13), (rsv.toNat, 0)],
      rsv == 0 && (t || fm == 0))

/-- `VISSUE` (R184). -/
def execVissue (c : CoreId) (f : VisForm) (s : State) : Host.Outcome State Fault Refusal :=
  let (w, len, enc, ok) := visOps (core s c).r f
  .next (match c with
    | .sv => seqOp s c enc (some 4) id
    | .ve n => if ok then vissueOp s n w enc len else seqOp s c enc (some 1) id)

/-! ### 128-bit registers -/

/-- `MOV xd, xs` (R156, R169). -/
def execMovX (c : CoreId) (xd xs : BitVec 5) (rsv : BitVec 12) (s : State) : Host.Outcome State Fault Refusal :=
  .next (seqOp s c (word32 [(0x36, 26), (5, 22), (xd.toNat, 17), (xs.toNat, 12), (rsv.toNat, 0)])
    (badIf (rsv == 0 && xOk xd && xOk xs)) fun s =>
      let v := xGet (core s c).r xs
      regOp s c 4 fun r => xSet r xd v)

/-- Half `h` of a 128-bit value. -/
def halfGet (x : W128) (h : Bool) : W64 := BitVec.ofNat 64 (if h then fld x 127 64 else fld x 63 0)

/-- Half `h` of a 128-bit value replaced. -/
def halfSet (x : W128) (h : Bool) (v : W64) : W128 :=
  if h then at' 128 0 (fld x 63 0) ||| at' 128 64 v.toNat else at' 128 64 (fld x 127 64) ||| at' 128 0 v.toNat

/-- `MOV` with a W half, in the direction `dir` (Table 6.5). -/
def execMovWHalf (c : CoreId) (rg : BitVec 5) (wn : BitVec 3) (h dir : Bool) (rsv : BitVec 12) (s : State) :
    Host.Outcome State Fault Refusal :=
  .next (seqOp s c (word32 [(0x36, 26), (6, 22), (rg.toNat, 17), (wn.toNat, 14), (h.toNat, 13), (dir.toNat, 12), (rsv.toNat, 0)])
    (badIf (rsv == 0)) fun s =>
      regOp s c 4 fun r =>
        let w := xGet r (wn.setWidth 5)
        if dir then xSet r (wn.setWidth 5) (halfSet w h (regGet r rg)) else regSet r rg (halfGet w h))

/-- BASE of a descriptor increased (R169). -/
def addBase (d : W128) (v : W64) : W128 :=
  (d &&& ~~~(0x3FFFFFFFFF : W128)) ||| at' 128 0 ((fld d 37 0 + v.toNat) % 2 ^ 38)

/-- `ADD Sn, rs` (R169). -/
def execAddSn (c : CoreId) (sn : BitVec 4) (rs : BitVec 5) (rsv : BitVec 13) (s : State) : Host.Outcome State Fault Refusal :=
  .next (seqOp s c (word32 [(0x36, 26), (7, 22), (sn.toNat, 18), (rs.toNat, 13), (rsv.toNat, 0)])
    (badIf (rsv == 0 && decide (sn.toNat < 12))) fun s =>
      regOp s c 4 fun r =>
        let x : BitVec 5 := sn.setWidth 5 + 16
        xSet r x (addBase (xGet r x) (regGet r rs)))

/-! ### Entries -/

/-- The core's next boundary may be one inside a parked `BARRIER` (Table 7.5). -/
def atInterruptPoint (s : State) (c : CoreId) : Bool :=
  canRun s c || match c with
    | .ve n => clockRuns s (clusterOfVe n) && s.eng[n].fenced == 0 && s.seq[n].st == .parked
    | .sv => false

/-- The highest pending interrupt that FL admits is entered (R199, R200). -/
def interruptOp (s : State) (c : CoreId) : State :=
  if !atInterruptPoint s c || faultDue s c || !(openGroup s c).isEmpty then s
  else
    match admitted s c (core s c).r.fl with
    | none => s
    | some x =>
      let s1 := modCore s c fun k => { k with st := .running }
      takeNotice (enter s1 c (0x10 + x.1) x.2.1 0 x.2.2 (core s c).r.pc) c x.2.1

/-- INTERRUPT_ENTRY (R199). -/
def execInterruptEntry (c : CoreId) (s : State) : Host.Outcome State Fault Refusal := .next (interruptOp s c)

/-- CODE of an illegal 16-bit encoding, none for a legal one (R164, R166, R191, Table 7.12). -/
def illegal16 (sv : Bool) (e : Nat) : Option Nat :=
  let op := e / 256 % 16
  let arg := e % 256
  let bad (b : Bool) : Option Nat := if b then some 1 else none
  match e / 4096 with
  | 0 => bad (decide (14 ≤ op))
  | 1 => none
  | 2 => bad (e / 1024 % 4 == 3)
  | 3 => bad (op == 15)
  | 4 =>
    if (op = 4 ∨ op = 6 ∨ op = 8) ∧ sv then some 4
    else if op = 0 ∨ op = 3 then none
    else if op = 7 then bad (decide (2 ≤ arg))
    else if op = 8 then bad (arg % 16 != 0)
    else bad (decide (9 ≤ op) || arg != 0)
  | 5 => none
  | 6 => if sv then some 4 else bad (e % 16 != 0)
  | _ => some 1

/-- CODE of an illegal 32-bit sequencer encoding, VOP 0x30-0x37 (R165, R166, R158). -/
def illegal32 (sv : Bool) (e : W32) : Option Nat :=
  let f := fld e
  let bad (b : Bool) : Option Nat := if b then some 1 else none
  match f 31 26 with
  | 0x30 => bad (decide (14 ≤ f 10 7) || f 6 0 != 0 || (f 10 7 == 0xA && f 25 21 != 0) || (f 10 7 == 0xB && f 20 16 != 0))
  | 0x31 => bad (decide (12 ≤ f 15 12) || (decide (7 ≤ f 15 12 ∧ f 15 12 ≤ 9) && f 11 6 != 0) || (f 15 12 == 0xA && f 25 21 != 0) ||
      (f 15 12 == 0xB && f 20 16 != 0))
  | 0x32 => bad (f 18 16 != 0)
  | 0x33 => bad (decide (5 ≤ f 24 22) || (bit e 21 && (bit e 25 || decide (3 ≤ f 24 22))) || (f 24 22 == 4 && decide (28 ≤ f 20 16)))
  | 0x34 => bad (f 25 22 == 15)
  | 0x35 => bad (f 25 24 == 3 || (f 25 24 != 0 && (f 23 21 != 0 || f 15 0 != 0)))
  | 0x36 =>
    match f 25 22 with
    | 0 => if f 12 0 ≠ 0 then some 1 else if 10 ≤ f 16 13 then some 5 else none
    | 1 => if f 12 0 ≠ 0 then some 1 else if srWritable (f 16 13) then none else some 5
    | 2 => bad (decide (5 ≤ f 19 17) || f 8 0 != 0 || (f 16 14 != 0 && (f 21 20 == 0 || f 21 20 == 2)) || (f 13 12 != 0 && f 21 20 != 3))
    | 3 => if sv then some 4 else bad (f 11 0 != 0)
    | 4 => if sv then some 4 else bad (f 12 0 != 0 || (!bit e 16 && f 15 13 != 0))
    | 5 => bad (f 11 0 != 0 || decide (28 ≤ f 21 17) || decide (28 ≤ f 16 12))
    | 6 => bad (f 11 0 != 0)
    | 7 => bad (decide (12 ≤ f 21 18) || f 12 0 != 0)
    | 8 => bad (f 11 0 != 0)
    | _ => some 1
  | _ => some 1

/-- CODE of an encoding that decode finds illegal, vector encodings included (R93, R120, R123, R191). -/
def illegalCode (s : State) (c : CoreId) (long : Bool) (e : W32) : Option Nat :=
  if !long then (if e.toNat < 0xC000 then illegal16 (c == .sv) e.toNat else none)
  else if fld e 31 26 < 0x30 then none
  else if fld e 31 26 < 0x38 then illegal32 (c == .sv) e
  else
    match c with
    | .sv => some 4
    | .ve n =>
      match vdecode e with
      | none => some 1
      | some i => if engineOk (isRn n) s.eng[n].vctl i.op then none else some 1

/-- An encoding that decode finds illegal reaches a core; one that is legal, or is no instruction of that length, is not this command (log 6). -/
def illegalOp (s : State) (c : CoreId) (long : Bool) (e : W32) : State :=
  match illegalCode s c long e with
  | none => s
  | some code =>
    if long && decide (0x38 ≤ fld e 31 26) then
      match c with
      | .ve n => vissueOp s n e e 4
      | .sv => seqOp s c e (some code) id
    else seqOp s c e (some code) id

/-- ILLEGAL_INSTRUCTION (R166, R210). -/
def execIllegalInstruction (c : CoreId) (long : Bool) (enc : W32) (s : State) : Host.Outcome State Fault Refusal :=
  .next (illegalOp s c long enc)

/-- The halfword at the PC, where it is the last of its word, begins a 32-bit instruction (R163). -/
def crosses (s : State) (c : CoreId) : Bool :=
  let pc := (core s c).r.pc.toNat
  pc % 16 == 14 && fld (coreRead s c .fetch (pc / 16 * 16)).data 127 126 == 3

/-- INSTRUCTION_ACCESS: the exception of a failing fetch; an open group is discarded (R154, R183, R195). A fetch that does not fail is not this
command. -/
def instrAccessOp (s : State) (c : CoreId) : State :=
  match (fetchGo s c (crosses s c)).1 with
  | .bad _ _ => atFetch s c (crosses s c) id
  | _ => s

/-- INSTRUCTION_ACCESS (R154, R192). -/
def execInstructionAccess (c : CoreId) (s : State) : Host.Outcome State Fault Refusal := .next (instrAccessOp s c)

/-- DB_VALUE read through the register block clears the doorbell source (R201). -/
def execDbValueRead (n : VeId) (s : State) : Host.Outcome State Fault Refusal :=
  .next (if !canRun s (.ve n) then s
    else
      match veLoad s n 0x23 8 with
      | some (v, s1) => emit s1 (.block (.ve n) v)
      | none => s)

/-- A sequencer store to VF_SUBST_EN arms or disarms the substitution (R146). -/
def execVfSubstEn (n : VeId) (val : W64) (s : State) : Host.Outcome State Fault Refusal :=
  .next (if !canRun s (.ve n) then s else substArm s n val)

end Sys2Proof.Machine
end

