-- ==== Sys2Proof/Machine/TwinCmds.lean ====
section
/-!
DEFINITION. FORWARDED_INPUT (R399): what the secondary does with each input that the primary forwards, and the primary with a fence that its
twin reports (R434 row 6). The layout of the payload is the model's (log 35).
-/

namespace Sys2Proof.Machine

/-- A forwarded block header: the block is in progress, and its SEQ is the one expected (R399). -/
def farHeader (s : State) (p : PartId) (k : Fin 8) (w : W128) : State :=
  let seq : W32 := BitVec.ofNat 32 (fld w 127 96)
  let t := if k.val = 1 then (loadBlock s p).2 else s
  modStream t p k fun st => { st with cur := some (headBlock w t.parts[p].load.length), seqIn := seq }

/-- A word of a forwarded payload, as if it had arrived at the port. -/
def farWord (p : PartId) (k : Fin 8) (s : State) (w : W128) : State := feedWord s p k w

/-- A forwarded PART_FENCE: what is queued ends here too; the segment in execution ends by the forwarded failure. -/
def farFence (s : State) (p : PartId) : State :=
  let s1 := modPart s p fun q =>
    { q with fenced := true, jobs := [], loadQ := [], streams := q.streams.map fun st => { st with cur := none, recvd := [], raw := [] } }
  (s1.dict.pending.filter fun d => grpIn s1 p d.grp).foldl (fun t d => commitFails t d 0x0F03 0x0008) s1

/-- A forwarded exchange edit lands at the same release as on the primary (R282, R399). -/
def farEdit (s : State) (p : PartId) (body : List W128) : State :=
  let a := nth body 0 0
  let e : Edit := { slot := fld a 95 80, w0 := nth body 1 0, w1 := nth body 2 0, by' := none, due := fld a 63 0, post := bit a 64, shadow := bit a 65 }
  if s.parts[p].run.isNone ∨ e.due ≤ lastRelease s.parts[p] then landEdit p s e
  else modPart s p fun q => { q with edits := q.edits ++ [e] }

/-- A forwarded commit becomes pending here, with the design cycle at whose end it applies. -/
def farCommit (s : State) (g : Grp) (body : List W128) : State :=
  let a := nth body 0 0
  let pd : Pending := { grp := g, by' := Fin.ofNat 6 (fld a 66 64), tag := BitVec.ofNat 32 (fld a 63 32), due := (nth body 1 0).toNat
                        set := (body.drop 2).map fun x => (BitVec.ofNat 8 (fld x 127 120), BitVec.ofNat 128 (fld x 119 0)) }
  commitGo { s with dict := { s.dict with pending := s.dict.pending ++ [pd] } } pd

/-- A forwarded dictionary write. -/
def farWrite (s : State) (p : PartId) (ix sub : Nat) (body : List W128) : State :=
  match grpOf (BitVec.ofNat 16 ix) (BitVec.ofNat 8 sub) with
  | some g => farCommit s g body
  | none =>
    if 0x2000 ≤ ix ∧ ix < 0x2010 ∧ sub = 0x44 then farEdit s p body
    else if 0x2000 ≤ ix ∧ ix < 0x2010 ∧ sub = 0x73 then (if nth body 0 0 = 1 then farFence s p else s)
    else if h : (0x5000 ≤ ix ∧ ix < 0x5100) ∧ sub = 2 then
      let b : BankId := ⟨ix - 0x5000, by omega⟩
      let v := (nth body 0 0).toNat
      if s.banks[b].owner.toNat = v ∨ s.banks[b].drain.isSome ∨ s.banks[b].fenced then s else startDrain s b (BitVec.ofNat 8 v) .device
    else (singleWrite s 5 ix sub (nth body 0 0).toNat []).1

/-- A slot start decided by the primary: the slot's partition takes its VEs here too (R382). -/
def farSlotStart (s : State) (p : PartId) (i : Nat) (w : W128) : State :=
  beginSlot { modPart s p (fun q => { q with slotCycles := 0 }) with
    pw := { s.pw with running := some w, left := fld w 55 44, slotNow := BitVec.ofNat 8 i } } p

/-- The primary has ended the ingest of design cycle `x` (R399); an `x` that does not go on says that it has rolled back or started again (R402). -/
def farIngested (s : State) (p : PartId) (x : Nat) : State :=
  modPart s p fun q => { q with farAgain := q.farAgain || decide (x ≤ q.farIngest), farIngest := x }

/-- One forwarded input at the secondary. Levels and slots are the device's, not a twin-mode partition's (R382). -/
def farInput (s : State) (w : W128) (body : List W128) : State :=
  let kind := fld w 127 120
  let p := payPart w
  let k := payEntry w
  let x := fld w 111 0
  if kind = 6 then reefTo s (Fin.ofNat 8 k.val) (x % 8)
  else if kind = 8 then raiseN (toTwinState s 4) 710 1
  else if kind = 4 then farSlotStart s p x (nth body 0 0)
  else if kind = 5 then endSlot s
  else if !twinActive s p then s
  else if kind = 0 then farHeader s p k (nth body 0 0)
  else if kind = 1 then partGo (body.foldl (farWord p k) s) p
  else if kind = 2 then farWrite s p (x / 256 % 65536) (x % 256) body
  else if kind = 3 then jobStartOp (modPart s p fun q => { q with farStarts := q.farStarts + 1 }) p
  else if kind = 7 then farIngested s p x
  else if kind = 9 then
    if s.parts[p].run.isNone ∧ s.parts[p].farStarts = 0 then s
    else farFailGo (modPart s p fun q => { q with farFail := some (x, fld (nth body 0 0) 79 64, BitVec.ofNat 64 (fld (nth body 0 0) 63 0)) }) p
  else s

/-- A forwarded-input frame arrives (R396, R399). -/
def forwardedOp (s : State) (f : SFrame) : State :=
  match rxFrame s 2 f with
  | none => s
  | some t =>
    if f.payload.isEmpty then t
    else if t.twin.primary then (if fld (payHead f) 127 120 = 10 then loseTwin t false else t)
    else if t.twin.state = 3 then farInput t (payHead f) (f.payload.drop 1)
    else t

/-- FORWARDED_INPUT (R399). -/
def execForwardedInput (f : SFrame) (s : State) : Host.Outcome State Fault Refusal := .next (forwardedOp s f)

end Sys2Proof.Machine
end

