-- ==== Sys2Proof/Machine/VecLogic.lean ====
section
/-!
DEFINITION. The logic and route instructions at a VE (Table 4.2), and the commands of chain groups.
-/

namespace Sys2Proof.Machine

/-- A vector instruction fetched at VE `n`. -/
def vins (n : VeId) (enc : W32) (s : State) : State := vissueOp s n enc enc 4

/-- `VLUT` (R97). -/
def execVlut (n : VeId) (tt : BitVec 8) (o : VOps) (s : State) : Host.Outcome State Fault Refusal :=
  .next (vins n (vword 0x38 tt.toNat o) s)
/-- `VQLUT` (R98). -/
def execVqlut (n : VeId) (tt : BitVec 8) (o : VOps) (s : State) : Host.Outcome State Fault Refusal :=
  .next (vins n (vword 0x39 tt.toNat o) s)
/-- `VRES` (R99). -/
def execVres (n : VeId) (fn : BitVec 6) (o : VOps) (s : State) : Host.Outcome State Fault Refusal :=
  .next (vins n (vword 0x3A fn.toNat o) s)
/-- `VCMPR` (R114). -/
def execVcmpr (n : VeId) (fn : BitVec 6) (o : VOps) (s : State) : Host.Outcome State Fault Refusal :=
  .next (vins n (vword 0x3A (0x40 + fn.toNat) o) s)
/-- `VEXPD` (R115). -/
def execVexpd (n : VeId) (fn : BitVec 6) (o : VOps) (s : State) : Host.Outcome State Fault Refusal :=
  .next (vins n (vword 0x3A (0x80 + fn.toNat) o) s)
/-- `VCHG` (R109). -/
def execVchg (n : VeId) (fn : BitVec 8) (o : VOps) (s : State) : Host.Outcome State Fault Refusal :=
  .next (vins n (vword 0x3B fn.toNat o) s)
/-- `VPERM` (R101). -/
def execVperm (n : VeId) (fn : BitVec 5) (o : VOps) (s : State) : Host.Outcome State Fault Refusal :=
  .next (vins n (vword 0x3C fn.toNat o) s)
/-- `VBGATH` (R102). -/
def execVbgath (n : VeId) (fn : BitVec 5) (o : VOps) (s : State) : Host.Outcome State Fault Refusal :=
  .next (vins n (vword 0x3C (0x20 + fn.toNat) o) s)
/-- `VGATH` (R106). -/
def execVgath (n : VeId) (fn : BitVec 5) (o : VOps) (s : State) : Host.Outcome State Fault Refusal :=
  .next (vins n (vword 0x3C (0x40 + fn.toNat) o) s)
/-- `VSCAT` (R107). -/
def execVscat (n : VeId) (fn : BitVec 5) (o : VOps) (s : State) : Host.Outcome State Fault Refusal :=
  .next (vins n (vword 0x3C (0x60 + fn.toNat) o) s)

/-- CHAIN_GROUP_START (R65). -/
def execChainGroupStart (n : VeId) (readsIssued : Bool) (s : State) : Host.Outcome State Fault Refusal :=
  .next (groupStart s n readsIssued)
/-- GROUP_COMPLETE (R75). -/
def execGroupComplete (n : VeId) (s : State) : Host.Outcome State Fault Refusal := .next (groupComplete s n)
/-- ELEMENT_FAULT (R79). -/
def execElementFault (n : VeId) (sunk : Sunk) (s : State) : Host.Outcome State Fault Refusal :=
  .next (elementFault s n sunk)
/-- VECTOR_FAULT_ENTRY (R199). -/
def execVectorFaultEntry (n : VeId) (s : State) : Host.Outcome State Fault Refusal := .next (faultEntry s n)

end Sys2Proof.Machine
end

