-- ==== Sys2Proof/Machine/VecArith.lean ====
section
/-!
DEFINITION. The integer and floating-point vector instructions at a VE (Table 5.2), by the words of Table 5.1.
-/

namespace Sys2Proof.Machine

/-- `VADD` (R125). -/
def execVadd (n : VeId) (fn : BitVec 4) (o : VOps) (s : State) : Host.Outcome State Fault Refusal :=
  .next (vins n (vword 0x3D fn.toNat o) s)
/-- `VADC` (R125). -/
def execVadc (n : VeId) (fn : BitVec 4) (o : VOps) (s : State) : Host.Outcome State Fault Refusal :=
  .next (vins n (vword 0x3D (0x10 + fn.toNat) o) s)
/-- `VSUB` (R125). -/
def execVsub (n : VeId) (fn : BitVec 4) (o : VOps) (s : State) : Host.Outcome State Fault Refusal :=
  .next (vins n (vword 0x3D (0x20 + fn.toNat) o) s)
/-- `VSBC` (R125). -/
def execVsbc (n : VeId) (fn : BitVec 4) (o : VOps) (s : State) : Host.Outcome State Fault Refusal :=
  .next (vins n (vword 0x3D (0x30 + fn.toNat) o) s)
/-- `VCMP` (R128). -/
def execVcmp (n : VeId) (fn : BitVec 4) (o : VOps) (s : State) : Host.Outcome State Fault Refusal :=
  .next (vins n (vword 0x3D (0x40 + fn.toNat) o) s)
/-- `VSEL` (R129). -/
def execVsel (n : VeId) (fn : BitVec 4) (o : VOps) (s : State) : Host.Outcome State Fault Refusal :=
  .next (vins n (vword 0x3D (0x50 + fn.toNat) o) s)
/-- `VSHL` (R130). -/
def execVshl (n : VeId) (fn : BitVec 4) (o : VOps) (s : State) : Host.Outcome State Fault Refusal :=
  .next (vins n (vword 0x3D (0x60 + fn.toNat) o) s)
/-- `VSHR` (R130). -/
def execVshr (n : VeId) (fn : BitVec 4) (o : VOps) (s : State) : Host.Outcome State Fault Refusal :=
  .next (vins n (vword 0x3D (0x70 + fn.toNat) o) s)
/-- `VROT` (R130). -/
def execVrot (n : VeId) (fn : BitVec 4) (o : VOps) (s : State) : Host.Outcome State Fault Refusal :=
  .next (vins n (vword 0x3D (0x80 + fn.toNat) o) s)
/-- `VMULW` (R131). -/
def execVmulw (n : VeId) (fn : BitVec 6) (o : VOps) (s : State) : Host.Outcome State Fault Refusal :=
  .next (vins n (vword 0x3E fn.toNat o) s)
/-- `VMULL` (R132). -/
def execVmull (n : VeId) (fn : BitVec 6) (o : VOps) (s : State) : Host.Outcome State Fault Refusal :=
  .next (vins n (vword 0x3E (0x40 + fn.toNat) o) s)
/-- `VDIVS` INIT (R133). -/
def execVdivsInit (n : VeId) (fn : BitVec 4) (o : VOps) (s : State) : Host.Outcome State Fault Refusal :=
  .next (vins n (vword 0x3E (0x80 + fn.toNat) o) s)
/-- `VDIVS` STEP (R133). -/
def execVdivsStep (n : VeId) (fn : BitVec 4) (o : VOps) (s : State) : Host.Outcome State Fault Refusal :=
  .next (vins n (vword 0x3E (0x90 + fn.toNat) o) s)
/-- `VDIVS` FIX (R133). -/
def execVdivsFix (n : VeId) (fn : BitVec 4) (o : VOps) (s : State) : Host.Outcome State Fault Refusal :=
  .next (vins n (vword 0x3E (0xA0 + fn.toNat) o) s)
/-- `VFADD` (R139). -/
def execVfadd (n : VeId) (fn : BitVec 4) (o : VOps) (s : State) : Host.Outcome State Fault Refusal :=
  .next (vins n (vword 0x3F fn.toNat o) s)
/-- `VFSUB` (R139). -/
def execVfsub (n : VeId) (fn : BitVec 4) (o : VOps) (s : State) : Host.Outcome State Fault Refusal :=
  .next (vins n (vword 0x3F (0x10 + fn.toNat) o) s)
/-- `VFMUL` (R139). -/
def execVfmul (n : VeId) (fn : BitVec 4) (o : VOps) (s : State) : Host.Outcome State Fault Refusal :=
  .next (vins n (vword 0x3F (0x20 + fn.toNat) o) s)
/-- `VFMA` (R148). -/
def execVfma (n : VeId) (fn : BitVec 4) (o : VOps) (s : State) : Host.Outcome State Fault Refusal :=
  .next (vins n (vword 0x3F (0x30 + fn.toNat) o) s)
/-- `VFMIN` (R141). -/
def execVfmin (n : VeId) (fn : BitVec 4) (o : VOps) (s : State) : Host.Outcome State Fault Refusal :=
  .next (vins n (vword 0x3F (0x40 + fn.toNat) o) s)
/-- `VFMAX` (R141). -/
def execVfmax (n : VeId) (fn : BitVec 4) (o : VOps) (s : State) : Host.Outcome State Fault Refusal :=
  .next (vins n (vword 0x3F (0x50 + fn.toNat) o) s)
/-- `VFCMP` (R141). -/
def execVfcmp (n : VeId) (fn : BitVec 4) (o : VOps) (s : State) : Host.Outcome State Fault Refusal :=
  .next (vins n (vword 0x3F (0x60 + fn.toNat) o) s)
/-- `VFCVT` (R142). -/
def execVfcvt (n : VeId) (fn : BitVec 4) (o : VOps) (s : State) : Host.Outcome State Fault Refusal :=
  .next (vins n (vword 0x3F (0x70 + fn.toNat) o) s)

end Sys2Proof.Machine
end

