-- ==== Sys2Proof/Machine/Dispatch.lean ====
section
/-!
DEFINITION. The dispatch: one arm per command, each a direct call of its meaning.
-/

namespace Sys2Proof.Machine

def exec (i : Instr) (s : State) : Host.Outcome State Fault Refusal :=
  match i with
  | .powerOnReset bootsel twinRole => Sys2Proof.Machine.execPowerOnReset bootsel twinRole s
  | .pwrokFall => Sys2Proof.Machine.execPwrokFall s
  | .resetNPulse bootsel => Sys2Proof.Machine.execResetNPulse bootsel s
  | .softReset r a => Sys2Proof.Machine.execSoftReset r a s
  | .bootStepComplete f => Sys2Proof.Machine.execBootStepComplete f s
  | .pllLossOfLock c => Sys2Proof.Machine.execPllLossOfLock c s
  | .dieFence d => Sys2Proof.Machine.execDieFence d s
  | .recoveryStart hdr frame => Sys2Proof.Machine.execRecoveryStart hdr frame s
  | .recoveryData hdr frame => Sys2Proof.Machine.execRecoveryData hdr frame s
  | .recoveryFinish hdr frame => Sys2Proof.Machine.execRecoveryFinish hdr frame s
  | .recoveryQuery hdr frame => Sys2Proof.Machine.execRecoveryQuery hdr frame s
  | .recoveryBootContinue => Sys2Proof.Machine.execRecoveryBootContinue s
  | .flashSlotWriteDone failed => Sys2Proof.Machine.execFlashSlotWriteDone failed s
  | .timeSync => Sys2Proof.Machine.execTimeSync s
  | .hostLinkUp h width speed volt load => Sys2Proof.Machine.execHostLinkUp h width speed volt load s
  | .hostLinkDown h sunk => Sys2Proof.Machine.execHostLinkDown h sunk s
  | .hotReset h sunk => Sys2Proof.Machine.execHotReset h sunk s
  | .functionLevelReset h sunk => Sys2Proof.Machine.execFunctionLevelReset h sunk s
  | .inStreamWrite h page slot bar0 low bytes data => Sys2Proof.Machine.execInStreamWrite h page slot bar0 low bytes data s
  | .outStreamRead h page slot bar0 low bytes => Sys2Proof.Machine.execOutStreamRead h page slot bar0 low bytes s
  | .outBlockPresent p k => Sys2Proof.Machine.execOutBlockPresent p k s
  | .fifoHoldTimeout h => Sys2Proof.Machine.execFifoHoldTimeout h s
  | .intArm r p a => Sys2Proof.Machine.execIntArm r p a s
  | .resync r p k a => Sys2Proof.Machine.execResync r p k a s
  | .replaySeq r p k a => Sys2Proof.Machine.execReplaySeq r p k a s
  | .loadReset r p a => Sys2Proof.Machine.execLoadReset r p a s
  | .jobStart p => Sys2Proof.Machine.execJobStart p s
  | .checkpointSave p => Sys2Proof.Machine.execCheckpointSave p s
  | .ingest p => Sys2Proof.Machine.execIngest p s
  | .commitPhase p => Sys2Proof.Machine.execCommitPhase p s
  | .observation p => Sys2Proof.Machine.execObservation p s
  | .resultRelease p => Sys2Proof.Machine.execResultRelease p s
  | .add c f => Sys2Proof.Machine.execAdd c f s
  | .adc c f => Sys2Proof.Machine.execAdc c f s
  | .sub c f => Sys2Proof.Machine.execSub c f s
  | .sbc c f => Sys2Proof.Machine.execSbc c f s
  | .and c f => Sys2Proof.Machine.execAnd c f s
  | .or c f => Sys2Proof.Machine.execOr c f s
  | .xor c f => Sys2Proof.Machine.execXor c f s
  | .shl c f => Sys2Proof.Machine.execShl c f s
  | .shr c f => Sys2Proof.Machine.execShr c f s
  | .sar c f => Sys2Proof.Machine.execSar c f s
  | .cmp c f => Sys2Proof.Machine.execCmp c f s
  | .mov c f => Sys2Proof.Machine.execMov c f s
  | .movk c rd hw rsv imm => Sys2Proof.Machine.execMovk c rd hw rsv imm s
  | .mstep c rd ra rb rsv => Sys2Proof.Machine.execMstep c rd ra rb rsv s
  | .dstep c rd ra rb rsv => Sys2Proof.Machine.execDstep c rd ra rb rsv s
  | .ld c f => Sys2Proof.Machine.execLd c f s
  | .st c f => Sys2Proof.Machine.execSt c f s
  | .bCond c f => Sys2Proof.Machine.execBCond c f s
  | .bReg c rs rsvHi rsvLo => Sys2Proof.Machine.execBReg c rs rsvHi rsvLo s
  | .call c off => Sys2Proof.Machine.execCall c off s
  | .callReg c rs rsvHi rsvLo => Sys2Proof.Machine.execCallReg c rs rsvHi rsvLo s
  | .ret c arg => Sys2Proof.Machine.execRet c arg s
  | .trap c arg => Sys2Proof.Machine.execTrap c arg s
  | .rti c arg => Sys2Proof.Machine.execRti c arg s
  | .nop c arg => Sys2Proof.Machine.execNop c arg s
  | .wait c arg => Sys2Proof.Machine.execWait c arg s
  | .barrier c arg => Sys2Proof.Machine.execBarrier c arg s
  | .syncI c arg => Sys2Proof.Machine.execSyncI c arg s
  | .cinvI c => Sys2Proof.Machine.execCinvI c s
  | .cinvD c => Sys2Proof.Machine.execCinvD c s
  | .cinvDRange c ra rb rsv => Sys2Proof.Machine.execCinvDRange c ra rb rsv s
  | .movFromSr c rd sr rsv => Sys2Proof.Machine.execMovFromSr c rd sr rsv s
  | .movToSr c sr rs rsv => Sys2Proof.Machine.execMovToSr c sr rs rsv s
  | .rptMovs c f upto => Sys2Proof.Machine.execRptMovs c f upto s
  | .rptFills c f upto => Sys2Proof.Machine.execRptFills c f upto s
  | .rptCmps c f upto => Sys2Proof.Machine.execRptCmps c f upto s
  | .rptScans c f upto => Sys2Proof.Machine.execRptScans c f upto s
  | .setvl c f => Sys2Proof.Machine.execSetvl c f s
  | .vissue c f => Sys2Proof.Machine.execVissue c f s
  | .movX c xd xs rsv => Sys2Proof.Machine.execMovX c xd xs rsv s
  | .movWHalf c rg wn h dir rsv => Sys2Proof.Machine.execMovWHalf c rg wn h dir rsv s
  | .addSn c sn rs rsv => Sys2Proof.Machine.execAddSn c sn rs rsv s
  | .vectorFaultEntry n => Sys2Proof.Machine.execVectorFaultEntry n s
  | .interruptEntry c => Sys2Proof.Machine.execInterruptEntry c s
  | .doorbell r n a => Sys2Proof.Machine.execDoorbell r n a s
  | .dbValueRead n => Sys2Proof.Machine.execDbValueRead n s
  | .vfSubstEn n val => Sys2Proof.Machine.execVfSubstEn n val s
  | .lockstepMismatch => Sys2Proof.Machine.execLockstepMismatch s
  | .vlut n tt o => Sys2Proof.Machine.execVlut n tt o s
  | .vqlut n tt o => Sys2Proof.Machine.execVqlut n tt o s
  | .vres n fn o => Sys2Proof.Machine.execVres n fn o s
  | .vcmpr n fn o => Sys2Proof.Machine.execVcmpr n fn o s
  | .vexpd n fn o => Sys2Proof.Machine.execVexpd n fn o s
  | .vchg n fn o => Sys2Proof.Machine.execVchg n fn o s
  | .vperm n fn o => Sys2Proof.Machine.execVperm n fn o s
  | .vbgath n fn o => Sys2Proof.Machine.execVbgath n fn o s
  | .vgath n fn o => Sys2Proof.Machine.execVgath n fn o s
  | .vscat n fn o => Sys2Proof.Machine.execVscat n fn o s
  | .vadd n fn o => Sys2Proof.Machine.execVadd n fn o s
  | .vadc n fn o => Sys2Proof.Machine.execVadc n fn o s
  | .vsub n fn o => Sys2Proof.Machine.execVsub n fn o s
  | .vsbc n fn o => Sys2Proof.Machine.execVsbc n fn o s
  | .vcmp n fn o => Sys2Proof.Machine.execVcmp n fn o s
  | .vsel n fn o => Sys2Proof.Machine.execVsel n fn o s
  | .vshl n fn o => Sys2Proof.Machine.execVshl n fn o s
  | .vshr n fn o => Sys2Proof.Machine.execVshr n fn o s
  | .vrot n fn o => Sys2Proof.Machine.execVrot n fn o s
  | .vmulw n fn o => Sys2Proof.Machine.execVmulw n fn o s
  | .vmull n fn o => Sys2Proof.Machine.execVmull n fn o s
  | .vdivsInit n fn o => Sys2Proof.Machine.execVdivsInit n fn o s
  | .vdivsStep n fn o => Sys2Proof.Machine.execVdivsStep n fn o s
  | .vdivsFix n fn o => Sys2Proof.Machine.execVdivsFix n fn o s
  | .vfadd n fn o => Sys2Proof.Machine.execVfadd n fn o s
  | .vfsub n fn o => Sys2Proof.Machine.execVfsub n fn o s
  | .vfmul n fn o => Sys2Proof.Machine.execVfmul n fn o s
  | .vfma n fn o => Sys2Proof.Machine.execVfma n fn o s
  | .vfmin n fn o => Sys2Proof.Machine.execVfmin n fn o s
  | .vfmax n fn o => Sys2Proof.Machine.execVfmax n fn o s
  | .vfcmp n fn o => Sys2Proof.Machine.execVfcmp n fn o s
  | .vfcvt n fn o => Sys2Proof.Machine.execVfcvt n fn o s
  | .chainGroupStart n readsIssued => Sys2Proof.Machine.execChainGroupStart n readsIssued s
  | .groupComplete n => Sys2Proof.Machine.execGroupComplete n s
  | .elementFault n sunk => Sys2Proof.Machine.execElementFault n sunk s
  | .memoryRead f others upsets => Sys2Proof.Machine.execMemoryRead f others upsets s
  | .memoryWrite f data enable tap others upsets => Sys2Proof.Machine.execMemoryWrite f data enable tap others upsets s
  | .correctedWriteBack word => Sys2Proof.Machine.execCorrectedWriteBack word s
  | .patrolScrub unit upsets => Sys2Proof.Machine.execPatrolScrub unit upsets s
  | .refresh q => Sys2Proof.Machine.execRefresh q s
  | .atomicOr f v others upsets => Sys2Proof.Machine.execAtomicOr f v others upsets s
  | .atomicAnd f v others upsets => Sys2Proof.Machine.execAtomicAnd f v others upsets s
  | .atomicAdd64 f v others upsets => Sys2Proof.Machine.execAtomicAdd64 f v others upsets s
  | .atomicSwap f v others upsets => Sys2Proof.Machine.execAtomicSwap f v others upsets s
  | .atomicCas f e v others upsets => Sys2Proof.Machine.execAtomicCas f e v others upsets s
  | .calRecordBreak st g => Sys2Proof.Machine.execCalRecordBreak st g s
  | .quietWindowEnd st ok volt load => Sys2Proof.Machine.execQuietWindowEnd st ok volt load s
  | .stackOverheat st temp => Sys2Proof.Machine.execStackOverheat st temp s
  | .owner r b a => Sys2Proof.Machine.execOwner r b a s
  | .bankDrainEnd b => Sys2Proof.Machine.execBankDrainEnd b s
  | .tapRead b line who hit => Sys2Proof.Machine.execTapRead b line who hit s
  | .tapGuaranteedCycle b line who => Sys2Proof.Machine.execTapGuaranteedCycle b line who s
  | .stackFence r st a => Sys2Proof.Machine.execStackFence r st a s
  | .bankFence r b a => Sys2Proof.Machine.execBankFence r b a s
  | .watchdogExpiry w sunk => Sys2Proof.Machine.execWatchdogExpiry w sunk s
  | .linkFence r a => Sys2Proof.Machine.execLinkFence r a s
  | .remap v => Sys2Proof.Machine.execRemap v s
  | .slotStart p slot others => Sys2Proof.Machine.execSlotStart p slot others s
  | .slotComplete p slot => Sys2Proof.Machine.execSlotComplete p slot s
  | .exchangeFault p slot cut => Sys2Proof.Machine.execExchangeFault p slot cut s
  | .barrierRelease p => Sys2Proof.Machine.execBarrierRelease p s
  | .barrierTimeout p => Sys2Proof.Machine.execBarrierTimeout p s
  | .exchEditSlot r p a => Sys2Proof.Machine.execExchEditSlot r p a s
  | .exchEditGo r p a => Sys2Proof.Machine.execExchEditGo r p a s
  | .stagingWrite r ix sub a => Sys2Proof.Machine.execStagingWrite r ix sub a s
  | .commit r ix sub a => Sys2Proof.Machine.execCommit r ix sub a s
  | .discard r ix sub a => Sys2Proof.Machine.execDiscard r ix sub a s
  | .commitApply ix sub => Sys2Proof.Machine.execCommitApply ix sub s
  | .stageTimeoutExpiry ix sub => Sys2Proof.Machine.execStageTimeoutExpiry ix sub s
  | .abortLast h bytes off => Sys2Proof.Machine.execAbortLast h bytes off s
  | .registerWrite r ix sub a => Sys2Proof.Machine.execRegisterWrite r ix sub a s
  | .alertClear r a => Sys2Proof.Machine.execAlertClear r a s
  | .i3cReadRequest hdr frame => Sys2Proof.Machine.execI3cReadRequest hdr frame s
  | .i3cWriteRequest hdr frame => Sys2Proof.Machine.execI3cWriteRequest hdr frame s
  | .i3cPrivateRead hdr => Sys2Proof.Machine.execI3cPrivateRead hdr s
  | .enec dst => Sys2Proof.Machine.execEnec dst s
  | .disec dst => Sys2Proof.Machine.execDisec dst s
  | .entas code dst => Sys2Proof.Machine.execEntas code dst s
  | .rstdaa => Sys2Proof.Machine.execRstdaa s
  | .entdaa dyn => Sys2Proof.Machine.execEntdaa dyn s
  | .setmwl dst v => Sys2Proof.Machine.execSetmwl dst v s
  | .setmrl dst v => Sys2Proof.Machine.execSetmrl dst v s
  | .enthdr0 => Sys2Proof.Machine.execEnthdr0 s
  | .rstact dst action => Sys2Proof.Machine.execRstact dst action s
  | .setdasa static dyn => Sys2Proof.Machine.execSetdasa static dyn s
  | .setnewda dst dyn => Sys2Proof.Machine.execSetnewda dst dyn s
  | .getmwl dst => Sys2Proof.Machine.execGetmwl dst s
  | .getmrl dst => Sys2Proof.Machine.execGetmrl dst s
  | .getpid dst => Sys2Proof.Machine.execGetpid dst s
  | .getbcr dst => Sys2Proof.Machine.execGetbcr dst s
  | .getdcr dst => Sys2Proof.Machine.execGetdcr dst s
  | .getstatus dst => Sys2Proof.Machine.execGetstatus dst s
  | .getmxds dst => Sys2Proof.Machine.execGetmxds dst s
  | .eventRaise x detail => Sys2Proof.Machine.execEventRaise x detail s
  | .eventServe x => Sys2Proof.Machine.execEventServe x s
  | .svPop => Sys2Proof.Machine.execSvPop s
  | .evPop n => Sys2Proof.Machine.execEvPop n s
  | .target r x a => Sys2Proof.Machine.execTarget r x a s
  | .arrivalsClr r x a => Sys2Proof.Machine.execArrivalsClr r x a s
  | .dispatchTick m => Sys2Proof.Machine.execDispatchTick m s
  | .slotTicksExpiry => Sys2Proof.Machine.execSlotTicksExpiry s
  | .veSlotStop n => Sys2Proof.Machine.execVeSlotStop n s
  | .wakeRequest c => Sys2Proof.Machine.execWakeRequest c s
  | .reefRailArrival c => Sys2Proof.Machine.execReefRailArrival c s
  | .fastLimit watts => Sys2Proof.Machine.execFastLimit watts s
  | .tjAlertReached d temp => Sys2Proof.Machine.execTjAlertReached d temp s
  | .thermalEmergency d temp => Sys2Proof.Machine.execThermalEmergency d temp s
  | .thermtrip d => Sys2Proof.Machine.execThermtrip d s
  | .sensorCalOutOfBand c => Sys2Proof.Machine.execSensorCalOutOfBand c s
  | .eqCalOutOfBand h => Sys2Proof.Machine.execEqCalOutOfBand h s
  | .slotActive r ix a => Sys2Proof.Machine.execSlotActive r ix a s
  | .crcStart u master poly tag expected cmp count others => Sys2Proof.Machine.execCrcStart u master poly tag expected cmp count others s
  | .crcRunEnd u words => Sys2Proof.Machine.execCrcRunEnd u words s
  | .crcSelfCheck u results => Sys2Proof.Machine.execCrcSelfCheck u results s
  | .crcFence r u a => Sys2Proof.Machine.execCrcFence r u a s
  | .pairedMismatch pair kind slot sunk => Sys2Proof.Machine.execPairedMismatch pair kind slot sunk s
  | .veFence r n a sunk => Sys2Proof.Machine.execVeFence r n a sunk s
  | .portFence r h a sunk => Sys2Proof.Machine.execPortFence r h a sunk s
  | .partFence r p a => Sys2Proof.Machine.execPartFence r p a s
  | .sundovLinkUp lanes => Sys2Proof.Machine.execSundovLinkUp lanes s
  | .heartbeat f => Sys2Proof.Machine.execHeartbeat f s
  | .heartbeatSend => Sys2Proof.Machine.execHeartbeatSend s
  | .forwardedInput f => Sys2Proof.Machine.execForwardedInput f s
  | .digest f => Sys2Proof.Machine.execDigest f s
  | .ledgerCopy f => Sys2Proof.Machine.execLedgerCopy f s
  | .progress f => Sys2Proof.Machine.execProgress f s
  | .resyncData f => Sys2Proof.Machine.execResyncData f s
  | .fatalNotice f => Sys2Proof.Machine.execFatalNotice f s
  | .frameResend => Sys2Proof.Machine.execFrameResend s
  | .sundovLinkLoss sunk => Sys2Proof.Machine.execSundovLinkLoss sunk s
  | .presenceWaitExpiry => Sys2Proof.Machine.execPresenceWaitExpiry s
  | .twinPair r a => Sys2Proof.Machine.execTwinPair r a s
  | .resyncPassEnd failed => Sys2Proof.Machine.execResyncPassEnd failed s
  | .twinDetach r a => Sys2Proof.Machine.execTwinDetach r a s
  | .twinPromote r a => Sys2Proof.Machine.execTwinPromote r a s
  | .debugRead r b bytes off hit => Sys2Proof.Machine.execDebugRead r b bytes off hit s
  | .holdNAssert => Sys2Proof.Machine.execHoldNAssert s
  | .holdNDeassert => Sys2Proof.Machine.execHoldNDeassert s
  | .dbgFreeze r a => Sys2Proof.Machine.execDbgFreeze r a s
  | .illegalInstruction c long enc => Sys2Proof.Machine.execIllegalInstruction c long enc s
  | .instructionAccess c => Sys2Proof.Machine.execInstructionAccess c s
  | .stackAboveThermalLimit st temp => Sys2Proof.Machine.execStackAboveThermalLimit st temp s
  | .twinPresentNHigh => Sys2Proof.Machine.execTwinPresentNHigh s
  | .freezeEntered => Sys2Proof.Machine.execFreezeEntered s
  | .reefClockRestart c => Sys2Proof.Machine.execReefClockRestart c s
  | .controllerOrPhyFailure st => Sys2Proof.Machine.execControllerOrPhyFailure st s
  | .streamPathFault h => Sys2Proof.Machine.execStreamPathFault h s
  | .correctableLinkError h => Sys2Proof.Machine.execCorrectableLinkError h s

end Sys2Proof.Machine
end

