-- ==== Sys2Proof/Machine/Idle.lean ====
section
/-!
DEFINITION. The passing of device time on an empty queue (assumption log 4).
-/

namespace Sys2Proof.Machine

/-- One nanosecond of clocks: SEQ_CYCLES of the sequencers of a running cluster gain `freq` MHz times 1 ns, with the
remainder carried (Table 6.10). -/
def clockNs (s : State) (c : ClusterId) : State :=
  if clockRuns s c then
    let k := s.clusters[c]
    let t := k.frac + k.freq
    let s1 := modCluster s c fun x => { x with frac := t % 1000 }
    { s1 with seq := Vector.ofFn fun n =>
        if n.val / 8 = c.val then
          { s1.seq[n] with cycles := s1.seq[n].cycles + BitVec.ofNat 64 (t / 1000) } else s1.seq[n] }
  else s

/-- Core `c` goes on where it waited: an exception entry is done again (R262). -/
def coreGo (s : State) (c : CoreId) : State := if (core s c).entry.isSome then resumeEntry s c else s

/-- A partition goes on where it waited for memory or for its twin: image words, blocks, a restore, an agreement, a forwarded failure
(R256, R399, R400, R434). -/
def partWakes (s : State) (p : PartId) : State := farFailGo (agreeGo (partGo s p) p) p

/-- What has waited for an arbiter, a clock or a bank goes on (R256, R277): barrier releases, exception entries, a slot's start, the partitions. -/
def wakeAll (s : State) : State :=
  let ns := (List.finRange 64).filter fun n => releaseDue s n || s.seq[n].entry.isSome
  let s1 := ns.foldl (fun t n => coreGo (deliverRelease t n) (.ve n)) s
  (List.finRange 16).foldl partWakes (slotGo (coreGo s1 .sv))

/-- One nanosecond of device time: every die's counter, the cycle counters of running clocks, and FREEZE_NS while frozen
(R343, Table 6.10, Table 16.5). The bridges' acknowledgements come back (R260, log 103). Recovery microcode ends (R209, R215, log 20). Items of a
partition that a fence of the device's own has reached end then (R26, log 90), what has waited goes on, host software enumerates a port that was reset
(log 101), and accesses that waited are served (R317). -/
def idle (s : State) : State :=
  if dead s then s
  else
    let sw := (List.finRange 4).foldl enumerate (wakeAll (fenceReach (recoveryEnd (restartEnd (ackBridges s)))))
    let s0 := serveWaiting sw
    let s1 := { s0 with ev := { s0.ev with time := s0.ev.time.map (· + 1) } }
    let s2 := (List.finRange 8).foldl clockNs s1
    if s.fz.state = 2 then { s2 with fz := { s2.fz with ns := s2.fz.ns + 1 } } else s2

end Sys2Proof.Machine
end

