-- ==== Sys2Proof/Safety.lean ====
section
/-!
DEFINITION. The terms in which claims are stated: the canonical form of memory, when a core executes an instruction, and what an
instruction leaves unchanged.
-/

namespace Sys2Proof.Machine

/-! ### Memory -/

/-- Both byte stores are in canonical form: addresses strictly rising, no entry of the value an unlisted address reads as. -/
def Memory.wf (m : Store) : Bool := cellsWf m.cells && cellsWf m.ram

/-- What every step keeps: the byte stores stay in canonical form. -/
def Inv (s : State) : Prop := Memory.wf s.mem = true

/-- What a read of memory can change (R220-R223, R235, R239, R251, R260): the stores, the units that serve them, the arbiters and bridges on the way,
the reports of errors and fences with their answers, and the free values drawn. Every sequencer, engine and partition stays as it is. -/
def ReadKeeps (s t : State) : Prop :=
  t = { s with
    mem := t.mem, stk := t.stk, banks := t.banks, ceTotal := t.ceTotal, ueTotal := t.ueTotal, ev := t.ev
    fab := { s.fab with hit := t.fab.hit, pcArb := t.fab.pcArb, tapArb := t.fab.tapArb, clusterArb := t.fab.clusterArb, bridgeArb := t.fab.bridgeArb
                        mgtArb := t.fab.mgtArb, veTurn := t.fab.veTurn, bridges := t.fab.bridges }
    ls := { s.ls with fenceNotice := t.ls.fenceNotice }, dict := { s.dict with alertCause := t.dict.alertCause }, ports := t.ports, i3c := t.i3c
    outs := t.outs, free := t.free }

/-- Requests have gone by the arbiters and bridges of their ways (R251, R253, R260): nothing else differs. -/
def WayKeeps (s t : State) : Prop :=
  t = { s with fab := { s.fab with
    pcArb := t.fab.pcArb, tapArb := t.fab.tapArb, clusterArb := t.fab.clusterArb, bridgeArb := t.fab.bridgeArb, mgtArb := t.fab.mgtArb
    veTurn := t.fab.veTurn, bridges := t.fab.bridges } }

/-- An access of master `m` to device address `a` waits at an arbiter that makes no grant (R256). -/
def devWaits (s : State) (m : MasterKind) (a : Nat) : Bool :=
  match unitOf s a with
  | some u => pathWaits s m u false
  | none => false

/-- Partition-relative HBM offset `x` of partition `p` is word `w` of memory, and master `m` may access it now: its unit is not fenced and no arbiter
on the way is frozen (R239, R256). -/
def OpenAt (s : State) (p : PartId) (m : MasterKind) (x w : Nat) : Prop :=
  partDev s p false x = some (16 * w) ∧ devWaits s m (16 * w) = false ∧
  ∃ u, unitOf s (16 * w) = some u ∧ (∀ b, u ≠ .bank b) ∧ unitFenced s (masterDie m) u = false

/-- No arbiter is frozen and no pseudo-channel is in a quiet window (R228, R256). -/
def WaysOpen (s : State) : Prop :=
  (∀ i : Fin 256, s.fab.pcArb[i].frozen = false) ∧ (∀ b : BankId, s.fab.tapArb[b].frozen = false) ∧
  (∀ c : ClusterId, s.fab.clusterArb[c].frozen = false) ∧ (∀ i : Fin 8, s.fab.bridgeArb[i].frozen = false) ∧ s.fab.mgtArb.frozen = false ∧
  ∀ st : StackId, s.stk[st].quiet = none

/-- Nothing waits for time to pass: no fence has items to end, and no core's entry, barrier release, slot, partition or access waits, and every port
whose link is up is enumerated (assumption logs 4, 90, 101). -/
def Settled (s : State) : Prop :=
  s.fab.hit = 0 ∧ s.dict.waiting = [] ∧ (s.twin.state ≠ 3 ∨ s.twin.primary = true) ∧ s.pw.due = false ∧
  (∀ c, (core s c).entry = none) ∧ (∀ n : VeId, s.seq[n].st = .parked → s.seq[n].arrived = false ∨ s.seq[n].begunBarrier = true) ∧
  (∀ h : PortId, s.ports[h].link = 2 → s.ports[h].cfg.memOn = true) ∧ ∀ p, partWakes s p = s

/-! ### Sequencer instructions -/

/-- The state once the instruction of `len` bytes at core `c`'s PC has been fetched (R179): the state on which it has its effect. -/
abbrev taken (s : State) (c : CoreId) (len : Nat) : State := fetched s c (len == 4)

/-- The core executes the instruction of `len` bytes at its PC now (R163, R183, R198, R199): it runs, no chain group is open, no entry is due and
the fetch is served. -/
def Ready (s : State) (c : CoreId) (len : Nat) : Prop :=
  canRun s c = true ∧ openGroup s c = [] ∧ entryDue s c = false ∧ (fetchGo s c (len == 4)).1 = .ok

/-- The next `n` bytes from the PC are in core `c`'s instruction cache and may be fetched (R179), so that fetching them reads no memory. -/
def Cached (s : State) (c : CoreId) (n : Nat) : Prop :=
  detCore s c = false ∧ ∀ i, i < n →
    let a := ((core s c).r.pc.toNat + i) % 2 ^ 40
    accCheck s c .fetch a = 0 ∧ a / 64 ∈ (core s c).icache

/-- Nothing outside core `c` differs. -/
def OnlyCore (s t : State) (c : CoreId) : Prop := t = modCore s c fun _ => core t c

/-- An instruction retired on core `c` and went on at `pc` (R163, Table 6.10): nothing outside the core differs, and in it only the
registers and the retired count. -/
def Retires (s t : State) (c : CoreId) (pc : Addr) : Prop :=
  OnlyCore s t c ∧
  core t c = { core s c with r := (core t c).r, retired := (core s c).retired + 1 } ∧
  (core t c).r.pc = pc &&& ~~~(1 : Addr)

/-- FL keeps every bit but those of `ws` (Table 6.2). -/
def FlKeeps (fl fl' : W64) (ws : List Nat) : Prop := ∀ i, i ∉ ws → bit fl' i = bit fl i

/-- An instruction of `len` bytes retired, having written `v` to register field `rd` and at most N, Z, C and V of FL besides. -/
def WritesReg (s t : State) (c : CoreId) (len : Nat) (rd : BitVec 5) (v : W64) : Prop :=
  Retires s t c (nextPc s c len) ∧
  (core t c).r = { regSet (core s c).r rd v with fl := (core t c).r.fl, pc := (core t c).r.pc } ∧
  FlKeeps (core s c).r.fl (core t c).r.fl [0, 1, 2, 3]

/-- N and Z are those of the value (R168). -/
def NzOf (fl : W64) (v : W64) : Prop := flN fl = v.msb ∧ flZ fl = decide (v = 0)

/-- An instruction retired on core `c` with registers `r`: nothing outside the core differs, and in it besides the registers only the retired
count, caches, prefetched words, predictor and the counts of their misses. -/
def Steps (s t : State) (c : CoreId) (r : Regs) : Prop :=
  OnlyCore s t c ∧
  core t c = { core s c with
    r := r, retired := (core s c).retired + 1, icache := (core t c).icache, dcache := (core t c).dcache, ahead := (core t c).ahead, bp := (core t c).bp
    icMiss := (core t c).icMiss, dcMiss := (core t c).dcMiss, bpMiss := (core t c).bpMiss }

/-- The device address of the byte at sequencer address `a`, when VE `n` may access it now and no arbiter on the way is frozen (R153, R154, R235,
R239, R256). -/
def seqByte (s : State) (n : VeId) (w : Want) (a : Nat) : Option Nat :=
  if accCheck s (.ve n) w a ≠ 0 then none
  else
    match (execPart s n).bind fun p => partDev s p (a.testBit 38) (a % 2 ^ 38) with
    | some d => if devWaits s (coreMaster (.ve n) w) d then none else some d
    | none => none

/-- Byte `i` of an access at sequencer address `a` (R177). -/
def nthAddr (a i : Nat) : Nat := (a + i) % 2 ^ 40

/-- What is done to a core's memory accesses is only that: no error stands in memory, and no resynchronisation marks what is written
(R220, R221, R406). -/
def Plain (s : State) : Prop := Inv s ∧ s.mem.poison = [] ∧ s.mem.latent = [] ∧ s.twin.resync = none

/-- The bytes at device addresses `d` hold those that `v` gives, where two of the `n` coincide the later one's; every other byte is as it was. -/
def Stored (s t : State) (n : Nat) (d : Nat → Nat) (v : Nat → Byte) : Prop :=
  (∀ i, i < n → (∀ j, j < n → d j = d i → j ≤ i) → cellGet t.mem.cells (d i) = v i) ∧
  ∀ a, (∀ i, i < n → d i ≠ a) → cellGet t.mem.cells a = cellGet s.mem.cells a

/-! ### Floating point -/

/-- The number that a lane's bits stand for, none for an infinity or a NaN. -/
def ratOf (f : Fmt) (mode : SubMode) (x : Nat) : Option ℚ :=
  match f.val mode x with
  | .fin sg m e => some ((if sg then -1 else 1) * m * (2 : ℚ) ^ e)
  | _ => none

/-- The number `r` is the exact `v` rounded in mode `rm` to the numbers that `ys` holds (IEEE 754-2019): of the nearest for RNE and RMM, ties to
even significance and away from zero; towards zero, up or down for RTZ, RUP and RDN; and with no number strictly between `v` and it. -/
def RoundedTo (rm : Nat) (ys : ℚ → Prop) (even : Prop) (v r : ℚ) : Prop :=
  (∀ y, ys y → ¬ (v < y ∧ y < r) ∧ ¬ (r < y ∧ y < v)) ∧
  (rm = 1 → |r| ≤ |v|) ∧ (rm = 2 → v ≤ r) ∧ (rm = 3 → r ≤ v) ∧
  (rm = 0 ∨ rm = 4 → ∀ y, ys y → |r - v| ≤ |y - v| ∧ (|r - v| = |y - v| → y ≠ r → if rm = 0 then even else |v| ≤ |r|))

/-- Lane `l` holds the exact value `v` rounded once into format `f`: IX says whether it differs, and OF that it lies beyond the format (R139). -/
def Rounds (f : Fmt) (rm : Nat) (v : ℚ) (l : Lane) : Prop :=
  l.trap = false ∧
  match ratOf f .full l.bits with
  | some r => RoundedTo rm (fun y => ∃ x, ratOf f .full x = some y) (l.bits % 2 = 0) v r ∧ (l.flags.testBit 3 = true ↔ r ≠ v)
  | none => (∃ sg, l.bits = f.inf sg) ∧ l.flags.testBit 1 = true ∧ l.flags.testBit 3 = true

/-! ### Dictionary writes -/

/-- The state a dictionary access is served on: a low half of a W128 that the requester had put down is gone (R314). -/
def heard (s : State) (r : Requester) : State := { s with dict := { s.dict with half := updV s.dict.half r fun _ => none } }

/-- The requester is told that its write is done (R318). -/
def told (t : State) (r : Requester) : State := answerWrite t r 0 0 .done

/-- An access of requester `r` is served as it arrives (R302, R317, R386): the part runs, a host's link is up, its function enabled and no word held,
no earlier access waits and no write of the requester is held, and the supervisor has not been halted. -/
def Heeds (s : State) (r : Requester) : Prop :=
  dead s = false ∧ waits s r = false ∧ s.dict.waiting = [] ∧ (∀ h : r.val < 4, s.ports[r.val].link = 2 ∧ takesTlps s.ports[r.val] = true ∧ s.ports[r.val].rx = []) ∧
  (r = 5 → s.ls.state ≠ 2)

/-- A write of requester `r` to `ix`:`sub` passes the checks 1 to 7 of R452 with value `v`. -/
def Serves (s : State) (r : Requester) (ix sub : Nat) (a : DAcc) (v : Nat) : Prop :=
  Heeds s r ∧ headCode s r ix sub true = none ∧ v = a.val.toNat % 2 ^ (8 * a.bytes) ∧
  ∃ e, entryAt s r ix sub = some e ∧ widthOk r e.ty a.bytes a.off = true ∧ (e.ty = .w128 → a.bytes = 16) ∧ v &&& e.rsv = 0 ∧
    v < 2 ^ (8 * e.ty.bytes) ∧ e.ok v = true

/-- Command `i` is a write that has effect `f` and is then answered as done; a primary first forwards a twin-mode partition's entry (R399). -/
def Completes (i : Instr) (s : State) (r : Requester) (ix sub v : Nat) (f : State → State) : Prop :=
  ∃ e, entryAt s r ix sub = some e ∧ exec i s = .next (told (forwardSingle (f (heard s r)) ix sub v e) r)

/-- Command `i` is a write refused with an abort code, without any other effect (R318). -/
def Refuses (i : Instr) (s : State) (r : Requester) (ix sub code : Nat) : Prop :=
  exec i s = .next (dictRefuse (heard s r) r ix sub true code)

end Sys2Proof.Machine
end

