-- ==== Sys2Proof/Certificates/Slice0/Obligations.lean ====
section
/-!
DEFINITION. What the provers are asked: one proposition per obligation, in the terms of Sys2Proof/Safety.lean.
-/

open Sys2Proof hiding core
open Sys2Proof.Machine

/-! ### The block: its queue, its reset and what every step keeps -/

/-- A step with a command at the front of the queue is that command's effect on the state with the queue's rest; the commands' own effects leave the
queue alone. -/
def Obligations.StepRunsFront : Prop :=
  (∀ (c : Instr) (s : State) (q : List Instr), s.pending = c :: q → step s = exec c { s with pending := q }) ∧
  (∀ (c : Instr) (s t : State), exec c s = .next t → t.pending = s.pending)

/-- R343, Table 6.10, R260, R209, R215, R216, the model's tick (log 4): with an empty queue one nanosecond passes. The acknowledgements that bridges wait for come back (log 103),
and recovery microcode ends (log 20): a restart of the firmware, the lockstep pair's and a paired engine's. Where nothing else waits (logs 90, 101), every die's counter gains 1, a
sequencer whose clock runs gains the cycles its frequency gives, with the remainder kept, FREEZE_NS counts in the freeze, and nothing else changes. A dead device does not move. -/
def Obligations.StepIdle : Prop :=
  ∀ s : State, s.pending = [] →
    (dead s = true → step s = .next s) ∧
    (dead s = false →
      let u := recoveryEnd (restartEnd (ackBridges s))
      (∀ i : Fin 8, u.fab.bridges[i] = { s.fab.bridges[i] with kept := [] }) ∧
      (restarting s = true → s.ls.state ≠ 2 → u.sv = { s.sv with st := .running } ∧ u.ls.state = s.ls.state) ∧
      (s.sv.st = .recovery → s.ls.state = 1 → u.sv = { s.sv with st := .running } ∧ u.ls = { s.ls with state := 0 }) ∧
      (∀ n : VeId, s.seq[n].st = .recovery → s.seq[n].back ≠ .unbound → 5 < s.boot.step → clockRuns s (clusterOfVe n) = true →
        u.seq[n] = { s.seq[n] with st := s.seq[n].back, back := .unbound }) ∧
      ((∀ i : Fin 8, s.fab.bridges[i].kept = []) → (∀ n : VeId, s.seq[n].st = .recovery → s.seq[n].back = .unbound) → restarting s = false →
        (s.sv.st = .recovery → s.ls.state ≠ 1) → u = s) ∧
      (Settled u → ∃ t, step s = .next t ∧
        t = { u with ev := t.ev, seq := t.seq, clusters := t.clusters, fz := t.fz } ∧
        t.ev = { u.ev with time := t.ev.time } ∧ (∀ d : Fin 4, t.ev.time[d] = u.ev.time[d] + 1) ∧
        (∀ n : VeId,
          let k := u.clusters[clusterOfVe n]
          t.seq[n] = { u.seq[n] with
            cycles := u.seq[n].cycles + (if clockRuns u (clusterOfVe n) then BitVec.ofNat 64 ((k.frac + k.freq) / 1000) else 0) }) ∧
        (∀ c : ClusterId, t.clusters[c] = { u.clusters[c] with
          frac := if clockRuns u c then (u.clusters[c].frac + u.clusters[c].freq) % 1000 else u.clusters[c].frac }) ∧
        t.fz = { u.fz with ns := if s.fz.state = 2 then u.fz.ns + 1 else u.fz.ns }))

/-- R246, R225, R296, Table 11.1: every command completes in every state: none faults and none is refused. One that no sender can form (a fragment of more than
eight beats, a packet over the link's limits, data of another length than the command says) has no effect: the model's choice, log 84. -/
def Obligations.WellFormedCompletes : Prop :=
  ∀ (c : Instr) (s : State),
    (∃ t, exec c s = .next t) ∧
    (c.wf = false → exec c s = .next s)

/-- R430, R393, R376, R386, R389, R309, R425, R426, R260, R239, R396, R406, R303, R301, R302: where the commands that faults, fences, the boot flash, the Sundov link and the stream entries bring complete, each with the effect that is its own: a lost
PLL reads unlocked and is counted; a fenced die, stack, bank, link, CRC unit, VE, port or partition is fenced; a mismatch is counted; the recovery boot goes on and a flash write ends; a frame with the expected SEQ is taken; a resync whose pass
failed ends; a read of an out entry brings its block's next word; a word for an entry in discard is counted; a held word out of time leaves the buffer. -/
def Obligations.CommandsTakeEffect : Prop :=
  (∀ s : State, dead s = false →
    (∀ (i : Fin 26) (sunk : Sunk), bit s.boot.pllLock i.val = true →
      ∃ t, exec (.pllLossOfLock ⟨.domain i, sunk⟩) s = .next t ∧ bit t.boot.pllLock i.val = false ∧ t.boot.pllLosses = satInc s.boot.pllLosses) ∧
    (∀ (d : DieId) (sunk : Sunk), d ≠ 0 → ∃ t, exec (.dieFence ⟨d, sunk⟩) s = .next t ∧ bit t.dieFenced d.val = true) ∧
    (∀ sunk : Sunk, bit s.dieFenced 0 = false → ∃ t, exec (.dieFence ⟨0, sunk⟩) s = .next t ∧ t.boot.lost = true) ∧
    (∀ (h : PortId) (sunk : Fin 33), ∃ t, exec (.streamPathFault ⟨h, sunk⟩) s = .next t ∧ t.ports[h].fenced = true) ∧
    (s.ls.state = 0 → s.sv.st = .running → ∃ t, exec .lockstepMismatch s = .next t ∧ t.ls.mismatches = satInc s.ls.mismatches) ∧
    (∀ (pair : Fin 32) (kind : BitVec 2) (slot : Fin 4096) (sunk : Sunk) (n m : VeId) (p : PartId), n.val = 2 * pair.val → m.val = 2 * pair.val + 1 →
      execPart s n = some p → clockRuns s (clusterOfVe n) = true → s.seq[n].st ≠ .recovery → s.eng[n].fenced = 0 → s.eng[m].fenced = 0 → s.parts[p].cfg.paired = true → servesRun s p n = true →
      ∃ t, exec (.pairedMismatch pair kind slot sunk) s = .next t ∧ t.eng[n].pairMismatches = satInc s.eng[n].pairMismatches) ∧
    (∀ size got, s.boot.incoming = some (0, size, got) → s.boot.state = 7 → s.boot.recDone = true → s.i3c.unread = false →
      ∃ t, exec .recoveryBootContinue s = .next t ∧ t.boot.step = 5 ∧ t.boot.state = 3) ∧
    (∀ k failed, s.boot.flashBusy = some k → ∃ t, exec (.flashSlotWriteDone failed) s = .next t ∧ t.boot.flashBusy = none ∧ t.boot.incoming = none) ∧
    (∀ r, s.twin.state = 2 → s.twin.resync = some r → ∃ t, exec (.resyncPassEnd true) s = .next t ∧ t.twin.resync = none ∧ t.twin.state = 4) ∧
    (∀ (h : PortId) (x : RxItem) (r : List RxItem), frozen s = false → s.ports[h].rx = x :: r → ∃ t, exec (.fifoHoldTimeout h) s = .next t ∧ t.ports[h].rx = [])) ∧
  (∀ (s : State) (r : Requester) (a : DAcc) (sunk : Fin 33) (all : Sunk),
    let does (ix sub : Nat) (i : Instr) (P : State → Prop) : Prop := Serves s r ix sub a 1 → ∃ t, exec i s = .next t ∧ P t
    (∀ k : StackId, does (0x4010 + k.val) 0x08 (.stackFence r k a) fun t => t.stk[k].fenced = true) ∧
    (∀ b : BankId, does (0x5000 + b.val) 0x09 (.bankFence r b a) fun t => t.banks[b].fenced = true) ∧
    (∀ u : CrcId, does (0x8010 + u.val) 0x06 (.crcFence r u a) fun t => t.crc[u].fenced = true) ∧
    (∀ n : VeId, does (0x3000 + n.val) 0x60 (.veFence r n a all) fun t => t.eng[n].fenced ≠ 0) ∧
    (∀ h : PortId, does (0x2100 + h.val) 0x05 (.portFence r h a sunk) fun t => t.ports[h].fenced = true) ∧
    (∀ p : PartId, does (0x2000 + p.val) 0x73 (.partFence r p a) fun t => t.parts[p].fenced = true) ∧
    (does 0xA000 0x46 (.linkFence r a) fun t => bit t.fab.links 0 = true) ∧
    (s.twin.state = 5 → does 0x8100 5 (.twinPromote r a) fun t => t.twin.state = 6)) ∧
  (∀ (s : State) (f : SFrame), dead s = false → s.twin.linkUp = true → fld f.hdr 76 64 = f.payload.length → f.payload.length ≤ 256 → frameCrcOk f = true →
    fld f.hdr 127 96 = s.twin.recvSeq.toNat →
    let taken (kind : Nat) (i : Instr) : Prop := fld f.hdr 95 88 = kind → ∃ t, exec i s = .next t ∧ t.twin.recvSeq = s.twin.recvSeq + 1
    taken 1 (.heartbeat f) ∧ taken 2 (.forwardedInput f) ∧ taken 3 (.digest f) ∧ taken 4 (.ledgerCopy f) ∧ taken 5 (.progress f) ∧ taken 6 (.resyncData f) ∧
    taken 7 (.fatalNotice f)) ∧
  (∀ (s : State) (h : PortId) (p : PartId) (k : Fin 8), Heeds s (h.castLE (by decide)) → s.dict.isOpen = true → hostShut s = false → ownerOf s p = h →
    let st := s.parts[p].streams[k]
    let a : HostAddr := .bar2 (BitVec.ofNat 20 ((8 * p.val + k.val) * 4096))
    (∀ b r, 3 ≤ k.val → st.out = b :: r → b.read < b.words.length → ∃ t, exec (hostRead h a 16) s = .next t ∧ .cpl h [nth b.words b.read 0] ∈ t.outs) ∧
    (∀ data : List Byte, data.length = 16 → (k.val ≤ 2 ∨ k.val = 7) → st.discard = true →
      ∃ t, exec (hostWrite h a data) s = .next t ∧ t.parts[p].streams[k].discarded = satInc st.discarded))

/-- The canonical form of the byte stores is an invariant: every step from every state that has it, whatever command is at the front, ends in a state
that has it. -/
def Obligations.CanonicalMemoryKept : Prop :=
  ∀ s t : State, Inv s → step s = .next t → Inv t

/-- R418 and the tables' reset columns, with the model's choices where they are silent (logs 1, 3 and 13): right after a power-on reset boot step 1 is under way, the queue, memory, rings and streams are empty, no core is
bound, no bank and no VE belongs to a partition, and the configuration has the reset values that the tables give. The invariant holds. -/
def Obligations.ResetState : Prop :=
  let s := State.reset
  Inv s ∧ s.pending = [] ∧ s.mem.cells = [] ∧ s.outs = [] ∧ s.boot.step = 1 ∧ s.boot.state = 0 ∧ s.dict.isOpen = false ∧ s.dict.stageTimeout = 1000 ∧
  s.wideGib = 24 ∧ s.scrubHours = 24 ∧ s.pcUeLimit = 4 ∧ s.bankUeLimit = 4 ∧ s.fab.wdTimeout = 10000 ∧ s.fab.remap = false ∧ s.fab.links = 0 ∧
  s.i3c.dyn = none ∧ s.i3c.mwl = 256 ∧ s.i3c.mrl = 256 ∧ s.pw.limit = 900 ∧ s.pw.tjTarget = 95 ∧ s.pw.tjAlert = 105 ∧ s.pw.stackTlimit = 95 ∧
  s.pw.sleepEn = true ∧ s.pw.slotsLen = 1 ∧ s.twin.state = 0 ∧ s.fz.state = 0 ∧ s.ls.state = 0 ∧
  (∀ n : VeId, s.seq[n].st = .unbound ∧ s.seq[n].r.vl = 1 ∧ s.seq[n].intEv = 2 ∧ s.seq[n].intDb = 4 ∧ s.eng[n].queue = [] ∧ execPart s n = none) ∧
  (∀ b : BankId, s.banks[b].part = 0xFF ∧ s.banks[b].owner = 0 ∧ s.banks[b].fenced = false) ∧
  (∀ p : PartId,
    let c := s.parts[p].cfg
    c.veSet = 0 ∧ c.hbmSize = 0 ∧ c.ownerPort.toNat = p.val / 4 ∧ c.barTimeout = 100000 ∧ c.weight = 16 ∧ c.pwrCap = 0 ∧ c.msixEvq = 0xFF ∧
      c.msixLedger = 0xFF ∧ c.msixStream = 0xFF ∧ s.parts[p].imageState = 0 ∧
      ∀ k : Fin 8, s.parts[p].streams[k].depth = 1024 ∧ s.parts[p].streams[k].watermark = 256) ∧
  (∀ x : SrcId, s.ev.src[x].coalesce = !(720 ≤ x.val && x.val < 736))

/-! ### Sequencer arithmetic (spec/06) -/

/-- R167, R168: `ADD`, `ADC`, `SUB` and `SBC` in every admitted form complete with the exact sum or difference modulo 2^64; C is the carry (no
borrow for a subtraction), V says that the signed result does not fit, and nothing else changes, unless V is set under OVE.

R168: while OVE is 1, an `ADD`, `ADC`, `SUB` or `SBC` whose signed result does not fit completes first (destination and flags written) and
then enters vector 6 with the next instruction's address saved and its own address as DETAIL. -/
def Obligations.SumsAndOverflow : Prop :=
  (
    ∀ (s : State) (c : CoreId),
      let r := (core s c).r
      let fits (z : Int) : Prop := -(2 ^ 63) ≤ z ∧ z < 2 ^ 63
      let done (i : Instr) (x : AluOps) (v : W64) (carry : Prop) (z : Int) : Prop :=
        Ready s c x.len → x.ok = true → (fits z ∨ flOve r.fl = false) →
          ∃ t, exec i s = .next t ∧ WritesReg (taken s c x.len) t c x.len x.rd v ∧ NzOf (core t c).r.fl v ∧
            (flC (core t c).r.fl = true ↔ carry) ∧ (flV (core t c).r.fl = true ↔ ¬ fits z)
      (∀ f, let x := addOps r 0x0 f
        done (.add c f) x (x.a + x.b) (2 ^ 64 ≤ x.a.toNat + x.b.toNat) (x.a.toInt + x.b.toInt)) ∧
      (∀ f, let x := addOps r 0x2 f
        done (.sub c f) x (x.a - x.b) (x.b.toNat ≤ x.a.toNat) (x.a.toInt - x.b.toInt)) ∧
      (∀ f, let x := aluOps r 0x1 f
        let k := (flC r.fl).toNat
        done (.adc c f) x (x.a + x.b + BitVec.ofNat 64 k) (2 ^ 64 ≤ x.a.toNat + x.b.toNat + k) (x.a.toInt + x.b.toInt + k)) ∧
      (∀ f, let x := aluOps r 0x3 f
        let k := 1 - (flC r.fl).toNat
        done (.sbc c f) x (x.a - x.b - BitVec.ofNat 64 k) (x.b.toNat + k ≤ x.a.toNat) (x.a.toInt - x.b.toInt - k))) ∧
  (
    ∀ (s : State) (c : CoreId), flOve (core s c).r.fl = true →
      let r := (core s c).r
      let traps (i : Instr) (x : AluOps) (v : W64) (z : Int) : Prop :=
        Ready s c x.len → x.ok = true → ¬ (-(2 ^ 63) ≤ z ∧ z < 2 ^ 63) →
          ∃ t, WritesReg (taken s c x.len) t c x.len x.rd v ∧ flV (core t c).r.fl = true ∧
            exec i s = .next (enter t c 6 0 0 (r.pc.setWidth 64) (nextPc s c x.len))
      (∀ f, let x := addOps r 0x0 f; traps (.add c f) x (x.a + x.b) (x.a.toInt + x.b.toInt)) ∧
      (∀ f, let x := addOps r 0x2 f; traps (.sub c f) x (x.a - x.b) (x.a.toInt - x.b.toInt)) ∧
      (∀ f, let x := aluOps r 0x1 f
        let k := (flC r.fl).toNat
        traps (.adc c f) x (x.a + x.b + BitVec.ofNat 64 k) (x.a.toInt + x.b.toInt + k)) ∧
      (∀ f, let x := aluOps r 0x3 f
        let k := 1 - (flC r.fl).toNat
        traps (.sbc c f) x (x.a - x.b - BitVec.ofNat 64 k) (x.a.toInt - x.b.toInt - k)))

/-- R167, R168: `AND`, `OR` and `XOR` complete in every admitted form with the bitwise result; N and Z follow it, C and V are unchanged.

R167, R168: `SHL`, `SHR` and `SAR` complete in every admitted form, the amount taken modulo 64; N and Z follow the result, C is the last
bit shifted out and is unchanged for amount 0, V is unchanged.

R167, R168: `CMP` sets the flags of a subtraction and writes no register; `MOV` and `MOVK` write their register and no flag, `MOVK` only the
halfword that HW names. -/
def Obligations.AluResults : Prop :=
  (
    ∀ (s : State) (c : CoreId) (f : AluForm),
      let done (i : Instr) (x : AluOps) (v : W64) : Prop :=
        Ready s c x.len → x.ok = true → ∃ t, exec i s = .next t ∧ WritesReg (taken s c x.len) t c x.len x.rd v ∧ NzOf (core t c).r.fl v ∧
          FlKeeps (core s c).r.fl (core t c).r.fl [2, 3]
      let x4 := aluOps (core s c).r 0x4 f
      let x5 := aluOps (core s c).r 0x5 f
      let x6 := aluOps (core s c).r 0x6 f
      done (.and c f) x4 (x4.a &&& x4.b) ∧ done (.or c f) x5 (x5.a ||| x5.b) ∧ done (.xor c f) x6 (x6.a ^^^ x6.b)) ∧
  (
    ∀ (s : State) (c : CoreId) (f : ShForm),
      let done (i : Instr) (x : AluOps) (v : W64) (out : Bool) : Prop :=
        x.b.toNat < 64 ∧
        (Ready s c x.len → x.ok = true → ∃ t, exec i s = .next t ∧ WritesReg (taken s c x.len) t c x.len x.rd v ∧ NzOf (core t c).r.fl v ∧
          FlKeeps (core s c).r.fl (core t c).r.fl [1, 2, 3] ∧
          (flC (core t c).r.fl = if x.b = 0 then flC (core s c).r.fl else out))
      let x7 := shOps (core s c).r 0x7 f
      let x8 := shOps (core s c).r 0x8 f
      let x9 := shOps (core s c).r 0x9 f
      done (.shl c f) x7 (x7.a <<< x7.b.toNat) (bit x7.a (64 - x7.b.toNat)) ∧
      done (.shr c f) x8 (x8.a >>> x8.b.toNat) (bit x8.a (x8.b.toNat - 1)) ∧
      done (.sar c f) x9 (x9.a.sshiftRight x9.b.toNat) (bit x9.a (x9.b.toNat - 1))) ∧
  (
    ∀ (s : State) (c : CoreId),
      let r := (core s c).r
      (∀ f, let x := addOps r 0xA f
        Ready s c x.len → (x.ok && cmpOk f) = true → ∃ t, exec (.cmp c f) s = .next t ∧ Retires (taken s c x.len) t c (nextPc s c x.len) ∧
          (core t c).r = { r with fl := (core t c).r.fl, pc := (core t c).r.pc } ∧
          FlKeeps r.fl (core t c).r.fl [0, 1, 2, 3] ∧ NzOf (core t c).r.fl (x.a - x.b) ∧
          (flC (core t c).r.fl = true ↔ x.b.toNat ≤ x.a.toNat) ∧
          (flV (core t c).r.fl = true ↔ x.a.toInt - x.b.toInt < -(2 ^ 63) ∨ 2 ^ 63 ≤ x.a.toInt - x.b.toInt)) ∧
      (∀ f, let x := addOps r 0xB f
        Ready s c x.len → (x.ok && movOk f) = true → ∃ t, exec (.mov c f) s = .next t ∧ WritesReg (taken s c x.len) t c x.len x.rd x.b ∧ (core t c).r.fl = r.fl) ∧
      (∀ (rd : BitVec 5) (hw : BitVec 2) (imm : BitVec 16), Ready s c 4 → ∃ t v, exec (.movk c rd hw 0 imm) s = .next t ∧
        WritesReg (taken s c 4) t c 4 rd v ∧ (core t c).r.fl = r.fl ∧
        ∀ i, i < 64 → bit v i = if i / 16 = hw.toNat then bit imm (i % 16) else bit (regGet r rd) i))

/-- R170, R171: one `MSTEP` and one `DSTEP`, on any registers. `MSTEP` adds rb to rd when bit 0 of ra is 1 and moves the pair rd:ra one place
right. `DSTEP` moves it one place left, subtracts rb from the upper part when it fits and then sets bit 0 of ra, its statements in order; a
zero divisor under DZE enters vector 7 at the instruction itself, without effect. No flag changes. -/
def Obligations.StepResults : Prop :=
  ∀ (s : State) (c : CoreId) (rd ra rb : BitVec 5), Ready s c 4 →
    let r := (core s c).r
    let d := (regGet r rd).toNat
    let a := (regGet r ra).toNat
    let b := (regGet r rb).toNat
    (∃ t lo hi, exec (.mstep c rd ra rb 0) s = .next t ∧ Retires (taken s c 4) t c (nextPc s c 4) ∧
      (core t c).r = { regSet (regSet r ra lo) rd hi with pc := (core t c).r.pc } ∧
      hi.toNat * 2 ^ 64 + lo.toNat = ((d + a % 2 * b) * 2 ^ 64 + a) / 2) ∧
    (¬ (b = 0 ∧ flDze r.fl = true) →
      let r1 := regSet r ra (regGet r ra <<< 1)
      let t1 := 2 * d + a / 2 ^ 63
      let b1 := (regGet r1 rb).toNat
      let r2 := regSet r1 rd (BitVec.ofNat 64 (if b1 ≤ t1 then t1 - b1 else t1))
      let r3 := if b1 ≤ t1 then regSet r2 ra (regGet r2 ra ||| 1) else r2
      ∃ t, exec (.dstep c rd ra rb 0) s = .next t ∧ Retires (taken s c 4) t c (nextPc s c 4) ∧ (core t c).r = { r3 with pc := (core t c).r.pc }) ∧
    (b = 0 → flDze r.fl = true → exec (.dstep c rd ra rb 0) s = .next (enter (taken s c 4) c 7 0 0 (r.pc.setWidth 64) r.pc))

/-- R170: 64 consecutive `MSTEP`s at the front of the queue, in the instruction cache, from rd = 0 on three different registers, leave the unsigned 128-bit product of rb and
the multiplier in rd (high half) and ra (low half). -/
def Obligations.MultiplySequence : Prop :=
  ∀ (s : State) (c : CoreId) (rd ra rb : BitVec 5) (q : List Instr), Ready s c 4 → Cached s c 256 → rd ≠ ra → rd ≠ rb → ra ≠ rb →
    regGet (core s c).r rd = 0 → s.pending = List.replicate 64 (.mstep c rd ra rb 0) ++ q →
      ∃ t, Host.Core.run Sys2Proof.core 64 s = .next t ∧ t.pending = q ∧
        (regGet (core t c).r rd).toNat * 2 ^ 64 + (regGet (core t c).r ra).toNat =
          (regGet (core s c).r rb).toNat * (regGet (core s c).r ra).toNat

/-- R171: 64 consecutive `DSTEP`s at the front of the queue, in the instruction cache, from rd = 0 on three different registers, leave the quotient in ra and the remainder
in rd; a zero divisor with DZE = 0 leaves ra all ones and rd equal to the dividend. -/
def Obligations.DivideSequence : Prop :=
  ∀ (s : State) (c : CoreId) (rd ra rb : BitVec 5) (q : List Instr), Ready s c 4 → Cached s c 256 → rd ≠ ra → rd ≠ rb → ra ≠ rb →
    regGet (core s c).r rd = 0 → s.pending = List.replicate 64 (.dstep c rd ra rb 0) ++ q →
    let n := (regGet (core s c).r ra).toNat
    let d := (regGet (core s c).r rb).toNat
    (d ≠ 0 ∨ flDze (core s c).r.fl = false) →
      ∃ t, Host.Core.run Sys2Proof.core 64 s = .next t ∧ t.pending = q ∧
        (regGet (core t c).r ra).toNat = (if d = 0 then 2 ^ 64 - 1 else n / d) ∧
        (regGet (core t c).r rd).toNat = (if d = 0 then n else n % d)

/-- R166: an ALU form whose reserved or fixed field is not zero is illegal: it has no effect but the entry to vector 1 with CODE 0x01, its
encoding as DETAIL and its own address saved. The fields are [6:0] of C0, [11:6] of the immediate of a C1 shift, [18:16] of C2, RD of a `CMP` and
RA of a `MOV` in C0 and C1. -/
def Obligations.ReservedFieldsIllegal : Prop :=
  ∀ (s : State) (c : CoreId) (rd ra rb : BitVec 5), Ready s c 4 →
    let bad (i : Instr) (enc : W32) : Prop := exec i s = .next (enter (taken s c 4) c 1 1 0 (enc.setWidth 64) (core s c).r.pc)
    (∀ rsv : BitVec 7, rsv ≠ 0 →
      let enc (op : Nat) : W32 := word32 [(0x30, 26), (rd.toNat, 21), (ra.toNat, 16), (rb.toNat, 11), (op, 7), (rsv.toNat, 0)]
      let f : AluForm := .c0 rd ra rb rsv
      bad (.add c (.alu f)) (enc 0x0) ∧ bad (.adc c f) (enc 0x1) ∧ bad (.sub c (.alu f)) (enc 0x2) ∧ bad (.sbc c f) (enc 0x3) ∧
      bad (.and c f) (enc 0x4) ∧ bad (.or c f) (enc 0x5) ∧ bad (.xor c f) (enc 0x6) ∧ bad (.shl c (.alu f)) (enc 0x7) ∧
      bad (.shr c (.alu f)) (enc 0x8) ∧ bad (.sar c (.alu f)) (enc 0x9) ∧ bad (.cmp c (.alu f)) (enc 0xA) ∧
      bad (.mov c (.alu f)) (enc 0xB) ∧ bad (.mstep c rd ra rb rsv) (enc 0xC) ∧ bad (.dstep c rd ra rb rsv) (enc 0xD)) ∧
    (∀ imm : BitVec 12,
      let enc (op : Nat) : W32 := word32 [(0x31, 26), (rd.toNat, 21), (ra.toNat, 16), (op, 12), (imm.toNat, 0)]
      let f : AluForm := .c1 rd ra imm
      (64 ≤ imm.toNat → bad (.shl c (.alu f)) (enc 0x7) ∧ bad (.shr c (.alu f)) (enc 0x8) ∧ bad (.sar c (.alu f)) (enc 0x9)) ∧
      (rd ≠ 0 → bad (.cmp c (.alu f)) (enc 0xA)) ∧ (ra ≠ 0 → bad (.mov c (.alu f)) (enc 0xB))) ∧
    (let enc (op : Nat) : W32 := word32 [(0x30, 26), (rd.toNat, 21), (ra.toNat, 16), (rb.toNat, 11), (op, 7), (0, 0)]
      let f : AluForm := .c0 rd ra rb 0
      (rd ≠ 0 → bad (.cmp c (.alu f)) (enc 0xA)) ∧ (ra ≠ 0 → bad (.mov c (.alu f)) (enc 0xB))) ∧
    (∀ (hw : BitVec 2) (rsv : BitVec 3) (imm : BitVec 16), rsv ≠ 0 →
      bad (.movk c rd hw rsv imm) (word32 [(0x32, 26), (rd.toNat, 21), (hw.toNat, 19), (rsv.toNat, 16), (imm.toNat, 0)]))

/-! ### Sequencer loads, stores and control flow (spec/06) -/

/-- R177, R178, R249: `LD` in every admitted form on a VE whose queue is empty, from memory without errors that its caches do not hold and whose arbiters are not frozen, completes
with the bytes of its access, least significant first, zero- or sign-extended into its register (a whole register for 128 bits), and changes nothing else but the arbiters and
bridges of its way. An access that fails its checks enters vector 3 with the kind, the part and the address, and has no other effect. In the register block it gets the entry's
value in 64 or 128 bits, and enters vector 3 with kind 0x0B for another width, a misaligned address or no entry there; DB_VALUE and the head of the ring, whose read does more, are
O19's and O51's. The supervisor's `LD` gets the bytes of boot ROM, working RAM or HBM. -/
def Obligations.LoadResults : Prop :=
  (∀ (s : State) (n : VeId) (f : MemForm),
    let c := CoreId.ve n
    let r := (core s c).r
    let x := memOps r false f
    let w := 2 ^ x.sz
    let u := taken s c x.len
    let block := (x.addr - 2 ^ 39) / 16
    Ready s c x.len → x.ok = true →
      (∀ v : W128, s.eng[n].queue = [] → s.mem.poison = [] → s.mem.latent = [] → v.toNat < 2 ^ (8 * w) →
        (∀ i, i < w → ∃ d, seqByte u n .read (nthAddr x.addr i) = some d ∧ byteOf v i = cellGet s.mem.cells d) →
        (∀ i, i < w → ∀ l ∈ (core s c).dcache, l.line ≠ nthAddr x.addr i / 64) →
          ∃ g t, exec (.ld c f) s = .next t ∧ WayKeeps u g ∧
            Steps g t c { loadReg r x v with pc := nextPc s c x.len &&& ~~~(1 : Addr) }) ∧
      (∀ i k a, x.addr < 2 ^ 39 → partsBad u c .read (accParts x.addr w) = some (i, k, a) →
        exec (.ld c f) s = .next (dataFault u c k false x.sz (i == 1) a)) ∧
      (∀ b v, 2 ^ 39 ≤ x.addr → x.addr % 16 = 0 → w = 8 ∨ w = 16 → block < 256 → veEntry u n block = some (b, v) → block ≠ 0x23 → (block = 0x26 → w = 8) →
        ∃ t, exec (.ld c f) s = .next t ∧
          Steps u t c { loadReg r x (if w = 8 then (v.setWidth 64).setWidth 128 else v) with pc := nextPc s c x.len &&& ~~~(1 : Addr) }) ∧
      (2 ^ 39 ≤ x.addr → (x.addr % 16 ≠ 0 ∨ w < 8 ∨ 256 ≤ block ∨ veEntry u n block = none) →
        exec (.ld c f) s = .next (dataFault u c 0x0B false x.sz false x.addr))) ∧
  (∀ (s : State) (f : MemForm),
    let c := CoreId.sv
    let r := (core s c).r
    let x := memOps r false f
    let w := 2 ^ x.sz
    let u := taken s c x.len
    let a := x.addr / 16 * 16
    let gets (v : W128) : Prop := ∃ g t, exec (.ld c f) s = .next t ∧ WayKeeps u g ∧
      Steps g t c { loadReg r x v with pc := nextPc s c x.len &&& ~~~(1 : Addr) }
    Ready s c x.len → x.ok = true → x.addr % 16 + w ≤ 16 → s.fab.mgtArb.frozen = false → (∀ l ∈ (core s c).dcache, l.line ≠ x.addr / 64) →
      let low (z : W128) : W128 := BitVec.ofNat 128 (z.toNat / 2 ^ (8 * (x.addr % 16)) % 2 ^ (8 * w))
      (x.addr < 0x100000 → gets (low (ramWord s (!lowRam s a) a))) ∧
      (0x80F0000000 ≤ x.addr → x.addr < 0x80F0100000 → x.addr % 16 = 0 → w = 8 ∨ w = 16 → gets (low (ramWord s false (a - 0x80F0000000)))) ∧
      (s.mem.poison = [] → s.mem.latent = [] → hbmLo ≤ x.addr → x.addr < hbmHi → accCheck u c .read x.addr = 0 → devWaits u .supervisor x.addr = false →
        gets (low (wordGet s.mem (x.addr / 16)))))

/-- R177, R178, R44, R249: `ST` in every admitted form on a VE whose queue is empty, to memory without errors outside a resynchronisation whose arbiters are not frozen, completes with
the low bytes of its register stored, least significant first, at exactly the addresses of its access: every other byte of memory, every register but the PC and every other unit but
the arbiters and bridges of its way are as after the fetch. A store to design memory during evaluation is queued with its logical VE, address, bytes and data: no byte changes but those
of its entry in the JOURNAL section (whose two words no rule lays out, log 83). An access that fails its checks enters vector 3 and stores nothing. In the register block VFLAGS_ACC,
VCTL, VF_SUBST and VF_SUBST_EN take their value at their one width, and any other store there enters vector 3 with kind 0x0B. The supervisor stores to working RAM and HBM, not to boot
ROM, and to the FREEZE of an arbiter (its address is the implementation's, log 28). -/
def Obligations.StoreResults : Prop :=
  (∀ (s : State) (n : VeId) (f : MemForm),
    let c := CoreId.ve n
    let r := (core s c).r
    let x := memOps r true f
    let w := 2 ^ x.sz
    let v : W128 := if x.sz = 4 then xGet r x.rt else (regGet r x.rt).setWidth 128
    let u := taken s c x.len
    let next := nextPc s c x.len &&& ~~~(1 : Addr)
    Ready s c x.len → x.ok = true →
      (Plain s → s.eng[n].queue = [] →
        (∀ i, i < w → storeQueued s c (nthAddr x.addr i / 16 * 16) = false) →
        ∀ d : Nat → Nat, (∀ i, i < w → seqByte u n .write (nthAddr x.addr i) = some (d i)) →
          ∃ g t, exec (.st c f) s = .next t ∧ WayKeeps u g ∧ Stored s t w d (byteOf v) ∧
            (core t c).r = { r with pc := next } ∧
            t = { modCore g c (fun _ => core t c) with mem := t.mem }) ∧
      (∀ p ru, execPart s n = some p → s.parts[p].run = some ru → s.eng[n].queue = [] → x.addr % 16 + w ≤ 16 →
        Plain s → storeQueued s c (x.addr / 16 * 16) = true → seqByte u n .write x.addr ≠ none →
        (∀ im y k d, s.parts[p].image = some im → journalOf im = some y → partDev s p (y.space == 1) (y.offset + 32 * ru.dmq.length + 16 * k) = some d →
          (∀ b, unitOf s d = some (.bank b) → ownerCheck s.banks[b] (veCode s n) ≠ 9) ∧ devWaits s (.engine n 5) d = false) →
          ∃ t ru', exec (.st c f) s = .next t ∧ t.parts[p].run = some { ru with dmq := ru.dmq ++ [ru'] } ∧
            ru'.lve = s.parts[p].bind.idxOf n ∧ ru'.addr = x.addr % 2 ^ 38 / 16 * 16 ∧ ru'.mask = byteMask (x.addr % 16) w ∧
            (∀ i, i < w → byteOf ru'.data (x.addr % 16 + i) = byteOf v i) ∧ (core t c).r = { r with pc := next } ∧
            ∀ a, cellGet t.mem.cells a ≠ cellGet s.mem.cells a →
              ∃ im y k d, s.parts[p].image = some im ∧ journalOf im = some y ∧ ru.dmq.length < im.hdr.dmwMax ∧ k < 2 ∧
                partDev s p (y.space == 1) (y.offset + 32 * ru.dmq.length + 16 * k) = some d ∧ a / 16 = d / 16) ∧
      (∀ i k a, x.addr < 2 ^ 39 → partsBad u c .write (accParts x.addr w) = some (i, k, a) →
        exec (.st c f) s = .next (dataFault u c k true x.sz (i == 1) a)) ∧
      (let done (sub : Nat) (e : Engine) : Prop := x.addr = 2 ^ 39 + 16 * sub →
        ∃ t, exec (.st c f) s = .next t ∧ t.mem = u.mem ∧ t.eng[n] = e ∧ (core t c).r = { r with pc := next }
      (w = 8 → done 0x3B { s.eng[n] with vflagsAcc := v.setWidth 16 } ∧ done 0x3C { s.eng[n] with vctl := v.setWidth 32 &&& 0x00070003 } ∧
        done 0x42 (substArm s n (v.setWidth 64)).eng[n]) ∧
      (w = 16 → done 0x41 { s.eng[n] with vfSubst := v })) ∧
      (2 ^ 39 ≤ x.addr → ¬ (w = 8 ∧ (x.addr = 2 ^ 39 + 0x3B0 ∨ x.addr = 2 ^ 39 + 0x3C0 ∨ x.addr = 2 ^ 39 + 0x420)) → ¬ (w = 16 ∧ x.addr = 2 ^ 39 + 0x410) →
        exec (.st c f) s = .next (dataFault u c 0x0B true x.sz false x.addr))) ∧
  (∀ (s : State) (f : MemForm),
    let c := CoreId.sv
    let r := (core s c).r
    let x := memOps r true f
    let w := 2 ^ x.sz
    let v : W128 := if x.sz = 4 then xGet r x.rt else (regGet r x.rt).setWidth 128
    let u := taken s c x.len
    let next := nextPc s c x.len &&& ~~~(1 : Addr)
    Ready s c x.len → x.ok = true → x.addr % 16 + w ≤ 16 → s.fab.mgtArb.frozen = false →
      (∀ o, (x.addr < 0x100000 ∧ lowRam s (x.addr / 16 * 16) = true ∧ o = x.addr) ∨
          (0x80F0000000 ≤ x.addr ∧ x.addr < 0x80F0100000 ∧ x.addr % 16 = 0 ∧ (w = 8 ∨ w = 16) ∧ o = x.addr - 0x80F0000000) → Inv s →
        ∃ t, exec (.st c f) s = .next t ∧ t.mem.cells = s.mem.cells ∧ (core t c).r = { r with pc := next } ∧
          ∀ b, cellGet t.mem.ram b = if o ≤ b ∧ b < o + w then byteOf v (b - o) else cellGet s.mem.ram b) ∧
      (x.addr < 0x100000 → lowRam s (x.addr / 16 * 16) = false → exec (.st c f) s = .next (dataFault u c 0x0C true x.sz false x.addr)) ∧
      (∀ i, 0x8000000000 ≤ x.addr → ¬ (0x80F0000000 ≤ x.addr ∧ x.addr < 0x80F0100000) → x.addr % 16 = 0 → w = 8 ∨ w = 16 → Config.freezeReg x.addr = some i →
        ∃ t, exec (.st c f) s = .next t ∧ t.fab = (setFreeze (portTake u .supervisor) i (bit v 0)).fab ∧ t.mem = s.mem) ∧
      (Plain s → hbmLo ≤ x.addr → x.addr < hbmHi → accCheck u c .write x.addr = 0 → devWaits u .supervisor x.addr = false →
        ∃ t, exec (.st c f) s = .next t ∧ Stored s t w (fun i => x.addr + i) (byteOf v) ∧ (core t c).r = { r with pc := next }))

/-- R163, R164, Table 6.7: `B cond` goes to its target when the condition holds and to the next instruction otherwise, `B rs` to the address in rs
with bit 0 ignored; no register and no flag changes. COND 0xF is illegal.

R155, R160, R161: `CALL` with stack room and fewer than 15 windows resident lowers G7 by 144, remembers the slot of the caller's window, goes on in
the next window with the return address in its RA, and the caller's P registers are the callee's A registers. `RET` with its caller's window
resident goes back. Without stack room `CALL` enters vector 4, and without a caller `RET` is a window exception with CODE 3.

R162: a `CALL` with 15 windows resident first spills the oldest to its slot, 144 bytes in the layout of Table 6.3, and a `RET` whose caller's window is not resident fills it from the
slot that SPILLTOP names: where those bytes can be stored or read, the moved window is counted and no other byte of memory changes.

R160, R161: a `CALL` followed by `RET` on the same core comes back to the instruction after the call with G7, the window and every register field as
they were. -/
def Obligations.BranchesAndCalls : Prop :=
  (
    ∀ (s : State) (c : CoreId),
      let r := (core s c).r
      let n := flN r.fl
      let z := flZ r.fl
      let cy := flC r.fl
      let v := flV r.fl
      let table : List Bool :=
        [true, z, !z, n != v, n == v, z || n != v, !z && n == v, !cy, cy, !cy || z, cy && !z, n, !n, v, !v]
      (∀ (f : BrForm) (h : (brOps f).cond < table.length),
        let target : Addr := if table[(brOps f).cond] then relPc r.pc (brOps f).off else r.pc + BitVec.ofNat 40 (brOps f).len
        Ready s c (brOps f).len → ∃ t, exec (.bCond c f) s = .next t ∧ Steps (taken s c (brOps f).len) t c { r with pc := target &&& ~~~(1 : Addr) }) ∧
      (∀ f : BrForm, (brOps f).cond = 15 → Ready s c (brOps f).len →
        exec (.bCond c f) s = .next (enter (taken s c (brOps f).len) c 1 1 0 ((brOps f).enc.setWidth 64) r.pc)) ∧
      (∀ rs : BitVec 5, Ready s c 4 → ∃ t, exec (.bReg c rs 0 0) s = .next t ∧
        Steps (taken s c 4) t c { r with pc := (regGet r rs).setWidth 40 &&& ~~~(1 : Addr) })) ∧
  (
    ∀ (s : State) (c : CoreId),
      let r := (core s c).r
      let g7 := r.g[(7 : Fin 8)]
      let room := g7.toNat % 16 = 0 ∧ r.slim.toNat + 144 ≤ g7.toNat
      let called (i : Instr) (target : Addr) : Prop :=
        (Ready s c 4 → room → r.resident ≠ 15 →
          let w : Fin 16 := r.cwp + 1
          ∃ t, exec i s = .next t ∧
            Steps (taken s c 4) t c { r with
              g := r.g.set 7 (g7 - 144), wslot := r.wslot.set r.cwp (g7 - 144), cwp := w, resident := r.resident + 1
              ra := r.ra.set w (r.pc + 4), pc := target &&& ~~~(1 : Addr) } ∧
            ∀ k : Fin 8, regGet (core t c).r (BitVec.ofNat 5 (8 + k.val)) = regGet r (BitVec.ofNat 5 (24 + k.val))) ∧
        (Ready s c 4 → ¬ room → exec i s = .next (enter (coreEvent (taken s c 4) c 6 (at' 32 24 1)) c 4 0 0 g7 r.pc))
      (∀ off, called (.call c off) (relPc r.pc off.toInt)) ∧
      (∀ rs, called (.callReg c rs 0 0) ((regGet r rs).setWidth 40)) ∧
      (Ready s c 2 → r.resident.val > 1 →
        ∃ t, exec (.ret c 0) s = .next t ∧
          Steps (taken s c 2) t c { r with
            g := r.g.set 7 (r.wslot[r.cwp - 1] + 144), cwp := r.cwp - 1, resident := r.resident - 1
            pc := r.ra[r.cwp] &&& ~~~(1 : Addr) }) ∧
      (Ready s c 2 → r.resident = 1 → r.spillTop = 1 → exec (.ret c 0) s = .next (windowFault (taken s c 2) c 3 0 0))) ∧
  (
    ∀ (s : State) (n : VeId) (d : Nat → Nat), Plain s → s.eng[n].queue = [] →
      let c := CoreId.ve n
      let r := (core s c).r
      let g7 := r.g[(7 : Fin 8)]
      let slot (u : State) (w : Want) (a : W64) : Prop := ∀ i, i < 144 → seqByte u n w (nthAddr (a.toNat % 2 ^ 40) i) = some (d i)
      (∀ off, Ready s c 4 → g7.toNat % 16 = 0 → r.slim.toNat + 144 ≤ g7.toNat → r.resident = 15 →
        let u := taken s c 4
        let o : Fin 16 := r.cwp - 14
        let w : Fin 16 := r.cwp + 1
        slot u .write r.wslot[o] → (∀ i, i < 144 → storeQueued s c (nthAddr (r.wslot[o].toNat % 2 ^ 40) i / 16 * 16) = false) →
          ∃ t, exec (.call c off) s = .next t ∧
            Stored s t 144 d (fun i => if i < 0x80 then byteOf (r.win[winIx o (Fin.ofNat 16 (i / 8))]) (i % 8)
              else if i < 0x88 then byteOf r.spillTop (i - 0x80) else byteOf r.ra[o] (i - 0x88)) ∧
            (core t c).spills = satInc (core u c).spills ∧
            (core t c).r = { r with
              spillTop := r.wslot[o], g := r.g.set 7 (g7 - 144), wslot := r.wslot.set r.cwp (g7 - 144), cwp := w
              ra := r.ra.set w (r.pc + 4), pc := relPc r.pc off.toInt &&& ~~~(1 : Addr) }) ∧
      (Ready s c 2 → r.resident = 1 → r.spillTop ≠ 1 →
        let u := taken s c 2
        let w : Fin 16 := r.cwp - 1
        let bytes (i k : Nat) : Nat := natOfBytes ((List.range k).map fun j => cellGet s.mem.cells (d (i + j)))
        slot u .read r.spillTop →
          ∃ t, exec (.ret c 0) s = .next t ∧ t.mem = s.mem ∧ (core t c).spills = satInc (core u c).spills ∧
            (∀ i : Fin 16, (core t c).r.win[winIx w i].toNat = bytes (8 * i.val) 8) ∧
            (∀ j : Fin 256, j.val / 16 ≠ w.val → (core t c).r.win[j] = r.win[j]) ∧
            (core t c).r = { r with
              win := (core t c).r.win, cwp := w, spillTop := BitVec.ofNat 64 (bytes 0x80 8), wslot := r.wslot.set w r.spillTop
              g := r.g.set 7 (r.spillTop + 144), ra := r.ra.set w (BitVec.ofNat 40 (bytes 0x88 8) &&& ~~~(1 : Addr))
              pc := r.ra[r.cwp] &&& ~~~(1 : Addr) })) ∧
  (
    ∀ (s : State) (c : CoreId) (off : BitVec 24) (q : List Instr), Ready s c 4 →
      let r := (core s c).r
      r.g[(7 : Fin 8)].toNat % 16 = 0 → r.slim.toNat + 144 ≤ r.g[(7 : Fin 8)].toNat → 0 < r.resident.val → r.resident ≠ 15 →
      s.pending = .call c off :: .ret c 0 :: q → (∀ t1, step s = .next t1 → Ready t1 c 2) →
        ∃ t, Host.Core.run Sys2Proof.core 2 s = .next t ∧ t.pending = q ∧
          (core t c).r.pc = (r.pc + 4) &&& ~~~(1 : Addr) ∧ (core t c).r.cwp = r.cwp ∧ (core t c).r.resident = r.resident ∧
          ∀ x : BitVec 5, regGet (core t c).r x = regGet r x)

/-- R193, R194, R196: entering vector `v` on a VE core with an aligned G7 that keeps 32 bytes above SLIM, both frame words writable and
the handler fetchable stores PC, FL, CAUSE and DETAIL below G7, lowers G7 by 32, sets LEVEL for an interrupt, and goes on at VBASE + 16v; no other
byte of memory changes. With G7 unaligned or at its limit it is a double fault with reason 1.

R193, R197, R207: `TRAP #n` below 0xFF retires and enters vector 9 with n as CODE, its own address as DETAIL and the next address saved, raising
event 8n + 7 for arguments from 0x80. `RTI` whose frame can be read, with no interrupt admitted by the FL it restores and no vector fault open,
goes back to the saved PC with the saved FL and pops the frame. -/
def Obligations.ExceptionEntryAndReturn : Prop :=
  (
    ∀ (s : State) (n : VeId) (v code qual : Nat) (detail : W64) (saved : Addr),
      let c := CoreId.ve n
      let r := (core s c).r
      let g7 := r.g[(7 : Fin 8)]
      let a := (g7.toNat - 32) % 2 ^ 40
      let t := enter s c v code qual detail saved
      (Plain s → g7.toNat % 16 = 0 → r.slim.toNat + 32 ≤ g7.toNat → g7.toNat < 2 ^ 39 → storeQueued s c a = false →
        storeQueued s c (a + 16) = false →
        ∀ d e, seqByte s n .write a = some d → seqByte s n .write (a + 16) = some e →
          accCheck s c .fetch (vectorAddr r v).toNat = 0 → (vectorAddr r v).toNat / 64 ∈ (core s c).icache → detCore s c = false →
          (vectorAddr r v).toNat / 64 ≠ a / 64 → (vectorAddr r v).toNat / 64 ≠ (a + 16) / 64 →
            wordGet t.mem (e / 16) = frameHi (causeWord v code qual) detail ∧
            (d ≠ e → wordGet t.mem (d / 16) = frameLo saved r.fl) ∧
            (∀ b, b / 16 ≠ d / 16 → b / 16 ≠ e / 16 → cellGet t.mem.cells b = cellGet s.mem.cells b) ∧
            (core t c).r = { r with
              g := r.g.set 7 (g7 - 32), pc := vectorAddr r v
              fl := if 0x11 ≤ v ∧ v ≤ 0x17 then (r.fl &&& ~~~(0xE00 : W64)) ||| at' 64 9 (v - 0x10) else r.fl }) ∧
      (g7.toNat % 16 ≠ 0 ∨ g7.toNat < r.slim.toNat + 32 → t = doubleFault s c 1 v saved (causeWord v code qual) detail)) ∧
  (
    ∀ (s : State) (c : CoreId), Ready s c 2 →
      let u := taken s c 2
      let r := (core s c).r
      (∀ arg : BitVec 8, arg ≠ 0xFF → ∃ t, Steps u t c { r with pc := nextPc s c 2 &&& ~~~(1 : Addr) } ∧
        exec (.trap c arg) s = .next (enter (if 0x80 ≤ arg.toNat then coreEvent t c 7 (arg.setWidth 32) else t) c 9 arg.toNat 0
          (r.pc.setWidth 64) (nextPc s c 2))) ∧
      (∀ lo hi s1, frameRead u c (r.g[(7 : Fin 8)].toNat % 2 ^ 40) = .ok lo hi s1 →
        let fl := flRestore (BitVec.ofNat 64 (fld lo 127 64))
        admitted s1 c fl = none → (core s1 c).openFaults = [] →
          ∃ t, exec (.rti c 0) s = .next t ∧
            Steps s1 t c { (core s1 c).r with
              fl := fl, g := (core s1 c).r.g.set 7 ((core s1 c).r.g[(7 : Fin 8)] + 32)
              pc := BitVec.ofNat 40 (fld lo 39 0) &&& ~~~(1 : Addr) }) ∧
      (∀ ad s1, frameRead u c (r.g[(7 : Fin 8)].toNat % 2 ^ 40) = .bad ad s1 →
        exec (.rti c 0) s = .next (doubleFault s1 c 4 0 r.pc 0 (BitVec.ofNat 64 ad))))

/-- R62, R164, R179, R181, R186: `NOP` and every hint only advance the PC; `WAIT` completes once the queue is empty and waits otherwise; `BARRIER` with an
empty queue arrives and parks, and one that has arrived and been released completes; `SYNC.I` and `CINV.I` empty the instruction cache, `CINV.D` the data cache, and `CINV.D ra, rb` drops the
lines that hold a byte of its range. On the supervisor `WAIT` and `BARRIER` are illegal with CODE 0x04, and `SYNC.I` lets a written REMAP take effect.

R156, R157, R158, R169, R58: the moves between registers. `MOV rd, sr` reads and `MOV sr, rs` writes the ten special registers, FL in its bits [5:0] only and SLIM
with bits [3:0] zero; the 128-bit moves copy whole registers and halves; `ADD Sn, rs` adds to BASE modulo 2^38 alone; `SETVL` sets VL to at most 65,536, and
for a length of 0 leaves VL unchanged and sets Z. -/
def Obligations.SystemAndRegisterMoves : Prop :=
  (
    ∀ (s : State) (c : CoreId), Ready s c 2 →
      let u := taken s c 2
      let r := (core s c).r
      let pc2 : Regs := { r with pc := nextPc s c 2 &&& ~~~(1 : Addr) }
      let same (t : State) : Prop := (core t c).dcache = (core s c).dcache
      (∀ arg, ∃ t, exec (.nop c arg) s = .next t ∧ Steps u t c pc2 ∧ same t) ∧
      (∀ n, c = .ve n → s.eng[n].queue = [] → ∃ t, exec (.wait c 0) s = .next t ∧ Steps u t c pc2) ∧
      (∀ n, c = .ve n → s.eng[n].queue ≠ [] → exec (.wait c 0) s = .next u) ∧
      (∀ n, c = .ve n → s.eng[n].queue = [] → (core s c).arrived = false →
        ∃ t, exec (.barrier c 0) s = .next t ∧ (core t c).st = .parked ∧ (core t c).arrived = true ∧
          (core t c).begunBarrier = true ∧ (core t c).r = r ∧ (execPart s n = none → OnlyCore u t c)) ∧
      (∀ n, c = .ve n → (core s c).arrived = true → (core s c).begunBarrier = false →
        ∃ t, exec (.barrier c 0) s = .next t ∧ (core t c).arrived = false ∧ (core t c).st = .running ∧ (core t c).r = pc2) ∧
      (c = .sv → exec (.wait c 0) s = .next (enter u c 1 4 0 ((h4 4 0).setWidth 64) r.pc) ∧
        exec (.barrier c 0) s = .next (enter u c 1 4 0 ((h4 6 0).setWidth 64) r.pc)) ∧
      (∃ t, exec (.syncI c 0) s = .next t ∧ (core t c).icache = [] ∧ (core t c).r = pc2 ∧ (core t c).dcache = (core s c).dcache ∧
        t.mem = u.mem ∧ t.fab.remap = (s.fab.remap || (c == .sv && s.fab.remapDue))) ∧
      (∃ t, exec (.cinvI c) s = .next t ∧ Steps u t c pc2 ∧ (core t c).icache = [] ∧ same t) ∧
      (∃ t, exec (.cinvD c) s = .next t ∧ Steps u t c pc2 ∧ (core t c).dcache = []) ∧
      (∀ ra rb, Ready s c 4 → ∃ t, exec (.cinvDRange c ra rb 0) s = .next t ∧
        Steps (taken s c 4) t c { r with pc := nextPc s c 4 &&& ~~~(1 : Addr) } ∧
        ∀ l, l.line < 2 ^ 34 → (l ∈ (core t c).dcache ↔
          l ∈ (core s c).dcache ∧
            ∀ i, i < (regGet r rb).toNat → ((regGet r ra).toNat + i) % 2 ^ 40 / 64 ≠ l.line))) ∧
  (
    ∀ (s : State) (c : CoreId), Ready s c 4 →
      let u := taken s c 4
      let r := (core s c).r
      let pc4 (q : Regs) : Regs := { q with pc := nextPc s c 4 &&& ~~~(1 : Addr) }
      let srs : List W64 := [r.pc.setWidth 64, r.fl, r.slim, r.vbase, r.vl, 65536, r.bc, r.bs, r.bd, (r.ra[r.cwp]).setWidth 64]
      (∀ (rd : BitVec 5) (sr : BitVec 4) (h : sr.toNat < srs.length), ∃ t, exec (.movFromSr c rd sr 0) s = .next t ∧
        Steps u t c (pc4 (regSet r rd srs[sr.toNat]))) ∧
      (∀ rs : BitVec 5,
        let v := regGet r rs
        let to' (sr : BitVec 4) (q : Regs) : Prop := ∃ t, exec (.movToSr c sr rs 0) s = .next t ∧ Steps u t c (pc4 q)
        to' 1 { r with fl := (r.fl &&& ~~~(0x3F : W64)) ||| (v &&& 0x3F) } ∧ to' 2 { r with slim := v &&& ~~~(0xF : W64) } ∧
        to' 3 { r with vbase := v } ∧ to' 6 { r with bc := v } ∧ to' 7 { r with bs := v } ∧ to' 8 { r with bd := v } ∧
        to' 9 { r with ra := r.ra.set r.cwp (v.setWidth 40 &&& ~~~(1 : Addr)) }) ∧
      (∀ xd xs : BitVec 5, xd.toNat < 28 → xs.toNat < 28 → ∃ t, exec (.movX c xd xs 0) s = .next t ∧
        Steps u t c (pc4 (xSet r xd (xGet r xs)))) ∧
      (∀ (rg : BitVec 5) (wn : BitVec 3) (h : Bool),
        let i : Fin 8 := ⟨wn.toNat, wn.isLt⟩
        let lo : Nat := if h then 64 else 0
        (∃ t, exec (.movWHalf c rg wn h false 0) s = .next t ∧
          Steps u t c (pc4 (regSet r rg ((r.w[i] >>> lo).setWidth 64)))) ∧
        (∃ t x, exec (.movWHalf c rg wn h true 0) s = .next t ∧ Steps u t c (pc4 { r with w := r.w.set i x }) ∧
          (x >>> lo).setWidth 64 = regGet r rg ∧
          (x >>> (64 - lo)).setWidth 64 = (r.w[i] >>> (64 - lo)).setWidth 64)) ∧
      (∀ (sn : BitVec 4) (rs : BitVec 5) (h : sn.toNat < 12), ∃ t x, exec (.addSn c sn rs 0) s = .next t ∧
        Steps u t c (pc4 { r with s := r.s.set sn.toNat x }) ∧
        x.toNat % 2 ^ 38 = ((r.s[sn.toNat]).toNat + (regGet r rs).toNat) % 2 ^ 38 ∧
        x.toNat / 2 ^ 38 = (r.s[sn.toNat]).toNat / 2 ^ 38) ∧
      (∀ f : VlForm, c ≠ .sv → (vlOps f).2.2.2.2 = true →
        let rd := (vlOps f).1
        let l := regGet r (vlOps f).2.1
        let v : W64 := if l.toNat < 65536 then l else 65536
        Ready s c (vlOps f).2.2.1 → ∃ t, exec (.setvl c f) s = .next t ∧ FlKeeps r.fl (core t c).r.fl [2] ∧ (flZ (core t c).r.fl = decide (l = 0)) ∧
          Steps (taken s c (vlOps f).2.2.1) t c { regSet r rd (if l = 0 then 0 else v) with
            vl := if l = 0 then r.vl else v, fl := (core t c).r.fl, pc := nextPc s c (vlOps f).2.2.1 &&& ~~~(1 : Addr) }))

/-- R173-R176: a run of good elements of an `RPT`, each on the state that the one before left, with BC one less and the kind's pointers moved by the step. After as many
elements as BC named the instruction completes, `CMPS` with Z = 1 and `SCANS` with Z = 0 and the flags those rules name; an interrupt taken at an element boundary
leaves the registers at that element. A differing `CMPS` and a matching `SCANS` element end the run there, its pointers at that element. -/
def Obligations.RepeatElements : Prop :=
  ∀ (s : State) (c : CoreId) (f : RptForm), Ready s c 4 →
    let u := taken s c 4
    let r := (core s c).r
    let w := 2 ^ f.sz.toNat
    let step := BitVec.ofNat 64 (w * (f.gap.toNat + 1))
    let src (v : State) : Nat := (core v c).r.bs.toNat % 2 ^ 40
    let dst (v : State) : Nat := (core v c).r.bd.toNat % 2 ^ 40
    let pat := rptOperand r f.fm w
    let ends (v : State) (i : Instr) (fl : W64) : Prop :=
      ∃ t, exec i s = .next t ∧ Steps v t c { (core v c).r with fl := fl, pc := nextPc v c 4 &&& ~~~(1 : Addr) }
    let counts (v v2 v' : State) (bs bd : W64) : Prop :=
      (core v2 c).r = (core v c).r ∧ v' = modRegs v2 c fun r => { r with bs := r.bs + bs, bd := r.bd + bd, bc := r.bc - 1 }
    let run (m : Nat) (elem : State → State → Prop) (v : State) : Prop :=
      ∃ at' : Nat → State, at' 0 = u ∧ at' m = v ∧ ∀ k, k < m → elem (at' k) (at' (k + 1))
    let goes (i : Option Nat → Instr) (elem : State → State → Prop) (fl : W64) : Prop :=
      ∀ m v, run m elem v →
        (m = r.bc.toNat → ends v (i none) fl) ∧ (m < r.bc.toNat → exec (i (some m)) s = .next v)
    (rptOk .movs f = true → goes (.rptMovs c f) (fun v v' => ∃ x v1 y v2, loadAcc v c (src v) w = .ok x v1 ∧
      storeAcc v1 c (dst v) w (BitVec.ofNat 128 x.toNat) = .ok y v2 ∧ counts v v2 v' step step) r.fl) ∧
    (rptOk .fills f = true → goes (.rptFills c f) (fun v v' => ∃ y v2, storeAcc v c (dst v) w (BitVec.ofNat 128 pat.1) = .ok y v2 ∧
      counts v v2 v' 0 step) r.fl) ∧
    (rptOk .cmps f = true →
      let elem (v v' : State) : Prop := ∃ x v1 v2, loadAcc v c (src v) w = .ok x v1 ∧ loadAcc v1 c (dst v) w = .ok x v2 ∧ counts v v2 v' step step
      goes (.rptCmps c f) elem (setNzcv r.fl false true false false) ∧
      ∀ m v x v1 y v2, run m elem v → m < r.bc.toNat → loadAcc v c (src v) w = .ok x v1 → loadAcc v1 c (dst v) w = .ok y v2 → x ≠ y →
        (core v2 c).r = (core v c).r → ends v2 (.rptCmps c f none) (setNzcv r.fl false false (decide (y.toNat < x.toNat)) false)) ∧
    (rptOk .scans f = true →
      let elem (v v' : State) : Prop := ∃ x v1, loadAcc v c (src v) w = .ok x v1 ∧ predHolds f.pred.toNat (x.toNat &&& pat.2) pat.1 = false ∧
        counts v v1 v' step 0
      goes (.rptScans c f) elem (setNzcv r.fl false false (flC r.fl) false) ∧
      ∀ m v x v1, run m elem v → m < r.bc.toNat → loadAcc v c (src v) w = .ok x v1 → predHolds f.pred.toNat (x.toNat &&& pat.2) pat.1 = true →
        (core v1 c).r = (core v c).r → ends v1 (.rptScans c f none) (setNzcv r.fl false true (flC r.fl) false))

/-- R199-R201, R166, R154, R146: at a boundary a core enters the highest pending interrupt that FL admits and runs on, and nothing happens where none is
admitted; an encoding that decode finds illegal enters vector 1 with its CODE, a failing fetch vector 2 with its kind and address; a read of DB_VALUE ends
the doorbell source; a write of VF_SUBST_EN arms or disarms the substitution. Taking the supervisor's notice with its entry is the model's reading (log 12).

R199, R207, R82: a reported vector fault is entered at vector 8 with its cause and element, in place of an open group only when the queue is full, and is then no longer due;
while a group can still be completed nothing is entered. The `RTI` that pops its frame lets the queue run again when a handler can repair the fault. -/
def Obligations.CoreAndFaultEntries : Prop :=
  (
    ∀ (s : State) (c : CoreId),
      (∀ x, atInterruptPoint s c = true → faultDue s c = false → openGroup s c = [] → admitted s c (core s c).r.fl = some x →
        exec (.interruptEntry c) s = .next (takeNotice (enter (modCore s c fun k => { k with st := .running }) c (0x10 + x.1) x.2.1 0 x.2.2
          (core s c).r.pc) c x.2.1)) ∧
      (admitted s c (core s c).r.fl = none → exec (.interruptEntry c) s = .next s) ∧
      (∀ enc code, Ready s c 4 → 0x30 ≤ fld enc 31 26 → fld enc 31 26 < 0x38 → illegalCode s c true enc = some code →
        exec (.illegalInstruction c true enc) s = .next (enter (taken s c 4) c 1 code 0 (enc.setWidth 64) (core s c).r.pc)) ∧
      (∀ k a u, canRun s c = true → entryDue s c = false → fetchGo s c (crosses s c) = (.bad k a, u) →
        exec (.instructionAccess c) s = .next (enter (discardOpen u c) c 2 k 0 (BitVec.ofNat 64 a) (core s c).r.pc)) ∧
      (∀ k a u arg, canRun s c = true → entryDue s c = false → fetchGo s c false = (.bad k a, u) →
        exec (.nop c arg) s = .next (enter (discardOpen u c) c 2 k 0 (BitVec.ofNat 64 a) (core s c).r.pc)) ∧
      (∀ arg, canRun s c = false ∨ entryDue s c = true → exec (.nop c arg) s = .next s) ∧
      (∀ arg, canRun s c = true → entryDue s c = false → (fetchGo s c false).1 = .held → exec (.nop c arg) s = .next (fetched s c false)) ∧
      (∀ long,
        let u := fetched s c long
        core u c = { core s c with icache := (core u c).icache, icMiss := (core u c).icMiss, ahead := (core u c).ahead } ∧ ReadKeeps (modCore s c fun _ => core u c) u ∧
        (Cached s c (if long then 4 else 2) → (core s c).r.pc.toNat % 2 = 0 → (fetchGo s c long).1 = .ok ∧
          u = modCore s c fun k => { k with icache := (core u c).icache })) ∧
      (∀ n, c = .ve n → canRun s c = true →
        ∃ t, exec (.dbValueRead n) s = .next t ∧ t.outs = s.outs ++ [.block c (s.seq[n].db.setWidth 128)] ∧
          t = { modCore s c (fun k => { k with dbPend := false }) with outs := t.outs }) ∧
      (∀ n (v : W64), c = .ve n → canRun s c = true →
        exec (.vfSubstEn n v) s = .next (modEng s n fun e =>
          { e with substEn := bit v 0, substElem := if bit v 0 then e.vfElem else e.substElem
                   substPos := if bit v 0 then e.vfPos else e.substPos }))) ∧
  (
    ∀ (s : State) (n : VeId), canRun s (.ve n) = true →
      let e := s.eng[n]
      let s1 := modEng s n fun e => { e with vfDue := false, openIns := [] }
      (e.vfDue = false → exec (.vectorFaultEntry n) s = .next s) ∧
      (e.vfDue = true → e.openIns ≠ [] → queueFill e < 32 → exec (.vectorFaultEntry n) s = .next s) ∧
      (∀ saved, e.vfDue = true →
        (e.openIns = [] ∧ saved = (core s (.ve n)).r.pc ∨ 32 ≤ queueFill e ∧ e.openIns.head?.map (·.pc) = some saved) →
        let s2 := enter s1 (.ve n) 8 e.vfCause.toNat e.vfElem.toNat e.vfPc saved
        s2.seq[n].st = .running → s2.seq[n].entry = none →
          ∃ t o, exec (.vectorFaultEntry n) s = .next t ∧ t = modSeq s2 n (fun k => { k with openFaults := o :: k.openFaults }) ∧
            o.frame = s2.seq[n].r.g[(7 : Fin 8)] ∧ o.cause = e.vfCause.toNat ∧ o.elem = e.vfElem.toNat ∧ o.addr = e.vfAddr) ∧
      (∀ o, o ∈ s.seq[n].openFaults → unfixable o = false →
        let t := closeFault s n o
        t.eng[n] = { e with stopped := false } ∧ o ∉ t.seq[n].openFaults) ∧
      (∀ lo hi s1 o, Ready s (.ve n) 2 → frameRead (taken s (.ve n) 2) (.ve n) (s.seq[n].r.g[(7 : Fin 8)].toNat % 2 ^ 40) = .ok lo hi s1 →
        admitted s1 (.ve n) (flRestore (BitVec.ofNat 64 (fld lo 127 64))) = none →
        s1.seq[n].openFaults.find? (fun o => o.frame == s1.seq[n].r.g[(7 : Fin 8)]) = some o → unfixable o = false →
          ∃ t, exec (.rti (.ve n) 0) s = .next t ∧ t.eng[n] = { s1.eng[n] with stopped := false } ∧ o ∉ t.seq[n].openFaults ∧
            t.seq[n].r.pc = BitVec.ofNat 40 (fld lo 39 0) &&& ~~~(1 : Addr)))

/-! ### Vector instructions and chain groups (spec/03, spec/04, spec/05) -/

/-- R61, R65, R89, R184, Tables 4.1 and 5.1: every vector instruction, fetched or issued by `VISSUE`, whose word decodes and is admitted by its engine
enters the issue queue of a VE with room: it captures the S registers, VL, VCTL, FPSUB and its PC; with K = 1 the group stays open, with K = 0 it
closes into the queue when it keeps the group rules; only the PC and the queue change. The word carries VOP, FN, D, A, B, C, G and K in the places R89 gives.

R67, R93, R120, R166, R184: a `VISSUE` of a word that does not decode or that its engine does not admit is illegal with CODE 0x01, and one that makes a
fourth open instruction or breaks the group rules at its close with CODE 0x02; the open group is discarded without effect. A full queue
makes it wait. That a fourth open instruction is illegal at once is the model's reading (log 31). -/
def Obligations.VectorIssue : Prop :=
  (
    ∀ (s : State) (n : VeId) (o : VOps),
      let c := CoreId.ve n
      let r := (core s c).r
      let e := s.eng[n]
      let issues (i : Instr) (enc : W32) (len : Nat) : Prop :=
        ∀ v, canRun s c = true → entryDue s c = false → (fetchGo s c (len == 4)).1 = .ok → vdecode enc = some v → engineOk (isRn n) e.vctl v.op = true → queueFill e < 32 →
          let sub : Byte := match execPart s n with | some p => s.parts[p].cfg.fpsub | none => 0
          let q : QInstr := { enc := enc, vl := r.vl.toNat, desc := r.s, vctl := e.vctl, fpsub := sub, pc := r.pc }
          let ins := e.openIns ++ [q]
          let enters (e' : Engine) : Prop :=
            ∃ t, exec i s = .next t ∧ t.eng[n] = e' ∧ (∀ m, m ≠ n → t.eng[m] = s.eng[m]) ∧
              Steps (taken s c len) { t with eng := s.eng } c { r with pc := nextPc s c len &&& ~~~(1 : Addr) }
          (v.k = true → e.openIns.length < 3 → enters { e with openIns := ins }) ∧
          (v.k = false → groupOk (ins.filterMap fun q => vdecode q.enc) r.s = true →
            enters { e with
              openIns := [], queue := e.queue ++ [{ ins := ins, started := false, staged := false, taint := [], hist := none }] })
      let word (i : Instr) (vop fn : Nat) : Prop :=
        let enc := vword vop fn o
        issues i enc 4 ∧ fld enc 31 26 = vop ∧ fld enc 25 18 = fn ∧ fld enc 17 14 = o.d.toNat ∧ fld enc 13 10 = o.a.toNat ∧
          fld enc 9 6 = o.b.toNat ∧ fld enc 5 2 = o.c.toNat ∧ bit enc 1 = o.g ∧ bit enc 0 = o.k
      (∀ tt, word (.vlut n tt o) 0x38 tt.toNat ∧ word (.vqlut n tt o) 0x39 tt.toNat) ∧
      (∀ fn, word (.vres n fn o) 0x3A fn.toNat ∧ word (.vcmpr n fn o) 0x3A (64 + fn.toNat) ∧ word (.vexpd n fn o) 0x3A (128 + fn.toNat)) ∧
      (∀ fn, word (.vchg n fn o) 0x3B fn.toNat) ∧
      (∀ fn, word (.vperm n fn o) 0x3C fn.toNat ∧ word (.vbgath n fn o) 0x3C (32 + fn.toNat) ∧ word (.vgath n fn o) 0x3C (64 + fn.toNat) ∧
        word (.vscat n fn o) 0x3C (96 + fn.toNat)) ∧
      (∀ fn, word (.vadd n fn o) 0x3D fn.toNat ∧ word (.vadc n fn o) 0x3D (16 + fn.toNat) ∧ word (.vsub n fn o) 0x3D (32 + fn.toNat) ∧
        word (.vsbc n fn o) 0x3D (48 + fn.toNat) ∧ word (.vcmp n fn o) 0x3D (64 + fn.toNat) ∧ word (.vsel n fn o) 0x3D (80 + fn.toNat) ∧
        word (.vshl n fn o) 0x3D (96 + fn.toNat) ∧ word (.vshr n fn o) 0x3D (112 + fn.toNat) ∧ word (.vrot n fn o) 0x3D (128 + fn.toNat)) ∧
      (∀ fn, word (.vmulw n fn o) 0x3E fn.toNat ∧ word (.vmull n fn o) 0x3E (64 + fn.toNat)) ∧
      (∀ fn, word (.vdivsInit n fn o) 0x3E (128 + fn.toNat) ∧ word (.vdivsStep n fn o) 0x3E (144 + fn.toNat) ∧
        word (.vdivsFix n fn o) 0x3E (160 + fn.toNat)) ∧
      (∀ fn, word (.vfadd n fn o) 0x3F fn.toNat ∧ word (.vfsub n fn o) 0x3F (16 + fn.toNat) ∧ word (.vfmul n fn o) 0x3F (32 + fn.toNat) ∧
        word (.vfma n fn o) 0x3F (48 + fn.toNat) ∧ word (.vfmin n fn o) 0x3F (64 + fn.toNat) ∧ word (.vfmax n fn o) 0x3F (80 + fn.toNat) ∧
        word (.vfcmp n fn o) 0x3F (96 + fn.toNat) ∧ word (.vfcvt n fn o) 0x3F (112 + fn.toNat)) ∧
      (∀ rs, issues (.vissue c (.h4 rs 0)) ((regGet r (hreg rs)).setWidth 32) 2) ∧
      (∀ rs, issues (.vissue c (.c6 rs false 0 0)) ((regGet r rs).setWidth 32) 4) ∧
      (∀ rs (fm : BitVec 3),
        let v := regGet r rs
        let fn := byteOf (r.f[(⟨fm.toNat, fm.isLt⟩ : Fin 8)]) (fld v 35 32)
        ∀ w : W32, fld w 25 18 = fn.toNat → fld w 31 26 = fld v 31 26 → fld w 17 0 = fld v 17 0 → issues (.vissue c (.c6 rs true fm 0)) w 4)) ∧
  (
    ∀ (s : State) (n : VeId) (rs : BitVec 5),
      let c := CoreId.ve n
      let r := (core s c).r
      let e := s.eng[n]
      let w : W32 := (regGet r rs).setWidth 32
      let i : Instr := .vissue c (.c6 rs false 0 0)
      let enc : W32 := word32 [(0x36, 26), (4, 22), (rs.toNat, 17)]
      let u := taken s c 4
      let dies (code : Nat) : Prop :=
        exec i s = .next (enter (modEng u n fun e => { e with openIns := [] }) c 1 code 0 (enc.setWidth 64) r.pc)
      canRun s c = true → entryDue s c = false → (fetchGo s c true).1 = .ok →
        (vdecode w = none → dies 1) ∧
        (∀ v, vdecode w = some v → engineOk (isRn n) e.vctl v.op = false → dies 1) ∧
        (∀ v, vdecode w = some v → engineOk (isRn n) e.vctl v.op = true →
          (32 ≤ queueFill e → exec i s = .next u) ∧
          (queueFill e < 32 →
            (v.k = true → 3 ≤ e.openIns.length → dies 2) ∧
            (v.k = false → groupOk ((e.openIns ++ [capture s n w]).filterMap fun q => vdecode q.enc) r.s = false → dies 2))))

/-- R97, R98, R100, R101, R102: the logic and route elements bit by bit. `VLUT` takes the table's bit at the three input bits; `VQLUT` is unknown exactly where the
inputs that fit reach both table values; `VRES` WIRE, WAND and WOR resolve their drivers; `VPERM` moves bits without changing how many are set, and copies
for a control of zeros; `VBGATH` takes the bit its control byte names. -/
def Obligations.LogicElements : Prop :=
  ∀ (rn : Bool) (q : QInstr) (a b c u v w : W128) (tt : Nat) (ctl : List W128),
    (∀ j, j < 128 → bit ((velem rn q (.lut tt) [a] [b] [c] [] false).out.headD 0) j =
      tt.testBit (4 * (bit c j).toNat + 2 * (bit b j).toNat + (bit a j).toNat)) ∧
    (∀ j, j < 128 →
      let out := (velem rn q (.qlut tt) [a, u] [b, v] [c, w] [] false).out
      let fits (t : Nat) : Prop := t < 8 ∧ (bit u j = true ∨ t.testBit 0 = bit a j) ∧ (bit v j = true ∨ t.testBit 1 = bit b j) ∧
        (bit w j = true ∨ t.testBit 2 = bit c j)
      (bit (out.getD 0 0) j = true ↔ ∃ t, fits t ∧ tt.testBit t = true) ∧
      (bit (out.getD 1 0) j = true ↔ (∃ t, fits t ∧ tt.testBit t = true) ∧ ∃ t, fits t ∧ tt.testBit t = false)) ∧
    (∀ j, j < 128 →
      let at3 (m : Nat) : Bool × Bool :=
        let out := (velem rn q (.res m) [a, u] [b, v] [c, w] [] false).out
        (bit (out.getD 0 0) j, bit (out.getD 1 0) j)
      let ds : List (Bool × Bool) := [(bit a j, bit u j), (bit b j, bit v j), (bit c j, bit w j)].filter fun x => x != (false, true)
      let zero : Bool × Bool := (false, false)
      let one : Bool × Bool := (true, false)
      let z : Bool × Bool := (false, true)
      let x : Bool × Bool := (true, true)
      at3 0 = (if ds = [] then z else if x ∈ ds ∨ (zero ∈ ds ∧ one ∈ ds) then x else if one ∈ ds then one else zero) ∧
      at3 1 = (if ds = [] then z else if zero ∈ ds then zero else if x ∈ ds then x else one) ∧
      at3 2 = (if ds = [] then z else if one ∈ ds then one else if x ∈ ds then x else zero)) ∧
    (bitsSet ((velem rn q (.perm false) [a] [] [] ctl false).out.headD 0) 128).length = (bitsSet a 128).length ∧
    (velem rn q (.perm false) [a] [] [] (List.replicate 7 0) false).out = [a] ∧
    (∀ j, j < 128 →
      let k := fld (ctl.getD (j / 16) 0) (8 * (j % 16) + 7) (8 * (j % 16))
      bit ((velem rn q (.bgath false) [a] [b] [] ctl false).out.headD 0) j = if k < 128 then bit a k else bit b (k - 128))

/-- R125, R128-R132: the integer elements. Sums and differences are exact modulo 2^128, their packed bit the carry (no borrow) and SV the signed overflow; `VCMP` fills an
element with its condition; the shifts take B[6:0]; `VMULW` is the exact product of the chosen signed or unsigned halves; `VMULL` keeps the low half
of each lane's product. -/
def Obligations.IntegerElements : Prop :=
  ∀ (rn : Bool) (q : QInstr) (a b : W128) (cr : Nat) (pin : Bool),
    let one (op : VOp) : W128 := (velem rn q op [a] [b] [] [] pin).out.headD 0
    let res (sub cy : Bool) : VRes := velem rn q (.addsub sub cy cr) [a] [b] [] [] pin
    let ovf (z : Int) : Bool := decide (z < -(2 ^ 127) ∨ 2 ^ 127 ≤ z)
    ((res false false).out = [a + b] ∧ (res false false).pbit = decide (2 ^ 128 ≤ a.toNat + b.toNat) ∧
      (res false false).sv = ovf (a.toInt + b.toInt)) ∧
    ((res true false).out = [a - b] ∧ (res true false).pbit = decide (b.toNat ≤ a.toNat) ∧ (res true false).sv = ovf (a.toInt - b.toInt)) ∧
    ((res false true).out = [a + b + BitVec.ofNat 128 pin.toNat] ∧ (res false true).pbit = decide (2 ^ 128 ≤ a.toNat + b.toNat + pin.toNat) ∧
      (res false true).sv = ovf (a.toInt + b.toInt + pin.toNat)) ∧
    ((res true true).out = [a - b - BitVec.ofNat 128 (1 - pin.toNat)] ∧ (res true true).pbit = decide (b.toNat + (1 - pin.toNat) ≤ a.toNat) ∧
      (res true true).sv = ovf (a.toInt - b.toInt - (1 - pin.toNat : Nat))) ∧
    (∀ k (h : k < 8),
      let t : Bool := [a == b, a != b, decide (a.toNat < b.toNat), decide (b.toNat ≤ a.toNat), decide (a.toInt < b.toInt), decide (b.toInt ≤ a.toInt),
        decide (a.toNat ≤ b.toNat), decide (a.toInt ≤ b.toInt)][k]
      one (.cmp false k) = (if t then BitVec.allOnes 128 else 0) ∧ (velem rn q (.cmp true k) [a] [b] [] [] pin).pbit = t) ∧
    one .sel = (if pin then b else a) ∧
    one .shl = a <<< (b.toNat % 128) ∧ one (.shr false) = a >>> (b.toNat % 128) ∧ one (.shr true) = a.sshiftRight (b.toNat % 128) ∧
    one (.rot false) = a.rotateLeft (b.toNat % 128) ∧ one (.rot true) = a.rotateRight (b.toNat % 128) ∧
    (∀ sa sb ha hb : Bool,
      let half (x : W128) (h : Bool) : W64 := (x >>> (if h then 64 else 0)).setWidth 64
      let val (sg : Bool) (x : W64) : Int := if sg then x.toInt else x.toNat
      one (.mulw sa sb ha hb) = BitVec.ofInt 128 (val sa (half a ha) * val sb (half b hb))) ∧
    (∀ k : Fin 2, ((one .mull) >>> (64 * k.val)).setWidth 64 = ((a >>> (64 * k.val)).setWidth 64 : W64) * (b >>> (64 * k.val)).setWidth 64)

/-- R133, R134: `VDIVS` INIT, sixteen four-bit STEPs and FIX on the operand word b (divisor high, dividend low) give the truncated quotient in the low half
and the remainder, with the sign of the dividend, in the high half; SV is raised for the most negative dividend over minus one alone, and a zero divisor gives
all ones with the dividend and raises ZD. -/
def Obligations.DivisionElements : Prop :=
  ∀ (rn : Bool) (q : QInstr) (b : W128) (sg : Bool),
    let one (op : VOp) (a : W128) : VRes := velem rn q op [a] [b] [] [] false
    let init := (velem rn q (.divInit sg) [b] [] [] [] false).out.headD 0
    let stepped := (fun a => (one (.divStep sg 4) a).out.headD 0)^[16] init
    let fix := one (.divFix sg) stepped
    let n : W64 := b.setWidth 64
    let d : W64 := (b >>> 64).setWidth 64
    let quot : W64 := (fix.out.headD 0).setWidth 64
    let rem : W64 := ((fix.out.headD 0) >>> 64).setWidth 64
    (d ≠ 0 → sg = false → quot = n / d ∧ rem = n % d ∧ fix.sv = false ∧ fix.zd = false) ∧
    (d ≠ 0 → sg = true → quot = BitVec.ofInt 64 (n.toInt.tdiv d.toInt) ∧ rem = BitVec.ofInt 64 (n.toInt.tmod d.toInt) ∧
      fix.sv = decide (n.toInt = -(2 ^ 63) ∧ d.toInt = -1) ∧ fix.zd = false) ∧
    (d = 0 → quot = BitVec.allOnes 64 ∧ rem = n ∧ fix.sv = false ∧ fix.zd = true)

/-- R138-R142, R144, R148: the FP lanes. A result lane depends on the same lane of its inputs alone; the first NaN comes out quieted and a signalling one raises NV;
infinity minus infinity and infinity times zero give the default NaN with NV; a finite number minus itself is zero, negative in RDN alone; a flushed
subnormal input raises DI.

`VFADD`, `VFSUB`, `VFMUL` and the conversions between formats and from integers give the exact value rounded once in the mode of VCTL.RM, or under flush a zero with UF and IX where that
would be tiny; `VFMA` rounds its exact sum of product and addend once. `VFMIN` and `VFMAX` give the lesser and the greater number, -0 below +0, and the number beside a NaN; `VFCMP` its
condition, with NV for LT and LE of a NaN. A conversion to an integer rounds to one, saturates outside the width with NV, and makes 0 of a NaN. -/
def Obligations.FloatElements : Prop :=
  (∀ (rm : Nat) (mode : SubMode) (f : Fmt), f = fmtS ∨ f = fmtD → mode ≠ .trap →
      (∀ (dbl : Bool) (g : Fmt → Nat → Nat → Lane) (a b a' b' : W128) (k : Nat),
        let w := if dbl then 64 else 32
        k < 128 / w → (∀ x y, (g (if dbl then fmtD else fmtS) x y).bits < 2 ^ w) →
          laneGet w k a = laneGet w k a' → laneGet w k b = laneGet w k b' →
            laneGet w k (lanes2 dbl g a b).1 = laneGet w k (lanes2 dbl g a' b').1) ∧
      (∀ a b n sig, f.val mode a = .nan n sig →
        (addLane f rm mode false a b).bits = f.quiet n ∧ (mulLane f rm mode a b).bits = f.quiet n ∧
        (sig = true → (addLane f rm mode false a b).flags.testBit 0 = true ∧ (mulLane f rm mode a b).flags.testBit 0 = true)) ∧
      (∀ sg, addLane f rm mode true (f.inf sg) (f.inf sg) = { bits := f.qnan, flags := 1, trap := false } ∧
        ∀ sz, mulLane f rm mode (f.inf sg) (f.zero sz) = { bits := f.qnan, flags := 1, trap := false }) ∧
      (∀ a sg m e, f.val mode a = .fin sg m e → m ≠ 0 →
        (addLane f rm mode true a a).bits = f.zero (rm == 3) ∧ (addLane f rm mode true a a).trap = false) ∧
      (∀ a b, mode = .flush → f.isSub a = true → (addLane f rm mode false a b).flags.testBit 4 = true)) ∧
  (∀ (f : Fmt) (rm : Nat) (mode : SubMode), f = fmtS ∨ f = fmtD → rm ≤ 4 → mode ≠ .trap →
    let num (x : Nat) : Option ℚ := ratOf f mode x
    let rounds (v : ℚ) (l : Lane) : Prop :=
      (mode = .full ∨ l.flags.testBit 2 = false → Rounds f rm v l) ∧
      (mode = .flush → l.flags.testBit 2 = true → |v| < (2 : ℚ) ^ f.emin ∧ ratOf f .full l.bits = some 0 ∧ l.flags.testBit 3 = true)
    (∀ a b va vb, num a = some va → num b = some vb →
      rounds (va + vb) (addLane f rm mode false a b) ∧ rounds (va - vb) (addLane f rm mode true a b) ∧ rounds (va * vb) (mulLane f rm mode a b)) ∧
    (mode = .full → ∀ a b c va vb vc (np nc : Bool), num a = some va → num b = some vb → num c = some vc →
      Rounds f rm ((if np then -1 else 1) * va * vb + (if nc then -1 else 1) * vc) (fmaLane f rm np nc a b c)) ∧
    (∀ a b va vb, num a = some va → num b = some vb →
      let least := (minLane f mode false a b).bits
      let most := (minLane f mode true a b).bits
      ratOf f .full least = some (min va vb) ∧ ratOf f .full most = some (max va vb) ∧
      (va = 0 → vb = 0 → f.sign least = (f.sign a || f.sign b) ∧ f.sign most = (f.sign a && f.sign b)) ∧
      ∀ (k : Nat) (h : k < 5), (fcmpLane f mode k a b).bits =
        if ([decide (va = vb), decide (va ≠ vb), decide (va < vb), decide (va ≤ vb), false] : List Bool)[k] then 2 ^ f.width - 1 else 0) ∧
    (∀ a b n sig, f.val mode a = .nan n sig → (∀ v, num b = some v →
        ratOf f .full (minLane f mode false a b).bits = some v ∧ ratOf f .full (minLane f mode false b a).bits = some v ∧
        ratOf f .full (minLane f mode true a b).bits = some v ∧ ratOf f .full (minLane f mode true b a).bits = some v) ∧
      ∀ k, k < 5 → (fcmpLane f mode k a b).bits = (if k = 1 ∨ k = 4 then 2 ^ f.width - 1 else 0) ∧
        (k = 2 ∨ k = 3 ∨ sig = true → (fcmpLane f mode k a b).flags.testBit 0 = true)) ∧
    (∀ (g : Fmt) a v, g = fmtS ∨ g = fmtD → num a = some v →
      let l := cvtLane f g rm mode a
      (mode = .full ∨ l.flags.testBit 2 = false → Rounds g rm v l) ∧
      (mode = .flush → l.flags.testBit 2 = true → |v| < (2 : ℚ) ^ g.emin ∧ ratOf g .full l.bits = some 0)) ∧
    (∀ (w a : Nat), w = 32 ∨ w = 64 → Rounds f rm (sint w a) (fromInt f w rm mode a)) ∧
    (∀ (w a : Nat) v, w = 32 ∨ w = 64 → num a = some v →
      let l := toIntLane f w rm mode a
      let z : ℚ := sint w l.bits
      ((-(2 : ℚ) ^ (w - 1) ≤ v ∧ v ≤ 2 ^ (w - 1) - 1) → RoundedTo rm (fun y => ∃ k : Int, y = k) (l.bits % 2 = 0) v z ∧ (l.flags.testBit 3 = true ↔ z ≠ v)) ∧
      (2 ^ (w - 1) ≤ v → l.bits = 2 ^ (w - 1) - 1 ∧ l.flags.testBit 0 = true) ∧
      (v ≤ -(2 : ℚ) ^ (w - 1) - 1 → l.bits = 2 ^ (w - 1) ∧ l.flags.testBit 0 = true)) ∧
    (∀ (w a n : Nat) sig, f.val mode a = .nan n sig → (toIntLane f w rm mode a).bits = 0 ∧ (toIntLane f w rm mode a).flags.testBit 0 = true))

/-- R54, R68, R74, R75: a running, unstaged group of one ungated element-wise instruction, on streams in memory without errors whose D words are apart from each
other and from its inputs, and on whose ways no arbiter is frozen, completes: every D word holds the element function of its inputs, every other byte of memory is unchanged, and the group leaves the queue. -/
def Obligations.ElementwiseGroup : Prop :=
  ∀ (s : State) (n : VeId) (p : PartId) (g : Group) (rest : List Group) (q : QInstr) (i : VIns) (dev : Nat → Nat → Nat),
    Plain s → execPart s n = some p → engineRuns s n = true → s.eng[n].queue = g :: rest → g.started = true → g.staged = false → g.taint = [] →
    g.ins = [q] →
    vdecode q.enc = some i → i.g = false → i.pair = false → s.eng[n].substEn = false →
    (match i.op with | .lut _ | .shl | .shr _ | .rot _ | .mulw .. | .mull | .divStep .. => True | _ => False) →
    let used : List Nat := i.reads
    (∀ x ∈ i.d :: used, x < 12 ∧ dMode (q.dsc x) ≠ 4) →
    (∀ x ∈ i.d :: used, ∀ e, e < q.vl →
      let a := (elemAddr (q.dsc x) 16 e 0).toNat
      partDev s p (dSpace (q.dsc x)) a = some (dev x e) ∧ dev x e % 16 = 0 ∧
        (readWord s (n.val / 16) (veCode s n) (dev x e)).status = 0 ∧ devWaits s (.engine n 0) (dev x e) = false) →
    (∀ e, e < q.vl → s.parts[p].run = none ∨ dSpace (q.dsc i.d) = true ∨ inDmem s.parts[p] (elemAddr (q.dsc i.d) 16 e 0).toNat = false) →
    (∀ e, e < q.vl → (∀ e', e' < q.vl → e' ≠ e → dev i.d e' ≠ dev i.d e) ∧ ∀ x ∈ used, ∀ e', e' < q.vl → dev x e' ≠ dev i.d e) →
      let at' (x e : Nat) : W128 := wordGet s.mem (dev x e / 16)
      let opnd (x e : Nat) (u : Use) : List W128 := if u = .none then [] else [at' x e]
      ∃ t, exec (.groupComplete n) s = .next t ∧ t.eng[n].queue = rest ∧
        (∀ e, e < q.vl →
          [wordGet t.mem (dev i.d e / 16)] = (velem (isRn n) q i.op (opnd i.a e i.op.uses.2.1) (opnd i.b e i.op.uses.2.2.1) (opnd i.c e i.op.uses.2.2.2)
            [] false).out) ∧
        (∀ a, (∀ e, e < q.vl → a / 16 ≠ dev i.d e / 16) → cellGet t.mem.cells a = cellGet s.mem.cells a)

/-- R64, R65, R75, R78-R81, R113, R122: the head group of a VE that runs begins when its issue checks pass and counts when it is staged, or reports its issue fault; a
running group without a faulting element leaves the queue with VFLAGS and VCOUNT set. One with a faulting element stops the queue with that fault in the VF entries and its handler
due; it stays at the queue's head with its fault noted, and the later groups are as if they had not begun, so that the handler's return lets it run again from element 0. From the third
repeat on, for the causes that R83 names, the job segment fails without a handler. -/
def Obligations.ChainGroups : Prop :=
  ∀ (s : State) (n : VeId) (p : PartId) (g : Group) (rest : List Group), execPart s n = some p → engineRuns s n = true →
    s.eng[n].queue = g :: rest →
    let e := s.eng[n]
    let faulted (t : State) (f : VFault) (rep : Nat) : Prop :=
      t.eng[n].vfCause = BitVec.ofNat 8 f.cause ∧ t.eng[n].vfElem = BitVec.ofNat 16 f.elem ∧ t.eng[n].vfAddr = f.addr ∧
        t.eng[n].vfRepeat = BitVec.ofNat 8 rep ∧ t.eng[n].vfTotal = satInc e.vfTotal ∧ t.eng[n].stopped = true ∧ t.eng[n].vfDue = true ∧
        t.eng[n].queue = { g with hist := some (f.cause, f.elem, rep) } :: rest.map fun y => { y with started := false }
    (g.started = false → ∀ b,
      (∀ st, issueCheck s n p g = .inr st → exec (.chainGroupStart n b) s = .next (modEng s n fun e =>
        { e with queue := { g with started := true, staged := st } :: rest
                 stagedTotal := if st then satInc e.stagedTotal else e.stagedTotal })) ∧
      (∀ f, issueCheck s n p g = .inl f → ∃ t, exec (.chainGroupStart n b) s = .next t ∧ faulted t f (faultRepeat g f) ∧ t.mem = s.mem)) ∧
    (g.started = true → ∀ h rest', rest = h :: rest' → h.started = false → mayOverlap g h = true →
      (∀ r, s.parts[p].run = some r → r.det = false) → ∀ st, issueCheck s n p h = .inr st →
        exec (.chainGroupStart n true) s = .next (modEng s n fun e =>
          { e with queue := g :: { h with started := true, staged := st } :: rest'
                   stagedTotal := if st then satInc e.stagedTotal else e.stagedTotal })) ∧
    (g.started = true →
      let r := runGroup s n p g
      (r.live = true → r.trap = none → ∃ t, exec (.groupComplete n) s = .next t ∧ t.mem = r.s.mem ∧
        t.eng[n].queue = r.s.eng[n].queue.drop 1 ∧
        t.eng[n].vflags = (if isArith g then BitVec.ofNat 16 r.flags else r.s.eng[n].vflags) ∧
        t.eng[n].vflagsAcc = (if isArith g then r.s.eng[n].vflagsAcc ||| BitVec.ofNat 16 r.flags else r.s.eng[n].vflagsAcc) ∧
        t.eng[n].vcount = (if setsVcount g then BitVec.ofNat 32 r.count else r.s.eng[n].vcount)) ∧
      (∀ f sunk, r.fault = some f →
        let last := 3 ≤ faultRepeat g f ∧ f.drain = false ∧ (f.cause = 5 ∨ f.cause = 6 ∨ f.cause = 7 ∨ f.cause = 9)
        (¬ last → ∃ t, exec (.elementFault n sunk) s = .next t ∧ faulted t f (faultRepeat g f) ∧ t.mem = r.s.mem) ∧
        (last → (s.parts[p].run).isSome = true → ∃ t, exec (.elementFault n sunk) s = .next t ∧ t.parts[p].run = none ∧
          t.eng[n].vfRepeat = BitVec.ofNat 8 (faultRepeat g f) ∧
          ∀ m ∈ s.parts[p].bind, s.seq[m].st = .running → t.seq[m].st = .stopped ∧ t.eng[m].queue = [])) ∧
      (∀ o u, unfixable o = false → u.eng[n].queue = g :: rest → (closeFault u n o).eng[n].queue = g :: rest ∧ (closeFault u n o).eng[n].stopped = false))

/-! ### Memory, scratchpad and bus matrix (spec/08, spec/09) -/

/-- R217, R220, R233-R235, R237, R239, R243-R246, R250, R251, R260: what a read fragment is answered, on memory that holds no error. A fenced or unreachable unit answers status 8 at once.
To another it waits until it wins every arbiter of its way (the VE's turn and cluster port, or the management port; the bridges; the target's), and going there moves those arbiters
and the bridges alone. From HBM, from the bank's owner port to the owner and through the tap port to a crow's nest or CRC unit it gets the words with status 0, nothing else changed. A
non-owner gets zeros with status 5, the access counted once for each word (the model's reading, log 81) and memory unchanged; a new owner during a handover is held; an address or
target without a row of Table 9.1 answers status 4. -/
def Obligations.MemoryReadResults : Prop :=
  ∀ (s : State) (f : Frag) (rv : Rivals), f.wf = true → dead s = false → frozen s = false → tagBusy s f = false → s.mem.poison = [] → s.mem.latent = [] →
    let m := masterKind f.master.toNat
    let ws := fragWords f
    let words : List W128 := ws.map fun x => wordGet s.mem (x.1 / 16)
    let none' (v : W128) : List W128 := List.replicate ws.length v
    let reply (t : State) (data : List W128) (st : Nat) : Prop :=
      exec (.memoryRead f rv []) s = .next (emit t (.bus f.master f.tag data st))
    (∀ u, unitOf s f.addr = some u → mayReach s m u f.addr = true →
      (unitFenced s (masterDie m) u = true → reply s (none' (if (tapOf s m u).isSome then BitVec.allOnes 128 else 0)) 8) ∧
      (unitFenced s (masterDie m) u = false →
        (pathGrant s m u (tapOf s m u).isSome rv = none → exec (.memoryRead f rv []) s = .next s) ∧
        ∀ s1, pathGrant s m u (tapOf s m u).isSome rv = some s1 →
          WayKeeps s s1 ∧
          (∀ st c row w, u = .pc st c row w → reply s1 words 0) ∧
          (∀ b, u = .bank b → tapOf s m u = none →
            let k := s.banks[b]
            let code := masterCode s b m
            (ownerCheck k code = 9 →
              exec (.memoryRead f rv []) s = .next (modBank s1 b fun k => { k with held := k.held ++ [{ frag := f, data := none }] })) ∧
            (ownerCheck k code = 0 → reply s1 words 0) ∧
            (ownerCheck k code = 5 →
              ∃ t, exec (.memoryRead f rv []) s = .next t ∧ t.outs = s.outs ++ [.bus f.master f.tag (none' 0) 5] ∧ t.mem = s.mem ∧
                t.banks[b] = { k with nonowner := satInc^[ws.length] k.nonowner } ∧ (∀ b', b' ≠ b → t.banks[b'] = s.banks[b']))) ∧
          (∀ b, u = .bank b → tapOf s m u = some b → reply s1 words 0))) ∧
    (∀ u, unitOf s f.addr = some u → mayReach s m u f.addr = false → reply s [] 4) ∧
    (unitOf s f.addr = none → hasInternal m f.addr = false → reply s [] 4) ∧
    (m = .supervisor → 0x80F0000000 ≤ f.addr → f.addr < 0x80F0100000 → ∀ s1, portGrant s .supervisor rv = some s1 →
      reply s1 (ws.map fun x => wordOfBytes (cellsGet s.mem.ram (x.1 - 0x80F0000000) 16)) 0)

/-- R235, R237, R239, R243-R246, R260, R406: a write fragment that is accepted, on memory that holds no error and outside a resynchronisation, waits for the arbiters of its way, then stores exactly
its enabled bytes, each once, at their own addresses: every other byte and every other part of the device but the arbiters and bridges is unchanged. A non-owner, a fenced or unreachable
unit, a tap port and a target without a row store nothing and are told so; a new owner's is held during a handover. -/
def Obligations.MemoryWriteResults : Prop :=
  ∀ (s : State) (f : Frag) (data : List Byte) (en : List Bool) (tap : Bool) (rv : Rivals),
    Plain s → f.wf = true → data.length = f.len → en.length = f.len → f.enablesWf en = true → dead s = false → frozen s = false → tagBusy s f = false →
    let m := masterKind f.master.toNat
    let i : Instr := .memoryWrite f data en tap rv []
    let stores (s1 : State) : Prop :=
      ∃ t, exec i s = .next t ∧ t = { emit s1 (.bus f.master f.tag [] 0) with mem := t.mem } ∧
        (∀ a, cellGet t.mem.cells a =
          if f.addr ≤ a ∧ a < f.addr + f.len ∧ nth en (a - f.addr) false = true then nth data (a - f.addr) 0 else cellGet s.mem.cells a) ∧
        t.mem.poison = [] ∧ t.mem.latent = []
    let told8 : Prop := ∃ t, exec i s = .next t ∧ t.mem = s.mem ∧ ((∃ j, nth en j false = true) → t.outs = s.outs ++ [.bus f.master f.tag [] 8])
    (∀ u, unitOf s f.addr = some u → mayReach s m u f.addr = true → tapOf s m u = none → (tap = true → ∃ st c row w, u = .pc st c row w) →
      (unitFenced s (masterDie m) u = true → (∀ x, x ∈ fragWords f → dmOffset s m x.1 = none) → told8) ∧
      (unitFenced s (masterDie m) u = false →
        (pathGrant s m u false rv = none → exec i s = .next s) ∧
        ∀ s1, pathGrant s m u false rv = some s1 →
          (∀ st c row w, u = .pc st c row w → (∀ x, x ∈ fragWords f → dmOffset s m x.1 = none) → stores s1) ∧
          (∀ b, u = .bank b →
            let k := s.banks[b]
            let code := masterCode s b m
            (ownerCheck k code = 0 → stores s1) ∧
            (ownerCheck k code = 9 →
              exec i s = .next (modBank s1 b fun k => { k with held := k.held ++ [{ frag := f, data := some (data, en) }] })) ∧
            (ownerCheck k code = 5 →
              ∃ t, exec i s = .next t ∧ t.mem = s.mem ∧ ((∃ j, nth en j false = true) → t.outs = s.outs ++ [.bus f.master f.tag [] 5]))))) ∧
    (∀ u, unitOf s f.addr = some u → (mayReach s m u f.addr = false ∨ (tapOf s m u).isSome = true ∨ (tap = true ∧ ∃ b, u = .bank b)) →
      exec i s = .next (emit s (.bus f.master f.tag [] 4)))

/-- R225, R226, Table 8.2: the five atomics at an HBM word without errors that the arbiter grants: the word becomes the operation's result, every other byte is unchanged, the count of atomics
goes up by one, and `ADD64`, `SWAP` and `CAS` return the word as it was. A fenced or unreachable pseudo-channel answers status 8, and one whose way makes no grant is waited for. A scratchpad address and a master without the right are answered with status 4. -/
def Obligations.AtomicResults : Prop :=
  ∀ (s : State) (f : Frag) (v e : W128) (rv : Rivals), Plain s → f.oneWord = true → dead s = false → frozen s = false → tagBusy s f = false →
    let m := masterKind f.master.toNat
    let w := f.addr / 16
    let old := wordGet s.mem w
    let atomic (i : Instr) (isOr ret : Bool) (new : W128) : Prop :=
      (∀ st c row k, unitOf s f.addr = some (.pc st c row k) →
        (mayAtomic m isOr = true → mayReach s m (.pc st c row k) f.addr = true →
          (unitFenced s (masterDie m) (.pc st c row k) = true → exec i s = .next (emit s (.bus f.master f.tag [] 8))) ∧
          (unitFenced s (masterDie m) (.pc st c row k) = false → pathGrant s m (.pc st c row k) false rv = none → exec i s = .next s) ∧
          ∀ s1, unitFenced s (masterDie m) (.pc st c row k) = false → pathGrant s m (.pc st c row k) false rv = some s1 →
            ∃ t, exec i s = .next t ∧ t.outs = s.outs ++ [.bus f.master f.tag (if ret then [old] else []) 0] ∧ t.atomicOps = s.atomicOps + 1 ∧
              wordGet t.mem w = new ∧ (∀ a, a / 16 ≠ w → cellGet t.mem.cells a = cellGet s.mem.cells a) ∧
              t = { s1 with mem := t.mem, outs := t.outs, atomicOps := t.atomicOps }) ∧
        (mayAtomic m isOr = false ∨ mayReach s m (.pc st c row k) f.addr = false → exec i s = .next (emit s (.bus f.master f.tag [] 4)))) ∧
      (∀ b, unitOf s f.addr = some (.bank b) → exec i s = .next (emit s (.bus f.master f.tag [] 4)))
    atomic (.atomicOr f v rv []) true false (old ||| v) ∧
    atomic (.atomicAnd f v rv []) false false (old &&& v) ∧
    atomic (.atomicAdd64 f v rv []) false true (((old >>> 64) <<< 64) ||| (((old + v).setWidth 64).setWidth 128)) ∧
    atomic (.atomicSwap f v rv []) false true v ∧
    atomic (.atomicCas f e v rv []) false true (if old = e then v else old)

/-- R220-R223, R239: a single upset that a read finds, in HBM or in a bank that its owner reads, gives the right data, is counted and queued for a write-back; the write-back ends the
upset with the bytes unchanged. A second upset of a word gives status 6, is counted, and leaves the word poisoned over the data as read; the distinct rows of a pseudo-channel and the
errors of a bank are held to their limit, at which the unit is fenced: it then serves and stores nothing more. The next read of a poisoned word is status 7; a whole-word write clears
the poison. -/
def Obligations.ErrorHandling : Prop :=
  ∀ (s : State) (u : MemUnit) (d code a : Nat), Inv s → unitOf s a = some u → a % 16 = 0 → unitFenced s d u = false →
    (∀ b, u = .bank b → ownerCheck s.banks[b] code = 0) →
    let w := a / 16
    let v := wordGet s.mem w
    let r := readWord s d code a
    (w ∉ s.mem.poison → ∀ fl, s.mem.latent.find? (·.word = w) = some { word := w, flips := fl, multi := false } →
      r.data = v ∧ r.status = 0 ∧ r.s.mem.cells = s.mem.cells ∧ w ∈ r.s.mem.writeBack ∧ r.s.ceTotal = satInc s.ceTotal ∧ r.s.ueTotal = s.ueTotal ∧
        (∀ b, u = .bank b → r.s.banks[b].ce = satInc s.banks[b].ce) ∧
        (∀ st c row k, u = .pc st c row k → r.s.stk[st].ce = satInc s.stk[st].ce) ∧
        (dead s = false → frozen s = false → ∃ t, exec (.correctedWriteBack w) r.s = .next t ∧ t.mem.cells = s.mem.cells ∧ w ∉ t.mem.writeBack ∧
          t.mem.latent = s.mem.latent.filter (·.word ≠ w))) ∧
    (∀ fl, s.mem.latent.find? (·.word = w) = some { word := w, flips := fl, multi := true } →
      r.data = v ^^^ fl ∧ r.status = 6 ∧ wordGet r.s.mem w = v ^^^ fl ∧ w ∈ r.s.mem.poison ∧ r.s.ueTotal = satInc s.ueTotal ∧
        (∀ x, x / 16 ≠ w → cellGet r.s.mem.cells x = cellGet s.mem.cells x) ∧
        (∀ b, u = .bank b → r.s.banks[b].ue = satInc s.banks[b].ue ∧
          r.s.banks[b].fenced = decide (s.bankUeLimit ≠ 0 ∧ s.bankUeLimit.toNat ≤ (satInc s.banks[b].ue).toNat)) ∧
        (∀ st c row k, u = .pc st c row k → r.s.stk[st].ue = satInc s.stk[st].ue ∧ r.s.stk[st].lastUe = BitVec.ofNat 64 (16 * w) ∧
          row ∈ r.s.stk[st].ueRows[c] ∧ (∀ x, x ∈ s.stk[st].ueRows[c] → x ∈ r.s.stk[st].ueRows[c]) ∧
          ∀ i : Fin 32, bit r.s.stk[st].pcFenced i.val =
            (bit s.stk[st].pcFenced i.val || (i == c && decide (s.pcUeLimit ≠ 0 ∧ s.pcUeLimit.toNat ≤ (insertAsc row s.stk[st].ueRows[c]).length)))) ∧
        (unitFenced r.s d u = true → ∀ x : W128, (readWord r.s d code a).status = 8 ∧ (readWord r.s d code a).s = r.s ∧ (writeWord r.s d code a x).status = 8 ∧
          (writeWord r.s d code a x).s = r.s)) ∧
    (w ∈ s.mem.poison → s.mem.latent = [] → r.data = v ∧ r.status = 7 ∧ r.s.mem = s.mem) ∧
    (∀ x : W128, s.twin.resync = none →
      let y := writeWord s d code a x
      y.status = 0 ∧ w ∉ y.s.mem.poison ∧ wordGet y.s.mem w = x ∧ y.s.mem.latent = s.mem.latent.filter (·.word ≠ w))

/-- R222, R224, R241: the memory's own commands. A write-back takes a waiting word off the list and ends its upset, without changing a byte; a patrol step moves its unit's position by one physical word (the model's
choice, log 50) and reads it, and waits where its channel or tap is not served; a refresh notes the time of its pseudo-channel alone, and none is made of a fenced one.

R224, R227, R228, R240: the stack events. A group whose calibration record no longer holds takes the safe margin; the end of its quiet window makes a record of the present conditions, or fences its eight
pseudo-channels; a stack at 105 degrees, or whose controller or PHY fails, is fenced whole; one above its limit below 105 degrees is only reported. -/
def Obligations.MemoryUpkeepAndStacks : Prop :=
  (
    ∀ s : State, dead s = false →
      (∀ w u, frozen s = false → w ∈ s.mem.writeBack → unitOf s (16 * w) = some u → unitFenced s (unitDie u) u = false →
        exec (.correctedWriteBack w) s = .next { s with mem := { s.mem with
          writeBack := s.mem.writeBack.filter (· ≠ w), latent := s.mem.latent.filter (·.word ≠ w) } }) ∧
      (∀ st, frozen s = false → s.scrubHours ≠ 0 → s.stk[st].fenced = false → s.mem.latent = [] → s.mem.poison = [] →
        let c : Fin 32 := Fin.ofNat 32 (s.mem.patrolStack[st] / 16)
        let still := bit s.stk[st].pcFenced c.val = false ∧ (inQuiet s.stk[st] c.val = true ∨ s.fab.pcArb[pcIndex st c].frozen = true)
        (still → exec (.patrolScrub (.inl st) []) s = .next s) ∧
        (¬ still → exec (.patrolScrub (.inl st) []) s = .next { s with mem := { s.mem with
          patrolStack := s.mem.patrolStack.set st ((s.mem.patrolStack[st] + 1) % (3 * 2 ^ 29)) } })) ∧
      (∀ b, frozen s = false → s.banks[b].fenced = false → s.fab.tapArb[b].frozen = false → s.mem.latent = [] → s.mem.poison = [] →
        exec (.patrolScrub (.inr b) []) s = .next { s with mem := { s.mem with
          patrolBank := s.mem.patrolBank.set b ((s.mem.patrolBank[b] + 1) % 2 ^ 18) } }) ∧
      (∀ (st : StackId) (c : Fin 32),
        let q : Fin 256 := ⟨32 * st.val + c.val, by omega⟩
        (bit s.stk[st].pcFenced c.val = true → exec (.refresh q) s = .next s) ∧
        (bit s.stk[st].pcFenced c.val = false → ∃ t, exec (.refresh q) s = .next t ∧ t = { s with stk := t.stk } ∧
          (∀ i, i ≠ st → t.stk[i] = s.stk[i]) ∧
          t.stk[st] = { s.stk[st] with refreshedAt := s.stk[st].refreshedAt.set c (s.ev.time[(⟨st.val / 2, by omega⟩ : Fin 4)]) }))) ∧
  (
    ∀ (s : State) (st : StackId), dead s = false → s.stk[st].fenced = false →
      let k := s.stk[st]
      let fenced' (t : State) : Prop := t.stk[st].fenced = true ∧ t.stk[st].pcFenced = BitVec.allOnes 32 ∧ t.stk[st].quiet = none ∧
        (stackReach s st = 0 → s.fab.hit = 0 → t.mem = s.mem)
      (∀ g : Fin 4, bit k.calSafe g.val = false → recordHolds k.calRec[g] k.temp.toNat k.vddq k.band[g].toNat = false →
        ∃ t, exec (.calRecordBreak st g) s = .next t ∧ t.stk[st] = { k with calSafe := setBit k.calSafe g.val true }) ∧
      (∀ g : Fin 4, k.quiet = some g → ∀ (volt : BitVec 10) (load : BitVec 2),
        (∃ t, exec (.quietWindowEnd st true volt load) s = .next t ∧ t.stk[st].quiet = none ∧ bit t.stk[st].calSafe g.val = false ∧
          (∀ h : Fin 4, h ≠ g → t.stk[st].calRec[h] = k.calRec[h] ∧ bit t.stk[st].calSafe h.val = bit k.calSafe h.val) ∧
          fld t.stk[st].calRec[g] 7 0 = k.temp.toNat ∧ fld t.stk[st].calRec[g] 17 8 = volt.toNat ∧
          fld t.stk[st].calRec[g] 127 64 = (timeOn s (dieOfStack st)).toNat) ∧
        (∃ t, exec (.quietWindowEnd st false volt load) s = .next t ∧ t.stk[st].quiet = none ∧ (s.mem.latent = [] → t.stk[st].fenced = false ∧
          ∀ c, c < 32 → bit t.stk[st].pcFenced c = (bit k.pcFenced c || c / 8 == g.val)))) ∧
      (∀ temp : Byte, 105 ≤ temp.toNat → ∃ t, exec (.stackOverheat st temp) s = .next t ∧ fenced' t ∧ t.stk[st].temp = temp) ∧
      (∃ t, exec (.controllerOrPhyFailure st) s = .next t ∧ fenced' t ∧ (s.mem.latent = [] → ∀ i, i ≠ st → t.stk[i] = s.stk[i])) ∧
      (∀ temp : Byte, s.pw.stackTlimit.toNat < temp.toNat → temp.toNat < 105 → k.hot = false → ∃ t, exec (.stackAboveThermalLimit st temp) s = .next t ∧
        t.stk[st] = { k with temp := temp, hot := true } ∧ t.mem = s.mem ∧ ∀ i, i ≠ st → t.stk[i] = s.stk[i]))

/-! ### Fences and losses (spec/15, spec/17) -/

/-- R393-R395, R239, R260, R309, R385: a write of 0 to a fence entry has no effect, and one of 1 fences the unit (LINK_FENCE: each link whose bit is 1); a paired secondary that loses a twin-mode partition by it says so (R434). What is fenced stays
fenced, and fencing it again changes nothing. Items that an earlier fence has reached end first, with its cause (R394). -/
def Obligations.DictionaryFences : Prop :=
  (∀ (s : State) (r : Requester) (a : DAcc) (v : Nat) (sunk : Fin 33) (all : Sunk),
    let fence (ix sub : Nat) (i : Instr) (f : State → State) : Prop :=
      Serves s r ix sub a v → (v = 0 → Completes i s r ix sub v id) ∧ (v = 1 → Completes i s r ix sub v fun s => fenceReach (f s))
    (∀ k : StackId, fence (0x4010 + k.val) 0x08 (.stackFence r k a) fun s => fenceStack s k 4) ∧
    (∀ b : BankId, fence (0x5000 + b.val) 0x09 (.bankFence r b a) fun s => fenceBank s b 4) ∧
    (∀ u : CrcId, fence (0x8010 + u.val) 0x06 (.crcFence r u a) fun s => fenceCrc (drawNat (endReached s)).2 u 1 (drawNat (endReached s)).1) ∧
    (∀ n : VeId, fence (0x3000 + n.val) 0x60 (.veFence r n a all) fun s => fenceVe (endReached s) n 1 all) ∧
    (∀ h : PortId, fence (0x2100 + h.val) 0x05 (.portFence r h a sunk) fun s => fencePort (endReached s) h 1 sunk.val) ∧
    (∀ p : PartId, fence (0x2000 + p.val) 0x73 (.partFence r p a) fun s => fencePart (endReached s) p) ∧
    (Serves s r 0xA000 0x46 a v → Completes (.linkFence r a) s r 0xA000 0x46 v fun s =>
      fenceReach ((List.range 4).foldl (fun t i => if v.testBit i then fenceLink t i else t) (endReached s)))) ∧
  (∀ (s : State) (x k : Nat) (all : Sunk),
    (∀ i : StackId, (s.stk[i].fenced = true → fenceStack s i x = s) ∧ (s.stk[i].fenced = false →
      (fenceStack s i x).stk = s.stk.set i { s.stk[i] with fenced := true, pcFenced := BitVec.allOnes 32, quiet := none } ∧ (fenceStack s i x).mem = s.mem)) ∧
    (∀ b : BankId, (s.banks[b].fenced = true → fenceBank s b x = s) ∧ (s.banks[b].fenced = false →
      (fenceBank s b x).banks = s.banks.set b { s.banks[b] with fenced := true, drain := none, held := [], waiters := [] } ∧ (fenceBank s b x).mem = s.mem)) ∧
    (∀ n : VeId, (s.eng[n].fenced ≠ 0 → fenceVe s n x all = s) ∧ (s.eng[n].fenced = 0 → x < 256 → (fenceVe s n x all).eng[n].fenced = BitVec.ofNat 8 x)) ∧
    (∀ h : PortId, (s.ports[h].fenced = true → fencePort s h x k = s) ∧
      (s.ports[h].fenced = false → (fencePort s h x k).ports[h].fenced = true ∧ (fencePort s h x k).ports[h].link = 3)) ∧
    (∀ p : PartId, (s.parts[p].fenced = true → fencePart s p = s) ∧
      (s.parts[p].fenced = false → (fencePart s p).parts[p].fenced = true ∧ (fencePart s p).parts[p].jobs = [] ∧ (fencePart s p).parts[p].run = none)) ∧
    (∀ u : CrcId, (s.crc[u].fenced = true → fenceCrc s u x k = s) ∧ (s.crc[u].fenced = false → (fenceCrc s u x k).crc[u].fenced = true)) ∧
    (∀ i : Fin 4, (bit s.fab.links i.val = true → fenceLink s i.val = s) ∧ (bit s.fab.links i.val = false →
      ∀ j : Fin 4, bit (fenceLink s i.val).fab.links j.val = (bit s.fab.links j.val || j == i)) ∧
      (s.fab.links = 0 → (fenceLink s i.val).mem = s.mem)))

/-- R376, R386, R389, R309, R430, Table 15.4: the fence of Q0 loses the device as a whole, a primary
with its link up sending the fatal notice (R405), and another die's fence fences the port on it; a stream-path fault fences its port; a lost clock is counted once and loses what its domain feeds;
a lockstep mismatch is counted and reported, puts the pair into recovery microcode (R216; log 20), and fences it at the third at one boundary or the seventeenth within a second; a paired mismatch counts, and the third at one place fences both engines; up to then its engine is in recovery microcode
and memory keeps its words (log 31). -/
def Obligations.FaultEvents : Prop :=
  ∀ s : State, dead s = false →
    let e := endReached s
    (∀ sunk : Sunk, exec (.dieFence ⟨0, sunk⟩) s = .next (if bit e.dieFenced 0 then fenceReach e else fenceReach (loseDevice (setAlert e 1)))) ∧
    (∀ (d : DieId) (sunk : Sunk), d ≠ 0 → ∃ t, exec (.dieFence ⟨d, sunk⟩) s = .next t ∧ bit t.dieFenced d.val = true ∧
      (bit s.dieFenced d.val = false → t.ports[(⟨d.val, d.isLt⟩ : PortId)].fenced = true ∧ ∀ n : VeId, dieOfVe n = d → t.eng[n].fenced ≠ 0)) ∧
    (∀ u : State, (loseDevice u).boot.lost = true ∧ (loseDevice u).mem = u.mem ∧
      (u.twin.primary = true → u.twin.linkUp = true → (loseDevice u).twin = (sendFrame u 0x07 []).twin) ∧
      ∀ h : PortId, (loseDevice u).ports[h].fenced = u.ports[h].fenced ∧ (u.ports[h].fenced = false → (loseDevice u).ports[h].link = 0)) ∧
    (∀ x : PathLoss, exec (.streamPathFault x) s = .next (fencePort e x.port 2 x.sunk.val)) ∧
    (∀ x : ClockLoss, ∃ t, exec (.pllLossOfLock x) s = .next t ∧
      (x.src = .sysclk → bit s.dieFenced 0 = false → t.boot.lost = true) ∧
      (∀ i, x.src = .domain i →
        (bit s.boot.pllLock i.val = false → t = fenceReach e) ∧
        (bit s.boot.pllLock i.val = true → t = fenceReach (domainLost (pllLost e i.val) i.val x.sunk) ∧ bit (pllLost e i.val).boot.pllLock i.val = false ∧ bit (pllLost e i.val).boot.pllGone i.val = true ∧
          (pllLost e i.val).boot.pllLosses = satInc s.boot.pllLosses ∧ (i.val = 8 ∨ i.val = 25 → bit s.dieFenced 0 = false → t.boot.lost = true) ∧
          ∀ n : VeId, i.val = n.val / 8 → t.eng[n].fenced ≠ 0)) ∧
      (∀ i, x.src = .refclk i → t = fenceReach (allLinksDown (([20, 21, 22, 23, 24] : List Nat).foldl (fun t i => if bit t.boot.pllLock i then pllLost t i else t) e) x.sunk))) ∧
    (s.ls.state = 0 → s.sv.st = .running →
      let pc := s.sv.r.pc
      let n := if s.ls.repeatAt = some pc ∧ s.ls.atRetired = s.sv.retired then s.ls.repeats + 1 else 1
      let recent := s.ls.recent.filter fun t => decide ((timeNow s - t).toNat < 1000000000)
      ∃ t, exec .lockstepMismatch s = .next t ∧ t.ls.mismatches = satInc s.ls.mismatches ∧ t.ls.lastPc = pc.setWidth 64 ∧ t.ls.repeatAt = some pc ∧ t.ls.repeats = n ∧
        (n < 3 → recent.length < 16 → t.ls.state = 1 ∧ t.sv = { s.sv with st := .recovery } ∧ t.dict.pending = s.dict.pending) ∧
        (3 ≤ n ∨ 16 ≤ recent.length → t.ls.state = 2 ∧ t.sv.st = .stopped ∧ t.sv.r = s.sv.r)) ∧
    (∀ (pair : Fin 32) (kind : BitVec 2) (slot : Fin 4096) (n m : VeId) (p : PartId) (sunk : Sunk), n.val = 2 * pair.val → m.val = 2 * pair.val + 1 → execPart s n = some p →
      clockRuns s (clusterOfVe n) = true → s.seq[n].st ≠ .recovery → s.eng[n].fenced = 0 → s.eng[m].fenced = 0 → s.parts[p].cfg.paired = true → servesRun s p n = true →
      let here := (kind.toNat == 2, if kind.toNat = 2 then slot.val else s.seq[n].r.pc.toNat)
      let rep := pairRepeat s.eng[n] here
      ∃ t, exec (.pairedMismatch pair kind slot sunk) s = .next t ∧
        (rep < 3 → t.eng[n].pairMismatches = satInc s.eng[n].pairMismatches ∧ t.eng[n].pairLog = (here, rep) :: s.eng[n].pairLog.filter (fun x => x.1 != here) ∧ t.eng[n].fenced = 0 ∧ t.eng[m].fenced = 0 ∧
          (∀ g, g ∈ t.eng[n].queue ∨ g ∈ t.eng[m].queue → g.started = false) ∧ t.mem = s.mem ∧
          t.seq[n] = { s.seq[n] with st := .recovery, back := s.seq[n].st } ∧ ∀ i, i ≠ n → t.seq[i] = s.seq[i]) ∧
        (3 ≤ rep → t.eng[n].fenced = 2 ∧ t.eng[m].fenced = 2))

/-- R415, R416, R249, R258, R259: HOLD_N and DBG_FREEZE freeze the device from the first of the two until both are off, HOLD_N once the dictionary is open (Table 19.5); the entry is complete once every clock has paused; the supervisor's REMAP waits for its `SYNC.I`; a wait past WD_TIMEOUT is
reported, and a circle of waits is broken by revoking its latest grant, whose requests are withdrawn (R261). Memory keeps its words then (log 31),
and what waits is timed from outside (log 51). -/
def Obligations.FreezeRemapWatchdog : Prop :=
  ∀ s : State,
    exec .holdNAssert s = .next (freezeSet s true s.fz.dbg) ∧
    exec .holdNDeassert s = .next (freezeSet s false s.fz.dbg) ∧
    (∀ (r : Requester) (a : DAcc) (v : Nat), Serves s r 0x9000 0x03 a v → Completes (.dbgFreeze r a) s r 0x9000 0x03 v fun s => freezeSet s s.fz.holdN (v == 1)) ∧
    (∀ a b : Bool, b = true ∨ (a = true ∧ s.dict.isOpen = true) →
      frozen (freezeSet s a b) = true ∧ freezeSet s a b = { s with fz := { s.fz with holdN := a, dbg := b, state := if s.fz.state = 0 then 1 else s.fz.state } }) ∧
    (∀ a : Bool, a = false ∨ s.dict.isOpen = false →
      (s.fz.state ≠ 0 → freezeSet s a false = thaw { s with fz := { s.fz with holdN := a, dbg := false } }) ∧
      (s.fz.state = 0 → freezeSet s a false = { s with fz := { s.fz with holdN := a, dbg := false } })) ∧
    (dead s = false → s.fz.state = 1 → ∃ t, exec .freezeEntered s = .next t ∧ t.fz = { s.fz with state := 2, startAt := timeNow s } ∧
      t.mem = s.mem ∧ t.parts = s.parts ∧ t.seq = s.seq ∧ t.eng = s.eng ∧ t.banks = s.banks) ∧
    (dead s = true ∨ s.fz.state ≠ 1 → exec .freezeEntered s = .next s) ∧
    (∀ v : W64, canRun s .sv = true → exec (.remap v) s = .next (if bit v 0 ∧ s.fab.remap = false then { s with fab := { s.fab with remapDue := true } } else s)) ∧
    (∀ (w : WaitOn) (sunk : Sunk), dead s = false → frozen s = false →
      (waitStart s w = none → exec (.watchdogExpiry w sunk) s = .next s) ∧
      (∀ n firsts, waitStart s w = some (n, firsts) →
        (firsts.findSome? (fun m => waitPath s n 96 m) = none → exec (.watchdogExpiry w sunk) s = .next (raiseN s 785 (waitDetail w))) ∧
        (∀ circle, firsts.findSome? (fun m => waitPath s n 96 m) = some circle →
          (latestGrant s circle = none → exec (.watchdogExpiry w sunk) s = .next (raiseN s 785 (waitDetail w))) ∧
          (∀ p slot o h, latestGrant s circle = some (p, slot, o, h) → ∃ t, exec (.watchdogExpiry w sunk) s = .next t ∧
            t.fab.wdBreaks = satInc s.fab.wdBreaks ∧ t.eng[h].wdAborts = satInc s.eng[h].wdAborts ∧ t.mem = s.mem ∧
            t.banks = (withdraw s (veMasters h 7)).banks ∧ (∀ m, m ≠ h → t.eng[m] = s.eng[m]) ∧
            (∀ run, s.parts[p].run = some run → ∃ run', t.parts[p].run = some run' ∧ run'.grants = run.grants.filter (fun g => g.1 != slot) ∧
              run'.slots = run.slots.filter fun y => y.1 != slot)))))

/-! ### Reads with effects: tap reads, DBG_DATA and ABORT_LAST (spec/08, spec/12, spec/16) -/

/-- R237-R239, R320, R414, R415: a tap read in an idle cycle, or in its guaranteed cycle, answers the four words of the line as they are and changes nothing but the tap arbiter, all ones with status 8
of a fenced bank; one met by the owner's write answers free words with BUSY, counts a retry, and the write takes effect. DBG_DATA answers the word that the requester's DBG_ADDR names with its
flags, all ones of a fenced or unreachable bank, and waits while the tap arbiter grants nothing. Reading ABORT_LAST clears it, and a refused read answers all ones. The memory holds no error here. A patrol's tap
read takes the cycles in which no debug path asks (R237). -/
def Obligations.TapAndDebugReads : Prop :=
  (∀ (s : State) (b : BankId) (line : BitVec 16) (who : TapReq), Inv s → dead s = false → s.mem.poison = [] → s.mem.latent = [] → tapMay b who = true →
    let k := s.banks[b]
    let at' (w : Nat) : Nat := (spLo + b.val * bankBytes + 64 * line.toNat + 16 * w) / 16
    let words : List W128 := (List.range 4).map fun w => if k.fenced then BitVec.allOnes 128 else wordGet s.mem (at' w)
    let clean (s1 : State) : State := emit s1 (.tap b words false (if k.fenced then 8 else 0))
    (∀ s1, tapTurn s b who .alone = some s1 → exec (.tapGuaranteedCycle b line who) s = .next (clean s1)) ∧
    (∀ (c : Contest) (s1 : State), tapTurn s b who c = some s1 →
      exec (.tapRead b line who ⟨c, none⟩) s = .next (clean s1) ∧
      ∀ h : SenseWrite,
        (k.fenced = true → exec (.tapRead b line who ⟨c, some h⟩) s = .next (clean s1)) ∧
        (k.fenced = false → k.owner = 0 → exec (.tapRead b line who ⟨c, some h⟩) s = .next s) ∧
        (k.fenced = false → k.owner ≠ 0 →
          ∃ t, exec (.tapRead b line who ⟨c, some h⟩) s = .next t ∧
            t.outs = s.outs ++ [.tap b ((List.range 4).map fun i => Config.freeWord (s.free + i)) true 0] ∧
            t.banks = s.banks.set b { k with tapRetries := satInc k.tapRetries } ∧ t.free = s.free + 4 ∧ t.parts = s.parts ∧
            ∀ w, wordGet t.mem w = if w = at' h.word.toNat then h.val else wordGet s.mem w))) ∧
  (∀ (s : State) (b : BankId) (line : BitVec 16) (who : TapReq) (c : Contest) (h : Option SenseWrite),
    (dead s = true ∨ tapMay b who = false → exec (.tapRead b line who ⟨c, h⟩) s = .next s ∧ exec (.tapGuaranteedCycle b line who) s = .next s) ∧
    (tapTurn s b who c = none → exec (.tapRead b line who ⟨c, h⟩) s = .next s) ∧
    (tapTurn s b who .alone = none → exec (.tapGuaranteedCycle b line who) s = .next s)) ∧
  (∀ (s : State) (r : Requester) (ix sub bytes off : Nat) (e : Entry), Heeds s r → headCode s r ix sub false = none → entryAt s r ix sub = some e →
    widthOk r e.ty bytes off = true →
    let s0 := heard s r
    let cut (v : W128) : W128 := BitVec.ofNat 128 (v.toNat / 2 ^ (8 * off) % 2 ^ (8 * bytes))
    let gives (t : State) (v : W128) : State :=
      if r.val = 4 then i3cReady (i3cHold t (respDone (i3cSeq s) (bytesOf (cut v) bytes))) else emit t (.dictRead r (cut v))
    (∀ h : PortId, ix = 0x2100 + h.val → sub = 0x10 → r.val = h.val →
      exec (.abortLast h bytes off) s = .next (gives (modPort s0 h fun p => { p with abortLast := 0 }) e.val)) ∧
    (∀ (b : BankId) (hit : Option SenseWrite), ix = 0x5000 + b.val → sub = 0x11 → s.mem.poison = [] → s.mem.latent = [] →
      let k := s.banks[b]
      let w := (spLo + b.val * bankBytes + 16 * (k.dbg[r].addr.toNat % 2 ^ 18)) / 16
      let i : Instr := .debugRead r b bytes off hit
      let flags (t : State) (f : Byte) : State := modBank t b fun k => { k with dbg := updV k.dbg r fun d => { d with flags := f } }
      let cut' := unitFenced s (reqDie r) (.bank b)
      (cut' = true → exec i s = .next (gives (flags s0 8) (BitVec.allOnes 128))) ∧
      (cut' = false → tapGrant s0 b (debugSlot r b) .alone = none →
        exec i s = .next { s with dict := { s.dict with waiting := [.read r (BitVec.ofNat 16 ix) 0x11 bytes off hit] } }) ∧
      (∀ s1, cut' = false → tapGrant s0 b (debugSlot r b) .alone = some s1 →
        (hit = none ∨ frozen s = true ∨ k.owner = 0 → exec i s = .next (gives (flags s1 0) (wordGet s.mem w))) ∧
        (∀ h, hit = some h → frozen s = false → k.owner ≠ 0 → ∃ t, exec i s = .next (gives t (Config.freeWord s.free)) ∧ t.free = s.free + 1 ∧
          t.banks[b].torn = satInc k.torn ∧ t.banks[b].dbg = k.dbg.set r { k.dbg[r] with flags := 1 })))) ∧
  (∀ (s : State) (h : PortId) (bytes off code : Nat) (r : Requester), r.val = h.val → Heeds s r → headCode s r (0x2100 + h.val) 0x10 false = some code →
    exec (.abortLast h bytes off) s = .next (emit (dictRefuse (heard s r) r (0x2100 + h.val) 0x10 false code) (.dictRead r (BitVec.allOnes 128))))

/-! ### The rigging (spec/10) -/

/-- R253, R268-R274: an eligible slot that wins its receive port starts and holds the port. When it completes, its words are in place: each destination word holds what its source word held before the transfer, all other memory is as before, EXCH_WORDS
counts them, and the port is free. Source and destination lie in HBM here, in words that no other slot of the phase wrote, no other slot is in progress, and no arbiter on the way is frozen (R256). A slot whose receiver cannot be reached does not start (R21). -/
def Obligations.SlotTransfers : Prop :=
  ∀ (s : State) (p : PartId) (i : Fin 4096) (r : Run) (x : Slot) (n : VeId), dead s = false → s.parts[p].run = some r → (actSlots s.parts[p])[i.val]? = some x →
    boundVe s.parts[p] x.src = some n →
    (∀ (others : List VeId) (idle : Bool), (frozen s = true ∨ slotEligible s p r i.val = false ∨ s.eng[n].fenced ≠ 0 ∨ portHeld s (slotPort s p x) = true ∨
          (∃ m, boundVe s.parts[p] x.dst = some m ∧ slotReach s n m = false) → exec (.slotStart p i ⟨others, idle⟩) s = .next s) ∧
      (∀ (m : VeId) (a : Arb), frozen s = false → slotEligible s p r i.val = true → s.eng[n].fenced = 0 → boundVe s.parts[p] x.dst = some m →
        slotReach s n m = true →
        let port : Fin 128 := Fin.ofNat 128 (2 * m.val + x.rport)
        portHeld s port.val = false → s.fab.rxArb[port].frozen = false → x.rport < 2 →
        (∀ j y, (actSlots s.parts[p])[j]? = some y → y.src = x.src → slotEligible s p r j = true → slotPort s p y = port.val → y.inj = x.inj) →
        arbWin s.fab.rxArb[port] (fun _ => 0) (Nat.xor (port.val / 2) 1) idle n.val (others.map (·.val)) = some a →
        ∃ t, exec (.slotStart p i ⟨others, idle⟩) s = .next t ∧ t.mem = s.mem ∧ t.fab.rxArb = s.fab.rxArb.set port a ∧
          t.parts = s.parts.set p { s.parts[p] with run := some { r with
            slots := r.slots ++ [(i.val, .running [])], grants := r.grants ++ [(i.val, port.val, r.grantSeq)], grantSeq := r.grantSeq + 1 } })) ∧
    (∀ (m : VeId) (im : Image) (src dst : Nat → Nat), Inv s → s.parts[p].image = some im → boundVe s.parts[p] x.dst = some m → s.mem.poison = [] → s.mem.latent = [] →
      s.twin.resync = none → r.writes = [] → x.cmt = false → x.srcSpace = false → x.dstSpace = false → (∃ y, y ∈ r.slots ∧ y.1 = i.val ∧ y.2 ≠ .complete) →
      (∀ y, y ∈ r.slots → y.1 = i.val ∨ y.2 = .complete) → slotReach s n m = true →
      (∀ k, k < x.words → partDev s p false (slotOff s p x.srcRel x.srcOff + 16 * k) = some (16 * src k) ∧ partDev s p false (slotOff s p x.dstRel x.dstOff + 16 * k) = some (16 * dst k) ∧
        devWaits s (.engine n 6) (16 * src k) = false ∧ devWaits s (.engine n 6) (16 * dst k) = false ∧
        (∃ u, unitOf s (16 * src k) = some u ∧ (∀ b, u ≠ .bank b) ∧ unitFenced s (n.val / 16) u = false) ∧
        ∃ u, unitOf s (16 * dst k) = some u ∧ (∀ b, u ≠ .bank b) ∧ unitFenced s (n.val / 16) u = false) →
      (∀ k l, k < x.words → l < x.words → dst k = dst l → k = l) →
      ∃ t, exec (.slotComplete p i) s = .next t ∧ (∀ k, k < x.words → wordGet t.mem (dst k) = wordGet s.mem (src k)) ∧
        (∀ w, (∀ k, k < x.words → dst k ≠ w) → wordGet t.mem w = wordGet s.mem w) ∧
        t.parts[p].exchWords = s.parts[p].exchWords + BitVec.ofNat 64 x.words ∧
        ∃ r', t.parts[p].run = some r' ∧ (i.val, SlotState.complete) ∈ r'.slots ∧ (∀ g, g ∈ r'.grants ↔ g ∈ r.grants ∧ g.1 ≠ i.val)) ∧
    ((∀ y, y ∈ r.slots → y.1 = i.val → y.2 = .complete) → exec (.slotComplete p i) s = .next s)

/-- R275, R276, R279, R281, R282: the barrier releases when every bound VE is done, and commit follows, held edits landing in the table that was active,
the last one for a slot standing, before a due swap; a VE that is late past BAR_TIMEOUT, while every bound VE is resident, fails the segment with 0x0A04. A slot that meets a place outside its partition fails it with 0x0A01. -/
def Obligations.BarriersAndFaults : Prop :=
  (∀ (s : State) (p : PartId) (i : Fin 4096) (cut : ExchCut) (vs : List VeId) (idle : Bool), s.parts[p].run = none →
    exec (.barrierRelease p) s = .next s ∧ exec (.barrierTimeout ⟨p, cut⟩) s = .next s ∧
    exec (.exchangeFault p i cut) s = .next s ∧ exec (.slotComplete p i) s = .next s ∧ exec (.slotStart p i ⟨vs, idle⟩) s = .next s) ∧
  (∀ (s : State) (p : PartId) (r : Run) (cut : ExchCut), dead s = false → s.parts[p].run = some r →
    let q := s.parts[p]
    (r.phase ≠ .evaluate ∨ q.bind = [] ∨ (∃ n, n ∈ q.bind ∧ n ∉ r.done) → exec (.barrierRelease p) s = .next s) ∧
    (r.phase = .evaluate → q.bind ≠ [] → (∀ n, n ∈ q.bind → n ∈ r.done) →
      ∃ t r', exec (.barrierRelease p) s = .next t ∧ t.parts[p].run = some r' ∧
        r' = { r with phase := .commit, done := [], firstDone := none, slots := [], writes := [], grants := [] } ∧ t.parts[p].exchWraps = q.exchWraps + 1 ∧
        (∀ t0, r.firstDone = some t0 → t.parts[p].barLastNs = (timeNow s - t0).setWidth 32) ∧
        (q.edits = [] → q.swapDue = false → t.parts[p].exchTables = q.exchTables ∧ t.parts[p].exchActive = q.exchActive ∧ t.outs = s.outs) ∧
        (t.parts[p].swapDue = false ∧ t.parts[p].exchActive = (q.exchActive != q.swapDue)) ∧
        (q.swapDue = true → t.parts[p].exchSlotsAct = q.cfg.exchShadowSlots ∧ t.parts[p].cfg.exchShadowSlots = q.exchSlotsAct) ∧
        ((∀ e, e ∈ q.edits → e.shadow = false ∧ (e.due < r.cycle ∨ (e.due = r.cycle ∧ e.post = false))) → t.parts[p].edits = [] ∧
          t.parts[p].exchTables[shadowTable q] = q.exchTables[shadowTable q] ∧
          (∀ l e l', q.edits = l ++ e :: l' → (∀ e', e' ∈ l' → e'.slot ≠ e.slot) → nth t.parts[p].exchTables[actTable q] e.slot (0, 0) = (e.w0, e.w1)) ∧
          (∀ i, (∀ e, e ∈ q.edits → e.slot ≠ i) → nth t.parts[p].exchTables[actTable q] i (0, 0) = nth q.exchTables[actTable q] i (0, 0)) ∧
          ∀ e b, e ∈ q.edits → e.by' = some b → b ≠ 4 → .dictDone b ∈ t.outs) ∧
        (∀ e, e ∈ t.parts[p].edits ↔ e ∈ q.edits ∧ r.cycle < e.due) ∧ t.mem = s.mem) ∧
    (frozen s = true ∨ r.phase ≠ .evaluate ∨ r.firstDone = none ∨ (∀ n, n ∈ q.bind → n ∈ r.done) ∨ allResident s p = false →
      exec (.barrierTimeout ⟨p, cut⟩) s = .next s) ∧
    (frozen s = false → r.phase = .evaluate → r.firstDone ≠ none → (∃ n, n ∈ q.bind ∧ n ∉ r.done) → allResident s p = true → twinActive s p = false →
      ∃ t, exec (.barrierTimeout ⟨p, cut⟩) s = .next t ∧ t.parts[p].run = none ∧ t.parts[p].fresh = true ∧ t.parts[p].designCycle = q.designCycle ∧
        t.parts[p].ledger.lastCause = 0x0A04 ∧ (cut.moved = [] → t.mem = s.mem) ∧ ∀ n, n ∈ q.bind → t.seq[n].st = .stopped ∨ t.seq[n].st = s.seq[n].st) ∧
    (∀ (i : Fin 4096) (im : Image) (x : Slot) (n m : VeId), (actSlots q)[i.val]? = some x → q.image = some im → boundVe q x.src = some n → boundVe q x.dst = some m → 0 < x.words →
      slotEligible s p r i.val = true → twinActive s p = false → partDev s p x.srcSpace (slotOff s p x.srcRel x.srcOff) = none →
      ∃ t, exec (.exchangeFault p i cut) s = .next t ∧ t.parts[p].run = none ∧ t.parts[p].ledger.lastCause = 0x0A01 ∧ (cut.moved = [] → t.mem = s.mem)))

/-! ### Host ports and stream entries (spec/11) -/

/-- R288, R310, Table 11.8: a link that trains to a width and speed of Table 11.1 reports them; a link down, a hot reset and a Function Level Reset reset the port's PCIe logic and its stream path: held words, push blocks in progress and partial reads are gone, and every MSI-X
vector is masked with its address and data zero and none pending (log 91), and its configuration space is at its reset values until host software enumerates it again (log 101). A hot reset leaves the link training
(log 71), and a port whose PLL lost lock trains no more (R430). Correctable errors are counted and logged, which one being free, and the first and every 256th reported. -/
def Obligations.HostLinks : Prop :=
  ∀ (s : State) (h : PortId) (sunk : Fin 33), dead s = false →
    let o := s.ports[h]
    let isReset (t : State) (link : Nat) (width speed : Byte) : Prop :=
      t.ports[h].link = link ∧ t.ports[h].width = width ∧ t.ports[h].speed = speed ∧ t.ports[h].rx = [] ∧ t.ports[h].msixTable = msixTableReset ∧
      t.ports[h].msixPending = 0 ∧ t.ports[h].cfg = PciCfg.reset ∧ ∀ p : PartId, ownerOf s p = h →
        (∀ k : Fin 8, (k.val ≤ 2 ∨ k.val = 7) → t.parts[p].streams[k].cur = none) ∧ ∀ k : Fin 8, ∀ b, b ∈ t.parts[p].streams[k].out → b.read = 0
    (∀ width speed volt load,
      (o.fenced = true ∨ o.link = 2 ∨ s.boot.state = 8 ∨ bit s.boot.pllGone (20 + h.val) = true ∨ Config.linkTrains width speed = false → exec (.hostLinkUp h width speed volt load) s = .next s) ∧
      (o.fenced = false → o.link ≠ 2 → s.boot.state ≠ 8 → bit s.boot.pllGone (20 + h.val) = false → Config.linkTrains width speed = true → ∃ t, exec (.hostLinkUp h width speed volt load) s = .next t ∧
        t.ports[h].link = 2 ∧ t.ports[h].width = width.setWidth 8 ∧ t.ports[h].speed = speed.setWidth 8 ∧ t.ports[h].eqOut = false ∧ t.ports[h].cfg = enumerated o.cfg)) ∧
    (o.fenced = true ∨ o.link = 0 → exec (.hostLinkDown h sunk) s = .next s) ∧
    (o.fenced = false → o.link ≠ 0 → ∃ t, exec (.hostLinkDown h sunk) s = .next t ∧ isReset t 0 0 0) ∧
    (o.link ≠ 2 → exec (.hotReset h sunk) s = .next s ∧ exec (.functionLevelReset h sunk) s = .next s) ∧
    (o.link = 2 → (∃ t, exec (.hotReset h sunk) s = .next t ∧ isReset t 1 0 0) ∧ ∃ t, exec (.functionLevelReset h sunk) s = .next t ∧ isReset t 2 o.width o.speed) ∧
    (o.link = 0 ∨ o.link = 3 → exec (.correctableLinkError h) s = .next s) ∧
    (o.link ≠ 0 → o.link ≠ 3 →
      let s1 := modPort (drawWord s).2 h fun p => { p with correctable := p.correctable + 1, cfg := { p.cfg with
        aerCorrectable := p.cfg.aerCorrectable ||| (drawWord s).1.setWidth 32 } }
      let n := o.correctable + 1
      exec (.correctableLinkError h) s = .next (if n = 1 ∨ n % 256 = 0 then raiseN s1 (582 + 8 * h.val) (BitVec.ofNat 32 (n % 65536)) else s1))

/-- R289-R291, R294, R296, R300, R302, R317, R398: a write that reaches no FIFO has no effect but its event or abort code; one behind a held word or a held dictionary write waits its turn; a malformed one puts the entry into
discard; a whole stimulus block in one write, with a right header and CRC and room for it, completes: its words join the FIFO, NEXT_SEQ and BLOCKS count it, and its record enters the ledger. A held word that finds no room in
time is discarded with the rest of its block. A write above the apertures changes the MSI-X table's bytes and no others, and a vector unmasked with its pending bit set sends its message. A port whose function is not enabled answers nothing (Table 11.1, log 101). What waits, and in which order R398 is asked, are readings (logs 69, 94). -/
def Obligations.StreamWrites : Prop :=
  (∀ (s : State) (h : PortId) (p : PartId) (k : Fin 8) (bar0 : Bool) (off : Nat) (data : List Byte), off < (if bar0 then 16 else 4096) →
    let r : Requester := h.castLE (by decide)
    let n := 8 * p.val + k.val
    let a : HostAddr := if bar0 then .bar0 (BitVec.ofNat 28 ((0xF000 + n) * 4096 + off)) else .bar2 (BitVec.ofNat 20 (n * 4096 + off))
    let i : Instr := hostWrite h a data
    let s0 := dropHalf s h bar0
    let ab (t : State) (code : Nat) : State := if bar0 then portAbort t h (0xF000 + n) 0 true code else t
    let stray (t : State) : State := raiseN t (579 + 8 * h.val) (accessDetail p k true)
    tlpWf 512 a data.length = true →
    (dead s = true ∨ s.ports[h].link ≠ 2 → exec i s = .next s) ∧
    (dead s = false → s.ports[h].link = 2 → takesTlps s.ports[h] = false → exec i s = .next (unsupported s h)) ∧
    (dead s = false → s.ports[h].link = 2 → takesTlps s.ports[h] = true → s.dict.waiting = [] →
      (s.ports[h].rx ≠ [] ∨ (bar0 = true ∧ waits s r = true) → exec i s = .next { s with dict := { s.dict with waiting := [.tlpWrite h a data] } }) ∧
      (s.ports[h].rx = [] → (bar0 = true → waits s r = false) →
        (s.dict.isOpen = false → exec i s = .next (ab s0 0x0030)) ∧
        (s.dict.isOpen = true → hostShut s = true → exec i s = .next (if bar0 then ab s0 0x0007 else stray s0)) ∧
        (s.dict.isOpen = true → hostShut s = false → ownerOf s p ≠ h → exec i s = .next (ab (stray s0) 0x0004)) ∧
        (s.dict.isOpen = true → hostShut s = false → ownerOf s p = h →
          (off % 16 ≠ 0 ∨ data.length % 16 ≠ 0 → (k.val ≤ 2 ∨ k.val = 7) → ∃ t, exec i s = .next t ∧ t.parts[p].streams[k].discard = true) ∧
          (3 ≤ k.val → k.val ≤ 6 → exec i s = .next (kick (raiseN s0 (580 + 8 * h.val) (accessDetail p k false)) p)) ∧
          (off % 16 = 0 → data.length % 16 = 0 → (k.val ≤ 2 ∨ k.val = 7) → exec i s = .next (partGo (pushTlp s0 h p k (wordsOf data)) p)))))) ∧
  (∀ (s : State) (h : PortId) (p : PartId) (bar0 : Bool) (data : List Byte) (w : W128) (pay : List W128),
    let r : Requester := h.castLE (by decide)
    let n := 8 * p.val + 2
    let a : HostAddr := if bar0 then .bar0 (BitVec.ofNat 28 ((0xF000 + n) * 4096)) else .bar2 (BitVec.ofNat 20 (n * 4096))
    let st := s.parts[p].streams[(2 : Fin 8)]
    Heeds s r → s.dict.isOpen = true → hostShut s = false → ownerOf s p = h → st.cur = none → st.discard = false → s.parts[p].ledger.held = false →
    (∀ k, k ∈ inEntries → s.parts[p].streams[k].recvd = [] ∧ s.parts[p].streams[k].raw = []) → fillDue s.parts[p] = false → twinActive s p = false →
    s.parts[p].fenced = false → partMemFenced s p = false → s.crc.all (·.fenced) = false → s.parts[p].restore = none →
    s.parts[p].streams[(0 : Fin 8)].fifo = [] → s.parts[p].loadQ = [] →
    0 < pay.length → pay.length ≤ 31 → st.fifo.length + pay.length + 1 ≤ st.depth.toNat → data.length = 16 * (pay.length + 1) → wordsOf data = w :: pay →
    w = at' 128 96 st.seqIn.toNat ||| at' 128 88 0xA5 ||| at' 128 64 (pay.length - 1) ||| at' 128 32 (crcBlock st.seqIn pay).toNat ||| 2 →
    ∃ t, exec (hostWrite h a data) s = .next t ∧
      t.parts[p].streams = s.parts[p].streams.set 2 { st with seqIn := st.seqIn + 1, blocks := st.blocks + 1, fifo := st.fifo ++ pay } ∧
      t.parts[p].ledger.ring = s.parts[p].ledger.ring ++ [ledgerRec st.seqIn 0x12 0 (BitVec.ofNat 64 pay.length)] ∧ t.mem = s.mem ∧
      ∀ q, q ≠ p → t.parts[q] = s.parts[q]) ∧
  (∀ (s : State) (h : PortId), (s.ports[h].rx = [] ∨ dead s = true ∨ frozen s = true → exec (.fifoHoldTimeout h) s = .next s) ∧
    (dead s = false → frozen s = false → ∀ x r, s.ports[h].rx = x :: r → ∃ t, exec (.fifoHoldTimeout h) s = .next t ∧
      t.ports[h].rx = [] ∧ t.parts[x.part].streams[x.k].discard = true)) ∧
  (∀ (s : State) (h : PortId) (off : BitVec 20) (data : List Byte), 0x80000 ≤ off.toNat → tlpWf 512 (.bar2 off) data.length = true →
    Heeds s (h.castLE (by decide)) →
    let t := modPort s h fun t => { t with msixTable := (List.range 256).map fun i =>
      if off.toNat ≤ 0x80000 + i ∧ 0x80000 + i < off.toNat + data.length then nth data (0x80000 + i - off.toNat) 0 else nth t.msixTable i 0 }
    exec (hostWrite h (.bar2 off) data) s = .next (msixFlush t h) ∧
    ∀ v : Nat, v < 16 → bit s.ports[h].msixPending v = false → bit (msixFlush t h).ports[h].msixPending v = false)

/-- R289-R291, R296, R299, R303, R317, R344, R398: a read of an out entry returns the words of its presented blocks in order, then zeros that are counted; the last word of a block completes it. An entry without an out side
reads as zeros, a misaligned read of one that has it is an Unsupported Request, and one behind a held word or write waits its turn. An idle entry presents what its ring holds as one block of its limit. Above the apertures
the MSI-X table and its pending bits are read, and zeros elsewhere. A port whose function is not enabled answers Unsupported Request (Table 11.1, log 101); what waits, and in which order R398 is asked, are readings (logs 69, 94). -/
def Obligations.StreamReads : Prop :=
  (∀ (s : State) (h : PortId) (p : PartId) (k : Fin 8) (bar0 : Bool) (off bytes : Nat), off < (if bar0 then 16 else 4096) →
    let r : Requester := h.castLE (by decide)
    let q := 8 * p.val + k.val
    let a : HostAddr := if bar0 then .bar0 (BitVec.ofNat 28 ((0xF000 + q) * 4096 + off)) else .bar2 (BitVec.ofNat 20 (q * 4096 + off))
    let i : Instr := hostRead h a bytes
    let s0 := dropHalf s h bar0
    let st := s.parts[p].streams[k]
    let ones : List W128 := List.replicate (cdiv bytes 16) (BitVec.allOnes 128)
    let refused (t : State) (code : Nat) : State :=
      if bar0 then emit (portAbort t h (0xF000 + q) 0 false code) (.cpl h ones) else emit (unsupported t h) (.unsupported h)
    let stray (t : State) : State := raiseN t (579 + 8 * h.val) (accessDetail p k false)
    let n := bytes / 16
    tlpWf 4096 a bytes = true →
    (dead s = true ∨ s.ports[h].link ≠ 2 → exec i s = .next s) ∧
    (dead s = false → s.ports[h].link = 2 → takesTlps s.ports[h] = false → exec i s = .next (emit (unsupported s h) (.unsupported h))) ∧
    (dead s = false → s.ports[h].link = 2 → takesTlps s.ports[h] = true → s.dict.waiting = [] →
      (s.ports[h].rx ≠ [] ∨ (bar0 = true ∧ waits s r = true) → exec i s = .next { s with dict := { s.dict with waiting := [.tlpRead h a bytes] } }) ∧
      (s.ports[h].rx = [] → (bar0 = true → waits s r = false) →
        (s.dict.isOpen = false → exec i s = .next (refused s0 0x0030)) ∧
        (s.dict.isOpen = true → hostShut s = true → exec i s = .next (if bar0 then refused s0 0x0007 else refused (stray s0) 0x0007)) ∧
        (s.dict.isOpen = true → hostShut s = false → ownerOf s p ≠ h → exec i s = .next (refused (stray s0) 0x0004)) ∧
        (s.dict.isOpen = true → hostShut s = false → ownerOf s p = h →
          (k.val ≤ 2 → exec i s = .next (emit s0 (.cpl h (List.replicate (cdiv bytes 16) 0)))) ∧
          (3 ≤ k.val → (off % 16 ≠ 0 ∨ bytes % 16 ≠ 0) → exec i s = .next (emit (unsupported s0 h) (.unsupported h))) ∧
          (3 ≤ k.val → off % 16 = 0 → bytes % 16 = 0 →
            (st.out = [] → exec i s = .next (kick (emit (modStream s0 p k fun st => { st with emptyReads := satAdd st.emptyReads n }) (.cpl h (List.replicate n 0))) p)) ∧
            (∀ b r, st.out = b :: r → b.read + n < b.words.length →
              exec i s = .next (kick (emit (modStream s0 p k fun st => { st with out := { b with read := b.read + n } :: r })
                (.cpl h ((b.words.drop b.read).take n))) p)) ∧
            (∀ b r, st.out = b :: r → b.read + n = b.words.length →
              exec i s = .next (kick (emit (completeOut (modStream s0 p k fun st => { st with out := r }) p k { b with read := b.read + n - 1 }) (.cpl h (b.words.drop b.read))) p))))))) ∧
  (∀ (s : State) (p : PartId) (k : Fin 8),
    let st := s.parts[p].streams[k]
    let i : Instr := .outBlockPresent p k
    let n (l : Nat) : Nat := min (min 4096 (st.depth.toNat - 1)) l
    let shows (pay : List W128) (recs : Nat) : Prop := ∃ t b, exec i s = .next t ∧ t.parts[p].streams[k].out = [b] ∧ b.words.drop 1 = pay ∧ b.read = 0 ∧
      b.replay = false ∧ b.recs = recs ∧ b.seq = st.seqOut ∧ t.parts[p].streams[k].seqOut = st.seqOut + 1 ∧ t.mem = s.mem ∧
      b.words.head? = some (at' 128 96 st.seqOut.toNat ||| at' 128 88 0xA5 ||| at' 128 64 (pay.length - 1) ||| at' 128 32 (crcBlock st.seqOut pay).toNat ||| at' 128 3 1 |||
        BitVec.ofNat 128 k.val)
    (dead s = true ∨ k.val ≤ 2 → exec i s = .next s) ∧
    (dead s = false → k.val = 6 → s.parts[p].ledger.ring ≠ [] → st.out = [] → canPresent s p 6 (n s.parts[p].ledger.ring.length) = true →
      0 < n s.parts[p].ledger.ring.length →
      shows (s.parts[p].ledger.ring.take (n s.parts[p].ledger.ring.length)) (n s.parts[p].ledger.ring.length)) ∧
    (dead s = false → k.val = 5 → st.out = [] → canPresent s p 5 (n s.ev.hostRing[p].recs.length) = true → 0 < n s.ev.hostRing[p].recs.length →
      shows ((s.ev.hostRing[p].recs.take (n s.ev.hostRing[p].recs.length)).map (readRec (.host p))) (n s.ev.hostRing[p].recs.length)) ∧
    (dead s = false → k.val = 3 → (s.parts[p].frames = [] ∨ st.ready = [] → exec i s = .next s) ∧
      (∀ f r, s.parts[p].frames = f :: r → st.ready ≠ [] → exec i s = .next (releaseBlocks s p f))) ∧
    (dead s = false → k.val = 4 → exec i s = .next (if frozen s then s else presentTrace s p)) ∧
    (dead s = false → k.val = 7 → exec i s = exec (.checkpointSave p) s)) ∧
  (∀ (s : State) (h : PortId) (off : BitVec 20) (bytes : Nat), 0x80000 ≤ off.toNat → tlpWf 4096 (.bar2 off) bytes = true → Heeds s (h.castLE (by decide)) →
    exec (hostRead h (.bar2 off) bytes) s = .next (emit s (.cpl h (wordsOf ((List.range bytes).map fun i =>
      let x := off.toNat + i
      if 0x80000 ≤ x ∧ x < 0x80100 then nth s.ports[h].msixTable (x - 0x80000) 0
      else if 0x88000 ≤ x ∧ x < 0x88008 then byteOf s.ports[h].msixPending (x - 0x88000) else 0)))))

/-! ### Jobs and design cycles (spec/02, spec/11, spec/15, spec/16) -/

/-- R28, R35, R305, R382: the head job starts when nothing of the partition executes and its slot, twin and freeze let it. The first failing check, in their order, ends it with its record; else a save or restore begins, or a run segment, with the
engines of R35 bound; a run segment's first design cycle is the next one and its last by CYCLES. No job starts before the fills of its image are made (log 108); a start under trace waits while its reads do (R256). -/
def Obligations.JobStarts : Prop :=
  (∀ (s : State) (p : PartId), dead s = true ∨ frozen s = true ∨ resyncHeld s p = true ∨ inSlot s p = false ∨ partIdle s.parts[p] = false ∨ s.parts[p].jobs = [] ∨ fillDue s.parts[p] = true ∨
    (farStart s p = false ∧ takesJobs s = false) → exec (.jobStart p) s = .next s) ∧
  (∀ (s : State) (p : PartId) (j : Job) (rest : List Job), dead s = false → frozen s = false → resyncHeld s p = false → inSlot s p = true → partIdle s.parts[p] = true →
    fillDue s.parts[p] = false → s.parts[p].jobs = j :: rest → twinActive s p = false → takesJobs s = true →
    let q := s.parts[p]
    let kind := fld j.w0 95 92
    let dc : W64 := BitVec.ofNat 64 q.designCycle
    (∀ c d, jobCheck s p j = some (c, d) →
      exec (.jobStart p) s = .next (kick (settle (ledgerItem (modPart s p fun q => { q with jobs := rest }) p (jobId j) (jobKind j) c d) p) p)) ∧
    (∀ im b, jobCheck s p j = none → q.image = some im → bindVes (bindSet s p) q.cfg.paired im.hdr = some b →
      let bound (t : State) : Prop := t.parts[p].bind = b ∧ t.parts[p].handDue = false ∧ t.parts[p].imageState = 3 ∧ t.parts[p].designCycle = q.designCycle
      (kind = 1 → ∃ t, exec (.jobStart p) s = .next t ∧ t.parts[p].save = some (j, 0) ∧ bound t) ∧
      (kind = 2 → s.parts[p].streams[(7 : Fin 8)].fifo = [] → s.ports[ownerOf s p].rx = [] →
        ∃ t, exec (.jobStart p) s = .next t ∧ t.parts[p].restore = some { job := j, words := [] } ∧ bound t)) ∧
    (∀ im, jobCheck s p j = none → kind = 0 → q.image = some im → (bit j.w0 80 = true → WaysOpen s) → ∃ t r, exec (.jobStart p) s = .next t ∧ t.parts[p].run = some r ∧ r.job = j ∧
      r.cycle = q.designCycle + 1 ∧ r.last = q.designCycle + fld j.w0 79 40 ∧ r.phase = .ingest ∧ r.trace = bit j.w0 80 ∧ r.dmq = [] ∧ r.draining = false ∧
      some t.parts[p].bind = bindVes (bindSet s p) q.cfg.paired im.hdr ∧ t.parts[p].imageState = 3 ∧ t.parts[p].designCycle = q.designCycle ∧ t.parts[p].handDue = false) ∧
    (q.fenced = true → jobCheck s p j = some (0x0F03, none)) ∧
    (q.fenced = false →
      (jobBad j = true → jobCheck s p j = some (0x0B10, some dc)) ∧
      (jobBad j = false →
        (fld j.w1 127 64 ≠ 2 ^ 64 - 1 → fld j.w1 127 64 ≠ q.designCycle % 2 ^ 64 → jobCheck s p j = some (0x0B11, some dc)) ∧
        ((fld j.w1 127 64 = 2 ^ 64 - 1 ∨ fld j.w1 127 64 = q.designCycle % 2 ^ 64) →
          ((j.early = true ∨ q.imageState = 0 ∨ q.imageState = 1 ∨ q.imageState = 4) → jobCheck s p j = some (0x0208, none)) ∧
          (j.early = false → (q.imageState = 2 ∨ q.imageState = 3) → kind = 0 → q.stateLost = true → jobCheck s p j = some (0x0F23, none)) ∧
          (∀ im, j.early = false → (q.imageState = 2 ∨ q.imageState = 3) → (kind ≠ 0 ∨ q.stateLost = false) → q.image = some im →
            (bindVes (bindSet s p) q.cfg.paired im.hdr = none → jobCheck s p j = some (0x0204, none)) ∧
            (bindVes (bindSet s p) q.cfg.paired im.hdr ≠ none →
              (partMemFenced s p = true → jobCheck s p j = some (0x0803, none)) ∧
              (partMemFenced s p = false → q.streams[(3 : Fin 8)].depth.toNat < min im.hdr.resultWords 4096 + 1 → jobCheck s p j = some (0x0B12, some dc))))))))

/-- R38, R40, R159, R186, R390, R410, R37: ingest of a design cycle, in a solo partition whose in-streams stand still, writes its stimulus words to their places in the current buffer and starts evaluation: after a load or a failure every bound
sequencer starts at its entry point, else each goes on behind its `BARRIER`, one whose cluster's clock is paused when the clock resumes (R277). It waits for the observation of the design cycle before (log 89). Observation, release and a save go on as far as they can. -/
def Obligations.IngestAndRelease : Prop :=
  (∀ (s : State) (p : PartId) (r : Run) (im : Image), dead s = false → frozen s = false → r.obs = false → Inv s → s.mem.poison = [] → s.mem.latent = [] → s.twin.resync = none →
    s.parts[p].run = some r → s.parts[p].image = some im → r.phase = .ingest → r.draining = false → devDraining s p = false → inSlot s p = true → twinActive s p = false →
    stimReady s p im.hdr.stimWords = true → s.parts[p].farFail = none → fillDue s.parts[p] = false →
    (∀ k, k ∈ inEntries → s.parts[p].streams[k].recvd = [] ∧ s.parts[p].streams[k].raw = []) →
    s.parts[p].streams[(0 : Fin 8)].fifo = [] → s.parts[p].loadQ = [] → s.parts[p].restore = none → s.ports[ownerOf s p].rx = [] →
    let n := im.hdr.stimWords
    let ws := s.parts[p].streams[(2 : Fin 8)].fifo.take n
    ∀ place : Nat → Nat,
      (∀ i, i < n → OpenAt s p (.hostPath (ownerOf s p)) (curBase s p + nth im.portMap i 0) (place i)) →
      ∃ t, exec (.ingest p) s = .next t ∧ t.parts[p].run = some { r with phase := .evaluate, stim := ws } ∧ t.parts[p].fresh = false ∧
        t.parts[p].streams = s.parts[p].streams.set 2 { s.parts[p].streams[(2 : Fin 8)] with fifo := s.parts[p].streams[(2 : Fin 8)].fifo.drop n } ∧
        (∀ w, (∀ i, i < n → place i ≠ w) → wordGet t.mem w = wordGet s.mem w) ∧
        (∀ i, i < n → (∀ j, i < j → j < n → place j ≠ place i) → wordGet t.mem (place i) = nth ws i 0) ∧
        (s.parts[p].fresh = true → s.parts[p].bind.Nodup → ∀ l m, s.parts[p].bind[l]? = some m → t.seq[m].st = .running ∧ t.seq[m].r = { Regs.start with pc := entryOf im l } ∧
          t.eng[m].queue = []) ∧
        (s.parts[p].fresh = false → s.parts[p].bind.Nodup → ∀ m, m ∈ s.parts[p].bind → s.seq[m].st = .parked → s.seq[m].arrived = true →
          (clockRuns s (clusterOfVe m) = true →
            t.seq[m].st = .running ∧ t.seq[m].r.pc = s.seq[m].r.pc + 2 ∧ t.seq[m].retired = s.seq[m].retired + 1 ∧ t.seq[m].arrived = false) ∧
          (clockRuns s (clusterOfVe m) = false → t.seq[m] = { s.seq[m] with begunBarrier := false })) ∧
        ∀ m, m ∉ s.parts[p].bind → t.seq[m] = s.seq[m]) ∧
  (∀ (s : State) (p : PartId) (cut : Bool), (s.parts[p].run = none ∨ s.parts[p].image = none) → exec (.ingest p) s = .next s ∧ exec (.observation ⟨p, cut⟩) s = .next s) ∧
  (∀ (s : State) (p : PartId) (r : Run) (im : Image) (tr : TrigSect) (cut : Bool), dead s = false → s.parts[p].run = some r → s.parts[p].image = some im → trigSect im = some tr →
    (r.obs = false → exec (.observation ⟨p, cut⟩) s = .next s) ∧
    (r.obs = true → observe s p tr s.parts[p].designCycle cut = none → exec (.observation ⟨p, cut⟩) s = .next s) ∧
    (r.obs = true → r.phase = .ingest → frozen s = false → s.parts[p].farFail = none → exec (.ingest p) s = .next s) ∧
    (∀ s1, r.obs = true → observe s p tr s.parts[p].designCycle cut = some s1 → exec (.observation ⟨p, cut⟩) s = .next (tryComplete (modPart s1 p fun q =>
      { q with run := q.run.map fun r => if r.brk then { r with obs := false, last := s.parts[p].designCycle, cycle := s.parts[p].designCycle, draining := true, phase := .ingest }
          else { r with obs := false } }) p))) ∧
  (∀ (s : State) (p : PartId), (s.parts[p].frames = [] ∨ s.parts[p].image = none ∨ dead s = true ∨ frozen s = true → exec (.resultRelease p) s = .next s) ∧
    (∀ f rest im, s.parts[p].frames = f :: rest → s.parts[p].image = some im → dead s = false → frozen s = false →
      (mayRelease s p f = false → (im.hdr.resultWords = 0 → s.parts[p].agreed.toNat < f.cycle) → exec (.resultRelease p) s = .next s) ∧
      (im.hdr.resultWords = 0 → (twinActive s p = false ∨ f.cycle ≤ s.parts[p].agreed.toNat) →
        exec (.resultRelease p) s = .next (tryComplete (modPart s p fun q => { q with released := f.cycle, frames := rest }) p)) ∧
      (∀ val : Nat → W128,
        let n := im.hdr.resultWords
        let st := s.parts[p].streams[(3 : Fin 8)]
        Plain s → mayRelease s p f = true → 0 < n → n ≤ 4096 → st.ready = [] → st.out = [] → s.parts[p].ledger.held = false → canPresent s p 3 n = true →
        (∀ j, j < n → ∃ w, OpenAt s p (.hostPath (ownerOf s p)) (frameOff im f.cycle j) w ∧ wordGet s.mem w = val j) →
        ∃ t b, exec (.resultRelease p) s = .next t ∧ t.parts[p].streams[(3 : Fin 8)].out = [b] ∧ b.words.drop 1 = (List.range n).map val ∧ b.read = 0 ∧ b.seq = st.seqOut ∧
          t.parts[p].streams[(3 : Fin 8)].seqOut = st.seqOut + 1 ∧ t.parts[p].released = f.cycle ∧ t.parts[p].frames = rest ∧ t.mem = s.mem))) ∧
  (∀ (s : State) (p : PartId),
    (dead s = true ∨ frozen s = true ∨ s.parts[p].save = none ∨ (twinActive s p = true ∧ s.parts[p].agreed.toNat < s.parts[p].designCycle) → exec (.checkpointSave p) s = .next s) ∧
    (∀ j im, dead s = false → frozen s = false → twinActive s p = false → s.parts[p].save = some (j, 0) → s.parts[p].image = some im →
      let total := 17 + (ckptRegions im s.parts[p].curBuf).length
      s.parts[p].streams[(7 : Fin 8)].out = [] → total ≤ 4096 → total + 1 ≤ s.parts[p].streams[(7 : Fin 8)].depth.toNat → canPresent s p 7 total = true →
      Plain s → (∀ x, x ∈ ckptRegions im s.parts[p].curBuf → inDrain s p x.1 x.2 = false ∧ ∃ a u, partDev s p x.1 x.2 = some a ∧ unitOf s a = some u ∧
        unitFenced s (ownerOf s p).val u = false ∧ devWaits s (.hostPath (ownerOf s p)) a = false ∧
        ∀ b, u = .bank b → ownerCheck s.banks[b] (ckptCode s p x.1 x.2) = 0) →
      ∃ t b, exec (.checkpointSave p) s = .next t ∧ t.parts[p].streams[(7 : Fin 8)].out = [b] ∧ b.words.drop 1 = (List.range total).map (fun i => (ckptWord s p im i).data) ∧
        b.read = 0 ∧ t.parts[p].save = some (j, total) ∧ t.mem = s.mem))

/-- R24, R37, R39, R43-R45: commit waits for its phase, the previous observation, room in the staging ring and the ledger. A segment that queued more than DMW_MAX writes fails, counted as its commit begins (log 55). Else the buffers exchange
their roles, the design cycle and its frame are recorded, and the next design cycle or the segment's tail begins. Of memory, without twin mode: a design that is not gated and queued nothing changes only its staged frame, which takes the result
words of the new current buffer; a gated one copies exactly the elements that its commit bitmap flags into the other buffer and clears the bitmap; the queue is applied in ascending logical VE, each VE's writes in issue order, bytes outside a mask
standing. In twin mode each applied write appends its undo record to the journal, with the value before its design cycle's first write to the address, and the records of the design cycles after j, applied in reverse, put back what the journal holds. -/
def Obligations.CommitPhase : Prop :=
  ∀ (s : State) (p : PartId) (r : Run) (im : Image), s.twin.detachDue = false → s.parts[p].run = some r → s.parts[p].image = some im →
    (dead s = true ∨ frozen s = true ∨ commitReady s p r im = false → exec (.commitPhase p) s = .next s) ∧
    (commitReady s p r im = true ↔ r.phase = .commit ∧ s.parts[p].ledger.held = false ∧ r.obs = false ∧ r.cycle ≤ s.parts[p].released + im.hdr.resultDepth ∧
      (twinActive s p = true → r.cycle ≤ s.parts[p].agreed.toNat + 1) ∧ inSlot s p = true) ∧
    (dead s = false → frozen s = false → commitReady s p r im = true → twinActive s p = false →
      (im.hdr.dmwMax < r.dmq.length → exec (.commitPhase p) s = .next (failSegmentFree s p 0x0209)) ∧
      (r.dmq.length ≤ im.hdr.dmwMax → (commitWork s p r im).bad = none → ∃ t, exec (.commitPhase p) s = .next t ∧
        t.parts[p].designCycle = r.cycle ∧ t.parts[p].curBuf = nextBuf s p ∧ t.parts[p].frames.map (·.cycle) = s.parts[p].frames.map (·.cycle) ++ [r.cycle] ∧
        (∀ r', t.parts[p].run = some r' → r'.phase = .ingest ∧ r'.draining = decide (r.last ≤ r.cycle) ∧ r'.cycle = (if r.last ≤ r.cycle then r.cycle else r.cycle + 1) ∧
          r'.dmq = [] ∧ r'.obs = r.trace) ∧ t.parts[p].run.isSome = true ∧
        (r.dmq = [] → im.hdr.gated = false → im.hdr.resultWords = 0 → t.mem = s.mem)) ∧
      let m := commitMaster s p
      let next := bufBase im (nextBuf s p)
      Plain s → s.parts[p].cfg.twinMode = false → r.dmq.length ≤ im.hdr.dmwMax →
      (∀ src dst : Nat → Nat,
        let n := im.hdr.resultWords
        im.hdr.gated = false → r.dmq = [] →
        (∀ j, j < n → OpenAt s p m (next + nth im.portMap (im.hdr.stimWords + j) 0) (src j) ∧ OpenAt s p m (frameOff im r.cycle j) (dst j)) →
        (∀ i j, i < n → j < n → dst i ≠ src j ∧ (dst i = dst j → i = j)) →
        ∃ t, exec (.commitPhase p) s = .next t ∧ (∀ j, j < n → wordGet t.mem (dst j) = wordGet s.mem (src j)) ∧
          ∀ w, (∀ j, j < n → dst j ≠ w) → wordGet t.mem w = wordGet s.mem w) ∧
      (∀ mark src dst : Nat → Nat,
        let per := elemBytes im / 16
        let n := im.hdr.stateBytes / elemBytes im * per
        im.hdr.gated = true → im.hdr.resultWords = 0 → r.dmq = [] →
        (∀ w, w < bmpWords im → OpenAt s p m (im.hdr.cbmpOff + 16 * w) (mark w)) →
        (∀ i, i < n → OpenAt s p m (next + 16 * i) (src i) ∧ OpenAt s p m (bufBase im ((nextBuf s p + 1) % 2) + 16 * i) (dst i)) →
        (∀ i j, i < n → j < n → dst i ≠ src j ∧ (dst i = dst j → i = j)) → (∀ i w, i < n → w < bmpWords im → dst i ≠ mark w) →
        ∃ t, exec (.commitPhase p) s = .next t ∧
          (∀ i, i < n → wordGet t.mem (dst i) =
            if bit (wordGet s.mem (mark (i / per / 128))) (i / per % 128) then wordGet s.mem (src i) else wordGet s.mem (dst i)) ∧
          (∀ w, w < bmpWords im → wordGet t.mem (mark w) = 0) ∧
          ∀ x, (∀ i, i < n → dst i ≠ x) → (∀ w, w < bmpWords im → mark w ≠ x) → wordGet t.mem x = wordGet s.mem x) ∧
      ∀ place : Nat → Nat, im.hdr.gated = false → im.hdr.resultWords = 0 → (∀ w, w ∈ r.dmq → OpenAt s p m w.addr (place w.addr)) →
        ∃ t, exec (.commitPhase p) s = .next t ∧ ∀ x, wordGet t.mem x =
          (dmOrder r.dmq).foldl (fun v w => if place w.addr = x then mergeBytes v w.data w.mask else v) (wordGet s.mem x)) ∧
    (∀ ws : List DmWrite, (dmOrder ws).Pairwise (fun a b => a.lve ≤ b.lve) ∧
      ∀ l, l < 64 → (dmOrder ws).filter (fun w => w.lve == l) = ws.filter fun w => w.lve == l) ∧
    (∀ (c : State) (m : MasterKind) (k x a b : Nat) (w : DmWrite), Plain c → c.parts[p].cfg.twinMode = true → (∀ u, u ∈ c.parts[p].undo → u.bad = false) →
      OpenAt c p m w.addr x → OpenAt c p m (undoOff im c.parts[p].undoNext) a → OpenAt c p m (undoOff im c.parts[p].undoNext + 16) b → x ≠ a → x ≠ b → a ≠ b →
      let old := match c.parts[p].undo.find? fun u => u.cycle == k && u.addr == w.addr with
        | some u => u.old
        | none => wordGet c.mem x
      let d := applyDm p m k im { s := c, bad := none } w
      d.bad = none ∧ wordGet d.s.mem x = mergeBytes (wordGet c.mem x) w.data w.mask ∧ wordGet d.s.mem a = (at' 128 64 k ||| BitVec.ofNat 128 w.addr) ∧
      wordGet d.s.mem b = old ∧ (∀ y, y ≠ x → y ≠ a → y ≠ b → wordGet d.s.mem y = wordGet c.mem y) ∧
      d.s.parts[p].undo = c.parts[p].undo ++ [{ cycle := k, addr := w.addr, old := old, bad := false, place := c.parts[p].undoNext }]) ∧
    ∀ (c : State) (m : MasterKind) (j : Nat) (place head tail : Nat → Nat),
      let us := c.parts[p].undo.filter fun u => decide (j < u.cycle)
      Plain c →
      (∀ u, u ∈ us → u.addr < 2 ^ 64 ∧ OpenAt c p m u.addr (place u.addr) ∧ OpenAt c p m (undoOff im u.place) (head u.place) ∧
        OpenAt c p m (undoOff im u.place + 16) (tail u.place) ∧ wordGet c.mem (head u.place) = (at' 128 64 u.cycle ||| BitVec.ofNat 128 u.addr) ∧
        ∀ v, v ∈ us → place u.addr ≠ head v.place ∧ place u.addr ≠ tail v.place) →
      let d := undoAfter p m j im { s := c, bad := none }
      d.bad = none ∧ ∀ x, wordGet d.s.mem x = us.reverse.foldl (fun v u => if place u.addr = x then wordGet c.mem (tail u.place) else v) (wordGet c.mem x)

/-! ### The object dictionary (spec/12) -/

/-- R452, R312-R320, R329: the checks of a write, in their order, each with its abort code: a closed dictionary or, for a COMMIT, a restart of the firmware, a shut secondary, no such entry, no right, a read-only entry, a width or offset that Table 12.1 does not
admit, a reserved bit, a value outside the entry's. The first that fails refuses the write, and only the requester's abort record and answer change. An access behind a held word or a held write of its requester
waits (R302, R317). A packet of a host to a slot of BAR0 that is no FIFO is the access to its entry, and a read answers the entry's value or, refused, all ones (R289, R312, R320).
Readings of the model: bits above the entry's width answer 0x0005 (log 77), a COMMIT is refused with 0x0030 while the firmware restarts (log 20), what waits and the order of R398's refusal (logs 69, 94), a function that is not enabled (log 101). -/
def Obligations.DictionaryChecks : Prop :=
  ∀ (s : State) (r : Requester) (ix : W16) (sub : Byte) (a : DAcc),
    let i := ix.toNat
    let u := sub.toNat
    let c : Instr := .registerWrite r ix sub a
    let x : Access := .write r ix sub a []
    (arrives s x = false → exec c s = .next s) ∧
    (arrives s x = false ↔ dead s = true ∨ (∃ h : r.val < 4, s.ports[(⟨r.val, h⟩ : PortId)].link ≠ 2) ∨ (r = 5 ∧ s.ls.state = 2)) ∧
    (arrives s x = true → ∀ h : r.val < 4, takesTlps s.ports[(⟨r.val, h⟩ : PortId)] = false → exec c s = .next (unsupported s ⟨r.val, h⟩)) ∧
    (arrives s x = true → (∀ h : r.val < 4, takesTlps s.ports[(⟨r.val, h⟩ : PortId)] = true) → s.dict.waiting = [] → (waits s r = true ∨ ∃ h : r.val < 4, s.ports[(⟨r.val, h⟩ : PortId)].rx ≠ []) →
      exec c s = .next { s with dict := { s.dict with waiting := [x] } }) ∧
    (Heeds s r → ¬ (r.val < 4 ∧ (0xF000 ≤ i ∧ i < 0xF080) ∧ u = 0) →
      let no (code : Nat) : Prop := Refuses c s r i u code
      let opened := (s.dict.isOpen = true ∨ r.val = 5) ∧ (restarting s = false ∨ isCommit i u = false)
      (¬ opened → no 0x0030) ∧
      (opened → hostCut s r = true → no 0x0008) ∧
      (opened → hostCut s r = false → shutOut s r i true = true → no 0x0007) ∧
      (opened → hostCut s r = false → shutOut s r i true = false →
        (entryAt s r i u = none → no (if isFifo i u then 0x0004 else 0x0001)) ∧
        (∀ e, entryAt s r i u = some e →
          (writeRight s r i u e = false → no 0x0004) ∧
          (writeRight s r i u e = true →
            (e.cls = .ro → no 0x0003) ∧
            (e.cls ≠ .ro →
              (widthOk r e.ty a.bytes a.off = false → no 0x0002) ∧
              (widthOk r e.ty a.bytes a.off = true → (e.ty = .w128 → a.bytes = 16) →
                let v := a.val.toNat % 2 ^ (8 * a.bytes)
                let low := v % 2 ^ (8 * e.ty.bytes)
                (low &&& e.rsv ≠ 0 → no 0x0006) ∧
                (low &&& e.rsv = 0 → (2 ^ (8 * e.ty.bytes) ≤ v ∨ e.ok v = false) → no 0x0005))))))) ∧
    (∀ t code, t = dictRefuse (heard s r) r i u true code → t.mem = s.mem ∧ t.parts = s.parts ∧ t.seq = s.seq ∧ t.eng = s.eng ∧ t.banks = s.banks ∧
      t.ev = s.ev ∧ t.pw = s.pw ∧ t.twin = s.twin ∧ t.boot = s.boot ∧
      ∀ h : r.val < 4, t.outs = s.outs ++ [.abort r (BitVec.ofNat 16 code)] ∧
        t.ports[(⟨r.val, h⟩ : PortId)].abortCount = satInc s.ports[(⟨r.val, h⟩ : PortId)].abortCount) ∧
    (∀ (h : PortId) (off : BitVec 28) (data : List Byte) (bytes : Nat), r.val = h.val → Heeds s r → ix = BitVec.ofNat 16 (off.toNat / 4096) → sub = BitVec.ofNat 8 (off.toNat / 16) →
      ¬ ((0xF000 ≤ i ∧ i < 0xF080) ∧ u = 0) →
      (tlpWf 512 (.bar0 off) data.length = true → a = { bytes := data.length, off := off.toNat % 16, val := wordOfBytes data } →
        exec (hostWrite h (.bar0 off) data) s = exec c s) ∧
      (tlpWf 4096 (.bar0 off) bytes = true →
        (∀ code, headCode s r i u false = some code →
          exec (hostRead h (.bar0 off) bytes) s = .next (emit (dictRefuse (heard s r) r i u false code) (.dictRead r (BitVec.allOnes 128)))) ∧
        (∀ e, headCode s r i u false = none → entryAt s r i u = some e → ¬ ((0x5000 ≤ i ∧ i < 0x5100) ∧ u = 0x11) → ¬ ((0x2100 ≤ i ∧ i < 0x2104) ∧ u = 0x10) →
          (widthOk r e.ty bytes (off.toNat % 16) = true → exec (hostRead h (.bar0 off) bytes) s =
            .next (emit (heard s r) (.dictRead r (BitVec.ofNat 128 (e.val.toNat / 2 ^ (8 * (off.toNat % 16)) % 2 ^ (8 * bytes)))))) ∧
          (widthOk r e.ty bytes (off.toNat % 16) = false → exec (hostRead h (.bar0 off) bytes) s =
            .next (emit (dictRefuse (heard s r) r i u false 0x0002) (.dictRead r (BitVec.allOnes 128)))))))

/-- R27, R201, R281, R294, R299, R301, R327, R351, R357, R373, R420: the single entries with effects of their own, written with a value that passes the checks. ALERT_CAUSE keeps
the bits whose conditions last, bits 2 and 4 by the model's reading (log 41); what LOAD_RESET empties besides the image is its reading too (log 56), and so is the order of the refusals (log 69). -/
def Obligations.SingleEntryWrites : Prop :=
  ∀ (s : State) (r : Requester) (a : DAcc) (v : Nat),
    let at1 (ix sub : Nat) (i : Instr) (f : State → State) : Prop := Serves s r ix sub a v → Completes i s r ix sub v f
    let no (ix sub code : Nat) (i : Instr) : Prop := Serves s r ix sub a v → Refuses i s r ix sub code
    (∀ pins : BitVec 2, at1 0xA000 0x05 (.softReset r ⟨a, pins⟩) fun s => { s with boot := { s.boot with softDue := true, bootPins := pins } }) ∧
    (∀ p : PartId, at1 (0x2000 + p.val) 0x54 (.intArm r p a) fun s =>
      msix (modPart s p fun q =>
        { q with armEvq := q.armEvq || v.testBit 0, armLedger := q.armLedger || v.testBit 1, armStream := q.armStream || v.testBit 2 }) p) ∧
    (∀ n : VeId, at1 (0x3000 + n.val) 0x22 (.doorbell r n a) fun s => modSeq s n fun c => { c with db := BitVec.ofNat 32 v, dbPend := true }) ∧
    (∀ p : PartId,
      (v = 0 → at1 (0x2000 + p.val) 0x22 (.loadReset r p a) id) ∧
      (v = 1 → s.parts[p].imageState ≠ 3 → at1 (0x2000 + p.val) 0x22 (.loadReset r p a) fun s => loadReset s p) ∧
      (v = 1 → s.parts[p].imageState = 3 → no (0x2000 + p.val) 0x22 0x0007 (.loadReset r p a)) ∧
      ∃ u, loadReset s p = kick u p ∧ u.mem = s.mem ∧ u.parts[p].imageState = 0 ∧ u.parts[p].image = none ∧ u.parts[p].bind = [] ∧
        u.parts[p].fenced = false ∧ u.parts[p].exchSlotsAct = 0 ∧ u.parts[p].designCycle = s.parts[p].designCycle) ∧
    (∀ (p : PartId) (k : Fin 8),
      let ix := 0xF000 + 8 * p.val + k.val
      let st := s.parts[p].streams[k]
      at1 ix 0x08 (.resync r p k a) (fun s => kick (if v = 1 then modStream s p k fun st => { st with discard := false } else s) p) ∧
      ((∃ b, b ∈ st.out ∧ b.read ≠ 0) → no ix 0x09 0x0007 (.replaySeq r p k a)) ∧
      (s.crc.all (·.fenced) = true → no ix 0x09 0x0007 (.replaySeq r p k a)) ∧
      ((∀ b, b ∈ st.out → b.read = 0) → s.crc.all (·.fenced) = false →
        (st.kept.find? (fun b => b.seq == BitVec.ofNat 32 v) = none → no ix 0x09 0x0007 (.replaySeq r p k a)) ∧
        (∀ b, st.kept.find? (fun b => b.seq == BitVec.ofNat 32 v) = some b → at1 ix 0x09 (.replaySeq r p k a) fun s =>
          msix (modStream s p k fun st => { st with out := st.out ++ [{ b with read := 0, replay := true, last := false }] }) p))) ∧
    (∀ p : PartId, at1 (0x2000 + p.val) 0x41 (.exchEditSlot r p a) fun s => modPart s p fun q =>
      let w := nth (q.exchTables[if v.testBit 15 then shadowTable q else actTable q]) (v % 4096) (0, 0)
      { q with exchEditSlot := BitVec.ofNat 16 v, exchEditW0 := w.1, exchEditW1 := w.2 }) ∧
    (∀ p : PartId,
      let ix := 0x2000 + p.val
      let q := s.parts[p]
      let i : Instr := .exchEditGo r p a
      let w := (q.exchEditW0, q.exchEditW1)
      let slot := q.exchEditSlot.toNat % 4096
      let inShadow := bit q.exchEditSlot 15
      (q.image = none → no ix 0x44 0x0007 i) ∧
      (∀ im, q.image = some im →
        (q.imageState ≠ 2 → q.imageState ≠ 3 → no ix 0x44 0x0007 i) ∧
        (q.imageState = 2 ∨ q.imageState = 3 →
          (slotReserved w = true → no ix 0x44 0x0006 i) ∧
          (slotReserved w = false → (slotFields im slot (editTable q) w = false ∨ slotRegions s p im w = false) → no ix 0x44 0x0005 i) ∧
          (slotReserved w = false → slotFields im slot (editTable q) w = true → slotRegions s p im w = true → forwards s p = false →
            ((inShadow = true ∨ exchanging s p = false) → at1 ix 0x44 i fun s => modPart s p fun q =>
              { q with exchTables := updV q.exchTables (if inShadow then shadowTable q else actTable q) fun t => tableSet t slot w }) ∧
            (inShadow = false → exchanging s p = true → Serves s r ix 0x44 a v →
              ∃ t e, exec i s = .next t ∧ t.parts = s.parts.set p { q with edits := q.edits ++ [e] } ∧ e.slot = slot ∧ e.w0 = w.1 ∧ e.w1 = w.2 ∧
                e.by' = some r ∧ e.shadow = false ∧ t.outs = s.outs))))) ∧
    (at1 0x10F0 0x02 (.alertClear r a) (fun s => alertWrite s v) ∧
      ∀ j, bit (alertWrite s v).dict.alertCause j = (bit s.dict.alertCause j &&
        !(v.testBit j && decide (j < 32) && !(j == 2 && (s.pw.hot != 0 || (List.finRange 8).any fun i => s.stk[i].hot)) && !(j == 4 && s.ls.state == 2)))) ∧
    (∀ x : SrcId,
      at1 (0x6100 + x.val) 0x01 (.target r x a) (fun s => retarget s x (BitVec.ofNat 8 v)) ∧
      (∀ b : Byte, (retarget s x b).ev.src[x].target = b ∧ ∀ y, y ≠ x → (retarget s x b).ev.src[y] = s.ev.src[y]) ∧
      at1 (0x6100 + x.val) 0x07 (.arrivalsClr r x a) fun s =>
        if v = 1 then { s with ev := { s.ev with src := updV s.ev.src x fun c => { c with arrivals := 0 } } } else s) ∧
    (∀ j : Fin 64,
      (pendingOf s .slots = none → at1 0x7200 (0x80 + j.val) (.slotActive r j a) fun s =>
        { s with pw := { s.pw with edits := s.pw.edits.filter (·.1 != j) ++ [(j, BitVec.ofNat 128 v)] } }) ∧
      (pendingOf s .slots ≠ none → no 0x7200 (0x80 + j.val) 0x0011 (.slotActive r j a)))

/-- R322, R406, Tables 8.4, 9.7, 10.3, 11.3, 12.11, 13.6, 14.5, 14.7: a write of a plain entry, with a value that passes the checks, puts the value in force and changes nothing else but what its rule adds. TWIN_MAP_BASE is refused with 0x0014 where
the 384 KiB of the dirty map would meet a placement (Table 15.7; the code is the model's reading, log 110). -/
def Obligations.RegisterWrites : Prop :=
  ∀ (s : State) (r : Requester) (a : DAcc) (v : Nat),
    let sets (ix sub : Nat) (f : State → State) : Prop :=
      Serves s r ix sub a v → Completes (.registerWrite r (BitVec.ofNat 16 ix) (BitVec.ofNat 8 sub) a) s r ix sub v f
    let b8 : Byte := BitVec.ofNat 8 v
    (∀ p : PartId,
      let ix := 0x2000 + p.val
      let cfg (f : PartCfg → PartCfg) (s : State) : State := modPart s p fun q => { q with cfg := f q.cfg }
      sets ix 0x40 (cfg fun c => { c with barTimeout := BitVec.ofNat 32 v }) ∧
      sets ix 0x42 (fun s => modPart s p fun q => { q with exchEditW0 := BitVec.ofNat 128 v }) ∧
      sets ix 0x43 (fun s => modPart s p fun q => { q with exchEditW1 := BitVec.ofNat 128 v }) ∧
      sets ix 0x51 (fun s => msix (cfg (fun c => { c with msixEvq := b8 }) s) p) ∧
      sets ix 0x52 (fun s => msix (cfg (fun c => { c with msixLedger := b8 }) s) p) ∧
      sets ix 0x53 (fun s => msix (cfg (fun c => { c with msixStream := b8 }) s) p) ∧
      sets ix 0x60 (cfg fun c => { c with pwrCap := BitVec.ofNat 16 v }) ∧
      sets ix 0x61 (cfg fun c => { c with weight := b8 })) ∧
    (∀ n : VeId, sets (0x3000 + n.val) 0x20 (fun s => modSeq s n fun c => { c with intEv := b8 }) ∧
      sets (0x3000 + n.val) 0x21 (fun s => modSeq s n fun c => { c with intDb := b8 })) ∧
    sets 0x4000 2 (fun s => { s with scrubHours := b8 }) ∧ sets 0x4000 5 (fun s => { s with pcUeLimit := b8 }) ∧
    sets 0x4000 6 (fun s => { s with bankUeLimit := b8 }) ∧
    (∀ b : BankId, sets (0x5000 + b.val) 0x10 fun s => modBank s b fun k =>
      { k with dbg := updV k.dbg r fun d => { d with addr := BitVec.ofNat 32 v } }) ∧
    (∀ x : SrcId,
      let src (f : SrcCfg → SrcCfg) (s : State) : State := { s with ev := { s.ev with src := updV s.ev.src x f } }
      sets (0x6100 + x.val) 2 (src fun c => { c with coalesce := v != 0 }) ∧ sets (0x6100 + x.val) 3 (src fun c => { c with keep := v != 0 }) ∧
      sets (0x6100 + x.val) 4 (src fun c => { c with wake := v != 0 }) ∧ sets (0x6100 + x.val) 5 (src fun c => { c with svCopy := v != 0 })) ∧
    sets 0x7000 1 (fun s => { s with pw := { s.pw with limit := BitVec.ofNat 16 v } }) ∧
    sets 0x7000 3 (fun s => { s with pw := { s.pw with tjTarget := b8 } }) ∧ sets 0x7000 4 (fun s => { s with pw := { s.pw with tjAlert := b8 } }) ∧
    sets 0x7000 5 (fun s => { s with pw := { s.pw with stackTlimit := b8 } }) ∧ sets 0x7000 8 (fun s => { s with pw := { s.pw with sleepEn := v != 0 } }) ∧
    sets 0x1F00 1 (fun s => { s with dict := { s.dict with stageTimeout := BitVec.ofNat 32 v } }) ∧
    sets 0xA000 0x41 (fun s => { s with fab := { s.fab with wdTimeout := BitVec.ofNat 32 v } }) ∧
    sets 0xA000 0x44 (fun s => { s with fab := { s.fab with pcBasePrio := BitVec.ofNat 64 v } }) ∧
    let based : State := { s with twin := { s.twin with mapBase := BitVec.ofNat 64 v } }
    let meets (p : PartId) : Bool := placeMap based (placeOf s.parts[p].cfg)
    ((∀ p, meets p = false) → sets 0x8100 6 fun s => { s with twin := { s.twin with mapBase := BitVec.ofNat 64 v } }) ∧
    (∀ p, meets p = true → Serves s r 0x8100 6 a v → Refuses (.registerWrite r (BitVec.ofNat 16 0x8100) (BitVec.ofNat 8 6) a) s r 0x8100 6 0x0014) ∧
    (v = 0 → ∀ p, meets p = false) ∧
    ∀ p, let c := s.parts[p].cfg
      v ≠ 0 → v < 2 ^ 64 → c.hbmSize ≠ 0 → c.hbmMode = 0 →
        (meets p = true ↔ hbmLo + c.hbmBase.toNat * gib < v + 393216 ∧ v < hbmLo + (c.hbmBase.toNat + c.hbmSize.toNat) * gib)

/-- R233, R234: a write of OWNER that breaks a rule of R233 is refused with the first one's code, one of the present owner completes at once, and any other starts a drain with its answer held: the bank keeps its owner. When the drain ends OWNER
changes, nothing is held any more, and the writer is answered. -/
def Obligations.OwnerAndDrain : Prop :=
  ∀ (s : State) (b : BankId),
    let k := s.banks[b]
    (∀ (r : Requester) (a : DAcc) (v : Nat), Serves s r (0x5000 + b.val) 2 a v →
      let i : Instr := .owner r b a
      let code := firstCode (ownerRules s b v)
      (code ≠ 0 → Refuses i s r (0x5000 + b.val) 2 code) ∧
      (code = 0 → k.owner.toNat = v → Completes i s r (0x5000 + b.val) 2 v id) ∧
      (code = 0 → k.owner.toNat ≠ v → (∀ p, bankPart s b = some p → forwards s p = false) → k.fenced = false ∧ k.drain = none ∧
        ∃ t, exec i s = .next t ∧ t.banks = s.banks.set b { k with drain := some (BitVec.ofNat 8 v, .write r) } ∧ t.outs = s.outs ∧ t.mem = s.mem)) ∧
    (dead s = false → s.dict.waiting = [] → k.drain = none → exec (.bankDrainEnd b) s = .next s) ∧
    (dead s = false → s.dict.waiting = [] → ∀ new why, k.drain = some (new, why) → (∀ c, why ≠ .commit c) →
      ∃ t, exec (.bankDrainEnd b) s = .next (match bankPart s b with | some p => kick t p | none => t) ∧
        t.banks[b].owner = new ∧ t.banks[b].drain = none ∧ t.banks[b].held = [] ∧ t.banks[b].waiters = [] ∧
        (k.held = [] → k.waiters = [] → t.banks = s.banks.set b { k with owner := new, drain := none } ∧ t.mem = s.mem ∧
          ∀ r : Requester, why = .write r → r.val ≠ 4 → t.outs = s.outs ++ [.dictDone r]))

/-- R329-R333, R386: a first staging write claims its group with the values in force and its own; the claimant's later ones change the shadow; another requester is refused with 0x0010 and anyone while a commit is pending with 0x0011. After the lockstep pair is fenced every commit is refused with 0x0008; else a staging write, COMMIT or DISCARD of one whose claim was
lost hears so once, with 0x0016 (a COMMIT in a fenced partition is accepted: the model's reading, log 78). A commit by the
claimant becomes pending with its shadow and tag, a DISCARD or a timeout ends the claim, and at its safe point the pending commit is applied as a whole, every member taking its staged value, or fails as a whole with the first failing rule's code. -/
def Obligations.ClaimsAndCommits : Prop :=
  ∀ (s : State) (ix : W16) (sub : Byte) (g : Grp), grpOf ix sub = some g →
    let i := ix.toNat
    let u := sub.toNat
    (∀ (r : Requester) (a : DAcc) (v : Nat), Serves s r i u a v → claimLost s g r = false →
      let s0 := heard s r
      let put (l : List (Byte × W128)) : List (Byte × W128) := l.map fun m => if m.1.toNat = u then (m.1, BitVec.ofNat 128 v) else m
      (∀ e, entryAt s r i u = some e → e.cls = .rws →
        let c : Instr := .stagingWrite r ix sub a
        (pendingOf s g ≠ none → Refuses c s r i u 0x0011) ∧
        (pendingOf s g = none → grpFenced s g = true → Refuses c s r i u 0x0008) ∧
        (pendingOf s g = none → grpFenced s g = false →
          (s.dict.claims.find? (fun c => c.grp == g) = none → exec c s = .next (told { s0 with dict := { s0.dict with
            claims := s.dict.claims ++ [{ grp := g, by' := r, shadow := put (members s g), at' := timeNow s }] } } r)) ∧
          (∀ x, s.dict.claims.find? (fun c => c.grp == g) = some x →
            (x.by' ≠ r → Refuses c s r i u 0x0010) ∧
            (x.by' = r → exec c s = .next (told { s0 with dict := { s0.dict with
              claims := s.dict.claims.map fun c => if c.grp = g then { c with shadow := put c.shadow, at' := timeNow s } else c } } r))))) ∧
      (sub = (grpCtl g).2.2.1 →
        let c : Instr := .commit r ix sub a
        (s.ls.state = 2 → Refuses c s r i u 0x0008) ∧
        (s.ls.state ≠ 2 → pendingOf s g ≠ none → Refuses c s r i u 0x0011) ∧
        (s.ls.state ≠ 2 → pendingOf s g = none →
          (s.dict.claims.find? (fun c => c.grp == g && c.by' == r) = none → Refuses c s r i u 0x0012) ∧
          (∀ x, s.dict.claims.find? (fun c => c.grp == g && c.by' == r) = some x → pendingCount s r g < 32 →
            ∃ pd t, exec c s = .next (told (commitGo (forwardCommit t pd) pd) r) ∧ pd.grp = g ∧ pd.by' = r ∧ pd.tag = BitVec.ofNat 32 v ∧ pd.set = x.shadow ∧
              t.dict.pending = s.dict.pending ++ [pd] ∧ t.dict.claims = s.dict.claims.filter (fun c => c.grp != g) ∧
              t.dict.commits = s.dict.commits + 1 ∧ t.dict.results[r] = at' 64 32 (v % 2 ^ 32) ||| at' 64 24 1 ∧ t.parts = s.parts ∧ t.mem = s.mem ∧
              ((∃ c, g = .reef c) ∨ g = .slots → commitGo (forwardCommit t pd) pd = t)))) ∧
      (sub = (grpCtl g).2.2.2 →
        let c : Instr := .discard r ix sub a
        (v = 0 → exec c s = .next (told s0 r)) ∧
        (v = 1 → pendingOf s g = none →
          (s.dict.claims.any (fun c => c.grp == g && c.by' == r) = false → Refuses c s r i u 0x0012) ∧
          (s.dict.claims.any (fun c => c.grp == g && c.by' == r) = true →
            exec c s = .next (told { s0 with dict := { s0.dict with claims := s.dict.claims.filter fun c => c.grp != g } } r))))) ∧
    (∀ (r : Requester) (a : DAcc) (v : Nat), Serves s r i u a v → claimLost s g r = true →
      let hears (c : Instr) : Prop := exec c s = .next (dictRefuse (hearLost (heard s r) g r) r i u true 0x0016)
      (sub = (grpCtl g).2.2.1 → (s.ls.state = 2 → Refuses (.commit r ix sub a) s r i u 0x0008) ∧ (s.ls.state ≠ 2 → hears (.commit r ix sub a))) ∧
      (∀ e, entryAt s r i u = some e → e.cls = .rws → hears (.stagingWrite r ix sub a)) ∧
      (sub = (grpCtl g).2.2.2 → (v = 1 → hears (.discard r ix sub a)) ∧ (v = 0 → exec (.discard r ix sub a) s = .next (told (heard s r) r))) ∧
      claimLost (hearLost (heard s r) g r) g r = false) ∧
    (∀ pd, dead s = false → pendingOf s g = some pd → atSafePoint s g = true →
      let code := firstCode (groupRules s g pd.set)
      ∃ t, exec (.commitApply ix sub) s = .next t ∧ pd ∉ t.dict.pending ∧
        t.dict.results[pd.by'] = at' 64 32 pd.tag.toNat ||| at' 64 24 (if code = 0 then 2 else 3) ||| BitVec.ofNat 64 code ∧
        let val := member pd.set
        (code = 0 →
          (∀ p, g = .part p → let c := t.parts[p].cfg
            c.veSet = BitVec.ofNat 64 (val 0x10) ∧ c.fpsub = BitVec.ofNat 8 (val 0x23) ∧ c.deterministic = (val 0x24 != 0) ∧ c.hbmMode = BitVec.ofNat 8 (val 0x30) ∧
            c.hbmStacks = BitVec.ofNat 8 (val 0x31) ∧ c.hbmBase = BitVec.ofNat 8 (val 0x32) ∧ c.hbmSize = BitVec.ofNat 8 (val 0x33) ∧
            c.ownerPort = BitVec.ofNat 8 (val 0x50) ∧ c.paired = (val 0x70 != 0) ∧ c.twinMode = (val 0x71 != 0)) ∧
          (∀ p k, g = .stream p k → t.parts[p].streams[k].depth = BitVec.ofNat 16 (val 1) ∧ t.parts[p].streams[k].watermark = BitVec.ofNat 16 (val 2)) ∧
          (∀ b, g = .bank b → val 1 < 256 → t.banks[b].part = BitVec.ofNat 8 (val 1))) ∧
        (g = .mem → t.wideGib = if code = 0 then BitVec.ofNat 8 (member pd.set 1) else s.wideGib) ∧
        (code ≠ 0 → t.mem = s.mem ∧ t.clusters = s.clusters ∧ t.pw = s.pw ∧ ∀ p : PartId, t.parts[p].cfg = s.parts[p].cfg)) ∧
    (∀ c pd, pd.grp = .reef c → firstCode (groupRules s (.reef c) pd.set) = 0 → ∀ l : Fin 8, (settleCommit s pd).clusters[c].row[l] = BitVec.ofNat 32 (member pd.set (8 * c.val + l.val))) ∧
    (∀ pd, pd.grp = .slots → firstCode (groupRules s .slots pd.set) = 0 → let w := (settleCommit s pd).pw
      (∀ i : Fin 64, w.active[i] = BitVec.ofNat 128 (member pd.set i.val) ∧ w.slots[i] = w.active[i]) ∧ w.slotsLen = BitVec.ofNat 8 (member pd.set 0x40) ∧
      w.poolSet = BitVec.ofNat 64 (member pd.set 0x41) ∧ w.edits = []) ∧
    (pendingOf s g = none → exec (.commitApply ix sub) s = .next s) ∧
    (dead s = false → frozen s = false → exec (.stageTimeoutExpiry ix sub) s = .next { s with dict := { s.dict with
      claims := s.dict.claims.filter (fun c => !(c.grp == g))
      lost := s.dict.lost ++ (s.dict.claims.filter fun c => c.grp == g).map fun c => (c.grp, c.by') } })

/-! ### Management over I3C (spec/12) -/

/-- R336-R338, R317, R426, Table 12.13: a request frame with a wrong CRC is answered with STATUS 0x03, a malformed one with 0x04, and neither is executed; the SEQ of the last executed request brings its response again; any other is executed,
its response replacing one not yet read: a dictionary read, a write of the entry's width, or a recovery operation. An access behind a held write of the target waits its turn. Without a dynamic address, or in HDR-DDR with another
command code than 0x10 for a request and 0x90 for a response, the target does not acknowledge. A private read returns the response, or the busy reply while it is not ready; the answer of SOFT_RESET is followed by the reset (R419).
Readings of the model: bytes past the write length limit are not received, a request that is not executed keeps the stored response, and a wrong write length answers 0x04 before the checks (log 72); what waits (log 94). -/
def Obligations.ManagementRequests : Prop :=
  ∀ (s : State) (hdr : Option Byte) (frame : List Byte), dead s = false →
    let b := frame.take s.i3c.mwl.toNat
    let seq := nth b 1 0
    let takes := takesTransfer s 0x10 hdr = true
    let s1 : State := { s with i3c := { s.i3c with ddr := false } }
    let x : State := { s1 with i3c := { s1.i3c with lastSeq := some seq, alt := none } }
    let y := i3cHold x []
    let refused (t : State) (status : Byte) : Prop := t.i3c.alt = some [status, seq, 0] ∧ t.i3c.ready = true ∧ t.i3c.busy = false ∧ t.i3c.lastSeq = s.i3c.lastSeq ∧
      t.i3c.resp = s.i3c.resp ∧ t.mem = s.mem ∧ t.parts = s.parts ∧ t.dict = s.dict ∧ t.boot = s.boot
    (takesTransfer s 0x10 none = s.i3c.dyn.isSome ∧ ∀ c, takesTransfer s 0x10 (some c) = (s.i3c.dyn.isSome && s.i3c.ddr && c == 0x10)) ∧
    (∀ i : Instr, i = .i3cReadRequest hdr frame ∨ i = .i3cWriteRequest hdr frame ∨ i = .recoveryStart hdr frame ∨ i = .recoveryData hdr frame ∨
        i = .recoveryFinish hdr frame ∨ i = .recoveryQuery hdr frame →
      let no (status : Byte) : Prop := ∃ t, exec i s = .next t ∧ refused t status
      (¬ takes → exec i s = .next (emit s .i3cNack)) ∧
      (takes → frameOk b = false → no 0x03) ∧
      (takes → frameOk b = true → b.length < 4 → no 0x04) ∧
      (takes → frameOk b = true → 4 ≤ b.length → s.i3c.lastSeq = some seq →
        let again : State := { s1 with i3c := { s1.i3c with busy := true, ready := false, alt := none } }
        exec i s = .next (if i3cAwaits s then again else i3cReady again)) ∧
      (takes → frameOk b = true → 4 ≤ b.length → s.i3c.lastSeq ≠ some seq →
        let op := le b 0 1
        let ix := le b 2 2
        let sub := le b 4 1
        (op = 0x01 → (b.length ≠ 8 ∨ le b 5 1 ≠ 0 → no 0x04) ∧
          (b.length = 8 → le b 5 1 = 0 → s.dict.waiting = [] →
            (waits s 4 = true → exec i s = .next { y with dict := { y.dict with waiting :=
              [.read 4 (BitVec.ofNat 16 ix) (BitVec.ofNat 8 sub) ((entryBytes s ix sub).getD 1) 0 none] } }) ∧
            (waits s 4 = false →
              (∀ e, headCode x 4 ix sub false = none → entryAt x 4 ix sub = some e → ¬ (0x5000 ≤ ix ∧ ix < 0x5100 ∧ sub = 0x11) → ¬ (0x2100 ≤ ix ∧ ix < 0x2104 ∧ sub = 0x10) →
                exec i s = .next (i3cReady (i3cHold (heard x 4) (respDone seq (bytesOf e.val e.ty.bytes))))) ∧
              (∀ (h : PortId) e, ix = 0x2100 + h.val → sub = 0x10 → headCode x 4 ix sub false = none → entryAt x 4 ix sub = some e →
                exec i s = .next (i3cReady (i3cHold (modPort (heard x 4) h fun p => { p with abortLast := 0 }) (respDone seq (bytesOf e.val e.ty.bytes))))) ∧
              (∀ b' : BankId, ix = 0x5000 + b'.val → sub = 0x11 → headCode x 4 ix sub false = none →
                (debugTap (heard y 4) 4 b' none = none → exec i s = .next { y with dict := { y.dict with waiting :=
                  [.read 4 (BitVec.ofNat 16 ix) (BitVec.ofNat 8 sub) 16 0 none] } }) ∧
                ∀ w t, debugTap (heard y 4) 4 b' none = some (w, t) → exec i s = .next (i3cReady (i3cHold t (respDone seq (bytesOf w 16))))) ∧
              (∀ code, headCode x 4 ix sub false = some code → exec i s = .next (dictRefuse (heard y 4) 4 ix sub false code))))) ∧
        (op = 0x02 →
          let n := le b 5 1
          let a : DAcc := { bytes := n, off := 0, val := BitVec.ofNat 128 (le b 6 n) }
          (n < 1 ∨ 16 < n ∨ b.length ≠ 8 + n ∨ (∃ e, entryAt s 4 ix sub = some e ∧ n ≠ e.ty.bytes) → no 0x04) ∧
          (1 ≤ n → n ≤ 16 → b.length = 8 + n → (∀ e, entryAt s 4 ix sub = some e → n = e.ty.bytes) → s.dict.waiting = [] →
            (waits s 4 = true → exec i s = .next { y with dict := { y.dict with waiting := [.write 4 (BitVec.ofNat 16 ix) (BitVec.ofNat 8 sub) a []] } }) ∧
            (waits s 4 = false →
              let z := dictWrite y 4 ix sub a []
              exec i s = .next (answerWrite z.1 4 ix sub z.2)))) ∧
        (op = 0x40 → (b.length ≠ 9 → no 0x04) ∧ (b.length = 9 → exec i s = .next (recAnswer s1 seq (recStart s1 (le b 2 1) (le b 3 4))))) ∧
        (op = 0x41 → (le b 6 1 < 1 ∨ 240 < le b 6 1 ∨ b.length ≠ 9 + le b 6 1 → no 0x04) ∧
          (1 ≤ le b 6 1 → le b 6 1 ≤ 240 → b.length = 9 + le b 6 1 →
            exec i s = .next (recAnswer s1 seq (recData s1 (le b 2 4) ((b.drop 7).take (le b 6 1)))))) ∧
        (op = 0x42 → (b.length ≠ 4 → no 0x04) ∧
          (b.length = 4 → ∃ t, exec i s = .next t ∧
            (∀ u, recFinish s1 = .ok (u, true) → t.boot = u.boot ∧ t.i3c.busy = true ∧ t.i3c.resp = respDone seq []) ∧
            (∀ u, recFinish s1 = .ok (u, false) → t.boot = u.boot ∧ t.i3c.busy = false ∧ t.i3c.ready = true ∧ t.i3c.resp = respDone seq []) ∧
            (∀ code u, recFinish s1 = .error (code, u) → t.boot = u.boot ∧ t.i3c.ready = true ∧ t.i3c.resp = respRefused seq code))) ∧
        (op = 0x43 → (b.length ≠ 4 → no 0x04) ∧ (b.length = 4 → exec i s = .next (i3cReady (i3cHold x (respDone seq (recQuery s1)))))) ∧
        (op ≠ 0x01 → op ≠ 0x02 → op ≠ 0x40 → op ≠ 0x41 → op ≠ 0x42 → op ≠ 0x43 → no 0x04))) ∧
    (takesTransfer s 0x90 hdr = false → exec (.i3cPrivateRead hdr) s = .next (emit s .i3cNack)) ∧
    (takesTransfer s 0x90 hdr = true → (s.i3c.busy = true → exec (.i3cPrivateRead hdr) s = .next (emit s1 (.i3c (withCrc [0x02, i3cSeq s])))) ∧
      (s.i3c.busy = false → s.i3c.ready = false → exec (.i3cPrivateRead hdr) s = .next (emit s1 .i3cNack)) ∧
      (s.i3c.busy = false → s.i3c.ready = true →
        let told := emit { s1 with i3c := { s1.i3c with unread := false, ibiResp := false } } (.i3c (withCrc (s.i3c.alt.getD s.i3c.resp)))
        (s.boot.softDue = false → exec (.i3cPrivateRead hdr) s = .next told) ∧ (s.boot.softDue = true → exec (.i3cPrivateRead hdr) s = .next (softResetGo told))))

/-- R334, R335, Table 12.12: the common command codes that this target takes, and what each changes; a command sent to another address changes nothing, an unlisted direct code is not acknowledged, and an unlisted broadcast code is ignored (log 92). The bytes of the answers
and their order are the model's (log 11). -/
def Obligations.CommonCommandCodes : Prop :=
  ∀ s : State, dead s = false →
    (∀ dst : Option (BitVec 7),
      (forMe s dst = true →
        exec (.enec dst) s = .next (flushIbi { s with i3c := { s.i3c with ibiOn := true, ibiRecovery := s.i3c.ibiRecovery || s.boot.state == 7 } }) ∧
        exec (.disec dst) s = .next { s with i3c := { s.i3c with ibiOn := false } } ∧
        (∀ v : W16, (26 ≤ v.toNat → v.toNat ≤ 256 → exec (.setmwl dst v) s = .next { s with i3c := { s.i3c with mwl := v } } ∧
            exec (.setmrl dst v) s = .next { s with i3c := { s.i3c with mrl := v } }) ∧
          (v.toNat < 26 ∨ 256 < v.toNat → exec (.setmwl dst v) s = .next (emit s .i3cNack) ∧ exec (.setmrl dst v) s = .next (emit s .i3cNack))) ∧
        exec (.rstact dst 0) s = .next { s with i3c := { s.i3c with
          ddr := false, lastSeq := none, resp := [], alt := none, ready := false, unread := false, ibiResp := false, busy := false } } ∧
        (∀ a : Byte, a ≠ 0 → exec (.rstact dst a) s = .next (emit s .i3cNack))) ∧
      (forMe s dst = false → ∀ (v : W16) (a : Byte), exec (.enec dst) s = .next s ∧ exec (.disec dst) s = .next s ∧ exec (.setmwl dst v) s = .next s ∧
        exec (.setmrl dst v) s = .next s ∧ exec (.rstact dst a) s = .next s) ∧
      (∀ c : Byte, (dst = none ∨ c ∈ directCodes ∨ forMe s dst = false → exec (.entas c dst) s = .next s) ∧
        (dst ≠ none → c ∉ directCodes → forMe s dst = true → exec (.entas c dst) s = .next (emit s .i3cNack)))) ∧
    exec .rstdaa s = .next { s with i3c := { s.i3c with dyn := none } } ∧
    exec .enthdr0 s = .next { s with i3c := { s.i3c with ddr := true } } ∧
    (∀ a d : BitVec 7,
      (s.i3c.dyn = none → exec (.entdaa d) s = .next (flushIbi { s with i3c := { s.i3c with dyn := some d } }) ∧
        exec (.setdasa 0x3A d) s = .next (flushIbi { s with i3c := { s.i3c with dyn := some d } })) ∧
      (s.i3c.dyn ≠ none → exec (.entdaa d) s = .next s ∧ exec (.setdasa a d) s = .next s) ∧
      (a ≠ 0x3A → exec (.setdasa a d) s = .next s) ∧
      (s.i3c.dyn = some a →
        exec (.setnewda a d) s = .next (flushIbi { s with i3c := { s.i3c with dyn := some d } }) ∧
        exec (.getmwl a) s = .next (emit s (.i3c [byteOf s.i3c.mwl 1, byteOf s.i3c.mwl 0])) ∧
        exec (.getmrl a) s = .next (emit s (.i3c [byteOf s.i3c.mrl 1, byteOf s.i3c.mrl 0])) ∧
        exec (.getpid a) s = .next (emit s (.i3c pidBytes)) ∧
        exec (.getbcr a) s = .next (emit s (.i3c [0x26])) ∧ exec (.getdcr a) s = .next (emit s (.i3c [0x00])) ∧
        exec (.getstatus a) s = .next (emit s (.i3c [0x00, BitVec.ofNat 8 (ibiCount s)])) ∧
        exec (.getmxds a) s = .next (emit s (.i3c [0x00, 0x00]))) ∧
      (s.i3c.dyn ≠ some a → exec (.setnewda a d) s = .next s ∧ exec (.getmwl a) s = .next s ∧ exec (.getpid a) s = .next s ∧
        exec (.getstatus a) s = .next s)) ∧
    pidBytes.length = 6 ∧ pidBytes.take 2 = [0x14, 0xFB] ∧
    (ibiCan s = true → s.i3c.ibiAlert = true → s.i3c.ibiResp = true → s.i3c.ibiRecovery = false →
      (flushIbi s).outs = s.outs ++ [.ibi ((0x02 : Byte) :: bytesOf s.dict.alertCause 4), .ibi [0x01]] ∧ (flushIbi s).i3c = { s.i3c with ibiAlert := false, ibiResp := false }) ∧
    (ibiCan s = false → flushIbi s = s)

/-! ### Events (spec/13) -/

/-- R342, R344, R345, R350, R355: the controller serves a latch: it is counted and taken, and delivered where TARGET resolves: the supervisor's ring (also where TARGET 0xFE finds no partition), a host ring, a
sequencer's ring or, for a fenced VE, the supervisor's ring with RETARGETED, and then copied to the supervisor's ring where R350 requires it; other codes drop it, unless it is a double fault. A delivery merges into the source's latest open record of that ring and code
when COALESCE is set, else makes a record with the ring's next SEQUENCE, or is held when the ring is full. No other ring changes. An upset of more than one bit in a record's word loses that record and no other. The merge with the latest open record and the second copy for a fenced VE are the model's readings (log 29).

R341, R344, R354: an arrival of a source that may raise is written to its latch: a new latch holds its timestamp, detail and a count of one, a waiting one counts it and takes its timestamp and detail when
KEEP_LATEST is set. Nothing is delivered yet, and nothing but the latch and the alert of Table 12.9 changes. A reserved source, or a VE of a sleeping cluster, raises nothing; before the
event controller has started no alert is given (log 22).

R347, R349, R356: a read of the supervisor's or a sequencer's ring by its own core returns the head and takes it, all ones from an empty ring, or the record of source 722 for one whose word is lost; the first held arrival takes the room it leaves. -/
def Obligations.EventsDelivered : Prop :=
  (
    (∀ (s : State) (x : SrcId) (l : Latch), canServe s x = true → s.ev.latches.find? (fun l => l.src == x) = some l →
      let c := s.ev.src[x]
      let s1 : State := { s with ev := { s.ev with
        src := s.ev.src.set x { c with arrivals := satAdd c.arrivals l.count.toNat }
        arrivalsTotal := s.ev.arrivalsTotal + l.count.setWidth 64, latches := s.ev.latches.filter (· ≠ l) } }
      let a : Arrival := { src := x, ts := l.ts, detail := l.detail, count := l.count, last := l.last, sat := l.sat, part := l.part }
      let serves (u : State) : Prop := exec (.eventServe ⟨x, []⟩) s = .next u
      let aim := resolveTarget c.target l.part
      let copied (u : State) (r : RingId) (code : Byte) : State := if copyNeeded s x l.detail r then deliver u a .sv code true else u
      (aim = some 0 → serves (deliver s1 a .sv 0 false)) ∧
      (aim = none → serves (deliver s1 a .sv 0 true)) ∧
      (∀ p : PartId, aim = some (BitVec.ofNat 8 (0x80 + p.val)) → serves (copied (deliver s1 a (.host p) (BitVec.ofNat 8 (0x80 + p.val)) false) (.host p) (BitVec.ofNat 8 (0x80 + p.val)))) ∧
      (∀ n : VeId, aim = some (BitVec.ofNat 8 (0x40 + n.val)) →
        let code : Byte := BitVec.ofNat 8 (0x40 + n.val)
        (s.eng[n].fenced ≠ 0 → serves (copied (deliver s1 a .sv code true) (.seq n) code)) ∧
        (s.eng[n].fenced = 0 → serves (copied (wakeFor (deliver s1 a (.seq n) code false) x (.seq n)) (.seq n) code))) ∧
      (aim = some 0xFF → isDouble x l.detail = false → serves s1)) ∧
    (∀ (s : State) (x : SrcId) (us : List EventUpset), exec (.eventServe ⟨x, us⟩) s = exec (.eventServe ⟨x, []⟩) (storeUpsets s us)) ∧
    (∀ (s : State) (u : EventUpset),
      let t := storeUpsets s [u]
      (u.multi = false → t = s) ∧
      (u.multi = true → (ringGet t u.ring).recs = (ringGet s u.ring).recs.mapIdx fun i e => if i = u.place then { e with lost := true } else e) ∧
      ∀ r, r ≠ u.ring → ringGet t r = ringGet s r) ∧
    (∀ (s : State) (a : Arrival) (r : RingId) (code : Byte) (ret : Bool),
      let c := s.ev.src[a.src]
      let g := ringGet s r
      let t := deliver s a r code ret
      let into := if c.coalesce then openAt a.src code g.recs else none
      let isHeld : Held → Bool := fun h => h.pend && h.ev.src == a.src && h.ev.target == code
      (∀ r', r' ≠ r → ringGet t r' = ringGet s r') ∧
      (∀ i (h : i < g.recs.length), into = some i → ∃ e', (ringGet t r).recs = g.recs.set i e' ∧ e'.src = g.recs[i].src ∧ e'.seq = g.recs[i].seq ∧
        e'.count.toNat = min 255 (g.recs[i].count.toNat + a.count.toNat) ∧ e'.detail = (if c.keep then a.detail else g.recs[i].detail) ∧
        t.ev.recordsTotal = s.ev.recordsTotal) ∧
      (into = none → g.recs.length < ringSize r →
        (ringGet t r).recs = g.recs ++ [{ ts := a.ts, detail := a.detail, count := a.count, target := code, moved := false, retargeted := ret
                                          overflowed := a.sat, last := a.last, seq := g.next, src := a.src, isOpen := true, lost := false, part := a.part }] ∧
          (ringGet t r).next = g.next + 1 ∧ t.ev.recordsTotal = s.ev.recordsTotal + 1) ∧
      (into = none → ringSize r ≤ g.recs.length →
        (ringGet t r).recs = g.recs ∧ t.ev.heldTotal = satAdd s.ev.heldTotal a.count.toNat ∧ (ringGet t r).held.any isHeld = true))) ∧
  (
    ∀ (s : State) (x : SrcId) (dt : W32),
      (canRaise s x = false → exec (.eventRaise x dt) s = .next s) ∧
      (canRaise s x = true → ∃ t, exec (.eventRaise x dt) s = .next t ∧
        t = { s with ev := { s.ev with latches := t.ev.latches }, dict := { s.dict with alertCause := t.dict.alertCause }, i3c := t.i3c, outs := t.outs } ∧
        (∀ l : Latch, l.src ≠ x → (l ∈ t.ev.latches ↔ l ∈ s.ev.latches)) ∧
        (s.ev.latches.find? (·.src = x) = none → t.ev.latches = s.ev.latches ++
          [{ src := x, ts := s.ev.time[srcDie x], detail := dt, count := 1, last := false, sat := false, part := srcPartition s x dt }]) ∧
        (∀ l, s.ev.latches.find? (·.src = x) = some l → ∃ l', t.ev.latches.find? (·.src = x) = some l' ∧ l'.count = satInc l.count ∧
          l'.detail = (if s.ev.src[x].keep then dt else l.detail) ∧ l'.ts = (if s.ev.src[x].keep then s.ev.time[srcDie x] else l.ts)) ∧
        (alertBit x dt = none ∨ s.ev.started = false → t.outs = s.outs ∧ t.dict = s.dict) ∧
        (∀ i, alertBit x dt = some i → s.ev.started = true → bit t.dict.alertCause i = true))) ∧
  (
    ∀ (s : State) (c : CoreId), canRun s c = true →
      let r : RingId := match c with | .ve n => .seq n | .sv => .sv
      let i : Instr := match c with | .ve n => .evPop n | .sv => .svPop
      let g := ringGet s r
      (g.recs = [] → exec i s = .next (emit s (.block c (BitVec.allOnes 128)))) ∧
      (∀ e es, g.recs = e :: es → ∃ t, exec i s = .next t ∧
        t.outs = s.outs ++ [.block c (readRec r e)] ∧ (e.lost = false → readRec r e = recWord e) ∧
          (e.lost = true → readRec r e = recWord { e with src := 722, count := 1, detail := at' 32 12 (ringCode r) ||| at' 32 0 e.seq.toNat }) ∧
        (g.held = [] → (ringGet t r).recs = es ∧ (ringGet t r).next = g.next) ∧
        (∀ h, g.held = [h] → g.recs.length ≤ ringSize r →
          (ringGet t r).held = [] ∧ (ringGet t r).recs = es ++ [{ heldRec h with seq := g.next }])))

/-! ### Power and dispatch (spec/14) -/

/-- R359, R361, R277: the reef changes. When the raised rail arrives the clock pauses; the paused clock restarts at the new level's frequency with the rail at its voltage code, any other cluster as before. A wake request of a
sleeping cluster that something needs wakes it at level 7, and one of a cluster that is awake only ends.

R364, R370-R372: a slot whose TICKS have passed ends: its rate is measured, and the VEs bound to its partition are to leave. It ends early at a tick that finds its partition not ready, or not runnable throughout the last.
A leaving VE at its stop point, which for a deterministic partition lies in `BARRIER` after a release, saves its context and is free; the last one ends the binding; a context that cannot be written fails the segment with 0x0E01.
Readings of the model: what a context holds is kept beside memory (logs 65, 96), the rate rounds down (log 66), and an order that finds the clock paused takes the place of the change under way (log 116). -/
def Obligations.ReefChangesAndSlots : Prop :=
  (
    ∀ (s : State) (c : ClusterId), dead s = false →
      let k := s.clusters[c]
      let becomes (i : Instr) (k' : Cluster) : Prop := ∃ t, exec i s = .next t ∧ t.clusters = s.clusters.set c k'
      (∀ l, k.change = some (.raising l) → becomes (.reefRailArrival c) { k with change := some (.paused l), mv := vidVolt k.vid }) ∧
      (∀ l, k.change = some (.paused l) → frozen s = false → k.lost = false →
        becomes (.reefClockRestart c) { k with change := none, level := l, freq := freqAt k l, vid := vidOf (voltAt k l) }) ∧
      (k.change = none → exec (.reefRailArrival c) s = .next s ∧ exec (.reefClockRestart c) s = .next s) ∧
      (frozen s = false → k.lost = false →
        (k.asleep = true → mustWake s c = true →
          becomes (.wakeRequest c) { k with asleep := false, wakeReq := false, level := 7, freq := freqAt k 7, vid := vidOf (voltAt k 7) }) ∧
        (k.asleep = true → mustWake s c = false → exec (.wakeRequest c) s = .next s) ∧
        (k.asleep = false → becomes (.wakeRequest c) { k with wakeReq := false })) ∧
      (∀ l m, k.lost = false → k.asleep = false → k.change = some (.paused m) → (reefTo s c l).clusters = s.clusters.set c
        (if voltAt k l ≤ vidVolt k.vid then { k with change := some (.paused l) } else { k with change := some (.raising l), vid := vidOf (voltAt k l) }))) ∧
  (
    ∀ s : State,
      (∀ w, dead s = false → frozen s = false → follows s = false → s.pw.running = some w → s.pw.left ≤ 1 →
        ∃ t, exec .slotTicksExpiry s = .next t ∧ t.pw.running = none ∧ t.pw.left = 0 ∧
          (bit w 4 = false →
            let p : PartId := Fin.ofNat 16 (fld w 3 0)
            t.parts = s.parts.set p { s.parts[p] with slotRate := some (s.parts[p].slotCycles * 10000 / max 1 (fld w 55 44)) } ∧
            (s.pw.due = false → s.parts[p].bind ≠ [] → t.pw.leaving = s.parts[p].bind ∧ t.pw.leavingPart = some p))) ∧
      (∀ (n : VeId) (p : PartId), s.pw.leavingPart = some p → clockRuns s (clusterOfVe n) = true → n ∈ s.pw.leaving → canStop s n = true →
        let lve := s.parts[p].bind.idxOf n
        let rest := s.pw.leaving.filter (· != n)
        (∀ off, (ctxWrite s p n lve).1 = some (9, off) → exec (.veSlotStop n) s = .next s) ∧
        (∀ st off, (ctxWrite s p n lve).1 = some (st, off) → st ≠ 9 → twinActive s p = false → (rest ≠ [] ∨ s.pw.due = false) →
          ∃ t, exec (.veSlotStop n) s = .next t ∧ t.pw.leaving = rest ∧ t.parts[p].run = none ∧
            (s.parts[p].run.isSome = true → t.parts[p].ledger.lastCause = 0x0E01)) ∧
        ((ctxWrite s p n lve).1 = none → (rest ≠ [] ∨ s.pw.due = false) →
          ∃ t x, exec (.veSlotStop n) s = .next t ∧ x ∈ t.parts[p].saved ∧ x.lve = lve ∧ x.r = s.seq[n].r ∧ x.eng = s.eng[n] ∧
            t.seq[n].st = .unbound ∧ t.eng[n].queue = [] ∧ t.pw.leaving = rest ∧
            (rest = [] → t.parts[p].bind = [] ∧ t.pw.leavingPart = none) ∧ (rest ≠ [] → t.parts[p].bind = s.parts[p].bind) ∧
            ∀ m, m ≠ n → t.seq[m] = s.seq[m])) ∧
      (∀ n, canStop s n = false → exec (.veSlotStop n) s = .next s) ∧
      (∀ (n : VeId) (p : PartId) (r : Run), s.pw.leavingPart = some p → s.parts[p].run = some r → canStop s n = true →
        s.eng[n].openIns = [] ∧ (s.seq[n].begunBarrier = true → r.phase ≠ .evaluate) ∧ (r.det = true → s.seq[n].begunBarrier = true)) ∧
      (∀ (m : TickMeas) (w : W128), dead s = false → frozen s = false → follows s = false → s.pw.running = some w → bit w 4 = false → 1 < s.pw.left →
        let p : PartId := Fin.ofNat 16 (fld w 3 0)
        ∃ t, exec (.dispatchTick m) s = .next t ∧
          (partReady s.parts[p] = true → bit m.idle p.val = false → t.pw.running = some w ∧ t.pw.left = s.pw.left - 1) ∧
          (partReady s.parts[p] = false ∨ bit m.idle p.val = true → t.pw.running = none ∧ t.pw.left = 0 ∧
            (s.pw.due = false → s.parts[p].bind ≠ [] → t.pw.leaving = s.parts[p].bind ∧ t.pw.leavingPart = some p))) ∧
      (∀ n, n ∉ s.pw.leaving → exec (.veSlotStop n) s = .next s))

/-- R366, R374, R377, Table 14.7: one dispatch tick of a device that runs. It is counted; the measurements are taken; each die's heat demand rises by one above the target and falls by one 3 degrees below it; each stack's throttle moves one
step by its own limit. On a paired secondary the demands stay as the primary has them.

R366, R367: what the tick decides of the demands. A ready partition above its cap deepens by one; while the package is over its limit, ready partitions deepen in descending charge over weight, the first alone where it saves enough; the
HBM throttle rises only once every ready partition is at level 7; with no rise and no throttle a partition in ascending order relaxes by one where its cost fits the room and its cap. R361: a cluster that may sleep does, its rail at level
7's voltage and its sensor zeroed, unless a latch forwarded in the entry wakes it.


R368, R374-R378, R380: the protections between ticks. Above 1.2 times the package limit the fast limit deepens every cluster by two levels, down to 7; a die that reaches TJ_ALERT is noted once with the thermal alert; at 110 degrees its clusters go
to level 7 and its demand to 7; at 120 degrees the device is lost with its host links down; a current-sensor or equalisation record out of its band, and a stack above its limit, are noted once each. -/
def Obligations.ThermalProtections : Prop :=
  (
    ∀ (s : State) (m : TickMeas), dead s = false → frozen s = false →
      ∃ t, exec (.dispatchTick m) s = .next t ∧ t.pw.ticks = s.pw.ticks + 1 ∧ t.pw.now = BitVec.ofNat 16 m.pkg ∧ t.pw.dieTemp = m.dieTemp ∧
        (¬ (s.twin.state = 3 ∧ s.twin.primary = false) → ∀ d : Fin 4,
          let temp := m.dieTemp[d].toNat
          t.pw.demand[d] = if s.pw.tjTarget.toNat < temp then min (s.pw.demand[d] + 1) 7
            else if temp + 3 ≤ s.pw.tjTarget.toNat then s.pw.demand[d] - 1 else s.pw.demand[d]) ∧
        (s.twin.state = 3 → s.twin.primary = false → t.pw.demand = s.pw.demand ∧ t.pw.running = s.pw.running) ∧
        ∀ i : Fin 8,
          let temp := m.stackTemp[i].toNat
          t.stk[i].temp = m.stackTemp[i] ∧
          t.stk[i].throttle = if s.pw.stackTlimit.toNat < temp then min (s.stk[i].throttle + 1) 4
            else if temp + 3 ≤ s.pw.stackTlimit.toNat then s.stk[i].throttle - 1 else s.stk[i].throttle) ∧
  (
    ∀ (s : State) (m : TickMeas), dead s = false → frozen s = false → ¬ (s.twin.state = 3 ∧ s.twin.primary = false) →
      let s1 := tickRows (tickQuiet (tickMeasure s m))
      let s2 := tickSlots s1 m.idle
      let s3 := (List.finRange 16).foldl (tickEnergy m) s2
      let r := decideTick s3 (startedSlot s1 s2)
      s3.pw.now = BitVec.ofNat 16 m.pkg ∧ (∀ p : PartId, s3.parts[p].demand = s.parts[p].demand) ∧
      ∃ t, exec (.dispatchTick m) s = .next t ∧ t.pw.step = r.step ∧ ∀ p : PartId, t.parts[p].demand = nth r.dem.d p.val 0) ∧
  (
    ∀ (s : State) (started : Option PartId), (∀ p : PartId, s.parts[p].cfg.weight ≠ 0 ∧ s.parts[p].demand ≤ 7) → s.pw.step ≤ 4 →
      let r := decideTick s started
      let pNow := partPower s started
      let ready (p : PartId) : Prop := partReady s.parts[p] = true
      let before (p : PartId) : Nat := s.parts[p].demand
      let after (p : PartId) : Nat := nth r.dem.d p.val 0
      let above (p : PartId) : Bool := partReady s.parts[p] && s.parts[p].cfg.pwrCap != 0 && decide (s.parts[p].cfg.pwrCap.toNat < pNow p)
      let capped (p : PartId) : Nat := if above p then min (before p + 1) 7 else before p
      let x : Demands := { d := (List.finRange 16).map capped, td := heat s }
      let moved (p : PartId) (v : Nat) : Int := (powerAt s x : Int) - powerAt s (setD x p v)
      let deficit : Int := ((s.pw.now.toNat + calGuard s : Nat) : Int) * 1000 - s.pw.limit.toNat * 1000
      let room : Int := (s.pw.limit.toNat * 49 * 1000 / 50 : Nat) - ((s.pw.now.toNat + calGuard s : Nat) : Int) * 1000
      let rises : Prop := (∃ p, before p < after p) ∨ ∃ d : Fin 4, s.pw.demand[d] < nth (heat s) d.val 0
      (∀ p, ¬ ready p → after p = before p) ∧
      (deficit ≤ 0 → ∀ p, after p ≤ capped p) ∧
      (∀ p, 0 < deficit → ready p → capped p < 7 →
        (∀ q, q ≠ p → ready q → capped q < 7 → s.parts[q].charge * s.parts[p].cfg.weight.toNat < s.parts[p].charge * s.parts[q].cfg.weight.toNat) →
        capped p + 1 ≤ after p ∧ (deficit ≤ moved p (capped p + 1) → ∀ q, after q = if q = p then capped p + 1 else capped q)) ∧
      (∀ v, r.taken = some v → (∀ p, ready p → 7 ≤ after p) ∧ v = s.pw.step + 1 ∧ v ≤ 4 ∧ 0 < deficit) ∧
      (rises ∨ 0 < s.pw.step ∨ r.taken.isSome = true → ∀ p, before p ≤ after p) ∧
      (¬ rises → r.taken = none → r.step = s.pw.step - 1) ∧ (rises → r.taken = none → r.step = s.pw.step) ∧
      (∀ p, before p ≤ after p + 1) ∧
      ∀ p, ¬ rises → s.pw.step = 0 → r.taken = none → ready p → 0 < before p →
        (∀ q, q ≠ p → ready q → 0 < before q → s.parts[p].charge * s.parts[q].cfg.weight.toNat < s.parts[q].charge * s.parts[p].cfg.weight.toNat) →
        let cost := - moved p (before p - 1)
        let cap := s.parts[p].cfg.pwrCap.toNat
        after p = if cost ≤ room ∧ (cap = 0 ∨ (pNow p : Int) * 1000 + cost ≤ cap * 1000) then before p - 1 else before p) ∧
  (
    ∀ (s : State) (c : ClusterId),
      let k := s.clusters[c]
      (s.pw.sleepEn = false → ∀ b, tickSleep s b = s) ∧
      (s.pw.sleepEn = true → mustWake s c = false → k.asleep = false → k.lost = false → tickSleep s (BitVec.ofNat 8 (2 ^ c.val)) = sleepNow s c) ∧
      ((portLatches s c).any (wakesCluster s c) = false →
        let k' := (sleepNow s c).clusters[c]
        k'.asleep = true ∧ k'.freq = 0 ∧ k'.change = none ∧ k'.vid = vidOf (voltAt k 7) ∧ k'.csOut = false ∧ k'.row = k.row) ∧
      ((portLatches s c).any (wakesCluster s c) = true →
        let k' := (sleepNow s c).clusters[c]
        k'.asleep = false ∧ k'.level = 7 ∧ k'.freq = freqAt k 7 ∧ k'.wakeReq = false)) ∧
  (
    ∀ s : State, dead s = false →
      let free (k : Cluster) : Prop := k.lost = false ∧ k.asleep = false ∧ k.change = none ∧ k.level < 7
      (∀ w : W16, 6 * s.pw.limit.toNat < 5 * w.toNat → ∃ t, exec (.fastLimit w) s = .next t ∧ ∀ c : ClusterId,
        (free s.clusters[c] → t.clusters[c] = { s.clusters[c] with change := some (.paused (min (s.clusters[c].level + 2) 7)) }) ∧
        (s.clusters[c].lost = true → t.clusters[c] = s.clusters[c]) ∧
        (s.clusters[c].lost = false → s.clusters[c].asleep = true → t.clusters[c] = { s.clusters[c] with vid := vidOf (voltAt s.clusters[c] 7) })) ∧
      (∀ w : W16, 5 * w.toNat ≤ 6 * s.pw.limit.toNat → exec (.fastLimit w) s = .next s) ∧
      (∀ (d : DieId) (temp : Byte), s.pw.tjAlert.toNat ≤ temp.toNat → bit s.pw.hot d.val = false →
        ∃ t, exec (.tjAlertReached d temp) s = .next t ∧
          t.pw = { s.pw with dieTemp := s.pw.dieTemp.set d temp, hot := setBit s.pw.hot d.val true } ∧
          (s.ev.started = true → bit t.dict.alertCause 2 = true) ∧ t.clusters = s.clusters) ∧
      (∀ (d : DieId) (temp : Byte), temp.toNat < s.pw.tjAlert.toNat → exec (.tjAlertReached d temp) s = .next s) ∧
      (∀ (d : DieId) (temp : Byte), 110 ≤ temp.toNat → ∃ t, exec (.thermalEmergency d temp) s = .next t ∧
        t.pw = { s.pw with dieTemp := s.pw.dieTemp.set d temp, demand := s.pw.demand.set d 7 } ∧
        ∀ c : ClusterId, (c.val / 2 = d.val → free s.clusters[c] → t.clusters[c] = { s.clusters[c] with change := some (.paused 7) }) ∧
          (c.val / 2 ≠ d.val → t.clusters[c] = s.clusters[c])) ∧
      (∀ d : DieId, ∃ t, exec (.thermtrip d) s = .next t ∧ t.boot = { s.boot with lost := true, thermtrip := true } ∧ t.mem = s.mem ∧
        ∀ h : PortId, s.ports[h].fenced = false → t.ports[h].link = 0) ∧
      (∀ c : ClusterId,
        let k := s.clusters[c]
        let temp := s.pw.dieTemp[(⟨c.val / 2, by omega⟩ : Fin 4)].toNat
        k.csOut = false → (10 < absDiff temp (fld k.csCal 7 0) ∨ 15 < absDiff k.mv (fld k.csCal 17 8)) →
          ∃ t, exec (.sensorCalOutOfBand c) s = .next t ∧ t.clusters = s.clusters.set c { k with csOut := true }) ∧
      (∀ h : PortId, s.ports[h].eqOut = false → 30 < absDiff s.pw.dieTemp[(h : Fin 4)].toNat (fld s.ports[h].eqCal 7 0) →
        ∃ t, exec (.eqCalOutOfBand h) s = .next t ∧ t.ports = s.ports.set h { s.ports[h] with eqOut := true }) ∧
      (∀ (st : StackId) (temp : Byte), s.stk[st].fenced = false → s.stk[st].hot = false → s.pw.stackTlimit.toNat < temp.toNat →
        ∃ t, exec (.stackAboveThermalLimit st temp) s = .next t ∧ t.stk = s.stk.set st { s.stk[st] with temp := temp, hot := true }))

/-! ### CRC units (spec/15) -/

/-- R383-R385, Table 15.1: a start word that the arbiter grants begins a run with the register initialised from POLY and tag; words that come update it; after the last the result is the run's CRC, counted, kept and answered, and a compare that
differs is counted and reported. A fenced unit answers so. An idle unit's self-check fences it when a result is not Table 15.1's. -/
def Obligations.CrcUnits : Prop :=
  (∀ (s : State) (u : CrcId) (master : BitVec 10) (poly : BitVec 2) (tag expected : W64) (cmp : Bool) (count : BitVec 32) (rivals : Contest) (slot : Nat),
    dead s = false → frozen s = false → crcSlot u (masterKind master.toNat) = some slot →
    let i : Instr := .crcStart u master poly tag expected cmp count rivals
    let way := diePath s (masterDie (masterKind master.toNat)) (u.val / 4)
    (s.crc[u].fenced = true ∨ dieHops s (masterDie (masterKind master.toNat)) (u.val / 4) = none → exec i s = .next (emit s (.bus master 0 [] 8))) ∧
    (s.crc[u].fenced = false → dieHops s (masterDie (masterKind master.toNat)) (u.val / 4) ≠ none → s.crc[u].run.isSome = true → exec i s = .next s) ∧
    (s.crc[u].fenced = false → dieHops s (masterDie (masterKind master.toNat)) (u.val / 4) ≠ none → s.crc[u].run = none → crcNearest s u (masterKind master.toNat) = true →
      ∀ a, arbContest s.fab.crcArb[u] (fun _ => 0) (u.val / 4) slot rivals = some a →
        exec i s = .next { s with
          fab := { s.fab with crcArb := s.fab.crcArb.set u a, bridges := (crossWay (masterKind master.toNat) (way.getD []) s).fab.bridges }
          crc := s.crc.set u { s.crc[u] with
            master := master, reg := crcStart poly tag, run := some { poly := poly, tag := tag, expected := expected, cmp := cmp, left := count.toNat + 1 } } })) ∧
  (∀ (s : State) (u : CrcId) (words : List W128) (r : CrcRun), dead s = false → s.crc[u].fenced = false → s.crc[u].run = some r →
    let c := s.crc[u]
    let reg := (bytesOfWords words).foldl (crcStep r.poly) c.reg
    let v := crcFinal r.poly reg
    (words.length < r.left → exec (.crcRunEnd u words) s = .next { s with crc := s.crc.set u { c with reg := reg, run := some { r with left := r.left - words.length } } }) ∧
    (words.length = r.left → ∃ t, exec (.crcRunEnd u words) s = .next t ∧
      t.crc[u] = { c with reg := reg, run := none, master := 0x3FF, runs := c.runs + 1, last := v
                          mismatches := if r.cmp = true ∧ v ≠ r.expected then satInc c.mismatches else c.mismatches } ∧
      (∀ w, w ≠ u → t.crc[w] = s.crc[w]) ∧ t.mem = s.mem ∧ t.parts = s.parts ∧ .crcResult c.master v ∈ t.outs ∧
      (¬ (r.cmp = true ∧ v ≠ r.expected) → t.ev = s.ev ∧ t.outs = s.outs ++ [.crcResult c.master v]))) ∧
  (∀ (p : BitVec 2) (tag : W64) (a b : List Byte), crcOf p tag (a ++ b) = crcFinal p (b.foldl (crcStep p) (a.foldl (crcStep p) (crcStart p tag)))) ∧
  (∀ p : BitVec 2, crcOf p 0 [0x31, 0x32, 0x33, 0x34, 0x35, 0x36, 0x37, 0x38, 0x39] = crcCheckValue p.toNat) ∧
  (∀ (s : State) (u : CrcId) (results : Vector W64 4), dead s = false → s.crc[u].fenced = false → s.crc[u].run = none →
    ((∀ i : Fin 4, results[i] = crcCheckValue i.val) → exec (.crcSelfCheck u results) s = .next s) ∧
    ((∃ i : Fin 4, results[i] ≠ crcCheckValue i.val) → ∃ t, exec (.crcSelfCheck u results) s = .next t ∧ t.crc[u].fenced = true))

/-! ### The Sundov twin (spec/15) -/

/-- R404-R406, Table 15.7: TWIN_PAIR starts a resync when its conditions hold, TWIN_DETACH lets a paired primary go once every committed design cycle is agreed, TWIN_PROMOTE promotes an isolated secondary; otherwise each is refused with 0x0007. The passes of a resync follow each other until the hold, and pairing ends it; a memory error or a fence fails it, with a record of cause 0x0F32 in the ledger of each twin-mode partition. The model's choices: the moment at which TWIN_DETACH takes effect (log 19); the map read as any memory and cleared as a pass reads it, and a copy that waits where an arbiter makes it wait (log 76); the refusal 0x0007 of TWIN_DETACH away from a paired primary (log 110). -/
def Obligations.TwinEntries : Prop :=
  (∀ (s : State) (r : Requester) (a : DAcc) (v : Nat),
    (Serves s r 0x8100 3 a v →
      (pairOk s = true → Completes (.twinPair r a) s r 0x8100 3 v fun s => resyncStart s (BitVec.ofNat 32 v)) ∧
      (pairOk s = false → Refuses (.twinPair r a) s r 0x8100 3 0x0007)) ∧
    (Serves s r 0x8100 4 a v →
      (v = 0 → Completes (.twinDetach r a) s r 0x8100 4 v id) ∧
      (v = 1 → s.twin.primary = true → s.twin.state = 3 →
        Completes (.twinDetach r a) s r 0x8100 4 v fun s => detachGo { s with twin := { s.twin with detachDue := true } }) ∧
      (v = 1 → (s.twin.primary = false ∨ s.twin.state ≠ 3) → Refuses (.twinDetach r a) s r 0x8100 4 0x0007)) ∧
    (Serves s r 0x8100 5 a v →
      (v = 0 → Completes (.twinPromote r a) s r 0x8100 5 v id) ∧
      (v = 1 → s.twin.state = 5 → Completes (.twinPromote r a) s r 0x8100 5 v promote) ∧
      (v = 1 → s.twin.state ≠ 5 → Refuses (.twinPromote r a) s r 0x8100 5 0x0007))) ∧
  (∀ (s : State) (tag : W32), s.mem.cells = [] → s.mem.poison = [] → s.mem.latent = [] →
    (mapBad s = false → (∀ p, p ∈ twinParts s → partMemFenced s p = false) →
      (resyncStart s tag).twin.state = 2 ∧ (resyncStart s tag).twin.resync = some { tag := tag, phase := .whole, due := false } ∧
      (resyncStart s tag).parts = s.parts ∧ (resyncStart s tag).mem.cells = []) ∧
    (mapBad s = true ∨ (∃ p, p ∈ twinParts s ∧ partMemFenced s p = true) →
      (resyncStart s tag).twin.state = 4 ∧ (resyncStart s tag).twin.resync = none)) ∧
  (∀ (s : State) (rs : Resync), s.twin.resync = some rs → (resyncFails s).twin.state = 4 ∧ (resyncFails s).twin.resync = none ∧ (resyncFails s).mem = s.mem ∧
    ∀ p : PartId, (s.parts[p].cfg.twinMode = false → (resyncFails s).parts[p] = s.parts[p]) ∧
      (s.parts[p].cfg.twinMode = true → (resyncFails s).parts[p].ledger.lastCause = 0x0F32 ∧
        ∃ d, (resyncFails s).parts[p].ledger.ring = s.parts[p].ledger.ring ++ [ledgerRec rs.tag 0x05 0x0F32 d])) ∧
  (∀ s : State, (promote s).twin.state = 6 ∧ (promote s).twin.lostAt = none) ∧
  (∀ s : State, s.twin.detachDue = true → s.twin.state = 3 → s.twin.primary = true →
    ((∃ p, p ∈ twinParts s ∧ s.parts[p].agreed.toNat < s.parts[p].designCycle) → detachGo s = s) ∧
    ((∀ p, p ∈ twinParts s → s.parts[p].designCycle ≤ s.parts[p].agreed.toNat) →
      (detachGo s).twin.state = 4 ∧ (detachGo s).twin.detachDue = false)) ∧
  (∀ (s : State) (rs : Resync), dead s = false → s.twin.state = 2 → s.twin.resync = some rs →
    let m := readMap s
    exec (.resyncPassEnd true) s = .next (resyncFails s) ∧
    (rs.phase = .whole → rs.due = false → exec (.resyncPassEnd false) s = .next (copied s (sendDirty s) rs (.pass 1))) ∧
    (rs.phase = .whole → rs.due = true → exec (.resyncPassEnd false) s = .next (copyWhole s rs)) ∧
    (∀ n, rs.phase = .pass n →
      (m.2.bad = 9 → exec (.resyncPassEnd false) s = .next s) ∧
      (m.2.bad ≠ 9 → m.2.bad ≠ 0 → exec (.resyncPassEnd false) s = .next (resyncFails m.2.s)) ∧
      (m.2.bad = 0 → dirtyCount s < 1024 ∨ 8 ≤ n → exec (.resyncPassEnd false) s = .next
        { m.2.s with twin := { m.2.s.twin with resync := some { rs with phase := .hold } } }) ∧
      (m.2.bad = 0 → 1024 ≤ dirtyCount s → n < 8 → exec (.resyncPassEnd false) s = .next (copied s (sendDirty s) rs (.pass (n + 1))))) ∧
    (rs.phase = .hold → (allHeld s = false → exec (.resyncPassEnd false) s = .next s) ∧
      (allHeld s = true → exec (.resyncPassEnd false) s = .next (holdEnds s)))) ∧
  (∀ s : State, let c := (twinParts s).foldl (sendSpace true) (sendDirty s)
    (c.bad = 9 → holdEnds s = s) ∧ (c.bad ≠ 9 → c.bad ≠ 0 → holdEnds s = resyncFails c.s) ∧
    (c.bad = 0 → (holdEnds s).twin.resync = none ∧ (holdEnds s).twin.state = 3 ∧
      ∀ p, p ∈ twinParts s → (holdEnds s).parts[p].agreed = BitVec.ofNat 64 (holdEnds s).parts[p].designCycle)) ∧
  (∀ (s : State) (c : Copying) (r : Resync) (ph : ResyncPhase), (c.bad = 9 → copied s c r ph = s) ∧ (c.bad ≠ 9 → c.bad ≠ 0 → copied s c r ph = resyncFails c.s) ∧
    (c.bad = 0 → copied s c r ph = { c.s with twin := { c.s.twin with resync := some { r with phase := ph, due := false } } })) ∧
  (∀ s : State, mapBad s = true → (sendDirty s).bad = 8) ∧
  (∀ s : State, dead s = true ∨ s.twin.state ≠ 2 ∨ s.twin.resync = none → ∀ b, exec (.resyncPassEnd b) s = .next s) ∧
  (∀ c : Copying, (clearMap c).s.mem.ram = c.s.mem.ram ∧ (c.bad ≠ 0 → clearMap c = c) ∧
    (Inv c.s → (∀ a, inMap c.s a = true → ∀ p, p ∈ twinParts c.s → partOff c.s p a = none) → (clearMap c).bad = 0 → mapWords (clearMap c).s = []))

/-- R396, R397, R404, R405, R430: the link comes up with sequence numbers from 0, but not once its PLL has lost lock; its loss drops what was unacknowledged and is the loss of the twin: a paired primary goes on alone, a paired secondary is promoted when the twin is absent or has said so, else it waits for TWIN_PRESENT_N. The wait ends with the promotion or, expired, in isolation. Unacknowledged frames are sent again in order with a fresh ACK; a heartbeat is a frame of its own. The model's choices: SEQ starts again at link up (log 76), TWIN_PRESENT_N is low then (log 39), what a loss means to a secondary that is not paired (log 19), and the payload of a heartbeat (log 35). -/
def Obligations.TwinLink : Prop :=
  ∀ s : State, dead s = false →
    let w := s.twin
    (∀ lanes, (w.linkUp = true ∨ bit s.boot.pllGone 24 = true → exec (.sundovLinkUp lanes) s = .next s) ∧
      (w.linkUp = false → bit s.boot.pllGone 24 = false → ∃ t, exec (.sundovLinkUp lanes) s = .next t ∧ t.twin = { w with
          linkUp := true, sendSeq := 0, recvSeq := 0, unacked := [], state := if w.state = 0 then 1 else w.state } ∧
        t.boot = { s.boot with twinPresentN := false } ∧ t.parts = s.parts ∧ t.mem = s.mem)) ∧
    (∀ sunk : Fin 33,
      (w.linkUp = false ∨ frozen s = true → exec (.sundovLinkLoss sunk) s = .next s) ∧
      (w.linkUp = true → frozen s = false → ∃ t, exec (.sundovLinkLoss sunk) s = .next t ∧ t.twin.linkUp = false ∧ t.twin.unacked = [] ∧
        (w.primary = true → t.twin.state = (if w.state = 1 ∨ w.state = 2 ∨ w.state = 3 then 4 else w.state)) ∧
        (w.primary = false → w.state = 1 ∨ w.state = 2 → t.twin.state = 0 ∧ t.parts = s.parts) ∧
        (w.primary = false → w.state = 3 → (s.boot.twinPresentN = true ∨ w.fatal = true → t.twin.state = 6) ∧
          (s.boot.twinPresentN = false → w.fatal = false → t.twin.state = 3 ∧ t.twin.lostAt = some (timeNow s) ∧ t.parts = s.parts)) ∧
        (w.primary = false → w.state = 0 ∨ w.state = 4 ∨ w.state = 5 ∨ w.state = 6 → t.twin.state = w.state ∧ t.parts = s.parts))) ∧
    (exec .presenceWaitExpiry s = .next (if w.lostAt.isSome = true then raiseN (toTwinState { s with twin := { w with lostAt := none } } 5) 712 0 else s)) ∧
    (let s1 : State := { s with boot := { s.boot with twinPresentN := true } }
     exec .twinPresentNHigh s = .next (if w.lostAt.isSome = true then promote s1 else s1)) ∧
    (w.linkUp = false → exec .frameResend s = .next s ∧ exec .heartbeatSend s = .next s) ∧
    (w.linkUp = true →
      exec .frameResend s = .next { s with
        outs := s.outs ++ w.unacked.map fun x => .frame x.2.1 (frameOf x.1 (w.recvSeq - 1) x.2.1 x.2.2)
        twin := { w with resends := satInc^[w.unacked.length] w.resends } } ∧
      exec .heartbeatSend s = .next { s with
        outs := s.outs ++ [.frame 1 (frameOf w.sendSeq (w.recvSeq - 1) 1 [heartWord s (revision s)])]
        twin := { w with sendSeq := w.sendSeq + 1, unacked := w.unacked ++ [(w.sendSeq, 1, [heartWord s (revision s)])] } }) ∧
    (∀ (seq ack : W32) (kind : Byte) (payload : List W128), payload.length ≤ 256 →
      let f := frameOf seq ack kind payload
      frameCrcOk f = true ∧ fld f.hdr 127 96 = seq.toNat ∧ fld f.hdr 95 88 = kind.toNat ∧ fld f.hdr 76 64 = payload.length ∧ fld f.hdr 63 32 = ack.toNat ∧ f.payload = payload)

/-- R382, R396, R399-R406: a frame of a wrong CRC, length, TYPE or SEQ is discarded without any effect. One that is taken moves the expected SEQ on, lets go of what its ACK acknowledges, and has its TYPE's effect; forwarded levels and slots are the device's, not a twin-mode partition's. Copied words are written as an access is, and a fence on the secondary fails the item. The model's choices: the payload layouts (log 35); kept job starts, forwarded writes and failures, and the end of a save by its record (log 75); resync frames, their lists and a copy that meets a fence (log 76). -/
def Obligations.TwinFrames : Prop :=
  ∀ (s : State) (f : SFrame),
    let good (kind : Nat) : Prop := dead s = false ∧ s.twin.linkUp = true ∧ fld f.hdr 95 88 = kind ∧ fld f.hdr 76 64 = f.payload.length ∧ f.payload.length ≤ 256 ∧
      frameCrcOk f = true ∧ fld f.hdr 127 96 = s.twin.recvSeq.toNat
    let t := frameAcked { s with twin := { s.twin with recvSeq := s.twin.recvSeq + 1 } } (BitVec.ofNat 32 (fld f.hdr 63 32))
    let w := payHead f
    let body := f.payload.drop 1
    let p := payPart w
    (¬ good 1 → exec (.heartbeat f) s = .next s) ∧ (¬ good 2 → exec (.forwardedInput f) s = .next s) ∧ (¬ good 3 → exec (.digest f) s = .next s) ∧
    (¬ good 4 → exec (.ledgerCopy f) s = .next s) ∧ (¬ good 5 → exec (.progress f) s = .next s) ∧ (¬ good 6 → exec (.resyncData f) s = .next s) ∧
    (¬ good 7 → exec (.fatalNotice f) s = .next s) ∧
    (good 1 → exec (.heartbeat f) s = .next (if f.payload = [] then t else { t with twin := { t.twin with
      farState := Fin.ofNat 7 (fld w 98 96), farFresh := bit w 64, farRevision := BitVec.ofNat 32 (fld w 31 0) } })) ∧
    (good 7 → exec (.fatalNotice f) s = .next { t with twin := { t.twin with fatal := true } }) ∧
    (good 3 →
      let q : PartId := Fin.ofNat 16 (fld w 63 60)
      (twinActive t q = false → exec (.digest f) s = .next t) ∧
      (twinActive t q = true → exec (.digest f) s = .next (detachGo (agreeGo (modPart t q fun x =>
        { x with farDig := x.farDig ++ [(fld w 59 0, BitVec.ofNat 64 (fld w 127 64))] }) q)))) ∧
    (good 4 →
      let q : PartId := Fin.ofNat 16 (fld w 3 0)
      let r := nth f.payload 1 0
      let u := modPart t q fun x => { x with mirror := x.mirror ++ [r] }
      exec (.ledgerCopy f) s = .next (if twinActive t q = true ∧ t.twin.primary = false
        then (if fld r 95 88 = 2 then farSaveEnds u q (fld r 127 96) else u) else t)) ∧
    (good 5 →
      (twinActive t p = false ∨ t.twin.primary = true → exec (.progress f) s = .next t) ∧
      (twinActive t p = true → t.twin.primary = false →
        let u := modStream t p (payEntry w) fun st => { st with seqOut := BitVec.ofNat 32 (fld w 95 64) + 1 }
        (payEntry w = 6 → exec (.progress f) s = .next (modPart u p fun x => { x with mirror := x.mirror.drop (fld w 63 0) })) ∧
        (payEntry w ≠ 6 → payEntry w ≠ 3 → exec (.progress f) s = .next u) ∧
        (payEntry w = 3 → fld w 63 0 = 0 → exec (.progress f) s = .next u) ∧
        (payEntry w = 3 → fld w 63 0 ≠ 0 → exec (.progress f) s = .next (tryComplete (modPart u p fun x =>
          { x with released := max x.released (fld w 63 0), frames := x.frames.filter fun g => decide (fld w 63 0 < g.cycle) }) p)))) ∧
    (good 2 → f.payload ≠ [] →
      (t.twin.primary = true → exec (.forwardedInput f) s = .next (if fld w 127 120 = 10 then loseTwin t false else t)) ∧
      (t.twin.primary = false → t.twin.state ≠ 3 → exec (.forwardedInput f) s = .next t) ∧
      (t.twin.primary = false → t.twin.state = 3 →
        (fld w 127 120 = 8 → ∃ u, exec (.forwardedInput f) s = .next u ∧ u.twin.state = 4) ∧
        (fld w 127 120 = 6 → exec (.forwardedInput f) s = .next (reefTo t (Fin.ofNat 8 (payEntry w).val) (fld w 111 0 % 8))) ∧
        (fld w 127 120 = 4 → exec (.forwardedInput f) s = .next (farSlotStart t p (fld w 111 0) (nth body 0 0))) ∧
        (fld w 127 120 = 5 → exec (.forwardedInput f) s = .next (endSlot t)) ∧
        (fld w 127 120 ≠ 6 → fld w 127 120 ≠ 8 → fld w 127 120 ≠ 4 → fld w 127 120 ≠ 5 → t.parts[p].cfg.twinMode = false → exec (.forwardedInput f) s = .next t) ∧
        (t.parts[p].cfg.twinMode = true →
          (fld w 127 120 = 0 → exec (.forwardedInput f) s = .next (farHeader t p (payEntry w) (nth body 0 0))) ∧
          (fld w 127 120 = 1 → exec (.forwardedInput f) s = .next (partGo (body.foldl (farWord p (payEntry w)) t) p)) ∧
          (fld w 127 120 = 2 → exec (.forwardedInput f) s = .next (farWrite t p (fld w 111 0 / 256 % 65536) (fld w 111 0 % 256) body)) ∧
          (fld w 127 120 = 3 → exec (.forwardedInput f) s = .next (jobStartOp (modPart t p fun x => { x with farStarts := x.farStarts + 1 }) p)) ∧
          (fld w 127 120 = 9 → t.parts[p].run = none → t.parts[p].farStarts = 0 → exec (.forwardedInput f) s = .next t) ∧
          (fld w 127 120 = 9 → t.parts[p].run ≠ none ∨ t.parts[p].farStarts ≠ 0 → exec (.forwardedInput f) s = .next (farFailGo (modPart t p fun x =>
            { x with farFail := some (fld w 111 0, fld (nth body 0 0) 79 64, BitVec.ofNat 64 (fld (nth body 0 0) 63 0)) }) p)) ∧
          (fld w 127 120 = 7 → exec (.forwardedInput f) s = .next (modPart t p fun x => { x with farAgain := x.farAgain || decide (fld w 111 0 ≤ x.farIngest), farIngest := fld w 111 0 }))))) ∧
    (good 6 →
      (t.twin.primary = true ∨ f.payload = [] → exec (.resyncData f) s = .next t) ∧
      (t.twin.primary = false → f.payload ≠ [] → fld w 127 120 = 0 →
        exec (.resyncData f) s = .next (if t.twin.state = 1 then toTwinState { t with twin := { t.twin with buf := [] } } 2 else t)) ∧
      (t.twin.primary = false → fld w 127 120 ≠ 0 → t.twin.state ≠ 2 → exec (.resyncData f) s = .next t) ∧
      (t.twin.primary = false → t.twin.state = 2 →
        (f.payload ≠ [] → fld w 127 120 = 2 → exec (.resyncData f) s = .next (resyncMem t p (bit w 112) (fld w 111 0) body)) ∧
        (f.payload ≠ [] → fld w 127 120 = 4 → exec (.resyncData f) s = .next (resyncZero t p (bit w 112))) ∧
        (f.payload ≠ [] → fld w 127 120 = 3 → ∃ u, exec (.resyncData f) s = .next u ∧ u.twin.state = 3) ∧
        (f.payload ≠ [] → fld w 127 120 ≠ 0 → fld w 127 120 ≠ 2 → fld w 127 120 ≠ 3 → fld w 127 120 ≠ 4 →
          (bit w 0 = false → exec (.resyncData f) s = .next { t with twin := { t.twin with buf := t.twin.buf ++ body } }) ∧
          (bit w 0 = true → exec (.resyncData f) s = .next (resyncList { t with twin := { t.twin with buf := [] } } p (payEntry w) (fld w 127 120) (t.twin.buf ++ body)))))) ∧
    (∀ (q : PartId) (space : Bool) (off a : Nat) (x : W128), partDev s q space off = some a →
      let u := copyIn s q space off x
      (u.status = 0 → resyncMem s q space off [x] = u.s) ∧ (u.status ≠ 0 → resyncMem s q space off [x] = copyFails u.s q) ∧
      (Inv s → s.twin.resync = none → u.status = 0 → ∀ i, wordGet u.s.mem i = if i = a / 16 then x else wordGet s.mem i) ∧
      (u.status ≠ 0 → u.s.mem = s.mem) ∧ (partMemFenced s q = true → resyncZero s q space = copyFails s q) ∧
      (Inv s → partMemFenced s q = false → ∀ i, wordGet (resyncZero s q space).mem i =
        if ((if space then bankOff s q (16 * i) else partOff s q (16 * i)).isSome) then 0 else wordGet s.mem i)) ∧
    (∀ q : PartId, (copyFails s q).twin.state = 4 ∧ (copyFails s q).mem = s.mem) ∧
    t.twin.recvSeq = s.twin.recvSeq + 1

/-! ### Resets, boot and firmware images (spec/17) -/

/-- R418-R420, R425, Table 17.1: a power-on reset samples BOOTSEL and TWIN_ROLE, keeps the boot flash and clears everything else; PWROK falling holds the device in reset; a RESET_N pulse and a SOFT_RESET are package resets that sample BOOTSEL, keep TWIN_ROLE and the THERMTRIP_N latch and name themselves in RESET_CAUSE, the pulse without effect while PWROK is low. No flash write is under way here. What a reset does not clear besides is the model's reading (log 67): the levels at HOLD_N and TWIN_PRESENT_N, outputs already made, free values drawn and commands that wait. R428: a time sync sets every die's counter to that of Q0. -/
def Obligations.ResetKinds : Prop :=
  ∀ s : State,
    (s.boot.flashBusy = none → ∀ (bootsel : BitVec 2) (role : Bool),
      let z := State.powerOn bootsel role
      let kept (z : State) : State := { z with
        boot := { z.boot with flashA := s.boot.flashA, flashB := s.boot.flashB, twinPresentN := s.boot.twinPresentN }
        fz := { z.fz with holdN := s.fz.holdN }
        outs := s.outs, free := s.free, pending := s.pending }
      exec (.powerOnReset bootsel role) s = .next (kept z) ∧
      (s.boot.pwrok = true → ∃ t, exec (.resetNPulse bootsel) s = .next t ∧
        t = { kept (State.powerOn bootsel s.twin.primary) with boot := t.boot } ∧ t.boot.cause = 1 ∧ t.boot.thermtrip = s.boot.thermtrip ∧ t.boot.step = 1 ∧ t.boot.state = 0 ∧
        t.boot.flashA = s.boot.flashA ∧ t.boot.flashB = s.boot.flashB ∧ t.boot.bootsel = bootsel) ∧
      (∃ t, exec .pwrokFall s = .next t ∧ t = { kept (State.powerOn s.boot.bootsel s.twin.primary) with boot := t.boot } ∧ t.boot.pwrok = false ∧ t.boot.inReset = true ∧
        t.boot.flashA = s.boot.flashA ∧ t.boot.flashB = s.boot.flashB)) ∧
    (s.boot.pwrok = false → ∀ b, exec (.resetNPulse b) s = .next s) ∧
    (s.boot.softDue = false → softResetGo s = s) ∧
    (s.boot.softDue = true → s.boot.flashBusy = none →
      let u := softResetGo s
      u.boot.bootsel = s.boot.bootPins ∧ u.boot.cause = 2 ∧ u.boot.thermtrip = s.boot.thermtrip ∧ u.boot.step = 1 ∧ u.boot.state = 0 ∧ u.boot.softDue = false ∧
      u.twin.primary = s.twin.primary ∧ u.boot.flashA = s.boot.flashA ∧ u.boot.flashB = s.boot.flashB ∧ u.parts = State.reset.parts ∧ u.mem = State.reset.mem ∧
      u.ports = State.reset.ports ∧ (¬ (s.twin.primary = true ∧ s.twin.state = 3) → u.outs = s.outs)) ∧
    (∀ t, exec .pwrokFall s = .next t → dead t = true ∧ t.parts = State.reset.parts ∧ t.seq = State.reset.seq ∧ t.mem = State.reset.mem ∧ t.dict = State.reset.dict) ∧
    (dead s = true → exec .timeSync s = .next s) ∧
    (dead s = false → ∃ t, exec .timeSync s = .next t ∧ t = { s with ev := t.ev } ∧ t.ev = { s.ev with time := t.ev.time } ∧ ∀ d : DieId, t.ev.time[d] = s.ev.time[(0 : Fin 4)])

/-- R421-R425, R385, R430, R431, Table 17.2: each boot step completes in turn. PLLs lock before the self-tests; BOOTSEL decides after the lockstep pair starts, and where no slot boots FW_SLOT_A and FW_SLOT_B show the slots all the same; an accepted slot is copied to working RAM, with slot B the second choice and recovery the last; then the scratchpad, and HBM after it, hold zero, failed stacks are fenced and the others ready, and the dictionary opens. The model's readings: step 1 ends only with all 26 PLLs, links begin to train then, and BOOT_STATE is still 5 while step 8 is under way (log 67); a CRC unit that fails is fenced at step 6 (log 68); what the boot ROM leaves in the top of working RAM is free (log 2). -/
def Obligations.BootSteps : Prop :=
  ∀ (s : State) (f : BootFindings), dead s = false → s.boot.state < 7 →
    let i : Instr := .bootStepComplete f
    let locked := f.locked &&& 0x3FFFFFF &&& ~~~s.boot.pllGone
    (s.boot.step = 1 → locked = 0x3FFFFFF → exec i s = .next { s with
      boot := { s.boot with pllLock := 0x3FFFFFF, step := 2, state := 1 }
      seq := s.seq.map fun c => { c with st := .recovery }, sv := { s.sv with st := .recovery }
      ports := if s.boot.bootsel.toNat < 2 then s.ports.map fun t => if t.link = 0 then { t with link := 1 } else t else s.ports }) ∧
    (s.boot.step = 1 → locked ≠ 0x3FFFFFF → exec i s = .next { s with boot := { s.boot with pllLock := locked } }) ∧
    (s.boot.step = 2 → ∃ t, exec i s = .next t ∧ t = { s with seq := t.seq, sv := t.sv, boot := { s.boot with step := 3, state := 2 } } ∧
      (∀ n : VeId, t.seq[n] = { s.seq[n] with st := .recovery, back := if bit f.selfTestFail n.val then .failedSelfTest else .unbound }) ∧
      t.sv.st = .running ∧ t.sv.r.pc = 0) ∧
    (s.boot.step = 3 → ∃ t, exec i s = .next t ∧
      (s.boot.bootsel = 0 → t.boot = { s.boot with step := 4, state := 3 } ∧ t.ports = s.ports) ∧
      (s.boot.bootsel ≠ 0 → t.boot.fwA = (if slotVerdict s false = 0 then at' 32 24 (le s.boot.flashA 4 1) ||| at' 32 16 (le s.boot.flashA 5 1) else 0) ∧
        t.boot.fwB = (if slotVerdict s true = 0 then at' 32 24 (le s.boot.flashB 4 1) ||| at' 32 16 (le s.boot.flashB 5 1) else 0)) ∧
      (s.boot.bootsel = 1 → t.boot = { s.boot with state := 7, slot := 2, fwA := t.boot.fwA, fwB := t.boot.fwB } ∧ t.ports = s.ports) ∧
      (s.boot.bootsel ≠ 0 → s.boot.bootsel ≠ 1 → t.boot = { s.boot with state := 8, fwA := t.boot.fwA, fwB := t.boot.fwB } ∧ ∀ h : PortId, t.ports[h].link = 0) ∧
      t.mem = { s.mem with ram := t.mem.ram } ∧ (Inv s → ∀ a, a < 0xF0000 → cellGet t.mem.ram a = cellGet s.mem.ram a) ∧ t.parts = s.parts) ∧
    (s.boot.step = 4 →
      (slotVerdict s false = 0 → ∃ t, exec i s = .next t ∧ t.boot.slot = 0 ∧ t.boot.step = 5 ∧ t.boot.state = 3 ∧ t.mem = { s.mem with ram := t.mem.ram } ∧
        t.mem.ram = cellsSet s.mem.ram 0 (imageBody s.boot.flashA)) ∧
      (slotVerdict s false ≠ 0 → slotVerdict s true = 0 → ∃ t, exec i s = .next t ∧ t.boot.slot = 1 ∧ t.boot.step = 5 ∧ t.boot.fail.toNat = slotVerdict s false ∧
        t.mem.ram = cellsSet s.mem.ram 0 (imageBody s.boot.flashB)) ∧
      (slotVerdict s false ≠ 0 → slotVerdict s true ≠ 0 → ∃ t, exec i s = .next t ∧ t.boot.state = 7 ∧ t.boot.slot = 2 ∧ t.mem = s.mem ∧
        t.boot.fail.toNat = slotVerdict s true * 256 + slotVerdict s false)) ∧
    (s.boot.step = 5 → ∃ t, exec i s = .next t ∧ t.boot.step = 6 ∧ t.boot.state = 4 ∧ t.fab.remap = true ∧ t.sv.r.pc = BitVec.ofNat 40 (le (bootImage s) 0xC 4) ∧
      t.ls.patchId = BitVec.ofNat 32 (le (bootImage s) 0x14 4) ∧ t.ls.patchMatch.length = 16 ∧ t.ls.patchWords.length = 128 ∧
      ∀ n : VeId, (bit f.selfTestFail n.val = true ∨ s.seq[n].back = .failedSelfTest) → t.eng[n].fenced ≠ 0) ∧
    (s.boot.step = 6 → ∃ t, exec i s = .next t ∧ t.boot.step = 7 ∧ t.boot.state = 5 ∧
      (f.crcFail = 0 → f.dieFail = 0 → t.parts = s.parts ∧ (∀ w, w ∈ t.mem.poison ↔ w ∈ s.mem.poison ∧ ¬ (spLo ≤ 16 * w ∧ 16 * w < spHi)) ∧ (Inv s → ∀ a, cellGet t.mem.cells a = if spLo ≤ a ∧ a < spHi then 0 else cellGet s.mem.cells a)) ∧
      (∀ u : CrcId, bit f.crcFail u.val = true → t.crc[u].fenced = true) ∧ ∀ d : DieId, d ≠ 0 → bit f.dieFail d.val = true → bit t.dieFenced d.val = true) ∧
    (s.boot.step = 7 → ∃ t, exec i s = .next t ∧ t.boot.step = 8 ∧ t.boot.state = 5 ∧ (Inv s → ∀ a, cellGet t.mem.cells a = if spLo ≤ a ∧ a < spHi then cellGet s.mem.cells a else 0) ∧
      (∀ w, w ∈ t.mem.poison ↔ w ∈ s.mem.poison ∧ spLo ≤ 16 * w ∧ 16 * w < spHi) ∧ (∀ l, l ∈ t.mem.latent ↔ l ∈ s.mem.latent ∧ spLo ≤ 16 * l.word ∧ 16 * l.word < spHi) ∧
      ∀ k : StackId, (s.stk[k].fenced = false → bit f.stackFail k.val = false → t.stk[k].ready = true ∧ t.stk[k].temp = f.temp ∧ t.stk[k].vddq = f.volt.toNat) ∧
        (s.stk[k].fenced = true ∨ bit f.stackFail k.val = true → t.stk[k].fenced = true)) ∧
    (s.boot.step = 8 → ∃ t, exec i s = .next t ∧ t.boot.step = 9 ∧ t.boot.state = 6 ∧ t.boot.ms = f.ms ∧ t.dict.isOpen = true ∧ t.ev.started = true ∧ t.fz.state = (if s.fz.holdN = true ∧ s.fz.state = 0 then 1 else s.fz.state) ∧
      t.parts = s.parts ∧ t.mem = s.mem)

/-- R425, R426, Table 17.4: in recovery mode the boot goes on from step 5 with the verified image once the answer to FINISH has been read, and asks for no more in-band interrupts; the end of a flash write puts the image into its slot, reports event 731 with the slot and whether the write failed, and answers FINISH.

R426: START fixes target and size, DATA puts its bytes at their offset, QUERY reports; each in the states and with the abort codes of R426. The model's choices: START is refused with 0x0007 while a slot is being written (log 93), and a TARGET above 2 with 0x0005 (log 110). -/
def Obligations.RecoveryAndFlash : Prop :=
  (
    ∀ s : State, dead s = false →
      (∀ size got, s.boot.incoming = some (0, size, got) → s.boot.state = 7 → s.boot.recDone = true → s.i3c.unread = false → s.boot.slot = 2 →
        ∃ t, exec .recoveryBootContinue s = .next t ∧ t.boot = { s.boot with step := 5, state := 3 } ∧ t.mem.ram = cellsSet s.mem.ram 0 (imageBody (receivedImage s)) ∧
          t.mem.cells = s.mem.cells ∧ t.parts = s.parts ∧ t.i3c = { s.i3c with ibiRecovery := false }) ∧
      (s.boot.incoming = none ∨ s.boot.state ≠ 7 ∨ s.boot.recDone = false ∨ s.i3c.unread = true → exec .recoveryBootContinue s = .next s) ∧
      (s.boot.flashBusy = none → ∀ b, exec (.flashSlotWriteDone b) s = .next s) ∧
      (∀ k, s.boot.flashBusy = some k → k < 2 → ∃ t, exec (.flashSlotWriteDone false) s = .next t ∧ t.boot.flashBusy = none ∧ t.boot.incoming = none ∧
        t.boot.flashA = (if k = 0 then receivedImage s else s.boot.flashA) ∧ t.boot.flashB = (if k = 0 then s.boot.flashB else receivedImage s) ∧
        (s.i3c.busy = true → (∀ x ∈ s.dict.waiting, x.by' ≠ 4) → t.i3c.ready = true ∧ t.i3c.busy = false ∧ t.i3c.resp = s.i3c.resp) ∧ t.mem = s.mem ∧ t.parts = s.parts) ∧
      (∀ k b, s.boot.flashBusy = some k → k < 2 → ∃ u, exec (.flashSlotWriteDone b) s = .next (raiseN u 731 (at' 32 8 b.toNat ||| BitVec.ofNat 32 k)) ∧
        u.ev = s.ev ∧ u.boot.flashBusy = none) ∧
      (∀ k, s.boot.flashBusy = some k → k < 2 → ∃ t, exec (.flashSlotWriteDone true) s = .next t ∧ t.boot.flashBusy = none ∧
        (k = 0 → t.boot.flashB = s.boot.flashB) ∧ (k = 1 → t.boot.flashA = s.boot.flashA) ∧ t.mem = s.mem)) ∧
  (
    ∀ s : State,
      (∀ target size : Nat,
        (2 < target → recStart s target size = .error 0x0005) ∧
        (target = 0 → s.boot.state ≠ 7 → recStart s target size = .error 0x0007) ∧
        ((target = 1 ∨ target = 2) → (s.boot.state ≠ 6 ∨ s.boot.slot + 1 = target) → recStart s target size = .error 0x0007) ∧
        ((target = 0 ∧ s.boot.state = 7) ∨ ((target = 1 ∨ target = 2) ∧ s.boot.state = 6 ∧ s.boot.slot + 1 ≠ target) →
          (s.boot.flashBusy.isSome = true → recStart s target size = .error 0x0007) ∧
          (s.boot.flashBusy = none → 983552 < size → recStart s target size = .error 0x0015) ∧
          (s.boot.flashBusy = none → size ≤ 983552 → recStart s target size = .ok { s with boot := { s.boot with incoming := some (target, size, []), recDone := false } }))) ∧
      (∀ (t size : Nat) (got : List (Nat × Byte)) (off : Nat) (data : List Byte), s.boot.incoming = some (t, size, got) →
        (s.boot.recDone = true → recData s off data = .error 0x0007) ∧
        (s.boot.recDone = false → size < off + data.length → recData s off data = .error 0x0005) ∧
        (s.boot.recDone = false → off + data.length ≤ size → ∃ u new, recData s off data = .ok u ∧ u = { s with boot := { s.boot with incoming := some (t, size, new) } } ∧
          ∀ i, i < size → (receivedImage u)[i]? = if off ≤ i ∧ i < off + data.length then data[i - off]? else (receivedImage s)[i]?)) ∧
      (s.boot.incoming = none → recData s 0 [] = .error 0x0007 ∧ recFinish s = .error (0x0007, s) ∧
        recQuery s = leBytes s.boot.state 1 ++ leBytes s.boot.fail.toNat 4 ++ [0, 0, 0, 0]) ∧
      (∀ (t size : Nat) (got : List (Nat × Byte)), s.boot.incoming = some (t, size, got) →
        recQuery s = leBytes s.boot.state 1 ++ leBytes s.boot.fail.toNat 4 ++ leBytes got.length 4 ∧
        (s.boot.recDone = true → recFinish s = .error (0x0007, s)) ∧
        (s.boot.recDone = false →
          let v := if size = 512 + bodyBytes (receivedImage s) then imageVerdict (receivedImage s) else 1
          (v ≠ 0 → ∃ u, recFinish s = .error (0x0007, u) ∧ u.boot = { s.boot with fail := (s.boot.fail &&& 0xFFFF) ||| at' 32 16 v }) ∧
          (v = 0 → t = 0 → ∃ u, recFinish s = .ok (u, false) ∧ u.boot.recDone = true ∧ u.boot.flashBusy = s.boot.flashBusy ∧ receivedImage u = receivedImage s) ∧
          (v = 0 → t ≠ 0 → ∃ u, recFinish s = .ok (u, true) ∧ u.boot.recDone = true ∧ u.boot.flashBusy = some (t - 1) ∧ receivedImage u = receivedImage s))))
end

