-- ==== Sys2Proof/Laws/Exec.lean ====
section
/-!
SUPPORT. The dispatch, arm by arm: `exec` on a command is its meaning, so that no proof unfolds the whole dispatch.
-/

namespace Sys2Proof.Machine

theorem exec_powerOnReset (bootsel : BitVec 2) (twinRole : Bool) (s : State) : exec (.powerOnReset bootsel twinRole) s = execPowerOnReset bootsel twinRole s := rfl
theorem exec_pwrokFall (s : State) : exec (.pwrokFall) s = execPwrokFall s := rfl
theorem exec_resetNPulse (bootsel : BitVec 2) (s : State) : exec (.resetNPulse bootsel) s = execResetNPulse bootsel s := rfl
theorem exec_softReset (r : Requester) (a : SoftReset) (s : State) : exec (.softReset r a) s = execSoftReset r a s := rfl
theorem exec_bootStepComplete (f : BootFindings) (s : State) : exec (.bootStepComplete f) s = execBootStepComplete f s := rfl
theorem exec_pllLossOfLock (c : ClockLoss) (s : State) : exec (.pllLossOfLock c) s = execPllLossOfLock c s := rfl
theorem exec_dieFence (d : DieLoss) (s : State) : exec (.dieFence d) s = execDieFence d s := rfl
theorem exec_recoveryStart (hdr : Option Byte) (frame : List Byte) (s : State) : exec (.recoveryStart hdr frame) s = execRecoveryStart hdr frame s := rfl
theorem exec_recoveryData (hdr : Option Byte) (frame : List Byte) (s : State) : exec (.recoveryData hdr frame) s = execRecoveryData hdr frame s := rfl
theorem exec_recoveryFinish (hdr : Option Byte) (frame : List Byte) (s : State) : exec (.recoveryFinish hdr frame) s = execRecoveryFinish hdr frame s := rfl
theorem exec_recoveryQuery (hdr : Option Byte) (frame : List Byte) (s : State) : exec (.recoveryQuery hdr frame) s = execRecoveryQuery hdr frame s := rfl
theorem exec_recoveryBootContinue (s : State) : exec (.recoveryBootContinue) s = execRecoveryBootContinue s := rfl
theorem exec_flashSlotWriteDone (failed : Bool) (s : State) : exec (.flashSlotWriteDone failed) s = execFlashSlotWriteDone failed s := rfl
theorem exec_timeSync (s : State) : exec (.timeSync) s = execTimeSync s := rfl
theorem exec_hostLinkUp (h : PortId) (width : BitVec 4) (speed : BitVec 3) (volt : BitVec 10) (load : BitVec 2) (s : State) : exec (.hostLinkUp h width speed volt load) s = execHostLinkUp h width speed volt load s := rfl
theorem exec_hostLinkDown (h : PortId) (sunk : Fin 33) (s : State) : exec (.hostLinkDown h sunk) s = execHostLinkDown h sunk s := rfl
theorem exec_hotReset (h : PortId) (sunk : Fin 33) (s : State) : exec (.hotReset h sunk) s = execHotReset h sunk s := rfl
theorem exec_functionLevelReset (h : PortId) (sunk : Fin 33) (s : State) : exec (.functionLevelReset h sunk) s = execFunctionLevelReset h sunk s := rfl
theorem exec_inStreamWrite (h : PortId) (page : BitVec 16) (slot : BitVec 8) (bar0 : Bool) (low : BitVec 4) (bytes : Nat) (data : List Byte) (s : State) : exec (.inStreamWrite h page slot bar0 low bytes data) s = execInStreamWrite h page slot bar0 low bytes data s := rfl
theorem exec_outStreamRead (h : PortId) (page : BitVec 16) (slot : BitVec 8) (bar0 : Bool) (low : BitVec 4) (bytes : Nat) (s : State) : exec (.outStreamRead h page slot bar0 low bytes) s = execOutStreamRead h page slot bar0 low bytes s := rfl
theorem exec_outBlockPresent (p : PartId) (k : Fin 8) (s : State) : exec (.outBlockPresent p k) s = execOutBlockPresent p k s := rfl
theorem exec_fifoHoldTimeout (h : PortId) (s : State) : exec (.fifoHoldTimeout h) s = execFifoHoldTimeout h s := rfl
theorem exec_intArm (r : Requester) (p : PartId) (a : DAcc) (s : State) : exec (.intArm r p a) s = execIntArm r p a s := rfl
theorem exec_resync (r : Requester) (p : PartId) (k : Fin 8) (a : DAcc) (s : State) : exec (.resync r p k a) s = execResync r p k a s := rfl
theorem exec_replaySeq (r : Requester) (p : PartId) (k : Fin 8) (a : DAcc) (s : State) : exec (.replaySeq r p k a) s = execReplaySeq r p k a s := rfl
theorem exec_loadReset (r : Requester) (p : PartId) (a : DAcc) (s : State) : exec (.loadReset r p a) s = execLoadReset r p a s := rfl
theorem exec_jobStart (p : PartId) (s : State) : exec (.jobStart p) s = execJobStart p s := rfl
theorem exec_checkpointSave (p : PartId) (s : State) : exec (.checkpointSave p) s = execCheckpointSave p s := rfl
theorem exec_ingest (p : PartId) (s : State) : exec (.ingest p) s = execIngest p s := rfl
theorem exec_commitPhase (p : PartId) (s : State) : exec (.commitPhase p) s = execCommitPhase p s := rfl
theorem exec_observation (p : Observed) (s : State) : exec (.observation p) s = execObservation p s := rfl
theorem exec_resultRelease (p : PartId) (s : State) : exec (.resultRelease p) s = execResultRelease p s := rfl
theorem exec_add (c : CoreId) (f : AddForm) (s : State) : exec (.add c f) s = execAdd c f s := rfl
theorem exec_adc (c : CoreId) (f : AluForm) (s : State) : exec (.adc c f) s = execAdc c f s := rfl
theorem exec_sub (c : CoreId) (f : AddForm) (s : State) : exec (.sub c f) s = execSub c f s := rfl
theorem exec_sbc (c : CoreId) (f : AluForm) (s : State) : exec (.sbc c f) s = execSbc c f s := rfl
theorem exec_and (c : CoreId) (f : AluForm) (s : State) : exec (.and c f) s = execAnd c f s := rfl
theorem exec_or (c : CoreId) (f : AluForm) (s : State) : exec (.or c f) s = execOr c f s := rfl
theorem exec_xor (c : CoreId) (f : AluForm) (s : State) : exec (.xor c f) s = execXor c f s := rfl
theorem exec_shl (c : CoreId) (f : ShForm) (s : State) : exec (.shl c f) s = execShl c f s := rfl
theorem exec_shr (c : CoreId) (f : ShForm) (s : State) : exec (.shr c f) s = execShr c f s := rfl
theorem exec_sar (c : CoreId) (f : ShForm) (s : State) : exec (.sar c f) s = execSar c f s := rfl
theorem exec_cmp (c : CoreId) (f : AddForm) (s : State) : exec (.cmp c f) s = execCmp c f s := rfl
theorem exec_mov (c : CoreId) (f : AddForm) (s : State) : exec (.mov c f) s = execMov c f s := rfl
theorem exec_movk (c : CoreId) (rd : BitVec 5) (hw : BitVec 2) (rsv : BitVec 3) (imm : BitVec 16) (s : State) : exec (.movk c rd hw rsv imm) s = execMovk c rd hw rsv imm s := rfl
theorem exec_mstep (c : CoreId) (rd ra rb : BitVec 5) (rsv : BitVec 7) (s : State) : exec (.mstep c rd ra rb rsv) s = execMstep c rd ra rb rsv s := rfl
theorem exec_dstep (c : CoreId) (rd ra rb : BitVec 5) (rsv : BitVec 7) (s : State) : exec (.dstep c rd ra rb rsv) s = execDstep c rd ra rb rsv s := rfl
theorem exec_ld (c : CoreId) (f : MemForm) (s : State) : exec (.ld c f) s = execLd c f s := rfl
theorem exec_st (c : CoreId) (f : MemForm) (s : State) : exec (.st c f) s = execSt c f s := rfl
theorem exec_bCond (c : CoreId) (f : BrForm) (s : State) : exec (.bCond c f) s = execBCond c f s := rfl
theorem exec_bReg (c : CoreId) (rs : BitVec 5) (rsvHi : BitVec 3) (rsvLo : BitVec 16) (s : State) : exec (.bReg c rs rsvHi rsvLo) s = execBReg c rs rsvHi rsvLo s := rfl
theorem exec_call (c : CoreId) (off : BitVec 24) (s : State) : exec (.call c off) s = execCall c off s := rfl
theorem exec_callReg (c : CoreId) (rs : BitVec 5) (rsvHi : BitVec 3) (rsvLo : BitVec 16) (s : State) : exec (.callReg c rs rsvHi rsvLo) s = execCallReg c rs rsvHi rsvLo s := rfl
theorem exec_ret (c : CoreId) (arg : BitVec 8) (s : State) : exec (.ret c arg) s = execRet c arg s := rfl
theorem exec_trap (c : CoreId) (arg : BitVec 8) (s : State) : exec (.trap c arg) s = execTrap c arg s := rfl
theorem exec_rti (c : CoreId) (arg : BitVec 8) (s : State) : exec (.rti c arg) s = execRti c arg s := rfl
theorem exec_nop (c : CoreId) (arg : BitVec 8) (s : State) : exec (.nop c arg) s = execNop c arg s := rfl
theorem exec_wait (c : CoreId) (arg : BitVec 8) (s : State) : exec (.wait c arg) s = execWait c arg s := rfl
theorem exec_barrier (c : CoreId) (arg : BitVec 8) (s : State) : exec (.barrier c arg) s = execBarrier c arg s := rfl
theorem exec_syncI (c : CoreId) (arg : BitVec 8) (s : State) : exec (.syncI c arg) s = execSyncI c arg s := rfl
theorem exec_cinvI (c : CoreId) (s : State) : exec (.cinvI c) s = execCinvI c s := rfl
theorem exec_cinvD (c : CoreId) (s : State) : exec (.cinvD c) s = execCinvD c s := rfl
theorem exec_cinvDRange (c : CoreId) (ra rb : BitVec 5) (rsv : BitVec 12) (s : State) : exec (.cinvDRange c ra rb rsv) s = execCinvDRange c ra rb rsv s := rfl
theorem exec_movFromSr (c : CoreId) (rd : BitVec 5) (sr : BitVec 4) (rsv : BitVec 13) (s : State) : exec (.movFromSr c rd sr rsv) s = execMovFromSr c rd sr rsv s := rfl
theorem exec_movToSr (c : CoreId) (sr : BitVec 4) (rs : BitVec 5) (rsv : BitVec 13) (s : State) : exec (.movToSr c sr rs rsv) s = execMovToSr c sr rs rsv s := rfl
theorem exec_rptMovs (c : CoreId) (f : RptForm) (upto : Option Nat) (s : State) : exec (.rptMovs c f upto) s = execRptMovs c f upto s := rfl
theorem exec_rptFills (c : CoreId) (f : RptForm) (upto : Option Nat) (s : State) : exec (.rptFills c f upto) s = execRptFills c f upto s := rfl
theorem exec_rptCmps (c : CoreId) (f : RptForm) (upto : Option Nat) (s : State) : exec (.rptCmps c f upto) s = execRptCmps c f upto s := rfl
theorem exec_rptScans (c : CoreId) (f : RptForm) (upto : Option Nat) (s : State) : exec (.rptScans c f upto) s = execRptScans c f upto s := rfl
theorem exec_setvl (c : CoreId) (f : VlForm) (s : State) : exec (.setvl c f) s = execSetvl c f s := rfl
theorem exec_vissue (c : CoreId) (f : VisForm) (s : State) : exec (.vissue c f) s = execVissue c f s := rfl
theorem exec_movX (c : CoreId) (xd xs : BitVec 5) (rsv : BitVec 12) (s : State) : exec (.movX c xd xs rsv) s = execMovX c xd xs rsv s := rfl
theorem exec_movWHalf (c : CoreId) (rg : BitVec 5) (wn : BitVec 3) (h dir : Bool) (rsv : BitVec 12) (s : State) : exec (.movWHalf c rg wn h dir rsv) s = execMovWHalf c rg wn h dir rsv s := rfl
theorem exec_addSn (c : CoreId) (sn : BitVec 4) (rs : BitVec 5) (rsv : BitVec 13) (s : State) : exec (.addSn c sn rs rsv) s = execAddSn c sn rs rsv s := rfl
theorem exec_vectorFaultEntry (n : VeId) (s : State) : exec (.vectorFaultEntry n) s = execVectorFaultEntry n s := rfl
theorem exec_interruptEntry (c : CoreId) (s : State) : exec (.interruptEntry c) s = execInterruptEntry c s := rfl
theorem exec_doorbell (r : Requester) (n : VeId) (a : DAcc) (s : State) : exec (.doorbell r n a) s = execDoorbell r n a s := rfl
theorem exec_dbValueRead (n : VeId) (s : State) : exec (.dbValueRead n) s = execDbValueRead n s := rfl
theorem exec_vfSubstEn (n : VeId) (val : W64) (s : State) : exec (.vfSubstEn n val) s = execVfSubstEn n val s := rfl
theorem exec_lockstepMismatch (s : State) : exec (.lockstepMismatch) s = execLockstepMismatch s := rfl
theorem exec_vlut (n : VeId) (tt : BitVec 8) (o : VOps) (s : State) : exec (.vlut n tt o) s = execVlut n tt o s := rfl
theorem exec_vqlut (n : VeId) (tt : BitVec 8) (o : VOps) (s : State) : exec (.vqlut n tt o) s = execVqlut n tt o s := rfl
theorem exec_vres (n : VeId) (fn : BitVec 6) (o : VOps) (s : State) : exec (.vres n fn o) s = execVres n fn o s := rfl
theorem exec_vcmpr (n : VeId) (fn : BitVec 6) (o : VOps) (s : State) : exec (.vcmpr n fn o) s = execVcmpr n fn o s := rfl
theorem exec_vexpd (n : VeId) (fn : BitVec 6) (o : VOps) (s : State) : exec (.vexpd n fn o) s = execVexpd n fn o s := rfl
theorem exec_vchg (n : VeId) (fn : BitVec 8) (o : VOps) (s : State) : exec (.vchg n fn o) s = execVchg n fn o s := rfl
theorem exec_vperm (n : VeId) (fn : BitVec 5) (o : VOps) (s : State) : exec (.vperm n fn o) s = execVperm n fn o s := rfl
theorem exec_vbgath (n : VeId) (fn : BitVec 5) (o : VOps) (s : State) : exec (.vbgath n fn o) s = execVbgath n fn o s := rfl
theorem exec_vgath (n : VeId) (fn : BitVec 5) (o : VOps) (s : State) : exec (.vgath n fn o) s = execVgath n fn o s := rfl
theorem exec_vscat (n : VeId) (fn : BitVec 5) (o : VOps) (s : State) : exec (.vscat n fn o) s = execVscat n fn o s := rfl
theorem exec_vadd (n : VeId) (fn : BitVec 4) (o : VOps) (s : State) : exec (.vadd n fn o) s = execVadd n fn o s := rfl
theorem exec_vadc (n : VeId) (fn : BitVec 4) (o : VOps) (s : State) : exec (.vadc n fn o) s = execVadc n fn o s := rfl
theorem exec_vsub (n : VeId) (fn : BitVec 4) (o : VOps) (s : State) : exec (.vsub n fn o) s = execVsub n fn o s := rfl
theorem exec_vsbc (n : VeId) (fn : BitVec 4) (o : VOps) (s : State) : exec (.vsbc n fn o) s = execVsbc n fn o s := rfl
theorem exec_vcmp (n : VeId) (fn : BitVec 4) (o : VOps) (s : State) : exec (.vcmp n fn o) s = execVcmp n fn o s := rfl
theorem exec_vsel (n : VeId) (fn : BitVec 4) (o : VOps) (s : State) : exec (.vsel n fn o) s = execVsel n fn o s := rfl
theorem exec_vshl (n : VeId) (fn : BitVec 4) (o : VOps) (s : State) : exec (.vshl n fn o) s = execVshl n fn o s := rfl
theorem exec_vshr (n : VeId) (fn : BitVec 4) (o : VOps) (s : State) : exec (.vshr n fn o) s = execVshr n fn o s := rfl
theorem exec_vrot (n : VeId) (fn : BitVec 4) (o : VOps) (s : State) : exec (.vrot n fn o) s = execVrot n fn o s := rfl
theorem exec_vmulw (n : VeId) (fn : BitVec 6) (o : VOps) (s : State) : exec (.vmulw n fn o) s = execVmulw n fn o s := rfl
theorem exec_vmull (n : VeId) (fn : BitVec 6) (o : VOps) (s : State) : exec (.vmull n fn o) s = execVmull n fn o s := rfl
theorem exec_vdivsInit (n : VeId) (fn : BitVec 4) (o : VOps) (s : State) : exec (.vdivsInit n fn o) s = execVdivsInit n fn o s := rfl
theorem exec_vdivsStep (n : VeId) (fn : BitVec 4) (o : VOps) (s : State) : exec (.vdivsStep n fn o) s = execVdivsStep n fn o s := rfl
theorem exec_vdivsFix (n : VeId) (fn : BitVec 4) (o : VOps) (s : State) : exec (.vdivsFix n fn o) s = execVdivsFix n fn o s := rfl
theorem exec_vfadd (n : VeId) (fn : BitVec 4) (o : VOps) (s : State) : exec (.vfadd n fn o) s = execVfadd n fn o s := rfl
theorem exec_vfsub (n : VeId) (fn : BitVec 4) (o : VOps) (s : State) : exec (.vfsub n fn o) s = execVfsub n fn o s := rfl
theorem exec_vfmul (n : VeId) (fn : BitVec 4) (o : VOps) (s : State) : exec (.vfmul n fn o) s = execVfmul n fn o s := rfl
theorem exec_vfma (n : VeId) (fn : BitVec 4) (o : VOps) (s : State) : exec (.vfma n fn o) s = execVfma n fn o s := rfl
theorem exec_vfmin (n : VeId) (fn : BitVec 4) (o : VOps) (s : State) : exec (.vfmin n fn o) s = execVfmin n fn o s := rfl
theorem exec_vfmax (n : VeId) (fn : BitVec 4) (o : VOps) (s : State) : exec (.vfmax n fn o) s = execVfmax n fn o s := rfl
theorem exec_vfcmp (n : VeId) (fn : BitVec 4) (o : VOps) (s : State) : exec (.vfcmp n fn o) s = execVfcmp n fn o s := rfl
theorem exec_vfcvt (n : VeId) (fn : BitVec 4) (o : VOps) (s : State) : exec (.vfcvt n fn o) s = execVfcvt n fn o s := rfl
theorem exec_chainGroupStart (n : VeId) (readsIssued : Bool) (s : State) : exec (.chainGroupStart n readsIssued) s = execChainGroupStart n readsIssued s := rfl
theorem exec_groupComplete (n : VeId) (s : State) : exec (.groupComplete n) s = execGroupComplete n s := rfl
theorem exec_elementFault (n : VeId) (sunk : Sunk) (s : State) : exec (.elementFault n sunk) s = execElementFault n sunk s := rfl
theorem exec_memoryRead (f : Frag) (rivals : Rivals) (upsets : List Upset) (s : State) : exec (.memoryRead f others upsets) s = execMemoryRead f others upsets s := rfl
theorem exec_memoryWrite (f : Frag) (data : List Byte) (enable : List Bool) (tap : Bool) (rivals : Rivals) (upsets : List Upset) (s : State) : exec (.memoryWrite f data enable tap others upsets) s = execMemoryWrite f data enable tap others upsets s := rfl
theorem exec_correctedWriteBack (word : Nat) (s : State) : exec (.correctedWriteBack word) s = execCorrectedWriteBack word s := rfl
theorem exec_patrolScrub (unit : StackId ⊕ BankId) (upsets : List Upset) (s : State) : exec (.patrolScrub unit upsets) s = execPatrolScrub unit upsets s := rfl
theorem exec_refresh (q : Fin 256) (s : State) : exec (.refresh q) s = execRefresh q s := rfl
theorem exec_atomicOr (f : Frag) (v : W128) (rivals : Rivals) (upsets : List Upset) (s : State) : exec (.atomicOr f v others upsets) s = execAtomicOr f v others upsets s := rfl
theorem exec_atomicAnd (f : Frag) (v : W128) (rivals : Rivals) (upsets : List Upset) (s : State) : exec (.atomicAnd f v others upsets) s = execAtomicAnd f v others upsets s := rfl
theorem exec_atomicAdd64 (f : Frag) (v : W128) (rivals : Rivals) (upsets : List Upset) (s : State) : exec (.atomicAdd64 f v others upsets) s = execAtomicAdd64 f v others upsets s := rfl
theorem exec_atomicSwap (f : Frag) (v : W128) (rivals : Rivals) (upsets : List Upset) (s : State) : exec (.atomicSwap f v others upsets) s = execAtomicSwap f v others upsets s := rfl
theorem exec_atomicCas (f : Frag) (e v : W128) (rivals : Rivals) (upsets : List Upset) (s : State) : exec (.atomicCas f e v others upsets) s = execAtomicCas f e v others upsets s := rfl
theorem exec_calRecordBreak (st : StackId) (g : Fin 4) (s : State) : exec (.calRecordBreak st g) s = execCalRecordBreak st g s := rfl
theorem exec_quietWindowEnd (st : StackId) (ok : Bool) (volt : BitVec 10) (load : BitVec 2) (s : State) : exec (.quietWindowEnd st ok volt load) s = execQuietWindowEnd st ok volt load s := rfl
theorem exec_stackOverheat (st : StackId) (temp : Byte) (s : State) : exec (.stackOverheat st temp) s = execStackOverheat st temp s := rfl
theorem exec_owner (r : Requester) (b : BankId) (a : DAcc) (s : State) : exec (.owner r b a) s = execOwner r b a s := rfl
theorem exec_bankDrainEnd (b : BankId) (s : State) : exec (.bankDrainEnd b) s = execBankDrainEnd b s := rfl
theorem exec_tapRead (b : BankId) (line : BitVec 16) (who : TapReq) (hit : TapHit) (s : State) : exec (.tapRead b line who hit) s = execTapRead b line who hit s := rfl
theorem exec_tapGuaranteedCycle (b : BankId) (line : BitVec 16) (who : TapReq) (s : State) : exec (.tapGuaranteedCycle b line who) s = execTapGuaranteedCycle b line who s := rfl
theorem exec_stackFence (r : Requester) (st : StackId) (a : DAcc) (s : State) : exec (.stackFence r st a) s = execStackFence r st a s := rfl
theorem exec_bankFence (r : Requester) (b : BankId) (a : DAcc) (s : State) : exec (.bankFence r b a) s = execBankFence r b a s := rfl
theorem exec_watchdogExpiry (w : WaitOn) (sunk : Sunk) (s : State) : exec (.watchdogExpiry w sunk) s = execWatchdogExpiry w sunk s := rfl
theorem exec_linkFence (r : Requester) (a : DAcc) (s : State) : exec (.linkFence r a) s = execLinkFence r a s := rfl
theorem exec_remap (v : W64) (s : State) : exec (.remap v) s = execRemap v s := rfl
theorem exec_slotStart (p : PartId) (slot : Fin 4096) (others : RxRivals) (s : State) : exec (.slotStart p slot others) s = execSlotStart p slot others s := rfl
theorem exec_slotComplete (p : PartId) (slot : Fin 4096) (s : State) : exec (.slotComplete p slot) s = execSlotComplete p slot s := rfl
theorem exec_exchangeFault (p : PartId) (slot : Fin 4096) (cut : ExchCut) (s : State) : exec (.exchangeFault p slot cut) s = execExchangeFault p slot cut s := rfl
theorem exec_barrierRelease (p : PartId) (s : State) : exec (.barrierRelease p) s = execBarrierRelease p s := rfl
theorem exec_barrierTimeout (p : BarrierEnd) (s : State) : exec (.barrierTimeout p) s = execBarrierTimeout p s := rfl
theorem exec_exchEditSlot (r : Requester) (p : PartId) (a : DAcc) (s : State) : exec (.exchEditSlot r p a) s = execExchEditSlot r p a s := rfl
theorem exec_exchEditGo (r : Requester) (p : PartId) (a : DAcc) (s : State) : exec (.exchEditGo r p a) s = execExchEditGo r p a s := rfl
theorem exec_stagingWrite (r : Requester) (ix : W16) (sub : Byte) (a : DAcc) (s : State) : exec (.stagingWrite r ix sub a) s = execStagingWrite r ix sub a s := rfl
theorem exec_commit (r : Requester) (ix : W16) (sub : Byte) (a : DAcc) (s : State) : exec (.commit r ix sub a) s = execCommit r ix sub a s := rfl
theorem exec_discard (r : Requester) (ix : W16) (sub : Byte) (a : DAcc) (s : State) : exec (.discard r ix sub a) s = execDiscard r ix sub a s := rfl
theorem exec_commitApply (ix : W16) (sub : Byte) (s : State) : exec (.commitApply ix sub) s = execCommitApply ix sub s := rfl
theorem exec_stageTimeoutExpiry (ix : W16) (sub : Byte) (s : State) : exec (.stageTimeoutExpiry ix sub) s = execStageTimeoutExpiry ix sub s := rfl
theorem exec_abortLast (h : PortId) (bytes off : Nat) (s : State) : exec (.abortLast h bytes off) s = execAbortLast h bytes off s := rfl
theorem exec_registerWrite (r : Requester) (ix : W16) (sub : Byte) (a : DAcc) (s : State) : exec (.registerWrite r ix sub a) s = execRegisterWrite r ix sub a s := rfl
theorem exec_alertClear (r : Requester) (a : DAcc) (s : State) : exec (.alertClear r a) s = execAlertClear r a s := rfl
theorem exec_i3cReadRequest (hdr : Option Byte) (frame : List Byte) (s : State) : exec (.i3cReadRequest hdr frame) s = execI3cReadRequest hdr frame s := rfl
theorem exec_i3cWriteRequest (hdr : Option Byte) (frame : List Byte) (s : State) : exec (.i3cWriteRequest hdr frame) s = execI3cWriteRequest hdr frame s := rfl
theorem exec_i3cPrivateRead (hdr : Option Byte) (s : State) : exec (.i3cPrivateRead hdr) s = execI3cPrivateRead hdr s := rfl
theorem exec_enec (dst : Option (BitVec 7)) (s : State) : exec (.enec dst) s = execEnec dst s := rfl
theorem exec_disec (dst : Option (BitVec 7)) (s : State) : exec (.disec dst) s = execDisec dst s := rfl
theorem exec_entas (code : Byte) (dst : Option (BitVec 7)) (s : State) : exec (.entas code dst) s = execEntas code dst s := rfl
theorem exec_rstdaa (s : State) : exec (.rstdaa) s = execRstdaa s := rfl
theorem exec_entdaa (dyn : BitVec 7) (s : State) : exec (.entdaa dyn) s = execEntdaa dyn s := rfl
theorem exec_setmwl (dst : Option (BitVec 7)) (v : W16) (s : State) : exec (.setmwl dst v) s = execSetmwl dst v s := rfl
theorem exec_setmrl (dst : Option (BitVec 7)) (v : W16) (s : State) : exec (.setmrl dst v) s = execSetmrl dst v s := rfl
theorem exec_enthdr0 (s : State) : exec (.enthdr0) s = execEnthdr0 s := rfl
theorem exec_rstact (dst : Option (BitVec 7)) (action : Byte) (s : State) : exec (.rstact dst action) s = execRstact dst action s := rfl
theorem exec_setdasa (static dyn : BitVec 7) (s : State) : exec (.setdasa static dyn) s = execSetdasa static dyn s := rfl
theorem exec_setnewda (dst dyn : BitVec 7) (s : State) : exec (.setnewda dst dyn) s = execSetnewda dst dyn s := rfl
theorem exec_getmwl (dst : BitVec 7) (s : State) : exec (.getmwl dst) s = execGetmwl dst s := rfl
theorem exec_getmrl (dst : BitVec 7) (s : State) : exec (.getmrl dst) s = execGetmrl dst s := rfl
theorem exec_getpid (dst : BitVec 7) (s : State) : exec (.getpid dst) s = execGetpid dst s := rfl
theorem exec_getbcr (dst : BitVec 7) (s : State) : exec (.getbcr dst) s = execGetbcr dst s := rfl
theorem exec_getdcr (dst : BitVec 7) (s : State) : exec (.getdcr dst) s = execGetdcr dst s := rfl
theorem exec_getstatus (dst : BitVec 7) (s : State) : exec (.getstatus dst) s = execGetstatus dst s := rfl
theorem exec_getmxds (dst : BitVec 7) (s : State) : exec (.getmxds dst) s = execGetmxds dst s := rfl
theorem exec_eventRaise (x : SrcId) (detail : W32) (s : State) : exec (.eventRaise x detail) s = execEventRaise x detail s := rfl
theorem exec_eventServe (x : Served) (s : State) : exec (.eventServe x) s = execEventServe x s := rfl
theorem exec_svPop (s : State) : exec (.svPop) s = execSvPop s := rfl
theorem exec_evPop (n : VeId) (s : State) : exec (.evPop n) s = execEvPop n s := rfl
theorem exec_target (r : Requester) (x : SrcId) (a : DAcc) (s : State) : exec (.target r x a) s = execTarget r x a s := rfl
theorem exec_arrivalsClr (r : Requester) (x : SrcId) (a : DAcc) (s : State) : exec (.arrivalsClr r x a) s = execArrivalsClr r x a s := rfl
theorem exec_dispatchTick (m : TickMeas) (s : State) : exec (.dispatchTick m) s = execDispatchTick m s := rfl
theorem exec_slotTicksExpiry (s : State) : exec (.slotTicksExpiry) s = execSlotTicksExpiry s := rfl
theorem exec_veSlotStop (n : VeId) (s : State) : exec (.veSlotStop n) s = execVeSlotStop n s := rfl
theorem exec_wakeRequest (c : ClusterId) (s : State) : exec (.wakeRequest c) s = execWakeRequest c s := rfl
theorem exec_reefRailArrival (c : ClusterId) (s : State) : exec (.reefRailArrival c) s = execReefRailArrival c s := rfl
theorem exec_fastLimit (watts : W16) (s : State) : exec (.fastLimit watts) s = execFastLimit watts s := rfl
theorem exec_tjAlertReached (d : DieId) (temp : Byte) (s : State) : exec (.tjAlertReached d temp) s = execTjAlertReached d temp s := rfl
theorem exec_thermalEmergency (d : DieId) (temp : Byte) (s : State) : exec (.thermalEmergency d temp) s = execThermalEmergency d temp s := rfl
theorem exec_thermtrip (d : DieId) (s : State) : exec (.thermtrip d) s = execThermtrip d s := rfl
theorem exec_sensorCalOutOfBand (c : ClusterId) (s : State) : exec (.sensorCalOutOfBand c) s = execSensorCalOutOfBand c s := rfl
theorem exec_eqCalOutOfBand (h : PortId) (s : State) : exec (.eqCalOutOfBand h) s = execEqCalOutOfBand h s := rfl
theorem exec_slotActive (r : Requester) (ix : Fin 64) (a : DAcc) (s : State) : exec (.slotActive r ix a) s = execSlotActive r ix a s := rfl
theorem exec_crcStart (u : CrcId) (master : BitVec 10) (poly : BitVec 2) (tag expected : W64) (cmp : Bool) (count : BitVec 32) (rivals : Contest) (s : State) : exec (.crcStart u master poly tag expected cmp count others) s = execCrcStart u master poly tag expected cmp count others s := rfl
theorem exec_crcRunEnd (u : CrcId) (words : List W128) (s : State) : exec (.crcRunEnd u words) s = execCrcRunEnd u words s := rfl
theorem exec_crcSelfCheck (u : CrcId) (results : Vector W64 4) (s : State) : exec (.crcSelfCheck u results) s = execCrcSelfCheck u results s := rfl
theorem exec_crcFence (r : Requester) (u : CrcId) (a : DAcc) (s : State) : exec (.crcFence r u a) s = execCrcFence r u a s := rfl
theorem exec_pairedMismatch (pair : Fin 32) (kind : BitVec 2) (slot : Fin 4096) (sunk : Sunk) (s : State) : exec (.pairedMismatch pair kind slot sunk) s = execPairedMismatch pair kind slot sunk s := rfl
theorem exec_veFence (r : Requester) (n : VeId) (a : DAcc) (sunk : Sunk) (s : State) : exec (.veFence r n a sunk) s = execVeFence r n a sunk s := rfl
theorem exec_portFence (r : Requester) (h : PortId) (a : DAcc) (sunk : Fin 33) (s : State) : exec (.portFence r h a sunk) s = execPortFence r h a sunk s := rfl
theorem exec_partFence (r : Requester) (p : PartId) (a : DAcc) (s : State) : exec (.partFence r p a) s = execPartFence r p a s := rfl
theorem exec_sundovLinkUp (lanes : BitVec 4) (s : State) : exec (.sundovLinkUp lanes) s = execSundovLinkUp lanes s := rfl
theorem exec_heartbeat (f : SFrame) (s : State) : exec (.heartbeat f) s = execHeartbeat f s := rfl
theorem exec_heartbeatSend (s : State) : exec (.heartbeatSend) s = execHeartbeatSend s := rfl
theorem exec_forwardedInput (f : SFrame) (s : State) : exec (.forwardedInput f) s = execForwardedInput f s := rfl
theorem exec_digest (f : SFrame) (s : State) : exec (.digest f) s = execDigest f s := rfl
theorem exec_ledgerCopy (f : SFrame) (s : State) : exec (.ledgerCopy f) s = execLedgerCopy f s := rfl
theorem exec_progress (f : SFrame) (s : State) : exec (.progress f) s = execProgress f s := rfl
theorem exec_resyncData (f : SFrame) (s : State) : exec (.resyncData f) s = execResyncData f s := rfl
theorem exec_fatalNotice (f : SFrame) (s : State) : exec (.fatalNotice f) s = execFatalNotice f s := rfl
theorem exec_frameResend (s : State) : exec (.frameResend) s = execFrameResend s := rfl
theorem exec_sundovLinkLoss (sunk : Fin 33) (s : State) : exec (.sundovLinkLoss sunk) s = execSundovLinkLoss sunk s := rfl
theorem exec_presenceWaitExpiry (s : State) : exec (.presenceWaitExpiry) s = execPresenceWaitExpiry s := rfl
theorem exec_twinPair (r : Requester) (a : DAcc) (s : State) : exec (.twinPair r a) s = execTwinPair r a s := rfl
theorem exec_resyncPassEnd (failed : Bool) (s : State) : exec (.resyncPassEnd failed) s = execResyncPassEnd failed s := rfl
theorem exec_twinDetach (r : Requester) (a : DAcc) (s : State) : exec (.twinDetach r a) s = execTwinDetach r a s := rfl
theorem exec_twinPromote (r : Requester) (a : DAcc) (s : State) : exec (.twinPromote r a) s = execTwinPromote r a s := rfl
theorem exec_debugRead (r : Requester) (b : BankId) (bytes off : Nat) (hit : Option SenseWrite) (s : State) : exec (.debugRead r b bytes off hit) s = execDebugRead r b bytes off hit s := rfl
theorem exec_holdNAssert (s : State) : exec (.holdNAssert) s = execHoldNAssert s := rfl
theorem exec_holdNDeassert (s : State) : exec (.holdNDeassert) s = execHoldNDeassert s := rfl
theorem exec_dbgFreeze (r : Requester) (a : DAcc) (s : State) : exec (.dbgFreeze r a) s = execDbgFreeze r a s := rfl
theorem exec_illegalInstruction (c : CoreId) (long : Bool) (enc : W32) (s : State) : exec (.illegalInstruction c long enc) s = execIllegalInstruction c long enc s := rfl
theorem exec_instructionAccess (c : CoreId) (s : State) : exec (.instructionAccess c) s = execInstructionAccess c s := rfl
theorem exec_stackAboveThermalLimit (st : StackId) (temp : Byte) (s : State) : exec (.stackAboveThermalLimit st temp) s = execStackAboveThermalLimit st temp s := rfl
theorem exec_twinPresentNHigh (s : State) : exec (.twinPresentNHigh) s = execTwinPresentNHigh s := rfl
theorem exec_freezeEntered (s : State) : exec (.freezeEntered) s = execFreezeEntered s := rfl
theorem exec_reefClockRestart (c : ClusterId) (s : State) : exec (.reefClockRestart c) s = execReefClockRestart c s := rfl
theorem exec_controllerOrPhyFailure (st : StackId) (s : State) : exec (.controllerOrPhyFailure st) s = execControllerOrPhyFailure st s := rfl
theorem exec_streamPathFault (h : PathLoss) (s : State) : exec (.streamPathFault h) s = execStreamPathFault h s := rfl
theorem exec_correctableLinkError (h : PortId) (s : State) : exec (.correctableLinkError h) s = execCorrectableLinkError h s := rfl

end Sys2Proof.Machine
end

