-- ==== Sys2Proof/Laws/State.lean ====
section
/-!
SUPPORT. One lemma per field of State and per update of it, true by computation, and what an update reads back.
-/

namespace Sys2Proof.Machine

/-! ### `modSeq` -/

@[simp] theorem modSeq_boot (s : State) (n : VeId) (f : Core → Core) : (modSeq s n f).boot = s.boot := rfl
@[simp] theorem modSeq_eng (s : State) (n : VeId) (f : Core → Core) : (modSeq s n f).eng = s.eng := rfl
@[simp] theorem modSeq_sv (s : State) (n : VeId) (f : Core → Core) : (modSeq s n f).sv = s.sv := rfl
@[simp] theorem modSeq_ls (s : State) (n : VeId) (f : Core → Core) : (modSeq s n f).ls = s.ls := rfl
@[simp] theorem modSeq_mem (s : State) (n : VeId) (f : Core → Core) : (modSeq s n f).mem = s.mem := rfl
@[simp] theorem modSeq_stk (s : State) (n : VeId) (f : Core → Core) : (modSeq s n f).stk = s.stk := rfl
@[simp] theorem modSeq_banks (s : State) (n : VeId) (f : Core → Core) : (modSeq s n f).banks = s.banks := rfl
@[simp] theorem modSeq_ceTotal (s : State) (n : VeId) (f : Core → Core) : (modSeq s n f).ceTotal = s.ceTotal := rfl
@[simp] theorem modSeq_ueTotal (s : State) (n : VeId) (f : Core → Core) : (modSeq s n f).ueTotal = s.ueTotal := rfl
@[simp] theorem modSeq_wideGib (s : State) (n : VeId) (f : Core → Core) : (modSeq s n f).wideGib = s.wideGib := rfl
@[simp] theorem modSeq_scrubHours (s : State) (n : VeId) (f : Core → Core) : (modSeq s n f).scrubHours = s.scrubHours := rfl
@[simp] theorem modSeq_pcUeLimit (s : State) (n : VeId) (f : Core → Core) : (modSeq s n f).pcUeLimit = s.pcUeLimit := rfl
@[simp] theorem modSeq_bankUeLimit (s : State) (n : VeId) (f : Core → Core) : (modSeq s n f).bankUeLimit = s.bankUeLimit := rfl
@[simp] theorem modSeq_atomicOps (s : State) (n : VeId) (f : Core → Core) : (modSeq s n f).atomicOps = s.atomicOps := rfl
@[simp] theorem modSeq_fab (s : State) (n : VeId) (f : Core → Core) : (modSeq s n f).fab = s.fab := rfl
@[simp] theorem modSeq_parts (s : State) (n : VeId) (f : Core → Core) : (modSeq s n f).parts = s.parts := rfl
@[simp] theorem modSeq_ports (s : State) (n : VeId) (f : Core → Core) : (modSeq s n f).ports = s.ports := rfl
@[simp] theorem modSeq_dict (s : State) (n : VeId) (f : Core → Core) : (modSeq s n f).dict = s.dict := rfl
@[simp] theorem modSeq_i3c (s : State) (n : VeId) (f : Core → Core) : (modSeq s n f).i3c = s.i3c := rfl
@[simp] theorem modSeq_ev (s : State) (n : VeId) (f : Core → Core) : (modSeq s n f).ev = s.ev := rfl
@[simp] theorem modSeq_clusters (s : State) (n : VeId) (f : Core → Core) : (modSeq s n f).clusters = s.clusters := rfl
@[simp] theorem modSeq_pw (s : State) (n : VeId) (f : Core → Core) : (modSeq s n f).pw = s.pw := rfl
@[simp] theorem modSeq_crc (s : State) (n : VeId) (f : Core → Core) : (modSeq s n f).crc = s.crc := rfl
@[simp] theorem modSeq_twin (s : State) (n : VeId) (f : Core → Core) : (modSeq s n f).twin = s.twin := rfl
@[simp] theorem modSeq_fz (s : State) (n : VeId) (f : Core → Core) : (modSeq s n f).fz = s.fz := rfl
@[simp] theorem modSeq_dieFenced (s : State) (n : VeId) (f : Core → Core) : (modSeq s n f).dieFenced = s.dieFenced := rfl
@[simp] theorem modSeq_outs (s : State) (n : VeId) (f : Core → Core) : (modSeq s n f).outs = s.outs := rfl
@[simp] theorem modSeq_free (s : State) (n : VeId) (f : Core → Core) : (modSeq s n f).free = s.free := rfl
@[simp] theorem modSeq_pending (s : State) (n : VeId) (f : Core → Core) : (modSeq s n f).pending = s.pending := rfl

/-! ### `modEng` -/

@[simp] theorem modEng_boot (s : State) (n : VeId) (f : Engine → Engine) : (modEng s n f).boot = s.boot := rfl
@[simp] theorem modEng_seq (s : State) (n : VeId) (f : Engine → Engine) : (modEng s n f).seq = s.seq := rfl
@[simp] theorem modEng_sv (s : State) (n : VeId) (f : Engine → Engine) : (modEng s n f).sv = s.sv := rfl
@[simp] theorem modEng_ls (s : State) (n : VeId) (f : Engine → Engine) : (modEng s n f).ls = s.ls := rfl
@[simp] theorem modEng_mem (s : State) (n : VeId) (f : Engine → Engine) : (modEng s n f).mem = s.mem := rfl
@[simp] theorem modEng_stk (s : State) (n : VeId) (f : Engine → Engine) : (modEng s n f).stk = s.stk := rfl
@[simp] theorem modEng_banks (s : State) (n : VeId) (f : Engine → Engine) : (modEng s n f).banks = s.banks := rfl
@[simp] theorem modEng_ceTotal (s : State) (n : VeId) (f : Engine → Engine) : (modEng s n f).ceTotal = s.ceTotal := rfl
@[simp] theorem modEng_ueTotal (s : State) (n : VeId) (f : Engine → Engine) : (modEng s n f).ueTotal = s.ueTotal := rfl
@[simp] theorem modEng_wideGib (s : State) (n : VeId) (f : Engine → Engine) : (modEng s n f).wideGib = s.wideGib := rfl
@[simp] theorem modEng_scrubHours (s : State) (n : VeId) (f : Engine → Engine) : (modEng s n f).scrubHours = s.scrubHours := rfl
@[simp] theorem modEng_pcUeLimit (s : State) (n : VeId) (f : Engine → Engine) : (modEng s n f).pcUeLimit = s.pcUeLimit := rfl
@[simp] theorem modEng_bankUeLimit (s : State) (n : VeId) (f : Engine → Engine) : (modEng s n f).bankUeLimit = s.bankUeLimit := rfl
@[simp] theorem modEng_atomicOps (s : State) (n : VeId) (f : Engine → Engine) : (modEng s n f).atomicOps = s.atomicOps := rfl
@[simp] theorem modEng_fab (s : State) (n : VeId) (f : Engine → Engine) : (modEng s n f).fab = s.fab := rfl
@[simp] theorem modEng_parts (s : State) (n : VeId) (f : Engine → Engine) : (modEng s n f).parts = s.parts := rfl
@[simp] theorem modEng_ports (s : State) (n : VeId) (f : Engine → Engine) : (modEng s n f).ports = s.ports := rfl
@[simp] theorem modEng_dict (s : State) (n : VeId) (f : Engine → Engine) : (modEng s n f).dict = s.dict := rfl
@[simp] theorem modEng_i3c (s : State) (n : VeId) (f : Engine → Engine) : (modEng s n f).i3c = s.i3c := rfl
@[simp] theorem modEng_ev (s : State) (n : VeId) (f : Engine → Engine) : (modEng s n f).ev = s.ev := rfl
@[simp] theorem modEng_clusters (s : State) (n : VeId) (f : Engine → Engine) : (modEng s n f).clusters = s.clusters := rfl
@[simp] theorem modEng_pw (s : State) (n : VeId) (f : Engine → Engine) : (modEng s n f).pw = s.pw := rfl
@[simp] theorem modEng_crc (s : State) (n : VeId) (f : Engine → Engine) : (modEng s n f).crc = s.crc := rfl
@[simp] theorem modEng_twin (s : State) (n : VeId) (f : Engine → Engine) : (modEng s n f).twin = s.twin := rfl
@[simp] theorem modEng_fz (s : State) (n : VeId) (f : Engine → Engine) : (modEng s n f).fz = s.fz := rfl
@[simp] theorem modEng_dieFenced (s : State) (n : VeId) (f : Engine → Engine) : (modEng s n f).dieFenced = s.dieFenced := rfl
@[simp] theorem modEng_outs (s : State) (n : VeId) (f : Engine → Engine) : (modEng s n f).outs = s.outs := rfl
@[simp] theorem modEng_free (s : State) (n : VeId) (f : Engine → Engine) : (modEng s n f).free = s.free := rfl
@[simp] theorem modEng_pending (s : State) (n : VeId) (f : Engine → Engine) : (modEng s n f).pending = s.pending := rfl

/-! ### `modPart` -/

@[simp] theorem modPart_boot (s : State) (p : PartId) (f : Partition → Partition) : (modPart s p f).boot = s.boot := rfl
@[simp] theorem modPart_seq (s : State) (p : PartId) (f : Partition → Partition) : (modPart s p f).seq = s.seq := rfl
@[simp] theorem modPart_eng (s : State) (p : PartId) (f : Partition → Partition) : (modPart s p f).eng = s.eng := rfl
@[simp] theorem modPart_sv (s : State) (p : PartId) (f : Partition → Partition) : (modPart s p f).sv = s.sv := rfl
@[simp] theorem modPart_ls (s : State) (p : PartId) (f : Partition → Partition) : (modPart s p f).ls = s.ls := rfl
@[simp] theorem modPart_mem (s : State) (p : PartId) (f : Partition → Partition) : (modPart s p f).mem = s.mem := rfl
@[simp] theorem modPart_stk (s : State) (p : PartId) (f : Partition → Partition) : (modPart s p f).stk = s.stk := rfl
@[simp] theorem modPart_banks (s : State) (p : PartId) (f : Partition → Partition) : (modPart s p f).banks = s.banks := rfl
@[simp] theorem modPart_ceTotal (s : State) (p : PartId) (f : Partition → Partition) : (modPart s p f).ceTotal = s.ceTotal := rfl
@[simp] theorem modPart_ueTotal (s : State) (p : PartId) (f : Partition → Partition) : (modPart s p f).ueTotal = s.ueTotal := rfl
@[simp] theorem modPart_wideGib (s : State) (p : PartId) (f : Partition → Partition) : (modPart s p f).wideGib = s.wideGib := rfl
@[simp] theorem modPart_scrubHours (s : State) (p : PartId) (f : Partition → Partition) : (modPart s p f).scrubHours = s.scrubHours := rfl
@[simp] theorem modPart_pcUeLimit (s : State) (p : PartId) (f : Partition → Partition) : (modPart s p f).pcUeLimit = s.pcUeLimit := rfl
@[simp] theorem modPart_bankUeLimit (s : State) (p : PartId) (f : Partition → Partition) : (modPart s p f).bankUeLimit = s.bankUeLimit := rfl
@[simp] theorem modPart_atomicOps (s : State) (p : PartId) (f : Partition → Partition) : (modPart s p f).atomicOps = s.atomicOps := rfl
@[simp] theorem modPart_fab (s : State) (p : PartId) (f : Partition → Partition) : (modPart s p f).fab = s.fab := rfl
@[simp] theorem modPart_ports (s : State) (p : PartId) (f : Partition → Partition) : (modPart s p f).ports = s.ports := rfl
@[simp] theorem modPart_dict (s : State) (p : PartId) (f : Partition → Partition) : (modPart s p f).dict = s.dict := rfl
@[simp] theorem modPart_i3c (s : State) (p : PartId) (f : Partition → Partition) : (modPart s p f).i3c = s.i3c := rfl
@[simp] theorem modPart_ev (s : State) (p : PartId) (f : Partition → Partition) : (modPart s p f).ev = s.ev := rfl
@[simp] theorem modPart_clusters (s : State) (p : PartId) (f : Partition → Partition) : (modPart s p f).clusters = s.clusters := rfl
@[simp] theorem modPart_pw (s : State) (p : PartId) (f : Partition → Partition) : (modPart s p f).pw = s.pw := rfl
@[simp] theorem modPart_crc (s : State) (p : PartId) (f : Partition → Partition) : (modPart s p f).crc = s.crc := rfl
@[simp] theorem modPart_twin (s : State) (p : PartId) (f : Partition → Partition) : (modPart s p f).twin = s.twin := rfl
@[simp] theorem modPart_fz (s : State) (p : PartId) (f : Partition → Partition) : (modPart s p f).fz = s.fz := rfl
@[simp] theorem modPart_dieFenced (s : State) (p : PartId) (f : Partition → Partition) : (modPart s p f).dieFenced = s.dieFenced := rfl
@[simp] theorem modPart_outs (s : State) (p : PartId) (f : Partition → Partition) : (modPart s p f).outs = s.outs := rfl
@[simp] theorem modPart_free (s : State) (p : PartId) (f : Partition → Partition) : (modPart s p f).free = s.free := rfl
@[simp] theorem modPart_pending (s : State) (p : PartId) (f : Partition → Partition) : (modPart s p f).pending = s.pending := rfl

/-! ### `modBank` -/

@[simp] theorem modBank_boot (s : State) (b : BankId) (f : Bank → Bank) : (modBank s b f).boot = s.boot := rfl
@[simp] theorem modBank_seq (s : State) (b : BankId) (f : Bank → Bank) : (modBank s b f).seq = s.seq := rfl
@[simp] theorem modBank_eng (s : State) (b : BankId) (f : Bank → Bank) : (modBank s b f).eng = s.eng := rfl
@[simp] theorem modBank_sv (s : State) (b : BankId) (f : Bank → Bank) : (modBank s b f).sv = s.sv := rfl
@[simp] theorem modBank_ls (s : State) (b : BankId) (f : Bank → Bank) : (modBank s b f).ls = s.ls := rfl
@[simp] theorem modBank_mem (s : State) (b : BankId) (f : Bank → Bank) : (modBank s b f).mem = s.mem := rfl
@[simp] theorem modBank_stk (s : State) (b : BankId) (f : Bank → Bank) : (modBank s b f).stk = s.stk := rfl
@[simp] theorem modBank_ceTotal (s : State) (b : BankId) (f : Bank → Bank) : (modBank s b f).ceTotal = s.ceTotal := rfl
@[simp] theorem modBank_ueTotal (s : State) (b : BankId) (f : Bank → Bank) : (modBank s b f).ueTotal = s.ueTotal := rfl
@[simp] theorem modBank_wideGib (s : State) (b : BankId) (f : Bank → Bank) : (modBank s b f).wideGib = s.wideGib := rfl
@[simp] theorem modBank_scrubHours (s : State) (b : BankId) (f : Bank → Bank) : (modBank s b f).scrubHours = s.scrubHours := rfl
@[simp] theorem modBank_pcUeLimit (s : State) (b : BankId) (f : Bank → Bank) : (modBank s b f).pcUeLimit = s.pcUeLimit := rfl
@[simp] theorem modBank_bankUeLimit (s : State) (b : BankId) (f : Bank → Bank) : (modBank s b f).bankUeLimit = s.bankUeLimit := rfl
@[simp] theorem modBank_atomicOps (s : State) (b : BankId) (f : Bank → Bank) : (modBank s b f).atomicOps = s.atomicOps := rfl
@[simp] theorem modBank_fab (s : State) (b : BankId) (f : Bank → Bank) : (modBank s b f).fab = s.fab := rfl
@[simp] theorem modBank_parts (s : State) (b : BankId) (f : Bank → Bank) : (modBank s b f).parts = s.parts := rfl
@[simp] theorem modBank_ports (s : State) (b : BankId) (f : Bank → Bank) : (modBank s b f).ports = s.ports := rfl
@[simp] theorem modBank_dict (s : State) (b : BankId) (f : Bank → Bank) : (modBank s b f).dict = s.dict := rfl
@[simp] theorem modBank_i3c (s : State) (b : BankId) (f : Bank → Bank) : (modBank s b f).i3c = s.i3c := rfl
@[simp] theorem modBank_ev (s : State) (b : BankId) (f : Bank → Bank) : (modBank s b f).ev = s.ev := rfl
@[simp] theorem modBank_clusters (s : State) (b : BankId) (f : Bank → Bank) : (modBank s b f).clusters = s.clusters := rfl
@[simp] theorem modBank_pw (s : State) (b : BankId) (f : Bank → Bank) : (modBank s b f).pw = s.pw := rfl
@[simp] theorem modBank_crc (s : State) (b : BankId) (f : Bank → Bank) : (modBank s b f).crc = s.crc := rfl
@[simp] theorem modBank_twin (s : State) (b : BankId) (f : Bank → Bank) : (modBank s b f).twin = s.twin := rfl
@[simp] theorem modBank_fz (s : State) (b : BankId) (f : Bank → Bank) : (modBank s b f).fz = s.fz := rfl
@[simp] theorem modBank_dieFenced (s : State) (b : BankId) (f : Bank → Bank) : (modBank s b f).dieFenced = s.dieFenced := rfl
@[simp] theorem modBank_outs (s : State) (b : BankId) (f : Bank → Bank) : (modBank s b f).outs = s.outs := rfl
@[simp] theorem modBank_free (s : State) (b : BankId) (f : Bank → Bank) : (modBank s b f).free = s.free := rfl
@[simp] theorem modBank_pending (s : State) (b : BankId) (f : Bank → Bank) : (modBank s b f).pending = s.pending := rfl

/-! ### `modStack` -/

@[simp] theorem modStack_boot (s : State) (i : StackId) (f : Stack → Stack) : (modStack s i f).boot = s.boot := rfl
@[simp] theorem modStack_seq (s : State) (i : StackId) (f : Stack → Stack) : (modStack s i f).seq = s.seq := rfl
@[simp] theorem modStack_eng (s : State) (i : StackId) (f : Stack → Stack) : (modStack s i f).eng = s.eng := rfl
@[simp] theorem modStack_sv (s : State) (i : StackId) (f : Stack → Stack) : (modStack s i f).sv = s.sv := rfl
@[simp] theorem modStack_ls (s : State) (i : StackId) (f : Stack → Stack) : (modStack s i f).ls = s.ls := rfl
@[simp] theorem modStack_mem (s : State) (i : StackId) (f : Stack → Stack) : (modStack s i f).mem = s.mem := rfl
@[simp] theorem modStack_banks (s : State) (i : StackId) (f : Stack → Stack) : (modStack s i f).banks = s.banks := rfl
@[simp] theorem modStack_ceTotal (s : State) (i : StackId) (f : Stack → Stack) : (modStack s i f).ceTotal = s.ceTotal := rfl
@[simp] theorem modStack_ueTotal (s : State) (i : StackId) (f : Stack → Stack) : (modStack s i f).ueTotal = s.ueTotal := rfl
@[simp] theorem modStack_wideGib (s : State) (i : StackId) (f : Stack → Stack) : (modStack s i f).wideGib = s.wideGib := rfl
@[simp] theorem modStack_scrubHours (s : State) (i : StackId) (f : Stack → Stack) : (modStack s i f).scrubHours = s.scrubHours := rfl
@[simp] theorem modStack_pcUeLimit (s : State) (i : StackId) (f : Stack → Stack) : (modStack s i f).pcUeLimit = s.pcUeLimit := rfl
@[simp] theorem modStack_bankUeLimit (s : State) (i : StackId) (f : Stack → Stack) : (modStack s i f).bankUeLimit = s.bankUeLimit := rfl
@[simp] theorem modStack_atomicOps (s : State) (i : StackId) (f : Stack → Stack) : (modStack s i f).atomicOps = s.atomicOps := rfl
@[simp] theorem modStack_fab (s : State) (i : StackId) (f : Stack → Stack) : (modStack s i f).fab = s.fab := rfl
@[simp] theorem modStack_parts (s : State) (i : StackId) (f : Stack → Stack) : (modStack s i f).parts = s.parts := rfl
@[simp] theorem modStack_ports (s : State) (i : StackId) (f : Stack → Stack) : (modStack s i f).ports = s.ports := rfl
@[simp] theorem modStack_dict (s : State) (i : StackId) (f : Stack → Stack) : (modStack s i f).dict = s.dict := rfl
@[simp] theorem modStack_i3c (s : State) (i : StackId) (f : Stack → Stack) : (modStack s i f).i3c = s.i3c := rfl
@[simp] theorem modStack_ev (s : State) (i : StackId) (f : Stack → Stack) : (modStack s i f).ev = s.ev := rfl
@[simp] theorem modStack_clusters (s : State) (i : StackId) (f : Stack → Stack) : (modStack s i f).clusters = s.clusters := rfl
@[simp] theorem modStack_pw (s : State) (i : StackId) (f : Stack → Stack) : (modStack s i f).pw = s.pw := rfl
@[simp] theorem modStack_crc (s : State) (i : StackId) (f : Stack → Stack) : (modStack s i f).crc = s.crc := rfl
@[simp] theorem modStack_twin (s : State) (i : StackId) (f : Stack → Stack) : (modStack s i f).twin = s.twin := rfl
@[simp] theorem modStack_fz (s : State) (i : StackId) (f : Stack → Stack) : (modStack s i f).fz = s.fz := rfl
@[simp] theorem modStack_dieFenced (s : State) (i : StackId) (f : Stack → Stack) : (modStack s i f).dieFenced = s.dieFenced := rfl
@[simp] theorem modStack_outs (s : State) (i : StackId) (f : Stack → Stack) : (modStack s i f).outs = s.outs := rfl
@[simp] theorem modStack_free (s : State) (i : StackId) (f : Stack → Stack) : (modStack s i f).free = s.free := rfl
@[simp] theorem modStack_pending (s : State) (i : StackId) (f : Stack → Stack) : (modStack s i f).pending = s.pending := rfl

/-! ### `modPort` -/

@[simp] theorem modPort_boot (s : State) (h : PortId) (f : Port → Port) : (modPort s h f).boot = s.boot := rfl
@[simp] theorem modPort_seq (s : State) (h : PortId) (f : Port → Port) : (modPort s h f).seq = s.seq := rfl
@[simp] theorem modPort_eng (s : State) (h : PortId) (f : Port → Port) : (modPort s h f).eng = s.eng := rfl
@[simp] theorem modPort_sv (s : State) (h : PortId) (f : Port → Port) : (modPort s h f).sv = s.sv := rfl
@[simp] theorem modPort_ls (s : State) (h : PortId) (f : Port → Port) : (modPort s h f).ls = s.ls := rfl
@[simp] theorem modPort_mem (s : State) (h : PortId) (f : Port → Port) : (modPort s h f).mem = s.mem := rfl
@[simp] theorem modPort_stk (s : State) (h : PortId) (f : Port → Port) : (modPort s h f).stk = s.stk := rfl
@[simp] theorem modPort_banks (s : State) (h : PortId) (f : Port → Port) : (modPort s h f).banks = s.banks := rfl
@[simp] theorem modPort_ceTotal (s : State) (h : PortId) (f : Port → Port) : (modPort s h f).ceTotal = s.ceTotal := rfl
@[simp] theorem modPort_ueTotal (s : State) (h : PortId) (f : Port → Port) : (modPort s h f).ueTotal = s.ueTotal := rfl
@[simp] theorem modPort_wideGib (s : State) (h : PortId) (f : Port → Port) : (modPort s h f).wideGib = s.wideGib := rfl
@[simp] theorem modPort_scrubHours (s : State) (h : PortId) (f : Port → Port) : (modPort s h f).scrubHours = s.scrubHours := rfl
@[simp] theorem modPort_pcUeLimit (s : State) (h : PortId) (f : Port → Port) : (modPort s h f).pcUeLimit = s.pcUeLimit := rfl
@[simp] theorem modPort_bankUeLimit (s : State) (h : PortId) (f : Port → Port) : (modPort s h f).bankUeLimit = s.bankUeLimit := rfl
@[simp] theorem modPort_atomicOps (s : State) (h : PortId) (f : Port → Port) : (modPort s h f).atomicOps = s.atomicOps := rfl
@[simp] theorem modPort_fab (s : State) (h : PortId) (f : Port → Port) : (modPort s h f).fab = s.fab := rfl
@[simp] theorem modPort_parts (s : State) (h : PortId) (f : Port → Port) : (modPort s h f).parts = s.parts := rfl
@[simp] theorem modPort_dict (s : State) (h : PortId) (f : Port → Port) : (modPort s h f).dict = s.dict := rfl
@[simp] theorem modPort_i3c (s : State) (h : PortId) (f : Port → Port) : (modPort s h f).i3c = s.i3c := rfl
@[simp] theorem modPort_ev (s : State) (h : PortId) (f : Port → Port) : (modPort s h f).ev = s.ev := rfl
@[simp] theorem modPort_clusters (s : State) (h : PortId) (f : Port → Port) : (modPort s h f).clusters = s.clusters := rfl
@[simp] theorem modPort_pw (s : State) (h : PortId) (f : Port → Port) : (modPort s h f).pw = s.pw := rfl
@[simp] theorem modPort_crc (s : State) (h : PortId) (f : Port → Port) : (modPort s h f).crc = s.crc := rfl
@[simp] theorem modPort_twin (s : State) (h : PortId) (f : Port → Port) : (modPort s h f).twin = s.twin := rfl
@[simp] theorem modPort_fz (s : State) (h : PortId) (f : Port → Port) : (modPort s h f).fz = s.fz := rfl
@[simp] theorem modPort_dieFenced (s : State) (h : PortId) (f : Port → Port) : (modPort s h f).dieFenced = s.dieFenced := rfl
@[simp] theorem modPort_outs (s : State) (h : PortId) (f : Port → Port) : (modPort s h f).outs = s.outs := rfl
@[simp] theorem modPort_free (s : State) (h : PortId) (f : Port → Port) : (modPort s h f).free = s.free := rfl
@[simp] theorem modPort_pending (s : State) (h : PortId) (f : Port → Port) : (modPort s h f).pending = s.pending := rfl

/-! ### `modCluster` -/

@[simp] theorem modCluster_boot (s : State) (c : ClusterId) (f : Cluster → Cluster) : (modCluster s c f).boot = s.boot := rfl
@[simp] theorem modCluster_seq (s : State) (c : ClusterId) (f : Cluster → Cluster) : (modCluster s c f).seq = s.seq := rfl
@[simp] theorem modCluster_eng (s : State) (c : ClusterId) (f : Cluster → Cluster) : (modCluster s c f).eng = s.eng := rfl
@[simp] theorem modCluster_sv (s : State) (c : ClusterId) (f : Cluster → Cluster) : (modCluster s c f).sv = s.sv := rfl
@[simp] theorem modCluster_ls (s : State) (c : ClusterId) (f : Cluster → Cluster) : (modCluster s c f).ls = s.ls := rfl
@[simp] theorem modCluster_mem (s : State) (c : ClusterId) (f : Cluster → Cluster) : (modCluster s c f).mem = s.mem := rfl
@[simp] theorem modCluster_stk (s : State) (c : ClusterId) (f : Cluster → Cluster) : (modCluster s c f).stk = s.stk := rfl
@[simp] theorem modCluster_banks (s : State) (c : ClusterId) (f : Cluster → Cluster) : (modCluster s c f).banks = s.banks := rfl
@[simp] theorem modCluster_ceTotal (s : State) (c : ClusterId) (f : Cluster → Cluster) : (modCluster s c f).ceTotal = s.ceTotal := rfl
@[simp] theorem modCluster_ueTotal (s : State) (c : ClusterId) (f : Cluster → Cluster) : (modCluster s c f).ueTotal = s.ueTotal := rfl
@[simp] theorem modCluster_wideGib (s : State) (c : ClusterId) (f : Cluster → Cluster) : (modCluster s c f).wideGib = s.wideGib := rfl
@[simp] theorem modCluster_scrubHours (s : State) (c : ClusterId) (f : Cluster → Cluster) : (modCluster s c f).scrubHours = s.scrubHours := rfl
@[simp] theorem modCluster_pcUeLimit (s : State) (c : ClusterId) (f : Cluster → Cluster) : (modCluster s c f).pcUeLimit = s.pcUeLimit := rfl
@[simp] theorem modCluster_bankUeLimit (s : State) (c : ClusterId) (f : Cluster → Cluster) : (modCluster s c f).bankUeLimit = s.bankUeLimit := rfl
@[simp] theorem modCluster_atomicOps (s : State) (c : ClusterId) (f : Cluster → Cluster) : (modCluster s c f).atomicOps = s.atomicOps := rfl
@[simp] theorem modCluster_fab (s : State) (c : ClusterId) (f : Cluster → Cluster) : (modCluster s c f).fab = s.fab := rfl
@[simp] theorem modCluster_parts (s : State) (c : ClusterId) (f : Cluster → Cluster) : (modCluster s c f).parts = s.parts := rfl
@[simp] theorem modCluster_ports (s : State) (c : ClusterId) (f : Cluster → Cluster) : (modCluster s c f).ports = s.ports := rfl
@[simp] theorem modCluster_dict (s : State) (c : ClusterId) (f : Cluster → Cluster) : (modCluster s c f).dict = s.dict := rfl
@[simp] theorem modCluster_i3c (s : State) (c : ClusterId) (f : Cluster → Cluster) : (modCluster s c f).i3c = s.i3c := rfl
@[simp] theorem modCluster_ev (s : State) (c : ClusterId) (f : Cluster → Cluster) : (modCluster s c f).ev = s.ev := rfl
@[simp] theorem modCluster_pw (s : State) (c : ClusterId) (f : Cluster → Cluster) : (modCluster s c f).pw = s.pw := rfl
@[simp] theorem modCluster_crc (s : State) (c : ClusterId) (f : Cluster → Cluster) : (modCluster s c f).crc = s.crc := rfl
@[simp] theorem modCluster_twin (s : State) (c : ClusterId) (f : Cluster → Cluster) : (modCluster s c f).twin = s.twin := rfl
@[simp] theorem modCluster_fz (s : State) (c : ClusterId) (f : Cluster → Cluster) : (modCluster s c f).fz = s.fz := rfl
@[simp] theorem modCluster_dieFenced (s : State) (c : ClusterId) (f : Cluster → Cluster) : (modCluster s c f).dieFenced = s.dieFenced := rfl
@[simp] theorem modCluster_outs (s : State) (c : ClusterId) (f : Cluster → Cluster) : (modCluster s c f).outs = s.outs := rfl
@[simp] theorem modCluster_free (s : State) (c : ClusterId) (f : Cluster → Cluster) : (modCluster s c f).free = s.free := rfl
@[simp] theorem modCluster_pending (s : State) (c : ClusterId) (f : Cluster → Cluster) : (modCluster s c f).pending = s.pending := rfl

/-! ### `modCrc` -/

@[simp] theorem modCrc_boot (s : State) (u : CrcId) (f : CrcUnit → CrcUnit) : (modCrc s u f).boot = s.boot := rfl
@[simp] theorem modCrc_seq (s : State) (u : CrcId) (f : CrcUnit → CrcUnit) : (modCrc s u f).seq = s.seq := rfl
@[simp] theorem modCrc_eng (s : State) (u : CrcId) (f : CrcUnit → CrcUnit) : (modCrc s u f).eng = s.eng := rfl
@[simp] theorem modCrc_sv (s : State) (u : CrcId) (f : CrcUnit → CrcUnit) : (modCrc s u f).sv = s.sv := rfl
@[simp] theorem modCrc_ls (s : State) (u : CrcId) (f : CrcUnit → CrcUnit) : (modCrc s u f).ls = s.ls := rfl
@[simp] theorem modCrc_mem (s : State) (u : CrcId) (f : CrcUnit → CrcUnit) : (modCrc s u f).mem = s.mem := rfl
@[simp] theorem modCrc_stk (s : State) (u : CrcId) (f : CrcUnit → CrcUnit) : (modCrc s u f).stk = s.stk := rfl
@[simp] theorem modCrc_banks (s : State) (u : CrcId) (f : CrcUnit → CrcUnit) : (modCrc s u f).banks = s.banks := rfl
@[simp] theorem modCrc_ceTotal (s : State) (u : CrcId) (f : CrcUnit → CrcUnit) : (modCrc s u f).ceTotal = s.ceTotal := rfl
@[simp] theorem modCrc_ueTotal (s : State) (u : CrcId) (f : CrcUnit → CrcUnit) : (modCrc s u f).ueTotal = s.ueTotal := rfl
@[simp] theorem modCrc_wideGib (s : State) (u : CrcId) (f : CrcUnit → CrcUnit) : (modCrc s u f).wideGib = s.wideGib := rfl
@[simp] theorem modCrc_scrubHours (s : State) (u : CrcId) (f : CrcUnit → CrcUnit) : (modCrc s u f).scrubHours = s.scrubHours := rfl
@[simp] theorem modCrc_pcUeLimit (s : State) (u : CrcId) (f : CrcUnit → CrcUnit) : (modCrc s u f).pcUeLimit = s.pcUeLimit := rfl
@[simp] theorem modCrc_bankUeLimit (s : State) (u : CrcId) (f : CrcUnit → CrcUnit) : (modCrc s u f).bankUeLimit = s.bankUeLimit := rfl
@[simp] theorem modCrc_atomicOps (s : State) (u : CrcId) (f : CrcUnit → CrcUnit) : (modCrc s u f).atomicOps = s.atomicOps := rfl
@[simp] theorem modCrc_fab (s : State) (u : CrcId) (f : CrcUnit → CrcUnit) : (modCrc s u f).fab = s.fab := rfl
@[simp] theorem modCrc_parts (s : State) (u : CrcId) (f : CrcUnit → CrcUnit) : (modCrc s u f).parts = s.parts := rfl
@[simp] theorem modCrc_ports (s : State) (u : CrcId) (f : CrcUnit → CrcUnit) : (modCrc s u f).ports = s.ports := rfl
@[simp] theorem modCrc_dict (s : State) (u : CrcId) (f : CrcUnit → CrcUnit) : (modCrc s u f).dict = s.dict := rfl
@[simp] theorem modCrc_i3c (s : State) (u : CrcId) (f : CrcUnit → CrcUnit) : (modCrc s u f).i3c = s.i3c := rfl
@[simp] theorem modCrc_ev (s : State) (u : CrcId) (f : CrcUnit → CrcUnit) : (modCrc s u f).ev = s.ev := rfl
@[simp] theorem modCrc_clusters (s : State) (u : CrcId) (f : CrcUnit → CrcUnit) : (modCrc s u f).clusters = s.clusters := rfl
@[simp] theorem modCrc_pw (s : State) (u : CrcId) (f : CrcUnit → CrcUnit) : (modCrc s u f).pw = s.pw := rfl
@[simp] theorem modCrc_twin (s : State) (u : CrcId) (f : CrcUnit → CrcUnit) : (modCrc s u f).twin = s.twin := rfl
@[simp] theorem modCrc_fz (s : State) (u : CrcId) (f : CrcUnit → CrcUnit) : (modCrc s u f).fz = s.fz := rfl
@[simp] theorem modCrc_dieFenced (s : State) (u : CrcId) (f : CrcUnit → CrcUnit) : (modCrc s u f).dieFenced = s.dieFenced := rfl
@[simp] theorem modCrc_outs (s : State) (u : CrcId) (f : CrcUnit → CrcUnit) : (modCrc s u f).outs = s.outs := rfl
@[simp] theorem modCrc_free (s : State) (u : CrcId) (f : CrcUnit → CrcUnit) : (modCrc s u f).free = s.free := rfl
@[simp] theorem modCrc_pending (s : State) (u : CrcId) (f : CrcUnit → CrcUnit) : (modCrc s u f).pending = s.pending := rfl

/-! ### `modStream` -/

@[simp] theorem modStream_boot (s : State) (p : PartId) (k : Fin 8) (f : Stream → Stream) : (modStream s p k f).boot = s.boot := rfl
@[simp] theorem modStream_seq (s : State) (p : PartId) (k : Fin 8) (f : Stream → Stream) : (modStream s p k f).seq = s.seq := rfl
@[simp] theorem modStream_eng (s : State) (p : PartId) (k : Fin 8) (f : Stream → Stream) : (modStream s p k f).eng = s.eng := rfl
@[simp] theorem modStream_sv (s : State) (p : PartId) (k : Fin 8) (f : Stream → Stream) : (modStream s p k f).sv = s.sv := rfl
@[simp] theorem modStream_ls (s : State) (p : PartId) (k : Fin 8) (f : Stream → Stream) : (modStream s p k f).ls = s.ls := rfl
@[simp] theorem modStream_mem (s : State) (p : PartId) (k : Fin 8) (f : Stream → Stream) : (modStream s p k f).mem = s.mem := rfl
@[simp] theorem modStream_stk (s : State) (p : PartId) (k : Fin 8) (f : Stream → Stream) : (modStream s p k f).stk = s.stk := rfl
@[simp] theorem modStream_banks (s : State) (p : PartId) (k : Fin 8) (f : Stream → Stream) : (modStream s p k f).banks = s.banks := rfl
@[simp] theorem modStream_ceTotal (s : State) (p : PartId) (k : Fin 8) (f : Stream → Stream) : (modStream s p k f).ceTotal = s.ceTotal := rfl
@[simp] theorem modStream_ueTotal (s : State) (p : PartId) (k : Fin 8) (f : Stream → Stream) : (modStream s p k f).ueTotal = s.ueTotal := rfl
@[simp] theorem modStream_wideGib (s : State) (p : PartId) (k : Fin 8) (f : Stream → Stream) : (modStream s p k f).wideGib = s.wideGib := rfl
@[simp] theorem modStream_scrubHours (s : State) (p : PartId) (k : Fin 8) (f : Stream → Stream) : (modStream s p k f).scrubHours = s.scrubHours := rfl
@[simp] theorem modStream_pcUeLimit (s : State) (p : PartId) (k : Fin 8) (f : Stream → Stream) : (modStream s p k f).pcUeLimit = s.pcUeLimit := rfl
@[simp] theorem modStream_bankUeLimit (s : State) (p : PartId) (k : Fin 8) (f : Stream → Stream) : (modStream s p k f).bankUeLimit = s.bankUeLimit := rfl
@[simp] theorem modStream_atomicOps (s : State) (p : PartId) (k : Fin 8) (f : Stream → Stream) : (modStream s p k f).atomicOps = s.atomicOps := rfl
@[simp] theorem modStream_fab (s : State) (p : PartId) (k : Fin 8) (f : Stream → Stream) : (modStream s p k f).fab = s.fab := rfl
@[simp] theorem modStream_ports (s : State) (p : PartId) (k : Fin 8) (f : Stream → Stream) : (modStream s p k f).ports = s.ports := rfl
@[simp] theorem modStream_dict (s : State) (p : PartId) (k : Fin 8) (f : Stream → Stream) : (modStream s p k f).dict = s.dict := rfl
@[simp] theorem modStream_i3c (s : State) (p : PartId) (k : Fin 8) (f : Stream → Stream) : (modStream s p k f).i3c = s.i3c := rfl
@[simp] theorem modStream_ev (s : State) (p : PartId) (k : Fin 8) (f : Stream → Stream) : (modStream s p k f).ev = s.ev := rfl
@[simp] theorem modStream_clusters (s : State) (p : PartId) (k : Fin 8) (f : Stream → Stream) : (modStream s p k f).clusters = s.clusters := rfl
@[simp] theorem modStream_pw (s : State) (p : PartId) (k : Fin 8) (f : Stream → Stream) : (modStream s p k f).pw = s.pw := rfl
@[simp] theorem modStream_crc (s : State) (p : PartId) (k : Fin 8) (f : Stream → Stream) : (modStream s p k f).crc = s.crc := rfl
@[simp] theorem modStream_twin (s : State) (p : PartId) (k : Fin 8) (f : Stream → Stream) : (modStream s p k f).twin = s.twin := rfl
@[simp] theorem modStream_fz (s : State) (p : PartId) (k : Fin 8) (f : Stream → Stream) : (modStream s p k f).fz = s.fz := rfl
@[simp] theorem modStream_dieFenced (s : State) (p : PartId) (k : Fin 8) (f : Stream → Stream) : (modStream s p k f).dieFenced = s.dieFenced := rfl
@[simp] theorem modStream_outs (s : State) (p : PartId) (k : Fin 8) (f : Stream → Stream) : (modStream s p k f).outs = s.outs := rfl
@[simp] theorem modStream_free (s : State) (p : PartId) (k : Fin 8) (f : Stream → Stream) : (modStream s p k f).free = s.free := rfl
@[simp] theorem modStream_pending (s : State) (p : PartId) (k : Fin 8) (f : Stream → Stream) : (modStream s p k f).pending = s.pending := rfl

/-! ### `emit` -/

@[simp] theorem emit_boot (s : State) (o : Out) : (emit s o).boot = s.boot := rfl
@[simp] theorem emit_seq (s : State) (o : Out) : (emit s o).seq = s.seq := rfl
@[simp] theorem emit_eng (s : State) (o : Out) : (emit s o).eng = s.eng := rfl
@[simp] theorem emit_sv (s : State) (o : Out) : (emit s o).sv = s.sv := rfl
@[simp] theorem emit_ls (s : State) (o : Out) : (emit s o).ls = s.ls := rfl
@[simp] theorem emit_mem (s : State) (o : Out) : (emit s o).mem = s.mem := rfl
@[simp] theorem emit_stk (s : State) (o : Out) : (emit s o).stk = s.stk := rfl
@[simp] theorem emit_banks (s : State) (o : Out) : (emit s o).banks = s.banks := rfl
@[simp] theorem emit_ceTotal (s : State) (o : Out) : (emit s o).ceTotal = s.ceTotal := rfl
@[simp] theorem emit_ueTotal (s : State) (o : Out) : (emit s o).ueTotal = s.ueTotal := rfl
@[simp] theorem emit_wideGib (s : State) (o : Out) : (emit s o).wideGib = s.wideGib := rfl
@[simp] theorem emit_scrubHours (s : State) (o : Out) : (emit s o).scrubHours = s.scrubHours := rfl
@[simp] theorem emit_pcUeLimit (s : State) (o : Out) : (emit s o).pcUeLimit = s.pcUeLimit := rfl
@[simp] theorem emit_bankUeLimit (s : State) (o : Out) : (emit s o).bankUeLimit = s.bankUeLimit := rfl
@[simp] theorem emit_atomicOps (s : State) (o : Out) : (emit s o).atomicOps = s.atomicOps := rfl
@[simp] theorem emit_fab (s : State) (o : Out) : (emit s o).fab = s.fab := rfl
@[simp] theorem emit_parts (s : State) (o : Out) : (emit s o).parts = s.parts := rfl
@[simp] theorem emit_ports (s : State) (o : Out) : (emit s o).ports = s.ports := rfl
@[simp] theorem emit_dict (s : State) (o : Out) : (emit s o).dict = s.dict := rfl
@[simp] theorem emit_i3c (s : State) (o : Out) : (emit s o).i3c = s.i3c := rfl
@[simp] theorem emit_ev (s : State) (o : Out) : (emit s o).ev = s.ev := rfl
@[simp] theorem emit_clusters (s : State) (o : Out) : (emit s o).clusters = s.clusters := rfl
@[simp] theorem emit_pw (s : State) (o : Out) : (emit s o).pw = s.pw := rfl
@[simp] theorem emit_crc (s : State) (o : Out) : (emit s o).crc = s.crc := rfl
@[simp] theorem emit_twin (s : State) (o : Out) : (emit s o).twin = s.twin := rfl
@[simp] theorem emit_fz (s : State) (o : Out) : (emit s o).fz = s.fz := rfl
@[simp] theorem emit_dieFenced (s : State) (o : Out) : (emit s o).dieFenced = s.dieFenced := rfl
@[simp] theorem emit_free (s : State) (o : Out) : (emit s o).free = s.free := rfl
@[simp] theorem emit_pending (s : State) (o : Out) : (emit s o).pending = s.pending := rfl

/-! ### `modCore` -/

@[simp] theorem modCore_boot (s : State) (c : CoreId) (f : Core → Core) : (modCore s c f).boot = s.boot := by cases c <;> rfl
@[simp] theorem modCore_eng (s : State) (c : CoreId) (f : Core → Core) : (modCore s c f).eng = s.eng := by cases c <;> rfl
@[simp] theorem modCore_ls (s : State) (c : CoreId) (f : Core → Core) : (modCore s c f).ls = s.ls := by cases c <;> rfl
@[simp] theorem modCore_mem (s : State) (c : CoreId) (f : Core → Core) : (modCore s c f).mem = s.mem := by cases c <;> rfl
@[simp] theorem modCore_stk (s : State) (c : CoreId) (f : Core → Core) : (modCore s c f).stk = s.stk := by cases c <;> rfl
@[simp] theorem modCore_banks (s : State) (c : CoreId) (f : Core → Core) : (modCore s c f).banks = s.banks := by cases c <;> rfl
@[simp] theorem modCore_ceTotal (s : State) (c : CoreId) (f : Core → Core) : (modCore s c f).ceTotal = s.ceTotal := by cases c <;> rfl
@[simp] theorem modCore_ueTotal (s : State) (c : CoreId) (f : Core → Core) : (modCore s c f).ueTotal = s.ueTotal := by cases c <;> rfl
@[simp] theorem modCore_wideGib (s : State) (c : CoreId) (f : Core → Core) : (modCore s c f).wideGib = s.wideGib := by cases c <;> rfl
@[simp] theorem modCore_scrubHours (s : State) (c : CoreId) (f : Core → Core) : (modCore s c f).scrubHours = s.scrubHours := by cases c <;> rfl
@[simp] theorem modCore_pcUeLimit (s : State) (c : CoreId) (f : Core → Core) : (modCore s c f).pcUeLimit = s.pcUeLimit := by cases c <;> rfl
@[simp] theorem modCore_bankUeLimit (s : State) (c : CoreId) (f : Core → Core) : (modCore s c f).bankUeLimit = s.bankUeLimit := by cases c <;> rfl
@[simp] theorem modCore_atomicOps (s : State) (c : CoreId) (f : Core → Core) : (modCore s c f).atomicOps = s.atomicOps := by cases c <;> rfl
@[simp] theorem modCore_fab (s : State) (c : CoreId) (f : Core → Core) : (modCore s c f).fab = s.fab := by cases c <;> rfl
@[simp] theorem modCore_parts (s : State) (c : CoreId) (f : Core → Core) : (modCore s c f).parts = s.parts := by cases c <;> rfl
@[simp] theorem modCore_ports (s : State) (c : CoreId) (f : Core → Core) : (modCore s c f).ports = s.ports := by cases c <;> rfl
@[simp] theorem modCore_dict (s : State) (c : CoreId) (f : Core → Core) : (modCore s c f).dict = s.dict := by cases c <;> rfl
@[simp] theorem modCore_i3c (s : State) (c : CoreId) (f : Core → Core) : (modCore s c f).i3c = s.i3c := by cases c <;> rfl
@[simp] theorem modCore_ev (s : State) (c : CoreId) (f : Core → Core) : (modCore s c f).ev = s.ev := by cases c <;> rfl
@[simp] theorem modCore_clusters (s : State) (c : CoreId) (f : Core → Core) : (modCore s c f).clusters = s.clusters := by cases c <;> rfl
@[simp] theorem modCore_pw (s : State) (c : CoreId) (f : Core → Core) : (modCore s c f).pw = s.pw := by cases c <;> rfl
@[simp] theorem modCore_crc (s : State) (c : CoreId) (f : Core → Core) : (modCore s c f).crc = s.crc := by cases c <;> rfl
@[simp] theorem modCore_twin (s : State) (c : CoreId) (f : Core → Core) : (modCore s c f).twin = s.twin := by cases c <;> rfl
@[simp] theorem modCore_fz (s : State) (c : CoreId) (f : Core → Core) : (modCore s c f).fz = s.fz := by cases c <;> rfl
@[simp] theorem modCore_dieFenced (s : State) (c : CoreId) (f : Core → Core) : (modCore s c f).dieFenced = s.dieFenced := by cases c <;> rfl
@[simp] theorem modCore_outs (s : State) (c : CoreId) (f : Core → Core) : (modCore s c f).outs = s.outs := by cases c <;> rfl
@[simp] theorem modCore_free (s : State) (c : CoreId) (f : Core → Core) : (modCore s c f).free = s.free := by cases c <;> rfl
@[simp] theorem modCore_pending (s : State) (c : CoreId) (f : Core → Core) : (modCore s c f).pending = s.pending := by cases c <;> rfl

/-! ### `modRegs` -/

@[simp] theorem modRegs_boot (s : State) (c : CoreId) (f : Regs → Regs) : (modRegs s c f).boot = s.boot := by cases c <;> rfl
@[simp] theorem modRegs_eng (s : State) (c : CoreId) (f : Regs → Regs) : (modRegs s c f).eng = s.eng := by cases c <;> rfl
@[simp] theorem modRegs_ls (s : State) (c : CoreId) (f : Regs → Regs) : (modRegs s c f).ls = s.ls := by cases c <;> rfl
@[simp] theorem modRegs_mem (s : State) (c : CoreId) (f : Regs → Regs) : (modRegs s c f).mem = s.mem := by cases c <;> rfl
@[simp] theorem modRegs_stk (s : State) (c : CoreId) (f : Regs → Regs) : (modRegs s c f).stk = s.stk := by cases c <;> rfl
@[simp] theorem modRegs_banks (s : State) (c : CoreId) (f : Regs → Regs) : (modRegs s c f).banks = s.banks := by cases c <;> rfl
@[simp] theorem modRegs_ceTotal (s : State) (c : CoreId) (f : Regs → Regs) : (modRegs s c f).ceTotal = s.ceTotal := by cases c <;> rfl
@[simp] theorem modRegs_ueTotal (s : State) (c : CoreId) (f : Regs → Regs) : (modRegs s c f).ueTotal = s.ueTotal := by cases c <;> rfl
@[simp] theorem modRegs_wideGib (s : State) (c : CoreId) (f : Regs → Regs) : (modRegs s c f).wideGib = s.wideGib := by cases c <;> rfl
@[simp] theorem modRegs_scrubHours (s : State) (c : CoreId) (f : Regs → Regs) : (modRegs s c f).scrubHours = s.scrubHours := by cases c <;> rfl
@[simp] theorem modRegs_pcUeLimit (s : State) (c : CoreId) (f : Regs → Regs) : (modRegs s c f).pcUeLimit = s.pcUeLimit := by cases c <;> rfl
@[simp] theorem modRegs_bankUeLimit (s : State) (c : CoreId) (f : Regs → Regs) : (modRegs s c f).bankUeLimit = s.bankUeLimit := by cases c <;> rfl
@[simp] theorem modRegs_atomicOps (s : State) (c : CoreId) (f : Regs → Regs) : (modRegs s c f).atomicOps = s.atomicOps := by cases c <;> rfl
@[simp] theorem modRegs_fab (s : State) (c : CoreId) (f : Regs → Regs) : (modRegs s c f).fab = s.fab := by cases c <;> rfl
@[simp] theorem modRegs_parts (s : State) (c : CoreId) (f : Regs → Regs) : (modRegs s c f).parts = s.parts := by cases c <;> rfl
@[simp] theorem modRegs_ports (s : State) (c : CoreId) (f : Regs → Regs) : (modRegs s c f).ports = s.ports := by cases c <;> rfl
@[simp] theorem modRegs_dict (s : State) (c : CoreId) (f : Regs → Regs) : (modRegs s c f).dict = s.dict := by cases c <;> rfl
@[simp] theorem modRegs_i3c (s : State) (c : CoreId) (f : Regs → Regs) : (modRegs s c f).i3c = s.i3c := by cases c <;> rfl
@[simp] theorem modRegs_ev (s : State) (c : CoreId) (f : Regs → Regs) : (modRegs s c f).ev = s.ev := by cases c <;> rfl
@[simp] theorem modRegs_clusters (s : State) (c : CoreId) (f : Regs → Regs) : (modRegs s c f).clusters = s.clusters := by cases c <;> rfl
@[simp] theorem modRegs_pw (s : State) (c : CoreId) (f : Regs → Regs) : (modRegs s c f).pw = s.pw := by cases c <;> rfl
@[simp] theorem modRegs_crc (s : State) (c : CoreId) (f : Regs → Regs) : (modRegs s c f).crc = s.crc := by cases c <;> rfl
@[simp] theorem modRegs_twin (s : State) (c : CoreId) (f : Regs → Regs) : (modRegs s c f).twin = s.twin := by cases c <;> rfl
@[simp] theorem modRegs_fz (s : State) (c : CoreId) (f : Regs → Regs) : (modRegs s c f).fz = s.fz := by cases c <;> rfl
@[simp] theorem modRegs_dieFenced (s : State) (c : CoreId) (f : Regs → Regs) : (modRegs s c f).dieFenced = s.dieFenced := by cases c <;> rfl
@[simp] theorem modRegs_outs (s : State) (c : CoreId) (f : Regs → Regs) : (modRegs s c f).outs = s.outs := by cases c <;> rfl
@[simp] theorem modRegs_free (s : State) (c : CoreId) (f : Regs → Regs) : (modRegs s c f).free = s.free := by cases c <;> rfl
@[simp] theorem modRegs_pending (s : State) (c : CoreId) (f : Regs → Regs) : (modRegs s c f).pending = s.pending := by cases c <;> rfl

/-! ### The draws of free values -/

@[simp] theorem drawWord_boot (s : State) : (drawWord s).2.boot = s.boot := rfl
@[simp] theorem drawWord_seq (s : State) : (drawWord s).2.seq = s.seq := rfl
@[simp] theorem drawWord_eng (s : State) : (drawWord s).2.eng = s.eng := rfl
@[simp] theorem drawWord_sv (s : State) : (drawWord s).2.sv = s.sv := rfl
@[simp] theorem drawWord_ls (s : State) : (drawWord s).2.ls = s.ls := rfl
@[simp] theorem drawWord_mem (s : State) : (drawWord s).2.mem = s.mem := rfl
@[simp] theorem drawWord_stk (s : State) : (drawWord s).2.stk = s.stk := rfl
@[simp] theorem drawWord_banks (s : State) : (drawWord s).2.banks = s.banks := rfl
@[simp] theorem drawWord_ceTotal (s : State) : (drawWord s).2.ceTotal = s.ceTotal := rfl
@[simp] theorem drawWord_ueTotal (s : State) : (drawWord s).2.ueTotal = s.ueTotal := rfl
@[simp] theorem drawWord_wideGib (s : State) : (drawWord s).2.wideGib = s.wideGib := rfl
@[simp] theorem drawWord_scrubHours (s : State) : (drawWord s).2.scrubHours = s.scrubHours := rfl
@[simp] theorem drawWord_pcUeLimit (s : State) : (drawWord s).2.pcUeLimit = s.pcUeLimit := rfl
@[simp] theorem drawWord_bankUeLimit (s : State) : (drawWord s).2.bankUeLimit = s.bankUeLimit := rfl
@[simp] theorem drawWord_atomicOps (s : State) : (drawWord s).2.atomicOps = s.atomicOps := rfl
@[simp] theorem drawWord_fab (s : State) : (drawWord s).2.fab = s.fab := rfl
@[simp] theorem drawWord_parts (s : State) : (drawWord s).2.parts = s.parts := rfl
@[simp] theorem drawWord_ports (s : State) : (drawWord s).2.ports = s.ports := rfl
@[simp] theorem drawWord_dict (s : State) : (drawWord s).2.dict = s.dict := rfl
@[simp] theorem drawWord_i3c (s : State) : (drawWord s).2.i3c = s.i3c := rfl
@[simp] theorem drawWord_ev (s : State) : (drawWord s).2.ev = s.ev := rfl
@[simp] theorem drawWord_clusters (s : State) : (drawWord s).2.clusters = s.clusters := rfl
@[simp] theorem drawWord_pw (s : State) : (drawWord s).2.pw = s.pw := rfl
@[simp] theorem drawWord_crc (s : State) : (drawWord s).2.crc = s.crc := rfl
@[simp] theorem drawWord_twin (s : State) : (drawWord s).2.twin = s.twin := rfl
@[simp] theorem drawWord_fz (s : State) : (drawWord s).2.fz = s.fz := rfl
@[simp] theorem drawWord_dieFenced (s : State) : (drawWord s).2.dieFenced = s.dieFenced := rfl
@[simp] theorem drawWord_outs (s : State) : (drawWord s).2.outs = s.outs := rfl
@[simp] theorem drawWord_pending (s : State) : (drawWord s).2.pending = s.pending := rfl
@[simp] theorem drawWord_free (s : State) : (drawWord s).2.free = s.free + 1 := rfl

@[simp] theorem drawNat_boot (s : State) : (drawNat s).2.boot = s.boot := rfl
@[simp] theorem drawNat_seq (s : State) : (drawNat s).2.seq = s.seq := rfl
@[simp] theorem drawNat_eng (s : State) : (drawNat s).2.eng = s.eng := rfl
@[simp] theorem drawNat_sv (s : State) : (drawNat s).2.sv = s.sv := rfl
@[simp] theorem drawNat_ls (s : State) : (drawNat s).2.ls = s.ls := rfl
@[simp] theorem drawNat_mem (s : State) : (drawNat s).2.mem = s.mem := rfl
@[simp] theorem drawNat_stk (s : State) : (drawNat s).2.stk = s.stk := rfl
@[simp] theorem drawNat_banks (s : State) : (drawNat s).2.banks = s.banks := rfl
@[simp] theorem drawNat_ceTotal (s : State) : (drawNat s).2.ceTotal = s.ceTotal := rfl
@[simp] theorem drawNat_ueTotal (s : State) : (drawNat s).2.ueTotal = s.ueTotal := rfl
@[simp] theorem drawNat_wideGib (s : State) : (drawNat s).2.wideGib = s.wideGib := rfl
@[simp] theorem drawNat_scrubHours (s : State) : (drawNat s).2.scrubHours = s.scrubHours := rfl
@[simp] theorem drawNat_pcUeLimit (s : State) : (drawNat s).2.pcUeLimit = s.pcUeLimit := rfl
@[simp] theorem drawNat_bankUeLimit (s : State) : (drawNat s).2.bankUeLimit = s.bankUeLimit := rfl
@[simp] theorem drawNat_atomicOps (s : State) : (drawNat s).2.atomicOps = s.atomicOps := rfl
@[simp] theorem drawNat_fab (s : State) : (drawNat s).2.fab = s.fab := rfl
@[simp] theorem drawNat_parts (s : State) : (drawNat s).2.parts = s.parts := rfl
@[simp] theorem drawNat_ports (s : State) : (drawNat s).2.ports = s.ports := rfl
@[simp] theorem drawNat_dict (s : State) : (drawNat s).2.dict = s.dict := rfl
@[simp] theorem drawNat_i3c (s : State) : (drawNat s).2.i3c = s.i3c := rfl
@[simp] theorem drawNat_ev (s : State) : (drawNat s).2.ev = s.ev := rfl
@[simp] theorem drawNat_clusters (s : State) : (drawNat s).2.clusters = s.clusters := rfl
@[simp] theorem drawNat_pw (s : State) : (drawNat s).2.pw = s.pw := rfl
@[simp] theorem drawNat_crc (s : State) : (drawNat s).2.crc = s.crc := rfl
@[simp] theorem drawNat_twin (s : State) : (drawNat s).2.twin = s.twin := rfl
@[simp] theorem drawNat_fz (s : State) : (drawNat s).2.fz = s.fz := rfl
@[simp] theorem drawNat_dieFenced (s : State) : (drawNat s).2.dieFenced = s.dieFenced := rfl
@[simp] theorem drawNat_outs (s : State) : (drawNat s).2.outs = s.outs := rfl
@[simp] theorem drawNat_pending (s : State) : (drawNat s).2.pending = s.pending := rfl
@[simp] theorem drawNat_free (s : State) : (drawNat s).2.free = s.free + 1 := rfl

/-! ### What an update reads back -/

theorem updV_same {α : Type} {n : Nat} (v : Vector α n) (i : Fin n) (f : α → α) : (updV v i f)[i] = f v[i] := by
  simp [updV]

theorem updV_other {α : Type} {n : Nat} (v : Vector α n) (i j : Fin n) (f : α → α) (h : i ≠ j) : (updV v i f)[j] = v[j] := by
  simp only [updV, Fin.getElem_fin]
  exact Vector.getElem_set_ne _ _ (fun e => h (Fin.ext e))

@[simp] theorem modSeq_same (s : State) (n : VeId) (f : Core → Core) : (modSeq s n f).seq[n] = f s.seq[n] := updV_same ..
theorem modSeq_other (s : State) (n m : VeId) (f : Core → Core) (h : n ≠ m) : (modSeq s n f).seq[m] = s.seq[m] := updV_other _ _ _ _ h
@[simp] theorem modEng_same (s : State) (n : VeId) (f : Engine → Engine) : (modEng s n f).eng[n] = f s.eng[n] := updV_same ..
theorem modEng_other (s : State) (n m : VeId) (f : Engine → Engine) (h : n ≠ m) : (modEng s n f).eng[m] = s.eng[m] := updV_other _ _ _ _ h
@[simp] theorem modPart_same (s : State) (p : PartId) (f : Partition → Partition) : (modPart s p f).parts[p] = f s.parts[p] := updV_same ..
theorem modPart_other (s : State) (p q : PartId) (f : Partition → Partition) (h : p ≠ q) : (modPart s p f).parts[q] = s.parts[q] :=
  updV_other _ _ _ _ h
@[simp] theorem modBank_same (s : State) (b : BankId) (f : Bank → Bank) : (modBank s b f).banks[b] = f s.banks[b] := updV_same ..
theorem modBank_other (s : State) (b d : BankId) (f : Bank → Bank) (h : b ≠ d) : (modBank s b f).banks[d] = s.banks[d] := updV_other _ _ _ _ h
@[simp] theorem modStack_same (s : State) (i : StackId) (f : Stack → Stack) : (modStack s i f).stk[i] = f s.stk[i] := updV_same ..
theorem modStack_other (s : State) (i j : StackId) (f : Stack → Stack) (h : i ≠ j) : (modStack s i f).stk[j] = s.stk[j] := updV_other _ _ _ _ h
@[simp] theorem modPort_same (s : State) (i : PortId) (f : Port → Port) : (modPort s i f).ports[i] = f s.ports[i] := updV_same ..
theorem modPort_other (s : State) (i j : PortId) (f : Port → Port) (h : i ≠ j) : (modPort s i f).ports[j] = s.ports[j] := updV_other _ _ _ _ h
@[simp] theorem modCluster_same (s : State) (i : ClusterId) (f : Cluster → Cluster) : (modCluster s i f).clusters[i] = f s.clusters[i] :=
  updV_same ..
theorem modCluster_other (s : State) (i j : ClusterId) (f : Cluster → Cluster) (h : i ≠ j) :
    (modCluster s i f).clusters[j] = s.clusters[j] := updV_other _ _ _ _ h
@[simp] theorem modCrc_same (s : State) (i : CrcId) (f : CrcUnit → CrcUnit) : (modCrc s i f).crc[i] = f s.crc[i] := updV_same ..
theorem modCrc_other (s : State) (i j : CrcId) (f : CrcUnit → CrcUnit) (h : i ≠ j) : (modCrc s i f).crc[j] = s.crc[j] := updV_other _ _ _ _ h

@[simp] theorem core_modCore (s : State) (c : CoreId) (f : Core → Core) : core (modCore s c f) c = f (core s c) := by
  cases c with
  | ve n => exact updV_same ..
  | sv => rfl

theorem core_modCore_other (s : State) (c d : CoreId) (f : Core → Core) (h : c ≠ d) : core (modCore s c f) d = core s d := by
  cases c with
  | ve n =>
    cases d with
    | ve m => exact updV_other _ _ _ _ (fun e => h (congrArg CoreId.ve e))
    | sv => rfl
  | sv =>
    cases d with
    | ve m => rfl
    | sv => exact absurd rfl h

@[simp] theorem core_modRegs (s : State) (c : CoreId) (f : Regs → Regs) :
    core (modRegs s c f) c = { core s c with r := f (core s c).r } := by
  simp [modRegs]

theorem core_modRegs_other (s : State) (c d : CoreId) (f : Regs → Regs) (h : c ≠ d) : core (modRegs s c f) d = core s d :=
  core_modCore_other _ _ _ _ h

@[simp] theorem emit_outs (s : State) (o : Out) : (emit s o).outs = s.outs ++ [o] := rfl

end Sys2Proof.Machine
end

