-- ==== Sys2Proof/Laws/Memory.lean ====
section
/-!
SUPPORT. The byte store: reading after writing, the canonical form kept by every operation on it, and what the shared memory
operations leave unchanged.
-/

namespace Sys2Proof.Machine

/-! ### One byte -/

/-- Every address that `m` lists is at least `b`. -/
def cellsFrom (b : Nat) (m : List Host.Cell) : Prop := ∀ p ∈ m, b ≤ p.1

theorem cellsWf_cons (a : Nat) (v : Byte) (r : List Host.Cell) :
    cellsWf ((a, v) :: r) = true ↔ v ≠ 0 ∧ cellsFrom (a + 1) r ∧ cellsWf r = true := by
  induction r generalizing a v with
  | nil => simp [cellsWf, cellsFrom]
  | cons p r ih =>
    obtain ⟨b, w⟩ := p
    have h := ih b w
    simp only [cellsWf, Bool.and_eq_true, bne_iff_ne, decide_eq_true_eq] at h ⊢
    constructor
    · rintro ⟨⟨hv, hab⟩, hr⟩
      refine ⟨hv, ?_, hr⟩
      intro p hp
      rcases List.mem_cons.1 hp with rfl | hp
      · exact hab
      · have := (h.1 hr).2.1 p hp
        omega
    · rintro ⟨hv, hf, hr⟩
      exact ⟨⟨hv, hf (b, w) (by simp)⟩, hr⟩

theorem cellsFrom_cellSet {b : Nat} {m : List Host.Cell} (hm : cellsFrom b m) {a : Nat} (ha : b ≤ a) (v : Byte) :
    cellsFrom b (cellSet m a v) := by
  induction m with
  | nil => unfold cellSet; split <;> simp [cellsFrom, ha]
  | cons p r ih =>
    obtain ⟨x, w⟩ := p
    have hx : b ≤ x := hm (x, w) (by simp)
    have hr : cellsFrom b r := fun p hp => hm p (by simp [hp])
    have hc : ∀ (y : Nat) (u : Byte) (q : List Host.Cell), b ≤ y → cellsFrom b q → cellsFrom b ((y, u) :: q) := by
      intro y u q hy hq p hp
      rcases List.mem_cons.1 hp with rfl | hp
      · exact hy
      · exact hq p hp
    unfold cellSet
    split
    · split
      · exact hm
      · exact hc _ _ _ ha hm
    · split
      · split
        · exact hr
        · exact hc _ _ _ ha hr
      · exact hc _ _ _ hx (ih hr)

theorem cellsFrom_mono {a b : Nat} {m : List Host.Cell} (h : a ≤ b) (hm : cellsFrom b m) : cellsFrom a m :=
  fun p hp => Nat.le_trans h (hm p hp)

/-- A write of a byte keeps the canonical form. -/
theorem cellsWf_cellSet {m : List Host.Cell} (hm : cellsWf m = true) (a : Nat) (v : Byte) : cellsWf (cellSet m a v) = true := by
  induction m with
  | nil => unfold cellSet; split <;> simp_all [cellsWf]
  | cons p r ih =>
    obtain ⟨x, w⟩ := p
    obtain ⟨hw, hf, hr⟩ := (cellsWf_cons x w r).1 hm
    unfold cellSet
    split
    · split
      · exact hm
      · refine (cellsWf_cons _ _ _).2 ⟨‹_›, ?_, hm⟩
        intro p hp
        rcases List.mem_cons.1 hp with rfl | hp
        · show a + 1 ≤ x
          omega
        · have := hf p hp
          omega
    · split
      · subst_vars
        split
        · exact hr
        · exact (cellsWf_cons _ _ _).2 ⟨‹_›, hf, hr⟩
      · exact (cellsWf_cons _ _ _).2 ⟨hw, cellsFrom_cellSet hf (by omega) v, ih hr⟩

theorem cellGet_below {m : List Host.Cell} {b a : Nat} (hm : cellsFrom b m) (ha : a < b) : cellGet m a = 0 := by
  cases m with
  | nil => rfl
  | cons p r =>
    obtain ⟨x, w⟩ := p
    have hx : b ≤ x := hm (x, w) (by simp)
    simp [cellGet, show a < x by omega]

/-- A read of the byte that was written gives the value written. -/
theorem cellGet_cellSet_same {m : List Host.Cell} (hm : cellsWf m = true) (a : Nat) (v : Byte) : cellGet (cellSet m a v) a = v := by
  induction m with
  | nil => unfold cellSet; split <;> simp_all [cellGet]
  | cons p r ih =>
    obtain ⟨x, w⟩ := p
    obtain ⟨hw, hf, hr⟩ := (cellsWf_cons x w r).1 hm
    unfold cellSet
    split
    · split
      · simp_all [cellGet]
      · simp [cellGet]
    · split
      · subst_vars
        split
        · subst_vars
          exact cellGet_below hf (by omega)
        · simp [cellGet]
      · simp [cellGet, *]

/-- A write of a byte leaves every other byte alone. -/
theorem cellGet_cellSet_other {m : List Host.Cell} (hm : cellsWf m = true) {a b : Nat} (h : b ≠ a) (v : Byte) :
    cellGet (cellSet m a v) b = cellGet m b := by
  induction m with
  | nil =>
    unfold cellSet
    split
    · rfl
    · simp [cellGet, h]
  | cons p r ih =>
    obtain ⟨x, w⟩ := p
    obtain ⟨hw, hf, hr⟩ := (cellsWf_cons x w r).1 hm
    unfold cellSet
    split
    · split
      · rfl
      · by_cases hb : b < a
        · simp [cellGet, hb, show b < x by omega]
        · simp [cellGet, hb, h]
    · split
      · subst_vars
        by_cases hb : b < x
        · have h0 : cellGet r b = 0 := cellGet_below hf (by omega)
          split <;> simp [cellGet, hb, h0]
        · split <;> simp [cellGet, hb, h]
      · simp only [cellGet, ih hr]

/-! ### Runs of bytes -/

theorem cellsWf_cellsSet {m : List Host.Cell} (hm : cellsWf m = true) (a : Nat) (l : List Byte) : cellsWf (cellsSet m a l) = true := by
  induction l generalizing m a with
  | nil => exact hm
  | cons v l ih => exact ih (cellsWf_cellSet hm a v) (a + 1)

/-- What a run of bytes written reads back as. -/
theorem cellGet_cellsSet {m : List Host.Cell} (hm : cellsWf m = true) (a b : Nat) (l : List Byte) :
    cellGet (cellsSet m a l) b = if h : a ≤ b ∧ b < a + l.length then l[b - a]'(by omega) else cellGet m b := by
  induction l generalizing m a with
  | nil => simp [cellsSet, show ¬ (a ≤ b ∧ b < a) by omega]
  | cons v l ih =>
    rw [cellsSet, ih (cellsWf_cellSet hm a v) (a + 1)]
    by_cases hb : b = a
    · subst hb
      simp [cellGet_cellSet_same hm]
    · rw [cellGet_cellSet_other hm hb]
      by_cases h1 : a + 1 ≤ b ∧ b < a + 1 + l.length
      · have h2 : a ≤ b ∧ b < a + (v :: l).length := by simp only [List.length_cons]; omega
        simp only [h1, h2, and_self, dite_true]
        obtain ⟨k, hk⟩ : ∃ k, b = a + 1 + k := ⟨b - (a + 1), by omega⟩
        subst hk
        simp [show a + 1 + k - (a + 1) = k by omega, show a + 1 + k - a = k + 1 by omega]
      · have h2 : ¬ (a ≤ b ∧ b < a + (v :: l).length) := by simp only [List.length_cons]; omega
        simp only [h1, h2, dite_false]

theorem cellsWf_filter {m : List Host.Cell} (hm : cellsWf m = true) (f : Host.Cell → Bool) : cellsWf (m.filter f) = true := by
  induction m with
  | nil => rfl
  | cons p r ih =>
    obtain ⟨x, w⟩ := p
    obtain ⟨hw, hf, hr⟩ := (cellsWf_cons x w r).1 hm
    rw [List.filter_cons]
    split
    · refine (cellsWf_cons _ _ _).2 ⟨hw, fun p hp => hf p (List.mem_filter.1 hp).1, ih hr⟩
    · exact ih hr

/-! ### The store -/

theorem Memory.wf_iff (m : Store) : Memory.wf m = true ↔ cellsWf m.cells = true ∧ cellsWf m.ram = true := by
  simp [Memory.wf]

theorem Memory.wf_wordSet {m : Store} (h : Memory.wf m = true) (w : Nat) (v : W128) : Memory.wf (wordSet m w v) = true := by
  rw [Memory.wf_iff] at h ⊢
  exact ⟨cellsWf_cellsSet h.1 _ _, h.2⟩

theorem Memory.wf_wordPoison {m : Store} (h : Memory.wf m = true) (w : Nat) (v : W128) : Memory.wf (wordPoison m w v) = true :=
  Memory.wf_wordSet h w v

theorem Memory.wf_addUpset {m : Store} (h : Memory.wf m = true) (u : Upset) : Memory.wf (addUpset m u) = true := by
  unfold addUpset
  split <;> exact h

/-- A state with the same byte stores has the invariant too. -/
theorem Inv.of_mem {s t : State} (h : Inv s) (e : t.mem = s.mem) : Inv t := by unfold Inv at *; rw [e]; exact h

theorem Inv.of_cells {s t : State} (h : Inv s) (e : t.mem.cells = s.mem.cells) (e' : t.mem.ram = s.mem.ram) : Inv t := by
  unfold Inv at *
  rw [Memory.wf_iff] at h ⊢
  rw [e, e']
  exact h

theorem inv_addUpsets {s : State} (h : Inv s) (us : List Upset) : Inv (addUpsets s us) := by
  suffices ∀ m : Store, Memory.wf m = true → Memory.wf (us.foldl addUpset m) = true from this _ h
  induction us with
  | nil => exact fun m hm => hm
  | cons u us ih => exact fun m hm => ih _ (Memory.wf_addUpset hm u)

/-- The machine after reset lists no byte. -/
theorem inv_reset : Inv State.reset := rfl

/-! ### Reporting leaves memory alone -/


/-- What setting an alert cause can change. -/
theorem setAlert_frame (s : State) (i : Nat) :
    ∃ d a o, setAlert s i = { s with dict := { s.dict with alertCause := d }, i3c := { s.i3c with ibiAlert := a }, outs := o } := by
  unfold setAlert
  split
  · exact ⟨_, s.i3c.ibiAlert, s.outs, rfl⟩
  · split
    · exact ⟨_, s.i3c.ibiAlert, _, rfl⟩
    · exact ⟨_, true, s.outs, rfl⟩

/-- What raising an event can change: its latch, the alert cause with its in-band interrupt, and the outputs. -/
theorem raise_frame (s : State) (x : SrcId) (dt : W32) :
    ∃ l d a o, raise s x dt = { s with
      ev := { s.ev with latches := l }, dict := { s.dict with alertCause := d }, i3c := { s.i3c with ibiAlert := a }, outs := o } := by
  obtain ⟨l, hl⟩ : ∃ l, raise s x dt = (match alertBit x dt with
      | some i => if s.ev.started then setAlert { s with ev := { s.ev with latches := l } } i
        else { s with ev := { s.ev with latches := l } }
      | none => { s with ev := { s.ev with latches := l } }) := ⟨_, rfl⟩
  rw [hl]
  split
  · split
    · rename_i i _ _
      obtain ⟨d, a, o, h⟩ := setAlert_frame { s with ev := { s.ev with latches := l } } i
      exact ⟨l, d, a, o, h⟩
    · exact ⟨l, s.dict.alertCause, s.i3c.ibiAlert, s.outs, rfl⟩
  · exact ⟨l, s.dict.alertCause, s.i3c.ibiAlert, s.outs, rfl⟩

theorem raiseN_frame (s : State) (x : Nat) (dt : W32) :
    ∃ l d a o, raiseN s x dt = { s with
      ev := { s.ev with latches := l }, dict := { s.dict with alertCause := d }, i3c := { s.i3c with ibiAlert := a }, outs := o } := by
  unfold raiseN
  split
  · exact raise_frame s _ dt
  · exact ⟨s.ev.latches, s.dict.alertCause, s.i3c.ibiAlert, s.outs, rfl⟩

@[simp] theorem setAlert_mem (s : State) (i : Nat) : (setAlert s i).mem = s.mem := by
  obtain ⟨d, a, o, h⟩ := setAlert_frame s i
  rw [h]

@[simp] theorem raise_mem (s : State) (x : SrcId) (dt : W32) : (raise s x dt).mem = s.mem := by
  obtain ⟨l, d, a, o, h⟩ := raise_frame s x dt
  rw [h]

@[simp] theorem raiseN_mem (s : State) (x : Nat) (dt : W32) : (raiseN s x dt).mem = s.mem := by
  obtain ⟨l, d, a, o, h⟩ := raiseN_frame s x dt
  rw [h]

@[simp] theorem i3cReady_mem (s : State) : (i3cReady s).mem = s.mem := by
  unfold i3cReady
  simp only
  split
  · rfl
  · split <;> rfl

@[simp] theorem portAbort_mem (s : State) (h : PortId) (ix sub : Nat) (w : Bool) (c : Nat) : (portAbort s h ix sub w c).mem = s.mem := rfl

@[simp] theorem dictRefuse_mem (s : State) (r : Requester) (ix sub : Nat) (w : Bool) (c : Nat) : (dictRefuse s r ix sub w c).mem = s.mem := by
  unfold dictRefuse
  split
  · simp
  · simp only [emit_mem]
    split <;> simp

@[simp] theorem refuseHeld_mem (s : State) (r : Requester) (ix sub c : Nat) : (refuseHeld s r ix sub c).mem = s.mem := by
  unfold refuseHeld
  split <;> simp

@[simp] theorem fenceEvent_mem (s : State) (k n r : Nat) : (fenceEvent s k n r).mem = s.mem := by simp [fenceEvent]

@[simp] theorem hitParts_mem (s : State) (m : W16) : (hitParts s m).mem = s.mem := rfl

@[simp] theorem fencePc_mem (s : State) (st : StackId) (c r : Nat) : (fencePc s st c r).mem = s.mem := by
  unfold fencePc
  split <;> simp

@[simp] theorem fenceStack_mem (s : State) (st : StackId) (r : Nat) : (fenceStack s st r).mem = s.mem := by
  unfold fenceStack
  split <;> simp

@[simp] theorem bankEvent_mem (s : State) (b : BankId) (k c l : Nat) : (bankEvent s b k c l).mem = s.mem := by simp [bankEvent]

@[simp] theorem fenceBank_mem (s : State) (b : BankId) (r : Nat) : (fenceBank s b r).mem = s.mem := by
  have hf : ∀ (l : List HeldFrag) (t : State), (l.foldl (fun t h => emit t (.bus h.frag.master h.frag.tag [] 8)) t).mem = t.mem := by
    intro l
    induction l with
    | nil => exact fun t => rfl
    | cons h l ih => exact fun t => ih _
  unfold fenceBank
  split
  · rfl
  · simp only [fenceEvent_mem, bankEvent_mem]
    split <;> simp [hf]

/-! ### Accesses keep the canonical form -/

theorem corrected_mem (s : State) (u : MemUnit) (code w : Nat) :
    (corrected s u code w).mem = { s.mem with writeBack := insertAsc w s.mem.writeBack } := by
  unfold corrected
  cases u <;> simp only <;> split <;> simp

theorem uncorrectable_mem (s : State) (u : MemUnit) (code w : Nat) (v : W128) :
    (uncorrectable s u code w v).mem = wordPoison s.mem w v := by
  unfold uncorrectable
  cases u <;> simp only <;> split <;> simp

@[simp] theorem poisonedRead_mem (s : State) (u : MemUnit) (code w : Nat) : (poisonedRead s u code w).mem = s.mem := by
  cases u <;> simp [poisonedRead]

@[simp] theorem nonOwner_mem (s : State) (b : BankId) (code w : Nat) (wr : Bool) : (nonOwner s b code w wr).mem = s.mem := by
  simp [nonOwner]

theorem inv_corrected {s : State} (h : Inv s) (u : MemUnit) (code w : Nat) : Inv (corrected s u code w) :=
  Inv.of_cells h (by rw [corrected_mem]) (by rw [corrected_mem])

theorem inv_uncorrectable {s : State} (h : Inv s) (u : MemUnit) (code w : Nat) (v : W128) : Inv (uncorrectable s u code w v) := by
  unfold Inv
  rw [uncorrectable_mem]
  exact Memory.wf_wordPoison h w v

theorem inv_checkWord {s : State} (h : Inv s) (u : MemUnit) (code w : Nat) : Inv (checkWord s u code w).s := by
  unfold checkWord
  simp only
  split
  · split
    · exact inv_uncorrectable h _ _ _ _
    · split
      · exact Inv.of_mem (inv_corrected h u code w) (by simp)
      · exact inv_corrected h u code w
  · split
    · exact Inv.of_mem h (by simp)
    · exact h

/-- A read of a word keeps the canonical form: only an uncorrectable word is rewritten (R221). -/
theorem inv_readWord {s : State} (h : Inv s) (d code a : Nat) : Inv (readWord s d code a).s := by
  unfold readWord
  split
  · exact h
  · split
    · exact h
    · split
      · split
        · exact inv_checkWord h _ _ _
        · exact h
        · exact Inv.of_mem h (nonOwner_mem _ _ _ _ _)
      · exact inv_checkWord h _ _ _

theorem inv_tapWord {s : State} (h : Inv s) (d : Nat) (b : BankId) (code a : Nat) : Inv (tapWord s d b code a).s := by
  unfold tapWord
  split
  · exact h
  · exact inv_checkWord h _ _ _

theorem inv_wordSet {s : State} (h : Inv s) (w : Nat) (v : W128) : Inv { s with mem := wordSet s.mem w v } := Memory.wf_wordSet h w v

theorem inv_orWord {s : State} (h : Inv s) (d a : Nat) (v : W128) : Inv (orWord s d a v) := by
  unfold orWord
  split
  · rename_i st c row word _
    split
    · exact h
    · extract_lets r
      have hr : Inv r.s := inv_checkWord h _ _ _
      clear_value r
      split
      · exact hr
      · exact Memory.wf_wordSet hr _ _
  · exact h

theorem inv_dirtyMark {s : State} (h : Inv s) (a : Nat) : Inv (dirtyMark s a) := by
  unfold dirtyMark
  simp only
  split
  · exact h
  · split
    · exact h
    · split
      · exact inv_orWord h _ _ _
      · exact h

theorem inv_writeMasked {s : State} (h : Inv s) (d code a : Nat) (v : W128) (m : List Bool) : Inv (writeMasked s d code a v m).s := by
  unfold writeMasked
  split
  · exact h
  · rename_i u _
    have hc := inv_checkWord h u code (a / 16)
    by_cases hf : unitFenced s d u = true
    · rw [if_pos hf]
      exact h
    · rw [if_neg hf]
      extract_lets own r
      clear_value own
      by_cases h9 : own = 9
      · rw [if_pos h9]
        exact h
      · rw [if_neg h9]
        by_cases h0 : own ≠ 0
        · rw [if_pos h0]
          cases u
          · exact h
          · exact Inv.of_mem h (nonOwner_mem _ _ _ _ _)
        · rw [if_neg h0]
          have hr : Inv r.s := hc
          clear_value r
          split
          · exact inv_dirtyMark (inv_wordSet h _ _) _
          · split
            · exact hr
            · exact inv_dirtyMark (inv_wordSet hr _ _) _

theorem inv_atomicWord {s : State} (h : Inv s) (d a : Nat) (f : W128 → W128) : Inv (atomicWord s d a f).s := by
  unfold atomicWord
  split
  · rename_i st c row word _
    split
    · exact h
    · extract_lets r
      have hr : Inv r.s := inv_checkWord h _ _ _
      clear_value r
      split
      · exact hr
      · exact inv_dirtyMark (s := { r.s with mem := wordSet r.s.mem (a / 16) (f r.data), atomicOps := r.s.atomicOps + 1 })
          (Memory.wf_wordSet hr _ _) a
  · exact h

@[simp] theorem portTake_mem (s : State) (m : MasterKind) : (portTake s m).mem = s.mem := by cases m <;> rfl

@[simp] theorem bridgesTake_mem (slot : Nat) (w : List (Nat × Nat)) (s : State) : (bridgesTake slot w s).mem = s.mem := by
  induction w generalizing slot s with
  | nil => rfl
  | cons x w ih => exact ih _ _

@[simp] theorem crossWay_mem (m : MasterKind) (w : List (Nat × Nat)) (s : State) : (crossWay m w s).mem = s.mem := by
  unfold crossWay
  split <;> rfl

@[simp] theorem targetTake_mem (s : State) (m : MasterKind) (t : Bool) (u : MemUnit) : (targetTake s m t u).mem = s.mem := by
  cases u with
  | pc => rfl
  | bank b => cases t <;> rfl

@[simp] theorem pathTake_mem (s : State) (m : MasterKind) (u : MemUnit) (t : Bool) : (pathTake s m u t).mem = s.mem := by simp [pathTake]

/-- An access by the arbiters on its way keeps the canonical form if what serves it at its target does. -/
theorem inv_via {s : State} (h : Inv s) (m : MasterKind) (a : Nat) {f : State → Acc} (hf : ∀ t, Inv t → Inv (f t).s) : Inv (via s m a f).s := by
  unfold via
  split
  · exact h
  · split
    · exact h
    · split
      · exact h
      · exact hf _ (Inv.of_mem h (pathTake_mem _ _ _ _))

theorem inv_readPart {s : State} (h : Inv s) (p : PartId) (d : MasterKind) (code : Nat) (sp : Bool) (x : Nat) : Inv (readPart s p d code sp x).s := by
  unfold readPart
  split
  · exact inv_via h _ _ fun t ht => inv_readWord ht _ _ _
  · exact h

theorem inv_writePart {s : State} (h : Inv s) (p : PartId) (d : MasterKind) (code : Nat) (sp : Bool) (x : Nat) (v : W128) (m : List Bool) :
    Inv (writePart s p d code sp x v m).s := by
  unfold writePart
  split
  · exact inv_via h _ _ fun t ht => inv_writeMasked ht _ _ _ _ _
  · exact h

theorem inv_readRun {s : State} (h : Inv s) (p : PartId) (d : MasterKind) (code : Nat) (sp : Bool) (x n : Nat) :
    Inv (readRun s p d code sp x n).2.2 := by
  induction n generalizing s x with
  | zero => exact h
  | succ n ih =>
    unfold readRun
    simp only
    split
    · exact inv_readPart h _ _ _ _ _
    · exact ih (inv_readPart h _ _ _ _ _) _

theorem inv_writeRun {s : State} (h : Inv s) (p : PartId) (d : MasterKind) (code : Nat) (sp : Bool) (x : Nat) (l : List W128) :
    Inv (writeRun s p d code sp x l).2 := by
  induction l generalizing s x with
  | nil => exact h
  | cons v l ih =>
    unfold writeRun
    simp only
    split
    · exact inv_writePart h _ _ _ _ _ _ _
    · exact ih (inv_writePart h _ _ _ _ _ _ _) _

end Sys2Proof.Machine
end

