-- ==== Sys2Proof/Laws/Fetch.lean ====
section
/-!
SUPPORT. What a read of memory can change, and what the fetch of an instruction leaves as it is.
-/

namespace Sys2Proof.Machine

/-! ### Reads -/

theorem ReadKeeps.refl (s : State) : ReadKeeps s s := rfl

theorem ReadKeeps.trans {s t u : State} (h : ReadKeeps s t) (k : ReadKeeps t u) : ReadKeeps s u := by
  unfold ReadKeeps at *
  rw [k, h]

theorem raiseN_keeps (s : State) (x : Nat) (dt : W32) : ReadKeeps s (raiseN s x dt) := by
  obtain ⟨l, d, a, o, h⟩ := raiseN_frame s x dt
  rw [h]
  rfl

theorem i3cReady_keeps (s : State) : ReadKeeps s (i3cReady s) := by
  unfold i3cReady
  split
  · rfl
  · simp only
    split <;> rfl

theorem dictRefuse_keeps (s : State) (r : Requester) (ix sub : Nat) (w : Bool) (c : Nat) : ReadKeeps s (dictRefuse s r ix sub w c) := by
  unfold dictRefuse
  split
  · exact ReadKeeps.trans (t := { s with i3c := { s.i3c with busy := true, ready := false, resp := respRefused (s.i3c.lastSeq.getD 0) c } }) rfl
      (i3cReady_keeps _)
  · simp only
    split <;> rfl

theorem refuseHeld_keeps (s : State) (r : Requester) (ix sub c : Nat) : ReadKeeps s (refuseHeld s r ix sub c) := by
  unfold refuseHeld
  split
  · rfl
  · exact dictRefuse_keeps _ _ _ _ _ _

theorem fenceEvent_keeps (s : State) (k n r : Nat) : ReadKeeps s (fenceEvent s k n r) :=
  ReadKeeps.trans (t := { s with ls := { s.ls with fenceNotice := true } }) rfl (raiseN_keeps _ _ _)

theorem bankEvent_keeps (s : State) (b : BankId) (k c l : Nat) : ReadKeeps s (bankEvent s b k c l) := raiseN_keeps _ _ _

theorem modStack_keeps (s : State) (i : StackId) (f : Stack → Stack) : ReadKeeps s (modStack s i f) := rfl
theorem modBank_keeps (s : State) (b : BankId) (f : Bank → Bank) : ReadKeeps s (modBank s b f) := rfl
theorem emit_keeps (s : State) (o : Out) : ReadKeeps s (emit s o) := rfl
theorem hitParts_keeps (s : State) (m : W16) : ReadKeeps s (hitParts s m) := rfl

theorem fencePc_keeps (s : State) (st : StackId) (c r : Nat) : ReadKeeps s (fencePc s st c r) := by
  unfold fencePc
  split
  · rfl
  · exact (((hitParts_keeps _ _).trans (modStack_keeps _ _ _)).trans (raiseN_keeps _ _ _)).trans (fenceEvent_keeps _ _ _ _)

theorem foldl_keeps {α : Type} (f : State → α → State) (hf : ∀ t a, ReadKeeps t (f t a)) (l : List α) (s : State) :
    ReadKeeps s (l.foldl f s) := by
  induction l generalizing s with
  | nil => rfl
  | cons a l ih => exact (hf s a).trans (ih _)

theorem fenceBank_keeps (s : State) (b : BankId) (r : Nat) : ReadKeeps s (fenceBank s b r) := by
  unfold fenceBank
  split
  · rfl
  · refine ReadKeeps.trans ?_ (fenceEvent_keeps _ _ _ _)
    refine ReadKeeps.trans ?_ (bankEvent_keeps _ _ _ _ _)
    have h1 : ∀ m : W16, ReadKeeps s (modBank (s.banks[b].held.foldl (fun t h => emit t (.bus h.frag.master h.frag.tag [] 8)) (hitParts s m)) b
        fun k => { k with fenced := true, drain := none, held := [], waiters := [] }) := fun m =>
      ((hitParts_keeps _ _).trans (foldl_keeps _ (fun _ _ => emit_keeps _ _) _ _)).trans (modBank_keeps _ _ _)
    split
    · exact (h1 _).trans (refuseHeld_keeps _ _ _ _ _)
    · exact h1 _

theorem corrected_keeps (s : State) (u : MemUnit) (code w : Nat) : ReadKeeps s (corrected s u code w) := by
  have h0 : ∀ (t : State), t = { s with ceTotal := satInc s.ceTotal, mem := { s.mem with writeBack := insertAsc w s.mem.writeBack } } →
      ReadKeeps s t := fun t h => h ▸ rfl
  unfold corrected
  cases u
  · simp only
    split
    · exact ((h0 _ rfl).trans (modStack_keeps _ _ _)).trans (raiseN_keeps _ _ _)
    · exact (h0 _ rfl).trans (modStack_keeps _ _ _)
  · simp only
    split
    · exact ((h0 _ rfl).trans (modBank_keeps _ _ _)).trans (bankEvent_keeps _ _ _ _ _)
    · exact (h0 _ rfl).trans (modBank_keeps _ _ _)

theorem uncorrectable_keeps (s : State) (u : MemUnit) (code w : Nat) (v : W128) : ReadKeeps s (uncorrectable s u code w v) := by
  have h0 : ∀ (t : State), t = { s with ueTotal := satInc s.ueTotal, mem := wordPoison s.mem w v } → ReadKeeps s t := fun t h => h ▸ rfl
  unfold uncorrectable
  cases u
  · simp only
    split
    · exact (((h0 _ rfl).trans (modStack_keeps _ _ _)).trans (raiseN_keeps _ _ _)).trans (fencePc_keeps _ _ _ _)
    · exact ((h0 _ rfl).trans (modStack_keeps _ _ _)).trans (raiseN_keeps _ _ _)
  · simp only
    split
    · exact (((h0 _ rfl).trans (modBank_keeps _ _ _)).trans (bankEvent_keeps _ _ _ _ _)).trans (fenceBank_keeps _ _ _)
    · exact ((h0 _ rfl).trans (modBank_keeps _ _ _)).trans (bankEvent_keeps _ _ _ _ _)

theorem poisonedRead_keeps (s : State) (u : MemUnit) (code w : Nat) : ReadKeeps s (poisonedRead s u code w) := by
  cases u
  · exact raiseN_keeps _ _ _
  · exact bankEvent_keeps _ _ _ _ _

theorem checkWord_keeps (s : State) (u : MemUnit) (code w : Nat) : ReadKeeps s (checkWord s u code w).s := by
  unfold checkWord
  simp only
  split
  · split
    · exact uncorrectable_keeps _ _ _ _ _
    · split
      · exact (corrected_keeps _ _ _ _).trans (poisonedRead_keeps _ _ _ _)
      · exact corrected_keeps _ _ _ _
  · split
    · exact poisonedRead_keeps _ _ _ _
    · rfl

theorem nonOwner_keeps (s : State) (b : BankId) (code w : Nat) (wr : Bool) : ReadKeeps s (nonOwner s b code w wr) :=
  (modBank_keeps _ _ _).trans (bankEvent_keeps _ _ _ _ _)

theorem readWord_keeps (s : State) (d code a : Nat) : ReadKeeps s (readWord s d code a).s := by
  unfold readWord
  split
  · rfl
  · split
    · rfl
    · split
      · split
        · exact checkWord_keeps _ _ _ _
        · rfl
        · exact nonOwner_keeps _ _ _ _ _
      · exact checkWord_keeps _ _ _ _

/-- On memory without errors a read that is served changes nothing. -/
theorem checkWord_clean {s : State} (hp : s.mem.poison = []) (hl : s.mem.latent = []) (u : MemUnit) (code w : Nat) :
    checkWord s u code w = { data := wordGet s.mem w, status := 0, s := s } := by
  simp [checkWord, hp, hl]

theorem portTake_keeps (s : State) (m : MasterKind) : ReadKeeps s (portTake s m) := by cases m <;> rfl

theorem bridgesTake_keeps (slot : Nat) (w : List (Nat × Nat)) (s : State) : ReadKeeps s (bridgesTake slot w s) := by
  induction w generalizing slot s with
  | nil => rfl
  | cons x w ih =>
    refine ReadKeeps.trans (t := { s with fab := { s.fab with bridgeArb := _ } }) rfl (ih _ _)

theorem crossWay_keeps (m : MasterKind) (w : List (Nat × Nat)) (s : State) : ReadKeeps s (crossWay m w s) := by
  unfold crossWay
  split <;> rfl

theorem targetTake_keeps (s : State) (m : MasterKind) (t : Bool) (u : MemUnit) : ReadKeeps s (targetTake s m t u) := by
  cases u with
  | pc => rfl
  | bank b => cases t <;> rfl

/-- A request on its way to its target changes the arbiters that grant it and the bridges it crosses, and nothing else. -/
theorem pathTake_keeps (s : State) (m : MasterKind) (u : MemUnit) (t : Bool) : ReadKeeps s (pathTake s m u t) :=
  (((portTake_keeps _ _).trans (bridgesTake_keeps _ _ _)).trans (crossWay_keeps _ _ _)).trans (targetTake_keeps _ _ _ _)

theorem via_keeps (s : State) (m : MasterKind) (a : Nat) {f : State → Acc} (hf : ∀ t, ReadKeeps t (f t).s) : ReadKeeps s (via s m a f).s := by
  unfold via
  split
  · rfl
  · split
    · rfl
    · split
      · rfl
      · exact (pathTake_keeps _ _ _ _).trans (hf _)

theorem readPart_keeps (s : State) (p : PartId) (m : MasterKind) (code : Nat) (sp : Bool) (x : Nat) : ReadKeeps s (readPart s p m code sp x).s := by
  unfold readPart
  split
  · exact via_keeps _ _ _ fun _ => readWord_keeps _ _ _ _
  · rfl

theorem internalWord_keeps (s : State) (a : Nat) : ReadKeeps s (internalWord s a).s := by
  unfold internalWord
  split
  · rfl
  · split
    · rfl
    · split <;> rfl

theorem coreRead_keeps (s : State) (c : CoreId) (w : Want) (a : Nat) : ReadKeeps s (coreRead s c w a).s := by
  unfold coreRead
  split
  · split
    · rfl
    · exact readPart_keeps _ _ _ _ _ _
  · split
    · exact via_keeps _ _ _ fun _ => readWord_keeps _ _ _ _
    · unfold internalVia
      split
      · rfl
      · exact (portTake_keeps _ _).trans (internalWord_keeps _ _)

theorem noteCore_keeps (s : State) (c : CoreId) (w : Want) (a : Nat) : ReadKeeps s (noteCore s c w a) := by
  unfold noteCore noteWaitAt noteWait
  repeat' split
  all_goals rfl

theorem lineRead_keeps (s : State) (c : CoreId) (l : Nat) : ReadKeeps s (lineRead s c l).2 := by
  unfold lineRead
  generalize List.range 4 = is
  suffices ∀ x : List (Nat × W128) × State, ReadKeeps s x.2 → ReadKeeps s
      (is.foldl (fun (x : List (Nat × W128) × State) i =>
        let r := coreRead x.2 c .fetch (64 * l + 16 * i)
        (x.1 ++ [(r.status, r.data)], r.s)) x).2 from this _ (ReadKeeps.refl s)
  induction is with
  | nil => exact fun x h => h
  | cons i is ih => exact fun x h => ih _ (h.trans (coreRead_keeps _ _ _ _))

theorem aheadRead_keeps (c : CoreId) (ws : List Nat) (s : State) : ReadKeeps s (aheadRead c ws s).2 := by
  unfold aheadRead
  suffices ∀ x : List (Nat × Nat) × State, ReadKeeps s x.2 → ReadKeeps s
      (ws.foldl (fun x w =>
        let r := coreRead x.2 c .fetch (16 * w)
        if r.status = 9 then x else (if r.status = 0 ∨ r.status = 6 ∨ r.status = 7 then x.1 ++ [(w, r.status)] else x.1, r.s)) x).2 from
    this _ (ReadKeeps.refl s)
  induction ws with
  | nil => exact fun x h => h
  | cons w ws ih =>
    intro x h
    refine ih _ ?_
    simp only
    split
    · exact h
    · exact h.trans (coreRead_keeps _ _ _ _)

/-! ### The fetch of an instruction -/

theorem modCore_self (s : State) (c : CoreId) : modCore s c (fun _ => core s c) = s := by
  cases c with
  | ve n =>
    have h : s.seq.set n s.seq[n] = s.seq := Vector.set_getElem_self _
    show { s with seq := s.seq.set n s.seq[n] } = s
    rw [h]
  | sv => rfl

theorem core_keeps {s t : State} (h : ReadKeeps s t) (c : CoreId) : core t c = core s c := by
  rw [h]
  cases c <;> rfl

/-- What the fetch of a halfword can change: of its core the instruction cache with its miss count and the prefetched words, and what a read of
memory can change. -/
theorem fetchAt_keeps (s : State) (c : CoreId) (a : Nat) :
    ∃ i m b t, ReadKeeps s t ∧ (fetchAt s c a).2 = modCore t c fun _ => { core s c with icache := i, icMiss := m, ahead := b } := by
  have self : ∀ t, ReadKeeps s t → ∃ i m b u, ReadKeeps s u ∧ t = modCore u c fun _ => { core s c with icache := i, icMiss := m, ahead := b } :=
    fun t h => ⟨(core s c).icache, (core s c).icMiss, (core s c).ahead, t, h, by rw [← core_keeps h c]; exact (modCore_self t c).symm⟩
  unfold fetchAt
  simp only
  split
  · exact self _ (noteCore_keeps _ _ _ _)
  · split
    · exact self _ rfl
    · split
      · split
        · exact self _ rfl
        · unfold fetchDet
          simp only
          split <;> exact ⟨(core s c).icache, (core s c).icMiss, _, _, aheadRead_keeps _ _ _, rfl⟩
      · split
        · refine ⟨lru id (a / 64) (core s c).icache, (core s c).icMiss, (core s c).ahead, s, rfl, ?_⟩
          cases c <;> simp [modCore, modSeq, core, updV]
        · split
          · exact self _ rfl
          · exact ⟨_, _, (core s c).ahead, _, lineRead_keeps _ _ _, rfl⟩

theorem readKeeps_modCore {s t : State} (h : ReadKeeps s t) (c : CoreId) (f : Core → Core) : ReadKeeps (modCore s c f) (modCore t c f) := by
  rw [h]
  cases c <;> rfl

theorem modCore_modCore_const (s : State) (c : CoreId) (f : Core → Core) (k : Core) : modCore (modCore s c f) c (fun _ => k) = modCore s c fun _ => k := by
  cases c <;> simp [modCore, modSeq, updV]

/-- What the fetch of an instruction can change (R179, R189): of its core the instruction cache with its miss count and the prefetched words, and what
reads of memory can change. -/
theorem fetched_keeps (s : State) (c : CoreId) (long : Bool) :
    ∃ i m b t, ReadKeeps s t ∧ fetched s c long = modCore t c fun _ => { core s c with icache := i, icMiss := m, ahead := b } := by
  obtain ⟨i, m, w, t, ht, e⟩ := fetchAt_keeps s c (core s c).r.pc.toNat
  have h2 : ∀ b, ∃ i m w t, ReadKeeps s t ∧ (fetchAt (fetchAt s c (core s c).r.pc.toNat).2 c b).2 =
      modCore t c fun _ => { core s c with icache := i, icMiss := m, ahead := w } := by
    intro b
    rw [e]
    obtain ⟨i', m', w', t', ht', e'⟩ := fetchAt_keeps (modCore t c fun _ => { core s c with icache := i, icMiss := m, ahead := w }) c b
    refine ⟨i', m', w', modCore t' c (fun _ => core t c), ?_, ?_⟩
    · have := readKeeps_modCore ht' c (fun _ => core t c)
      rw [modCore_modCore_const, modCore_self] at this
      exact ht.trans this
    · rw [e', modCore_modCore_const, core_modCore]
  unfold fetched fetchGo
  simp only
  split
  · exact ⟨i, m, w, t, ht, e⟩
  · split
    · exact ⟨i, m, w, t, ht, e⟩
    · split
      · split
        · exact h2 _
        · split <;> exact h2 _
      · exact ⟨i, m, w, t, ht, e⟩

theorem core_fetched (s : State) (c : CoreId) (long : Bool) :
    core (fetched s c long) c = { core s c with
      icache := (core (fetched s c long) c).icache, icMiss := (core (fetched s c long) c).icMiss, ahead := (core (fetched s c long) c).ahead } := by
  obtain ⟨i, m, b, t, -, e⟩ := fetched_keeps s c long
  rw [e]
  simp

@[simp] theorem fetched_regs (s : State) (c : CoreId) (long : Bool) : (core (fetched s c long) c).r = (core s c).r := by
  rw [core_fetched]

@[simp] theorem fetched_eng (s : State) (c : CoreId) (long : Bool) : (fetched s c long).eng = s.eng := by
  obtain ⟨i, m, b, t, h, e⟩ := fetched_keeps s c long
  rw [e, h]
  cases c <;> rfl

@[simp] theorem fetched_parts (s : State) (c : CoreId) (long : Bool) : (fetched s c long).parts = s.parts := by
  obtain ⟨i, m, b, t, h, e⟩ := fetched_keeps s c long
  rw [e, h]
  cases c <;> rfl

@[simp] theorem fetched_pending (s : State) (c : CoreId) (long : Bool) : (fetched s c long).pending = s.pending := by
  obtain ⟨i, m, b, t, h, e⟩ := fetched_keeps s c long
  rw [e, h]
  cases c <;> rfl

theorem fetched_open {s : State} {c : CoreId} (long : Bool) : openGroup (fetched s c long) c = openGroup s c := by
  cases c with
  | ve n => exact congrArg (fun e : Vector Engine 64 => e[n].openIns) (fetched_eng s (.ve n) long)
  | sv => rfl

end Sys2Proof.Machine
end

