-- ==== Sys2Proof/Laws/Host.lean ====
section
/-!
SUPPORT. The packets of a host port by their address (R289, R290): the fields of an address make it again, and what a write or a read packet at an
address does.
-/

namespace Sys2Proof

/-- An address is made of its page, slot and byte. -/
theorem hostAddr_fields (a : HostAddr) : hostAddr a.page a.slot a.inBar0 a.low = a := by
  cases a with
  | bar0 off =>
    simp only [hostAddr, HostAddr.page, HostAddr.slot, HostAddr.low, HostAddr.inBar0, if_true, HostAddr.bar0.injEq]
    apply BitVec.eq_of_getLsbD_eq
    intro i hi
    simp only [BitVec.getLsbD_append, BitVec.getLsbD_extractLsb']
    grind
  | bar2 off =>
    simp only [hostAddr, HostAddr.page, HostAddr.slot, HostAddr.low, HostAddr.inBar0, Bool.false_eq_true, if_false, HostAddr.bar2.injEq]
    apply BitVec.eq_of_getLsbD_eq
    intro i hi
    simp only [BitVec.getLsbD_append, BitVec.getLsbD_extractLsb', BitVec.getLsbD_setWidth]
    grind

/-- The page of an address lies in its BAR. -/
theorem HostAddr.page_in (a : HostAddr) : (a.inBar0 || decide (a.page.toNat < 256)) = true := by
  cases a with
  | bar0 off => rfl
  | bar2 off =>
    simp only [HostAddr.inBar0, HostAddr.page, BitVec.toNat_setWidth, BitVec.extractLsb'_toNat, Bool.false_or, decide_eq_true_eq]
    omega

namespace Machine

/-- A write packet that the link carries is an access of its port; another has no effect. -/
theorem exec_hostWrite (h : PortId) (a : HostAddr) (data : List Byte) (s : State) :
    exec (hostWrite h a data) s = .next (if tlpWf Config.maxPayload a data.length then accessOp s (.tlpWrite h a data) else s) := by
  simp only [hostWrite, exec_inStreamWrite, execInStreamWrite, packetWf, hostAddr_fields, HostAddr.page_in, Bool.true_and, true_and]

/-- A read packet that the link carries is an access of its port; another has no effect. -/
theorem exec_hostRead (h : PortId) (a : HostAddr) (bytes : Nat) (s : State) :
    exec (hostRead h a bytes) s = .next (if tlpWf Config.maxRead a bytes then accessOp s (.tlpRead h a bytes) else s) := by
  simp only [hostRead, exec_outStreamRead, execOutStreamRead, packetWf, hostAddr_fields, HostAddr.page_in, Bool.true_and]

end Machine
end Sys2Proof
end

