-- ==== Sys2Proof/Laws/Seq.lean ====
section
/-!
SUPPORT. What an instruction of a sequencer core can do at its boundary, and what the operations that retire it leave unchanged.
-/

namespace Sys2Proof.Machine

/-! ### Updates of one core -/

theorem updV_updV {α : Type} {n : Nat} (v : Vector α n) (i : Fin n) (f g : α → α) : updV (updV v i f) i g = updV v i (g ∘ f) := by
  simp [updV]

theorem updV_id {α : Type} {n : Nat} (v : Vector α n) (i : Fin n) : updV v i id = v := by
  simp [updV]

theorem modCore_modCore (s : State) (c : CoreId) (f g : Core → Core) : modCore (modCore s c f) c g = modCore s c (g ∘ f) := by
  cases c with
  | ve n => simp [modCore, modSeq, updV_updV]
  | sv => rfl

theorem modCore_id (s : State) (c : CoreId) : modCore s c id = s := by
  cases c with
  | ve n => simp [modCore, modSeq, updV_id]
  | sv => rfl

theorem modCore_const (s : State) (c : CoreId) (f : Core → Core) : modCore s c f = modCore s c fun _ => f (core s c) := by
  cases c with
  | ve n => simp [modCore, modSeq, updV, core]
  | sv => rfl

theorem onlyCore_modCore (s : State) (c : CoreId) (f : Core → Core) : OnlyCore s (modCore s c f) c := by
  unfold OnlyCore
  rw [core_modCore]
  exact modCore_const s c f

theorem onlyCore_self (s : State) (c : CoreId) : OnlyCore s s c := by
  have h := onlyCore_modCore s c id
  rwa [modCore_id] at h

theorem OnlyCore.trans {s t u : State} {c : CoreId} (h : OnlyCore s t c) (k : OnlyCore t u c) : OnlyCore s u c := by
  unfold OnlyCore at *
  rw [k, h, modCore_modCore, core_modCore]
  rfl

/-! ### Boundaries -/

theorem atFetch_ready {s : State} {c : CoreId} {len : Nat} (h : Ready s c len) (f : State → State) :
    atFetch s c (len == 4) f = f (taken s c len) := by
  obtain ⟨h1, -, h3, h4⟩ := h
  have e : fetchGo s c (len == 4) = (.ok, taken s c len) := Prod.ext h4 rfl
  simp [atFetch, h1, h3, e]

theorem atBoundary_ready {s : State} {c : CoreId} {enc : W32} {len : Nat} (h : Ready s c len) (he : isLong enc = (len == 4))
    (f : State → State) : atBoundary s c enc f = f (taken s c len) := by
  simp [atBoundary, he, atFetch_ready h, h.2.1]

theorem seqOp_ready {s : State} {c : CoreId} {enc : W32} {len : Nat} (h : Ready s c len) (he : isLong enc = (len == 4)) (f : State → State) :
    seqOp s c enc none f = f (taken s c len) := by
  simp [seqOp, atBoundary_ready h he]

theorem seqOp_ok {s : State} {c : CoreId} {enc : W32} {len : Nat} (h : Ready s c len) (he : isLong enc = (len == 4)) (f : State → State)
    {ok : Bool} (hk : ok = true) : seqOp s c enc (badIf ok) f = f (taken s c len) := by
  simp [seqOp, atBoundary_ready h he, badIf, hk]

theorem discardOpen_ready {s : State} {c : CoreId} (h : openGroup s c = []) : discardOpen s c = s := by
  cases c with
  | ve n =>
    have e : s.eng[n].openIns = [] := h
    have : updV s.eng n (fun e => { e with openIns := [] }) = s.eng := by
      simp only [updV]
      rw [show ({ s.eng[n] with openIns := [] } : Engine) = s.eng[n] by rw [← e]]
      simp
    simp only [discardOpen, modEng, this]
  | sv => rfl

/-- An illegal form on a core that executes enters vector 1 with its CODE and encoding, once fetched (R166, R198). -/
theorem seqOp_bad {s : State} {c : CoreId} {enc : W32} {len : Nat} (h : Ready s c len) (he : isLong enc = (len == 4)) (f : State → State)
    {ok : Bool} (hk : ok = false) :
    seqOp s c enc (badIf ok) f = enter (taken s c len) c 1 1 0 (enc.setWidth 64) (core s c).r.pc := by
  have ho : openGroup (taken s c len) c = [] := (fetched_open _).trans h.2.1
  simp [seqOp, atBoundary_ready h he, badIf, hk, illegal, discardOpen_ready ho]

/-! ### The length of an instruction -/

theorem isLong_iff (enc : W32) : isLong enc = decide (3 * 2 ^ 30 ≤ enc.toNat) := by
  have h := enc.isLt
  simp only [isLong, fld, Nat.shiftRight_eq_div_pow]
  rw [Bool.eq_iff_iff]
  simp only [beq_iff_eq, decide_eq_true_eq]
  omega

theorem word32_ge (l : List (Nat × Nat)) (w : W32) : w.toNat ≤ (l.foldl (fun w p => w ||| at' 32 p.2 p.1) w).toNat := by
  induction l generalizing w with
  | nil => exact Nat.le_refl _
  | cons p l ih =>
    refine Nat.le_trans ?_ (ih _)
    rw [BitVec.toNat_or]
    exact Nat.left_le_or

theorem word32_lt (l : List (Nat × Nat)) (w : W32) (hw : w.toNat < 2 ^ 30) (h : ∀ p ∈ l, p.1 * 2 ^ p.2 < 2 ^ 30) :
    (l.foldl (fun w p => w ||| at' 32 p.2 p.1) w).toNat < 2 ^ 30 := by
  induction l generalizing w with
  | nil => exact hw
  | cons p l ih =>
    refine ih _ ?_ fun q hq => h q (List.mem_cons_of_mem _ hq)
    rw [BitVec.toNat_or]
    refine Nat.or_lt_two_pow hw ?_
    have := h p (List.mem_cons_self ..)
    simp only [at', BitVec.toNat_ofNat, Nat.shiftLeft_eq]
    omega

/-- A word whose six highest bits are 0x30 or more is that of a 32-bit instruction. -/
theorem isLong_long (v : Nat) (l : List (Nat × Nat)) (h : 0x30 ≤ v) (k : v < 64) : isLong (word32 ((v, 26) :: l)) = true := by
  rw [isLong_iff, decide_eq_true_eq]
  refine Nat.le_trans ?_ (word32_ge l _)
  simp [at', Nat.shiftLeft_eq]
  omega

/-- A word of 30 bits is that of a 16-bit instruction. -/
theorem isLong_short (l : List (Nat × Nat)) (h : ∀ p ∈ l, p.1 * 2 ^ p.2 < 2 ^ 30) : isLong (word32 l) = false := by
  rw [isLong_iff, decide_eq_false_iff_not]
  exact Nat.not_le_of_lt (Nat.lt_of_lt_of_le (word32_lt l 0 (by decide) h) (by decide))

theorem isLong_aluOps (r : Regs) (op : Nat) (f : AluForm) (h : op < 16) : isLong (aluOps r op f).enc = ((aluOps r op f).len == 4) := by
  cases f with
  | h0 rd rs =>
    have := rd.isLt; have := rs.isLt
    exact isLong_short _ (by simp; omega)
  | c0 rd ra rb rsv => exact isLong_long _ _ (by decide) (by decide)
  | c1 rd ra imm => exact isLong_long _ _ (by decide) (by decide)

theorem isLong_addOps (r : Regs) (op : Nat) (f : AddForm) (h : op < 16) : isLong (addOps r op f).enc = ((addOps r op f).len == 4) := by
  cases f with
  | alu f => exact isLong_aluOps r op f h
  | h1 rd imm =>
    have := rd.isLt; have := imm.isLt
    have : h1Op op ≤ 3 := by unfold h1Op; split <;> (try split) <;> (try split) <;> omega
    exact isLong_short _ (by simp; omega)

theorem isLong_shOps (r : Regs) (op : Nat) (f : ShForm) (h : op < 16) : isLong (shOps r op f).enc = ((shOps r op f).len == 4) := by
  cases f with
  | h2 rd amt =>
    have := rd.isLt; have := amt.isLt
    exact isLong_short _ (by simp; omega)
  | alu f => exact isLong_aluOps r op f h

/-! ### Retiring -/

theorem retire_regs (s : State) (c : CoreId) (pc : Addr) :
    (core (retire s c pc) c).r = { (core s c).r with pc := pc &&& ~~~(1 : Addr) } := by
  simp [retire]

theorem regOp_regs (s : State) (c : CoreId) (len : Nat) (f : Regs → Regs) :
    (core (regOp s c len f) c).r = f { (core s c).r with pc := nextPc s c len &&& ~~~(1 : Addr) } := by
  simp [regOp, retire_regs]

/-- A retired instruction, whatever `f` does to registers other than the PC, changes its core only. -/
theorem retires_modRegs (s : State) (c : CoreId) (pc : Addr) (f : Regs → Regs) (hf : ∀ r, (f r).pc = r.pc) :
    Retires s (modRegs (retire s c pc) c f) c pc := by
  refine ⟨(onlyCore_modCore s c _).trans (onlyCore_modCore _ c _), ?_, ?_⟩
  · rw [core_modRegs]
    simp [retire]
  · simp [hf, retire_regs]

theorem retires_regOp (s : State) (c : CoreId) (len : Nat) (f : Regs → Regs) (hf : ∀ r, (f r).pc = r.pc) :
    Retires s (regOp s c len f) c (nextPc s c len) := retires_modRegs s c _ f hf

/-! ### Register fields -/

@[simp] theorem regSet_fl (r : Regs) (x : BitVec 5) (v : W64) : (regSet r x v).fl = r.fl := by unfold regSet; split <;> (try split) <;> rfl
@[simp] theorem regSet_pc (r : Regs) (x : BitVec 5) (v : W64) : (regSet r x v).pc = r.pc := by unfold regSet; split <;> (try split) <;> rfl
@[simp] theorem regSet_cwp (r : Regs) (x : BitVec 5) (v : W64) : (regSet r x v).cwp = r.cwp := by unfold regSet; split <;> (try split) <;> rfl

/-- A register field reads back what was written to it (R156). -/
theorem regGet_regSet_same (r : Regs) (x : BitVec 5) (v : W64) : regGet (regSet r x v) x = v := by
  unfold regGet regSet
  by_cases h : x.toNat < 8
  · simp [h]
  · by_cases h2 : x.toNat < 24 <;> simp [h, h2]

/-- The windows of two register fields that name different registers are different places. -/
theorem winIx_ne (w u : Fin 16) (i j : Fin 16) (h : w ≠ u ∨ i ≠ j) : winIx w i ≠ winIx u j := by
  intro e
  have e' : 16 * w.val + i.val = 16 * u.val + j.val := congrArg Fin.val e
  have hw : w.val = u.val := by omega
  have hi : i.val = j.val := by omega
  exact h.elim (fun k => k (Fin.ext hw)) fun k => k (Fin.ext hi)

theorem nextWin_ne (w : Fin 16) : nextWin w ≠ w := by revert w; decide

/-- A register field keeps its value when another field is written (R156). -/
theorem regGet_regSet_other (r : Regs) (x y : BitVec 5) (v : W64) (h : x ≠ y) : regGet (regSet r x v) y = regGet r y := by
  have hn : x.toNat ≠ y.toNat := fun e => h (BitVec.eq_of_toNat_eq e)
  have hx := x.isLt
  have hy := y.isLt
  unfold regGet regSet
  by_cases h8 : x.toNat < 8
  · simp only [h8, dite_true]
    by_cases k8 : y.toNat < 8
    · simp only [k8, dite_true]; exact Vector.getElem_set_ne _ _ hn
    · simp [k8]
  · simp only [h8, dite_false]
    by_cases h24 : x.toNat < 24
    · simp only [h24, if_true]
      by_cases k8 : y.toNat < 8
      · simp [k8]
      · simp only [k8, dite_false]
        by_cases k24 : y.toNat < 24
        · simp only [k24, if_true]
          refine Vector.getElem_set_ne _ _ fun e => winIx_ne _ _ _ _ (.inr ?_) (Fin.ext e)
          intro e2; have := congrArg Fin.val e2; simp [Fin.ofNat] at this; omega
        · simp only [k24, if_false]
          exact Vector.getElem_set_ne _ _ fun e => winIx_ne _ _ _ _ (.inl (nextWin_ne _).symm) (Fin.ext e)
    · simp only [h24, if_false]
      by_cases k8 : y.toNat < 8
      · simp [k8]
      · simp only [k8, dite_false]
        by_cases k24 : y.toNat < 24
        · simp only [k24, if_true]
          exact Vector.getElem_set_ne _ _ fun e => winIx_ne _ _ _ _ (.inl (nextWin_ne _)) (Fin.ext e)
        · simp only [k24, if_false]
          refine Vector.getElem_set_ne _ _ fun e => winIx_ne _ _ _ _ (.inr ?_) (Fin.ext e)
          intro e2; have := congrArg Fin.val e2; simp [Fin.ofNat] at this; omega

/-! ### Flags -/

theorem getLsbD_twoPow (n i j : Nat) : (BitVec.ofNat n (2 ^ i)).getLsbD j = (decide (j < n) && decide (i = j)) := by
  rw [BitVec.getLsbD_ofNat, Nat.testBit_two_pow]

/-- Bit `j` after bit `i` was set to `b`. -/
theorem bit_setBit {n : Nat} (x : BitVec n) (i j : Nat) (b : Bool) (h : i < n) : bit (setBit x i b) j = if j = i then b else bit x j := by
  have key := getLsbD_twoPow n i j
  unfold bit setBit
  generalize BitVec.ofNat n (2 ^ i) = m at key
  rw [← BitVec.getLsbD]
  cases b
  · simp only [Bool.false_eq_true, if_false, BitVec.getLsbD_and, BitVec.getLsbD_not, key]
    by_cases e : j = i
    · subst e; simp [h]
    · have ne : ¬ i = j := fun k => e k.symm
      by_cases hj : j < n
      · simp [hj, ne, e, BitVec.getLsbD]
      · have := BitVec.getLsbD_of_ge x j (Nat.le_of_not_lt hj)
        simp [hj, e, BitVec.getLsbD] at this ⊢; exact this
  · simp only [if_true, BitVec.getLsbD_or, key]
    by_cases e : j = i
    · subst e; simp [h]
    · have ne : ¬ i = j := fun k => e k.symm
      simp [ne, e, BitVec.getLsbD]

theorem setNzcv_bits (fl : W64) (n z c v : Bool) :
    flN (setNzcv fl n z c v) = n ∧ flZ (setNzcv fl n z c v) = z ∧ flC (setNzcv fl n z c v) = c ∧ flV (setNzcv fl n z c v) = v := by
  simp [flN, flZ, flC, flV, setNzcv, bit_setBit]

theorem setNzcv_keeps (fl : W64) (n z c v : Bool) : FlKeeps fl (setNzcv fl n z c v) [0, 1, 2, 3] := by
  intro i hi
  simp only [List.mem_cons, List.not_mem_nil, or_false, not_or] at hi
  simp [setNzcv, bit_setBit, hi]

theorem setNz_bits (fl v : W64) : NzOf (setNz fl v) v := by
  unfold NzOf
  constructor
  · simp [flN, setNz, bit_setBit]
  · simp [flZ, setNz, bit_setBit]; rfl

theorem setNz_keeps (fl v : W64) : FlKeeps fl (setNz fl v) [2, 3] := by
  intro i hi
  simp only [List.mem_cons, List.not_mem_nil, or_false, not_or] at hi
  simp [setNz, bit_setBit, hi]

theorem FlKeeps.mono {a b : W64} {ws us : List Nat} (h : FlKeeps a b ws) (k : ∀ i ∈ ws, i ∈ us) : FlKeeps a b us :=
  fun i hi => h i fun m => hi (k i m)

end Sys2Proof.Machine
end

