-- ==== Sys2Proof/Tests/Slice0.lean ====
section
/-!
SUPPORT. Small tests and witnesses. `wf_…`: the checks of WellFormed refuse; `test_…`: one command on a small state, its result taken from the
rules by hand; `wit_…`: a concrete state and operands that meet the hypotheses of an obligation, clause by clause.
-/

open Sys2Proof

namespace Sys2Proof.Machine.Tests

set_option Elab.async false

/-! ### States and observations -/

/-- A device that serves: boot done, dictionary open, events started, firmware in working RAM. -/
def live : State :=
  let z := State.reset
  { z with
    boot := { z.boot with step := 9, state := 6, slot := 0 }
    dict := { z.dict with isOpen := true }
    ev := { z.ev with started := true }
    fab := { z.fab with remap := true } }

/-- The state after a command, if it answers one. -/
def after (i : Instr) (s : State) : Option State :=
  match exec i s with
  | .next t => some t
  | _ => none

/-- The command has the effect that `p` describes. -/
def gives (i : Instr) (s : State) (p : State → Bool) : Bool :=
  match exec i s with
  | .next t => p t
  | _ => false

/-- Partition 0 has VE 0 and one GiB of HBM, and VE 0 runs with registers `f` of the reset's. -/
def ve0 (f : Regs → Regs) : State :=
  modSeq (modPart live 0 fun p => { p with cfg := { p.cfg with veSet := 1, hbmSize := 1 } }) 0 fun k => { k with st := .running, r := f k.r }

/-- VE 0. -/
def c0 : CoreId := .ve 0
/-- VE 0's registers. -/
def rg (s : State) : Regs := s.seq[(0 : Fin 64)].r

/-- VE 0 with 5 in A0 and -3 in A1. -/
def seqA : State := ve0 fun r => regSet (regSet r 8 5) 9 (-3)
/-- VE 0 with the greatest signed value in A0, 1 in A1, OVE and C set, its stack at 0x1000 and its vectors at 0x2000. -/
def seqO : State := ve0 fun r =>
  { regSet (regSet (regSet r 8 0x7FFFFFFFFFFFFFFF) 9 1) 7 0x1000 with fl := r.fl ||| 0x12, vbase := 0x2000 }

/-! ### WellFormed: a term that each check refuses, and one it lets through -/

/-- A fragment of master `m`, tag 0. -/
def fragOf (m : BitVec 10) (a n : Nat) : Frag := { addr := a, len := n, master := m, tag := 0 }
/-- A fragment of VE 0's unit 0. -/
def frag (a n : Nat) : Frag := fragOf 0 a n
/-- Bytes put into device memory. -/
def poke (s : State) (a : Nat) (l : List Byte) : State := { s with mem := { s.mem with cells := cellsSet s.mem.cells a l } }
/-- Device address of the HBM's first byte, where partition 0's offset 0 lies. -/
def hb : Nat := 0x1000000000


/-- A fragment may not be empty, pass a 512-byte block or, in HBM, a 256-byte granule, or lie above the address space (R246). -/
theorem wf_frag : (Instr.memoryRead (frag 0x1000000000 0) Rivals.none []).wf = false ∧ (Instr.memoryRead (frag 0x40000000 513) Rivals.none []).wf = false ∧
    (Instr.memoryRead (frag 0x400001F0 32) Rivals.none []).wf = false ∧ (Instr.memoryRead (frag 0x10000000F0 32) Rivals.none []).wf = false ∧
    (Instr.memoryRead (frag 0x10000000000 16) Rivals.none []).wf = false ∧ (Instr.memoryRead (frag 0x40000000 512) Rivals.none []).wf = true := by decide +kernel

/-- A write's data and enables have the fragment's length. -/
theorem wf_write : (Instr.memoryWrite (frag 0x40000000 2) [1] [true, true] false Rivals.none []).wf = false ∧
    (Instr.memoryWrite (frag 0x40000000 2) [1, 2] [true] false Rivals.none []).wf = false ∧
    (Instr.memoryWrite (frag 0x40000000 2) [1, 2] [true, true] false Rivals.none []).wf = true := by decide +kernel

/-- An atomic names one aligned word (R225). -/
theorem wf_atomic : (Instr.atomicOr (frag 0x1000000000 8) 0 Rivals.none []).wf = false ∧ (Instr.atomicAnd (frag 0x1000000008 16) 0 Rivals.none []).wf = false ∧
    (Instr.atomicAdd64 (frag 0x1000000000 32) 0 Rivals.none []).wf = false ∧ (Instr.atomicSwap (frag 0x1000000001 16) 0 Rivals.none []).wf = false ∧
    (Instr.atomicCas (frag 0x1000000000 15) 0 0 Rivals.none []).wf = false ∧ (Instr.atomicCas (frag 0x1000000000 16) 0 0 Rivals.none []).wf = true := by decide +kernel

/-- A write of several beats enables whole words (R246). -/
theorem wf_enables : (Frag.enablesWf (frag 0x40000030 32) ((List.replicate 15 true) ++ List.replicate 17 false)) = false ∧
    (Frag.enablesWf (frag 0x40000030 32) ((List.replicate 16 true) ++ List.replicate 16 false)) = true ∧ Frag.enablesWf (frag 0x40000000 2) [true, false] = true := by
  decide +kernel

/-- Packets of 1 to 512 and 4,096 bytes within one 4 KiB block (Table 11.1, R296). -/
theorem wf_stream : (hostWrite 0 (.bar2 0) []).wf = false ∧ (hostWrite 0 (.bar2 0xFF8) (List.replicate 16 0)).wf = false ∧
    (hostWrite 0 (.bar2 0xFF0) (List.replicate 16 0)).wf = true ∧ tlpWf 512 (.bar0 0xF002000) 513 = false ∧ tlpWf 512 (.bar0 0xF002000) 512 = true ∧
    (hostRead 0 (.bar2 0) 0).wf = false ∧ (hostRead 0 (.bar2 0) 4097).wf = false ∧ (hostRead 0 (.bar2 0) 4096).wf = true := by
  decide +kernel

/-! ### The block -/

theorem wit_StepRunsFront : ({ live with pending := [.rstdaa, .timeSync] } : State).pending = .rstdaa :: [.timeSync] ∧
    (match step { live with i3c := { live.i3c with dyn := some 8 }, pending := [.rstdaa, .timeSync] } with
      | .next t => t.i3c.dyn.isNone && t.pending == [.timeSync]
      | _ => false) = true := by decide +kernel

/-- The supervisor restarts. -/
def restartS : State := { live with sv := { live.sv with st := .recovery } }

/-- A step has the effect that `p` describes. -/
def steps (s : State) (p : State → Bool) : Bool :=
  match step s with
  | .next t => p t
  | _ => false

theorem live_part (p : Nat) (h : p < 16) : live.parts[p] = .reset (Fin.ofNat 16 p) := by
  have e : Fin.ofNat 16 p = ⟨p, h⟩ := Fin.ext (Nat.mod_eq_of_lt h)
  simp only [live, State.reset, State.powerOn, Vector.getElem_ofFn]
  exact congrArg Partition.reset e.symm

theorem live_port (p : Nat) (h : p < 4) : live.ports[p] = .reset := by simp [live, State.reset, State.powerOn]

/-- No partition of `live` waits for anything. -/
theorem partWakes_live (p : PartId) : partWakes live p = live := by
  have h (k : Fin 8) : endBlocks live p k = live := by
    simp [endBlocks, endRecvd, readRaw, live_part, Partition.reset, Stream.reset]
  have hl : loadGo live p = live := by simp [loadGo, drainLoad, fillGo, live_part, Partition.reset]
  have hk : kick live p = live := by
    simp [kick, hl, h, inEntries, joinJobs, takeJobs, drainRx, live_part, Partition.reset, Stream.reset, live_port, msix, Port.reset]
  have hr : restoreGo live p = live := by simp [restoreGo, restoreTake, live_part, Partition.reset, Stream.reset]
  have ha : agreeGo live p = live := by simp [agreeGo, twinActive, live_part, Partition.reset, PartCfg.reset]
  simp [partWakes, partGo, hk, hr, ha, farFailGo, live_part, Partition.reset]

/-- The lockstep pair recovers, and VE 0 after a paired mismatch. -/
def recoverS : State :=
  modSeq { live with sv := { live.sv with st := .recovery }, ls := { live.ls with state := 1 } } 0 fun k => { k with st := .recovery, back := .stopped }

theorem wit_StepIdle : live.pending = [] ∧ dead live = false ∧ Settled live ∧ steps live (fun t => t.ev.time[(3 : Fin 4)] == 1) = true ∧
    dead { live with boot := { live.boot with lost := true } } = true ∧ restarting live = false ∧ restarting restartS = true ∧ restartS.ls.state ≠ 2 ∧
    steps restartS (fun t => t.sv.st == .running) = true ∧ recoverS.sv.st = .recovery ∧ recoverS.ls.state = 1 ∧ 5 < recoverS.boot.step ∧
    recoverS.seq[(0 : Fin 64)].back ≠ .unbound ∧ clockRuns recoverS (clusterOfVe 0) = true ∧
    steps recoverS (fun t => t.sv.st == .running && t.ls.state == 0 && t.seq[(0 : Fin 64)].st == .stopped) = true := by
  refine ⟨rfl, rfl, ⟨rfl, rfl, by decide +kernel, rfl, ?_, by decide +kernel, by decide +kernel, partWakes_live⟩, ?_⟩
  · intro c
    cases c with
    | sv => rfl
    | ve n => revert n; decide +kernel
  · decide +kernel

theorem wit_WellFormedCompletes : (Instr.memoryRead (frag 0 0) Rivals.none []).wf = false ∧ exec (.memoryRead (frag 0 0) Rivals.none []) live = .next live := ⟨rfl, rfl⟩

/-- A word written in the model's own address space is there, and the invariant holds before and after. -/
theorem wit_CanonicalMemoryKept : Inv live ∧ gives (.atomicOr (fragOf 0x220 0x1000000000 16) 7 Rivals.none []) live (fun t => Memory.wf t.mem && wordGet t.mem 0x100000000 == 7) = true := by
  refine ⟨rfl, ?_⟩
  decide +kernel

theorem test_decode_none : decodeTableWord 32 0 = none := rfl

theorem test_reset : State.reset.boot.step = 1 ∧ State.reset.mem.cells = [] ∧ State.reset.pending = [] := ⟨rfl, rfl, rfl⟩

/-! ### Sequencer arithmetic -/

theorem wit_SumsAndOverflow : Ready seqA c0 4 ∧ (addOps (rg seqA) 0 (.alu (.c0 10 8 9 0))).ok = true ∧ flOve (rg seqA).fl = false ∧
    Ready seqO c0 4 ∧ flOve (rg seqO).fl = true ∧ (addOps (rg seqO) 0 (.alu (.c0 10 8 9 0))).ok = true ∧
    ¬ (-(2 ^ 63) ≤ (regGet (rg seqO) 8).toInt + (regGet (rg seqO) 9).toInt ∧ (regGet (rg seqO) 8).toInt + (regGet (rg seqO) 9).toInt < 2 ^ 63) := by
  unfold Ready; decide +kernel

/-- 5 + -3 = 2 with carry. -/
theorem test_add : gives (.add c0 (.alu (.c0 10 8 9 0))) seqA (fun t => regGet (rg t) 10 == 2 && flC (rg t).fl && !flV (rg t).fl && (rg t).pc == 4) = true := by
  decide +kernel
/-- 5 - -3 = 8 with borrow. -/
theorem test_sub : gives (.sub c0 (.alu (.c0 10 8 9 0))) seqA (fun t => regGet (rg t) 10 == 8 && !flC (rg t).fl) = true := by decide +kernel
/-- H1: A0 += -1. -/
theorem test_sub_h1 : gives (.add c0 (.h1 0 0x3F)) seqA (fun t => regGet (rg t) 8 == 4 && (rg t).pc == 2) = true := by decide +kernel
/-- Greatest + 1 overflows: the sum is written and vector 6 entered, the frame below the stack holding the next PC. -/
theorem test_add_ove : gives (.add c0 (.alu (.c0 10 8 9 0))) seqO (fun t => regGet (rg t) 10 == 0x8000000000000000 && (rg t).pc == 0x2060 && regGet (rg t) 7 == 0xFE0 &&
    cellGet t.mem.cells (0x1000000000 + 0xFE0) == 4) = true := by decide +kernel
theorem test_adc : gives (.adc c0 (.c1 10 9 2)) (ve0 fun r => { r with fl := 2 }) (fun t => regGet (rg t) 10 == 3) = true := by decide +kernel
theorem test_sbc : gives (.sbc c0 (.c1 10 9 2)) (ve0 fun r => { regSet r 9 7 with fl := 0 }) (fun t => regGet (rg t) 10 == 4 && flC (rg t).fl) = true := by decide +kernel

theorem wit_AluResults : Ready seqA c0 4 ∧ (aluOps (rg seqA) 4 (.c1 10 8 3)).ok = true ∧ (shOps (rg seqA) 7 (.h2 0 0)).ok = true ∧
    (shOps (rg seqA) 7 (.h2 0 63)).ok = true ∧ (shOps (rg seqA) 7 (.alu (.c1 10 8 63))).ok = true ∧
    ((addOps (rg seqA) 0xA (.alu (.c0 0 8 9 0))).ok && cmpOk (.alu (.c0 0 8 9 0))) = true ∧
    ((addOps (rg seqA) 0xB (.alu (.c1 10 0 9))).ok && movOk (.alu (.c1 10 0 9))) = true := by
  unfold Ready; decide +kernel

theorem test_and : gives (.and c0 (.c1 10 8 6)) seqA (fun t => regGet (rg t) 10 == 4) = true := by decide +kernel
theorem test_or : gives (.or c0 (.c1 10 8 6)) seqA (fun t => regGet (rg t) 10 == 7) = true := by decide +kernel
theorem test_xor : gives (.xor c0 (.c1 10 8 5)) seqA (fun t => regGet (rg t) 10 == 0 && flZ (rg t).fl) = true := by decide +kernel
/-- 5 shifted left by 62 loses its bit 2, the last one out. -/
theorem test_shl : gives (.shl c0 (.h2 0 62)) seqA (fun t => regGet (rg t) 8 == 0x4000000000000000 && flC (rg t).fl) = true := by decide +kernel
theorem test_shr : gives (.shr c0 (.h2 0 1)) seqA (fun t => regGet (rg t) 8 == 2 && flC (rg t).fl) = true := by decide +kernel
theorem test_sar : gives (.sar c0 (.h2 1 1)) seqA (fun t => regGet (rg t) 9 == -2 && flC (rg t).fl && flN (rg t).fl) = true := by decide +kernel
/-- An amount of 0 leaves C. -/
theorem test_shl_zero : gives (.shl c0 (.h2 0 0)) (ve0 fun r => { regSet r 8 5 with fl := 2 }) (fun t => regGet (rg t) 8 == 5 && flC (rg t).fl) = true := by
  decide +kernel
theorem test_cmp : gives (.cmp c0 (.alu (.c0 0 9 8 0))) seqA (fun t => flN (rg t).fl && flC (rg t).fl && regGet (rg t) 0 == 0) = true := by decide +kernel
theorem test_mov : gives (.mov c0 (.alu (.c1 10 0 0xFFF))) seqA (fun t => regGet (rg t) 10 == -1) = true := by decide +kernel
theorem test_movk : gives (.movk c0 9 2 0 0xABCD) seqA (fun t => regGet (rg t) 9 == 0xFFFFABCDFFFFFFFD) = true := by decide +kernel

theorem wit_StepResults : Ready seqA c0 4 ∧ regGet (rg seqA) 11 = 0 ∧ flDze (rg seqA).fl = false ∧
    Ready (ve0 fun r => { r with fl := 0x20 }) c0 4 ∧ flDze (rg (ve0 fun r => { r with fl := 0x20 })).fl = true := by unfold Ready; decide +kernel
theorem test_mstep : gives (.mstep c0 10 8 11 0) (ve0 fun r => regSet (regSet r 8 5) 11 6) (fun t => regGet (rg t) 10 == 3 && regGet (rg t) 8 == 2) = true := by
  decide +kernel
theorem test_dstep : gives (.dstep c0 10 8 11 0) (ve0 fun r => regSet (regSet (regSet r 8 0x8000000000000001) 10 3) 11 6)
    (fun t => regGet (rg t) 10 == 1 && regGet (rg t) 8 == 3) = true := by decide +kernel

/-- The hypotheses of the multiply and divide sequences: three different registers, the first zero, 64 commands in the queue. -/
theorem wit_MultiplySequence : Ready { seqA with pending := List.replicate 64 (.mstep c0 10 8 9 0) ++ [.timeSync] } c0 4 ∧ (10 : BitVec 5) ≠ 8 ∧ (10 : BitVec 5) ≠ 9 ∧ (8 : BitVec 5) ≠ 9 ∧ regGet (rg seqA) 10 = 0 := by
  unfold Ready; decide +kernel

theorem wit_DivideSequence : Ready { seqA with pending := List.replicate 64 (.dstep c0 10 8 9 0) ++ [.timeSync] } c0 4 ∧ regGet (rg seqA) 10 = 0 ∧
    regGet (rg seqA) 9 ≠ 0 ∧ regGet (rg seqA) 11 = 0 ∧ flDze (rg seqA).fl = false := by unfold Ready; decide +kernel

/-- The same with the 256 bytes from the PC in the instruction cache. -/
theorem wit_Sequences_cached : Cached (modSeq seqA 0 fun k => { k with icache := [0, 1, 2, 3] }) c0 256 ∧
    Ready (modSeq seqA 0 fun k => { k with icache := [0, 1, 2, 3] }) c0 4 := by unfold Cached Ready; decide +kernel

/-- A set bit of C0's [6:0] is illegal: vector 1. -/
theorem wit_ReservedFieldsIllegal : Ready seqO c0 4 ∧ (1 : BitVec 7) ≠ 0 ∧ (64 ≤ (64 : BitVec 12).toNat) ∧ (1 : BitVec 3) ≠ 0 ∧
    gives (.add c0 (.alu (.c0 10 8 9 1))) seqO (fun t => (rg t).pc == 0x2010 && cellGet t.mem.cells (0x1000000000 + 0xFF4) == 1) = true := by
  unfold Ready; decide +kernel


/-! ### Sequencer loads, stores and control flow -/

/-- VE 0 with 0x100 in A0 and the bytes 0xF0, 0x81 there, G7 at 0x1000, VBASE at 0x2000. -/
def seqM : State := poke (ve0 fun r => { regSet (regSet r 8 0x100) 7 0x1000 with vbase := 0x2000 }) (hb + 0x100) [0xF0, 0x81]

/-- LD.16 signed from [A0 + 0]; SZ 1, X 1. -/
theorem wit_LoadResults : Ready seqM c0 4 ∧ (memOps (rg seqM) false (.c3 1 true 10 8 0)).ok = true ∧ (memOps (rg seqM) false (.c3 1 true 10 8 0)).addr = 0x100 ∧
    seqM.eng[(0 : Fin 64)].queue = [] ∧ seqM.mem.poison = [] ∧ seqM.mem.latent = [] ∧ (0x81F0 : W128).toNat < 2 ^ 16 ∧
    seqByte seqM 0 .read (nthAddr 0x100 0) = some (hb + 0x100) ∧ byteOf (0x81F0 : W128) 0 = cellGet seqM.mem.cells (hb + 0x100) ∧
    seqByte seqM 0 .read (nthAddr 0x100 1) = some (hb + 0x101) ∧ byteOf (0x81F0 : W128) 1 = cellGet seqM.mem.cells (hb + 0x101) ∧
    (core seqM c0).dcache = [] ∧ partsBad seqM c0 .read (accParts 0x40000000 1) = some (0, 4, 0x40000000) := by
  unfold Ready; decide +kernel

/-- VE 0 with `a` in A0 and 9 in A1. -/
def seqB (a : W64) : State := ve0 fun r => { regSet (regSet (regSet r 8 a) 9 9) 7 0x1000 with vbase := 0x2000 }
/-- The supervisor runs with `a` in A0 and 9 in A1. -/
def seqSv (a : W64) : State := { live with sv := { live.sv with st := .running, r := regSet (regSet live.sv.r 8 a) 9 9 } }
/-- LD and ST of 2^sz bytes at [A0]; of A1 or, in 128 bits, of S2. -/
def at0 (sz : BitVec 3) (rt : BitVec 5) : MemForm := .c3 sz false rt 8 0
/-- VFLAGS_ACC (0x3B) and VF_SUBST (0x41) in the register block. -/
theorem wit_LoadResults_block : Ready (seqB 0x80000003B0) c0 4 ∧ (memOps (rg (seqB 0x80000003B0)) false (at0 3 10)).ok = true ∧
    (memOps (rg (seqB 0x80000003B0)) false (at0 3 10)).addr = 2 ^ 39 + 16 * 0x3B ∧ (veEntry (seqB 0x80000003B0) 0 0x3B).isSome = true ∧
    (memOps (rg (seqB 0x8000000410)) false (at0 4 2)).ok = true ∧ 2 ^ (memOps (rg (seqB 0x8000000410)) false (at0 4 2)).sz = 16 ∧
    (veEntry (seqB 0x8000000410) 0 0x41).isSome = true ∧ veEntry (seqB 0x8000000FF0) 0 0xFF = none ∧ (memOps (rg (seqB 0x80000003B8)) false (at0 3 10)).addr % 16 ≠ 0 := by
  unfold Ready; decide +kernel
/-- Boot ROM, working RAM in both windows, and HBM. -/
theorem wit_LoadResults_supervisor : Ready (seqSv 0x10) .sv 4 ∧ (memOps (seqSv 0x10).sv.r false (at0 3 10)).ok = true ∧ (memOps (seqSv 0x10).sv.r false (at0 3 10)).addr < 0x100000 ∧
    (seqSv 0x10).fab.mgtArb.frozen = false ∧ (seqSv 0x10).sv.dcache = [] ∧ (memOps (seqSv 0x80F0000010).sv.r false (at0 3 10)).addr = 0x80F0000010 ∧
    Ready (seqSv 0x1000000000) .sv 4 ∧ (memOps (seqSv 0x1000000000).sv.r false (at0 3 10)).addr = hbmLo ∧ accCheck (taken (seqSv 0x1000000000) .sv 4) .sv .read hbmLo = 0 ∧
    devWaits (taken (seqSv 0x1000000000) .sv 4) .supervisor hbmLo = false := by
  unfold Ready; decide +kernel

theorem test_ld : gives (.ld c0 (.c3 1 true 10 8 0)) seqM (fun t => regGet (rg t) 10 == 0xFFFFFFFFFFFF81F0 && (rg t).pc == 4) = true := by decide +kernel
theorem test_ld_h0 : gives (.ld c0 (.h0 2 0)) seqM (fun t => regGet (rg t) 10 == 0x81F0 && (rg t).pc == 2) = true := by decide +kernel

/-- ST.16 to [A0 + 3], unaligned inside a word; and at the last byte of a word, across two. -/
theorem wit_StoreResults : Inv seqM ∧ (memOps (rg seqM) true (.c3 1 false 8 8 15)).ok = true ∧ (memOps (rg seqM) true (.c3 1 false 8 8 15)).addr = 0x10F ∧
    seqM.twin.resync = none ∧ storeQueued seqM c0 (nthAddr 0x10F 0 / 16 * 16) = false ∧ storeQueued seqM c0 (nthAddr 0x10F 1 / 16 * 16) = false ∧
    seqByte seqM 0 .write (nthAddr 0x10F 0) = some (hb + 0x10F) ∧ seqByte seqM 0 .write (nthAddr 0x10F 1) = some (hb + 0x110) ∧
    partsBad seqM c0 .write (accParts 0x40000000 1) = some (0, 4, 0x40000000) := by
  refine ⟨?_, ?_⟩
  · unfold Inv; decide +kernel
  · decide +kernel

/-- A segment of one design cycle in phase `ph`. -/
def runW (ph : Phase) : Run :=
  { job := { w0 := 0, w1 := 0, early := false }, last := 1, jobLast := 1, cycle := 1, phase := ph, obs := false, trace := false, det := false, brk := false, draining := false, stim := [], done := [],
    firstDone := none, slots := [], writes := [], dmq := [], grants := [], grantSeq := 0 }
/-- An image with a DMEM section of 256 bytes at 0x4000 and a JOURNAL section at 0x5000, and a segment of it that evaluates. -/
def dmS : State := modPart (ve0 fun r => regSet (regSet r 8 0x4000) 9 7) 0 fun p => { p with
  imageState := 3, bind := [0], run := some (runW .evaluate)
  image := some { hdr := { sectCount := 2, lveCount := 1, fourState := false, gated := false, fold := 0, resultDepth := 1, rnMask := 0, stateBytes := 64, cbmpOff := 0
                           rsltOff := 0x800, stimWords := 0, resultWords := 0, dmwMax := 2, energyNj := 0, exchSlots := 0, crc := 0 }
                  sections := [{ kind := 6, lve := 0, space := 0, crc := 0, offset := 0x4000, length := 256 }, { kind := 7, lve := 0, space := 0, crc := 0, offset := 0x5000, length := 128 }]
                  portMap := []
                  triggers := [] } }
/-- A store to design memory is queued. -/
theorem wit_StoreResults_queued : Inv dmS ∧ Ready dmS c0 4 ∧ storeQueued dmS c0 0x4000 = true ∧ (seqByte dmS 0 .write 0x4000).isSome = true ∧ execPart dmS 0 = some 0 ∧
    gives (.st c0 (.c3 1 false 9 8 0)) dmS (fun t => (t.parts[(0 : Fin 16)].run.map fun r => r.dmq.map (·.addr)) == some [0x4000]) = true := by
  refine ⟨?_, ?_⟩
  · unfold Inv; decide +kernel
  · unfold Ready; decide +kernel

/-- The JOURNAL words of the queued store can be written. -/
theorem wit_StoreResults_journal : (partDev dmS 0 false 0x5000).map (unitOf dmS) = some (unitOf dmS (hb + 0x5000)) ∧ devWaits dmS (.engine 0 5) (hb + 0x5000) = false ∧
    devWaits dmS (.engine 0 5) (hb + 0x5010) = false ∧ (match unitOf dmS (hb + 0x5000) with | some (.bank _) => false | _ => true) = true ∧
    gives (.st c0 (.c3 3 false 9 8 0)) dmS (fun t => ((t.parts[(0 : Fin 16)].run.map fun r => r.dmq.map fun w => (w.lve, w.mask, w.data.toNat)) == some [(0, byteMask 0 8, 7)])) = true := by
  decide +kernel
/-- Register block entries that are stored to at their width, at another, and one that is not. -/
theorem wit_StoreResults_block : ([0x80000003B0, 0x80000003C0, 0x8000000420].all fun a => (memOps (rg (seqB a)) true (at0 3 9)).ok && decide ((memOps (rg (seqB a)) true (at0 3 9)).addr = a.toNat)) = true ∧
    (memOps (rg (seqB 0x8000000410)) true (at0 4 2)).ok = true ∧ (memOps (rg (seqB 0x8000000410)) true (at0 3 9)).addr = 2 ^ 39 + 0x410 ∧ Ready (seqB 0x80000003B0) c0 4 ∧
    gives (.st c0 (at0 3 9)) (seqB 0x80000003B0) (fun t => t.eng[(0 : Fin 64)].vflagsAcc == 9) = true ∧
    gives (.st c0 (at0 3 9)) (seqB 0x8000000410) (fun t => (rg t).pc == 0x2030) = true := by
  unfold Ready; decide +kernel
/-- Working RAM, boot ROM and HBM. -/
theorem wit_StoreResults_supervisor : Ready (seqSv 0x10) .sv 4 ∧ lowRam (seqSv 0x10) 0x10 = true ∧ lowRam { seqSv 0x10 with fab := { live.fab with remap := false } } 0x10 = false ∧
    (memOps (seqSv 0x80F0000010).sv.r true (at0 3 9)).ok = true ∧ accCheck (taken (seqSv 0x1000000000) .sv 4) .sv .write hbmLo = 0 ∧
    gives (.st .sv (at0 3 9)) (seqSv 0x80F0000010) (fun t => cellGet t.mem.ram 0x10 == 9) = true := by
  unfold Ready; decide +kernel

theorem test_st : gives (.st c0 (.c3 1 false 8 8 15)) seqM (fun t => cellGet t.mem.cells (hb + 0x10F) == 0 && cellGet t.mem.cells (hb + 0x110) == 1 &&
    cellGet t.mem.cells (hb + 0x100) == 0xF0) = true := by decide +kernel
/-- A store outside the partition's bounds enters vector 3. -/
theorem test_st_fault : gives (.st c0 (.h0 8 7)) (ve0 fun r => { regSet (regSet r 7 0x1000) 15 0x40000000 with vbase := 0x2000 }) (fun t => (rg t).pc == 0x2030) = true := by
  decide +kernel

theorem wit_BranchesAndCalls : Ready seqM c0 4 ∧ (brOps (.h3 14 0x10)).cond < 15 ∧ (brOps (.c4 0 0x3FFFFF)).cond < 15 ∧ (brOps (.h3 15 0)).cond = 15 ∧
    (rg seqM).g[(7 : Fin 8)].toNat % 16 = 0 ∧ (rg seqM).slim.toNat + 144 ≤ (rg seqM).g[(7 : Fin 8)].toNat ∧ 0 < (rg seqM).resident.val ∧
    (rg seqM).resident ≠ 15 ∧ (rg seqM).resident = 1 ∧ (rg seqM).spillTop = 1 ∧ Ready (ve0 fun r => { r with resident := 2 }) c0 4 ∧
    ¬ ((rg seqA).g[(7 : Fin 8)].toNat % 16 = 0 ∧ (rg seqA).slim.toNat + 144 ≤ (rg seqA).g[(7 : Fin 8)].toNat) := by unfold Ready; decide +kernel

/-- 15 windows resident, the oldest's slot at 0x800; and one, its caller's window spilled there. -/
def seqSpill : State := ve0 fun r => { regSet r 7 0x1000 with resident := 15, wslot := r.wslot.set 2 0x800, spillTop := 1 }
def seqFill : State := ve0 fun r => { regSet r 7 0x1000 with resident := 1, spillTop := 0x800 }
theorem wit_BranchesAndCalls_spill : Inv seqSpill ∧ Ready seqSpill c0 4 ∧ (rg seqSpill).cwp - 14 = 2 ∧ (rg seqSpill).resident = 15 ∧ (rg seqSpill).slim.toNat + 144 ≤ (rg seqSpill).g[(7 : Fin 8)].toNat ∧
    ((List.range 144).all fun i => seqByte (taken seqSpill c0 4) 0 .write (nthAddr 0x800 i) == some (hb + 0x800 + i) && !storeQueued seqSpill c0 (nthAddr 0x800 i / 16 * 16)) = true ∧
    Ready seqFill c0 2 ∧ (rg seqFill).resident = 1 ∧ (rg seqFill).spillTop ≠ 1 ∧
    ((List.range 144).all fun i => seqByte (taken seqFill c0 2) 0 .read (nthAddr 0x800 i) == some (hb + 0x800 + i)) = true := by
  unfold Inv Ready; decide +kernel

/-- Whatever state a step leads to, the core executes an instruction there. -/
theorem ready_after {s : State} {c : CoreId} {len : Nat}
    (h : (match step s with
      | .next t => canRun t c && (openGroup t c).isEmpty && !entryDue t c && decide ((fetchGo t c (len == 4)).1 = .ok)
      | _ => true) = true) : ∀ t, step s = .next t → Ready t c len := by
  intro t ht
  rw [ht] at h
  simp only [Bool.and_eq_true, Bool.not_eq_true', List.isEmpty_iff, decide_eq_true_eq] at h
  obtain ⟨⟨⟨h1, h2⟩, h3⟩, h4⟩ := h
  exact ⟨h1, h2, h3, h4⟩

/-- A `CALL` and the `RET` behind it at the front of the queue. -/
theorem wit_BranchesAndCalls_pair : ∀ t, step { seqM with pending := [.call c0 0x10, .ret c0 0, .timeSync] } = .next t → Ready t c0 2 :=
  ready_after (by decide +kernel)

theorem test_b_cond : gives (.bCond c0 (.h3 1 0x10)) (ve0 fun r => { r with fl := 4 }) (fun t => (rg t).pc == 0x20) = true := by decide +kernel
theorem test_b_cond_back : gives (.bCond c0 (.c4 0 0x3FFFFF)) (ve0 fun r => { r with pc := 0x40 }) (fun t => (rg t).pc == 0x3E) = true := by decide +kernel
theorem test_b_reg : gives (.bReg c0 8 0 0) seqM (fun t => (rg t).pc == 0x100) = true := by decide +kernel
theorem test_call : gives (.call c0 0x10) seqM (fun t => (rg t).pc == 0x20 && (rg t).cwp == 1 && regGet (rg t) 7 == 0x1000 - 144 && (rg t).ra[(1 : Fin 16)] == 4) = true := by
  decide +kernel
theorem test_call_reg : gives (.callReg c0 8 0 0) seqM (fun t => (rg t).pc == 0x100 && (rg t).resident == 2) = true := by decide +kernel
/-- A call without stack room enters vector 4; here its frame does not fit either, a double fault. -/
theorem test_ret_empty : gives (.ret c0 0) seqM (fun t => (rg t).pc == 0x2050 && cellGet t.mem.cells (hb + 0xFF4) == 3) = true := by decide +kernel

theorem wit_ExceptionEntryAndReturn : Inv seqM ∧ Ready seqM c0 4 ∧ (rg seqM).slim.toNat + 32 ≤ (rg seqM).g[(7 : Fin 8)].toNat ∧
    storeQueued seqM c0 0xFE0 = false ∧ storeQueued seqM c0 0xFF0 = false ∧ seqByte seqM 0 .write 0xFE0 = some (hb + 0xFE0) ∧
    seqByte seqM 0 .write 0xFF0 = some (hb + 0xFF0) ∧ accCheck seqM c0 .fetch (vectorAddr (rg seqM) 9).toNat = 0 ∧
    (vectorAddr (rg seqM) 9).toNat / 64 ∈ (core (modSeq seqM 0 fun k => { k with icache := [0x2090 / 64] }) c0).icache ∧ detCore seqM c0 = false ∧
    (vectorAddr (rg seqM) 9).toNat / 64 ≠ 0xFE0 / 64 ∧ (vectorAddr (rg seqM) 9).toNat / 64 ≠ (0xFE0 + 16) / 64 ∧ Ready seqM c0 2 ∧
    (rg seqA).g[(7 : Fin 8)].toNat < (rg seqA).slim.toNat + 32 ∧
    (match frameRead seqM c0 0x1000 with
      | .ok lo _ s1 => (admitted s1 c0 (flRestore (BitVec.ofNat 64 (fld lo 127 64)))).isNone && (core s1 c0).openFaults == []
      | _ => false) = true ∧
    (match frameRead (ve0 fun r => regSet r 7 0x40000000) c0 0x40000000 with
      | .bad _ _ => true
      | _ => false) = true := by
  refine ⟨?_, ?_⟩
  · unfold Inv; decide +kernel
  · unfold Ready; decide +kernel

theorem test_trap : gives (.trap c0 0x12) seqM (fun t => (rg t).pc == 0x2090 && cellGet t.mem.cells (hb + 0xFF4) == 0x12 && cellGet t.mem.cells (hb + 0xFF7) == 9 &&
    cellGet t.mem.cells (hb + 0xFE0) == 2) = true := by decide +kernel
/-- The frame at 0x100 holds PC 0x81F0. -/
theorem test_rti : gives (.rti c0 0) (poke (ve0 fun r => regSet r 7 0x100) (hb + 0x100) [0xF0, 0x81]) (fun t => (rg t).pc == 0x81F0 && regGet (rg t) 7 == 0x120) = true := by
  decide +kernel

/-! ### System instructions and moves -/

/-- VE 0 with an empty group waiting in its issue queue. -/
def seqQ : State := modEng seqM 0 fun e => { e with queue := [{ ins := [], started := false, staged := false, taint := [], hist := none }] }

theorem wit_SystemAndRegisterMoves : Ready seqM c0 4 ∧ Ready seqM c0 2 ∧ Ready seqQ c0 2 ∧ seqM.eng[(0 : Fin 64)].queue = [] ∧ (core seqM c0).arrived = false ∧
    (Ready (modSeq seqM 0 fun k => { k with arrived := true }) c0 4 ∧ (core (modSeq seqM 0 fun k => { k with arrived := true }) c0).begunBarrier = false) ∧
    Ready seqQ c0 4 ∧ seqQ.eng[(0 : Fin 64)].queue ≠ [] ∧
    Ready { live with sv := { live.sv with st := .running } } .sv 4 ∧
    (9 : BitVec 4).toNat < 10 ∧ (27 : BitVec 5).toNat < 28 ∧ (11 : BitVec 4).toNat < 12 ∧ (vlOps (.c6 10 8 0)).2.2.2.2 = true ∧ c0 ≠ .sv := by
  unfold Ready; decide +kernel

theorem test_nop : gives (.nop c0 0xFF) seqM (fun t => (rg t).pc == 2 && t.seq[(0 : Fin 64)].retired == 1) = true := by decide +kernel
theorem test_wait : gives (.wait c0 0) seqM (fun t => (rg t).pc == 2) = true := by decide +kernel
theorem test_barrier : gives (.barrier c0 0) seqM (fun t => (rg t).pc == 0 && t.seq[(0 : Fin 64)].st == .parked) = true := by decide +kernel
theorem test_sync_i : gives (.syncI c0 0) (modSeq seqM 0 fun k => { k with icache := [3] }) (fun t => t.seq[(0 : Fin 64)].icache == []) = true := by decide +kernel
theorem test_cinv_i : gives (.cinvI c0) (modSeq seqM 0 fun k => { k with icache := [3] }) (fun t => t.seq[(0 : Fin 64)].icache == []) = true := by decide +kernel
theorem test_cinv_d : gives (.cinvD c0) seqM (fun t => (rg t).pc == 2) = true := by decide +kernel
theorem test_cinv_range : gives (.cinvDRange c0 8 9 0) seqM (fun t => (rg t).pc == 4) = true := by decide +kernel
theorem test_mov_from_sr : gives (.movFromSr c0 10 5 0) seqM (fun t => regGet (rg t) 10 == 65536) = true := by decide +kernel
theorem test_mov_to_sr : gives (.movToSr c0 2 9 0) seqA (fun t => (rg t).slim == 0xFFFFFFFFFFFFFFF0) = true := by decide +kernel
theorem test_mov_x : gives (.movX c0 27 0 0) (ve0 fun r => { r with w := r.w.set 0 77 }) (fun t => (rg t).s[(11 : Fin 12)] == 77) = true := by decide +kernel
theorem test_mov_w_half : gives (.movWHalf c0 8 3 true true 0) seqM (fun t => (rg t).w[(3 : Fin 8)] == 0x1000000000000000000) = true := by decide +kernel
/-- BASE wraps at 2^38 and the field above it stays. -/
theorem test_add_sn : gives (.addSn c0 2 8 0) (ve0 fun r => { regSet r 8 0x3FFFFFFFFF with s := r.s.set 2 0x4000000002 }) (fun t => (rg t).s[(2 : Fin 12)] == 0x4000000001) = true := by
  decide +kernel
theorem test_setvl : gives (.setvl c0 (.c6 10 8 0)) (ve0 fun r => regSet r 8 0x20000) (fun t => (rg t).vl == 65536 && regGet (rg t) 10 == 65536) = true := by
  decide +kernel
theorem test_setvl_zero : gives (.setvl c0 (.c6 10 8 0)) (ve0 id) (fun t => (rg t).vl == 1 && flZ (rg t).fl) = true := by decide +kernel

/-! ### Block repeat and entries -/

/-- Bytes 1, 2 at 0x200 and two to copy: BS 0x200, BD 0x300, BC 2. -/
def seqR : State := poke (ve0 fun r => { r with bs := 0x200, bd := 0x300, bc := 2 }) (hb + 0x200) [1, 2]

theorem wit_RepeatElements : Ready seqR c0 4 ∧ (rg seqR).bc ≠ 0 ∧ Ready (ve0 id) c0 4 ∧ (rg (ve0 id)).bc = 0 ∧
    rptOk .movs { sz := 0, fm := 0, pred := 0, gap := 0, rsv := 0 } = true ∧ rptOk .fills { sz := 4, fm := 7, pred := 0, gap := 7, rsv := 0 } = true ∧
    rptOk .cmps { sz := 0, fm := 0, pred := 0, gap := 0, rsv := 0 } = true ∧ rptOk .scans { sz := 0, fm := 1, pred := 3, gap := 0, rsv := 0 } = true ∧
    (match loadAcc seqR c0 0x200 1 with
      | .ok v s1 => v.toNat == 1 && (match storeAcc s1 c0 0x300 1 (BitVec.ofNat 128 v.toNat) with | .ok _ s2 => (core s2 c0).r.bc == 2 | _ => false)
      | _ => false) = true ∧
    (match loadAcc seqR c0 0x200 1 with
      | .ok v s1 => (match loadAcc s1 c0 0x300 1 with | .ok w _ => v != w | _ => false)
      | _ => false) = true := by
  unfold Ready; decide +kernel

theorem test_movs : gives (.rptMovs c0 { sz := 0, fm := 0, pred := 0, gap := 0, rsv := 0 } none) seqR (fun t => cellGet t.mem.cells (hb + 0x300) == 1 &&
    cellGet t.mem.cells (hb + 0x301) == 2 && (rg t).bc == 0 && (rg t).bd == 0x302 && (rg t).pc == 4) = true := by decide +kernel
/-- An interrupt taken after the first element leaves the registers there; the elements lie GAP apart. -/
theorem test_fills : gives (.rptFills c0 { sz := 0, fm := 0, pred := 0, gap := 1, rsv := 0 } (some 1)) (modSeq seqR 0 fun k => { k with r := { k.r with f := k.r.f.set 0 9 } })
    (fun t => cellGet t.mem.cells (hb + 0x300) == 9 && cellGet t.mem.cells (hb + 0x302) == 0 && (rg t).bc == 1 && (rg t).bd == 0x302 && (rg t).pc == 0) = true := by decide +kernel
theorem test_cmps : gives (.rptCmps c0 { sz := 0, fm := 0, pred := 0, gap := 0, rsv := 0 } none) seqR (fun t => !flZ (rg t).fl && (rg t).bc == 2 && (rg t).bs == 0x200) = true := by
  decide +kernel
theorem test_scans : gives (.rptScans c0 { sz := 0, fm := 1, pred := 0, gap := 0, rsv := 0 } none) (modSeq seqR 0 fun k => { k with r := { k.r with f := k.r.f.set 1 0xFF0000000000000002 } })
    (fun t => (rg t).bs == 0x201 && (rg t).bc == 1) = true := by decide +kernel

/-- VE 0 with a doorbell pending at level 4 and interrupts enabled. -/
def seqI : State := modSeq (ve0 fun r => { regSet r 7 0x1000 with fl := 0x100, vbase := 0x2000 }) 0 fun k => { k with dbPend := true, db := 5 }
/-- VE 0 with a vector fault of cause 2 at element 3 due. -/
def seqV : State := modEng seqM 0 fun e => { e with vfDue := true, vfCause := 2, vfElem := 3 }

theorem wit_CoreAndFaultEntries : atInterruptPoint seqI c0 = true ∧ faultDue seqI c0 = false ∧ openGroup seqI c0 = [] ∧ (admitted seqI c0 (rg seqI).fl).isSome = true ∧
    admitted seqM c0 (rg seqM).fl = none ∧ Ready seqM c0 4 ∧ fld (word32 [(0x30, 26), (0xE, 7)]) 31 26 < 0x38 ∧
    illegalCode seqM c0 true (word32 [(0x30, 26), (0xE, 7)]) = some 1 ∧ (fetchGo (ve0 fun r => { r with pc := 0x40000000 }) c0 false).1 = .bad 4 0x40000000 ∧
    entryDue (ve0 id) c0 = false ∧ detCore seqM c0 = false ∧ accCheck seqM c0 .fetch 3 = 0 ∧ (rg seqM).pc.toNat % 2 = 0 ∧
    canRun seqV c0 = true ∧ seqV.eng[(0 : Fin 64)].vfDue = true ∧ seqV.eng[(0 : Fin 64)].openIns = [] ∧ queueFill seqV.eng[(0 : Fin 64)] < 32 := by
  unfold Ready; decide +kernel

theorem test_interrupt : gives (.interruptEntry c0) seqI (fun t => (rg t).pc == 0x2140 && fld (rg t).fl 11 9 == 4) = true := by decide +kernel
theorem test_illegal : gives (.illegalInstruction c0 true (word32 [(0x30, 26), (0xE, 7)])) seqM (fun t => (rg t).pc == 0x2010) = true := by decide +kernel
theorem test_fetch_fault : gives (.instructionAccess c0) (ve0 fun r => { regSet r 7 0x1000 with pc := 0x40000000, vbase := 0x2000 })
    (fun t => (rg t).pc == 0x2020 && cellGet t.mem.cells (hb + 0xFF4) == 4) = true := by decide +kernel
theorem test_db_value : gives (.dbValueRead 0) (modSeq seqM 0 fun k => { k with dbPend := true, db := 5 }) (fun t => t.outs == [.block c0 5] && !t.seq[(0 : Fin 64)].dbPend) = true := by
  decide +kernel
theorem test_vf_subst_en : gives (.vfSubstEn 0 1) (modEng seqM 0 fun e => { e with vfElem := 7 }) (fun t => t.eng[(0 : Fin 64)].substEn && t.eng[(0 : Fin 64)].substElem == 7) = true := by
  decide +kernel
theorem test_vector_fault : gives (.vectorFaultEntry 0) seqV
    (fun t => (rg t).pc == 0x2080 && !t.eng[(0 : Fin 64)].vfDue && cellGet t.mem.cells (hb + 0xFF4) == 2 && cellGet t.mem.cells (hb + 0xFF0) == 3) = true := by decide +kernel
theorem test_lockstep : gives .lockstepMismatch { live with sv := { live.sv with st := .running } } (fun t => t.ls.mismatches == 1) = true := by decide +kernel


/-! ### Vector instructions and chain groups -/

/-- A dense descriptor with base `a`. -/
def dense (a : Nat) : W128 := at' 128 125 1 ||| BitVec.ofNat 128 a
/-- D in S0, A in S1, B in S2 and C in S3. -/
def vops (c : BitVec 4) : VOps := { d := 0, a := 1, b := 2, c := c, g := false, k := false }
/-- No B and no C. -/
def vops1 : VOps := { d := 0, a := 1, b := 0, c := 0, g := false, k := false }
/-- Streams at 0x200 (S0), 0x300, 0x400 and 0x500, of one element. -/
def vregs : Vector W128 12 := ((((Vector.replicate 12 (0 : W128)).set 0 (dense 0x200)).set 1 (dense 0x300)).set 2 (dense 0x400)).set 3 (dense 0x500)
/-- VE 0 with those streams; its element of A is 5, of B 3. -/
def vecS : State := poke (poke (ve0 fun r => { regSet r 7 0x1000 with s := vregs, vbase := 0x2000, vl := 1 }) (hb + 0x300) [5]) (hb + 0x400) [3]
/-- A captured instruction word of those streams. -/
def qIns (w : W32) : QInstr := { enc := w, vl := 1, desc := vregs, vctl := 0, fpsub := 0, pc := 0 }
/-- VE 0 with a group of one instruction at its queue's head. -/
def vecG (w : W32) (started : Bool) : State :=
  modEng vecS 0 fun e => { e with queue := [{ ins := [qIns w], started := started, staged := false, taint := [], hist := none }] }
/-- The command leaves one group, and the PC after the instruction. -/
def issued (i : Instr) : Bool := gives i vecS fun t => t.eng[(0 : Fin 64)].queue.length == 1 && (rg t).pc == 4

theorem wit_VectorIssue : canRun vecS c0 = true ∧ vecS.eng[(0 : Fin 64)].vfDue = false ∧ queueFill vecS.eng[(0 : Fin 64)] < 32 ∧
    (vdecode (vword 0x3D 15 (vops 0))).any (fun v => engineOk (isRn 0) 0 v.op && !v.k && groupOk ([vword 0x3D 15 (vops 0)].filterMap vdecode) vregs) = true ∧
    (vdecode (vword 0x3D 15 { vops 0 with k := true })).any (fun v => v.k) = true ∧ vdecode 0 = none ∧
    (vdecode (vword 0x3F 48 (vops 3))).any (fun v => !engineOk (isRn 0) 0 v.op) = true ∧
    groupOk ([vword 0x3D 15 { vops 0 with b := 12 }].filterMap vdecode) vregs = false := by decide +kernel

/-- The fetch of an instruction of either length is served and no entry is due. -/
theorem wit_VectorIssue_fetch : entryDue vecS c0 = false ∧ (fetchGo vecS c0 true).1 = .ok ∧ (fetchGo vecS c0 false).1 = .ok := by decide +kernel

theorem test_issue_logic : [.vlut 0 0x96 (vops 3), .vqlut 0 0x96 (vops 3), .vres 0 0 (vops 3), .vcmpr 0 0 (vops 0), .vexpd 0 0 (vops 0), .vchg 0 0 (vops 0)].all issued = true := by
  decide +kernel
theorem test_issue_route : [.vperm 0 0 (vops 0), .vbgath 0 0 (vops 3), .vgath 0 0 vops1, .vscat 0 0 vops1].all issued = true := by decide +kernel
theorem test_issue_int : [.vadd 0 15 (vops 0), .vadc 0 15 (vops 3), .vsub 0 15 (vops 0), .vsbc 0 15 (vops 3), .vcmp 0 0 (vops 0), .vsel 0 0 (vops 3), .vshl 0 0 (vops 0),
    .vshr 0 1 (vops 0), .vrot 0 1 (vops 0), .vmulw 0 0 (vops 0), .vmull 0 0 (vops 0), .vdivsInit 0 0 vops1, .vdivsStep 0 3 (vops 0), .vdivsFix 0 0 (vops 0)].all issued = true := by
  decide +kernel
theorem test_issue_fp : [.vfadd 0 0 (vops 0), .vfsub 0 0 (vops 0), .vfmul 0 8 (vops 0), .vfmin 0 0 (vops 0), .vfmax 0 0 (vops 0), .vfcmp 0 4 (vops 0), .vfcvt 0 0 vops1].all issued = true := by
  decide +kernel
/-- `VFMA` runs on an RN engine alone: illegal on VE 0. -/
theorem test_vfma_illegal : gives (.vfma 0 0 (vops 3)) vecS (fun t => t.eng[(0 : Fin 64)].queue == [] && (rg t).pc == 0x2010) = true := by decide +kernel
theorem test_vissue : gives (.vissue c0 (.c6 8 false 0 0)) (modSeq vecS 0 fun k => { k with r := regSet k.r 8 ((vword 0x3D 15 (vops 0)).setWidth 64) })
    (fun t => t.eng[(0 : Fin 64)].queue.length == 1 && (rg t).pc == 4) = true := by decide +kernel
/-- A word with K set leaves the group open. -/
theorem test_open_group : gives (.vadd 0 15 { vops 0 with k := true }) vecS (fun t => t.eng[(0 : Fin 64)].queue == [] && t.eng[(0 : Fin 64)].openIns.length == 1) = true := by
  decide +kernel

/-- The value an operation gives on words without control or packed input. -/
def vOne (op : VOp) (a b c : W128) : W128 := (velem true (qIns 0) op [a] [b] [c] [] false).out.headD 0

theorem test_velem_logic : vOne (.lut 0x96) 0b1100 0b1010 0b0110 = 0b0000 ∧ vOne (.lut 0x80) 7 3 5 = 1 ∧
    (velem false (qIns 0) (.qlut 0x80) [1, 0] [1, 0] [1, 1] [] false).out = [0x1, 0x1] ∧
    (velem false (qIns 0) (.res 0) [1, 0] [0, 0] [0, 1] [] false).out = [1, 1] := by decide +kernel
theorem test_velem_int : vOne (.shl) 3 127 0 = 0x80000000000000000000000000000000 ∧ vOne (.shr true) (-4) 1 0 = -2 ∧
    vOne (.rot true) 1 1 0 = 0x80000000000000000000000000000000 ∧ vOne (.mulw true true false false) 0xFFFFFFFFFFFFFFFF 2 0 = -2 ∧
    vOne .mull 0x30000000000000005 0x40000000000000006 0 = 0xC000000000000001E ∧ vOne (.cmp false 4) (-1) 1 0 = BitVec.allOnes 128 := by decide +kernel
/-- 1.0 + 2.0 = 3.0 and 2.0 * 2.0 = 4.0 in single precision; the lanes of ones and zeros stay zero. -/
theorem test_velem_fp : vOne (.fadd false) 0x3F800000 0x40000000 0 = 0x40400000 ∧ vOne (.fmul false) 0x40000000 0x40000000 0 = 0x40800000 ∧
    vOne (.fma false false false) 0x40000000 0x40000000 0x3F800000 = 0x40A00000 := by decide +kernel

theorem wit_DivisionElements : ((6 : W128) ||| at' 128 64 4).setWidth 64 = (6 : W64) ∧ (((6 : W128) ||| at' 128 64 4) >>> 64).setWidth 64 ≠ (0 : W64) ∧
    ((6 : W128) >>> 64).setWidth 64 = (0 : W64) := by decide +kernel
theorem wit_FloatElements : fmtS.val .full 0x7FC00000 = .nan 0x7FC00000 false ∧ (∃ n, fmtS.val .full 0x7F800001 = .nan n true) ∧
    (∃ m e, fmtS.val .full 0x3F800000 = .fin false m e ∧ m ≠ 0) ∧ fmtS.isSub 1 = true := by
  refine ⟨by decide +kernel, ⟨_, by rfl⟩, ⟨_, _, by rfl, by decide +kernel⟩, by decide +kernel⟩

/-- Numbers of both formats, a NaN and a number, a subnormal result that is flushed, and a sum that rounds. -/
theorem wit_FloatElements_rounding : (∃ v, ratOf fmtS .full 0x3F800000 = some v) ∧ (∃ v, ratOf fmtD .flush 0x3FF0000000000000 = some v) ∧
    (addLane fmtS 0 .full false 0x3F800000 0x33000000).flags.testBit 3 = true ∧ (addLane fmtS 0 .full false 0x3F800000 0x33000000).bits = 0x3F800000 ∧
    (mulLane fmtS 0 .flush 0x00800000 0x3F000000).flags.testBit 2 = true ∧ (minLane fmtS .full false 0x3F800000 0x7FC00000).bits = 0x3F800000 ∧
    (fcmpLane fmtS .full 4 0x3F800000 0x7FC00000).bits = 0xFFFFFFFF ∧ (toIntLane fmtS 32 1 .full 0x7FC00000).bits = 0 ∧
    (toIntLane fmtS 32 1 .full 0x4F000000).bits = 0x7FFFFFFF ∧ (toIntLane fmtS 32 1 .full 0xCF000001).bits = 0x80000000 ∧ (toIntLane fmtS 32 0 .full 0x40200000).bits = 2 := by
  refine ⟨⟨_, rfl⟩, ⟨_, rfl⟩, ?_⟩
  decide +kernel

/-- `VROT` of the streams: every hypothesis, with element 0 of S0, S1 and S2 at their places. -/
theorem wit_ElementwiseGroup : Inv (vecG (vword 0x3D 128 (vops 0)) true) ∧ execPart (vecG 0 true) 0 = some 0 ∧ engineRuns (vecG 0 true) 0 = true ∧
    (vdecode (vword 0x3D 128 (vops 0))).any (fun i => i.op == .rot false && !i.g && !i.pair && i.reads == [1, 2]) = true ∧
    (qIns 0).vl = 1 ∧ dMode ((qIns 0).dsc 0) ≠ 4 ∧ dMode ((qIns 0).dsc 1) ≠ 4 ∧ dMode ((qIns 0).dsc 2) ≠ 4 ∧
    partDev vecS 0 false (elemAddr ((qIns 0).dsc 0) 16 0 0).toNat = some (hb + 0x200) ∧ (readWord vecS 0 (veCode vecS 0) (hb + 0x200)).status = 0 ∧
    partDev vecS 0 false (elemAddr ((qIns 0).dsc 1) 16 0 0).toNat = some (hb + 0x300) ∧ (readWord vecS 0 (veCode vecS 0) (hb + 0x300)).status = 0 ∧
    partDev vecS 0 false (elemAddr ((qIns 0).dsc 2) 16 0 0).toNat = some (hb + 0x400) ∧ (readWord vecS 0 (veCode vecS 0) (hb + 0x400)).status = 0 ∧
    vecS.parts[(0 : Fin 16)].run = none ∧ vecS.mem.poison = [] ∧ vecS.mem.latent = [] ∧ vecS.twin.resync = none ∧ (vecG 0 true).eng[(0 : Fin 64)].substEn = false := by
  refine ⟨?_, ?_⟩
  · unfold Inv; decide +kernel
  · decide +kernel

/-- 5 rotated left by 3. -/
theorem test_group_complete : gives (.groupComplete 0) (vecG (vword 0x3D 128 (vops 0)) true) (fun t => cellGet t.mem.cells (hb + 0x200) == 40 && t.eng[(0 : Fin 64)].queue == []) = true := by
  decide +kernel
theorem test_group_start : gives (.chainGroupStart 0 false) (vecG (vword 0x3D 128 (vops 0)) false) (fun t => t.eng[(0 : Fin 64)].queue.all (·.started)) = true := by decide +kernel
/-- `VROT` with A at the partition's limit. -/
def qFar : QInstr := { qIns (vword 0x3D 128 (vops 0)) with desc := vregs.set 1 (dense 0x40000000) }
/-- A stream outside the partition's bounds is an issue fault (cause 4). -/
theorem test_group_bounds : gives (.chainGroupStart 0 false) (modEng vecS 0 fun e =>
    { e with queue := [{ ins := [qFar], started := false, staged := false, taint := [], hist := none }] }) (fun t => t.eng[(0 : Fin 64)].vfDue && t.eng[(0 : Fin 64)].vfCause == 4) = true := by
  decide +kernel
/-- An uncorrectable word of A faults at its element (cause 6). -/
theorem test_element_fault : gives (.elementFault 0 []) { vecG (vword 0x3D 128 (vops 0)) true with
    mem := { vecS.mem with latent := [{ word := (hb + 0x300) / 16, flips := 3, multi := true }] } } (fun t => t.eng[(0 : Fin 64)].vfCause == 6 && t.eng[(0 : Fin 64)].stopped) = true := by
  decide +kernel

theorem wit_ChainGroups : execPart vecS 0 = some 0 ∧ engineRuns vecS 0 = true ∧
    (∀ g ∈ (vecG (vword 0x3D 128 (vops 0)) false).eng[(0 : Fin 64)].queue, g.started = false ∧
      (match issueCheck (vecG (vword 0x3D 128 (vops 0)) false) 0 0 g with | .inr _ => true | _ => false) = true) ∧
    (∀ g ∈ (vecG (vword 0x3D 128 (vops 0)) true).eng[(0 : Fin 64)].queue, g.started = true ∧
      (runGroup (vecG (vword 0x3D 128 (vops 0)) true) 0 0 g).live = true ∧ (runGroup (vecG (vword 0x3D 128 (vops 0)) true) 0 0 g).trap = none) := by decide +kernel

/-- A group whose element 0 faults, in a segment; with that fault noted twice before, it is the third repeat. -/
def vecF (hist : Option (Nat × Nat × Nat)) : State :=
  modPart { modEng vecS 0 fun e => { e with queue := [{ ins := [qIns (vword 0x3D 128 (vops 0))], started := true, staged := false, taint := [], hist := hist }] } with
    mem := { vecS.mem with latent := [{ word := (hb + 0x300) / 16, flips := 3, multi := true }] } } 0 fun p => { p with bind := [0], run := some (runW .evaluate) }
theorem wit_ChainGroups_fault : engineRuns (vecF none) 0 = true ∧ (vecF none).seq[(0 : Fin 64)].st = .running ∧
    (∀ g ∈ (vecF none).eng[(0 : Fin 64)].queue, ∃ f, (runGroup (vecF none) 0 0 g).fault = some f ∧ faultRepeat g f = 1 ∧ f.cause = 6) ∧
    (∀ g ∈ (vecF (some (6, 0, 2))).eng[(0 : Fin 64)].queue, ∃ f, (runGroup (vecF (some (6, 0, 2))) 0 0 g).fault = some f ∧ faultRepeat g f = 3 ∧ f.drain = false) ∧
    unfixable { frame := 0, cause := 6, elem := 0, addr := 0, drain := false, issue := false } = false := by
  refine ⟨by decide +kernel, by decide +kernel, ?_, ?_, by decide +kernel⟩
  · intro g hg
    obtain rfl : g = _ := by simpa [vecF, modPart, modEng, updV] using hg
    exact ⟨_, rfl, by decide +kernel, by decide +kernel⟩
  · intro g hg
    obtain rfl : g = _ := by simpa [vecF, modPart, modEng, updV] using hg
    exact ⟨_, rfl, by decide +kernel, by decide +kernel⟩


/-! ### Memory, scratchpad and bus matrix -/

/-- Bank 0 belongs to partition 0 and is owned by VE 0; its first byte is 7, the HBM's 9. -/
def memS : State := poke (poke (modBank (ve0 id) 0 fun k => { k with part := 0, owner := 0x40 }) spLo [7]) hb [9]
/-- The bank hands over to VE 1. -/
def memD : State := modBank memS 0 fun k => { k with drain := some (0x41, .write 0) }
/-- VE 1's fragment at the bank's first word. -/
def frag1 : Frag := fragOf 8 spLo 16
/-- The last output of a state. -/
def lastOut (t : State) : Option Out := t.outs.getLast?

theorem wit_MemoryReadResults : (frag hb 16).wf = true ∧ dead memS = false ∧ frozen memS = false ∧ memS.mem.poison = [] ∧ memS.mem.latent = [] ∧
    unitOf memS hb = some (.pc 0 0 0 0) ∧ mayReach memS (masterKind 0) (.pc 0 0 0 0) hb = true ∧ (pathGrant memS (masterKind 0) (.pc 0 0 0 0) false Rivals.none).isSome = true ∧
    unitOf memS spLo = some (.bank 0) ∧ mayReach memS (masterKind 0) (.bank 0) spLo = true ∧ tapOf memS (masterKind 0) (.bank 0) = none ∧
    unitFenced memS 0 (.bank 0) = false ∧ ownerCheck memS.banks[(0 : Fin 256)] (masterCode memS 0 (masterKind 0)) = 0 ∧
    mayReach memS (masterKind 0x210) (.bank 0) spLo = true ∧ tapOf memS (masterKind 0x210) (.bank 0) = some 0 ∧ (pathGrant memS (masterKind 0x210) (.bank 0) true Rivals.none).isSome = true ∧
    tagBusy memS (frag hb 16) = false ∧ (portGrant memS .supervisor Rivals.none).isSome = true ∧ (pathGrant memS (masterKind 0) (.bank 0) false Rivals.none).isSome = true ∧
    mayReach memS (masterKind 0x220) (.bank 0) spLo = false ∧ unitOf memS 0 = none ∧ hasInternal (masterKind 0) 0 = false ∧ masterKind 0x240 = .supervisor := by decide +kernel

/-- The other clauses about a bank: a new owner during a drain, a non-owner, a fenced bank, and a fenced pseudo-channel. -/
theorem wit_MemoryReadResults_bank : ownerCheck memD.banks[(0 : Fin 256)] 0x41 = 9 ∧ ownerCheck memD.banks[(0 : Fin 256)] 0x40 = 5 ∧ ownerCheck memS.banks[(0 : Fin 256)] 0x41 = 5 ∧
    (modBank memS 0 fun k => { k with fenced := true }).banks[(0 : Fin 256)].fenced = true ∧
    unitFenced (modStack memS 0 fun k => { k with pcFenced := 1 }) 0 (.pc 0 0 0 0) = true := by decide +kernel

theorem test_read_hbm : gives (.memoryRead (frag hb 16) Rivals.none []) memS (fun t => lastOut t == some (.bus 0 0 [9] 0)) = true := by decide +kernel
theorem test_read_owner : gives (.memoryRead (frag spLo 16) Rivals.none []) memS (fun t => lastOut t == some (.bus 0 0 [7] 0)) = true := by decide +kernel
theorem test_read_nonowner : gives (.memoryRead frag1 Rivals.none []) (modPart memS 0 fun p => { p with cfg := { p.cfg with veSet := 3 } })
    (fun t => lastOut t == some (.bus 8 0 [0] 5) && t.banks[(0 : Fin 256)].nonowner == 1) = true := by decide +kernel

theorem wit_MemoryWriteResults : Inv memS ∧ (frag (hb + 8) 4).wf = true ∧ Frag.enablesWf (frag (hb + 8) 4) [true, false, true, true] = true ∧ memS.twin.resync = none ∧ unitOf memS (hb + 8) = some (.pc 0 0 0 0) ∧
    mayReach memS (masterKind 0) (.pc 0 0 0 0) (hb + 8) = true ∧ (∀ x ∈ fragWords (frag (hb + 8) 4), dmOffset memS (masterKind 0) x.1 = none) ∧
    (pathGrant memS (masterKind 0) (.pc 0 0 0 0) false Rivals.none).isSome = true ∧ unitFenced memS 0 (.pc 0 0 0 0) = false := by
  refine ⟨?_, ?_⟩
  · unfold Inv; decide +kernel
  · decide +kernel

/-- The second enabled byte only. -/
theorem test_write_hbm : gives (.memoryWrite (frag (hb + 8) 2) [1, 2] [false, true] false Rivals.none []) memS
    (fun t => cellGet t.mem.cells (hb + 8) == 0 && cellGet t.mem.cells (hb + 9) == 2 && cellGet t.mem.cells hb == 9 && lastOut t == some (.bus 0 0 [] 0)) = true := by decide +kernel
theorem test_write_tap : gives (.memoryWrite (frag spLo 1) [1] [true] true Rivals.none []) memS (fun t => lastOut t == some (.bus 0 0 [] 4) && cellGet t.mem.cells spLo == 7) = true := by
  decide +kernel

theorem wit_AtomicResults : Inv memS ∧ (fragOf 0x220 hb 16).oneWord = true ∧ mayAtomic (masterKind 0x220) false = true ∧ mayAtomic (masterKind 3) true = true ∧
    mayAtomic (masterKind 3) false = false ∧ (pathGrant memS (masterKind 0x220) (.pc 0 0 0 0) false Rivals.none).isSome = true ∧ unitFenced memS (masterDie (masterKind 0x220)) (.pc 0 0 0 0) = false := by
  refine ⟨?_, ?_⟩
  · unfold Inv; decide +kernel
  · decide +kernel

theorem test_atomic_or : gives (.atomicOr (fragOf 3 hb 16) 6 Rivals.none []) memS (fun t => wordGet t.mem (hb / 16) == 15 && t.atomicOps == 1) = true := by decide +kernel
theorem test_atomic_and : gives (.atomicAnd (fragOf 0x220 hb 16) 8 Rivals.none []) memS (fun t => wordGet t.mem (hb / 16) == 8) = true := by decide +kernel
/-- The upper half is kept and the lower wraps. -/
theorem test_atomic_add : gives (.atomicAdd64 (fragOf 0x220 hb 16) 0xFFFFFFFFFFFFFFFF Rivals.none []) memS (fun t => wordGet t.mem (hb / 16) == 8 && lastOut t == some (.bus 0x220 0 [9] 0)) = true := by
  decide +kernel
theorem test_atomic_swap : gives (.atomicSwap (fragOf 0x220 hb 16) 5 Rivals.none []) memS (fun t => wordGet t.mem (hb / 16) == 5 && lastOut t == some (.bus 0x220 0 [9] 0)) = true := by
  decide +kernel
theorem test_atomic_cas : gives (.atomicCas (fragOf 0x220 hb 16) 8 5 Rivals.none []) memS (fun t => wordGet t.mem (hb / 16) == 9) = true := by decide +kernel

/-- A single upset of bank 0's first word, and a double one. -/
def memU (m : Bool) : State := { memS with mem := { memS.mem with latent := [{ word := spLo / 16, flips := 1, multi := m }] } }
theorem wit_ErrorHandling : Inv (memU false) ∧ unitOf (memU false) spLo = some (.bank 0) ∧ unitFenced (memU false) 0 (.bank 0) = false ∧
    ownerCheck (memU false).banks[(0 : Fin 256)] 0x40 = 0 ∧ (memU false).mem.latent.find? (·.word = spLo / 16) = some { word := spLo / 16, flips := 1, multi := false } ∧
    (memU true).mem.latent.find? (·.word = spLo / 16) = some { word := spLo / 16, flips := 1, multi := true } ∧ spLo / 16 ∉ (memU false).mem.poison := by
  refine ⟨?_, ?_⟩
  · unfold Inv; decide +kernel
  · decide +kernel
/-- An upset of HBM's first word, with a limit of one row. -/
def memUH (m : Bool) : State := { memS with mem := { memS.mem with latent := [{ word := hb / 16, flips := 1, multi := m }] }, pcUeLimit := 1 }
theorem wit_ErrorHandling_hbm : Inv (memUH true) ∧ unitOf (memUH true) hb = some (.pc 0 0 0 0) ∧ hb % 16 = 0 ∧ unitFenced (memUH true) 0 (.pc 0 0 0 0) = false ∧
    unitFenced (readWord (memUH true) 0 0 hb).s 0 (.pc 0 0 0 0) = true ∧ (readWord (memUH true) 0 0 hb).status = 6 ∧ (readWord (memUH false) 0 0 hb).status = 0 ∧
    frozen (memUH false) = false ∧ dead (memUH false) = false ∧ (readWord { memS with mem := { memS.mem with poison := [hb / 16] } } 0 0 hb).status = 7 ∧
    unitFenced { (readWord (memU true) 0 0x40 spLo).s with bankUeLimit := 1 } 0 (.bank 0) = false := by
  refine ⟨?_, ?_⟩
  · unfold Inv; decide +kernel
  · decide +kernel
/-- The write-back ends the upset. -/
theorem test_write_back : gives (.correctedWriteBack (spLo / 16)) { memU false with mem := { (memU false).mem with writeBack := [spLo / 16] } }
    (fun t => t.mem.latent == [] && t.mem.writeBack == [] && cellGet t.mem.cells spLo == 7) = true := by decide +kernel
theorem test_uncorrectable : gives (.memoryRead (frag spLo 16) Rivals.none []) (memU true) (fun t => lastOut t == some (.bus 0 0 [6] 6) && t.mem.poison == [spLo / 16] && t.ueTotal == 1) = true := by
  decide +kernel

/-- Stack 0 has group 2's quiet window under way. -/
def memQ : State := modStack memS 0 fun k => { k with quiet := some 2 }
theorem wit_MemoryUpkeepAndStacks : spLo / 16 ∈ ([spLo / 16] : List Nat) ∧ unitOf memS (16 * (spLo / 16)) = some (.bank 0) ∧ unitFenced memS (unitDie (.bank 0)) (.bank 0) = false ∧
    memS.scrubHours ≠ 0 ∧ memS.stk[(0 : Fin 8)].fenced = false ∧ memS.fab.tapArb[(0 : Fin 256)].frozen = false ∧ bit memS.stk[(0 : Fin 8)].pcFenced 0 = false ∧
    bit (modStack memS 0 fun k => { k with pcFenced := 1 }).stk[(0 : Fin 8)].pcFenced 0 = true ∧ memQ.stk[(0 : Fin 8)].quiet = some 2 ∧
    bit memS.stk[(0 : Fin 8)].calSafe 1 = false ∧
    recordHolds memS.stk[(0 : Fin 8)].calRec[(1 : Fin 4)] 90 memS.stk[(0 : Fin 8)].vddq memS.stk[(0 : Fin 8)].band[(1 : Fin 4)].toNat = false ∧ 105 ≤ (105 : Byte).toNat := by decide +kernel

/-- The patrol of a channel in its quiet window waits, and of one that is fenced or served goes on; a stack is one degree above its limit. -/
theorem wit_MemoryUpkeepAndStacks_more : inQuiet (modStack memS 0 fun k => { k with quiet := some 0 }).stk[(0 : Fin 8)] 0 = true ∧ inQuiet memS.stk[(0 : Fin 8)] 0 = false ∧
    memS.fab.pcArb[pcIndex 0 0].frozen = false ∧ memS.pw.stackTlimit.toNat < (96 : Byte).toNat ∧ (96 : Byte).toNat < 105 ∧ memS.stk[(0 : Fin 8)].hot = false ∧
    stackReach live 0 = 0 ∧ live.fab.hit = 0 := by decide +kernel
theorem test_refresh : gives (.refresh 33) memS (fun t => t.stk[(1 : Fin 8)].refreshedAt[(1 : Fin 32)] == 0) = true := by decide +kernel
theorem test_patrol : gives (.patrolScrub (.inl 0) []) memS (fun t => t.mem.patrolStack[(0 : Fin 8)] == 1) = true := by decide +kernel
theorem test_cal_break : gives (.calRecordBreak 0 1) (modStack memS 0 fun k => { k with temp := 90 }) (fun t => bit t.stk[(0 : Fin 8)].calSafe 1) = true := by decide +kernel
/-- A failed window fences the group's eight pseudo-channels. -/
theorem test_quiet_fail : gives (.quietWindowEnd 0 false 0 0) memQ (fun t => t.stk[(0 : Fin 8)].pcFenced == 0xFF0000) = true := by decide +kernel
theorem test_overheat : gives (.stackOverheat 0 105) memS (fun t => t.stk[(0 : Fin 8)].fenced && bit t.dict.alertCause 1) = true := by decide +kernel
theorem test_above_limit : gives (.stackAboveThermalLimit 0 96) memS (fun t => !t.stk[(0 : Fin 8)].fenced && t.ev.latches.any (·.src == 517)) = true := by decide +kernel
theorem test_controller_failure : gives (.controllerOrPhyFailure 3) memS (fun t => t.stk[(3 : Fin 8)].fenced && !t.stk[(2 : Fin 8)].fenced) = true := by decide +kernel

/-! ### Dictionary writes and fences -/

/-- `Heeds` as a computation. -/
def heedsB (s : State) (r : Requester) : Bool :=
  !dead s && !waits s r && s.dict.waiting.isEmpty && (if h : r.val < 4 then s.ports[r.val].link == 2 && takesTlps s.ports[r.val] && s.ports[r.val].rx.isEmpty else true) && (r != 5 || s.ls.state != 2)

/-- What `heedsB` computes. -/
theorem heeds_of {s : State} {r : Requester} (h : heedsB s r = true) : Heeds s r := by
  unfold heedsB at h
  simp only [Bool.and_eq_true, Bool.or_eq_true, Bool.not_eq_true', List.isEmpty_iff, bne_iff_ne, ne_eq] at h
  obtain ⟨⟨⟨⟨hd, hw⟩, hq⟩, hp⟩, hl⟩ := h
  refine ⟨hd, hw, hq, fun h4 => ?_, fun h5 => hl.resolve_left (fun hn => hn h5)⟩
  simp only [h4, ↓reduceDIte, Bool.and_eq_true, beq_iff_eq, List.isEmpty_iff] at hp
  exact ⟨hp.1.1, hp.1.2, hp.2⟩

/-- `Serves` as a computation. -/
def servesB (s : State) (r : Requester) (ix sub : Nat) (a : DAcc) : Bool :=
  heedsB s r && (headCode s r ix sub true).isNone &&
  match entryAt s r ix sub with
  | none => false
  | some e =>
    let v := a.val.toNat % 2 ^ (8 * a.bytes)
    widthOk r e.ty a.bytes a.off && (e.ty != .w128 || a.bytes == 16) && v &&& e.rsv == 0 && decide (v < 2 ^ (8 * e.ty.bytes)) && e.ok v

/-- What `servesB` computes. -/
theorem serves_of {s : State} {r : Requester} {ix sub : Nat} {a : DAcc} (h : servesB s r ix sub a = true) :
    Serves s r ix sub a (a.val.toNat % 2 ^ (8 * a.bytes)) := by
  unfold servesB at h
  simp only [Bool.and_eq_true, Option.isNone_iff_eq_none] at h
  obtain ⟨⟨hc, hh⟩, h⟩ := h
  split at h
  · cases h
  · rename_i e he
    simp only [Bool.and_eq_true, Bool.or_eq_true, beq_iff_eq, bne_iff_ne, decide_eq_true_eq, ne_eq] at h
    obtain ⟨⟨⟨⟨hw, ht⟩, hr⟩, hv⟩, ho⟩ := h
    exact ⟨heeds_of hc, hh, rfl, e, he, hw, fun h => ht.resolve_left (fun hn => hn h), hr, hv, ho⟩

/-- A write of `v` in one byte, as over I3C. -/
def w1 (v : W128) : DAcc := { bytes := 1, off := 0, val := v }
/-- In four bytes. -/
def w4 (v : W128) : DAcc := { bytes := 4, off := 0, val := v }
/-- In sixteen bytes. -/
def w16 (v : W128) : DAcc := { bytes := 16, off := 0, val := v }
/-- In eight bytes. -/
def w8 (v : W128) : DAcc := { bytes := 8, off := 0, val := v }

theorem wit_DictionaryFences : ([(0x4010, 8), (0x5000, 9), (0x8010, 6), (0x3000, 0x60), (0x2100, 5), (0x2000, 0x73), (0xA000, 0x46)].all fun x =>
      servesB live 4 x.1 x.2 (w1 1) && servesB live 4 x.1 x.2 (w1 0)) = true ∧
    Serves live 4 0x4010 8 (w1 1) 1 ∧ live.stk[(0 : Fin 8)].fenced = false ∧ (modStack live 0 fun k => { k with fenced := true }).stk[(0 : Fin 8)].fenced = true ∧
    bit live.fab.links 3 = false := by
  refine ⟨?_, serves_of (a := w1 1) ?_, ?_⟩
  all_goals decide +kernel

/-- Units that are fenced and ones that are not. -/
theorem wit_DictionaryFences_units : (fencePort live 1 1 0).ports[(1 : Fin 4)].fenced = true ∧ (fenceCrc live 3 1 0).crc[(3 : Fin 16)].fenced = true ∧ (fencePart live 2).parts[(2 : Fin 16)].fenced = true ∧
    (fenceVe live 5 1 []).eng[(5 : Fin 64)].fenced = 1 ∧ live.fab.links = 0 ∧ bit (fenceLink live 2).fab.links 2 = true ∧ live.eng[(0 : Fin 64)].fenced = 0 ∧ live.parts[(0 : Fin 16)].fenced = false := by
  decide +kernel
theorem test_stack_fence : gives (.stackFence 4 1 (w1 1)) live (fun t => t.stk[(1 : Fin 8)].fenced && t.i3c.ready) = true := by decide +kernel
theorem test_bank_fence : gives (.bankFence 4 9 (w1 1)) live (fun t => t.banks[(9 : Fin 256)].fenced && !t.banks[(8 : Fin 256)].fenced) = true := by decide +kernel
theorem test_crc_fence : gives (.crcFence 4 2 (w1 1)) live (fun t => t.crc[(2 : Fin 16)].fenced) = true := by decide +kernel
theorem test_ve_fence : gives (.veFence 4 63 (w1 1) []) live (fun t => t.eng[(63 : Fin 64)].fenced == 1) = true := by decide +kernel
theorem test_port_fence : gives (.portFence 4 2 (w1 1) 0) live (fun t => t.ports[(2 : Fin 4)].fenced && t.ports[(2 : Fin 4)].link == 3) = true := by decide +kernel
theorem test_part_fence : gives (.partFence 4 3 (w1 1)) live (fun t => t.parts[(3 : Fin 16)].fenced) = true := by decide +kernel
theorem test_link_fence : gives (.linkFence 4 (w1 5)) live (fun t => bit t.fab.links 0 && !bit t.fab.links 1 && bit t.fab.links 2) = true := by decide +kernel
/-- A write of 0 fences nothing, and one of 2 is refused. -/
theorem test_fence_zero : gives (.stackFence 4 1 (w1 0)) live (fun t => !t.stk[(1 : Fin 8)].fenced) = true ∧ servesB live 4 0x4010 8 (w1 2) = false := by decide +kernel

/-- VEs 0 and 1 are a pair of partition 0 running a segment. -/
def pairS : State := modPart (ve0 id) 0 fun p => { p with cfg := { p.cfg with paired := true, veSet := 3 }, bind := [0], run := some (runW .evaluate) }

theorem wit_FaultEvents : dead live = false ∧ bit live.dieFenced 0 = false ∧ bit live.dieFenced 1 = false ∧ bit live.boot.pllLock 0 = false ∧
    bit ({ live with boot := { live.boot with pllLock := 0x3FFFFFF } } : State).boot.pllLock 25 = true ∧ live.ls.state = 0 ∧
    ({ live with sv := { live.sv with st := .running } } : State).sv.st = .running ∧ execPart pairS 0 = some 0 ∧ clockRuns pairS (clusterOfVe 0) = true ∧
    pairS.eng[(0 : Fin 64)].fenced = 0 ∧ pairS.eng[(1 : Fin 64)].fenced = 0 ∧ pairS.parts[(0 : Fin 16)].cfg.paired = true ∧ servesRun pairS 0 0 = true := by decide +kernel

theorem wit_FaultEvents_more : pairS.seq[(0 : Fin 64)].st ≠ .recovery ∧ pairRepeat pairS.eng[(0 : Fin 64)] (false, 0) < 3 ∧ (loseDevice { live with twin := { live.twin with primary := true, linkUp := true } }).outs.length = 1 ∧
    live.ls.recent.length < 16 ∧ live.ls.repeatAt = none ∧ bit live.boot.pllGone 3 = false ∧ ({ live.ls with repeatAt := some live.sv.r.pc, repeats := 2 } : Lockstep).repeats + 1 = 3 := by
  decide +kernel
/-- A die fenced before stays so. -/
theorem test_die_fence : gives (.dieFence ⟨2, []⟩) { live with dieFenced := 4 } (fun t => bit t.dieFenced 2 && !bit t.dieFenced 1) = true := by decide +kernel
theorem test_die_zero : gives (.dieFence ⟨0, []⟩) live (fun t => t.boot.lost) = true := by decide +kernel
theorem test_stream_path : gives (.streamPathFault ⟨1, 0⟩) live (fun t => t.ports[(1 : Fin 4)].fenced) = true := by decide +kernel
/-- The clock of the Sundov link. -/
theorem test_pll_loss : gives (.pllLossOfLock ⟨.domain 24, []⟩) { live with boot := { live.boot with pllLock := 0x3FFFFFF } } (fun t => !bit t.boot.pllLock 24 && bit t.boot.pllLock 23 &&
    t.boot.pllLosses == 1) = true := by decide +kernel
theorem test_paired_mismatch : gives (.pairedMismatch 0 0 0 []) pairS (fun t => t.eng[(0 : Fin 64)].pairMismatches == 1 && t.eng[(0 : Fin 64)].fenced == 0) = true := by decide +kernel
/-- The second at one place is counted there, and the third would fence. -/
theorem test_paired_second : gives (.pairedMismatch 0 0 0 []) (modEng pairS 0 fun e => { e with pairLog := [((false, 0), 1)] })
    (fun t => t.eng[(0 : Fin 64)].pairLog == [((false, 0), 2)] && t.eng[(0 : Fin 64)].fenced == 0) = true ∧
    pairRepeat (modEng pairS 0 fun e => { e with pairLog := [((false, 0), 2)] }).eng[(0 : Fin 64)] (false, 0) = 3 := by decide +kernel

/-- VE 1, whose bank is being handed over, waits at it. -/
def memH : State := { memD with banks := updV memD.banks 0 fun k => { k with held := [{ frag := frag1, data := none }] } }
theorem wit_FreezeRemapWatchdog : waitStart memH (.bank 8 0) = some (0x41, [0x40]) ∧ live.dict.isOpen = true ∧ State.reset.dict.isOpen = false ∧ servesB live 5 0x9000 3 (w4 1) = true ∧ live.fz.state = 0 ∧ ({ live with fz := { live.fz with state := 1 } } : State).fz.state = 1 ∧
    canRun { live with sv := { live.sv with st := .running } } .sv = true ∧ frozen live = false ∧ waitStart live (.bank 0 0) = none := by decide +kernel

theorem test_hold_n : gives .holdNAssert live (fun t => t.fz.holdN && t.fz.state == 1) = true := by decide +kernel
/-- The other source still holds the freeze. -/
theorem test_hold_n_off : gives .holdNDeassert { live with fz := { live.fz with holdN := true, dbg := true, state := 2 } } (fun t => !t.fz.holdN && t.fz.state == 2) = true := by decide +kernel
theorem test_dbg_freeze : gives (.dbgFreeze 5 (w4 1)) live (fun t => t.fz.dbg && frozen t) = true := by decide +kernel
theorem test_freeze_entered : gives .freezeEntered { live with fz := { live.fz with holdN := true, state := 1 } } (fun t => t.fz.state == 2) = true := by decide +kernel
theorem test_remap : gives (.remap 1) { live with sv := { live.sv with st := .running }, fab := { live.fab with remap := false } } (fun t => t.fab.remapDue && !t.fab.remap) = true := by
  decide +kernel
theorem test_watchdog : gives (.watchdogExpiry (.bank 8 0) []) memH
    (fun t => t.ev.latches.any (·.src == 785)) = true := by decide +kernel

theorem wit_TapAndDebugReads : Inv memS ∧ tapMay 0 .nest = true ∧ (tapGrant memS 0 0 .alone).isSome = true ∧ memS.banks[(0 : Fin 256)].owner ≠ 0 ∧
    live.banks[(0 : Fin 256)].owner = 0 ∧ memS.banks[(0 : Fin 256)].drain = none ∧ heedsB memS 5 = true ∧ headCode memS 5 0x5000 0x11 false = none ∧
    (entryAt memS 5 0x5000 0x11).any (fun e => widthOk 5 e.ty 16 0) = true ∧ (tapGrant memS 0 (debugSlot 5 0) .alone).isSome = true ∧
    (entryAt memS 0 0x2100 0x10).any (fun e => widthOk 0 e.ty 8 0) = true ∧ heedsB (modPort memS 0 fun p => { p with link := 2, cfg := enumerated p.cfg }) 0 = true ∧
    headCode (modPort memS 0 fun p => { p with link := 2, cfg := enumerated p.cfg }) 0 0x2100 0x10 false = none ∧
    headCode ({ modPort memS 0 fun p => { p with link := 2, cfg := enumerated p.cfg } with dict := State.reset.dict }) 0 0x2100 0x10 false = some 0x30 := by
  refine ⟨?_, ?_⟩
  · unfold Inv; decide +kernel
  · decide +kernel

theorem wit_TapAndDebugReads_turn : (tapTurn memS 0 .nest .alone).isSome = true ∧ (tapTurn memS 0 .nest ⟨[], false⟩).isSome = true ∧
    tapTurn { memS with fab := { memS.fab with tapArb := memS.fab.tapArb.map fun a => { a with frozen := true } } } 0 .nest .alone = none ∧
    tapGrant { memS with fab := { memS.fab with tapArb := memS.fab.tapArb.map fun a => { a with frozen := true } } } 0 (debugSlot 5 0) .alone = none ∧
    unitFenced memS (reqDie 5) (.bank 0) = false ∧ unitFenced (modBank memS 0 fun k => { k with fenced := true }) (reqDie 5) (.bank 0) = true := by decide +kernel
theorem test_tap_read : gives (.tapRead 0 0 .nest ⟨.alone, none⟩) memS (fun t => lastOut t == some (.tap 0 [7, 0, 0, 0] false 0)) = true := by decide +kernel
/-- The owner's write takes effect and the reader is told BUSY. -/
theorem test_tap_busy : gives (.tapRead 0 0 .nest ⟨.alone, some { word := 1, val := 3 }⟩) memS (fun t => t.banks[(0 : Fin 256)].tapRetries == 1 && cellGet t.mem.cells (spLo + 16) == 3) = true := by
  decide +kernel
theorem test_tap_cycle : gives (.tapGuaranteedCycle 0 0 .nest) memS (fun t => lastOut t == some (.tap 0 [7, 0, 0, 0] false 0)) = true := by decide +kernel
theorem test_debug_read : gives (.debugRead 5 0 16 0 none) memS (fun t => lastOut t == some (.dictRead 5 7)) = true := by decide +kernel
theorem test_abort_last : gives (.abortLast 0 8 0) (modPort live 0 fun p => { p with link := 2, cfg := enumerated p.cfg, abortLast := 77 }) (fun t => lastOut t == some (.dictRead 0 77) && t.ports[(0 : Fin 4)].abortLast == 0) = true := by
  decide +kernel


/-! ### The rigging -/

/-- An image of two logical VEs without stimuli or results: buffers of 64 bytes at 0 and 64, a program at 0x1000. -/
def hdr2 : Header :=
  { sectCount := 2, lveCount := 2, fourState := false, gated := false, fold := 0, resultDepth := 1, rnMask := 0, stateBytes := 64, cbmpOff := 0, rsltOff := 0x800
    stimWords := 0, resultWords := 0, dmwMax := 0, energyNj := 0, exchSlots := 1, crc := 0 }
def im2 : Image :=
  { hdr := hdr2
    sections := [{ kind := 1, lve := 0, space := 0, crc := 0, offset := 0x1000, length := 64 }, { kind := 1, lve := 1, space := 0, crc := 0, offset := 0x1040, length := 64 }]
    portMap := []
    triggers := [] }
/-- A slot of one word from VE 0's 0x200 to VE 1's 0x300. -/
def slot01 : W128 × W128 := (at' 128 116 1 ||| 0x200, 0x300)
/-- Partition 0 executes a segment on VEs 0 and 1 in phase `ph`, with that slot; VE 0 has arrived at its `BARRIER`. 5 is at 0x200. -/
def rigS (ph : Phase) : State :=
  let s := modPart (poke (ve0 id) (hb + 0x200) [5]) 0 fun p => { p with
    cfg := { p.cfg with veSet := 3 }, imageState := 3, image := some im2, bind := [0, 1], run := some (runW ph)
    exchTables := p.exchTables.map fun _ => [slot01], exchSlotsAct := 1 }
  modSeq s 0 fun k => { k with st := .parked, arrived := true, begunBarrier := true }
/-- The segment in execution. -/
def runOf (s : State) : Run := (s.parts[(0 : Fin 16)].run).getD (runW .ingest)
/-- No transfer was cut short. -/
def noCut : ExchCut := { moved := [], sunk := [] }
/-- That slot under way, holding VE 1's receive port 0. -/
def rigT : State := modPart (rigS .evaluate) 0 fun p => { p with run := some { runW .evaluate with slots := [(0, .running [])], grants := [(0, 2, 0)], grantSeq := 1 } }

theorem wit_SlotTransfers : slotReach (rigS .evaluate) 0 1 = true ∧ (∀ y ∈ (runOf rigT).slots, y.1 = 0 ∨ y.2 = .complete) ∧ (runOf rigT).writes = [] ∧ slotReach { live with fab := { live.fab with links := 0xF } } 0 16 = false ∧
    (actSlots (rigS .evaluate).parts[(0 : Fin 16)])[0]? = some (slotOf slot01) ∧ boundVe (rigS .evaluate).parts[(0 : Fin 16)] 0 = some 0 ∧
    boundVe (rigS .evaluate).parts[(0 : Fin 16)] 1 = some 1 ∧ slotEligible (rigS .evaluate) 0 (runOf (rigS .evaluate)) 0 = true ∧ portHeld (rigS .evaluate) 2 = false ∧
    (slotOf slot01).rport < 2 ∧ (arbWin (rigS .evaluate).fab.rxArb[(2 : Fin 128)] (fun _ => 0) (Nat.xor 1 1) true 0 []).isSome = true ∧ Inv rigT ∧
    (slotOf slot01).cmt = false ∧ (slotOf slot01).words = 1 ∧ partDev rigT 0 false (slotOff rigT 0 false 0x200) = some (hb + 0x200) ∧
    partDev rigT 0 false (slotOff rigT 0 false 0x300) = some (hb + 0x300) ∧ unitOf rigT (hb + 0x200) = some (.pc 0 2 0 0) ∧
    unitFenced rigT 0 (.pc 0 2 0 0) = false ∧ (0, SlotState.running []) ∈ (runOf rigT).slots := by
  unfold Inv; decide +kernel

theorem wit_SlotTransfers_ways : devWaits rigT (.engine 0 6) (hb + 0x200) = false ∧ devWaits rigT (.engine 0 6) (hb + 0x300) = false ∧
    (rigS .evaluate).fab.rxArb[(2 : Fin 128)].frozen = false ∧ rigT.twin.resync = none := by decide +kernel
theorem test_slot_start : gives (.slotStart 0 0 ⟨[], true⟩) (rigS .evaluate) (fun t => (runOf t).grants == [(0, 2, 0)]) = true := by decide +kernel
theorem test_slot_complete : gives (.slotComplete 0 0) rigT (fun t => cellGet t.mem.cells (hb + 0x300) == 5 && (runOf t).grants == [] && t.parts[(0 : Fin 16)].exchWords == 1) = true := by
  decide +kernel

/-- Both VEs done; and VE 1 late. -/
def rigD (done : List VeId) : State := modPart (rigS .evaluate) 0 fun p => { p with run := some { runW .evaluate with done := done, firstDone := some 0 } }
/-- The slot's source outside the partition. -/
def rigB : State := modPart (rigS .evaluate) 0 fun p => { p with exchTables := p.exchTables.map fun _ => [(at' 128 116 1 ||| 0x40000000, 0x300)] }
theorem wit_BarriersAndFaults : allResident (rigD [0]) 0 = true ∧ frozen (rigD [0]) = false ∧ 0 < (slotOf slot01).words ∧ (runOf (rigD [0, 1])).phase = .evaluate ∧ (∀ n ∈ (rigD [0, 1]).parts[(0 : Fin 16)].bind, n ∈ (runOf (rigD [0, 1])).done) ∧
    (rigD [0, 1]).parts[(0 : Fin 16)].edits = [] ∧ (rigD [0, 1]).parts[(0 : Fin 16)].swapDue = false ∧ (1 : Fin 64) ∈ (rigD [0]).parts[(0 : Fin 16)].bind ∧
    (1 : Fin 64) ∉ (runOf (rigD [0])).done ∧ (runOf (rigD [0])).firstDone ≠ none ∧ twinActive (rigD [0]) 0 = false ∧ live.parts[(0 : Fin 16)].run = none ∧
    slotEligible rigB 0 (runOf rigB) 0 = true ∧ partDev rigB 0 false (slotOff rigB 0 false 0x40000000) = none := by decide +kernel

/-- Two edits of slot 0 are held, and a swap is due. -/
def rigE : State := modPart (rigD [0, 1]) 0 fun p => { p with swapDue := true, edits :=
  [{ slot := 0, w0 := 1, w1 := 2, by' := some 5, due := 1, post := false, shadow := false }, { slot := 0, w0 := 3, w1 := 4, by' := none, due := 0, post := true, shadow := false }] }
theorem wit_BarriersAndFaults_edits : (∀ e ∈ rigE.parts[(0 : Fin 16)].edits, e.shadow = false ∧ (e.due < 1 ∨ (e.due = 1 ∧ e.post = false))) ∧ rigE.parts[(0 : Fin 16)].swapDue = true ∧
    gives (.barrierRelease 0) rigE (fun t => t.parts[(0 : Fin 16)].exchTables[actTable rigE.parts[(0 : Fin 16)]] == [(3, 4)] && t.parts[(0 : Fin 16)].edits.isEmpty &&
      t.outs.contains (.dictDone 5) && t.parts[(0 : Fin 16)].exchActive) = true := by decide +kernel
theorem test_barrier_release : gives (.barrierRelease 0) (rigD [0, 1]) (fun t => (runOf t).phase == .commit && t.parts[(0 : Fin 16)].exchWraps == 1) = true := by decide +kernel
theorem test_barrier_timeout : gives (.barrierTimeout ⟨0, noCut⟩) (rigD [0]) (fun t => t.parts[(0 : Fin 16)].run.isNone && t.parts[(0 : Fin 16)].ledger.lastCause == 0x0A04) = true := by
  decide +kernel
theorem test_exchange_fault : gives (.exchangeFault 0 0 noCut) rigB (fun t => t.parts[(0 : Fin 16)].run.isNone && t.parts[(0 : Fin 16)].ledger.lastCause == 0x0A01) = true := by decide +kernel

/-! ### Host ports and stream entries -/

/-- Port 0 up; partition 0's owner. -/
def hostS : State := modPort live 0 fun p => { p with link := 2, width := 16, speed := 5, cfg := enumerated p.cfg }
theorem wit_HostLinks : Config.linkTrains 8 3 = true ∧ Config.linkTrains 3 3 = false ∧ hostS.ports[(0 : Fin 4)].link = 2 ∧ live.ports[(0 : Fin 4)].link ≠ 2 ∧ live.ports[(0 : Fin 4)].fenced = false ∧ live.boot.state ≠ 8 ∧
    live.ports[(0 : Fin 4)].link = 0 := by decide +kernel
theorem test_link_up : gives (.hostLinkUp 0 8 3 0 0) live (fun t => t.ports[(0 : Fin 4)].link == 2 && t.ports[(0 : Fin 4)].width == 8) = true := by decide +kernel
theorem test_link_down : gives (.hostLinkDown 0 0) hostS (fun t => t.ports[(0 : Fin 4)].link == 0 && t.ports[(0 : Fin 4)].width == 0) = true := by decide +kernel
theorem test_hot_reset : gives (.hotReset 0 0) hostS (fun t => t.ports[(0 : Fin 4)].link == 1) = true ∧ gives (.functionLevelReset 0 0) hostS (fun t => t.ports[(0 : Fin 4)].link == 2) = true := by
  decide +kernel
theorem test_correctable : gives (.correctableLinkError 0) hostS (fun t => t.ports[(0 : Fin 4)].correctable == 1 && t.ev.latches.any (·.src == 582)) = true := by decide +kernel

/-- A whole stimulus block of one word 9, with SEQ 0. -/
def stimHdr : W128 := at' 128 88 0xA5 ||| at' 128 32 (crcBlock 0 [9]).toNat ||| 2
theorem wit_StreamWrites : tlpWf 512 (.bar2 0x80000) 16 = true ∧ bit hostS.ports[(0 : Fin 4)].msixPending 15 = false ∧ hostS.parts[(0 : Fin 16)].streams[(2 : Fin 8)].recvd = [] ∧
    hostS.parts[(0 : Fin 16)].streams[(1 : Fin 8)].recvd = [] ∧ hostS.parts[(0 : Fin 16)].loadQ = [] ∧ hostS.parts[(0 : Fin 16)].fenced = false ∧ heedsB hostS 0 = true ∧ live.ports[(0 : Fin 4)].link ≠ 2 ∧ hostS.dict.waiting = [] ∧ waits hostS 0 = false ∧ hostS.dict.isOpen = true ∧ hostShut hostS = false ∧ ownerOf hostS 0 = 0 ∧ ownerOf hostS 4 ≠ 0 ∧
    hostS.parts[(0 : Fin 16)].streams[(2 : Fin 8)].cur = none ∧ hostS.parts[(0 : Fin 16)].streams[(2 : Fin 8)].discard = false ∧ twinActive hostS 0 = false ∧
    partMemFenced hostS 0 = false ∧ hostS.crc.all (·.fenced) = false ∧ hostS.parts[(0 : Fin 16)].restore = none ∧
    hostS.parts[(0 : Fin 16)].streams[(2 : Fin 8)].fifo.length + 1 + 1 ≤ hostS.parts[(0 : Fin 16)].streams[(2 : Fin 8)].depth.toNat ∧ tlpWf 512 (.bar2 0x2000) 32 = true ∧
    (modPort hostS 0 fun p => { p with rx := [{ part := 0, k := 2, words := [1] }] }).ports[(0 : Fin 4)].rx ≠ [] ∧
    hostShut { hostS with twin := { hostS.twin with state := 3 } } = true := by decide +kernel
theorem test_in_stream : gives (hostWrite 0 (.bar2 0x2000) (bytesOfWords [stimHdr, 9])) hostS (fun t => t.parts[(0 : Fin 16)].streams[(2 : Fin 8)].fifo == [9] &&
    t.parts[(0 : Fin 16)].streams[(2 : Fin 8)].seqIn == 1 && t.parts[(0 : Fin 16)].ledger.appended == 1) = true := by decide +kernel
/-- A wrong CRC discards the block. -/
theorem test_in_stream_crc : gives (hostWrite 0 (.bar2 0x2000) (bytesOfWords [stimHdr, 8])) hostS (fun t => t.parts[(0 : Fin 16)].streams[(2 : Fin 8)].fifo == [] &&
    t.parts[(0 : Fin 16)].streams[(2 : Fin 8)].fails == 1) = true := by decide +kernel
theorem test_fifo_hold : gives (.fifoHoldTimeout 0) (modPort hostS 0 fun p => { p with rx := [{ part := 0, k := 2, words := [1] }] })
    (fun t => t.ports[(0 : Fin 4)].rx == [] && t.parts[(0 : Fin 16)].streams[(2 : Fin 8)].discard) = true := by decide +kernel

/-- A presented block of a header 1 and a word 2 on entry 6, and a record in the ledger's ring. -/
def outS : State := modStream hostS 0 6 fun st => { st with out := [{ seq := 0, words := [1, 2], read := 0, replay := false, last := false, recs := 0 }] }
def ringS : State := modPart hostS 0 fun p => { p with ledger := { p.ledger with ring := [77] } }
theorem wit_StreamReads : tlpWf 4096 (.bar2 0x80000) 16 = true ∧ 0x80000 ≤ (0x80000 : BitVec 20).toNat ∧ ({ outS with dict := { outS.dict with waiting := [] } } : State).dict.waiting = [] ∧
    tlpWf 4096 (.bar0 0xF006000) 8 = true ∧ heedsB outS 0 = true ∧ tlpWf 4096 (.bar2 0x6000) 32 = true ∧ outS.parts[(0 : Fin 16)].streams[(6 : Fin 8)].out = [{ seq := 0, words := [1, 2], read := 0, replay := false, last := false, recs := 0 }] ∧
    canPresent ringS 0 6 1 = true ∧ ringS.parts[(0 : Fin 16)].streams[(6 : Fin 8)].out = [] ∧ canPresent hostS 0 5 1 = true ∧ hostS.parts[(0 : Fin 16)].frames = [] := by decide +kernel
theorem test_out_read : gives (hostRead 0 (.bar2 0x6000) 16) outS (fun t => lastOut t == some (.cpl 0 [1])) = true ∧
    gives (hostRead 0 (.bar2 0x6000) 32) outS (fun t => t.outs.contains (.cpl 0 [1, 2]) && t.parts[(0 : Fin 16)].streams[(6 : Fin 8)].out == []) = true := by decide +kernel
theorem test_present : gives (.outBlockPresent 0 6) ringS (fun t => t.parts[(0 : Fin 16)].streams[(6 : Fin 8)].out.map (·.words.drop 1) == [[77]]) = true := by decide +kernel

/-- Bank 0 goes from VE 1 to VE 0, which waits at it; bank 1 from VE 0 to VE 1, which waits there; and VE 0 holds a receive port: a circle. -/
def circleS : State :=
  let held (m : BitVec 10) (b : Nat) : List HeldFrag := [{ frag := fragOf m (spLo + b * bankBytes) 16, data := none }]
  modBank (modBank rigT 0 fun k => { k with part := 0, owner := 0x41, drain := some (0x40, .write 0), held := held 0 0 }) 1
    fun k => { k with part := 0, owner := 0x40, drain := some (0x41, .write 0), held := held 8 1 }
theorem wit_FreezeRemapWatchdog_circle : waitStart circleS (.bank 0 0) = some (0x40, [0x41]) ∧ waitPath circleS 0x40 96 0x41 = some [0x41, 0x40] ∧
    latestGrant circleS [0x41, 0x40] = some (0, 0, 0, 0) ∧ latestGrant memH [0x41, 0x40] = none ∧ waitPath memH 0x41 96 0x40 = none ∧
    gives (.watchdogExpiry (.bank 0 0) []) circleS (fun t => t.fab.wdBreaks == 1 && (runOf t).grants == []) = true := by decide +kernel

/-- A port whose function is not enabled, one whose PLL lost lock, and a vector with a message pending. -/
theorem wit_HostLinks_function : takesTlps hostS.ports[(0 : Fin 4)] = true ∧ takesTlps (modPort live 0 fun p => { p with link := 2 }).ports[(0 : Fin 4)] = false ∧
    bit live.boot.pllGone 20 = false ∧ bit ({ live with boot := { live.boot with pllGone := 0x100000 } } : State).boot.pllGone 20 = true ∧
    gives (hostRead 0 (.bar2 0) 16) (modPort live 0 fun p => { p with link := 2 }) (fun t => t.outs == [.unsupported 0] && bit t.ports[(0 : Fin 4)].cfg.aerUncorrectable 20) = true ∧
    hostS.parts[(0 : Fin 16)].streams[(2 : Fin 8)].raw = [] ∧ fillDue hostS.parts[(0 : Fin 16)] = false := by decide +kernel

/-! ### Jobs and design cycles -/

/-- A run job of one design cycle at any design cycle. -/
def job1 : Job := { w0 := at' 128 40 1, w1 := at' 128 64 (2 ^ 64 - 1), early := false }
/-- Partition 0 with a valid image and that job. -/
def jobS : State := modPart hostS 0 fun p => { p with
  cfg := { p.cfg with veSet := 3, hbmSize := 1 }, imageState := 2, image := some im2, jobs := [job1] }
theorem wit_JobStarts : resyncHeld jobS 0 = false ∧ inSlot jobS 0 = true ∧ partIdle jobS.parts[(0 : Fin 16)] = true ∧ twinActive jobS 0 = false ∧ takesJobs jobS = true ∧
    jobCheck jobS 0 job1 = none ∧ fld job1.w0 95 92 = 0 ∧ jobBad job1 = false ∧ jobBad { w0 := 0, w1 := 0, early := false } = true ∧
    jobCheck jobS 0 { job1 with w0 := at' 128 92 1 } = none ∧ jobCheck jobS 0 { job1 with w0 := at' 128 92 2 } = none ∧
    bindVes (bindSet live 0) false im2.hdr = none ∧ farStart live 0 = false := by decide +kernel
/-- Under trace, with every arbiter unfrozen and no quiet window; and with fills of the image still to make. -/
theorem wit_JobStarts_trace : WaysOpen jobS ∧ bit ({ job1 with w0 := job1.w0 ||| at' 128 80 1 } : Job).w0 80 = true ∧ fillDue jobS.parts[(0 : Fin 16)] = false ∧
    fillDue (modPart jobS 0 fun p => { p with load := [1] }).parts[(0 : Fin 16)] = true := by
  unfold WaysOpen; decide +kernel
theorem test_job_start : gives (.jobStart 0) jobS (fun t => t.parts[(0 : Fin 16)].bind == [0, 1] && t.parts[(0 : Fin 16)].imageState == 3 && (runOf t).cycle == 1) = true := by
  decide +kernel
/-- A job that expects another design cycle ends with 0x0B11. -/
theorem test_job_refused : gives (.jobStart 0) (modPart jobS 0 fun p => { p with designCycle := 3, jobs := [{ job1 with w1 := 0 }] })
    (fun t => t.parts[(0 : Fin 16)].run.isNone && t.parts[(0 : Fin 16)].ledger.lastCause == 0x0B11) = true := by decide +kernel

/-- An image that takes one stimulus word at its buffer's start, and a segment at ingest with the word 6 waiting. -/
def ingS : State := modStream (modPart (rigS .ingest) 0 fun p => { p with image := some { im2 with hdr := { im2.hdr with stimWords := 1 }, portMap := [0] }, fresh := true }) 0 2 fun st => { st with fifo := [6] }
theorem wit_IngestAndRelease : Inv ingS ∧ (runOf ingS).obs = false ∧ ingS.parts[(0 : Fin 16)].streams[(1 : Fin 8)].recvd = [] ∧ ingS.parts[(0 : Fin 16)].streams[(0 : Fin 8)].fifo = [] ∧ ingS.parts[(0 : Fin 16)].loadQ = [] ∧
    ingS.parts[(0 : Fin 16)].restore = none ∧ devDraining ingS 0 = false ∧ inSlot ingS 0 = true ∧ twinActive ingS 0 = false ∧ stimReady ingS 0 1 = true ∧ (runOf ingS).phase = .ingest ∧
    (runOf ingS).draining = false ∧ partDev ingS 0 false (curBase ingS 0) = some hb ∧ unitOf ingS hb = some (.pc 0 0 0 0) ∧ unitFenced ingS 0 (.pc 0 0 0 0) = false ∧
    ingS.ports[ownerOf ingS 0].rx = [] ∧ ingS.parts[(0 : Fin 16)].bind.Nodup ∧ live.parts[(0 : Fin 16)].frames = [] := by
  refine ⟨?_, ?_⟩
  · unfold Inv; decide +kernel
  · decide +kernel
/-- `OpenAt` as a computation. -/
def openB (s : State) (p : PartId) (m : MasterKind) (x w : Nat) : Bool :=
  partDev s p false x == some (16 * w) && !devWaits s m (16 * w) &&
  match unitOf s (16 * w) with
  | some (.pc a b c d) => !unitFenced s (masterDie m) (.pc a b c d)
  | _ => false
theorem openAt_of {s : State} {p : PartId} {m : MasterKind} {x w : Nat} (h : openB s p m x w = true) : OpenAt s p m x w := by
  unfold openB at h
  simp only [Bool.and_eq_true, beq_iff_eq, Bool.not_eq_true'] at h
  obtain ⟨⟨hd, hw⟩, hu⟩ := h
  refine ⟨hd, hw, ?_⟩
  split at hu
  · rename_i e
    exact ⟨_, e, fun _ => nofun, by simpa using hu⟩
  · cases hu
theorem wit_IngestAndRelease_ways : OpenAt ingS 0 (.hostPath 0) (curBase ingS 0 + 0) (hb / 16) ∧ ownerOf ingS 0 = 0 ∧ fillDue ingS.parts[(0 : Fin 16)] = false ∧
    ingS.parts[(0 : Fin 16)].farFail = none ∧ clockRuns ingS (clusterOfVe 0) = true ∧ clockRuns (modCluster ingS 0 fun k => { k with change := some (.paused 1) }) 0 = false :=
  ⟨openAt_of (by decide +kernel), by decide +kernel⟩
theorem test_ingest : gives (.ingest 0) ingS (fun t => cellGet t.mem.cells hb == 6 && (runOf t).phase == .evaluate && (rg t).pc == 0x1000) = true := by decide +kernel

/-- A trigger section with no triggers, under observation. -/
def obsS : State := modPart (rigS .ingest) 0 fun p => { p with image := some { im2 with triggers := [0, 0] }, designCycle := 1, run := some { runW .ingest with obs := true } }
theorem test_observation : gives (.observation ⟨0, false⟩) obsS (fun t => !(runOf t).obs) = true := by decide +kernel
/-- One committed frame without result words is released at once. -/
def relS : State := modPart (rigS .ingest) 0 fun p => { p with frames := [{ cycle := 1, own := none, stim := [] }] }
theorem wit_IngestAndRelease_release : mayRelease relS 0 { cycle := 1, own := none, stim := [] } = true ∧ im2.hdr.resultWords = 0 ∧
    canPresent live 0 3 4096 = false ∧ canPresent live 0 3 1023 = true := by decide +kernel
theorem test_release : gives (.resultRelease 0) relS (fun t => t.parts[(0 : Fin 16)].released == 1 && t.parts[(0 : Fin 16)].frames == []) = true := by decide +kernel
/-- A save of the image's buffer: header and four words. -/
def savS : State := modPart (rigS .ingest) 0 fun p => { p with run := none, save := some (job1, 0) }
theorem wit_IngestAndRelease_save : twinActive savS 0 = false ∧ 17 + (ckptRegions im2 savS.parts[(0 : Fin 16)].curBuf).length = 21 ∧ canPresent savS 0 7 21 = true ∧
    (ckptWord savS 0 im2 0).status = 0 ∧ (ckptWord savS 0 im2 20).status = 0 := by decide +kernel
theorem test_save : gives (.checkpointSave 0) savS (fun t => t.parts[(0 : Fin 16)].streams[(7 : Fin 8)].out.map (·.words.length) == [22]) = true := by decide +kernel

theorem wit_CommitPhase : (rigS .commit).twin.detachDue = false ∧ commitReady (rigS .commit) 0 (runOf (rigS .commit)) im2 = true ∧ twinActive (rigS .commit) 0 = false ∧
    (runOf (rigS .commit)).dmq.length ≤ im2.hdr.dmwMax ∧ (commitWork (rigS .commit) 0 (runOf (rigS .commit)) im2).bad = none ∧
    commitReady (rigS .ingest) 0 (runOf (rigS .ingest)) im2 = false := by decide +kernel
/-- A design with one result word, a gated one, and one with two queued writes of VEs 1 and 0. -/
def comS (im : Image) (dmq : List DmWrite) : State := modPart (rigS .commit) 0 fun p => { p with image := some im, run := some { runW .commit with dmq := dmq } }
def imR : Image := { im2 with hdr := { hdr2 with resultWords := 1 }, portMap := [0] }
def imG : Image := { im2 with hdr := { hdr2 with gated := true, cbmpOff := 0x400 } }
/-- Place of a byte offset of partition 0. -/
def atOff (x : Nat) : Nat := (hb + x) / 16
theorem wit_CommitPhase_memory :
    OpenAt (comS imR []) 0 (commitMaster (comS imR []) 0) (bufBase imR (nextBuf (comS imR []) 0) + 0) (atOff (bufBase imR (nextBuf (comS imR []) 0))) ∧
    OpenAt (comS imR []) 0 (commitMaster (comS imR []) 0) (frameOff imR 1 0) (atOff (frameOff imR 1 0)) ∧
    atOff (frameOff imR 1 0) ≠ atOff (bufBase imR (nextBuf (comS imR []) 0)) ∧
    OpenAt (comS imG []) 0 (commitMaster (comS imG []) 0) (0x400 + 16 * 0) (atOff 0x400) ∧ bmpWords imG = 1 ∧ imG.hdr.stateBytes / elemBytes imG * (elemBytes imG / 16) = 4 ∧
    OpenAt (comS im2 []) 0 (commitMaster (comS im2 []) 0) 0x4000 (atOff 0x4000) ∧ Inv (comS im2 []) ∧ (comS im2 []).twin.resync = none :=
  ⟨openAt_of (by decide +kernel), openAt_of (by decide +kernel), by decide +kernel, openAt_of (by decide +kernel), by decide +kernel, by decide +kernel, openAt_of (by decide +kernel),
    by unfold Inv; decide +kernel, by decide +kernel⟩
/-- The commit bitmap flags element 1, and the commit copies it; the queue is applied with VE 0's write last issued first. -/
theorem test_commit_gated : gives (.commitPhase 0) (poke (poke (comS imG []) (hb + 0x400) [2]) (hb + bufBase imG (nextBuf (comS imG []) 0)) ((List.replicate 16 1) ++ List.replicate 16 7))
    (fun t => wordGet t.mem (atOff (bufBase imG ((nextBuf (comS imG []) 0 + 1) % 2) + 16)) == 0x07070707070707070707070707070707 &&
      wordGet t.mem (atOff (bufBase imG ((nextBuf (comS imG []) 0 + 1) % 2))) == 0 && wordGet t.mem (atOff 0x400) == 0) = true := by decide +kernel
def dmw (l : Nat) (v : W128) : DmWrite := { lve := l, addr := 0x4000, data := v, mask := byteMask 0 1 }
theorem test_commit_queue : gives (.commitPhase 0) (comS { im2 with hdr := { hdr2 with dmwMax := 2 } } [dmw 1 5, dmw 0 6]) (fun t => wordGet t.mem (atOff 0x4000) == 5) = true := by
  decide +kernel
/-- A partition in twin mode whose image has a JOURNAL section, with one undo record. -/
def undoS : State := modPart (poke (poke dmS (hb + 0x5040) (bytesOf (at' 128 64 1 ||| 0x4000) 16)) (hb + 0x5050) [9]) 0 fun p =>
  { p with cfg := { p.cfg with twinMode := true }, undo := [{ cycle := 1, addr := 0x4000, old := 9, bad := false, place := 0 }], undoNext := 1 }
/-- Its image. -/
def undoIm : Image := (undoS.parts[(0 : Fin 16)].image).getD im2
theorem wit_CommitPhase_undo : undoOff undoIm 0 = 0x5040 ∧ OpenAt undoS 0 (.engine 0 3) 0x4000 (atOff 0x4000) ∧ OpenAt undoS 0 (.engine 0 3) 0x5040 (atOff 0x5040) ∧
    OpenAt undoS 0 (.engine 0 3) 0x5050 (atOff 0x5050) ∧ wordGet undoS.mem (atOff 0x5040) = (at' 128 64 1 ||| BitVec.ofNat 128 0x4000) ∧
    wordGet (undoAfter 0 (.engine 0 3) 0 undoIm { s := undoS, bad := none }).s.mem (atOff 0x4000) = 9 ∧ Inv undoS ∧ undoS.twin.resync = none :=
  ⟨by decide +kernel, openAt_of (by decide +kernel), openAt_of (by decide +kernel), openAt_of (by decide +kernel), by decide +kernel, by decide +kernel, by unfold Inv; decide +kernel, by decide +kernel⟩
theorem test_commit_phase : gives (.commitPhase 0) (rigS .commit) (fun t => t.parts[(0 : Fin 16)].designCycle == 1 && t.parts[(0 : Fin 16)].curBuf == 1) = true := by decide +kernel


/-! ### The object dictionary -/

/-- Port 1 up on a die that no link in service reaches. -/
def hostCutS : State := modPort { hostS with fab := { hostS.fab with links := 0xF } } 1 fun p => { p with link := 2, width := 16, speed := 5, cfg := enumerated p.cfg }
theorem wit_DictionaryChecks : isCommit 0x2003 0xFE = true ∧ headCode restartS 5 0x2003 0xFE true = some 0x30 ∧ headCode live 5 0x2003 0xFE true = none ∧ arrives live (.write 5 0x7000 1 (w4 1) []) = true ∧ arrives live (.write 0 0x7000 1 (w4 1) []) = false ∧ live.dict.waiting = [] ∧ hostCut hostS 0 = false ∧
    hostCut hostCutS 1 = true ∧ heedsB hostCutS 1 = true ∧ tlpWf 512 (.bar0 0x7000010) 4 = true ∧ (0x7000010 : BitVec 28).toNat / 4096 = 0x7000 ∧
    BitVec.ofNat 8 ((0x7000010 : BitVec 28).toNat / 16) = 1 ∧ (entryAt hostS 0 0x7000 1).any (fun e => widthOk 0 e.ty 4 0 && !widthOk 0 e.ty 16 0) = true ∧ headCode hostS 0 0x7000 1 false = none ∧
    headCode hostS 0 0x7000 0xEE false = some 1 ∧ (modPort hostS 0 fun p => { p with rx := [{ part := 0, k := 2, words := [1] }] }).ports[(0 : Fin 4)].rx ≠ [] ∧
    heedsB live 5 = true ∧ heedsB live 0 = false ∧ heedsB hostS 0 = true ∧ shutOut live 5 0x7000 true = false ∧
    shutOut { hostS with twin := { hostS.twin with state := 3 } } 0 0x7000 true = true ∧ entryAt live 5 0x7000 0xEE = none ∧ (entryAt live 5 0x7000 1).any (fun e =>
      writeRight live 5 0x7000 1 e && !writeRight hostS 0 0x7000 1 e && e.cls != .ro && widthOk 5 e.ty 4 0 && !widthOk 5 e.ty 16 0 && e.rsv == 0) = true ∧
    (entryAt live 5 0x7000 2).any (fun e => writeRight live 5 0x7000 2 e && e.cls == .ro) = true ∧
    (entryAt live 5 0x7000 3).any (fun e => e.ok 0xFF) = false := by decide +kernel

/-- An access through a port whose function is not enabled arrives, and is not taken. -/
theorem wit_DictionaryChecks_function : let s := modPort live 0 fun p => { p with link := 2 }
    arrives s (.write 0 0x7000 1 (w4 1) []) = true ∧ takesTlps s.ports[(0 : Fin 4)] = false ∧ takesTlps hostS.ports[(0 : Fin 4)] = true ∧
    gives (.registerWrite 0 0x7000 1 (w4 1)) s (fun t => t.outs == [] && bit t.ports[(0 : Fin 4)].cfg.aerUncorrectable 20) = true := by decide +kernel
/-- A packet to a slot of BAR0 is the access to its entry. -/
theorem test_bar0_entry : gives (hostRead 0 (.bar0 0x7000010) 4) hostS (fun t => lastOut t == some (.dictRead 0 900)) = true ∧
    gives (hostWrite 0 (.bar0 0x7000010) [1, 0, 0, 0]) hostS (fun t => lastOut t == some (.abort 0 4)) = true := by decide +kernel

/-- Every check in its order: closed, missing, without right, read-only, wrong width, reserved bits, value. -/
def refusedWith (code : W16) (r : Requester) (ix : W16) (sub : Byte) (a : DAcc) (s : State) : Bool :=
  gives (.registerWrite r ix sub a) s fun t => lastOut t == some (.abort r code)
theorem test_checks : refusedWith 0x0030 0 0x7000 1 (w4 1) { hostS with dict := { hostS.dict with isOpen := false } } = true ∧ refusedWith 0x0001 5 0x7000 0xEE (w4 1) live = true ∧
    refusedWith 0x0004 0 0x7000 1 (w4 1) hostS = true ∧ refusedWith 0x0003 5 0x7000 2 (w4 1) live = true ∧ refusedWith 0x0002 5 0x7000 1 (w16 1) live = true ∧
    refusedWith 0x0005 5 0x7000 1 (w4 0x10000) live = true := by decide +kernel
theorem test_register_write : gives (.registerWrite 5 0x7000 1 (w4 700)) live (fun t => t.pw.limit == 700 && lastOut t == some (.dictDone 5)) = true := by decide +kernel

/-- Partition 0 with image, replay and a MSI-X arm; every single entry's write passes its checks. -/
def sngS : State := modStream (modPart jobS 0 fun p => { p with jobs := [] }) 0 3 fun st => { st with kept := [{ seq := 4, words := [1, 2], read := 2, replay := false, last := true, recs := 0 }] }
theorem wit_SingleEntryWrites : ({ sngS with crc := sngS.crc.map fun u => { u with fenced := true } } : State).crc.all (·.fenced) = true ∧ servesB { sngS with crc := sngS.crc.map fun u => { u with fenced := true } } 5 0xF003 9 (w4 4) = true ∧
    ([(0x2000, 0x54), (0x3000, 0x22), (0x2000, 0x22), (0xF003, 8), (0x2000, 0x41), (0x2000, 0x44), (0x6100, 7)].all fun x => servesB sngS 5 x.1 x.2 (w4 1)) = true ∧
    servesB sngS 4 0x10F0 2 (w4 3) = true ∧ servesB sngS 5 0x6164 1 (w4 0xFF) = true ∧
    servesB sngS 5 0x7200 0x80 (w16 0x100000000010) = true ∧ servesB sngS 5 0xF003 9 (w4 4) = true ∧ servesB sngS 4 0xA000 5 (w1 0xA5) = true ∧ sngS.parts[(0 : Fin 16)].imageState ≠ 3 ∧
    pendingOf sngS .slots = none ∧ (sngS.parts[(0 : Fin 16)].streams[(3 : Fin 8)].kept.find? fun b => b.seq == 4).isSome = true ∧
    slotReserved slot01 = false ∧ slotFields im2 0 [] slot01 = true ∧ slotRegions sngS 0 im2 slot01 = true := by decide +kernel

theorem test_int_arm : gives (.intArm 5 0 (w4 2)) (modPart live 0 fun p => { p with armEvq := false, armLedger := false }) (fun t => t.parts[(0 : Fin 16)].armLedger && !t.parts[(0 : Fin 16)].armEvq) = true := by decide +kernel
theorem test_doorbell : gives (.doorbell 5 0 (w4 9)) live (fun t => t.seq[(0 : Fin 64)].dbPend && t.seq[(0 : Fin 64)].db == 9) = true := by decide +kernel
theorem test_load_reset : gives (.loadReset 5 0 (w4 1)) jobS (fun t => t.parts[(0 : Fin 16)].imageState == 0 && t.parts[(0 : Fin 16)].image.isNone) = true := by decide +kernel
theorem test_load_reset_refused : gives (.loadReset 5 0 (w4 1)) (rigS .ingest) (fun t => t.parts[(0 : Fin 16)].imageState == 3 && lastOut t == some (.abort 5 7)) = true := by decide +kernel
theorem test_resync : gives (.resync 5 0 2 (w4 1)) (modStream live 0 2 fun st => { st with discard := true }) (fun t => !t.parts[(0 : Fin 16)].streams[(2 : Fin 8)].discard) = true := by
  decide +kernel
theorem test_replay : gives (.replaySeq 5 0 3 (w4 4)) sngS (fun t => t.parts[(0 : Fin 16)].streams[(3 : Fin 8)].out.map (·.replay) == [true]) = true := by decide +kernel
theorem test_exch_edit_slot : gives (.exchEditSlot 5 0 (w4 0)) (rigS .ingest) (fun t => t.parts[(0 : Fin 16)].exchEditW0 == slot01.1 && t.parts[(0 : Fin 16)].exchEditW1 == slot01.2) = true := by
  decide +kernel
theorem test_exch_edit_go : gives (.exchEditGo 5 0 (w4 1)) (modPart jobS 0 fun p => { p with exchEditSlot := 0, exchEditW0 := slot01.1, exchEditW1 := slot01.2 })
    (fun t => (actSlots (modPart t 0 fun p => { p with exchSlotsAct := 1 }).parts[(0 : Fin 16)]) == [slotOf slot01]) = true := by decide +kernel
theorem test_alert_clear : gives (.alertClear 4 (w4 3)) { live with dict := { live.dict with alertCause := 7 } } (fun t => t.dict.alertCause == 4) = true := by decide +kernel
theorem test_target : gives (.target 5 100 (w4 0xFF)) live (fun t => t.ev.src[(100 : Fin 800)].target == 0xFF && t.ev.src[(99 : Fin 800)].target == 0xFE) = true := by decide +kernel
theorem test_arrivals_clr : gives (.arrivalsClr 5 100 (w4 1)) { live with ev := { live.ev with src := updV live.ev.src 100 fun c => { c with arrivals := 9 } } }
    (fun t => t.ev.src[(100 : Fin 800)].arrivals == 0) = true := by decide +kernel
theorem test_slot_active : gives (.slotActive 5 3 (w16 0x100000000010)) live (fun t => t.pw.edits.map (·.1) == [3]) = true := by decide +kernel

theorem wit_RegisterWrites : ([(0x2000, 0x51), (0x2000, 0x52), (0x2000, 0x53), (0x2000, 0x61), (0x3000, 0x20), (0x3000, 0x21), (0x4000, 2), (0x4000, 5), (0x4000, 6),
      (0x5000, 0x10), (0x6100, 2), (0x6100, 3), (0x6100, 4), (0x6100, 5), (0x7000, 8)].all fun x => servesB live 5 x.1 x.2 (w4 1)) = true ∧
    servesB live 5 0x2000 0x40 (w4 100) = true ∧ servesB live 5 0x2000 0x60 (w4 600) = true ∧ servesB live 4 0x1F00 1 (w4 1000) = true ∧ servesB live 5 0xA000 0x41 (w4 1000) = true ∧
    servesB live 5 0x7000 1 (w4 900) = true ∧ servesB live 5 0x7000 3 (w4 90) = true ∧ servesB live 5 0x7000 4 (w4 100) = true ∧ servesB live 5 0x7000 5 (w4 90) = true ∧
    servesB live 5 0xA000 0x44 (w8 1) = true ∧ servesB live 5 0x2000 0x42 (w16 1) = true ∧ servesB live 5 0x2000 0x43 (w16 1) = true := by decide +kernel

/-- A dirty map at `v` with one partition placed at GiB 1 to 3 of the address-ordered memory. -/
def mapS (v : Nat) : State := modPart { live with twin := { live.twin with mapBase := BitVec.ofNat 64 v } } 0 fun p => { p with cfg := { p.cfg with hbmMode := 0, hbmBase := 1, hbmSize := 2 } }
/-- TWIN_MAP_BASE: the placement's first and last addresses, one past each end, and 0. -/
theorem wit_RegisterWrites_map : let meets (v : Nat) := (List.finRange 16).map fun p => placeMap (mapS v) (placeOf (mapS v).parts[p].cfg)
    let lo := hbmLo + gib
    let hi := hbmLo + 3 * gib
    meets 0 = List.replicate 16 false ∧ meets hi = List.replicate 16 false ∧ meets (lo - 393216) = List.replicate 16 false ∧
    meets (lo - 393216 + 4096) = true :: List.replicate 15 false ∧ meets (hi - 4096) = true :: List.replicate 15 false ∧
    servesB (mapS 0) 4 0x8100 6 (w8 hi) = true ∧ servesB (mapS 0) 4 0x8100 6 (w8 0) = true ∧ servesB (mapS 0) 4 0x8100 6 (w8 lo) = true ∧
    gives (.registerWrite 4 0x8100 6 (w8 hi)) (mapS 0) (fun t => t.twin.mapBase.toNat == hi) = true ∧
    gives (.registerWrite 4 0x8100 6 (w8 lo)) (mapS 0) (fun t => t.twin.mapBase == 0) = true := by decide +kernel

/-- Bank 0 of partition 0, without an owner and owned by VE 0. -/
def bankS (o : Byte) : State := modBank (ve0 id) 0 fun k => { k with part := 0, owner := o }
theorem wit_OwnerAndDrain : (bankS 0).dict.waiting = [] ∧ bankPart (bankS 0) 0 = some 0 ∧ forwards (bankS 0) 0 = false ∧ dead (bankS 0) = false ∧ memD.dict.waiting = [] ∧ memD.banks[(0 : Fin 256)].held = [] ∧
    servesB (bankS 0) 5 0x5000 2 (w4 0x40) = true ∧ firstCode (ownerRules (bankS 0) 0 0x40) = 0 ∧ firstCode (ownerRules (bankS 0x40) 0 0x40) = 0 ∧
    firstCode (ownerRules live 0 0x40) ≠ 0 ∧ (bankS 0).banks[(0 : Fin 256)].drain = none ∧ memD.banks[(0 : Fin 256)].drain = some (0x41, .write 0) := by decide +kernel
theorem test_owner : gives (.owner 5 0 (w4 0x40)) (bankS 0) (fun t => t.banks[(0 : Fin 256)].owner == 0 && t.banks[(0 : Fin 256)].drain == some (0x40, .write 5) && t.outs == []) = true := by
  decide +kernel
theorem test_drain_end : gives (.bankDrainEnd 0) memD (fun t => t.banks[(0 : Fin 256)].owner == 0x41 && t.banks[(0 : Fin 256)].drain.isNone && t.outs.contains (.dictDone 0)) = true := by
  decide +kernel

/-- The supervisor claims the memory group; and commits it. -/
def claimS (r : Requester) : State := { live with dict := { live.dict with claims := [{ grp := .mem, by' := r, shadow := [(1, 12)], at' := 0 }] } }
def pendS : State := { live with dict := { live.dict with pending := [{ grp := .mem, by' := 5, tag := 7, set := [(1, 12)], due := 0 }] } }
theorem wit_ClaimsAndCommits : ({ live with ls := { live.ls with state := 2 } } : State).ls.state = 2 ∧ servesB { live with ls := { live.ls with state := 2 } } 4 0x4000 0xFE (w4 7) = true ∧
    claimLost { live with dict := { live.dict with lost := [(.mem, 5)] } } .mem 5 = true ∧ servesB { live with dict := { live.dict with lost := [(.mem, 5)] } } 5 0x4000 0xFE (w4 7) = true ∧
    grpOf 0x4000 1 = some .mem ∧ servesB live 5 0x4000 1 (w4 12) = true ∧ claimLost live .mem 5 = false ∧ pendingOf live .mem = none ∧
    grpFenced live .mem = false ∧ (entryAt live 5 0x4000 1).any (fun e => e.cls == .rws) = true ∧ (grpCtl .mem).2.2.1 = 0xFE ∧ (grpCtl .mem).2.2.2 = 0xFF ∧
    servesB (claimS 5) 5 0x4000 0xFE (w4 7) = true ∧ servesB (claimS 5) 5 0x4000 0xFF (w4 1) = true ∧ pendingCount (claimS 5) 5 .mem < 32 ∧
    ((claimS 5).dict.claims.find? fun c => c.grp == .mem && c.by' == 5).isSome = true ∧ ((claimS 4).dict.claims.find? fun c => c.grp == .mem && c.by' == 5) = none ∧
    (pendingOf pendS .mem).isSome = true ∧ atSafePoint pendS .mem = true ∧ firstCode (groupRules pendS .mem [(1, 12)]) = 0 ∧
    firstCode (groupRules (modPart pendS 0 fun p => { p with cfg := { p.cfg with hbmSize := 1 } }) .mem [(1, 12)]) = 0x14 := by decide +kernel
/-- A pending commit of a group with its members as they are. -/
def dueS (s : State) (g : Grp) : State := { s with dict := { s.dict with pending := [{ grp := g, by' := 5, tag := 7, set := members s g, due := 0 }] } }
def dueOk (s : State) (g : Grp) : Bool := atSafePoint (dueS s g) g && (firstCode (groupRules (dueS s g) g (members s g)) == 0) && (pendingOf (dueS s g) g).isSome
/-- Commits of every kind of group pass their rules, and those not bound to a tick are at their safe points. -/
theorem wit_ClaimsAndCommits_groups : dueOk live (.part 0) = true ∧ dueOk live (.stream 0 2) = true ∧ dueOk live (.bank 0) = true := by decide +kernel
/-- Eight levels at 2,000 MHz and 900 mV pass whatever VMIN_2G is fused. -/
theorem wit_ClaimsAndCommits_rows : let set : List (Byte × W128) := (List.range 8).map fun l => (BitVec.ofNat 8 l, 900 * 65536 + 2000)
    firstCode (groupRules live (.reef 0) set) = 0 := by
  have hv : (Config.vmin2g 0).toNat ≤ 900 := by
    have := (Config.vminFuse 0).isLt
    simp only [Config.vmin2g, BitVec.toNat_ofNat]
    omega
  have hr : rowOk 0 (List.replicate 8 (900 * 65536 + 2000)) = true := by
    unfold rowOk
    refine Bool.and_eq_true _ _ |>.mpr ⟨by decide +kernel, List.all_eq_true.mpr fun x hx => ?_⟩
    have h1 : reefVolt (900 * 65536 + 2000) = 900 := by decide
    have h2 : reefFreq (900 * 65536 + 2000) = 2000 := by decide
    rw [List.eq_of_mem_replicate hx, h1, h2]
    exact decide_eq_true (by omega)
  have hs : rowOf 0 ((List.range 8).map fun l => (BitVec.ofNat 8 l, (900 * 65536 + 2000 : W128))) = List.replicate 8 (900 * 65536 + 2000) := by decide +kernel
  simp only [groupRules, hs, hr]
  rfl
theorem wit_ClaimsAndCommits_slots : firstCode (groupRules live .slots (members live .slots)) = 0 := by decide +kernel
/-- The supervisor lost its claim. -/
def lostClaimS : State := { live with dict := { live.dict with lost := [(.mem, 5)] } }
theorem wit_ClaimsAndCommits_lost : servesB lostClaimS 5 0x4000 1 (w4 12) = true ∧ servesB lostClaimS 5 0x4000 0xFF (w4 1) = true ∧ servesB lostClaimS 5 0x4000 0xFF (w4 0) = true ∧
    claimLost lostClaimS .mem 5 = true ∧ claimLost (hearLost lostClaimS .mem 5) .mem 5 = false ∧
    gives (.stagingWrite 5 0x4000 1 (w4 12)) lostClaimS (fun t => t.dict.lost == [] && t.dict.claims == [] && lastOut t == some (.abort 5 0x16)) = true ∧
    gives (.discard 5 0x4000 0xFF (w4 1)) lostClaimS (fun t => t.dict.lost == [] && lastOut t == some (.abort 5 0x16)) = true := by decide +kernel
theorem test_staging : gives (.stagingWrite 5 0x4000 1 (w4 12)) live (fun t => t.wideGib == 24 && t.dict.claims.map (·.shadow) == [[(1, 12)]]) = true := by decide +kernel
theorem test_staging_claimed : gives (.stagingWrite 5 0x4000 1 (w4 12)) (claimS 4) (fun t => lastOut t == some (.abort 5 0x10)) = true := by decide +kernel
theorem test_commit : gives (.commit 5 0x4000 0xFE (w4 7)) (claimS 5) (fun t => t.dict.commits == 1 && t.dict.claims == []) = true := by decide +kernel
theorem test_commit_unclaimed : gives (.commit 5 0x4000 0xFE (w4 7)) live (fun t => lastOut t == some (.abort 5 0x12)) = true := by decide +kernel
theorem test_discard : gives (.discard 5 0x4000 0xFF (w4 1)) (claimS 5) (fun t => t.dict.claims == []) = true := by decide +kernel
theorem test_commit_apply : gives (.commitApply 0x4000 1) pendS (fun t => t.wideGib == 12 && t.dict.results[(5 : Fin 6)] == 0x0000000702000000) = true := by decide +kernel
theorem test_stage_timeout : gives (.stageTimeoutExpiry 0x4000 1) (claimS 4) (fun t => t.dict.claims == [] && t.dict.lost == [(.mem, 4)]) = true := by decide +kernel

/-! ### Management over I3C -/

/-- The target has dynamic address 8. -/
def i3cS : State := { live with i3c := { live.i3c with dyn := some 8 } }
/-- In recovery mode. -/
def recS : State := { i3cS with boot := { i3cS.boot with state := 7, step := 3, slot := 2 } }
/-- Frames: a read of 0x7000:01, a write of 800 to it, and the four recovery operations. -/
def frRead : List Byte := withCrc [0x01, 5, 0x00, 0x70, 0x01, 0]
def frWrite : List Byte := withCrc [0x02, 5, 0x00, 0x70, 0x01, 2, 0x20, 0x03]
def frStart : List Byte := withCrc [0x40, 5, 0, 2, 0, 0, 0]
def frData : List Byte := withCrc [0x41, 6, 0, 0, 0, 0, 2, 0xAA, 0xBB]
def frFinish : List Byte := withCrc [0x42, 7]
def frQuery : List Byte := withCrc [0x43, 8]
theorem wit_ManagementRequests : takesTransfer i3cS 0x10 none = true ∧ takesTransfer live 0x10 none = false ∧ takesTransfer { i3cS with i3c := { i3cS.i3c with ddr := true } } 0x90 (some 0x90) = true ∧
    takesTransfer i3cS 0x90 (some 0x90) = false ∧ i3cS.dict.waiting = [] ∧ ([frRead, frWrite, frStart, frData, frFinish, frQuery].all fun b => frameOk b && decide (4 ≤ b.length) && decide (b.length ≤ 256)) = true ∧
    waits i3cS 4 = false ∧ i3cS.i3c.lastSeq ≠ some 5 ∧ frameOk [1, 2, 3, 4] = false ∧ frameOk (withCrc [9]) = true ∧ frRead.length = 8 ∧ le frRead 5 1 = 0 ∧
    headCode i3cS 4 0x7000 1 false = none ∧ (entryAt i3cS 4 0x7000 1).any (fun e => e.ty.bytes == 2) = true ∧ frWrite.length = 8 + 2 ∧ frStart.length = 9 ∧ frData.length = 9 + 2 ∧
    headCode i3cS 4 0x7000 0xEE false = some 1 ∧ live.i3c.dyn = none ∧ i3cS.i3c.ready = false ∧ i3cS.i3c.busy = false := by decide +kernel

/-- The response that is ready. -/
def respIs (i : Instr) (s : State) (l : List Byte) : Bool := gives i s fun t => t.i3c.ready && t.i3c.resp == l && t.i3c.alt.isNone
/-- A read of ABORT_LAST and one of DBG_DATA, whose bank's debug arbiter grants it, or waits in a frozen one; a response still held; and a reset that waits for its answer. -/
def frAbort : List Byte := withCrc [0x01, 5, 0x00, 0x21, 0x10, 0]
def frDebug : List Byte := withCrc [0x01, 5, 0x00, 0x50, 0x11, 0]
def tapFrozen (s : State) : State := { s with fab := { s.fab with tapArb := s.fab.tapArb.map fun a => { a with frozen := true } } }
theorem wit_ManagementRequests_units : frameOk frAbort = true ∧ frameOk frDebug = true ∧ le frDebug 2 2 = 0x5000 ∧ headCode i3cS 4 0x2100 0x10 false = none ∧
    (entryAt i3cS 4 0x2100 0x10).isSome = true ∧ headCode i3cS 4 0x5000 0x11 false = none ∧ (debugTap i3cS 4 0 none).isSome = true ∧
    (debugTap (tapFrozen i3cS) 4 0 none).isNone = true ∧ respIs (.i3cReadRequest none frDebug) i3cS ([0, 5, 16] ++ bytesOf (wordGet i3cS.mem (spLo / 16)) 16) = true ∧
    gives (.i3cReadRequest none frDebug) (tapFrozen i3cS) (fun t => t.dict.waiting.length == 1 && i3cAwaits t) = true ∧ i3cAwaits i3cS = false ∧
    i3cAwaits { i3cS with boot := { i3cS.boot with flashBusy := some 1 } } = true ∧ i3cS.boot.softDue = false ∧
    takesTransfer { i3cS with boot := { i3cS.boot with softDue := true }, i3c := { i3cS.i3c with ready := true } } 0x90 none = true := by decide +kernel
theorem test_i3c_read : respIs (.i3cReadRequest none frRead) i3cS [0, 5, 2, 0x84, 0x03] = true := by decide +kernel
theorem test_i3c_write : gives (.i3cWriteRequest none frWrite) i3cS (fun t => t.pw.limit == 800 && t.i3c.resp == [0, 5, 0]) = true := by decide +kernel
theorem test_i3c_bad_crc : gives (.i3cReadRequest none [1, 2, 3, 4]) i3cS (fun t => t.i3c.alt == some [3, 2, 0]) = true := by decide +kernel
theorem test_i3c_nack : gives (.i3cReadRequest none frRead) live (fun t => lastOut t == some .i3cNack) = true := by decide +kernel
theorem test_private_read : gives (.i3cPrivateRead none) { i3cS with i3c := { i3cS.i3c with ready := true, resp := [0, 5, 0] } } (fun t => lastOut t == some (.i3c (withCrc [0, 5, 0]))) = true := by
  decide +kernel
theorem test_recovery_start : gives (.recoveryStart none frStart) recS (fun t => t.boot.incoming == some (0, 2, []) && t.i3c.resp == [0, 5, 0]) = true := by decide +kernel
theorem test_recovery_data : gives (.recoveryData none frData) { recS with boot := { recS.boot with incoming := some (0, 2, []) } }
    (fun t => receivedImage t == [0xAA, 0xBB] && t.i3c.resp == [0, 6, 0]) = true := by decide +kernel
theorem test_recovery_finish : gives (.recoveryFinish none frFinish) recS (fun t => t.i3c.resp == [1, 7, 2, 7, 0]) = true := by decide +kernel
theorem test_recovery_query : gives (.recoveryQuery none frQuery) recS (fun t => t.i3c.ready && t.i3c.resp.take 2 == [0, 8]) = true := by decide +kernel

theorem wit_CommonCommandCodes : forMe i3cS (some 8) = true ∧ forMe i3cS none = true ∧ forMe i3cS (some 9) = false ∧ live.i3c.dyn = none ∧ i3cS.i3c.dyn = some 8 ∧
    26 ≤ (26 : W16).toNat ∧ (256 : W16).toNat ≤ 256 ∧ (25 : W16).toNat < 26 ∧ 256 < (257 : W16).toNat ∧
    ibiCan { i3cS with i3c := { i3cS.i3c with ibiOn := true, ibiAlert := true, ibiResp := true } } = true ∧ ibiCan live = false := by decide +kernel
theorem test_ccc_address : gives (.entdaa 9) live (fun t => t.i3c.dyn == some 9) = true ∧ gives (.setdasa 0x3A 10) live (fun t => t.i3c.dyn == some 10) = true ∧
    gives (.setnewda 8 11) i3cS (fun t => t.i3c.dyn == some 11) = true ∧ gives .rstdaa i3cS (fun t => t.i3c.dyn.isNone) = true := by decide +kernel
theorem test_ccc_set : gives (.enec none) i3cS (fun t => t.i3c.ibiOn) = true ∧ gives (.disec none) { i3cS with i3c := { i3cS.i3c with ibiOn := true } } (fun t => !t.i3c.ibiOn) = true ∧
    gives (.setmwl none 26) i3cS (fun t => t.i3c.mwl == 26) = true ∧ gives (.setmrl none 25) i3cS (fun t => lastOut t == some .i3cNack) = true ∧
    gives .enthdr0 i3cS (fun t => t.i3c.ddr) = true ∧ gives (.rstact none 0) i3cS (fun t => t.i3c.lastSeq.isNone) = true ∧ gives (.entas 2 none) i3cS (fun t => t.i3c == i3cS.i3c) = true ∧ gives (.entas 0x91 (some 8)) i3cS (fun t => lastOut t == some .i3cNack) = true := by
  decide +kernel
theorem test_ccc_get : gives (.getmwl 8) i3cS (fun t => lastOut t == some (.i3c [1, 0])) = true ∧ gives (.getmrl 8) i3cS (fun t => lastOut t == some (.i3c [1, 0])) = true ∧
    gives (.getpid 8) i3cS (fun t => match lastOut t with | some (.i3c l) => l.length == 6 | _ => false) = true ∧ gives (.getbcr 8) i3cS (fun t => lastOut t == some (.i3c [0x26])) = true ∧
    gives (.getdcr 8) i3cS (fun t => lastOut t == some (.i3c [0])) = true ∧ gives (.getstatus 8) i3cS (fun t => lastOut t == some (.i3c [0, 0])) = true ∧
    gives (.getmxds 8) i3cS (fun t => lastOut t == some (.i3c [0, 0])) = true := by decide +kernel

/-! ### Events -/

/-- An arrival of source 8 with detail 3 waits. -/
def evS : State := { live with ev := { live.ev with latches := [{ src := 8, ts := 0, detail := 3, count := 1, last := false, sat := false, part := none }] } }
/-- One record in the supervisor's ring and its core running. -/
def svS : State := { live with sv := { live.sv with st := .running }, ev := { live.ev with svRing := { live.ev.svRing with
  recs := [{ ts := 0, detail := 3, count := 1, target := 0, moved := false, retargeted := false, overflowed := false, last := false, seq := 0, src := 8, isOpen := true, lost := false, part := none }] } } }
theorem wit_EventsDelivered : canServe evS 8 = true ∧ (evS.ev.latches.find? fun l => l.src == 8).isSome = true ∧ resolveTarget 0 none = some 0 ∧ resolveTarget 0xFE none = none ∧
    resolveTarget 0x80 none = some 0x80 ∧ resolveTarget 0x7F none = some 0x7F ∧ resolveTarget 0xFF none = some 0xFF ∧ isDouble 8 3 = false ∧ evS.ev.src[(8 : Fin 800)].svCopy = false ∧
    cannotRead (ve0 id) 0 = false ∧ canRaise live 8 = true ∧ canRaise { live with boot := { live.boot with lost := true } } 8 = false ∧ alertBit 8 3 = none ∧ alertBit 672 3 = some 2 ∧
    canRun svS .sv = true ∧ (ringGet svS .sv).recs ≠ [] ∧ (ringGet svS .sv).held = [] ∧ (ringGet live .sv).recs = [] ∧
    (ringGet (storeUpsets svS [{ ring := .sv, place := 0, multi := true }]) .sv).recs.map (·.lost) = [true] := by decide +kernel
theorem test_event_raise : gives (.eventRaise 8 3) live (fun t => t.ev.latches.map (·.detail) == [3]) = true := by decide +kernel
theorem test_event_serve : gives (.eventServe ⟨8, []⟩) evS (fun t => t.ev.svRing.recs.map (·.detail) == [3] && t.ev.latches == [] && t.ev.arrivalsTotal == 1 && t.ev.recordsTotal == 1) = true := by
  decide +kernel
theorem test_sv_pop : gives .svPop svS (fun t => t.ev.svRing.recs == [] && t.outs.length == 1) = true := by decide +kernel
theorem test_ev_pop_empty : gives (.evPop 0) (ve0 id) (fun t => t.outs == [.block (.ve 0) (BitVec.allOnes 128)]) = true := by decide +kernel


/-! ### Power and dispatch -/

/-- Cluster 0 in state `f`. -/
def clS (f : Cluster → Cluster) : State := modCluster live 0 f
/-- A slot serving partition 0 with VEs 0 and 1 runs, with one tick left; partition 0 is bound to them. -/
def slotW : W128 := at' 128 64 3 ||| at' 128 44 1
def slotS : State := { modPart (ve0 id) 0 fun p => { p with bind := [0, 1] } with pw := { live.pw with running := some slotW, left := 1 } }
/-- They are leaving. -/
def leaveS : State := { slotS with pw := { slotS.pw with running := none, left := 0, leaving := [0, 1], leavingPart := some 0 } }
theorem wit_ReefChangesAndSlots : follows slotS = false ∧ (ctxWrite leaveS 0 0 0).1 = none ∧ leaveS.parts[(0 : Fin 16)].bind.idxOf 0 = 0 ∧ leaveS.pw.leavingPart = some 0 ∧ slotS.pw.due = false ∧ (clS fun k => { k with change := some (.raising 3) }).clusters[(0 : Fin 8)].change = some (.raising 3) ∧ frozen live = false ∧
    live.clusters[(0 : Fin 8)].change = none ∧ live.clusters[(0 : Fin 8)].lost = false ∧ mustWake (clS fun k => { k with asleep := true, wakeReq := true }) 0 = true ∧
    mustWake (clS fun k => { k with asleep := true }) 0 = false ∧ slotS.pw.left ≤ 1 ∧ bit slotW 4 = false ∧ clockRuns leaveS (clusterOfVe 0) = true ∧ (0 : Fin 64) ∈ leaveS.pw.leaving ∧
    canStop leaveS 0 = true ∧ (leaveS.pw.leaving.filter (· != 0)) ≠ [] ∧ leaveS.pw.due = false ∧ (0 : Fin 64) ∉ live.pw.leaving := by decide +kernel
/-- A VE that leaves a partition without memory cannot write its context, nor one of a fenced partition's; one that leaves a deterministic run stops only at its BARRIER; and a slot whose partition has nothing to do ends early. -/
def readyS : State := { modPart slotS 0 fun p => { p with jobs := [{ w0 := 0, w1 := 0, early := false }] } with pw := { slotS.pw with left := 5 } }
theorem wit_ReefChangesAndSlots_ways : (ctxWrite (modPart leaveS 0 fun p => { p with cfg := { p.cfg with hbmSize := 0 } }) 0 0 0).1.isSome = true ∧
    (ctxWrite (modPart leaveS 0 fun p => { p with cfg := { p.cfg with hbmSize := 0 } }) 0 0 0).1.map (·.1) ≠ some 9 ∧ twinActive leaveS 0 = false ∧
    canStop (modPart leaveS 0 fun p => { p with run := some { runW .evaluate with det := true } }) 0 = false ∧
    canStop (modSeq (modPart leaveS 0 fun p => { p with run := some { runW .ingest with det := true } }) 0 fun k => { k with begunBarrier := true }) 0 = true ∧
    canStop (modSeq (modPart leaveS 0 fun p => { p with run := some (runW .evaluate) }) 0 fun k => { k with begunBarrier := true }) 0 = false ∧
    partReady readyS.parts[(0 : Fin 16)] = true ∧ partReady slotS.parts[(0 : Fin 16)] = false ∧ 1 < readyS.pw.left ∧ follows readyS = false ∧
    (let k := live.clusters[(0 : Fin 8)]
     voltAt k 7 ≤ vidVolt k.vid ∧ ¬ voltAt k 0 ≤ vidVolt k.vid ∧ k.lost = false) := by decide +kernel
theorem test_rail_arrival : gives (.reefRailArrival 0) (clS fun k => { k with change := some (.raising 3) }) (fun t => t.clusters[(0 : Fin 8)].change == some (.paused 3)) = true := by decide +kernel
theorem test_clock_restart : gives (.reefClockRestart 0) (clS fun k => { k with change := some (.paused 0) }) (fun t => t.clusters[(0 : Fin 8)].level == 0 && t.clusters[(0 : Fin 8)].freq == 2000 &&
    t.clusters[(1 : Fin 8)].level == 7) = true := by decide +kernel
theorem test_wake : gives (.wakeRequest 0) (clS fun k => { k with asleep := true, wakeReq := true, freq := 0 }) (fun t => !t.clusters[(0 : Fin 8)].asleep && t.clusters[(0 : Fin 8)].freq == 600) = true := by
  decide +kernel
theorem test_slot_expiry : gives .slotTicksExpiry slotS (fun t => t.pw.running.isNone && t.pw.leaving == [0, 1]) = true := by decide +kernel
/-- Measurements of a cool device without activity. -/
def cool (temp : Byte) : TickMeas :=
  { pkg := 100, cluster := .replicate 8 5, dieTemp := .replicate 4 temp, stackTemp := .replicate 8 50, vddq := .replicate 8 1100, vdd := .replicate 8 600, load := .replicate 32 0
    activity := [], stackNj := .replicate 8 0, served := [], idle := 0, sleepy := 0 }
/-- Partition 0 has a job, demand 1 and VE 0; cluster 0 alone is awake, cold, with a great power; the package draws 1 W more than its limit. -/
def hotS : State :=
  let s := modPart { live with clusters := live.clusters.map fun k => { k with asleep := true } } 0 fun p =>
    { p with jobs := [{ w0 := 0, w1 := 0, early := false }], demand := 1, cfg := { p.cfg with veSet := 1 } }
  { modCluster s 0 fun k => { k with asleep := false, pwr := 60000 } with pw := { s.pw with now := 901 } }
/-- The package draws little. -/
def mildS : State := { hotS with pw := { hotS.pw with now := 100 } }
/-- What cluster 0 leaks at `mv`, in cold. -/
theorem hotS_leak (mv : Nat) : leakMw hotS 0 mv = (Config.leak85 0).toNat * 100 * mv ^ 3 * 1515717 * 2 ^ 0 / (900 ^ 3 * 16 * 1000000) := by
  simp only [leakMw, show hotS.pw.dieTemp[dieOfCluster 0].toNat + 15 = 15 by clear mv; decide +kernel, show nth pow25 (15 % 25) 0 = 1515717 by clear mv; decide +kernel,
    show 15 / 25 = 0 from rfl]
/-- A sum with one term. -/
theorem sum_first (f : Fin 8 → Nat) (h : ∀ c, c ≠ 0 → f c = 0) : ((List.finRange 8).map f).sum = f 0 := by
  simp [List.finRange_succ, h]
/-- The other clusters sleep and draw nothing. -/
theorem hotS_power (x : Demands) : powerAt hotS x = predictW hotS 0 (levelOf' hotS x 0) :=
  sum_first _ fun c hc => by
    have h : ∀ c : ClusterId, c ≠ 0 → hotS.clusters[c].asleep = true := by clear hc c x; decide +kernel
    simp only [predictW, h c hc, Bool.true_or, if_true]
theorem hotS_awake : (hotS.clusters[(0 : Fin 8)].asleep || hotS.clusters[(0 : Fin 8)].lost) = false := by decide +kernel
theorem hotS_pwr : hotS.clusters[(0 : Fin 8)].pwr.toNat * 1000 = 60000000 := by decide +kernel
theorem hotS_level : freqAt hotS.clusters[(0 : Fin 8)] hotS.clusters[(0 : Fin 8)].level = 600 ∧ voltAt hotS.clusters[(0 : Fin 8)] hotS.clusters[(0 : Fin 8)].level = 600 := by decide +kernel
/-- Cluster 0's dynamic power scales with frequency and the square of voltage. -/
theorem hotS_predict (l f v : Nat) (hf : freqAt hotS.clusters[(0 : Fin 8)] l = f) (hv : voltAt hotS.clusters[(0 : Fin 8)] l = v) :
    predictW hotS 0 l = (60000000 - leakMw hotS 0 600) * (f * v ^ 2) / (600 * 600 ^ 2) + leakMw hotS 0 v := by
  simp only [predictW, hotS_awake, hotS_pwr, hotS_level, hf, hv, Bool.false_eq_true, if_false]
/-- Level 1 draws at least 1 W more than level 2, whatever the cluster leaks. -/
theorem saves_at_least (w : Nat) (hw : w < 2 ^ 16) : let leak (v : Nat) := w * 100 * v ^ 3 * 1515717 * 2 ^ 0 / (900 ^ 3 * 16 * 1000000)
    (60000000 - leak 600) * (1600 * 820 ^ 2) / (600 * 600 ^ 2) + leak 820 + 1000 ≤ (60000000 - leak 600) * (1800 * 860 ^ 2) / (600 * 600 ^ 2) + leak 860 := by
  simp only [Nat.reducePow, Nat.reduceMul, Nat.mul_one, Nat.mul_assoc]
  omega
theorem one_watt {a b : Nat} (h : b + 1000 ≤ a) : (1000 : Int) ≤ (a : Int) - b := by omega
/-- Whatever cluster 0 leaks, level 2 saves more than the deficit of 1 W. -/
theorem wit_ThermalProtections_saves : let x : Demands := { d := (List.finRange 16).map fun p => hotS.parts[p].demand, td := heat hotS }
    (1000 : Int) ≤ (powerAt hotS x : Int) - powerAt hotS (setD x 0 2) := by
  intro x
  have h := saves_at_least (Config.leak85 0).toNat (Config.leak85 0).isLt
  simp only [← hotS_leak] at h
  rw [hotS_power, hotS_power, show levelOf' hotS x 0 = 1 by decide +kernel, show levelOf' hotS (setD x 0 2) 0 = 2 by decide +kernel,
    hotS_predict 1 1800 860 (by decide +kernel) (by decide +kernel), hotS_predict 2 1600 820 (by decide +kernel) (by decide +kernel)]
  exact one_watt h
theorem wit_ThermalProtections_decide : (∀ p : PartId, hotS.parts[p].cfg.weight ≠ 0 ∧ hotS.parts[p].demand ≤ 7) ∧ hotS.pw.step ≤ 4 ∧ calGuard hotS = 0 ∧ hotS.pw.limit = 900 ∧
    partReady hotS.parts[(0 : Fin 16)] = true ∧ (∀ p : PartId, p ≠ 0 → partReady hotS.parts[p] = false) ∧
    (decideTick { live with pw := { live.pw with now := 901 } } none).taken = some 1 ∧ (decideTick live none).taken = none ∧
    (decideTick { live with pw := { live.pw with step := 2 } } none).step = 1 ∧
    (let s := modPart mildS 0 fun p => { p with pwrNow := 2, cfg := { p.cfg with pwrCap := 1 } }
     (decideTick s none).dem.d.head? = some 2 ∧ partPower s none 0 = 2) := by decide +kernel
/-- Cluster 0 may sleep, with no latch of its VEs, and with one that is served into a ring whose event wakes it. -/
def sleepyS : State := { live with pw := { live.pw with sleepEn := true } }
def wakesS : State := { modPart (ve0 id) 0 (fun p => { p with bind := [0] }) with
  pw := { live.pw with sleepEn := true }
  ev := { live.ev with src := updV live.ev.src 8 (fun c => { c with wake := true, target := 0x40 }), latches := [{ src := 8, ts := 0, detail := 3, count := 1, last := false, sat := false, part := none }] } }
theorem wit_ThermalProtections_sleep : sleepyS.pw.sleepEn = true ∧ mustWake sleepyS 0 = false ∧ sleepyS.clusters[(0 : Fin 8)].asleep = false ∧
    (portLatches sleepyS 0).any (wakesCluster sleepyS 0) = false ∧ (portLatches wakesS 0).any (wakesCluster wakesS 0) = true := by decide +kernel
theorem wit_ThermalProtections_tick : dead live = false ∧ frozen live = false ∧ live.twin.state ≠ 3 ∧ live.pw.tjTarget.toNat < 96 := by decide +kernel
theorem test_tick : gives (.dispatchTick (cool 96)) live (fun t => t.pw.ticks == 1 && t.pw.now == 100 && t.pw.demand[(0 : Fin 4)] == 1) = true := by decide +kernel

theorem wit_ThermalProtections : 6 * live.pw.limit.toNat < 5 * (1200 : W16).toNat ∧ 5 * (1080 : W16).toNat ≤ 6 * live.pw.limit.toNat ∧ (clS fun k => { k with level := 4 }).clusters[(0 : Fin 8)].level < 7 ∧ live.clusters[(0 : Fin 8)].asleep = false ∧ live.pw.tjAlert.toNat ≤ (105 : Byte).toNat ∧
    (104 : Byte).toNat < live.pw.tjAlert.toNat ∧ bit live.pw.hot 1 = false ∧ 110 ≤ (110 : Byte).toNat ∧ live.clusters[(0 : Fin 8)].csOut = false ∧
    10 < absDiff ({ live with pw := { live.pw with dieTemp := .replicate 4 11 } } : State).pw.dieTemp[(0 : Fin 4)].toNat (fld live.clusters[(0 : Fin 8)].csCal 7 0) ∧
    30 < absDiff ({ live with pw := { live.pw with dieTemp := .replicate 4 31 } } : State).pw.dieTemp[(0 : Fin 4)].toNat (fld live.ports[(0 : Fin 4)].eqCal 7 0) ∧
    live.ports[(0 : Fin 4)].eqOut = false ∧ live.stk[(0 : Fin 8)].hot = false ∧ live.pw.stackTlimit.toNat < (96 : Byte).toNat := by decide +kernel
theorem test_fast_limit : gives (.fastLimit 1200) (clS fun k => { k with level := 4 }) (fun t => t.clusters[(0 : Fin 8)].change == some (.paused 6)) = true := by decide +kernel
theorem test_tj_alert : gives (.tjAlertReached 1 105) live (fun t => bit t.pw.hot 1 && t.dict.alertCause == 4) = true := by decide +kernel
theorem test_emergency : gives (.thermalEmergency 0 110) (clS fun k => { k with level := 2 }) (fun t => t.pw.demand[(0 : Fin 4)] == 7 && t.clusters[(0 : Fin 8)].change == some (.paused 7)) = true := by
  decide +kernel
theorem test_thermtrip : gives (.thermtrip 0) live (fun t => t.boot.lost && t.boot.thermtrip) = true := by decide +kernel
theorem test_sensor_cal : gives (.sensorCalOutOfBand 0) { live with pw := { live.pw with dieTemp := .replicate 4 11 } } (fun t => t.clusters[(0 : Fin 8)].csOut) = true := by decide +kernel
theorem test_eq_cal : gives (.eqCalOutOfBand 0) { live with pw := { live.pw with dieTemp := .replicate 4 31 } } (fun t => t.ports[(0 : Fin 4)].eqOut) = true := by decide +kernel
/-- A VE that is not leaving does not stop. -/
theorem test_ve_stop_not : gives (.veSlotStop 5) live (fun t => t.seq[(5 : Fin 64)].st == live.seq[(5 : Fin 64)].st && t.seq[(5 : Fin 64)].r.pc == live.seq[(5 : Fin 64)].r.pc) = true := by decide +kernel

/-! ### CRC units -/

/-- Unit 0 holds a CRC-8 run of one word. -/
def crcS (n : Nat) : State := modCrc live 0 fun u => { u with reg := crcStart 0 0, run := some { poly := 0, tag := 0, expected := 1, cmp := true, left := n } }
theorem wit_CrcUnits : crcSlot 0 (masterKind 0x240) = some 5 ∧ live.crc[(0 : Fin 16)].fenced = false ∧ live.crc[(0 : Fin 16)].run = none ∧ crcNearest live 0 (masterKind 0x240) = true ∧
    (arbContest live.fab.crcArb[(0 : Fin 16)] (fun _ => 0) 0 5 .alone).isSome = true ∧ (crcS 1).crc[(0 : Fin 16)].run.isSome = true ∧
    ([1] : List W128).length = 1 ∧ ([1] : List W128).length < 2 := by decide +kernel
/-- Die 1's CRC unit 4 is out of the reach of die 0 when no die link is in service. -/
theorem wit_CrcUnits_reach : let s : State := { live with fab := { live.fab with links := 0xF } }
    crcSlot 4 (masterKind 0x240) = crcSlot 4 (masterKind 0x240) ∧ (crcSlot 4 (masterKind 0x240)).isSome = true ∧ dieHops s (masterDie (masterKind 0x240)) 1 = none ∧
    dieHops live (masterDie (masterKind 0x240)) 0 = some 0 ∧ frozen s = false ∧ gives (.crcStart 4 0x240 2 0 0 false 3 .alone) s (fun t => t.outs == [.bus 0x240 0 [] 8]) = true := by decide +kernel
theorem test_crc_check : (List.range 4).all (fun p => crcOf (BitVec.ofNat 2 p) 0 [0x31, 0x32, 0x33, 0x34, 0x35, 0x36, 0x37, 0x38, 0x39] == crcCheckValue p) = true := by decide +kernel
theorem test_crc_start : gives (.crcStart 0 0x240 2 0 0 false 3 .alone) live (fun t => t.crc[(0 : Fin 16)].run.map (·.left) == some 4 && t.crc[(0 : Fin 16)].master == 0x240) = true := by decide +kernel
theorem test_crc_end : gives (.crcRunEnd 0 [0]) (crcS 1) (fun t => t.crc[(0 : Fin 16)].runs == 1 && t.crc[(0 : Fin 16)].run.isNone && t.crc[(0 : Fin 16)].mismatches == 1) = true := by decide +kernel
theorem test_crc_self : gives (.crcSelfCheck 3 (.replicate 4 0)) live (fun t => t.crc[(3 : Fin 16)].fenced) = true := by decide +kernel

/-! ### The Sundov twin -/

/-- A paired device with the link up, primary or secondary. -/
def twS (pri : Bool) : State := { live with twin := { live.twin with primary := pri, state := 3, linkUp := true } }
/-- A frame with the next SEQ. -/
def fr (kind : Byte) (pay : List W128) : SFrame := frameOf 0 0xFFFFFFFF kind pay
/-- Partition 0 in twin mode. -/
def twP (pri : Bool) : State := modPart (twS pri) 0 fun p => { p with cfg := { p.cfg with twinMode := true }, designCycle := 1, frames := [{ cycle := 1, own := some 5, stim := [] }] }
/-- A primary in a resync at phase `ph`. -/
def rsS (ph : ResyncPhase) : State := { live with twin := { live.twin with primary := true, state := 2, linkUp := true, resync := some { tag := 1, phase := ph, due := false }, mapBase := 0x1000000000 } }
theorem wit_TwinEntries : mapBad (rsS .whole) = false ∧ mapBad live = true ∧ (rsS .whole).mem.cells = [] ∧ twinParts (twP true) = [0] ∧ (∀ p ∈ twinParts (twP true), partMemFenced (twP true) p = false) ∧
    partMemFenced (modStack (modPart (twP true) 0 fun q => { q with cfg := { q.cfg with hbmSize := 1 } }) 0 fun k => { k with fenced := true }) 0 = true ∧ servesB live 4 0x8100 3 (w4 1) = true ∧ pairOk live = false ∧
    servesB (twS true) 4 0x8100 4 (w1 1) = true ∧ servesB (twS true) 4 0x8100 4 (w1 0) = true ∧ servesB { live with twin := { live.twin with state := 5 } } 4 0x8100 5 (w1 1) = true ∧
    (rsS .whole).twin.state = 2 ∧ allHeld (rsS .hold) = true ∧ dirtyCount (rsS (.pass 1)) < 1024 ∧ 8 ≤ 8 ∧ twinParts (twS true) = [] := by decide +kernel
/-- A primary with a fresh twin of its own revision may pair: the revision is not known, its equality with itself is. -/
theorem wit_TwinEntries_pair : ∃ s : State, pairOk s = true :=
  ⟨{ live with twin := { live.twin with primary := true, state := 1, linkUp := true, farState := 1, farFresh := true, farRevision := revision live, mapBase := 0x1000000000 } },
    Bool.and_eq_true_iff.mpr ⟨Bool.and_eq_true_iff.mpr ⟨rfl, beq_self_eq_true (revision live)⟩, rfl⟩⟩
/-- The dirty map of a resync: with a poisoned word, behind frozen arbiters, with 1,024 dirty granules, and out of a fenced stack's reach. -/
def mapPoisoned : State := { rsS (.pass 1) with mem := { (rsS (.pass 1)).mem with poison := [0x100000000] } }
def pcsFrozen (s : State) : State := { s with fab := { s.fab with pcArb := s.fab.pcArb.map fun a => { a with frozen := true } } }
def mapFull (n : Nat) : State := poke (rsS (.pass n)) 0x1000000000 (List.replicate 128 0xFF)
theorem wit_TwinEntries_map : (readMap mapPoisoned).2.bad = 7 ∧ (readMap (pcsFrozen mapPoisoned)).2.bad = 9 ∧ (readMap (mapFull 7)).2.bad = 0 ∧ dirtyCount (mapFull 7) = 1024 ∧
    (mapFull 8).twin.resync = some { tag := 1, phase := .pass 8, due := false } ∧ mapBad (modStack (rsS .hold) 0 fun k => { k with fenced := true }) = true ∧
    gives (.resyncPassEnd false) mapPoisoned (fun t => t.twin.state == 4) = true ∧ gives (.resyncPassEnd false) (mapFull 8) (fun t => t.twin.resync.map (·.phase) == some .hold) = true := by
  decide +kernel
/-- The hold of a resync ends; waits, behind frozen arbiters; or fails. -/
theorem wit_TwinEntries_hold : let c (s : State) := (twinParts s).foldl (sendSpace true) (sendDirty s)
    let on (s : State) := { s with twin := { s.twin with resync := some { tag := 1, phase := .hold, due := false } } }
    (c (rsS .hold)).bad = 0 ∧ (c (on (pcsFrozen mapPoisoned))).bad = 9 ∧ (c (on mapPoisoned)).bad = 7 ∧ (clearMap { s := mapFull 1, bad := 0 }).bad = 0 ∧
    mapWords (mapFull 1) ≠ [] ∧ mapWords (clearMap { s := mapFull 1, bad := 0 }).s = [] ∧ twinParts (mapFull 1) = [] ∧ ({ rsS .whole with twin := { (rsS .whole).twin with resync := some { tag := 1, phase := .whole, due := true } } } : State).twin.state = 2 := by
  decide +kernel
/-- A primary that is to let its twin go, with and without an unagreed design cycle. -/
theorem wit_TwinEntries_detach : let d (s : State) := { s with twin := { s.twin with detachDue := true } }
    twinParts (d (twP true)) = [0] ∧ (d (twP true)).parts[(0 : Fin 16)].agreed.toNat < (d (twP true)).parts[(0 : Fin 16)].designCycle ∧ (d (twS true)).twin.primary = true ∧
    (∀ p ∈ twinParts (d (twS true)), (d (twS true)).parts[p].designCycle ≤ (d (twS true)).parts[p].agreed.toNat) ∧
    (rsS .whole).twin.resync.isSome = true ∧ (twP true).parts[(0 : Fin 16)].cfg.twinMode = true ∧ (twP true).parts[(1 : Fin 16)].cfg.twinMode = false ∧ live.twin.state ≠ 2 := by decide +kernel
theorem test_twin_pair_refused : gives (.twinPair 4 (w4 1)) live (fun t => t.twin.state == 0 && t.i3c.resp == [1, 0, 2, 7, 0]) = true := by decide +kernel
theorem test_twin_detach : gives (.twinDetach 4 (w1 1)) (twS true) (fun t => t.twin.state == 4) = true := by decide +kernel
theorem test_twin_promote : gives (.twinPromote 4 (w1 1)) { live with twin := { live.twin with state := 5 } } (fun t => t.twin.state == 6) = true := by decide +kernel
theorem test_resync_pass : gives (.resyncPassEnd false) (rsS .hold) (fun t => t.twin.state == 3 && t.twin.resync.isNone) = true ∧
    gives (.resyncPassEnd true) (rsS .whole) (fun t => t.twin.state == 4) = true := by decide +kernel

theorem wit_TwinLink : live.twin.linkUp = false ∧ (twS true).twin.linkUp = true ∧ (twS false).twin.primary = false ∧ (twS false).twin.state = 3 ∧ live.boot.twinPresentN = true := by decide +kernel
/-- The TWN PLL lost; a secondary that has not paired; one whose twin is still present; and one that stands. -/
theorem wit_TwinLink_states : bit live.boot.pllGone 24 = false ∧ bit ({ live with boot := { live.boot with pllGone := 0x1000000 } } : State).boot.pllGone 24 = true ∧ frozen (twS true) = false ∧
    (let low (st : Fin 7) : State := { twS false with twin := { (twS false).twin with state := st }, boot := { live.boot with twinPresentN := false } }
     gives (.sundovLinkLoss 0) (low 1) (fun t => t.twin.state == 0) = true ∧ gives (.sundovLinkLoss 0) (low 2) (fun t => t.twin.state == 0) = true ∧
     gives (.sundovLinkLoss 0) (low 4) (fun t => t.twin.state == 4) = true ∧ gives (.sundovLinkLoss 0) (low 3) (fun t => t.twin.state == 3 && t.twin.lostAt.isSome) = true ∧
     gives (.sundovLinkLoss 0) { low 3 with twin := { (low 3).twin with fatal := true } } (fun t => t.twin.state == 6) = true) := by decide +kernel
theorem test_sundov_up : gives (.sundovLinkUp 4) live (fun t => t.twin.linkUp && t.twin.state == 1 && t.twin.sendSeq == 0) = true := by decide +kernel
theorem test_sundov_loss : gives (.sundovLinkLoss 0) (twS true) (fun t => !t.twin.linkUp && t.twin.state == 4) = true ∧ gives (.sundovLinkLoss 0) (twS false) (fun t => t.twin.state == 6) = true := by
  decide +kernel
/-- A paired secondary that lost its link while its twin is present. -/
def lostS : State := { twS false with twin := { (twS false).twin with linkUp := false, lostAt := some 0 } }
theorem test_presence : gives .presenceWaitExpiry lostS (fun t => t.twin.state == 5) = true ∧ gives .twinPresentNHigh lostS (fun t => t.twin.state == 6) = true := by decide +kernel
theorem test_resend : gives .frameResend { twS true with twin := { (twS true).twin with unacked := [(0, 4, [5])] } } (fun t => t.outs.length == 1 && t.twin.resends == 1) = true := by decide +kernel
theorem test_heartbeat_send : gives .heartbeatSend (twS true) (fun t => t.twin.sendSeq == 1 && t.twin.unacked.length == 1) = true := by decide +kernel

theorem wit_TwinFrames : twinActive (twP false) 0 = true ∧ twinActive live 0 = false ∧ partDev (ve0 id) 0 false 0 = some hb ∧ (fr 1 []).payload.length ≤ 256 ∧ fld (fr 1 []).hdr 95 88 = 1 ∧ fld (fr 7 [1, 2]).hdr 76 64 = 2 ∧ frameCrcOk (fr 2 [3]) = true ∧
    fld (fr 2 []).hdr 127 96 = (twS true).twin.recvSeq.toNat ∧ dead (twS true) = false ∧ frameCrcOk { hdr := 0, payload := [1] } = false := by decide +kernel
/-- A forwarded slot and level are the device's; a failure and a write are a partition's. -/
theorem wit_TwinFrames_kinds : let k (n : Nat) (w : W128) := fr 2 [at' 128 120 n ||| w, at' 128 44 3]
    fld (payHead (k 4 0)) 127 120 = 4 ∧ gives (.forwardedInput (k 4 7)) (twS false) (fun t => t.pw.running.isSome && t.pw.left == 3 && t.pw.slotNow == 7) = true ∧
    gives (.forwardedInput (k 5 0)) { twS false with pw := { live.pw with running := some slotW, left := 1 } } (fun t => t.pw.running.isNone) = true ∧
    (twP false).parts[(0 : Fin 16)].run = none ∧ (twP false).parts[(0 : Fin 16)].farStarts = 0 ∧ (twP false).parts[(0 : Fin 16)].cfg.twinMode = true ∧
    (modPart (twP false) 0 fun p => { p with farStarts := 1 }).parts[(0 : Fin 16)].farStarts ≠ 0 ∧ fld (payHead (k 9 0)) 127 120 = 9 ∧ (twS false).parts[(0 : Fin 16)].cfg.twinMode = false := by
  decide +kernel
/-- A copied word is written; in a fenced bank's place it fails the item, and so does a fenced partition's space. -/
theorem wit_TwinFrames_copies : let f := modStack (ve0 id) 0 fun k => { k with fenced := true }
    partDev (ve0 id) 0 false 0 = some hb ∧ (copyIn (ve0 id) 0 false 0 5).status = 0 ∧ (copyIn f 0 false 0 5).status = 8 ∧ (partDev f 0 false 0).isSome = true ∧ partMemFenced f 0 = true ∧
    partMemFenced (ve0 id) 0 = false ∧ (ve0 id).twin.resync = none ∧ Inv (ve0 id) := by
  unfold Inv; decide +kernel
theorem test_fatal : gives (.fatalNotice (fr 7 [])) (twS true) (fun t => t.twin.fatal && t.twin.recvSeq == 1) = true := by decide +kernel
theorem test_heartbeat : gives (.heartbeat (fr 1 [at' 128 96 1 ||| 9])) (twS true) (fun t => t.twin.farState == 1 && t.twin.farRevision == 9) = true := by decide +kernel
theorem test_frame_wrong_kind : gives (.heartbeat (fr 2 [])) (twS true) (fun t => t.twin.recvSeq == 0) = true := by decide +kernel
theorem test_digest : gives (.digest (fr 3 [at' 128 64 5 ||| 1])) (twP true) (fun t => t.parts[(0 : Fin 16)].agreed == 1) = true := by decide +kernel
theorem test_ledger_copy : gives (.ledgerCopy (fr 4 [0, 77])) (twP false) (fun t => t.parts[(0 : Fin 16)].mirror == [77]) = true := by decide +kernel
theorem test_progress : gives (.progress (fr 5 [at' 128 64 6 ||| at' 128 112 6 ||| 1])) (twP false) (fun t => t.twin.recvSeq == 1) = true := by decide +kernel
theorem test_forwarded : gives (.forwardedInput (fr 2 [at' 128 120 7 ||| 4])) (twP false) (fun t => t.twin.recvSeq == 1) = true := by decide +kernel
/-- TYPE 0x06 kind 0 of a secondary that links: a resync begins. -/
theorem test_resync_data : gives (.resyncData (fr 6 [0])) { twS false with twin := { (twS false).twin with state := 1 } } (fun t => t.twin.state == 2) = true := by decide +kernel

/-! ### Resets, boot and firmware images -/

/-- Nothing failed at a boot step. -/
def fine : BootFindings := { locked := 0x3FFFFFF, selfTestFail := 0, stackFail := 0, dieFail := 0, crcFail := 0, temp := 40, volt := 1100, ms := 5 }
/-- The boot stands at step `n` with BOOT_STATE `k`. -/
def bootAt (n k : Nat) : State := { State.reset with boot := { State.reset.boot with step := n, state := k } }
theorem wit_ResetKinds : live.boot.flashBusy = none ∧ live.boot.pwrok = true ∧ ({ live with boot := { live.boot with pwrok := false } } : State).boot.pwrok = false ∧ dead live = false := by decide +kernel
/-- A SOFT_RESET waits for its answer, with BOOTSEL at 2. -/
theorem wit_ResetKinds_soft : let s : State := { live with boot := { live.boot with softDue := true, bootPins := 2 } }
    s.boot.softDue = true ∧ s.boot.flashBusy = none ∧ ¬ (s.twin.primary = true ∧ s.twin.state = 3) ∧ (softResetGo s).boot.bootsel = 2 ∧ (softResetGo s).boot.cause = 2 ∧ live.boot.softDue = false := by
  decide +kernel
theorem test_power_on : gives (.powerOnReset 1 true) live (fun t => t.boot.bootsel == 1 && t.twin.primary && t.boot.step == 1 && !t.dict.isOpen) = true := by decide +kernel
theorem test_reset_n : gives (.resetNPulse 2) (twS true) (fun t => t.boot.cause == 1 && t.twin.primary && t.twin.state == 0 && t.boot.bootsel == 2) = true := by decide +kernel
theorem test_pwrok : gives .pwrokFall live (fun t => dead t && !t.boot.pwrok) = true := by decide +kernel
theorem test_soft_reset : gives (.softReset 4 ⟨w1 0xA5, 0⟩) live (fun t => t.boot.softDue && t.boot.step == 9) = true := by decide +kernel
theorem test_time_sync : gives .timeSync { live with ev := { live.ev with time := live.ev.time.set 0 7 } } (fun t => t.ev.time[(3 : Fin 4)] == 7) = true := by decide +kernel

theorem wit_BootSteps : dead (bootAt 1 0) = false ∧ (bootAt 1 0).boot.state < 7 ∧ (bootAt 3 2).boot.bootsel = 0 ∧  fine.locked &&& 0x3FFFFFF = 0x3FFFFFF ∧ fine.crcFail = 0 ∧ (bootAt 7 5).stk[(0 : Fin 8)].fenced = false := by decide +kernel
/-- A PLL that was lost does not lock; the BOOTSEL values; a VE that failed at step 2; and poison on both sides of the scratchpad's end. -/
theorem wit_BootSteps_ways : let lost : State := { bootAt 1 0 with boot := { (bootAt 1 0).boot with pllGone := 1 } }
    let sel (b : BitVec 2) : State := { bootAt 3 2 with boot := { (bootAt 3 2).boot with bootsel := b } }
    fine.locked &&& 0x3FFFFFF &&& ~~~lost.boot.pllGone ≠ 0x3FFFFFF ∧ (sel 1).boot.bootsel = 1 ∧ (sel 2).boot.bootsel ≠ 0 ∧ (sel 2).boot.bootsel ≠ 1 ∧ (bootAt 1 0).boot.bootsel.toNat < 2 ∧
    gives (.bootStepComplete fine) lost (fun t => t.boot.step == 1 && t.boot.pllLock == 0x3FFFFFE) = true ∧ Inv (bootAt 3 2) ∧
    (modSeq (bootAt 5 3) 3 fun c => { c with back := .failedSelfTest }).seq[(3 : Fin 64)].back = .failedSelfTest ∧
    (let s : State := { bootAt 6 4 with mem := { (bootAt 6 4).mem with poison := [spHi / 16 - 1, spHi / 16] } }
     spLo ≤ 16 * (spHi / 16 - 1) ∧ 16 * (spHi / 16 - 1) < spHi ∧ ¬ 16 * (spHi / 16) < spHi ∧ gives (.bootStepComplete fine) s (fun t => t.mem.poison == [spHi / 16]) = true ∧
       gives (.bootStepComplete fine) { s with boot := { s.boot with step := 7 } } (fun t => t.mem.poison == [spHi / 16 - 1]) = true) ∧
    gives (.bootStepComplete fine) { bootAt 8 5 with fz := { (bootAt 8 5).fz with holdN := true } } (fun t => t.fz.state == 1) = true ∧
    bit ({ fine with stackFail := 1 } : BootFindings).stackFail 0 = true ∧ bit ({ fine with crcFail := 1, dieFail := 2 } : BootFindings).dieFail 1 = true := by
  unfold Inv; decide +kernel
theorem test_boot_1 : gives (.bootStepComplete fine) (bootAt 1 0) (fun t => t.boot.step == 2 && t.boot.state == 1 && t.boot.pllLock == 0x3FFFFFF) = true := by decide +kernel
/-- Both slots are empty, and neither can boot, whether the flash answers or not. -/
theorem wit_BootSteps_slots (b : Bool) : slotVerdict (bootAt 4 3) b ≠ 0 := by
  unfold slotVerdict
  cases Config.flashReads b <;> cases b <;> decide +kernel
theorem test_boot_7 : gives (.bootStepComplete fine) (bootAt 7 5) (fun t => t.boot.step == 8 && t.stk[(0 : Fin 8)].ready && t.stk[(0 : Fin 8)].temp == 40) = true := by decide +kernel
theorem test_boot_8 : gives (.bootStepComplete fine) (bootAt 8 5) (fun t => t.boot.state == 6 && t.dict.isOpen && t.boot.ms == 5) = true := by decide +kernel
theorem wit_RecoveryAndFlash : (∀ x ∈ i3cS.dict.waiting, x.by' ≠ 4) ∧ ({ i3cS with i3c := { i3cS.i3c with busy := true } } : State).i3c.busy = true ∧ recS.boot.incoming = none ∧ ({ recS with boot := { recS.boot with incoming := some (0, 2, []), recDone := true } } : State).i3c.unread = false ∧ recS.boot.slot = 2 ∧ recS.boot.state = 7 ∧
    ({ i3cS with boot := { i3cS.boot with flashBusy := some 1, incoming := some (2, 1, [(0, 7)]) } } : State).boot.flashBusy = some 1 ∧ i3cS.boot.state = 6 ∧ i3cS.boot.slot + 1 ≠ 2 ∧
    i3cS.boot.slot + 1 = 1 := by decide +kernel
/-- START at the slot size and one byte above it; the targets' bound; a slot being written; and event 731. -/
theorem wit_RecoveryAndFlash_start : (recStart i3cS 2 983552).toOption.isSome = true ∧ (match recStart i3cS 2 983553 with | .error c => c | .ok _ => 0) = 0x15 ∧
    (match recStart i3cS 3 0 with | .error c => c | .ok _ => 0) = 5 ∧ (match recStart { i3cS with boot := { i3cS.boot with flashBusy := some 0 } } 2 0 with | .error c => c | .ok _ => 0) = 7 ∧
    (recStart recS 0 983552).toOption.isSome = true ∧ (match recStart recS 0 983553 with | .error c => c | .ok _ => 0) = 0x15 ∧
    gives (.flashSlotWriteDone true) { i3cS with boot := { i3cS.boot with flashBusy := some 1, incoming := some (2, 1, [(0, 7)]) } }
      (fun t => t.ev.latches.map (fun l => (l.src.val, l.detail)) == [(731, at' 32 8 1 ||| 1)]) = true := by decide +kernel
/-- DATA at the image's end, past it, and after FINISH; FINISH of an image that is no image. -/
theorem wit_RecoveryAndFlash_data : let s : State := { recS with boot := { recS.boot with incoming := some (0, 4, [(0, 1)]) } }
    (recData s 2 [7, 8]).toOption.isSome = true ∧ (match recData s 3 [7, 8] with | .error c => c | .ok _ => 0) = 5 ∧
    (match recData { s with boot := { s.boot with recDone := true } } 2 [7, 8] with | .error c => c | .ok _ => 0) = 7 ∧
    (match recFinish { recS with boot := { recS.boot with incoming := some (0, 0, []) } } with | .error (c, u) => c == 7 && u.boot.fail == 0x10000 | .ok _ => false) = true := by decide +kernel
/-- An image with a body of 576 bytes that holds an empty patch block. -/
def img : List Byte := leBytes 0x33574657 4 ++ [1, 0, 0, 0] ++ leBytes 576 4 ++ List.replicate 20 0 ++ [4] ++ List.replicate 1055 0
/-- Whether a key is fused, hashes alike and verifies is the chip's and the signer's; where all three hold, the image is accepted. -/
theorem wit_RecoveryAndFlash_image (h1 : Config.fuseKeySet = true) (h2 : ∀ l, Config.keyHashMatches l = true) (h3 : ∀ k g m, Config.signatureVerifies k g m = true) :
    imageVerdict img = 0 ∧ img.length = 512 + bodyBytes img := by
  have h : fwHeaderOk img = true ∧ patchOk img = true ∧ img.length = 512 + bodyBytes img := by clear h1 h2 h3; decide +kernel
  simp only [imageVerdict, h, h1, h2, h3, Bool.not_true, Bool.or_false, Bool.false_eq_true, if_false, and_self]
theorem test_recovery_boot : gives .recoveryBootContinue { recS with boot := { recS.boot with incoming := some (0, 2, []), recDone := true } } (fun t => t.boot.step == 5 && t.boot.state == 3) = true := by
  decide +kernel
theorem test_flash_done : gives (.flashSlotWriteDone false) { i3cS with boot := { i3cS.boot with flashBusy := some 1, incoming := some (2, 1, [(0, 7)]) } }
    (fun t => t.boot.flashB == [7] && t.boot.flashBusy.isNone) = true := by decide +kernel

/-- The bounds `LogicElements` and `IntegerElements` put on their bit and condition numbers, met at both ends. -/
theorem wit_LogicElements : (0 : Nat) < 128 ∧ (127 : Nat) < 128 := by decide
theorem wit_IntegerElements : (0 : Nat) < 8 ∧ (7 : Nat) < 8 := by decide

/-- The conditions under which `CommandsTakeEffect` says that its commands complete. -/
theorem wit_CommandsTakeEffect : dead live = false ∧ bit (0x3FFFFFF : BitVec 26) 0 = true ∧ bit (0x3FFFFFF : BitVec 26) 25 = true ∧ bit live.dieFenced 0 = false ∧ live.ls.state = 0 ∧
    ({ live with sv := { live.sv with st := .running } } : State).sv.st = .running ∧ execPart pairS 0 = some 0 ∧ clockRuns pairS (clusterOfVe 0) = true ∧
    pairS.eng[(0 : Fin 64)].fenced = 0 ∧ pairS.eng[(1 : Fin 64)].fenced = 0 ∧ pairS.parts[(0 : Fin 16)].cfg.paired = true ∧ servesRun pairS 0 0 = true ∧
    recS.boot.state = 7 ∧ recS.i3c.unread = false ∧ (rsS .whole).twin.state = 2 ∧ (rsS .whole).twin.resync.isSome = true ∧ frozen live = false ∧
    ([(0x4010, 8), (0x5000, 9), (0x8010, 6), (0x3000, 0x60), (0x2100, 5), (0x2000, 0x73), (0xA000, 0x46)].all fun x => servesB live 4 x.1 x.2 (w1 1)) = true ∧
    servesB { live with twin := { live.twin with state := 5 } } 4 0x8100 5 (w1 1) = true ∧ (twS true).twin.linkUp = true ∧
    ([1, 2, 3, 4, 5, 6, 7].all fun k => frameCrcOk (fr k []) && fld (fr k []).hdr 95 88 == k.toNat && fld (fr k []).hdr 127 96 == 0 && fld (fr k []).hdr 76 64 == 0) = true := by
  decide +kernel

/-- Of the stream commands. -/
theorem wit_CommandsTakeEffect_streams : heedsB outS 0 = true ∧ outS.dict.isOpen = true ∧ hostShut outS = false ∧ ownerOf outS 0 = 0 ∧
    (outS.parts[(0 : Fin 16)].streams[(6 : Fin 8)].out.map fun b => decide (b.read < b.words.length)) = [true] ∧
    gives (hostWrite 0 (.bar2 0x2000) (List.replicate 16 0)) (modStream hostS 0 2 fun st => { st with discard := true })
      (fun t => t.parts[(0 : Fin 16)].streams[(2 : Fin 8)].discarded == 1) = true := by decide +kernel

end Sys2Proof.Machine.Tests
end

/-!
PROOF. The elements of the logic and route pipes, bit by bit (R97, R98, R100-R102).
-/

namespace Sys2Proof.Machine

/-! ### Words built bit by bit -/

/-- The number whose bits below `n` are given by `f`, summed as `bitsOf` sums it. -/
def bitSum (f : Nat → Bool) (n : Nat) : Nat := (List.range n).foldl (fun acc j => if f j then acc + 2 ^ j else acc) 0

theorem bitSum_succ (f : Nat → Bool) (n : Nat) : bitSum f (n + 1) = if f n then bitSum f n + 2 ^ n else bitSum f n := by
  simp only [bitSum, List.range_succ, List.foldl_append, List.foldl_cons, List.foldl_nil]

theorem bitSum_lt (f : Nat → Bool) (n : Nat) : bitSum f n < 2 ^ n := by
  induction n with
  | zero => simp [bitSum]
  | succ n ih => rw [bitSum_succ, Nat.pow_succ]; split <;> omega

theorem testBit_bitSum (f : Nat → Bool) (n j : Nat) : (bitSum f n).testBit j = (decide (j < n) && f j) := by
  induction n with
  | zero => simp [bitSum]
  | succ n ih =>
    have hor : bitSum f n + 2 ^ n = 2 ^ n ||| bitSum f n := by
      rw [Nat.add_comm]
      simpa using Nat.two_pow_add_eq_or_of_lt (bitSum_lt f n) 1
    rw [bitSum_succ]
    split
    · rw [hor, Nat.testBit_or, Nat.testBit_two_pow, ih]
      grind
    · rw [ih]
      grind

/-- Bit `j` of a word built bit by bit. -/
@[simp] theorem bit_bitsOf (f : Nat → Bool) {j : Nat} (hj : j < 128) : bit (bitsOf f) j = f j := by
  have hsum : (bitsOf f).toNat = bitSum f 128 := Nat.mod_eq_of_lt (bitSum_lt f 128)
  simp [bit, hsum, testBit_bitSum, hj]

@[simp] theorem bit_zero (n i : Nat) : bit (0 : BitVec n) i = false := by simp [bit]

theorem toNat_byteOf {n : Nat} (x : BitVec n) (i : Nat) : (byteOf x i).toNat = fld x (8 * i + 7) (8 * i) := by
  have hw : 8 * i + 7 + 1 - 8 * i = 8 := by omega
  simp [byteOf, fld, hw]

/-! ### Gate evaluation -/

theorem velem_lut (rn : Bool) (q : QInstr) (tt : Nat) (a b c ctl : List W128) (pin : Bool) :
    velem rn q (.lut tt) a b c ctl pin = vres [lutWord tt (nth a 0 0) (nth b 0 0) (nth c 0 0)] := rfl

theorem velem_qlut (rn : Bool) (q : QInstr) (tt : Nat) (a b c ctl : List W128) (pin : Bool) :
    velem rn q (.qlut tt) a b c ctl pin = vres (pairMap (qlutBit tt) a b c) := rfl

/-- Inputs (v, u) that the table's index `t` fits: each known input has the index's bit as its value (R98). -/
def QFits (x y z : Bool × Bool) (t : Nat) : Prop :=
  t < 8 ∧ (x.2 = true ∨ t.testBit 0 = x.1) ∧ (y.2 = true ∨ t.testBit 1 = y.1) ∧ (z.2 = true ∨ t.testBit 2 = z.1)

/-- The indices that `qlutBit` keeps, searched for a property, are those that fit. -/
theorem any_fitting (x y z : Bool × Bool) (p : Nat → Bool) :
    (((List.range 8).filter fun t => (x.2 || x.1 == t.testBit 0) && (y.2 || y.1 == t.testBit 1) && (z.2 || z.1 == t.testBit 2)).any p = true) ↔
      ∃ t, QFits x y z t ∧ p t = true := by
  simp only [List.any_eq_true, List.mem_filter, List.mem_range, QFits, Bool.and_eq_true, Bool.or_eq_true, beq_iff_eq, and_assoc, @eq_comm _ (Nat.testBit _ _)]

/-- `VQLUT` is 1 or X where a fitting index reaches 1, and X where one reaches 0 as well. -/
theorem qlutBit_eq_true_iff (tt : Nat) (x y z : Bool × Bool) :
    ((qlutBit tt x y z).1 = true ↔ ∃ t, QFits x y z t ∧ tt.testBit t = true) ∧
    ((qlutBit tt x y z).2 = true ↔ (∃ t, QFits x y z t ∧ tt.testBit t = true) ∧ ∃ t, QFits x y z t ∧ tt.testBit t = false) := by
  have h1 := any_fitting x y z fun t => tt.testBit t
  have h0 := any_fitting x y z fun t => !tt.testBit t
  simp only [Bool.not_eq_true'] at h0
  rw [← h1, ← h0]
  unfold qlutBit
  grind

/-! ### Bus resolution -/

theorem velem_res (rn : Bool) (q : QInstr) (m : Nat) (a b c ctl : List W128) (pin : Bool) :
    velem rn q (.res m) a b c ctl pin = vres (pairMap (fun x y z => ofNet (resBit m (netOf x) (netOf y) (netOf z))) a b c) := rfl

/-- `netOf` and `ofNet` are inverse to each other. -/
theorem netOf_eq_iff (p : Bool × Bool) (v : Net) : netOf p = v ↔ p = ofNet v := by
  obtain ⟨_ | _, _ | _⟩ := p <;> cases v <;> decide

/-- The drivers that are not Z, as (v, u). -/
def driving (ps : List (Bool × Bool)) : List (Bool × Bool) := ps.filter fun p => p != (false, true)

theorem filter_map_netOf (ps : List (Bool × Bool)) : (ps.map netOf).filter (· ≠ .z) = (driving ps).map netOf := by
  rw [List.filter_map, driving]
  congr 2
  funext p
  simp [netOf_eq_iff, ofNet, bne, beq_eq_decide]

theorem contains_map_netOf (ps : List (Bool × Bool)) (v : Net) : (ps.map netOf).contains v = true ↔ ofNet v ∈ ps := by
  simp [netOf_eq_iff]

theorem isEmpty_map_netOf (ps : List (Bool × Bool)) : (ps.map netOf).isEmpty = true ↔ ps = [] := by simp

/-- WIRE of Table 4.4 over drivers given as (v, u). -/
theorem ofNet_resWire (ps : List (Bool × Bool)) :
    ofNet (resWire (ps.map netOf)) =
      if driving ps = [] then ofNet .z
      else if ofNet .x ∈ driving ps ∨ (ofNet .zero ∈ driving ps ∧ ofNet .one ∈ driving ps) then ofNet .x
      else if ofNet .one ∈ driving ps then ofNet .one else ofNet .zero := by
  simp only [resWire, filter_map_netOf, isEmpty_map_netOf, contains_map_netOf, Bool.or_eq_true, Bool.and_eq_true, apply_ite ofNet]

/-- WAND of Table 4.4 over drivers given as (v, u). -/
theorem ofNet_resWand (ps : List (Bool × Bool)) :
    ofNet (resWand (ps.map netOf)) =
      if driving ps = [] then ofNet .z else if ofNet .zero ∈ driving ps then ofNet .zero
      else if ofNet .x ∈ driving ps then ofNet .x else ofNet .one := by
  simp only [resWand, filter_map_netOf, isEmpty_map_netOf, contains_map_netOf, apply_ite ofNet]

/-- WOR of Table 4.4 over drivers given as (v, u). -/
theorem ofNet_resWor (ps : List (Bool × Bool)) :
    ofNet (resWor (ps.map netOf)) =
      if driving ps = [] then ofNet .z else if ofNet .one ∈ driving ps then ofNet .one
      else if ofNet .x ∈ driving ps then ofNet .x else ofNet .zero := by
  simp only [resWor, filter_map_netOf, isEmpty_map_netOf, contains_map_netOf, apply_ite ofNet]

/-! ### Moving bits -/

theorem velem_perm (rn : Bool) (q : QInstr) (p : Bool) (a b c ctl : List W128) (pin : Bool) :
    velem rn q (.perm p) a b c ctl pin = vres (a.map (permWord ctl)) := rfl

/-- Equal words but for the places of their bits have as many bits set. -/
theorem length_bitsSet_of_perm {n k : Nat} {v w : BitVec n} (e : Equiv.Perm Nat) (hk : ∀ j, e j < k ↔ j < k) (h : ∀ j, bit v j = bit w (e j)) :
    (bitsSet v k).length = (bitsSet w k).length := by
  have hcard (x : BitVec n) : (bitsSet x k).length = ((Finset.range k).filter fun j => bit x j = true).card := by
    rw [← Nat.count_eq_card_filter_range, Nat.count, List.countP_eq_length_filter]
    simp [bitsSet]
  rw [hcard, hcard]
  exact Finset.card_equiv e fun j => by simp [hk, h]

/-- A switch exchanges its two lines and leaves the others. -/
theorem bit_swapBits (w : W128) {lo d : Nat} (h : lo + 2 ^ d < 128) (j : Nat) :
    bit (swapBits w lo d) j = bit w (Equiv.swap lo (lo + 2 ^ d) j) := by
  simp only [swapBits, bit_setBit _ _ _ _ h, bit_setBit _ _ _ _ (Nat.lt_of_le_of_lt (Nat.le_add_right _ _) h), Equiv.swap_apply_def]
  grind

theorem length_bitsSet_swapBits (w : W128) {lo d : Nat} (h : lo + 2 ^ d < 128) :
    (bitsSet (swapBits w lo d) 128).length = (bitsSet w 128).length := by
  have hpos := Nat.two_pow_pos d
  refine length_bitsSet_of_perm (Equiv.swap lo (lo + 2 ^ d)) (fun j => ?_) (bit_swapBits w h)
  rw [Equiv.swap_apply_def]
  split_ifs <;> omega

/-- Both lines of switch `m` of a stage at distance `2^d` lie in the word (R101). -/
theorem switch_line_lt {d m : Nat} (hd : d ≤ 6) (hm : m < 64) : m / 2 ^ d * 2 ^ (d + 1) + m % 2 ^ d + 2 ^ d < 128 := by
  interval_cases d <;> omega

/-- `VPERM` keeps the number of set bits: each of its switches does. -/
theorem length_bitsSet_permWord (ctl : List W128) (a : W128) : (bitsSet (permWord ctl a) 128).length = (bitsSet a 128).length := by
  unfold permWord
  refine List.foldlRecOn (motive := fun w => (bitsSet w 128).length = (bitsSet a 128).length) _ _ rfl fun stageIn hstage t ht => ?_
  have ht : t < 13 := List.mem_range.mp ht
  refine List.foldlRecOn (motive := fun w => (bitsSet w 128).length = (bitsSet a 128).length) _ _ hstage fun w hw m hm => ?_
  have hd : (if t ≤ 6 then 6 - t else t - 6) ≤ 6 := by split <;> omega
  dsimp only
  split
  · rw [length_bitsSet_swapBits w (switch_line_lt hd (List.mem_range.mp hm)), hw]
  · exact hw

/-- With every switch off `VPERM` copies. -/
theorem permWord_replicate_zero (n : Nat) (a : W128) : permWord (List.replicate n 0) a = a := by
  have hctl (k : Nat) : nth (List.replicate n (0 : W128)) k 0 = 0 := by
    simp only [nth, List.getD_eq_getElem?_getD, List.getElem?_replicate]
    split <;> rfl
  simp only [permWord, hctl, bit_zero, Bool.false_eq_true, if_false, List.foldl_fixed]

theorem velem_bgath (rn : Bool) (q : QInstr) (p : Bool) (a b c ctl : List W128) (pin : Bool) :
    velem rn q (.bgath p) a b c ctl pin = vres ((List.range a.length).map fun k => bgathWord ctl (nth a k 0) (nth b k 0)) := rfl

/-! ### The obligation -/

/-- Settles O21: each operation's element is read bit by bit from the word function that `velem` applies. -/
theorem logicElements : Obligations.LogicElements := by
  unfold Obligations.LogicElements
  intro rn q a b c u v w tt ctl
  refine ⟨fun j hj => ?lut, fun j hj => ?qlut, fun j hj => ?res, ?count, ?copy, fun j hj => ?bgath⟩
  case lut => simp [velem_lut, vres, lutWord, nth, hj]
  case qlut =>
    have h := qlutBit_eq_true_iff tt (bit a j, bit u j) (bit b j, bit v j) (bit c j, bit w j)
    simpa [velem_qlut, vres, pairMap, nth, hj, QFits] using h
  case res =>
    have hwire := ofNet_resWire [(bit a j, bit u j), (bit b j, bit v j), (bit c j, bit w j)]
    have hwand := ofNet_resWand [(bit a j, bit u j), (bit b j, bit v j), (bit c j, bit w j)]
    have hwor := ofNet_resWor [(bit a j, bit u j), (bit b j, bit v j), (bit c j, bit w j)]
    simp only [velem_res, vres, pairMap, nth, List.getD_cons_zero, List.getD_cons_succ, bit_bitsOf _ hj]
    exact ⟨hwire, hwand, hwor⟩
  case count => simpa [velem_perm, vres] using length_bitsSet_permWord ctl a
  case copy => simp only [velem_perm, vres, List.map_cons, List.map_nil, permWord_replicate_zero]
  case bgath => simp [velem_bgath, vres, bgathWord, nth, hj, toNat_byteOf]

end Sys2Proof.Machine

/-!
PROOF. Words made of two 64-bit halves, and the integer elements on them (R125, R128-R132).
-/

namespace Sys2Proof.Machine

/-! ### Words of two halves -/

/-- The word with `hi` in bits [127:64] and `lo` in bits [63:0]. -/
def twoHalves (hi lo : Nat) : W128 := at' 128 64 hi ||| at' 128 0 lo

theorem toNat_twoHalves {hi lo : Nat} (hh : hi < 2 ^ 64) (hl : lo < 2 ^ 64) : (twoHalves hi lo).toNat = hi * 2 ^ 64 + lo := by
  have hhi : (at' 128 64 hi).toNat = hi <<< 64 := by
    simp only [at', BitVec.toNat_ofNat, Nat.shiftLeft_eq]
    omega
  have hlo : (at' 128 0 lo).toNat = lo := by
    simp only [at', BitVec.toNat_ofNat, Nat.shiftLeft_eq]
    omega
  rw [twoHalves, BitVec.toNat_or, hhi, hlo, ← Nat.shiftLeft_add_eq_or_of_lt hl, Nat.shiftLeft_eq]

/-- Either half of a word: its bits [127:64] if `high`, its bits [63:0] otherwise. -/
def half (x : W128) (high : Bool) : W64 := (x >>> (if high then 64 else 0)).setWidth 64

theorem toNat_half (x : W128) (high : Bool) : (half x high).toNat = x.toNat / (if high then 2 ^ 64 else 1) % 2 ^ 64 := by
  cases high <;> simp [half, Nat.shiftRight_eq_div_pow]

theorem toNat_half_low (x : W128) : (half x false).toNat = x.toNat % 2 ^ 64 := by simp [toNat_half]

theorem toNat_half_high (x : W128) : (half x true).toNat = x.toNat / 2 ^ 64 := by
  have := x.isLt
  rw [toNat_half, if_pos rfl]
  omega

theorem half_twoHalves (hi lo : W64) (high : Bool) : half (twoHalves hi.toNat lo.toNat) high = if high then hi else lo := by
  have hhi := hi.isLt
  have hlo := lo.isLt
  have h := toNat_twoHalves hhi hlo
  apply BitVec.eq_of_toNat_eq
  cases high
  · rw [toNat_half_low, h, if_neg Bool.false_ne_true]
    omega
  · rw [toNat_half_high, h, if_pos rfl]
    omega

/-- The low half as `BitVec` takes it. -/
theorem setWidth_eq_half (x : W128) : x.setWidth 64 = half x false := by simp [half]

theorem sint_toNat {n : Nat} (x : BitVec n) : sint n x.toNat = x.toInt := by simp [sint]

/-! ### Sums and differences -/

/-- A difference is the sum with the complement (R125). -/
theorem addWord_sub (cin : Bool) (a b : W128) : addWord true cin a b = addWord false cin a (~~~b) := by
  have hmsb : (a.msb != b.msb) = (a.msb == (~~~b).msb) := by
    rw [BitVec.msb_not]
    cases a.msb <;> cases b.msb <;> rfl
  simp only [addWord, hmsb, Bool.false_eq_true, if_true, if_false]

theorem addWord_out (cin : Bool) (a b : W128) : (addWord false cin a b).1 = a + b + BitVec.ofNat 128 cin.toNat := by
  apply BitVec.eq_of_toNat_eq
  simp [addWord]

theorem addWord_carry (cin : Bool) (a b : W128) : (addWord false cin a b).2.1 = decide (2 ^ 128 ≤ a.toNat + b.toNat + cin.toNat) := rfl

/-- An integer that 128-bit two's complement does not hold. -/
def overflows (z : Int) : Bool := decide (z < -(2 ^ 127) ∨ 2 ^ 127 ≤ z)

/-- SV of a sum is its signed overflow, the carry taken in included. -/
theorem addWord_sv (cin : Bool) (a b : W128) : (addWord false cin a b).2.2 = overflows (a.toInt + b.toInt + cin.toNat) := by
  have ha := a.isLt
  have hb := b.isLt
  have hc := cin.toNat_le
  simp only [addWord, overflows, BitVec.toInt_eq_msb_cond, BitVec.msb_eq_decide, BitVec.toNat_ofNat, Bool.false_eq_true, if_false]
  rw [Bool.eq_iff_iff]
  simp only [Bool.and_eq_true, beq_iff_eq, bne_iff_ne, ne_eq, decide_eq_decide, decide_eq_true_eq]
  split <;> split <;> omega

theorem subWord_out (cin : Bool) (a b : W128) : (addWord true cin a b).1 = a - b - BitVec.ofNat 128 (1 - cin.toNat) := by
  rw [addWord_sub, addWord_out]
  cases cin <;> simp <;> bv_omega

/-- The carry of a difference is 1 where nothing is borrowed. -/
theorem subWord_carry (cin : Bool) (a b : W128) : (addWord true cin a b).2.1 = decide (b.toNat + (1 - cin.toNat) ≤ a.toNat) := by
  have hb := b.isLt
  have hc := cin.toNat_le
  rw [addWord_sub, addWord_carry, BitVec.toNat_not, decide_eq_decide]
  omega

theorem toInt_complement (b : W128) : (~~~b).toInt = -b.toInt - 1 := by
  have hb := b.isLt
  rw [BitVec.toInt_eq_toNat_cond, BitVec.toInt_eq_toNat_cond, BitVec.toNat_not]
  split <;> split <;> omega

theorem subWord_sv (cin : Bool) (a b : W128) : (addWord true cin a b).2.2 = overflows (a.toInt - b.toInt - (1 - cin.toNat : Nat)) := by
  have hc := cin.toNat_le
  rw [addWord_sub, addWord_sv, toInt_complement]
  congr 1
  omega

theorem velem_addsub (rn : Bool) (q : QInstr) (sub cy : Bool) (cr : Nat) (a b : W128) (c ctl : List W128) (pin : Bool) :
    let t := addWord sub (if cy then pin else sub) a b
    let x := velem rn q (.addsub sub cy cr) [a] [b] c ctl pin
    x.out = [t.1] ∧ x.pbit = t.2.1 ∧ x.sv = t.2.2 := ⟨rfl, rfl, rfl⟩

/-! ### Comparison -/

/-- The conditions of R128 in the order of their numbers. -/
def conditions (a b : W128) : List Bool :=
  [a == b, a != b, decide (a.toNat < b.toNat), decide (b.toNat ≤ a.toNat), decide (a.toInt < b.toInt), decide (b.toInt ≤ a.toInt),
    decide (a.toNat ≤ b.toNat), decide (a.toInt ≤ b.toInt)]

theorem cmpWord_eq_getElem (a b : W128) (k : Nat) (h : k < 8) : cmpWord k a b = (conditions a b)[k] := by
  interval_cases k <;> rfl

theorem velem_cmp (rn : Bool) (q : QInstr) (packed : Bool) (k : Nat) (a b : W128) (c ctl : List W128) (pin : Bool) :
    velem rn q (.cmp packed k) [a] [b] c ctl pin =
      { vres (if packed then [] else [if cmpWord k a b then BitVec.allOnes 128 else 0]) with pbit := cmpWord k a b } := rfl

/-! ### Products -/

/-- The value of a half under its signedness. -/
def halfVal (sg : Bool) (x : W64) : Int := if sg then x.toInt else x.toNat

theorem mulwWord_eq (sa sb ha hb : Bool) (a b : W128) :
    mulwWord sa sb ha hb a b = BitVec.ofInt 128 (halfVal sa (half a ha) * halfVal sb (half b hb)) := by
  simp only [mulwWord, ← toNat_half, sint_toNat, halfVal]

theorem mullWord_eq (a b : W128) :
    mullWord a b = twoHalves (half a true * half b true).toNat (half a false * half b false).toNat := by
  simp only [mullWord, twoHalves, BitVec.toNat_mul, toNat_half_low, toNat_half_high]

theorem half_mullWord (a b : W128) (high : Bool) : half (mullWord a b) high = half a high * half b high := by
  rw [mullWord_eq, half_twoHalves]
  cases high <;> rfl

/-! ### The obligation -/

/-- Settles O22: the word functions that `velem` applies are the arithmetic of R125 and R128-R132; the selection, the shifts and the rotations are
those of bit vectors as they stand. -/
theorem integerElements : Obligations.IntegerElements := by
  unfold Obligations.IntegerElements
  intro rn q a b cr pin one res ovf
  have hres (sub cy : Bool) := velem_addsub rn q sub cy cr a b [] [] pin
  refine ⟨?add, ?sub, ?adc, ?sbc, fun k hk => ?cmp, rfl, rfl, rfl, rfl, rfl, rfl, fun sa sb ha hb => mulwWord_eq sa sb ha hb a b, fun k => ?mull⟩
  case add =>
    obtain ⟨hout, hcarry, hsv⟩ := hres false false
    have hsum := addWord_out false a b
    have hover := addWord_sv false a b
    exact ⟨by simpa [hsum] using hout, hcarry, by simpa [hover, overflows, ovf] using hsv⟩
  case sub =>
    obtain ⟨hout, hcarry, hsv⟩ := hres true false
    have hdiff := subWord_out true a b
    have hborrow := subWord_carry true a b
    have hover := subWord_sv true a b
    exact ⟨by simpa [hdiff] using hout, by simpa [hborrow] using hcarry, by simpa [hover, overflows, ovf] using hsv⟩
  case adc =>
    obtain ⟨hout, hcarry, hsv⟩ := hres false true
    exact ⟨hout.trans (congrArg (· :: []) (addWord_out pin a b)), hcarry, hsv.trans (addWord_sv pin a b)⟩
  case sbc =>
    obtain ⟨hout, hcarry, hsv⟩ := hres true true
    exact ⟨hout.trans (congrArg (· :: []) (subWord_out pin a b)), hcarry.trans (subWord_carry pin a b), hsv.trans (subWord_sv pin a b)⟩
  case cmp =>
    have hcond := cmpWord_eq_getElem a b k hk
    exact ⟨by simp only [one, velem_cmp, hcond]; rfl, hcond⟩
  case mull =>
    fin_cases k
    · exact half_mullWord a b false
    · exact half_mullWord a b true

end Sys2Proof.Machine

/-!
PROOF. The division sequence `VDIVS` on words of two halves (R133, R134).
-/

namespace Sys2Proof.Machine

/-! ### The steps as long division -/

theorem divSteps_add (dv m n : Nat) (x : Nat × Nat) : divSteps dv (m + n) x = divSteps dv n (divSteps dv m x) := by
  induction m generalizing x with
  | zero => rw [Nat.zero_add, divSteps]
  | succ m ih => rw [Nat.succ_add, divSteps, divSteps, ih]

/-- A step state (R, Q) whose two numbers are 64-bit. -/
def IsState (x : Nat × Nat) : Prop := x.1 < 2 ^ 64 ∧ x.2 < 2 ^ 64

/-- The number that R and Q make side by side. -/
def stateVal (x : Nat × Nat) : Nat := x.1 * 2 ^ 64 + x.2

theorem isState_divStep1 (dv : Nat) (x : Nat × Nat) : IsState (divStep1 dv x) := by
  simp only [IsState, divStep1]
  split <;> dsimp only <;> omega

theorem isState_divSteps (dv n : Nat) {x : Nat × Nat} (hx : IsState x) : IsState (divSteps dv n x) := by
  induction n generalizing x with
  | zero => exact hx
  | succ n ih => exact ih (isState_divStep1 dv x)

/-- A step doubles the number, and for a quotient bit `c` of 1 takes the divisor away from R and sets Q's lowest bit. R stays a remainder. -/
theorem divStep1_spec {dv : Nat} {x : Nat × Nat} (hdv : dv < 2 ^ 64) (hq : x.2 < 2 ^ 64) (hr : x.1 < dv) :
    (divStep1 dv x).1 < dv ∧ ∃ c ≤ 1, stateVal (divStep1 dv x) + c * dv * 2 ^ 64 = 2 * stateVal x + c := by
  simp only [divStep1, stateVal]
  split
  next => exact ⟨by dsimp only; omega, 1, by omega, by dsimp only; omega⟩
  next => exact ⟨by dsimp only; omega, 0, by omega, by dsimp only; omega⟩

/-- After `k` steps on the dividend `n`, with the partial quotient `p`: `p` times the divisor has been taken away from the high half of `2^k * n`, and
`p` stands below what is left of the dividend. -/
def DivInv (dv n k : Nat) (x : Nat × Nat) : Prop :=
  IsState x ∧ x.1 < dv ∧ ∃ p < 2 ^ k, stateVal x + p * dv * 2 ^ 64 = 2 ^ k * n + p

theorem divInv_zero {dv n : Nat} (hdv : 0 < dv) (hn : n < 2 ^ 64) : DivInv dv n 0 (0, n) :=
  ⟨⟨Nat.two_pow_pos 64, hn⟩, hdv, 0, by simp [stateVal]⟩

theorem divInv_divStep1 {dv n k : Nat} {x : Nat × Nat} (hdv : dv < 2 ^ 64) (h : DivInv dv n k x) : DivInv dv n (k + 1) (divStep1 dv x) := by
  obtain ⟨⟨-, hq⟩, hr, p, hp, hinv⟩ := h
  obtain ⟨hr', c, hc, hstep⟩ := divStep1_spec hdv hq hr
  exact ⟨isState_divStep1 dv x, hr', 2 * p + c, by omega, by linear_combination 2 * hinv + hstep⟩

theorem divInv_divSteps {dv n k : Nat} {x : Nat × Nat} (hdv : dv < 2 ^ 64) (h : DivInv dv n k x) (m : Nat) : DivInv dv n (k + m) (divSteps dv m x) := by
  induction m generalizing k x with
  | zero => exact h
  | succ m ih =>
    rw [← Nat.succ_add_eq_add_succ]
    exact ih (divInv_divStep1 hdv h)

/-- 64 steps divide: R is the remainder and Q the quotient. -/
theorem divSteps_64 {dv n : Nat} (h0 : 0 < dv) (hdv : dv < 2 ^ 64) (hn : n < 2 ^ 64) : divSteps dv 64 (0, n) = (n % dv, n / dv) := by
  have h := divInv_divSteps hdv (divInv_zero h0 hn) 64
  generalize divSteps dv (64 : Nat) (0, n) = x at h
  obtain ⟨⟨-, hq⟩, hr, p, hp, hinv⟩ := h
  simp only [stateVal] at hinv
  have hquot : x.2 = p := by omega
  have hdivides : x.1 + dv * x.2 = n := by
    rw [hquot, Nat.mul_comm]
    omega
  obtain ⟨hdiv, hmod⟩ := (Nat.div_mod_unique h0).2 ⟨hdivides, hr⟩
  rw [hdiv, hmod]

/-! ### The steps on words -/

/-- The magnitude of an operand under its signedness (R133). -/
def magnitude (sg : Bool) (x : W64) : W64 := if sg then x.abs else x

theorem mag64_toNat (x : W64) : mag64 x.toNat = x.abs.toNat := by
  have hx := x.isLt
  rw [mag64, sint_toNat, BitVec.toNat_abs, BitVec.msb_eq_decide, BitVec.toInt_eq_toNat_cond]
  simp only [decide_eq_true_eq]
  split <;> split <;> omega

theorem toNat_magnitude (sg : Bool) (x : W64) : (if sg then mag64 x.toNat else x.toNat) = (magnitude sg x).toNat := by
  cases sg
  · rfl
  · exact mag64_toNat x

theorem magnitude_pos (sg : Bool) {x : W64} (h : x ≠ 0) : 0 < (magnitude sg x).toNat := by
  have hneg : -x ≠ 0 := fun e => h (BitVec.neg_eq_zero_iff.mp e)
  have hne : magnitude sg x ≠ 0 := by
    rw [magnitude, BitVec.abs_eq]
    split_ifs
    exacts [hneg, h, h]
  exact Nat.pos_of_ne_zero fun e => hne (BitVec.eq_of_toNat_eq e)

/-- The state word of (R, Q). -/
def stateWord (x : Nat × Nat) : W128 := twoHalves x.1 x.2

theorem toNat_stateWord {x : Nat × Nat} (hx : IsState x) : (stateWord x).toNat = stateVal x := toNat_twoHalves hx.1 hx.2

theorem divInitWord_eq (sg : Bool) (b : W128) : divInitWord sg b = stateWord (0, (magnitude sg (half b false)).toNat) := by
  rw [divInitWord, ← toNat_half_low, toNat_magnitude, stateWord, twoHalves]
  simp [at']

theorem divStepWord_eq (sg : Bool) (n : Nat) (b : W128) {x : Nat × Nat} (hx : IsState x) :
    divStepWord sg n (stateWord x) b = stateWord (divSteps (magnitude sg (half b true)).toNat n x) := by
  obtain ⟨hr, hq⟩ := hx
  have hstate : ((stateWord x).toNat / 2 ^ 64, (stateWord x).toNat % 2 ^ 64) = x := by
    rw [toNat_stateWord ⟨hr, hq⟩, stateVal]
    exact Prod.ext (by dsimp only; omega) (by dsimp only; omega)
  rw [divStepWord, hstate, ← toNat_half_high, toNat_magnitude, stateWord, twoHalves]

/-- `k` instructions of `m` steps each are `m * k` steps. -/
theorem divStepWord_iterate (sg : Bool) (m k : Nat) (b : W128) {x : Nat × Nat} (hx : IsState x) :
    (fun a => divStepWord sg m a b)^[k] (stateWord x) = stateWord (divSteps (magnitude sg (half b true)).toNat (m * k) x) := by
  induction k generalizing x with
  | zero => rfl
  | succ k ih =>
    rw [Function.iterate_succ_apply, divStepWord_eq sg m b hx, ih (isState_divSteps _ m hx), ← divSteps_add, Nat.mul_succ, Nat.add_comm]

/-- INIT and sixteen STEPs of four leave the remainder and the quotient of the magnitudes (R135). -/
theorem divSequence_eq (sg : Bool) {b : W128} (hd : half b true ≠ 0) :
    (fun a => divStepWord sg 4 a b)^[16] (divInitWord sg b) =
      twoHalves (magnitude sg (half b false) % magnitude sg (half b true)).toNat (magnitude sg (half b false) / magnitude sg (half b true)).toNat := by
  have hinit : IsState (0, (magnitude sg (half b false)).toNat) := ⟨Nat.two_pow_pos 64, BitVec.isLt _⟩
  rw [divInitWord_eq, divStepWord_iterate sg 4 16 b hinit, divSteps_64 (magnitude_pos sg hd) (BitVec.isLt _) (BitVec.isLt _),
    BitVec.toNat_umod, BitVec.toNat_udiv, stateWord]

/-! ### The signs -/

theorem sdiv_eq_abs (n d : W64) : n.sdiv d = if n.msb != d.msb then -(n.abs / d.abs) else n.abs / d.abs := by
  rw [BitVec.sdiv_eq, BitVec.abs_eq, BitVec.abs_eq]
  cases n.msb <;> cases d.msb <;> rfl

theorem srem_eq_abs (n d : W64) : n.srem d = if n.msb then -(n.abs % d.abs) else n.abs % d.abs := by
  rw [BitVec.srem_eq, BitVec.abs_eq, BitVec.abs_eq]
  cases n.msb <;> cases d.msb <;> rfl

theorem ofInt_tdiv (n d : W64) : BitVec.ofInt 64 (n.toInt.tdiv d.toInt) = n.sdiv d := by
  apply BitVec.eq_of_toInt_eq
  rw [BitVec.toInt_ofInt, BitVec.toInt_sdiv]

theorem ofInt_tmod (n d : W64) : BitVec.ofInt 64 (n.toInt.tmod d.toInt) = n.srem d := by
  rw [← BitVec.toInt_srem, BitVec.ofInt_toInt]

/-- A 64-bit number negated under a condition, as FIX does it. -/
theorem toNat_negIf (c : Bool) (x : W64) : (if c then (2 ^ 64 - x.toNat) % 2 ^ 64 else x.toNat) = (if c then -x else x).toNat := by
  cases c
  · rfl
  · exact (BitVec.toNat_neg x).symm

theorem testBit_eq_msb (x : W64) : x.toNat.testBit 63 = x.msb := by
  rw [BitVec.msb_eq_getLsbD_last]
  rfl

/-- FIX on a remainder and a quotient, for a divisor that is not zero (R133). -/
theorem divFixWord_eq (sg : Bool) {b : W128} (hd : half b true ≠ 0) (r q : W64) :
    divFixWord sg (twoHalves r.toNat q.toNat) b =
      (twoHalves (if sg && (half b false).msb then -r else r).toNat (if sg && (half b false).msb != (half b true).msb then -q else q).toNat,
        sg && (half b false).toNat == 2 ^ 63 && (half b true).toNat == 2 ^ 64 - 1, false) := by
  have hd : (half b true).toNat ≠ 0 := fun e => hd (BitVec.eq_of_toNat_eq e)
  have hr : half (twoHalves r.toNat q.toNat) true = r := half_twoHalves r q true
  have hq : half (twoHalves r.toNat q.toNat) false = q := half_twoHalves r q false
  simp only [divFixWord, ← toNat_half_low, ← toNat_half_high, hr, hq, if_neg hd, testBit_eq_msb, toNat_negIf]
  rfl

/-- FIX on any state, for a divisor of zero (R134). -/
theorem divFixWord_zero (sg : Bool) (a : W128) {b : W128} (hd : half b true = 0) :
    divFixWord sg a b = (twoHalves (half b false).toNat (BitVec.allOnes 64).toNat, false, true) := by
  have hd : (half b true).toNat = 0 := by rw [hd]; rfl
  simp only [divFixWord, ← toNat_half_low, ← toNat_half_high, if_pos hd]
  rfl

/-- SV is raised for the most negative dividend over minus one. -/
theorem svOperands_eq (n d : W64) : (n.toNat == 2 ^ 63 && d.toNat == 2 ^ 64 - 1) = decide (n.toInt = -(2 ^ 63) ∧ d.toInt = -1) := by
  have hn := n.isLt
  have hd := d.isLt
  rw [Bool.eq_iff_iff]
  simp only [Bool.and_eq_true, beq_iff_eq, decide_eq_true_eq, BitVec.toInt_eq_toNat_cond]
  split <;> split <;> omega

/-- The whole sequence for a divisor that is not zero: the signed or the unsigned quotient and remainder of bit vectors. -/
theorem divFixWord_divSequence (sg : Bool) {b : W128} (hd : half b true ≠ 0) :
    divFixWord sg ((fun a => divStepWord sg 4 a b)^[16] (divInitWord sg b)) b =
      (twoHalves (if sg then (half b false).srem (half b true) else half b false % half b true).toNat
          (if sg then (half b false).sdiv (half b true) else half b false / half b true).toNat,
        sg && decide ((half b false).toInt = -(2 ^ 63) ∧ (half b true).toInt = -1), false) := by
  rw [divSequence_eq sg hd, divFixWord_eq sg hd, Bool.and_assoc, svOperands_eq, srem_eq_abs, sdiv_eq_abs]
  cases sg <;> rfl

/-! ### The obligation -/

theorem velem_divFix (rn : Bool) (i : QInstr) {sg : Bool} {a b : W128} {r q : W64} {sv zd : Bool} (c ctl : List W128) (pin : Bool)
    (h : divFixWord sg a b = (twoHalves r.toNat q.toNat, sv, zd)) :
    let x := velem rn i (.divFix sg) [a] [b] c ctl pin
    (x.out.headD 0).setWidth 64 = q ∧ ((x.out.headD 0) >>> 64).setWidth 64 = r ∧ x.sv = sv ∧ x.zd = zd := by
  have hx : velem rn i (.divFix sg) [a] [b] c ctl pin = { vres [twoHalves r.toNat q.toNat] with
      flags := (if sv then 0x80 else 0) ||| (if zd then 0x100 else 0), sv := sv, zd := zd } := by
    simp only [velem, nth, List.getD_cons_zero, h]
  rw [hx]
  exact ⟨(setWidth_eq_half _).trans (half_twoHalves r q false), half_twoHalves r q true, rfl, rfl⟩

/-- Settles O23: INIT and sixteen STEPs divide the magnitudes, and FIX puts the signs on the quotient and the remainder. -/
theorem divisionElements : Obligations.DivisionElements := by
  unfold Obligations.DivisionElements
  intro rn q b sg one init stepped fix n d quot rem
  have hn : n = half b false := setWidth_eq_half b
  rw [hn]
  refine ⟨fun hd hsg => ?unsigned, fun hd hsg => ?signed, fun hd => ?zero⟩
  case unsigned =>
    subst hsg
    exact velem_divFix rn q [] [] false (divFixWord_divSequence false hd)
  case signed =>
    subst hsg
    rw [ofInt_tdiv, ofInt_tmod]
    exact velem_divFix rn q [] [] false (divFixWord_divSequence true hd)
  case zero => exact velem_divFix rn q [] [] false (divFixWord_zero sg stepped hd)

end Sys2Proof.Machine

/-!
PROOF. What reports, accesses to memory and the moves of the exchange leave of the CRC units: all of them, as they are.
-/

namespace Sys2Proof.Machine

/-! ### Reports -/

/-- From `a` to `b` the CRC units of the state within stay as they are. A relation of its own: of an equation between projections the kernel would
evaluate what stands below them. -/
def CrcKept {β : Type} (g : β → State) (a b : β) : Prop := (g b).crc = (g a).crc

theorem foldl_crcKept {α β : Type} {g : β → State} {f : β → α → β} (hf : ∀ b a, CrcKept g b (f b a)) (l : List α) (b : β) :
    CrcKept g b (l.foldl f b) := by
  induction l generalizing b with
  | nil => rfl
  | cons a l ih => exact (ih (f b a)).trans (hf b a)

@[simp] theorem foldl_crc {α : Type} (f : State → α → State) (hf : ∀ s a, (f s a).crc = s.crc) (l : List α) (s : State) :
    (l.foldl f s).crc = s.crc := foldl_crcKept (g := id) hf l s

theorem ReadKeeps.crc {s t : State} (h : ReadKeeps s t) : t.crc = s.crc := by
  unfold ReadKeeps at h
  rw [h]

@[simp] theorem setAlert_crc (s : State) (i : Nat) : (setAlert s i).crc = s.crc := by
  obtain ⟨_, _, _, h⟩ := setAlert_frame s i
  rw [h]

@[simp] theorem raiseN_crc (s : State) (x : Nat) (dt : W32) : (raiseN s x dt).crc = s.crc := (raiseN_keeps s x dt).crc

@[simp] theorem fenceEvent_crc (s : State) (k n r : Nat) : (fenceEvent s k n r).crc = s.crc := (fenceEvent_keeps s k n r).crc

@[simp] theorem dictFinish_crc (s : State) (r : Requester) : (dictFinish s r).crc = s.crc := by
  unfold dictFinish
  split
  · exact (i3cReady_keeps s).crc
  · rfl

@[simp] theorem toTwinState_crc (s : State) (st : Fin 7) : (toTwinState s st).crc = s.crc := by
  simp only [toTwinState]
  split <;> simp

@[simp] theorem sendFrame_crc (s : State) (kind : Byte) (payload : List W128) : (sendFrame s kind payload).crc = s.crc := by
  unfold sendFrame
  split <;> simp

@[simp] theorem sinkResponses_crc (s : State) (m k : Nat) : (sinkResponses s m k).crc = s.crc := by
  unfold sinkResponses
  split <;> simp

@[simp] theorem pickWord_crc (s : State) (l : List W128) : (pickWord s l).2.crc = s.crc := by
  unfold pickWord
  split <;> simp

@[simp] theorem freeCut_crc (s : State) (p : PartId) : (freeCut s p).2.crc = s.crc := by
  unfold freeCut
  split
  · rfl
  · refine (foldl_crcKept (g := Prod.snd) ?_ _ _).trans (foldl_crcKept (g := Prod.snd) ?_ _ _)
    · exact fun _ _ => rfl
    · exact fun _ _ => rfl

/-! ### Memory -/

@[simp] theorem orWord_crc (s : State) (d a : Nat) (v : W128) : (orWord s d a v).crc = s.crc := by
  unfold orWord
  split
  · rename_i st c row word _
    have hcheck := (checkWord_keeps s (.pc st c row word) 0 (a / 16)).crc
    simp only
    split
    · rfl
    · split <;> exact hcheck
  · rfl

@[simp] theorem dirtyMark_crc (s : State) (a : Nat) : (dirtyMark s a).crc = s.crc := by
  simp only [dirtyMark]
  split
  · rfl
  · split
    · rfl
    · split <;> simp

@[simp] theorem readWord_crc (s : State) (d code a : Nat) : (readWord s d code a).s.crc = s.crc := (readWord_keeps s d code a).crc

@[simp] theorem readPart_crc (s : State) (p : PartId) (m : MasterKind) (code : Nat) (sp : Bool) (x : Nat) : (readPart s p m code sp x).s.crc = s.crc :=
  (readPart_keeps s p m code sp x).crc

@[simp] theorem writeMasked_crc (s : State) (d code a : Nat) (v : W128) (mask : List Bool) : (writeMasked s d code a v mask).s.crc = s.crc := by
  simp only [writeMasked]
  split
  · rfl
  · rename_i u _
    have hcheck := (checkWord_keeps s u code (a / 16)).crc
    split_ifs
    · rfl
    · rfl
    · cases u with
      | pc => rfl
      | bank b => exact (nonOwner_keeps s b code (a / 16) true).crc
    · simp
    · exact hcheck
    · simpa using hcheck

@[simp] theorem atomicWord_crc (s : State) (d a : Nat) (f : W128 → W128) : (atomicWord s d a f).s.crc = s.crc := by
  unfold atomicWord
  split
  · rename_i st c row word _
    have hcheck := (checkWord_keeps s (.pc st c row word) 0 (a / 16)).crc
    simp only
    split
    · rfl
    · split
      · exact hcheck
      · simpa using hcheck
  · rfl

/-- An access by the arbiters on its way leaves the CRC units alone if what serves it at its target does. -/
theorem via_crc (s : State) (m : MasterKind) (a : Nat) {f : State → Acc} (hf : ∀ t, (f t).s.crc = t.crc) : (via s m a f).s.crc = s.crc := by
  unfold via
  split
  · rfl
  · split
    · rfl
    · split
      · rfl
      · exact (hf _).trans (pathTake_keeps _ _ _ _).crc

@[simp] theorem writePart_crc (s : State) (p : PartId) (m : MasterKind) (code : Nat) (sp : Bool) (x : Nat) (v : W128) (mask : List Bool) :
    (writePart s p m code sp x v mask).s.crc = s.crc := by
  unfold writePart
  split
  · exact via_crc _ _ _ fun _ => writeMasked_crc _ _ _ _ _ _
  · rfl

@[simp] theorem noteWaitAt_crc (s : State) (p : PartId) (m : MasterKind) (sp : Bool) (x : Nat) : (noteWaitAt s p m sp x).crc = s.crc := by
  unfold noteWaitAt noteWait
  repeat' split
  all_goals rfl

/-! ### Exchange slots -/

@[simp] theorem slotGet_crc (direct : Bool) (s : State) (p : PartId) (n : VeId) (code : Nat) (sp : Bool) (off : Nat) :
    (slotGet direct s p n code sp off).s.crc = s.crc := by
  unfold slotGet
  split
  · split <;> simp
  · simp

@[simp] theorem slotPut_crc (direct : Bool) (s : State) (p : PartId) (n : VeId) (code : Nat) (sp : Bool) (off : Nat) (v : W128) :
    (slotPut direct s p n code sp off v).s.crc = s.crc := by
  unfold slotPut
  split
  · split
    · exact writeMasked_crc _ _ _ _ _ _
    · rfl
  · simp

@[simp] theorem slotOr_crc (direct : Bool) (s : State) (n : VeId) (d : Nat) (v : W128) : (slotOr direct s n d v).s.crc = s.crc := by
  unfold slotOr
  split
  · split <;> simp
  · exact via_crc _ _ _ fun _ => atomicWord_crc _ _ _ _

@[simp] theorem slotReads_crc (direct : Bool) (p : PartId) (r : Run) (n : VeId) (ss : List Slot) (i : Nat) (x : Slot) (k off : Nat) (t : SlotRun) :
    (slotReads direct p r n ss i x k off t).s.crc = t.s.crc := by
  induction k generalizing off t with
  | zero => rfl
  | succ k ih =>
    simp only [slotReads]
    split_ifs <;> simp [ih]

@[simp] theorem slotWrites_crc (direct : Bool) (p : PartId) (n m : VeId) (ss : List Slot) (i : Nat) (x : Slot) (vs : List W128) (off : Nat) (t : SlotRun) :
    (slotWrites direct p n m ss i x vs off t).s.crc = t.s.crc := by
  induction vs generalizing off t with
  | nil => rfl
  | cons v vs ih =>
    simp only [slotWrites]
    split_ifs <;> simp [ih]

theorem crcKept_slotMarks (direct : Bool) (p : PartId) (n : VeId) (im : Image) (off words : Nat) (t : SlotRun) :
    CrcKept SlotRun.s t (slotMarks direct p n im off words t) := by
  unfold slotMarks
  split
  · rfl
  · extract_lets es els
    clear_value els
    refine foldl_crcKept (fun t w => ?_) _ t
    split
    · rfl
    · extract_lets a v
      clear_value a v
      split
      · rfl
      · extract_lets r
        have hr : r.s.crc = t.s.crc := slotOr_crc _ _ _ _ _
        clear_value r
        split_ifs
        · rfl
        · exact hr
        · exact hr

@[simp] theorem slotMarks_crc (direct : Bool) (p : PartId) (n : VeId) (im : Image) (off words : Nat) (t : SlotRun) :
    (slotMarks direct p n im off words t).s.crc = t.s.crc := crcKept_slotMarks direct p n im off words t

@[simp] theorem slotFrags_crc (direct : Bool) (p : PartId) (n m : VeId) (ss : List Slot) (i : Nat) (x : Slot) (im : Image) (base fuel : Nat) (vs : List W128)
    (done : Nat) (t : SlotRun) : (slotFrags direct p n m ss i x im base fuel vs done t).s.crc = t.s.crc := by
  induction fuel generalizing vs done t with
  | zero => rfl
  | succ fuel ih =>
    simp only [slotFrags]
    split_ifs <;> simp [ih]

@[simp] theorem slotMove_crc (direct : Bool) (s : State) (p : PartId) (r : Run) (i : Nat) (x : Slot) (n m : VeId) (im : Image) (words : Nat) :
    (slotMove direct s p r i x n m im words).s.crc = s.crc := by simp [slotMove]

@[simp] theorem exchangeStops_crc (s : State) (p : PartId) (but : Option Nat) (cut : ExchCut) : (exchangeStops s p but cut).crc = s.crc := by
  unfold exchangeStops
  refine (foldl_crc _ (fun _ _ => sinkResponses_crc _ _ _) _ _).trans (foldl_crc _ (fun t y => ?_) _ s)
  repeat' split
  all_goals simp

end Sys2Proof.Machine

/-!
PROOF. What the end of an item, the streams, a restore, the twin and what follows a fence leave of the CRC units: all of them, as they are.
-/

namespace Sys2Proof.Machine

/-! ### Ledger and segments -/

@[simp] theorem settle_crc (s : State) (p : PartId) : (settle s p).crc = s.crc := rfl

@[simp] theorem msixSend_crc (s : State) (h : PortId) (v : Nat) : (msixSend s h v).crc = s.crc := by
  unfold msixSend
  split <;> rfl

@[simp] theorem msix_crc (s : State) (p : PartId) : (msix s p).crc = s.crc := by
  have hport (t : State) (b : Bool) (h : PortId) (v : Nat) (f : Partition → Partition) : (if b then modPart (msixSend t h v) p f else t).crc = t.crc := by
    split <;> simp
  simp only [msix]
  split
  · rfl
  · rw [hport, hport, hport]

@[simp] theorem ledgerPut_crc (s : State) (p : PartId) (r : W128) : (ledgerPut s p r).crc = s.crc := by simp [ledgerPut]

@[simp] theorem ledgerEnd_crc (s : State) (p : PartId) (item : W32) (kind cause : Nat) (detail : W64) :
    (ledgerEnd s p item kind cause detail).crc = s.crc := by
  simp only [ledgerEnd]
  split_ifs <;> simp

@[simp] theorem ledgerItem_crc (s : State) (p : PartId) (item : W32) (kind cause : Nat) (detail : Option W64) :
    (ledgerItem s p item kind cause detail).crc = s.crc := by
  unfold ledgerItem
  split <;> simp

@[simp] theorem ledgerAcked_crc (s : State) (ack : Option W32) (p : PartId) : (ledgerAcked s ack p).crc = s.crc := by simp [ledgerAcked]

@[simp] theorem disarm_crc (s : State) (p : PartId) : (disarm s p).crc = s.crc := by
  rw [disarm, modPart_crc, foldl_crc]
  exact fun _ _ => rfl

@[simp] theorem landEdit_crc (p : PartId) (s : State) (e : Edit) : (landEdit p s e).crc = s.crc := by
  simp only [landEdit]
  split <;> simp

@[simp] theorem applyEdits_crc (s : State) (p : PartId) (ok : Edit → Bool) : (applyEdits s p ok).crc = s.crc := by simp [applyEdits]

@[simp] theorem applySwap_crc (s : State) (p : PartId) : (applySwap s p).crc = s.crc := by
  simp only [applySwap]
  split <;> simp

@[simp] theorem tablesEnd_crc (s : State) (p : PartId) : (tablesEnd s p).crc = s.crc := by simp [tablesEnd]

@[simp] theorem stopSeq_crc (s : State) (n : VeId) : (stopSeq s n).crc = s.crc := rfl

@[simp] theorem freeTriggers_crc (s : State) (p : PartId) : (freeTriggers s p).crc = s.crc := by
  unfold freeTriggers
  split <;> rfl

@[simp] theorem doneEvent_crc (how : Nat) (p : PartId) (s : State) (n : VeId) : (doneEvent how p s n).crc = s.crc := raiseN_crc _ _ _

@[simp] theorem failRun_crc (s : State) (p : PartId) (cause : Nat) (detail : W64) : (failRun s p cause detail).crc = s.crc := by
  unfold failRun
  split
  · rfl
  · simp [foldl_crc stopSeq stopSeq_crc]

@[simp] theorem failSegment_crc (s : State) (p : PartId) (cause : Nat) (detail : W64) : (failSegment s p cause detail).crc = s.crc := by
  unfold failSegment
  split
  · rfl
  · split_ifs <;> simp

@[simp] theorem failSegmentFree_crc (s : State) (p : PartId) (cause : Nat) : (failSegmentFree s p cause).crc = s.crc := by simp [failSegmentFree]

@[simp] theorem exchangeFails_crc (s : State) (p : PartId) (i : Nat) (n : VeId) (st : Nat) (atDst sp : Bool) (a : Nat) (cut : ExchCut) :
    (exchangeFails s p i n st atDst sp a cut).crc = s.crc := by simp [exchangeFails]

@[simp] theorem stopSlots_crc (s : State) (p : PartId) (but : List VeId) : (stopSlots s p but).crc = s.crc := by
  unfold stopSlots
  split <;> simp

@[simp] theorem endSegment_crc (s : State) (p : PartId) : (endSegment s p).crc = s.crc := by
  unfold endSegment
  split <;> simp

@[simp] theorem restoreEnd_crc (s : State) (p : PartId) (r : Restore) (cause : Nat) (detail : Option W64) : (restoreEnd s p r cause detail).crc = s.crc := by
  simp [restoreEnd]

@[simp] theorem failCkpt_crc (s : State) (p : PartId) (cause : Nat) (detail : Option W64) : (failCkpt s p cause detail).crc = s.crc := by
  simp only [failCkpt]
  split <;> split <;> simp

@[simp] theorem failJobs_crc (s : State) (p : PartId) (cause : Nat) (detail : Option W64) : (failJobs s p cause detail).crc = s.crc := by
  simp only [failJobs]
  split <;> simp

/-! ### Images and stream blocks -/

@[simp] theorem imgAbandon_crc (s : State) (p : PartId) (cause : Nat) : (imgAbandon s p cause).s.crc = s.crc := rfl

@[simp] theorem imgPut_crc (s : State) (p : PartId) (sp : Bool) (off : Nat) (w : W128) : (imgPut s p sp off w).s.crc = s.crc := by
  simp only [imgPut]
  split_ifs <;> simp

@[simp] theorem imgPuts_crc (p : PartId) (sp : Bool) (f : Nat → W128) (os : List Nat) (r : ImgRes) : (imgPuts p sp f os r).s.crc = r.s.crc := by
  induction os generalizing r with
  | nil => rfl
  | cons o os ih =>
    unfold imgPuts
    split <;> simp [ih]

theorem crcKept_loadFills (s : State) (p : PartId) (im : Image) (ws : List W128) : CrcKept ImgRes.s { s := s, stop := .ok } (loadFills s p im ws) := by
  unfold loadFills
  extract_lets z bufs base
  have hz : CrcKept ImgRes.s { s := s, stop := .ok } z := by
    refine foldl_crcKept (fun r x => ?_) _ _
    split
    · exact imgPuts_crc _ _ _ _ _
    · split
      · exact imgPuts_crc _ _ _ _ _
      · rfl
  refine (foldl_crcKept (fun r j => ?_) _ z).trans hz
  split
  · split
    · exact foldl_crcKept (fun r m => imgPuts_crc _ _ _ _ _) _ r
    · rfl
  · rfl

@[simp] theorem loadFills_crc (s : State) (p : PartId) (im : Image) (ws : List W128) : (loadFills s p im ws).s.crc = s.crc := crcKept_loadFills s p im ws

@[simp] theorem loadEnd_crc (s : State) (p : PartId) : (loadEnd s p).s.crc = s.crc := by
  unfold loadEnd
  extract_lets ws im bound r t
  split
  · rfl
  · have hr : r.s.crc = s.crc := by
      simp only [r]
      split <;> simp
    clear_value r
    split <;> simpa using hr

@[simp] theorem blockFails_crc (s : State) (p : PartId) (k : Fin 8) (b : InBlock) (cause : Nat) (detail : Option W64) :
    (blockFails s p k b cause detail).crc = s.crc := by simp [blockFails]

@[simp] theorem takeJobs_crc (p : PartId) (n : Nat) (s : State) : (takeJobs p n s).crc = s.crc := by
  induction n generalizing s with
  | zero => rfl
  | succ n ih =>
    unfold takeJobs
    split
    · split
      · rfl
      · simp [ih]
    · rfl

@[simp] theorem joinJobs_crc (s : State) (p : PartId) : (joinJobs s p).crc = s.crc := takeJobs_crc _ _ _

@[simp] theorem completeBlock_crc (s : State) (p : PartId) (k : Fin 8) (b : InBlock) : (completeBlock s p k b).crc = s.crc := by
  simp only [completeBlock]
  split <;> simp

@[simp] theorem dropLoad_crc (s : State) (p : PartId) (mark left : Nat) : (dropLoad s p mark left).crc = s.crc := rfl

@[simp] theorem endRecvd_crc (s : State) (p : PartId) (k : Fin 8) : (endRecvd s p k).crc = s.crc := by
  unfold endRecvd
  split
  · rfl
  · split
    · rfl
    · extract_lets s1 x
      have hx : x.s.crc = s.crc := by
        simp only [x]
        split <;> simp [s1]
      clear_value x
      split <;> simp [hx]

@[simp] theorem failBlock_crc (s : State) (p : PartId) (k : Fin 8) (b : InBlock) (cause : Nat) (detail : Option W64) :
    (failBlock s p k b cause detail).crc = s.crc := by
  simp only [failBlock]
  split_ifs <;> simp

@[simp] theorem failSkip_crc (s : State) (p : PartId) (k : Fin 8) (b : InBlock) (cause : Nat) (detail : Option W64) :
    (failSkip s p k b cause detail).crc = s.crc := by
  simp only [failSkip]
  split <;> simp

@[simp] theorem forward_crc (s : State) (kind : Nat) (p : PartId) (k x : Nat) (body : List W128) : (forward s kind p k x body).crc = s.crc := by
  unfold forward
  split <;> simp

@[simp] theorem endBlock_crc (s : State) (p : PartId) (k : Fin 8) (b : InBlock) : (endBlock s p k b).crc = s.crc := by
  simp only [endBlock]
  split_ifs <;> simp

@[simp] theorem wordTaken_crc (s : State) (p : PartId) : (wordTaken s p).crc = s.crc := rfl

@[simp] theorem writeFails_crc (s : State) (p : PartId) (c : Nat) (d : Option W64) : (writeFails s p c d).crc = s.crc := by
  simp only [writeFails]
  split
  · split <;> simp
  · split <;> simp
  · rfl

@[simp] theorem drainLoad_crc (p : PartId) (n : Nat) (s : State) : (drainLoad p n s).crc = s.crc := by
  induction n generalizing s with
  | zero => rfl
  | succ n ih =>
    simp only [drainLoad]
    split
    · rfl
    · split
      · rfl
      · split
        · simp [ih]
        · split <;> simp [ih]

@[simp] theorem fillGo_crc (s : State) (p : PartId) : (fillGo s p).crc = s.crc := by
  simp only [fillGo]
  split
  · split_ifs <;> simp
  · rfl

@[simp] theorem loadGo_crc (s : State) (p : PartId) : (loadGo s p).crc = s.crc := by simp [loadGo]

@[simp] theorem imageInWord_crc (s : State) (p : PartId) (b : InBlock) (w : W128) : (imageInWord s p b w).crc = s.crc := by
  simp only [imageInWord]
  split
  · split <;> simp
  · split
    · simp
    · split
      · split <;> simp
      · simp

@[simp] theorem startDrain_crc (s : State) (b : BankId) (new : Byte) (why : DrainFor) : (startDrain s b new why).crc = s.crc := by
  have hwriter (d : DrainFor) : (drainWriter s d).crc = s.crc := by cases d <;> simp [drainWriter]
  have hlines : (dropLines s b).crc = s.crc := by
    simp only [dropLines]
    split
    · split <;> rfl
    · rfl
  simp only [startDrain]
  split
  · rfl
  · split
    · simp [hwriter]
    · split <;> simp [hwriter, hlines]

@[simp] theorem loadBlock_crc (s : State) (p : PartId) : (loadBlock s p).2.crc = s.crc := by
  simp only [loadBlock, banksToHost]
  split_ifs <;> simp

@[simp] theorem headerWord_crc (s : State) (p : PartId) (k : Fin 8) (w : W128) : (headerWord s p k w).crc = s.crc := by
  simp only [headerWord]
  split
  · simp
  · split
    · simp
    · split
      · simp
      · split
        · split <;> simp
        · split <;> split <;> simp

@[simp] theorem feedWord_crc (s : State) (p : PartId) (k : Fin 8) (w : W128) : (feedWord s p k w).crc = s.crc := by
  simp only [feedWord]
  split
  · simp
  · split_ifs <;> simp

theorem crc_of_pushWord {s t : State} {p : PartId} {k : Fin 8} {w : W128} (h : pushWord s p k w = some t) : t.crc = s.crc := by
  simp only [pushWord] at h
  split_ifs at h <;> cases h <;> simp

@[simp] theorem pushWords_crc (p : PartId) (k : Fin 8) (ws : List W128) (s : State) : (pushWords p k ws s).2.crc = s.crc := by
  induction ws generalizing s with
  | nil => rfl
  | cons w ws ih =>
    unfold pushWords
    split
    · rename_i t h
      exact (ih t).trans (crc_of_pushWord h)
    · rfl

@[simp] theorem drainRx_crc (h : PortId) (n : Nat) (s : State) : (drainRx h n s).crc = s.crc := by
  induction n generalizing s with
  | zero => rfl
  | succ n ih =>
    simp only [drainRx]
    split
    · rfl
    · split <;> simp [ih]

@[simp] theorem readRaw_crc (p : PartId) (k : Fin 8) (n : Nat) (s : State) : (readRaw p k n s).crc = s.crc := by
  induction n generalizing s with
  | zero => rfl
  | succ n ih =>
    unfold readRaw
    split
    · rfl
    · split <;> simp [ih]

@[simp] theorem endBlocks_crc (s : State) (p : PartId) (k : Fin 8) : (endBlocks s p k).crc = s.crc := by simp [endBlocks]

@[simp] theorem kick_crc (s : State) (p : PartId) : (kick s p).crc = s.crc := by simp [kick]

@[simp] theorem failPush_crc (s : State) (p : PartId) (k : Fin 8) (cause : Nat) (detail : Option W64) : (failPush s p k cause detail).crc = s.crc := by
  simp only [failPush]
  split <;> simp

@[simp] theorem failItems_crc (s : State) (p : PartId) (cause : Nat) (detail : Option W64) : (failItems s p cause detail).crc = s.crc := by
  unfold failItems failPushes
  refine (foldl_crc _ (fun t k => ?_) _ _).trans (foldl_crc _ (fun _ _ => failPush_crc _ _ _ _ _) _ _)
  extract_lets bs t1 t2
  have ht2 : t2.crc = t.crc := by
    simp only [t2]
    split <;> simp [t1]
  simp [ht2]

/-! ### Restores, the twin and fences -/

/-- What an access leaves of the CRC units, with its state put into a record of progress. -/
theorem crcKept_commitRun {c : CommitRun} {a : Acc} (h : a.s.crc = c.s.crc) (bad : Option (Nat × Nat)) : CrcKept CommitRun.s c { s := a.s, bad := bad } := h

theorem crcKept_snd {y : Option (Nat × Nat) × State} {a : Acc} (h : a.s.crc = y.2.crc) (bad : Option (Nat × Nat)) : CrcKept Prod.snd y (bad, a.s) := h

theorem crcKept_clearRegion (p : PartId) (d : MasterKind) (im : Image) (off : Nat) (c : CommitRun) : CrcKept CommitRun.s c (clearRegion p d im off c) := by
  unfold clearRegion
  refine foldl_crcKept (fun c w => ?_) _ c
  split
  · rfl
  · exact crcKept_commitRun (writePart_crc _ _ _ _ _ _ _ _) _

@[simp] theorem clearRegion_crc (p : PartId) (d : MasterKind) (im : Image) (off : Nat) (c : CommitRun) : (clearRegion p d im off c).s.crc = c.s.crc :=
  crcKept_clearRegion p d im off c

@[simp] theorem restoreDone_crc (s : State) (p : PartId) (im : Image) (c : Nat) : (restoreDone s p im c).s.crc = s.crc := by
  simp only [restoreDone, modPart_crc, modStream_crc]
  split_ifs <;> simp only [clearRegion_crc]

theorem getD_restoreWord_crc (s : State) (p : PartId) (r : Restore) (im : Image) (w : W128) : ((restoreWord s p r im w).getD s).crc = s.crc := by
  unfold restoreWord
  extract_lets i q keep rs inBuf bufs c v d
  have hkeep (t : State) : (keep t).crc = t.crc := rfl
  have hd : d.s.crc = s.crc := restoreDone_crc _ _ _ _
  clear_value keep d
  split
  · split_ifs <;> simp [hkeep]
  · split
    · split <;> simp [hkeep]
    · split
      · split <;> simp [hkeep]
      · split
        · extract_lets offs o
          have ho : CrcKept Prod.snd (none, s) o := by
            refine foldl_crcKept (fun y off => ?_) offs _
            split
            · rfl
            · exact crcKept_snd (writePart_crc _ _ _ _ _ _ _ _) _
          have ho : o.2.crc = s.crc := ho
          clear_value o
          split
          · rfl
          · simpa using ho
          · simpa [hkeep] using ho
        · split
          · simp
          · split <;> simp [hd]

theorem crc_of_restoreWord {s t : State} {p : PartId} {r : Restore} {im : Image} {w : W128} (h : restoreWord s p r im w = some t) : t.crc = s.crc := by
  simpa [h] using getD_restoreWord_crc s p r im w

@[simp] theorem restoreTake_crc (p : PartId) (n : Nat) (s : State) : (restoreTake p n s).crc = s.crc := by
  induction n generalizing s with
  | zero => rfl
  | succ n ih =>
    unfold restoreTake
    split
    · split
      · rfl
      · split
        · rename_i t h
          rw [ih, crc_of_restoreWord h, modStream_crc]
        · rfl
    · rfl

@[simp] theorem partGo_crc (s : State) (p : PartId) : (partGo s p).crc = s.crc := by simp [partGo, restoreGo]

@[simp] theorem agreeTo_crc (s : State) (p : PartId) (k : Nat) : (agreeTo s p k).crc = s.crc := rfl

@[simp] theorem promotePart_crc (s : State) (p : PartId) : (promotePart s p).crc = s.crc := by
  simp only [promotePart, partGo_crc, agreeTo_crc]
  refine (foldl_crc _ (fun t k => ?_) _ _).trans (foldl_crc _ (fun _ _ => ledgerPut_crc _ _ _) _ _)
  split <;> simp

@[simp] theorem promote_crc (s : State) : (promote s).crc = s.crc := by simp [promote]

@[simp] theorem finishWaits_crc (s : State) (p : PartId) (ok : W32 → Bool) : (finishWaits s p ok).crc = s.crc := by simp [finishWaits]

@[simp] theorem soloPart_crc (s : State) (p : PartId) : (soloPart s p).crc = s.crc := by simp [soloPart]

@[simp] theorem resyncEnd_crc (s : State) (cause : Nat) : (resyncEnd s cause).crc = s.crc := by
  unfold resyncEnd
  split <;> simp

@[simp] theorem twinIsLost_crc (s : State) : (twinIsLost s).crc = s.crc := by
  unfold twinIsLost loseTwin secondaryLoss
  split_ifs <;> simp

@[simp] theorem endReached_crc (s : State) : (endReached s).crc = s.crc := by
  simp only [endReached, endHostItems]
  split
  · rfl
  · refine foldl_crc _ (fun t p => ?_) _ _
    split <;> simp

@[simp] theorem fenceReach_crc (s : State) : (fenceReach s).crc = s.crc := by
  unfold fenceReach
  split <;> simp

@[simp] theorem stopTraces_crc (s : State) (d : DieId) : (stopTraces s d).crc = s.crc := by
  unfold stopTraces stopTrace
  split
  · rfl
  · refine foldl_crc _ (fun t p => ?_) _ _
    split_ifs <;> simp

@[simp] theorem failUnchecked_crc (s : State) (p : PartId) : (failUnchecked s p).crc = s.crc := by
  unfold failUnchecked
  refine foldl_crc _ (fun t k => ?_) _ _
  split <;> simp

@[simp] theorem noCrc_crc (s : State) : (noCrc s).crc = s.crc := by
  unfold noCrc
  split <;> simp

end Sys2Proof.Machine

/-!
PROOF. The CRC units' own commands (R383-R385): start words, the words of a run, and the self-check.
-/

namespace Sys2Proof.Machine

/-! ### Start words -/

/-- A request crosses its bridges, whatever the arbiters of the CRC units hold. -/
theorem crossWay_crcArb (m : MasterKind) (way : List (Nat × Nat)) (s : State) (v : Vector Arb 16) :
    crossWay m way { s with fab := { s.fab with crcArb := v } } =
      { s with fab := { s.fab with crcArb := v, bridges := (crossWay m way s).fab.bridges } } := by
  unfold crossWay
  split <;> rfl

section StartWord

variable {s : State} {u : CrcId} {master : BitVec 10} {slot : Nat} (poly : BitVec 2) (tag expected : W64) (cmp : Bool) (count : Nat) (k : Contest)
  (hdead : dead s = false) (hfrozen : frozen s = false) (hslot : crcSlot u (masterKind master.toNat) = some slot)
include hdead hfrozen hslot

theorem crcStartOp_of_fenced
    (h : s.crc[u].fenced = true ∨ dieHops s (masterDie (masterKind master.toNat)) (u.val / 4) = none) :
    crcStartOp s u master poly tag expected cmp count k = emit s (.bus master 0 [] 8) := by
  simp only [crcStartOp, hslot]
  rw [if_neg (by simp [-Fin.getElem_fin, hdead, hfrozen]), if_pos (by simpa [-Fin.getElem_fin] using h)]

variable (hfenced : s.crc[u].fenced = false) (hreach : dieHops s (masterDie (masterKind master.toNat)) (u.val / 4) ≠ none)
include hfenced hreach

theorem crcStartOp_of_running (hrun : s.crc[u].run.isSome = true) : crcStartOp s u master poly tag expected cmp count k = s := by
  simp only [crcStartOp, hslot]
  rw [if_neg (by simp [-Fin.getElem_fin, hdead, hfrozen]), if_neg (by simp [-Fin.getElem_fin, hfenced, hreach]), if_pos (by simp [-Fin.getElem_fin, hrun])]

theorem crcStartOp_of_grant {a : Arb} (hrun : s.crc[u].run = none) (hnear : crcNearest s u (masterKind master.toNat) = true)
    (hgrant : arbContest s.fab.crcArb[u] (fun _ => 0) (u.val / 4) slot k = some a) :
    crcStartOp s u master poly tag expected cmp count k = { s with
      fab := { s.fab with
        crcArb := s.fab.crcArb.set u a
        bridges := (crossWay (masterKind master.toNat) ((diePath s (masterDie (masterKind master.toNat)) (u.val / 4)).getD []) s).fab.bridges }
      crc := s.crc.set u { s.crc[u] with
        master := master, reg := crcStart poly tag, run := some { poly := poly, tag := tag, expected := expected, cmp := cmp, left := count } } } := by
  simp only [crcStartOp, hslot, crossWay_crcArb]
  rw [if_neg (by simp [-Fin.getElem_fin, hdead, hfrozen]), if_neg (by simp [-Fin.getElem_fin, hfenced, hreach]), if_neg (by simp [-Fin.getElem_fin, hrun, hnear]), hgrant]
  rfl

end StartWord

/-! ### Words of a run -/

/-- What has been sent stays sent when an alert is set. -/
theorem outs_prefix_setAlert (s : State) (i : Nat) : s.outs <+: (setAlert s i).outs := by
  simp only [setAlert]
  split
  · exact List.prefix_refl _
  · split
    · exact List.prefix_append _ _
    · exact List.prefix_refl _

theorem outs_prefix_raiseN (s : State) (x : Nat) (dt : W32) : s.outs <+: (raiseN s x dt).outs := by
  unfold raiseN
  split
  · simp only [raise]
    split
    · split
      · refine List.IsPrefix.trans ?_ (outs_prefix_setAlert _ _)
        exact List.prefix_refl _
      · exact List.prefix_refl _
    · exact List.prefix_refl _
  · exact List.prefix_refl _

@[simp] theorem raiseN_parts (s : State) (x : Nat) (dt : W32) : (raiseN s x dt).parts = s.parts := by
  obtain ⟨_, _, _, _, h⟩ := raiseN_frame s x dt
  rw [h]

/-- A unit whose run has ended with the result `v`; `bad` tells a compare that differs. -/
def crcRunEnded (c : CrcUnit) (reg v : W64) (bad : Bool) : CrcUnit :=
  { c with reg := reg, run := none, master := 0x3FF, runs := c.runs + 1, last := v, mismatches := if bad then satInc c.mismatches else c.mismatches }

section Words

variable {s : State} {u : CrcId} {words : List W128} {r : CrcRun}
  (hdead : dead s = false) (hfenced : s.crc[u].fenced = false) (hrun : s.crc[u].run = some r)
include hdead hfenced hrun

theorem crcWordsOp_of_lt (h : words.length < r.left) : crcWordsOp s u words = modCrc s u fun c =>
    { c with reg := (bytesOfWords words).foldl (crcStep r.poly) s.crc[u].reg, run := some { r with left := r.left - words.length } } := by
  simp only [crcWordsOp, hrun, List.take_of_length_le h.le]
  rw [if_neg (by simp [-Fin.getElem_fin, hdead, hfenced]), if_pos h]

theorem crcWordsOp_of_eq (h : words.length = r.left) :
    let reg := (bytesOfWords words).foldl (crcStep r.poly) s.crc[u].reg
    let v := crcFinal r.poly reg
    let bad := r.cmp && v != r.expected
    let t := emit (modCrc s u fun c => crcRunEnded c reg v bad) (.crcResult s.crc[u].master v)
    crcWordsOp s u words = if bad then raiseN t (768 + u.val) (crcDetail s.crc[u].master r.poly r.tag) else t := by
  simp only [crcWordsOp, hrun, List.take_of_length_le h.le]
  rw [if_neg (by simp [-Fin.getElem_fin, hdead, hfenced]), if_neg h.not_lt]
  rfl

end Words

/-! ### Fences of CRC units -/

/-- A fence of a CRC unit changes that unit and no other. -/
theorem fenceCrc_crc {s : State} {u : CrcId} (h : s.crc[u].fenced = false) (reason low : Nat) :
    (fenceCrc s u reason low).crc = updV s.crc u fun c => { c with fenced := true, run := none, master := 0x3FF } := by
  simp only [fenceCrc, h, Bool.false_eq_true, if_false, noCrc_crc, stopTraces_crc, fenceEvent_crc, raiseN_crc]
  rfl

theorem fenced_fenceCrc {s : State} {u : CrcId} (h : s.crc[u].fenced = false) (reason low : Nat) : (fenceCrc s u reason low).crc[u].fenced = true := by
  rw [fenceCrc_crc h, updV_same]

theorem crcCheckOp_of_good {s : State} {u : CrcId} {results : Vector W64 4} (h : ∀ i : Fin 4, results[i] = crcCheckValue i.val) :
    crcCheckOp s u results = s := by
  have hfind : (List.finRange 4).find? (fun i => results[i] != crcCheckValue i.val) = none := by
    simp [-Fin.getElem_fin, List.find?_eq_none, h]
  simp only [crcCheckOp, hfind]
  exact ite_self _

theorem crcCheckOp_of_bad {s : State} {u : CrcId} {results : Vector W64 4} (hdead : dead s = false) (hfenced : s.crc[u].fenced = false)
    (hrun : s.crc[u].run = none) (h : ∃ i : Fin 4, results[i] ≠ crcCheckValue i.val) :
    ∃ low, crcCheckOp s u results = fenceReach (fenceCrc s u 2 low) := by
  obtain ⟨i, hi⟩ := h
  have hsome : ((List.finRange 4).find? fun i => results[i] != crcCheckValue i.val).isSome :=
    List.find?_isSome.mpr ⟨i, List.mem_finRange i, by simpa [-Fin.getElem_fin] using hi⟩
  obtain ⟨j, hfind⟩ := Option.isSome_iff_exists.mp hsome
  refine ⟨j.val * 2 ^ 20, ?_⟩
  unfold crcCheckOp
  rw [if_neg (by simp [-Fin.getElem_fin, hdead, hfenced, hrun]), hfind]

/-! ### The obligation -/

/-- A CRC over bytes that come in two parts (R384). -/
theorem crcOf_append (p : BitVec 2) (tag : W64) (a b : List Byte) :
    crcOf p tag (a ++ b) = crcFinal p (b.foldl (crcStep p) (a.foldl (crcStep p) (crcStart p tag))) := by
  rw [crcOf, List.foldl_append]

/-- The check values of Table 15.1 (R383). -/
theorem crcOf_checkString : ∀ p : BitVec 2, crcOf p 0 [0x31, 0x32, 0x33, 0x34, 0x35, 0x36, 0x37, 0x38, 0x39] = crcCheckValue p.toNat := by
  decide +kernel

/-- Settles O54: a start word, the words of a run and a self-check each by the cases of their own operation. What follows the fence of a unit reaches
no other unit (`noCrc_crc`, `fenceReach_crc`), so the unit that fails its self-check stays fenced. -/
theorem crcUnits : Obligations.CrcUnits := by
  unfold Obligations.CrcUnits
  refine ⟨?start, ?words, crcOf_append, crcOf_checkString, ?check⟩
  case start =>
    intro s u master poly tag expected cmp count rivals slot hdead hfrozen hslot i way
    simp only [i, exec_crcStart, execCrcStart, Host.Outcome.next.injEq]
    exact ⟨crcStartOp_of_fenced _ _ _ _ _ _ hdead hfrozen hslot,
      fun hfenced hreach hrun => crcStartOp_of_running _ _ _ _ _ _ hdead hfrozen hslot hfenced hreach hrun,
      fun hfenced hreach hrun hnear a hgrant => crcStartOp_of_grant _ _ _ _ _ _ hdead hfrozen hslot hfenced hreach hrun hnear hgrant⟩
  case words =>
    intro s u words r hdead hfenced hrun c reg v
    simp only [exec_crcRunEnd, execCrcRunEnd, Host.Outcome.next.injEq]
    refine ⟨fun hlt => crcWordsOp_of_lt hdead hfenced hrun hlt, fun hlast => ⟨_, rfl, ?_⟩⟩
    rw [crcWordsOp_of_eq hdead hfenced hrun hlast]
    have hbad : (r.cmp && v != r.expected) = true ↔ r.cmp = true ∧ v ≠ r.expected := by simp
    simp only [← hbad]
    generalize (r.cmp && v != r.expected) = bad
    generalize ht : emit (modCrc s u fun c => crcRunEnded c reg v bad) (.crcResult s.crc[u].master v) = t
    have hsame : t.crc[u] = crcRunEnded c reg v bad := ht ▸ modCrc_same s u _
    have hother : ∀ w, w ≠ u → t.crc[w] = s.crc[w] := fun w h => ht ▸ modCrc_other s u w _ h.symm
    have houts : t.outs = s.outs ++ [.crcResult c.master v] := ht ▸ rfl
    have hmem : t.mem = s.mem := ht ▸ rfl
    have hparts : t.parts = s.parts := ht ▸ rfl
    have hev : t.ev = s.ev := ht ▸ rfl
    have hsent : .crcResult c.master v ∈ t.outs := houts ▸ List.mem_append_right _ (List.mem_singleton_self _)
    clear ht
    cases bad with
    | false => exact ⟨hsame, hother, hmem, hparts, hsent, fun _ => ⟨hev, houts⟩⟩
    | true =>
      rw [if_pos rfl, raiseN_crc, raiseN_mem, raiseN_parts]
      exact ⟨hsame, hother, hmem, hparts, (outs_prefix_raiseN _ _ _).subset hsent, fun h => absurd rfl h⟩
  case check =>
    intro s u results hdead hfenced hrun
    simp only [exec_crcSelfCheck, execCrcSelfCheck]
    refine ⟨fun h => congrArg _ (crcCheckOp_of_good h), fun h => ⟨_, rfl, ?_⟩⟩
    obtain ⟨low, hfence⟩ := crcCheckOp_of_bad hdead hfenced hrun h
    rw [hfence, fenceReach_crc]
    exact fenced_fenceCrc hfenced 2 low

end Sys2Proof.Machine

/-! PROOF. What every command keeps: the queue, and the canonical form of the byte stores. The relation, and how it passes through answers, choices and folds. -/
namespace Sys2Proof.Machine

/-- What every command leaves: from `s` to `t` the queue stands, and the byte stores are canonical if they were. -/
def Kept (s t : State) : Prop := t.pending = s.pending ∧ (Inv s → Inv t)

theorem Kept.refl (s : State) : Kept s s := ⟨rfl, id⟩

/-- A change of neither the queue nor memory. -/
theorem Kept.upd {s t u : State} (hq : u.pending = t.pending) (hm : u.mem = t.mem) (h : Kept s t) : Kept s u :=
  ⟨hq.trans h.1, fun w => (h.2 w).of_mem hm⟩

/-- A change of memory alone that keeps the canonical form. -/
theorem Kept.store {s t u : State} (h : Kept s t) (hq : u.pending = t.pending) (hm : Inv t → Inv u) : Kept s u :=
  ⟨hq.trans h.1, fun w => hm (h.2 w)⟩

/-- What a read of memory can change besides memory is not the queue. -/
theorem Kept.read {s t u : State} (h : Kept s t) (k : ReadKeeps t u) (hm : Inv t → Inv u) : Kept s u :=
  h.store (by rw [k]) hm

/-- The state that `π` shows of an answer keeps them. (A definition of its own, so that a proof can follow the answer's cases.) -/
def KeptBy {α : Type} (π : α → State) (s : State) (x : α) : Prop := Kept s (π x)

theorem KeptBy.out {α : Type} {π : α → State} {s : State} {x : α} (h : KeptBy π s x) : Kept s (π x) := h

/-- What an answer carries, once the answer is known. -/
theorem KeptBy.along {α : Type} {π : α → State} {s : State} {x y : α} (e : x = y) (h : KeptBy π s x) : KeptBy π s y := e ▸ h

theorem KeptBy.intro {α : Type} {π : α → State} {s : State} {x : α} (h : Kept s (π x)) : KeptBy π s x := h

/-- The state of an answer that begins with two other results. -/
def third {α β : Type} (x : α × β × State) : State := x.2.2

/-- An outcome, where there is one, keeps them. -/
def KeptIf {α : Type} (π : α → State) (s : State) (o : Option α) : Prop := ∀ x, o = some x → Kept s (π x)

theorem KeptIf.none {α : Type} {π : α → State} {s : State} : KeptIf π s none := fun _ h => nomatch h

theorem KeptIf.some {α : Type} {π : α → State} {s : State} {x : α} (h : Kept s (π x)) : KeptIf π s (some x) := by
  rintro _ ⟨⟩
  exact h

theorem KeptIf.bind {α β : Type} {π : α → State} {ρ : β → State} {s : State} {o : Option α} {f : α → Option β} (h : KeptIf π s o)
    (hf : ∀ x, Kept s (π x) → KeptIf ρ s (f x)) : KeptIf ρ s (o.bind f) := by
  intro y hy
  obtain ⟨x, hx, hy⟩ := Option.bind_eq_some_iff.1 hy
  exact hf x (h x hx) y hy

theorem KeptIf.map {α β : Type} {π : α → State} {ρ : β → State} {s : State} {o : Option α} {f : α → β} (h : KeptIf π s o)
    (hf : ∀ x, Kept s (π x) → Kept s (ρ (f x))) : KeptIf ρ s (o.map f) := by
  intro y hy
  obtain ⟨x, hx, rfl⟩ := Option.map_eq_some_iff.1 hy
  exact hf x (h x hx)

/-- A result that some choice gives, whatever the choice. -/
theorem KeptIf.of_choice {α β : Type} {ρ : β → State} {s : State} {o : Option α} {f : α → Option β} (hf : ∀ x, KeptIf ρ s (f x)) :
    KeptIf ρ s (o.bind f) := by
  intro y hy
  obtain ⟨x, -, hy⟩ := Option.bind_eq_some_iff.1 hy
  exact hf x y hy

theorem KeptIf.map_choice {α β : Type} {ρ : β → State} {s : State} {o : Option α} {f : α → β} (hf : ∀ x, Kept s (ρ (f x))) :
    KeptIf ρ s (o.map f) := by
  intro y hy
  obtain ⟨x, -, rfl⟩ := Option.map_eq_some_iff.1 hy
  exact hf x

/-- The state that an access of sequencer memory leaves. -/
def MemRes.state : MemRes → State
  | .ok _ s => s
  | .bad _ _ _ s => s
  | .held s => s

/-- The state that a read of an exception frame leaves. -/
def FrameRes.state : FrameRes → State
  | .ok _ _ s => s
  | .bad _ s => s
  | .held s => s

/-- The state that a move of a window leaves. -/
def WinRes.state : WinRes → State
  | .ok s => s
  | .bad _ _ s => s
  | .held s => s

/-! The answers, by their makers. -/

section Makers

variable {s t : State}

theorem KeptBy.acc {d : W128} {n : Nat} (h : Kept s t) : KeptBy Acc.s s { data := d, status := n, s := t } := h

theorem KeptBy.fst {β : Type} {b : β} (h : Kept s t) : KeptBy Prod.fst s (t, b) := h

theorem KeptBy.snd {β : Type} {b : β} (h : Kept s t) : KeptBy Prod.snd s (b, t) := h

theorem KeptBy.third {β γ : Type} {b : β} {c : γ} (h : Kept s t) : KeptBy third s (b, c, t) := h

theorem KeptBy.sndOf {α β : Type} {π : α → State} {b : β} {x : α} (h : KeptBy π s x) : KeptBy (fun y => π y.2) s (b, x) := h

theorem KeptBy.slotRun {d : List W128} {w : List PhaseWrite} {e : SlotEnd} (h : Kept s t) :
    KeptBy SlotRun.s s { s := t, data := d, writes := w, stop := e } := h

theorem KeptBy.commitRun {b : Option (Nat × Nat)} (h : Kept s t) : KeptBy CommitRun.s s { s := t, bad := b } := h

theorem KeptBy.copying {b : Nat} (h : Kept s t) : KeptBy Copying.s s { s := t, bad := b } := h

theorem KeptBy.watched {o : List (Nat × List W128)} {e f w : Bool} (h : Kept s t) :
    KeptBy Watched.s s { s := t, out := o, err := e, fenced := f, wait := w } := h

theorem KeptBy.imgRes {e : ImgEnd} (h : Kept s t) : KeptBy ImgRes.s s { s := t, stop := e } := h

theorem KeptBy.memOkOut {v : W128} (h : KeptBy MemRes.state s (.ok v t)) : Kept s t := h

theorem KeptBy.memBadOut {k a : Nat} {u : Bool} (h : KeptBy MemRes.state s (.bad k u a t)) : Kept s t := h

theorem KeptBy.memHeldOut (h : KeptBy MemRes.state s (.held t)) : Kept s t := h

theorem KeptBy.frameOkOut {lo hi : W128} (h : KeptBy FrameRes.state s (.ok lo hi t)) : Kept s t := h

theorem KeptBy.frameBadOut {a : Nat} (h : KeptBy FrameRes.state s (.bad a t)) : Kept s t := h

theorem KeptBy.frameHeldOut (h : KeptBy FrameRes.state s (.held t)) : Kept s t := h

theorem KeptBy.vrun {fa he st pe sg fl tr co ou pa ix ct ma ms hi lo wr} (h : Kept s t) :
    KeptBy VRun.s s ⟨t, fa, he, st, pe, sg, fl, tr, co, ou, pa, ix, ct, ma, ms, hi, lo, wr⟩ := h

theorem KeptBy.memOk {v : W128} (h : Kept s t) : KeptBy MemRes.state s (.ok v t) := h

theorem KeptBy.memBad {k a : Nat} {u : Bool} (h : Kept s t) : KeptBy MemRes.state s (.bad k u a t) := h

theorem KeptBy.memHeld (h : Kept s t) : KeptBy MemRes.state s (.held t) := h

theorem KeptBy.frameOk {lo hi : W128} (h : Kept s t) : KeptBy FrameRes.state s (.ok lo hi t) := h

theorem KeptBy.frameBad {a : Nat} (h : Kept s t) : KeptBy FrameRes.state s (.bad a t) := h

theorem KeptBy.frameHeld (h : Kept s t) : KeptBy FrameRes.state s (.held t) := h

theorem KeptBy.winOk (h : Kept s t) : KeptBy WinRes.state s (.ok t) := h

theorem KeptBy.winBad {k : Nat} {a : W64} (h : Kept s t) : KeptBy WinRes.state s (.bad k a t) := h

theorem KeptBy.winHeld (h : Kept s t) : KeptBy WinRes.state s (.held t) := h

end Makers

theorem Kept.ite {c : Prop} [Decidable c] {s x y : State} (hx : c → Kept s x) (hy : ¬c → Kept s y) : Kept s (if c then x else y) := by
  split
  · exact hx ‹_›
  · exact hy ‹_›

theorem Kept.dite {c : Prop} [Decidable c] {s : State} {x : c → State} {y : ¬c → State} (hx : ∀ h, Kept s (x h)) (hy : ∀ h, Kept s (y h)) :
    Kept s (if h : c then x h else y h) := by
  split
  · exact hx ‹_›
  · exact hy ‹_›

theorem KeptBy.ite {α : Type} {π : α → State} {s : State} {c : Prop} [Decidable c] {x y : α} (hx : c → KeptBy π s x)
    (hy : ¬c → KeptBy π s y) : KeptBy π s (if c then x else y) := by
  split
  · exact hx ‹_›
  · exact hy ‹_›

theorem KeptBy.dite {α : Type} {π : α → State} {s : State} {c : Prop} [Decidable c] {x : c → α} {y : ¬c → α} (hx : ∀ h, KeptBy π s (x h))
    (hy : ∀ h, KeptBy π s (y h)) : KeptBy π s (if h : c then x h else y h) := by
  split
  · exact hx ‹_›
  · exact hy ‹_›

/-- An outcome or, where there is none, the state that stood. -/
theorem KeptIf.getD {s0 s : State} {o : Option State} (h : KeptIf id s0 o) (hs : Kept s0 s) : Kept s0 (o.getD s) := by
  cases o with
  | none => exact hs
  | some t => exact h t rfl

/-- A command completes, and keeps the queue and the canonical form. -/
def KeptNext (s : State) (o : Host.Outcome State Fault Refusal) : Prop := ∃ t, o = .next t ∧ Kept s t

theorem KeptNext.next {s t : State} (h : Kept s t) : KeptNext s (.next t) := ⟨t, rfl, h⟩

/-- A fold over an accumulator that carries the state as `π` shows it. -/
theorem kept_foldl_of {α β : Type} {π : β → State} {s0 : State} {x : β} {f : β → α → β} {l : List α} (h : Kept s0 (π x))
    (hf : ∀ y a, Kept s0 (π y) → KeptBy π s0 (f y a)) : Kept s0 (π (l.foldl f x)) := by
  induction l generalizing x with
  | nil => exact h
  | cons a l ih => exact ih (hf x a h)

theorem kept_foldl {α : Type} {s0 s : State} {f : State → α → State} {l : List α} (h : Kept s0 s) (hf : ∀ t a, Kept s0 t → Kept s0 (f t a)) :
    Kept s0 (l.foldl f s) := kept_foldl_of (π := id) h hf

theorem kept_foldl_fst {α β : Type} {s0 : State} {x : State × β} {f : State × β → α → State × β} {l : List α} (h : Kept s0 x.1)
    (hf : ∀ y a, Kept s0 y.1 → KeptBy Prod.fst s0 (f y a)) : Kept s0 (l.foldl f x).1 := kept_foldl_of h hf

theorem kept_foldl_snd {α β : Type} {s0 : State} {x : β × State} {f : β × State → α → β × State} {l : List α} (h : Kept s0 x.2)
    (hf : ∀ y a, Kept s0 y.2 → KeptBy Prod.snd s0 (f y a)) : Kept s0 (l.foldl f x).2 := kept_foldl_of h hf

theorem kept_foldl_third {α β γ : Type} {s0 : State} {x : β × γ × State} {f : β × γ × State → α → β × γ × State} {l : List α}
    (h : Kept s0 x.2.2) (hf : ∀ y a, Kept s0 y.2.2 → KeptBy third s0 (f y a)) : Kept s0 (l.foldl f x).2.2 :=
  kept_foldl_of (π := third) h hf

end Sys2Proof.Machine

/-! PROOF. Every operation of the model keeps them: one lemma per operation, in the order of the model. -/
namespace Sys2Proof.Machine

theorem kept_modSeq {s0 : State} {s : State} {n : VeId} {f : Core → Core} (h : Kept s0 s) :
    Kept s0 (modSeq s n f) := by
  unfold modSeq
  exact Kept.upd (t:=s) rfl rfl h

theorem kept_modEng {s0 : State} {s : State} {n : VeId} {f : Engine → Engine} (h : Kept s0 s) :
    Kept s0 (modEng s n f) := by
  unfold modEng
  exact Kept.upd (t:=s) rfl rfl h

theorem kept_modPart {s0 : State} {s : State} {p : PartId} {f : Partition → Partition} (h : Kept s0 s) :
    Kept s0 (modPart s p f) := by
  unfold modPart
  exact Kept.upd (t:=s) rfl rfl h

theorem kept_modBank {s0 : State} {s : State} {b : BankId} {f : Bank → Bank} (h : Kept s0 s) :
    Kept s0 (modBank s b f) := by
  unfold modBank
  exact Kept.upd (t:=s) rfl rfl h

theorem kept_modStack {s0 : State} {s : State} {i : StackId} {f : Stack → Stack} (h : Kept s0 s) :
    Kept s0 (modStack s i f) := by
  unfold modStack
  exact Kept.upd (t:=s) rfl rfl h

theorem kept_modPort {s0 : State} {s : State} {h1 : PortId} {f : Port → Port} (h : Kept s0 s) :
    Kept s0 (modPort s h1 f) := by
  unfold modPort
  exact Kept.upd (t:=s) rfl rfl h

theorem kept_modCluster {s0 : State} {s : State} {c : ClusterId} {f : Cluster → Cluster} (h : Kept s0 s) :
    Kept s0 (modCluster s c f) := by
  unfold modCluster
  exact Kept.upd (t:=s) rfl rfl h

theorem kept_modCrc {s0 : State} {s : State} {u : CrcId} {f : CrcUnit → CrcUnit} (h : Kept s0 s) :
    Kept s0 (modCrc s u f) := by
  unfold modCrc
  exact Kept.upd (t:=s) rfl rfl h

theorem kept_modStream {s0 : State} {s : State} {p : PartId} {k : Fin 8} {f : Stream → Stream} (h : Kept s0 s) :
    Kept s0 (modStream s p k f) := by
  unfold modStream
  exact kept_modPart h

theorem kept_modCore {s0 : State} {s : State} {c : CoreId} {f : Core → Core} (h : Kept s0 s) :
    Kept s0 (modCore s c f) := by
  unfold modCore
  split
  · exact kept_modSeq h
  · exact Kept.upd (t:=s) rfl rfl h

theorem kept_modRegs {s0 : State} {s : State} {c : CoreId} {f : Regs → Regs} (h : Kept s0 s) :
    Kept s0 (modRegs s c f) := by
  unfold modRegs
  exact kept_modCore h

theorem kept_emit {s0 : State} {s : State} {o : Out} (h : Kept s0 s) :
    Kept s0 (emit s o) := by
  unfold emit
  exact Kept.upd (t:=s) rfl rfl h

theorem kept_drawWord {s0 : State} {s : State} (h : Kept s0 s) :
    KeptBy Prod.snd s0 (drawWord s) := by
  unfold drawWord
  exact KeptBy.snd (Kept.upd (t:=s) rfl rfl h)

theorem kept_drawNat {s0 : State} {s : State} (h : Kept s0 s) :
    KeptBy Prod.snd s0 (drawNat s) := by
  unfold drawNat
  exact KeptBy.snd (Kept.upd (t:=s) rfl rfl h)

theorem kept_setAlert {s0 : State} {s : State} {i : ℕ} (h : Kept s0 s) :
    Kept s0 (setAlert s i) := by
  unfold setAlert
  extract_lets +onlyGivenNames c s1
  clear_value c s1
  extract_lets +onlyGivenNames s11
  have hs11 : Kept s0 s11 := Kept.upd (t:=s) rfl rfl h
  clear_value s11
  split
  · exact hs11
  · split
    · exact kept_emit hs11
    · exact Kept.upd (t:=s11) rfl rfl hs11

theorem kept_toTwinState {s0 : State} {s : State} {st : Fin 7} (h : Kept s0 s) :
    Kept s0 (toTwinState s st) := by
  unfold toTwinState
  extract_lets +onlyGivenNames s1
  clear_value s1
  extract_lets +onlyGivenNames s11
  have hs11 : Kept s0 s11 := Kept.upd (t:=s) rfl rfl h
  clear_value s11
  split
  · exact kept_setAlert hs11
  · exact hs11

theorem kept_i3cReady {s0 : State} {s : State} (h : Kept s0 s) :
    Kept s0 (i3cReady s) := by
  unfold i3cReady
  split
  · exact h
  · extract_lets +onlyGivenNames s1
    clear_value s1
    extract_lets +onlyGivenNames s11
    have hs11 : Kept s0 s11 := Kept.upd (t:=s) rfl rfl h
    clear_value s11
    split
    · exact kept_emit hs11
    · exact Kept.upd (t:=s11) rfl rfl hs11

theorem kept_portAbort {s0 : State} {s : State} {h1 : PortId} {ix : ℕ} {sub : ℕ} {write : Bool} {code : ℕ} (h : Kept s0 s) :
    Kept s0 (portAbort s h1 ix sub write code) := by
  unfold portAbort
  exact kept_modPort h

theorem kept_dictRefuse {s0 : State} {s : State} {r : Requester} {ix : ℕ} {sub : ℕ} {write : Bool} {code : ℕ} (h : Kept s0 s) :
    Kept s0 (dictRefuse s r ix sub write code) := by
  unfold dictRefuse
  split
  · exact kept_i3cReady (Kept.upd (t:=s) rfl rfl h)
  · extract_lets +onlyGivenNames s1
    have hs1 : Kept s0 s1 := by
      unfold s1
      split
      · exact kept_portAbort h
      · exact h
    clear_value s1
    exact kept_emit hs1

theorem kept_refuseHeld {s0 : State} {s : State} {r : Requester} {ix : ℕ} {sub : ℕ} {code : ℕ} (h : Kept s0 s) :
    Kept s0 (refuseHeld s r ix sub code) := by
  unfold refuseHeld
  split
  · exact h
  · exact kept_dictRefuse h

theorem kept_dictFinish {s0 : State} {s : State} {r : Requester} (h : Kept s0 s) :
    Kept s0 (dictFinish s r) := by
  unfold dictFinish
  split
  · exact kept_i3cReady h
  · exact kept_emit h

theorem kept_raise {s0 : State} {s : State} {x : SrcId} {dt : W32} (h : Kept s0 s) :
    Kept s0 (raise s x dt) := by
  unfold raise
  extract_lets +onlyGivenNames l s1
  clear_value l s1
  extract_lets +onlyGivenNames s11
  have hs11 : Kept s0 s11 := Kept.upd (t:=s) rfl rfl h
  clear_value s11
  split
  · split
    · exact kept_setAlert hs11
    · exact hs11
  · exact hs11

theorem kept_raiseN {s0 : State} {s : State} {x : ℕ} {dt : W32} (h : Kept s0 s) :
    Kept s0 (raiseN s x dt) := by
  unfold raiseN
  split
  · exact kept_raise h
  · exact h

theorem kept_sinkResponses {s0 : State} {s : State} {master : ℕ} {sunk : ℕ} (h : Kept s0 s) :
    Kept s0 (sinkResponses s master sunk) := by
  unfold sinkResponses
  split
  · exact h
  · exact kept_raiseN (Kept.upd (t:=s) rfl rfl h)

theorem kept_sinkVe {s0 : State} {s : State} {n : VeId} {k : ℕ} {l : Sunk} (h : Kept s0 s) :
    Kept s0 (sinkVe s n k l) := by
  unfold sinkVe
  exact kept_foldl h (fun _ _ h2 => kept_sinkResponses h2)

theorem kept_addUpsets {s0 s : State} {us : List Upset} (h : Kept s0 s) : Kept s0 (addUpsets s us) :=
  .store h rfl (fun w => inv_addUpsets w us)

theorem kept_fenceEvent {s0 : State} {s : State} {kind : ℕ} {number : ℕ} {reason : ℕ} (h : Kept s0 s) :
    Kept s0 (fenceEvent s kind number reason) := by
  unfold fenceEvent
  exact kept_raiseN (Kept.upd (t:=s) rfl rfl h)

theorem kept_hitParts {s0 : State} {s : State} {m : W16} (h : Kept s0 s) :
    Kept s0 (hitParts s m) := by
  unfold hitParts
  exact Kept.upd (t:=s) rfl rfl h

theorem kept_fencePc {s0 : State} {s : State} {st : StackId} {c : ℕ} {reason : ℕ} (h : Kept s0 s) :
    Kept s0 (fencePc s st c reason) := by
  unfold fencePc
  split
  · exact h
  · extract_lets +onlyGivenNames s1
    have hs1 : Kept s0 s1 := kept_modStack (kept_hitParts h)
    clear_value s1
    exact kept_fenceEvent (kept_raiseN hs1)

theorem kept_fenceStack {s0 : State} {s : State} {st : StackId} {reason : ℕ} (h : Kept s0 s) :
    Kept s0 (fenceStack s st reason) := by
  unfold fenceStack
  split
  · exact h
  · extract_lets +onlyGivenNames s1
    have hs1 : Kept s0 s1 := kept_modStack (kept_hitParts h)
    clear_value s1
    exact kept_fenceEvent (kept_raiseN hs1)

theorem kept_bankEvent {s0 : State} {s : State} {b : BankId} {kind : ℕ} {code : ℕ} {low : ℕ} (h : Kept s0 s) :
    Kept s0 (bankEvent s b kind code low) := by
  unfold bankEvent
  exact kept_raiseN h

theorem kept_fenceBank {s0 : State} {s : State} {b : BankId} {reason : ℕ} (h : Kept s0 s) :
    Kept s0 (fenceBank s b reason) := by
  unfold fenceBank
  split
  · exact h
  · extract_lets +onlyGivenNames s01 sh s1 s2
    have hs01 : Kept s0 s01 := kept_hitParts h
    have hsh : Kept s0 sh := kept_foldl hs01 (fun _ _ h4 => kept_emit h4)
    have hs1 : Kept s0 s1 := kept_modBank hsh
    have hs2 : Kept s0 s2 := by
      unfold s2
      split
      · exact kept_refuseHeld hs1
      · exact hs1
    clear_value s01 sh s1 s2
    exact kept_fenceEvent (kept_bankEvent hs2)

theorem kept_corrected {s0 s : State} {u : MemUnit} {code w : Nat} (h : Kept s0 s) : Kept s0 (corrected s u code w) :=
  .read h (corrected_keeps s u code w) (fun k => inv_corrected k u code w)

theorem kept_withdraw {s0 : State} {s : State} {who : ℕ → Bool} (h : Kept s0 s) :
    Kept s0 (withdraw s who) := by
  unfold withdraw
  exact Kept.upd (t:=s) rfl rfl h

theorem kept_uncorrectable {s0 s : State} {u : MemUnit} {code w : Nat} {asRead : W128} (h : Kept s0 s) :
    Kept s0 (uncorrectable s u code w asRead) :=
  .read h (uncorrectable_keeps s u code w asRead) (fun k => inv_uncorrectable k u code w asRead)

theorem kept_poisonedRead {s0 : State} {s : State} {u : MemUnit} {code : ℕ} {w : ℕ} (h : Kept s0 s) :
    Kept s0 (poisonedRead s u code w) := by
  unfold poisonedRead
  split
  · exact kept_raiseN h
  · exact kept_bankEvent h

theorem kept_checkWord {s0 : State} {s : State} {u : MemUnit} {code : ℕ} {w : ℕ} (h : Kept s0 s) :
    KeptBy Acc.s s0 (checkWord s u code w) := by
  unfold checkWord
  extract_lets +onlyGivenNames v
  clear_value v
  split
  · split
    · extract_lets +onlyGivenNames bad
      clear_value bad
      exact KeptBy.acc (kept_uncorrectable h)
    · split
      · exact KeptBy.acc (kept_poisonedRead (kept_corrected h))
      · exact KeptBy.acc (kept_corrected h)
  · split
    · exact KeptBy.acc (kept_poisonedRead h)
    · exact KeptBy.acc h

theorem kept_nonOwner {s0 : State} {s : State} {b : BankId} {code : ℕ} {w : ℕ} {write : Bool} (h : Kept s0 s) :
    Kept s0 (nonOwner s b code w write) := by
  unfold nonOwner
  exact kept_bankEvent (kept_modBank h)

theorem kept_readWord {s0 : State} {s : State} {d : ℕ} {code : ℕ} {a : ℕ} (h : Kept s0 s) :
    KeptBy Acc.s s0 (readWord s d code a) := by
  unfold readWord
  split
  · exact KeptBy.acc h
  · split
    · exact KeptBy.acc h
    · split
      · split
        · exact kept_checkWord h
        · exact KeptBy.acc h
        · exact KeptBy.acc (kept_nonOwner h)
      · exact kept_checkWord h

theorem kept_tapWord {s0 : State} {s : State} {d : ℕ} {b : BankId} {code : ℕ} {a : ℕ} (h : Kept s0 s) :
    KeptBy Acc.s s0 (tapWord s d b code a) := by
  unfold tapWord
  split
  · exact KeptBy.acc h
  · exact kept_checkWord h

theorem kept_orWord {s0 s : State} {d a : Nat} {v : W128} (h : Kept s0 s) : Kept s0 (orWord s d a v) := by
  refine .store h ?_ (fun w => inv_orWord w d a v)
  unfold orWord
  split
  · split
    · rfl
    · extract_lets r
      have hr : Kept s r.s := kept_checkWord (.refl s)
      split
      · exact hr.1
      · exact hr.1
  · rfl

theorem kept_dirtyMark {s0 : State} {s : State} {a : ℕ} (h : Kept s0 s) :
    Kept s0 (dirtyMark s a) := by
  unfold dirtyMark
  split
  · exact h
  · split
    · exact h
    · extract_lets +onlyGivenNames inside
      clear_value inside
      extract_lets +onlyGivenNames inside1
      clear_value inside1
      extract_lets +onlyGivenNames inside2
      clear_value inside2
      extract_lets +onlyGivenNames inside3
      clear_value inside3
      split
      · extract_lets +onlyGivenNames g
        clear_value g
        exact kept_orWord h
      · exact h

theorem kept_writeMasked {s0 s : State} {d code a : Nat} {v : W128} {mask : List Bool} (h : Kept s0 s) :
    KeptBy Acc.s s0 (writeMasked s d code a v mask) := by
  refine KeptBy.intro (.store h ?_ (fun w => inv_writeMasked w d code a v mask))
  unfold writeMasked
  split
  · rfl
  · split
    · rfl
    · extract_lets own r
      have hr : Kept s r.s := kept_checkWord (.refl s)
      split
      · rfl
      · split
        · split
          · exact (kept_nonOwner (.refl s)).1
          · rfl
        · split
          · exact (kept_dirtyMark (.refl { s with mem := wordSet s.mem (a / 16) v })).1
          · split
            · exact hr.1
            · exact (kept_dirtyMark (.refl { r.s with mem := wordSet r.s.mem (a / 16) (mergeBytes r.data v mask) })).1.trans hr.1

theorem kept_writeWord {s0 : State} {s : State} {d : ℕ} {code : ℕ} {a : ℕ} {v : W128} (h : Kept s0 s) :
    KeptBy Acc.s s0 (writeWord s d code a v) := by
  unfold writeWord
  exact kept_writeMasked h

theorem inv_wordPoison {s : State} (h : Inv s) (w : Nat) (v : W128) : Inv { s with mem := wordPoison s.mem w v } := Memory.wf_wordPoison h w v

theorem kept_writePoison {s0 s : State} {d a : Nat} {v : W128} (h : Kept s0 s) : KeptBy Acc.s s0 (writePoison s d a v) := by
  unfold writePoison
  split
  · exact h
  · split
    · exact h
    · exact kept_dirtyMark (h.store rfl fun k => inv_wordPoison k _ _)

theorem kept_atomicWord {s0 s : State} {d a : Nat} {f : W128 → W128} (h : Kept s0 s) : KeptBy Acc.s s0 (atomicWord s d a f) := by
  refine KeptBy.intro (.store h ?_ (fun w => inv_atomicWord w d a f))
  unfold atomicWord
  split
  · split
    · rfl
    · extract_lets r
      have hr : Kept s r.s := kept_checkWord (.refl s)
      split
      · exact hr.1
      · exact (kept_dirtyMark (.refl { r.s with mem := wordSet r.s.mem (a / 16) (f r.data), atomicOps := r.s.atomicOps + 1 })).1.trans hr.1
  · rfl

theorem kept_msixSend {s0 : State} {s : State} {h1 : PortId} {v : ℕ} (h : Kept s0 s) :
    Kept s0 (msixSend s h1 v) := by
  unfold msixSend
  split
  · exact kept_modPort h
  · extract_lets +onlyGivenNames t
    clear_value t
    exact kept_emit h

theorem kept_msixFlush {s0 : State} {s : State} {h1 : PortId} (h : Kept s0 s) :
    Kept s0 (msixFlush s h1) := by
  unfold msixFlush
  refine kept_foldl h ?_
  intro t2 x21 h2
  split
  · exact kept_msixSend (kept_modPort h2)
  · exact h2

theorem kept_msix {s0 : State} {s : State} {p : PartId} (h : Kept s0 s) :
    Kept s0 (msix s p) := by
  unfold msix
  extract_lets +onlyGivenNames h1
  split
  · exact h
  · extract_lets +onlyGivenNames c s1 s2
    have hs1 : Kept s0 s1 := by
      unfold s1
      split
      · exact kept_modPart (kept_msixSend h)
      · exact h
    have hs2 : Kept s0 s2 := by
      unfold s2
      split
      · exact kept_modPart (kept_msixSend hs1)
      · exact hs1
    clear_value c s1 s2
    split
    · exact kept_modPart (kept_msixSend hs2)
    · exact hs2

theorem kept_sendFrame {s0 : State} {s : State} {kind : Byte} {payload : List W128} (h : Kept s0 s) :
    Kept s0 (sendFrame s kind payload) := by
  unfold sendFrame
  split
  · extract_lets +onlyGivenNames t
    clear_value t
    exact kept_emit (Kept.upd (t:=s) rfl rfl h)
  · exact h

theorem kept_ledgerPut {s0 : State} {s : State} {p : PartId} {r : W128} (h : Kept s0 s) :
    Kept s0 (ledgerPut s p r) := by
  unfold ledgerPut
  extract_lets +onlyGivenNames cause
  clear_value cause
  exact kept_msix (kept_modPart h)

theorem kept_ledgerEnd {s0 : State} {s : State} {p : PartId} {item : W32} {kind : ℕ} {cause : ℕ} {detail : W64} (h : Kept s0 s) :
    Kept s0 (ledgerEnd s p item kind cause detail) := by
  unfold ledgerEnd
  extract_lets +onlyGivenNames r
  clear_value r
  split
  · split
    · extract_lets +onlyGivenNames seq
      clear_value seq
      exact kept_modPart (kept_sendFrame h)
    · exact h
  · exact kept_ledgerPut h

theorem kept_ledgerItem {s0 : State} {s : State} {p : PartId} {item : W32} {kind : ℕ} {cause : ℕ} {detail : Option W64} (h : Kept s0 s) :
    Kept s0 (ledgerItem s p item kind cause detail) := by
  unfold ledgerItem
  split
  · exact kept_ledgerEnd h
  · exact kept_ledgerEnd (kept_drawWord h)

theorem kept_ledgerTake {s0 : State} {s : State} {p : PartId} {n : ℕ} (h : Kept s0 s) :
    Kept s0 (ledgerTake s p n) := by
  unfold ledgerTake
  exact kept_modPart h

theorem kept_ledgerAcked {s0 : State} {s : State} {ack : Option W32} {p : PartId} (h : Kept s0 s) :
    Kept s0 (ledgerAcked s ack p) := by
  unfold ledgerAcked
  extract_lets +onlyGivenNames w ok s1
  have hs1 : Kept s0 s1 := kept_modPart h
  clear_value w s1
  exact kept_foldl hs1 (fun _ _ h3 => kept_ledgerPut h3)

theorem kept_startSeq {s0 : State} {s : State} {n : VeId} {entry : Addr} (h : Kept s0 s) :
    Kept s0 (startSeq s n entry) := by
  unfold startSeq
  extract_lets +onlyGivenNames s1
  clear_value s1
  extract_lets +onlyGivenNames s11
  have hs11 : Kept s0 s11 := kept_modSeq h
  clear_value s11
  exact kept_modEng hs11

theorem kept_startAll {s0 : State} {s : State} {p : PartId} (h : Kept s0 s) :
    Kept s0 (startAll s p) := by
  unfold startAll
  split
  · exact kept_foldl h (fun _ _ h3 => kept_startSeq h3)
  · exact h

theorem kept_landEdit {s0 : State} {p : PartId} {s : State} {e : Edit} (h : Kept s0 s) :
    Kept s0 (landEdit p s e) := by
  unfold landEdit
  extract_lets +onlyGivenNames s1
  have hs1 : Kept s0 s1 := kept_modPart h
  clear_value s1
  split
  · exact kept_dictFinish hs1
  · exact hs1

theorem kept_applyEdits {s0 : State} {s : State} {p : PartId} {ok : Edit → Bool} (h : Kept s0 s) :
    Kept s0 (applyEdits s p ok) := by
  unfold applyEdits
  exact kept_foldl (kept_modPart h) (fun _ _ h2 => kept_landEdit h2)

theorem kept_applySwap {s0 : State} {s : State} {p : PartId} (h : Kept s0 s) :
    Kept s0 (applySwap s p) := by
  unfold applySwap
  split
  · extract_lets +onlyGivenNames s1 q
    have hs1 : Kept s0 s1 := kept_modPart h
    clear_value s1 q
    exact kept_raiseN hs1
  · exact h

theorem kept_tablesRelease {s0 : State} {s : State} {p : PartId} {k : ℕ} (h : Kept s0 s) :
    Kept s0 (tablesRelease s p k) := by
  unfold tablesRelease
  extract_lets +onlyGivenNames s1
  have hs1 : Kept s0 s1 := kept_applyEdits h
  clear_value s1
  exact kept_applyEdits (kept_applySwap hs1)

theorem kept_tablesEnd {s0 : State} {s : State} {p : PartId} (h : Kept s0 s) :
    Kept s0 (tablesEnd s p) := by
  unfold tablesEnd
  exact kept_applyEdits (kept_applySwap (kept_applyEdits h))

theorem kept_settle {s0 : State} {s : State} {p : PartId} (h : Kept s0 s) :
    Kept s0 (settle s p) := by
  unfold settle
  exact kept_modPart h

theorem kept_doneEvent {s0 : State} {how : ℕ} {p : PartId} {s : State} {n : VeId} (h : Kept s0 s) :
    Kept s0 (doneEvent how p s n) := by
  unfold doneEvent
  exact kept_raiseN h

theorem kept_freeTriggers {s0 : State} {s : State} {p : PartId} (h : Kept s0 s) :
    Kept s0 (freeTriggers s p) := by
  unfold freeTriggers
  split
  · exact kept_modPart (Kept.upd (t:=s) rfl rfl h)
  · exact kept_modPart h

theorem kept_disarm {s0 : State} {s : State} {p : PartId} (h : Kept s0 s) :
    Kept s0 (disarm s p) := by
  unfold disarm
  exact kept_modPart (kept_foldl h (fun _ _ h3 => kept_modEng h3))

theorem kept_stopSeq {s0 : State} {s : State} {n : VeId} (h : Kept s0 s) :
    Kept s0 (stopSeq s n) := by
  unfold stopSeq
  extract_lets +onlyGivenNames s1
  have hs1 : Kept s0 s1 := kept_modSeq h
  clear_value s1
  exact kept_modEng hs1

theorem kept_failRun {s0 : State} {s : State} {p : PartId} {cause : ℕ} {detail : W64} (h : Kept s0 s) :
    Kept s0 (failRun s p cause detail) := by
  unfold failRun
  split
  · exact h
  · extract_lets +onlyGivenNames b s1 s2 s3 s4
    have hs1 : Kept s0 s1 := kept_disarm (kept_foldl h (fun _ _ h5 => kept_stopSeq h5))
    have hs2 : Kept s0 s2 := kept_modPart hs1
    have hs3 : Kept s0 s3 := kept_foldl (kept_freeTriggers hs2) (fun _ _ h4 => kept_doneEvent h4)
    have hs4 : Kept s0 s4 := kept_tablesEnd hs3
    clear_value b s1 s2 s3 s4
    exact kept_settle (kept_ledgerEnd hs4)

theorem kept_failSegment {s0 : State} {s : State} {p : PartId} {cause : ℕ} {detail : W64} (h : Kept s0 s) :
    Kept s0 (failSegment s p cause detail) := by
  unfold failSegment
  split
  · exact h
  · split
    · split
      · exact kept_failRun (kept_sendFrame h)
      · extract_lets +onlyGivenNames s1
        have hs1 : Kept s0 s1 := kept_sendFrame h
        clear_value s1
        exact kept_failRun (kept_toTwinState hs1)
    · exact kept_failRun h

theorem kept_failSegmentFree {s0 : State} {s : State} {p : PartId} {cause : ℕ} (h : Kept s0 s) :
    Kept s0 (failSegmentFree s p cause) := by
  unfold failSegmentFree
  exact kept_failSegment (kept_drawWord h)

theorem kept_completeSegment {s0 : State} {s : State} {p : PartId} (h : Kept s0 s) :
    Kept s0 (completeSegment s p) := by
  unfold completeSegment
  split
  · exact h
  · extract_lets +onlyGivenNames s1 s2 s3
    have hs1 : Kept s0 s1 := kept_modPart h
    have hs2 : Kept s0 s2 := kept_foldl (kept_freeTriggers hs1) (fun _ _ h4 => kept_doneEvent h4)
    have hs3 : Kept s0 s3 := kept_tablesEnd (kept_disarm hs2)
    clear_value s1 s2 s3
    exact kept_settle (kept_ledgerEnd hs3)

theorem kept_commitDone {s0 : State} {s : State} {pd : Pending} {parts : List PartId} {cause : ℕ} {code : ℕ} {detail : W64} (h : Kept s0 s) :
    Kept s0 (commitDone s pd parts cause code detail) := by
  unfold commitDone
  extract_lets +onlyGivenNames s1
  clear_value s1
  extract_lets +onlyGivenNames s11
  have hs11 : Kept s0 s11 := Kept.upd (t:=s) rfl rfl h
  clear_value s11
  exact kept_foldl hs11 (fun _ _ h4 => kept_ledgerEnd h4)

theorem kept_commitFails {s0 : State} {s : State} {pd : Pending} {cause : ℕ} {code : ℕ} (h : Kept s0 s) :
    Kept s0 (commitFails s pd cause code) := by
  unfold commitFails
  exact kept_commitDone h

theorem kept_loseClaims {s0 : State} {s : State} {which : Claim → Bool} (h : Kept s0 s) :
    Kept s0 (loseClaims s which) := by
  unfold loseClaims
  extract_lets +onlyGivenNames gone
  clear_value gone
  exact Kept.upd (t:=s) rfl rfl h

theorem kept_modRing {s0 : State} {s : State} {r : RingId} {f : Ring → Ring} (h : Kept s0 s) :
    Kept s0 (modRing s r f) := by
  unfold modRing
  split
  · exact Kept.upd (t:=s) rfl rfl h
  · exact Kept.upd (t:=s) rfl rfl h
  · exact Kept.upd (t:=s) rfl rfl h

theorem kept_ringAppend {s0 : State} {s : State} {r : RingId} {e : EvRec} (h : Kept s0 s) :
    Kept s0 (ringAppend s r e) := by
  unfold ringAppend
  extract_lets +onlyGivenNames s1 s2
  have hs1 : Kept s0 s1 := kept_modRing h
  clear_value s1 s2
  extract_lets +onlyGivenNames s21
  have hs21 : Kept s0 s21 := Kept.upd (t:=s1) rfl rfl hs1
  clear_value s21
  split
  · exact kept_msix hs21
  · exact hs21

theorem kept_deliverAs {s0 : State} {s : State} {a : Arrival} {r : RingId} {code : Byte} {ret : Bool} (h : Kept s0 s) :
    Kept s0 (deliverAs s a r code ret) := by
  unfold deliverAs
  extract_lets +onlyGivenNames c g
  clear_value c g
  split
  · exact kept_modRing h
  · split
    · exact kept_modRing h
    · exact kept_ringAppend h

theorem kept_deliver {s0 : State} {s : State} {a : Arrival} {r : RingId} {code : Byte} {ret : Bool} (h : Kept s0 s) :
    Kept s0 (deliver s a r code ret) := by
  unfold deliver
  extract_lets +onlyGivenNames s1 c
  have hs1 : Kept s0 s1 := kept_deliverAs h
  clear_value s1 c
  split
  · exact Kept.upd (t:=s1) rfl rfl hs1
  · exact hs1

theorem kept_ringPut {s0 : State} {s : State} {r : RingId} {e : EvRec} (h : Kept s0 s) :
    Kept s0 (ringPut s r e) := by
  unfold ringPut
  split
  · exact kept_modRing h
  · exact kept_ringAppend h

theorem kept_ringFill {s0 : State} {r : RingId} {n : ℕ} {s : State} (h : Kept s0 s) :
    Kept s0 (ringFill r n s) := by
  induction n generalizing s with
  | zero =>
    rw [ringFill]
    exact h
  | succ n ih =>
    rw [ringFill]
    split
    · exact h
    · split
      · exact h
      · exact ih (kept_ringAppend (kept_modRing h))

theorem kept_ringDrop {s0 : State} {s : State} {r : RingId} {n : ℕ} (h : Kept s0 s) :
    Kept s0 (ringDrop s r n) := by
  unfold ringDrop
  exact kept_ringFill (kept_modRing h)

theorem kept_storeUpsets {s0 : State} {s : State} {us : List EventUpset} (h : Kept s0 s) :
    Kept s0 (storeUpsets s us) := by
  unfold storeUpsets
  refine kept_foldl h ?_
  intro t2 x21 h2
  split
  · exact kept_modRing h2
  · exact h2

theorem kept_ringTake {s0 : State} {s : State} {r : RingId} (h : Kept s0 s) :
    KeptBy Prod.snd s0 (ringTake s r) := by
  unfold ringTake
  split
  · exact KeptBy.snd h
  · extract_lets +onlyGivenNames s1
    have hs1 : Kept s0 s1 := kept_ringDrop h
    clear_value s1
    refine KeptBy.snd ?_
    split
    · exact kept_raiseN hs1
    · exact hs1

theorem kept_wakeFor {s0 : State} {s : State} {x : SrcId} {r : RingId} (h : Kept s0 s) :
    Kept s0 (wakeFor s x r) := by
  unfold wakeFor
  split
  · split
    · exact kept_modCluster h
    · exact h
  · exact h

theorem kept_route {s0 : State} {s : State} {a : Arrival} {code : Byte} {unresolved : Bool} (h : Kept s0 s) :
    Kept s0 (route s a code unresolved) := by
  unfold route
  split
  · extract_lets +onlyGivenNames s1
    have hs1 : Kept s0 s1 := kept_wakeFor (kept_deliver h)
    clear_value s1
    split
    · exact kept_deliver hs1
    · exact hs1
  · split
    · exact kept_deliver h
    · exact h

theorem kept_serveLatch {s0 : State} {s : State} {l : Latch} (h : Kept s0 s) :
    Kept s0 (serveLatch s l) := by
  unfold serveLatch
  extract_lets +onlyGivenNames c s1 a
  have ha : Kept s0 a := Kept.upd (t:=s) rfl rfl h
  clear_value c s1 a
  extract_lets +onlyGivenNames a1
  clear_value a1
  split
  · exact kept_route ha
  · exact kept_route ha

theorem kept_moveRing {s0 : State} {s : State} {n : VeId} (h : Kept s0 s) :
    Kept s0 (moveRing s n) := by
  unfold moveRing
  extract_lets +onlyGivenNames g s1 s2
  have hs1 : Kept s0 s1 := kept_modRing h
  have hs2 : Kept s0 s2 := kept_foldl hs1 (fun _ _ h3 => kept_ringPut h3)
  clear_value g s1 s2
  refine kept_foldl hs2 ?_
  intro t3 x31 h3
  split
  · exact kept_deliverAs h3
  · exact kept_ringPut h3

theorem kept_putMoved {s0 : State} {s : State} {r : RingId} {e : EvRec} (h : Kept s0 s) :
    Kept s0 (putMoved s r e) := by
  unfold putMoved
  split
  · exact kept_modRing h
  · exact kept_ringAppend h

theorem kept_resend {s0 : State} {s : State} {a : Arrival} {code : Byte} {nr : RingId} {ret : Bool} (h : Kept s0 s) :
    Kept s0 (resend s a code nr ret) := by
  unfold resend
  extract_lets +onlyGivenNames s1
  have hs1 : Kept s0 s1 := kept_wakeFor (kept_deliverAs h)
  clear_value s1
  split
  · split
    · exact kept_deliver hs1
    · exact hs1
  · exact hs1

theorem kept_retargetRing {s0 : State} {x : SrcId} {old : Byte} {v : Byte} {s : State} {r : RingId} (h : Kept s0 s) :
    Kept s0 (retargetRing x old v s r) := by
  unfold retargetRing
  extract_lets +onlyGivenNames g mine goes opens shuts s1
  have hs1 : Kept s0 s1 := kept_modRing h
  clear_value g opens s1
  split
  · exact kept_foldl hs1 (fun _ _ h4 => kept_deliverAs h4)
  · extract_lets +onlyGivenNames s2
    have hs2 : Kept s0 s2 := by
      unfold s2
      split
      · exact hs1
      · split
        · exact kept_putMoved hs1
        · exact hs1
    clear_value s2
    refine kept_foldl hs2 ?_
    intro t5 x51 h5
    split
    · exact kept_resend h5
    · exact h5

theorem kept_retarget {s0 : State} {s : State} {x : SrcId} {v : Byte} (h : Kept s0 s) :
    Kept s0 (retarget s x v) := by
  unfold retarget
  extract_lets +onlyGivenNames old
  clear_value old
  split
  · exact h
  · extract_lets +onlyGivenNames s1 rings
    have hrings : Kept s0 rings := Kept.upd (t:=s) rfl rfl h
    clear_value s1 rings
    extract_lets +onlyGivenNames rings1
    clear_value rings1
    exact kept_foldl hrings (fun _ _ h6 => kept_retargetRing h6)

theorem kept_pcGrant {s0 : State} {s : State} {st : StackId} {c : Fin 32} {me : ℕ} {k : Contest} (h : Kept s0 s) :
    KeptIf id s0 (pcGrant s st c me k) := by
  unfold pcGrant
  extract_lets +onlyGivenNames q
  split
  · exact KeptIf.none
  · exact KeptIf.map_choice (fun _ => Kept.upd (t:=s) rfl rfl h)

theorem kept_tapGrant {s0 : State} {s : State} {b : BankId} {me : ℕ} {k : Contest} (h : Kept s0 s) :
    KeptIf id s0 (tapGrant s b me k) := by
  unfold tapGrant
  split
  · split
    · exact KeptIf.none
    · exact KeptIf.some h
  · exact KeptIf.map_choice (fun _ => Kept.upd (t:=s) rfl rfl h)

theorem kept_grantFor {s0 : State} {s : State} {m : MasterKind} {u : MemUnit} {viaTap : Bool} {k : Contest} (h : Kept s0 s) :
    KeptIf id s0 (grantFor s m u viaTap k) := by
  unfold grantFor
  split
  · exact kept_pcGrant h
  · split
    · exact kept_tapGrant h
    · exact KeptIf.some h

theorem kept_portGrant_mgt {s0 : State} {s : State} {r : Rivals} {slot : ℕ} (h : Kept s0 s) :
    KeptIf id s0 (portGrant.mgt s r slot) := by
  unfold portGrant.mgt
  exact KeptIf.map_choice (fun _ => Kept.upd (t:=s) rfl rfl h)

theorem kept_portGrant {s0 : State} {s : State} {m : MasterKind} {r : Rivals} (h : Kept s0 s) :
    KeptIf id s0 (portGrant s m r) := by
  unfold portGrant
  split
  · split
    · exact KeptIf.none
    · exact KeptIf.map_choice (fun _ => Kept.upd (t:=s) rfl rfl h)
  · exact kept_portGrant_mgt h
  · exact kept_portGrant_mgt h
  · exact kept_portGrant_mgt h
  · exact kept_portGrant_mgt h
  · exact KeptIf.some h

theorem kept_crossWay {s0 : State} {m : MasterKind} {way : List (ℕ × ℕ)} {s : State} (h : Kept s0 s) :
    Kept s0 (crossWay m way s) := by
  unfold crossWay
  split
  · exact h
  · exact Kept.upd (t:=s) rfl rfl h

theorem kept_ackBridges {s0 : State} {s : State} (h : Kept s0 s) :
    Kept s0 (ackBridges s) := by
  unfold ackBridges
  exact Kept.upd (t:=s) rfl rfl h

theorem kept_bridgesGrant {s0 : State} {slot : ℕ} {l : List (ℕ × ℕ)} {l1 : List Contest} {s : State} (h : Kept s0 s) :
    KeptIf id s0 (bridgesGrant slot l l1 s) := by
  induction l generalizing slot l1 s with
  | nil =>
    rw [bridgesGrant]
    exact KeptIf.some h
  | cons x xs ih =>
    rw [bridgesGrant]
    exact KeptIf.of_choice (fun _ => ih (Kept.upd (t:=s) rfl rfl h))

theorem kept_pathGrant {s0 : State} {s : State} {m : MasterKind} {u : MemUnit} {viaTap : Bool} {r : Rivals} (h : Kept s0 s) :
    KeptIf id s0 (pathGrant s m u viaTap r) := by
  unfold pathGrant
  split
  · exact KeptIf.none
  · exact KeptIf.bind (π := id) (kept_portGrant h) (fun _ h3 => KeptIf.bind (π := id) (kept_bridgesGrant h3) (fun _ h5 => KeptIf.map (π := id) (kept_grantFor h5) (fun _ h7 => kept_crossWay h7)))

theorem kept_portTake_mgt {s0 : State} {s : State} {slot : ℕ} (h : Kept s0 s) :
    Kept s0 (portTake.mgt s slot) := by
  unfold portTake.mgt
  exact Kept.upd (t:=s) rfl rfl h

theorem kept_portTake {s0 : State} {s : State} {a : MasterKind} (h : Kept s0 s) :
    Kept s0 (portTake s a) := by
  unfold portTake
  split
  · exact Kept.upd (t:=s) rfl rfl h
  · exact kept_portTake_mgt h
  · exact kept_portTake_mgt h
  · exact kept_portTake_mgt h
  · exact kept_portTake_mgt h
  · exact h

theorem kept_bridgesTake {s0 : State} {slot : ℕ} {l : List (ℕ × ℕ)} {s : State} (h : Kept s0 s) :
    Kept s0 (bridgesTake slot l s) := by
  induction l generalizing slot s with
  | nil =>
    rw [bridgesTake]
    exact h
  | cons x xs ih =>
    rw [bridgesTake]
    exact ih (Kept.upd (t:=s) rfl rfl h)

theorem kept_targetTake {s0 : State} {s : State} {m : MasterKind} {viaTap : Bool} {a : MemUnit} (h : Kept s0 s) :
    Kept s0 (targetTake s m viaTap a) := by
  unfold targetTake
  split
  · exact Kept.upd (t:=s) rfl rfl h
  · split
    · exact Kept.upd (t:=s) rfl rfl h
    · exact h

theorem kept_pathTake {s0 : State} {s : State} {m : MasterKind} {u : MemUnit} {viaTap : Bool} (h : Kept s0 s) :
    Kept s0 (pathTake s m u viaTap) := by
  unfold pathTake
  extract_lets +onlyGivenNames w
  clear_value w
  exact kept_targetTake (kept_crossWay (kept_bridgesTake (kept_portTake h)))

theorem kept_via {s0 s : State} {m : MasterKind} {a : Nat} {f : State → Acc} (h : Kept s0 s) (hf : ∀ t, Kept s0 t → KeptBy Acc.s s0 (f t)) :
    KeptBy Acc.s s0 (via s m a f) := by
  unfold via
  split
  · exact h
  · split
    · exact h
    · split
      · exact h
      · exact hf _ (kept_pathTake h)

theorem kept_viaTap {s0 : State} {s : State} {m : MasterKind} {b : BankId} {f : State → Acc} (h : Kept s0 s) (hf : ∀ t, Kept s0 t → KeptBy Acc.s s0 (f t)) :
    KeptBy Acc.s s0 (viaTap s m b f) := by
  unfold viaTap
  split
  · exact KeptBy.acc h
  · exact KeptBy.intro (hf _ (kept_pathTake h))

theorem kept_noteWait {s0 : State} {s : State} {m : MasterKind} {a : ℕ} (h : Kept s0 s) :
    Kept s0 (noteWait s m a) := by
  unfold noteWait
  split
  · split
    · exact kept_modBank h
    · exact h
  · exact h

theorem kept_setFreeze {s0 : State} {s : State} {i : ℕ} {v : Bool} (h : Kept s0 s) :
    Kept s0 (setFreeze s i v) := by
  unfold setFreeze
  extract_lets +onlyGivenNames f up
  clear_value f
  exact Kept.upd (t:=s) rfl rfl h

theorem kept_freezeWrite {s0 : State} {s : State} {a : ℕ} {v : Bool} (h : Kept s0 s) :
    Kept s0 (freezeWrite s a v) := by
  unfold freezeWrite
  split
  · exact kept_setFreeze h
  · exact h

theorem kept_readPart {s0 : State} {s : State} {p : PartId} {m : MasterKind} {code : ℕ} {space : Bool} {x : ℕ} (h : Kept s0 s) :
    KeptBy Acc.s s0 (readPart s p m code space x) := by
  unfold readPart
  split
  · exact kept_via h (fun _ h3 => kept_readWord h3)
  · exact KeptBy.acc h

theorem kept_writePart {s0 : State} {s : State} {p : PartId} {m : MasterKind} {code : ℕ} {space : Bool} {x : ℕ} {v : W128} {mask : List Bool} (h : Kept s0 s) :
    KeptBy Acc.s s0 (writePart s p m code space x v mask) := by
  unfold writePart
  split
  · exact kept_via h (fun _ h3 => kept_writeMasked h3)
  · exact KeptBy.acc h

theorem kept_noteWaitAt {s0 : State} {s : State} {p : PartId} {m : MasterKind} {space : Bool} {x : ℕ} (h : Kept s0 s) :
    Kept s0 (noteWaitAt s p m space x) := by
  unfold noteWaitAt
  split
  · exact kept_noteWait h
  · exact h

theorem kept_readRun {s0 : State} {s : State} {p : PartId} {m : MasterKind} {code : ℕ} {space : Bool} {x : ℕ} {n : ℕ} (h : Kept s0 s) :
    KeptBy third s0 (readRun s p m code space x n) := by
  induction n generalizing s x with
  | zero =>
    rw [readRun]
    exact KeptBy.third h
  | succ n ih =>
    rw [readRun]
    split
    · exact KeptBy.third (kept_readPart h)
    · split
      · refine KeptBy.third ?_
        rename_i hk
        exact KeptBy.along (π:=third) hk (KeptBy.intro (ih (kept_readPart h)))

theorem kept_writeRun {s0 : State} {s : State} {p : PartId} {m : MasterKind} {code : ℕ} {space : Bool} {x : ℕ} {l : List W128} (h : Kept s0 s) :
    KeptBy Prod.snd s0 (writeRun s p m code space x l) := by
  induction l generalizing s x with
  | nil =>
    rw [writeRun]
    exact KeptBy.snd h
  | cons x xs ih =>
    rw [writeRun]
    split
    · exact KeptBy.snd (kept_writePart h)
    · exact KeptBy.intro (ih (kept_writePart h))

theorem kept_noteCore {s0 : State} {s : State} {c : CoreId} {w : Want} {a : ℕ} (h : Kept s0 s) :
    Kept s0 (noteCore s c w a) := by
  unfold noteCore
  split
  · exact h
  · split
    · exact kept_noteWaitAt h
    · exact h

theorem kept_internalVia {s0 : State} {s : State} {f : State → Acc} (h : Kept s0 s) (hf : ∀ t, Kept s0 t → KeptBy Acc.s s0 (f t)) :
    KeptBy Acc.s s0 (internalVia s f) := by
  unfold internalVia
  split
  · exact KeptBy.acc h
  · exact KeptBy.intro (hf _ (kept_portTake h))

theorem kept_internalWord {s0 : State} {s : State} {a : ℕ} (h : Kept s0 s) :
    KeptBy Acc.s s0 (internalWord s a) := by
  unfold internalWord
  split
  · exact KeptBy.acc h
  · split
    · exact KeptBy.acc h
    · split
      · exact KeptBy.acc h
      · exact KeptBy.acc (kept_drawWord h)

theorem kept_coreRead {s0 : State} {s : State} {c : CoreId} {w : Want} {a : ℕ} (h : Kept s0 s) :
    KeptBy Acc.s s0 (coreRead s c w a) := by
  unfold coreRead
  split
  · split
    · exact KeptBy.acc h
    · exact kept_readPart h
  · split
    · exact kept_via h (fun _ h4 => kept_readWord h4)
    · exact kept_internalVia h (fun _ h4 => kept_internalWord h4)

theorem kept_journalQueue {s0 : State} {s : State} {m : MasterKind} {code : ℕ} {p : PartId} {i : ℕ} (h : Kept s0 s) :
    KeptBy Prod.snd s0 (journalQueue s m code p i) := by
  unfold journalQueue
  split
  · exact KeptBy.snd h
  · split
    · split
      · extract_lets +onlyGivenNames r t w
        have hr : KeptBy Prod.snd s0 r := kept_drawWord h
        have ht : KeptBy Prod.snd s0 t := kept_drawWord hr
        have hw : KeptBy Prod.snd s0 w := kept_writeRun ht
        clear_value r t w
        split
        · exact KeptBy.snd h
        · exact KeptBy.snd hw
      · exact KeptBy.snd h
    · exact KeptBy.snd h

theorem kept_veWrite {s0 : State} {s : State} {n : VeId} {u : ℕ} {p : PartId} {space : Bool} {x : ℕ} {v : W128} {mask : List Bool} (h : Kept s0 s) :
    KeptBy Acc.s s0 (veWrite s n u p space x v mask) := by
  unfold veWrite
  extract_lets +onlyGivenNames q
  clear_value q
  split
  · split
    · split
      · exact KeptBy.acc h
      · extract_lets +onlyGivenNames lve w j
        have hj : KeptBy Prod.snd s0 j := kept_journalQueue h
        clear_value lve w j
        refine KeptBy.acc ?_
        split
        · exact kept_modPart hj
        · exact h
    · exact kept_writePart h
  · exact kept_writePart h

theorem kept_setFreezeOf {s0 : State} {s : State} {a : ℕ} {v : W128} {mask : List Bool} (h : Kept s0 s) :
    Kept s0 (setFreezeOf s a v mask) := by
  unfold setFreezeOf
  split
  · exact kept_freezeWrite h
  · exact h

theorem inv_ramSet {s : State} (h : Inv s) (a : Nat) (l : List Byte) : Inv { s with mem := { s.mem with ram := cellsSet s.mem.ram a l } } := by
  unfold Inv at h ⊢
  rw [Memory.wf_iff] at h ⊢
  exact ⟨h.1, cellsWf_cellsSet h.2 a l⟩

theorem kept_internalStore {s0 s : State} {a : Nat} {v : W128} {mask : List Bool} (h : Kept s0 s) :
    Kept s0 (internalStore s a v mask) := by
  unfold internalStore
  extract_lets m put
  have hput : ∀ off, Kept s0 (put off) := fun off => .store h rfl (fun w => inv_ramSet w off _)
  split
  · exact hput _
  · split
    · exact hput _
    · exact kept_setFreezeOf h

theorem kept_coreWrite {s0 : State} {s : State} {c : CoreId} {a : ℕ} {v : W128} {mask : List Bool} (h : Kept s0 s) :
    KeptBy Acc.s s0 (coreWrite s c a v mask) := by
  unfold coreWrite
  split
  · split
    · exact KeptBy.acc h
    · exact kept_veWrite h
  · split
    · exact kept_via h (fun _ h4 => kept_writeMasked h4)
    · exact kept_internalVia h (fun _ h4 => KeptBy.acc (kept_internalStore h4))

theorem kept_cacheStore {s0 : State} {s : State} {c : CoreId} {a : ℕ} {v : W128} {mask : List Bool} (h : Kept s0 s) :
    Kept s0 (cacheStore s c a v mask) := by
  unfold cacheStore
  extract_lets +onlyGivenNames x
  clear_value x
  exact kept_modCore h

theorem kept_coreStore {s0 : State} {s : State} {c : CoreId} {a : ℕ} {v : W128} {mask : List Bool} (h : Kept s0 s) :
    KeptBy Acc.s s0 (coreStore s c a v mask) := by
  unfold coreStore
  extract_lets +onlyGivenNames r
  have hr : KeptBy Acc.s s0 r := kept_coreWrite h
  clear_value r
  split
  · exact KeptBy.acc (kept_cacheStore hr)
  · exact hr

theorem kept_lineRead {s0 : State} {s : State} {c : CoreId} {l : ℕ} (h : Kept s0 s) :
    KeptBy Prod.snd s0 (lineRead s c l) := by
  unfold lineRead
  refine KeptBy.intro ?_
  refine kept_foldl_snd h ?_
  intro y3 x31 h3
  extract_lets +onlyGivenNames r
  have hr : KeptBy Acc.s s0 r := kept_coreRead h3
  clear_value r
  exact KeptBy.snd hr

theorem kept_aheadRead {s0 : State} {c : CoreId} {ws : List ℕ} {s : State} (h : Kept s0 s) :
    KeptBy Prod.snd s0 (aheadRead c ws s) := by
  unfold aheadRead
  refine KeptBy.intro ?_
  refine kept_foldl_snd h ?_
  intro y3 x31 h3
  extract_lets +onlyGivenNames r
  have hr : KeptBy Acc.s s0 r := kept_coreRead h3
  clear_value r
  split
  · exact KeptBy.intro h3
  · exact KeptBy.snd hr

theorem kept_fetchDet {s0 : State} {s : State} {c : CoreId} {a : ℕ} (h : Kept s0 s) :
    KeptBy Prod.snd s0 (fetchDet s c a) := by
  unfold fetchDet
  extract_lets +onlyGivenNames f old onward known want r all t
  have hr : KeptBy Prod.snd s0 r := kept_aheadRead h
  have ht : Kept s0 t := kept_modCore hr
  clear_value f old onward known want r all t
  split
  · exact KeptBy.snd ht
  · exact KeptBy.snd ht

theorem kept_fetchAt {s0 : State} {s : State} {c : CoreId} {a : ℕ} (h : Kept s0 s) :
    KeptBy Prod.snd s0 (fetchAt s c a) := by
  unfold fetchAt
  extract_lets +onlyGivenNames k
  clear_value k
  split
  · exact KeptBy.snd (kept_noteCore h)
  · split
    · exact KeptBy.snd h
    · split
      · extract_lets +onlyGivenNames r
        have hr : KeptBy Prod.snd s0 r := kept_fetchDet h
        clear_value r
        split
        · exact KeptBy.snd h
        · exact hr
      · extract_lets +onlyGivenNames l f
        clear_value l f
        split
        · exact KeptBy.snd (kept_modCore h)
        · extract_lets +onlyGivenNames r k1
          have hr : KeptBy Prod.snd s0 r := kept_lineRead h
          clear_value r k1
          split
          · exact KeptBy.snd h
          · exact KeptBy.snd (kept_modCore hr)

theorem kept_fetchGo {s0 : State} {s : State} {c : CoreId} {long : Bool} (h : Kept s0 s) :
    KeptBy Prod.snd s0 (fetchGo s c long) := by
  unfold fetchGo
  extract_lets +onlyGivenNames pc x
  have hx : KeptBy Prod.snd s0 x := kept_fetchAt h
  clear_value pc x
  split
  · exact KeptBy.snd hx
  · split
    · exact KeptBy.snd hx
    · split
      · extract_lets +onlyGivenNames b y
        have hy : KeptBy Prod.snd s0 y := kept_fetchAt hx
        clear_value b y
        split
        · exact KeptBy.snd hy
        · split
          · exact KeptBy.snd hy
          · exact KeptBy.snd hy
      · exact KeptBy.snd hx

theorem kept_coreEvent {s0 : State} {s : State} {c : CoreId} {i : ℕ} {dt : W32} (h : Kept s0 s) :
    Kept s0 (coreEvent s c i dt) := by
  unfold coreEvent
  split
  · exact kept_raiseN h
  · split
    · exact kept_raiseN h
    · split
      · exact kept_raiseN h
      · exact h

theorem kept_warmRestart {s0 : State} {s : State} (h : Kept s0 s) :
    Kept s0 (warmRestart s) := by
  unfold warmRestart
  extract_lets +onlyGivenNames s1 s2
  clear_value s1 s2
  extract_lets +onlyGivenNames s11 s21
  have hs11 : Kept s0 s11 := Kept.upd (t:=s) rfl rfl h
  have hs21 : Kept s0 s21 := kept_loseClaims hs11
  clear_value s11 s21
  exact kept_foldl hs21 (fun _ _ h4 => kept_commitDone h4)

theorem kept_restartEnd {s0 : State} {s : State} (h : Kept s0 s) :
    Kept s0 (restartEnd s) := by
  unfold restartEnd
  split
  · exact Kept.upd (t:=s) rfl rfl h
  · split
    · exact kept_raiseN (Kept.upd (t:=s) rfl rfl h)
    · exact h

theorem kept_recoveryEnd {s0 : State} {s : State} (h : Kept s0 s) :
    Kept s0 (recoveryEnd s) := by
  unfold recoveryEnd
  exact Kept.upd (t:=s) rfl rfl h

theorem kept_doubleFault {s0 : State} {s : State} {c : CoreId} {reason : ℕ} {v : ℕ} {pc : Addr} {cause : W64} {detail : W64} (h : Kept s0 s) :
    Kept s0 (doubleFault s c reason v pc cause detail) := by
  unfold doubleFault
  extract_lets +onlyGivenNames e s1
  have hs1 : Kept s0 s1 := kept_coreEvent (kept_modCore h)
  clear_value e s1
  split
  · extract_lets +onlyGivenNames s2
    have hs2 : Kept s0 s2 := kept_modEng (kept_modSeq hs1)
    clear_value s2
    split
    · exact kept_failSegment hs2
    · exact hs2
  · exact kept_warmRestart hs1

theorem kept_frameWrite {s0 : State} {s : State} {c : CoreId} {a : ℕ} {lo : W128} {hi : W128} (h : Kept s0 s) :
    KeptIf id s0 (frameWrite s c a lo hi) := by
  unfold frameWrite
  extract_lets +onlyGivenNames x y
  have hx : KeptBy Acc.s s0 x := kept_coreStore h
  have hy : KeptBy Acc.s s0 y := kept_coreStore hx
  clear_value x y
  split
  · exact KeptIf.none
  · exact KeptIf.some hy

theorem kept_enter {s0 : State} {s : State} {c : CoreId} {v : ℕ} {code : ℕ} {qual : ℕ} {detail : W64} {saved : Addr} (h : Kept s0 s) :
    Kept s0 (enter s c v code qual detail saved) := by
  unfold enter
  extract_lets +onlyGivenNames r g7 cause
  clear_value r g7 cause
  split
  · exact kept_doubleFault h
  · extract_lets +onlyGivenNames a k1 k2 wait
    have hwait : Kept s0 wait := kept_modCore (kept_noteCore (kept_noteCore h))
    clear_value a k1 k2 wait
    split
    · exact kept_doubleFault h
    · split
      · exact kept_doubleFault h
      · split
        · exact hwait
        · split
          · exact hwait
          · extract_lets +onlyGivenNames s3 f
            have hs3 : Kept s0 s3 := by
              unfold s3
              refine kept_modRegs ?_
              rename_i hk
              exact kept_frameWrite h _ hk
            have hf : KeptBy Prod.snd s0 f := kept_fetchAt hs3
            clear_value s3 f
            split
            · exact kept_doubleFault hf
            · exact hf

theorem kept_resumeEntry {s0 : State} {s : State} {c : CoreId} (h : Kept s0 s) :
    Kept s0 (resumeEntry s c) := by
  unfold resumeEntry
  split
  · split
    · exact kept_enter (kept_modCore h)
    · exact h
  · exact h

theorem kept_takeNotice {s0 : State} {s : State} {c : CoreId} {code : ℕ} (h : Kept s0 s) :
    Kept s0 (takeNotice s c code) := by
  unfold takeNotice
  split
  · exact h
  · split
    · exact Kept.upd (t:=s) rfl rfl h
    · split
      · exact Kept.upd (t:=s) rfl rfl h
      · exact h

theorem kept_discardOpen {s0 : State} {s : State} {a : CoreId} (h : Kept s0 s) :
    Kept s0 (discardOpen s a) := by
  unfold discardOpen
  split
  · exact kept_modEng h
  · exact h

theorem kept_retire {s0 : State} {s : State} {c : CoreId} {pc : Addr} (h : Kept s0 s) :
    Kept s0 (retire s c pc) := by
  unfold retire
  exact kept_modCore h

theorem kept_illegal {s0 : State} {s : State} {c : CoreId} {code : ℕ} {enc : W32} (h : Kept s0 s) :
    Kept s0 (illegal s c code enc) := by
  unfold illegal
  exact kept_enter (kept_discardOpen h)

theorem kept_atFetch {s0 : State} {s : State} {c : CoreId} {long : Bool} {f : State → State} (h : Kept s0 s) (hf : ∀ t, Kept s0 t → Kept s0 (f t)) :
    Kept s0 (atFetch s c long f) := by
  unfold atFetch
  split
  · exact h
  · split
    · rename_i hk
      exact KeptBy.along (π:=Prod.snd) hk (kept_fetchGo h)
    · refine kept_enter ?_
      refine kept_discardOpen ?_
      rename_i hk
      exact KeptBy.along (π:=Prod.snd) hk (kept_fetchGo h)
    · refine hf _ ?_
      rename_i hk
      exact KeptBy.along (π:=Prod.snd) hk (kept_fetchGo h)

theorem kept_atBoundary {s0 : State} {s : State} {c : CoreId} {enc : W32} {f : State → State} (h : Kept s0 s) (hf : ∀ t, Kept s0 t → Kept s0 (f t)) :
    Kept s0 (atBoundary s c enc f) := by
  unfold atBoundary
  refine kept_atFetch h ?_
  intro t2 h2
  split
  · exact hf _ h2
  · exact kept_illegal h2

theorem kept_fragRead {s0 : State} {m : MasterKind} {code : ℕ} {tap : Option BankId} {l : List (ℕ × List Bool)} {s : State} (h : Kept s0 s) :
    KeptBy third s0 (fragRead m code tap l s) := by
  induction l generalizing s with
  | nil =>
    unfold fragRead
    exact KeptBy.third h
  | cons x xs ih =>
    unfold fragRead
    extract_lets +onlyGivenNames x1 y
    have hx1 : KeptBy Acc.s s0 x1 := by
      unfold x1
      split
      · exact kept_tapWord h
      · exact kept_readWord h
    have hy : KeptBy third s0 y := KeptBy.intro (ih hx1)
    exact KeptBy.third hy

theorem kept_fragWrite {s0 : State} {m : MasterKind} {code : ℕ} {f : Frag} {data : List Byte} {en : List Bool} {l : List (ℕ × List Bool)} {s : State} (h : Kept s0 s) :
    KeptBy Prod.snd s0 (fragWrite m code f data en l s) := by
  induction l generalizing s with
  | nil =>
    rw [fragWrite]
    exact KeptBy.snd h
  | cons x xs ih =>
    rw [fragWrite]
    split
    · exact KeptBy.intro (ih h)
    · extract_lets +onlyGivenNames x1 y
      have hx1 : KeptBy Acc.s s0 x1 := by
        unfold x1
        split
        · exact kept_veWrite h
        · exact kept_writeMasked h
      have hy : KeptBy Prod.snd s0 y := KeptBy.intro (ih hx1)
      exact KeptBy.snd hy

theorem kept_sentTo {s0 : State} {s : State} {m : MasterKind} {u : MemUnit} {viaTap : Bool} {r : Rivals} (h : Kept s0 s) :
    KeptIf id s0 (sentTo s m u viaTap r) := by
  unfold sentTo
  split
  · exact KeptIf.some h
  · exact kept_pathGrant h

theorem kept_internalRead {s0 : State} {s : State} {a : ℕ} (h : Kept s0 s) :
    KeptBy Prod.snd s0 (internalRead s a) := by
  unfold internalRead
  split
  · exact KeptBy.snd h
  · split
    · exact KeptBy.snd h
    · split
      · exact KeptBy.snd h
      · split
        · exact KeptBy.snd (kept_drawWord h)
        · exact KeptBy.snd h

theorem kept_internalReads {s0 : State} {l : List (ℕ × List Bool)} {s : State} (h : Kept s0 s) :
    KeptBy third s0 (internalReads l s) := by
  induction l generalizing s with
  | nil =>
    rw [internalReads]
    exact KeptBy.third h
  | cons x xs ih =>
    rw [internalReads]
    split
    · exact KeptBy.third (ih (kept_internalRead h))
    · exact KeptBy.third (ih (kept_internalRead h))

theorem kept_internalWrites {s0 : State} {f : Frag} {data : List Byte} {en : List Bool} {l : List (Nat × List Bool)} {s : State} (h : Kept s0 s) :
    KeptBy Prod.snd s0 (internalWrites f data en l s) := by
  induction l generalizing s with
  | nil => exact .snd h
  | cons x r ih =>
    unfold internalWrites
    extract_lets v k m put
    have hput : ∀ off, Kept s0 (put off) := fun off => .store h rfl (fun w => inv_ramSet w off _)
    clear_value put
    split
    · split
      · exact .snd h
      · exact ih (hput _)
    · split
      · exact ih (hput _)
      · split
        · exact .snd h
        · split
          · exact ih (kept_setFreezeOf h)
          · exact .snd h

theorem kept_internalPath {s0 : State} {s : State} {m : MasterKind} {rv : Rivals} {f : State → State} (h : Kept s0 s) (hf : ∀ t, Kept s0 t → Kept s0 (f t)) :
    Kept s0 (internalPath s m rv f) := by
  unfold internalPath
  split
  · refine hf _ ?_
    rename_i hk
    exact kept_portGrant h _ hk
  · exact h

theorem kept_memReadOp {s0 : State} {s : State} {f : Frag} {rv : Rivals} {us : List Upset} (h : Kept s0 s) :
    Kept s0 (memReadOp s f rv us) := by
  unfold memReadOp
  extract_lets +onlyGivenNames m
  clear_value m
  split
  · exact h
  · split
    · split
      · refine kept_internalPath h ?_
        intro t6 h6
        extract_lets +onlyGivenNames r
        have hr : KeptBy third s0 r := kept_internalReads h6
        clear_value r
        exact kept_emit hr
      · exact kept_emit h
    · split
      · exact kept_emit h
      · extract_lets +onlyGivenNames tap
        clear_value tap
        split
        · exact h
        · split
          · refine kept_modBank ?_
            rename_i hk _ _ _
            exact kept_sentTo h _ hk
          · extract_lets +onlyGivenNames code r
            have hr : KeptBy third s0 r := by
              unfold r
              refine kept_fragRead ?_
              refine kept_addUpsets ?_
              rename_i hk _ _
              exact kept_sentTo h _ hk
            clear_value code r
            exact kept_emit hr

theorem kept_memWriteOp {s0 : State} {s : State} {f : Frag} {data : List Byte} {en : List Bool} {tap : Bool} {rv : Rivals} {us : List Upset} (h : Kept s0 s) :
    Kept s0 (memWriteOp s f data en tap rv us) := by
  unfold memWriteOp
  extract_lets +onlyGivenNames m
  clear_value m
  split
  · exact h
  · split
    · split
      · refine kept_internalPath h ?_
        intro t6 h6
        extract_lets +onlyGivenNames r
        have hr : KeptBy Prod.snd s0 r := kept_internalWrites h6
        clear_value r
        exact kept_emit hr
      · exact kept_emit h
    · split
      · split
        · exact kept_emit h
        · split
          · exact h
          · split
            · refine kept_modBank ?_
              rename_i hk _ _ _
              exact kept_sentTo h _ hk
            · extract_lets +onlyGivenNames code r
              have hr : KeptBy Prod.snd s0 r := by
                unfold r
                refine kept_fragWrite ?_
                refine kept_addUpsets ?_
                rename_i hk _ _
                exact kept_sentTo h _ hk
              clear_value code r
              exact kept_emit hr
      · split
        · exact kept_emit h
        · split
          · exact h
          · split
            · refine kept_modBank ?_
              rename_i hk _ _ _
              exact kept_sentTo h _ hk
            · extract_lets +onlyGivenNames code r
              have hr : KeptBy Prod.snd s0 r := by
                unfold r
                refine kept_fragWrite ?_
                refine kept_addUpsets ?_
                rename_i hk _ _
                exact kept_sentTo h _ hk
              clear_value code r
              exact kept_emit hr

theorem kept_admitHeld {s0 : State} {s : State} {x : HeldFrag} (h : Kept s0 s) :
    Kept s0 (admitHeld s x) := by
  unfold admitHeld
  extract_lets +onlyGivenNames m
  clear_value m
  split
  · extract_lets +onlyGivenNames code
    clear_value code
    split
    · extract_lets +onlyGivenNames r
      have hr : KeptBy third s0 r := kept_fragRead h
      clear_value r
      exact kept_emit hr
    · extract_lets +onlyGivenNames r
      have hr : KeptBy Prod.snd s0 r := kept_fragWrite h
      clear_value r
      exact kept_emit hr
  · exact h

theorem kept_atomicOp {s0 : State} {s : State} {f : Frag} {rv : Rivals} {us : List Upset} {isOr : Bool} {ret : Bool} {g : W128 → W128} (h : Kept s0 s) :
    Kept s0 (atomicOp s f rv us isOr ret g) := by
  unfold atomicOp
  extract_lets +onlyGivenNames m
  clear_value m
  split
  · exact h
  · split
    · split
      · exact kept_emit h
      · split
        · exact h
        · extract_lets +onlyGivenNames r
          have hr : KeptBy Acc.s s0 r := by
            unfold r
            refine kept_atomicWord ?_
            refine kept_addUpsets ?_
            rename_i hk
            exact kept_sentTo h _ hk
          clear_value r
          exact kept_emit hr
    · exact kept_emit h

theorem kept_writeBackOp {s0 s : State} {w : Nat} (h : Kept s0 s) : Kept s0 (writeBackOp s w) := by
  unfold writeBackOp
  split
  · exact h
  · split
    · split
      · exact h
      · exact .store h rfl (fun k => k.of_cells rfl rfl)
    · exact h

theorem kept_patrolStackOp {s0 s : State} {st : StackId} {us : List Upset} (h : Kept s0 s) : Kept s0 (patrolStackOp s st us) := by
  unfold patrolStackOp
  split
  · exact h
  · extract_lets i c a m s1
    have hs1 : Kept s0 s1 := .store h rfl (fun k => k.of_cells rfl rfl)
    split
    · exact hs1
    · split
      · exact h
      · exact kept_checkWord (kept_addUpsets hs1)

theorem kept_patrolBankOp {s0 s : State} {b : BankId} {us : List Upset} (h : Kept s0 s) : Kept s0 (patrolBankOp s b us) := by
  unfold patrolBankOp
  split
  · exact h
  · extract_lets i a m s1
    have hs1 : Kept s0 s1 := .store h rfl (fun k => k.of_cells rfl rfl)
    exact kept_tapWord (kept_addUpsets hs1)

theorem kept_refreshOp {s0 : State} {s : State} {q : Fin 256} (h : Kept s0 s) :
    Kept s0 (refreshOp s q) := by
  unfold refreshOp
  extract_lets +onlyGivenNames st c
  split
  · exact h
  · exact kept_modStack h

theorem kept_calBreakOp {s0 : State} {s : State} {st : StackId} {g : Fin 4} (h : Kept s0 s) :
    Kept s0 (calBreakOp s st g) := by
  unfold calBreakOp
  extract_lets +onlyGivenNames k
  clear_value k
  split
  · exact h
  · exact kept_raiseN (kept_modStack h)

theorem kept_quietEndOp {s0 : State} {s : State} {st : StackId} {ok : Bool} {volt : BitVec 10} {load : BitVec 2} (h : Kept s0 s) :
    Kept s0 (quietEndOp s st ok volt load) := by
  unfold quietEndOp
  extract_lets +onlyGivenNames k
  clear_value k
  split
  · exact h
  · split
    · exact h
    · extract_lets +onlyGivenNames s1
      have hs1 : Kept s0 s1 := kept_modStack h
      clear_value s1
      split
      · extract_lets +onlyGivenNames r
        clear_value r
        exact kept_raiseN (kept_modStack hs1)
      · exact kept_foldl (kept_modStack hs1) (fun _ _ h7 => kept_fencePc h7)

theorem kept_overheatOp {s0 : State} {s : State} {st : StackId} {temp : Byte} (h : Kept s0 s) :
    Kept s0 (overheatOp s st temp) := by
  unfold overheatOp
  split
  · exact h
  · exact kept_fenceStack (kept_modStack h)

theorem kept_tapLine {s0 : State} {s : State} {d : ℕ} {b : BankId} {code : ℕ} {line : BitVec 16} (h : Kept s0 s) :
    KeptBy third s0 (tapLine s d b code line) := by
  unfold tapLine
  refine KeptBy.intro ?_
  refine kept_foldl_third h ?_
  intro y3 x31 h3
  extract_lets +onlyGivenNames r
  have hr : KeptBy Acc.s s0 r := kept_tapWord h3
  clear_value r
  exact KeptBy.third hr

theorem kept_senseWrite {s0 s : State} {b : BankId} {line : BitVec 16} {w : SenseWrite} (h : Kept s0 s) : Kept s0 (senseWrite s b line w) :=
  .store h rfl (fun k => inv_wordSet k _ _)

theorem kept_drawLine {s0 : State} {s : State} (h : Kept s0 s) :
    KeptBy Prod.snd s0 (drawLine s) := by
  unfold drawLine
  refine KeptBy.intro ?_
  refine kept_foldl_snd h ?_
  intro y3 x31 h3
  extract_lets +onlyGivenNames d
  have hd : KeptBy Prod.snd s0 d := kept_drawWord h3
  clear_value d
  exact KeptBy.snd hd

theorem kept_tapTurn {s0 : State} {s : State} {b : BankId} {who : TapReq} {k : Contest} (h : Kept s0 s) :
    KeptIf id s0 (tapTurn s b who k) := by
  unfold tapTurn
  split
  · split
    · exact KeptIf.none
    · exact KeptIf.some h
  · exact kept_tapGrant h

theorem kept_tapReadOp {s0 : State} {s : State} {b : BankId} {line : BitVec 16} {who : TapReq} {k : Contest} {hit : Option SenseWrite} (h : Kept s0 s) :
    Kept s0 (tapReadOp s b line who k hit) := by
  unfold tapReadOp
  split
  · exact h
  · split
    · exact h
    · split
      · split
        · exact h
        · extract_lets +onlyGivenNames d
          have hd : KeptBy Prod.snd s0 d := by
            unfold d
            refine kept_drawLine ?_
            refine kept_senseWrite ?_
            rename_i hk _ _ _ _
            exact kept_tapTurn h _ hk
          clear_value d
          exact kept_emit (kept_modBank hd)
      · extract_lets +onlyGivenNames r
        have hr : KeptBy third s0 r := by
          unfold r
          refine kept_tapLine ?_
          rename_i hk _ _
          exact kept_tapTurn h _ hk
        clear_value r
        exact kept_emit hr

theorem kept_substArm {s0 : State} {s : State} {n : VeId} {v : W64} (h : Kept s0 s) :
    Kept s0 (substArm s n v) := by
  unfold substArm
  exact kept_modEng h

theorem kept_veStore {s0 : State} {s : State} {n : VeId} {sub : ℕ} {bytes : ℕ} {v : W128} (h : Kept s0 s) :
    KeptIf id s0 (veStore s n sub bytes v) := by
  unfold veStore
  split
  · exact KeptIf.some (kept_modEng h)
  · split
    · exact KeptIf.some (kept_modEng h)
    · split
      · exact KeptIf.some (kept_modEng h)
      · split
        · exact KeptIf.some (kept_substArm h)
        · exact KeptIf.none

theorem kept_veLoad {s0 : State} {s : State} {n : VeId} {sub : ℕ} {bytes : ℕ} (h : Kept s0 s) :
    KeptIf Prod.snd s0 (veLoad s n sub bytes) := by
  unfold veLoad
  split
  · exact KeptIf.none
  · extract_lets +onlyGivenNames w
    clear_value w
    split
    · exact KeptIf.some (kept_modSeq h)
    · split
      · exact KeptIf.some (kept_ringTake h)
      · exact KeptIf.some h

theorem kept_dropLines {s0 : State} {s : State} {b : BankId} (h : Kept s0 s) :
    Kept s0 (dropLines s b) := by
  unfold dropLines
  extract_lets +onlyGivenNames o
  split
  · extract_lets +onlyGivenNames n
    clear_value n
    split
    · exact kept_modSeq h
    · exact h
  · exact h

theorem kept_drainWriter {s0 : State} {s : State} {a : DrainFor} (h : Kept s0 s) :
    Kept s0 (drainWriter s a) := by
  unfold drainWriter
  split
  · exact kept_dictFinish h
  · exact h
  · exact h

theorem kept_startDrain {s0 : State} {s : State} {b : BankId} {new : Byte} {why : DrainFor} (h : Kept s0 s) :
    Kept s0 (startDrain s b new why) := by
  unfold startDrain
  extract_lets +onlyGivenNames k
  clear_value k
  split
  · exact h
  · split
    · exact kept_modBank (kept_drainWriter h)
    · split
      · exact kept_drainWriter h
      · exact kept_modBank (kept_dropLines h)

theorem kept_resumeWaiters {s0 : State} {s : State} {ms : List (BitVec 10)} (h : Kept s0 s) :
    Kept s0 (resumeWaiters s ms) := by
  unfold resumeWaiters
  refine kept_foldl h ?_
  intro t2 x21 h2
  split
  · exact kept_resumeEntry h2
  · exact h2

theorem kept_finishDrain {s0 : State} {s : State} {b : BankId} (h : Kept s0 s) :
    Kept s0 (finishDrain s b) := by
  unfold finishDrain
  split
  · exact h
  · extract_lets +onlyGivenNames s1
    have hs1 : Kept s0 s1 := kept_foldl (kept_modBank h) (fun _ _ h4 => kept_admitHeld h4)
    clear_value s1
    exact kept_drainWriter (kept_resumeWaiters hs1)

theorem kept_banksToHost {s0 : State} {s : State} {p : PartId} (h : Kept s0 s) :
    Kept s0 (banksToHost s p) := by
  unfold banksToHost
  exact kept_foldl h (fun _ _ h2 => kept_startDrain h2)

theorem kept_veBanksToHost {s0 : State} {s : State} {p : PartId} {n : VeId} (h : Kept s0 s) :
    Kept s0 (veBanksToHost s p n) := by
  unfold veBanksToHost
  refine kept_foldl h ?_
  intro t2 x21 h2
  split
  · exact kept_startDrain h2
  · exact h2

theorem kept_banksToVes {s0 : State} {s : State} {p : PartId} (h : Kept s0 s) :
    Kept s0 (banksToVes s p) := by
  unfold banksToVes
  split
  · exact h
  · refine kept_foldl h ?_
    intro t3 x31 h3
    split
    · exact kept_startDrain h3
    · exact h3

theorem kept_seqOp {s0 : State} {s : State} {c : CoreId} {enc : W32} {bad : Option ℕ} {f : State → State} (h : Kept s0 s) (hf : ∀ t, Kept s0 t → Kept s0 (f t)) :
    Kept s0 (seqOp s c enc bad f) := by
  unfold seqOp
  refine kept_atBoundary h ?_
  intro t2 h2
  split
  · exact kept_illegal h2
  · exact hf _ h2

theorem kept_regOp {s0 : State} {s : State} {c : CoreId} {len : ℕ} {f : Regs → Regs} (h : Kept s0 s) :
    Kept s0 (regOp s c len f) := by
  unfold regOp
  exact kept_modRegs (kept_retire h)

theorem kept_VRun_fail {s0 : State} {r : VRun} {f : VFault} (h : KeptBy VRun.s s0 r) :
    KeptBy VRun.s s0 (VRun.fail r f) := by
  unfold VRun.fail
  split
  · exact KeptBy.vrun h
  · exact h

theorem kept_vwords {s0 : State} {n : VeId} {p : PartId} {g : Group} {u : ℕ} {space : Bool} {n1 : ℕ} {n2 : ℕ} {s : State} (h : Kept s0 s) :
    KeptBy third s0 (vwords n p g u space n1 n2 s) := by
  induction n2 generalizing n1 s with
  | zero =>
    rw [vwords]
    exact KeptBy.third h
  | succ n2 ih =>
    rw [vwords]
    refine KeptBy.third ?_
    refine ih ?_
    refine KeptBy.out (π:=Prod.snd) ?_
    split
    · exact KeptBy.snd (kept_drawWord (kept_readPart h))
    · exact KeptBy.snd (kept_readPart h)

theorem kept_vreads {s0 : State} {n : VeId} {p : PartId} {g : Group} {u : ℕ} {space : Bool} {a : ℕ} {i : ℕ} {pos : ℕ} {fa : W64} {k : ℕ} {r : VRun} (h : KeptBy VRun.s s0 r) :
    KeptBy (fun x : VVal × VRun => x.2.s) s0 (vreads n p g u space a i pos fa k r) := by
  unfold vreads
  split
  · exact KeptBy.sndOf (π:=VRun.s) h
  · extract_lets +onlyGivenNames x
    have hx : KeptBy third s0 x := kept_vwords h
    clear_value x
    split
    · exact KeptBy.sndOf (π:=VRun.s) (KeptBy.vrun h)
    · split
      · exact KeptBy.sndOf (π:=VRun.s) (KeptBy.vrun hx)
      · exact KeptBy.sndOf (π:=VRun.s) (KeptBy.vrun hx)

theorem kept_vread {s0 : State} {n : VeId} {p : PartId} {g : Group} {u : ℕ} {space : Bool} {a : ℕ} {i : ℕ} {pos : ℕ} {fa : W64} {r : VRun} (h : KeptBy VRun.s s0 r) :
    KeptBy (fun x : (W128 × Bool) × VRun => x.2.s) s0 (vread n p g u space a i pos fa r) := by
  unfold vread
  extract_lets +onlyGivenNames x
  have hx : KeptBy (fun x : VVal × VRun => x.2.s) s0 x := kept_vreads h
  clear_value x
  exact KeptBy.sndOf (π:=VRun.s) (KeptBy.intro hx)

theorem kept_vecCache {s0 : State} {s : State} {n : VeId} {space : Bool} {a : ℕ} {v : W128} (h : Kept s0 s) :
    Kept s0 (vecCache s n space a v) := by
  unfold vecCache
  exact kept_modSeq h

theorem kept_vstore {s0 : State} {n : VeId} {p : PartId} {space : Bool} {a : ℕ} {v : W128} {s : State} (h : Kept s0 s) :
    KeptBy Prod.snd s0 (vstore n p space a v s) := by
  unfold vstore
  extract_lets +onlyGivenNames x
  have hx : KeptBy Acc.s s0 x := kept_veWrite h
  clear_value x
  split
  · exact KeptBy.snd hx
  · split
    · exact KeptBy.snd hx
    · exact KeptBy.snd (kept_vecCache hx)

theorem kept_vwrite {s0 : State} {g : Group} {space : Bool} {a : ℕ} {i : ℕ} {last : ℕ} {pos : ℕ} {fa : W64} {v : W128} {r : VRun} (h : KeptBy VRun.s s0 r) :
    KeptBy VRun.s s0 (vwrite g space a i last pos fa v r) := by
  unfold vwrite
  split
  · exact h
  · extract_lets +onlyGivenNames d
    have hd : KeptBy Prod.snd s0 d := by
      unfold d
      split
      · exact kept_drawWord h
      · exact KeptBy.snd h
    clear_value d
    exact KeptBy.vrun hd

theorem kept_vwrites {s0 : State} {g : Group} {space : Bool} {a : ℕ} {i : ℕ} {pos : ℕ} {fa : W64} {l : List W128} {a1 : VRun} (h : KeptBy VRun.s s0 a1) :
    KeptBy VRun.s s0 (vwrites g space a i pos fa l a1) := by
  induction l generalizing a a1 with
  | nil =>
    rw [vwrites]
    exact h
  | cons x xs ih =>
    rw [vwrites]
    exact KeptBy.intro (ih (kept_vwrite h))

theorem kept_vindex {s0 : State} {n : VeId} {p : PartId} {g : Group} {u : ℕ} {q : QInstr} {ir : ℕ} {i : ℕ} {pos : ℕ} {r : VRun} (h : KeptBy VRun.s s0 r) :
    KeptBy (fun x : (ℕ × Bool) × VRun => x.2.s) s0 (vindex n p g u q ir i pos r) := by
  unfold vindex
  extract_lets +onlyGivenNames w lane
  clear_value w
  split
  · exact KeptBy.sndOf (π:=VRun.s) h
  · extract_lets +onlyGivenNames y a x
    have hx : KeptBy (fun x : (W128 × Bool) × VRun => x.2.s) s0 x := kept_vread h
    clear_value y a x
    refine KeptBy.sndOf (π:=VRun.s) ?_
    extract_lets +onlyGivenNames v
    have hv : KeptBy VRun.s s0 v := KeptBy.intro hx
    clear_value v
    exact KeptBy.vrun hv

theorem kept_vaddr {s0 : State} {n : VeId} {p : PartId} {g : Group} {u : ℕ} {q : QInstr} {ins : VIns} {x : ℕ} {e : ℕ} {i : ℕ} {pos : ℕ} {r : VRun} (h : KeptBy VRun.s s0 r) :
    KeptBy (fun x : Option ℕ × VRun => x.2.s) s0 (vaddr n p g u q ins x e i pos r) := by
  unfold vaddr
  extract_lets +onlyGivenNames d
  clear_value d
  split
  · extract_lets +onlyGivenNames y a out
    have hy : KeptBy (fun x : (ℕ × Bool) × VRun => x.2.s) s0 y := kept_vindex h
    clear_value y a out
    split
    · exact KeptBy.sndOf (π:=VRun.s) (KeptBy.intro hy)
    · split
      · exact KeptBy.sndOf (π:=VRun.s) (kept_VRun_fail (KeptBy.intro hy))
      · exact KeptBy.sndOf (π:=VRun.s) (KeptBy.intro hy)
  · exact KeptBy.sndOf (π:=VRun.s) h

theorem kept_voperand {s0 : State} {n : VeId} {p : PartId} {g : Group} {u : ℕ} {q : QInstr} {ins : VIns} {x : ℕ} {e : ℕ} {i : ℕ} {pos : ℕ} {r : VRun} (h : KeptBy VRun.s s0 r) :
    KeptBy (fun x : VVal × VRun => x.2.s) s0 (voperand n p g u q ins x e i pos r) := by
  unfold voperand
  split
  · exact KeptBy.sndOf (π:=VRun.s) h
  · split
    · exact KeptBy.sndOf (π:=VRun.s) h
    · extract_lets +onlyGivenNames a d v
      have ha : KeptBy (fun x : Option ℕ × VRun => x.2.s) s0 a := kept_vaddr h
      have hv : KeptBy (fun x : VVal × VRun => x.2.s) s0 v := by
        unfold v
        split
        · exact kept_vreads (KeptBy.intro ha)
        · exact KeptBy.sndOf (π:=VRun.s) (KeptBy.intro ha)
      clear_value a d v
      refine KeptBy.sndOf (π:=VRun.s) ?_
      extract_lets +onlyGivenNames v1
      have hv1 : KeptBy VRun.s s0 v1 := KeptBy.intro hv
      clear_value v1
      exact KeptBy.vrun hv1

theorem kept_vcontrol {s0 : State} {n : VeId} {p : PartId} {g : Group} {u : ℕ} {q : QInstr} {ins : VIns} {x : ℕ} {i : ℕ} {pos : ℕ} {r : VRun} (h : KeptBy VRun.s s0 r) :
    KeptBy (fun x : VVal × VRun => x.2.s) s0 (vcontrol n p g u q ins x i pos r) := by
  unfold vcontrol
  extract_lets +onlyGivenNames c cw
  clear_value c cw
  split
  · exact KeptBy.sndOf (π:=VRun.s) h
  · extract_lets +onlyGivenNames d a v
    have hv : KeptBy (fun x : VVal × VRun => x.2.s) s0 v := kept_vreads h
    clear_value d a v
    refine KeptBy.sndOf (π:=VRun.s) ?_
    split
    · extract_lets +onlyGivenNames v1
      have hv1 : KeptBy VRun.s s0 v1 := KeptBy.intro hv
      clear_value v1
      exact KeptBy.vrun hv1
    · exact KeptBy.intro hv

theorem kept_undRes {s0 : State} {s : State} {x : VRes} (h : Kept s0 s) :
    KeptBy Prod.snd s0 (undRes s x) := by
  unfold undRes
  extract_lets +onlyGivenNames o b
  have ho : KeptBy Prod.snd s0 o := KeptBy.intro (kept_foldl_snd h (fun _ _ h4 => KeptBy.snd (kept_drawWord h4)))
  have hb : KeptBy Prod.snd s0 b := kept_drawNat ho
  clear_value o b
  exact KeptBy.snd hb

theorem kept_substRes {s0 : State} {s : State} {v : W128} {x : VRes} (h : Kept s0 s) :
    KeptBy Prod.snd s0 (substRes s v x) := by
  unfold substRes
  split
  · exact KeptBy.snd h
  · exact KeptBy.snd h
  · exact KeptBy.snd (kept_drawWord h)

theorem kept_vinputs {s0 : State} {n : VeId} {p : PartId} {g : Group} {i : ℕ} {pos : ℕ} {q : QInstr} {ins : VIns} {r : VRun} (h : KeptBy VRun.s s0 r) :
    KeptBy (fun x : (VVal × VVal × VVal × VVal) × VRun => x.2.s) s0 (vinputs n p g i pos q ins r) := by
  unfold vinputs
  extract_lets +onlyGivenNames us ro isExp get a b c k
  have ha : KeptBy (fun x : VVal × VRun => x.2.s) s0 a := by
    unfold a
    unfold get
    split
    · exact KeptBy.sndOf (π:=VRun.s) (KeptBy.vrun h)
    · exact kept_voperand (KeptBy.vrun h)
  have hb : KeptBy (fun x : VVal × VRun => x.2.s) s0 b := by
    unfold b
    unfold get
    split
    · exact KeptBy.sndOf (π:=VRun.s) (KeptBy.intro ha)
    · exact kept_voperand (KeptBy.intro ha)
  have hc : KeptBy (fun x : VVal × VRun => x.2.s) s0 c := by
    unfold c
    unfold get
    split
    · exact KeptBy.sndOf (π:=VRun.s) (KeptBy.intro hb)
    · exact kept_voperand (KeptBy.intro hb)
  have hk : KeptBy (fun x : VVal × VRun => x.2.s) s0 k := by
    unfold k
    split
    · exact kept_vcontrol (KeptBy.intro hc)
    · exact kept_vcontrol (KeptBy.intro hc)
    · exact KeptBy.sndOf (π:=VRun.s) (KeptBy.intro hc)
  clear_value us ro isExp a b c k
  refine KeptBy.sndOf (π:=VRun.s) ?_
  split
  · extract_lets +onlyGivenNames v
    have hv : KeptBy VRun.s s0 v := KeptBy.intro hk
    clear_value v
    exact KeptBy.vrun hv
  · exact KeptBy.intro hk

theorem kept_vdest {s0 : State} {n : VeId} {p : PartId} {g : Group} {forced : Bool} {i : ℕ} {pos : ℕ} {q : QInstr} {ins : VIns} {r : VRun} (h : KeptBy VRun.s s0 r) :
    KeptBy (fun x : Option ℕ × VRun => x.2.s) s0 (vdest n p g forced i pos q ins r) := by
  unfold vdest
  extract_lets +onlyGivenNames d seqA de
  clear_value d de
  split
  · extract_lets +onlyGivenNames ad
    clear_value ad
    exact KeptBy.sndOf (π:=VRun.s) h
  · extract_lets +onlyGivenNames t
    have ht : KeptBy (fun x : Option ℕ × VRun => x.2.s) s0 t := kept_vaddr h
    clear_value t
    split
    · extract_lets +onlyGivenNames own
      clear_value own
      refine KeptBy.sndOf (π:=VRun.s) ?_
      split
      · exact kept_VRun_fail (KeptBy.intro ht)
      · exact KeptBy.intro ht
    · exact ht

theorem kept_vresult {s0 : State} {n : VeId} {i : ℕ} {pos : ℕ} {q : QInstr} {ins : VIns} {forced : Bool} {v : VVal × VVal × VVal × VVal} {r : VRun} (h : KeptBy VRun.s s0 r) :
    KeptBy third s0 (vresult n i pos q ins forced v r) := by
  unfold vresult
  extract_lets +onlyGivenNames e us subst hasPin pin y und
  clear_value e us subst hasPin pin y und
  split
  · extract_lets +onlyGivenNames z
    have hz : KeptBy Prod.snd s0 z := kept_substRes h
    clear_value z
    exact KeptBy.third (kept_modEng hz)
  · split
    · extract_lets +onlyGivenNames z
      have hz : KeptBy Prod.snd s0 z := kept_undRes h
      clear_value z
      exact KeptBy.third hz
    · exact KeptBy.third h

theorem kept_vstep {s0 : State} {n : VeId} {p : PartId} {g : Group} {i : ℕ} {pos : ℕ} {q : QInstr} {ins : VIns} {gateUnd : Bool} {rs : VRun} (h : KeptBy VRun.s s0 rs) :
    KeptBy VRun.s s0 (vstep n p g i pos q ins gateUnd rs) := by
  unfold vstep
  split
  · exact h
  · extract_lets +onlyGivenNames masked r0 forced sel
    have hr0 : KeptBy VRun.s s0 r0 := by
      unfold r0
      split
      · exact KeptBy.vrun h
      · exact h
    clear_value masked r0 forced sel
    split
    · exact hr0
    · extract_lets +onlyGivenNames v r
      have hv : KeptBy (fun x : (VVal × VVal × VVal × VVal) × VRun => x.2.s) s0 v := by
        unfold v
        split
        · exact KeptBy.sndOf (π:=VRun.s) hr0
        · exact kept_vinputs hr0
      have hr : KeptBy VRun.s s0 r := KeptBy.intro hv
      clear_value v r
      split
      · exact hr
      · extract_lets +onlyGivenNames z x
        have hz : KeptBy third s0 z := kept_vresult hr
        clear_value z x
        split
        · exact kept_VRun_fail hr
        · extract_lets +onlyGivenNames pb r2
          have hr2 : KeptBy VRun.s s0 r2 := KeptBy.vrun hz
          clear_value pb r2
          split
          · exact hr2
          · split
            · exact KeptBy.vrun hr2
            · split
              · exact hr2
              · extract_lets +onlyGivenNames d t r4
                have ht : KeptBy (fun x : Option ℕ × VRun => x.2.s) s0 t := kept_vdest hr2
                have hr4 : KeptBy VRun.s s0 r4 := by
                  unfold r4
                  split
                  · exact KeptBy.intro ht
                  · exact kept_vwrites (KeptBy.intro ht)
                clear_value d t r4
                split
                · exact KeptBy.vrun hr4
                · exact hr4

theorem kept_vsteps {s0 : State} {n : VeId} {p : PartId} {g : Group} {i : ℕ} {gateUnd : Bool} {l : List (QInstr × VIns)} {n1 : ℕ} {a : VRun} (h : KeptBy VRun.s s0 a) :
    KeptBy VRun.s s0 (vsteps n p g i gateUnd l n1 a) := by
  induction l generalizing n1 a with
  | nil =>
    rw [vsteps]
    exact h
  | cons x xs ih =>
    rw [vsteps]
    exact KeptBy.intro (ih (kept_vstep h))

theorem kept_vskip {s0 : State} {i : ℕ} {l : List (QInstr × VIns)} {r : VRun} (h : KeptBy VRun.s s0 r) :
    KeptBy VRun.s s0 (vskip i l r) := by
  unfold vskip
  split
  · exact h
  · refine KeptBy.intro ?_
    refine kept_foldl_of (π:=VRun.s) h ?_
    intro y4 x41 h4
    split
    · split
      · exact KeptBy.vrun h4
      · exact KeptBy.intro h4
    · exact KeptBy.intro h4

theorem kept_orMarks {s0 : State} {n : VeId} {p : PartId} {ms : List (Nat × Nat)} {r : VRun} (h : KeptBy VRun.s s0 r) :
    KeptBy VRun.s s0 (orMarks n p ms r) := by
  obtain ⟨dev, hdev⟩ := exists_eq (a' := partDev)
  rw [show orMarks = _ by delta orMarks; exact rfl, ← hdev]
  refine kept_foldl_of (π := VRun.s) h fun y w hy => ?_
  split
  · exact hy
  · split
    · exact hy
    · extract_lets a mine i v
      split
      · exact kept_VRun_fail hy
      · extract_lets x
        have hx : KeptBy Acc.s s0 x := kept_via hy fun _ ht => kept_atomicWord ht
        clear_value x
        split
        · exact .vrun hy
        · split
          · exact .vrun hx
          · exact .vrun hx

theorem kept_putWords {s0 : State} {n : VeId} {p : PartId} {limit : ℕ} {l : List VWord} {s : State} (h : Kept s0 s) :
    KeptBy Prod.snd s0 (putWords n p limit l s) := by
  induction l generalizing s with
  | nil =>
    rw [putWords]
    exact KeptBy.snd h
  | cons x xs ih =>
    rw [putWords]
    split
    · exact KeptBy.intro (ih h)
    · extract_lets +onlyGivenNames x1
      have hx1 : KeptBy Prod.snd s0 x1 := kept_vstore h
      clear_value x1
      split
      · exact KeptBy.snd hx1
      · exact KeptBy.intro (ih hx1)

theorem kept_commitStrip {s0 : State} {n : VeId} {p : PartId} {vl : ℕ} {r0 : VRun} (h : KeptBy VRun.s s0 r0) :
    KeptBy VRun.s s0 (commitStrip n p vl r0) := by
  unfold commitStrip
  split
  · exact h
  · extract_lets +onlyGivenNames r x t
    have hr : KeptBy VRun.s s0 r := by
      unfold r
      split
      · exact kept_orMarks h
      · exact h
    have hx : KeptBy Prod.snd s0 x := kept_putWords hr
    have ht : KeptBy VRun.s s0 t := KeptBy.vrun hx
    clear_value r x t
    split
    · exact ht
    · exact KeptBy.vrun ht
    · exact KeptBy.vrun ht

theorem kept_endStrip {s0 : State} {n : VeId} {p : PartId} {vl : ℕ} {r : VRun} (h : KeptBy VRun.s s0 r) :
    KeptBy VRun.s s0 (endStrip n p vl r) := by
  unfold endStrip
  split
  · exact KeptBy.vrun h
  · exact kept_commitStrip h

theorem kept_vblock {s0 : State} {n : VeId} {p : PartId} {g : Group} {l : List (QInstr × VIns)} {q : QInstr} {gated : Bool} {w : ℕ} {r0 : VRun} (h : KeptBy VRun.s s0 r0) :
    KeptBy VRun.s s0 (vblock n p g l q gated w r0) := by
  unfold vblock
  extract_lets +onlyGivenNames r1 hi r2 r3
  have hr1 : KeptBy VRun.s s0 r1 := by
    unfold r1
    refine KeptBy.intro ?_
    refine kept_foldl_of (π:=VRun.s) h ?_
    intro y4 x41 h4
    extract_lets +onlyGivenNames d a v v1
    have hv : KeptBy (fun x : (W128 × Bool) × VRun => x.2.s) s0 v := kept_vread (KeptBy.intro h4)
    have hv1 : KeptBy VRun.s s0 v1 := KeptBy.intro hv
    clear_value d a v v1
    exact KeptBy.vrun hv1
  have hr2 : KeptBy VRun.s s0 r2 := by
    unfold r2
    refine KeptBy.intro ?_
    refine kept_foldl_of (π:=VRun.s) hr1 ?_
    intro y4 x41 h4
    extract_lets +onlyGivenNames i1
    clear_value i1
    split
    · exact kept_vskip (KeptBy.intro h4)
    · exact kept_vsteps (KeptBy.vrun h4)
  have hr3 : KeptBy VRun.s s0 r3 := by
    unfold r3
    refine KeptBy.intro ?_
    refine kept_foldl_of (π:=VRun.s) hr2 ?_
    intro y4 x41 h4
    split
    · exact KeptBy.intro h4
    · extract_lets +onlyGivenNames d a r'
      have hr' : KeptBy VRun.s s0 r' := kept_vwrite (KeptBy.intro h4)
      clear_value d a r'
      split
      · split
        · exact KeptBy.vrun hr'
        · exact hr'
      · exact hr'
  clear_value r1 hi r2 r3
  split
  · exact kept_endStrip hr3
  · exact hr3

theorem kept_vdrain {s0 : State} {n : VeId} {p : PartId} {vl : ℕ} {r0 : VRun} (h : KeptBy VRun.s s0 r0) :
    KeptBy VRun.s s0 (vdrain n p vl r0) := by
  unfold vdrain
  extract_lets +onlyGivenNames r
  have hr : KeptBy VRun.s s0 r := KeptBy.intro (kept_foldl_of (π:=VRun.s) h (fun _ _ h4 => kept_orMarks (KeptBy.intro h4)))
  clear_value r
  split
  · exact hr
  · extract_lets +onlyGivenNames x
    have hx : KeptBy Prod.snd s0 x := kept_putWords hr
    clear_value x
    split
    · exact KeptBy.vrun hx
    · exact KeptBy.vrun hx
    · exact KeptBy.vrun hx

theorem kept_runGroup {s0 : State} {s : State} {n : VeId} {p : PartId} {g : Group} (h : Kept s0 s) :
    KeptBy VRun.s s0 (runGroup s n p g) := by
  unfold runGroup
  extract_lets +onlyGivenNames l r0
  have hr0 : KeptBy VRun.s s0 r0 := KeptBy.vrun h
  clear_value l r0
  split
  · exact hr0
  · extract_lets +onlyGivenNames r1
    have hr1 : KeptBy VRun.s s0 r1 := by
      unfold r1
      refine KeptBy.intro ?_
      refine kept_foldl_of (π:=VRun.s) hr0 ?_
      intro y6 x61 h6
      split
      · exact kept_vblock (KeptBy.intro h6)
      · exact KeptBy.intro h6
    clear_value r1
    split
    · exact kept_vdrain hr1
    · exact hr1

theorem kept_vissueOp {s0 : State} {s : State} {n : VeId} {enc : W32} {det : W32} {len : ℕ} (h : Kept s0 s) :
    Kept s0 (vissueOp s n enc det len) := by
  unfold vissueOp
  refine kept_atFetch h ?_
  intro t2 h2
  split
  · exact kept_illegal h2
  · split
    · exact kept_illegal h2
    · split
      · exact h2
      · extract_lets +onlyGivenNames q ins dec
        clear_value q ins dec
        split
        · split
          · exact kept_illegal h2
          · exact kept_retire (kept_modEng h2)
        · split
          · exact kept_illegal h2
          · exact kept_retire (kept_modEng h2)

theorem kept_vfEvent {s0 : State} {s : State} {n : VeId} {cause : ℕ} {elem : ℕ} (h : Kept s0 s) :
    Kept s0 (vfEvent s n cause elem) := by
  unfold vfEvent
  exact kept_raiseN h

theorem kept_vfRecord {s0 : State} {s : State} {n : VeId} {g : Group} {f : VFault} {rep : ℕ} (h : Kept s0 s) :
    Kept s0 (vfRecord s n g f rep) := by
  unfold vfRecord
  exact kept_modEng h

theorem kept_reportFault {s0 : State} {s : State} {n : VeId} {p : PartId} {g : Group} {f : VFault} {sunk : Sunk} (h : Kept s0 s) :
    Kept s0 (reportFault s n p g f sunk) := by
  unfold reportFault
  extract_lets +onlyGivenNames rep s1 s2
  have hs1 : Kept s0 s1 := kept_sinkVe (kept_withdraw (kept_vfEvent (kept_vfRecord h)))
  have hs2 : Kept s0 s2 := kept_modEng hs1
  clear_value rep s1 s2
  split
  · exact kept_failSegment hs2
  · exact kept_modEng hs2

theorem kept_beginGroup {s0 : State} {s : State} {n : VeId} {k : ℕ} {staged : Bool} (h : Kept s0 s) :
    Kept s0 (beginGroup s n k staged) := by
  unfold beginGroup
  exact kept_modEng h

theorem kept_groupStart {s0 : State} {s : State} {n : VeId} {readsIssued : Bool} (h : Kept s0 s) :
    Kept s0 (groupStart s n readsIssued) := by
  unfold groupStart
  split
  · exact h
  · split
    · exact h
    · split
      · exact h
      · split
        · split
          · exact kept_reportFault h
          · exact kept_beginGroup h
        · split
          · exact h
          · extract_lets +onlyGivenNames det
            clear_value det
            split
            · exact h
            · split
              · exact h
              · exact kept_beginGroup h

theorem kept_completeGroup {s0 : State} {s : State} {n : VeId} {g : Group} {r : VRun} (h : Kept s0 s) (_h1 : KeptBy VRun.s s0 r) :
    Kept s0 (completeGroup s n g r) := by
  unfold completeGroup
  extract_lets +onlyGivenNames fl s1
  have hs1 : Kept s0 s1 := kept_modEng h
  clear_value fl s1
  split
  · exact hs1
  · extract_lets +onlyGivenNames s2
    have hs2 : Kept s0 s2 := kept_vfEvent (kept_vfRecord hs1)
    clear_value s2
    exact kept_modEng hs2

theorem kept_groupComplete {s0 : State} {s : State} {n : VeId} (h : Kept s0 s) :
    Kept s0 (groupComplete s n) := by
  unfold groupComplete
  split
  · split
    · exact h
    · extract_lets +onlyGivenNames r
      have hr : KeptBy VRun.s s0 r := kept_runGroup h
      clear_value r
      split
      · exact kept_completeGroup hr hr
      · split
        · exact kept_noteWaitAt h
        · exact h
  · exact h

theorem kept_elementFault {s0 : State} {s : State} {n : VeId} {sunk : Sunk} (h : Kept s0 s) :
    Kept s0 (elementFault s n sunk) := by
  unfold elementFault
  split
  · split
    · exact h
    · extract_lets +onlyGivenNames r
      have hr : KeptBy VRun.s s0 r := kept_runGroup h
      clear_value r
      split
      · exact kept_reportFault hr
      · exact h
  · exact h

theorem kept_faultEntry {s0 : State} {s : State} {n : VeId} (h : Kept s0 s) :
    Kept s0 (faultEntry s n) := by
  unfold faultEntry
  extract_lets +onlyGivenNames e
  clear_value e
  split
  · exact h
  · extract_lets +onlyGivenNames saved s1 s2
    have hs1 : Kept s0 s1 := kept_modEng h
    have hs2 : Kept s0 s2 := kept_modSeq hs1
    clear_value saved s1 s2
    exact kept_enter hs2

theorem kept_closeFault {s0 : State} {s : State} {n : VeId} {o : OpenFault} (h : Kept s0 s) :
    Kept s0 (closeFault s n o) := by
  unfold closeFault
  extract_lets +onlyGivenNames s1
  have hs1 : Kept s0 s1 := kept_modSeq h
  clear_value s1
  split
  · split
    · exact kept_failSegment hs1
    · exact hs1
  · exact kept_withdraw (kept_modEng hs1)

theorem kept_refreshDone {s0 : State} {s : State} {p : PartId} (h : Kept s0 s) :
    Kept s0 (refreshDone s p) := by
  unfold refreshDone
  split
  · exact h
  · extract_lets +onlyGivenNames d
    clear_value d
    exact kept_modPart h

theorem kept_slotStartOp {s0 : State} {s : State} {p : PartId} {i : ℕ} {others : List VeId} {idle : Bool} (h : Kept s0 s) :
    Kept s0 (slotStartOp s p i others idle) := by
  unfold slotStartOp
  split
  · split
    · split
      · exact h
      · extract_lets +onlyGivenNames port rival arb
        clear_value port rival arb
        split
        · exact h
        · split
          · exact h
          · extract_lets +onlyGivenNames key s1
            clear_value key s1
            extract_lets +onlyGivenNames s11
            have hs11 : Kept s0 s11 := Kept.upd (t:=s) rfl rfl h
            clear_value s11
            exact kept_modPart hs11
    · exact h
  · exact h

theorem kept_pickWord {s0 : State} {s : State} {l : List W128} (h : Kept s0 s) :
    KeptBy Prod.snd s0 (pickWord s l) := by
  unfold pickWord
  split
  · exact KeptBy.snd h
  · extract_lets +onlyGivenNames d
    have hd : KeptBy Prod.snd s0 d := kept_drawNat h
    clear_value d
    exact KeptBy.snd hd

theorem kept_slotGet {s0 : State} {direct : Bool} {s : State} {p : PartId} {n : VeId} {code : ℕ} {space : Bool} {off : ℕ} (h : Kept s0 s) :
    KeptBy Acc.s s0 (slotGet direct s p n code space off) := by
  unfold slotGet
  split
  · split
    · exact kept_readWord h
    · exact KeptBy.acc h
  · exact kept_readPart h

theorem kept_slotPut {s0 : State} {direct : Bool} {s : State} {p : PartId} {n : VeId} {code : ℕ} {space : Bool} {off : ℕ} {v : W128} (h : Kept s0 s) :
    KeptBy Acc.s s0 (slotPut direct s p n code space off v) := by
  unfold slotPut
  split
  · split
    · exact kept_writeWord h
    · exact KeptBy.acc h
  · exact kept_writePart h

theorem kept_slotReads {s0 : State} {direct : Bool} {p : PartId} {r0 : Run} {n : VeId} {ss : List Slot} {i : ℕ} {x : Slot} {n1 : ℕ} {n2 : ℕ} {a : SlotRun} (h : KeptBy SlotRun.s s0 a) :
    KeptBy SlotRun.s s0 (slotReads direct p r0 n ss i x n1 n2 a) := by
  induction n1 generalizing n2 a with
  | zero =>
    rw [slotReads]
    exact h
  | succ n1 ih =>
    rw [slotReads]
    split
    · exact h
    · extract_lets +onlyGivenNames r
      have hr : KeptBy Acc.s s0 r := kept_slotGet h
      clear_value r
      split
      · exact KeptBy.slotRun h
      · split
        · exact KeptBy.slotRun hr
        · extract_lets +onlyGivenNames key w
          have hw : KeptBy Prod.snd s0 w := kept_pickWord hr
          clear_value key w
          exact KeptBy.intro (ih (KeptBy.slotRun hw))

theorem kept_slotWrites {s0 : State} {direct : Bool} {p : PartId} {n : VeId} {m : VeId} {ss : List Slot} {i : ℕ} {x : Slot} {l : List W128} {n1 : ℕ} {a : SlotRun} (h : KeptBy SlotRun.s s0 a) :
    KeptBy SlotRun.s s0 (slotWrites direct p n m ss i x l n1 a) := by
  induction l generalizing n1 a with
  | nil =>
    rw [slotWrites]
    exact h
  | cons x xs ih =>
    rw [slotWrites]
    split
    · exact h
    · extract_lets +onlyGivenNames key old d r
      have hd : KeptBy Prod.snd s0 d := kept_pickWord h
      have hr : KeptBy Acc.s s0 r := kept_slotPut hd
      clear_value key old d r
      split
      · exact KeptBy.slotRun h
      · split
        · exact KeptBy.slotRun hr
        · exact KeptBy.intro (ih (KeptBy.slotRun hr))

theorem kept_slotOr {s0 : State} {direct : Bool} {s : State} {n : VeId} {d : ℕ} {v : W128} (h : Kept s0 s) :
    KeptBy Acc.s s0 (slotOr direct s n d v) := by
  unfold slotOr
  split
  · split
    · exact kept_atomicWord h
    · exact KeptBy.acc h
  · exact kept_via h (fun _ h3 => kept_atomicWord h3)

theorem kept_slotMarks {s0 : State} {direct : Bool} {p : PartId} {n : VeId} {im : Image} {off : ℕ} {words : ℕ} {t : SlotRun} (h : KeptBy SlotRun.s s0 t) :
    KeptBy SlotRun.s s0 (slotMarks direct p n im off words t) := by
  unfold slotMarks
  split
  · exact h
  · extract_lets +onlyGivenNames es els
    clear_value es els
    refine KeptBy.intro ?_
    refine kept_foldl_of (π:=SlotRun.s) h ?_
    intro y5 x51 h5
    split
    · exact KeptBy.intro h5
    · extract_lets +onlyGivenNames a v
      clear_value a v
      split
      · exact KeptBy.slotRun h5
      · extract_lets +onlyGivenNames r
        have hr : KeptBy Acc.s s0 r := kept_slotOr h5
        clear_value r
        split
        · exact KeptBy.slotRun h5
        · split
          · exact KeptBy.slotRun hr
          · exact KeptBy.slotRun hr

theorem kept_slotFrags {s0 : State} {direct : Bool} {p : PartId} {n : VeId} {m : VeId} {ss : List Slot} {i : ℕ} {x : Slot} {im : Image} {base : ℕ} {n1 : ℕ} {l : List W128} {n2 : ℕ} {a : SlotRun} (h : KeptBy SlotRun.s s0 a) :
    KeptBy SlotRun.s s0 (slotFrags direct p n m ss i x im base n1 l n2 a) := by
  induction n1 generalizing l n2 a with
  | zero =>
    rw [slotFrags]
    exact h
  | succ n1 ih =>
    rw [slotFrags]
    split
    · exact h
    · extract_lets +onlyGivenNames off k t1 t2
      have ht1 : KeptBy SlotRun.s s0 t1 := kept_slotWrites h
      have ht2 : KeptBy SlotRun.s s0 t2 := by
        unfold t2
        split
        · exact kept_slotMarks ht1
        · exact ht1
      clear_value off k t1 t2
      exact KeptBy.intro (ih ht2)

theorem kept_slotMove {s0 : State} {direct : Bool} {s : State} {p : PartId} {r : Run} {i : ℕ} {x : Slot} {n : VeId} {m : VeId} {im : Image} {words : ℕ} (h : Kept s0 s) :
    KeptBy SlotRun.s s0 (slotMove direct s p r i x n m im words) := by
  unfold slotMove
  extract_lets +onlyGivenNames ss t1
  have ht1 : KeptBy SlotRun.s s0 t1 := kept_slotReads (KeptBy.slotRun h)
  clear_value ss t1
  exact kept_slotFrags ht1

theorem kept_slotRun {s0 : State} {s : State} {p : PartId} {r : Run} {i : ℕ} {x : Slot} {n : VeId} {m : VeId} {im : Image} {words : ℕ} (h : Kept s0 s) :
    KeptBy SlotRun.s s0 (slotRun s p r i x n m im words) := by
  unfold slotRun
  split
  · exact kept_slotMove h
  · extract_lets +onlyGivenNames t
    have ht : KeptBy SlotRun.s s0 t := kept_slotReads (KeptBy.slotRun h)
    clear_value t
    split
    · exact ht
    · exact KeptBy.slotRun ht

theorem kept_slotCompleteOp {s0 : State} {s : State} {p : PartId} {i : ℕ} (h : Kept s0 s) :
    Kept s0 (slotCompleteOp s p i) := by
  unfold slotCompleteOp
  split
  · split
    · split
      · exact h
      · extract_lets +onlyGivenNames t
        have ht : KeptBy SlotRun.s s0 t := kept_slotRun h
        clear_value t
        split
        · exact h
        · extract_lets +onlyGivenNames s1
          have hs1 : Kept s0 s1 := kept_modPart ht
          clear_value s1
          exact kept_refreshDone hs1
    · exact h
  · exact h

theorem kept_exchangeStops {s0 : State} {s : State} {p : PartId} {but : Option ℕ} {cut : ExchCut} (h : Kept s0 s) :
    Kept s0 (exchangeStops s p but cut) := by
  unfold exchangeStops
  extract_lets +onlyGivenNames s1
  have hs1 : Kept s0 s1 := by
    unfold s1
    refine kept_foldl h ?_
    intro t3 x31 h3
    split
    · split
      · split
        · exact h3
        · extract_lets +onlyGivenNames u
          have hu : KeptBy SlotRun.s s0 u := kept_slotMove h3
          clear_value u
          exact kept_modPart hu
      · exact h3
    · exact h3
  clear_value s1
  exact kept_foldl hs1 (fun _ _ h3 => kept_sinkResponses h3)

theorem kept_faultRun {s0 : State} {s : State} {p : PartId} {r : Run} {i : ℕ} {x : Slot} {n : VeId} {m : VeId} {im : Image} {cut : ExchCut} (h : Kept s0 s) :
    KeptBy SlotRun.s s0 (faultRun s p r i x n m im cut) := by
  unfold faultRun
  extract_lets +onlyGivenNames runs k whole src
  have hwhole : KeptBy SlotRun.s s0 whole := kept_slotRun h
  have hsrc : KeptBy SlotRun.s s0 src := kept_slotReads (KeptBy.slotRun h)
  clear_value runs k whole src
  split
  · extract_lets +onlyGivenNames u v
    have hu : KeptBy SlotRun.s s0 u := kept_slotMove h
    have hv : KeptBy SlotRun.s s0 v := kept_slotReads (KeptBy.slotRun hu)
    clear_value u v
    exact KeptBy.slotRun hv
  · split
    · exact hwhole
    · extract_lets +onlyGivenNames u
      have hu : KeptBy SlotRun.s s0 u := kept_slotMove h
      clear_value u
      exact KeptBy.slotRun hu

theorem kept_exchangeFails {s0 : State} {s : State} {p : PartId} {i : ℕ} {n : VeId} {st : ℕ} {atDst : Bool} {space : Bool} {a : ℕ} {cut : ExchCut} (h : Kept s0 s) :
    Kept s0 (exchangeFails s p i n st atDst space a cut) := by
  unfold exchangeFails
  extract_lets +onlyGivenNames s1
  have hs1 : Kept s0 s1 := kept_raiseN (kept_exchangeStops h)
  clear_value s1
  exact kept_failSegment hs1

theorem kept_exchangeFaultOp {s0 : State} {s : State} {p : PartId} {i : ℕ} {cut : ExchCut} (h : Kept s0 s) :
    Kept s0 (exchangeFaultOp s p i cut) := by
  unfold exchangeFaultOp
  split
  · split
    · split
      · exact h
      · extract_lets +onlyGivenNames t
        have ht : KeptBy SlotRun.s s0 t := kept_faultRun h
        clear_value t
        split
        · exact kept_exchangeFails ht
        · exact h
    · exact h
  · exact h

theorem kept_freeCut {s0 : State} {s : State} {p : PartId} (h : Kept s0 s) :
    KeptBy Prod.snd s0 (freeCut s p) := by
  unfold freeCut
  split
  · exact KeptBy.snd h
  · extract_lets +onlyGivenNames a b
    have ha : KeptBy Prod.snd s0 a := by
      unfold a
      refine KeptBy.intro ?_
      refine kept_foldl_snd h ?_
      intro y5 x51 h5
      extract_lets +onlyGivenNames d
      have hd : KeptBy Prod.snd s0 d := kept_drawNat h5
      clear_value d
      exact KeptBy.snd hd
    have hb : KeptBy Prod.snd s0 b := by
      unfold b
      refine KeptBy.intro ?_
      refine kept_foldl_snd ha ?_
      intro y5 x51 h5
      extract_lets +onlyGivenNames d
      have hd : KeptBy Prod.snd s0 d := kept_drawNat h5
      clear_value d
      exact KeptBy.snd hd
    clear_value a b
    exact KeptBy.snd hb

theorem kept_barrierReleaseOp {s0 : State} {s : State} {p : PartId} (h : Kept s0 s) :
    Kept s0 (barrierReleaseOp s p) := by
  unfold barrierReleaseOp
  split
  · exact h
  · split
    · exact h
    · extract_lets +onlyGivenNames ns s1
      have hs1 : Kept s0 s1 := kept_modPart h
      clear_value ns s1
      exact kept_tablesRelease hs1

theorem kept_barrierTimeoutOp {s0 : State} {s : State} {p : PartId} {cut : ExchCut} (h : Kept s0 s) :
    Kept s0 (barrierTimeoutOp s p cut) := by
  unfold barrierTimeoutOp
  split
  · exact h
  · extract_lets +onlyGivenNames late
    clear_value late
    split
    · exact h
    · extract_lets +onlyGivenNames s1 low dt
      have hs1 : Kept s0 s1 := kept_foldl h (fun _ _ h6 => kept_raiseN h6)
      clear_value s1 low dt
      exact kept_failSegment (kept_exchangeStops (kept_raiseN hs1))

theorem kept_imgPut {s0 : State} {s : State} {p : PartId} {space : Bool} {off : ℕ} {w : W128} (h : Kept s0 s) :
    KeptBy ImgRes.s s0 (imgPut s p space off w) := by
  unfold imgPut
  extract_lets +onlyGivenNames r
  have hr : KeptBy Acc.s s0 r := kept_writePart h
  clear_value r
  split
  · exact KeptBy.imgRes hr
  · split
    · exact KeptBy.imgRes (kept_noteWaitAt h)
    · exact KeptBy.imgRes hr

theorem kept_imgPuts {s0 : State} {p : PartId} {space : Bool} {f : ℕ → W128} {l : List ℕ} {a : ImgRes} (h : KeptBy ImgRes.s s0 a) :
    KeptBy ImgRes.s s0 (imgPuts p space f l a) := by
  induction l generalizing a with
  | nil =>
    rw [imgPuts]
    exact h
  | cons x xs ih =>
    rw [imgPuts]
    split
    · exact h
    · exact KeptBy.intro (ih (kept_imgPut h))

theorem kept_imgAbandon {s0 : State} {s : State} {p : PartId} {cause : ℕ} (h : Kept s0 s) :
    KeptBy ImgRes.s s0 (imgAbandon s p cause) := by
  unfold imgAbandon
  exact KeptBy.imgRes (kept_modPart h)

theorem kept_loadFills {s0 : State} {s : State} {p : PartId} {im : Image} {ws : List W128} (h : Kept s0 s) :
    KeptBy ImgRes.s s0 (loadFills s p im ws) := by
  unfold loadFills
  extract_lets +onlyGivenNames z bufs base
  have hz : KeptBy ImgRes.s s0 z := by
    unfold z
    refine KeptBy.intro ?_
    refine kept_foldl_of (π:=ImgRes.s) h ?_
    intro y4 x41 h4
    split
    · exact kept_imgPuts (KeptBy.intro h4)
    · split
      · exact kept_imgPuts (KeptBy.intro h4)
      · exact KeptBy.intro h4
  clear_value z bufs base
  refine KeptBy.intro ?_
  refine kept_foldl_of (π:=ImgRes.s) hz ?_
  intro y4 x41 h4
  split
  · split
    · extract_lets +onlyGivenNames c
      clear_value c
      refine KeptBy.intro ?_
      refine kept_foldl_of (π:=ImgRes.s) h4 ?_
      intro y10 x101 h10
      extract_lets +onlyGivenNames b
      clear_value b
      exact kept_imgPuts (KeptBy.intro h10)
    · exact KeptBy.intro h4
  · exact KeptBy.intro h4

theorem kept_loadEnd {s0 : State} {s : State} {p : PartId} (h : Kept s0 s) :
    KeptBy ImgRes.s s0 (loadEnd s p) := by
  unfold loadEnd
  extract_lets +onlyGivenNames ws im bound
  clear_value ws im bound
  split
  · exact kept_imgAbandon h
  · extract_lets +onlyGivenNames r
    have hr : KeptBy ImgRes.s s0 r := by
      unfold r
      split
      · exact KeptBy.imgRes h
      · exact kept_loadFills h
    clear_value r
    split
    · exact KeptBy.imgRes hr
    · extract_lets +onlyGivenNames t
      clear_value t
      exact KeptBy.imgRes (kept_settle (kept_modPart hr))

theorem kept_fillGo {s0 : State} {s : State} {p : PartId} (h : Kept s0 s) :
    Kept s0 (fillGo s p) := by
  unfold fillGo
  extract_lets +onlyGivenNames q
  clear_value q
  split
  · split
    · exact h
    · extract_lets +onlyGivenNames r
      have hr : KeptBy ImgRes.s s0 r := kept_loadFills h
      clear_value r
      split
      · exact hr
      · exact kept_modPart hr
  · exact h

theorem kept_forward {s0 : State} {s : State} {kind : ℕ} {p : PartId} {k : ℕ} {x : ℕ} {body : List W128} (h : Kept s0 s) :
    Kept s0 (forward s kind p k x body) := by
  unfold forward
  split
  · exact kept_sendFrame h
  · exact kept_foldl h (fun _ _ h3 => kept_sendFrame h3)

theorem kept_blockFails {s0 : State} {s : State} {p : PartId} {k : Fin 8} {b : InBlock} {cause : ℕ} {detail : Option W64} (h : Kept s0 s) :
    Kept s0 (blockFails s p k b cause detail) := by
  unfold blockFails
  exact kept_ledgerItem (kept_modStream h)

theorem kept_dropLoad {s0 : State} {s : State} {p : PartId} {mark : ℕ} {left : ℕ} (h : Kept s0 s) :
    Kept s0 (dropLoad s p mark left) := by
  unfold dropLoad
  exact kept_modPart h

theorem kept_failBlock {s0 : State} {s : State} {p : PartId} {k : Fin 8} {b : InBlock} {cause : ℕ} {detail : Option W64} (h : Kept s0 s) :
    Kept s0 (failBlock s p k b cause detail) := by
  unfold failBlock
  extract_lets +onlyGivenNames s1
  have hs1 : Kept s0 s1 := kept_modStream h
  clear_value s1
  split
  · exact hs1
  · refine kept_blockFails ?_
    split
    · exact kept_dropLoad hs1
    · exact hs1

theorem kept_failSkip {s0 : State} {s : State} {p : PartId} {k : Fin 8} {b : InBlock} {cause : ℕ} {detail : Option W64} (h : Kept s0 s) :
    Kept s0 (failSkip s p k b cause detail) := by
  unfold failSkip
  extract_lets +onlyGivenNames s1
  have hs1 : Kept s0 s1 := kept_failBlock h
  clear_value s1
  split
  · exact kept_modStream hs1
  · exact hs1

theorem kept_takeJobs {s0 : State} {p : PartId} {n : ℕ} {s : State} (h : Kept s0 s) :
    Kept s0 (takeJobs p n s) := by
  induction n generalizing s with
  | zero =>
    rw [takeJobs]
    exact h
  | succ n ih =>
    rw [takeJobs]
    split
    · split
      · exact h
      · exact ih (kept_settle (kept_modPart (kept_modStream h)))
    · exact h

theorem kept_joinJobs {s0 : State} {s : State} {p : PartId} (h : Kept s0 s) :
    Kept s0 (joinJobs s p) := by
  unfold joinJobs
  exact kept_takeJobs h

theorem kept_completeBlock {s0 : State} {s : State} {p : PartId} {k : Fin 8} {b : InBlock} (h : Kept s0 s) :
    Kept s0 (completeBlock s p k b) := by
  unfold completeBlock
  extract_lets +onlyGivenNames s1 s2
  have hs1 : Kept s0 s1 := kept_modStream h
  have hs2 : Kept s0 s2 := kept_ledgerEnd hs1
  clear_value s1 s2
  split
  · exact kept_joinJobs hs2
  · exact hs2

theorem kept_loadBlock {s0 : State} {s : State} {p : PartId} (h : Kept s0 s) :
    KeptBy Prod.snd s0 (loadBlock s p) := by
  unfold loadBlock
  extract_lets +onlyGivenNames q
  clear_value q
  split
  · exact KeptBy.snd h
  · split
    · exact KeptBy.snd h
    · split
      · exact KeptBy.snd h
      · exact KeptBy.snd (kept_banksToHost (kept_modPart h))

theorem kept_headerWord {s0 : State} {s : State} {p : PartId} {k : Fin 8} {w : W128} (h : Kept s0 s) :
    Kept s0 (headerWord s p k w) := by
  unfold headerWord
  extract_lets +onlyGivenNames len b toDiscard skipped
  clear_value len b
  split
  · unfold toDiscard
    exact kept_modStream (kept_blockFails h)
  · split
    · unfold toDiscard
      exact kept_modStream (kept_blockFails h)
    · split
      · unfold skipped
        exact kept_modStream (kept_blockFails h)
      · extract_lets +onlyGivenNames r
        have hr : KeptBy Prod.snd s0 r := by
          unfold r
          split
          · exact kept_loadBlock h
          · exact KeptBy.snd h
        clear_value r
        split
        · unfold skipped
          exact kept_modStream (kept_blockFails hr)
        · extract_lets +onlyGivenNames s1
          have hs1 : Kept s0 s1 := kept_modStream hr
          clear_value s1
          split
          · exact kept_forward hs1
          · exact hs1

theorem kept_endRecvd {s0 : State} {s : State} {p : PartId} {k : Fin 8} (h : Kept s0 s) :
    Kept s0 (endRecvd s p k) := by
  unfold endRecvd
  split
  · exact h
  · split
    · exact h
    · extract_lets +onlyGivenNames s1 x
      have hs1 : Kept s0 s1 := kept_modStream h
      have hx : KeptBy ImgRes.s s0 x := by
        unfold x
        split
        · exact kept_loadEnd hs1
        · exact KeptBy.imgRes hs1
      clear_value s1 x
      split
      · exact kept_blockFails (kept_dropLoad (kept_modStream hx))
      · exact kept_completeBlock hx

theorem kept_endBlock {s0 : State} {s : State} {p : PartId} {k : Fin 8} {b : InBlock} (h : Kept s0 s) :
    Kept s0 (endBlock s p k b) := by
  unfold endBlock
  split
  · exact kept_failBlock h
  · extract_lets +onlyGivenNames s1 b1
    have hs1 : Kept s0 s1 := by
      unfold s1
      split
      · exact kept_forward h
      · exact h
    clear_value s1 b1
    exact kept_endRecvd (kept_modStream hs1)

theorem kept_wordTaken {s0 : State} {s : State} {p : PartId} (h : Kept s0 s) :
    Kept s0 (wordTaken s p) := by
  unfold wordTaken
  exact kept_modPart h

theorem kept_writeFails {s0 : State} {s : State} {p : PartId} {c : ℕ} {d : Option W64} (h : Kept s0 s) :
    Kept s0 (writeFails s p c d) := by
  unfold writeFails
  extract_lets +onlyGivenNames st mine
  clear_value st
  split
  · split
    · exact kept_failSkip h
    · exact kept_wordTaken h
  · split
    · exact kept_blockFails (kept_dropLoad (kept_modStream h))
    · exact kept_wordTaken h
  · exact kept_wordTaken h

theorem kept_drainLoad {s0 : State} {p : PartId} {n : ℕ} {s : State} (h : Kept s0 s) :
    Kept s0 (drainLoad p n s) := by
  induction n generalizing s with
  | zero =>
    rw [drainLoad]
    exact h
  | succ n ih =>
    rw [drainLoad]
    split
    · exact h
    · split
      · exact h
      · split
        · exact ih (kept_wordTaken h)
        · extract_lets +onlyGivenNames r
          have hr : KeptBy ImgRes.s s0 r := kept_imgPut h
          clear_value r
          split
          · exact ih (kept_wordTaken hr)
          · exact hr
          · exact ih (kept_writeFails hr)

theorem kept_loadGo {s0 : State} {s : State} {p : PartId} (h : Kept s0 s) :
    Kept s0 (loadGo s p) := by
  unfold loadGo
  exact kept_fillGo (kept_drainLoad h)

theorem kept_imageInWord {s0 : State} {s : State} {p : PartId} {b : InBlock} {w : W128} (h : Kept s0 s) :
    Kept s0 (imageInWord s p b w) := by
  unfold imageInWord
  extract_lets +onlyGivenNames b1 put
  clear_value b1
  split
  · split
    · refine kept_endBlock ?_
      unfold put
      exact kept_modStream h
    · unfold put
      exact kept_modStream h
  · split
    · exact kept_failSkip (kept_imgAbandon h)
    · extract_lets +onlyGivenNames b2 s1
      have hs1 : Kept s0 s1 := by
        unfold s1
        refine kept_loadGo ?_
        unfold put
        exact kept_modStream (kept_modPart h)
      clear_value b2 s1
      split
      · split
        · exact kept_endBlock hs1
        · exact hs1
      · exact hs1

theorem kept_feedWord {s0 : State} {s : State} {p : PartId} {k : Fin 8} {w : W128} (h : Kept s0 s) :
    Kept s0 (feedWord s p k w) := by
  unfold feedWord
  split
  · exact kept_headerWord h
  · extract_lets +onlyGivenNames b1
    clear_value b1
    split
    · exact kept_modStream h
    · split
      · exact kept_imageInWord h
      · extract_lets +onlyGivenNames s1
        have hs1 : Kept s0 s1 := kept_modStream h
        clear_value s1
        split
        · exact kept_endBlock hs1
        · exact hs1

theorem kept_readRaw {s0 : State} {p : PartId} {k : Fin 8} {n : ℕ} {s : State} (h : Kept s0 s) :
    Kept s0 (readRaw p k n s) := by
  induction n generalizing s with
  | zero =>
    rw [readRaw]
    exact h
  | succ n ih =>
    rw [readRaw]
    split
    · exact h
    · split
      · exact h
      · exact ih (kept_feedWord (kept_modStream h))

theorem kept_endBlocks {s0 : State} {s : State} {p : PartId} {k : Fin 8} (h : Kept s0 s) :
    Kept s0 (endBlocks s p k) := by
  unfold endBlocks
  extract_lets +onlyGivenNames t
  have ht : Kept s0 t := kept_endRecvd h
  clear_value t
  exact kept_readRaw ht

theorem kept_pushWord {s0 : State} {s : State} {p : PartId} {k : Fin 8} {w : W128} (h : Kept s0 s) :
    KeptIf id s0 (pushWord s p k w) := by
  unfold pushWord
  extract_lets +onlyGivenNames st room
  clear_value st room
  split
  · exact KeptIf.some (kept_modStream h)
  · split
    · split
      · exact KeptIf.some (kept_modStream h)
      · exact KeptIf.none
    · split
      · exact KeptIf.some (kept_feedWord h)
      · exact KeptIf.none

theorem kept_pushWords {s0 : State} {p : PartId} {k : Fin 8} {l : List W128} {s : State} (h : Kept s0 s) :
    KeptBy Prod.snd s0 (pushWords p k l s) := by
  induction l generalizing s with
  | nil =>
    rw [pushWords]
    exact KeptBy.snd h
  | cons x xs ih =>
    rw [pushWords]
    split
    · refine KeptBy.intro ?_
      refine ih ?_
      rename_i hk
      exact kept_pushWord h _ hk
    · exact KeptBy.snd h

theorem kept_drainRx {s0 : State} {h1 : PortId} {n : ℕ} {s : State} (h : Kept s0 s) :
    Kept s0 (drainRx h1 n s) := by
  induction n generalizing s with
  | zero =>
    rw [drainRx]
    exact h
  | succ n ih =>
    rw [drainRx]
    split
    · exact h
    · extract_lets +onlyGivenNames y
      have hy : KeptBy Prod.snd s0 y := kept_pushWords h
      clear_value y
      split
      · exact ih (kept_modPort hy)
      · exact kept_modPort hy

theorem kept_kick {s0 : State} {s : State} {p : PartId} (h : Kept s0 s) :
    Kept s0 (kick s p) := by
  unfold kick
  extract_lets +onlyGivenNames s1 h1
  have hs1 : Kept s0 s1 := kept_joinJobs (kept_foldl (kept_loadGo h) (fun _ _ h4 => kept_endBlocks h4))
  exact kept_msix (kept_drainRx hs1)

theorem kept_failPush {s0 : State} {s : State} {p : PartId} {k : Fin 8} {cause : ℕ} {detail : Option W64} (h : Kept s0 s) :
    Kept s0 (failPush s p k cause detail) := by
  unfold failPush
  extract_lets +onlyGivenNames st
  clear_value st
  split
  · exact kept_failBlock h
  · exact kept_blockFails (kept_modStream h)
  · exact h

theorem kept_failPushes {s0 : State} {s : State} {p : PartId} {cause : ℕ} {detail : Option W64} (h : Kept s0 s) :
    Kept s0 (failPushes s p cause detail) := by
  unfold failPushes
  exact kept_foldl h (fun _ _ h2 => kept_failPush h2)

theorem kept_failItems {s0 : State} {s : State} {p : PartId} {cause : ℕ} {detail : Option W64} (h : Kept s0 s) :
    Kept s0 (failItems s p cause detail) := by
  unfold failItems
  refine kept_foldl (kept_failPushes h) ?_
  intro t2 x21 h2
  extract_lets +onlyGivenNames bs t1 t21
  have ht1 : Kept s0 t1 := kept_modStream h2
  have ht21 : Kept s0 t21 := by
    unfold t21
    split
    · exact kept_dropLoad ht1
    · exact ht1
  clear_value bs t1 t21
  exact kept_foldl ht21 (fun _ _ h5 => kept_blockFails h5)

theorem kept_rewindOut {s0 : State} {s : State} {p : PartId} (h : Kept s0 s) :
    Kept s0 (rewindOut s p) := by
  unfold rewindOut
  exact kept_modPart h

theorem kept_presentBlock {s0 : State} {s : State} {p : PartId} {k : Fin 8} {pay : List W128} {last : Bool} {recs : ℕ} (h : Kept s0 s) :
    Kept s0 (presentBlock s p k pay last recs) := by
  unfold presentBlock
  extract_lets +onlyGivenNames seq hdr
  clear_value seq hdr
  exact kept_msix (kept_modStream h)

theorem kept_presentEvents {s0 : State} {s : State} {p : PartId} (h : Kept s0 s) :
    Kept s0 (presentEvents s p) := by
  unfold presentEvents
  extract_lets +onlyGivenNames st n
  clear_value st n
  split
  · exact h
  · extract_lets +onlyGivenNames recs s1
    have hs1 : Kept s0 s1 := kept_modRing h
    clear_value recs s1
    exact kept_presentBlock hs1

theorem kept_presentLedger {s0 : State} {s : State} {p : PartId} (h : Kept s0 s) :
    Kept s0 (presentLedger s p) := by
  unfold presentLedger
  extract_lets +onlyGivenNames st n
  clear_value st n
  split
  · exact h
  · exact kept_presentBlock h

theorem kept_presentReady {s0 : State} {p : PartId} {k : Fin 8} {n : ℕ} {s : State} (h : Kept s0 s) :
    Kept s0 (presentReady p k n s) := by
  induction n generalizing s with
  | zero =>
    rw [presentReady]
    exact h
  | succ n ih =>
    rw [presentReady]
    split
    · exact h
    · split
      · exact ih (kept_modStream (kept_presentBlock h))
      · exact h

theorem kept_lostNotices {s0 : State} {s : State} {p : PartId} {recs : List EvRec} (h : Kept s0 s) :
    Kept s0 (lostNotices s p recs) := by
  unfold lostNotices
  refine kept_foldl h ?_
  intro t2 x21 h2
  split
  · exact kept_raiseN h2
  · exact h2

theorem kept_completeOut {s0 : State} {s : State} {p : PartId} {k : Fin 8} {b : OutBlock} (h : Kept s0 s) :
    Kept s0 (completeOut s p k b) := by
  unfold completeOut
  split
  · exact h
  · extract_lets +onlyGivenNames s1 s2 n s3 s4
    have hs1 : Kept s0 s1 := kept_modStream h
    have hn : Kept s0 n := by
      unfold n
      split
      · exact kept_lostNotices (kept_ringDrop hs1)
      · split
        · exact kept_ledgerTake hs1
        · split
          · exact kept_modPart hs1
          · exact hs1
    have hs4 : Kept s0 s4 := by
      unfold s4
      split
      · exact kept_sendFrame hn
      · exact hn
    clear_value s1 s2 n s3 s4
    extract_lets +onlyGivenNames s41
    have hs41 : Kept s0 s41 := by
      unfold s41
      split
      · exact hs4
      · exact kept_ledgerEnd hs4
    clear_value s41
    split
    · exact kept_settle (kept_ledgerItem (kept_modPart hs41))
    · exact hs41

theorem kept_readOut {s0 : State} {p : PartId} {k : Fin 8} {n : ℕ} {s : State} (h : Kept s0 s) :
    KeptBy Prod.snd s0 (readOut p k n s) := by
  induction n generalizing s with
  | zero =>
    rw [readOut]
    exact KeptBy.snd h
  | succ n ih =>
    rw [readOut]
    split
    · extract_lets +onlyGivenNames y
      have hy : KeptBy Prod.snd s0 y := KeptBy.intro (ih h)
      clear_value y
      exact KeptBy.snd hy
    · extract_lets +onlyGivenNames w s1 y
      have hs1 : Kept s0 s1 := by
        unfold s1
        split
        · exact kept_modStream h
        · exact kept_completeOut (kept_modStream h)
      have hy : KeptBy Prod.snd s0 y := KeptBy.intro (ih hs1)
      clear_value w s1 y
      exact KeptBy.snd hy

theorem kept_resyncOp {s0 : State} {s : State} {p : PartId} {k : Fin 8} {v : ℕ} (h : Kept s0 s) :
    Kept s0 (resyncOp s p k v) := by
  unfold resyncOp
  split
  · exact kept_modStream h
  · exact h

theorem kept_replayOp {s0 : State} {s : State} {p : PartId} {k : Fin 8} {v : W32} (h : Kept s0 s) :
    KeptIf id s0 (replayOp s p k v) := by
  unfold replayOp
  extract_lets +onlyGivenNames st
  clear_value st
  split
  · exact KeptIf.none
  · split
    · exact KeptIf.some (kept_msix (kept_modStream h))
    · exact KeptIf.none

theorem kept_nestRead {s0 : State} {s : State} {p : PartId} {d : DieId} {rel : Bool} {space : Bool} {off : ℕ} (h : Kept s0 s) :
    KeptBy Acc.s s0 (nestRead s p d rel space off) := by
  unfold nestRead
  extract_lets +onlyGivenNames x
  clear_value x
  split
  · exact KeptBy.acc h
  · split
    · split
      · exact kept_viaTap h (fun _ h6 => kept_tapWord h6)
      · exact KeptBy.acc h
    · exact kept_via h (fun _ h5 => kept_readWord h5)

theorem kept_watchRead {s0 : State} {s : State} {p : PartId} {d : DieId} {e : ℕ} (h : Kept s0 s) :
    KeptBy third s0 (watchRead s p d e) := by
  unfold watchRead
  extract_lets +onlyGivenNames off a
  have ha : KeptBy Acc.s s0 a := kept_nestRead h
  clear_value off a
  split
  · extract_lets +onlyGivenNames b
    have hb : KeptBy Acc.s s0 b := kept_nestRead ha
    clear_value b
    exact KeptBy.third hb
  · exact KeptBy.third ha

theorem kept_trigRead {s0 : State} {s : State} {p : PartId} {d : DieId} {t : W128} (h : Kept s0 s) :
    KeptBy Acc.s s0 (trigRead s p d t) := by
  unfold trigRead
  extract_lets +onlyGivenNames r
  have hr : KeptBy Acc.s s0 r := kept_nestRead h
  clear_value r
  split
  · exact hr
  · exact KeptBy.acc (kept_drawWord hr)

theorem kept_trigReads {s0 : State} {p : PartId} {d : DieId} {l : List (W128 × W128 × W128)} {s : State} (h : Kept s0 s) :
    KeptBy third s0 (trigReads p d l s) := by
  induction l generalizing s with
  | nil =>
    rw [trigReads]
    exact KeptBy.third h
  | cons x xs ih =>
    rw [trigReads]
    exact KeptBy.third (ih (kept_trigRead h))

theorem kept_holdTriggers {s0 : State} {s : State} {p : PartId} {d : DieId} {n : ℕ} {st : Fin 4} {counts : List ℕ} {prev : List W128} (h : Kept s0 s) :
    Kept s0 (holdTriggers s p d n st counts prev) := by
  unfold holdTriggers
  exact kept_modPart (Kept.upd (t:=s) rfl rfl h)

theorem kept_armTrace {s0 : State} {s : State} {p : PartId} {t : TrigSect} (h : Kept s0 s) :
    KeptIf id s0 (armTrace s p t) := by
  unfold armTrace
  extract_lets +onlyGivenNames d n r
  have hr : KeptBy third s0 r := kept_trigReads h
  clear_value d n r
  split
  · exact KeptIf.none
  · exact KeptIf.some (kept_holdTriggers hr)

theorem kept_watchReads {s0 : State} {p : PartId} {d : DieId} {l : List (ℕ × ℕ)} {s : State} (h : Kept s0 s) :
    KeptBy Prod.snd s0 (watchReads p d l s) := by
  induction l generalizing s with
  | nil =>
    rw [watchReads]
    exact KeptBy.snd h
  | cons x xs ih =>
    rw [watchReads]
    refine KeptBy.snd ?_
    refine ih ?_
    split
    · exact kept_watchRead h
    · exact kept_raiseN (kept_watchRead h)

theorem kept_watchAll {s0 : State} {p : PartId} {d : DieId} {t : TrigSect} {first : Bool} {l : List (ℕ × List W128 × ℕ)} {a : Watched} (h : KeptBy Watched.s s0 a) :
    KeptBy Watched.s s0 (watchAll p d t first l a) := by
  induction l generalizing a with
  | nil =>
    rw [watchAll]
    exact h
  | cons x xs ih =>
    rw [watchAll]
    split
    · exact KeptBy.intro (ih (KeptBy.watched h))
    · extract_lets +onlyGivenNames old
      have hold : KeptBy third s0 old := kept_readRun h
      clear_value old
      split
      · exact KeptBy.intro (ih (KeptBy.watched hold))
      · extract_lets +onlyGivenNames w still
        have hw : KeptBy Prod.snd s0 w := kept_writeRun hold
        clear_value w still
        exact KeptBy.intro (ih (KeptBy.watched hw))

theorem kept_traceWords {s0 : State} {s : State} {p : PartId} {d : DieId} {t : TrigSect} {k : ℕ} {ws : List W128} (h : Kept s0 s) :
    KeptBy Prod.fst s0 (traceWords s p d t k ws) := by
  unfold traceWords
  extract_lets +onlyGivenNames h1 r
  have hr : KeptBy Prod.fst s0 r := by
    unfold r
    refine KeptBy.intro ?_
    refine kept_foldl_fst h ?_
    intro y4 x41 h4
    split
    · split
      · exact KeptBy.intro h4
      · extract_lets +onlyGivenNames a
        have ha : KeptBy Acc.s s0 a := kept_writePart h4
        clear_value a
        exact KeptBy.fst ha
  clear_value h1 r
  split
  · exact hr
  · exact KeptBy.fst (kept_modPart hr)

theorem kept_stopTrace {s0 : State} {s : State} {p : PartId} {d : DieId} (h : Kept s0 s) :
    Kept s0 (stopTrace s p d) := by
  unfold stopTrace
  exact kept_raiseN (kept_modPart h)

theorem kept_writeRecord {s0 : State} {s : State} {p : PartId} {d : DieId} {t : TrigSect} {k : ℕ} {ws : List (ℕ × List W128 × ℕ)} {trig : Bool} {cut : Bool} (h : Kept s0 s) :
    KeptIf id s0 (writeRecord s p d t k ws trig cut) := by
  unfold writeRecord
  extract_lets +onlyGivenNames tr w put
  have hw : KeptBy Watched.s s0 w := by
    unfold w
    split
    · exact KeptBy.watched h
    · exact kept_watchAll (KeptBy.watched h)
  clear_value tr w
  split
  · exact KeptIf.none
  · split
    · exact KeptIf.some (kept_stopTrace hw)
    · extract_lets +onlyGivenNames rec' used
      clear_value rec' used
      split
      · unfold put
        extract_lets +onlyGivenNames r
        have hr : KeptBy Prod.fst s0 r := kept_traceWords hw
        clear_value r
        split
        · exact KeptIf.none
        · split
          · exact KeptIf.some (kept_stopTrace hr)
          · exact KeptIf.some (kept_modPart hr)
      · extract_lets +onlyGivenNames s1
        have hs1 : Kept s0 s1 := kept_modPart hw
        clear_value s1
        split
        · exact KeptIf.some hs1
        · unfold put
          extract_lets +onlyGivenNames r
          have hr : KeptBy Prod.fst s0 r := kept_traceWords hs1
          clear_value r
          split
          · exact KeptIf.none
          · split
            · exact KeptIf.some (kept_stopTrace hr)
            · exact KeptIf.some (kept_raiseN hr)

theorem kept_keepPast {s0 : State} {s : State} {p : PartId} {k : ℕ} (h : Kept s0 s) :
    Kept s0 (keepPast s p k) := by
  unfold keepPast
  split
  · exact h
  · exact kept_modPart h

theorem kept_observe {s0 s : State} {p : PartId} {t : TrigSect} {k : Nat} {cut : Bool} (h : Kept s0 s) :
    KeptIf id s0 (observe s p t k cut) := by
  unfold observe
  extract_lets d sk u0 tr w r fs fired act capture s1 mine s2
  have hk : Kept s0 sk := kept_keepPast h
  have h0 : Kept s0 u0 := by
    unfold u0
    split
    · exact kept_stopTrace hk
    · exact hk
  have hw : KeptBy Prod.snd s0 w := kept_watchReads h0
  have hr : KeptBy third s0 r := kept_trigReads hw
  have h1 : Kept s0 s1 := kept_modPart hr
  split
  · exact .none
  · have h2 : KeptIf id s0 s2 := by
      unfold s2
      split
      · exact .some h1
      · split
        · exact kept_writeRecord h1
        · exact .some (kept_modPart h1)
    refine h2.map fun x hx => ?_
    extract_lets s3 s4
    have h4 : Kept s0 s4 := kept_foldl (kept_modPart hx) fun y f hy => by
      split
      · split
        · exact kept_raiseN hy
        · exact hy
      · exact hy
    split
    · exact kept_modPart h4
    · exact h4

theorem kept_presentTrace {s0 : State} {s : State} {p : PartId} (h : Kept s0 s) :
    Kept s0 (presentTrace s p) := by
  unfold presentTrace
  extract_lets +onlyGivenNames st
  clear_value st
  split
  · exact h
  · extract_lets +onlyGivenNames n
    clear_value n
    split
    · exact h
    · extract_lets +onlyGivenNames r
      have hr : KeptBy third s0 r := by
        unfold r
        refine KeptBy.intro ?_
        refine kept_foldl_third h ?_
        intro y8 x81 h8
        split
        · exact KeptBy.intro h8
        · extract_lets +onlyGivenNames off a
          have ha : KeptBy Acc.s s0 a := kept_readPart h8
          clear_value off a
          split
          · exact KeptBy.third ha
          · exact KeptBy.third ha
      clear_value r
      split
      · split
        · exact h
        · extract_lets +onlyGivenNames s1
          have hs1 : Kept s0 s1 := kept_modStream (kept_modPart hr)
          clear_value s1
          exact kept_ledgerItem hs1
      · exact kept_presentBlock hr

theorem kept_rebind {s0 : State} {s : State} {p : PartId} {b : List VeId} (h : Kept s0 s) :
    Kept s0 (rebind s p b) := by
  unfold rebind
  extract_lets +onlyGivenNames old
  clear_value old
  split
  · exact h
  · extract_lets +onlyGivenNames s1
    have hs1 : Kept s0 s1 := kept_foldl h (fun _ _ h5 => kept_modSeq h5)
    clear_value s1
    exact kept_modPart hs1

theorem kept_firstHandover {s0 : State} {s : State} {p : PartId} (h : Kept s0 s) :
    Kept s0 (firstHandover s p) := by
  unfold firstHandover
  split
  · exact kept_modPart (kept_banksToVes h)
  · exact h

theorem kept_startRun {s0 : State} {s : State} {p : PartId} {j : Job} {im : Image} (h : Kept s0 s) :
    KeptIf id s0 (startRun s p j im) := by
  unfold startRun
  extract_lets +onlyGivenNames s3
  have hs3 : Kept s0 s3 := kept_modPart h
  clear_value s3
  split
  · exact kept_armTrace hs3
  · exact KeptIf.some hs3

theorem kept_jobStartHead {s0 s : State} {p : PartId} (h : Kept s0 s) : KeptIf id s0 (jobStartHead s p) := by
  unfold jobStartHead
  extract_lets q
  split
  · exact .some h
  · extract_lets s1 s2
    have h1 : Kept s0 s1 := kept_modPart h
    clear_value s1
    have h2 : KeptIf id s0 s2 := by
      unfold s2
      split
      · exact .some (kept_ledgerItem h1)
      · split
        · exact .some h1
        · extract_lets t2 t3
          have h3 : Kept s0 t3 := kept_firstHandover (kept_rebind h1)
          clear_value t3
          split
          · exact .some (kept_modPart h3)
          · split
            · exact .some (kept_modPart h3)
            · exact kept_startRun h3
    clear_value s2
    intro x hx
    obtain ⟨t, ht, rfl⟩ := Option.map_eq_some_iff.1 hx
    rw [id_eq]
    exact kept_kick (kept_settle (h2 t ht))

theorem kept_jobStartOp {s0 s : State} {p : PartId} (h : Kept s0 s) : Kept s0 (jobStartOp s p) := by
  unfold jobStartOp
  split
  · exact h
  · split
    · exact (kept_jobStartHead (kept_modPart h)).getD h
    · split
      · exact h
      · refine (kept_jobStartHead ?_).getD h
        split
        · exact kept_forward h
        · exact h

theorem kept_deliverRelease {s0 : State} {s : State} {n : VeId} (h : Kept s0 s) :
    Kept s0 (deliverRelease s n) := by
  unfold deliverRelease
  split
  · exact kept_modSeq h
  · exact h

theorem kept_releaseBarrier {s0 : State} {s : State} {n : VeId} (h : Kept s0 s) :
    Kept s0 (releaseBarrier s n) := by
  unfold releaseBarrier
  exact kept_deliverRelease (kept_modSeq h)

theorem kept_farFailGo {s0 : State} {s : State} {p : PartId} (h : Kept s0 s) :
    Kept s0 (farFailGo s p) := by
  unfold farFailGo
  split
  · split
    · exact kept_kick (kept_failRun (kept_modPart h))
    · exact h
  · exact h

theorem kept_ingestOp {s0 : State} {s : State} {p : PartId} (h : Kept s0 s) :
    Kept s0 (ingestOp s p) := by
  unfold ingestOp
  split
  · extract_lets +onlyGivenNames n
    clear_value n
    split
    · exact kept_farFailGo h
    · extract_lets +onlyGivenNames ws w
      have hw : KeptBy Prod.snd s0 w := by
        unfold w
        refine KeptBy.intro ?_
        refine kept_foldl_snd h ?_
        intro y7 x71 h7
        split
        · split
          · exact KeptBy.intro h7
          · extract_lets +onlyGivenNames off a
            have ha : KeptBy Acc.s s0 a := kept_writePart h7
            clear_value off a
            exact KeptBy.snd ha
      clear_value ws w
      split
      · exact h
      · exact kept_failSegment hw
      · extract_lets +onlyGivenNames s01 s1 s2
        have hs01 : Kept s0 s01 := kept_foldl hw (fun _ _ h8 => kept_modEng h8)
        have hs1 : Kept s0 s1 := kept_modPart (kept_modStream hs01)
        have hs2 : Kept s0 s2 := by
          unfold s2
          split
          · exact kept_startAll hs1
          · exact kept_foldl hs1 (fun _ _ h9 => kept_releaseBarrier h9)
        clear_value s01 s1 s2
        refine kept_kick ?_
        split
        · exact kept_forward hs2
        · exact hs2
  · exact h

theorem kept_poisonPart {s0 s : State} {p : PartId} {m : MasterKind} {x : Nat} {v : W128} (h : Kept s0 s) :
    KeptBy Acc.s s0 (poisonPart s p m x v) := by
  rw [show poisonPart = _ by delta poisonPart; exact rfl]
  split
  · exact kept_via h fun _ ht => kept_writePoison ht
  · exact .acc h

theorem kept_copyWord {s0 : State} {p : PartId} {m : MasterKind} {src : ℕ} {dst : ℕ} {c : CommitRun} (h : KeptBy CommitRun.s s0 c) :
    KeptBy CommitRun.s s0 (copyWord p m src dst c) := by
  unfold copyWord
  split
  · exact h
  · extract_lets +onlyGivenNames r
    have hr : KeptBy Acc.s s0 r := kept_readPart h
    clear_value r
    split
    · extract_lets +onlyGivenNames w
      have hw : KeptBy Acc.s s0 w := kept_poisonPart hr
      clear_value w
      exact KeptBy.commitRun hw
    · split
      · exact KeptBy.commitRun hr
      · extract_lets +onlyGivenNames w
        have hw : KeptBy Acc.s s0 w := kept_writePart hr
        clear_value w
        exact KeptBy.commitRun hw

theorem kept_flagged {s0 : State} {s : State} {p : PartId} {im : Image} {off : ℕ} (h : Kept s0 s) :
    KeptBy (fun x : List ℕ × CommitRun => x.2.s) s0 (flagged s p im off) := by
  unfold flagged
  extract_lets +onlyGivenNames nel
  clear_value nel
  refine KeptBy.intro ?_
  refine kept_foldl_of (π:=(fun x : List ℕ × CommitRun => x.2.s)) h ?_
  intro y4 x41 h4
  split
  · exact KeptBy.intro h4
  · extract_lets +onlyGivenNames r
    have hr : KeptBy Acc.s s0 r := kept_readPart h4
    clear_value r
    split
    · exact KeptBy.sndOf (π:=CommitRun.s) (KeptBy.commitRun hr)
    · exact KeptBy.sndOf (π:=CommitRun.s) (KeptBy.commitRun hr)

theorem kept_clearRegion {s0 : State} {p : PartId} {d : MasterKind} {im : Image} {off : ℕ} {c : CommitRun} (h : KeptBy CommitRun.s s0 c) :
    KeptBy CommitRun.s s0 (clearRegion p d im off c) := by
  unfold clearRegion
  refine KeptBy.intro ?_
  refine kept_foldl_of (π:=CommitRun.s) h ?_
  intro y3 x31 h3
  split
  · exact KeptBy.intro h3
  · extract_lets +onlyGivenNames r
    have hr : KeptBy Acc.s s0 r := kept_writePart h3
    clear_value r
    exact KeptBy.commitRun hr

theorem kept_copyElems {s0 : State} {p : PartId} {d : MasterKind} {im : Image} {els : List ℕ} {src : ℕ} {dst : ℕ} {c : CommitRun} (h : KeptBy CommitRun.s s0 c) :
    KeptBy CommitRun.s s0 (copyElems p d im els src dst c) := by
  unfold copyElems
  extract_lets +onlyGivenNames e
  clear_value e
  exact KeptBy.intro (kept_foldl_of (π:=CommitRun.s) h (fun _ _ h4 => KeptBy.intro (kept_foldl_of (π:=CommitRun.s) h4 (fun _ _ h7 => kept_copyWord (KeptBy.intro h7)))))

theorem kept_levelBuffers {s0 : State} {s : State} {p : PartId} {im : Image} {k : ℕ} (h : Kept s0 s) :
    KeptBy CommitRun.s s0 (levelBuffers s p im k) := by
  unfold levelBuffers
  split
  · exact KeptBy.commitRun h
  · extract_lets +onlyGivenNames d q src dst a
    have ha : KeptBy (fun x : List ℕ × CommitRun => x.2.s) s0 a := kept_flagged h
    clear_value d q src dst a
    split
    · extract_lets +onlyGivenNames b c
      have hb : KeptBy (fun x : List ℕ × CommitRun => x.2.s) s0 b := kept_flagged ha
      have hc : KeptBy CommitRun.s s0 c := kept_copyElems (KeptBy.commitRun hb)
      clear_value b c
      exact kept_clearRegion hc
    · exact kept_clearRegion (kept_copyElems (KeptBy.intro ha))

theorem kept_oldValue {s0 : State} {p : PartId} {d : MasterKind} {k : ℕ} {addr : ℕ} {c : CommitRun} (h : KeptBy CommitRun.s s0 c) :
    KeptBy (fun x : W128 × Bool × CommitRun => x.2.2.s) s0 (oldValue p d k addr c) := by
  unfold oldValue
  split
  · exact KeptBy.sndOf (π:=(fun x : Bool × CommitRun => x.2.s)) (KeptBy.sndOf (π:=CommitRun.s) h)
  · extract_lets +onlyGivenNames r
    have hr : KeptBy Acc.s s0 r := kept_readPart h
    clear_value r
    exact KeptBy.sndOf (π:=(fun x : Bool × CommitRun => x.2.s)) (KeptBy.sndOf (π:=CommitRun.s) (KeptBy.commitRun hr))

theorem kept_appendUndo {s0 : State} {p : PartId} {d : MasterKind} {im : Image} {k : ℕ} {addr : ℕ} {c : CommitRun} (h : KeptBy CommitRun.s s0 c) :
    KeptBy CommitRun.s s0 (appendUndo p d im k addr c) := by
  unfold appendUndo
  extract_lets +onlyGivenNames o
  have ho : KeptBy (fun x : W128 × Bool × CommitRun => x.2.2.s) s0 o := kept_oldValue h
  clear_value o
  split
  · exact KeptBy.intro ho
  · extract_lets +onlyGivenNames off r t
    have hr : KeptBy Prod.snd s0 r := kept_writeRun ho
    have ht : KeptBy Acc.s s0 t := by
      unfold t
      split
      · exact kept_poisonPart hr
      · exact KeptBy.acc hr
    clear_value off r t
    exact KeptBy.commitRun (kept_modPart ht)

theorem kept_applyDm {s0 : State} {p : PartId} {d : MasterKind} {k : Nat} {im : Image} {c : CommitRun} {w : DmWrite} (h : KeptBy CommitRun.s s0 c) :
    KeptBy CommitRun.s s0 (applyDm p d k im c w) := by
  have hwrite := @kept_writePart s0
  obtain ⟨write, he⟩ := exists_eq (a' := writePart)
  rw [show applyDm = _ by delta applyDm; exact rfl, ← he]
  rw [← he] at hwrite
  split
  · exact h
  · extract_lets c1 r s1
    have h1 : KeptBy CommitRun.s s0 c1 := by
      unfold c1
      exact .ite (fun _ => kept_appendUndo h) fun _ => h
    clear_value c1
    split
    · exact h1
    · have hr : KeptBy Acc.s s0 r := hwrite h1
      have hs1 : Kept s0 s1 := by
        unfold s1
        clear_value r
        split
        · exact kept_cacheStore hr
        · exact hr
      exact .commitRun hs1

theorem kept_stageFrame {s0 : State} {p : PartId} {d : MasterKind} {im : Image} {k : ℕ} {base : ℕ} {c : CommitRun} (h : KeptBy CommitRun.s s0 c) :
    KeptBy CommitRun.s s0 (stageFrame p d im k base c) := by
  unfold stageFrame
  exact KeptBy.intro (kept_foldl_of (π:=CommitRun.s) h (fun _ _ h3 => kept_copyWord (KeptBy.intro h3)))

theorem kept_frameWords {s0 s : State} {p : PartId} {im : Image} {k : Nat} {u : CrcId} (h : Kept s0 s) :
    KeptIf Prod.snd s0 (frameWords s p im k u) := by
  have hfold : ∀ (l : List Nat) (o : Option (List W128 × State)) (f : List W128 × State → Nat → Option (List W128 × State)),
      KeptIf Prod.snd s0 o → (∀ y j, Kept s0 y.2 → KeptIf Prod.snd s0 (f y j)) →
      KeptIf Prod.snd s0 (l.foldl (fun x j => x.bind fun y => f y j) o) := by
    intro l
    induction l with
    | nil => exact fun o f ho _ => ho
    | cons j l ih => exact fun o f ho hf => ih _ f (ho.bind fun y hy => hf y j hy) hf
  have hread := @kept_readPart s0
  obtain ⟨read, he⟩ := exists_eq (a' := readPart)
  rw [show frameWords = _ by delta frameWords; exact rfl, ← he]
  rw [← he] at hread
  refine hfold _ _ _ (.some h) fun y j hy => ?_
  extract_lets r
  have hr : KeptBy Acc.s s0 r := hread hy
  clear_value r
  split
  · exact .none
  · split
    · exact .some hr
    · exact .some (kept_drawWord hr)

theorem kept_frameDigest {s0 : State} {s : State} {p : PartId} {im : Image} {k : ℕ} {u : CrcId} (h : Kept s0 s) :
    KeptIf Prod.snd s0 (frameDigest s p im k u) := by
  unfold frameDigest
  refine KeptIf.map (π := Prod.snd) (kept_frameWords h) ?_
  intro x2 h2
  refine KeptBy.out (π:=Prod.snd) ?_
  extract_lets +onlyGivenNames v
  clear_value v
  exact KeptBy.snd (kept_modCrc h2)

theorem kept_commitWork {s0 : State} {s : State} {p : PartId} {r : Run} {im : Image} (h : Kept s0 s) :
    KeptBy CommitRun.s s0 (commitWork s p r im) := by
  unfold commitWork
  extract_lets +onlyGivenNames k s01 c1 c2
  have hs01 : Kept s0 s01 := kept_modPart h
  have hc1 : KeptBy CommitRun.s s0 c1 := kept_levelBuffers hs01
  have hc2 : KeptBy CommitRun.s s0 c2 := KeptBy.intro (kept_foldl_of (π:=CommitRun.s) hc1 (fun _ _ h4 => kept_applyDm (KeptBy.intro h4)))
  clear_value k s01 c1 c2
  exact kept_stageFrame hc2

theorem kept_commitBooks {s0 : State} {s : State} {p : PartId} {r : Run} {own : Option W64} (h : Kept s0 s) :
    Kept s0 (commitBooks s p r own) := by
  unfold commitBooks
  extract_lets +onlyGivenNames k tail solo
  clear_value k tail solo
  exact kept_modPart h

theorem kept_copyStrict {s0 : State} {p : PartId} {d : MasterKind} {src : ℕ} {dst : ℕ} {c : CommitRun} (h : KeptBy CommitRun.s s0 c) :
    KeptBy CommitRun.s s0 (copyStrict p d src dst c) := by
  unfold copyStrict
  split
  · exact h
  · extract_lets +onlyGivenNames r
    have hr : KeptBy Acc.s s0 r := kept_readPart h
    clear_value r
    split
    · exact KeptBy.commitRun hr
    · extract_lets +onlyGivenNames w
      have hw : KeptBy Acc.s s0 w := kept_writePart hr
      clear_value w
      exact KeptBy.commitRun hw

theorem kept_restoreBuffers {s0 : State} {s : State} {p : PartId} {im : Image} (h : Kept s0 s) :
    KeptBy CommitRun.s s0 (restoreBuffers s p im) := by
  unfold restoreBuffers
  split
  · exact KeptBy.commitRun h
  · extract_lets +onlyGivenNames d cur a b els e words c
    have ha : KeptBy (fun x : List ℕ × CommitRun => x.2.s) s0 a := kept_flagged h
    have hb : KeptBy (fun x : List ℕ × CommitRun => x.2.s) s0 b := kept_flagged ha
    have hc : KeptBy CommitRun.s s0 c := by
      unfold c
      refine KeptBy.intro ?_
      refine kept_foldl_of (π:=CommitRun.s) hb ?_
      intro y5 x51 h5
      unfold words
      exact KeptBy.intro (kept_foldl_of (π:=CommitRun.s) (kept_foldl_of (π:=CommitRun.s) h5 (fun _ _ h10 => kept_copyStrict (KeptBy.intro h10))) (fun _ _ h9 => kept_copyStrict (KeptBy.intro h9)))
    clear_value d cur a b els e c
    exact kept_clearRegion (kept_clearRegion hc)

theorem kept_undoAfter {s0 : State} {p : PartId} {d : MasterKind} {j : Nat} {im : Image} {c : CommitRun} (h : KeptBy CommitRun.s s0 c) :
    KeptBy CommitRun.s s0 (undoAfter p d j im c) := by
  have hrun := @kept_readRun s0
  obtain ⟨run, he⟩ := exists_eq (a' := readRun)
  rw [show undoAfter = _ by delta undoAfter; exact rfl, ← he]
  rw [← he] at hrun
  refine kept_foldl_of (π := CommitRun.s) h fun y u hy => ?_
  split
  · exact hy
  · extract_lets off r
    have hr : KeptBy third s0 r := hrun hy
    clear_value r
    split
    · extract_lets w
      have hw : KeptBy Acc.s s0 w := kept_writePart hr
      exact .commitRun hw
    · exact .commitRun hr

theorem kept_rewindBooks {s0 : State} {s : State} {p : PartId} {j : ℕ} (h : Kept s0 s) :
    Kept s0 (rewindBooks s p j) := by
  unfold rewindBooks
  exact kept_modPart h

theorem kept_resetVe {s0 : State} {s : State} {n : VeId} (h : Kept s0 s) :
    Kept s0 (resetVe s n) := by
  unfold resetVe
  extract_lets +onlyGivenNames t
  have ht : Kept s0 t := kept_withdraw (kept_stopSeq h)
  clear_value t
  split
  · exact kept_foldl ht (fun _ _ h4 => kept_sinkResponses (kept_drawNat h4))
  · exact ht

theorem kept_rollback {s0 : State} {s : State} {p : PartId} {k : ℕ} (h : Kept s0 s) :
    Kept s0 (rollback s p k) := by
  unfold rollback
  split
  · exact h
  · extract_lets +onlyGivenNames q j rep s1 s2 s3 c s4
    have hs1 : Kept s0 s1 := kept_foldl h (fun _ _ h4 => kept_resetVe h4)
    have hs2 : Kept s0 s2 := kept_modPart hs1
    have hs3 : Kept s0 s3 := kept_raiseN hs2
    have hc : KeptBy CommitRun.s s0 c := kept_undoAfter (kept_restoreBuffers hs3)
    have hs4 : Kept s0 s4 := kept_rewindBooks hc
    clear_value q j rep s1 s2 s3 c s4
    split
    · exact h
    · split
      · exact h
      · exact kept_failSegment (kept_modPart hs4)
      · split
        · exact kept_failSegment (kept_modPart hs4)
        · exact hs4

theorem kept_agreeTo {s0 : State} {s : State} {p : PartId} {k : ℕ} (h : Kept s0 s) :
    Kept s0 (agreeTo s p k) := by
  unfold agreeTo
  exact kept_modPart h

theorem kept_agreeGo {s0 : State} {s : State} {p : PartId} (h : Kept s0 s) :
    Kept s0 (agreeGo s p) := by
  unfold agreeGo
  split
  · exact h
  · extract_lets +onlyGivenNames q k
    clear_value q k
    split
    · refine kept_kick ?_
      split
      · exact kept_agreeTo h
      · exact kept_rollback h
    · exact h

theorem kept_commitOp {s0 : State} {s : State} {p : PartId} (h : Kept s0 s) :
    Kept s0 (commitOp s p) := by
  unfold commitOp
  split
  · split
    · exact h
    · split
      · exact kept_failSegmentFree h
      · extract_lets +onlyGivenNames c
        have hc : KeptBy CommitRun.s s0 c := kept_commitWork h
        clear_value c
        split
        · exact h
        · exact kept_failSegment (kept_modPart hc)
        · split
          · split
            · exact h
            · refine kept_agreeGo ?_
              refine kept_sendFrame ?_
              refine kept_commitBooks ?_
              rename_i hk
              exact kept_frameDigest hc _ hk
          · exact kept_commitBooks hc
  · exact h

theorem kept_tryComplete {s0 : State} {s : State} {p : PartId} (h : Kept s0 s) :
    Kept s0 (tryComplete s p) := by
  unfold tryComplete
  split
  · split
    · exact kept_completeSegment h
    · exact h
  · exact h

theorem kept_observationOp {s0 : State} {s : State} {p : PartId} {cut : Bool} (h : Kept s0 s) :
    Kept s0 (observationOp s p cut) := by
  unfold observationOp
  split
  · split
    · exact h
    · extract_lets +onlyGivenNames k
      clear_value k
      split
      · exact h
      · refine kept_tryComplete ?_
        refine kept_modPart ?_
        rename_i hk
        exact kept_observe h _ hk
  · exact h

theorem kept_frameReleased {s0 : State} {s : State} {p : PartId} {f : Frame} (h : Kept s0 s) :
    Kept s0 (frameReleased s p f) := by
  unfold frameReleased
  exact kept_tryComplete (kept_modPart h)

theorem kept_releaseBlocks {s0 : State} {s : State} {p : PartId} {f : Frame} (h : Kept s0 s) :
    Kept s0 (releaseBlocks s p f) := by
  unfold releaseBlocks
  extract_lets +onlyGivenNames s1
  have hs1 : Kept s0 s1 := kept_presentReady h
  clear_value s1
  split
  · exact kept_frameReleased hs1
  · exact hs1

theorem kept_releaseOp {s0 : State} {s : State} {p : PartId} (h : Kept s0 s) :
    Kept s0 (releaseOp s p) := by
  unfold releaseOp
  split
  · split
    · exact h
    · split
      · exact kept_frameReleased h
      · split
        · exact h
        · split
          · exact kept_releaseBlocks h
          · split
            · exact h
            · extract_lets +onlyGivenNames r
              have hr : KeptBy third s0 r := by
                unfold r
                refine KeptBy.intro ?_
                refine kept_foldl_third h ?_
                intro y10 x101 h10
                split
                · exact KeptBy.intro h10
                · extract_lets +onlyGivenNames a
                  have ha : KeptBy Acc.s s0 a := kept_readPart h10
                  clear_value a
                  split
                  · exact KeptBy.third ha
                  · exact KeptBy.third ha
              clear_value r
              split
              · exact h
              · extract_lets +onlyGivenNames s1
                have hs1 : Kept s0 s1 := kept_modPart hr
                clear_value s1
                exact kept_failSegment hs1
              · extract_lets +onlyGivenNames lastOne
                clear_value lastOne
                exact kept_releaseBlocks (kept_modStream hr)
  · exact h

theorem kept_ckptWord {s0 : State} {s : State} {p : PartId} {im : Image} {i : ℕ} (h : Kept s0 s) :
    KeptBy Acc.s s0 (ckptWord s p im i) := by
  unfold ckptWord
  extract_lets +onlyGivenNames q rs
  clear_value q rs
  split
  · exact KeptBy.acc h
  · split
    · split
      · exact KeptBy.acc h
      · exact kept_readPart h
    · exact KeptBy.acc h

theorem kept_saveBlock {s0 : State} {s : State} {p : PartId} {j : Job} {done : ℕ} {im : Image} (h : Kept s0 s) :
    Kept s0 (saveBlock s p j done im) := by
  unfold saveBlock
  extract_lets +onlyGivenNames total n
  clear_value total n
  split
  · exact h
  · extract_lets +onlyGivenNames r
    have hr : KeptBy third s0 r := by
      unfold r
      refine KeptBy.intro ?_
      refine kept_foldl_third h ?_
      intro y6 x61 h6
      split
      · exact KeptBy.intro h6
      · extract_lets +onlyGivenNames a
        have ha : KeptBy Acc.s s0 a := kept_ckptWord h6
        clear_value a
        split
        · exact KeptBy.third ha
        · exact KeptBy.third ha
    clear_value r
    split
    · exact h
    · extract_lets +onlyGivenNames at0
      clear_value at0
      exact kept_settle (kept_ledgerEnd (kept_modPart hr))
    · exact kept_presentBlock (kept_modPart hr)

theorem kept_saveBlocks {s0 : State} {p : PartId} {n : ℕ} {s : State} (h : Kept s0 s) :
    Kept s0 (saveBlocks p n s) := by
  induction n generalizing s with
  | zero =>
    rw [saveBlocks]
    exact h
  | succ n ih =>
    rw [saveBlocks]
    split
    · extract_lets +onlyGivenNames t
      have ht : Kept s0 t := kept_saveBlock h
      clear_value t
      split
      · split
        · exact ht
        · exact ih ht
      · split
        · exact ht
        · exact ih ht
    · exact h

theorem kept_saveOp {s0 : State} {s : State} {p : PartId} (h : Kept s0 s) :
    Kept s0 (saveOp s p) := by
  unfold saveOp
  split
  · exact h
  · exact kept_saveBlocks h

theorem kept_restoreEnd {s0 : State} {s : State} {p : PartId} {r : Restore} {cause : ℕ} {detail : Option W64} (h : Kept s0 s) :
    Kept s0 (restoreEnd s p r cause detail) := by
  unfold restoreEnd
  extract_lets +onlyGivenNames lost
  clear_value lost
  exact kept_settle (kept_ledgerItem (kept_modPart (kept_modStream h)))

theorem kept_restoreDone {s0 : State} {s : State} {p : PartId} {im : Image} {c : ℕ} (h : Kept s0 s) :
    KeptBy CommitRun.s s0 (restoreDone s p im c) := by
  unfold restoreDone
  extract_lets +onlyGivenNames d c1 c2
  have hc1 : KeptBy CommitRun.s s0 c1 := by
    unfold c1
    split
    · exact kept_clearRegion (KeptBy.commitRun h)
    · exact KeptBy.commitRun h
  have hc2 : KeptBy CommitRun.s s0 c2 := by
    unfold c2
    split
    · exact kept_clearRegion hc1
    · exact hc1
  clear_value d c1 c2
  exact KeptBy.commitRun (kept_modPart (kept_modStream (kept_modStream hc2)))

theorem kept_restoreWord {s0 : State} {s : State} {p : PartId} {r : Restore} {im : Image} {w : W128} (h : Kept s0 s) :
    KeptIf id s0 (restoreWord s p r im w) := by
  unfold restoreWord
  extract_lets +onlyGivenNames i q keep rs
  clear_value i q rs
  split
  · split
    · exact KeptIf.some (kept_restoreEnd h)
    · split
      · exact KeptIf.some (kept_restoreEnd h)
      · refine KeptIf.some ?_
        unfold keep
        exact kept_modPart h
  · split
    · refine KeptIf.some ?_
      split
      · exact kept_restoreEnd h
      · unfold keep
        exact kept_modPart h
    · split
      · refine KeptIf.some ?_
        split
        · exact kept_restoreEnd h
        · unfold keep
          exact kept_modPart h
      · split
        · extract_lets +onlyGivenNames inBuf bufs offs o
          have ho : KeptBy Prod.snd s0 o := by
            unfold o
            refine KeptBy.intro ?_
            refine kept_foldl_snd h ?_
            intro y9 x91 h9
            split
            · exact KeptBy.intro h9
            · extract_lets +onlyGivenNames a
              have ha : KeptBy Acc.s s0 a := kept_writePart h9
              clear_value a
              exact KeptBy.snd ha
          clear_value inBuf bufs offs o
          split
          · exact KeptIf.none
          · exact KeptIf.some (kept_restoreEnd (kept_modPart ho))
          · refine KeptIf.some ?_
            unfold keep
            exact kept_modPart ho
        · extract_lets +onlyGivenNames c v
          clear_value c v
          split
          · exact KeptIf.some (kept_restoreEnd (kept_modPart h))
          · extract_lets +onlyGivenNames d
            have hd : KeptBy CommitRun.s s0 d := kept_restoreDone h
            clear_value d
            split
            · exact KeptIf.none
            · exact KeptIf.some (kept_restoreEnd h)
            · exact KeptIf.some (kept_restoreEnd hd)

theorem kept_restoreTake {s0 : State} {p : PartId} {n : ℕ} {s : State} (h : Kept s0 s) :
    Kept s0 (restoreTake p n s) := by
  induction n generalizing s with
  | zero =>
    rw [restoreTake]
    exact h
  | succ n ih =>
    rw [restoreTake]
    split
    · split
      · exact h
      · split
        · refine ih ?_
          rename_i hk
          exact kept_restoreWord (kept_modStream h) _ hk
        · exact h
    · exact h

theorem kept_restoreGo {s0 : State} {s : State} {p : PartId} (h : Kept s0 s) :
    Kept s0 (restoreGo s p) := by
  unfold restoreGo
  exact kept_restoreTake h

theorem kept_readMap {s0 : State} {s : State} (h : Kept s0 s) :
    KeptBy (fun x : List ℕ × Copying => x.2.s) s0 (readMap s) := by
  unfold readMap
  refine KeptBy.intro ?_
  refine kept_foldl_of (π:=(fun x : List ℕ × Copying => x.2.s)) h ?_
  intro y3 x31 h3
  split
  · exact KeptBy.intro h3
  · extract_lets +onlyGivenNames r
    have hr : KeptBy Acc.s s0 r := kept_via h3 (fun _ h7 => kept_readWord h7)
    clear_value r
    exact KeptBy.sndOf (π:=Copying.s) (KeptBy.copying hr)

theorem kept_clearMap {s0 : State} {c : Copying} (h : KeptBy Copying.s s0 c) :
    KeptBy Copying.s s0 (clearMap c) := by
  unfold clearMap
  refine KeptBy.intro ?_
  refine kept_foldl_of (π:=Copying.s) h ?_
  intro y3 x31 h3
  split
  · exact KeptBy.intro h3
  · extract_lets +onlyGivenNames r
    have hr : KeptBy Acc.s s0 r := kept_via h3 (fun _ h7 => kept_writeWord h7)
    clear_value r
    exact KeptBy.copying hr

theorem kept_sendBlock {s0 : State} {p : PartId} {space : Bool} {c : Copying} {off : ℕ} (h : KeptBy Copying.s s0 c) :
    KeptBy Copying.s s0 (sendBlock p space c off) := by
  unfold sendBlock
  split
  · exact h
  · extract_lets +onlyGivenNames r
    have hr : KeptBy third s0 r := kept_readRun h
    clear_value r
    split
    · exact KeptBy.copying hr
    · exact KeptBy.copying (kept_sendFrame hr)

theorem kept_sendSpace {s0 : State} {space : Bool} {c : Copying} {p : PartId} (h : KeptBy Copying.s s0 c) :
    KeptBy Copying.s s0 (sendSpace space c p) := by
  unfold sendSpace
  split
  · exact h
  · split
    · exact KeptBy.copying h
    · exact KeptBy.intro (kept_foldl_of (π:=Copying.s) (kept_sendFrame h) (fun _ _ h5 => kept_sendBlock (KeptBy.intro h5)))

theorem kept_sendDirty {s0 : State} {s : State} (h : Kept s0 s) :
    KeptBy Copying.s s0 (sendDirty s) := by
  unfold sendDirty
  extract_lets +onlyGivenNames m
  have hm : KeptBy (fun x : List ℕ × Copying => x.2.s) s0 m := kept_readMap h
  clear_value m
  exact KeptBy.intro (kept_foldl_of (π:=Copying.s) (kept_clearMap (KeptBy.intro hm)) (fun _ _ h4 => KeptBy.intro (kept_foldl_of (π:=Copying.s) h4 (fun _ _ h7 => kept_sendBlock (KeptBy.intro h7)))))

theorem kept_sendList {s0 : State} {kind : ℕ} {k : ℕ} {p : PartId} {s : State} {ws : List W128} (h : Kept s0 s) :
    Kept s0 (sendList kind k p s ws) := by
  unfold sendList
  extract_lets +onlyGivenNames cs
  clear_value cs
  split
  · exact kept_sendFrame h
  · refine kept_foldl h ?_
    intro t4 x41 h4
    split
    · exact kept_sendFrame h4

theorem kept_sendCfg {s0 : State} {s : State} {p : PartId} (h : Kept s0 s) :
    Kept s0 (sendCfg s p) := by
  unfold sendCfg
  extract_lets +onlyGivenNames s1 s2 s3
  have hs1 : Kept s0 s1 := kept_sendList h
  have hs2 : Kept s0 s2 := kept_sendList hs1
  have hs3 : Kept s0 s3 := kept_foldl hs2 (fun _ _ h3 => kept_sendList h3)
  clear_value s1 s2 s3
  exact kept_sendList (kept_sendList hs3)

theorem kept_sendExec {s0 : State} {s : State} {p : PartId} (h : Kept s0 s) :
    Kept s0 (sendExec s p) := by
  unfold sendExec
  extract_lets +onlyGivenNames q
  clear_value q
  split
  · exact kept_sendList h
  · exact kept_sendList h
  · exact kept_sendList h
  · exact kept_sendList h

theorem kept_sendLive {s0 : State} {s : State} {p : PartId} (h : Kept s0 s) :
    Kept s0 (sendLive s p) := by
  unfold sendLive
  extract_lets +onlyGivenNames q s1 s2 s3 s4 s5 s6
  have hs1 : Kept s0 s1 := kept_sendList h
  have hs2 : Kept s0 s2 := kept_foldl hs1 (fun _ _ h3 => kept_sendList h3)
  have hs3 : Kept s0 s3 := kept_sendExec (kept_sendList hs2)
  have hs4 : Kept s0 s4 := kept_foldl hs3 (fun _ _ h3 => kept_sendList h3)
  have hs5 : Kept s0 s5 := kept_sendList hs4
  have hs6 : Kept s0 s6 := kept_sendList hs5
  clear_value q s1 s2 s3 s4 s5 s6
  exact kept_sendList (kept_sendList hs6)

theorem kept_resyncBanks {s0 : State} {s : State} {p : PartId} {ws : List W128} (h : Kept s0 s) :
    Kept s0 (resyncBanks s p ws) := by
  unfold resyncBanks
  extract_lets +onlyGivenNames s1
  have hs1 : Kept s0 s1 := kept_foldl h (fun _ _ h3 => kept_modBank h3)
  clear_value s1
  exact kept_foldl hs1 (fun _ _ h3 => kept_modBank h3)

theorem kept_resyncImage {s0 : State} {s : State} {p : PartId} {im : Option Image} (h : Kept s0 s) :
    Kept s0 (resyncImage s p im) := by
  unfold resyncImage
  extract_lets +onlyGivenNames b
  clear_value b
  exact kept_modPart (kept_rebind h)

theorem kept_resyncTrace {s0 : State} {s : State} {p : PartId} {ws : List W128} (h : Kept s0 s) :
    Kept s0 (resyncTrace s p ws) := by
  unfold resyncTrace
  extract_lets +onlyGivenNames s1
  have hs1 : Kept s0 s1 := kept_freeTriggers h
  clear_value s1
  split
  · split
    · extract_lets +onlyGivenNames n
      clear_value n
      exact kept_holdTriggers hs1
    · exact hs1
  · exact hs1

theorem kept_resyncList {s0 s : State} {p : PartId} {k : Fin 8} {kind : Nat} {ws : List W128} (h : Kept s0 s) :
    Kept s0 (resyncList s p k kind ws) := by
  unfold resyncList
  extract_lets md
  have hmd : ∀ f, Kept s0 (md f) := fun f => kept_modPart h
  clear_value md
  refine .ite (fun _ => hmd _) fun _ => ?_
  refine .ite (fun _ => kept_resyncImage h) fun _ => ?_
  refine .ite (fun _ => hmd _) fun _ => ?_
  refine .ite (fun _ => kept_modStream h) fun _ => ?_
  refine .ite (fun _ => kept_resyncBanks h) fun _ => ?_
  refine .ite (fun _ => kept_modStream h) fun _ => ?_
  refine .ite (fun _ => hmd _) fun _ => ?_
  refine .ite (fun _ => hmd _) fun _ => ?_
  refine .ite (fun _ => hmd _) fun _ => ?_
  refine .ite (fun _ => hmd _) fun _ => ?_
  refine .ite (fun _ => hmd _) fun _ => ?_
  refine .ite (fun _ => kept_resyncTrace h) fun _ => ?_
  refine .ite (fun _ => hmd _) fun _ => ?_
  exact .ite (fun _ => kept_foldl h fun t w ht => kept_modSeq ht) fun _ => h

theorem kept_copyIn {s0 : State} {s : State} {p : PartId} {space : Bool} {off : ℕ} {v : W128} (h : Kept s0 s) :
    KeptBy Acc.s s0 (copyIn s p space off v) := by
  unfold copyIn
  extract_lets +onlyGivenNames r
  have hr : KeptBy Acc.s s0 r := kept_writePart h
  clear_value r
  split
  · split
    · exact kept_writeWord h
    · exact hr
  · exact hr

theorem kept_copyFails {s0 : State} {s : State} {p : PartId} (h : Kept s0 s) :
    Kept s0 (copyFails s p) := by
  unfold copyFails
  exact kept_toTwinState (kept_sendFrame h)

theorem kept_resyncMem {s0 : State} {s : State} {p : PartId} {space : Bool} {off : ℕ} {ws : List W128} (h : Kept s0 s) :
    Kept s0 (resyncMem s p space off ws) := by
  unfold resyncMem
  extract_lets +onlyGivenNames r
  have hr : KeptBy Prod.fst s0 r := by
    unfold r
    refine KeptBy.intro ?_
    refine kept_foldl_fst h ?_
    intro y4 x41 h4
    split
    · exact KeptBy.intro h4
    · extract_lets +onlyGivenNames a
      have ha : KeptBy Acc.s s0 a := kept_copyIn h4
      clear_value a
      exact KeptBy.fst ha
  clear_value r
  split
  · exact kept_copyFails hr
  · exact hr

theorem inv_cellsFilter {s : State} (h : Inv s) (f : Host.Cell → Bool) (po wb : List Nat) (la : List Latent) :
    Inv { s with mem := { s.mem with cells := s.mem.cells.filter f, poison := po, latent := la, writeBack := wb } } := by
  unfold Inv at h ⊢
  rw [Memory.wf_iff] at h ⊢
  exact ⟨cellsWf_filter h.1 f, h.2⟩

theorem kept_resyncZero {s0 s : State} {p : PartId} {space : Bool} (h : Kept s0 s) : Kept s0 (resyncZero s p space) := by
  unfold resyncZero
  extract_lets mine
  split
  · exact kept_copyFails h
  · exact .store h rfl (fun k => inv_cellsFilter k _ _ _ _)

theorem kept_finishWaits {s0 : State} {s : State} {p : PartId} {ok : W32 → Bool} (h : Kept s0 s) :
    Kept s0 (finishWaits s p ok) := by
  unfold finishWaits
  refine kept_foldl h ?_
  intro t2 x21 h2
  extract_lets +onlyGivenNames t1
  have ht1 : Kept s0 t1 := kept_modStream h2
  clear_value t1
  exact kept_endBlocks ht1

theorem kept_partGo {s0 : State} {s : State} {p : PartId} (h : Kept s0 s) :
    Kept s0 (partGo s p) := by
  unfold partGo
  exact kept_restoreGo (kept_kick h)

theorem kept_soloPart {s0 : State} {s : State} {p : PartId} (h : Kept s0 s) :
    Kept s0 (soloPart s p) := by
  unfold soloPart
  extract_lets +onlyGivenNames s1
  have hs1 : Kept s0 s1 := kept_finishWaits (kept_ledgerAcked h)
  clear_value s1
  exact kept_partGo (kept_agreeTo hs1)

theorem kept_resyncEnd {s0 : State} {s : State} {cause : ℕ} (h : Kept s0 s) :
    Kept s0 (resyncEnd s cause) := by
  unfold resyncEnd
  split
  · exact h
  · extract_lets +onlyGivenNames s1 s2
    have hs2 : Kept s0 s2 := Kept.upd (t:=s) rfl rfl h
    clear_value s1 s2
    extract_lets +onlyGivenNames s21
    have hs21 : Kept s0 s21 := kept_foldl hs2 (fun _ _ h5 => kept_ledgerItem h5)
    clear_value s21
    exact kept_raiseN hs21

theorem kept_loseTwin {s0 : State} {s : State} {byDetach : Bool} (h : Kept s0 s) :
    Kept s0 (loseTwin s byDetach) := by
  unfold loseTwin
  split
  · extract_lets +onlyGivenNames s1
    clear_value s1
    extract_lets +onlyGivenNames s11
    have hs11 : Kept s0 s11 := kept_resyncEnd (kept_toTwinState (Kept.upd (t:=s) rfl rfl h))
    clear_value s11
    exact kept_raiseN (kept_foldl hs11 (fun _ _ h6 => kept_soloPart h6))
  · exact h

theorem kept_promotePart {s0 : State} {s : State} {p : PartId} (h : Kept s0 s) :
    Kept s0 (promotePart s p) := by
  unfold promotePart
  extract_lets +onlyGivenNames m s1 s2 s3
  have hs1 : Kept s0 s1 := kept_modPart h
  have hs2 : Kept s0 s2 := kept_foldl hs1 (fun _ _ h3 => kept_ledgerPut h3)
  have hs3 : Kept s0 s3 := by
    unfold s3
    refine kept_foldl hs2 ?_
    intro t3 x31 h3
    split
    · exact kept_failBlock h3
    · exact h3
  clear_value m s1 s2 s3
  exact kept_partGo (kept_agreeTo hs3)

theorem kept_promote {s0 : State} {s : State} (h : Kept s0 s) :
    Kept s0 (promote s) := by
  unfold promote
  extract_lets +onlyGivenNames s1
  clear_value s1
  extract_lets +onlyGivenNames s11
  have hs11 : Kept s0 s11 := kept_toTwinState (Kept.upd (t:=s) rfl rfl h)
  clear_value s11
  exact kept_raiseN (kept_foldl hs11 (fun _ _ h5 => kept_promotePart h5))

theorem kept_secondaryLoss {s0 : State} {s : State} (h : Kept s0 s) :
    Kept s0 (secondaryLoss s) := by
  unfold secondaryLoss
  split
  · exact kept_toTwinState h
  · split
    · exact h
    · split
      · exact kept_promote h
      · exact Kept.upd (t:=s) rfl rfl h

theorem kept_twinIsLost {s0 : State} {s : State} (h : Kept s0 s) :
    Kept s0 (twinIsLost s) := by
  unfold twinIsLost
  split
  · exact kept_loseTwin h
  · exact kept_secondaryLoss h

theorem kept_sundovDown {s0 : State} {s : State} {sunk : ℕ} (h : Kept s0 s) :
    Kept s0 (sundovDown s sunk) := by
  unfold sundovDown
  split
  · exact h
  · extract_lets +onlyGivenNames s1
    clear_value s1
    extract_lets +onlyGivenNames s11
    have hs11 : Kept s0 s11 := Kept.upd (t:=s) rfl rfl h
    clear_value s11
    exact kept_twinIsLost (kept_raiseN (kept_sinkResponses hs11))

theorem kept_detachGo {s0 : State} {s : State} (h : Kept s0 s) :
    Kept s0 (detachGo s) := by
  unfold detachGo
  split
  · exact kept_loseTwin (kept_sendFrame h)
  · exact h

theorem kept_frameAcked {s0 : State} {s : State} {ack : W32} (h : Kept s0 s) :
    Kept s0 (frameAcked s ack) := by
  unfold frameAcked
  extract_lets +onlyGivenNames done s1
  clear_value s1
  extract_lets +onlyGivenNames s11
  have hs11 : Kept s0 s11 := Kept.upd (t:=s) rfl rfl h
  clear_value s11
  refine kept_foldl hs11 ?_
  intro t4 x41 h4
  split
  · exact kept_partGo (kept_finishWaits (kept_ledgerAcked h4))
  · exact h4

theorem kept_rxFrame {s0 s : State} {kind : Nat} {f : SFrame} (h : Kept s0 s) : KeptIf id s0 (rxFrame s kind f) := by
  have hup : Kept s0 { s with twin := { s.twin with recvSeq := s.twin.recvSeq + 1 } } := .upd (t := s) rfl rfl h
  have hack := @kept_frameAcked s0
  obtain ⟨ack, he⟩ := exists_eq (a' := frameAcked)
  rw [show rxFrame = _ by delta rxFrame; exact rfl, ← he]
  rw [← he] at hack
  split
  · exact .none
  · exact .some (hack hup)

theorem kept_heartbeatOp {s0 s : State} {f : SFrame} (h : Kept s0 s) : Kept s0 (heartbeatOp s f) := by
  have hrx := @kept_rxFrame s0
  obtain ⟨rx, he⟩ := exists_eq (a' := rxFrame)
  rw [show heartbeatOp = _ by delta heartbeatOp; exact rfl, ← he]
  rw [← he] at hrx
  split
  · exact h
  · next t e =>
    have ht : Kept s0 t := hrx h t e
    exact .ite (fun _ => ht) fun _ => .upd (t := t) rfl rfl ht

theorem kept_digestOp {s0 : State} {s : State} {f : SFrame} (h : Kept s0 s) :
    Kept s0 (digestOp s f) := by
  unfold digestOp
  split
  · exact h
  · extract_lets +onlyGivenNames w p
    clear_value w p
    split
    · rename_i hk _
      exact kept_rxFrame h _ hk
    · refine kept_detachGo ?_
      refine kept_agreeGo ?_
      refine kept_modPart ?_
      rename_i hk _
      exact kept_rxFrame h _ hk

theorem kept_farSaveEnds {s0 : State} {s : State} {p : PartId} {item : ℕ} (h : Kept s0 s) :
    Kept s0 (farSaveEnds s p item) := by
  unfold farSaveEnds
  split
  · split
    · exact kept_kick (kept_settle (kept_modPart h))
    · exact h
  · exact h

theorem kept_ledgerCopyOp {s0 : State} {s : State} {f : SFrame} (h : Kept s0 s) :
    Kept s0 (ledgerCopyOp s f) := by
  unfold ledgerCopyOp
  split
  · exact h
  · extract_lets +onlyGivenNames p r
    clear_value p r
    split
    · extract_lets +onlyGivenNames u
      have hu : Kept s0 u := by
        unfold u
        refine kept_modPart ?_
        rename_i hk _
        exact kept_rxFrame h _ hk
      clear_value u
      split
      · exact kept_farSaveEnds hu
      · exact hu
    · rename_i hk _
      exact kept_rxFrame h _ hk

theorem kept_progressOp {s0 : State} {s : State} {f : SFrame} (h : Kept s0 s) :
    Kept s0 (progressOp s f) := by
  unfold progressOp
  split
  · exact h
  · extract_lets +onlyGivenNames w p x
    clear_value w p x
    split
    · rename_i hk _
      exact kept_rxFrame h _ hk
    · extract_lets +onlyGivenNames u
      have hu : Kept s0 u := by
        unfold u
        refine kept_modStream ?_
        rename_i hk _
        exact kept_rxFrame h _ hk
      clear_value u
      split
      · exact kept_modPart hu
      · split
        · exact kept_tryComplete (kept_modPart hu)
        · exact hu

theorem kept_fatalOp {s0 s : State} {f : SFrame} (h : Kept s0 s) : Kept s0 (fatalOp s f) := by
  have hrx := @kept_rxFrame s0
  obtain ⟨rx, he⟩ := exists_eq (a' := rxFrame)
  rw [show fatalOp = _ by delta fatalOp; exact rfl, ← he]
  rw [← he] at hrx
  split
  · exact h
  · next t e => exact .upd (t := t) rfl rfl (hrx h t e)

theorem kept_forwardCommit {s0 : State} {s : State} {pd : Pending} (h : Kept s0 s) :
    Kept s0 (forwardCommit s pd) := by
  unfold forwardCommit
  split
  · extract_lets +onlyGivenNames body
    clear_value body
    split
    · exact kept_forward h
    · exact h

theorem kept_pairUpNow {s0 : State} {s : State} (h : Kept s0 s) :
    Kept s0 (pairUpNow s) := by
  unfold pairUpNow
  extract_lets +onlyGivenNames s1
  clear_value s1
  extract_lets +onlyGivenNames s11
  have hs11 : Kept s0 s11 := kept_toTwinState (Kept.upd (t:=s) rfl rfl h)
  clear_value s11
  exact kept_raiseN (kept_foldl hs11 (fun _ _ h5 => kept_modPart (kept_agreeTo h5)))

theorem kept_resyncFails {s0 : State} {s : State} (h : Kept s0 s) :
    Kept s0 (resyncFails s) := by
  unfold resyncFails
  exact kept_resyncEnd (kept_toTwinState h)

theorem kept_copied {s0 : State} {s : State} {c : Copying} {r : Resync} {ph : ResyncPhase} (h : Kept s0 s) (h1 : KeptBy Copying.s s0 c) :
    Kept s0 (copied s c r ph) := by
  unfold copied
  split
  · exact h
  · split
    · exact kept_resyncFails h1
    · extract_lets +onlyGivenNames v
      have hv : Kept s0 v := h1
      clear_value v
      exact Kept.upd (t:=v) rfl rfl hv

theorem kept_holdEnds {s0 : State} {s : State} (h : Kept s0 s) :
    Kept s0 (holdEnds s) := by
  unfold holdEnds
  extract_lets +onlyGivenNames c
  have hc : KeptBy Copying.s s0 c := KeptBy.intro (kept_foldl_of (π:=Copying.s) (kept_sendDirty h) (fun _ _ h4 => kept_sendSpace (KeptBy.intro h4)))
  clear_value c
  split
  · exact h
  · split
    · exact kept_resyncFails hc
    · extract_lets +onlyGivenNames s1 s2
      have hs1 : Kept s0 s1 := kept_foldl hc (fun _ _ h6 => kept_sendLive (kept_sendCfg h6))
      have hs2 : Kept s0 s2 := kept_resyncEnd (kept_pairUpNow (kept_sendFrame hs1))
      clear_value s1 s2
      exact kept_foldl hs2 (fun _ _ h6 => kept_forwardCommit h6)

theorem kept_copyWhole {s0 : State} {s : State} {r : Resync} (h : Kept s0 s) :
    Kept s0 (copyWhole s r) := by
  unfold copyWhole
  exact kept_copied h (KeptBy.intro (kept_foldl_of (π:=Copying.s) h (fun _ _ h4 => kept_sendSpace (KeptBy.intro h4))))

theorem kept_passOn {s0 : State} {s : State} {r : Resync} {n : ℕ} (h : Kept s0 s) :
    Kept s0 (passOn s r n) := by
  unfold passOn
  extract_lets +onlyGivenNames m
  have hm : KeptBy (fun x : List ℕ × Copying => x.2.s) s0 m := kept_readMap h
  clear_value m
  split
  · exact h
  · split
    · exact kept_resyncFails hm
    · split
      · extract_lets +onlyGivenNames v
        have hv : Kept s0 v := hm
        clear_value v
        exact Kept.upd (t:=v) rfl rfl hv
      · exact kept_copied h (kept_sendDirty h)

theorem kept_resyncPassOp {s0 : State} {s : State} {failed : Bool} (h : Kept s0 s) :
    Kept s0 (resyncPassOp s failed) := by
  unfold resyncPassOp
  split
  · exact h
  · split
    · exact h
    · split
      · exact kept_resyncFails h
      · split
        · split
          · exact kept_copyWhole h
          · exact kept_copied h (kept_sendDirty h)
        · exact kept_passOn h
        · split
          · exact kept_holdEnds h
          · exact h

theorem kept_resyncStart {s0 : State} {s : State} {tag : W32} (h : Kept s0 s) :
    Kept s0 (resyncStart s tag) := by
  unfold resyncStart
  extract_lets +onlyGivenNames r s1 s2
  have hs2 : Kept s0 s2 := kept_toTwinState (Kept.upd (t:=s) rfl rfl h)
  clear_value r s1 s2
  extract_lets +onlyGivenNames s21
  have hs21 : Kept s0 s21 := kept_sendFrame (kept_raiseN hs2)
  clear_value s21
  exact kept_copyWhole (kept_clearMap (KeptBy.copying (kept_foldl hs21 (fun _ _ h7 => kept_sendCfg h7))))

theorem kept_resyncDataOp {s0 s : State} {f : SFrame} (h : Kept s0 s) : Kept s0 (resyncDataOp s f) := by
  have hrx := @kept_rxFrame s0
  obtain ⟨rx, he⟩ := exists_eq (a' := rxFrame)
  rw [show resyncDataOp = _ by delta resyncDataOp; exact rfl, ← he]
  rw [← he] at hrx
  split
  · exact h
  · next t e =>
    have ht : Kept s0 t := hrx h t e
    clear e hrx he
    extract_lets w p body kind
    refine .ite (fun _ => ht) fun _ => ?_
    refine .ite (fun _ => .ite (fun _ => kept_toTwinState (.upd (t := t) rfl rfl ht)) fun _ => ht) fun _ => ?_
    refine .ite (fun _ => ht) fun _ => ?_
    refine .ite (fun _ => kept_resyncMem ht) fun _ => ?_
    refine .ite (fun _ => kept_resyncZero ht) fun _ => ?_
    refine .ite (fun _ => kept_pairUpNow ht) fun _ => ?_
    exact .ite (fun _ => kept_resyncList (.upd (t := t) rfl rfl ht)) fun _ => .upd (t := t) rfl rfl ht

theorem kept_resendOp {s0 : State} {s : State} (h : Kept s0 s) :
    Kept s0 (resendOp s) := by
  unfold resendOp
  split
  · exact h
  · exact kept_foldl h (fun t3 _ h3 => kept_emit (Kept.upd (t:=t3) rfl rfl h3))

theorem kept_sundovUpOp {s0 : State} {s : State} {lanes : BitVec 4} (h : Kept s0 s) :
    Kept s0 (sundovUpOp s lanes) := by
  unfold sundovUpOp
  split
  · exact h
  · extract_lets +onlyGivenNames t s1
    clear_value t s1
    extract_lets +onlyGivenNames s11
    have hs11 : Kept s0 s11 := Kept.upd (t:=s) rfl rfl h
    clear_value s11
    refine kept_raiseN ?_
    split
    · exact kept_toTwinState hs11
    · exact hs11

theorem kept_presenceOp {s0 : State} {s : State} (h : Kept s0 s) :
    Kept s0 (presenceOp s) := by
  unfold presenceOp
  split
  · exact h
  · exact kept_raiseN (kept_toTwinState (Kept.upd (t:=s) rfl rfl h))

theorem kept_presentHighOp {s0 : State} {s : State} (h : Kept s0 s) :
    Kept s0 (presentHighOp s) := by
  unfold presentHighOp
  extract_lets +onlyGivenNames s1
  clear_value s1
  extract_lets +onlyGivenNames s11
  have hs11 : Kept s0 s11 := Kept.upd (t:=s) rfl rfl h
  clear_value s11
  split
  · exact hs11
  · exact kept_promote hs11

theorem kept_fenceEventFree {s0 : State} {s : State} {kind : ℕ} {number : ℕ} (h : Kept s0 s) :
    Kept s0 (fenceEventFree s kind number) := by
  unfold fenceEventFree
  exact kept_fenceEvent (kept_drawNat h)

theorem kept_failCkpt {s0 : State} {s : State} {p : PartId} {cause : ℕ} {detail : Option W64} (h : Kept s0 s) :
    Kept s0 (failCkpt s p cause detail) := by
  unfold failCkpt
  extract_lets +onlyGivenNames s1
  have hs1 : Kept s0 s1 := by
    unfold s1
    split
    · exact kept_settle (kept_ledgerItem (kept_modPart h))
    · exact h
  clear_value s1
  split
  · exact kept_restoreEnd hs1
  · exact hs1

theorem kept_stopSlots {s0 : State} {s : State} {p : PartId} {but : List VeId} (h : Kept s0 s) :
    Kept s0 (stopSlots s p but) := by
  unfold stopSlots
  split
  · extract_lets +onlyGivenNames c
    have hc : KeptBy Prod.snd s0 c := kept_freeCut h
    clear_value c
    exact kept_exchangeStops hc
  · exact h

theorem kept_failJobs {s0 : State} {s : State} {p : PartId} {cause : ℕ} {detail : Option W64} (h : Kept s0 s) :
    Kept s0 (failJobs s p cause detail) := by
  unfold failJobs
  extract_lets +onlyGivenNames s01 s1 s2
  have hs01 : Kept s0 s01 := kept_stopSlots h
  have hs1 : Kept s0 s1 := by
    unfold s1
    split
    · exact kept_failSegment hs01
    · exact kept_failSegmentFree hs01
  have hs2 : Kept s0 s2 := kept_failCkpt hs1
  clear_value s01 s1 s2
  exact kept_settle (kept_foldl (kept_modPart hs2) (fun _ _ h4 => kept_ledgerItem h4))

theorem kept_endSegment {s0 : State} {s : State} {p : PartId} (h : Kept s0 s) :
    Kept s0 (endSegment s p) := by
  unfold endSegment
  split
  · extract_lets +onlyGivenNames c
    have hc : KeptBy Prod.snd s0 c := kept_freeCut h
    clear_value c
    exact kept_exchangeFails hc
  · exact kept_failSegmentFree (kept_stopSlots h)

theorem kept_endHostItems {s0 : State} {s : State} {p : PartId} (h : Kept s0 s) :
    Kept s0 (endHostItems s p) := by
  unfold endHostItems
  exact kept_kick (kept_failItems (kept_failCkpt h))

theorem kept_endReached {s0 : State} {s : State} (h : Kept s0 s) :
    Kept s0 (endReached s) := by
  unfold endReached
  extract_lets +onlyGivenNames m
  clear_value m
  split
  · exact h
  · refine kept_foldl (Kept.upd (t:=s) rfl rfl h) ?_
    intro t4 x41 h4
    split
    · exact kept_endHostItems (kept_endSegment h4)
    · exact h4

theorem kept_fenceReach {s0 : State} {s : State} (h : Kept s0 s) :
    Kept s0 (fenceReach s) := by
  unfold fenceReach
  refine kept_endReached ?_
  split
  · exact kept_toTwinState (kept_sendFrame h)
  · exact h

theorem kept_fenceVe {s0 : State} {s : State} {n : VeId} {reason : ℕ} {sunk : Sunk} (h : Kept s0 s) :
    Kept s0 (fenceVe s n reason sunk) := by
  unfold fenceVe
  split
  · exact h
  · extract_lets +onlyGivenNames s1 s2 s3 s4
    have hs1 : Kept s0 s1 := kept_modEng h
    have hs2 : Kept s0 s2 := kept_sinkVe (kept_modSeq (kept_withdraw hs1))
    have hs3 : Kept s0 s3 := by
      unfold s3
      split
      · exact kept_failSegment (kept_stopSlots hs2)
      · exact hs2
    have hs4 : Kept s0 s4 := by
      unfold s4
      split
      · exact kept_veBanksToHost hs3
      · exact hs3
    clear_value s1 s2 s3 s4
    exact kept_fenceEvent (kept_moveRing hs4)

theorem kept_portStreams {s0 : State} {s : State} {h1 : PortId} {cause : ℕ} {detail : Option W64} {sunk : ℕ} (h : Kept s0 s) :
    Kept s0 (portStreams s h1 cause detail sunk) := by
  unfold portStreams
  extract_lets +onlyGivenNames s1 s2 s3 s4
  have hs1 : Kept s0 s1 := kept_modPort h
  have hs2 : Kept s0 s2 := kept_sinkResponses (kept_withdraw hs1)
  have hs3 : Kept s0 s3 := kept_loseClaims hs2
  clear_value s1 s2 s3 s4
  extract_lets +onlyGivenNames s41
  have hs41 : Kept s0 s41 := Kept.upd (t:=s3) rfl rfl hs3
  clear_value s41
  exact kept_foldl hs41 (fun _ _ h4 => kept_rewindOut (kept_failPushes h4))

theorem kept_portReset {s0 : State} {s : State} {h1 : PortId} {sunk : ℕ} (h : Kept s0 s) :
    Kept s0 (portReset s h1 sunk) := by
  unfold portReset
  extract_lets +onlyGivenNames s1
  have hs1 : Kept s0 s1 := kept_portStreams h
  clear_value s1
  exact kept_modPort hs1

theorem kept_fencePort {s0 : State} {s : State} {h1 : PortId} {why : ℕ} {sunk : ℕ} (h : Kept s0 s) :
    Kept s0 (fencePort s h1 why sunk) := by
  unfold fencePort
  split
  · exact h
  · extract_lets +onlyGivenNames s1 s2
    have hs1 : Kept s0 s1 := kept_modPort h
    have hs2 : Kept s0 s2 := kept_portStreams hs1
    clear_value s1 s2
    exact kept_fenceEvent (kept_raiseN hs2)

theorem kept_linkDown {s0 : State} {s : State} {h1 : PortId} {sunk : ℕ} (h : Kept s0 s) :
    Kept s0 (linkDown s h1 sunk) := by
  unfold linkDown
  split
  · exact h
  · exact kept_raiseN (kept_portReset (kept_modPort h))

theorem kept_fencePart {s0 : State} {s : State} {p : PartId} (h : Kept s0 s) :
    Kept s0 (fencePart s p) := by
  unfold fencePart
  split
  · exact h
  · extract_lets +onlyGivenNames s1 s2 s3
    have hs1 : Kept s0 s1 := kept_failJobs h
    have hs2 : Kept s0 s2 := kept_failItems hs1
    have hs3 : Kept s0 s3 := kept_foldl hs2 (fun _ _ h4 => kept_commitFails h4)
    clear_value s1 s2 s3
    exact kept_fenceEventFree (kept_modPart hs3)

theorem kept_failUnchecked {s0 : State} {s : State} {p : PartId} (h : Kept s0 s) :
    Kept s0 (failUnchecked s p) := by
  unfold failUnchecked
  refine kept_foldl h ?_
  intro t2 x21 h2
  split
  · exact kept_failSkip h2
  · exact h2

theorem kept_noCrc {s0 : State} {s : State} (h : Kept s0 s) :
    Kept s0 (noCrc s) := by
  unfold noCrc
  split
  · exact kept_twinIsLost (kept_foldl h (fun _ _ h4 => kept_failUnchecked (kept_failJobs h4)))
  · exact h

theorem kept_stopTraces {s0 : State} {s : State} {d : DieId} (h : Kept s0 s) :
    Kept s0 (stopTraces s d) := by
  unfold stopTraces
  split
  · exact h
  · refine kept_foldl h ?_
    intro t3 x31 h3
    split
    · split
      · exact kept_stopTrace h3
      · exact h3
    · split
      · exact kept_stopTrace h3
      · exact h3

theorem kept_fenceCrc {s0 : State} {s : State} {u : CrcId} {reason : ℕ} {low : ℕ} (h : Kept s0 s) :
    Kept s0 (fenceCrc s u reason low) := by
  unfold fenceCrc
  split
  · exact h
  · extract_lets +onlyGivenNames s1 s2
    have hs1 : Kept s0 s1 := kept_modCrc h
    have hs2 : Kept s0 s2 := kept_fenceEvent (kept_raiseN hs1)
    clear_value s1 s2
    exact kept_noCrc (kept_stopTraces hs2)

theorem kept_markUnreachable {s0 : State} {s : State} (h : Kept s0 s) :
    Kept s0 (markUnreachable s) := by
  unfold markUnreachable
  refine kept_foldl h ?_
  intro t2 x21 h2
  split
  · exact kept_raiseN (Kept.upd (t:=t2) rfl rfl h2)
  · exact h2

theorem kept_cutItems {s0 : State} {s : State} {t : State} {p : PartId} (_h : Kept s0 s) (h1 : Kept s0 t) :
    Kept s0 (cutItems s t p) := by
  unfold cutItems
  extract_lets +onlyGivenNames host t1
  have ht1 : Kept s0 t1 := by
    unfold t1
    split
    · exact kept_endSegment h1
    · exact h1
  clear_value host t1
  split
  · exact kept_endHostItems ht1
  · exact ht1

theorem kept_cutHeld {s0 : State} {s : State} (h : Kept s0 s) :
    Kept s0 (cutHeld s) := by
  unfold cutHeld
  refine kept_foldl h ?_
  intro t2 x21 h2
  extract_lets +onlyGivenNames out u
  have hu : Kept s0 u := kept_foldl h2 (fun _ _ h5 => kept_emit h5)
  clear_value u
  exact kept_modBank hu

theorem kept_resendKept {s0 : State} {s : State} {i : ℕ} (h : Kept s0 s) :
    Kept s0 (resendKept s i) := by
  unfold resendKept
  extract_lets +onlyGivenNames way from'
  clear_value way
  exact Kept.upd (t:=s) rfl rfl h

theorem kept_fenceLink {s0 : State} {s : State} {i : ℕ} (h : Kept s0 s) :
    Kept s0 (fenceLink s i) := by
  unfold fenceLink
  split
  · exact h
  · extract_lets +onlyGivenNames s1 cut s2
    have hcut : Kept s0 cut := kept_resendKept (Kept.upd (t:=s) rfl rfl h)
    clear_value s1 cut s2
    extract_lets +onlyGivenNames s21
    have hs21 : Kept s0 s21 := by
      unfold s21
      split
      · exact kept_cutHeld (kept_foldl hcut (fun _ _ h7 => kept_cutItems h h7))
      · exact hcut
    clear_value s21
    exact kept_markUnreachable (kept_fenceEventFree (kept_raiseN hs21))

theorem kept_loseDevice {s0 : State} {s : State} (h : Kept s0 s) :
    Kept s0 (loseDevice s) := by
  unfold loseDevice
  extract_lets +onlyGivenNames s1
  have hs1 : Kept s0 s1 := by
    unfold s1
    split
    · exact kept_sendFrame h
    · exact h
  clear_value s1
  exact Kept.upd (t:=s1) rfl rfl hs1

theorem kept_fenceDie {s0 : State} {s : State} {d : DieId} {sunk : Sunk} (h : Kept s0 s) :
    Kept s0 (fenceDie s d sunk) := by
  unfold fenceDie
  split
  · exact h
  · split
    · exact kept_loseDevice (kept_setAlert h)
    · extract_lets +onlyGivenNames s01 s1 s2 s3 s4 s5 x s6
      have hs01 : Kept s0 s01 := Kept.upd (t:=s) rfl rfl h
      have hs1 : Kept s0 s1 := by
        unfold s1
        refine kept_foldl hs01 ?_
        intro t5 x51 h5
        split
        · exact kept_failSegment (kept_stopSlots h5)
        · exact h5
      have hs2 : Kept s0 s2 := kept_foldl hs1 (fun _ _ h5 => kept_fenceVe h5)
      have hs3 : Kept s0 s3 := kept_foldl hs2 (fun _ _ h5 => kept_fenceBank h5)
      have hs4 : Kept s0 s4 := kept_foldl hs3 (fun _ _ h5 => kept_fenceStack h5)
      have hs5 : Kept s0 s5 := kept_fencePort hs4
      have hs6 : Kept s0 s6 := kept_fenceLink (kept_fenceLink hs5)
      clear_value s01 s1 s2 s3 s4 s5 x s6
      exact kept_fenceEventFree hs6

theorem kept_fenceLockstep {s0 : State} {s : State} (h : Kept s0 s) :
    Kept s0 (fenceLockstep s) := by
  unfold fenceLockstep
  extract_lets +onlyGivenNames s1 s2
  clear_value s1 s2
  extract_lets +onlyGivenNames s11 s21
  have hs11 : Kept s0 s11 := Kept.upd (t:=s) rfl rfl h
  have hs21 : Kept s0 s21 := kept_foldl hs11 (fun _ _ h4 => kept_commitFails h4)
  clear_value s11 s21
  exact kept_fenceEventFree (kept_raiseN hs21)

theorem kept_lockstepOp {s0 : State} {s : State} (h : Kept s0 s) :
    Kept s0 (lockstepOp s) := by
  unfold lockstepOp
  split
  · exact h
  · extract_lets +onlyGivenNames pc again n now recent s1 s2
    have hs2 : Kept s0 s2 := Kept.upd (t:=s) rfl rfl h
    clear_value pc again n now recent s1 s2
    extract_lets +onlyGivenNames s21
    have hs21 : Kept s0 s21 := kept_raiseN hs2
    clear_value s21
    split
    · exact kept_fenceLockstep hs21
    · exact Kept.upd (t:=s21) rfl rfl hs21

theorem kept_pairedOp {s0 : State} {s : State} {pair : Fin 32} {kind : ℕ} {slot : ℕ} {sunk : Sunk} (h : Kept s0 s) :
    Kept s0 (pairedOp s pair kind slot sunk) := by
  unfold pairedOp
  extract_lets +onlyGivenNames n m
  split
  · exact h
  · split
    · exact h
    · extract_lets +onlyGivenNames place here rep restart s1 s2 s3 s4
      have hs1 : Kept s0 s1 := kept_modEng (kept_withdraw (kept_withdraw h))
      have hs2 : Kept s0 s2 := kept_modEng hs1
      have hs3 : Kept s0 s3 := by
        unfold s3
        split
        · exact kept_modPart hs2
        · exact hs2
      have hs4 : Kept s0 s4 := kept_raiseN (kept_sinkVe (kept_sinkVe hs3))
      clear_value place here rep s1 s2 s3 s4
      split
      · exact kept_fenceReach (kept_fenceVe (kept_fenceVe (kept_endReached hs4)))
      · exact kept_modSeq hs4

theorem kept_pllLost {s0 : State} {s : State} {i : ℕ} (h : Kept s0 s) :
    Kept s0 (pllLost s i) := by
  unfold pllLost
  exact kept_raiseN (Kept.upd (t:=s) rfl rfl h)

theorem kept_allLinksDown {s0 : State} {s : State} {sunk : Sunk} (h : Kept s0 s) :
    Kept s0 (allLinksDown s sunk) := by
  unfold allLinksDown
  exact kept_sundovDown (kept_foldl h (fun _ _ h3 => kept_linkDown h3))

theorem kept_domainLost {s0 : State} {s : State} {i : ℕ} {sunk : Sunk} (h : Kept s0 s) :
    Kept s0 (domainLost s i sunk) := by
  unfold domainLost
  split
  · extract_lets +onlyGivenNames s1
    have hs1 : Kept s0 s1 := kept_modCluster h
    clear_value s1
    exact kept_foldl hs1 (fun _ _ h4 => kept_fenceVe h4)
  · split
    · exact kept_fenceDie h
    · split
      · exact kept_fenceStack h
      · split
        · exact kept_fencePort h
        · split
          · exact kept_sundovDown h
          · exact kept_fenceDie h

theorem kept_clockLost {s0 : State} {s : State} {sunk : Sunk} {a : ClockSrc} (h : Kept s0 s) :
    Kept s0 (clockLost s sunk a) := by
  unfold clockLost
  split
  · split
    · exact kept_domainLost (kept_pllLost h)
    · exact h
  · refine kept_fenceDie ?_
    refine kept_foldl h ?_
    intro t4 x41 h4
    split
    · exact kept_pllLost h4
    · exact h4
  · refine kept_allLinksDown ?_
    refine kept_foldl h ?_
    intro t4 x41 h4
    split
    · exact kept_pllLost h4
    · exact h4

theorem kept_cleared {s0 s : State} {bootsel : BitVec 2} {twinRole : Bool} (h : Kept s0 s) : Kept s0 (cleared s bootsel twinRole) :=
  .store h rfl (fun _ => rfl)

theorem kept_packageReset {s0 : State} {s : State} {bootsel : BitVec 2} {cause : ℕ} (h : Kept s0 s) :
    Kept s0 (packageReset s bootsel cause) := by
  unfold packageReset
  extract_lets +onlyGivenNames z
  have hz : Kept s0 z := kept_cleared h
  clear_value z
  exact Kept.upd (t:=z) rfl rfl hz

theorem kept_softResetGo {s0 : State} {s : State} (h : Kept s0 s) :
    Kept s0 (softResetGo s) := by
  unfold softResetGo
  split
  · exact h
  · extract_lets +onlyGivenNames s1
    have hs1 : Kept s0 s1 := by
      unfold s1
      split
      · exact kept_sendFrame h
      · exact h
    clear_value s1
    exact kept_packageReset hs1

theorem kept_pwrokFallOp {s0 : State} {s : State} (h : Kept s0 s) :
    Kept s0 (pwrokFallOp s) := by
  unfold pwrokFallOp
  extract_lets +onlyGivenNames z
  have hz : Kept s0 z := kept_cleared h
  clear_value z
  exact Kept.upd (t:=z) rfl rfl hz

theorem kept_enterRecovery {s0 : State} {s : State} (h : Kept s0 s) :
    Kept s0 (enterRecovery s) := by
  unfold enterRecovery
  extract_lets +onlyGivenNames s1
  clear_value s1
  extract_lets +onlyGivenNames s11
  have hs11 : Kept s0 s11 := Kept.upd (t:=s) rfl rfl h
  clear_value s11
  split
  · exact kept_emit hs11
  · exact Kept.upd (t:=s11) rfl rfl hs11

theorem kept_bootAt {s0 : State} {s : State} {step : ℕ} {state : ℕ} (h : Kept s0 s) :
    Kept s0 (bootAt s step state) := by
  unfold bootAt
  exact Kept.upd (t:=s) rfl rfl h

theorem kept_loadBody {s0 s : State} (h : Kept s0 s) : Kept s0 (loadBody s) := .store h rfl (fun k => inv_ramSet k _ _)

theorem kept_romData {s0 s : State} (h : Kept s0 s) : Kept s0 (romData s) := by
  unfold romData
  generalize bytesOfWords _ = l
  exact .upd (t := { s with mem := { s.mem with ram := cellsSet s.mem.ram 0xF0000 l } }) rfl rfl (.store h rfl (fun k => inv_ramSet k _ _))

theorem kept_showSlots {s0 : State} {s : State} (h : Kept s0 s) :
    Kept s0 (showSlots s) := by
  unfold showSlots
  exact Kept.upd (t:=s) rfl rfl h

theorem kept_bootFlash {s0 : State} {s : State} (h : Kept s0 s) :
    Kept s0 (bootFlash s) := by
  unfold bootFlash
  extract_lets +onlyGivenNames a b s1
  have hs1 : Kept s0 s1 := kept_showSlots h
  clear_value a b s1
  split
  · exact kept_bootAt (kept_loadBody (Kept.upd (t:=s1) rfl rfl hs1))
  · split
    · exact kept_raiseN (kept_bootAt (kept_loadBody (Kept.upd (t:=s1) rfl rfl hs1)))
    · exact kept_enterRecovery (Kept.upd (t:=s1) rfl rfl hs1)

theorem kept_bootPatch {s0 : State} {s : State} {failed : W64} (h : Kept s0 s) :
    Kept s0 (bootPatch s failed) := by
  unfold bootPatch
  extract_lets +onlyGivenNames im words bad s1
  clear_value im s1
  extract_lets +onlyGivenNames s11
  clear_value s11
  extract_lets +onlyGivenNames s12
  clear_value s12
  extract_lets +onlyGivenNames s13
  clear_value s13
  extract_lets +onlyGivenNames s14
  clear_value s14
  extract_lets +onlyGivenNames s15
  have hs15 : Kept s0 s15 := Kept.upd (t:=s) rfl rfl h
  clear_value s15
  exact kept_bootAt (kept_foldl hs15 (fun _ _ h9 => kept_fenceVe h9))

theorem kept_zeroWords {s0 s : State} {which : Nat → Bool} (h : Kept s0 s) : Kept s0 (zeroWords s which) :=
  .store h rfl (fun k => inv_cellsFilter k _ _ _ _)

theorem kept_bootDies {s0 : State} {s : State} {dies : BitVec 4} {units : W16} (h : Kept s0 s) :
    Kept s0 (bootDies s dies units) := by
  unfold bootDies
  extract_lets +onlyGivenNames s1 s2
  have hs1 : Kept s0 s1 := kept_zeroWords h
  have hs2 : Kept s0 s2 := by
    unfold s2
    refine kept_foldl hs1 ?_
    intro t3 x31 h3
    split
    · exact kept_fenceCrc (kept_drawNat h3)
    · exact h3
  clear_value s1 s2
  refine kept_bootAt ?_
  refine kept_foldl hs2 ?_
  intro t4 x41 h4
  split
  · exact kept_fenceDie h4
  · exact h4

theorem kept_trainStack {s0 : State} {temp : Byte} {volt : BitVec 10} {fail : Bool} {s : State} {i : StackId} (h : Kept s0 s) :
    Kept s0 (trainStack temp volt fail s i) := by
  unfold trainStack
  split
  · exact kept_fenceStack h
  · exact kept_modStack h

theorem kept_bootStacks {s0 : State} {s : State} {fail : Byte} {temp : Byte} {volt : BitVec 10} (h : Kept s0 s) :
    Kept s0 (bootStacks s fail temp volt) := by
  unfold bootStacks
  extract_lets +onlyGivenNames s1
  have hs1 : Kept s0 s1 := kept_zeroWords h
  clear_value s1
  refine kept_bootAt ?_
  refine kept_foldl hs1 ?_
  intro t4 x41 h4
  split
  · exact h4
  · exact kept_trainStack h4

theorem kept_bootOpen {s0 : State} {s : State} {ms : W32} (h : Kept s0 s) :
    Kept s0 (bootOpen s ms) := by
  unfold bootOpen
  extract_lets +onlyGivenNames s1 s2
  clear_value s1 s2
  extract_lets +onlyGivenNames s11 s21
  clear_value s11 s21
  extract_lets +onlyGivenNames s12 s22
  have hs12 : Kept s0 s12 := Kept.upd (t:=s) rfl rfl h
  have hs22 : Kept s0 s22 := by
    unfold s22
    refine kept_foldl hs12 ?_
    intro t5 x51 h5
    split
    · exact kept_setAlert h5
    · exact h5
  clear_value s12 s22
  exact kept_raiseN hs22

theorem kept_startUp {s0 : State} {s : State} (h : Kept s0 s) :
    Kept s0 (startUp s) := by
  unfold startUp
  exact kept_bootAt (Kept.upd (t:=s) rfl rfl h)

theorem kept_bootStepOp {s0 : State} {s : State} {f : BootFindings} (h : Kept s0 s) :
    Kept s0 (bootStepOp s f) := by
  unfold bootStepOp
  split
  · exact h
  · split
    · extract_lets +onlyGivenNames s1
      clear_value s1
      extract_lets +onlyGivenNames s11
      have hs11 : Kept s0 s11 := Kept.upd (t:=s) rfl rfl h
      split
      · exact kept_startUp hs11
      · exact hs11
    · split
      · extract_lets +onlyGivenNames s1
        clear_value s1
        extract_lets +onlyGivenNames s11
        clear_value s11
        extract_lets +onlyGivenNames s12
        have hs12 : Kept s0 s12 := Kept.upd (t:=s) rfl rfl h
        clear_value s12
        exact kept_bootAt hs12
      · split
        · extract_lets +onlyGivenNames s1
          have hs1 : Kept s0 s1 := kept_romData h
          clear_value s1
          split
          · exact kept_bootAt hs1
          · split
            · exact kept_enterRecovery (kept_showSlots hs1)
            · extract_lets +onlyGivenNames v
              have hv : Kept s0 v := kept_showSlots hs1
              clear_value v
              exact Kept.upd (t:=v) rfl rfl hv
        · split
          · exact kept_bootFlash h
          · split
            · exact kept_bootPatch h
            · split
              · exact kept_bootDies h
              · split
                · exact kept_bootStacks h
                · split
                  · exact kept_bootOpen h
                  · exact h

theorem kept_recStart {s0 s : State} {target size : Nat} (h : Kept s0 s) : ∀ t, recStart s target size = .ok t → Kept s0 t := by
  unfold recStart
  intro t ht
  split at ht
  · cases ht
  · split at ht
    · cases ht
    · split at ht
      · cases ht
      · cases ht
        exact .upd (t := s) rfl rfl h

theorem kept_recData {s0 s : State} {off : Nat} {data : List Byte} (h : Kept s0 s) : ∀ t, recData s off data = .ok t → Kept s0 t := by
  unfold recData
  intro t ht
  split at ht
  · cases ht
  · split at ht
    · cases ht
    · split at ht
      · cases ht
      · cases ht
        exact .upd (t := s) rfl rfl h

/-- The states that FINISH can leave. -/
theorem kept_recFinish {s0 s : State} (h : Kept s0 s) :
    (∀ c t, recFinish s = .error (c, t) → Kept s0 t) ∧ ∀ t x, recFinish s = .ok (t, x) → Kept s0 t := by
  unfold recFinish
  split
  · exact ⟨fun c t e => by cases e; exact h, fun t x e => by cases e⟩
  · split
    · exact ⟨fun c t e => by cases e; exact h, fun t x e => by cases e⟩
    · extract_lets v bt s1 whole
      have h1 : Kept s0 s1 := .upd (t := s) rfl rfl h
      clear_value s1
      split
      · exact ⟨fun c t e => by cases e; exact h1, fun t x e => by cases e⟩
      · split
        · refine ⟨fun c t e => (nomatch e), fun t x e => ?_⟩
          cases e
          exact .upd (t := s1) rfl rfl h1
        · refine ⟨fun c t e => (nomatch e), fun t x e => ?_⟩
          cases e
          exact .upd (t := s1) rfl rfl h1

theorem kept_recoveryContinueOp {s0 : State} {s : State} (h : Kept s0 s) :
    Kept s0 (recoveryContinueOp s) := by
  unfold recoveryContinueOp
  split
  · split
    · exact h
    · exact kept_bootAt (kept_loadBody (Kept.upd (t:=s) rfl rfl h))
  · exact h

theorem kept_flashDoneOp {s0 : State} {s : State} {failed : Bool} (h : Kept s0 s) :
    Kept s0 (flashDoneOp s failed) := by
  unfold flashDoneOp
  split
  · exact h
  · split
    · exact h
    · extract_lets +onlyGivenNames img s01 b s1 seq d s2
      have hs01 : Kept s0 s01 := by
        unfold s01
        split
        · exact Kept.upd (t:=s) rfl rfl h
        · exact h
      have hseq : Kept s0 seq := by
        unfold seq
        split
        · exact Kept.upd (t:=s01) rfl rfl hs01
        · exact Kept.upd (t:=s01) rfl rfl hs01
      have hs2 : KeptBy Prod.snd s0 s2 := kept_drawNat hseq
      clear_value img s01 b s1 seq d s2
      extract_lets +onlyGivenNames s21
      have hs21 : Kept s0 s21 := hs2
      clear_value s21
      extract_lets +onlyGivenNames s22
      clear_value s22
      extract_lets +onlyGivenNames s23
      have hs23 : Kept s0 s23 := by
        unfold s23
        split
        · exact Kept.upd (t:=s21) rfl rfl hs21
        · exact hseq
      clear_value s23
      exact kept_raiseN (kept_i3cReady hs23)

theorem kept_ownerMoves {s0 : State} {s : State} {p : PartId} {old : PortId} (h : Kept s0 s) :
    Kept s0 (ownerMoves s p old) := by
  unfold ownerMoves
  extract_lets +onlyGivenNames s1 s2 s3
  have hs1 : Kept s0 s1 := kept_rewindOut (kept_failPushes h)
  have hs2 : Kept s0 s2 := kept_modPort hs1
  have hs3 : Kept s0 s3 := kept_foldl hs2 (fun _ _ h3 => kept_raiseN h3)
  clear_value s1 s2 s3
  exact kept_modPart hs3

theorem kept_applyPart {s0 : State} {s : State} {p : PartId} {c : PartCfg} (h : Kept s0 s) :
    Kept s0 (applyPart s p c) := by
  unfold applyPart
  extract_lets +onlyGivenNames o s01 s1 s2
  have hs01 : Kept s0 s01 := kept_foldl h (fun _ _ h3 => kept_moveRing h3)
  have hs1 : Kept s0 s1 := kept_modPart hs01
  have hs2 : Kept s0 s2 := by
    unfold s2
    split
    · exact kept_ownerMoves hs1
    · exact hs1
  clear_value o s01 s1 s2
  split
  · exact kept_applySwap hs2
  · exact hs2

/-- A placement of the bytes under another WIDE_GIB lists them in canonical form again. -/
theorem inv_rehome {s : State} (h : Inv s) (w v : Nat) (x : Byte) : Inv { s with wideGib := x, mem := s.mem.rehome w v } := by
  have hfold : ∀ (l c : List Host.Cell), cellsWf c = true → cellsWf (l.foldl (fun c x => cellSet c (rehome w v x.1) x.2) c) = true := by
    intro l
    induction l with
    | nil => exact fun c hc => hc
    | cons x l ih => exact fun c hc => ih _ (cellsWf_cellSet hc _ _)
  unfold Inv at h ⊢
  rw [Memory.wf_iff] at h ⊢
  exact ⟨hfold _ [] rfl, h.2⟩

theorem kept_applySet {s0 s : State} {g : Grp} {set : List (Byte × W128)} (h : Kept s0 s) : Kept s0 (applySet s g set) := by
  unfold applySet
  split
  · exact kept_applyPart h
  · exact kept_kick (kept_modStream h)
  · exact kept_modBank h
  · exact .store h rfl (fun w => inv_rehome w _ _ _)
  · exact kept_modCluster h
  · extract_lets ws len pw
    clear_value pw
    exact kept_raiseN (.upd (t := s) rfl rfl h)

theorem kept_settleCommit {s0 : State} {s : State} {pd : Pending} (h : Kept s0 s) :
    Kept s0 (settleCommit s pd) := by
  unfold settleCommit
  extract_lets +onlyGivenNames code
  clear_value code
  split
  · exact kept_commitDone (kept_applySet h)
  · exact kept_commitFails h

theorem kept_finishBankCommit {s0 : State} {s : State} {b : BankId} (h : Kept s0 s) :
    Kept s0 (finishBankCommit s b) := by
  unfold finishBankCommit
  split
  · exact h
  · extract_lets +onlyGivenNames old s1
    have hs1 : Kept s0 s1 := kept_settleCommit (kept_modBank h)
    clear_value old s1
    exact kept_resumeWaiters (kept_foldl hs1 (fun _ _ h5 => kept_admitHeld h5))

theorem kept_drainEnds {s0 : State} {s : State} {b : BankId} (h : Kept s0 s) :
    Kept s0 (drainEnds s b) := by
  unfold drainEnds
  split
  · exact h
  · extract_lets +onlyGivenNames p s1
    have hs1 : Kept s0 s1 := by
      unfold s1
      split
      · exact kept_finishBankCommit h
      · exact kept_finishDrain h
    clear_value p s1
    split
    · exact kept_kick hs1
    · exact hs1

theorem kept_bankCommitDrain {s0 : State} {s : State} {b : BankId} {set : List (Byte × W128)} (h : Kept s0 s) :
    Kept s0 (bankCommitDrain s b set) := by
  unfold bankCommitDrain
  extract_lets +onlyGivenNames new
  clear_value new
  split
  · exact h
  · extract_lets +onlyGivenNames code k
    clear_value code k
    split
    · exact h
    · split
      · exact kept_modBank (kept_drainWriter h)
      · exact kept_modBank (kept_dropLines h)

theorem kept_forwardPower {s0 : State} {s : State} {kind : ℕ} {p : PartId} {k : ℕ} {x : ℕ} {more : List W128} (h : Kept s0 s) :
    Kept s0 (forwardPower s kind p k x more) := by
  unfold forwardPower
  split
  · exact kept_sendFrame h
  · exact h

theorem kept_dispatchEvent {s0 : State} {s : State} {x : ℕ} {dt : W32} (h : Kept s0 s) :
    Kept s0 (dispatchEvent s x dt) := by
  unfold dispatchEvent
  split
  · exact h
  · exact kept_raiseN h

theorem kept_reefTo {s0 : State} {s : State} {c : ClusterId} {l : ℕ} (h : Kept s0 s) :
    Kept s0 (reefTo s c l) := by
  unfold reefTo
  extract_lets +onlyGivenNames k rise pause
  clear_value k
  split
  · exact h
  · split
    · exact kept_modCluster h
    · split
      · split
        · exact kept_modCluster h
        · split
          · exact kept_modCluster h
          · split
            · exact h
            · split
              · exact kept_modCluster h
              · exact kept_modCluster h
      · split
        · exact kept_modCluster h
        · split
          · exact kept_modCluster h
          · exact kept_modCluster h
      · split
        · exact kept_modCluster h
        · exact kept_modCluster h

theorem kept_orderLevel {s0 : State} {s : State} {c : ClusterId} {l : ℕ} (h : Kept s0 s) :
    Kept s0 (orderLevel s c l) := by
  unfold orderLevel
  exact kept_forwardPower (kept_reefTo h)

theorem kept_railArrives {s0 : State} {s : State} {c : ClusterId} (h : Kept s0 s) :
    Kept s0 (railArrives s c) := by
  unfold railArrives
  split
  · split
    · exact h
    · exact kept_modCluster h
  · exact h

theorem kept_clockRestart {s0 : State} {s : State} {c : ClusterId} (h : Kept s0 s) :
    Kept s0 (clockRestart s c) := by
  unfold clockRestart
  split
  · split
    · exact h
    · extract_lets +onlyGivenNames old s1
      have hs1 : Kept s0 s1 := kept_modCluster h
      clear_value old s1
      split
      · exact hs1
      · exact kept_dispatchEvent hs1
  · exact h

theorem kept_wakeNow {s0 : State} {s : State} {c : ClusterId} (h : Kept s0 s) :
    Kept s0 (wakeNow s c) := by
  unfold wakeNow
  extract_lets +onlyGivenNames s1
  have hs1 : Kept s0 s1 := kept_modCluster h
  clear_value s1
  exact kept_dispatchEvent hs1

theorem kept_sleepNow {s0 : State} {s : State} {c : ClusterId} (h : Kept s0 s) :
    Kept s0 (sleepNow s c) := by
  unfold sleepNow
  extract_lets +onlyGivenNames old go s1 s2 s3
  have hs1 : Kept s0 s1 := kept_foldl h (fun _ _ h3 => kept_serveLatch h3)
  have hs2 : Kept s0 s2 := kept_modCluster hs1
  have hs3 : Kept s0 s3 := kept_dispatchEvent hs2
  clear_value old go s1 s2 s3
  split
  · exact kept_wakeNow hs3
  · exact hs3

theorem kept_wakeOp {s0 : State} {s : State} {c : ClusterId} (h : Kept s0 s) :
    Kept s0 (wakeOp s c) := by
  unfold wakeOp
  split
  · exact h
  · split
    · exact kept_modCluster h
    · split
      · exact kept_wakeNow h
      · exact h

theorem kept_ctxFails {s0 : State} {s : State} {p : PartId} {n : VeId} {lve : ℕ} {status : ℕ} {off : ℕ} (h : Kept s0 s) :
    Kept s0 (ctxFails s p n lve status off) := by
  unfold ctxFails
  extract_lets +onlyGivenNames s1
  have hs1 : Kept s0 s1 := kept_raiseN h
  clear_value s1
  exact kept_failSegment hs1

theorem kept_ctxWrite {s0 : State} {s : State} {p : PartId} {n : VeId} {lve : ℕ} (h : Kept s0 s) :
    KeptBy Prod.snd s0 (ctxWrite s p n lve) := by
  unfold ctxWrite
  refine KeptBy.intro ?_
  refine kept_foldl_snd h ?_
  intro y3 x31 h3
  split
  · exact KeptBy.intro h3
  · extract_lets +onlyGivenNames d a
    have hd : KeptBy Prod.snd s0 d := kept_drawWord h3
    have ha : KeptBy Acc.s s0 a := kept_writePart hd
    clear_value d a
    exact KeptBy.snd ha

theorem kept_ctxRead {s0 : State} {s : State} {p : PartId} {n : VeId} {lve : ℕ} (h : Kept s0 s) :
    KeptBy Prod.snd s0 (ctxRead s p n lve) := by
  unfold ctxRead
  refine KeptBy.intro ?_
  refine kept_foldl_snd h ?_
  intro y3 x31 h3
  split
  · exact KeptBy.intro h3
  · extract_lets +onlyGivenNames a
    have ha : KeptBy Acc.s s0 a := kept_readPart h3
    clear_value a
    exact KeptBy.snd ha

theorem kept_ctxLoad {s0 : State} {s : State} {n : VeId} {x : SavedCtx} (h : Kept s0 s) :
    Kept s0 (ctxLoad s n x) := by
  unfold ctxLoad
  extract_lets +onlyGivenNames s1
  have hs1 : Kept s0 s1 := kept_modSeq h
  clear_value s1
  exact kept_modEng hs1

/-- One step of a load of contexts. (The read is kept opaque: the kernel would evaluate it.) -/
theorem ctxLoads_cons (p : PartId) (n : VeId) (i : Nat) (r : List (VeId × Nat)) (s : State) : ctxLoads p ((n, i) :: r) s = 
    match s.parts[p].saved.find? fun x => x.lve == i with
    | none => ctxLoads p r s
    | some x =>
      let y := ctxRead s p n i
      match y.1 with
      | some (9, _) => none
      | some (st, off) => some (ctxFails y.2 p n i st off)
      | none => ctxLoads p r (ctxLoad y.2 n x) := by
  obtain ⟨rd, h⟩ := exists_eq (a' := ctxRead)
  obtain ⟨f, hf⟩ := exists_eq (a' := ctxLoads)
  have hu := hf.trans (show ctxLoads = _ by delta ctxLoads ctxLoads._f; exact rfl)
  rw [← h] at hu
  rw [← hf, ← h]
  rw [hu] <;> rfl

theorem kept_ctxLoads {s0 : State} {p : PartId} {l : List (VeId × Nat)} {s : State} (h : Kept s0 s) : KeptIf id s0 (ctxLoads p l s) := by
  induction l generalizing s with
  | nil => exact .some h
  | cons n r ih =>
    have hread := @kept_ctxRead s0
    obtain ⟨read, he⟩ := exists_eq (a' := ctxRead)
    rw [ctxLoads_cons, ← he]
    rw [← he] at hread
    split
    · exact ih h
    · extract_lets y
      have hy : KeptBy Prod.snd s0 y := hread h
      clear_value y
      split
      · exact .none
      · exact .some (kept_ctxFails hy)
      · exact ih (kept_ctxLoad hy)

theorem kept_ownRing {s0 : State} {p : PartId} {s : State} {n : VeId} (h : Kept s0 s) :
    Kept s0 (ownRing p s n) := by
  unfold ownRing
  extract_lets +onlyGivenNames g other
  clear_value g
  split
  · exact kept_moveRing h
  · exact h

theorem kept_enterSlot {s0 s : State} {p : PartId} (h : Kept s0 s) : Kept s0 (enterSlot s p) := by
  unfold enterSlot
  split
  · exact h
  · extract_lets s1 s2
    have h1 : Kept s0 s1 := kept_modPart (kept_foldl h fun t n ht => kept_ownRing ht)
    clear_value s1
    have h2 : Kept s0 s2 := by
      unfold s2
      split
      · exact h1
      · exact kept_banksToVes h1
    clear_value s2
    have h3 : ∀ b : List VeId, KeptIf id s0 (if s.parts[p].fresh then some s2 else ctxLoads p b.zipIdx s2) := by
      intro b
      split
      · exact .some h2
      · exact kept_ctxLoads h2
    split
    · next s3 hs3 => exact kept_modPart (.upd (t := s3) rfl rfl (h3 _ _ hs3))
    · exact .upd (t := s) rfl rfl h

theorem kept_slotGo {s0 : State} {s : State} (h : Kept s0 s) :
    Kept s0 (slotGo s) := by
  unfold slotGo
  split
  · exact kept_enterSlot h
  · exact h

theorem kept_endSlot {s0 : State} {s : State} (h : Kept s0 s) :
    Kept s0 (endSlot s) := by
  unfold endSlot
  split
  · exact h
  · extract_lets +onlyGivenNames s01
    clear_value s01
    extract_lets +onlyGivenNames s02
    have hs02 : Kept s0 s02 := Kept.upd (t:=s) rfl rfl h
    clear_value s02
    split
    · exact hs02
    · extract_lets +onlyGivenNames p ran s1 s2
      have hs1 : Kept s0 s1 := kept_modPart hs02
      extract_lets +onlyGivenNames s21
      have hs21 : Kept s0 s21 := by
        unfold s21
        split
        · exact hs1
        · exact Kept.upd (t:=s1) rfl rfl hs1
      clear_value s21
      exact kept_forwardPower hs21

theorem kept_slotEvent {s0 : State} {s : State} {p : PartId} {why : ℕ} (h : Kept s0 s) :
    Kept s0 (slotEvent s p why) := by
  unfold slotEvent
  exact kept_raiseN h

theorem kept_slotUnbound {s0 : State} {s : State} {p : PartId} (h : Kept s0 s) :
    Kept s0 (slotUnbound s p) := by
  unfold slotUnbound
  split
  · exact kept_failSegmentFree h
  · split
    · exact h
    · exact kept_settle (kept_ledgerItem (kept_modPart h))

theorem kept_beginSlot {s0 : State} {s : State} {p : PartId} (h : Kept s0 s) :
    Kept s0 (beginSlot s p) := by
  unfold beginSlot
  extract_lets +onlyGivenNames keeps
  split
  · exact kept_enterSlot h
  · split
    · exact kept_enterSlot (Kept.upd (t:=s) rfl rfl h)
    · exact Kept.upd (t:=s) rfl rfl h

theorem kept_startSlot {s0 : State} {s : State} {i : Fin 64} (h : Kept s0 s) :
    Kept s0 (startSlot s i) := by
  unfold startSlot
  extract_lets +onlyGivenNames w s1 p on
  have hp : Kept s0 p := Kept.upd (t:=s) rfl rfl h
  extract_lets +onlyGivenNames on1
  clear_value on1
  extract_lets +onlyGivenNames on2
  have hon2 : Kept s0 on2 := Kept.upd (t:=p) rfl rfl hp
  clear_value on2
  split
  · exact hon2
  · split
    · exact kept_slotEvent hp
    · split
      · exact kept_slotUnbound (kept_slotEvent hp)
      · exact kept_beginSlot (kept_forwardPower (kept_modPart hon2))

theorem kept_nextSlot {s0 : State} {s : State} (h : Kept s0 s) :
    Kept s0 (nextSlot s) := by
  unfold nextSlot
  extract_lets +onlyGivenNames i
  clear_value i
  split
  · exact kept_startSlot h
  · extract_lets +onlyGivenNames s1
    clear_value s1
    extract_lets +onlyGivenNames s11
    have hs11 : Kept s0 s11 := Kept.upd (t:=s) rfl rfl h
    clear_value s11
    refine kept_startSlot ?_
    split
    · exact kept_settleCommit hs11
    · exact hs11

theorem kept_tickSlots {s0 : State} {s : State} {waited : W16} (h : Kept s0 s) :
    Kept s0 (tickSlots s waited) := by
  unfold tickSlots
  split
  · exact kept_nextSlot h
  · extract_lets +onlyGivenNames p s1
    extract_lets +onlyGivenNames s11
    have hs11 : Kept s0 s11 := Kept.upd (t:=s) rfl rfl h
    clear_value s11
    split
    · exact kept_nextSlot (kept_endSlot hs11)
    · split
      · exact hs11
      · split
        · exact kept_slotEvent (kept_endSlot hs11)
        · split
          · exact kept_slotEvent (kept_endSlot hs11)
          · exact hs11

theorem kept_slotStopOp {s0 s : State} {n : VeId} (h : Kept s0 s) : Kept s0 (slotStopOp s n) := by
  have hwrite := @kept_ctxWrite s0
  obtain ⟨write, he⟩ := exists_eq (a' := ctxWrite)
  rw [show slotStopOp = _ by delta slotStopOp; exact rfl, ← he]
  rw [← he] at hwrite
  split
  · exact h
  · next p _ =>
    refine .ite (fun _ => h) fun _ => ?_
    extract_lets lve k e x y s1 s2 s3 s4 rest pw s5 pw' s6
    have hy : KeptBy Prod.snd s0 y := hwrite h
    clear_value y
    refine .ite (fun _ => h) fun _ => ?_
    have h3 : Kept s0 s3 := kept_modEng (kept_modSeq (kept_modPart hy))
    have h4 : Kept s0 s4 := by
      unfold s4
      split
      · exact kept_ctxFails h3
      · exact .ite (fun _ => kept_doneEvent h3) fun _ => h3
    clear_value s4
    have h5 : Kept s0 s5 := .upd (t := s4) rfl rfl h4
    exact .ite (fun _ => h5) fun _ => kept_slotGo (kept_modPart (.upd (t := s5) rfl rfl h5))

theorem kept_slotExpiryOp {s0 : State} {s : State} (h : Kept s0 s) :
    Kept s0 (slotExpiryOp s) := by
  unfold slotExpiryOp
  split
  · exact h
  · exact kept_endSlot (Kept.upd (t:=s) rfl rfl h)

theorem kept_tickEnergy {s0 : State} {m : TickMeas} {s : State} {p : PartId} (h : Kept s0 s) :
    Kept s0 (tickEnergy m s p) := by
  unfold tickEnergy
  extract_lets +onlyGivenNames w a
  clear_value w a
  exact kept_modPart h

theorem kept_tickMeasure {s0 : State} {s : State} {m : TickMeas} (h : Kept s0 s) :
    Kept s0 (tickMeasure s m) := by
  unfold tickMeasure
  extract_lets +onlyGivenNames s1
  clear_value s1
  extract_lets +onlyGivenNames s11
  have hs11 : Kept s0 s11 := Kept.upd (t:=s) rfl rfl h
  clear_value s11
  exact Kept.upd (t:=s11) rfl rfl hs11

theorem kept_tickQuiet {s0 : State} {s : State} (h : Kept s0 s) :
    Kept s0 (tickQuiet s) := by
  unfold tickQuiet
  refine kept_foldl h ?_
  intro t2 x21 h2
  extract_lets +onlyGivenNames k
  clear_value k
  split
  · split
    · exact h2
    · exact kept_dispatchEvent (kept_modStack h2)
  · exact h2

theorem kept_tickStacks {s0 : State} {s : State} (h : Kept s0 s) :
    Kept s0 (tickStacks s) := by
  unfold tickStacks
  exact Kept.upd (t:=s) rfl rfl h

theorem kept_tickDecide {s0 : State} {s : State} {started : Option PartId} (h : Kept s0 s) :
    Kept s0 (tickDecide s started) := by
  unfold tickDecide
  extract_lets +onlyGivenNames r s1 s2 s3
  have hs1 : Kept s0 s1 := kept_foldl h (fun _ _ h3 => kept_raiseN h3)
  have hs3 : Kept s0 s3 := Kept.upd (t:=s1) rfl rfl hs1
  clear_value r s1 s2 s3
  extract_lets +onlyGivenNames s31
  have hs31 : Kept s0 s31 := by
    unfold s31
    split
    · exact kept_raiseN hs3
    · exact hs3
  clear_value s31
  exact kept_foldl hs31 (fun _ _ h4 => kept_orderLevel h4)

theorem kept_tickSleep {s0 : State} {s : State} {sleepy : Byte} (h : Kept s0 s) :
    Kept s0 (tickSleep s sleepy) := by
  unfold tickSleep
  refine kept_foldl h ?_
  intro t2 x21 h2
  extract_lets +onlyGivenNames k
  clear_value k
  split
  · exact kept_sleepNow h2
  · exact h2

theorem kept_tickRows {s0 : State} {s : State} (h : Kept s0 s) :
    Kept s0 (tickRows s) := by
  unfold tickRows
  refine kept_foldl h ?_
  intro t2 x21 h2
  split
  · exact kept_reefTo (kept_settleCommit h2)
  · exact h2

theorem kept_dispatchTickOp {s0 : State} {s : State} {m : TickMeas} (h : Kept s0 s) :
    Kept s0 (dispatchTickOp s m) := by
  unfold dispatchTickOp
  split
  · exact h
  · extract_lets +onlyGivenNames s01 s1 s2 s3 s4
    have hs01 : Kept s0 s01 := kept_tickQuiet (kept_tickMeasure h)
    have hs1 : Kept s0 s1 := kept_tickRows hs01
    have hs2 : Kept s0 s2 := by
      unfold s2
      split
      · exact hs1
      · exact kept_tickSlots hs1
    have hs3 : Kept s0 s3 := kept_foldl hs2 (fun _ _ h4 => kept_tickEnergy h4)
    have hs4 : Kept s0 s4 := by
      unfold s4
      split
      · exact hs3
      · exact kept_tickDecide hs3
    clear_value s01 s1 s2 s3 s4
    exact kept_tickSleep (kept_tickStacks hs4)

theorem kept_fastLimitOp {s0 : State} {s : State} {watts : W16} (h : Kept s0 s) :
    Kept s0 (fastLimitOp s watts) := by
  unfold fastLimitOp
  split
  · exact h
  · exact kept_raiseN (kept_foldl h (fun _ _ h4 => kept_reefTo h4))

theorem kept_setDieTemp {s0 : State} {s : State} {d : DieId} {t : Byte} (h : Kept s0 s) :
    Kept s0 (setDieTemp s d t) := by
  unfold setDieTemp
  exact Kept.upd (t:=s) rfl rfl h

theorem kept_tjAlertOp {s0 : State} {s : State} {d : DieId} {t : Byte} (h : Kept s0 s) :
    Kept s0 (tjAlertOp s d t) := by
  unfold tjAlertOp
  split
  · exact h
  · extract_lets +onlyGivenNames s1
    have hs1 : Kept s0 s1 := kept_setDieTemp h
    clear_value s1
    exact kept_raiseN (Kept.upd (t:=s1) rfl rfl hs1)

theorem kept_thermalOp {s0 : State} {s : State} {d : DieId} {t : Byte} (h : Kept s0 s) :
    Kept s0 (thermalOp s d t) := by
  unfold thermalOp
  split
  · exact h
  · extract_lets +onlyGivenNames s1
    have hs1 : Kept s0 s1 := kept_foldl (kept_setDieTemp h) (fun _ _ h4 => kept_reefTo h4)
    clear_value s1
    exact kept_raiseN (Kept.upd (t:=s1) rfl rfl hs1)

theorem kept_thermtripOp {s0 : State} {s : State} (h : Kept s0 s) :
    Kept s0 (thermtripOp s) := by
  unfold thermtripOp
  split
  · exact h
  · extract_lets +onlyGivenNames s1
    have hs1 : Kept s0 s1 := kept_loseDevice h
    clear_value s1
    exact Kept.upd (t:=s1) rfl rfl hs1

theorem kept_csOutOp {s0 : State} {s : State} {c : ClusterId} (h : Kept s0 s) :
    Kept s0 (csOutOp s c) := by
  unfold csOutOp
  extract_lets +onlyGivenNames k t
  clear_value k t
  split
  · exact h
  · exact kept_raiseN (kept_modCluster h)

theorem kept_eqOutOp {s0 : State} {s : State} {h1 : PortId} (h : Kept s0 s) :
    Kept s0 (eqOutOp s h1) := by
  unfold eqOutOp
  extract_lets +onlyGivenNames t
  clear_value t
  split
  · exact h
  · exact kept_raiseN (kept_modPort h)

theorem kept_stackHotOp {s0 : State} {s : State} {st : StackId} {t : Byte} (h : Kept s0 s) :
    Kept s0 (stackHotOp s st t) := by
  unfold stackHotOp
  split
  · exact h
  · exact kept_raiseN (kept_modStack h)

theorem kept_linkUpOp {s0 : State} {s : State} {h1 : PortId} {width : BitVec 4} {speed : BitVec 3} {volt : BitVec 10} {load : BitVec 2} (h : Kept s0 s) :
    Kept s0 (linkUpOp s h1 width speed volt load) := by
  unfold linkUpOp
  extract_lets +onlyGivenNames t
  clear_value t
  split
  · exact h
  · extract_lets +onlyGivenNames d s1 s2
    have hs1 : Kept s0 s1 := kept_modPort h
    have hs2 : Kept s0 s2 := kept_raiseN (kept_msixFlush hs1)
    clear_value d s1 s2
    exact kept_foldl hs2 (fun _ _ h5 => kept_kick h5)

theorem kept_enumerate {s0 : State} {s : State} {h1 : PortId} (h : Kept s0 s) :
    Kept s0 (enumerate s h1) := by
  unfold enumerate
  split
  · exact kept_msixFlush (kept_modPort h)
  · exact h

theorem kept_unsupported {s0 : State} {s : State} {h1 : PortId} (h : Kept s0 s) :
    Kept s0 (unsupported s h1) := by
  unfold unsupported
  exact kept_modPort h

theorem kept_hotResetOp {s0 : State} {s : State} {h1 : PortId} {sunk : ℕ} (h : Kept s0 s) :
    Kept s0 (hotResetOp s h1 sunk) := by
  unfold hotResetOp
  split
  · exact h
  · exact kept_raiseN (kept_portReset (kept_modPort h))

theorem kept_flrOp {s0 : State} {s : State} {h1 : PortId} {sunk : ℕ} (h : Kept s0 s) :
    Kept s0 (flrOp s h1 sunk) := by
  unfold flrOp
  split
  · exact h
  · exact kept_raiseN (kept_portReset h)

theorem kept_linkErrorOp {s0 : State} {s : State} {h1 : PortId} (h : Kept s0 s) :
    Kept s0 (linkErrorOp s h1) := by
  unfold linkErrorOp
  split
  · exact h
  · extract_lets +onlyGivenNames n d s1
    have hd : KeptBy Prod.snd s0 d := kept_drawWord h
    have hs1 : Kept s0 s1 := kept_modPort hd
    clear_value n d s1
    split
    · exact kept_raiseN hs1
    · exact hs1

theorem kept_dropHalf {s0 : State} {s : State} {h1 : PortId} {bar0 : Bool} (h : Kept s0 s) :
    Kept s0 (dropHalf s h1 bar0) := by
  unfold dropHalf
  split
  · exact Kept.upd (t:=s) rfl rfl h
  · exact h

theorem kept_strayAccess {s0 : State} {s : State} {h1 : PortId} {p : PartId} {k : Fin 8} {bar0 : Bool} {write : Bool} (h : Kept s0 s) :
    KeptBy Prod.fst s0 (strayAccess s h1 p k bar0 write) := by
  unfold strayAccess
  extract_lets +onlyGivenNames ab ev
  split
  · refine KeptBy.fst ?_
    unfold ab
    split
    · exact kept_portAbort h
    · exact h
  · split
    · refine KeptBy.fst ?_
      split
      · unfold ab
        split
        · exact kept_portAbort h
        · exact kept_portAbort h
      · unfold ev
        exact kept_raiseN h
    · split
      · refine KeptBy.fst ?_
        unfold ab
        split
        · refine kept_portAbort ?_
          unfold ev
          exact kept_raiseN h
        · unfold ev
          exact kept_raiseN h
      · exact KeptBy.fst h

theorem kept_malformedWrite {s0 : State} {s : State} {h1 : PortId} {p : PartId} {k : Fin 8} (h : Kept s0 s) :
    Kept s0 (malformedWrite s h1 p k) := by
  unfold malformedWrite
  extract_lets +onlyGivenNames s1
  have hs1 : Kept s0 s1 := kept_raiseN h
  clear_value s1
  split
  · exact kept_modStream (kept_failPush hs1)
  · exact hs1

theorem kept_pushTlp {s0 : State} {s : State} {h1 : PortId} {p : PartId} {k : Fin 8} {data : List W128} (h : Kept s0 s) :
    Kept s0 (pushTlp s h1 p k data) := by
  unfold pushTlp
  extract_lets +onlyGivenNames y
  have hy : KeptBy Prod.snd s0 y := kept_pushWords h
  clear_value y
  split
  · exact hy
  · extract_lets +onlyGivenNames z w
    have hz : Kept s0 z := kept_restoreGo hy
    have hw : KeptBy Prod.snd s0 w := kept_pushWords hz
    clear_value z w
    split
    · exact hw
    · exact kept_modPort hw

theorem kept_inWriteOp {s0 : State} {s : State} {h1 : PortId} {p : PartId} {k : Fin 8} {bar0 : Bool} {off : ℕ} {data : List Byte} (h : Kept s0 s) :
    Kept s0 (inWriteOp s h1 p k bar0 off data) := by
  unfold inWriteOp
  extract_lets +onlyGivenNames x
  have hx : KeptBy Prod.fst s0 x := kept_strayAccess (kept_dropHalf h)
  clear_value x
  split
  · exact hx
  · split
    · exact kept_kick (kept_malformedWrite hx)
    · exact kept_partGo (kept_pushTlp hx)

theorem kept_outReadOp {s0 : State} {s : State} {h1 : PortId} {p : PartId} {k : Fin 8} {bar0 : Bool} {off : ℕ} {bytes : ℕ} (h : Kept s0 s) :
    Kept s0 (outReadOp s h1 p k bar0 off bytes) := by
  unfold outReadOp
  extract_lets +onlyGivenNames x
  have hx : KeptBy Prod.fst s0 x := kept_strayAccess (kept_dropHalf h)
  clear_value x
  split
  · split
    · exact kept_emit hx
    · exact kept_emit (kept_unsupported hx)
  · split
    · exact kept_emit hx
    · split
      · exact kept_emit (kept_unsupported hx)
      · extract_lets +onlyGivenNames n m r s1
        have hr : KeptBy Prod.snd s0 r := kept_readOut hx
        have hs1 : Kept s0 s1 := kept_modStream hr
        clear_value n m r s1
        exact kept_kick (kept_emit hs1)

theorem kept_bar2Write {s0 : State} {s : State} {h1 : PortId} {off : ℕ} {data : List Byte} (h : Kept s0 s) :
    Kept s0 (bar2Write s h1 off data) := by
  unfold bar2Write
  exact kept_msixFlush (kept_modPort h)

theorem kept_bar2Read {s0 : State} {s : State} {h1 : PortId} {off : ℕ} {bytes : ℕ} (h : Kept s0 s) :
    Kept s0 (bar2Read s h1 off bytes) := by
  unfold bar2Read
  exact kept_emit h

theorem kept_presentOp {s0 : State} {s : State} {p : PartId} {k : Fin 8} (h : Kept s0 s) :
    Kept s0 (presentOp s p k) := by
  unfold presentOp
  split
  · exact h
  · split
    · split
      · split
        · exact h
        · exact kept_releaseBlocks h
      · exact h
    · split
      · split
        · exact h
        · exact kept_presentTrace h
      · split
        · exact kept_presentEvents h
        · split
          · exact kept_presentLedger h
          · split
            · exact kept_saveOp h
            · exact h

theorem kept_holdTimeoutOp {s0 : State} {s : State} {h1 : PortId} (h : Kept s0 s) :
    Kept s0 (holdTimeoutOp s h1) := by
  unfold holdTimeoutOp
  split
  · split
    · exact h
    · extract_lets +onlyGivenNames st f s1 s2
      have hf : Kept s0 f := by
        unfold f
        split
        · exact kept_failPush h
        · exact kept_failBlock h
      have hs1 : Kept s0 s1 := kept_modPort hf
      have hs2 : Kept s0 s2 := kept_modStream hs1
      clear_value st f s1 s2
      exact kept_partGo (kept_raiseN hs2)
  · exact h

theorem kept_commitPhaseOp {s0 : State} {s : State} {p : PartId} (h : Kept s0 s) :
    Kept s0 (commitPhaseOp s p) := by
  unfold commitPhaseOp
  extract_lets +onlyGivenNames t u
  have ht : Kept s0 t := kept_commitOp h
  have hu : Kept s0 u := by
    unfold u
    split
    · split
      · split
        · exact kept_settleCommit ht
        · exact ht
      · exact ht
    · exact ht
  clear_value t u
  exact kept_detachGo hu

theorem kept_editSlot {s0 : State} {s : State} {p : PartId} {v : ℕ} (h : Kept s0 s) :
    Kept s0 (editSlot s p v) := by
  unfold editSlot
  extract_lets +onlyGivenNames s1 w
  have hs1 : Kept s0 s1 := kept_modPart h
  clear_value s1 w
  exact kept_modPart hs1

theorem kept_editGo {s0 : State} {s : State} {r : Requester} {p : PartId} (h : Kept s0 s) :
    KeptBy Prod.fst s0 (editGo s r p) := by
  unfold editGo
  extract_lets +onlyGivenNames q w slot
  clear_value q w slot
  split
  · exact KeptBy.fst h
  · split
    · exact KeptBy.fst h
    · split
      · exact KeptBy.fst h
      · split
        · exact KeptBy.fst h
        · extract_lets +onlyGivenNames e s1
          have hs1 : Kept s0 s1 := by
            unfold s1
            split
            · exact kept_forward h
            · exact h
          clear_value e s1
          split
          · exact KeptBy.fst (kept_landEdit hs1)
          · exact KeptBy.fst (kept_modPart hs1)

theorem kept_loadReset {s0 : State} {s : State} {p : PartId} (h : Kept s0 s) :
    Kept s0 (loadReset s p) := by
  unfold loadReset
  extract_lets +onlyGivenNames none' s1 s2
  have hs1 : Kept s0 s1 := kept_modPart h
  have hs2 : Kept s0 s2 := kept_modStream hs1
  clear_value s1 s2
  exact kept_kick (kept_modStream hs2)

theorem kept_partWrite {s0 s : State} {r : Requester} {p : PartId} {u v : Nat} (h : Kept s0 s) :
    KeptBy Prod.fst s0 (partWrite s r p u v) := by
  unfold partWrite
  extract_lets cfg
  have hcfg : ∀ f, Kept s0 (cfg f) := fun f => kept_modPart h
  clear_value cfg
  refine .ite (fun _ => .ite (fun _ => .fst h) fun _ => .ite (fun _ => .fst h) fun _ => .fst (kept_loadReset h)) fun _ => ?_
  refine .ite (fun _ => .fst (hcfg _)) fun _ => ?_
  refine .ite (fun _ => .fst (kept_editSlot h)) fun _ => ?_
  refine .ite (fun _ => .fst (kept_modPart h)) fun _ => ?_
  refine .ite (fun _ => .fst (kept_modPart h)) fun _ => ?_
  refine .ite (fun _ => kept_editGo h) fun _ => ?_
  refine .ite (fun _ => .fst (kept_msix (hcfg _))) fun _ => ?_
  refine .ite (fun _ => .fst (kept_msix (hcfg _))) fun _ => ?_
  refine .ite (fun _ => .fst (kept_msix (hcfg _))) fun _ => ?_
  refine .ite (fun _ => .fst (kept_msix (kept_modPart h))) fun _ => ?_
  refine .ite (fun _ => .fst (hcfg _)) fun _ => ?_
  refine .ite (fun _ => .fst (hcfg _)) fun _ => ?_
  refine .ite (fun _ => .fst (.ite (fun _ => kept_fenceReach (kept_fencePart (kept_endReached h))) fun _ => h)) fun _ => ?_
  exact .fst h

theorem kept_streamWrite {s0 : State} {s : State} {p : PartId} {k : Fin 8} {u : ℕ} {v : ℕ} (h : Kept s0 s) :
    KeptBy Prod.fst s0 (streamWrite s p k u v) := by
  unfold streamWrite
  split
  · exact KeptBy.fst (kept_kick (kept_resyncOp h))
  · split
    · split
      · refine KeptBy.fst ?_
        rename_i hk
        exact kept_replayOp h _ hk
      · exact KeptBy.fst h
    · exact KeptBy.fst h

theorem kept_engineWrite {s0 : State} {s : State} {n : VeId} {u : ℕ} {v : ℕ} {sunk : Sunk} (h : Kept s0 s) :
    Kept s0 (engineWrite s n u v sunk) := by
  unfold engineWrite
  split
  · exact kept_modSeq h
  · split
    · exact kept_modSeq h
    · split
      · exact kept_modSeq h
      · split
        · exact kept_fenceReach (kept_fenceVe (kept_endReached h))
        · exact h

theorem kept_memEntryWrite {s0 : State} {s : State} {u : ℕ} {v : ℕ} (h : Kept s0 s) :
    Kept s0 (memEntryWrite s u v) := by
  unfold memEntryWrite
  split
  · exact Kept.upd (t:=s) rfl rfl h
  · split
    · exact Kept.upd (t:=s) rfl rfl h
    · split
      · exact Kept.upd (t:=s) rfl rfl h
      · exact h

theorem kept_ownerWrite {s0 : State} {s : State} {r : Requester} {b : BankId} {v : ℕ} (h : Kept s0 s) :
    KeptBy Prod.fst s0 (ownerWrite s r b v) := by
  unfold ownerWrite
  extract_lets +onlyGivenNames c
  clear_value c
  split
  · exact KeptBy.fst h
  · split
    · exact KeptBy.fst h
    · exact KeptBy.fst (kept_startDrain h)

theorem kept_bankWrite {s0 : State} {s : State} {r : Requester} {b : BankId} {u : ℕ} {v : ℕ} (h : Kept s0 s) :
    KeptBy Prod.fst s0 (bankWrite s r b u v) := by
  unfold bankWrite
  split
  · exact kept_ownerWrite h
  · split
    · exact KeptBy.fst (kept_fenceReach (kept_fenceBank h))
    · split
      · exact KeptBy.fst (kept_modBank h)
      · exact KeptBy.fst h

theorem kept_sourceWrite {s0 : State} {s : State} {x : SrcId} {u : ℕ} {v : ℕ} (h : Kept s0 s) :
    Kept s0 (sourceWrite s x u v) := by
  unfold sourceWrite
  extract_lets +onlyGivenNames md
  clear_value md
  extract_lets +onlyGivenNames md1
  split
  · exact kept_retarget h
  · split
    · unfold md1
      exact Kept.upd (t:=s) rfl rfl h
    · split
      · unfold md1
        exact Kept.upd (t:=s) rfl rfl h
      · split
        · unfold md1
          exact Kept.upd (t:=s) rfl rfl h
        · split
          · unfold md1
            exact Kept.upd (t:=s) rfl rfl h
          · split
            · unfold md1
              exact Kept.upd (t:=s) rfl rfl h
            · exact h

theorem kept_powerWrite {s0 : State} {s : State} {u : ℕ} {v : ℕ} (h : Kept s0 s) :
    Kept s0 (powerWrite s u v) := by
  unfold powerWrite
  extract_lets +onlyGivenNames md
  split
  · unfold md
    exact Kept.upd (t:=s) rfl rfl h
  · split
    · unfold md
      exact Kept.upd (t:=s) rfl rfl h
    · split
      · unfold md
        exact Kept.upd (t:=s) rfl rfl h
      · split
        · unfold md
          exact Kept.upd (t:=s) rfl rfl h
        · split
          · unfold md
            exact Kept.upd (t:=s) rfl rfl h
          · exact h

theorem kept_slotActiveWrite {s0 : State} {s : State} {i : Fin 64} {v : ℕ} (h : Kept s0 s) :
    KeptBy Prod.fst s0 (slotActiveWrite s i v) := by
  unfold slotActiveWrite
  split
  · exact KeptBy.fst h
  · exact KeptBy.fst (Kept.upd (t:=s) rfl rfl h)

theorem kept_alertWrite {s0 : State} {s : State} {v : ℕ} (h : Kept s0 s) :
    Kept s0 (alertWrite s v) := by
  unfold alertWrite
  extract_lets +onlyGivenNames hot keep
  clear_value hot keep
  exact Kept.upd (t:=s) rfl rfl h

theorem kept_twinWrite {s0 : State} {s : State} {u : ℕ} {v : ℕ} (h : Kept s0 s) :
    KeptBy Prod.fst s0 (twinWrite s u v) := by
  unfold twinWrite
  split
  · split
    · exact KeptBy.fst (kept_resyncStart h)
    · exact KeptBy.fst h
  · split
    · split
      · exact KeptBy.fst (kept_detachGo (Kept.upd (t:=s) rfl rfl h))
      · exact KeptBy.fst h
    · split
      · split
        · exact KeptBy.fst (kept_promote h)
        · exact KeptBy.fst h
      · split
        · extract_lets +onlyGivenNames s1
          clear_value s1
          extract_lets +onlyGivenNames s11
          have hs11 : Kept s0 s11 := Kept.upd (t:=s) rfl rfl h
          clear_value s11
          split
          · exact KeptBy.fst h
          · exact KeptBy.fst hs11
        · exact KeptBy.fst h

theorem kept_thaw {s0 : State} {s : State} (h : Kept s0 s) :
    Kept s0 (thaw s) := by
  unfold thaw
  extract_lets +onlyGivenNames us was s1 s2
  have hs2 : Kept s0 s2 := Kept.upd (t:=s) rfl rfl h
  extract_lets +onlyGivenNames s21
  have hs21 : Kept s0 s21 := by
    unfold s21
    split
    · exact kept_foldl hs2 (fun _ _ h5 => kept_raiseN h5)
    · exact hs2
  clear_value s21
  exact kept_foldl hs21 (fun _ _ h4 => kept_partGo h4)

theorem kept_freezeSet {s0 : State} {s : State} {holdN : Bool} {dbg : Bool} (h : Kept s0 s) :
    Kept s0 (freezeSet s holdN dbg) := by
  unfold freezeSet
  extract_lets +onlyGivenNames now s1
  clear_value now s1
  extract_lets +onlyGivenNames s11
  have hs11 : Kept s0 s11 := Kept.upd (t:=s) rfl rfl h
  clear_value s11
  split
  · split
    · exact Kept.upd (t:=s11) rfl rfl hs11
    · exact hs11
  · split
    · exact hs11
    · exact kept_thaw hs11

theorem kept_clockWrite {s0 : State} {s : State} {u : ℕ} {v : ℕ} (h : Kept s0 s) :
    Kept s0 (clockWrite s u v) := by
  unfold clockWrite
  split
  · exact Kept.upd (t:=s) rfl rfl h
  · split
    · exact Kept.upd (t:=s) rfl rfl h
    · split
      · exact Kept.upd (t:=s) rfl rfl h
      · split
        · refine kept_fenceReach ?_
          refine kept_foldl (kept_endReached h) ?_
          intro t7 x71 h7
          split
          · exact kept_fenceLink h7
          · exact h7
        · exact h

theorem kept_crcFenceWrite {s0 : State} {s : State} {u : CrcId} {v : ℕ} (h : Kept s0 s) :
    Kept s0 (crcFenceWrite s u v) := by
  unfold crcFenceWrite
  extract_lets +onlyGivenNames e
  have he : Kept s0 e := kept_endReached h
  clear_value e
  split
  · exact kept_fenceReach (kept_fenceCrc (kept_drawNat he))
  · exact h

theorem kept_singleWrite {s0 s : State} {r : Requester} {ix u v : Nat} {sunk : Sunk} (h : Kept s0 s) :
    KeptBy Prod.fst s0 (singleWrite s r ix u v sunk) := by
  unfold singleWrite
  refine .ite (fun _ => .fst (kept_alertWrite h)) fun _ => ?_
  refine .ite (fun _ => .fst (.upd (t := s) rfl rfl h)) fun _ => ?_
  refine .dite (fun _ => kept_partWrite h) fun _ => ?_
  refine .dite (fun _ => .fst (.ite (fun _ => kept_fenceReach (kept_fencePort (kept_endReached h))) fun _ => h)) fun _ => ?_
  refine .dite (fun _ => .fst (kept_engineWrite h)) fun _ => ?_
  refine .ite (fun _ => .fst (kept_memEntryWrite h)) fun _ => ?_
  refine .dite (fun _ => .fst (.ite (fun _ => kept_fenceReach (kept_fenceStack h)) fun _ => h)) fun _ => ?_
  refine .dite (fun _ => kept_bankWrite h) fun _ => ?_
  refine .dite (fun _ => .fst (kept_sourceWrite h)) fun _ => ?_
  refine .ite (fun _ => .fst (kept_powerWrite h)) fun _ => ?_
  refine .dite (fun _ => kept_slotActiveWrite h) fun _ => ?_
  refine .dite (fun _ => .fst (kept_crcFenceWrite h)) fun _ => ?_
  refine .ite (fun _ => kept_twinWrite h) fun _ => ?_
  refine .ite (fun _ => .fst (kept_freezeSet h)) fun _ => ?_
  refine .ite (fun _ => .fst (kept_clockWrite h)) fun _ => ?_
  exact .dite (fun _ => kept_streamWrite h) fun _ => .fst h

theorem kept_hearLost {s0 : State} {s : State} {g : Grp} {r : Requester} (h : Kept s0 s) :
    Kept s0 (hearLost s g r) := by
  unfold hearLost
  exact Kept.upd (t:=s) rfl rfl h

theorem kept_stageWrite {s0 : State} {s : State} {r : Requester} {g : Grp} {sub : ℕ} {v : ℕ} (h : Kept s0 s) :
    KeptBy Prod.fst s0 (stageWrite s r g sub v) := by
  unfold stageWrite
  extract_lets +onlyGivenNames put
  split
  · exact KeptBy.fst (kept_hearLost h)
  · split
    · exact KeptBy.fst h
    · split
      · exact KeptBy.fst h
      · split
        · extract_lets +onlyGivenNames c
          clear_value c
          exact KeptBy.fst (Kept.upd (t:=s) rfl rfl h)
        · split
          · exact KeptBy.fst h
          · exact KeptBy.fst (Kept.upd (t:=s) rfl rfl h)

theorem kept_discardWrite {s0 : State} {s : State} {r : Requester} {g : Grp} {v : ℕ} (h : Kept s0 s) :
    KeptBy Prod.fst s0 (discardWrite s r g v) := by
  unfold discardWrite
  split
  · exact KeptBy.fst h
  · split
    · exact KeptBy.fst (kept_hearLost h)
    · split
      · exact KeptBy.fst h
      · split
        · exact KeptBy.fst (Kept.upd (t:=s) rfl rfl h)
        · exact KeptBy.fst h

theorem kept_commitGo {s0 : State} {s : State} {pd : Pending} (h : Kept s0 s) :
    Kept s0 (commitGo s pd) := by
  unfold commitGo
  split
  · split
    · exact h
    · exact kept_settleCommit h
  · exact kept_settleCommit h
  · exact kept_bankCommitDrain h
  · exact h

theorem kept_commitWrite {s0 : State} {s : State} {r : Requester} {g : Grp} {tag : ℕ} (h : Kept s0 s) :
    KeptBy Prod.fst s0 (commitWrite s r g tag) := by
  unfold commitWrite
  split
  · exact KeptBy.fst h
  · split
    · exact KeptBy.fst (kept_hearLost h)
    · split
      · exact KeptBy.fst h
      · split
        · exact KeptBy.fst h
        · split
          · exact KeptBy.fst h
          · extract_lets +onlyGivenNames pd s1
            clear_value pd s1
            extract_lets +onlyGivenNames s11
            clear_value s11
            extract_lets +onlyGivenNames s12
            have hs12 : Kept s0 s12 := Kept.upd (t:=s) rfl rfl h
            clear_value s12
            exact KeptBy.fst (kept_commitGo (kept_forwardCommit hs12))

theorem kept_commitApplyOp {s0 : State} {s : State} {ix : W16} {sub : Byte} (h : Kept s0 s) :
    Kept s0 (commitApplyOp s ix sub) := by
  unfold commitApplyOp
  split
  · exact h
  · split
    · exact h
    · split
      · exact h
      · exact kept_settleCommit h

theorem kept_stageExpiryOp {s0 : State} {s : State} {ix : W16} {sub : Byte} (h : Kept s0 s) :
    Kept s0 (stageExpiryOp s ix sub) := by
  unfold stageExpiryOp
  split
  · exact h
  · split
    · exact h
    · exact kept_loseClaims h

theorem kept_entryWrite {s0 : State} {s : State} {r : Requester} {ix : ℕ} {sub : ℕ} {cls : Class} {v : ℕ} {sunk : Sunk} (h : Kept s0 s) :
    KeptBy Prod.fst s0 (entryWrite s r ix sub cls v sunk) := by
  unfold entryWrite
  split
  · split
    · exact kept_stageWrite h
    · split
      · exact kept_commitWrite h
      · exact kept_discardWrite h
  · exact kept_singleWrite h

theorem kept_forwardSingle {s0 : State} {s : State} {ix : ℕ} {sub : ℕ} {v : ℕ} {e : Entry} (h : Kept s0 s) :
    Kept s0 (forwardSingle s ix sub v e) := by
  unfold forwardSingle
  split
  · split
    · exact kept_forward h
    · exact h
  · exact h

theorem kept_dictWrite {s0 : State} {s : State} {r : Requester} {ix : ℕ} {sub : ℕ} {a : DAcc} {sunk : Sunk} (h : Kept s0 s) :
    KeptBy Prod.fst s0 (dictWrite s r ix sub a sunk) := by
  unfold dictWrite
  extract_lets +onlyGivenNames half setHalf s01
  clear_value half setHalf
  extract_lets +onlyGivenNames s02
  have hs02 : Kept s0 s02 := by
    unfold s02
    unfold s01
    exact Kept.upd (t:=s) rfl rfl h
  clear_value s02
  split
  · exact KeptBy.fst hs02
  · exact KeptBy.fst hs02
  · split
    · exact KeptBy.fst hs02
    · split
      · refine KeptBy.fst ?_
        unfold s01
        exact Kept.upd (t:=s) rfl rfl h
      · split
        · exact KeptBy.fst hs02
        · split
          · exact KeptBy.fst hs02
          · split
            · exact KeptBy.fst hs02
            · extract_lets +onlyGivenNames y
              have hy : KeptBy Prod.fst s0 y := kept_entryWrite hs02
              clear_value y
              split
              · exact KeptBy.fst hy
              · exact KeptBy.fst (kept_forwardSingle hy)

theorem kept_i3cHold {s0 : State} {s : State} {resp : List Byte} (h : Kept s0 s) :
    Kept s0 (i3cHold s resp) := by
  unfold i3cHold
  exact Kept.upd (t:=s) rfl rfl h

theorem kept_answerWrite {s0 : State} {s : State} {r : Requester} {ix : ℕ} {sub : ℕ} {x : DRes} (h : Kept s0 s) :
    Kept s0 (answerWrite s r ix sub x) := by
  unfold answerWrite
  split
  · split
    · exact kept_i3cReady (kept_i3cHold h)
    · exact kept_emit h
  · split
    · exact kept_i3cHold h
    · exact h
  · exact kept_dictRefuse h

theorem kept_dictWriteOp {s0 : State} {s : State} {r : Requester} {ix : ℕ} {sub : ℕ} {a : DAcc} {sunk : Sunk} (h : Kept s0 s) :
    Kept s0 (dictWriteOp s r ix sub a sunk) := by
  unfold dictWriteOp
  extract_lets +onlyGivenNames y
  have hy : KeptBy Prod.fst s0 y := kept_dictWrite h
  clear_value y
  exact kept_answerWrite hy

theorem kept_debugTap {s0 : State} {s : State} {r : Requester} {b : BankId} {hit : Option SenseWrite} (h : Kept s0 s) :
    KeptIf Prod.snd s0 (debugTap s r b hit) := by
  unfold debugTap
  extract_lets +onlyGivenNames w flags
  clear_value w
  split
  · refine KeptIf.some ?_
    unfold flags
    exact kept_modBank h
  · split
    · exact KeptIf.none
    · split
      · extract_lets +onlyGivenNames d
        have hd : KeptBy Prod.snd s0 d := by
          unfold d
          refine kept_drawWord ?_
          refine kept_senseWrite ?_
          rename_i hk _ _ _
          exact kept_tapGrant h _ hk
        clear_value d
        refine KeptIf.some ?_
        unfold flags
        exact kept_modBank (kept_modBank hd)
      · extract_lets +onlyGivenNames y
        have hy : KeptBy Acc.s s0 y := by
          unfold y
          refine kept_tapWord ?_
          rename_i hk _ _
          exact kept_tapGrant h _ hk
        clear_value y
        refine KeptIf.some ?_
        unfold flags
        exact kept_modBank hy

theorem kept_dictRead {s0 : State} {s : State} {r : Requester} {ix : ℕ} {sub : ℕ} {bytes : ℕ} {off : ℕ} {hit : Option SenseWrite} (h : Kept s0 s) :
    KeptBy Prod.fst s0 (dictRead s r ix sub bytes off hit) := by
  unfold dictRead
  extract_lets +onlyGivenNames s01 cut
  have hcut : Kept s0 cut := Kept.upd (t:=s) rfl rfl h
  clear_value s01 cut
  extract_lets +onlyGivenNames cut1
  split
  · exact KeptBy.fst hcut
  · exact KeptBy.fst hcut
  · split
    · exact KeptBy.fst hcut
    · split
      · split
        · refine KeptBy.fst ?_
          rename_i hk
          exact kept_debugTap hcut _ hk
        · exact KeptBy.fst h
      · split
        · exact KeptBy.fst (kept_modPort hcut)
        · exact KeptBy.fst hcut

theorem kept_dictReadOp {s0 : State} {s : State} {r : Requester} {ix : ℕ} {sub : ℕ} {bytes : ℕ} {off : ℕ} {hit : Option SenseWrite} (h : Kept s0 s) :
    KeptIf id s0 (dictReadOp s r ix sub bytes off hit) := by
  unfold dictReadOp
  extract_lets +onlyGivenNames y
  have hy : KeptBy Prod.fst s0 y := kept_dictRead h
  clear_value y
  split
  · exact KeptIf.none
  · refine KeptIf.some ?_
    split
    · exact kept_i3cReady (kept_i3cHold hy)
    · exact kept_emit hy
  · extract_lets +onlyGivenNames t
    have ht : Kept s0 t := kept_dictRefuse hy
    clear_value t
    refine KeptIf.some ?_
    split
    · exact ht
    · exact kept_emit ht

theorem kept_tlpWriteOp {s0 : State} {s : State} {h1 : PortId} {a : HostAddr} {data : List Byte} (h : Kept s0 s) :
    Kept s0 (tlpWriteOp s h1 a data) := by
  unfold tlpWriteOp
  split
  · extract_lets +onlyGivenNames ix sub
    split
    · exact kept_inWriteOp h
    · exact kept_dictWriteOp h
  · split
    · exact kept_inWriteOp h
    · exact kept_bar2Write h

theorem kept_tlpReadOp {s0 : State} {s : State} {h1 : PortId} {a : HostAddr} {bytes : ℕ} (h : Kept s0 s) :
    KeptIf id s0 (tlpReadOp s h1 a bytes) := by
  unfold tlpReadOp
  split
  · extract_lets +onlyGivenNames ix sub
    split
    · exact KeptIf.some (kept_outReadOp h)
    · exact kept_dictReadOp h
  · split
    · exact KeptIf.some (kept_outReadOp h)
    · exact KeptIf.some (kept_bar2Read h)

theorem kept_serve {s0 : State} {s : State} {a : Access} (h : Kept s0 s) :
    KeptIf id s0 (serve s a) := by
  unfold serve
  split
  · split
    · exact KeptIf.some (kept_tlpWriteOp h)
    · exact KeptIf.some (kept_dictWriteOp h)
  · split
    · exact kept_tlpReadOp h
    · exact kept_dictReadOp h
  · exact KeptIf.some (kept_tlpWriteOp h)
  · exact kept_tlpReadOp h

theorem kept_serveFrom {s0 : State} {n : ℕ} {n1 : ℕ} {s : State} (h : Kept s0 s) :
    Kept s0 (serveFrom n n1 s) := by
  induction n generalizing n1 s with
  | zero =>
    rw [serveFrom]
    exact h
  | succ n ih =>
    rw [serveFrom]
    split
    · exact h
    · split
      · exact ih h
      · split
        · refine ih ?_
          rename_i hk
          refine kept_serve ?_ _ hk
          exact Kept.upd (t:=s) rfl rfl h
        · exact ih h

theorem kept_serveWaiting {s0 : State} {s : State} (h : Kept s0 s) :
    Kept s0 (serveWaiting s) := by
  unfold serveWaiting
  split
  · exact h
  · exact kept_serveFrom h

theorem kept_turnedAway {s0 : State} {s : State} {h1 : PortId} {a : Access} (h : Kept s0 s) :
    Kept s0 (turnedAway s h1 a) := by
  unfold turnedAway
  split
  · exact kept_emit (kept_unsupported h)
  · exact kept_emit (kept_unsupported h)
  · exact kept_unsupported h

theorem kept_accessOp {s0 : State} {s : State} {x : Access} (h : Kept s0 s) :
    Kept s0 (accessOp s x) := by
  unfold accessOp
  split
  · exact h
  · split
    · exact kept_turnedAway h
    · extract_lets +onlyGivenNames t wait
      have ht : Kept s0 t := kept_serveWaiting h
      clear_value t wait
      extract_lets +onlyGivenNames wait1
      have hwait1 : Kept s0 wait1 := Kept.upd (t:=t) rfl rfl ht
      clear_value wait1
      split
      · exact hwait1
      · split
        · rename_i hk
          exact kept_serve ht _ hk
        · exact hwait1

theorem kept_writeAccess {s0 : State} {s : State} {r : Requester} {ix : ℕ} {sub : ℕ} {a : DAcc} {sunk : Sunk} (h : Kept s0 s) :
    Kept s0 (writeAccess s r ix sub a sunk) := by
  unfold writeAccess
  exact kept_accessOp h

theorem kept_readAccess {s0 : State} {s : State} {r : Requester} {ix : ℕ} {sub : ℕ} {bytes : ℕ} {off : ℕ} {hit : Option SenseWrite} (h : Kept s0 s) :
    Kept s0 (readAccess s r ix sub bytes off hit) := by
  unfold readAccess
  exact kept_accessOp h

theorem kept_crcStartOp {s0 : State} {s : State} {u : CrcId} {master : BitVec 10} {poly : BitVec 2} {tag : W64} {expected : W64} {cmp : Bool} {count : ℕ} {k : Contest} (h : Kept s0 s) :
    Kept s0 (crcStartOp s u master poly tag expected cmp count k) := by
  unfold crcStartOp
  extract_lets +onlyGivenNames m
  clear_value m
  split
  · exact h
  · split
    · exact h
    · split
      · exact kept_emit h
      · split
        · exact h
        · split
          · exact h
          · extract_lets +onlyGivenNames s1
            clear_value s1
            extract_lets +onlyGivenNames s11
            have hs11 : Kept s0 s11 := kept_crossWay (Kept.upd (t:=s) rfl rfl h)
            clear_value s11
            exact kept_modCrc hs11

theorem kept_crcWordsOp {s0 : State} {s : State} {u : CrcId} {words : List W128} (h : Kept s0 s) :
    Kept s0 (crcWordsOp s u words) := by
  unfold crcWordsOp
  split
  · exact h
  · split
    · exact h
    · extract_lets +onlyGivenNames ws reg
      clear_value ws reg
      split
      · exact kept_modCrc h
      · extract_lets +onlyGivenNames v bad s1 s2
        have hs1 : Kept s0 s1 := kept_modCrc h
        have hs2 : Kept s0 s2 := kept_emit hs1
        clear_value v bad s1 s2
        split
        · exact kept_raiseN hs2
        · exact hs2

theorem kept_crcCheckOp {s0 : State} {s : State} {u : CrcId} {results : Vector W64 4} (h : Kept s0 s) :
    Kept s0 (crcCheckOp s u results) := by
  unfold crcCheckOp
  split
  · exact h
  · split
    · exact kept_fenceReach (kept_fenceCrc h)
    · exact h

theorem kept_freezeEnteredOp {s0 : State} {s : State} (h : Kept s0 s) :
    Kept s0 (freezeEnteredOp s) := by
  unfold freezeEnteredOp
  split
  · exact h
  · exact kept_foldl (Kept.upd (t:=s) rfl rfl h) (fun _ _ h3 => kept_raiseN h3)

theorem kept_serveOp {s0 : State} {s : State} {x : SrcId} (h : Kept s0 s) :
    Kept s0 (serveOp s x) := by
  unfold serveOp
  split
  · split
    · exact kept_serveLatch h
    · exact h
  · exact h

theorem kept_popOp {s0 : State} {s : State} {c : CoreId} {r : RingId} (h : Kept s0 s) :
    Kept s0 (popOp s c r) := by
  unfold popOp
  split
  · exact h
  · extract_lets +onlyGivenNames t
    have ht : KeptBy Prod.snd s0 t := kept_ringTake h
    clear_value t
    exact kept_emit ht

theorem kept_revokeGrant {s0 : State} {s : State} {p : PartId} {slot : ℕ} {n : VeId} {sunk : Sunk} (h : Kept s0 s) :
    Kept s0 (revokeGrant s p slot n sunk) := by
  unfold revokeGrant
  extract_lets +onlyGivenNames s1 s2
  have hs1 : Kept s0 s1 := kept_modPart h
  have hs2 : Kept s0 s2 := kept_modEng hs1
  clear_value s1 s2
  exact kept_sinkVe (kept_withdraw hs2)

theorem kept_watchdogOp {s0 : State} {s : State} {w : WaitOn} {sunk : Sunk} (h : Kept s0 s) :
    Kept s0 (watchdogOp s w sunk) := by
  unfold watchdogOp
  split
  · exact h
  · split
    · exact h
    · split
      · exact kept_raiseN h
      · split
        · exact kept_raiseN h
        · extract_lets +onlyGivenNames s1
          have hs1 : Kept s0 s1 := kept_revokeGrant h
          clear_value s1
          exact kept_raiseN (Kept.upd (t:=s1) rfl rfl hs1)

theorem kept_leaveDdr {s0 : State} {s : State} (h : Kept s0 s) :
    Kept s0 (leaveDdr s) := by
  unfold leaveDdr
  exact Kept.upd (t:=s) rfl rfl h

theorem kept_notExecuted {s0 : State} {s : State} {status : Byte} {seq : Byte} (h : Kept s0 s) :
    Kept s0 (notExecuted s status seq) := by
  unfold notExecuted
  exact kept_i3cReady (Kept.upd (t:=s) rfl rfl h)

theorem kept_executing {s0 : State} {s : State} {seq : Byte} (h : Kept s0 s) :
    Kept s0 (executing s seq) := by
  unfold executing
  exact Kept.upd (t:=s) rfl rfl h

theorem kept_respond {s0 : State} {s : State} {resp : List Byte} (h : Kept s0 s) :
    Kept s0 (respond s resp) := by
  unfold respond
  exact kept_i3cReady (kept_i3cHold h)

theorem kept_i3cRead {s0 : State} {s : State} {seq : Byte} {b : List Byte} (h : Kept s0 s) :
    Kept s0 (i3cRead s seq b) := by
  unfold i3cRead
  split
  · exact kept_notExecuted h
  · extract_lets +onlyGivenNames ix sub
    clear_value ix sub
    exact kept_readAccess (kept_i3cHold (kept_executing h))

theorem kept_i3cWrite {s0 : State} {s : State} {seq : Byte} {b : List Byte} (h : Kept s0 s) :
    Kept s0 (i3cWrite s seq b) := by
  unfold i3cWrite
  extract_lets +onlyGivenNames n ix sub
  clear_value n ix sub
  split
  · exact kept_notExecuted h
  · split
    · split
      · exact kept_notExecuted h
      · exact kept_writeAccess (kept_i3cHold (kept_executing h))
    · split
      · exact kept_notExecuted h
      · exact kept_writeAccess (kept_i3cHold (kept_executing h))

theorem kept_recAnswer {s0 s : State} {seq : Byte} {r : Except Nat State} (h : Kept s0 s) (hr : ∀ t, r = .ok t → Kept s0 t) :
    Kept s0 (recAnswer s seq r) := by
  cases r with
  | ok t => exact kept_respond (kept_executing (hr t rfl))
  | error c => exact kept_dictRefuse (kept_executing h)

theorem kept_i3cStart {s0 s : State} {seq : Byte} {b : List Byte} (h : Kept s0 s) : Kept s0 (i3cStart s seq b) := by
  unfold i3cStart
  split
  · exact kept_notExecuted h
  · exact kept_recAnswer h (kept_recStart h)

theorem kept_i3cData {s0 s : State} {seq : Byte} {b : List Byte} (h : Kept s0 s) : Kept s0 (i3cData s seq b) := by
  unfold i3cData
  extract_lets n
  split
  · exact kept_notExecuted h
  · exact kept_recAnswer h (kept_recData h)

theorem kept_i3cFinish {s0 s : State} {seq : Byte} {b : List Byte} (h : Kept s0 s) : Kept s0 (i3cFinish s seq b) := by
  unfold i3cFinish
  split
  · exact kept_notExecuted h
  · obtain ⟨herr, hok⟩ := kept_recFinish h
    split
    · next e => exact kept_i3cHold (kept_executing (hok _ _ e))
    · next e => exact kept_respond (kept_executing (hok _ _ e))
    · next e => exact kept_dictRefuse (kept_executing (herr _ _ e))

theorem kept_i3cQuery {s0 : State} {s : State} {seq : Byte} {b : List Byte} (h : Kept s0 s) :
    Kept s0 (i3cQuery s seq b) := by
  unfold i3cQuery
  split
  · exact kept_notExecuted h
  · exact kept_respond (kept_executing h)

theorem kept_i3cOperate {s0 : State} {s : State} {seq : Byte} {b : List Byte} (h : Kept s0 s) :
    Kept s0 (i3cOperate s seq b) := by
  unfold i3cOperate
  extract_lets +onlyGivenNames op
  clear_value op
  split
  · exact kept_i3cRead h
  · split
    · exact kept_i3cWrite h
    · split
      · exact kept_i3cStart h
      · split
        · exact kept_i3cData h
        · split
          · exact kept_i3cFinish h
          · split
            · exact kept_i3cQuery h
            · exact kept_notExecuted h

theorem kept_i3cRequest {s0 : State} {s : State} {hdr : Option Byte} {frame : List Byte} (h : Kept s0 s) :
    Kept s0 (i3cRequest s hdr frame) := by
  unfold i3cRequest
  split
  · exact h
  · split
    · exact kept_emit h
    · extract_lets +onlyGivenNames b seq s1
      have hs1 : Kept s0 s1 := kept_leaveDdr h
      clear_value b seq s1
      split
      · exact kept_notExecuted hs1
      · split
        · exact kept_notExecuted hs1
        · split
          · extract_lets +onlyGivenNames again
            clear_value again
            extract_lets +onlyGivenNames again1
            have hagain1 : Kept s0 again1 := Kept.upd (t:=s1) rfl rfl hs1
            clear_value again1
            split
            · exact hagain1
            · exact kept_i3cReady hagain1
          · exact kept_i3cOperate hs1

theorem kept_i3cReadOp {s0 : State} {s : State} {hdr : Option Byte} (h : Kept s0 s) :
    Kept s0 (i3cReadOp s hdr) := by
  unfold i3cReadOp
  split
  · exact h
  · split
    · exact kept_emit h
    · extract_lets +onlyGivenNames s1
      have hs1 : Kept s0 s1 := kept_leaveDdr h
      clear_value s1
      split
      · exact kept_emit hs1
      · split
        · exact kept_softResetGo (kept_emit (Kept.upd (t:=s1) rfl rfl hs1))
        · exact kept_emit hs1

theorem kept_flushIbi {s0 : State} {s : State} (h : Kept s0 s) :
    Kept s0 (flushIbi s) := by
  unfold flushIbi
  split
  · exact h
  · extract_lets +onlyGivenNames s1 s2
    have hs2 : Kept s0 s2 := by
      unfold s2
      split
      · exact kept_emit (Kept.upd (t:=s) rfl rfl h)
      · exact h
    clear_value s1 s2
    extract_lets +onlyGivenNames s21
    clear_value s21
    extract_lets +onlyGivenNames s22
    have hs22 : Kept s0 s22 := by
      unfold s22
      split
      · exact kept_emit (Kept.upd (t:=s2) rfl rfl hs2)
      · exact hs2
    clear_value s22
    split
    · exact kept_emit (Kept.upd (t:=s22) rfl rfl hs22)
    · exact hs22

theorem kept_enecOp {s0 : State} {s : State} {dst : Option (BitVec 7)} (h : Kept s0 s) :
    Kept s0 (enecOp s dst) := by
  unfold enecOp
  split
  · exact h
  · exact kept_flushIbi (Kept.upd (t:=s) rfl rfl h)

theorem kept_disecOp {s0 : State} {s : State} {dst : Option (BitVec 7)} (h : Kept s0 s) :
    Kept s0 (disecOp s dst) := by
  unfold disecOp
  split
  · exact h
  · exact Kept.upd (t:=s) rfl rfl h

theorem kept_setDyn {s0 : State} {s : State} {dyn : BitVec 7} (h : Kept s0 s) :
    Kept s0 (setDyn s dyn) := by
  unfold setDyn
  exact kept_flushIbi (Kept.upd (t:=s) rfl rfl h)

theorem kept_setLimit {s0 : State} {s : State} {dst : Option (BitVec 7)} {v : W16} {f : I3c → I3c} (h : Kept s0 s) :
    Kept s0 (setLimit s dst v f) := by
  unfold setLimit
  split
  · exact h
  · split
    · exact Kept.upd (t:=s) rfl rfl h
    · exact kept_emit h

theorem kept_rstactOp {s0 : State} {s : State} {dst : Option (BitVec 7)} {action : Byte} (h : Kept s0 s) :
    Kept s0 (rstactOp s dst action) := by
  unfold rstactOp
  split
  · exact h
  · split
    · exact kept_emit h
    · exact Kept.upd (t:=s) rfl rfl h

theorem kept_entasOp {s0 : State} {s : State} {code : Byte} {dst : Option (BitVec 7)} (h : Kept s0 s) :
    Kept s0 (entasOp s code dst) := by
  unfold entasOp
  split
  · exact h
  · exact kept_emit h

theorem kept_ccGet {s0 : State} {s : State} {dst : BitVec 7} {data : List Byte} (h : Kept s0 s) :
    Kept s0 (ccGet s dst data) := by
  unfold ccGet
  split
  · exact kept_emit h
  · exact h

theorem kept_sumOp {s0 : State} {s : State} {c : CoreId} {x : AluOps} {t : Sum} (h : Kept s0 s) :
    Kept s0 (sumOp s c x t) := by
  unfold sumOp
  extract_lets +onlyGivenNames s1
  have hs1 : Kept s0 s1 := kept_regOp h
  clear_value s1
  split
  · exact kept_enter hs1
  · exact hs1

theorem kept_logicOp {s0 : State} {s : State} {c : CoreId} {x : AluOps} {v : W64} (h : Kept s0 s) :
    Kept s0 (logicOp s c x v) := by
  unfold logicOp
  exact kept_regOp h

theorem kept_shiftOp {s0 : State} {s : State} {c : CoreId} {x : AluOps} {k : ShKind} (h : Kept s0 s) :
    Kept s0 (shiftOp s c x k) := by
  unfold shiftOp
  exact kept_regOp h

theorem kept_partsNote {s0 : State} {s : State} {c : CoreId} {want : Want} {ps : List (ℕ × ℕ)} (h : Kept s0 s) :
    Kept s0 (partsNote s c want ps) := by
  unfold partsNote
  exact kept_foldl h (fun _ _ h2 => kept_noteCore h2)

theorem kept_hazard {s0 : State} {c : CoreId} {a : ℕ} {r : Acc} (h : KeptBy Acc.s s0 r) :
    KeptBy Acc.s s0 (hazard c a r) := by
  unfold hazard
  split
  · exact h
  · split
    · exact h
    · split
      · extract_lets +onlyGivenNames d k
        have hd : KeptBy Prod.snd s0 d := kept_drawNat h
        clear_value d k
        exact KeptBy.acc hd
      · exact h

theorem kept_loadWord {s0 : State} {s : State} {c : CoreId} {a : ℕ} (h : Kept s0 s) :
    KeptBy Acc.s s0 (loadWord s c a) := by
  unfold loadWord
  exact kept_hazard (kept_coreRead h)

theorem kept_cacheWord {s0 : State} {s : State} {c : CoreId} {a : ℕ} (h : Kept s0 s) :
    KeptBy Acc.s s0 (cacheWord s c a) := by
  unfold cacheWord
  extract_lets +onlyGivenNames ln
  clear_value ln
  split
  · exact KeptBy.acc (kept_modCore h)
  · extract_lets +onlyGivenNames s01 rs mine
    have hs01 : Kept s0 s01 := kept_modCore h
    have hrs : KeptBy Prod.snd s0 rs := by
      unfold rs
      refine KeptBy.intro ?_
      refine kept_foldl_snd hs01 ?_
      intro y6 x61 h6
      extract_lets +onlyGivenNames r
      have hr : KeptBy Acc.s s0 r := kept_coreRead h6
      clear_value r
      exact KeptBy.snd hr
    clear_value s01 rs mine
    refine KeptBy.acc ?_
    split
    · exact kept_modCore hrs
    · exact hrs

theorem kept_cachedRead {s0 : State} {s : State} {c : CoreId} {a : ℕ} (h : Kept s0 s) :
    KeptBy Acc.s s0 (cachedRead s c a) := by
  unfold cachedRead
  split
  · exact kept_loadWord h
  · exact kept_hazard (kept_cacheWord h)

theorem kept_loadAcc_go {s0 : State} {c : CoreId} {s : State} {a : ℕ} {w : ℕ} (h : Kept s0 s) :
    KeptBy MemRes.state s0 (loadAcc.go c s a w) := by
  unfold loadAcc.go
  extract_lets +onlyGivenNames ps
  clear_value ps
  split
  · exact KeptBy.memBad h
  · split
    · exact KeptBy.memHeld (kept_partsNote h)
    · extract_lets +onlyGivenNames r
      have hr : KeptBy (fun x : ℕ × ℕ × List (ℕ × ℕ) × State => x.2.2.2) s0 r := by
        unfold r
        refine KeptBy.intro ?_
        refine kept_foldl_of (π:=(fun x : ℕ × ℕ × List (ℕ × ℕ) × State => x.2.2.2)) h ?_
        intro y7 x71 h7
        extract_lets +onlyGivenNames y v
        have hy : KeptBy Acc.s s0 y := kept_cachedRead h7
        clear_value y v
        exact KeptBy.sndOf (π:=third) (KeptBy.third hy)
      clear_value r
      split
      · split
        · exact KeptBy.memHeld h
        · exact KeptBy.memBad hr
      · exact KeptBy.memOk hr

theorem kept_loadAcc {s0 : State} {s : State} {c : CoreId} {a : ℕ} {w : ℕ} (h : Kept s0 s) :
    KeptBy MemRes.state s0 (loadAcc s c a w) := by
  unfold loadAcc
  split
  · split
    · split
      · split
        · refine KeptBy.memOk ?_
          rename_i hk
          exact kept_veLoad h _ hk
        · exact KeptBy.memBad h
      · exact KeptBy.memBad h
    · exact kept_loadAcc_go h
  · split
    · exact KeptBy.memBad h
    · exact kept_loadAcc_go h

theorem kept_taintStore {s0 : State} {s : State} {c : CoreId} {a : ℕ} (h : Kept s0 s) :
    Kept s0 (taintStore s c a) := by
  unfold taintStore
  split
  · exact h
  · split
    · exact h
    · exact kept_modEng h

theorem kept_storeAcc_put {s0 : State} {c : CoreId} {s : State} {pa : ℕ} {n : ℕ} {x : ℕ} (h : Kept s0 s) :
    KeptBy Acc.s s0 (storeAcc.put c s pa n x) := by
  unfold storeAcc.put
  exact kept_coreStore h

theorem kept_storeAcc_go {s0 : State} {c : CoreId} {s : State} {a : ℕ} {w : ℕ} {v : W128} (h : Kept s0 s) :
    KeptBy MemRes.state s0 (storeAcc.go c s a w v) := by
  unfold storeAcc.go
  extract_lets +onlyGivenNames ps
  clear_value ps
  split
  · exact KeptBy.memBad h
  · split
    · exact KeptBy.memHeld (kept_partsNote h)
    · split
      · extract_lets +onlyGivenNames r
        have hr : KeptBy Acc.s s0 r := kept_storeAcc_put h
        clear_value r
        split
        · exact KeptBy.memHeld h
        · split
          · exact KeptBy.memOk (kept_taintStore hr)
          · exact KeptBy.memBad hr
      · extract_lets +onlyGivenNames lo hi r1 r2
        have hr1 : KeptBy Acc.s s0 r1 := kept_storeAcc_put h
        have hr2 : KeptBy Acc.s s0 r2 := kept_storeAcc_put h
        clear_value lo hi r1 r2
        split
        · exact KeptBy.memHeld h
        · split
          · exact KeptBy.memBad hr1
          · split
            · exact KeptBy.memBad hr2
            · extract_lets +onlyGivenNames r3
              have hr3 : KeptBy Acc.s s0 r3 := kept_storeAcc_put hr1
              clear_value r3
              exact KeptBy.memOk (kept_taintStore (kept_taintStore hr3))
      · exact KeptBy.memHeld h

theorem kept_storeAcc {s0 : State} {s : State} {c : CoreId} {a : ℕ} {w : ℕ} {v : W128} (h : Kept s0 s) :
    KeptBy MemRes.state s0 (storeAcc s c a w v) := by
  unfold storeAcc
  split
  · split
    · split
      · split
        · refine KeptBy.memOk ?_
          rename_i hk
          exact kept_veStore h _ hk
        · exact KeptBy.memBad h
      · exact KeptBy.memBad h
    · exact kept_storeAcc_go h
  · split
    · exact KeptBy.memBad h
    · exact kept_storeAcc_go h

theorem kept_dataFault {s0 : State} {s : State} {c : CoreId} {kind : ℕ} {store : Bool} {sz : ℕ} {upper : Bool} {addr : ℕ} (h : Kept s0 s) :
    Kept s0 (dataFault s c kind store sz upper addr) := by
  unfold dataFault
  exact kept_enter h

theorem kept_rptElem {s0 s : State} {c : CoreId} {k : RptKind} {w pred pat mask : Nat} (h : Kept s0 s) :
    KeptBy Prod.fst s0 (rptElem s c k w pred pat mask) := by
  unfold rptElem
  extract_lets r a b put
  have hput : ∀ t v, Kept s0 t → KeptBy Prod.fst s0 (put t v) := by
    intro t v ht
    unfold put
    split
    · next hx => exact .fst (KeptBy.along hx (kept_storeAcc ht)).memOkOut
    · next hx => exact .fst (KeptBy.along hx (kept_storeAcc ht)).memBadOut
    · next hx => exact .fst (KeptBy.along hx (kept_storeAcc ht)).memHeldOut
  clear_value put
  split
  · exact hput s _ h
  · split
    · next hx => exact hput _ _ (KeptBy.along hx (kept_loadAcc h)).memOkOut
    · next hx => exact .fst (KeptBy.along hx (kept_loadAcc h)).memBadOut
    · next hx => exact .fst (KeptBy.along hx (kept_loadAcc h)).memHeldOut
  · split
    · next hx => exact .fst (KeptBy.along hx (kept_loadAcc h)).memBadOut
    · next hx => exact .fst (KeptBy.along hx (kept_loadAcc h)).memHeldOut
    · next hx =>
      have h1 := (KeptBy.along hx (kept_loadAcc h)).memOkOut
      split
      · next hy => exact .fst (KeptBy.along hy (kept_loadAcc h1)).memBadOut
      · next hy => exact .fst (KeptBy.along hy (kept_loadAcc h1)).memHeldOut
      · next hy =>
        have h2 := (KeptBy.along hy (kept_loadAcc h1)).memOkOut
        split
        · exact .fst h2
        · exact .fst h2
  · split
    · next hx => exact .fst (KeptBy.along hx (kept_loadAcc h)).memBadOut
    · next hx => exact .fst (KeptBy.along hx (kept_loadAcc h)).memHeldOut
    · next hx =>
      have h1 := (KeptBy.along hx (kept_loadAcc h)).memOkOut
      split
      · exact .fst h1
      · exact .fst h1

theorem kept_rptLoop {s0 : State} {c : CoreId} {k : RptKind} {w : ℕ} {step : ℕ} {pred : ℕ} {pat : ℕ} {mask : ℕ} {n : ℕ} {s : State} (h : Kept s0 s) :
    KeptBy Prod.fst s0 (rptLoop c k w step pred pat mask n s) := by
  induction n generalizing s with
  | zero =>
    rw [rptLoop]
    exact KeptBy.fst h
  | succ n ih =>
    rw [rptLoop]
    split
    · exact KeptBy.fst h
    · split
      · refine KeptBy.intro ?_
        refine ih ?_
        refine kept_modRegs ?_
        rename_i hk
        exact KeptBy.along (π:=Prod.fst) hk (kept_rptElem h)
      · refine KeptBy.fst ?_
        rename_i hk
        exact KeptBy.along (π:=Prod.fst) hk (kept_rptElem h)

theorem kept_rptOp {s0 : State} {s : State} {c : CoreId} {k : RptKind} {f : RptForm} {upto : Option ℕ} (h : Kept s0 s) :
    Kept s0 (rptOp s c k f upto) := by
  unfold rptOp
  refine kept_seqOp h ?_
  intro t2 h2
  extract_lets +onlyGivenNames r w o fuel x
  have hx : KeptBy Prod.fst s0 x := kept_rptLoop h2
  clear_value r w o fuel x
  split
  · exact hx
  · exact kept_dataFault hx
  · exact kept_regOp hx
  · exact kept_regOp hx

theorem kept_predict {s0 : State} {s : State} {c : CoreId} {taken : Bool} (h : Kept s0 s) :
    Kept s0 (predict s c taken) := by
  unfold predict
  extract_lets +onlyGivenNames det
  clear_value det
  exact kept_modCore h

theorem kept_slotNote {s0 : State} {s : State} {c : CoreId} {w : Want} {a : ℕ} (h : Kept s0 s) :
    Kept s0 (slotNote s c w a) := by
  unfold slotNote
  exact kept_foldl h (fun _ _ h2 => kept_noteCore h2)

theorem kept_slotStore {s0 : State} {c : CoreId} {l : List (ℕ × ℕ × ℕ)} {l1 : List Byte} {s : State} (h : Kept s0 s) :
    KeptBy Prod.snd s0 (slotStore c l l1 s) := by
  induction l generalizing l1 s with
  | nil =>
    rw [slotStore]
    exact KeptBy.snd h
  | cons x xs ih =>
    rw [slotStore]
    split
    · exact KeptBy.snd (kept_coreStore h)
    · exact KeptBy.intro (ih (kept_taintStore (kept_coreStore h)))

theorem kept_slotLoad {s0 : State} {c : CoreId} {l : List (ℕ × ℕ × ℕ)} {s : State} (h : Kept s0 s) :
    KeptBy third s0 (slotLoad c l s) := by
  induction l generalizing s with
  | nil =>
    rw [slotLoad]
    exact KeptBy.third h
  | cons x xs ih =>
    rw [slotLoad]
    split
    · exact KeptBy.third (kept_loadWord h)
    · extract_lets +onlyGivenNames t
      have ht : KeptBy third s0 t := KeptBy.intro (ih (kept_loadWord h))
      clear_value t
      exact KeptBy.third ht

theorem kept_countSpill {s0 : State} {s : State} {c : CoreId} (h : Kept s0 s) :
    Kept s0 (countSpill s c) := by
  unfold countSpill
  exact kept_modCore h

theorem kept_spill {s0 : State} {s : State} {c : CoreId} (h : Kept s0 s) :
    KeptBy WinRes.state s0 (spill s c) := by
  unfold spill
  extract_lets +onlyGivenNames r o a
  clear_value r o a
  split
  · exact KeptBy.winBad h
  · split
    · exact KeptBy.winHeld (kept_slotNote h)
    · split
      · split
        · exact KeptBy.winHeld h
        · refine KeptBy.winBad ?_
          rename_i hk _
          exact KeptBy.along (π:=Prod.snd) hk (kept_slotStore h)
      · refine KeptBy.winOk ?_
        refine kept_modRegs ?_
        refine kept_countSpill ?_
        rename_i hk
        exact KeptBy.along (π:=Prod.snd) hk (kept_slotStore h)

theorem kept_fill {s0 : State} {s : State} {c : CoreId} {w : Fin 16} (h : Kept s0 s) :
    KeptBy WinRes.state s0 (fill s c w) := by
  unfold fill
  extract_lets +onlyGivenNames a
  clear_value a
  split
  · exact KeptBy.winBad h
  · split
    · exact KeptBy.winHeld (kept_slotNote h)
    · split
      · split
        · exact KeptBy.winHeld h
        · refine KeptBy.winBad ?_
          rename_i hk _
          exact KeptBy.along (π:=third) hk (kept_slotLoad h)
      · refine KeptBy.winOk ?_
        refine kept_modRegs ?_
        refine kept_countSpill ?_
        rename_i hk
        exact KeptBy.along (π:=third) hk (kept_slotLoad h)

theorem kept_windowFault {s0 : State} {s : State} {c : CoreId} {code : ℕ} {kind : ℕ} {slot : W64} (h : Kept s0 s) :
    Kept s0 (windowFault s c code kind slot) := by
  unfold windowFault
  exact kept_enter (kept_coreEvent h)

theorem kept_callOp {s0 : State} {s : State} {c : CoreId} {target : Addr} (h : Kept s0 s) :
    Kept s0 (callOp s c target) := by
  unfold callOp
  extract_lets +onlyGivenNames r g7
  clear_value r g7
  split
  · exact kept_enter (kept_coreEvent h)
  · extract_lets +onlyGivenNames finish
    split
    · split
      · unfold finish
        refine kept_retire ?_
        refine kept_modRegs ?_
        rename_i hk
        exact KeptBy.along (π:=WinRes.state) hk (kept_spill h)
      · refine kept_windowFault ?_
        rename_i hk
        exact KeptBy.along (π:=WinRes.state) hk (kept_spill h)
      · rename_i hk
        exact KeptBy.along (π:=WinRes.state) hk (kept_spill h)
    · unfold finish
      exact kept_retire (kept_modRegs h)

theorem kept_retOp {s0 : State} {s : State} {c : CoreId} (h : Kept s0 s) :
    Kept s0 (retOp s c) := by
  unfold retOp
  extract_lets +onlyGivenNames r
  split
  · exact kept_windowFault h
  · extract_lets +onlyGivenNames target w finish
    split
    · split
      · unfold finish
        extract_lets +onlyGivenNames s1
        have hs1 : Kept s0 s1 := by
          unfold s1
          refine kept_modRegs ?_
          rename_i hk
          exact KeptBy.along (π:=WinRes.state) hk (kept_fill h)
        clear_value s1
        exact kept_retire hs1
      · refine kept_windowFault ?_
        rename_i hk
        exact KeptBy.along (π:=WinRes.state) hk (kept_fill h)
      · rename_i hk
        exact KeptBy.along (π:=WinRes.state) hk (kept_fill h)
    · unfold finish
      extract_lets +onlyGivenNames s1
      have hs1 : Kept s0 s1 := kept_modRegs (kept_modRegs h)
      clear_value s1
      exact kept_retire hs1

theorem kept_escalate {s0 : State} {s : State} {c : CoreId} (h : Kept s0 s) :
    Kept s0 (escalate s c) := by
  unfold escalate
  extract_lets +onlyGivenNames s1 s2
  have hs1 : Kept s0 s1 := kept_coreEvent h
  have hs2 : Kept s0 s2 := kept_modCore hs1
  clear_value s1 s2
  split
  · exact hs2
  · split
    · exact hs2
    · split
      · exact kept_failSegment hs2
      · exact kept_failSegment hs2

theorem kept_frameRead {s0 s : State} {c : CoreId} {a : Nat} (h : Kept s0 s) : KeptBy FrameRes.state s0 (frameRead s c a) := by
  unfold frameRead
  extract_lets b block
  split
  · exact .frameBad h
  · split
    · exact .frameBad h
    · exact .frameBad h
    · split
      · next hx => exact .frameBad (KeptBy.along hx (kept_loadAcc h)).memBadOut
      · next hx => exact .frameHeld (KeptBy.along hx (kept_loadAcc h)).memHeldOut
      · next hx =>
        have h1 := (KeptBy.along hx (kept_loadAcc h)).memOkOut
        split
        · next hy => exact .frameBad (KeptBy.along hy (kept_loadAcc h1)).memBadOut
        · next hy => exact .frameHeld (KeptBy.along hy (kept_loadAcc h1)).memHeldOut
        · next hy => exact .frameOk (KeptBy.along hy (kept_loadAcc h1)).memOkOut

theorem kept_popFrame {s0 : State} {s : State} {c : CoreId} {fl : W64} {pc : Addr} (h : Kept s0 s) :
    Kept s0 (popFrame s c fl pc) := by
  unfold popFrame
  extract_lets +onlyGivenNames g7 s1
  have hs1 : Kept s0 s1 := kept_retire (kept_modRegs h)
  clear_value g7 s1
  split
  · exact hs1
  · split
    · exact kept_closeFault hs1
    · exact hs1

theorem kept_chainExit {s0 : State} {s : State} {c : CoreId} {fl : W64} {pc : Addr} {x : ℕ × ℕ × W64} (h : Kept s0 s) :
    Kept s0 (chainExit s c fl pc x) := by
  unfold chainExit
  extract_lets +onlyGivenNames g7 a v cause
  clear_value g7 a v cause
  split
  · rename_i hk
    exact KeptBy.along (π:=MemRes.state) hk (kept_storeAcc h)
  · refine kept_doubleFault ?_
    rename_i hk
    exact KeptBy.along (π:=MemRes.state) hk (kept_storeAcc h)
  · extract_lets +onlyGivenNames s2 h1 s3 f
    have hs2 : Kept s0 s2 := by
      unfold s2
      refine kept_modRegs ?_
      rename_i hk
      exact KeptBy.along (π:=MemRes.state) hk (kept_storeAcc h)
    have hs3 : Kept s0 s3 := kept_takeNotice (kept_retire hs2)
    have hf : KeptBy Prod.snd s0 f := kept_fetchAt hs3
    clear_value s2 h1 s3 f
    split
    · exact kept_doubleFault hf
    · exact hf

theorem kept_rtiOp {s0 : State} {s : State} {c : CoreId} (h : Kept s0 s) :
    Kept s0 (rtiOp s c) := by
  unfold rtiOp
  extract_lets +onlyGivenNames r a
  clear_value r a
  split
  · rename_i hk
    exact KeptBy.along (π:=FrameRes.state) hk (kept_frameRead h)
  · refine kept_doubleFault ?_
    rename_i hk
    exact KeptBy.along (π:=FrameRes.state) hk (kept_frameRead h)
  · extract_lets +onlyGivenNames pc fl
    clear_value pc fl
    split
    · refine kept_chainExit ?_
      rename_i hk _ _ _
      exact KeptBy.along (π:=FrameRes.state) hk (kept_frameRead h)
    · refine kept_popFrame ?_
      rename_i hk _ _
      exact KeptBy.along (π:=FrameRes.state) hk (kept_frameRead h)

theorem kept_barrierOp {s0 : State} {s : State} {n : VeId} (h : Kept s0 s) :
    Kept s0 (barrierOp s n) := by
  unfold barrierOp
  extract_lets +onlyGivenNames k
  clear_value k
  split
  · exact kept_modSeq (kept_retire h)
  · split
    · exact kept_modSeq h
    · extract_lets +onlyGivenNames s1
      have hs1 : Kept s0 s1 := kept_modSeq h
      clear_value s1
      split
      · exact kept_refreshDone hs1
      · exact hs1

theorem kept_interruptOp {s0 : State} {s : State} {c : CoreId} (h : Kept s0 s) :
    Kept s0 (interruptOp s c) := by
  unfold interruptOp
  split
  · exact h
  · split
    · exact h
    · extract_lets +onlyGivenNames s1
      have hs1 : Kept s0 s1 := kept_modCore h
      clear_value s1
      exact kept_takeNotice (kept_enter hs1)

theorem kept_illegalOp {s0 : State} {s : State} {c : CoreId} {long : Bool} {e : W32} (h : Kept s0 s) :
    Kept s0 (illegalOp s c long e) := by
  unfold illegalOp
  split
  · exact h
  · split
    · split
      · exact kept_vissueOp h
      · exact kept_seqOp h (fun _ h5 => h5)
    · exact kept_seqOp h (fun _ h4 => h4)

theorem kept_instrAccessOp {s0 : State} {s : State} {c : CoreId} (h : Kept s0 s) :
    Kept s0 (instrAccessOp s c) := by
  unfold instrAccessOp
  split
  · exact kept_atFetch h (fun _ h3 => h3)
  · exact h

theorem kept_farHeader {s0 : State} {s : State} {p : PartId} {k : Fin 8} {w : W128} (h : Kept s0 s) :
    Kept s0 (farHeader s p k w) := by
  unfold farHeader
  extract_lets +onlyGivenNames seq t
  have ht : Kept s0 t := by
    unfold t
    split
    · exact kept_loadBlock h
    · exact h
  clear_value seq t
  exact kept_modStream ht

theorem kept_farWord {s0 : State} {p : PartId} {k : Fin 8} {s : State} {w : W128} (h : Kept s0 s) :
    Kept s0 (farWord p k s w) := by
  unfold farWord
  exact kept_feedWord h

theorem kept_farFence {s0 : State} {s : State} {p : PartId} (h : Kept s0 s) :
    Kept s0 (farFence s p) := by
  unfold farFence
  extract_lets +onlyGivenNames s1
  have hs1 : Kept s0 s1 := kept_modPart h
  clear_value s1
  exact kept_foldl hs1 (fun _ _ h3 => kept_commitFails h3)

theorem kept_farEdit {s0 : State} {s : State} {p : PartId} {body : List W128} (h : Kept s0 s) :
    Kept s0 (farEdit s p body) := by
  unfold farEdit
  extract_lets +onlyGivenNames a e
  clear_value a e
  split
  · exact kept_landEdit h
  · exact kept_modPart h

theorem kept_farCommit {s0 : State} {s : State} {g : Grp} {body : List W128} (h : Kept s0 s) :
    Kept s0 (farCommit s g body) := by
  unfold farCommit
  extract_lets +onlyGivenNames a pd
  clear_value a pd
  exact kept_commitGo (Kept.upd (t:=s) rfl rfl h)

theorem kept_farWrite {s0 s : State} {p : PartId} {ix sub : Nat} {body : List W128} (h : Kept s0 s) : Kept s0 (farWrite s p ix sub body) := by
  unfold farWrite
  split
  · exact kept_farCommit h
  · refine .ite (fun _ => kept_farEdit h) fun _ => ?_
    refine .ite (fun _ => .ite (fun _ => kept_farFence h) fun _ => h) fun _ => ?_
    refine .dite (fun _ => ?_) fun _ => KeptBy.out (kept_singleWrite h)
    extract_lets b v
    exact .ite (fun _ => h) fun _ => kept_startDrain h

theorem kept_farSlotStart {s0 : State} {s : State} {p : PartId} {i : ℕ} {w : W128} (h : Kept s0 s) :
    Kept s0 (farSlotStart s p i w) := by
  unfold farSlotStart
  refine kept_beginSlot ?_
  extract_lets +onlyGivenNames v
  have hv : Kept s0 v := kept_modPart h
  clear_value v
  exact Kept.upd (t:=v) rfl rfl hv

theorem kept_farIngested {s0 : State} {s : State} {p : PartId} {x : ℕ} (h : Kept s0 s) :
    Kept s0 (farIngested s p x) := by
  unfold farIngested
  exact kept_modPart h

theorem kept_farInput {s0 s : State} {w : W128} {body : List W128} (h : Kept s0 s) : Kept s0 (farInput s w body) := by
  unfold farInput
  extract_lets kind p k x
  refine .ite (fun _ => kept_reefTo h) fun _ => ?_
  refine .ite (fun _ => kept_raiseN (kept_toTwinState h)) fun _ => ?_
  refine .ite (fun _ => kept_farSlotStart h) fun _ => ?_
  refine .ite (fun _ => kept_endSlot h) fun _ => ?_
  refine .ite (fun _ => h) fun _ => ?_
  refine .ite (fun _ => kept_farHeader h) fun _ => ?_
  refine .ite (fun _ => kept_partGo (kept_foldl h fun t w ht => kept_farWord ht)) fun _ => ?_
  refine .ite (fun _ => kept_farWrite h) fun _ => ?_
  refine .ite (fun _ => kept_jobStartOp (kept_modPart h)) fun _ => ?_
  refine .ite (fun _ => kept_farIngested h) fun _ => ?_
  exact .ite (fun _ => .ite (fun _ => h) fun _ => kept_farFailGo (kept_modPart h)) fun _ => h

theorem kept_forwardedOp {s0 : State} {s : State} {f : SFrame} (h : Kept s0 s) :
    Kept s0 (forwardedOp s f) := by
  unfold forwardedOp
  split
  · exact h
  · split
    · rename_i hk _
      exact kept_rxFrame h _ hk
    · split
      · split
        · refine kept_loseTwin ?_
          rename_i hk _ _ _
          exact kept_rxFrame h _ hk
        · rename_i hk _ _ _
          exact kept_rxFrame h _ hk
      · split
        · refine kept_farInput ?_
          rename_i hk _ _ _
          exact kept_rxFrame h _ hk
        · rename_i hk _ _ _
          exact kept_rxFrame h _ hk

theorem kept_vins {s0 : State} {n : VeId} {enc : W32} {s : State} (h : Kept s0 s) :
    Kept s0 (vins n enc s) := by
  unfold vins
  exact kept_vissueOp h

theorem kept_clockNs {s0 : State} {s : State} {c : ClusterId} (h : Kept s0 s) :
    Kept s0 (clockNs s c) := by
  unfold clockNs
  split
  · extract_lets +onlyGivenNames k t s1
    have hs1 : Kept s0 s1 := kept_modCluster h
    clear_value k t s1
    exact Kept.upd (t:=s1) rfl rfl hs1
  · exact h

theorem kept_coreGo {s0 : State} {s : State} {c : CoreId} (h : Kept s0 s) :
    Kept s0 (coreGo s c) := by
  unfold coreGo
  split
  · exact kept_resumeEntry h
  · exact h

theorem kept_partWakes {s0 : State} {s : State} {p : PartId} (h : Kept s0 s) :
    Kept s0 (partWakes s p) := by
  unfold partWakes
  exact kept_farFailGo (kept_agreeGo (kept_partGo h))

theorem kept_wakeAll {s0 : State} {s : State} (h : Kept s0 s) :
    Kept s0 (wakeAll s) := by
  unfold wakeAll
  extract_lets +onlyGivenNames ns s1
  have hs1 : Kept s0 s1 := kept_foldl h (fun _ _ h3 => kept_coreGo (kept_deliverRelease h3))
  clear_value ns s1
  exact kept_foldl (kept_slotGo (kept_coreGo hs1)) (fun _ _ h3 => kept_partWakes h3)

end Sys2Proof.Machine

/-! PROOF. Every command, and the passing of time: O1, O3 and O5. -/
namespace Sys2Proof.Machine

theorem keptNext_execPowerOnReset {s0 : State} {bootsel : BitVec 2} {twinRole : Bool} {s : State} (h : Kept s0 s) :
    KeptNext s0 (execPowerOnReset bootsel twinRole s) := .next (kept_cleared h)

theorem keptNext_execPwrokFall {s0 : State} {s : State} (h : Kept s0 s) : KeptNext s0 (execPwrokFall s) := .next (kept_pwrokFallOp h)

theorem keptNext_execResetNPulse {s0 : State} {bootsel : BitVec 2} {s : State} (h : Kept s0 s) :
    KeptNext s0 (execResetNPulse bootsel s) := by
  unfold execResetNPulse
  refine .next ?_
  split
  · exact kept_packageReset h
  · exact h

theorem keptNext_execSoftReset {s0 : State} {r : Requester} {a : SoftReset} {s : State} (h : Kept s0 s) : KeptNext s0 (execSoftReset r a s) :=
  .next (kept_writeAccess (Kept.upd (t:=s) rfl rfl h))

theorem keptNext_execBootStepComplete {s0 : State} {f : BootFindings} {s : State} (h : Kept s0 s) : KeptNext s0 (execBootStepComplete f s) :=
  .next (kept_bootStepOp h)

theorem keptNext_execPllLossOfLock {s0 : State} {c : ClockLoss} {s : State} (h : Kept s0 s) :
    KeptNext s0 (execPllLossOfLock c s) := by
  unfold execPllLossOfLock
  refine .next ?_
  split
  · exact h
  · exact kept_fenceReach (kept_clockLost (kept_endReached h))

theorem keptNext_execDieFence {s0 : State} {d : DieLoss} {s : State} (h : Kept s0 s) :
    KeptNext s0 (execDieFence d s) := by
  unfold execDieFence
  refine .next ?_
  split
  · exact h
  · exact kept_fenceReach (kept_fenceDie (kept_endReached h))

theorem keptNext_execRecoveryStart {s0 : State} {hdr : Option Byte} {frame : List Byte} {s : State} (h : Kept s0 s) :
    KeptNext s0 (execRecoveryStart hdr frame s) := .next (kept_i3cRequest h)

theorem keptNext_execRecoveryData {s0 : State} {hdr : Option Byte} {frame : List Byte} {s : State} (h : Kept s0 s) :
    KeptNext s0 (execRecoveryData hdr frame s) := .next (kept_i3cRequest h)

theorem keptNext_execRecoveryFinish {s0 : State} {hdr : Option Byte} {frame : List Byte} {s : State} (h : Kept s0 s) :
    KeptNext s0 (execRecoveryFinish hdr frame s) := .next (kept_i3cRequest h)

theorem keptNext_execRecoveryQuery {s0 : State} {hdr : Option Byte} {frame : List Byte} {s : State} (h : Kept s0 s) :
    KeptNext s0 (execRecoveryQuery hdr frame s) := .next (kept_i3cRequest h)

theorem keptNext_execRecoveryBootContinue {s0 : State} {s : State} (h : Kept s0 s) : KeptNext s0 (execRecoveryBootContinue s) :=
  .next (kept_recoveryContinueOp h)

theorem keptNext_execFlashSlotWriteDone {s0 : State} {failed : Bool} {s : State} (h : Kept s0 s) : KeptNext s0 (execFlashSlotWriteDone failed s) :=
  .next (kept_flashDoneOp h)

theorem keptNext_execTimeSync {s0 : State} {s : State} (h : Kept s0 s) :
    KeptNext s0 (execTimeSync s) := by
  unfold execTimeSync
  refine .next ?_
  split
  · exact h
  · exact Kept.upd (t:=s) rfl rfl h

theorem keptNext_execHostLinkUp {s0 : State} {h1 : PortId} {width : BitVec 4} {speed : BitVec 3} {volt : BitVec 10} {load : BitVec 2} {s : State} (h : Kept s0 s) :
    KeptNext s0 (execHostLinkUp h1 width speed volt load s) := .next (kept_linkUpOp h)

theorem keptNext_execHostLinkDown {s0 : State} {h1 : PortId} {sunk : Fin 33} {s : State} (h : Kept s0 s) :
    KeptNext s0 (execHostLinkDown h1 sunk s) := by
  unfold execHostLinkDown
  refine .next ?_
  split
  · exact h
  · exact kept_linkDown h

theorem keptNext_execHotReset {s0 : State} {h1 : PortId} {sunk : Fin 33} {s : State} (h : Kept s0 s) : KeptNext s0 (execHotReset h1 sunk s) :=
  .next (kept_hotResetOp h)

theorem keptNext_execFunctionLevelReset {s0 : State} {h1 : PortId} {sunk : Fin 33} {s : State} (h : Kept s0 s) :
    KeptNext s0 (execFunctionLevelReset h1 sunk s) := .next (kept_flrOp h)

theorem keptNext_execInStreamWrite {s0 : State} {h1 : PortId} {page : BitVec 16} {slot : BitVec 8} {bar0 : Bool} {low : BitVec 4} {bytes : ℕ} {data : List Byte} {s : State} (h : Kept s0 s) :
    KeptNext s0 (execInStreamWrite h1 page slot bar0 low bytes data s) := by
  unfold execInStreamWrite
  refine .next ?_
  split
  · exact kept_accessOp h
  · exact h

theorem keptNext_execOutStreamRead {s0 : State} {h1 : PortId} {page : BitVec 16} {slot : BitVec 8} {bar0 : Bool} {low : BitVec 4} {bytes : ℕ} {s : State} (h : Kept s0 s) :
    KeptNext s0 (execOutStreamRead h1 page slot bar0 low bytes s) := by
  unfold execOutStreamRead
  refine .next ?_
  split
  · exact kept_accessOp h
  · exact h

theorem keptNext_execOutBlockPresent {s0 : State} {p : PartId} {k : Fin 8} {s : State} (h : Kept s0 s) : KeptNext s0 (execOutBlockPresent p k s) :=
  .next (kept_presentOp h)

theorem keptNext_execFifoHoldTimeout {s0 : State} {h1 : PortId} {s : State} (h : Kept s0 s) : KeptNext s0 (execFifoHoldTimeout h1 s) :=
  .next (kept_holdTimeoutOp h)

theorem keptNext_execIntArm {s0 : State} {r : Requester} {p : PartId} {a : DAcc} {s : State} (h : Kept s0 s) : KeptNext s0 (execIntArm r p a s) :=
  .next (kept_writeAccess h)

theorem keptNext_execResync {s0 : State} {r : Requester} {p : PartId} {k : Fin 8} {a : DAcc} {s : State} (h : Kept s0 s) :
    KeptNext s0 (execResync r p k a s) := .next (kept_writeAccess h)

theorem keptNext_execReplaySeq {s0 : State} {r : Requester} {p : PartId} {k : Fin 8} {a : DAcc} {s : State} (h : Kept s0 s) :
    KeptNext s0 (execReplaySeq r p k a s) := .next (kept_writeAccess h)

theorem keptNext_execLoadReset {s0 : State} {r : Requester} {p : PartId} {a : DAcc} {s : State} (h : Kept s0 s) :
    KeptNext s0 (execLoadReset r p a s) := .next (kept_writeAccess h)

theorem keptNext_execJobStart {s0 : State} {p : PartId} {s : State} (h : Kept s0 s) : KeptNext s0 (execJobStart p s) := .next (kept_jobStartOp h)

theorem keptNext_execCheckpointSave {s0 : State} {p : PartId} {s : State} (h : Kept s0 s) : KeptNext s0 (execCheckpointSave p s) :=
  .next (kept_saveOp h)

theorem keptNext_execIngest {s0 : State} {p : PartId} {s : State} (h : Kept s0 s) : KeptNext s0 (execIngest p s) := .next (kept_ingestOp h)

theorem keptNext_execCommitPhase {s0 : State} {p : PartId} {s : State} (h : Kept s0 s) : KeptNext s0 (execCommitPhase p s) :=
  .next (kept_commitPhaseOp h)

theorem keptNext_execObservation {s0 : State} {p : Observed} {s : State} (h : Kept s0 s) : KeptNext s0 (execObservation p s) :=
  .next (kept_observationOp h)

theorem keptNext_execResultRelease {s0 : State} {p : PartId} {s : State} (h : Kept s0 s) : KeptNext s0 (execResultRelease p s) :=
  .next (kept_releaseOp h)

theorem keptNext_execAdd {s0 : State} {c : CoreId} {f : AddForm} {s : State} (h : Kept s0 s) : KeptNext s0 (execAdd c f s) :=
  .next (kept_seqOp h (fun _ h2 => kept_sumOp h2))

theorem keptNext_execAdc {s0 : State} {c : CoreId} {f : AluForm} {s : State} (h : Kept s0 s) : KeptNext s0 (execAdc c f s) :=
  .next (kept_seqOp h (fun _ h2 => kept_sumOp h2))

theorem keptNext_execSub {s0 : State} {c : CoreId} {f : AddForm} {s : State} (h : Kept s0 s) : KeptNext s0 (execSub c f s) :=
  .next (kept_seqOp h (fun _ h2 => kept_sumOp h2))

theorem keptNext_execSbc {s0 : State} {c : CoreId} {f : AluForm} {s : State} (h : Kept s0 s) : KeptNext s0 (execSbc c f s) :=
  .next (kept_seqOp h (fun _ h2 => kept_sumOp h2))

theorem keptNext_execAnd {s0 : State} {c : CoreId} {f : AluForm} {s : State} (h : Kept s0 s) : KeptNext s0 (execAnd c f s) :=
  .next (kept_seqOp h (fun _ h2 => kept_logicOp h2))

theorem keptNext_execOr {s0 : State} {c : CoreId} {f : AluForm} {s : State} (h : Kept s0 s) : KeptNext s0 (execOr c f s) :=
  .next (kept_seqOp h (fun _ h2 => kept_logicOp h2))

theorem keptNext_execXor {s0 : State} {c : CoreId} {f : AluForm} {s : State} (h : Kept s0 s) : KeptNext s0 (execXor c f s) :=
  .next (kept_seqOp h (fun _ h2 => kept_logicOp h2))

theorem keptNext_execShl {s0 : State} {c : CoreId} {f : ShForm} {s : State} (h : Kept s0 s) : KeptNext s0 (execShl c f s) :=
  .next (kept_seqOp h (fun _ h2 => kept_shiftOp h2))

theorem keptNext_execShr {s0 : State} {c : CoreId} {f : ShForm} {s : State} (h : Kept s0 s) : KeptNext s0 (execShr c f s) :=
  .next (kept_seqOp h (fun _ h2 => kept_shiftOp h2))

theorem keptNext_execSar {s0 : State} {c : CoreId} {f : ShForm} {s : State} (h : Kept s0 s) : KeptNext s0 (execSar c f s) :=
  .next (kept_seqOp h (fun _ h2 => kept_shiftOp h2))

theorem keptNext_execCmp {s0 : State} {c : CoreId} {f : AddForm} {s : State} (h : Kept s0 s) : KeptNext s0 (execCmp c f s) :=
  .next (kept_seqOp h (fun _ h2 => kept_regOp h2))

theorem keptNext_execMov {s0 : State} {c : CoreId} {f : AddForm} {s : State} (h : Kept s0 s) : KeptNext s0 (execMov c f s) :=
  .next (kept_seqOp h (fun _ h2 => kept_regOp h2))

theorem keptNext_execMovk {s0 : State} {c : CoreId} {rd : BitVec 5} {hw : BitVec 2} {rsv : BitVec 3} {imm : BitVec 16} {s : State} (h : Kept s0 s) :
    KeptNext s0 (execMovk c rd hw rsv imm s) := .next (kept_seqOp h (fun _ h2 => kept_regOp h2))

theorem keptNext_execMstep {s0 : State} {c : CoreId} {rd : BitVec 5} {ra : BitVec 5} {rb : BitVec 5} {rsv : BitVec 7} {s : State} (h : Kept s0 s) :
    KeptNext s0 (execMstep c rd ra rb rsv s) := .next (kept_seqOp h (fun _ h2 => kept_regOp h2))

theorem keptNext_execDstep {s0 : State} {c : CoreId} {rd : BitVec 5} {ra : BitVec 5} {rb : BitVec 5} {rsv : BitVec 7} {s : State} (h : Kept s0 s) :
    KeptNext s0 (execDstep c rd ra rb rsv s) := by
  unfold execDstep
  refine .next ?_
  refine kept_seqOp h ?_
  intro t2 h2
  extract_lets +onlyGivenNames r
  clear_value r
  split
  · exact kept_enter h2
  · exact kept_regOp h2

theorem keptNext_execLd {s0 : State} {c : CoreId} {f : MemForm} {s : State} (h : Kept s0 s) :
    KeptNext s0 (execLd c f s) := by
  unfold execLd
  refine .next ?_
  refine kept_seqOp h ?_
  intro t2 h2
  split
  · refine kept_regOp ?_
    rename_i hk
    exact KeptBy.along (π:=MemRes.state) hk (kept_loadAcc h2)
  · refine kept_dataFault ?_
    rename_i hk
    exact KeptBy.along (π:=MemRes.state) hk (kept_loadAcc h2)
  · rename_i hk
    exact KeptBy.along (π:=MemRes.state) hk (kept_loadAcc h2)

theorem keptNext_execSt {s0 : State} {c : CoreId} {f : MemForm} {s : State} (h : Kept s0 s) :
    KeptNext s0 (execSt c f s) := by
  unfold execSt
  refine .next ?_
  refine kept_seqOp h ?_
  intro t2 h2
  extract_lets +onlyGivenNames v
  clear_value v
  split
  · refine kept_retire ?_
    rename_i hk
    exact KeptBy.along (π:=MemRes.state) hk (kept_storeAcc h2)
  · refine kept_dataFault ?_
    rename_i hk
    exact KeptBy.along (π:=MemRes.state) hk (kept_storeAcc h2)
  · rename_i hk
    exact KeptBy.along (π:=MemRes.state) hk (kept_storeAcc h2)

theorem keptNext_execBCond {s0 : State} {c : CoreId} {f : BrForm} {s : State} (h : Kept s0 s) :
    KeptNext s0 (execBCond c f s) := by
  unfold execBCond
  refine .next ?_
  refine kept_seqOp h ?_
  intro t2 h2
  extract_lets +onlyGivenNames taken
  clear_value taken
  exact kept_retire (kept_predict h2)

theorem keptNext_execBReg {s0 : State} {c : CoreId} {rs : BitVec 5} {rsvHi : BitVec 3} {rsvLo : BitVec 16} {s : State} (h : Kept s0 s) :
    KeptNext s0 (execBReg c rs rsvHi rsvLo s) := .next (kept_seqOp h (fun _ h2 => kept_retire h2))

theorem keptNext_execCall {s0 : State} {c : CoreId} {off : BitVec 24} {s : State} (h : Kept s0 s) : KeptNext s0 (execCall c off s) :=
  .next (kept_seqOp h (fun _ h2 => kept_callOp h2))

theorem keptNext_execCallReg {s0 : State} {c : CoreId} {rs : BitVec 5} {rsvHi : BitVec 3} {rsvLo : BitVec 16} {s : State} (h : Kept s0 s) :
    KeptNext s0 (execCallReg c rs rsvHi rsvLo s) := .next (kept_seqOp h (fun _ h2 => kept_callOp h2))

theorem keptNext_execRet {s0 : State} {c : CoreId} {arg : BitVec 8} {s : State} (h : Kept s0 s) : KeptNext s0 (execRet c arg s) :=
  .next (kept_seqOp h (fun _ h2 => kept_retOp h2))

theorem keptNext_execTrap {s0 : State} {c : CoreId} {arg : BitVec 8} {s : State} (h : Kept s0 s) :
    KeptNext s0 (execTrap c arg s) := by
  unfold execTrap
  refine .next ?_
  refine kept_seqOp h ?_
  intro t2 h2
  split
  · exact kept_escalate h2
  · extract_lets +onlyGivenNames s1 s2
    have hs1 : Kept s0 s1 := kept_retire h2
    have hs2 : Kept s0 s2 := by
      unfold s2
      split
      · exact kept_coreEvent hs1
      · exact hs1
    clear_value s1 s2
    exact kept_enter hs2

theorem keptNext_execRti {s0 : State} {c : CoreId} {arg : BitVec 8} {s : State} (h : Kept s0 s) : KeptNext s0 (execRti c arg s) :=
  .next (kept_seqOp h (fun _ h2 => kept_rtiOp h2))

theorem keptNext_execNop {s0 : State} {c : CoreId} {arg : BitVec 8} {s : State} (h : Kept s0 s) : KeptNext s0 (execNop c arg s) :=
  .next (kept_seqOp h (fun _ h2 => kept_retire h2))

theorem keptNext_execWait {s0 : State} {c : CoreId} {arg : BitVec 8} {s : State} (h : Kept s0 s) :
    KeptNext s0 (execWait c arg s) := by
  unfold execWait
  refine .next ?_
  refine kept_seqOp h ?_
  intro t2 h2
  split
  · exact h2
  · split
    · exact kept_retire h2
    · exact h2

theorem keptNext_execBarrier {s0 : State} {c : CoreId} {arg : BitVec 8} {s : State} (h : Kept s0 s) :
    KeptNext s0 (execBarrier c arg s) := by
  unfold execBarrier
  refine .next ?_
  refine kept_seqOp h ?_
  intro t2 h2
  split
  · exact h2
  · exact kept_barrierOp h2

theorem keptNext_execSyncI {s0 : State} {c : CoreId} {arg : BitVec 8} {s : State} (h : Kept s0 s) :
    KeptNext s0 (execSyncI c arg s) := by
  unfold execSyncI
  refine .next ?_
  refine kept_seqOp h ?_
  intro t2 h2
  extract_lets +onlyGivenNames s1
  have hs1 : Kept s0 s1 := kept_modCore (kept_retire h2)
  clear_value s1
  split
  · exact hs1
  · split
    · exact Kept.upd (t:=s1) rfl rfl hs1
    · exact hs1

theorem keptNext_execCinvI {s0 : State} {c : CoreId} {s : State} (h : Kept s0 s) : KeptNext s0 (execCinvI c s) :=
  .next (kept_seqOp h (fun _ h2 => kept_modCore (kept_retire h2)))

theorem keptNext_execCinvD {s0 : State} {c : CoreId} {s : State} (h : Kept s0 s) : KeptNext s0 (execCinvD c s) :=
  .next (kept_seqOp h (fun _ h2 => kept_modCore (kept_retire h2)))

theorem keptNext_execCinvDRange {s0 : State} {c : CoreId} {ra : BitVec 5} {rb : BitVec 5} {rsv : BitVec 12} {s : State} (h : Kept s0 s) :
    KeptNext s0 (execCinvDRange c ra rb rsv s) := by
  unfold execCinvDRange
  refine .next ?_
  refine kept_seqOp h ?_
  intro t2 h2
  extract_lets +onlyGivenNames r a n
  clear_value r a n
  exact kept_modCore (kept_retire h2)

theorem keptNext_execMovFromSr {s0 : State} {c : CoreId} {rd : BitVec 5} {sr : BitVec 4} {rsv : BitVec 13} {s : State} (h : Kept s0 s) :
    KeptNext s0 (execMovFromSr c rd sr rsv s) := by
  unfold execMovFromSr
  refine .next ?_
  refine kept_seqOp h ?_
  intro t2 h2
  extract_lets +onlyGivenNames v
  clear_value v
  exact kept_regOp h2

theorem keptNext_execMovToSr {s0 : State} {c : CoreId} {sr : BitVec 4} {rs : BitVec 5} {rsv : BitVec 13} {s : State} (h : Kept s0 s) :
    KeptNext s0 (execMovToSr c sr rs rsv s) := by
  unfold execMovToSr
  refine .next ?_
  refine kept_seqOp h ?_
  intro t2 h2
  extract_lets +onlyGivenNames v
  clear_value v
  exact kept_regOp h2

theorem keptNext_execRptMovs {s0 : State} {c : CoreId} {f : RptForm} {upto : Option ℕ} {s : State} (h : Kept s0 s) :
    KeptNext s0 (execRptMovs c f upto s) := .next (kept_rptOp h)

theorem keptNext_execRptFills {s0 : State} {c : CoreId} {f : RptForm} {upto : Option ℕ} {s : State} (h : Kept s0 s) :
    KeptNext s0 (execRptFills c f upto s) := .next (kept_rptOp h)

theorem keptNext_execRptCmps {s0 : State} {c : CoreId} {f : RptForm} {upto : Option ℕ} {s : State} (h : Kept s0 s) :
    KeptNext s0 (execRptCmps c f upto s) := .next (kept_rptOp h)

theorem keptNext_execRptScans {s0 : State} {c : CoreId} {f : RptForm} {upto : Option ℕ} {s : State} (h : Kept s0 s) :
    KeptNext s0 (execRptScans c f upto s) := .next (kept_rptOp h)

theorem keptNext_execSetvl {s0 : State} {c : CoreId} {f : VlForm} {s : State} (h : Kept s0 s) :
    KeptNext s0 (execSetvl c f s) := by
  unfold execSetvl
  refine .next ?_
  refine kept_seqOp h ?_
  intro t2 h2
  extract_lets +onlyGivenNames l
  clear_value l
  exact kept_regOp h2

theorem keptNext_execVissue {s0 : State} {c : CoreId} {f : VisForm} {s : State} (h : Kept s0 s) :
    KeptNext s0 (execVissue c f s) := by
  unfold execVissue
  refine .next ?_
  split
  · exact kept_seqOp h (fun _ h3 => h3)
  · split
    · split
      · exact kept_vissueOp h
      · exact kept_seqOp h (fun _ h5 => h5)
    · split
      · split
        · exact kept_vissueOp h
        · exact kept_seqOp h (fun _ h6 => h6)
      · split
        · exact kept_vissueOp h
        · exact kept_seqOp h (fun _ h6 => h6)

theorem keptNext_execMovX {s0 : State} {c : CoreId} {xd : BitVec 5} {xs : BitVec 5} {rsv : BitVec 12} {s : State} (h : Kept s0 s) :
    KeptNext s0 (execMovX c xd xs rsv s) := by
  unfold execMovX
  refine .next ?_
  refine kept_seqOp h ?_
  intro t2 h2
  extract_lets +onlyGivenNames v
  clear_value v
  exact kept_regOp h2

theorem keptNext_execMovWHalf {s0 : State} {c : CoreId} {rg : BitVec 5} {wn : BitVec 3} {h1 : Bool} {dir : Bool} {rsv : BitVec 12} {s : State} (h : Kept s0 s) :
    KeptNext s0 (execMovWHalf c rg wn h1 dir rsv s) := .next (kept_seqOp h (fun _ h2 => kept_regOp h2))

theorem keptNext_execAddSn {s0 : State} {c : CoreId} {sn : BitVec 4} {rs : BitVec 5} {rsv : BitVec 13} {s : State} (h : Kept s0 s) :
    KeptNext s0 (execAddSn c sn rs rsv s) := .next (kept_seqOp h (fun _ h2 => kept_regOp h2))

theorem keptNext_execVectorFaultEntry {s0 : State} {n : VeId} {s : State} (h : Kept s0 s) : KeptNext s0 (execVectorFaultEntry n s) :=
  .next (kept_faultEntry h)

theorem keptNext_execInterruptEntry {s0 : State} {c : CoreId} {s : State} (h : Kept s0 s) : KeptNext s0 (execInterruptEntry c s) :=
  .next (kept_interruptOp h)

theorem keptNext_execDoorbell {s0 : State} {r : Requester} {n : VeId} {a : DAcc} {s : State} (h : Kept s0 s) : KeptNext s0 (execDoorbell r n a s) :=
  .next (kept_writeAccess h)

theorem keptNext_execDbValueRead {s0 : State} {n : VeId} {s : State} (h : Kept s0 s) :
    KeptNext s0 (execDbValueRead n s) := by
  unfold execDbValueRead
  refine .next ?_
  split
  · exact h
  · split
    · refine kept_emit ?_
      rename_i hk
      exact kept_veLoad h _ hk
    · exact h

theorem keptNext_execVfSubstEn {s0 : State} {n : VeId} {val : W64} {s : State} (h : Kept s0 s) :
    KeptNext s0 (execVfSubstEn n val s) := by
  unfold execVfSubstEn
  refine .next ?_
  split
  · exact h
  · exact kept_substArm h

theorem keptNext_execLockstepMismatch {s0 : State} {s : State} (h : Kept s0 s) : KeptNext s0 (execLockstepMismatch s) := .next (kept_lockstepOp h)

theorem keptNext_execVlut {s0 : State} {n : VeId} {tt : BitVec 8} {o : VOps} {s : State} (h : Kept s0 s) : KeptNext s0 (execVlut n tt o s) :=
  .next (kept_vins h)

theorem keptNext_execVqlut {s0 : State} {n : VeId} {tt : BitVec 8} {o : VOps} {s : State} (h : Kept s0 s) : KeptNext s0 (execVqlut n tt o s) :=
  .next (kept_vins h)

theorem keptNext_execVres {s0 : State} {n : VeId} {fn : BitVec 6} {o : VOps} {s : State} (h : Kept s0 s) : KeptNext s0 (execVres n fn o s) :=
  .next (kept_vins h)

theorem keptNext_execVcmpr {s0 : State} {n : VeId} {fn : BitVec 6} {o : VOps} {s : State} (h : Kept s0 s) : KeptNext s0 (execVcmpr n fn o s) :=
  .next (kept_vins h)

theorem keptNext_execVexpd {s0 : State} {n : VeId} {fn : BitVec 6} {o : VOps} {s : State} (h : Kept s0 s) : KeptNext s0 (execVexpd n fn o s) :=
  .next (kept_vins h)

theorem keptNext_execVchg {s0 : State} {n : VeId} {fn : BitVec 8} {o : VOps} {s : State} (h : Kept s0 s) : KeptNext s0 (execVchg n fn o s) :=
  .next (kept_vins h)

theorem keptNext_execVperm {s0 : State} {n : VeId} {fn : BitVec 5} {o : VOps} {s : State} (h : Kept s0 s) : KeptNext s0 (execVperm n fn o s) :=
  .next (kept_vins h)

theorem keptNext_execVbgath {s0 : State} {n : VeId} {fn : BitVec 5} {o : VOps} {s : State} (h : Kept s0 s) : KeptNext s0 (execVbgath n fn o s) :=
  .next (kept_vins h)

theorem keptNext_execVgath {s0 : State} {n : VeId} {fn : BitVec 5} {o : VOps} {s : State} (h : Kept s0 s) : KeptNext s0 (execVgath n fn o s) :=
  .next (kept_vins h)

theorem keptNext_execVscat {s0 : State} {n : VeId} {fn : BitVec 5} {o : VOps} {s : State} (h : Kept s0 s) : KeptNext s0 (execVscat n fn o s) :=
  .next (kept_vins h)

theorem keptNext_execVadd {s0 : State} {n : VeId} {fn : BitVec 4} {o : VOps} {s : State} (h : Kept s0 s) : KeptNext s0 (execVadd n fn o s) :=
  .next (kept_vins h)

theorem keptNext_execVadc {s0 : State} {n : VeId} {fn : BitVec 4} {o : VOps} {s : State} (h : Kept s0 s) : KeptNext s0 (execVadc n fn o s) :=
  .next (kept_vins h)

theorem keptNext_execVsub {s0 : State} {n : VeId} {fn : BitVec 4} {o : VOps} {s : State} (h : Kept s0 s) : KeptNext s0 (execVsub n fn o s) :=
  .next (kept_vins h)

theorem keptNext_execVsbc {s0 : State} {n : VeId} {fn : BitVec 4} {o : VOps} {s : State} (h : Kept s0 s) : KeptNext s0 (execVsbc n fn o s) :=
  .next (kept_vins h)

theorem keptNext_execVcmp {s0 : State} {n : VeId} {fn : BitVec 4} {o : VOps} {s : State} (h : Kept s0 s) : KeptNext s0 (execVcmp n fn o s) :=
  .next (kept_vins h)

theorem keptNext_execVsel {s0 : State} {n : VeId} {fn : BitVec 4} {o : VOps} {s : State} (h : Kept s0 s) : KeptNext s0 (execVsel n fn o s) :=
  .next (kept_vins h)

theorem keptNext_execVshl {s0 : State} {n : VeId} {fn : BitVec 4} {o : VOps} {s : State} (h : Kept s0 s) : KeptNext s0 (execVshl n fn o s) :=
  .next (kept_vins h)

theorem keptNext_execVshr {s0 : State} {n : VeId} {fn : BitVec 4} {o : VOps} {s : State} (h : Kept s0 s) : KeptNext s0 (execVshr n fn o s) :=
  .next (kept_vins h)

theorem keptNext_execVrot {s0 : State} {n : VeId} {fn : BitVec 4} {o : VOps} {s : State} (h : Kept s0 s) : KeptNext s0 (execVrot n fn o s) :=
  .next (kept_vins h)

theorem keptNext_execVmulw {s0 : State} {n : VeId} {fn : BitVec 6} {o : VOps} {s : State} (h : Kept s0 s) : KeptNext s0 (execVmulw n fn o s) :=
  .next (kept_vins h)

theorem keptNext_execVmull {s0 : State} {n : VeId} {fn : BitVec 6} {o : VOps} {s : State} (h : Kept s0 s) : KeptNext s0 (execVmull n fn o s) :=
  .next (kept_vins h)

theorem keptNext_execVdivsInit {s0 : State} {n : VeId} {fn : BitVec 4} {o : VOps} {s : State} (h : Kept s0 s) :
    KeptNext s0 (execVdivsInit n fn o s) := .next (kept_vins h)

theorem keptNext_execVdivsStep {s0 : State} {n : VeId} {fn : BitVec 4} {o : VOps} {s : State} (h : Kept s0 s) :
    KeptNext s0 (execVdivsStep n fn o s) := .next (kept_vins h)

theorem keptNext_execVdivsFix {s0 : State} {n : VeId} {fn : BitVec 4} {o : VOps} {s : State} (h : Kept s0 s) :
    KeptNext s0 (execVdivsFix n fn o s) := .next (kept_vins h)

theorem keptNext_execVfadd {s0 : State} {n : VeId} {fn : BitVec 4} {o : VOps} {s : State} (h : Kept s0 s) : KeptNext s0 (execVfadd n fn o s) :=
  .next (kept_vins h)

theorem keptNext_execVfsub {s0 : State} {n : VeId} {fn : BitVec 4} {o : VOps} {s : State} (h : Kept s0 s) : KeptNext s0 (execVfsub n fn o s) :=
  .next (kept_vins h)

theorem keptNext_execVfmul {s0 : State} {n : VeId} {fn : BitVec 4} {o : VOps} {s : State} (h : Kept s0 s) : KeptNext s0 (execVfmul n fn o s) :=
  .next (kept_vins h)

theorem keptNext_execVfma {s0 : State} {n : VeId} {fn : BitVec 4} {o : VOps} {s : State} (h : Kept s0 s) : KeptNext s0 (execVfma n fn o s) :=
  .next (kept_vins h)

theorem keptNext_execVfmin {s0 : State} {n : VeId} {fn : BitVec 4} {o : VOps} {s : State} (h : Kept s0 s) : KeptNext s0 (execVfmin n fn o s) :=
  .next (kept_vins h)

theorem keptNext_execVfmax {s0 : State} {n : VeId} {fn : BitVec 4} {o : VOps} {s : State} (h : Kept s0 s) : KeptNext s0 (execVfmax n fn o s) :=
  .next (kept_vins h)

theorem keptNext_execVfcmp {s0 : State} {n : VeId} {fn : BitVec 4} {o : VOps} {s : State} (h : Kept s0 s) : KeptNext s0 (execVfcmp n fn o s) :=
  .next (kept_vins h)

theorem keptNext_execVfcvt {s0 : State} {n : VeId} {fn : BitVec 4} {o : VOps} {s : State} (h : Kept s0 s) : KeptNext s0 (execVfcvt n fn o s) :=
  .next (kept_vins h)

theorem keptNext_execChainGroupStart {s0 : State} {n : VeId} {readsIssued : Bool} {s : State} (h : Kept s0 s) :
    KeptNext s0 (execChainGroupStart n readsIssued s) := .next (kept_groupStart h)

theorem keptNext_execGroupComplete {s0 : State} {n : VeId} {s : State} (h : Kept s0 s) : KeptNext s0 (execGroupComplete n s) :=
  .next (kept_groupComplete h)

theorem keptNext_execElementFault {s0 : State} {n : VeId} {sunk : Sunk} {s : State} (h : Kept s0 s) : KeptNext s0 (execElementFault n sunk s) :=
  .next (kept_elementFault h)

theorem keptNext_execMemoryRead {s0 : State} {f : Frag} {rivals : Rivals} {upsets : List Upset} {s : State} (h : Kept s0 s) :
    KeptNext s0 (execMemoryRead f rivals upsets s) := by
  unfold execMemoryRead
  refine .next ?_
  split
  · exact kept_memReadOp h
  · exact h

theorem keptNext_execMemoryWrite {s0 : State} {f : Frag} {data : List Byte} {enable : List Bool} {tap : Bool} {rivals : Rivals} {upsets : List Upset} {s : State} (h : Kept s0 s) :
    KeptNext s0 (execMemoryWrite f data enable tap rivals upsets s) := by
  unfold execMemoryWrite
  refine .next ?_
  split
  · exact kept_memWriteOp h
  · exact h

theorem keptNext_execCorrectedWriteBack {s0 : State} {word : ℕ} {s : State} (h : Kept s0 s) : KeptNext s0 (execCorrectedWriteBack word s) :=
  .next (kept_writeBackOp h)

theorem keptNext_execPatrolScrub {s0 : State} {unit : StackId ⊕ BankId} {upsets : List Upset} {s : State} (h : Kept s0 s) :
    KeptNext s0 (execPatrolScrub unit upsets s) := by
  unfold execPatrolScrub
  refine .next ?_
  split
  · exact h
  · split
    · exact kept_patrolStackOp h
    · exact kept_patrolBankOp h

theorem keptNext_execRefresh {s0 : State} {q : Fin 256} {s : State} (h : Kept s0 s) : KeptNext s0 (execRefresh q s) := .next (kept_refreshOp h)

theorem keptNext_execAtomicOr {s0 : State} {f : Frag} {v : W128} {rivals : Rivals} {upsets : List Upset} {s : State} (h : Kept s0 s) :
    KeptNext s0 (execAtomicOr f v rivals upsets s) := by
  unfold execAtomicOr
  refine .next ?_
  split
  · exact kept_atomicOp h
  · exact h

theorem keptNext_execAtomicAnd {s0 : State} {f : Frag} {v : W128} {rivals : Rivals} {upsets : List Upset} {s : State} (h : Kept s0 s) :
    KeptNext s0 (execAtomicAnd f v rivals upsets s) := by
  unfold execAtomicAnd
  refine .next ?_
  split
  · exact kept_atomicOp h
  · exact h

theorem keptNext_execAtomicAdd64 {s0 : State} {f : Frag} {v : W128} {rivals : Rivals} {upsets : List Upset} {s : State} (h : Kept s0 s) :
    KeptNext s0 (execAtomicAdd64 f v rivals upsets s) := by
  unfold execAtomicAdd64
  refine .next ?_
  split
  · exact kept_atomicOp h
  · exact h

theorem keptNext_execAtomicSwap {s0 : State} {f : Frag} {v : W128} {rivals : Rivals} {upsets : List Upset} {s : State} (h : Kept s0 s) :
    KeptNext s0 (execAtomicSwap f v rivals upsets s) := by
  unfold execAtomicSwap
  refine .next ?_
  split
  · exact kept_atomicOp h
  · exact h

theorem keptNext_execAtomicCas {s0 : State} {f : Frag} {e : W128} {v : W128} {rivals : Rivals} {upsets : List Upset} {s : State} (h : Kept s0 s) :
    KeptNext s0 (execAtomicCas f e v rivals upsets s) := by
  unfold execAtomicCas
  refine .next ?_
  split
  · exact kept_atomicOp h
  · exact h

theorem keptNext_execCalRecordBreak {s0 : State} {st : StackId} {g : Fin 4} {s : State} (h : Kept s0 s) : KeptNext s0 (execCalRecordBreak st g s) :=
  .next (kept_calBreakOp h)

theorem keptNext_execQuietWindowEnd {s0 : State} {st : StackId} {ok : Bool} {volt : BitVec 10} {load : BitVec 2} {s : State} (h : Kept s0 s) :
    KeptNext s0 (execQuietWindowEnd st ok volt load s) := .next (kept_fenceReach (kept_quietEndOp h))

theorem keptNext_execStackOverheat {s0 : State} {st : StackId} {temp : Byte} {s : State} (h : Kept s0 s) :
    KeptNext s0 (execStackOverheat st temp s) := .next (kept_fenceReach (kept_overheatOp h))

theorem keptNext_execOwner {s0 : State} {r : Requester} {b : BankId} {a : DAcc} {s : State} (h : Kept s0 s) : KeptNext s0 (execOwner r b a s) :=
  .next (kept_writeAccess h)

theorem keptNext_execBankDrainEnd {s0 : State} {b : BankId} {s : State} (h : Kept s0 s) :
    KeptNext s0 (execBankDrainEnd b s) := by
  unfold execBankDrainEnd
  refine .next ?_
  split
  · exact h
  · exact kept_serveWaiting (kept_drainEnds h)

theorem keptNext_execTapRead {s0 : State} {b : BankId} {line : BitVec 16} {who : TapReq} {hit : TapHit} {s : State} (h : Kept s0 s) :
    KeptNext s0 (execTapRead b line who hit s) := .next (kept_tapReadOp h)

theorem keptNext_execTapGuaranteedCycle {s0 : State} {b : BankId} {line : BitVec 16} {who : TapReq} {s : State} (h : Kept s0 s) :
    KeptNext s0 (execTapGuaranteedCycle b line who s) := .next (kept_tapReadOp h)

theorem keptNext_execStackFence {s0 : State} {r : Requester} {st : StackId} {a : DAcc} {s : State} (h : Kept s0 s) :
    KeptNext s0 (execStackFence r st a s) := .next (kept_writeAccess h)

theorem keptNext_execBankFence {s0 : State} {r : Requester} {b : BankId} {a : DAcc} {s : State} (h : Kept s0 s) :
    KeptNext s0 (execBankFence r b a s) := .next (kept_writeAccess h)

theorem keptNext_execWatchdogExpiry {s0 : State} {w : WaitOn} {sunk : Sunk} {s : State} (h : Kept s0 s) :
    KeptNext s0 (execWatchdogExpiry w sunk s) := .next (kept_watchdogOp h)

theorem keptNext_execLinkFence {s0 : State} {r : Requester} {a : DAcc} {s : State} (h : Kept s0 s) : KeptNext s0 (execLinkFence r a s) :=
  .next (kept_writeAccess h)

theorem keptNext_execRemap {s0 : State} {v : W64} {s : State} (h : Kept s0 s) :
    KeptNext s0 (execRemap v s) := by
  unfold execRemap
  refine .next ?_
  split
  · exact h
  · split
    · exact Kept.upd (t:=s) rfl rfl h
    · exact h

theorem keptNext_execSlotStart {s0 : State} {p : PartId} {slot : Fin 4096} {others : RxRivals} {s : State} (h : Kept s0 s) :
    KeptNext s0 (execSlotStart p slot others s) := .next (kept_slotStartOp h)

theorem keptNext_execSlotComplete {s0 : State} {p : PartId} {slot : Fin 4096} {s : State} (h : Kept s0 s) :
    KeptNext s0 (execSlotComplete p slot s) := .next (kept_slotCompleteOp h)

theorem keptNext_execExchangeFault {s0 : State} {p : PartId} {slot : Fin 4096} {cut : ExchCut} {s : State} (h : Kept s0 s) :
    KeptNext s0 (execExchangeFault p slot cut s) := .next (kept_exchangeFaultOp h)

theorem keptNext_execBarrierRelease {s0 : State} {p : PartId} {s : State} (h : Kept s0 s) : KeptNext s0 (execBarrierRelease p s) :=
  .next (kept_barrierReleaseOp h)

theorem keptNext_execBarrierTimeout {s0 : State} {p : BarrierEnd} {s : State} (h : Kept s0 s) : KeptNext s0 (execBarrierTimeout p s) :=
  .next (kept_barrierTimeoutOp h)

theorem keptNext_execExchEditSlot {s0 : State} {r : Requester} {p : PartId} {a : DAcc} {s : State} (h : Kept s0 s) :
    KeptNext s0 (execExchEditSlot r p a s) := .next (kept_writeAccess h)

theorem keptNext_execExchEditGo {s0 : State} {r : Requester} {p : PartId} {a : DAcc} {s : State} (h : Kept s0 s) :
    KeptNext s0 (execExchEditGo r p a s) := .next (kept_writeAccess h)

theorem keptNext_execStagingWrite {s0 : State} {r : Requester} {ix : W16} {sub : Byte} {a : DAcc} {s : State} (h : Kept s0 s) :
    KeptNext s0 (execStagingWrite r ix sub a s) := .next (kept_writeAccess h)

theorem keptNext_execCommit {s0 : State} {r : Requester} {ix : W16} {sub : Byte} {a : DAcc} {s : State} (h : Kept s0 s) :
    KeptNext s0 (execCommit r ix sub a s) := .next (kept_writeAccess h)

theorem keptNext_execDiscard {s0 : State} {r : Requester} {ix : W16} {sub : Byte} {a : DAcc} {s : State} (h : Kept s0 s) :
    KeptNext s0 (execDiscard r ix sub a s) := .next (kept_writeAccess h)

theorem keptNext_execCommitApply {s0 : State} {ix : W16} {sub : Byte} {s : State} (h : Kept s0 s) : KeptNext s0 (execCommitApply ix sub s) :=
  .next (kept_commitApplyOp h)

theorem keptNext_execStageTimeoutExpiry {s0 : State} {ix : W16} {sub : Byte} {s : State} (h : Kept s0 s) :
    KeptNext s0 (execStageTimeoutExpiry ix sub s) := .next (kept_stageExpiryOp h)

theorem keptNext_execAbortLast {s0 : State} {h1 : PortId} {bytes : ℕ} {off : ℕ} {s : State} (h : Kept s0 s) :
    KeptNext s0 (execAbortLast h1 bytes off s) := .next (kept_readAccess h)

theorem keptNext_execRegisterWrite {s0 : State} {r : Requester} {ix : W16} {sub : Byte} {a : DAcc} {s : State} (h : Kept s0 s) :
    KeptNext s0 (execRegisterWrite r ix sub a s) := .next (kept_writeAccess h)

theorem keptNext_execAlertClear {s0 : State} {r : Requester} {a : DAcc} {s : State} (h : Kept s0 s) : KeptNext s0 (execAlertClear r a s) :=
  .next (kept_writeAccess h)

theorem keptNext_execI3cReadRequest {s0 : State} {hdr : Option Byte} {frame : List Byte} {s : State} (h : Kept s0 s) :
    KeptNext s0 (execI3cReadRequest hdr frame s) := .next (kept_i3cRequest h)

theorem keptNext_execI3cWriteRequest {s0 : State} {hdr : Option Byte} {frame : List Byte} {s : State} (h : Kept s0 s) :
    KeptNext s0 (execI3cWriteRequest hdr frame s) := .next (kept_i3cRequest h)

theorem keptNext_execI3cPrivateRead {s0 : State} {hdr : Option Byte} {s : State} (h : Kept s0 s) : KeptNext s0 (execI3cPrivateRead hdr s) :=
  .next (kept_i3cReadOp h)

theorem keptNext_execEnec {s0 : State} {dst : Option (BitVec 7)} {s : State} (h : Kept s0 s) : KeptNext s0 (execEnec dst s) := .next (kept_enecOp h)

theorem keptNext_execDisec {s0 : State} {dst : Option (BitVec 7)} {s : State} (h : Kept s0 s) : KeptNext s0 (execDisec dst s) :=
  .next (kept_disecOp h)

theorem keptNext_execEntas {s0 : State} {code : Byte} {dst : Option (BitVec 7)} {s : State} (h : Kept s0 s) : KeptNext s0 (execEntas code dst s) :=
  .next (kept_entasOp h)

theorem keptNext_execRstdaa {s0 : State} {s : State} (h : Kept s0 s) :
    KeptNext s0 (execRstdaa s) := by
  unfold execRstdaa
  refine .next ?_
  split
  · exact h
  · exact Kept.upd (t:=s) rfl rfl h

theorem keptNext_execEntdaa {s0 : State} {dyn : BitVec 7} {s : State} (h : Kept s0 s) :
    KeptNext s0 (execEntdaa dyn s) := by
  unfold execEntdaa
  refine .next ?_
  split
  · exact h
  · exact kept_setDyn h

theorem keptNext_execSetmwl {s0 : State} {dst : Option (BitVec 7)} {v : W16} {s : State} (h : Kept s0 s) : KeptNext s0 (execSetmwl dst v s) :=
  .next (kept_setLimit h)

theorem keptNext_execSetmrl {s0 : State} {dst : Option (BitVec 7)} {v : W16} {s : State} (h : Kept s0 s) : KeptNext s0 (execSetmrl dst v s) :=
  .next (kept_setLimit h)

theorem keptNext_execEnthdr0 {s0 : State} {s : State} (h : Kept s0 s) :
    KeptNext s0 (execEnthdr0 s) := by
  unfold execEnthdr0
  refine .next ?_
  split
  · exact h
  · exact Kept.upd (t:=s) rfl rfl h

theorem keptNext_execRstact {s0 : State} {dst : Option (BitVec 7)} {action : Byte} {s : State} (h : Kept s0 s) :
    KeptNext s0 (execRstact dst action s) := .next (kept_rstactOp h)

theorem keptNext_execSetdasa {s0 : State} {static : BitVec 7} {dyn : BitVec 7} {s : State} (h : Kept s0 s) :
    KeptNext s0 (execSetdasa static dyn s) := by
  unfold execSetdasa
  refine .next ?_
  split
  · exact h
  · exact kept_setDyn h

theorem keptNext_execSetnewda {s0 : State} {dst : BitVec 7} {dyn : BitVec 7} {s : State} (h : Kept s0 s) :
    KeptNext s0 (execSetnewda dst dyn s) := by
  unfold execSetnewda
  refine .next ?_
  split
  · exact kept_setDyn h
  · exact h

theorem keptNext_execGetmwl {s0 : State} {dst : BitVec 7} {s : State} (h : Kept s0 s) : KeptNext s0 (execGetmwl dst s) := .next (kept_ccGet h)

theorem keptNext_execGetmrl {s0 : State} {dst : BitVec 7} {s : State} (h : Kept s0 s) : KeptNext s0 (execGetmrl dst s) := .next (kept_ccGet h)

theorem keptNext_execGetpid {s0 : State} {dst : BitVec 7} {s : State} (h : Kept s0 s) : KeptNext s0 (execGetpid dst s) := .next (kept_ccGet h)

theorem keptNext_execGetbcr {s0 : State} {dst : BitVec 7} {s : State} (h : Kept s0 s) : KeptNext s0 (execGetbcr dst s) := .next (kept_ccGet h)

theorem keptNext_execGetdcr {s0 : State} {dst : BitVec 7} {s : State} (h : Kept s0 s) : KeptNext s0 (execGetdcr dst s) := .next (kept_ccGet h)

theorem keptNext_execGetstatus {s0 : State} {dst : BitVec 7} {s : State} (h : Kept s0 s) : KeptNext s0 (execGetstatus dst s) := .next (kept_ccGet h)

theorem keptNext_execGetmxds {s0 : State} {dst : BitVec 7} {s : State} (h : Kept s0 s) : KeptNext s0 (execGetmxds dst s) := .next (kept_ccGet h)

theorem keptNext_execEventRaise {s0 : State} {x : SrcId} {detail : W32} {s : State} (h : Kept s0 s) :
    KeptNext s0 (execEventRaise x detail s) := by
  unfold execEventRaise
  refine .next ?_
  split
  · exact kept_raise h
  · exact h

theorem keptNext_execEventServe {s0 : State} {x : Served} {s : State} (h : Kept s0 s) : KeptNext s0 (execEventServe x s) :=
  .next (kept_serveOp (kept_storeUpsets h))

theorem keptNext_execSvPop {s0 : State} {s : State} (h : Kept s0 s) : KeptNext s0 (execSvPop s) := .next (kept_popOp h)

theorem keptNext_execEvPop {s0 : State} {n : VeId} {s : State} (h : Kept s0 s) : KeptNext s0 (execEvPop n s) := .next (kept_popOp h)

theorem keptNext_execTarget {s0 : State} {r : Requester} {x : SrcId} {a : DAcc} {s : State} (h : Kept s0 s) : KeptNext s0 (execTarget r x a s) :=
  .next (kept_writeAccess h)

theorem keptNext_execArrivalsClr {s0 : State} {r : Requester} {x : SrcId} {a : DAcc} {s : State} (h : Kept s0 s) :
    KeptNext s0 (execArrivalsClr r x a s) := .next (kept_writeAccess h)

theorem keptNext_execDispatchTick {s0 : State} {m : TickMeas} {s : State} (h : Kept s0 s) : KeptNext s0 (execDispatchTick m s) :=
  .next (kept_dispatchTickOp h)

theorem keptNext_execSlotTicksExpiry {s0 : State} {s : State} (h : Kept s0 s) : KeptNext s0 (execSlotTicksExpiry s) := .next (kept_slotExpiryOp h)

theorem keptNext_execVeSlotStop {s0 : State} {n : VeId} {s : State} (h : Kept s0 s) : KeptNext s0 (execVeSlotStop n s) := .next (kept_slotStopOp h)

theorem keptNext_execWakeRequest {s0 : State} {c : ClusterId} {s : State} (h : Kept s0 s) : KeptNext s0 (execWakeRequest c s) := .next (kept_wakeOp h)

theorem keptNext_execReefRailArrival {s0 : State} {c : ClusterId} {s : State} (h : Kept s0 s) : KeptNext s0 (execReefRailArrival c s) :=
  .next (kept_railArrives h)

theorem keptNext_execFastLimit {s0 : State} {watts : W16} {s : State} (h : Kept s0 s) : KeptNext s0 (execFastLimit watts s) :=
  .next (kept_fastLimitOp h)

theorem keptNext_execTjAlertReached {s0 : State} {d : DieId} {temp : Byte} {s : State} (h : Kept s0 s) :
    KeptNext s0 (execTjAlertReached d temp s) := .next (kept_tjAlertOp h)

theorem keptNext_execThermalEmergency {s0 : State} {d : DieId} {temp : Byte} {s : State} (h : Kept s0 s) :
    KeptNext s0 (execThermalEmergency d temp s) := .next (kept_thermalOp h)

theorem keptNext_execThermtrip {s0 : State} {a : DieId} {s : State} (h : Kept s0 s) : KeptNext s0 (execThermtrip a s) := .next (kept_thermtripOp h)

theorem keptNext_execSensorCalOutOfBand {s0 : State} {c : ClusterId} {s : State} (h : Kept s0 s) : KeptNext s0 (execSensorCalOutOfBand c s) :=
  .next (kept_csOutOp h)

theorem keptNext_execEqCalOutOfBand {s0 : State} {h1 : PortId} {s : State} (h : Kept s0 s) : KeptNext s0 (execEqCalOutOfBand h1 s) :=
  .next (kept_eqOutOp h)

theorem keptNext_execSlotActive {s0 : State} {r : Requester} {i : Fin 64} {a : DAcc} {s : State} (h : Kept s0 s) :
    KeptNext s0 (execSlotActive r i a s) := .next (kept_writeAccess h)

theorem keptNext_execCrcStart {s0 : State} {u : CrcId} {master : BitVec 10} {poly : BitVec 2} {tag : W64} {expected : W64} {cmp : Bool} {count : BitVec 32} {rivals : Contest} {s : State} (h : Kept s0 s) :
    KeptNext s0 (execCrcStart u master poly tag expected cmp count rivals s) := .next (kept_crcStartOp h)

theorem keptNext_execCrcRunEnd {s0 : State} {u : CrcId} {words : List W128} {s : State} (h : Kept s0 s) : KeptNext s0 (execCrcRunEnd u words s) :=
  .next (kept_crcWordsOp h)

theorem keptNext_execCrcSelfCheck {s0 : State} {u : CrcId} {results : Vector W64 4} {s : State} (h : Kept s0 s) :
    KeptNext s0 (execCrcSelfCheck u results s) := .next (kept_crcCheckOp h)

theorem keptNext_execCrcFence {s0 : State} {r : Requester} {u : CrcId} {a : DAcc} {s : State} (h : Kept s0 s) :
    KeptNext s0 (execCrcFence r u a s) := .next (kept_writeAccess h)

theorem keptNext_execPairedMismatch {s0 : State} {pair : Fin 32} {kind : BitVec 2} {slot : Fin 4096} {sunk : Sunk} {s : State} (h : Kept s0 s) :
    KeptNext s0 (execPairedMismatch pair kind slot sunk s) := .next (kept_pairedOp h)

theorem keptNext_execVeFence {s0 : State} {r : Requester} {n : VeId} {a : DAcc} {sunk : Sunk} {s : State} (h : Kept s0 s) :
    KeptNext s0 (execVeFence r n a sunk s) := .next (kept_writeAccess h)

theorem keptNext_execPortFence {s0 : State} {r : Requester} {h1 : PortId} {a : DAcc} {sunk : Fin 33} {s : State} (h : Kept s0 s) :
    KeptNext s0 (execPortFence r h1 a sunk s) := .next (kept_writeAccess h)

theorem keptNext_execPartFence {s0 : State} {r : Requester} {p : PartId} {a : DAcc} {s : State} (h : Kept s0 s) :
    KeptNext s0 (execPartFence r p a s) := .next (kept_writeAccess h)

theorem keptNext_execSundovLinkUp {s0 : State} {lanes : BitVec 4} {s : State} (h : Kept s0 s) : KeptNext s0 (execSundovLinkUp lanes s) :=
  .next (kept_sundovUpOp h)

theorem keptNext_execHeartbeat {s0 : State} {f : SFrame} {s : State} (h : Kept s0 s) : KeptNext s0 (execHeartbeat f s) := .next (kept_heartbeatOp h)

theorem keptNext_execHeartbeatSend {s0 : State} {s : State} (h : Kept s0 s) :
    KeptNext s0 (execHeartbeatSend s) := by
  unfold execHeartbeatSend
  refine .next ?_
  split
  · exact h
  · exact kept_sendFrame h

theorem keptNext_execForwardedInput {s0 : State} {f : SFrame} {s : State} (h : Kept s0 s) : KeptNext s0 (execForwardedInput f s) :=
  .next (kept_forwardedOp h)

theorem keptNext_execDigest {s0 : State} {f : SFrame} {s : State} (h : Kept s0 s) : KeptNext s0 (execDigest f s) := .next (kept_digestOp h)

theorem keptNext_execLedgerCopy {s0 : State} {f : SFrame} {s : State} (h : Kept s0 s) : KeptNext s0 (execLedgerCopy f s) :=
  .next (kept_ledgerCopyOp h)

theorem keptNext_execProgress {s0 : State} {f : SFrame} {s : State} (h : Kept s0 s) : KeptNext s0 (execProgress f s) := .next (kept_progressOp h)

theorem keptNext_execResyncData {s0 : State} {f : SFrame} {s : State} (h : Kept s0 s) : KeptNext s0 (execResyncData f s) :=
  .next (kept_resyncDataOp h)

theorem keptNext_execFatalNotice {s0 : State} {f : SFrame} {s : State} (h : Kept s0 s) : KeptNext s0 (execFatalNotice f s) := .next (kept_fatalOp h)

theorem keptNext_execFrameResend {s0 : State} {s : State} (h : Kept s0 s) : KeptNext s0 (execFrameResend s) := .next (kept_resendOp h)

theorem keptNext_execSundovLinkLoss {s0 : State} {sunk : Fin 33} {s : State} (h : Kept s0 s) :
    KeptNext s0 (execSundovLinkLoss sunk s) := by
  unfold execSundovLinkLoss
  refine .next ?_
  split
  · exact h
  · exact kept_sundovDown h

theorem keptNext_execPresenceWaitExpiry {s0 : State} {s : State} (h : Kept s0 s) : KeptNext s0 (execPresenceWaitExpiry s) := .next (kept_presenceOp h)

theorem keptNext_execTwinPair {s0 : State} {r : Requester} {a : DAcc} {s : State} (h : Kept s0 s) : KeptNext s0 (execTwinPair r a s) :=
  .next (kept_writeAccess h)

theorem keptNext_execResyncPassEnd {s0 : State} {failed : Bool} {s : State} (h : Kept s0 s) : KeptNext s0 (execResyncPassEnd failed s) :=
  .next (kept_resyncPassOp h)

theorem keptNext_execTwinDetach {s0 : State} {r : Requester} {a : DAcc} {s : State} (h : Kept s0 s) : KeptNext s0 (execTwinDetach r a s) :=
  .next (kept_writeAccess h)

theorem keptNext_execTwinPromote {s0 : State} {r : Requester} {a : DAcc} {s : State} (h : Kept s0 s) : KeptNext s0 (execTwinPromote r a s) :=
  .next (kept_writeAccess h)

theorem keptNext_execDebugRead {s0 : State} {r : Requester} {b : BankId} {bytes : ℕ} {off : ℕ} {hit : Option SenseWrite} {s : State} (h : Kept s0 s) :
    KeptNext s0 (execDebugRead r b bytes off hit s) := .next (kept_readAccess h)

theorem keptNext_execHoldNAssert {s0 : State} {s : State} (h : Kept s0 s) : KeptNext s0 (execHoldNAssert s) := .next (kept_freezeSet h)

theorem keptNext_execHoldNDeassert {s0 : State} {s : State} (h : Kept s0 s) : KeptNext s0 (execHoldNDeassert s) := .next (kept_freezeSet h)

theorem keptNext_execDbgFreeze {s0 : State} {r : Requester} {a : DAcc} {s : State} (h : Kept s0 s) : KeptNext s0 (execDbgFreeze r a s) :=
  .next (kept_writeAccess h)

theorem keptNext_execIllegalInstruction {s0 : State} {c : CoreId} {long : Bool} {enc : W32} {s : State} (h : Kept s0 s) :
    KeptNext s0 (execIllegalInstruction c long enc s) := .next (kept_illegalOp h)

theorem keptNext_execInstructionAccess {s0 : State} {c : CoreId} {s : State} (h : Kept s0 s) : KeptNext s0 (execInstructionAccess c s) :=
  .next (kept_instrAccessOp h)

theorem keptNext_execStackAboveThermalLimit {s0 : State} {s' : StackId} {temp : Byte} {s : State} (h : Kept s0 s) :
    KeptNext s0 (execStackAboveThermalLimit s' temp s) := .next (kept_stackHotOp h)

theorem keptNext_execTwinPresentNHigh {s0 : State} {s : State} (h : Kept s0 s) : KeptNext s0 (execTwinPresentNHigh s) := .next (kept_presentHighOp h)

theorem keptNext_execFreezeEntered {s0 : State} {s : State} (h : Kept s0 s) : KeptNext s0 (execFreezeEntered s) := .next (kept_freezeEnteredOp h)

theorem keptNext_execReefClockRestart {s0 : State} {c : ClusterId} {s : State} (h : Kept s0 s) : KeptNext s0 (execReefClockRestart c s) :=
  .next (kept_clockRestart h)

theorem keptNext_execControllerOrPhyFailure {s0 : State} {st : StackId} {s : State} (h : Kept s0 s) :
    KeptNext s0 (execControllerOrPhyFailure st s) := by
  unfold execControllerOrPhyFailure
  refine .next ?_
  split
  · exact h
  · exact kept_fenceReach (kept_fenceStack h)

theorem keptNext_execStreamPathFault {s0 : State} {h1 : PathLoss} {s : State} (h : Kept s0 s) :
    KeptNext s0 (execStreamPathFault h1 s) := by
  unfold execStreamPathFault
  refine .next ?_
  split
  · exact h
  · exact kept_fencePort (kept_endReached h)

theorem keptNext_execCorrectableLinkError {s0 : State} {h1 : PortId} {s : State} (h : Kept s0 s) : KeptNext s0 (execCorrectableLinkError h1 s) :=
  .next (kept_linkErrorOp h)

/-- Every command completes, with the queue as it was and the byte stores in canonical form if they were. -/
theorem exec_keptNext (c : Instr) (s : State) : KeptNext s (exec c s) := by
  cases c with
  | powerOnReset => exact keptNext_execPowerOnReset (.refl s)
  | pwrokFall => exact keptNext_execPwrokFall (.refl s)
  | resetNPulse => exact keptNext_execResetNPulse (.refl s)
  | softReset => exact keptNext_execSoftReset (.refl s)
  | bootStepComplete => exact keptNext_execBootStepComplete (.refl s)
  | pllLossOfLock => exact keptNext_execPllLossOfLock (.refl s)
  | dieFence => exact keptNext_execDieFence (.refl s)
  | recoveryStart => exact keptNext_execRecoveryStart (.refl s)
  | recoveryData => exact keptNext_execRecoveryData (.refl s)
  | recoveryFinish => exact keptNext_execRecoveryFinish (.refl s)
  | recoveryQuery => exact keptNext_execRecoveryQuery (.refl s)
  | recoveryBootContinue => exact keptNext_execRecoveryBootContinue (.refl s)
  | flashSlotWriteDone => exact keptNext_execFlashSlotWriteDone (.refl s)
  | timeSync => exact keptNext_execTimeSync (.refl s)
  | hostLinkUp => exact keptNext_execHostLinkUp (.refl s)
  | hostLinkDown => exact keptNext_execHostLinkDown (.refl s)
  | hotReset => exact keptNext_execHotReset (.refl s)
  | functionLevelReset => exact keptNext_execFunctionLevelReset (.refl s)
  | inStreamWrite => exact keptNext_execInStreamWrite (.refl s)
  | outStreamRead => exact keptNext_execOutStreamRead (.refl s)
  | outBlockPresent => exact keptNext_execOutBlockPresent (.refl s)
  | fifoHoldTimeout => exact keptNext_execFifoHoldTimeout (.refl s)
  | intArm => exact keptNext_execIntArm (.refl s)
  | resync => exact keptNext_execResync (.refl s)
  | replaySeq => exact keptNext_execReplaySeq (.refl s)
  | loadReset => exact keptNext_execLoadReset (.refl s)
  | jobStart => exact keptNext_execJobStart (.refl s)
  | checkpointSave => exact keptNext_execCheckpointSave (.refl s)
  | ingest => exact keptNext_execIngest (.refl s)
  | commitPhase => exact keptNext_execCommitPhase (.refl s)
  | observation => exact keptNext_execObservation (.refl s)
  | resultRelease => exact keptNext_execResultRelease (.refl s)
  | add => exact keptNext_execAdd (.refl s)
  | adc => exact keptNext_execAdc (.refl s)
  | sub => exact keptNext_execSub (.refl s)
  | sbc => exact keptNext_execSbc (.refl s)
  | and => exact keptNext_execAnd (.refl s)
  | or => exact keptNext_execOr (.refl s)
  | xor => exact keptNext_execXor (.refl s)
  | shl => exact keptNext_execShl (.refl s)
  | shr => exact keptNext_execShr (.refl s)
  | sar => exact keptNext_execSar (.refl s)
  | cmp => exact keptNext_execCmp (.refl s)
  | mov => exact keptNext_execMov (.refl s)
  | movk => exact keptNext_execMovk (.refl s)
  | mstep => exact keptNext_execMstep (.refl s)
  | dstep => exact keptNext_execDstep (.refl s)
  | ld => exact keptNext_execLd (.refl s)
  | st => exact keptNext_execSt (.refl s)
  | bCond => exact keptNext_execBCond (.refl s)
  | bReg => exact keptNext_execBReg (.refl s)
  | call => exact keptNext_execCall (.refl s)
  | callReg => exact keptNext_execCallReg (.refl s)
  | ret => exact keptNext_execRet (.refl s)
  | trap => exact keptNext_execTrap (.refl s)
  | rti => exact keptNext_execRti (.refl s)
  | nop => exact keptNext_execNop (.refl s)
  | wait => exact keptNext_execWait (.refl s)
  | barrier => exact keptNext_execBarrier (.refl s)
  | syncI => exact keptNext_execSyncI (.refl s)
  | cinvI => exact keptNext_execCinvI (.refl s)
  | cinvD => exact keptNext_execCinvD (.refl s)
  | cinvDRange => exact keptNext_execCinvDRange (.refl s)
  | movFromSr => exact keptNext_execMovFromSr (.refl s)
  | movToSr => exact keptNext_execMovToSr (.refl s)
  | rptMovs => exact keptNext_execRptMovs (.refl s)
  | rptFills => exact keptNext_execRptFills (.refl s)
  | rptCmps => exact keptNext_execRptCmps (.refl s)
  | rptScans => exact keptNext_execRptScans (.refl s)
  | setvl => exact keptNext_execSetvl (.refl s)
  | vissue => exact keptNext_execVissue (.refl s)
  | movX => exact keptNext_execMovX (.refl s)
  | movWHalf => exact keptNext_execMovWHalf (.refl s)
  | addSn => exact keptNext_execAddSn (.refl s)
  | vectorFaultEntry => exact keptNext_execVectorFaultEntry (.refl s)
  | interruptEntry => exact keptNext_execInterruptEntry (.refl s)
  | doorbell => exact keptNext_execDoorbell (.refl s)
  | dbValueRead => exact keptNext_execDbValueRead (.refl s)
  | vfSubstEn => exact keptNext_execVfSubstEn (.refl s)
  | lockstepMismatch => exact keptNext_execLockstepMismatch (.refl s)
  | vlut => exact keptNext_execVlut (.refl s)
  | vqlut => exact keptNext_execVqlut (.refl s)
  | vres => exact keptNext_execVres (.refl s)
  | vcmpr => exact keptNext_execVcmpr (.refl s)
  | vexpd => exact keptNext_execVexpd (.refl s)
  | vchg => exact keptNext_execVchg (.refl s)
  | vperm => exact keptNext_execVperm (.refl s)
  | vbgath => exact keptNext_execVbgath (.refl s)
  | vgath => exact keptNext_execVgath (.refl s)
  | vscat => exact keptNext_execVscat (.refl s)
  | vadd => exact keptNext_execVadd (.refl s)
  | vadc => exact keptNext_execVadc (.refl s)
  | vsub => exact keptNext_execVsub (.refl s)
  | vsbc => exact keptNext_execVsbc (.refl s)
  | vcmp => exact keptNext_execVcmp (.refl s)
  | vsel => exact keptNext_execVsel (.refl s)
  | vshl => exact keptNext_execVshl (.refl s)
  | vshr => exact keptNext_execVshr (.refl s)
  | vrot => exact keptNext_execVrot (.refl s)
  | vmulw => exact keptNext_execVmulw (.refl s)
  | vmull => exact keptNext_execVmull (.refl s)
  | vdivsInit => exact keptNext_execVdivsInit (.refl s)
  | vdivsStep => exact keptNext_execVdivsStep (.refl s)
  | vdivsFix => exact keptNext_execVdivsFix (.refl s)
  | vfadd => exact keptNext_execVfadd (.refl s)
  | vfsub => exact keptNext_execVfsub (.refl s)
  | vfmul => exact keptNext_execVfmul (.refl s)
  | vfma => exact keptNext_execVfma (.refl s)
  | vfmin => exact keptNext_execVfmin (.refl s)
  | vfmax => exact keptNext_execVfmax (.refl s)
  | vfcmp => exact keptNext_execVfcmp (.refl s)
  | vfcvt => exact keptNext_execVfcvt (.refl s)
  | chainGroupStart => exact keptNext_execChainGroupStart (.refl s)
  | groupComplete => exact keptNext_execGroupComplete (.refl s)
  | elementFault => exact keptNext_execElementFault (.refl s)
  | memoryRead => exact keptNext_execMemoryRead (.refl s)
  | memoryWrite => exact keptNext_execMemoryWrite (.refl s)
  | correctedWriteBack => exact keptNext_execCorrectedWriteBack (.refl s)
  | patrolScrub => exact keptNext_execPatrolScrub (.refl s)
  | refresh => exact keptNext_execRefresh (.refl s)
  | atomicOr => exact keptNext_execAtomicOr (.refl s)
  | atomicAnd => exact keptNext_execAtomicAnd (.refl s)
  | atomicAdd64 => exact keptNext_execAtomicAdd64 (.refl s)
  | atomicSwap => exact keptNext_execAtomicSwap (.refl s)
  | atomicCas => exact keptNext_execAtomicCas (.refl s)
  | calRecordBreak => exact keptNext_execCalRecordBreak (.refl s)
  | quietWindowEnd => exact keptNext_execQuietWindowEnd (.refl s)
  | stackOverheat => exact keptNext_execStackOverheat (.refl s)
  | owner => exact keptNext_execOwner (.refl s)
  | bankDrainEnd => exact keptNext_execBankDrainEnd (.refl s)
  | tapRead => exact keptNext_execTapRead (.refl s)
  | tapGuaranteedCycle => exact keptNext_execTapGuaranteedCycle (.refl s)
  | stackFence => exact keptNext_execStackFence (.refl s)
  | bankFence => exact keptNext_execBankFence (.refl s)
  | watchdogExpiry => exact keptNext_execWatchdogExpiry (.refl s)
  | linkFence => exact keptNext_execLinkFence (.refl s)
  | remap => exact keptNext_execRemap (.refl s)
  | slotStart => exact keptNext_execSlotStart (.refl s)
  | slotComplete => exact keptNext_execSlotComplete (.refl s)
  | exchangeFault => exact keptNext_execExchangeFault (.refl s)
  | barrierRelease => exact keptNext_execBarrierRelease (.refl s)
  | barrierTimeout => exact keptNext_execBarrierTimeout (.refl s)
  | exchEditSlot => exact keptNext_execExchEditSlot (.refl s)
  | exchEditGo => exact keptNext_execExchEditGo (.refl s)
  | stagingWrite => exact keptNext_execStagingWrite (.refl s)
  | commit => exact keptNext_execCommit (.refl s)
  | discard => exact keptNext_execDiscard (.refl s)
  | commitApply => exact keptNext_execCommitApply (.refl s)
  | stageTimeoutExpiry => exact keptNext_execStageTimeoutExpiry (.refl s)
  | abortLast => exact keptNext_execAbortLast (.refl s)
  | registerWrite => exact keptNext_execRegisterWrite (.refl s)
  | alertClear => exact keptNext_execAlertClear (.refl s)
  | i3cReadRequest => exact keptNext_execI3cReadRequest (.refl s)
  | i3cWriteRequest => exact keptNext_execI3cWriteRequest (.refl s)
  | i3cPrivateRead => exact keptNext_execI3cPrivateRead (.refl s)
  | enec => exact keptNext_execEnec (.refl s)
  | disec => exact keptNext_execDisec (.refl s)
  | entas => exact keptNext_execEntas (.refl s)
  | rstdaa => exact keptNext_execRstdaa (.refl s)
  | entdaa => exact keptNext_execEntdaa (.refl s)
  | setmwl => exact keptNext_execSetmwl (.refl s)
  | setmrl => exact keptNext_execSetmrl (.refl s)
  | enthdr0 => exact keptNext_execEnthdr0 (.refl s)
  | rstact => exact keptNext_execRstact (.refl s)
  | setdasa => exact keptNext_execSetdasa (.refl s)
  | setnewda => exact keptNext_execSetnewda (.refl s)
  | getmwl => exact keptNext_execGetmwl (.refl s)
  | getmrl => exact keptNext_execGetmrl (.refl s)
  | getpid => exact keptNext_execGetpid (.refl s)
  | getbcr => exact keptNext_execGetbcr (.refl s)
  | getdcr => exact keptNext_execGetdcr (.refl s)
  | getstatus => exact keptNext_execGetstatus (.refl s)
  | getmxds => exact keptNext_execGetmxds (.refl s)
  | eventRaise => exact keptNext_execEventRaise (.refl s)
  | eventServe => exact keptNext_execEventServe (.refl s)
  | svPop => exact keptNext_execSvPop (.refl s)
  | evPop => exact keptNext_execEvPop (.refl s)
  | target => exact keptNext_execTarget (.refl s)
  | arrivalsClr => exact keptNext_execArrivalsClr (.refl s)
  | dispatchTick => exact keptNext_execDispatchTick (.refl s)
  | slotTicksExpiry => exact keptNext_execSlotTicksExpiry (.refl s)
  | veSlotStop => exact keptNext_execVeSlotStop (.refl s)
  | wakeRequest => exact keptNext_execWakeRequest (.refl s)
  | reefRailArrival => exact keptNext_execReefRailArrival (.refl s)
  | fastLimit => exact keptNext_execFastLimit (.refl s)
  | tjAlertReached => exact keptNext_execTjAlertReached (.refl s)
  | thermalEmergency => exact keptNext_execThermalEmergency (.refl s)
  | thermtrip d => exact keptNext_execThermtrip (a := d) (.refl s)
  | sensorCalOutOfBand => exact keptNext_execSensorCalOutOfBand (.refl s)
  | eqCalOutOfBand => exact keptNext_execEqCalOutOfBand (.refl s)
  | slotActive => exact keptNext_execSlotActive (.refl s)
  | crcStart => exact keptNext_execCrcStart (.refl s)
  | crcRunEnd => exact keptNext_execCrcRunEnd (.refl s)
  | crcSelfCheck => exact keptNext_execCrcSelfCheck (.refl s)
  | crcFence => exact keptNext_execCrcFence (.refl s)
  | pairedMismatch => exact keptNext_execPairedMismatch (.refl s)
  | veFence => exact keptNext_execVeFence (.refl s)
  | portFence => exact keptNext_execPortFence (.refl s)
  | partFence => exact keptNext_execPartFence (.refl s)
  | sundovLinkUp => exact keptNext_execSundovLinkUp (.refl s)
  | heartbeat => exact keptNext_execHeartbeat (.refl s)
  | heartbeatSend => exact keptNext_execHeartbeatSend (.refl s)
  | forwardedInput => exact keptNext_execForwardedInput (.refl s)
  | digest => exact keptNext_execDigest (.refl s)
  | ledgerCopy => exact keptNext_execLedgerCopy (.refl s)
  | progress => exact keptNext_execProgress (.refl s)
  | resyncData => exact keptNext_execResyncData (.refl s)
  | fatalNotice => exact keptNext_execFatalNotice (.refl s)
  | frameResend => exact keptNext_execFrameResend (.refl s)
  | sundovLinkLoss => exact keptNext_execSundovLinkLoss (.refl s)
  | presenceWaitExpiry => exact keptNext_execPresenceWaitExpiry (.refl s)
  | twinPair => exact keptNext_execTwinPair (.refl s)
  | resyncPassEnd => exact keptNext_execResyncPassEnd (.refl s)
  | twinDetach => exact keptNext_execTwinDetach (.refl s)
  | twinPromote => exact keptNext_execTwinPromote (.refl s)
  | debugRead => exact keptNext_execDebugRead (.refl s)
  | holdNAssert => exact keptNext_execHoldNAssert (.refl s)
  | holdNDeassert => exact keptNext_execHoldNDeassert (.refl s)
  | dbgFreeze => exact keptNext_execDbgFreeze (.refl s)
  | illegalInstruction => exact keptNext_execIllegalInstruction (.refl s)
  | instructionAccess => exact keptNext_execInstructionAccess (.refl s)
  | stackAboveThermalLimit => exact keptNext_execStackAboveThermalLimit (.refl s)
  | twinPresentNHigh => exact keptNext_execTwinPresentNHigh (.refl s)
  | freezeEntered => exact keptNext_execFreezeEntered (.refl s)
  | reefClockRestart => exact keptNext_execReefClockRestart (.refl s)
  | controllerOrPhyFailure => exact keptNext_execControllerOrPhyFailure (.refl s)
  | streamPathFault => exact keptNext_execStreamPathFault (.refl s)
  | correctableLinkError => exact keptNext_execCorrectableLinkError (.refl s)

/-- The passing of time keeps them. -/
theorem kept_idle {s0 s : State} (h : Kept s0 s) : Kept s0 (idle s) := by
  have hserve := @kept_serveWaiting s0
  obtain ⟨serve, he⟩ := exists_eq (a' := serveWaiting)
  rw [show idle = _ by delta idle; exact rfl, ← he]
  rw [← he] at hserve
  refine .ite (fun _ => h) fun _ => ?_
  extract_lets sw u ev u1 u2
  have hsw : Kept s0 sw := kept_foldl (kept_wakeAll (kept_fenceReach (kept_recoveryEnd (kept_restartEnd (kept_ackBridges h))))) fun _ _ ht => kept_enumerate ht
  have h2 : Kept s0 u2 := kept_foldl (.upd (t := serve sw) rfl rfl (hserve hsw)) fun _ _ ht => kept_clockNs ht
  exact .ite (fun _ => .upd (t := u2) rfl rfl h2) fun _ => h2

/-- Settles O1: the first part is what `step` is; the second is what every command keeps. -/
theorem stepRunsFront : Obligations.StepRunsFront := by
  unfold Obligations.StepRunsFront
  refine ⟨fun c s q hq => by rw [step, hq], fun c s t ht => ?_⟩
  obtain ⟨u, hu, hk⟩ := exec_keptNext c s
  rw [hu] at ht
  cases ht
  exact hk.1

/-- Settles O5: the commands keep the canonical form, and so does the passing of time. -/
theorem canonicalMemoryKept : Obligations.CanonicalMemoryKept := by
  unfold Obligations.CanonicalMemoryKept
  intro s t hs ht
  rw [step] at ht
  split at ht
  · cases ht
    exact (kept_idle (.refl s)).2 hs
  · next c rest _ =>
    obtain ⟨u, hu, hk⟩ := exec_keptNext c { s with pending := rest }
    rw [hu] at ht
    cases ht
    exact hk.2 (hs.of_mem rfl)

/-- A command that no sender can form has no effect (log 84). -/
theorem exec_of_not_wf {c : Instr} (h : c.wf = false) (s : State) : exec c s = .next s := by
  cases c
  case memoryRead f others upsets =>
    have hf : f.wf = false := h
    simp [exec_memoryRead, execMemoryRead, hf]
  case memoryWrite f d e tap others upsets =>
    have hf : (f.wf && decide (d.length = f.len) && decide (e.length = f.len) && f.enablesWf e) = false := h
    simp [exec_memoryWrite, execMemoryWrite, hf]
  case atomicOr f v o u =>
    have hf : f.oneWord = false := h
    simp [exec_atomicOr, execAtomicOr, hf]
  case atomicAnd f v o u =>
    have hf : f.oneWord = false := h
    simp [exec_atomicAnd, execAtomicAnd, hf]
  case atomicAdd64 f v o u =>
    have hf : f.oneWord = false := h
    simp [exec_atomicAdd64, execAtomicAdd64, hf]
  case atomicSwap f v o u =>
    have hf : f.oneWord = false := h
    simp [exec_atomicSwap, execAtomicSwap, hf]
  case atomicCas f e v o u =>
    have hf : f.oneWord = false := h
    simp [exec_atomicCas, execAtomicCas, hf]
  case inStreamWrite p page slot bar0 low bytes data =>
    have hf : ¬(bytes = data.length ∧ packetWf Config.maxPayload page slot bar0 low bytes = true) := by
      have hb : (decide (bytes = data.length) && packetWf Config.maxPayload page slot bar0 low bytes) = false := h
      simpa using hb
    rw [exec_inStreamWrite, execInStreamWrite, if_neg hf]
  case outStreamRead p page slot bar0 low bytes =>
    have hf : packetWf Config.maxRead page slot bar0 low bytes = false := h
    simp [exec_outStreamRead, execOutStreamRead, hf]
  all_goals exact nomatch h

/-- Settles O3: every command completes, and one that no sender can form changes nothing. -/
theorem wellFormedCompletes : Obligations.WellFormedCompletes := by
  unfold Obligations.WellFormedCompletes
  intro c s
  obtain ⟨t, ht, -⟩ := exec_keptNext c s
  exact ⟨⟨t, ht⟩, fun h => exec_of_not_wf h s⟩

end Sys2Proof.Machine

/-! PROOF. The state right after reset: O6. -/
namespace Sys2Proof.Machine

theorem reset_seq (n : VeId) : State.reset.seq[n] = .reset := Vector.getElem_replicate _

theorem reset_eng (n : VeId) : State.reset.eng[n] = .reset := Vector.getElem_replicate _

theorem reset_banks (b : BankId) : State.reset.banks[b] = .reset := Vector.getElem_replicate _

theorem reset_parts (p : PartId) : State.reset.parts[p] = .reset p := Vector.getElem_ofFn _

theorem reset_evSrc (x : SrcId) : State.reset.ev.src[x] = .reset x.val := Vector.getElem_ofFn _

/-- No VE executes for a partition right after reset: none is bound, the shared pool is empty, and every VE_SET is 0. -/
theorem execPart_reset (n : VeId) : execPart State.reset n = none := by
  have hbound : ((List.finRange 16).find? fun p => State.reset.parts[p].bind.contains n && (State.reset.parts[p].run.isSome || bit State.reset.pw.poolSet n.val)) = none := by
    rw [List.find?_eq_none]
    intro p _
    rw [reset_parts]
    exact Bool.false_ne_true
  have hset : vePartition State.reset n = none := by
    rw [vePartition, List.find?_eq_none]
    intro p _
    rw [reset_parts]
    simp [Partition.reset, PartCfg.reset, bit]
  have hpool : bit State.reset.pw.poolSet n.val = false := by
    show Nat.testBit 0 n.val = false
    exact Nat.zero_testBit _
  rw [execPart, hbound, hpool, hset]
  rfl

/-- Settles O6: the fields are those of the tables; the entries of a vector are all the same, or those of their number. -/
theorem resetState : Obligations.ResetState := by
  unfold Obligations.ResetState
  refine ⟨rfl, rfl, rfl, rfl, rfl, rfl, rfl, rfl, rfl, rfl, rfl, rfl, rfl, rfl, rfl, rfl, rfl, rfl, rfl, rfl, rfl, rfl, rfl, rfl, rfl, rfl, rfl, ?_, ?_, ?_, ?_⟩
  · intro n
    rw [reset_seq, reset_eng]
    exact ⟨rfl, rfl, rfl, rfl, rfl, execPart_reset n⟩
  · intro b
    rw [reset_banks]
    exact ⟨rfl, rfl, rfl⟩
  · intro p
    rw [reset_parts]
    refine ⟨rfl, rfl, ?_, rfl, rfl, rfl, rfl, rfl, rfl, rfl, ?_⟩
    · show (BitVec.ofNat 8 (p.val / 4)).toNat = p.val / 4
      rw [BitVec.toNat_ofNat]
      omega
    · intro k
      have hk : (Partition.reset p).streams[k] = .reset := Vector.getElem_replicate _
      rw [hk]
      exact ⟨rfl, rfl⟩
  · intro x
    rw [reset_evSrc]
    rfl

end Sys2Proof.Machine

/-! PROOF. The passing of a nanosecond: O2. -/
namespace Sys2Proof.Machine

/-- A fold of steps that each leave the state as it is. -/
theorem foldl_fixed {α β : Type} {f : β → α → β} {s : β} {l : List α} (h : ∀ a ∈ l, f s a = s) : l.foldl f s = s := by
  induction l with
  | nil => rfl
  | cons a l ih =>
    rw [List.foldl_cons, h a List.mem_cons_self]
    exact ih fun b hb => h b (List.mem_cons_of_mem a hb)

/-- The sequencer state of VE `n` as a nanosecond of cluster `c`'s clock leaves it. -/
def cyclesGain (s : State) (n : VeId) : Core :=
  let k := s.clusters[clusterOfVe n]
  { s.seq[n] with
    cycles := s.seq[n].cycles + (if clockRuns s (clusterOfVe n) then BitVec.ofNat 64 ((k.frac + k.freq) / 1000) else 0) }

/-- Cluster `c` as a nanosecond leaves it. -/
def fracGain (s : State) (c : ClusterId) : Cluster :=
  { s.clusters[c] with frac := if clockRuns s c then (s.clusters[c].frac + s.clusters[c].freq) % 1000 else s.clusters[c].frac }

/-- Which clocks run does not depend on the cycle counters and the remainders. -/
theorem clockRuns_congr {s t : State} {c : ClusterId} (hb : t.boot = s.boot) (hf : t.fz = s.fz) (hc : t.clusters[c] = s.clusters[c]) :
    clockRuns t c = clockRuns s c := by
  unfold clockRuns dead frozen
  rw [hb, hf, hc]

/-- The clusters after a nanosecond of a clock that runs. -/
theorem clockNs_clusters {s : State} {c : ClusterId} (h : clockRuns s c = true) :
    (clockNs s c).clusters = updV s.clusters c fun x => { x with frac := (s.clusters[c].frac + s.clusters[c].freq) % 1000 } := by
  rw [clockNs, if_pos h]
  rfl

/-- The sequencers after a nanosecond of a clock that runs. -/
theorem clockNs_seq {s : State} {c : ClusterId} (h : clockRuns s c = true) :
    (clockNs s c).seq = Vector.ofFn fun n => if n.val / 8 = c.val then
      { s.seq[n] with cycles := s.seq[n].cycles + BitVec.ofNat 64 ((s.clusters[c].frac + s.clusters[c].freq) / 1000) } else s.seq[n] := by
  rw [clockNs, if_pos h]
  rfl

theorem clockNs_stopped {s : State} {c : ClusterId} (h : clockRuns s c ≠ true) : clockNs s c = s := if_neg h

/-- A nanosecond of a clock changes clusters and sequencers alone. -/
theorem clockNs_frame (s : State) (c : ClusterId) : clockNs s c = { s with seq := (clockNs s c).seq, clusters := (clockNs s c).clusters } := by
  unfold clockNs
  split
  · rfl
  · rfl

theorem clockNs_cluster (s : State) (c d : ClusterId) : (clockNs s c).clusters[d] = if d = c then fracGain s c else s.clusters[d] := by
  by_cases hr : clockRuns s c = true
  · rw [clockNs_clusters hr]
    by_cases hd : d = c
    · subst hd
      rw [updV_same, if_pos rfl, fracGain, if_pos hr]
    · rw [updV_other _ _ _ _ (Ne.symm hd), if_neg hd]
  · rw [clockNs_stopped hr]
    split
    · next hd => rw [hd, fracGain, if_neg hr]
    · rfl

theorem clockNs_core (s : State) (c : ClusterId) (n : VeId) : (clockNs s c).seq[n] = if clusterOfVe n = c then cyclesGain s n else s.seq[n] := by
  have hiff : clusterOfVe n = c ↔ n.val / 8 = c.val := Fin.ext_iff
  by_cases hr : clockRuns s c = true
  · rw [clockNs_seq hr, Fin.getElem_fin, Vector.getElem_ofFn]
    by_cases hn : clusterOfVe n = c
    · subst hn
      rw [if_pos (hiff.1 rfl), if_pos rfl, cyclesGain, if_pos hr]
    · rw [if_neg fun h => hn (hiff.2 h), if_neg hn]
  · rw [clockNs_stopped hr]
    split
    · next hn =>
      subst hn
      rw [cyclesGain, if_neg hr]
      exact (congrArg (fun x => { s.seq[n] with cycles := x }) (BitVec.add_zero _)).symm
    · rfl

/-- A nanosecond of the clocks of different clusters. -/
theorem foldl_clockNs (l : List ClusterId) (hl : l.Nodup) (s : State) :
    let t := l.foldl clockNs s
    t = { s with seq := t.seq, clusters := t.clusters } ∧
    (∀ c, t.clusters[c] = if c ∈ l then fracGain s c else s.clusters[c]) ∧
    ∀ n, t.seq[n] = if clusterOfVe n ∈ l then cyclesGain s n else s.seq[n] := by
  induction l generalizing s with
  | nil => exact ⟨rfl, fun c => rfl, fun n => rfl⟩
  | cons c l ih =>
    obtain ⟨hc, hl⟩ := List.nodup_cons.1 hl
    have hframe := clockNs_frame s c
    have hseq := clockNs_core s c
    have hother : ∀ d, d ≠ c → (clockNs s c).clusters[d] = s.clusters[d] := fun d hd => (clockNs_cluster s c d).trans (if_neg hd)
    obtain ⟨hf, hclusters, hcores⟩ := ih hl (clockNs s c)
    have hboot : (clockNs s c).boot = s.boot := by rw [hframe]
    have hfz : (clockNs s c).fz = s.fz := by rw [hframe]
    have hrun : ∀ d, d ≠ c → clockRuns (clockNs s c) d = clockRuns s d := fun d hd => clockRuns_congr hboot hfz (hother d hd)
    refine ⟨?_, fun d => ?_, fun n => ?_⟩
    · rw [List.foldl_cons, hf, hframe]
    · rw [List.foldl_cons, hclusters d]
      by_cases hd : d = c
      · subst hd
        rw [if_neg hc, if_pos List.mem_cons_self, clockNs_cluster, if_pos rfl]
      · simp only [List.mem_cons, hd, false_or]
        split
        · simp only [fracGain, hrun d hd, hother d hd]
        · exact hother d hd
    · rw [List.foldl_cons, hcores n, hseq n]
      by_cases hn : clusterOfVe n = c
      · rw [if_neg (hn ▸ hc), if_pos hn, if_pos (hn ▸ List.mem_cons_self)]
      · simp only [List.mem_cons, hn, false_or, if_false]
        split
        · simp only [cyclesGain, hrun _ hn, hother _ hn, hseq n, if_neg hn]
        · rfl

/-- No item is left to end where no fence has reached one and no fenced twin waits for its peer. -/
theorem fenceReach_settled {s : State} (hhit : s.fab.hit = 0) (htwin : s.twin.state ≠ 3 ∨ s.twin.primary = true) : fenceReach s = s := by
  have hcond : ∀ b : Prop, ¬(s.twin.state = 3 ∧ (!s.twin.primary) = true ∧ b) := by
    rintro b ⟨h3, hp, -⟩
    rcases htwin with h | h
    · exact h h3
    · rw [h] at hp
      exact Bool.false_ne_true hp
  rw [fenceReach, if_neg (hcond _), endReached, if_pos hhit]

/-- Nothing goes on where nothing waits. -/
theorem wakeAll_settled {s : State} (hdue : s.pw.due = false) (hentry : ∀ c, (core s c).entry = none)
    (hpark : ∀ n : VeId, s.seq[n].st = .parked → s.seq[n].arrived = false ∨ s.seq[n].begunBarrier = true) (hparts : ∀ p, partWakes s p = s) :
    wakeAll s = s := by
  have hrelease : ∀ n, releaseDue s n = false := by
    intro n
    by_contra h
    simp only [releaseDue, Bool.not_eq_false, Bool.and_eq_true, beq_iff_eq, Bool.not_eq_true'] at h
    obtain ⟨⟨⟨hp, ha⟩, hb⟩, -⟩ := h
    rcases hpark n hp with h | h
    · rw [h] at ha
      exact Bool.false_ne_true ha
    · rw [h] at hb
      exact Bool.false_ne_true hb.symm
  have hnone : ((List.finRange 64).filter fun n => releaseDue s n || s.seq[n].entry.isSome) = [] := by
    rw [List.filter_eq_nil_iff]
    intro n _
    have he : s.seq[n].entry = none := hentry (.ve n)
    rw [hrelease, he]
    exact Bool.false_ne_true
  have hsv : coreGo s .sv = s := by
    rw [coreGo, hentry .sv]
    rfl
  have hslot : slotGo s = s := by
    rw [slotGo, hdue]
    rfl
  rw [wakeAll, hnone]
  show (List.finRange 16).foldl partWakes (slotGo (coreGo s .sv)) = s
  rw [hsv, hslot]
  exact foldl_fixed fun p _ => hparts p

/-- The clocks' own nanosecond, on a device that has gone on to `w`: every die's counter, the cycles, and FREEZE_NS in a freeze. -/
def clocksNs (frozen : Prop) [Decidable frozen] (w : State) : State :=
  let t := (List.finRange 8).foldl clockNs { w with ev := { w.ev with time := w.ev.time.map (· + 1) } }
  if frozen then { t with fz := { t.fz with ns := t.fz.ns + 1 } } else t

theorem idle_eq {s : State} (hdead : dead s = false) : idle s = clocksNs (s.fz.state = 2)
    (serveWaiting ((List.finRange 4).foldl enumerate (wakeAll (fenceReach (recoveryEnd (restartEnd (ackBridges s))))))) := by
  rw [idle, hdead]
  rfl

/-- With nothing waiting, the passing of a nanosecond is that of the clocks. -/
theorem idle_settled {s u : State} (hu : u = recoveryEnd (restartEnd (ackBridges s))) (hdead : dead s = false) (h : Settled u) :
    idle s = clocksNs (s.fz.state = 2) u := by
  obtain ⟨hhit, hwait, htwin, hdue, hentry, hpark, hlink, hparts⟩ := h
  have henum : (List.finRange 4).foldl enumerate u = u := foldl_fixed fun p _ => by
    refine if_neg ?_
    rintro ⟨h2, hm⟩
    rw [hlink p h2] at hm
    exact Bool.false_ne_true hm
  have hserve : serveWaiting u = u := by
    rw [serveWaiting, hwait]
    exact ite_self _
  rw [idle_eq hdead, ← hu, fenceReach_settled hhit htwin, wakeAll_settled hdue hentry hpark hparts, henum, hserve]

/-- The restart of a core changes the supervisor, the lockstep pair's state and what an event can change. -/
theorem restartEnd_frame (s : State) : ∃ l d a o, restartEnd s = { s with
    sv := (restartEnd s).sv, ls := (restartEnd s).ls, ev := { s.ev with latches := l }, dict := { s.dict with alertCause := d }
    i3c := { s.i3c with ibiAlert := a }, outs := o } := by
  unfold restartEnd
  split
  · exact ⟨s.ev.latches, s.dict.alertCause, s.i3c.ibiAlert, s.outs, rfl⟩
  · split
    · obtain ⟨l, d, a, o, h⟩ := raiseN_frame { s with sv := { s.sv with st := .running } } 720 (s.sv.emer.reason.setWidth 32)
      rw [h]
      exact ⟨l, d, a, o, rfl⟩
    · exact ⟨s.ev.latches, s.dict.alertCause, s.i3c.ibiAlert, s.outs, rfl⟩

/-- The supervisor's core and the lockstep pair at the end of recovery microcode. -/
theorem restartEnd_pair {s : State} (hr : s.sv.st = .recovery) (h1 : s.ls.state = 1) :
    restartEnd s = { s with sv := { s.sv with st := .running }, ls := { s.ls with state := 0 } } := by
  rw [restartEnd, if_pos (by rw [hr, h1]; rfl)]

/-- A restart of the firmware ends with its event; the lockstep pair's state stands. -/
theorem restartEnd_firmware {s : State} (h : restarting s = true) (h2 : s.ls.state ≠ 2) :
    restartEnd s = raiseN { s with sv := { s.sv with st := .running } } 720 (s.sv.emer.reason.setWidth 32) := by
  have h1 : s.ls.state ≠ 1 := by
    simp only [restarting, Bool.and_eq_true, bne_iff_ne] at h
    exact h.2
  rw [restartEnd, if_neg (by simp [h1]), if_pos (by simp [h, h2])]

theorem restartEnd_none {s : State} (h : restarting s = false) (h1 : s.sv.st = .recovery → s.ls.state ≠ 1) : restartEnd s = s := by
  rw [restartEnd, if_neg (by simpa using h1), if_neg (by simp [h])]

/-- A sequencer at the end of recovery microcode. -/
theorem recoveryEnd_core (s : State) (n : VeId) : (recoveryEnd s).seq[n] =
    if s.seq[n].st = .recovery ∧ s.seq[n].back ≠ .unbound ∧ 5 < s.boot.step ∧ clockRuns s (clusterOfVe n) = true
      then { s.seq[n] with st := s.seq[n].back, back := .unbound } else s.seq[n] := Vector.getElem_ofFn _

/-- No sequencer is at the end of recovery microcode. -/
theorem recoveryEnd_none {s : State} (h : ∀ n : VeId, s.seq[n].st = .recovery → s.seq[n].back = .unbound) : recoveryEnd s = s := by
  have hseq : (recoveryEnd s).seq = s.seq := by
    refine Vector.ext fun i hi => ?_
    refine (recoveryEnd_core s ⟨i, hi⟩).trans (if_neg ?_)
    rintro ⟨hr, hb, -⟩
    exact hb (h ⟨i, hi⟩ hr)
  exact congrArg (fun v => { s with seq := v }) hseq

theorem ackBridges_none {s : State} (h : ∀ i : Fin 8, s.fab.bridges[i].kept = []) : ackBridges s = s := by
  have hb : (s.fab.bridges.map fun b => { b with kept := [] }) = s.fab.bridges := by
    refine Vector.ext fun i hi => ?_
    have hk : s.fab.bridges[i].kept = [] := h ⟨i, hi⟩
    rw [Vector.getElem_map, ← hk]
  exact congrArg (fun v => { s with fab := { s.fab with bridges := v } }) hb

theorem getElem_ackBridges (s : State) (i : Fin 8) : (ackBridges s).fab.bridges[i] = { s.fab.bridges[i] with kept := [] } :=
  Vector.getElem_map ..

/-- What the clocks' own nanosecond changes. -/
theorem clocksNs_spec (P : Prop) [Decidable P] (u : State) :
    let t := clocksNs P u
    t = { u with ev := t.ev, seq := t.seq, clusters := t.clusters, fz := t.fz } ∧
    t.ev = { u.ev with time := t.ev.time } ∧ (∀ d : Fin 4, t.ev.time[d] = u.ev.time[d] + 1) ∧
    (∀ n, t.seq[n] = cyclesGain u n) ∧ (∀ c, t.clusters[c] = fracGain u c) ∧ t.fz = { u.fz with ns := if P then u.fz.ns + 1 else u.fz.ns } := by
  obtain ⟨hf, hc, hn⟩ := foldl_clockNs (List.finRange 8) (List.nodup_finRange 8) { u with ev := { u.ev with time := u.ev.time.map (· + 1) } }
  have htime : ∀ d : Fin 4, (u.ev.time.map (· + 1))[d] = u.ev.time[d] + 1 := fun d => Vector.getElem_map ..
  have hc' := fun c => (hc c).trans (if_pos (List.mem_finRange c))
  have hn' := fun n => (hn n).trans (if_pos (List.mem_finRange (clusterOfVe n)))
  unfold clocksNs
  split
  · next h =>
    dsimp only
    refine ⟨?_, ?_, ?_, hn', hc', ?_⟩
    · rw [hf]
    · rw [hf]
    · rw [hf]
      exact htime
    · rw [hf]
  · next h =>
    dsimp only
    refine ⟨?_, ?_, ?_, hn', hc', ?_⟩
    · rw [hf]
    · rw [hf]
    · rw [hf]
      exact htime
    · rw [hf]

/-- Settles O2: a dead device does not move; else what ended before the clocks, and the clocks' own nanosecond where nothing waits. -/
theorem stepIdle : Obligations.StepIdle := by
  unfold Obligations.StepIdle
  intro s hq
  have hstep : step s = .next (idle s) := by rw [step, hq]
  refine ⟨fun hdead => by rw [hstep, idle, if_pos hdead], fun hdead => ?_⟩
  obtain ⟨l, d, a, o, hr⟩ := restartEnd_frame (ackBridges s)
  refine ⟨fun i => ?_, fun h h2 => ?_, fun h h1 => ?_, fun n hn hb hstep hclock => ?_, fun hk hn hrest hsv => ?_, fun hs => ?_⟩
  · rw [hr]
    exact getElem_ackBridges s i
  · have he := restartEnd_firmware (s := ackBridges s) h h2
    obtain ⟨l, d, a, o, hraise⟩ := raiseN_frame { ackBridges s with sv := { s.sv with st := .running } } 720 (s.sv.emer.reason.setWidth 32)
    rw [he]
    exact ⟨congrArg State.sv hraise, congrArg (fun t => t.ls.state) hraise⟩
  · rw [restartEnd_pair (s := ackBridges s) h h1]
    exact ⟨rfl, rfl⟩
  · have hc : clockRuns (restartEnd (ackBridges s)) (clusterOfVe n) = true := by
      rw [hr]
      exact hclock
    have hst : (restartEnd (ackBridges s)).seq[n] = s.seq[n] := by rw [hr]; rfl
    have hbt : (restartEnd (ackBridges s)).boot = s.boot := by rw [hr]; rfl
    rw [recoveryEnd_core, hst, hbt, if_pos ⟨hn, hb, hstep, hc⟩]
  · rw [ackBridges_none hk, restartEnd_none hrest hsv, recoveryEnd_none hn]
  · exact ⟨_, hstep.trans (congrArg _ (idle_settled rfl hdead hs)), clocksNs_spec (s.fz.state = 2) _⟩

end Sys2Proof.Machine

/-! PROOF. Sums of the sequencer: O7. -/
namespace Sys2Proof.Machine

/-! ### Exact sums and differences at 64 bits -/

theorem addC_res (a b : W64) (k : Bool) : (addC a b k).res = a + b + BitVec.ofNat 64 k.toNat := by
  apply BitVec.eq_of_toNat_eq
  simp [addC, BitVec.toNat_add]

theorem subC_res (a b : W64) (k : Bool) : (subC a b k).res = a - b - BitVec.ofNat 64 (1 - k.toNat) := by
  have ha := a.isLt
  have hb := b.isLt
  apply BitVec.eq_of_toNat_eq
  cases k
  · simp [subC, BitVec.toNat_sub, BitVec.toNat_not]
    omega
  · simp [subC, BitVec.toNat_sub, BitVec.toNat_not]
    omega

theorem addC_carry (a b : W64) (k : Bool) : (addC a b k).c = true ↔ 2 ^ 64 ≤ a.toNat + b.toNat + k.toNat := decide_eq_true_iff

/-- C of a difference is 1 when there is no borrow. -/
theorem subC_carry (a b : W64) (k : Bool) : (subC a b k).c = true ↔ b.toNat + (1 - k.toNat) ≤ a.toNat := by
  have ha := a.isLt
  have hb := b.isLt
  rw [show (subC a b k).c = decide (2 ^ 64 ≤ a.toNat + (~~~b).toNat + k.toNat) from rfl, decide_eq_true_iff, BitVec.toNat_not]
  cases k
  · simp only [Bool.toNat_false]
    omega
  · simp only [Bool.toNat_true]
    omega

/-- The value of a word of 64 bits as a signed number, by its sign. -/
theorem toInt_eq_msb (a : W64) : a.toInt = (a.toNat : Int) - (if a.msb then 2 ^ 64 else 0) := by
  rw [BitVec.toInt_eq_msb_cond]
  split
  · rfl
  · simp

/-- The V rule: two operands of one sign and a result of the other. -/
theorem overflow_iff {a b r : W64} {k : Nat} (hk : k ≤ 1) (hr : r.toNat = (a.toNat + b.toNat + k) % 2 ^ 64) :
    (a.msb == b.msb && r.msb != a.msb) = true ↔ ¬(-(2 ^ 63) ≤ a.toInt + b.toInt + k ∧ a.toInt + b.toInt + k < 2 ^ 63) := by
  have ha := a.isLt
  have hb := b.isLt
  rw [toInt_eq_msb a, toInt_eq_msb b, BitVec.msb_eq_decide, BitVec.msb_eq_decide, BitVec.msb_eq_decide, hr]
  simp
  omega

theorem addC_overflow (a b : W64) (k : Bool) :
    (addC a b k).v = true ↔ ¬(-(2 ^ 63) ≤ a.toInt + b.toInt + k.toNat ∧ a.toInt + b.toInt + k.toNat < 2 ^ 63) :=
  overflow_iff (by cases k <;> decide) (BitVec.toNat_ofNat ..)

theorem subC_overflow (a b : W64) (k : Bool) :
    (subC a b k).v = true ↔ ¬(-(2 ^ 63) ≤ a.toInt - b.toInt - (1 - k.toNat : Nat) ∧ a.toInt - b.toInt - (1 - k.toNat : Nat) < 2 ^ 63) := by
  have hnot : a.toInt + (~~~b).toInt + k.toNat = a.toInt - b.toInt - (1 - k.toNat : Nat) := by
    have hn : (~~~b).toInt = -b.toInt - 1 := by
      have hb := b.isLt
      rw [toInt_eq_msb, toInt_eq_msb, BitVec.msb_not, BitVec.toNat_not, BitVec.msb_eq_decide]
      simp
      omega
    rw [hn]
    cases k
    · simp only [Bool.toNat_false]
      omega
    · simp only [Bool.toNat_true]
      omega
  have h := overflow_iff (a := a) (b := ~~~b) (r := (subC a b k).res) (k := k.toNat) (by cases k <;> decide) (BitVec.toNat_ofNat ..)
  rw [hnot] at h
  rw [← h]
  have hmsb : (a.msb == (~~~b).msb) = (a.msb != b.msb) := by
    rw [BitVec.msb_not]
    cases a.msb <;> cases b.msb <;> rfl
  rw [hmsb]
  rfl

theorem regSet_withPc (r : Regs) (x : BitVec 5) (v : W64) (p : Addr) : regSet { r with pc := p } x v = { regSet r x v with pc := p } := by
  unfold regSet
  split
  · rfl
  · split
    · rfl
    · rfl

/-- A retired instruction that writes a register field and at most N, Z, C and V of FL. -/
theorem writesReg_regOp (s : State) (c : CoreId) (len : Nat) (rd : BitVec 5) (v : W64) (g : W64 → W64)
    (hg : FlKeeps (core s c).r.fl (g (core s c).r.fl) [0, 1, 2, 3]) :
    WritesReg s (regOp s c len fun r => { regSet r rd v with fl := g r.fl }) c len rd v := by
  have hr := regOp_regs s c len fun r => { regSet r rd v with fl := g r.fl }
  refine ⟨retires_regOp s c len _ fun r => regSet_pc r rd v, ?_, ?_⟩
  · rw [hr, regSet_withPc]
  · rw [hr]
    exact hg

/-! ### Sums -/

/-- The registers once a sum has been written. -/
abbrev sumRegs (s : State) (c : CoreId) (x : AluOps) (t : Sum) : State :=
  regOp s c x.len fun r => { regSet r x.rd t.res with fl := sumFlags r.fl t }

theorem sumRegs_spec (s : State) (c : CoreId) (x : AluOps) (t : Sum) :
    WritesReg s (sumRegs s c x t) c x.len x.rd t.res ∧ NzOf (core (sumRegs s c x t) c).r.fl t.res ∧
    flC (core (sumRegs s c x t) c).r.fl = t.c ∧ flV (core (sumRegs s c x t) c).r.fl = t.v := by
  have hr := regOp_regs s c x.len fun r => { regSet r x.rd t.res with fl := sumFlags r.fl t }
  obtain ⟨hn, hz, hc, hv⟩ := setNzcv_bits (core s c).r.fl t.res.msb (t.res == 0) t.c t.v
  refine ⟨writesReg_regOp s c x.len x.rd t.res (sumFlags · t) (setNzcv_keeps _ _ _ _ _), ?_, ?_, ?_⟩
  · rw [hr]
    exact ⟨hn, hz⟩
  · rw [hr]
    exact hc
  · rw [hr]
    exact hv

/-- A sum without a trap. -/
theorem sumOp_quiet {s : State} {c : CoreId} (x : AluOps) {t : Sum} (h : t.v = false ∨ flOve (core s c).r.fl = false) :
    sumOp s c x t = sumRegs s c x t := by
  refine if_neg ?_
  rw [Bool.and_eq_true]
  rintro ⟨hv, ho⟩
  rcases h with h | h
  · rw [h] at hv
    exact Bool.false_ne_true hv
  · rw [h] at ho
    exact Bool.false_ne_true ho

/-- A sum whose overflow traps (R168). -/
theorem sumOp_trap {s : State} {c : CoreId} (x : AluOps) {t : Sum} (hv : t.v = true) (ho : flOve (core s c).r.fl = true) :
    sumOp s c x t = enter (sumRegs s c x t) c 6 0 0 ((core s c).r.pc.setWidth 64) (nextPc s c x.len) := by
  refine if_pos ?_
  rw [hv, ho]
  rfl

/-- The address of the next instruction does not depend on the fetch. -/
theorem nextPc_taken (s : State) (c : CoreId) (len n : Nat) : nextPc (taken s c len) c n = nextPc s c n := by
  rw [nextPc, fetched_regs, nextPc]

/-- A command that executes as a sum on a core that is ready. -/
structure SumCmd (s : State) (c : CoreId) (i : Instr) (x : AluOps) (t : Sum) : Prop where
  long : isLong x.enc = (x.len == 4)
  runs : ∃ f, exec i s = .next (seqOp s c x.enc (badIf x.ok) f) ∧ f (taken s c x.len) = sumOp (taken s c x.len) c x t

theorem SumCmd.exec_eq {s : State} {c : CoreId} {i : Instr} {x : AluOps} {t : Sum} (h : SumCmd s c i x t) (hr : Ready s c x.len) (hok : x.ok = true) :
    exec i s = .next (sumOp (taken s c x.len) c x t) := by
  obtain ⟨f, he, hf⟩ := h.runs
  rw [he, seqOp_ok hr h.long f hok, hf]

theorem SumCmd.quiet {s : State} {c : CoreId} {i : Instr} {x : AluOps} {t : Sum} (h : SumCmd s c i x t) (hr : Ready s c x.len) (hok : x.ok = true)
    (hv : t.v = false ∨ flOve (core s c).r.fl = false) :
    ∃ u, exec i s = .next u ∧ WritesReg (taken s c x.len) u c x.len x.rd t.res ∧ NzOf (core u c).r.fl t.res ∧
      flC (core u c).r.fl = t.c ∧ flV (core u c).r.fl = t.v := by
  have hq : t.v = false ∨ flOve (core (taken s c x.len) c).r.fl = false := by rwa [fetched_regs]
  exact ⟨_, (h.exec_eq hr hok).trans (congrArg _ (sumOp_quiet x hq)), sumRegs_spec _ c x t⟩

theorem SumCmd.trap {s : State} {c : CoreId} {i : Instr} {x : AluOps} {t : Sum} (h : SumCmd s c i x t) (hr : Ready s c x.len) (hok : x.ok = true)
    (hv : t.v = true) (ho : flOve (core s c).r.fl = true) :
    ∃ u, WritesReg (taken s c x.len) u c x.len x.rd t.res ∧ flV (core u c).r.fl = true ∧
      exec i s = .next (enter u c 6 0 0 ((core s c).r.pc.setWidth 64) (nextPc s c x.len)) := by
  obtain ⟨hw, -, -, hfv⟩ := sumRegs_spec (taken s c x.len) c x t
  refine ⟨_, hw, hfv.trans hv, (h.exec_eq hr hok).trans (congrArg _ ?_)⟩
  rw [sumOp_trap x hv (by rwa [fetched_regs]), fetched_regs, nextPc_taken]

section Sums

variable (s : State) (c : CoreId)

theorem sumCmd_add (f : AddForm) : SumCmd s c (.add c f) (addOps (core s c).r 0x0 f)
    (addC (addOps (core s c).r 0x0 f).a (addOps (core s c).r 0x0 f).b false) :=
  ⟨isLong_addOps _ _ f (by decide), _, rfl, rfl⟩

theorem sumCmd_sub (f : AddForm) : SumCmd s c (.sub c f) (addOps (core s c).r 0x2 f)
    (subC (addOps (core s c).r 0x2 f).a (addOps (core s c).r 0x2 f).b true) :=
  ⟨isLong_addOps _ _ f (by decide), _, rfl, rfl⟩

theorem sumCmd_adc (f : AluForm) : SumCmd s c (.adc c f) (aluOps (core s c).r 0x1 f)
    (addC (aluOps (core s c).r 0x1 f).a (aluOps (core s c).r 0x1 f).b (flC (core s c).r.fl)) :=
  ⟨isLong_aluOps _ _ f (by decide), _, rfl, by rw [fetched_regs]⟩

theorem sumCmd_sbc (f : AluForm) : SumCmd s c (.sbc c f) (aluOps (core s c).r 0x3 f)
    (subC (aluOps (core s c).r 0x3 f).a (aluOps (core s c).r 0x3 f).b (flC (core s c).r.fl)) :=
  ⟨isLong_aluOps _ _ f (by decide), _, rfl, by rw [fetched_regs]⟩

end Sums

/-- What O7 says of a sum that fits or does not trap, from the sum's own facts. -/
theorem SumCmd.completes {s : State} {c : CoreId} {i : Instr} {x : AluOps} {t : Sum} {v : W64} {carry : Prop} {z : Int} (h : SumCmd s c i x t)
    (hres : t.res = v) (hc : t.c = true ↔ carry) (hv : t.v = true ↔ ¬(-(2 ^ 63) ≤ z ∧ z < 2 ^ 63)) (hr : Ready s c x.len) (hok : x.ok = true)
    (hfit : (-(2 ^ 63) ≤ z ∧ z < 2 ^ 63) ∨ flOve (core s c).r.fl = false) :
    ∃ u, exec i s = .next u ∧ WritesReg (taken s c x.len) u c x.len x.rd v ∧ NzOf (core u c).r.fl v ∧
      (flC (core u c).r.fl = true ↔ carry) ∧ (flV (core u c).r.fl = true ↔ ¬(-(2 ^ 63) ≤ z ∧ z < 2 ^ 63)) := by
  have hq : t.v = false ∨ flOve (core s c).r.fl = false := hfit.imp_left fun hz => by
    rw [← Bool.not_eq_true, hv]
    exact not_not_intro hz
  obtain ⟨u, he, hw, hnz, hfc, hfv⟩ := h.quiet hr hok hq
  exact ⟨u, he, hres ▸ hw, hres ▸ hnz, by rw [hfc, hc], by rw [hfv, hv]⟩

/-- What O7 says of a sum whose overflow traps. -/
theorem SumCmd.traps {s : State} {c : CoreId} {i : Instr} {x : AluOps} {t : Sum} {v : W64} {z : Int} (h : SumCmd s c i x t)
    (hres : t.res = v) (hv : t.v = true ↔ ¬(-(2 ^ 63) ≤ z ∧ z < 2 ^ 63)) (ho : flOve (core s c).r.fl = true) (hr : Ready s c x.len) (hok : x.ok = true)
    (hz : ¬(-(2 ^ 63) ≤ z ∧ z < 2 ^ 63)) :
    ∃ u, WritesReg (taken s c x.len) u c x.len x.rd v ∧ flV (core u c).r.fl = true ∧
      exec i s = .next (enter u c 6 0 0 ((core s c).r.pc.setWidth 64) (nextPc s c x.len)) := by
  obtain ⟨u, hw, hfv, he⟩ := h.trap hr hok (hv.2 hz) ho
  exact ⟨u, hres ▸ hw, hfv, he⟩

section Exact

variable (a b : W64)

theorem addC_plain : (addC a b false).res = a + b := by simp [addC_res]

theorem subC_plain : (subC a b true).res = a - b := by simp [subC_res]

theorem addC_carry_plain : (addC a b false).c = true ↔ 2 ^ 64 ≤ a.toNat + b.toNat := addC_carry a b false

theorem subC_carry_plain : (subC a b true).c = true ↔ b.toNat ≤ a.toNat := subC_carry a b true

theorem addC_overflow_plain : (addC a b false).v = true ↔ ¬(-(2 ^ 63) ≤ a.toInt + b.toInt ∧ a.toInt + b.toInt < 2 ^ 63) := by
  simpa using addC_overflow a b false

theorem subC_overflow_plain : (subC a b true).v = true ↔ ¬(-(2 ^ 63) ≤ a.toInt - b.toInt ∧ a.toInt - b.toInt < 2 ^ 63) := by
  simpa using subC_overflow a b true

end Exact

/-- Settles O7: each of the four commands is one sum, whose carry and overflow are exact. -/
theorem sumsAndOverflow : Obligations.SumsAndOverflow := by
  unfold Obligations.SumsAndOverflow
  refine ⟨fun s c => ⟨fun f => ?_, fun f => ?_, fun f => ?_, fun f => ?_⟩, fun s c ho => ⟨fun f => ?_, fun f => ?_, fun f => ?_, fun f => ?_⟩⟩
  · exact (sumCmd_add s c f).completes (addC_plain _ _) (addC_carry_plain _ _) (addC_overflow_plain _ _)
  · exact (sumCmd_sub s c f).completes (subC_plain _ _) (subC_carry_plain _ _) (subC_overflow_plain _ _)
  · exact (sumCmd_adc s c f).completes (addC_res _ _ _) (addC_carry _ _ _) (addC_overflow _ _ _)
  · exact (sumCmd_sbc s c f).completes (subC_res _ _ _) (subC_carry _ _ _) (subC_overflow _ _ _)
  · exact (sumCmd_add s c f).traps (addC_plain _ _) (addC_overflow_plain _ _) ho
  · exact (sumCmd_sub s c f).traps (subC_plain _ _) (subC_overflow_plain _ _) ho
  · exact (sumCmd_adc s c f).traps (addC_res _ _ _) (addC_overflow _ _ _) ho
  · exact (sumCmd_sbc s c f).traps (subC_res _ _ _) (subC_overflow _ _ _) ho

end Sys2Proof.Machine

/-! PROOF. Logic, shifts, comparisons and moves: O8. -/
namespace Sys2Proof.Machine

/-! ### Results of logic, shifts and moves -/

/-- A command that executes as `f` on a core that is ready. -/
theorem exec_of_seqOp {s : State} {c : CoreId} {i : Instr} {enc : W32} {len : Nat} {ok : Bool} {f : State → State}
    (he : exec i s = .next (seqOp s c enc (badIf ok) f)) (hl : isLong enc = (len == 4)) (hr : Ready s c len) (hok : ok = true) :
    exec i s = .next (f (taken s c len)) := by rw [he, seqOp_ok hr hl f hok]

/-- A register field is written, and FL stands. -/
theorem writesReg_regSet (s : State) (c : CoreId) (len : Nat) (rd : BitVec 5) (v : Regs → W64) :
    let t := regOp s c len fun r => regSet r rd (v r)
    WritesReg s t c len rd (v { (core s c).r with pc := nextPc s c len &&& ~~~(1 : Addr) }) ∧ (core t c).r.fl = (core s c).r.fl := by
  have hr := regOp_regs s c len fun r => regSet r rd (v r)
  have hfl : (core (regOp s c len fun r => regSet r rd (v r)) c).r.fl = (core s c).r.fl := by rw [hr, regSet_fl]
  refine ⟨⟨retires_regOp s c len _ fun r => regSet_pc r rd (v r), ?_, ?_⟩, hfl⟩
  · rw [hr, regSet_withPc]
  · rw [hfl]
    exact fun i _ => rfl

/-- A logical result is written, N and Z follow it, and the other flags stand. -/
theorem logicOp_spec (s : State) (c : CoreId) (x : AluOps) (v : W64) :
    WritesReg s (logicOp s c x v) c x.len x.rd v ∧ NzOf (core (logicOp s c x v) c).r.fl v ∧
    FlKeeps (core s c).r.fl (core (logicOp s c x v) c).r.fl [2, 3] := by
  have hr := regOp_regs s c x.len fun r => { regSet r x.rd v with fl := setNz r.fl v }
  refine ⟨writesReg_regOp s c x.len x.rd v (setNz · v) ((setNz_keeps _ v).mono (by decide)), ?_, ?_⟩
  · rw [logicOp, hr]
    exact setNz_bits _ v
  · rw [logicOp, hr]
    exact setNz_keeps _ v

/-- The flags of a shift. -/
theorem shiftFlags_spec (fl : W64) (k : ShKind) (a : W64) (n : Nat) :
    NzOf (shiftFlags fl k a n) (shiftRes k a n) ∧ FlKeeps fl (shiftFlags fl k a n) [1, 2, 3] ∧
    flC (shiftFlags fl k a n) = if n = 0 then flC fl else shiftOut k a n := by
  have hkeep := setNz_keeps fl (shiftRes k a n)
  obtain ⟨hn, hz⟩ := setNz_bits fl (shiftRes k a n)
  unfold shiftFlags
  by_cases h : n = 0
  · simp only [if_pos h]
    exact ⟨⟨hn, hz⟩, hkeep.mono (by decide), hkeep 1 (by decide)⟩
  · simp only [if_neg h]
    refine ⟨⟨?_, ?_⟩, fun i hi => ?_, ?_⟩
    · rw [flN, bit_setBit _ _ _ _ (by decide)]
      exact hn
    · rw [flZ, bit_setBit _ _ _ _ (by decide)]
      exact hz
    · simp only [List.mem_cons, List.not_mem_nil, or_false, not_or] at hi
      rw [bit_setBit _ _ _ _ (by decide), if_neg hi.1]
      exact hkeep i (by simp [hi])
    · rw [flC, bit_setBit _ _ _ _ (by decide), if_pos rfl]

theorem shiftOp_spec (s : State) (c : CoreId) (x : AluOps) (k : ShKind) :
    WritesReg s (shiftOp s c x k) c x.len x.rd (shiftRes k x.a x.b.toNat) ∧ NzOf (core (shiftOp s c x k) c).r.fl (shiftRes k x.a x.b.toNat) ∧
    FlKeeps (core s c).r.fl (core (shiftOp s c x k) c).r.fl [1, 2, 3] ∧
    (flC (core (shiftOp s c x k) c).r.fl = if x.b = 0 then flC (core s c).r.fl else shiftOut k x.a x.b.toNat) := by
  have hr := regOp_regs s c x.len fun r => { regSet r x.rd (shiftRes k x.a x.b.toNat) with fl := shiftFlags r.fl k x.a x.b.toNat }
  obtain ⟨hnz, hkeep, hc⟩ := shiftFlags_spec (core s c).r.fl k x.a x.b.toNat
  have hzero : x.b = 0 ↔ x.b.toNat = 0 := by simp [BitVec.toNat_eq]
  refine ⟨writesReg_regOp s c x.len x.rd _ (shiftFlags · k x.a x.b.toNat) (hkeep.mono (by decide)), ?_, ?_, ?_⟩
  · rw [shiftOp, hr]
    exact hnz
  · rw [shiftOp, hr]
    exact hkeep
  · rw [shiftOp, hr, if_congr hzero rfl rfl]
    exact hc

/-- The amount of a shift is taken modulo 64. -/
theorem shOps_amount (r : Regs) (op : Nat) (f : ShForm) : (shOps r op f).b.toNat < 64 := by
  cases f with
  | h2 rd amt =>
    have h := amt.isLt
    show (amt.setWidth 64).toNat < 64
    rw [BitVec.toNat_setWidth]
    omega
  | alu f =>
    show ((aluOps r op f).b &&& 0x3F).toNat < 64
    rw [BitVec.toNat_and]
    exact Nat.lt_of_le_of_lt Nat.and_le_right (by decide)

/-- A logical command completes. -/
theorem logic_completes {s : State} {c : CoreId} {i : Instr} {x : AluOps} {v : W64} (hl : isLong x.enc = (x.len == 4))
    (he : exec i s = .next (seqOp s c x.enc (badIf x.ok) fun s => logicOp s c x v)) (hr : Ready s c x.len) (hok : x.ok = true) :
    ∃ t, exec i s = .next t ∧ WritesReg (taken s c x.len) t c x.len x.rd v ∧ NzOf (core t c).r.fl v ∧ FlKeeps (core s c).r.fl (core t c).r.fl [2, 3] := by
  have h := logicOp_spec (taken s c x.len) c x v
  rw [fetched_regs] at h
  exact ⟨_, exec_of_seqOp he hl hr hok, h⟩

/-- A shift completes. -/
theorem shift_completes {s : State} {c : CoreId} {i : Instr} {x : AluOps} {k : ShKind} (hl : isLong x.enc = (x.len == 4))
    (he : exec i s = .next (seqOp s c x.enc (badIf x.ok) fun s => shiftOp s c x k)) (hr : Ready s c x.len) (hok : x.ok = true) :
    ∃ t, exec i s = .next t ∧ WritesReg (taken s c x.len) t c x.len x.rd (shiftRes k x.a x.b.toNat) ∧
      NzOf (core t c).r.fl (shiftRes k x.a x.b.toNat) ∧ FlKeeps (core s c).r.fl (core t c).r.fl [1, 2, 3] ∧
      (flC (core t c).r.fl = if x.b = 0 then flC (core s c).r.fl else shiftOut k x.a x.b.toNat) := by
  have h := shiftOp_spec (taken s c x.len) c x k
  rw [fetched_regs] at h
  exact ⟨_, exec_of_seqOp he hl hr hok, h⟩

/-- A command that writes a register field and no flag completes. -/
theorem regSet_completes {s : State} {c : CoreId} {i : Instr} {enc : W32} {len : Nat} {ok : Bool} {rd : BitVec 5} {v : Regs → W64}
    (hl : isLong enc = (len == 4)) (he : exec i s = .next (seqOp s c enc (badIf ok) fun s => regOp s c len fun r => regSet r rd (v r)))
    (hr : Ready s c len) (hok : ok = true) :
    ∃ t, exec i s = .next t ∧ WritesReg (taken s c len) t c len rd (v { (core s c).r with pc := nextPc s c len &&& ~~~(1 : Addr) }) ∧
      (core t c).r.fl = (core s c).r.fl := by
  have h := writesReg_regSet (taken s c len) c len rd v
  rw [fetched_regs, nextPc_taken] at h
  exact ⟨_, exec_of_seqOp he hl hr hok, h⟩

/-- The flags of a comparison, with the registers as they were. -/
theorem cmp_completes {s : State} {c : CoreId} {i : Instr} {x : AluOps} {ok : Bool} (hl : isLong x.enc = (x.len == 4))
    (he : exec i s = .next (seqOp s c x.enc (badIf ok) fun s => regOp s c x.len fun r => { r with fl := sumFlags r.fl (subC x.a x.b true) }))
    (hr : Ready s c x.len) (hok : ok = true) :
    ∃ t, exec i s = .next t ∧ Retires (taken s c x.len) t c (nextPc s c x.len) ∧
      (core t c).r = { (core s c).r with fl := (core t c).r.fl, pc := (core t c).r.pc } ∧
      FlKeeps (core s c).r.fl (core t c).r.fl [0, 1, 2, 3] ∧ NzOf (core t c).r.fl (x.a - x.b) ∧
      (flC (core t c).r.fl = true ↔ x.b.toNat ≤ x.a.toNat) ∧
      (flV (core t c).r.fl = true ↔ x.a.toInt - x.b.toInt < -(2 ^ 63) ∨ 2 ^ 63 ≤ x.a.toInt - x.b.toInt) := by
  have hregs := regOp_regs (taken s c x.len) c x.len fun r => { r with fl := sumFlags r.fl (subC x.a x.b true) }
  rw [fetched_regs, nextPc_taken] at hregs
  have hret := retires_regOp (taken s c x.len) c x.len (fun r => { r with fl := sumFlags r.fl (subC x.a x.b true) }) fun _ => rfl
  rw [nextPc_taken] at hret
  obtain ⟨hn, hz, hc, hv⟩ := setNzcv_bits (core s c).r.fl (subC x.a x.b true).res.msb ((subC x.a x.b true).res == 0) (subC x.a x.b true).c (subC x.a x.b true).v
  refine ⟨_, exec_of_seqOp he hl hr hok, hret, ?_⟩
  rw [hregs]
  refine ⟨rfl, setNzcv_keeps _ _ _ _ _, ?_, ?_, ?_⟩
  · rw [← subC_plain]
    exact ⟨hn, hz⟩
  · rw [← subC_carry_plain]
    exact Eq.congr_left hc
  · have hov := subC_overflow_plain x.a x.b
    rw [not_and_or, not_le, not_lt] at hov
    rw [← hov]
    exact Eq.congr_left hv

/-- Bit `i` of a value with halfword `hw` replaced by `imm`. -/
theorem bit_movk (x : W64) (hw : BitVec 2) (imm : BitVec 16) (i : Nat) (hi : i < 64) :
    bit ((x &&& ~~~((0xFFFF : W64) <<< (16 * hw.toNat))) ||| (imm.setWidth 64 <<< (16 * hw.toNat))) i =
      if i / 16 = hw.toNat then bit imm (i % 16) else bit x i := by
  have hh := hw.isLt
  have hmask : ∀ j, (0xFFFF : W64).getLsbD j = decide (j < 16) := fun j => by
    rw [show (0xFFFF : W64) = BitVec.ofNat 64 (2 ^ 16 - 1) from rfl, BitVec.getLsbD_ofNat, Nat.testBit_two_pow_sub_one]
    by_cases hj : j < 16
    · simp [hj, Nat.lt_of_lt_of_le hj (by decide : 16 ≤ 64)]
    · simp [hj]
  show BitVec.getLsbD _ i = if i / 16 = hw.toNat then BitVec.getLsbD imm (i % 16) else BitVec.getLsbD x i
  simp only [BitVec.getLsbD_or, BitVec.getLsbD_and, BitVec.getLsbD_not, BitVec.getLsbD_shiftLeft, BitVec.getLsbD_setWidth, hmask]
  split
  · have hlt : ¬ i < 16 * hw.toNat := by omega
    have hsub : i - 16 * hw.toNat = i % 16 := by omega
    have hmod : i % 16 < 16 := by omega
    have hm64 : i % 16 < 64 := by omega
    simp [hi, hlt, hsub, hmod, hm64]
  · by_cases hlt : i < 16 * hw.toNat
    · simp [hi, hlt]
    · have hge : 16 ≤ i - 16 * hw.toNat := by omega
      simp [hi, hlt, BitVec.getLsbD_of_ge imm _ hge, Nat.not_lt.2 hge]

/-- Settles O8: three logical commands, three shifts, and the two moves and the comparison. -/
theorem aluResults : Obligations.AluResults := by
  unfold Obligations.AluResults
  refine ⟨fun s c f => ⟨fun hr hok => ?_, fun hr hok => ?_, fun hr hok => ?_⟩, fun s c f => ⟨⟨shOps_amount _ _ f, fun hr hok => ?_⟩, ⟨shOps_amount _ _ f, fun hr hok => ?_⟩,
    ⟨shOps_amount _ _ f, fun hr hok => ?_⟩⟩, fun s c => ⟨fun f hr hok => ?_, fun f hr hok => ?_, fun rd hw imm hr => ?_⟩⟩
  · exact logic_completes (isLong_aluOps _ _ f (by decide)) rfl hr hok
  · exact logic_completes (isLong_aluOps _ _ f (by decide)) rfl hr hok
  · exact logic_completes (isLong_aluOps _ _ f (by decide)) rfl hr hok
  · exact shift_completes (k := .shl) (isLong_shOps _ _ f (by decide)) rfl hr hok
  · exact shift_completes (k := .shr) (isLong_shOps _ _ f (by decide)) rfl hr hok
  · exact shift_completes (k := .sar) (isLong_shOps _ _ f (by decide)) rfl hr hok
  · exact cmp_completes (isLong_addOps _ _ f (by decide)) rfl hr hok
  · exact regSet_completes (v := fun _ => (addOps (core s c).r 0xB f).b) (isLong_addOps _ _ f (by decide)) rfl hr hok
  · obtain ⟨t, he, hwr, hfl⟩ := regSet_completes (s := s) (c := c) (i := .movk c rd hw 0 imm) (isLong_long _ _ (by decide) (by decide)) rfl hr rfl
    exact ⟨t, _, he, hwr, hfl, fun i hi => bit_movk _ hw imm i hi⟩

end Sys2Proof.Machine

/-! PROOF. One step of a multiplication and of a division: O9. -/
namespace Sys2Proof.Machine

/-! ### One step of a multiplication and of a division -/

theorem regGet_withPc (r : Regs) (x : BitVec 5) (p : Addr) : regGet { r with pc := p } x = regGet r x := by
  unfold regGet
  rfl

/-- The pair rd:ra after one multiply step, as one number. -/
theorem mstep_pair {d a b : Nat} (hd : d < 2 ^ 64) (ha : a < 2 ^ 64) (hb : b < 2 ^ 64) :
    let t := d + (if a % 2 = 1 then b else 0)
    (BitVec.ofNat 64 (t / 2)).toNat * 2 ^ 64 + (BitVec.ofNat 64 (t % 2 * 2 ^ 63 + a / 2)).toNat = ((d + a % 2 * b) * 2 ^ 64 + a) / 2 := by
  intro t
  have ht : t = d + a % 2 * b := by
    rcases Nat.mod_two_eq_zero_or_one a with h | h
    · simp [t, h]
    · simp [t, h]
  have hlt : t < 2 ^ 65 := by
    have hle : (if a % 2 = 1 then b else 0) ≤ b := by
      split
      · exact Nat.le_refl b
      · exact Nat.zero_le b
    omega
  rw [← ht, BitVec.toNat_ofNat, BitVec.toNat_ofNat]
  clear_value t
  omega

/-- One step of a multiplication. -/
theorem mstep_completes {s : State} {c : CoreId} (rd ra rb : BitVec 5) (hr : Ready s c 4) :
    let r := (core s c).r
    ∃ t lo hi, exec (.mstep c rd ra rb 0) s = .next t ∧ Retires (taken s c 4) t c (nextPc s c 4) ∧
      (core t c).r = { regSet (regSet r ra lo) rd hi with pc := (core t c).r.pc } ∧
      hi.toNat * 2 ^ 64 + lo.toNat = (((regGet r rd).toNat + (regGet r ra).toNat % 2 * (regGet r rb).toNat) * 2 ^ 64 + (regGet r ra).toNat) / 2 := by
  intro r
  have he := exec_of_seqOp (s := s) (i := .mstep c rd ra rb 0) rfl (isLong_long _ _ (by decide) (by decide)) hr rfl
  refine ⟨_, _, _, he, ?_, ?_, mstep_pair (regGet r rd).isLt (regGet r ra).isLt (regGet r rb).isLt⟩
  · rw [← nextPc_taken s c 4 4]
    exact retires_regOp _ c 4 _ fun r => by rw [regSet_pc, regSet_pc]
  · rw [regOp_regs, fetched_regs]
    simp only [regGet_withPc, regSet_withPc]
    rfl

/-- The registers after one divide step, its statements in order. -/
def dstepRegs (rd ra rb : BitVec 5) (r : Regs) : Regs :=
  let r1 := regSet r ra (regGet r ra <<< 1)
  let t1 := 2 * (regGet r rd).toNat + (regGet r ra).toNat / 2 ^ 63
  let b1 := (regGet r1 rb).toNat
  let r2 := regSet r1 rd (BitVec.ofNat 64 (if b1 ≤ t1 then t1 - b1 else t1))
  if b1 ≤ t1 then regSet r2 ra (regGet r2 ra ||| 1) else r2

/-- What a `DSTEP` that does not trap does to the registers. -/
theorem execDstep_regs (rd ra rb : BitVec 5) : (fun r : Regs =>
      let a := (regGet r ra).toNat
      let t := (regGet r rd).toNat * 2 + a / 2 ^ 63
      let a2 := a * 2 % 2 ^ 64
      let r1 := regSet r ra (BitVec.ofNat 64 a2)
      let d := (regGet r1 rb).toNat
      if d ≤ t then
        let r2 := regSet r1 rd (BitVec.ofNat 64 (t - d))
        regSet r2 ra (setBit (regGet r2 ra) 0 true)
      else regSet r1 rd (BitVec.ofNat 64 t)) = dstepRegs rd ra rb := by
  funext r
  have hshift : BitVec.ofNat 64 ((regGet r ra).toNat * 2 % 2 ^ 64) = regGet r ra <<< 1 := by
    apply BitVec.eq_of_toNat_eq
    simp [BitVec.toNat_shiftLeft, Nat.shiftLeft_eq]
  have ht : (regGet r rd).toNat * 2 + (regGet r ra).toNat / 2 ^ 63 = 2 * (regGet r rd).toNat + (regGet r ra).toNat / 2 ^ 63 := by omega
  unfold dstepRegs
  simp only [hshift, ht]
  split
  · rfl
  · rfl

theorem dstepRegs_pc (rd ra rb : BitVec 5) (r : Regs) : (dstepRegs rd ra rb r).pc = r.pc := by
  unfold dstepRegs
  simp only
  split
  · simp only [regSet_pc]
  · simp only [regSet_pc]

theorem dstepRegs_withPc (rd ra rb : BitVec 5) (r : Regs) (p : Addr) :
    dstepRegs rd ra rb { r with pc := p } = { dstepRegs rd ra rb r with pc := p } := by
  unfold dstepRegs
  simp only [regGet_withPc, regSet_withPc]
  split
  · rfl
  · rfl

/-- One step of a division without a trap. -/
theorem dstep_completes {s : State} {c : CoreId} (rd ra rb : BitVec 5) (hr : Ready s c 4)
    (hz : ¬((regGet (core s c).r rb).toNat = 0 ∧ flDze (core s c).r.fl = true)) :
    ∃ t, exec (.dstep c rd ra rb 0) s = .next t ∧ Retires (taken s c 4) t c (nextPc s c 4) ∧
      (core t c).r = { dstepRegs rd ra rb (core s c).r with pc := (core t c).r.pc } := by
  have he := exec_of_seqOp (s := s) (i := .dstep c rd ra rb 0) rfl (isLong_long _ _ (by decide) (by decide)) hr rfl
  have hz' : ¬(regGet (core (taken s c 4) c).r rb = 0 ∧ flDze (core (taken s c 4) c).r.fl = true) := by
    rw [fetched_regs, BitVec.toNat_eq]
    exact hz
  have hregs := congrArg (regOp (taken s c 4) c 4) (execDstep_regs rd ra rb)
  refine ⟨_, he.trans (congrArg _ ((if_neg hz').trans hregs)), ?_, ?_⟩
  · rw [← nextPc_taken s c 4 4]
    exact retires_regOp _ c 4 _ (dstepRegs_pc rd ra rb)
  · rw [regOp_regs, fetched_regs, dstepRegs_withPc]

/-- Settles O9: the multiply step, the divide step without a trap, and the trap. -/
theorem stepResults : Obligations.StepResults := by
  unfold Obligations.StepResults
  intro s c rd ra rb hr
  refine ⟨mstep_completes rd ra rb hr, dstep_completes rd ra rb hr, fun hb hdze => ?_⟩
  have he := exec_of_seqOp (s := s) (i := .dstep c rd ra rb 0) rfl (isLong_long _ _ (by decide) (by decide)) hr rfl
  have hz : regGet (core (taken s c 4) c).r rb = 0 ∧ flDze (core (taken s c 4) c).r.fl = true := by
    rw [fetched_regs, BitVec.toNat_eq]
    exact ⟨hb, hdze⟩
  refine he.trans (congrArg _ ((if_pos hz).trans ?_))
  rw [fetched_regs]

end Sys2Proof.Machine

/-! PROOF. Illegal forms: O12. -/
namespace Sys2Proof.Machine

/-- A form that is not admitted is illegal with CODE 0x01 (R166). -/
theorem exec_of_bad {s : State} {c : CoreId} {i : Instr} {v : Nat} {l : List (Nat × Nat)} {ok : Bool} {f : State → State}
    (he : exec i s = .next (seqOp s c (word32 ((v, 26) :: l)) (badIf ok) f)) (hr : Ready s c 4) (hok : ok = false) (hv : 0x30 ≤ v := by decide)
    (hlt : v < 64 := by decide) :
    exec i s = .next (enter (taken s c 4) c 1 1 0 ((word32 ((v, 26) :: l)).setWidth 64) (core s c).r.pc) := by
  rw [he, seqOp_bad hr (isLong_long v l hv hlt) f hok]

/-- Settles O12: each form's check fails on its reserved field. -/
theorem reservedFieldsIllegal : Obligations.ReservedFieldsIllegal := by
  unfold Obligations.ReservedFieldsIllegal
  intro s c rd ra rb hr
  refine ⟨fun rsv h => ?_, fun imm => ⟨fun h => ?_, fun h => ?_, fun h => ?_⟩, ⟨fun h => ?_, fun h => ?_⟩, fun hw rsv imm h => ?_⟩
  · have hz : (rsv == 0) = false := beq_false_of_ne h
    have hand : ∀ b, ((rsv == 0) && b) = false := fun b => by rw [hz, Bool.false_and]
    exact ⟨exec_of_bad rfl hr hz, exec_of_bad rfl hr hz, exec_of_bad rfl hr hz, exec_of_bad rfl hr hz, exec_of_bad rfl hr hz, exec_of_bad rfl hr hz,
      exec_of_bad rfl hr hz, exec_of_bad rfl hr (hand _), exec_of_bad rfl hr (hand _), exec_of_bad rfl hr (hand _), exec_of_bad rfl hr (hand _),
      exec_of_bad rfl hr (hand _), exec_of_bad rfl hr hz, exec_of_bad rfl hr hz⟩
  · have hz : (true && decide (imm.toNat < 64)) = false := by simpa using h
    exact ⟨exec_of_bad rfl hr hz, exec_of_bad rfl hr hz, exec_of_bad rfl hr hz⟩
  · exact exec_of_bad rfl hr (beq_false_of_ne h)
  · exact exec_of_bad rfl hr (beq_false_of_ne h)
  · exact exec_of_bad rfl hr (beq_false_of_ne h)
  · exact exec_of_bad rfl hr (beq_false_of_ne h)
  · exact exec_of_bad rfl hr (beq_false_of_ne h)

end Sys2Proof.Machine

/-! PROOF. The multiply and the divide sequence: O10 and O11. -/
namespace Sys2Proof.Machine

/-! ### A run of register instructions from the instruction cache -/

/-- A device on which core `c` stands at `k` and the commands `q` wait; all else is as on `s`. -/
def onCore (s : State) (c : CoreId) (k : Core) (q : List Instr) : State := { modCore s c (fun _ => k) with pending := q }

/-- A core that has gone on to other registers, with its retired count and its cached lines. -/
def goneOn (k : Core) (r : Regs) (n : W64) (ic : List Nat) : Core := { k with r := r, retired := n, icache := ic }

section OnCore

variable (s : State) (c : CoreId) (k : Core) (q : List Instr)

theorem core_onCore : core (onCore s c k q) c = k := by
  cases c with
  | ve n => exact updV_same ..
  | sv => rfl

theorem accCheck_onCore (w : Want) (a : Nat) : accCheck (onCore s c k q) c w a = accCheck s c w a := by
  cases c with
  | ve n => rfl
  | sv => rfl

theorem detCore_onCore : detCore (onCore s c k q) c = detCore s c := by
  cases c with
  | ve n => rfl
  | sv => rfl

theorem modCore_onCore (f : Core → Core) : modCore (onCore s c k q) c f = onCore s c (f k) q := by
  cases c with
  | ve n =>
    show { s with seq := updV (updV s.seq n fun _ => k) n f, pending := q } = { s with seq := updV s.seq n fun _ => f k, pending := q }
    rw [updV_updV]
    rfl
  | sv => rfl

theorem openGroup_onCore : openGroup (onCore s c k q) c = openGroup s c := by
  cases c with
  | ve n => rfl
  | sv => rfl

theorem faultDue_onCore : faultDue (onCore s c k q) c = faultDue s c := by
  cases c with
  | ve n => rfl
  | sv => rfl

end OnCore

section GoneOn

variable (s : State) (c : CoreId) (q : List Instr) (r : Regs) (n : W64) (ic : List Nat)

/-- A core that has gone on still runs. -/
theorem canRun_onCore : canRun (onCore s c (goneOn (core s c) r n ic) q) c = canRun s c := by
  rw [canRun, canRun, core_onCore]
  cases c with
  | ve m =>
    have hcore : (onCore s (.ve m) (goneOn (core s (.ve m)) r n ic) q).seq[m] = goneOn s.seq[m] r n ic := updV_same ..
    simp only [coreRuns, hcore]
    rfl
  | sv => rfl

/-- The interrupts of a core that has gone on are those it had. -/
theorem admitted_onCore (fl : W64) : admitted (onCore s c (goneOn (core s c) r n ic) q) c fl = admitted s c fl := by
  cases c with
  | ve m =>
    have hcore : (onCore s (.ve m) (goneOn (core s (.ve m)) r n ic) q).seq[m] = goneOn s.seq[m] r n ic := updV_same ..
    simp only [admitted, sources, hcore]
    rfl
  | sv => rfl

end GoneOn


/-- A line of another set stays in the cache, and the line asked for is in it. -/
theorem mem_lru {x y : Nat} {ls : List Nat} (h : y = x ∨ (y ∈ ls ∧ y % 64 ≠ x % 64)) : y ∈ lru id x ls := by
  unfold lru
  simp only
  split
  · rcases h with rfl | ⟨hy, hne⟩
    · exact List.mem_cons_self
    · exact List.mem_cons_of_mem _ (List.mem_filter.2 ⟨hy, by simpa using fun e : y = x => hne (congrArg (· % 64) e)⟩)
  · next hold =>
    rcases h with rfl | ⟨hy, hne⟩
    · exact List.mem_cons_self
    · have hrest : y ∈ ls.filter fun z => decide (id z ≠ id x) := List.mem_filter.2 ⟨hy, by simpa using fun e : y = x => hne (congrArg (· % 64) e)⟩
      refine List.mem_cons_of_mem _ (List.mem_filter.2 ⟨hrest, ?_⟩)
      simp only [List.map_id, Bool.not_eq_true', List.contains_eq_mem, id, decide_eq_false_iff_not]
      intro hin
      have hset := List.mem_of_mem_drop hin
      rw [List.mem_filter, decide_eq_true_iff] at hset
      exact hne hset.2

/-- The lines of the 256 bytes from `p` are in the cache. -/
def Lines (p : Nat) (ic : List Nat) : Prop := ∀ i, i < 256 → (p + i) % 2 ^ 40 / 64 ∈ ic

/-- A hit on one of those lines keeps them. -/
theorem Lines.lru {p : Nat} {ic : List Nat} (h : Lines p ic) {i : Nat} (hi : i < 256) : Lines p (lru id ((p + i) % 2 ^ 40 / 64) ic) := by
  intro j hj
  refine mem_lru ?_
  by_cases he : (p + j) % 2 ^ 40 / 64 = (p + i) % 2 ^ 40 / 64
  · exact .inl he
  · exact .inr ⟨h j hj, by omega⟩

section Fetch

variable {s : State} {c : CoreId} {q : List Instr}

/-- A fetch that hits changes the order of the cache's lines alone. -/
theorem fetchAt_hit {k : Core} {a : Nat} (hacc : accCheck s c .fetch a = 0) (hdet : detCore s c = false) (hl : a / 64 ∈ k.icache) :
    fetchAt (onCore s c k q) c a = (0, onCore s c { k with icache := lru id (a / 64) k.icache } q) := by
  unfold fetchAt
  simp only [accCheck_onCore, hacc, detCore_onCore, hdet, core_onCore, List.contains_iff_mem, hl, modCore_onCore]
  rfl

/-- The fetch of a 32-bit instruction among the cached bytes. -/
theorem fetchGo_hit {k : Core} {p o : Nat} (ho : o < 253) (hpc : k.r.pc.toNat = (p + o) % 2 ^ 40)
    (hacc : ∀ i, i < 256 → accCheck s c .fetch ((p + i) % 2 ^ 40) = 0) (hdet : detCore s c = false) (hl : Lines p k.icache) :
    ∃ ic, Lines p ic ∧ fetchGo (onCore s c k q) c true = (.ok, onCore s c { k with icache := ic } q) := by
  have h1 := fetchAt_hit (q := q) (hacc o (by omega)) hdet (hl o (by omega))
  have hl1 := hl.lru (i := o) (by omega)
  have hb : ((p + o) % 2 ^ 40 + 2) % 2 ^ 40 = (p + (o + 2)) % 2 ^ 40 := by omega
  have h2 := fetchAt_hit (q := q) (k := { k with icache := lru id ((p + o) % 2 ^ 40 / 64) k.icache }) (hacc (o + 2) (by omega)) hdet (hl1 (o + 2) (by omega))
  unfold fetchGo
  simp only [core_onCore, hpc, h1, hb, h2]
  split
  · next h => exact absurd h (by decide)
  · split
    · next h => exact absurd h (by decide)
    · split
      · exact ⟨_, hl1.lru (by omega), rfl⟩
      · exact ⟨_, hl1, rfl⟩

/-- A core that has gone on with the same FL is as ready as it was. -/
theorem ready_onCore {r : Regs} {n : W64} {ic : List Nat} {p o : Nat} (h : Ready s c 4) (hfl : r.fl = (core s c).r.fl) (ho : o < 253)
    (hpc : r.pc.toNat = (p + o) % 2 ^ 40) (hacc : ∀ i, i < 256 → accCheck s c .fetch ((p + i) % 2 ^ 40) = 0) (hdet : detCore s c = false)
    (hl : Lines p ic) : Ready (onCore s c (goneOn (core s c) r n ic) q) c 4 := by
  obtain ⟨hrun, hopen, hentry, -⟩ := h
  obtain ⟨ic', -, hf⟩ := fetchGo_hit (q := q) (k := goneOn (core s c) r n ic) ho hpc hacc hdet hl
  refine ⟨(canRun_onCore ..).trans hrun, (openGroup_onCore ..).trans hopen, ?_, congrArg Prod.fst hf⟩
  rw [← hentry, entryDue, entryDue, openGroup_onCore, faultDue_onCore, core_onCore]
  exact congrArg _ (congrArg _ (congrArg _ ((admitted_onCore ..).trans (congrArg _ hfl))))

/-- The fetch takes the order of the cache's lines alone to another one. -/
theorem taken_hit {k : Core} {p o : Nat} (ho : o < 253) (hpc : k.r.pc.toNat = (p + o) % 2 ^ 40)
    (hacc : ∀ i, i < 256 → accCheck s c .fetch ((p + i) % 2 ^ 40) = 0) (hdet : detCore s c = false) (hl : Lines p k.icache) :
    ∃ ic, Lines p ic ∧ taken (onCore s c k q) c 4 = onCore s c { k with icache := ic } q := by
  obtain ⟨ic, hic, hf⟩ := fetchGo_hit (q := q) ho hpc hacc hdet hl
  exact ⟨ic, hic, congrArg Prod.snd hf⟩

/-- A register instruction on a core that has gone on. -/
theorem regOp_onCore (k : Core) (len : Nat) (g : Regs → Regs) : regOp (onCore s c k q) c len g =
    onCore s c { k with retired := k.retired + 1, r := g { k.r with pc := nextPc (onCore s c k q) c len &&& ~~~(1 : Addr) } } q := by
  simp only [regOp, retire, modRegs, modCore_onCore]

/-- Dropping the low bit of an address. -/
theorem toNat_and_not_one (x : Addr) : (x &&& ~~~(1 : Addr)).toNat = x.toNat / 2 * 2 := by
  have hshift : x &&& ~~~(1 : Addr) = (x >>> 1) <<< 1 := by
    rw [show ~~~(1 : Addr) = BitVec.allOnes 40 <<< 1 by decide]
    apply BitVec.eq_of_getLsbD_eq
    intro i hi
    simp only [BitVec.getLsbD_and, BitVec.getLsbD_shiftLeft, BitVec.getLsbD_ushiftRight, BitVec.getLsbD_allOnes]
    rcases i with _ | i
    · simp
    · simp [show i + 1 < 40 from hi, show i < 40 by omega, Nat.add_comm 1 i]
  rw [hshift]
  have := x.isLt
  simp only [BitVec.toNat_shiftLeft, BitVec.toNat_ushiftRight, Nat.shiftLeft_eq, Nat.shiftRight_eq_div_pow]
  omega

/-- An even address four bytes on, of which the low bit is dropped. -/
theorem toNat_nextPc {x : Addr} {p o : Nat} (h : x.toNat = (p + o) % 2 ^ 40) :
    ∃ o', o' ≤ o + 4 ∧ ((x + BitVec.ofNat 40 4) &&& ~~~(1 : Addr)).toNat = (p + o') % 2 ^ 40 := by
  rw [toNat_and_not_one, BitVec.toNat_add, h]
  by_cases hodd : (p + o) % 2 = 1
  · exact ⟨o + 3, by omega, by simp only [BitVec.toNat_ofNat]; omega⟩
  · exact ⟨o + 4, by omega, by simp only [BitVec.toNat_ofNat]; omega⟩

/-- A run goes on from the state that its first step leaves. -/
theorem run_succ {M : Host.Core} {m : Nat} {s t : M.State} (h : M.step s = .next t) : M.run (m + 1) s = M.run m t := by
  rw [Host.Core.run, h]

/-- What holds of the registers before a run of one register instruction, and moves on with each of them, holds after it. -/
theorem run_regs {i : Instr} {g : Regs → Regs} {J : Nat → Regs → Prop} {p : Nat} (hr : Ready s c 4)
    (hacc : ∀ i, i < 256 → accCheck s c .fetch ((p + i) % 2 ^ 40) = 0) (hdet : detCore s c = false)
    (hfl : ∀ r, (g r).fl = r.fl) (hgpc : ∀ r, (g r).pc = r.pc) (hJpc : ∀ m r x, J m r → J m { r with pc := x }) (hJ : ∀ m r, m < 64 → J m r → J (m + 1) (g r))
    (hexec : ∀ t m, Ready t c 4 → J m (core t c).r → (core t c).r.fl = (core s c).r.fl → exec i t = .next (regOp (taken t c 4) c 4 g)) :
    ∀ m r n ic o, m ≤ 64 → o + 4 * m ≤ 256 → r.pc.toNat = (p + o) % 2 ^ 40 → Lines p ic → r.fl = (core s c).r.fl → J (64 - m) r →
      ∃ t, Host.Core.run Sys2Proof.core m (onCore s c (goneOn (core s c) r n ic) (List.replicate m i ++ q)) = .next t ∧ t.pending = q ∧ J 64 (core t c).r := by
  intro m
  induction m with
  | zero =>
    intro r n ic o _ _ _ _ _ hj
    exact ⟨_, rfl, rfl, by rwa [List.replicate_zero, List.nil_append, core_onCore]⟩
  | succ m ih =>
    intro r n ic o hm ho hpc hl hf hj
    have hready : Ready (onCore s c (goneOn (core s c) r n ic) (List.replicate m i ++ q)) c 4 := ready_onCore hr hf (by omega) hpc hacc hdet hl
    obtain ⟨ic', hic', ht⟩ := taken_hit (k := goneOn (core s c) r n ic) (q := List.replicate m i ++ q) (by omega) hpc hacc hdet hl
    have hex := hexec (onCore s c (goneOn (core s c) r n ic) (List.replicate m i ++ q)) (64 - (m + 1)) hready
      (by rwa [core_onCore]) (by rwa [core_onCore])
    rw [ht, regOp_onCore, nextPc, core_onCore] at hex
    obtain ⟨o', ho', hpc'⟩ := toNat_nextPc (x := r.pc) hpc
    obtain ⟨t, hrun, hq, hjt⟩ := ih (g { r with pc := (r.pc + BitVec.ofNat 40 4) &&& ~~~(1 : Addr) }) (n + 1) ic' o' (by omega) (by omega)
      (by rw [hgpc]; exact hpc') hic' (by rw [hfl]; exact hf)
      (by rw [show 64 - m = 64 - (m + 1) + 1 by omega]; exact hJ _ _ (by omega) (hJpc _ _ _ hj))
    refine ⟨t, ?_, hq, hjt⟩
    have hstep : Sys2Proof.core.step (onCore s c (goneOn (core s c) r n ic) (List.replicate (m + 1) i ++ q)) = exec i (onCore s c (goneOn (core s c) r n ic) (List.replicate m i ++ q)) := rfl
    rw [run_succ (hstep.trans hex)]
    exact hrun

end Fetch

/-! ### The arithmetic of the sequences -/

/-- One multiply step moves the product of the bits of `a` taken so far one place on. -/
theorem mulStep_closed {A B m : Nat} (hm : m < 64) :
    ((A / 2 ^ m + A % 2 ^ m * B * 2 ^ (64 - m)) + (A / 2 ^ m) % 2 * B * 2 ^ 64) / 2 = A / 2 ^ (m + 1) + A % 2 ^ (m + 1) * B * 2 ^ (63 - m) := by
  have hdiv : A / 2 ^ m = 2 * (A / 2 ^ (m + 1)) + (A / 2 ^ m) % 2 := by
    rw [pow_succ, ← Nat.div_div_eq_div_mul]
    omega
  have hmod : A % 2 ^ (m + 1) = A % 2 ^ m + (A / 2 ^ m) % 2 * 2 ^ m := by
    rw [pow_succ, Nat.mod_mul, Nat.mul_comm (2 ^ m)]
  have h64 : (2 : Nat) ^ 64 = 2 ^ m * (2 * 2 ^ (63 - m)) := by
    rw [← pow_succ', ← pow_add]
    congr 1
    omega
  have h64m : (2 : Nat) ^ (64 - m) = 2 * 2 ^ (63 - m) := by
    rw [← pow_succ']
    congr 1
    omega
  rw [hmod, h64m, h64]
  generalize hbit : (A / 2 ^ m) % 2 = bit at *
  rw [show A / 2 ^ m + A % 2 ^ m * B * (2 * 2 ^ (63 - m)) + bit * B * (2 ^ m * (2 * 2 ^ (63 - m))) =
    bit + 2 * (A / 2 ^ (m + 1) + (A % 2 ^ m + bit * 2 ^ m) * B * 2 ^ (63 - m)) by rw [hdiv]; ring]
  omega

/-- The quotient and remainder of the upper bits of `N`, one bit on. -/
theorem divStep_closed {b d Q M bit : Nat} (hM : M = b * Q + d) (hd : b ≠ 0 → d < b) (hbit : bit < 2) :
    2 * M + bit = b * (2 * Q + if b ≤ 2 * d + bit then 1 else 0) + (if b ≤ 2 * d + bit then 2 * d + bit - b else 2 * d + bit) ∧
    (b ≠ 0 → (if b ≤ 2 * d + bit then 2 * d + bit - b else 2 * d + bit) < b) := by
  have hexp : 2 * (b * Q) = b * (2 * Q) := by ring
  split
  · rw [Nat.mul_add]
    exact ⟨by omega, by omega⟩
  · exact ⟨by rw [Nat.add_zero]; omega, by omega⟩

/-- The low part of a division's shifted register: the top bit that leaves it is the dividend's next one. -/
theorem shiftStep_closed {N m Q : Nat} (hm : m < 64) (hQ : Q < 2 ^ m) :
    (N % 2 ^ (64 - m) * 2 ^ m + Q) / 2 ^ 63 = N / 2 ^ (63 - m) % 2 ∧
    2 * (N % 2 ^ (64 - m) * 2 ^ m + Q) % 2 ^ 64 = N % 2 ^ (63 - m) * 2 ^ (m + 1) + 2 * Q ∧
    N / 2 ^ (63 - m) = 2 * (N / 2 ^ (64 - m)) + N / 2 ^ (63 - m) % 2 := by
  have h64m : (2 : Nat) ^ (64 - m) = 2 ^ (63 - m) * 2 := by
    rw [← pow_succ]
    congr 1
    omega
  have h63 : (2 : Nat) ^ 63 = 2 ^ m * 2 ^ (63 - m) := by
    rw [← pow_add]
    congr 1
    omega
  have hlow : N % 2 ^ (63 - m) < 2 ^ (63 - m) := Nat.mod_lt _ (by positivity)
  have hmod : N % 2 ^ (64 - m) = N % 2 ^ (63 - m) + 2 ^ (63 - m) * (N / 2 ^ (63 - m) % 2) := by rw [h64m, Nat.mod_mul]
  have hrest : N % 2 ^ (63 - m) * 2 ^ m + Q < 2 ^ 63 := by
    rw [h63]
    nlinarith
  have hsplit : N % 2 ^ (64 - m) * 2 ^ m + Q = N / 2 ^ (63 - m) % 2 * 2 ^ 63 + (N % 2 ^ (63 - m) * 2 ^ m + Q) := by
    rw [hmod, h63]
    ring
  have hbit : N / 2 ^ (63 - m) % 2 < 2 := Nat.mod_lt _ (by decide)
  rw [hsplit, show N % 2 ^ (63 - m) * 2 ^ (m + 1) = 2 * (N % 2 ^ (63 - m) * 2 ^ m) by ring, h64m, ← Nat.div_div_eq_div_mul]
  generalize N % 2 ^ (63 - m) * 2 ^ m = y at *
  omega

/-! ### The sequences -/

/-- A run of one register instruction at the front of the queue, from a core that is ready with all of it cached. -/
theorem run_regs_cached {s : State} {c : CoreId} {q : List Instr} {i : Instr} {g : Regs → Regs} {J : Nat → Regs → Prop} (hr : Ready s c 4) (hc : Cached s c 256)
    (hfl : ∀ r, (g r).fl = r.fl) (hgpc : ∀ r, (g r).pc = r.pc) (hJpc : ∀ m r x, J m r → J m { r with pc := x }) (hJ : ∀ m r, m < 64 → J m r → J (m + 1) (g r))
    (hexec : ∀ t m, Ready t c 4 → J m (core t c).r → (core t c).r.fl = (core s c).r.fl → exec i t = .next (regOp (taken t c 4) c 4 g))
    (h0 : J 0 (core s c).r) (hq : s.pending = List.replicate 64 i ++ q) :
    ∃ t, Host.Core.run Sys2Proof.core 64 s = .next t ∧ t.pending = q ∧ J 64 (core t c).r := by
  obtain ⟨hdet, hline⟩ := hc
  have hself : onCore s c (goneOn (core s c) (core s c).r (core s c).retired (core s c).icache) (List.replicate 64 i ++ q) = s := by
    rw [← hq]
    exact congrArg (fun t : State => { t with pending := s.pending }) (modCore_self s c)
  have hrun := run_regs (q := q) (p := (core s c).r.pc.toNat) hr (fun i hi => (hline i hi).1) hdet hfl hgpc hJpc hJ hexec 64 (core s c).r (core s c).retired
    (core s c).icache 0 (Nat.le_refl 64) (Nat.le_refl 256) (Nat.mod_eq_of_lt (core s c).r.pc.isLt).symm (fun i hi => (hline i hi).2) rfl h0
  rwa [hself] at hrun

/-- The registers after one multiply step. -/
def mstepRegs (rd ra rb : BitVec 5) (r : Regs) : Regs :=
  let a := (regGet r ra).toNat
  let t := (regGet r rd).toNat + (if a % 2 = 1 then (regGet r rb).toNat else 0)
  regSet (regSet r ra (BitVec.ofNat 64 (t % 2 * 2 ^ 63 + a / 2))) rd (BitVec.ofNat 64 (t / 2))

theorem exec_mstep_ready {s : State} {c : CoreId} (rd ra rb : BitVec 5) (hr : Ready s c 4) :
    exec (.mstep c rd ra rb 0) s = .next (regOp (taken s c 4) c 4 (mstepRegs rd ra rb)) :=
  exec_of_seqOp (s := s) (i := .mstep c rd ra rb 0) rfl (isLong_long _ _ (by decide) (by decide)) hr rfl

theorem exec_dstep_ready {s : State} {c : CoreId} (rd ra rb : BitVec 5) (hr : Ready s c 4)
    (hz : ¬((regGet (core s c).r rb).toNat = 0 ∧ flDze (core s c).r.fl = true)) :
    exec (.dstep c rd ra rb 0) s = .next (regOp (taken s c 4) c 4 (dstepRegs rd ra rb)) := by
  have he := exec_of_seqOp (s := s) (i := .dstep c rd ra rb 0) rfl (isLong_long _ _ (by decide) (by decide)) hr rfl
  have hz' : ¬(regGet (core (taken s c 4) c).r rb = 0 ∧ flDze (core (taken s c 4) c).r.fl = true) := by
    rw [fetched_regs, BitVec.toNat_eq]
    exact hz
  exact he.trans (congrArg _ ((if_neg hz').trans (congrArg (regOp (taken s c 4) c 4) (execDstep_regs rd ra rb))))

theorem dstepRegs_fl (rd ra rb : BitVec 5) (r : Regs) : (dstepRegs rd ra rb r).fl = r.fl := by
  unfold dstepRegs
  simp only
  split
  · simp only [regSet_fl]
  · simp only [regSet_fl]

section Registers

variable {rd ra rb : BitVec 5} (hda : rd ≠ ra) (hdb : rd ≠ rb) (hab : ra ≠ rb)

include hda hdb hab

/-- A multiply step on three different registers. -/
theorem mstepRegs_values (r : Regs) : regGet (mstepRegs rd ra rb r) rb = regGet r rb ∧
    (regGet (mstepRegs rd ra rb r) rd).toNat * 2 ^ 64 + (regGet (mstepRegs rd ra rb r) ra).toNat =
      (((regGet r rd).toNat + (regGet r ra).toNat % 2 * (regGet r rb).toNat) * 2 ^ 64 + (regGet r ra).toNat) / 2 := by
  unfold mstepRegs
  simp only
  rw [regGet_regSet_other (h := hdb), regGet_regSet_other (h := hab), regGet_regSet_same, regGet_regSet_other (h := hda), regGet_regSet_same]
  exact ⟨rfl, mstep_pair (regGet r rd).isLt (regGet r ra).isLt (regGet r rb).isLt⟩

/-- A divide step on three different registers. -/
theorem dstepRegs_values (r : Regs) :
    let t := 2 * (regGet r rd).toNat + (regGet r ra).toNat / 2 ^ 63
    let b := (regGet r rb).toNat
    regGet (dstepRegs rd ra rb r) rb = regGet r rb ∧
    (regGet (dstepRegs rd ra rb r) rd).toNat = (if b ≤ t then t - b else t) % 2 ^ 64 ∧
    (regGet (dstepRegs rd ra rb r) ra).toNat = 2 * (regGet r ra).toNat % 2 ^ 64 + if b ≤ t then 1 else 0 := by
  intro t b
  have hshift : (regGet r ra <<< 1).toNat = 2 * (regGet r ra).toNat % 2 ^ 64 := by
    rw [BitVec.toNat_shiftLeft, Nat.shiftLeft_eq, Nat.mul_comm, pow_one]
  have hone : (regGet r ra <<< 1 ||| 1).toNat = 2 * (regGet r ra).toNat % 2 ^ 64 + 1 := by
    have heven : 2 * (regGet r ra).toNat % 2 ^ 64 = ((regGet r ra).toNat % 2 ^ 63) <<< 1 := by
      rw [Nat.shiftLeft_eq]
      omega
    rw [BitVec.toNat_or, hshift, heven]
    exact (Nat.shiftLeft_add_eq_or_of_lt (show 1 < 2 ^ 1 by decide) _).symm
  have hb1 : (regGet (regSet r ra (regGet r ra <<< 1)) rb).toNat = b := by rw [regGet_regSet_other (h := hab)]
  unfold dstepRegs
  simp only [hb1]
  by_cases hle : b ≤ 2 * (regGet r rd).toNat + (regGet r ra).toNat / 2 ^ 63
  · simp only [if_pos hle]
    rw [regGet_regSet_other (h := hab), regGet_regSet_other (h := hdb), regGet_regSet_other (h := hab), regGet_regSet_other (h := hda.symm),
      regGet_regSet_same, regGet_regSet_same, regGet_regSet_other (h := hda), regGet_regSet_same]
    exact ⟨rfl, (BitVec.toNat_ofNat _ _).trans (congrArg (· % 2 ^ 64) (if_pos hle).symm), hone.trans (congrArg (2 * (regGet r ra).toNat % 2 ^ 64 + ·) (if_pos hle).symm)⟩
  · simp only [if_neg hle]
    rw [regGet_regSet_other (h := hdb), regGet_regSet_other (h := hab), regGet_regSet_same, regGet_regSet_other (h := hda), regGet_regSet_same]
    exact ⟨rfl, (BitVec.toNat_ofNat _ _).trans (congrArg (· % 2 ^ 64) (if_neg hle).symm), (hshift.trans (Nat.add_zero _).symm).trans (congrArg (2 * (regGet r ra).toNat % 2 ^ 64 + ·) (if_neg hle).symm)⟩

end Registers

/-- The registers of a multiplication of `a` by `b` after `m` steps (R170). -/
def Multiplies (rd ra rb : BitVec 5) (a b m : Nat) (r : Regs) : Prop :=
  (regGet r rb).toNat = b ∧ (regGet r rd).toNat * 2 ^ 64 + (regGet r ra).toNat = a / 2 ^ m + a % 2 ^ m * b * 2 ^ (64 - m)

/-- The registers of a division of `n` by `d` after `m` steps (R171): `q` is the quotient of the upper `m` bits, all ones of a zero divisor. -/
def Divides (rd ra rb : BitVec 5) (n d m : Nat) (r : Regs) : Prop :=
  (regGet r rb).toNat = d ∧ ∃ q, q < 2 ^ m ∧ (d = 0 → q + 1 = 2 ^ m) ∧ (d ≠ 0 → (regGet r rd).toNat < d) ∧
    n / 2 ^ (64 - m) = d * q + (regGet r rd).toNat ∧ (regGet r ra).toNat = n % 2 ^ (64 - m) * 2 ^ m + q

section Invariants

variable {rd ra rb : BitVec 5} (hda : rd ≠ ra) (hdb : rd ≠ rb) (hab : ra ≠ rb)

include hda hdb hab

theorem Multiplies.step {a b m : Nat} {r : Regs} (hm : m < 64) (h : Multiplies rd ra rb a b m r) : Multiplies rd ra rb a b (m + 1) (mstepRegs rd ra rb r) := by
  obtain ⟨hb, hp⟩ := h
  obtain ⟨hrb, hpair⟩ := mstepRegs_values hda hdb hab r
  refine ⟨by rw [hrb, hb], ?_⟩
  have hpar : (regGet r ra).toNat % 2 = a / 2 ^ m % 2 := by
    have h64 : (2 : Nat) ^ (64 - m) = 2 * 2 ^ (63 - m) := by
      rw [← pow_succ']
      congr 1
      omega
    rw [h64, show a % 2 ^ m * b * (2 * 2 ^ (63 - m)) = 2 * (a % 2 ^ m * b * 2 ^ (63 - m)) by ring] at hp
    omega
  rw [hpair, hb, Nat.add_mul, Nat.add_right_comm, hp, hpar, show 64 - (m + 1) = 63 - m by omega]
  exact mulStep_closed hm

theorem Divides.step {n d m : Nat} {r : Regs} (hn : n < 2 ^ 64) (hm : m < 64) (h : Divides rd ra rb n d m r) : Divides rd ra rb n d (m + 1) (dstepRegs rd ra rb r) := by
  obtain ⟨hb, q, hq, hzero, hrem, hup, hlow⟩ := h
  obtain ⟨hrb, hrd, hra⟩ := dstepRegs_values hda hdb hab r
  obtain ⟨htop, hshift, hnext⟩ := shiftStep_closed (N := n) hm hq
  obtain ⟨hdiv, hlt⟩ := divStep_closed (bit := n / 2 ^ (63 - m) % 2) hup hrem (Nat.mod_lt _ (by decide))
  rw [hb, hlow, htop] at hrd hra
  rw [hshift] at hra
  rw [← hnext] at hdiv
  have hfit : (regGet (dstepRegs rd ra rb r) rd).toNat =
      if d ≤ 2 * (regGet r rd).toNat + n / 2 ^ (63 - m) % 2 then 2 * (regGet r rd).toNat + n / 2 ^ (63 - m) % 2 - d else 2 * (regGet r rd).toNat + n / 2 ^ (63 - m) % 2 := by
    refine hrd.trans (Nat.mod_eq_of_lt ?_)
    by_cases hd : d = 0
    · rw [if_pos (by omega), hd, Nat.sub_zero]
      rw [hd, Nat.zero_mul, Nat.zero_add] at hup
      exact lt_of_le_of_lt (by omega) (lt_of_le_of_lt (Nat.div_le_self n (2 ^ (63 - m))) hn)
    · exact lt_trans (hlt hd) (hb ▸ (regGet r rb).isLt)
  refine ⟨by rw [hrb, hb], 2 * q + (if d ≤ 2 * (regGet r rd).toNat + n / 2 ^ (63 - m) % 2 then 1 else 0), ?_, ?_, ?_, ?_, ?_⟩
  · rw [pow_succ]
    split
    · omega
    · omega
  · intro hd
    rw [hd, if_pos (Nat.zero_le _), pow_succ, ← hzero hd]
    ring
  · rw [hfit]
    exact hlt
  · rw [hfit, show 64 - (m + 1) = 63 - m by omega]
    exact hdiv
  · rw [hra, show 64 - (m + 1) = 63 - m by omega, Nat.add_assoc]

end Invariants

/-- Settles O10: 64 multiply steps, each of which moves the product of the multiplier's next bit on. -/
theorem multiplySequence : Obligations.MultiplySequence := by
  unfold Obligations.MultiplySequence
  intro s c rd ra rb q hr hc hda hdb hab h0 hq
  have ha := (regGet (core s c).r ra).isLt
  obtain ⟨t, hrun, htq, -, hpair⟩ := run_regs_cached (g := mstepRegs rd ra rb)
    (J := Multiplies rd ra rb (regGet (core s c).r ra).toNat (regGet (core s c).r rb).toNat) hr hc (fun r => by simp [mstepRegs]) (fun r => by simp [mstepRegs])
    (fun m r x h => h) (fun m r hm h => h.step hda hdb hab hm) (fun t m ht _ _ => exec_mstep_ready rd ra rb ht) ⟨rfl, by simp [h0, Nat.mod_one]⟩ hq
  refine ⟨t, hrun, htq, ?_⟩
  rw [hpair, Nat.div_eq_of_lt ha, Nat.mod_eq_of_lt ha]
  ring

/-- Settles O11: 64 divide steps, each of which divides one more bit of the dividend. -/
theorem divideSequence : Obligations.DivideSequence := by
  unfold Obligations.DivideSequence
  intro s c rd ra rb q hr hc hda hdb hab h0 hq n d hz
  have hn : n < 2 ^ 64 := (regGet (core s c).r ra).isLt
  obtain ⟨t, hrun, htq, -, k, hk, hzero, hrem, hup, hlow⟩ := run_regs_cached (g := dstepRegs rd ra rb) (J := Divides rd ra rb n d) hr hc
    (dstepRegs_fl rd ra rb) (dstepRegs_pc rd ra rb) (fun m r x h => h) (fun m r hm h => h.step hda hdb hab hn hm)
    (fun t m ht hj hfl => exec_dstep_ready rd ra rb ht (by
      rw [hj.1, hfl]
      rintro ⟨hd, hdze⟩
      rcases hz with hz | hz
      · exact hz hd
      · exact absurd (hz.symm.trans hdze) (by decide)))
    ⟨rfl, 0, by decide, fun _ => rfl, fun hd => by rw [h0]; exact Nat.pos_of_ne_zero hd, by rw [h0]; exact Nat.div_eq_of_lt hn,
      by simpa using (Nat.mod_eq_of_lt hn).symm⟩ hq
  refine ⟨t, hrun, htq, ?_⟩
  rw [Nat.sub_self, pow_zero, Nat.mod_one, Nat.zero_mul, Nat.zero_add] at hlow
  rw [Nat.sub_self, pow_zero, Nat.div_one] at hup
  rw [hlow]
  by_cases hd : d = 0
  · rw [if_pos hd, if_pos hd]
    have := hzero hd
    rw [hd, Nat.zero_mul, Nat.zero_add] at hup
    exact ⟨by omega, hup.symm⟩
  · rw [if_neg hd, if_neg hd]
    have hlt := hrem hd
    rw [hup, Nat.mul_add_div (Nat.pos_of_ne_zero hd), Nat.mul_add_mod, Nat.div_eq_of_lt hlt, Nat.mod_eq_of_lt hlt]
    exact ⟨rfl, rfl⟩

end Sys2Proof.Machine

/-! PROOF. System instructions and the moves between registers: O17. -/
namespace Sys2Proof.Machine

/-! ### Instructions that step -/

theorem xGet_withPc (r : Regs) (x : BitVec 5) (p : Addr) : xGet { r with pc := p } x = xGet r x := rfl

theorem xSet_withPc (r : Regs) (x : BitVec 5) (v : W128) (p : Addr) : xSet { r with pc := p } x v = { xSet r x v with pc := p } := by
  unfold xSet
  simp only
  split
  · rfl
  · split
    · rfl
    · split
      · rfl
      · rfl

theorem srSet_withPc (r : Regs) (sr : Nat) (v : W64) (p : Addr) : srSet { r with pc := p } sr v = { srSet r sr v with pc := p } := by
  unfold srSet
  split <;> rfl

theorem setVl_withPc (r : Regs) (rd : BitVec 5) (l : W64) (p : Addr) : setVl { r with pc := p } rd l = { setVl r rd l with pc := p } := by
  unfold setVl
  simp only [regSet_withPc]
  split
  · rfl
  · rfl

/-- A retired instruction that may have emptied caches besides. -/
theorem steps_retire (s : State) (c : CoreId) (pc : Addr) (ic : List Nat) (dc : List CacheLine) (a : Option FetchBuf) :
    Steps s (modCore (retire s c pc) c fun k => { k with icache := ic, dcache := dc, ahead := a }) c { (core s c).r with pc := pc &&& ~~~(1 : Addr) } := by
  refine ⟨(onlyCore_modCore s c _).trans (onlyCore_modCore _ c _), ?_⟩
  simp [retire]

/-- What retires by changing registers other than the PC steps. -/
theorem steps_regOp (s : State) (c : CoreId) (len : Nat) {f : Regs → Regs} (hf : ∀ r p, f { r with pc := p } = { f r with pc := p }) :
    Steps s (regOp s c len f) c { f (core s c).r with pc := nextPc s c len &&& ~~~(1 : Addr) } := by
  obtain ⟨honly, hcore, -⟩ := retires_regOp s c len f fun r => by
    have h := congrArg Regs.pc (hf r r.pc)
    exact h
  refine ⟨honly, ?_⟩
  rw [hcore, regOp_regs, hf]

/-- A command that changes registers other than the PC, by values of those at its fetch, steps. -/
theorem steps_completes {s : State} {c : CoreId} {i : Instr} {enc : W32} {len : Nat} {ok : Bool} {f : Regs → Regs → Regs}
    (he : exec i s = .next (seqOp s c enc (badIf ok) fun s => regOp s c len (f (core s c).r))) (hl : isLong enc = (len == 4)) (hr : Ready s c len)
    (hok : ok = true) (hf : ∀ q r p, f q { r with pc := p } = { f q r with pc := p }) :
    ∃ t, exec i s = .next t ∧ Steps (taken s c len) t c { f (core s c).r (core s c).r with pc := nextPc s c len &&& ~~~(1 : Addr) } := by
  have h := steps_regOp (taken s c len) c len (hf (core (taken s c len) c).r)
  rw [fetched_regs, nextPc_taken] at h
  exact ⟨_, exec_of_seqOp he hl hr hok, by rwa [fetched_regs]⟩

theorem isLong_h4 (op : Nat) (arg : BitVec 8) (h : op < 16) : isLong (h4 op arg) = (2 == 4) := by
  have := arg.isLt
  exact isLong_short _ (by simp; omega)

/-! ### Waits, barriers and caches -/

/-- The lines that hold a byte of a range, by the address of the byte. -/
theorem lineMeets_iff {l a n : Nat} (hl : l < 2 ^ 34) : lineMeets l (a % 2 ^ 40) n = true ↔ ∃ i, i < n ∧ (a + i) % 2 ^ 40 / 64 = l := by
  have hs : l * 64 % 2 ^ 40 = l * 64 := Nat.mod_eq_of_lt (by omega)
  rw [lineMeets, hs]
  simp only [Bool.or_eq_true, Bool.and_eq_true, decide_eq_true_eq]
  constructor
  · rintro (h | ⟨h0, h⟩)
    · exact ⟨(l * 64 + 2 ^ 40 - a % 2 ^ 40) % 2 ^ 40, h, by omega⟩
    · exact ⟨0, h0, by omega⟩
  · rintro ⟨i, hi, he⟩
    by_cases hz : (a % 2 ^ 40 + 2 ^ 40 - l * 64) % 2 ^ 40 < 64
    · exact .inr ⟨by omega, hz⟩
    · refine .inl (Nat.lt_of_le_of_lt ?_ hi)
      omega

/-- The record of who has arrived leaves every core as it is. -/
theorem refreshDone_seq (s : State) (p : PartId) : (refreshDone s p).seq = s.seq := by
  unfold refreshDone
  split
  · rfl
  · rfl

/-- A barrier that drained arrives and parks. -/
theorem barrierOp_arrives {s : State} {n : VeId} (hq : s.eng[n].queue = []) (ha : s.seq[n].arrived = false) :
    ∃ f : State → State, (∀ t, (f t).seq = t.seq) ∧ (execPart s n = none → f = id) ∧
      barrierOp s n = f (modSeq s n fun k => { k with begunBarrier := true, arrived := true, st := .parked }) := by
  unfold barrierOp
  simp only [ha, hq, Bool.false_and, List.isEmpty_nil, Bool.not_true, Bool.false_eq_true, if_false]
  split
  · next p hp => exact ⟨(refreshDone · p), fun t => refreshDone_seq t p, fun h => absurd (hp.symm.trans h) (by simp), rfl⟩
  · exact ⟨id, fun _ => rfl, fun _ => rfl, rfl⟩

/-- A barrier that was released while another instruction ran completes. -/
theorem barrierOp_released {s : State} {n : VeId} (ha : s.seq[n].arrived = true) (hb : s.seq[n].begunBarrier = false) :
    barrierOp s n = modSeq (retire s (.ve n) (nextPc s (.ve n) 2)) n fun k => { k with arrived := false } := by
  unfold barrierOp
  simp only [ha, hb, Bool.not_false, Bool.and_true, if_true]

/-! ### Halves and descriptors -/

theorem halfGet_eq (x : W128) (h : Bool) : halfGet x h = (x >>> (if h then 64 else 0)).setWidth 64 := by
  apply BitVec.eq_of_toNat_eq
  have := x.isLt
  cases h
  · simp only [halfGet, fld, Bool.false_eq_true, if_false, BitVec.toNat_ofNat, BitVec.toNat_setWidth, BitVec.toNat_ushiftRight]
    omega
  · simp only [halfGet, fld, if_true, BitVec.toNat_ofNat, BitVec.toNat_setWidth, BitVec.toNat_ushiftRight, Nat.shiftRight_eq_div_pow]
    omega

/-- Two 64-bit halves put together. -/
theorem toNat_at'_halves {a b : Nat} (ha : a < 2 ^ 64) (hb : b < 2 ^ 64) : (at' 128 0 a ||| at' 128 64 b).toNat = b * 2 ^ 64 + a := by
  rw [BitVec.toNat_or, at', at', BitVec.toNat_ofNat, BitVec.toNat_ofNat, Nat.shiftLeft_zero, Nat.mod_eq_of_lt (lt_trans ha (by decide)),
    Nat.mod_eq_of_lt (by rw [Nat.shiftLeft_eq]; omega), Nat.or_comm, ← Nat.shiftLeft_add_eq_or_of_lt ha, Nat.shiftLeft_eq]

theorem toNat_halfSet (x : W128) (h : Bool) (v : W64) :
    (halfSet x h v).toNat = if h then v.toNat * 2 ^ 64 + x.toNat % 2 ^ 64 else x.toNat / 2 ^ 64 * 2 ^ 64 + v.toNat := by
  have hlow : fld x 63 0 = x.toNat % 2 ^ 64 := rfl
  have hhigh : fld x 127 64 = x.toNat / 2 ^ 64 := by
    have := x.isLt
    rw [fld, Nat.shiftRight_eq_div_pow]
    omega
  have hx := x.isLt
  have hv := v.isLt
  cases h
  · rw [halfSet, if_neg (by decide), if_neg (by decide), BitVec.or_comm, toNat_at'_halves hv (by omega), hhigh]
  · rw [halfSet, if_pos rfl, if_pos rfl, toNat_at'_halves (by omega) hv, hlow]

/-- The half that was replaced, and the one that was not. -/
theorem halfSet_halves (x : W128) (h : Bool) (v : W64) :
    let lo : Nat := if h then 64 else 0
    (halfSet x h v >>> lo).setWidth 64 = v ∧ (halfSet x h v >>> (64 - lo)).setWidth 64 = (x >>> (64 - lo)).setWidth 64 := by
  intro lo
  have hv := v.isLt
  have hx := toNat_halfSet x h v
  cases h
  · constructor
    · apply BitVec.eq_of_toNat_eq
      simp only [lo, BitVec.toNat_setWidth, BitVec.toNat_ushiftRight, hx, Bool.false_eq_true, if_false, Nat.shiftRight_zero]
      omega
    · apply BitVec.eq_of_toNat_eq
      simp only [lo, BitVec.toNat_setWidth, BitVec.toNat_ushiftRight, hx, Bool.false_eq_true, if_false, Nat.shiftRight_eq_div_pow]
      omega
  · constructor
    · apply BitVec.eq_of_toNat_eq
      simp only [lo, BitVec.toNat_setWidth, BitVec.toNat_ushiftRight, hx, if_true, Nat.shiftRight_eq_div_pow]
      omega
    · apply BitVec.eq_of_toNat_eq
      simp only [lo, BitVec.toNat_setWidth, BitVec.toNat_ushiftRight, hx, if_true, Nat.sub_self, Nat.shiftRight_zero]
      omega

/-- BASE is increased modulo 2^38, and the bits above it stand. -/
theorem toNat_addBase (d : W128) (v : W64) : (addBase d v).toNat = d.toNat / 2 ^ 38 * 2 ^ 38 + (d.toNat + v.toNat) % 2 ^ 38 := by
  have hclear : d &&& ~~~(0x3FFFFFFFFF : W128) = (d >>> 38) <<< 38 := by
    rw [show ~~~(0x3FFFFFFFFF : W128) = BitVec.allOnes 128 <<< 38 by decide]
    apply BitVec.eq_of_getLsbD_eq
    intro i hi
    simp only [BitVec.getLsbD_and, BitVec.getLsbD_shiftLeft, BitVec.getLsbD_ushiftRight, BitVec.getLsbD_allOnes]
    by_cases h : i < 38
    · simp [h]
    · simp [h, hi, show 38 + (i - 38) = i by omega, show i - 38 < 128 by omega]
  have hbase : fld d 37 0 = d.toNat % 2 ^ 38 := rfl
  have hd := d.isLt
  have hlt : (d.toNat % 2 ^ 38 + v.toNat) % 2 ^ 38 < 2 ^ 38 := Nat.mod_lt _ (by decide)
  have hup : ((d >>> 38) <<< 38).toNat = (d.toNat / 2 ^ 38) <<< 38 := by
    rw [BitVec.toNat_shiftLeft, BitVec.toNat_ushiftRight, Nat.shiftRight_eq_div_pow]
    refine Nat.mod_eq_of_lt ?_
    rw [Nat.shiftLeft_eq]
    omega
  rw [addBase, hclear, hbase, BitVec.toNat_or, hup, at', BitVec.toNat_ofNat, Nat.shiftLeft_zero, Nat.mod_eq_of_lt (lt_trans hlt (by decide)),
    ← Nat.shiftLeft_add_eq_or_of_lt hlt, Nat.shiftLeft_eq, Nat.mod_add_mod]

/-- A W register, by the number of its 128-bit name. -/
theorem xGet_w (r : Regs) (wn : BitVec 3) : xGet r (wn.setWidth 5) = r.w[(⟨wn.toNat, wn.isLt⟩ : Fin 8)] := by
  have hwn := wn.isLt
  have he : (wn.setWidth 5).toNat = wn.toNat := by
    rw [BitVec.toNat_setWidth]
    omega
  simp only [xGet, he, hwn, dite_true]

theorem xSet_w (r : Regs) (wn : BitVec 3) (v : W128) : xSet r (wn.setWidth 5) v = { r with w := r.w.set (⟨wn.toNat, wn.isLt⟩ : Fin 8) v } := by
  have hwn := wn.isLt
  have he : (wn.setWidth 5).toNat = wn.toNat := by
    rw [BitVec.toNat_setWidth]
    omega
  simp only [xSet, he, hwn, dite_true]

theorem toNat_snName {sn : BitVec 4} (h : sn.toNat < 12) : (sn.setWidth 5 + 16).toNat = sn.toNat + 16 := by
  rw [BitVec.toNat_add, BitVec.toNat_setWidth, show (16 : BitVec 5).toNat = 16 from rfl]
  omega

/-- An S register, by the number of its 128-bit name. -/
theorem xGet_s (r : Regs) {sn : BitVec 4} (h : sn.toNat < 12) : xGet r (sn.setWidth 5 + 16) = r.s[sn.toNat] := by
  simp only [xGet, toNat_snName h, show ¬ sn.toNat + 16 < 8 by omega, show ¬ sn.toNat + 16 < 16 by omega, show sn.toNat + 16 < 28 by omega, dite_false,
    dite_true, Nat.add_sub_cancel]
  rfl

theorem xSet_s (r : Regs) {sn : BitVec 4} (h : sn.toNat < 12) (v : W128) : xSet r (sn.setWidth 5 + 16) v = { r with s := r.s.set sn.toNat v } := by
  simp only [xSet, toNat_snName h, show ¬ sn.toNat + 16 < 8 by omega, show ¬ sn.toNat + 16 < 16 by omega, show sn.toNat + 16 < 28 by omega, dite_false,
    dite_true, Nat.add_sub_cancel]

/-! ### The instructions -/

theorem fetched_fab (s : State) (c : CoreId) (long : Bool) : (fetched s c long).fab.remap = s.fab.remap ∧ (fetched s c long).fab.remapDue = s.fab.remapDue := by
  obtain ⟨i, m, b, t, h, e⟩ := fetched_keeps s c long
  rw [e, h]
  cases c with
  | ve n => exact ⟨rfl, rfl⟩
  | sv => exact ⟨rfl, rfl⟩

theorem fetched_remap (s : State) (c : CoreId) (long : Bool) : (fetched s c long).fab.remap = s.fab.remap := (fetched_fab s c long).1

theorem fetched_remapDue (s : State) (c : CoreId) (long : Bool) : (fetched s c long).fab.remapDue = s.fab.remapDue := (fetched_fab s c long).2

/-- The partition whose segment a VE executes, after the fetch of an instruction. -/
theorem execPart_fetched (s : State) (c : CoreId) (long : Bool) (n : VeId) : execPart (fetched s c long) n = execPart s n := by
  obtain ⟨i, m, b, t, h, e⟩ := fetched_keeps s c long
  rw [e, h]
  cases c with
  | ve m => rfl
  | sv => rfl

section System

variable {s : State} {c : CoreId}

/-- An instruction that retires with caches emptied. -/
theorem steps_taken_retire (s : State) (c : CoreId) (len : Nat) (ic : List Nat) (dc : List CacheLine) (a : Option FetchBuf) :
    Steps (taken s c len) (modCore (retire (taken s c len) c (nextPc (taken s c len) c len)) c fun k => { k with icache := ic, dcache := dc, ahead := a }) c
      { (core s c).r with pc := nextPc s c len &&& ~~~(1 : Addr) } := by
  have h := steps_retire (taken s c len) c (nextPc (taken s c len) c len) ic dc a
  rw [fetched_regs, nextPc_taken] at h
  rw [nextPc_taken]
  exact h

/-- A core with the caches that it has. -/
theorem retire_caches (s : State) (c : CoreId) (pc : Addr) : retire s c pc = modCore (retire s c pc) c fun k =>
    { k with icache := (core s c).icache, dcache := (core s c).dcache, ahead := (core s c).ahead } := by
  rw [retire, modCore_modCore, modCore_const, modCore_const s c (_ ∘ _)]
  rfl

theorem steps_taken_plain (s : State) (c : CoreId) (len : Nat) :
    Steps (taken s c len) (retire (taken s c len) c (nextPc (taken s c len) c len)) c { (core s c).r with pc := nextPc s c len &&& ~~~(1 : Addr) } := by
  rw [retire_caches]
  exact steps_taken_retire s c len _ _ _

theorem fetched_dcache (s : State) (c : CoreId) (long : Bool) : (core (fetched s c long) c).dcache = (core s c).dcache := by rw [core_fetched]

theorem fetched_arrived (s : State) (c : CoreId) (long : Bool) : (core (fetched s c long) c).arrived = (core s c).arrived := by rw [core_fetched]

theorem fetched_begunBarrier (s : State) (c : CoreId) (long : Bool) : (core (fetched s c long) c).begunBarrier = (core s c).begunBarrier := by rw [core_fetched]

theorem fetched_st (s : State) (c : CoreId) (long : Bool) : (core (fetched s c long) c).st = (core s c).st := by rw [core_fetched]

theorem fetched_queue (s : State) (c : CoreId) (long : Bool) (n : VeId) : (fetched s c long).eng[n].queue = s.eng[n].queue := by rw [fetched_eng]

theorem nop_completes (arg : BitVec 8) (hr : Ready s c 2) : ∃ t, exec (.nop c arg) s = .next t ∧
    Steps (taken s c 2) t c { (core s c).r with pc := nextPc s c 2 &&& ~~~(1 : Addr) } ∧ (core t c).dcache = (core s c).dcache := by
  refine ⟨_, exec_of_seqOp (ok := true) (i := .nop c arg) rfl (isLong_h4 0 arg (by decide)) hr rfl, steps_taken_plain s c 2, ?_⟩
  rw [retire, core_modCore]
  exact fetched_dcache s c _

theorem wait_completes {n : VeId} (hr : Ready s (.ve n) 2) (hq : s.eng[n].queue = []) : ∃ t, exec (.wait (.ve n) 0) s = .next t ∧
    Steps (taken s (.ve n) 2) t (.ve n) { (core s (.ve n)).r with pc := nextPc s (.ve n) 2 &&& ~~~(1 : Addr) } := by
  have he := exec_of_seqOp (i := .wait (.ve n) 0) rfl (isLong_h4 4 0 (by decide)) hr rfl
  exact ⟨_, he.trans (congrArg _ (if_pos (by rw [fetched_queue, hq]; rfl))), steps_taken_plain s (.ve n) 2⟩

theorem wait_waits {n : VeId} (hr : Ready s (.ve n) 2) (hq : s.eng[n].queue ≠ []) : exec (.wait (.ve n) 0) s = .next (taken s (.ve n) 2) := by
  have he := exec_of_seqOp (i := .wait (.ve n) 0) rfl (isLong_h4 4 0 (by decide)) hr rfl
  exact he.trans (congrArg _ (if_neg (by rw [fetched_queue]; simpa using hq)))

/-- An instruction of the vector engines on the supervisor. -/
theorem engineOnly_sv {i : Instr} {enc : W32} {len : Nat} {ok : Bool} {f : State → State} (hr : Ready s .sv len) (hl : isLong enc = (len == 4))
    (he : exec i s = .next (seqOp s .sv enc (engineOnly .sv ok) f)) : exec i s = .next (enter (taken s .sv len) .sv 1 4 0 (enc.setWidth 64) (core s .sv).r.pc) := by
  have ho : openGroup (taken s .sv len) .sv = [] := rfl
  rw [he, seqOp, atBoundary_ready hr hl]
  simp only [engineOnly, illegal, discardOpen_ready ho, fetched_regs]

theorem barrier_arrives {n : VeId} (hr : Ready s (.ve n) 2) (hq : s.eng[n].queue = []) (ha : (core s (.ve n)).arrived = false) :
    ∃ t, exec (.barrier (.ve n) 0) s = .next t ∧ (core t (.ve n)).st = .parked ∧ (core t (.ve n)).arrived = true ∧ (core t (.ve n)).begunBarrier = true ∧
      (core t (.ve n)).r = (core s (.ve n)).r ∧ (execPart s n = none → OnlyCore (taken s (.ve n) 2) t (.ve n)) := by
  have he := exec_of_seqOp (i := .barrier (.ve n) 0) rfl (isLong_h4 6 0 (by decide)) hr rfl
  obtain ⟨f, hseq, hnone, hop⟩ := barrierOp_arrives (s := taken s (.ve n) 2) (n := n) (by rw [fetched_queue, hq]) ((fetched_arrived s (.ve n) false).trans ha)
  have hcore : core (f (modSeq (taken s (.ve n) 2) n fun k => { k with begunBarrier := true, arrived := true, st := .parked })) (.ve n) =
      { core (taken s (.ve n) 2) (.ve n) with begunBarrier := true, arrived := true, st := .parked } :=
    (congrArg (fun v : Vector Core 64 => v[n]) (hseq _)).trans (updV_same ..)
  refine ⟨_, he.trans (congrArg _ hop), ?_⟩
  rw [hcore]
  refine ⟨rfl, rfl, rfl, fetched_regs s (.ve n) false, fun hx => ?_⟩
  rw [hnone (by rwa [execPart_fetched])]
  exact onlyCore_modCore (taken s (.ve n) 2) (.ve n) _

theorem barrier_released {n : VeId} (hr : Ready s (.ve n) 2) (ha : (core s (.ve n)).arrived = true) (hb : (core s (.ve n)).begunBarrier = false) :
    ∃ t, exec (.barrier (.ve n) 0) s = .next t ∧ (core t (.ve n)).arrived = false ∧ (core t (.ve n)).st = .running ∧
      (core t (.ve n)).r = { (core s (.ve n)).r with pc := nextPc s (.ve n) 2 &&& ~~~(1 : Addr) } := by
  have he := exec_of_seqOp (i := .barrier (.ve n) 0) rfl (isLong_h4 6 0 (by decide)) hr rfl
  have hop := barrierOp_released (s := taken s (.ve n) 2) (n := n) ((fetched_arrived s (.ve n) false).trans ha) ((fetched_begunBarrier s (.ve n) false).trans hb)
  have hcore := core_modCore (retire (taken s (.ve n) 2) (.ve n) (nextPc (taken s (.ve n) 2) (.ve n) 2)) (.ve n) fun k => { k with arrived := false }
  refine ⟨_, he.trans (congrArg _ hop), ?_⟩
  rw [show ∀ u f, modSeq u n f = modCore u (.ve n) f from fun _ _ => rfl, hcore]
  refine ⟨rfl, ?_, ?_⟩
  · rw [retire, core_modCore]
    refine (fetched_st s (.ve n) false).trans ?_
    obtain ⟨hrun, -⟩ := hr
    simp only [canRun, coreRuns, Bool.and_eq_true, beq_iff_eq] at hrun
    exact hrun.1.2
  · rw [retire_regs, fetched_regs, nextPc_taken]

/-- What `SYNC.I` leaves on a core. -/
def syncedI (u : State) (c : CoreId) (pc : Addr) : State := modCore (retire u c pc) c fun k => { k with icache := [], ahead := none }

theorem syncedI_core (u : State) (c : CoreId) (pc : Addr) : (core (syncedI u c pc) c).icache = [] ∧
    (core (syncedI u c pc) c).r = { (core u c).r with pc := pc &&& ~~~(1 : Addr) } ∧ (core (syncedI u c pc) c).dcache = (core u c).dcache := by
  rw [syncedI, retire, core_modCore, core_modCore]
  exact ⟨rfl, rfl, rfl⟩

theorem syncedI_mem (u : State) (c : CoreId) (pc : Addr) : (syncedI u c pc).mem = u.mem := by
  cases c with
  | ve n => rfl
  | sv => rfl

theorem syncedI_fab (u : State) (c : CoreId) (pc : Addr) : (syncedI u c pc).fab = u.fab := by
  cases c with
  | ve n => rfl
  | sv => rfl

/-- `SYNC.I` of a VE, and of the supervisor with a REMAP that waits for it. -/
theorem exec_syncI_ready (hr : Ready s c 2) : ∃ t, exec (.syncI c 0) s = .next t ∧ t.mem = (syncedI (taken s c 2) c (nextPc s c 2)).mem ∧
    core t c = core (syncedI (taken s c 2) c (nextPc s c 2)) c ∧ t.fab.remap = (s.fab.remap || (c == .sv && s.fab.remapDue)) := by
  have he := exec_of_seqOp (i := .syncI c 0) rfl (isLong_h4 5 0 (by decide)) hr rfl
  have hs1 : modCore (retire (taken s c 2) c (nextPc (taken s c 2) c 2)) c (fun k => { k with icache := [], ahead := none }) =
      syncedI (taken s c 2) c (nextPc s c 2) := by rw [nextPc_taken, syncedI]
  have hfab := syncedI_fab (taken s c 2) c (nextPc s c 2)
  simp only [hs1] at he
  obtain ⟨hremap, hdue⟩ := fetched_fab s c (2 == 4)
  rw [← hfab] at hremap
  cases c with
  | ve n => exact ⟨_, he, rfl, rfl, hremap.trans (Bool.or_false _).symm⟩
  | sv =>
    by_cases h : s.fab.remapDue = true
    · refine ⟨_, he.trans (congrArg _ (if_pos (hdue.trans h))), rfl, rfl, ?_⟩
      rw [h]
      exact (Bool.or_true _).symm
    · refine ⟨_, he.trans (congrArg _ (if_neg fun hd => h (hdue.symm.trans hd))), rfl, rfl, ?_⟩
      rw [Bool.eq_false_iff.2 h]
      exact hremap.trans (Bool.or_false _).symm

theorem syncI_completes (hr : Ready s c 2) : ∃ t, exec (.syncI c 0) s = .next t ∧ (core t c).icache = [] ∧
    (core t c).r = { (core s c).r with pc := nextPc s c 2 &&& ~~~(1 : Addr) } ∧ (core t c).dcache = (core s c).dcache ∧
    t.mem = (taken s c 2).mem ∧ t.fab.remap = (s.fab.remap || (c == .sv && s.fab.remapDue)) := by
  obtain ⟨t, he, hmem, hcore, hremap⟩ := exec_syncI_ready hr
  obtain ⟨hic, hregs, hdc⟩ := syncedI_core (taken s c 2) c (nextPc s c 2)
  rw [fetched_regs] at hregs
  rw [fetched_dcache] at hdc
  exact ⟨t, he, by rw [hcore, hic], by rw [hcore, hregs], by rw [hcore, hdc], hmem.trans (syncedI_mem ..), hremap⟩

/-- An instruction that retires with caches emptied completes. -/
theorem emptied_completes {i : Instr} {enc : W32} {len : Nat} {ok : Bool} {ic : Core → List Nat} {dc : Core → List CacheLine} (hr : Ready s c len)
    (he : exec i s = .next (seqOp s c enc (badIf ok) fun s => modCore (retire s c (nextPc s c len)) c fun k => { k with icache := ic k, dcache := dc k }))
    (hl : isLong enc = (len == 4)) (hok : ok = true) (hdc : ∀ k r n, dc { k with r := r, retired := n } = dc k) :
    ∃ t, exec i s = .next t ∧ Steps (taken s c len) t c { (core s c).r with pc := nextPc s c len &&& ~~~(1 : Addr) } ∧
      (core t c).icache = ic (core (retire (taken s c len) c (nextPc s c len)) c) ∧ (core t c).dcache = dc (core (taken s c len) c) := by
  refine ⟨_, exec_of_seqOp he hl hr hok, ?_, ?_, ?_⟩
  · rw [modCore_const]
    have h := steps_taken_retire s c len (ic (core (retire (taken s c len) c (nextPc (taken s c len) c len)) c))
      (dc (core (retire (taken s c len) c (nextPc (taken s c len) c len)) c)) (core (retire (taken s c len) c (nextPc (taken s c len) c len)) c).ahead
    rwa [modCore_const] at h
  · rw [core_modCore, nextPc_taken]
  · rw [core_modCore, retire, core_modCore, hdc]

theorem cinvI_completes (hr : Ready s c 2) : ∃ t, exec (.cinvI c) s = .next t ∧
    Steps (taken s c 2) t c { (core s c).r with pc := nextPc s c 2 &&& ~~~(1 : Addr) } ∧ (core t c).icache = [] ∧ (core t c).dcache = (core s c).dcache := by
  obtain ⟨t, he, hs, hic, hdc⟩ := emptied_completes (i := .cinvI c) (ok := true) (ic := fun _ => []) (dc := fun k => k.dcache) hr rfl (isLong_h4 7 0 (by decide)) rfl fun _ _ _ => rfl
  exact ⟨t, he, hs, hic, hdc.trans (fetched_dcache ..)⟩

theorem cinvD_completes (hr : Ready s c 2) : ∃ t, exec (.cinvD c) s = .next t ∧
    Steps (taken s c 2) t c { (core s c).r with pc := nextPc s c 2 &&& ~~~(1 : Addr) } ∧ (core t c).dcache = [] := by
  obtain ⟨t, he, hs, -, hdc⟩ := emptied_completes (i := .cinvD c) (ok := true) (ic := fun k => k.icache) (dc := fun _ => []) hr rfl (isLong_h4 7 1 (by decide)) rfl fun _ _ _ => rfl
  exact ⟨t, he, hs, hdc⟩

theorem cinvDRange_completes (ra rb : BitVec 5) (hr : Ready s c 4) : ∃ t, exec (.cinvDRange c ra rb 0) s = .next t ∧
    Steps (taken s c 4) t c { (core s c).r with pc := nextPc s c 4 &&& ~~~(1 : Addr) } ∧
    ∀ l, l.line < 2 ^ 34 → (l ∈ (core t c).dcache ↔ l ∈ (core s c).dcache ∧
      ∀ i, i < (regGet (core s c).r rb).toNat → ((regGet (core s c).r ra).toNat + i) % 2 ^ 40 / 64 ≠ l.line) := by
  have he := exec_of_seqOp (i := .cinvDRange c ra rb 0) rfl (isLong_long _ _ (by decide) (by decide)) hr rfl
  have h := steps_taken_retire s c 4 (core (retire (taken s c 4) c (nextPc (taken s c 4) c 4)) c).icache
    ((core (retire (taken s c 4) c (nextPc (taken s c 4) c 4)) c).dcache.filter fun l =>
      !lineMeets l.line ((regGet (core (taken s c 4) c).r ra).toNat % 2 ^ 40) (regGet (core (taken s c 4) c).r rb).toNat)
    (core (retire (taken s c 4) c (nextPc (taken s c 4) c 4)) c).ahead
  rw [modCore_const] at h
  refine ⟨_, he.trans (congrArg _ (modCore_const ..)), h, fun l hl => ?_⟩
  rw [core_modCore, retire, core_modCore, fetched_regs, fetched_dcache]
  simp only [List.mem_filter, Bool.not_eq_true', ← Bool.not_eq_true, lineMeets_iff hl, not_exists, not_and, ne_eq]

end System

/-! ### The moves between registers -/

section Moves

variable {s : State} {c : CoreId}

/-- The special registers in the order of their numbers. -/
def specials (r : Regs) : List W64 := [r.pc.setWidth 64, r.fl, r.slim, r.vbase, r.vl, 65536, r.bc, r.bs, r.bd, (r.ra[r.cwp]).setWidth 64]

theorem srGet_eq (r : Regs) {n : Nat} (h : n < (specials r).length) : srGet r n = (specials r)[n] := by
  have hn : n < 10 := h
  interval_cases n <;> rfl

theorem movFromSr_completes (hr : Ready s c 4) (rd : BitVec 5) (sr : BitVec 4) (h : sr.toNat < (specials (core s c).r).length) :
    ∃ t, exec (.movFromSr c rd sr 0) s = .next t ∧
      Steps (taken s c 4) t c { regSet (core s c).r rd (specials (core s c).r)[sr.toNat] with pc := nextPc s c 4 &&& ~~~(1 : Addr) } := by
  rw [← srGet_eq (core s c).r h]
  have hn : sr.toNat < 10 := h
  exact steps_completes (i := .movFromSr c rd sr 0) (ok := true) (f := fun q r => regSet r rd (srGet q sr.toNat))
    (by rw [exec_movFromSr, execMovFromSr, srBad, decide_eq_true hn]; rfl) (isLong_long _ _ (by decide) (by decide)) hr rfl
    fun q r p => regSet_withPc r rd _ p

theorem movToSr_completes (hr : Ready s c 4) (sr : BitVec 4) (rs : BitVec 5) (hw : srWritable sr.toNat = true) : ∃ t, exec (.movToSr c sr rs 0) s = .next t ∧
    Steps (taken s c 4) t c { srSet (core s c).r sr.toNat (regGet (core s c).r rs) with pc := nextPc s c 4 &&& ~~~(1 : Addr) } :=
  steps_completes (i := .movToSr c sr rs 0) (ok := true) (f := fun q r => srSet r sr.toNat (regGet q rs))
    (by rw [exec_movToSr, execMovToSr, srBad, hw]; rfl) (isLong_long _ _ (by decide) (by decide)) hr rfl
    fun q r p => srSet_withPc r sr.toNat _ p

theorem movX_completes (hr : Ready s c 4) {xd xs : BitVec 5} (hd : xd.toNat < 28) (hs : xs.toNat < 28) : ∃ t, exec (.movX c xd xs 0) s = .next t ∧
    Steps (taken s c 4) t c { xSet (core s c).r xd (xGet (core s c).r xs) with pc := nextPc s c 4 &&& ~~~(1 : Addr) } :=
  steps_completes (i := .movX c xd xs 0) (f := fun q r => xSet r xd (xGet q xs)) rfl (isLong_long _ _ (by decide) (by decide)) hr
    (by simp [xOk, hd, hs]) fun q r p => xSet_withPc r xd _ p

theorem movFromW_completes (hr : Ready s c 4) (rg : BitVec 5) (wn : BitVec 3) (h : Bool) : ∃ t, exec (.movWHalf c rg wn h false 0) s = .next t ∧
    Steps (taken s c 4) t c { regSet (core s c).r rg (((core s c).r.w[(⟨wn.toNat, wn.isLt⟩ : Fin 8)] >>> (if h then 64 else 0)).setWidth 64) with
      pc := nextPc s c 4 &&& ~~~(1 : Addr) } := by
  rw [← halfGet_eq, ← xGet_w]
  exact steps_completes (i := .movWHalf c rg wn h false 0) (f := fun _ r => regSet r rg (halfGet (xGet r (wn.setWidth 5)) h)) rfl
    (isLong_long _ _ (by decide) (by decide)) hr rfl fun q r p => regSet_withPc r rg _ p

theorem movToW_completes (hr : Ready s c 4) (rg : BitVec 5) (wn : BitVec 3) (h : Bool) : ∃ t, exec (.movWHalf c rg wn h true 0) s = .next t ∧
    Steps (taken s c 4) t c { (core s c).r with
      w := (core s c).r.w.set (⟨wn.toNat, wn.isLt⟩ : Fin 8) (halfSet (core s c).r.w[(⟨wn.toNat, wn.isLt⟩ : Fin 8)] h (regGet (core s c).r rg))
      pc := nextPc s c 4 &&& ~~~(1 : Addr) } := by
  have hx := xSet_w (core s c).r wn (halfSet (xGet (core s c).r (wn.setWidth 5)) h (regGet (core s c).r rg))
  rw [xGet_w] at hx
  have hstep := steps_completes (i := .movWHalf c rg wn h true 0) (f := fun _ r => xSet r (wn.setWidth 5) (halfSet (xGet r (wn.setWidth 5)) h (regGet r rg))) rfl
    (isLong_long _ _ (by decide) (by decide)) hr rfl fun q r p => by
      rw [xGet_withPc, regGet_withPc]
      exact xSet_withPc r _ _ p
  simp only [xGet_w, hx] at hstep
  exact hstep

theorem addSn_completes (hr : Ready s c 4) {sn : BitVec 4} (rs : BitVec 5) (h : sn.toNat < 12) : ∃ t, exec (.addSn c sn rs 0) s = .next t ∧
    Steps (taken s c 4) t c { (core s c).r with
      s := (core s c).r.s.set sn.toNat (addBase (core s c).r.s[sn.toNat] (regGet (core s c).r rs)), pc := nextPc s c 4 &&& ~~~(1 : Addr) } := by
  have hstep := steps_completes (i := .addSn c sn rs 0) (f := fun _ r => xSet r (sn.setWidth 5 + 16) (addBase (xGet r (sn.setWidth 5 + 16)) (regGet r rs))) rfl
    (isLong_long _ _ (by decide) (by decide)) hr (by simp [h]) fun q r p => by
      rw [xGet_withPc, regGet_withPc]
      exact xSet_withPc r _ _ p
  simp only [xGet_s _ h, xSet_s _ h] at hstep
  exact hstep

theorem isLong_vlOps (f : VlForm) : isLong (vlOps f).2.2.2.1 = ((vlOps f).2.2.1 == 4) := by
  cases f with
  | h6 rd rs rsv =>
    have := rd.isLt
    have := rs.isLt
    have := rsv.isLt
    exact isLong_short _ (by simp; omega)
  | c6 rd rs rsv => exact isLong_long _ _ (by decide) (by decide)

theorem regSet_vl (r : Regs) (x : BitVec 5) (v : W64) : (regSet r x v).vl = r.vl := by
  unfold regSet
  split
  · rfl
  · split
    · rfl
    · rfl

/-- The registers after `SETVL`, in one form for both lengths. -/
theorem setVl_eq (r : Regs) (rd : BitVec 5) (l : W64) :
    let v : W64 := if l.toNat < 65536 then l else 65536
    setVl r rd l = { regSet r rd (if l = 0 then 0 else v) with vl := if l = 0 then r.vl else v, fl := setBit r.fl 2 (decide (l = 0)) } := by
  unfold setVl
  by_cases h : l = 0
  · simp only [if_pos h, decide_eq_true h]
    rw [← regSet_vl r rd 0]
  · simp only [if_neg h, decide_eq_false h]

theorem setvl_completes (hc : c ≠ .sv) (f : VlForm) (hok : (vlOps f).2.2.2.2 = true) (hr : Ready s c (vlOps f).2.2.1) :
    ∃ t, exec (.setvl c f) s = .next t ∧
      Steps (taken s c (vlOps f).2.2.1) t c { setVl (core s c).r (vlOps f).1 (regGet (core s c).r (vlOps f).2.1) with
        pc := nextPc s c (vlOps f).2.2.1 &&& ~~~(1 : Addr) } := by
  cases c with
  | sv => exact absurd rfl hc
  | ve n =>
    exact steps_completes (len := (vlOps f).2.2.1) (i := .setvl (.ve n) f) (f := fun q r => setVl r (vlOps f).1 (regGet q (vlOps f).2.1)) rfl (isLong_vlOps f) hr hok
      fun q r p => setVl_withPc r _ _ p

end Moves

/-- Settles O17: each instruction retires, and the rest of what it does is on its core's registers and caches. -/
theorem systemAndRegisterMoves : Obligations.SystemAndRegisterMoves := by
  unfold Obligations.SystemAndRegisterMoves
  refine ⟨fun s c hr => ⟨fun arg => nop_completes arg hr, ?_, ?_, ?_, ?_, ?_, syncI_completes hr, cinvI_completes hr, cinvD_completes hr,
    fun ra rb hr4 => cinvDRange_completes ra rb hr4⟩, fun s c hr => ⟨fun rd sr h => movFromSr_completes hr rd sr h, fun rs => ?_,
    fun xd xs hd hs => movX_completes hr hd hs, fun rg wn h => ⟨movFromW_completes hr rg wn h, ?_⟩, fun sn rs h => ?_, fun f hc hok => ?_⟩⟩
  · rintro n rfl hq
    exact wait_completes hr hq
  · rintro n rfl hq
    exact wait_waits hr hq
  · rintro n rfl hq ha
    exact barrier_arrives hr hq ha
  · rintro n rfl ha hb
    exact barrier_released hr ha hb
  · rintro rfl
    exact ⟨engineOnly_sv hr (isLong_h4 4 0 (by decide)) rfl, engineOnly_sv hr (isLong_h4 6 0 (by decide)) rfl⟩
  · exact ⟨movToSr_completes hr 1 rs (by decide), movToSr_completes hr 2 rs (by decide), movToSr_completes hr 3 rs (by decide),
      movToSr_completes hr 6 rs (by decide), movToSr_completes hr 7 rs (by decide), movToSr_completes hr 8 rs (by decide), movToSr_completes hr 9 rs (by decide)⟩
  · obtain ⟨t, he, hs⟩ := movToW_completes hr rg wn h
    obtain ⟨hnew, hold⟩ := halfSet_halves (core s c).r.w[(⟨wn.toNat, wn.isLt⟩ : Fin 8)] h (regGet (core s c).r rg)
    exact ⟨t, _, he, hs, hnew, hold⟩
  · obtain ⟨t, he, hs⟩ := addSn_completes hr rs h
    have hx := toNat_addBase (core s c).r.s[sn.toNat] (regGet (core s c).r rs)
    exact ⟨t, _, he, hs, by rw [hx]; omega, by rw [hx]; omega⟩
  · intro rd l v hr'
    obtain ⟨t, he, hs⟩ := setvl_completes hc f hok hr'
    have hfl : (core t c).r.fl = setBit (core s c).r.fl 2 (decide (l = 0)) := by
      obtain ⟨-, hcore⟩ := hs
      rw [hcore, setVl_eq]
    refine ⟨t, he, ?_, ?_, ?_⟩
    · rw [hfl]
      intro i hi
      rw [bit_setBit _ _ _ _ (by decide), if_neg (by simpa using hi)]
    · rw [hfl, flZ, bit_setBit _ _ _ _ (by decide), if_pos rfl]
    · rw [hfl]
      rw [setVl_eq] at hs
      exact hs

end Sys2Proof.Machine

/-! PROOF. Block repeat: O18. -/
namespace Sys2Proof.Machine

/-! ### Runs of elements -/

section Repeat

variable {c : CoreId} {k : RptKind} {w step pred pat mask : Nat}

/-- An element that is counted, from one state to the next. -/
def Counted (c : CoreId) (k : RptKind) (w step pred pat mask : Nat) (v v' : State) : Prop :=
  ∃ v2, rptElem v c k w pred pat mask = (v2, none) ∧ (core v2 c).r = (core v c).r ∧ v' = modRegs v2 c (rptNext k step)

theorem Counted.regs {v v' : State} (h : Counted c k w step pred pat mask v v') : (core v' c).r = rptNext k step (core v c).r := by
  obtain ⟨v2, -, hr, rfl⟩ := h
  rw [core_modRegs, hr]

/-- After `j` counted elements BC is `j` less and FL stands. -/
theorem counted_regs {at' : Nat → State} {m : Nat} (h : ∀ j, j < m → Counted c k w step pred pat mask (at' j) (at' (j + 1)))
    (hm : m ≤ (core (at' 0) c).r.bc.toNat) : ∀ j, j ≤ m → (core (at' j) c).r.bc.toNat = (core (at' 0) c).r.bc.toNat - j ∧ (core (at' j) c).r.fl = (core (at' 0) c).r.fl := by
  intro j
  induction j with
  | zero => exact fun _ => ⟨rfl, rfl⟩
  | succ j ih =>
    intro hj
    obtain ⟨hbc, hfl⟩ := ih (by omega)
    have hr := (h j hj).regs
    constructor
    · rw [hr]
      show ((core (at' j) c).r.bc - 1).toNat = _
      rw [BitVec.toNat_sub, hbc, show (1 : W64).toNat = 1 from rfl]
      have := (core (at' 0) c).r.bc.isLt
      omega
    · rw [hr]
      exact hfl

/-- The loop runs through counted elements. -/
theorem rptLoop_counted {at' : Nat → State} {m : Nat} (h : ∀ j, j < m → Counted c k w step pred pat mask (at' j) (at' (j + 1)))
    (hbc : ∀ j, j < m → (core (at' j) c).r.bc ≠ 0) (fuel : Nat) :
    rptLoop c k w step pred pat mask (m + fuel) (at' 0) = rptLoop c k w step pred pat mask fuel (at' m) := by
  induction m generalizing at' with
  | zero => rw [Nat.zero_add]
  | succ m ih =>
    obtain ⟨v2, he, -, hv⟩ := h 0 (Nat.succ_pos m)
    have hrest := ih (at' := fun j => at' (j + 1)) (fun j hj => h (j + 1) (Nat.succ_lt_succ hj)) fun j hj => hbc (j + 1) (Nat.succ_lt_succ hj)
    rw [← hrest, hv, show m + 1 + fuel = m + fuel + 1 by omega, rptLoop, if_neg (hbc 0 (Nat.succ_pos m)), he]

section Command

variable {s : State} {f : RptForm} {at' : Nat → State} {m : Nat}

theorem isLong_rptEnc (k : RptKind) (f : RptForm) : isLong (rptEnc k f) = (4 == 4) := isLong_long _ _ (by decide) (by decide)

/-- An admitted `RPT` on a core that is ready runs its elements on the state after its fetch. -/
theorem rptOp_ready (hr : Ready s c 4) (hok : rptOk k f = true) (upto : Option Nat) :
    let r := (core s c).r
    let o := rptOperand r f.fm (2 ^ f.sz.toNat)
    let x := rptLoop c k (2 ^ f.sz.toNat) (2 ^ f.sz.toNat * (f.gap.toNat + 1)) f.pred.toNat o.1 o.2
      (match upto with | some m => min m r.bc.toNat | none => r.bc.toNat) (taken s c 4)
    rptOp s c k f upto = match x.2 with
      | .paused => x.1
      | .bad kd st up ad => dataFault x.1 c kd st f.sz.toNat up ad
      | .done => regOp x.1 c 4 fun r => { r with fl := rptFlags k r.fl .done }
      | .stopped g => regOp x.1 c 4 fun r => { r with fl := rptFlags k r.fl (.stopped g) } := by
  rw [rptOp, seqOp_ok hr (isLong_rptEnc k f) _ hok]
  simp only [fetched_regs] <;> rfl

variable (hr : Ready s c 4) (hok : rptOk k f = true) (h0 : at' 0 = taken s c 4)
  (h : ∀ j, j < m → Counted c k (2 ^ f.sz.toNat) (2 ^ f.sz.toNat * (f.gap.toNat + 1)) f.pred.toNat
    (rptOperand (core s c).r f.fm (2 ^ f.sz.toNat)).1 (rptOperand (core s c).r f.fm (2 ^ f.sz.toNat)).2 (at' j) (at' (j + 1)))

include h0 h

theorem counted_bc (hm : m ≤ (core s c).r.bc.toNat) : ∀ j, j ≤ m → (core (at' j) c).r.bc.toNat = (core s c).r.bc.toNat - j ∧ (core (at' j) c).r.fl = (core s c).r.fl := by
  have hregs := counted_regs h (by rwa [h0, fetched_regs])
  rwa [h0, fetched_regs] at hregs

theorem counted_bc_ne (hm : m ≤ (core s c).r.bc.toNat) : ∀ j, j < m → (core (at' j) c).r.bc ≠ 0 := by
  intro j hj hz
  have hbc := (counted_bc h0 h hm j (Nat.le_of_lt hj)).1
  rw [hz] at hbc
  have hzero : (0 : W64).toNat = 0 := rfl
  omega

include hr hok

/-- After as many elements as BC named the instruction completes. -/
theorem rptOp_done (hm : m = (core s c).r.bc.toNat) : rptOp s c k f none = regOp (at' m) c 4 fun r => { r with fl := rptFlags k r.fl .done } := by
  have hz : (core (at' m) c).r.bc = 0 := by
    apply BitVec.eq_of_toNat_eq
    rw [(counted_bc h0 h (Nat.le_of_eq hm) m (Nat.le_refl m)).1, hm, Nat.sub_self]
    rfl
  have hloop := rptLoop_counted h (counted_bc_ne h0 h (Nat.le_of_eq hm)) 0
  rw [Nat.add_zero m, h0, rptLoop, if_pos hz] at hloop
  rw [rptOp_ready hr hok none]
  simp only [← hm, hloop]

/-- An interrupt at an element boundary leaves the registers at that element. -/
theorem rptOp_paused (hm : m < (core s c).r.bc.toNat) : rptOp s c k f (some m) = at' m := by
  have hz : (core (at' m) c).r.bc ≠ 0 := by
    intro hz
    have hbc := (counted_bc h0 h (Nat.le_of_lt hm) m (Nat.le_refl m)).1
    rw [hz] at hbc
    have hzero : (0 : W64).toNat = 0 := rfl
    omega
  have hloop := rptLoop_counted h (counted_bc_ne h0 h (Nat.le_of_lt hm)) 0
  rw [Nat.add_zero m, h0, rptLoop, if_neg hz] at hloop
  rw [rptOp_ready hr hok (some m)]
  simp only [Nat.min_eq_left (Nat.le_of_lt hm), hloop]

/-- An element that ends the run. -/
theorem rptOp_stopped (hm : m < (core s c).r.bc.toNat) {v : State} {g : Bool} (he : rptElem (at' m) c k (2 ^ f.sz.toNat) f.pred.toNat
      (rptOperand (core s c).r f.fm (2 ^ f.sz.toNat)).1 (rptOperand (core s c).r f.fm (2 ^ f.sz.toNat)).2 = (v, some (.stopped g))) :
    rptOp s c k f none = regOp v c 4 fun r => { r with fl := rptFlags k r.fl (.stopped g) } := by
  have hz : (core (at' m) c).r.bc ≠ 0 := by
    intro hz
    have hbc := (counted_bc h0 h (Nat.le_of_lt hm) m (Nat.le_refl m)).1
    rw [hz] at hbc
    have hzero : (0 : W64).toNat = 0 := rfl
    omega
  have hloop := rptLoop_counted h (counted_bc_ne h0 h (Nat.le_of_lt hm)) ((core s c).r.bc.toNat - m - 1 + 1)
  rw [h0, show m + ((core s c).r.bc.toNat - m - 1 + 1) = (core s c).r.bc.toNat by omega, rptLoop, if_neg hz, he] at hloop
  rw [rptOp_ready hr hok none]
  simp only [hloop]

end Command

end Repeat

/-- A regOp that writes FL alone. -/
theorem steps_fl (v : State) (c : CoreId) (len : Nat) (g : W64 → W64) : Steps v (regOp v c len fun r => { r with fl := g r.fl }) c
    { (core v c).r with fl := g (core v c).r.fl, pc := nextPc v c len &&& ~~~(1 : Addr) } :=
  steps_regOp v c len fun _ _ => rfl

/-- A step of a pointer or of BC, in the form that the elements use. -/
theorem counted_of {c : CoreId} {k : RptKind} {w step pred pat mask : Nat} {v v2 v' : State} {bs bd : W64}
    (he : rptElem v c k w pred pat mask = (v2, none)) (hr : (core v2 c).r = (core v c).r)
    (hbs : ∀ x : W64, x + bs = if k = .fills then x else x + BitVec.ofNat 64 step) (hbd : ∀ x : W64, x + bd = if k = .scans then x else x + BitVec.ofNat 64 step)
    (hv : v' = modRegs v2 c fun r => { r with bs := r.bs + bs, bd := r.bd + bd, bc := r.bc - 1 }) : Counted c k w step pred pat mask v v' := by
  refine ⟨v2, he, hr, ?_⟩
  rw [hv]
  congr 1
  funext r
  rw [rptNext, hbs, hbd]

/-- Settles O18: the loop of an `RPT` runs through its counted elements, to the end, to a boundary or to the element that ends it. -/
theorem repeatElements : Obligations.RepeatElements := by
  unfold Obligations.RepeatElements
  intro s c f hr u r w step src dst pat ends counts run goes
  have hends : ∀ {v : State} {i : Instr} {g : W64 → W64} {fl : W64}, exec i s = .next (regOp v c 4 fun r => { r with fl := g r.fl }) → g (core v c).r.fl = fl →
      ends v i fl := by
    rintro v i g fl he rfl
    exact ⟨_, he, steps_fl v c 4 g⟩
  have hgoes : ∀ {k : RptKind} {i : Option Nat → Instr} {elem : State → State → Prop} {fl : W64}, rptOk k f = true →
      (∀ o, exec (i o) s = .next (rptOp s c k f o)) → (∀ v v', elem v v' → Counted c k w (w * (f.gap.toNat + 1)) f.pred.toNat pat.1 pat.2 v v') →
      rptFlags k r.fl .done = fl → goes i elem fl := by
    rintro k i elem fl hok hi helem rfl m v ⟨at', h0, rfl, hall⟩
    have hc := fun j hj => helem _ _ (hall j hj)
    constructor
    · intro hm
      exact hends (g := (rptFlags k · .done)) ((hi none).trans (congrArg _ (rptOp_done hr hok h0 hc hm)))
        (by rw [(counted_bc h0 hc (Nat.le_of_eq hm) m (Nat.le_refl m)).2])
    · exact fun hm => (hi (some m)).trans (congrArg _ (rptOp_paused hr hok h0 hc hm))
  have hstops : ∀ {k : RptKind} {i : Instr} {elem : State → State → Prop} {fl : W64} {g : Bool} {m : Nat} {v v2 : State}, rptOk k f = true →
      exec i s = .next (rptOp s c k f none) → (∀ v v', elem v v' → Counted c k w (w * (f.gap.toNat + 1)) f.pred.toNat pat.1 pat.2 v v') →
      run m elem v → m < r.bc.toNat → rptElem v c k w f.pred.toNat pat.1 pat.2 = (v2, some (.stopped g)) → (core v2 c).r = (core v c).r →
      rptFlags k r.fl (.stopped g) = fl → ends v2 i fl := by
    rintro k i elem fl g m v v2 hok hi helem ⟨at', h0, rfl, hall⟩ hm he hv2 rfl
    have hc := fun j hj => helem _ _ (hall j hj)
    exact hends (g := (rptFlags k · (.stopped g))) (hi.trans (congrArg _ (rptOp_stopped hr hok h0 hc hm he)))
      (by rw [hv2, (counted_bc h0 hc (Nat.le_of_lt hm) m (Nat.le_refl m)).2])
  refine ⟨fun hok => ?_, fun hok => ?_, fun hok => ?_, fun hok => ?_⟩
  · have helem : ∀ v v', (∃ x v1 y v2, loadAcc v c (src v) w = .ok x v1 ∧ storeAcc v1 c (dst v) w (BitVec.ofNat 128 x.toNat) = .ok y v2 ∧
        counts v v2 v' step step) → Counted c .movs w (w * (f.gap.toNat + 1)) f.pred.toNat pat.1 pat.2 v v' := by
      rintro v v' ⟨x, v1, y, v2, hl, hs, hreg, hv⟩
      refine counted_of ?_ hreg (fun _ => rfl) (fun _ => rfl) hv
      simp only [rptElem, src, dst] at hl hs ⊢
      rw [hl]
      simp only [hs]
    exact hgoes hok (fun _ => rfl) helem rfl
  · have helem : ∀ v v', (∃ y v2, storeAcc v c (dst v) w (BitVec.ofNat 128 pat.1) = .ok y v2 ∧ counts v v2 v' 0 step) →
        Counted c .fills w (w * (f.gap.toNat + 1)) f.pred.toNat pat.1 pat.2 v v' := by
      rintro v v' ⟨y, v2, hs, hreg, hv⟩
      refine counted_of ?_ hreg (fun x => BitVec.add_zero x) (fun _ => rfl) hv
      simp only [rptElem, dst] at hs ⊢
      rw [hs]
    exact hgoes hok (fun _ => rfl) helem rfl
  · intro elem
    have helem : ∀ v v', elem v v' → Counted c .cmps w (w * (f.gap.toNat + 1)) f.pred.toNat pat.1 pat.2 v v' := by
      rintro v v' ⟨x, v1, v2, hl, hl2, hreg, hv⟩
      refine counted_of ?_ hreg (fun _ => rfl) (fun _ => rfl) hv
      simp only [rptElem, src, dst] at hl hl2 ⊢
      rw [hl]
      simp only [hl2, if_true]
    refine ⟨hgoes hok (fun _ => rfl) helem rfl, ?_⟩
    intro m v x v1 y v2 hrun hm hl hl2 hne hreg
    refine hstops (i := .rptCmps c f none) hok rfl helem hrun hm ?_ hreg rfl
    simp only [rptElem, src, dst] at hl hl2 ⊢
    rw [hl]
    simp only [hl2, if_neg hne]
  · intro elem
    have helem : ∀ v v', elem v v' → Counted c .scans w (w * (f.gap.toNat + 1)) f.pred.toNat pat.1 pat.2 v v' := by
      rintro v v' ⟨x, v1, hl, hp, hreg, hv⟩
      refine counted_of ?_ hreg (fun _ => rfl) (fun x => BitVec.add_zero x) hv
      simp only [rptElem, src] at hl ⊢
      rw [hl]
      simp only [hp, Bool.false_eq_true, if_false]
    refine ⟨hgoes hok (fun _ => rfl) helem rfl, ?_⟩
    intro m v x v1 hrun hm hl hp hreg
    refine hstops (g := false) (i := .rptScans c f none) hok rfl helem hrun hm ?_ hreg rfl
    simp only [rptElem, src] at hl ⊢
    rw [hl]
    simp only [hp, if_true]

end Sys2Proof.Machine

/-! PROOF. Resets and the time sync: O58. -/
namespace Sys2Proof.Machine

/-! ### Resets -/

/-- What a reset keeps where no flash write is under way: the flash, the levels at the pins, what has been made and drawn, and what waits. -/
theorem cleared_idle {s : State} (h : s.boot.flashBusy = none) (bootsel : BitVec 2) (role : Bool) : cleared s bootsel role =
    { State.powerOn bootsel role with
      boot := { (State.powerOn bootsel role).boot with flashA := s.boot.flashA, flashB := s.boot.flashB, twinPresentN := s.boot.twinPresentN }
      fz := { (State.powerOn bootsel role).fz with holdN := s.fz.holdN }
      outs := s.outs, free := s.free, pending := s.pending } := by
  have hf : flashKept s = (s.boot.flashA, s.boot.flashB, s.free) := by rw [flashKept, h]
  rw [cleared, hf]

/-- What every reset leaves, whatever the flash was doing. -/
theorem cleared_parts (s : State) (bootsel : BitVec 2) (role : Bool) : (cleared s bootsel role).parts = State.reset.parts ∧
    (cleared s bootsel role).seq = State.reset.seq ∧ (cleared s bootsel role).mem = State.reset.mem ∧ (cleared s bootsel role).dict = State.reset.dict ∧
    (cleared s bootsel role).ports = State.reset.ports := ⟨rfl, rfl, rfl, rfl, rfl⟩

/-- The boot state of a package reset. -/
theorem packageReset_boot {s : State} (h : s.boot.flashBusy = none) (bootsel : BitVec 2) (cause : Nat) :
    (packageReset s bootsel cause).boot = { Boot.reset bootsel with
      flashA := s.boot.flashA, flashB := s.boot.flashB, twinPresentN := s.boot.twinPresentN, cause := cause, thermtrip := s.boot.thermtrip } := by
  rw [packageReset, cleared_idle h]
  rfl

/-- What a package reset leaves besides its boot state. -/
theorem packageReset_rest (s : State) (bootsel : BitVec 2) (cause : Nat) : packageReset s bootsel cause =
    { cleared s bootsel s.twin.primary with boot := (packageReset s bootsel cause).boot } := rfl

/-- A frame on the Sundov link leaves everything but the link and the outputs as it is. -/
theorem sendFrame_frame (s : State) (kind : Byte) (payload : List W128) : ∃ q u o, sendFrame s kind payload =
    { s with twin := { s.twin with sendSeq := q, unacked := u }, outs := o } := by
  unfold sendFrame
  split
  · exact ⟨_, _, _, rfl⟩
  · exact ⟨s.twin.sendSeq, s.twin.unacked, s.outs, rfl⟩

/-- The state that a SOFT_RESET resets: after the fatal notice of a paired primary. -/
theorem softResetGo_due {s : State} (h : s.boot.softDue = true) : ∃ v, softResetGo s = packageReset v s.boot.bootPins 2 ∧ v.boot = s.boot ∧
    v.twin.primary = s.twin.primary ∧ (¬ (s.twin.primary = true ∧ s.twin.state = 3) → v.outs = s.outs) := by
  unfold softResetGo
  rw [if_neg (by simp [h])]
  by_cases hp : s.twin.primary = true ∧ s.twin.state = 3
  · obtain ⟨q, u, o, hf⟩ := sendFrame_frame s 0x07 []
    exact ⟨sendFrame s 0x07 [], by rw [if_pos hp], by rw [hf], by rw [hf], fun hn => absurd hp hn⟩
  · exact ⟨s, by rw [if_neg hp], rfl, rfl, fun _ => rfl⟩

theorem packageReset_outs {s : State} (h : s.boot.flashBusy = none) (bootsel : BitVec 2) (cause : Nat) : (packageReset s bootsel cause).outs = s.outs := by
  rw [packageReset_rest, cleared_idle h]

theorem packageReset_primary {s : State} (h : s.boot.flashBusy = none) (bootsel : BitVec 2) (cause : Nat) :
    (packageReset s bootsel cause).twin.primary = s.twin.primary := by
  rw [packageReset_rest, cleared_idle h]
  rfl

/-- Settles O58: each reset is the cleared state, with what its kind keeps. -/
theorem resetKinds : Obligations.ResetKinds := by
  unfold Obligations.ResetKinds
  intro s
  refine ⟨fun hf bootsel role => ?_, fun hp b => ?_, fun hd => ?_, fun hd hf => ?_, fun t ht => ?_, fun hd => ?_, fun hd => ?_⟩
  · intro z kept
    refine ⟨congrArg _ (cleared_idle hf bootsel role), fun hp => ⟨packageReset s bootsel 1, congrArg _ (if_pos hp), ?_, ?_⟩,
      ⟨pwrokFallOp s, rfl, ?_, rfl, rfl, ?_⟩⟩
    · rw [packageReset_rest, cleared_idle hf]
    · rw [packageReset_boot hf]
      exact ⟨rfl, rfl, rfl, rfl, rfl, rfl, rfl⟩
    · rw [pwrokFallOp, cleared_idle hf]
    · rw [pwrokFallOp, cleared_idle hf]
      exact ⟨rfl, rfl⟩
  · exact congrArg _ (if_neg (by simp [hp]))
  · rw [softResetGo, if_pos (by simp [hd])]
  · intro u
    obtain ⟨v, hgo, hb, hprim, ho⟩ := softResetGo_due hd
    have hfv : v.boot.flashBusy = none := by rw [hb, hf]
    obtain ⟨hparts, -, hmem, -, hports⟩ := cleared_parts v s.boot.bootPins v.twin.primary
    have hboot := packageReset_boot hfv s.boot.bootPins 2
    have houts := packageReset_outs hfv s.boot.bootPins 2
    have hprim' := packageReset_primary hfv s.boot.bootPins 2
    rw [hb] at hboot
    rw [hprim] at hprim'
    have hu : u = packageReset v s.boot.bootPins 2 := hgo
    clear_value u
    subst hu
    rw [hboot]
    exact ⟨rfl, rfl, rfl, rfl, rfl, rfl, hprim', rfl, rfl, hparts, hmem, hports, fun hn => houts.trans (ho hn)⟩
  · obtain ⟨hparts, hseq, hmem, hdict, -⟩ := cleared_parts s s.boot.bootsel s.twin.primary
    rw [← Host.Outcome.next.inj (ht : Host.Outcome.next (pwrokFallOp s) = .next t)]
    exact ⟨rfl, hparts, hseq, hmem, hdict⟩
  · exact congrArg _ (if_pos hd)
  · refine ⟨{ s with ev := { s.ev with time := .replicate 4 (timeNow s) } }, congrArg Host.Outcome.next (if_neg (by simp [hd])), rfl, rfl, fun d => ?_⟩
    exact Vector.getElem_replicate ..

end Sys2Proof.Machine

/-! PROOF. The write of a dictionary entry. -/
namespace Sys2Proof.Machine

/-! ### An access that is served as it arrives -/

section Heeded

variable {s : State} {r : Requester}

/-- With nothing waiting, serving what waits does nothing. -/
theorem serveWaiting_nil (h : s.dict.waiting = []) : serveWaiting s = s := by
  rw [serveWaiting, h]
  split
  · rfl
  · rfl

theorem arrives_of_heeds (h : Heeds s r) {x : Access} (hx : x.by' = r) : arrives s x = true := by
  obtain ⟨hdead, -, -, hlink, hsv⟩ := h
  subst hx
  have hl : (if h : x.by'.val < 4 then s.ports[x.by'.val].link == 2 else true) = true := by
    split
    · next hlt => rw [(hlink hlt).1]; rfl
    · rfl
  have h5 : (x.by' != 5 || s.ls.state != 2) = true := by
    by_cases hr : x.by' = 5
    · rw [bne_iff_ne.2 (hsv hr), Bool.or_true]
    · rw [bne_iff_ne.2 hr, Bool.true_or]
  rw [arrives, hdead, hl, h5]
  rfl

theorem turnsAway_of_heeds (h : Heeds s r) {x : Access} (hx : x.by' = r) : turnsAway s x = none := by
  obtain ⟨-, -, -, hlink, -⟩ := h
  subst hx
  unfold turnsAway
  split
  · next hlt => rw [if_pos (hlink hlt).2.1]
  · rfl

theorem blocked_of_heeds (h : Heeds s r) {x : Access} (hx : x.by' = r) : blocked s x = false := by
  obtain ⟨-, hwaits, -, hlink, -⟩ := h
  subst hx
  unfold blocked
  rw [hwaits, Bool.and_false, Bool.false_or]
  split
  · next hlt => rw [(hlink hlt).2.2]; rfl
  · rfl

/-- An access that is heeded is served at once. -/
theorem accessOp_of_heeds (h : Heeds s r) {x : Access} (hx : x.by' = r) : accessOp s x =
    match serve s x with
    | some u => u
    | none => { s with dict := { s.dict with waiting := [x] } } := by
  have hnil := h.2.2.1
  unfold accessOp
  rw [arrives_of_heeds h hx, turnsAway_of_heeds h hx]
  simp only [serveWaiting_nil hnil, blocked_of_heeds h hx, hnil, behind, List.any_nil, List.nil_append]
  rfl

/-- A dictionary write that is heeded and goes to no stream FIFO. -/
theorem writeAccess_of_heeds (h : Heeds s r) {ix sub : Nat} (hix : ix < 65536) (hsub : sub < 256) (a : DAcc) (sunk : Sunk)
    (hf : fifoSub r ix sub = false) : writeAccess s r ix sub a sunk = dictWriteOp s r ix sub a sunk := by
  have h1 : (BitVec.ofNat 16 ix).toNat = ix := Nat.mod_eq_of_lt hix
  have h2 : (BitVec.ofNat 8 sub).toNat = sub := Nat.mod_eq_of_lt hsub
  rw [writeAccess, accessOp_of_heeds h rfl]
  simp only [serve, h1, h2, hf, Bool.false_eq_true, and_false, dite_false]

end Heeded

/-! ### A write that passes the checks of R452 -/

section Served

variable {s : State} {r : Requester} {ix sub v : Nat} {a : DAcc}

/-- The outcome of an entry's own rule, forwarded where the twin needs it, and the answer to its writer (R318, R399). -/
def concluded (r : Requester) (ix sub v : Nat) (e : Entry) (y : State × DRes) : State :=
  match y.2 with
  | .refused c => dictRefuse y.1 r ix sub true c
  | k => answerWrite (forwardSingle y.1 ix sub v e) r ix sub k

/-- A write that passes the checks ends as its entry's rule says. -/
theorem Serves.dictWriteOp (h : Serves s r ix sub a v) (sunk : Sunk) : ∃ e, entryAt s r ix sub = some e ∧
    dictWriteOp s r ix sub a sunk = concluded r ix sub v e (entryWrite (heard s r) r ix sub e.cls v sunk) := by
  obtain ⟨-, hhead, rfl, e, he, hwidth, h128, hrsv, hlt, hok⟩ := h
  refine ⟨e, he, ?_⟩
  have hnot8 : ¬ (e.ty = .w128 ∧ a.bytes = 8) := by
    rintro ⟨ht, hb⟩
    rw [h128 ht] at hb
    exact absurd hb (by decide)
  have hacc : accValue s.dict.half[r] ix sub e a = some (a.val.toNat % 2 ^ (8 * a.bytes)) := if_neg hnot8
  have hlow : a.val.toNat % 2 ^ (8 * a.bytes) % 2 ^ (8 * e.ty.bytes) = a.val.toNat % 2 ^ (8 * a.bytes) := Nat.mod_eq_of_lt hlt
  have hin : ¬ (2 ^ (8 * e.ty.bytes) ≤ a.val.toNat % 2 ^ (8 * a.bytes) ∨ (!e.ok (a.val.toNat % 2 ^ (8 * a.bytes))) = true) := by
    rw [hok]
    simpa using hlt
  have hw : dictWrite s r ix sub a sunk =
      match (entryWrite (heard s r) r ix sub e.cls (a.val.toNat % 2 ^ (8 * a.bytes)) sunk).2 with
      | .refused c => ((entryWrite (heard s r) r ix sub e.cls (a.val.toNat % 2 ^ (8 * a.bytes)) sunk).1, .refused c)
      | k => (forwardSingle (entryWrite (heard s r) r ix sub e.cls (a.val.toNat % 2 ^ (8 * a.bytes)) sunk).1 ix sub (a.val.toNat % 2 ^ (8 * a.bytes)) e, k) := by
    unfold dictWrite
    rw [hhead, he]
    simp only [hwidth, hacc, hlow, hrsv, ne_eq, not_true_eq_false, if_false, if_neg hin, Bool.not_true, Bool.false_eq_true,
      show ¬ (e.ty = .w128 ∧ a.bytes = 8 ∧ a.off = 0) from fun hc => hnot8 ⟨hc.1, hc.2.1⟩]
    rfl
  rw [Machine.dictWriteOp, hw, concluded]
  generalize entryWrite (heard s r) r ix sub e.cls (a.val.toNat % 2 ^ (8 * a.bytes)) sunk = y
  obtain ⟨t, k⟩ := y
  cases k with
  | done => rfl
  | held => rfl
  | refused c => rfl

/-- Subindex 0 of a stream is no dictionary entry. -/
theorem streamEntry_zero (s : State) (p : PartId) (k : Fin 8) : streamEntry s p k 0 = none := rfl

/-- The entries of the streams. -/
theorem entryAt_stream (s : State) (r : Requester) (p : PartId) (k : Fin 8) (u : Nat) :
    entryAt s r (0xF000 + 8 * p.val + k.val) u = streamEntry s p k u := by
  obtain ⟨ix, hix⟩ := exists_eq (a' := 0xF000 + 8 * p.val + k.val)
  have hlo : 0xF000 ≤ ix := by omega
  have hhi : ix < 0xF080 := by omega
  have hp : (⟨(ix - 0xF000) / 8, by omega⟩ : PartId) = p := Fin.ext (by simp only; omega)
  have hk : (⟨(ix - 0xF000) % 8, by omega⟩ : Fin 8) = k := Fin.ext (by simp only; omega)
  rw [← hix, entryAt, if_neg (by omega), if_neg (by omega), dif_neg (by omega), dif_neg (by omega), dif_neg (by omega), if_neg (by omega),
    dif_neg (by omega), dif_neg (by omega), if_neg (by omega), dif_neg (by omega), if_neg (by omega), if_neg (by omega), if_neg (by omega),
    if_neg (by omega), dif_neg (by omega), if_neg (by omega), if_neg (by omega), if_neg (by omega), dif_neg (by omega), dif_pos ⟨hlo, hhi⟩, hp, hk]

/-- An entry that can be written is no FIFO. -/
theorem fifoSub_of_entry {e : Entry} (he : entryAt s r ix sub = some e) : fifoSub r ix sub = false := by
  by_contra hf
  have hf := Bool.eq_true_of_not_eq_false hf
  simp only [fifoSub, Bool.and_eq_true, decide_eq_true_eq, beq_iff_eq] at hf
  obtain ⟨⟨-, hlo, hhi⟩, hz⟩ := hf
  obtain ⟨p, k, hpk⟩ : ∃ (p : PartId) (k : Fin 8), ix = 0xF000 + 8 * p.val + k.val :=
    ⟨⟨(ix - 0xF000) / 8, by omega⟩, ⟨(ix - 0xF000) % 8, by omega⟩, by simp only; omega⟩
  rw [hz, hpk, entryAt_stream, streamEntry_zero] at he
  exact absurd he (by simp)

/-- A command that writes an entry ends as the entry's rule says. -/
theorem Serves.exec (h : Serves s r ix sub a v) {i : Instr} {sunk : Sunk} (hix : ix < 65536) (hsub : sub < 256)
    (hi : exec i s = .next (writeAccess s r ix sub a sunk)) : ∃ e, entryAt s r ix sub = some e ∧
      exec i s = .next (concluded r ix sub v e (entryWrite (heard s r) r ix sub e.cls v sunk)) := by
  obtain ⟨e, he, hop⟩ := h.dictWriteOp sunk
  exact ⟨e, he, by rw [hi, writeAccess_of_heeds h.1 hix hsub a sunk (fifoSub_of_entry he), hop]⟩

/-- An entry of no group is written by its own rule. -/
theorem entryWrite_single (s : State) (r : Requester) (cls : Class) (v : Nat) (sunk : Sunk) (hg : grpOf (BitVec.ofNat 16 ix) (BitVec.ofNat 8 sub) = none) :
    entryWrite s r ix sub cls v sunk = singleWrite s r ix sub v sunk := by rw [entryWrite, hg]

/-- A write whose rule is done at once completes. -/
theorem Serves.completes (h : Serves s r ix sub a v) {i : Instr} {sunk : Sunk} {f : State → State} (hix : ix < 65536) (hsub : sub < 256)
    (hi : Machine.exec i s = .next (writeAccess s r ix sub a sunk)) (hg : grpOf (BitVec.ofNat 16 ix) (BitVec.ofNat 8 sub) = none)
    (hw : singleWrite (heard s r) r ix sub v sunk = (f (heard s r), .done)) : Completes i s r ix sub v f := by
  obtain ⟨e, he, hop⟩ := h.exec hix hsub hi
  rw [entryWrite_single _ _ _ _ _ hg, hw] at hop
  exact ⟨e, he, hop⟩

/-- A write whose rule refuses it without effect is refused. -/
theorem Serves.refuses (h : Serves s r ix sub a v) {i : Instr} {sunk : Sunk} {code : Nat} (hix : ix < 65536) (hsub : sub < 256)
    (hi : Machine.exec i s = .next (writeAccess s r ix sub a sunk)) (hg : grpOf (BitVec.ofNat 16 ix) (BitVec.ofNat 8 sub) = none)
    (hw : singleWrite (heard s r) r ix sub v sunk = (heard s r, .refused code)) : Refuses i s r ix sub code := by
  obtain ⟨e, he, hop⟩ := h.exec hix hsub hi
  rw [entryWrite_single _ _ _ _ _ hg, hw] at hop
  exact hop

/-- A write whose rule holds its completion. -/
theorem Serves.holds (h : Serves s r ix sub a v) {i : Instr} {sunk : Sunk} {t : State} (hix : ix < 65536) (hsub : sub < 256)
    (hi : Machine.exec i s = .next (writeAccess s r ix sub a sunk)) (hg : grpOf (BitVec.ofNat 16 ix) (BitVec.ofNat 8 sub) = none)
    (hw : singleWrite (heard s r) r ix sub v sunk = (t, .held)) : ∃ e, entryAt s r ix sub = some e ∧
      Machine.exec i s = .next (answerWrite (forwardSingle t ix sub v e) r ix sub .held) := by
  obtain ⟨e, he, hop⟩ := h.exec hix hsub hi
  rw [entryWrite_single _ _ _ _ _ hg, hw] at hop
  exact ⟨e, he, hop⟩

end Served

end Sys2Proof.Machine

/-! PROOF. Plain entries of the dictionary: O46. -/
namespace Sys2Proof.Machine

/-! ### Where a write of a plain entry goes -/

section Places

variable (s : State) (r : Requester) (u v : Nat) (sunk : Sunk)

theorem singleWrite_part (p : PartId) : singleWrite s r (0x2000 + p.val) u v sunk = partWrite s r p u v := by
  have hp : (⟨0x2000 + p.val - 0x2000, by omega⟩ : PartId) = p := Fin.ext (by simp only; omega)
  rw [singleWrite, if_neg (by omega), if_neg (by omega), dif_pos ⟨by omega, by omega⟩, hp]

theorem singleWrite_engine (n : VeId) : singleWrite s r (0x3000 + n.val) u v sunk = (engineWrite s n u v sunk, .done) := by
  have hn : (⟨0x3000 + n.val - 0x3000, by omega⟩ : VeId) = n := Fin.ext (by simp only; omega)
  rw [singleWrite, if_neg (by omega), if_neg (by omega), dif_neg (by omega), dif_neg (by omega), dif_pos ⟨by omega, by omega⟩, hn]

theorem singleWrite_mem : singleWrite s r 0x4000 u v sunk = (memEntryWrite s u v, .done) := by
  rw [singleWrite, if_neg (by omega), if_neg (by omega), dif_neg (by omega), dif_neg (by omega), dif_neg (by omega), if_pos rfl]

theorem singleWrite_bank (b : BankId) : singleWrite s r (0x5000 + b.val) u v sunk = bankWrite s r b u v := by
  have hb : (⟨0x5000 + b.val - 0x5000, by omega⟩ : BankId) = b := Fin.ext (by simp only; omega)
  rw [singleWrite, if_neg (by omega), if_neg (by omega), dif_neg (by omega), dif_neg (by omega), dif_neg (by omega), if_neg (by omega),
    dif_neg (by omega), dif_pos ⟨by omega, by omega⟩, hb]

theorem singleWrite_source (x : SrcId) : singleWrite s r (0x6100 + x.val) u v sunk = (sourceWrite s x u v, .done) := by
  have hx : (⟨0x6100 + x.val - 0x6100, by omega⟩ : SrcId) = x := Fin.ext (by simp only; omega)
  rw [singleWrite, if_neg (by omega), if_neg (by omega), dif_neg (by omega), dif_neg (by omega), dif_neg (by omega), if_neg (by omega),
    dif_neg (by omega), dif_neg (by omega), dif_pos ⟨by omega, by omega⟩, hx]

theorem singleWrite_power : singleWrite s r 0x7000 u v sunk = (powerWrite s u v, .done) := by
  rw [singleWrite, if_neg (by omega), if_neg (by omega), dif_neg (by omega), dif_neg (by omega), dif_neg (by omega), if_neg (by omega),
    dif_neg (by omega), dif_neg (by omega), dif_neg (by omega), if_pos rfl]

theorem singleWrite_twin : singleWrite s r 0x8100 u v sunk = twinWrite s u v := by
  rw [singleWrite, if_neg (by omega), if_neg (by omega), dif_neg (by omega), dif_neg (by omega), dif_neg (by omega), if_neg (by omega),
    dif_neg (by omega), dif_neg (by omega), dif_neg (by omega), if_neg (by omega), dif_neg (by omega), dif_neg (by omega), if_pos rfl]

theorem singleWrite_clock : singleWrite s r 0xA000 u v sunk = (clockWrite s u v, .done) := by
  rw [singleWrite, if_neg (by omega), if_neg (by omega), dif_neg (by omega), dif_neg (by omega), dif_neg (by omega), if_neg (by omega),
    dif_neg (by omega), dif_neg (by omega), dif_neg (by omega), if_neg (by omega), dif_neg (by omega), dif_neg (by omega), if_neg (by omega),
    if_neg (by omega), if_pos rfl]

theorem singleWrite_stageTimeout : singleWrite s r 0x1F00 u v sunk =
    ({ s with dict := { s.dict with stageTimeout := BitVec.ofNat 32 v } }, .done) := by rw [singleWrite, if_neg (by omega), if_pos rfl]

theorem singleWrite_stream (p : PartId) (k : Fin 8) : singleWrite s r (0xF000 + 8 * p.val + k.val) u v sunk = streamWrite s p k u v := by
  have hp : (⟨(0xF000 + 8 * p.val + k.val - 0xF000) / 8, by omega⟩ : PartId) = p := Fin.ext (by simp only; omega)
  have hk : (⟨(0xF000 + 8 * p.val + k.val - 0xF000) % 8, by omega⟩ : Fin 8) = k := Fin.ext (by simp only; omega)
  rw [singleWrite, if_neg (by omega), if_neg (by omega), dif_neg (by omega), dif_neg (by omega), dif_neg (by omega), if_neg (by omega),
    dif_neg (by omega), dif_neg (by omega), dif_neg (by omega), if_neg (by omega), dif_neg (by omega), dif_neg (by omega), if_neg (by omega),
    if_neg (by omega), if_neg (by omega), dif_pos ⟨by omega, by omega⟩, hp, hk]

/-! The entries that belong to no group (Table 12.10). -/

variable {u}

theorem grpOf_part_none (p : PartId) (hu : u < 256) (h : u ∉ [0x10, 0x23, 0x24, 0x30, 0x31, 0x32, 0x33, 0x47, 0x48, 0x50, 0x70, 0x71, 0xFD, 0xFE, 0xFF]) :
    grpOf (BitVec.ofNat 16 (0x2000 + p.val)) (BitVec.ofNat 8 u) = none := by
  have hi : (BitVec.ofNat 16 (0x2000 + p.val)).toNat = 0x2000 + p.val := Nat.mod_eq_of_lt (by omega)
  have hs : (BitVec.ofNat 8 u).toNat = u := Nat.mod_eq_of_lt hu
  simp only [grpOf, hi, hs]
  rw [dif_pos ⟨by omega, by omega⟩, if_neg h]

theorem grpOf_bank_none (b : BankId) (hu : u < 256) (h : u ∉ [1, 0xFD, 0xFE, 0xFF]) :
    grpOf (BitVec.ofNat 16 (0x5000 + b.val)) (BitVec.ofNat 8 u) = none := by
  have hi : (BitVec.ofNat 16 (0x5000 + b.val)).toNat = 0x5000 + b.val := Nat.mod_eq_of_lt (by omega)
  have hs : (BitVec.ofNat 8 u).toNat = u := Nat.mod_eq_of_lt hu
  simp only [grpOf, hi, hs]
  rw [dif_neg (by omega), dif_neg (by omega), dif_pos ⟨by omega, by omega⟩, if_neg h]

theorem grpOf_stream_none (p : PartId) (k : Fin 8) (hu : u < 256) (h : u ∉ [1, 2, 0xFD, 0xFE, 0xFF]) :
    grpOf (BitVec.ofNat 16 (0xF000 + 8 * p.val + k.val)) (BitVec.ofNat 8 u) = none := by
  have hi : (BitVec.ofNat 16 (0xF000 + 8 * p.val + k.val)).toNat = 0xF000 + 8 * p.val + k.val := Nat.mod_eq_of_lt (by omega)
  have hs : (BitVec.ofNat 8 u).toNat = u := Nat.mod_eq_of_lt hu
  simp only [grpOf, hi, hs]
  rw [dif_neg (by omega), dif_pos ⟨by omega, by omega⟩, if_neg h]

/-- An index that is no partition's, stream's, bank's, the memory's, reefs' or slots'. -/
theorem grpOf_other_none {ix : Nat} (hix : ix < 65536) (h1 : ¬ (0x2000 ≤ ix ∧ ix < 0x2010)) (h2 : ¬ (0xF000 ≤ ix ∧ ix < 0xF080))
    (h3 : ¬ (0x5000 ≤ ix ∧ ix < 0x5100)) (h4 : ix ≠ 0x4000) (h5 : ix ≠ 0x7100) (h6 : ix ≠ 0x7200) (sub : Byte) :
    grpOf (BitVec.ofNat 16 ix) sub = none := by
  have hi : (BitVec.ofNat 16 ix).toNat = ix := Nat.mod_eq_of_lt hix
  simp only [grpOf, hi]
  rw [dif_neg h1, dif_neg h2, dif_neg h3, if_neg h4, if_neg h5, if_neg h6]

end Places

/-! ### O46 -/

/-- Where the dirty map's base is 0 it meets no placement, and else it meets a flat one as intervals do (Table 15.7). -/
theorem placeMap_flat (s : State) (x : Place) (hm : s.twin.mapBase.toNat ≠ 0) (hsz : x.size ≠ 0) (hmode : x.mode = 0) :
    placeMap s x = true ↔ hbmLo + x.base * gib < s.twin.mapBase.toNat + 393216 ∧ s.twin.mapBase.toNat < hbmLo + (x.base + x.size) * gib := by
  have hg : x.size * gib ≠ 0 := Nat.mul_ne_zero hsz (by decide)
  rw [placeMap]
  simp only [hm, hsz, or_self, if_false, hmode, if_true, meet, decide_eq_true_eq]
  rw [Nat.add_mul]
  omega

theorem placeMap_zero (s : State) (x : Place) (hm : s.twin.mapBase.toNat = 0) : placeMap s x = false := by
  simp only [placeMap, hm, true_or, if_true]

/-- A write to TWIN_MAP_BASE is refused where a partition's placement meets the map, else it puts its value in force. -/
theorem twinWrite_mapBase (s : State) (v : Nat) : twinWrite s 6 v =
    if (List.finRange 16).any (fun p : PartId => placeMap { s with twin := { s.twin with mapBase := BitVec.ofNat 64 v } } (placeOf s.parts[p].cfg)) then (s, .refused 0x0014)
    else ({ s with twin := { s.twin with mapBase := BitVec.ofNat 64 v } }, .done) := by
  rw [twinWrite, if_neg (by omega), if_neg (by omega), if_neg (by omega), if_pos rfl]

/-- The command that writes a plain entry is a write of that entry. -/
theorem exec_registerWrite_at (s : State) (r : Requester) (a : DAcc) {ix sub : Nat} (hix : ix < 65536) (hsub : sub < 256) :
    exec (.registerWrite r (BitVec.ofNat 16 ix) (BitVec.ofNat 8 sub) a) s = .next (writeAccess s r ix sub a []) := by
  have hi : (BitVec.ofNat 16 ix).toNat = ix := Nat.mod_eq_of_lt hix
  have hs : (BitVec.ofNat 8 sub).toNat = sub := Nat.mod_eq_of_lt hsub
  rw [exec_registerWrite, execRegisterWrite, hi, hs]

section Registers

variable {s : State} {r : Requester} {a : DAcc} {v : Nat}

/-- A plain entry of no group takes its value. -/
theorem registerWrite_completes {ix sub : Nat} {f : State → State} (hix : ix < 65536) (hsub : sub < 256)
    (hg : grpOf (BitVec.ofNat 16 ix) (BitVec.ofNat 8 sub) = none) (hw : ∀ t, singleWrite t r ix sub v [] = (f t, .done)) (h : Serves s r ix sub a v) :
    Completes (.registerWrite r (BitVec.ofNat 16 ix) (BitVec.ofNat 8 sub) a) s r ix sub v f :=
  h.completes hix hsub (exec_registerWrite_at s r a hix hsub) hg (hw _)

theorem registerWrite_part (p : PartId) (sub : Nat) (f : State → State) (hsub : sub < 256)
    (hu : sub ∉ [0x10, 0x23, 0x24, 0x30, 0x31, 0x32, 0x33, 0x47, 0x48, 0x50, 0x70, 0x71, 0xFD, 0xFE, 0xFF])
    (hw : ∀ t, partWrite t r p sub v = (f t, .done)) (h : Serves s r (0x2000 + p.val) sub a v) :
    Completes (.registerWrite r (BitVec.ofNat 16 (0x2000 + p.val)) (BitVec.ofNat 8 sub) a) s r (0x2000 + p.val) sub v f :=
  registerWrite_completes (by omega) hsub (grpOf_part_none p hsub hu) (fun t => (singleWrite_part t r sub v [] p).trans (hw t)) h

theorem registerWrite_engine (n : VeId) (sub : Nat) (f : State → State) (hsub : sub < 256) (hw : ∀ t, engineWrite t n sub v [] = f t)
    (h : Serves s r (0x3000 + n.val) sub a v) :
    Completes (.registerWrite r (BitVec.ofNat 16 (0x3000 + n.val)) (BitVec.ofNat 8 sub) a) s r (0x3000 + n.val) sub v f :=
  registerWrite_completes (by omega) hsub (grpOf_other_none (by omega) (by omega) (by omega) (by omega) (by omega) (by omega) (by omega) _)
    (fun t => by rw [singleWrite_engine, hw]) h

theorem registerWrite_source (x : SrcId) (sub : Nat) (f : State → State) (hsub : sub < 256) (hw : ∀ t, sourceWrite t x sub v = f t)
    (h : Serves s r (0x6100 + x.val) sub a v) :
    Completes (.registerWrite r (BitVec.ofNat 16 (0x6100 + x.val)) (BitVec.ofNat 8 sub) a) s r (0x6100 + x.val) sub v f :=
  registerWrite_completes (by omega) hsub (grpOf_other_none (by omega) (by omega) (by omega) (by omega) (by omega) (by omega) (by omega) _)
    (fun t => by rw [singleWrite_source, hw]) h

theorem registerWrite_mem (sub : Nat) (f : State → State) (hsub : sub < 256) (hu : sub ∉ [1, 0xFD, 0xFE, 0xFF]) (hw : ∀ t, memEntryWrite t sub v = f t)
    (h : Serves s r 0x4000 sub a v) : Completes (.registerWrite r (BitVec.ofNat 16 0x4000) (BitVec.ofNat 8 sub) a) s r 0x4000 sub v f := by
  refine registerWrite_completes (by omega) hsub ?_ (fun t => by rw [singleWrite_mem, hw]) h
  have hs : (BitVec.ofNat 8 sub).toNat = sub := Nat.mod_eq_of_lt hsub
  simp only [grpOf, hs, if_neg hu]
  rfl

theorem registerWrite_power (sub : Nat) (f : State → State) (hsub : sub < 256) (hw : ∀ t, powerWrite t sub v = f t)
    (h : Serves s r 0x7000 sub a v) : Completes (.registerWrite r (BitVec.ofNat 16 0x7000) (BitVec.ofNat 8 sub) a) s r 0x7000 sub v f :=
  registerWrite_completes (by omega) hsub (grpOf_other_none (by omega) (by omega) (by omega) (by omega) (by omega) (by omega) (by omega) _)
    (fun t => by rw [singleWrite_power, hw]) h

theorem registerWrite_clock (sub : Nat) (f : State → State) (hsub : sub < 256) (hw : ∀ t, clockWrite t sub v = f t)
    (h : Serves s r 0xA000 sub a v) : Completes (.registerWrite r (BitVec.ofNat 16 0xA000) (BitVec.ofNat 8 sub) a) s r 0xA000 sub v f :=
  registerWrite_completes (by omega) hsub (grpOf_other_none (by omega) (by omega) (by omega) (by omega) (by omega) (by omega) (by omega) _)
    (fun t => by rw [singleWrite_clock, hw]) h

end Registers

/-- Settles O46: each plain entry's own rule puts its value in force; TWIN_MAP_BASE first asks whether the dirty map meets a placement. -/
theorem registerWrites : Obligations.RegisterWrites := by
  intro s r a v
  refine ⟨fun p => ⟨?_, ?_, ?_, ?_, ?_, ?_, ?_, ?_⟩, fun n => ⟨?_, ?_⟩, ?_, ?_, ?_, fun b => ?_, fun x => ⟨?_, ?_, ?_, ?_⟩, ?_, ?_, ?_, ?_, ?_, ?_, ?_, ?_,
    ?_, ?_, ?_, ?_⟩
  · exact registerWrite_part p 0x40 _ (by decide) (by decide) fun t => rfl
  · exact registerWrite_part p 0x42 _ (by decide) (by decide) fun t => rfl
  · exact registerWrite_part p 0x43 _ (by decide) (by decide) fun t => rfl
  · exact registerWrite_part p 0x51 _ (by decide) (by decide) fun t => rfl
  · exact registerWrite_part p 0x52 _ (by decide) (by decide) fun t => rfl
  · exact registerWrite_part p 0x53 _ (by decide) (by decide) fun t => rfl
  · exact registerWrite_part p 0x60 _ (by decide) (by decide) fun t => rfl
  · exact registerWrite_part p 0x61 _ (by decide) (by decide) fun t => rfl
  · exact registerWrite_engine n 0x20 _ (by decide) fun t => rfl
  · exact registerWrite_engine n 0x21 _ (by decide) fun t => rfl
  · exact registerWrite_mem 2 _ (by decide) (by decide) fun t => rfl
  · exact registerWrite_mem 5 _ (by decide) (by decide) fun t => rfl
  · exact registerWrite_mem 6 _ (by decide) (by decide) fun t => rfl
  · exact registerWrite_completes (by omega) (by decide) (grpOf_bank_none b (by decide) (by decide)) fun t => singleWrite_bank t r 0x10 v [] b
  · exact registerWrite_source x 2 _ (by decide) fun t => rfl
  · exact registerWrite_source x 3 _ (by decide) fun t => rfl
  · exact registerWrite_source x 4 _ (by decide) fun t => rfl
  · exact registerWrite_source x 5 _ (by decide) fun t => rfl
  · exact registerWrite_power 1 _ (by decide) fun t => rfl
  · exact registerWrite_power 3 _ (by decide) fun t => rfl
  · exact registerWrite_power 4 _ (by decide) fun t => rfl
  · exact registerWrite_power 5 _ (by decide) fun t => rfl
  · exact registerWrite_power 8 _ (by decide) fun t => rfl
  · exact registerWrite_completes (by decide) (by decide)
      (grpOf_other_none (by decide) (by decide) (by decide) (by decide) (by decide) (by decide) (by decide) _) fun t => singleWrite_stageTimeout t r 1 v []
  · exact registerWrite_clock 0x41 _ (by decide) fun t => rfl
  · exact registerWrite_clock 0x44 _ (by decide) fun t => rfl
  · intro hmeets h
    refine h.completes (by decide) (by decide) (exec_registerWrite_at s r a (by decide) (by decide))
      (grpOf_other_none (by decide) (by decide) (by decide) (by decide) (by decide) (by decide) (by decide) _) ?_
    rw [singleWrite_twin, twinWrite_mapBase, if_neg]
    rw [List.any_eq_true]
    rintro ⟨p, -, hp⟩
    exact absurd hp (ne_true_of_eq_false (hmeets p))
  · intro p hp h
    refine h.refuses (by decide) (by decide) (exec_registerWrite_at s r a (by decide) (by decide))
      (grpOf_other_none (by decide) (by decide) (by decide) (by decide) (by decide) (by decide) (by decide) _) ?_
    rw [singleWrite_twin, twinWrite_mapBase, if_pos]
    rw [List.any_eq_true]
    exact ⟨p, List.mem_finRange p, hp⟩
  · rintro rfl p
    exact placeMap_zero _ _ rfl
  · intro p c hv0 hlt hsz hmode
    have hv : (BitVec.ofNat 64 v).toNat = v := Nat.mod_eq_of_lt hlt
    have hsz' : c.hbmSize.toNat ≠ 0 := fun h => hsz (BitVec.eq_of_toNat_eq h)
    have hmode' : c.hbmMode.toNat = 0 := by rw [hmode]; rfl
    have h := placeMap_flat { s with twin := { s.twin with mapBase := BitVec.ofNat 64 v } } (placeOf c) (hv.trans_ne hv0) hsz' hmode'
    simp only [hv] at h
    exact h

end Sys2Proof.Machine

/-! PROOF. Entries with an effect of their own: O45. -/
namespace Sys2Proof.Machine

/-! ### What a delivery leaves of the sources' configuration -/

section Sources

variable (s : State)

theorem modRing_ev_src (r : RingId) (f : Ring → Ring) : (modRing s r f).ev.src = s.ev.src := by
  cases r <;> rfl

theorem msixSend_ev (h : PortId) (v : Nat) : (msixSend s h v).ev = s.ev := by
  unfold msixSend
  split
  · rfl
  · rfl

/-- Sending what is armed is sending messages and putting arms down, one by one (R294). -/
theorem msix_induct {P : State → Prop} (p : PartId) (hs : P s) (hsend : ∀ t h v, P t → P (msixSend t h v)) (hput : ∀ t f, P t → P (modPart t p f)) :
    P (msix s p) := by
  have hcond : ∀ (t : State) (c : Prop) [Decidable c] (h : PortId) (v : Nat) (f : Partition → Partition), P t → P (if c then modPart (msixSend t h v) p f else t) := by
    intro t c _ h v f ht
    split
    · exact hput _ _ (hsend _ _ _ ht)
    · exact ht
  unfold msix
  dsimp only
  by_cases hl : s.ports[ownerOf s p].link ≠ 2
  · rw [if_pos hl]
    exact hs
  · rw [if_neg hl]
    exact hcond _ _ _ _ _ (hcond _ _ _ _ _ (hcond _ _ _ _ _ hs))

theorem msix_ev (p : PartId) : (msix s p).ev = s.ev :=
  msix_induct s (P := fun t => t.ev = s.ev) p rfl (fun t h v ht => (msixSend_ev t h v).trans ht) fun _ _ ht => ht

theorem ringAppend_ev_src (r : RingId) (e : EvRec) : (ringAppend s r e).ev.src = s.ev.src := by
  unfold ringAppend
  cases r with
  | sv => rfl
  | seq n => rfl
  | host p =>
    dsimp only
    rw [msix_ev]
    rfl

theorem deliverAs_ev_src (a : Arrival) (r : RingId) (code : Byte) (ret : Bool) : (deliverAs s a r code ret).ev.src = s.ev.src := by
  unfold deliverAs
  simp only
  split
  · exact modRing_ev_src _ _ _
  · split
    · exact modRing_ev_src _ _ _
    · exact ringAppend_ev_src _ _ _

theorem deliver_ev_src (a : Arrival) (r : RingId) (code : Byte) (ret : Bool) : (deliver s a r code ret).ev.src = s.ev.src := by
  unfold deliver
  simp only
  split
  · exact deliverAs_ev_src _ _ _ _ _
  · exact deliverAs_ev_src _ _ _ _ _

theorem putMoved_ev_src (r : RingId) (e : EvRec) : (putMoved s r e).ev.src = s.ev.src := by
  unfold putMoved
  split
  · exact modRing_ev_src _ _ _
  · exact ringAppend_ev_src _ _ _

theorem wakeFor_ev (x : SrcId) (r : RingId) : (wakeFor s x r).ev = s.ev := by
  cases r with
  | seq n =>
    simp only [wakeFor]
    split
    · rfl
    · rfl
  | sv => rfl
  | host p => rfl

theorem resend_ev_src (a : Arrival) (code : Byte) (nr : RingId) (ret : Bool) : (resend s a code nr ret).ev.src = s.ev.src := by
  have h1 : (wakeFor (deliverAs s a nr code ret) a.src nr).ev.src = s.ev.src := by rw [wakeFor_ev, deliverAs_ev_src]
  unfold resend
  simp only
  split
  · split
    · exact (deliver_ev_src _ _ _ _ _).trans h1
    · exact h1
  · exact h1

/-- A fold of steps that leave the sources alone leaves them alone. -/
theorem foldl_ev_src {α : Type} (f : State → α → State) (hf : ∀ t x, (f t x).ev.src = t.ev.src) (l : List α) : (l.foldl f s).ev.src = s.ev.src := by
  induction l generalizing s with
  | nil => rfl
  | cons x l ih => exact (ih (f s x)).trans (hf s x)

theorem retargetRing_ev_src (x : SrcId) (old v : Byte) (r : RingId) : (retargetRing x old v s r).ev.src = s.ev.src := by
  unfold retargetRing
  simp only
  split
  · rw [foldl_ev_src _ _ fun t h => deliverAs_ev_src t _ _ _ _, modRing_ev_src]
  · rw [foldl_ev_src]
    · split
      · exact modRing_ev_src _ _ _
      · split
        · exact (putMoved_ev_src _ _ _).trans (modRing_ev_src _ _ _)
        · exact modRing_ev_src _ _ _
    · intro t h
      split
      · exact resend_ev_src _ _ _ _ _
      · rfl

/-- TARGET takes its value, and no other source is touched (R351). -/
theorem retarget_ev_src (x : SrcId) (b : Byte) : (retarget s x b).ev.src = updV s.ev.src x fun c => { c with target := b } := by
  unfold retarget
  simp only
  split
  · next h =>
    subst h
    rw [updV]
    exact (Vector.set_getElem_self _).symm
  · exact foldl_ev_src _ _ (fun t r => retargetRing_ev_src t _ _ _ _) _

end Sources

/-! ### Entries of the partitions and streams -/

/-- Two changes of one partition are one change. -/
theorem modPart_modPart (s : State) (p : PartId) (f g : Partition → Partition) : modPart (modPart s p f) p g = modPart s p fun q => g (f q) := by
  simp only [modPart, updV, Fin.getElem_fin, Vector.getElem_set_self, Vector.set_set]

/-- A change of a partition is what it makes of that partition. -/
theorem modPart_congr (s : State) (p : PartId) {f g : Partition → Partition} (h : f s.parts[p] = g s.parts[p]) : modPart s p f = modPart s p g := by
  rw [modPart, modPart, updV, updV, h]

section Own

variable (s : State) (r : Requester) (v : Nat)

/-- What LOAD_RESET empties (R27), before what waits is looked at again. -/
def loadCleared (s : State) (p : PartId) : State :=
  let none' (b : InBlock) : InBlock := { b with mark := 0, left := 0 }
  let s1 := modPart s p fun q =>
    { q with imageState := 0, image := none, bind := [], load := [], loadQ := [], exchSlotsAct := 0, swapDue := false
             cfg := { q.cfg with exchShadowSlots := 0, exchSwap := false }
             frames := [], saved := [], fenced := false }
  let s2 := modStream s1 p 1 fun st => { st with cur := st.cur.map none', recvd := st.recvd.map none' }
  modStream s2 p 3 fun st => { st with ready := [] }

theorem loadReset_eq (p : PartId) : loadReset s p = kick (loadCleared s p) p := rfl

theorem modStream_same (p : PartId) (k : Fin 8) (f : Stream → Stream) :
    (modStream s p k f).parts[p] = { s.parts[p] with streams := updV s.parts[p].streams k f } := by
  rw [modStream, modPart_same]

theorem loadCleared_part (p : PartId) : ∃ q : Partition, (loadCleared s p).parts[p] = q ∧ q.imageState = 0 ∧ q.image = none ∧ q.bind = [] ∧
    q.fenced = false ∧ q.exchSlotsAct = 0 ∧ q.designCycle = s.parts[p].designCycle := by
  refine ⟨_, rfl, ?_⟩
  rw [loadCleared]
  dsimp only
  rw [modStream_same, modStream_same, modPart_same]
  exact ⟨rfl, rfl, rfl, rfl, rfl, rfl⟩

theorem partWrite_loadReset_zero (p : PartId) : partWrite s r p 0x22 0 = (s, .done) := rfl

theorem partWrite_loadReset_one (p : PartId) : partWrite s r p 0x22 1 = if s.parts[p].imageState = 3 then (s, .refused 0x0007) else (loadReset s p, .done) := rfl

theorem partWrite_editSlot (p : PartId) : partWrite s r p 0x41 v = (editSlot s p v, .done) := rfl

theorem partWrite_editGo (p : PartId) : partWrite s r p 0x44 v = editGo s r p := rfl

theorem editTable_slot (q : Partition) : editTable { q with exchEditSlot := BitVec.ofNat 16 v } =
    q.exchTables[if v.testBit 15 then shadowTable q else actTable q] := by
  have hbit : bit (BitVec.ofNat 16 v) 15 = v.testBit 15 := by
    rw [bit, BitVec.toNat_ofNat, Nat.testBit_mod_two_pow]
    simp
  have hi : (if bit (BitVec.ofNat 16 v) 15 then shadowTable q else actTable q) = if v.testBit 15 then shadowTable q else actTable q := by rw [hbit]
  exact congrArg (fun i : Fin 2 => q.exchTables[i]) hi

/-- A new slot number brings that slot's words from the table it names. -/
theorem editSlot_eq (p : PartId) : editSlot s p v = modPart s p fun q =>
    { q with
      exchEditSlot := BitVec.ofNat 16 v
      exchEditW0 := (nth (q.exchTables[if v.testBit 15 then shadowTable q else actTable q]) (v % 4096) (0, 0)).1
      exchEditW1 := (nth (q.exchTables[if v.testBit 15 then shadowTable q else actTable q]) (v % 4096) (0, 0)).2 } := by
  rw [editSlot, modPart_same, editTable_slot, modPart_modPart]
  exact modPart_congr s p (by rfl)

theorem editGo_notLoaded (p : PartId) {im : Image} (him : s.parts[p].image = some im) (h2 : s.parts[p].imageState ≠ 2) (h3 : s.parts[p].imageState ≠ 3) :
    editGo s r p = (s, .refused 0x0007) := by
  simp only [editGo, him, h2, h3, ne_eq, not_false_eq_true, and_self, if_true]

theorem editGo_reserved (p : PartId) {im : Image} (him : s.parts[p].image = some im) (hst : s.parts[p].imageState = 2 ∨ s.parts[p].imageState = 3)
    (hres : slotReserved (s.parts[p].exchEditW0, s.parts[p].exchEditW1) = true) : editGo s r p = (s, .refused 0x0006) := by
  have hst' : ¬ (s.parts[p].imageState ≠ 2 ∧ s.parts[p].imageState ≠ 3) := by tauto
  simp only [editGo, him, if_neg hst', hres, if_true]

theorem editGo_bad (p : PartId) {im : Image} (him : s.parts[p].image = some im) (hst : s.parts[p].imageState = 2 ∨ s.parts[p].imageState = 3)
    (hres : slotReserved (s.parts[p].exchEditW0, s.parts[p].exchEditW1) = false)
    (hbad : slotFields im (s.parts[p].exchEditSlot.toNat % 4096) (editTable s.parts[p]) (s.parts[p].exchEditW0, s.parts[p].exchEditW1) = false ∨
      slotRegions s p im (s.parts[p].exchEditW0, s.parts[p].exchEditW1) = false) : editGo s r p = (s, .refused 0x0005) := by
  have hst' : ¬ (s.parts[p].imageState ≠ 2 ∧ s.parts[p].imageState ≠ 3) := by tauto
  have hor : (!slotFields im (s.parts[p].exchEditSlot.toNat % 4096) (editTable s.parts[p]) (s.parts[p].exchEditW0, s.parts[p].exchEditW1) ||
      !slotRegions s p im (s.parts[p].exchEditW0, s.parts[p].exchEditW1)) = true := by
    rcases hbad with h | h
    · rw [h]
      rfl
    · rw [h]
      exact Bool.or_true _
  unfold editGo
  simp only [him, if_neg hst', hres, Bool.false_eq_true, if_false, hor, if_true]

/-- An edit that passes the checks lands, or is held until the slots of this phase have been taken (R281). -/
theorem editGo_of_checks (p : PartId) {im : Image} (him : s.parts[p].image = some im) (hst : s.parts[p].imageState = 2 ∨ s.parts[p].imageState = 3)
    (hres : slotReserved (s.parts[p].exchEditW0, s.parts[p].exchEditW1) = false)
    (hfld : slotFields im (s.parts[p].exchEditSlot.toNat % 4096) (editTable s.parts[p]) (s.parts[p].exchEditW0, s.parts[p].exchEditW1) = true)
    (hreg : slotRegions s p im (s.parts[p].exchEditW0, s.parts[p].exchEditW1) = true) (hfor : forwards s p = false) :
    editGo s r p =
      let e := editAt s p (s.parts[p].exchEditW0, s.parts[p].exchEditW1) (s.parts[p].exchEditSlot.toNat % 4096) (bit s.parts[p].exchEditSlot 15) (some r)
      if e.post then (landEdit p s { e with by' := none }, .done) else (modPart s p fun q => { q with edits := q.edits ++ [e] }, .held) := by
  have hst' : ¬ (s.parts[p].imageState ≠ 2 ∧ s.parts[p].imageState ≠ 3) := by tauto
  unfold editGo
  simp only [him, if_neg hst', hres, hfld, hreg, hfor, Bool.not_true, Bool.or_self, Bool.false_eq_true, if_false]

theorem editGo_lands (p : PartId) {im : Image} (him : s.parts[p].image = some im) (hst : s.parts[p].imageState = 2 ∨ s.parts[p].imageState = 3)
    (hres : slotReserved (s.parts[p].exchEditW0, s.parts[p].exchEditW1) = false)
    (hfld : slotFields im (s.parts[p].exchEditSlot.toNat % 4096) (editTable s.parts[p]) (s.parts[p].exchEditW0, s.parts[p].exchEditW1) = true)
    (hreg : slotRegions s p im (s.parts[p].exchEditW0, s.parts[p].exchEditW1) = true) (hfor : forwards s p = false)
    (hnow : bit s.parts[p].exchEditSlot 15 = true ∨ exchanging s p = false) :
    editGo s r p = (modPart s p fun q =>
      { q with exchTables := updV q.exchTables (if bit s.parts[p].exchEditSlot 15 then shadowTable q else actTable q) fun t =>
          tableSet t (s.parts[p].exchEditSlot.toNat % 4096) (s.parts[p].exchEditW0, s.parts[p].exchEditW1) }, .done) := by
  have hpost : (!(!bit s.parts[p].exchEditSlot 15 && exchanging s p)) = true := by
    rcases hnow with h | h
    · rw [h]
      rfl
    · rw [h, Bool.and_false]
      rfl
  rw [editGo_of_checks s r p him hst hres hfld hreg hfor]
  exact if_pos hpost

theorem editGo_holds (p : PartId) {im : Image} (him : s.parts[p].image = some im) (hst : s.parts[p].imageState = 2 ∨ s.parts[p].imageState = 3)
    (hres : slotReserved (s.parts[p].exchEditW0, s.parts[p].exchEditW1) = false)
    (hfld : slotFields im (s.parts[p].exchEditSlot.toNat % 4096) (editTable s.parts[p]) (s.parts[p].exchEditW0, s.parts[p].exchEditW1) = true)
    (hreg : slotRegions s p im (s.parts[p].exchEditW0, s.parts[p].exchEditW1) = true) (hfor : forwards s p = false)
    (hact : bit s.parts[p].exchEditSlot 15 = false) (hex : exchanging s p = true) :
    ∃ e, editGo s r p = (modPart s p fun q => { q with edits := q.edits ++ [e] }, .held) ∧ e.slot = s.parts[p].exchEditSlot.toNat % 4096 ∧
      e.w0 = s.parts[p].exchEditW0 ∧ e.w1 = s.parts[p].exchEditW1 ∧ e.by' = some r ∧ e.shadow = false := by
  have hpost : ¬ (!(!bit s.parts[p].exchEditSlot 15 && exchanging s p)) = true := by
    rw [hact, hex]
    decide
  refine ⟨_, (editGo_of_checks s r p him hst hres hfld hreg hfor).trans (if_neg hpost), rfl, rfl, rfl, rfl, hact⟩

end Own

/-! ### The entries' rules -/

section Rules

variable (s : State) (r : Requester) (v : Nat)

theorem streamWrite_resync (p : PartId) (k : Fin 8) : streamWrite s p k 8 v =
    (kick (if v = 1 then modStream s p k fun st => { st with discard := false } else s) p, .done) := rfl

theorem streamWrite_replay (p : PartId) (k : Fin 8) : streamWrite s p k 9 v =
    match replayOp s p k (BitVec.ofNat 32 v) with
    | some t => (t, .done)
    | none => (s, .refused 0x0007) := rfl

/-- A block that is being read lets no replay start (R299). -/
theorem replayOp_reading (p : PartId) (k : Fin 8) (w : W32) (h : ∃ b, b ∈ s.parts[p].streams[k].out ∧ b.read ≠ 0) : replayOp s p k w = none := by
  obtain ⟨b, hb, hr⟩ := h
  have hany : (s.parts[p].streams[k].out.any fun b => b.read != 0) = true := List.any_eq_true.2 ⟨b, hb, bne_iff_ne.2 hr⟩
  simp only [replayOp, hany, Bool.true_or, if_true]

theorem replayOp_fenced (p : PartId) (k : Fin 8) (w : W32) (h : s.crc.all (·.fenced) = true) : replayOp s p k w = none := by
  simp only [replayOp, h, Bool.or_true, if_true]

/-- Between blocks a kept block is presented again. -/
theorem replayOp_free (p : PartId) (k : Fin 8) (w : W32) (h : ∀ b, b ∈ s.parts[p].streams[k].out → b.read = 0) (hc : s.crc.all (·.fenced) = false) :
    replayOp s p k w =
      match s.parts[p].streams[k].kept.find? fun b => b.seq == w with
      | some b => some (msix (modStream s p k fun st => { st with out := st.out ++ [{ b with read := 0, replay := true, last := false }] }) p)
      | none => none := by
  have hany : (s.parts[p].streams[k].out.any fun b => b.read != 0) = false := by
    rw [List.any_eq_false]
    intro b hb
    simpa using h b hb
  unfold replayOp
  dsimp only
  rw [hany, hc]
  rfl

theorem sourceWrite_arrivals (x : SrcId) : sourceWrite s x 7 v =
    if v = 1 then { s with ev := { s.ev with src := updV s.ev.src x fun c => { c with arrivals := 0 } } } else s := by
  rw [sourceWrite]
  simp only [show (7 : Nat) ≠ 1 by decide, show (7 : Nat) ≠ 2 by decide, show (7 : Nat) ≠ 3 by decide, show (7 : Nat) ≠ 4 by decide,
    show (7 : Nat) ≠ 5 by decide, if_false, true_and]

theorem singleWrite_slotActive (j : Fin 64) (sunk : Sunk) : singleWrite s r 0x7200 (0x80 + j.val) v sunk = slotActiveWrite s j v := by
  have hj : (⟨0x80 + j.val - 0x80, by omega⟩ : Fin 64) = j := Fin.ext (by simp only; omega)
  rw [singleWrite, if_neg (by omega), if_neg (by omega), dif_neg (by omega), dif_neg (by omega), dif_neg (by omega), if_neg (by omega),
    dif_neg (by omega), dif_neg (by omega), dif_neg (by omega), if_neg (by omega), dif_pos ⟨rfl, by omega, by omega⟩, hj]

theorem grpOf_slotActive (j : Fin 64) : grpOf (BitVec.ofNat 16 0x7200) (BitVec.ofNat 8 (0x80 + j.val)) = none := by
  revert j
  decide

/-- The bits of ALERT_CAUSE whose conditions last. -/
theorem lastingBits : ∀ (hot stopped : Bool) (j : Fin 32), (BitVec.ofNat 32 ((if hot then 4 else 0) + if stopped then 16 else 0)).getLsbD j =
    ((j.val == 2 && hot) || (j.val == 4 && stopped)) := by decide

/-- ALERT_CAUSE loses the bits written with 1, except those whose conditions last (R327). -/
theorem alertWrite_bit (j : Nat) : bit (alertWrite s v).dict.alertCause j = (bit s.dict.alertCause j &&
    !(v.testBit j && decide (j < 32) && !(j == 2 && (s.pw.hot != 0 || (List.finRange 8).any fun i => s.stk[i].hot)) && !(j == 4 && s.ls.state == 2))) := by
  obtain ⟨hot, hhot⟩ := exists_eq (a' := (s.pw.hot != 0 || (List.finRange 8).any fun i => s.stk[i].hot))
  have hcause : (alertWrite s v).dict.alertCause =
      s.dict.alertCause &&& ~~~(BitVec.ofNat 32 v &&& ~~~BitVec.ofNat 32 ((if hot then 4 else 0) + if s.ls.state = 2 then 16 else 0)) := by
    rw [hhot]
    rfl
  rw [← hhot, hcause]
  by_cases hj : j < 32
  · have hkeep : (BitVec.ofNat 32 ((if hot then 4 else 0) + if s.ls.state = 2 then 16 else 0)).getLsbD j = ((j == 2 && hot) || (j == 4 && s.ls.state == 2)) := by
      have h := lastingBits hot (s.ls.state == 2) ⟨j, hj⟩
      simpa using h
    simp only [bit, BitVec.testBit_toNat, BitVec.getLsbD_and, BitVec.getLsbD_not, hkeep, BitVec.getLsbD_ofNat, hj, decide_true, Bool.true_and, Bool.and_true,
      Bool.not_and, Bool.not_not, Bool.not_or, Bool.and_assoc]
  · have hout : ∀ x : W32, bit x j = false := fun x => by
      rw [bit, BitVec.testBit_toNat, BitVec.getLsbD_of_ge x j (Nat.le_of_not_lt hj)]
    rw [hout, hout, Bool.false_and]

end Rules

/-! ### O45 -/

section Single

variable {s : State} {r : Requester} {a : DAcc} {v : Nat}

/-- The state on which SOFT_RESET is written: its reset pins are sampled. -/
def pinned (s : State) (pins : BitVec 2) : State := { s with boot := { s.boot with bootPins := pins } }

theorem entryAt_clock (s : State) (r : Requester) (u : Nat) : entryAt s r 0xA000 u = clockEntry s u := by
  rw [entryAt, if_neg (by omega), if_neg (by omega), dif_neg (by omega), dif_neg (by omega), dif_neg (by omega), if_neg (by omega),
    dif_neg (by omega), dif_neg (by omega), if_neg (by omega), dif_neg (by omega), if_neg (by omega), if_neg (by omega), if_neg (by omega),
    if_neg (by omega), dif_neg (by omega), if_neg (by omega), if_neg (by omega), if_pos rfl]

theorem entryAt_pinned (s : State) (pins : BitVec 2) (r : Requester) (u : Nat) : entryAt (pinned s pins) r 0xA000 u = entryAt s r 0xA000 u := by
  rw [entryAt_clock, entryAt_clock]
  rfl

theorem headCode_pinned (s : State) (pins : BitVec 2) (r : Requester) (u : Nat) (w : Bool) : headCode (pinned s pins) r 0xA000 u w = headCode s r 0xA000 u w := by
  have hw : ∀ ix e, writeRight (pinned s pins) r ix u e = writeRight s r ix u e := fun _ _ => rfl
  have hr : ∀ ix, mayRead (pinned s pins) r ix u = mayRead s r ix u := fun _ => rfl
  have hc : hostCut (pinned s pins) r = hostCut s r := rfl
  have hs : ∀ ix, shutOut (pinned s pins) r ix w = shutOut s r ix w := fun _ => rfl
  have ho : (pinned s pins).dict.isOpen = s.dict.isOpen := rfl
  have hre : restarting (pinned s pins) = restarting s := rfl
  simp only [headCode, entryAt_pinned, hw, hr, hc, hs, ho, hre]

/-- The reset pins are sampled as SOFT_RESET is written; no check asks for them. -/
theorem Serves.withPins (h : Serves s r 0xA000 5 a v) (pins : BitVec 2) : Serves (pinned s pins) r 0xA000 5 a v := by
  obtain ⟨hheeds, hhead, hv, hentry⟩ := h
  refine ⟨hheeds, (headCode_pinned s pins r 5 true).trans hhead, hv, ?_⟩
  rw [entryAt_pinned]
  exact hentry

theorem exec_softReset_pinned (s : State) (pins : BitVec 2) : exec (.softReset r ⟨a, pins⟩) s = .next (writeAccess (pinned s pins) r 0xA000 5 a []) := rfl

theorem clockWrite_softReset (s : State) (v : Nat) : clockWrite s 5 v = { s with boot := { s.boot with softDue := true } } := rfl

/-- What SOFT_RESET leaves is the request and the sampled pins (R419). -/
def softAsked (pins : BitVec 2) (s : State) : State := { s with boot := { s.boot with softDue := true, bootPins := pins } }

theorem softReset_completes (pins : BitVec 2) (h : Serves s r 0xA000 5 a v) : Completes (.softReset r ⟨a, pins⟩) s r 0xA000 5 v (softAsked pins) := by
  obtain ⟨e, he, hop⟩ := (h.withPins pins).dictWriteOp []
  have hacc := writeAccess_of_heeds (s := pinned s pins) h.1 (ix := 0xA000) (sub := 5) (by decide) (by decide) a [] (fifoSub_of_entry he)
  have hg : grpOf (BitVec.ofNat 16 0xA000) (BitVec.ofNat 8 5) = none := rfl
  have hheard : clockWrite (heard (pinned s pins) r) 5 v = softAsked pins (heard s r) := rfl
  rw [entryWrite_single _ _ _ _ _ hg, singleWrite_clock, hheard] at hop
  rw [entryAt_pinned] at he
  exact ⟨e, he, (exec_softReset_pinned s pins).trans (congrArg Host.Outcome.next (hacc.trans hop))⟩

theorem loadReset_completes (p : PartId) (hi : s.parts[p].imageState ≠ 3) (h : Serves s r (0x2000 + p.val) 0x22 a 1) :
    Completes (.loadReset r p a) s r (0x2000 + p.val) 0x22 1 fun s => loadReset s p := by
  refine h.completes (by omega) (by decide) rfl (grpOf_part_none p (by decide) (by decide)) ?_
  rw [singleWrite_part, partWrite_loadReset_one]
  exact if_neg hi

theorem loadReset_refuses (p : PartId) (hi : s.parts[p].imageState = 3) (h : Serves s r (0x2000 + p.val) 0x22 a 1) :
    Refuses (.loadReset r p a) s r (0x2000 + p.val) 0x22 0x0007 := by
  refine h.refuses (by omega) (by decide) rfl (grpOf_part_none p (by decide) (by decide)) ?_
  rw [singleWrite_part, partWrite_loadReset_one]
  exact if_pos hi

theorem replaySeq_refuses (p : PartId) (k : Fin 8) (hn : replayOp (heard s r) p k (BitVec.ofNat 32 v) = none)
    (h : Serves s r (0xF000 + 8 * p.val + k.val) 9 a v) : Refuses (.replaySeq r p k a) s r (0xF000 + 8 * p.val + k.val) 9 0x0007 := by
  refine h.refuses (by omega) (by decide) rfl (grpOf_stream_none p k (by decide) (by decide)) ?_
  rw [singleWrite_stream, streamWrite_replay, hn]

/-- A write of EXCH_EDIT_GO that the edit registers make the device refuse (R281). -/
theorem exchEditGo_refuses (p : PartId) {code : Nat} (he : editGo (heard s r) r p = (heard s r, .refused code))
    (h : Serves s r (0x2000 + p.val) 0x44 a v) : Refuses (.exchEditGo r p a) s r (0x2000 + p.val) 0x44 code := by
  refine h.refuses (by omega) (by decide) rfl (grpOf_part_none p (by decide) (by decide)) ?_
  rw [singleWrite_part, partWrite_editGo, he]

/-- An edit that lands at once, or is held, as the exchange stands (R281). -/
theorem exchEditGo_completes (p : PartId) {f : State → State} (he : editGo (heard s r) r p = (f (heard s r), .done))
    (h : Serves s r (0x2000 + p.val) 0x44 a v) : Completes (.exchEditGo r p a) s r (0x2000 + p.val) 0x44 v f := by
  refine h.completes (by omega) (by decide) rfl (grpOf_part_none p (by decide) (by decide)) ?_
  rw [singleWrite_part, partWrite_editGo, he]

/-- EXCH_EDIT_GO is not forwarded by itself: its slot and words are. -/
theorem forwardSingle_editGo (t : State) (p : PartId) (e : Entry) : forwardSingle t (0x2000 + p.val) 0x44 v e = t := by
  unfold forwardSingle
  have hg : grpOf (BitVec.ofNat 16 (0x2000 + p.val)) (BitVec.ofNat 8 0x44) = none := grpOf_part_none p (by decide) (by decide)
  have hp : 0x2000 ≤ 0x2000 + p.val ∧ 0x2000 + p.val < 0x2010 := ⟨by omega, by omega⟩
  rw [hg, if_pos hp, if_pos rfl]
  split
  · next h => split at h <;> cases h
  · rfl

theorem exchEditGo_held (p : PartId) {t : State} (he : editGo (heard s r) r p = (t, .held)) (h : Serves s r (0x2000 + p.val) 0x44 a v) :
    exec (.exchEditGo r p a) s = .next (answerWrite t r (0x2000 + p.val) 0x44 .held) := by
  obtain ⟨e, -, hop⟩ := h.holds (i := .exchEditGo r p a) (sunk := []) (t := t) (by omega) (by decide) rfl (grpOf_part_none p (by decide) (by decide))
    (by rw [singleWrite_part, partWrite_editGo, he])
  rw [hop, forwardSingle_editGo]

/-- A held write has answered nobody: only the response of the management port is being made. -/
theorem answerWrite_held (t : State) (ix sub : Nat) : (answerWrite t r ix sub .held).parts = t.parts ∧ (answerWrite t r ix sub .held).outs = t.outs := by
  rw [answerWrite]
  split
  · exact ⟨rfl, rfl⟩
  · exact ⟨rfl, rfl⟩

end Single

/-- Settles O45: each of these entries has a rule of its own, and the rule's outcome is the write's. -/
theorem singleEntryWrites : Obligations.SingleEntryWrites := by
  intro s r a v
  refine ⟨fun pins => softReset_completes pins, fun p => ?_, fun n => ?_, fun p => ⟨?_, ?_, ?_, ?_⟩, fun p k => ⟨?_, ?_, ?_, fun hout hcrc => ⟨?_, ?_⟩⟩,
    fun p => ?_, fun p => ⟨?_, ?_⟩, ⟨?_, fun j => alertWrite_bit s v j⟩, fun x => ⟨?_, fun b => ?_, ?_⟩, fun j => ⟨?_, ?_⟩⟩
  · exact fun h => h.completes (by omega) (by decide) rfl (grpOf_part_none p (by decide) (by decide)) (singleWrite_part _ r 0x54 v [] p)
  · refine fun h => h.completes (by omega) (by decide) rfl
      (grpOf_other_none (by omega) (by omega) (by omega) (by omega) (by omega) (by omega) (by omega) _) (singleWrite_engine _ r 0x22 v [] n)
  · rintro rfl h
    exact h.completes (by omega) (by decide) rfl (grpOf_part_none p (by decide) (by decide)) (singleWrite_part _ r 0x22 0 [] p)
  · rintro rfl hi h
    exact loadReset_completes p hi h
  · rintro rfl hi h
    exact loadReset_refuses p hi h
  · obtain ⟨q, hq, h1, h2, h3, h4, h5, h6⟩ := loadCleared_part s p
    refine ⟨loadCleared s p, loadReset_eq s p, rfl, ?_⟩
    rw [hq]
    exact ⟨h1, h2, h3, h4, h5, h6⟩
  · refine fun h => h.completes (by omega) (by decide) rfl (grpOf_stream_none p k (by decide) (by decide)) ?_
    rw [singleWrite_stream, streamWrite_resync]
  · exact fun hread h => replaySeq_refuses p k (replayOp_reading _ p k _ hread) h
  · exact fun hcrc h => replaySeq_refuses p k (replayOp_fenced _ p k _ hcrc) h
  · intro hnone h
    refine replaySeq_refuses p k ?_ h
    have hfree := replayOp_free (heard s r) p k (BitVec.ofNat 32 v) hout hcrc
    have hnone' : (heard s r).parts[p].streams[k].kept.find? (fun b => b.seq == BitVec.ofNat 32 v) = none := hnone
    rw [hfree, hnone']
  · intro b hb h
    refine h.completes (by omega) (by decide) rfl (grpOf_stream_none p k (by decide) (by decide)) ?_
    have hfree := replayOp_free (heard s r) p k (BitVec.ofNat 32 v) hout hcrc
    have hb' : (heard s r).parts[p].streams[k].kept.find? (fun b => b.seq == BitVec.ofNat 32 v) = some b := hb
    rw [singleWrite_stream, streamWrite_replay, hfree, hb']
  · refine fun h => h.completes (by omega) (by decide) rfl (grpOf_part_none p (by decide) (by decide)) ?_
    rw [singleWrite_part, partWrite_editSlot, editSlot_eq]
  · intro him h
    refine exchEditGo_refuses p ?_ h
    have him' : (heard s r).parts[p].image = none := him
    rw [editGo, him']
  · intro im him
    have him' : (heard s r).parts[p].image = some im := him
    refine ⟨fun h2 h3 h => exchEditGo_refuses p ?_ h, fun hst => ⟨fun hres h => exchEditGo_refuses p ?_ h, fun hres hbad h => exchEditGo_refuses p ?_ h,
      fun hres hfld hreg hfor => ⟨fun hnow h => exchEditGo_completes p ?_ h, fun hsh hex h => ?_⟩⟩⟩
    · exact editGo_notLoaded (heard s r) r p him' h2 h3
    · exact editGo_reserved (heard s r) r p him' hst hres
    · exact editGo_bad (heard s r) r p him' hst hres hbad
    · exact editGo_lands (heard s r) r p him' hst hres hfld hreg hfor hnow
    · obtain ⟨e, hgo, hrest⟩ := editGo_holds (heard s r) r p him' hst hres hfld hreg hfor hsh hex
      have hans := answerWrite_held (r := r) (modPart (heard s r) p fun q => { q with edits := q.edits ++ [e] }) (0x2000 + p.val) 0x44
      exact ⟨_, e, exchEditGo_held p hgo h, hans.1, hrest.1, hrest.2.1, hrest.2.2.1, hrest.2.2.2.1, hrest.2.2.2.2, hans.2⟩
  · refine fun h => h.completes (by omega) (by decide) rfl
      (grpOf_other_none (by omega) (by omega) (by omega) (by omega) (by omega) (by omega) (by omega) _) rfl
  · refine fun h => h.completes (by omega) (by decide) rfl
      (grpOf_other_none (by omega) (by omega) (by omega) (by omega) (by omega) (by omega) (by omega) _) (singleWrite_source _ r 1 v [] x)
  · rw [retarget_ev_src]
    exact ⟨congrArg SrcCfg.target (updV_same _ _ _), fun y hy => updV_other _ _ _ _ (Ne.symm hy)⟩
  · refine fun h => h.completes (by omega) (by decide) rfl
      (grpOf_other_none (by omega) (by omega) (by omega) (by omega) (by omega) (by omega) (by omega) _) ?_
    rw [singleWrite_source, sourceWrite_arrivals]
  · intro hp h
    refine h.completes (by omega) (by omega) rfl (grpOf_slotActive j) ?_
    have hp' : (pendingOf (heard s r) .slots).isSome = false := by
      rw [show pendingOf (heard s r) .slots = none from hp]
      rfl
    rw [singleWrite_slotActive, slotActiveWrite, hp']
    rfl
  · intro hp h
    refine h.refuses (by omega) (by omega) rfl (grpOf_slotActive j) ?_
    have hp' : (pendingOf (heard s r) .slots).isSome = true := Option.isSome_iff_ne_none.2 hp
    rw [singleWrite_slotActive, slotActiveWrite, hp']
    rfl

end Sys2Proof.Machine

/-! PROOF. The checks of a dictionary access: O44. -/
namespace Sys2Proof.Machine

/-! ### O44: the checks of a dictionary access -/

section Checks

variable {s : State} {r : Requester} {i u : Nat} {a : DAcc}

/-- An access reaches the dictionary unless the part is dead, its host's link is not up or the supervisor has been halted. -/
theorem arrives_eq_false (s : State) (x : Access) : arrives s x = false ↔
    dead s = true ∨ (∃ h : x.by'.val < 4, s.ports[(⟨x.by'.val, h⟩ : PortId)].link ≠ 2) ∨ (x.by' = 5 ∧ s.ls.state = 2) := by
  rw [arrives, Bool.and_eq_false_iff, Bool.and_eq_false_iff, or_assoc, Bool.not_eq_false', Bool.or_eq_false_iff, bne_eq_false_iff_eq, bne_eq_false_iff_eq]
  refine or_congr_right (or_congr_left ?_)
  by_cases h : x.by'.val < 4
  · rw [dif_pos h, beq_eq_false_iff_ne]
    exact ⟨fun hl => ⟨h, hl⟩, fun ⟨_, hl⟩ => hl⟩
  · rw [dif_neg h]
    exact ⟨fun hf => absurd hf (by decide), fun ⟨hlt, _⟩ => absurd hlt h⟩

theorem turnsAway_off {x : Access} (h : x.by'.val < 4) (ht : takesTlps s.ports[(⟨x.by'.val, h⟩ : PortId)] = false) :
    turnsAway s x = some ⟨x.by'.val, h⟩ := by
  rw [turnsAway, dif_pos h, if_neg]
  exact ne_true_of_eq_false ht

theorem turnsAway_on {x : Access} (ht : ∀ h : x.by'.val < 4, takesTlps s.ports[(⟨x.by'.val, h⟩ : PortId)] = true) : turnsAway s x = none := by
  unfold turnsAway
  split
  · next h => exact if_pos (ht h)
  · rfl

/-- A dictionary write whose requester has a word or a write held waits its turn. -/
theorem accessOp_waits {x : Access} (ha : arrives s x = true) (ht : turnsAway s x = none) (hw : s.dict.waiting = []) (hb : blocked s x = true) :
    accessOp s x = { s with dict := { s.dict with waiting := [x] } } := by
  unfold accessOp
  rw [ha, ht]
  simp only [serveWaiting_nil hw, hb, hw, Bool.true_or, List.nil_append]
  rfl

theorem blocked_write {ix : W16} {sub : Byte} (h : waits s r = true ∨ ∃ h : r.val < 4, s.ports[(⟨r.val, h⟩ : PortId)].rx ≠ []) :
    blocked s (.write r ix sub a []) = true := by
  unfold blocked
  rw [Bool.or_eq_true]
  rcases h with hw | ⟨hlt, hrx⟩
  · left
    exact hw
  · right
    rw [dif_pos (show (Access.write r ix sub a []).by'.val < 4 from hlt), Bool.not_eq_true', List.isEmpty_eq_false_iff]
    exact hrx

/-! The first failing check. -/

/-- The dictionary is open to the requester, and a COMMIT meets no restart of the firmware (check 1 of R452). -/
def Opened (s : State) (r : Requester) (i u : Nat) : Prop :=
  (s.dict.isOpen = true ∨ r.val = 5) ∧ (restarting s = false ∨ isCommit i u = false)

theorem closed_iff (s : State) (r : Requester) (i u : Nat) :
    (!(s.dict.isOpen || r.val == 5 || preOpen r i u true) || (restarting s && true && isCommit i u)) = true ↔ ¬ Opened s r i u := by
  have hpre : preOpen r i u true = false := by rw [preOpen, Bool.not_true, Bool.and_false, Bool.false_and]
  rw [hpre, Opened]
  cases s.dict.isOpen <;> cases restarting s <;> cases isCommit i u <;> simp

theorem headCode_closed (h : ¬ Opened s r i u) : headCode s r i u true = some 0x0030 := by
  rw [headCode, if_pos ((closed_iff s r i u).2 h)]

theorem headCode_open (h : Opened s r i u) : headCode s r i u true =
    if hostCut s r then some 0x0008
    else if shutOut s r i true then some 0x0007
    else
      match entryAt s r i u with
      | none => if isFifo i u then some 0x0004 else some 0x0001
      | some e => if !writeRight s r i u e then some 0x0004 else if e.cls = .ro then some 0x0003 else none := by
  rw [headCode, if_neg (fun hc => (closed_iff s r i u).1 hc h)]
  rfl

/-- A write that the first checks refuse ends with their code alone. -/
theorem dictWriteOp_head {code : Nat} (h : headCode s r i u true = some code) : dictWriteOp s r i u a [] = dictRefuse (heard s r) r i u true code := by
  simp only [dictWriteOp, dictWrite, h]
  rfl

variable {e : Entry}

/-- A write of a width or offset outside Table 12.1. -/
theorem dictWriteOp_width (hhead : headCode s r i u true = none) (he : entryAt s r i u = some e) (hw : widthOk r e.ty a.bytes a.off = false) :
    dictWriteOp s r i u a [] = dictRefuse (heard s r) r i u true 0x0002 := by
  simp only [dictWriteOp, dictWrite, hhead, he, hw, Bool.not_false, if_true]
  rfl

/-- What is asked of a whole value: its reserved bits first, then its range. -/
theorem dictWrite_whole (hhead : headCode s r i u true = none) (he : entryAt s r i u = some e) (hw : widthOk r e.ty a.bytes a.off = true)
    (h128 : e.ty = .w128 → a.bytes = 16) {code : Nat}
    (hcode : (a.val.toNat % 2 ^ (8 * a.bytes) % 2 ^ (8 * e.ty.bytes) &&& e.rsv ≠ 0 ∧ code = 0x0006) ∨
      (a.val.toNat % 2 ^ (8 * a.bytes) % 2 ^ (8 * e.ty.bytes) &&& e.rsv = 0 ∧
        (2 ^ (8 * e.ty.bytes) ≤ a.val.toNat % 2 ^ (8 * a.bytes) ∨ e.ok (a.val.toNat % 2 ^ (8 * a.bytes)) = false) ∧ code = 0x0005)) :
    dictWriteOp s r i u a [] = dictRefuse (heard s r) r i u true code := by
  have hnot8 : ¬ (e.ty = .w128 ∧ a.bytes = 8) := by
    rintro ⟨ht, hb⟩
    rw [h128 ht] at hb
    exact absurd hb (by decide)
  have hacc : accValue s.dict.half[r] i u e a = some (a.val.toNat % 2 ^ (8 * a.bytes)) := if_neg hnot8
  have hfirst : dictWrite s r i u a [] = (heard s r, .refused code) := by
    unfold dictWrite
    rw [hhead, he]
    simp only [hw, hacc, Bool.not_true, Bool.false_eq_true, if_false, show ¬ (e.ty = .w128 ∧ a.bytes = 8 ∧ a.off = 0) from fun hc => hnot8 ⟨hc.1, hc.2.1⟩]
    rcases hcode with ⟨hr, rfl⟩ | ⟨hr, hv, rfl⟩
    · exact if_pos hr
    · have hv' : 2 ^ (8 * e.ty.bytes) ≤ a.val.toNat % 2 ^ (8 * a.bytes) ∨ (!e.ok (a.val.toNat % 2 ^ (8 * a.bytes))) = true := by
        rwa [Bool.not_eq_true']
      exact (if_neg (not_not.2 hr)).trans (if_pos hv')
  rw [dictWriteOp, hfirst]
  rfl

end Checks

/-! ### What a refusal leaves -/

section Refusals

variable (s : State) (r : Requester) (i u code : Nat)

/-- A refusal is an abort record and an answer: nothing of the device behind the dictionary changes (R320). -/
theorem dictRefuse_frame (w : Bool) : ∃ t, dictRefuse s r i u w code = t ∧ t.mem = s.mem ∧ t.parts = s.parts ∧ t.seq = s.seq ∧ t.eng = s.eng ∧ t.banks = s.banks ∧
    t.ev = s.ev ∧ t.pw = s.pw ∧ t.twin = s.twin ∧ t.boot = s.boot := by
  refine ⟨_, rfl, ?_⟩
  unfold dictRefuse
  split
  · unfold i3cReady
    split
    · exact ⟨rfl, rfl, rfl, rfl, rfl, rfl, rfl, rfl, rfl⟩
    · dsimp only
      split
      · exact ⟨rfl, rfl, rfl, rfl, rfl, rfl, rfl, rfl, rfl⟩
      · exact ⟨rfl, rfl, rfl, rfl, rfl, rfl, rfl, rfl, rfl⟩
  · dsimp only
    split
    · exact ⟨rfl, rfl, rfl, rfl, rfl, rfl, rfl, rfl, rfl⟩
    · exact ⟨rfl, rfl, rfl, rfl, rfl, rfl, rfl, rfl, rfl⟩

/-- A host's refusal is answered on its port, whose record counts it. -/
theorem dictRefuse_host (w : Bool) (h : r.val < 4) : dictRefuse s r i u w code = emit (portAbort s ⟨r.val, h⟩ i u w code) (.abort r (BitVec.ofNat 16 code)) := by
  rw [dictRefuse, if_neg (by omega), dif_pos h]

theorem portAbort_count (h : PortId) (w : Bool) : (portAbort s h i u w code).ports[h].abortCount = satInc s.ports[h].abortCount := by
  rw [portAbort, modPort_same]

end Refusals

/-! ### Packets of a host to BAR0 -/

section Packets

variable {s : State} {h : PortId} {off : BitVec 28}

theorem bar0_index (off : BitVec 28) : (BitVec.ofNat 16 (off.toNat / 4096)).toNat = off.toNat / 4096 := Nat.mod_eq_of_lt (by omega)

theorem bar0_slot (off : BitVec 28) : (BitVec.ofNat 8 (off.toNat / 16)).toNat = off.toNat / 16 % 256 := by rw [BitVec.toNat_ofNat]

/-- A write packet to an entry is the write of that entry. -/
theorem hostWrite_entry {r : Requester} (hr : r.val = h.val) (hh : Heeds s r) (data : List Byte)
    (hf : ¬ ((0xF000 ≤ off.toNat / 4096 ∧ off.toNat / 4096 < 0xF080) ∧ off.toNat / 16 % 256 = 0)) (hwf : tlpWf 512 (.bar0 off) data.length = true) :
    exec (hostWrite h (.bar0 off) data) s =
      .next (dictWriteOp s r (off.toNat / 4096) (off.toNat / 16 % 256) { bytes := data.length, off := off.toNat % 16, val := wordOfBytes data } []) := by
  obtain rfl : r = h.castLE (by decide) := Fin.ext hr
  rw [exec_hostWrite, if_pos (show tlpWf Config.maxPayload (.bar0 off) data.length = true from hwf), accessOp_of_heeds hh rfl]
  simp only [serve, tlpWriteOp, dif_neg hf]

/-- A read packet to an entry is a read of that entry. -/
theorem hostRead_entry {r : Requester} (hr : r.val = h.val) (hh : Heeds s r) {bytes : Nat}
    (hf : ¬ ((0xF000 ≤ off.toNat / 4096 ∧ off.toNat / 4096 < 0xF080) ∧ off.toNat / 16 % 256 = 0)) (hwf : tlpWf 4096 (.bar0 off) bytes = true) {t : State}
    (ht : dictReadOp s r (off.toNat / 4096) (off.toNat / 16 % 256) bytes (off.toNat % 16) none = some t) :
    exec (hostRead h (.bar0 off) bytes) s = .next t := by
  obtain rfl : r = h.castLE (by decide) := Fin.ext hr
  rw [exec_hostRead, if_pos (show tlpWf Config.maxRead (.bar0 off) bytes = true from hwf), accessOp_of_heeds hh rfl]
  simp only [serve, tlpReadOp, dif_neg hf, ht]

end Packets

/-! ### Reads of an entry -/

section Reads

variable {s : State} {r : Requester} {i u bytes off : Nat} {hit : Option SenseWrite}

theorem dictReadOp_of_refused (hr : r.val < 4) {t : State} {code : Nat} (h : dictRead s r i u bytes off hit = (t, .refused code)) :
    dictReadOp s r i u bytes off hit = some (emit (dictRefuse t r i u false code) (.dictRead r (BitVec.allOnes 128))) := by
  have hr4 : ¬ r.val = 4 := by omega
  rw [dictReadOp, h]
  dsimp only
  rw [if_neg hr4]

theorem dictReadOp_of_value (hr : r.val < 4) {t : State} {v : W128} (h : dictRead s r i u bytes off hit = (t, .value v)) :
    dictReadOp s r i u bytes off hit = some (emit t (.dictRead r v)) := by
  have hr4 : ¬ r.val = 4 := by omega
  rw [dictReadOp, h]
  dsimp only
  rw [if_neg hr4]

theorem dictRead_head {code : Nat} (h : headCode s r i u false = some code) : dictRead s r i u bytes off hit = (heard s r, .refused code) := by
  rw [dictRead, h]
  rfl

theorem dictRead_width {e : Entry} (h : headCode s r i u false = none) (he : entryAt s r i u = some e) (hw : widthOk r e.ty bytes off = false) :
    dictRead s r i u bytes off hit = (heard s r, .refused 0x0002) := by
  have hwrong : (!widthOk r e.ty bytes off) = true := by
    rw [hw]
    decide
  unfold dictRead
  rw [h, he]
  exact if_pos hwrong

/-- An entry whose read does no more gives its value's bytes. -/
theorem dictRead_value {e : Entry} (h : headCode s r i u false = none) (he : entryAt s r i u = some e) (hw : widthOk r e.ty bytes off = true)
    (hdbg : ¬ ((0x5000 ≤ i ∧ i < 0x5100) ∧ u = 0x11)) (habort : ¬ ((0x2100 ≤ i ∧ i < 0x2104) ∧ u = 0x10)) :
    dictRead s r i u bytes off hit = (heard s r, .value (BitVec.ofNat 128 (e.val.toNat / 2 ^ (8 * off) % 2 ^ (8 * bytes)))) := by
  have hwrong : ¬ (!widthOk r e.ty bytes off) = true := by
    rw [hw]
    decide
  unfold dictRead
  rw [h, he]
  exact (if_neg hwrong).trans ((dif_neg hdbg).trans (dif_neg habort))

end Reads

/-- Settles O44: each check is one branch of the write, in their order; what is refused ends with its code and no other effect. -/
theorem dictionaryChecks : Obligations.DictionaryChecks := by
  intro s r ix sub a i u c x
  have hexec : exec c s = .next (accessOp s x) := by
    have h16 : BitVec.ofNat 16 ix.toNat = ix := BitVec.ofNat_toNat .. ▸ BitVec.setWidth_eq ix
    have h8 : BitVec.ofNat 8 sub.toNat = sub := BitVec.ofNat_toNat .. ▸ BitVec.setWidth_eq sub
    rw [exec_registerWrite, execRegisterWrite, writeAccess, h16, h8]
  refine ⟨fun ha => ?_, arrives_eq_false s x, fun ha h ht => ?_, fun ha ht hw hb => ?_, fun hh hf => ?_, ?_, ?_⟩
  · rw [hexec, accessOp, ha]
    rfl
  · rw [hexec, accessOp, ha, turnsAway_off (x := x) h ht]
    rfl
  · rw [hexec, accessOp_waits (x := x) ha (turnsAway_on (x := x) ht) hw (blocked_write hb)]
  · have hfifo : fifoSub r i u = false := by
      rw [Bool.eq_false_iff]
      intro hc
      simp only [fifoSub, Bool.and_eq_true, decide_eq_true_eq, beq_iff_eq] at hc
      exact hf ⟨hc.1.1, hc.1.2, hc.2⟩
    have hop : exec c s = .next (dictWriteOp s r i u a []) := by
      rw [exec_registerWrite, execRegisterWrite, writeAccess_of_heeds hh ix.isLt sub.isLt a [] hfifo]
    intro no opened
    have head : ∀ {code}, headCode s r i u true = some code → no code := fun hc => hop.trans (congrArg Host.Outcome.next (dictWriteOp_head hc))
    refine ⟨fun hcl => head (headCode_closed hcl), fun ho hcut => head ?_, fun ho hcut hshut => head ?_, fun ho hcut hshut => ?_⟩
    · rw [headCode_open ho, if_pos hcut]
    · rw [headCode_open ho, if_neg (ne_true_of_eq_false hcut), if_pos hshut]
    · have hbase : headCode s r i u true = _ :=
        (headCode_open ho).trans ((if_neg (ne_true_of_eq_false hcut)).trans (if_neg (ne_true_of_eq_false hshut)))
      refine ⟨fun he => ?_, fun e he => ⟨fun hright => head ?_, fun hright => ⟨fun hro => head ?_, fun hro => ?_⟩⟩⟩
      · rw [he] at hbase
        split
        · next hff => exact head (hbase.trans (if_pos hff))
        · next hff => exact head (hbase.trans (if_neg hff))
      · rw [hbase, he]
        exact if_pos (by rw [hright]; rfl)
      · have hr : ¬ (!writeRight s r i u e) = true := by rw [hright]; decide
        rw [hbase, he]
        exact (if_neg hr).trans (if_pos hro)
      · have hr : ¬ (!writeRight s r i u e) = true := by rw [hright]; decide
        have hnone : headCode s r i u true = none := by
          rw [hbase, he]
          exact (if_neg hr).trans (if_neg hro)
        refine ⟨fun hw => hop.trans (congrArg Host.Outcome.next (dictWriteOp_width hnone he hw)), fun hw h128 => ⟨fun hr => ?_, fun hr hv => ?_⟩⟩
        · exact hop.trans (congrArg Host.Outcome.next (dictWrite_whole hnone he hw h128 (.inl ⟨hr, rfl⟩)))
        · exact hop.trans (congrArg Host.Outcome.next (dictWrite_whole hnone he hw h128 (.inr ⟨hr, hv, rfl⟩)))
  · rintro t code rfl
    obtain ⟨t, ht, hmem, hparts, hseq, heng, hbanks, hev, hpw, htwin, hboot⟩ := dictRefuse_frame (heard s r) r i u code true
    refine ⟨?_, ?_, ?_, ?_, ?_, ?_, ?_, ?_, ?_, fun h => ?_⟩
    · exact ht ▸ hmem
    · exact ht ▸ hparts
    · exact ht ▸ hseq
    · exact ht ▸ heng
    · exact ht ▸ hbanks
    · exact ht ▸ hev
    · exact ht ▸ hpw
    · exact ht ▸ htwin
    · exact ht ▸ hboot
    · rw [dictRefuse_host (heard s r) r i u code true h]
      exact ⟨rfl, portAbort_count (heard s r) i u code ⟨r.val, h⟩ true⟩
  · intro h off data bytes hr hh hix hsub hf
    have hi : i = off.toNat / 4096 := (congrArg BitVec.toNat hix).trans (bar0_index off)
    have hu : u = off.toNat / 16 % 256 := (congrArg BitVec.toNat hsub).trans (bar0_slot off)
    have hlt : r.val < 4 := hr ▸ h.isLt
    rw [hi, hu] at hf
    have hfifo : fifoSub r i u = false := by
      rw [Bool.eq_false_iff]
      intro hc
      simp only [fifoSub, Bool.and_eq_true, decide_eq_true_eq, beq_iff_eq, hi, hu] at hc
      exact hf ⟨hc.1.2, hc.2⟩
    refine ⟨fun hwf ha => ?_, fun hwf => ⟨fun code hc => ?_, fun e hnone he hdbg habort => ⟨fun hw => ?_, fun hw => ?_⟩⟩⟩
    · rw [hostWrite_entry hr hh data hf hwf, exec_registerWrite, execRegisterWrite, writeAccess_of_heeds hh ix.isLt sub.isLt a [] hfifo, ha]
      change _ = Host.Outcome.next (dictWriteOp s r i u _ [])
      rw [hi, hu]
    · rw [hi, hu] at hc ⊢
      exact hostRead_entry hr hh hf hwf (dictReadOp_of_refused hlt (dictRead_head hc))
    · rw [hi, hu] at hnone he hdbg habort
      exact hostRead_entry hr hh hf hwf (dictReadOp_of_value hlt (dictRead_value hnone he hw hdbg habort))
    · rw [hi, hu] at hnone he ⊢
      exact hostRead_entry hr hh hf hwf (dictReadOp_of_refused hlt (dictRead_width hnone he hw))

end Sys2Proof.Machine

/-! PROOF. Bytes, words, units and the arbiters of a way. -/
namespace Sys2Proof.Machine

/-! ### Words and their bytes -/

/-- Byte `i` of a number made of bytes. -/
theorem natOfBytes_byte (l : List Byte) (i : Nat) : (natOfBytes l >>> (8 * i)) % 256 = (nth l i 0).toNat := by
  induction l generalizing i with
  | nil => simp [natOfBytes, nth]
  | cons b l ih =>
    have hb : b.toNat < 256 := b.isLt
    cases i with
    | zero =>
      simp only [natOfBytes, nth, Nat.mul_zero, Nat.shiftRight_zero, List.getD_cons_zero]
      omega
    | succ i =>
      have hshift : natOfBytes (b :: l) >>> (8 * (i + 1)) = natOfBytes l >>> (8 * i) := by
        rw [Nat.mul_succ, Nat.add_comm, Nat.shiftRight_add, Nat.shiftRight_eq_div_pow _ 8, natOfBytes]
        congr 1
        omega
      rw [hshift, ih]
      rfl

theorem natOfBytes_lt (l : List Byte) : natOfBytes l < 256 ^ l.length := by
  induction l with
  | nil => decide
  | cons b l ih =>
    have hb : b.toNat < 256 := b.isLt
    rw [natOfBytes, List.length_cons, Nat.pow_succ]
    omega

theorem byteOf_wordOfBytes {l : List Byte} (hl : l.length ≤ 16) (i : Nat) : byteOf (wordOfBytes l) i = nth l i 0 := by
  have hlt : natOfBytes l < 2 ^ 128 := lt_of_lt_of_le (natOfBytes_lt l) (by
    calc 256 ^ l.length ≤ 256 ^ 16 := Nat.pow_le_pow_right (by decide) hl
      _ = 2 ^ 128 := by decide)
  apply BitVec.eq_of_toNat_eq
  rw [byteOf, wordOfBytes, BitVec.toNat_ofNat, BitVec.toNat_ofNat, Nat.mod_eq_of_lt hlt]
  exact natOfBytes_byte l i

/-- A bit of a word is a bit of one of its bytes. -/
theorem testBit_byteOf {n : Nat} (x : BitVec n) (j : Nat) : x.toNat.testBit j = (byteOf x (j / 8)).toNat.testBit (j % 8) := by
  rw [byteOf, BitVec.toNat_ofNat, Nat.testBit_mod_two_pow, Nat.testBit_shiftRight, decide_eq_true (Nat.mod_lt j (by decide)), Bool.true_and]
  congr 1
  omega

theorem eq_of_byteOf {x y : W128} (h : ∀ i, i < 16 → byteOf x i = byteOf y i) : x = y := by
  apply BitVec.eq_of_toNat_eq
  apply Nat.eq_of_testBit_eq
  intro j
  by_cases hj : j < 128
  · rw [testBit_byteOf x, testBit_byteOf y, h (j / 8) (by omega)]
  · rw [Nat.testBit_lt_two_pow (lt_of_lt_of_le x.isLt (Nat.pow_le_pow_right (by decide) (by omega))),
      Nat.testBit_lt_two_pow (lt_of_lt_of_le y.isLt (Nat.pow_le_pow_right (by decide) (by omega)))]

theorem nth_map_range {α : Type} (f : Nat → α) (n i : Nat) (d : α) : nth ((List.range n).map f) i d = if i < n then f i else d := by
  unfold nth
  rw [List.getD_eq_getElem?_getD, List.getElem?_map]
  by_cases hi : i < n
  · rw [List.getElem?_range hi, if_pos hi]
    rfl
  · rw [List.getElem?_eq_none (by simpa using hi), if_neg hi]
    rfl

theorem byteOf_wordGet (m : Store) (w : Nat) {i : Nat} (hi : i < 16) : byteOf (wordGet m w) i = cellGet m.cells (16 * w + i) := by
  rw [wordGet, byteOf_wordOfBytes (by simp [cellsGet]), cellsGet, nth_map_range, if_pos hi]

theorem byteOf_mergeBytes (old new : W128) (mask : List Bool) {i : Nat} (hi : i < 16) :
    byteOf (mergeBytes old new mask) i = if nth mask i false then byteOf new i else byteOf old i := by
  rw [mergeBytes, byteOf_wordOfBytes (by simp), nth_map_range, if_pos hi]

/-- The bytes of memory after a word was stored. -/
theorem cellGet_wordSet {m : Store} (hm : cellsWf m.cells = true) (w a : Nat) (v : W128) :
    cellGet (wordSet m w v).cells a = if a / 16 = w then byteOf v (a % 16) else cellGet m.cells a := by
  rw [wordSet, cellGet_cellsSet hm]
  have hlen : (bytesOf v 16).length = 16 := by simp [bytesOf]
  by_cases h : a / 16 = w
  · have hin : 16 * w ≤ a ∧ a < 16 * w + (bytesOf v 16).length := by omega
    have hidx : a - 16 * w = a % 16 := by omega
    rw [if_pos h, dif_pos hin]
    simp [bytesOf, hidx]
  · have hout : ¬ (16 * w ≤ a ∧ a < 16 * w + (bytesOf v 16).length) := by omega
    rw [if_neg h, dif_neg hout]

theorem wordGet_wordSet_same {m : Store} (hm : cellsWf m.cells = true) (w : Nat) (v : W128) : wordGet (wordSet m w v) w = v := by
  apply eq_of_byteOf
  intro i hi
  rw [byteOf_wordGet _ _ hi, cellGet_wordSet hm, if_pos (by omega), show (16 * w + i) % 16 = i by omega]

theorem wordGet_wordSet_other {m : Store} (hm : cellsWf m.cells = true) {w x : Nat} (h : x ≠ w) (v : W128) : wordGet (wordSet m w v) x = wordGet m x := by
  apply eq_of_byteOf
  intro i hi
  rw [byteOf_wordGet _ _ hi, byteOf_wordGet _ _ hi, cellGet_wordSet hm, if_neg (by omega)]

/-! ### The arbiters of a way -/

/-- Going to a unit moves the arbiters and the bridges of the way alone. -/
theorem WayKeeps.refl (s : State) : WayKeeps s s := rfl

theorem WayKeeps.trans {s t u : State} (h : WayKeeps s t) (k : WayKeeps t u) : WayKeeps s u := by
  rw [WayKeeps] at h k ⊢
  rw [k, h]

theorem portGrant_keeps {s t : State} {m : MasterKind} {r : Rivals} (h : portGrant s m r = some t) : WayKeeps s t := by
  have hmgt : ∀ {slot : Nat}, portGrant.mgt s r slot = some t → WayKeeps s t := by
    intro slot h
    obtain ⟨a, -, rfl⟩ := Option.map_eq_some_iff.1 h
    rfl
  unfold portGrant at h
  split at h
  · split at h
    · cases h
    · obtain ⟨a, -, rfl⟩ := Option.map_eq_some_iff.1 h
      rfl
  · exact hmgt h
  · exact hmgt h
  · exact hmgt h
  · exact hmgt h
  · cases h
    rfl

theorem bridgesGrant_keeps {slot : Nat} {w : List (Nat × Nat)} {ks : List Contest} {s t : State} (h : bridgesGrant slot w ks s = some t) : WayKeeps s t := by
  induction w generalizing slot ks s with
  | nil =>
    cases h
    rfl
  | cons x w ih =>
    obtain ⟨a, -, hrest⟩ := Option.bind_eq_some_iff.1 h
    exact WayKeeps.trans (t := { s with fab := { s.fab with bridgeArb := updV s.fab.bridgeArb _ fun _ => a } }) rfl (ih hrest)

theorem grantFor_keeps {s t : State} {m : MasterKind} {u : MemUnit} {tap : Bool} {k : Contest} (h : grantFor s m u tap k = some t) : WayKeeps s t := by
  unfold grantFor at h
  split at h
  · unfold pcGrant at h
    dsimp only at h
    split at h
    · cases h
    · obtain ⟨a, -, rfl⟩ := Option.map_eq_some_iff.1 h
      rfl
  · split at h
    · unfold tapGrant at h
      split at h
      · split at h
        · cases h
        · cases h
          rfl
      · obtain ⟨a, -, rfl⟩ := Option.map_eq_some_iff.1 h
        rfl
    · cases h
      rfl

theorem crossWay_wayKeeps (m : MasterKind) (way : List (Nat × Nat)) (s : State) : WayKeeps s (crossWay m way s) := by
  unfold crossWay
  split
  · rfl
  · rfl

/-- Winning every arbiter of a way changes those arbiters and the bridges it crosses. -/
theorem pathGrant_keeps {s t : State} {m : MasterKind} {u : MemUnit} {tap : Bool} {r : Rivals} (h : pathGrant s m u tap r = some t) : WayKeeps s t := by
  unfold pathGrant at h
  split at h
  · cases h
  · obtain ⟨s1, h1, h⟩ := Option.bind_eq_some_iff.1 h
    obtain ⟨s2, h2, h⟩ := Option.bind_eq_some_iff.1 h
    obtain ⟨s3, h3, rfl⟩ := Option.map_eq_some_iff.1 h
    exact (((portGrant_keeps h1).trans (bridgesGrant_keeps h2)).trans (grantFor_keeps h3)).trans (crossWay_wayKeeps _ _ _)

section Way

variable {s t : State} (h : WayKeeps s t)
include h

theorem WayKeeps.mem : t.mem = s.mem := by rw [h]
theorem WayKeeps.banks : t.banks = s.banks := by rw [h]
theorem WayKeeps.parts : t.parts = s.parts := by rw [h]
theorem WayKeeps.outs : t.outs = s.outs := by rw [h]
theorem WayKeeps.twin : t.twin = s.twin := by rw [h]
theorem WayKeeps.stk : t.stk = s.stk := by rw [h]
theorem WayKeeps.links : t.fab.links = s.fab.links := by rw [h]
theorem WayKeeps.unitOf (a : Nat) : unitOf t a = unitOf s a := by
  have hw : t.wideGib = s.wideGib := by rw [h]
  rw [Machine.unitOf, Machine.unitOf, hw]
theorem WayKeeps.unitFenced (d : Nat) (u : MemUnit) : unitFenced t d u = unitFenced s d u := by
  simp only [Machine.unitFenced, reachable, h.links, h.stk, h.banks]
theorem WayKeeps.execPart (n : VeId) : execPart t n = execPart s n := by
  rw [h]
  rfl
theorem WayKeeps.masterCode (b : BankId) (m : MasterKind) : masterCode t b m = masterCode s b m := by
  rw [h]
  rfl

end Way

/-! ### The unit of a fragment -/

theorem unitOf_eq_bank_iff (s : State) (a : Nat) (b : BankId) :
    unitOf s a = some (.bank b) ↔ (spLo ≤ a ∧ a < spHi) ∧ Fin.ofNat 256 ((a - spLo) / bankBytes) = b := by
  unfold unitOf
  by_cases h : spLo ≤ a ∧ a < spHi
  · rw [if_pos h, Option.some.injEq, MemUnit.bank.injEq]
    exact ⟨fun e => ⟨h, e⟩, fun e => e.2⟩
  · rw [if_neg h]
    refine ⟨fun e => ?_, fun e => absurd e.1 h⟩
    by_cases h2 : hbmLo ≤ a ∧ a < hbmHi
    · rw [if_pos h2] at e
      cases e
    · rw [if_neg h2] at e
      cases e

theorem unitOf_hbm (s : State) {a : Nat} (h : hbmLo ≤ a ∧ a < hbmHi) : unitOf s a =
    some (.pc (Fin.ofNat 8 (hbmLoc s.wideGib.toNat (a - hbmLo)).stack) (Fin.ofNat 32 (hbmLoc s.wideGib.toNat (a - hbmLo)).c)
      (hbmLoc s.wideGib.toNat (a - hbmLo)).row (hbmLoc s.wideGib.toNat (a - hbmLo)).word) := by
  have hsp : ¬ (spLo ≤ a ∧ a < spHi) := by
    simp only [spLo, spHi, hbmLo] at h ⊢
    omega
  rw [unitOf, if_neg hsp, if_pos h]

theorem hbm_of_unitOf_pc {s : State} {a : Nat} {st : StackId} {c : Fin 32} {row w : Nat} (h : unitOf s a = some (.pc st c row w)) : hbmLo ≤ a ∧ a < hbmHi := by
  by_contra hout
  unfold unitOf at h
  by_cases hsp : spLo ≤ a ∧ a < spHi
  · rw [if_pos hsp] at h
    cases h
  · rw [if_neg hsp, if_neg hout] at h
    cases h

/-- The words of one granule of 256 bytes lie in one row of one pseudo-channel (R217). -/
theorem hbmLoc_block (w : Nat) {y z : Nat} (h : y / 256 = z / 256) : (hbmLoc w y).stack = (hbmLoc w z).stack ∧ (hbmLoc w y).c = (hbmLoc w z).c ∧
    (hbmLoc w y).row = (hbmLoc w z).row ∧ (hbmLoc w y).word = y / 16 % 16 := by
  have hlow : y < w * 2 ^ 33 ↔ z < w * 2 ^ 33 := by omega
  unfold hbmLoc
  by_cases hlt : z < w * 2 ^ 33
  · rw [if_pos (hlow.2 hlt), if_pos hlt, h]
    exact ⟨rfl, rfl, rfl, rfl⟩
  · rw [if_neg (fun hc => hlt (hlow.1 hc)), if_neg hlt]
    dsimp only
    obtain ⟨g, hg⟩ : ∃ g, (24 - w) * gib = 256 * g := ⟨(24 - w) * 0x400000, by rw [gib]; omega⟩
    have hrel : (y - w * 2 ^ 33) / 256 = (z - w * 2 ^ 33) / 256 := by omega
    rw [hg, ← Nat.div_div_eq_div_mul, ← Nat.div_div_eq_div_mul, Nat.mod_mul_right_div_self, Nat.mod_mul_right_div_self, hrel]
    exact ⟨rfl, rfl, rfl, rfl⟩

/-- Addresses of one block of 512 bytes lie in the same bank. -/
theorem unitOf_bank_block {s : State} {a x : Nat} {b : BankId} (hx : x / 512 = a / 512) (h : unitOf s a = some (.bank b)) : unitOf s x = some (.bank b) := by
  rw [unitOf_eq_bank_iff] at h ⊢
  simp only [spLo, spHi, bankBytes] at h ⊢
  have hidx : (x - 0x40000000) / 0x400000 = (a - 0x40000000) / 0x400000 := by omega
  refine ⟨by omega, ?_⟩
  rw [hidx]
  exact h.2

/-- Addresses of one granule of 256 bytes lie in the same row of the same pseudo-channel. -/
theorem hbm_block {x a : Nat} (hx : x / 256 = a / 256) (ha : hbmLo ≤ a ∧ a < hbmHi) : (hbmLo ≤ x ∧ x < hbmHi) ∧ (x - hbmLo) / 256 = (a - hbmLo) / 256 := by
  simp only [hbmLo, hbmHi] at ha ⊢
  omega

theorem hbm_word {x : Nat} (hx : hbmLo ≤ x) : (x - hbmLo) / 16 % 16 = x / 16 % 16 := by
  simp only [hbmLo] at hx ⊢
  omega

theorem unitOf_pc_block {s : State} {a x : Nat} {st : StackId} {c : Fin 32} {row w : Nat} (hx : x / 256 = a / 256) (h : unitOf s a = some (.pc st c row w)) :
    unitOf s x = some (.pc st c row (x / 16 % 16)) := by
  have ha := hbm_of_unitOf_pc h
  obtain ⟨hin, hrel⟩ := hbm_block hx ha
  obtain ⟨h1, h2, h3, -⟩ := MemUnit.pc.inj (Option.some.inj ((unitOf_hbm s ha).symm.trans h))
  obtain ⟨k1, k2, k3, k4⟩ := hbmLoc_block s.wideGib.toNat hrel
  rw [unitOf_hbm s hin, k1, k2, k3, k4, hbm_word hin.1, h1, h2, h3]

/-- The words of a fragment lie in its block. -/
theorem fragWords_block {f : Frag} (hf : f.wf = true) {x : Nat × List Bool} (hx : x ∈ fragWords f) : x.1 / 512 = f.addr / 512 ∧ x.1 % 16 = 0 ∧
    f.addr < x.1 + 16 ∧ x.1 < f.addr + f.len ∧ ((hbmLo ≤ f.addr ∧ f.addr < hbmHi) → x.1 / 256 = f.addr / 256) := by
  simp only [Frag.wf, Bool.and_eq_true, Bool.or_eq_true, decide_eq_true_eq] at hf
  obtain ⟨i, hi, rfl⟩ := List.mem_map.1 hx
  rw [List.mem_range, cdiv] at hi
  simp only [hbmLo, hbmHi]
  omega

end Sys2Proof.Machine

/-! PROOF. Reads of memory: O27. -/
namespace Sys2Proof.Machine

/-! ### Accesses of one word -/

section Words

variable {s : State} {d code a : Nat}

/-- A unit that is fenced or out of reach answers a read with status 8 and zeros. -/
theorem readWord_fenced {u : MemUnit} (hu : unitOf s a = some u) (hf : unitFenced s d u = true) : readWord s d code a = { data := 0, status := 8, s := s } := by
  rw [readWord, hu]
  exact if_pos hf

theorem readWord_pc {st : StackId} {c : Fin 32} {row w : Nat} (hu : unitOf s a = some (.pc st c row w)) (hf : unitFenced s d (.pc st c row w) = false) :
    readWord s d code a = checkWord s (.pc st c row w) code (a / 16) := by
  rw [readWord, hu]
  exact if_neg (ne_true_of_eq_false hf)

theorem readWord_owner {b : BankId} (hu : unitOf s a = some (.bank b)) (hf : unitFenced s d (.bank b) = false) (ho : ownerCheck s.banks[b] code = 0) :
    readWord s d code a = checkWord s (.bank b) code (a / 16) := by
  rw [readWord, hu]
  refine (if_neg (ne_true_of_eq_false hf)).trans ?_
  dsimp only
  rw [ho] <;> rfl

theorem readWord_nonOwner {b : BankId} (hu : unitOf s a = some (.bank b)) (hf : unitFenced s d (.bank b) = false) (ho : ownerCheck s.banks[b] code = 5) :
    readWord s d code a = { data := 0, status := 5, s := nonOwner s b code (a / 16) false } := by
  rw [readWord, hu]
  refine (if_neg (ne_true_of_eq_false hf)).trans ?_
  dsimp only
  rw [ho] <;> rfl

theorem tapWord_fenced {b : BankId} (hf : unitFenced s d (.bank b) = true) : tapWord s d b code a = { data := BitVec.allOnes 128, status := 8, s := s } := by
  rw [tapWord, if_pos hf]

theorem tapWord_served {b : BankId} (hf : unitFenced s d (.bank b) = false) : tapWord s d b code a = checkWord s (.bank b) code (a / 16) := by
  rw [tapWord, if_neg (ne_true_of_eq_false hf)]

/-- The rows and words of a pseudo-channel are fenced with it. -/
theorem unitFenced_pc (s : State) (d : Nat) (st : StackId) (c : Fin 32) (row row' w w' : Nat) :
    unitFenced s d (.pc st c row w) = unitFenced s d (.pc st c row' w') := rfl

/-- An event of a bank is no alert: it is only latched. -/
theorem bankEvent_latched (s : State) (b : BankId) (k c l : Nat) : ∃ x, bankEvent s b k c l = { s with ev := { s.ev with latches := x } } := by
  have hlt : 608 + b.val / 4 < 800 := by omega
  have halert : alertBit ⟨608 + b.val / 4, hlt⟩ (at' 32 28 k ||| at' 32 26 (b.val % 4) ||| at' 32 18 c ||| BitVec.ofNat 32 (l % 2 ^ 18)) = none := by
    simp only [alertBit]
    rw [if_neg (by omega), if_neg (by omega), if_neg (fun h => absurd h.1 (by omega)), if_neg (by omega), if_neg (by omega)]
  rw [bankEvent, raiseN, dif_pos hlt, raise, halert]
  exact ⟨_, rfl⟩

/-- An access of another than the owner is counted and reported (R235). -/
theorem nonOwner_frame (s : State) (b : BankId) (c w : Nat) (wr : Bool) : ∃ x, nonOwner s b c w wr =
    { modBank s b (fun k => { k with nonowner := satInc k.nonowner }) with ev := { s.ev with latches := x } } :=
  bankEvent_latched _ _ _ _ _

end Words

/-! ### Fragments -/

section Fragments

variable {s : State} {f : Frag}

theorem fragWords_bank (hf : f.wf = true) {b : BankId} (hu : unitOf s f.addr = some (.bank b)) {x : Nat × List Bool} (hx : x ∈ fragWords f) :
    unitOf s x.1 = some (.bank b) := unitOf_bank_block (fragWords_block hf hx).1 hu

theorem fragWords_pc (hf : f.wf = true) {st : StackId} {c : Fin 32} {row w : Nat} (hu : unitOf s f.addr = some (.pc st c row w)) {x : Nat × List Bool}
    (hx : x ∈ fragWords f) : unitOf s x.1 = some (.pc st c row (x.1 / 16 % 16)) :=
  unitOf_pc_block ((fragWords_block hf hx).2.2.2.2 (hbm_of_unitOf_pc hu)) hu

/-- A fragment has a word. -/
theorem fragWords_ne_nil (hf : f.wf = true) : fragWords f ≠ [] := by
  simp only [Frag.wf, Bool.and_eq_true, decide_eq_true_eq] at hf
  intro hnil
  have hlen : (fragWords f).length = cdiv (f.addr % 16 + f.len) 16 := by simp [fragWords]
  rw [hnil, cdiv, List.length_nil] at hlen
  omega

/-- The read of one word of a fragment, through the tap port or not. -/
def fragWord (m : MasterKind) (code : Nat) (tap : Option BankId) (s : State) (a : Nat) : Acc :=
  match tap with
  | some b => tapWord s (masterDie m) b code a
  | none => readWord s (masterDie m) code a

theorem fragRead_cons (m : MasterKind) (code : Nat) (tap : Option BankId) (x : Nat × List Bool) (ws : List (Nat × List Bool)) (s : State) :
    fragRead m code tap (x :: ws) s =
      let r := fragWord m code tap s x.1
      let y := fragRead m code tap ws r.s
      ((if r.status = 5 then 0 else r.data) :: y.1, if r.status ≠ 0 then r.status else y.2.1, y.2.2) := rfl

/-- A fragment whose words are all served returns them with status 0. -/
theorem fragRead_served {m : MasterKind} {code : Nat} {tap : Option BankId} {ws : List (Nat × List Bool)}
    (h : ∀ x, x ∈ ws → fragWord m code tap s x.1 = { data := wordGet s.mem (x.1 / 16), status := 0, s := s }) :
    fragRead m code tap ws s = (ws.map fun x => wordGet s.mem (x.1 / 16), 0, s) := by
  induction ws with
  | nil => rfl
  | cons x ws ih => simp only [fragRead_cons, h x List.mem_cons_self, ih fun y hy => h y (List.mem_cons_of_mem x hy), List.map_cons, ne_eq,
      not_true_eq_false, if_false, show (0 : Nat) ≠ 5 by decide]

/-- A fragment that meets a fence returns status 8. -/
theorem fragRead_fenced {m : MasterKind} {code : Nat} {tap : Option BankId} {v : W128} {ws : List (Nat × List Bool)} (hne : ws ≠ [])
    (h : ∀ x, x ∈ ws → fragWord m code tap s x.1 = { data := v, status := 8, s := s }) :
    fragRead m code tap ws s = (List.replicate ws.length v, 8, s) := by
  have hall : ∀ ws : List (Nat × List Bool), (∀ x, x ∈ ws → fragWord m code tap s x.1 = { data := v, status := 8, s := s }) →
      fragRead m code tap ws s = (List.replicate ws.length v, if ws = [] then 0 else 8, s) := by
    intro ws h
    induction ws with
    | nil => rfl
    | cons x ws ih => simp only [fragRead_cons, h x List.mem_cons_self, ih fun y hy => h y (List.mem_cons_of_mem x hy), List.length_cons,
        List.replicate_succ, ne_eq, reduceCtorEq, if_false, if_true, not_false_eq_true, show (8 : Nat) ≠ 5 by decide, show (8 : Nat) ≠ 0 by decide]
  rw [hall ws h, if_neg hne]

/-- What a fragment of another than the owner leaves: the counted accesses. -/
def CountedAt (s t : State) (b : BankId) (n : Nat) : Prop :=
  t.outs = s.outs ∧ t.mem = s.mem ∧ t.banks[b] = { s.banks[b] with nonowner := satInc^[n] s.banks[b].nonowner } ∧ ∀ b', b' ≠ b → t.banks[b'] = s.banks[b']

theorem fragRead_nonOwner {m : MasterKind} {code : Nat} {b : BankId} {ws : List (Nat × List Bool)} (hu : ∀ x, x ∈ ws → unitOf s x.1 = some (.bank b))
    (hf : unitFenced s (masterDie m) (.bank b) = false) (ho : ownerCheck s.banks[b] code = 5) :
    ∃ t, fragRead m code none ws s = (List.replicate ws.length 0, if ws = [] then 0 else 5, t) ∧ CountedAt s t b ws.length := by
  induction ws generalizing s with
  | nil => exact ⟨s, rfl, rfl, rfl, rfl, fun _ _ => rfl⟩
  | cons x ws ih =>
    obtain ⟨l, hl⟩ := nonOwner_frame s b code (x.1 / 16) false
    have hread : fragWord m code none s x.1 = { data := 0, status := 5, s := nonOwner s b code (x.1 / 16) false } :=
      readWord_nonOwner (hu x List.mem_cons_self) hf ho
    have hbank : (nonOwner s b code (x.1 / 16) false).banks[b] = { s.banks[b] with nonowner := satInc s.banks[b].nonowner } := by
      rw [hl]
      exact modBank_same s b _
    have hfence : unitFenced (nonOwner s b code (x.1 / 16) false) (masterDie m) (.bank b) = false := by
      have hfab : (nonOwner s b code (x.1 / 16) false).fab = s.fab := by
        rw [hl]
        rfl
      refine Eq.trans ?_ hf
      simp only [unitFenced, reachable, hfab, hbank]
    obtain ⟨t, ht, houts, hmem, hb, hother⟩ := ih (s := nonOwner s b code (x.1 / 16) false)
      (fun y hy => by
        rw [hl]
        exact hu y (List.mem_cons_of_mem x hy))
      hfence (by rw [hbank]; exact ho)
    refine ⟨t, ?_, ?_, ?_, ?_, ?_⟩
    · simp only [fragRead_cons, hread, ht, List.length_cons, List.replicate_succ, reduceCtorEq, if_true, if_false, ne_eq, not_false_eq_true,
        show (5 : Nat) ≠ 0 by decide]
    · rw [houts, hl]
      rfl
    · rw [hmem, hl]
      rfl
    · rw [hb, hbank, List.length_cons, Function.iterate_succ_apply]
    · intro b' hne
      rw [hother b' hne, hl]
      exact modBank_other s b b' _ (Ne.symm hne)

end Fragments

/-! ### O27 -/

theorem addUpsets_nil (s : State) : addUpsets s [] = s := rfl

theorem emit_addUpsets_nil (f : Frag) : fragUpsets f [] = [] := rfl

section Reads

variable {s : State} {f : Frag} {rv : Rivals} (hd : dead s = false) (ht : tagBusy s f = false)
include hd ht

theorem memReadOp_hole (hu : unitOf s f.addr = none) (hi : hasInternal (masterKind f.master.toNat) f.addr = false) :
    memReadOp s f rv [] = emit s (.bus f.master f.tag [] 4) := by
  simp only [memReadOp, hd, ht, hu, hi, Bool.or_self, Bool.false_eq_true, if_false]

theorem memReadOp_barred {u : MemUnit} (hu : unitOf s f.addr = some u) (hm : mayReach s (masterKind f.master.toNat) u f.addr = false) :
    memReadOp s f rv [] = emit s (.bus f.master f.tag [] 4) := by
  simp only [memReadOp, hd, ht, hu, hm, Bool.or_self, Bool.false_eq_true, if_false, Bool.not_false, if_true]

theorem memReadOp_stays {u : MemUnit} (hu : unitOf s f.addr = some u) (hm : mayReach s (masterKind f.master.toNat) u f.addr = true)
    (hs : sentTo s (masterKind f.master.toNat) u (tapOf s (masterKind f.master.toNat) u).isSome rv = none) : memReadOp s f rv [] = s := by
  simp only [memReadOp, hd, ht, hu, hm, hs, Bool.or_self, Bool.false_eq_true, if_false, Bool.not_true]

/-- The bank holds a new owner's read during the handover (R234). -/
theorem memReadOp_held {u : MemUnit} {s1 : State} {b : BankId} (hu : unitOf s f.addr = some u)
    (hm : mayReach s (masterKind f.master.toNat) u f.addr = true)
    (hs : sentTo s (masterKind f.master.toNat) u (tapOf s (masterKind f.master.toNat) u).isSome rv = some s1)
    (hh : (if (tapOf s (masterKind f.master.toNat) u).isSome then none else heldAt s1 (masterKind f.master.toNat) u) = some b) :
    memReadOp s f rv [] = modBank s1 b fun k => { k with held := k.held ++ [{ frag := f, data := none }] } := by
  simp only [memReadOp, hd, ht, hu, hm, hs, hh, Bool.or_self, Bool.false_eq_true, if_false, Bool.not_true]

/-- The code that a unit's words are asked with. -/
def codeAt (s : State) (u : MemUnit) (m : MasterKind) : Nat :=
  match u with
  | .bank b => masterCode s b m
  | .pc .. => 0

/-- A read that its target's unit serves, after the arbiters of its way were won. -/
theorem memReadOp_sent {u : MemUnit} {s1 : State} (hu : unitOf s f.addr = some u) (hm : mayReach s (masterKind f.master.toNat) u f.addr = true)
    (hs : sentTo s (masterKind f.master.toNat) u (tapOf s (masterKind f.master.toNat) u).isSome rv = some s1)
    (hh : (if (tapOf s (masterKind f.master.toNat) u).isSome then none else heldAt s1 (masterKind f.master.toNat) u) = none)
    {ws : List W128} {st : Nat} {t : State}
    (hr : fragRead (masterKind f.master.toNat) (codeAt s u (masterKind f.master.toNat)) (tapOf s (masterKind f.master.toNat) u) (fragWords f) s1 = (ws, st, t)) :
    memReadOp s f rv [] = emit t (.bus f.master f.tag ws st) := by
  unfold memReadOp
  rw [hd, ht, hu]
  simp only [hm, hs, hh, Bool.or_self, Bool.false_eq_true, if_false, Bool.not_true, emit_addUpsets_nil, addUpsets_nil]
  change emit (fragRead (masterKind f.master.toNat) (codeAt s u (masterKind f.master.toNat)) (tapOf s (masterKind f.master.toNat) u) (fragWords f) s1).2.2
    (.bus f.master f.tag
      (fragRead (masterKind f.master.toNat) (codeAt s u (masterKind f.master.toNat)) (tapOf s (masterKind f.master.toNat) u) (fragWords f) s1).1
      (fragRead (masterKind f.master.toNat) (codeAt s u (masterKind f.master.toNat)) (tapOf s (masterKind f.master.toNat) u) (fragWords f) s1).2.1) = _
  rw [hr]

end Reads

/-! How a request finds its unit. -/

section Sent

variable {s s1 : State} {m : MasterKind} {u : MemUnit} {tap : Bool} {rv : Rivals}

theorem sentTo_fenced (h : unitFenced s (masterDie m) u = true) : sentTo s m u tap rv = some s := by rw [sentTo, if_pos h]

theorem sentTo_way (h : unitFenced s (masterDie m) u = false) : sentTo s m u tap rv = pathGrant s m u tap rv := by
  rw [sentTo, if_neg (ne_true_of_eq_false h)]

theorem heldAt_fenced (h : unitFenced s (masterDie m) u = true) : heldAt s m u = none := by
  cases u with
  | pc => rfl
  | bank b =>
    rw [heldAt, h]
    rfl

theorem heldAt_pc {st : StackId} {c : Fin 32} {row w : Nat} : heldAt s m (.pc st c row w) = none := rfl

/-- A bank holds what its owner-to-be asks, and nothing else. -/
theorem heldAt_bank (hk : WayKeeps s s1) {b : BankId} (h : unitFenced s (masterDie m) (.bank b) = false) :
    heldAt s1 m (.bank b) = if ownerCheck s.banks[b] (masterCode s b m) = 9 then some b else none := by
  have hb : s1.banks[b] = s.banks[b] := by rw [hk.banks]
  rw [heldAt, hk.unitFenced, h, hb, hk.masterCode]
  simp only [Bool.not_false, Bool.true_and, beq_iff_eq]

end Sent

/-- The words of a fragment, by the reads of its unit on clean memory. -/
theorem fragWord_clean {s s1 : State} {f : Frag} {m : MasterKind} {u : MemUnit} {code : Nat} {x : Nat × List Bool} (hwf : f.wf = true) (hk : WayKeeps s s1)
    (hp : s.mem.poison = []) (hl : s.mem.latent = []) (hu : unitOf s f.addr = some u) (hf : unitFenced s (masterDie m) u = false)
    (ho : ∀ b, u = .bank b → ownerCheck s.banks[b] code = 0) (hx : x ∈ fragWords f) :
    fragWord m code none s1 x.1 = { data := wordGet s1.mem (x.1 / 16), status := 0, s := s1 } := by
  have hp1 : s1.mem.poison = [] := hk.mem ▸ hp
  have hl1 : s1.mem.latent = [] := hk.mem ▸ hl
  cases u with
  | pc st c row w =>
    have hu1 := fragWords_pc (s := s1) hwf ((hk.unitOf f.addr).trans hu) hx
    exact (readWord_pc hu1 ((hk.unitFenced _ _).trans hf)).trans (checkWord_clean hp1 hl1 _ _ _)
  | bank b =>
    have hu1 := fragWords_bank (s := s1) hwf ((hk.unitOf f.addr).trans hu) hx
    have ho1 : ownerCheck s1.banks[b] code = 0 := by
      rw [hk.banks]
      exact ho b rfl
    exact (readWord_owner hu1 ((hk.unitFenced _ _).trans hf) ho1).trans (checkWord_clean hp1 hl1 _ _ _)

/-- A fenced unit's answer to each word of a fragment. -/
theorem fragWord_fenced {s : State} {f : Frag} {m : MasterKind} {u : MemUnit} {code : Nat} {x : Nat × List Bool} (hwf : f.wf = true)
    (hu : unitOf s f.addr = some u) (hf : unitFenced s (masterDie m) u = true) (hx : x ∈ fragWords f) :
    fragWord m code (tapOf s m u) s x.1 = { data := if (tapOf s m u).isSome then BitVec.allOnes 128 else 0, status := 8, s := s } := by
  cases htap : tapOf s m u with
  | none =>
    cases u with
    | pc st c row w => exact readWord_fenced (fragWords_pc hwf hu hx) hf
    | bank b => exact readWord_fenced (fragWords_bank hwf hu hx) hf
  | some b =>
    have hub : u = .bank b := by
      unfold tapOf at htap
      split at htap
      · split at htap
        · cases htap
        · cases htap
          rfl
      · cases htap
        rfl
      · cases htap
    subst hub
    exact tapWord_fenced hf

/-- Working RAM answers word by word (R249). -/
theorem internalReads_ram {ws : List (Nat × List Bool)} (s : State) (h : ∀ x, x ∈ ws → 0x80F0000000 ≤ x.1 ∧ x.1 < 0x80F0100000) :
    internalReads ws s = (ws.map fun x => wordOfBytes (cellsGet s.mem.ram (x.1 - 0x80F0000000) 16), 0, s) := by
  induction ws with
  | nil => rfl
  | cons x ws ih =>
    have hx := h x List.mem_cons_self
    have hlow : ¬ x.1 < 0x100000 := by omega
    have hread : internalRead s x.1 = (some (wordOfBytes (cellsGet s.mem.ram (x.1 - 0x80F0000000) 16)), s) := by
      rw [internalRead, if_neg hlow, if_pos hx]
    rw [internalReads, hread, ih fun y hy => h y (List.mem_cons_of_mem x hy)] <;> rfl

theorem memReadOp_ram {s s1 : State} {f : Frag} {rv : Rivals} (hd : dead s = false) (ht : tagBusy s f = false) (hm : masterKind f.master.toNat = .supervisor)
    (hu : unitOf s f.addr = none) (hg : portGrant s .supervisor rv = some s1)
    (hram : ∀ x, x ∈ fragWords f → 0x80F0000000 ≤ x.1 ∧ x.1 < 0x80F0100000) :
    memReadOp s f rv [] = emit s1 (.bus f.master f.tag ((fragWords f).map fun x => wordOfBytes (cellsGet s1.mem.ram (x.1 - 0x80F0000000) 16)) 0) := by
  have hi : hasInternal .supervisor f.addr = true := rfl
  simp only [memReadOp, hd, ht, hu, hm, hi, internalPath, hg, internalReads_ram s1 hram, Bool.or_self, Bool.false_eq_true, if_false, if_true]

theorem unitOf_high (s : State) {a : Nat} (h : hbmHi ≤ a) : unitOf s a = none := by
  simp only [hbmHi] at h
  have h1 : ¬ (spLo ≤ a ∧ a < spHi) := by
    simp only [spLo, spHi]
    omega
  have h2 : ¬ (hbmLo ≤ a ∧ a < hbmHi) := by
    simp only [hbmLo, hbmHi]
    omega
  rw [unitOf, if_neg h1, if_neg h2]

/-- Settles O27: the way is won or waited for; then every word of the fragment is asked of one unit, which serves, holds, counts or refuses it. -/
theorem memoryReadResults : Obligations.MemoryReadResults := by
  intro s f rv hwf hd hfz ht hp hl m ws words none' reply
  have hexec : exec (.memoryRead f rv []) s = .next (memReadOp s f rv []) :=
    (exec_memoryRead f rv [] s).trans (congrArg Host.Outcome.next (if_pos hwf))
  have hreply : ∀ {t : State} {d : List W128} {st : Nat}, memReadOp s f rv [] = emit t (.bus f.master f.tag d st) → reply t d st :=
    fun h => hexec.trans (congrArg Host.Outcome.next h)
  refine ⟨fun u hu hm => ⟨fun hf => ?_, fun hf => ⟨fun hnone => ?_, fun s1 hg => ?_⟩⟩, fun u hu hm => hreply (memReadOp_barred hd ht hu hm),
    fun hu hi => hreply (memReadOp_hole hd ht hu hi), fun hsup hlo hhi s1 hg => ?_⟩
  · have hheld : (if (tapOf s m u).isSome then none else heldAt s m u) = none := by
      rw [heldAt_fenced hf]
      exact ite_self none
    exact hreply (memReadOp_sent hd ht hu hm (sentTo_fenced hf) hheld (fragRead_fenced (fragWords_ne_nil hwf) fun x hx => fragWord_fenced hwf hu hf hx))
  · rw [hexec, memReadOp_stays hd ht hu hm ((sentTo_way hf).trans hnone)]
  · have hk := pathGrant_keeps hg
    have hs : sentTo s m u (tapOf s m u).isSome rv = some s1 := (sentTo_way hf).trans hg
    refine ⟨hk, ?_, fun b hb htap => ?_, fun b hb htap => ?_⟩
    · rintro st c row w rfl
      have htap : tapOf s m (.pc st c row w) = none := by
        unfold tapOf
        split <;> simp_all
      have hclean : fragRead m 0 (tapOf s m (.pc st c row w)) ws s1 = (ws.map fun x => wordGet s1.mem (x.1 / 16), 0, s1) := by
        rw [htap]
        exact fragRead_served fun x hx => fragWord_clean hwf hk hp hl hu hf (fun _ h => nomatch h) hx
      rw [hk.mem] at hclean
      exact hreply (memReadOp_sent hd ht hu hm hs (by rw [htap]; rfl) hclean)
    · subst hb
      have hheld : (if (tapOf s m (.bank b)).isSome then none else heldAt s1 m (.bank b)) =
          if ownerCheck s.banks[b] (masterCode s b m) = 9 then some b else none := by
        rw [htap]
        exact heldAt_bank hk hf
      refine ⟨fun ho => ?_, fun ho => ?_, fun ho => ?_⟩
      · rw [hexec, memReadOp_held hd ht hu hm hs (hheld.trans (if_pos ho))]
      · have hclean : fragRead m (masterCode s b m) (tapOf s m (.bank b)) ws s1 = (ws.map fun x => wordGet s1.mem (x.1 / 16), 0, s1) := by
          rw [htap]
          refine fragRead_served fun x hx => fragWord_clean hwf hk hp hl hu hf (fun b' h => ?_) hx
          cases h
          exact ho
        rw [hk.mem] at hclean
        exact hreply (memReadOp_sent hd ht hu hm hs (hheld.trans (if_neg (by rw [ho]; decide))) hclean)
      · have hwords : ∀ x, x ∈ ws → unitOf s1 x.1 = some (.bank b) := fun x hx => fragWords_bank hwf ((hk.unitOf f.addr).trans hu) hx
        have ho1 : ownerCheck s1.banks[b] (masterCode s b m) = 5 := by
          rw [hk.banks]
          exact ho
        obtain ⟨t, hread, houts, hmem, hb, hother⟩ := fragRead_nonOwner hwords ((hk.unitFenced _ _).trans hf) ho1
        rw [if_neg (fragWords_ne_nil hwf)] at hread
        have hread' : fragRead m (masterCode s b m) (tapOf s m (.bank b)) ws s1 = (none' 0, 5, t) := by
          rw [htap]
          exact hread
        refine ⟨_, hreply (memReadOp_sent hd ht hu hm hs (hheld.trans (if_neg (by rw [ho]; decide))) hread'), ?_, ?_, ?_, ?_⟩
        · exact congrArg (· ++ [.bus f.master f.tag (none' 0) 5]) (houts.trans hk.outs)
        · exact hmem.trans hk.mem
        · refine hb.trans ?_
          rw [hk.banks]
        · intro b' hne
          refine (hother b' hne).trans ?_
          rw [hk.banks]
    · subst hb
      have hclean : fragRead m (codeAt s (.bank b) m) (tapOf s m (.bank b)) ws s1 = (ws.map fun x => wordGet s1.mem (x.1 / 16), 0, s1) := by
        rw [htap]
        exact fragRead_served fun x hx => (tapWord_served ((hk.unitFenced _ _).trans hf)).trans
          (checkWord_clean (hk.mem ▸ hp) (hk.mem ▸ hl) _ _ _)
      rw [hk.mem] at hclean
      exact hreply (memReadOp_sent hd ht hu hm hs (by rw [htap]; rfl) hclean)
  · have hhigh : hbmHi ≤ f.addr := by
      simp only [hbmHi]
      omega
    have hram : ∀ x, x ∈ fragWords f → 0x80F0000000 ≤ x.1 ∧ x.1 < 0x80F0100000 := by
      intro x hx
      obtain ⟨hblock, -, -, -, -⟩ := fragWords_block hwf hx
      omega
    have hmem : s1.mem = s.mem := (portGrant_keeps hg).mem
    have hres := memReadOp_ram hd ht hsup (unitOf_high s hhigh) hg hram
    rw [hmem] at hres
    exact hreply hres

end Sys2Proof.Machine

/-! PROOF. Writes of memory: O28. -/
namespace Sys2Proof.Machine

/-! ### Writes of one word -/

section Words

variable {s : State} {d code a : Nat} {v : W128} {k : List Bool}

theorem dirtyMark_quiet (h : s.twin.resync = none) (a : Nat) : dirtyMark s a = s := by rw [dirtyMark, h]

/-- The owner's code at a unit, as a write asks for it. -/
def ownAt (s : State) (u : MemUnit) (code : Nat) : Nat :=
  match u with
  | .bank b => ownerCheck s.banks[b] code
  | .pc .. => 0

theorem writeMasked_fenced {u : MemUnit} (hu : unitOf s a = some u) (hf : unitFenced s d u = true) :
    writeMasked s d code a v k = { data := 0, status := 8, s := s } := by
  rw [writeMasked, hu]
  exact if_pos hf

theorem writeMasked_nonOwner {b : BankId} (hu : unitOf s a = some (.bank b)) (hf : unitFenced s d (.bank b) = false) (ho : ownerCheck s.banks[b] code = 5) :
    writeMasked s d code a v k = { data := 0, status := 5, s := nonOwner s b code (a / 16) true } := by
  have h9 : ¬ ownerCheck s.banks[b] code = 9 := by
    rw [ho]
    decide
  have h0 : ownerCheck s.banks[b] code ≠ 0 := by
    rw [ho]
    decide
  rw [writeMasked, hu]
  exact (if_neg (ne_true_of_eq_false hf)).trans ((if_neg h9).trans (if_pos h0))

/-- The word that a store of the enabled bytes leaves. -/
def maskedStore (m : Store) (w : Nat) (v : W128) (k : List Bool) : Store :=
  wordSet m w (if (List.range 16).all (fun i => nth k i false) then v else mergeBytes (wordGet m w) v k)

/-- On memory without errors, outside a resynchronisation, a served write stores its enabled bytes. -/
theorem writeMasked_served {u : MemUnit} (hu : unitOf s a = some u) (hf : unitFenced s d u = false) (ho : ownAt s u code = 0)
    (hp : s.mem.poison = []) (hl : s.mem.latent = []) (hr : s.twin.resync = none) :
    writeMasked s d code a v k = { data := 0, status := 0, s := { s with mem := maskedStore s.mem (a / 16) v k } } := by
  have h9 : ¬ ownAt s u code = 9 := by
    rw [ho]
    decide
  have h0 : ¬ ownAt s u code ≠ 0 := by
    rw [ho]
    decide
  rw [writeMasked, hu]
  refine (if_neg (ne_true_of_eq_false hf)).trans ((if_neg h9).trans ((if_neg h0).trans ?_))
  by_cases hall : (List.range 16).all (fun i => nth k i false) = true
  · rw [if_pos hall, maskedStore, if_pos hall, dirtyMark_quiet (by exact hr)]
  · rw [if_neg hall, maskedStore, if_neg hall, checkWord_clean hp hl]
    dsimp only
    rw [if_neg (by decide), dirtyMark_quiet (by exact hr)]

theorem byteOf_maskedStore (old v : W128) (k : List Bool) {i : Nat} (hi : i < 16) :
    byteOf (if (List.range 16).all (fun i => nth k i false) then v else mergeBytes old v k) i = if nth k i false then byteOf v i else byteOf old i := by
  split
  · next h =>
    rw [List.all_eq_true] at h
    rw [if_pos (h i (List.mem_range.2 hi))]
  · exact byteOf_mergeBytes old v k hi

/-- The bytes that a store of the enabled bytes of a word leaves. -/
theorem cellGet_maskedStore {m : Store} (hm : cellsWf m.cells = true) (w x : Nat) (v : W128) (k : List Bool) :
    cellGet (maskedStore m w v k).cells x = if x / 16 = w ∧ nth k (x % 16) false = true then byteOf v (x % 16) else cellGet m.cells x := by
  have hlt : x % 16 < 16 := Nat.mod_lt x (by decide)
  rw [maskedStore, cellGet_wordSet hm, byteOf_maskedStore _ _ _ hlt, byteOf_wordGet _ _ hlt]
  by_cases hw : x / 16 = w
  · have hx : 16 * w + x % 16 = x := by omega
    rw [if_pos hw, hx]
    by_cases hk : nth k (x % 16) false = true
    · rw [if_pos hk, if_pos ⟨hw, hk⟩]
    · rw [if_neg hk, if_neg (fun h => hk h.2)]
  · rw [if_neg hw, if_neg (fun h => hw h.1)]

theorem maskedStore_clean {m : Store} (w : Nat) (v : W128) (k : List Bool) (hp : m.poison = []) (hl : m.latent = []) :
    (maskedStore m w v k).poison = [] ∧ (maskedStore m w v k).latent = [] := by
  rw [maskedStore, wordSet]
  simp only [hp, hl, List.filter_nil, and_self]

theorem cellsWf_maskedStore {m : Store} (hm : cellsWf m.cells = true) (w : Nat) (v : W128) (k : List Bool) : cellsWf (maskedStore m w v k).cells = true :=
  cellsWf_cellsSet hm _ _

end Words

/-! ### The words of a written fragment -/

section Fragments

variable {f : Frag} {data : List Byte} {en : List Bool} {m : MasterKind} {code : Nat}

/-- Some word of a list has an enabled byte of the fragment. -/
def enables (f : Frag) (en : List Bool) (ws : List (Nat × List Bool)) : Bool := ws.any fun x => !(fragEnable f en x.1 x.2).all (! ·)

theorem enables_cons (f : Frag) (en : List Bool) (x : Nat × List Bool) (ws : List (Nat × List Bool)) :
    enables f en (x :: ws) = (!(fragEnable f en x.1 x.2).all (! ·) || enables f en ws) := rfl

theorem fragWrite_cons (f : Frag) (data : List Byte) (en : List Bool) (m : MasterKind) (code : Nat) (x : Nat × List Bool) (ws : List (Nat × List Bool)) (s : State)
    (hdm : dmOffset s m x.1 = none) : fragWrite m code f data en (x :: ws) s =
      if (fragEnable f en x.1 x.2).all (! ·) then fragWrite m code f data en ws s
      else
        let r := writeMasked s (masterDie m) code x.1 (fragByteWord f data x.1) (fragEnable f en x.1 x.2)
        (if r.status ≠ 0 then r.status else (fragWrite m code f data en ws r.s).1, (fragWrite m code f data en ws r.s).2) := by
  rw [fragWrite, hdm]

theorem fragWrite_fenced {s : State} {ws : List (Nat × List Bool)} (hdm : ∀ x, x ∈ ws → dmOffset s m x.1 = none)
    (h : ∀ x, x ∈ ws → ∃ u, unitOf s x.1 = some u ∧ unitFenced s (masterDie m) u = true) :
    fragWrite m code f data en ws s = (if enables f en ws then 8 else 0, s) := by
  induction ws with
  | nil => rfl
  | cons x ws ih =>
    obtain ⟨u, hu, hf⟩ := h x List.mem_cons_self
    have hrest := ih (fun y hy => hdm y (List.mem_cons_of_mem x hy)) fun y hy => h y (List.mem_cons_of_mem x hy)
    rw [fragWrite_cons _ _ _ _ _ _ _ _ (hdm x List.mem_cons_self), writeMasked_fenced hu hf, enables_cons]
    dsimp only
    rw [hrest]
    by_cases hall : (fragEnable f en x.1 x.2).all (! ·) = true
    · rw [if_pos hall, hall]
      rfl
    · rw [if_neg hall, Bool.eq_false_of_not_eq_true hall]
      rfl

theorem fragWrite_nonOwner {s : State} {b : BankId} {ws : List (Nat × List Bool)} (hdm : ∀ (t : State) x, x ∈ ws → dmOffset t m x.1 = none)
    (hu : ∀ x, x ∈ ws → unitOf s x.1 = some (.bank b)) (hf : unitFenced s (masterDie m) (.bank b) = false) (ho : ownerCheck s.banks[b] code = 5) :
    ∃ t, fragWrite m code f data en ws s = (if enables f en ws then 5 else 0, t) ∧ t.mem = s.mem ∧ t.outs = s.outs := by
  induction ws generalizing s with
  | nil => exact ⟨s, rfl, rfl, rfl⟩
  | cons x ws ih =>
    have hdm' := fun t y hy => hdm t y (List.mem_cons_of_mem x hy)
    have hu' := fun y hy => hu y (List.mem_cons_of_mem x hy)
    rw [fragWrite_cons _ _ _ _ _ _ _ _ (hdm s x List.mem_cons_self), enables_cons]
    by_cases hall : (fragEnable f en x.1 x.2).all (! ·) = true
    · rw [if_pos hall, hall]
      exact ih hdm' hu' hf ho
    · rw [if_neg hall, Bool.eq_false_of_not_eq_true hall, writeMasked_nonOwner (hu x List.mem_cons_self) hf ho]
      obtain ⟨l, hl⟩ := nonOwner_frame s b code (x.1 / 16) true
      have hbank : (nonOwner s b code (x.1 / 16) true).banks[b] = { s.banks[b] with nonowner := satInc s.banks[b].nonowner } := by
        rw [hl]
        exact modBank_same s b _
      have hfab : (nonOwner s b code (x.1 / 16) true).fab = s.fab := by
        rw [hl]
        rfl
      obtain ⟨t, ht, hmem, houts⟩ := ih (s := nonOwner s b code (x.1 / 16) true) hdm'
        (fun y hy => by
          rw [hl]
          exact hu' y hy)
        (by
          refine Eq.trans ?_ hf
          simp only [unitFenced, reachable, hfab, hbank])
        (by rw [hbank]; exact ho)
      refine ⟨t, ?_, hmem.trans (by rw [hl]; rfl), houts.trans (by rw [hl]; rfl)⟩
      dsimp only
      rw [ht]
      rfl

/-- What the fragment has for the byte at `x`. -/
def fragByte (f : Frag) (data : List Byte) (x : Nat) : Byte := if f.addr ≤ x then nth data (x - f.addr) 0 else 0

theorem byteOf_fragByteWord (f : Frag) (data : List Byte) {w x : Nat} (hw : w % 16 = 0) (hx : x / 16 = w / 16) :
    byteOf (fragByteWord f data w) (x % 16) = fragByte f data x := by
  have hlt : x % 16 < 16 := Nat.mod_lt x (by decide)
  have hsum : w + x % 16 = x := by omega
  rw [fragByteWord, byteOf_wordOfBytes (by simp), nth_map_range, if_pos hlt, hsum, fragByte]

/-- The byte at `x` is enabled in one of the words. -/
def enabledAt (f : Frag) (en : List Bool) (ws : List (Nat × List Bool)) (x : Nat) : Bool :=
  ws.any fun y => y.1 / 16 == x / 16 && nth (fragEnable f en y.1 y.2) (x % 16) false

theorem enabledAt_cons (f : Frag) (en : List Bool) (y : Nat × List Bool) (ws : List (Nat × List Bool)) (x : Nat) :
    enabledAt f en (y :: ws) x = ((y.1 / 16 == x / 16 && nth (fragEnable f en y.1 y.2) (x % 16) false) || enabledAt f en ws x) := rfl

/-- A write fragment that is served stores its enabled bytes and nothing else. -/
theorem fragWrite_served {s : State} {ws : List (Nat × List Bool)} (hdm : ∀ m', ∀ x, x ∈ ws → dmOffset { s with mem := m' } m x.1 = none)
    (hal : ∀ x, x ∈ ws → x.1 % 16 = 0)
    (h : ∀ x, x ∈ ws → ∃ u, unitOf s x.1 = some u ∧ unitFenced s (masterDie m) u = false ∧ ownAt s u code = 0)
    (hwf : cellsWf s.mem.cells = true) (hp : s.mem.poison = []) (hl : s.mem.latent = []) (hr : s.twin.resync = none) :
    ∃ m', fragWrite m code f data en ws s = (0, { s with mem := m' }) ∧ m'.poison = [] ∧ m'.latent = [] ∧
      ∀ x, cellGet m'.cells x = if enabledAt f en ws x then fragByte f data x else cellGet s.mem.cells x := by
  induction ws generalizing s with
  | nil => exact ⟨s.mem, rfl, hp, hl, fun _ => rfl⟩
  | cons y ws ih =>
    have hdm' := fun m' z hz => hdm m' z (List.mem_cons_of_mem y hz)
    have hal' := fun z hz => hal z (List.mem_cons_of_mem y hz)
    have h' := fun z hz => h z (List.mem_cons_of_mem y hz)
    have hy := hal y List.mem_cons_self
    rw [fragWrite_cons _ _ _ _ _ _ _ _ (hdm s.mem y List.mem_cons_self)]
    by_cases hall : (fragEnable f en y.1 y.2).all (! ·) = true
    · rw [if_pos hall]
      obtain ⟨m', hrun, hp', hl', hcells⟩ := ih hdm' hal' h' hwf hp hl hr
      refine ⟨m', hrun, hp', hl', fun x => ?_⟩
      have hoff : nth (fragEnable f en y.1 y.2) (x % 16) false = false := by
        rw [fragEnable, nth_map_range, if_pos (Nat.mod_lt x (by decide))]
        rw [fragEnable, List.all_map, List.all_eq_true] at hall
        have hone := hall (x % 16) (List.mem_range.2 (Nat.mod_lt x (by decide)))
        simpa only [Function.comp, Bool.not_eq_true'] using hone
      rw [hcells, enabledAt_cons, hoff, Bool.and_false, Bool.false_or]
    · rw [if_neg hall]
      obtain ⟨u, hu, hf, ho⟩ := h y List.mem_cons_self
      rw [writeMasked_served hu hf ho hp hl hr]
      obtain ⟨hp1, hl1⟩ := maskedStore_clean (y.1 / 16) (fragByteWord f data y.1) (fragEnable f en y.1 y.2) hp hl
      obtain ⟨m', hrun, hp', hl', hcells⟩ := ih (s := { s with mem := maskedStore s.mem (y.1 / 16) (fragByteWord f data y.1) (fragEnable f en y.1 y.2) })
        hdm' hal' h' (cellsWf_maskedStore hwf _ _ _) hp1 hl1 hr
      refine ⟨m', ?_, hp', hl', fun x => ?_⟩
      · dsimp only
        rw [hrun]
        rfl
      · rw [hcells, cellGet_maskedStore hwf]
        simp only [enabledAt_cons, Bool.or_eq_true, Bool.and_eq_true, beq_iff_eq]
        by_cases hrest : enabledAt f en ws x = true
        · rw [if_pos hrest, if_pos (Or.inr hrest)]
        · rw [if_neg hrest]
          by_cases hone : x / 16 = y.1 / 16 ∧ nth (fragEnable f en y.1 y.2) (x % 16) false = true
          · rw [if_pos hone, if_pos (Or.inl ⟨hone.1.symm, hone.2⟩), byteOf_fragByteWord f data hy hone.1]
          · rw [if_neg hone, if_neg]
            rintro (hc | hc)
            · exact hone ⟨hc.1.symm, hc.2⟩
            · exact hrest hc

end Fragments

section Enables

variable {f : Frag} {en : List Bool}

/-- Among the words of a fragment, the enabled bytes are those that its enables name. -/
theorem enabledAt_fragWords (f : Frag) (en : List Bool) (x : Nat) :
    enabledAt f en (fragWords f) x = true ↔ f.addr ≤ x ∧ x < f.addr + f.len ∧ nth en (x - f.addr) false = true := by
  have hlt : x % 16 < 16 := Nat.mod_lt x (by decide)
  have hone : ∀ i, nth (fragEnable f en (f.addr / 16 * 16 + 16 * i)
      ((List.range 16).map fun j => decide (f.addr ≤ f.addr / 16 * 16 + 16 * i + j ∧ f.addr / 16 * 16 + 16 * i + j < f.addr + f.len))) (x % 16) false =
      (decide (f.addr ≤ f.addr / 16 * 16 + 16 * i + x % 16 ∧ f.addr / 16 * 16 + 16 * i + x % 16 < f.addr + f.len) &&
        nth en (f.addr / 16 * 16 + 16 * i + x % 16 - f.addr) false) := by
    intro i
    rw [fragEnable, nth_map_range, if_pos hlt, nth_map_range, if_pos hlt]
  simp only [enabledAt, fragWords, List.any_map, List.any_eq_true, Function.comp, List.mem_range, Bool.and_eq_true, beq_iff_eq, hone, decide_eq_true_eq]
  constructor
  · rintro ⟨i, -, hw, ⟨hlo, hhi⟩, hen⟩
    have hx : f.addr / 16 * 16 + 16 * i + x % 16 = x := by omega
    rw [hx] at hlo hhi hen
    exact ⟨hlo, hhi, hen⟩
  · rintro ⟨hlo, hhi, hen⟩
    have hx : f.addr / 16 * 16 + 16 * (x / 16 - f.addr / 16) + x % 16 = x := by omega
    refine ⟨x / 16 - f.addr / 16, ?_, by omega, ?_⟩
    · rw [cdiv]
      omega
    · rw [hx]
      exact ⟨⟨hlo, hhi⟩, hen⟩

theorem enables_of_enabledAt {ws : List (Nat × List Bool)} {x : Nat} (h : enabledAt f en ws x = true) : enables f en ws = true := by
  obtain ⟨y, hy, hbyte⟩ := List.any_eq_true.1 h
  rw [Bool.and_eq_true] at hbyte
  refine List.any_eq_true.2 ⟨y, hy, ?_⟩
  rw [Bool.not_eq_true', Bool.eq_false_iff]
  intro hall
  rw [List.all_eq_true] at hall
  have hmem : true ∈ fragEnable f en y.1 y.2 := by
    rw [nth, List.getD_eq_getElem?_getD] at hbyte
    have hsome : (fragEnable f en y.1 y.2)[x % 16]? = some true := by
      have h2 := hbyte.2
      cases hget : (fragEnable f en y.1 y.2)[x % 16]? with
      | none =>
        rw [hget] at h2
        cases h2
      | some b =>
        rw [hget] at h2
        exact congrArg some h2
    exact List.mem_of_getElem? hsome
  exact absurd (hall true hmem) (by decide)

/-- A fragment with an enabled byte has a word with one. -/
theorem enables_fragWords (hlen : en.length = f.len) (h : ∃ j, nth en j false = true) : enables f en (fragWords f) = true := by
  obtain ⟨j, hj⟩ := h
  have hlt : j < en.length := by
    by_contra hge
    rw [nth, List.getD_eq_getElem?_getD, List.getElem?_eq_none (Nat.le_of_not_lt hge)] at hj
    cases hj
  refine enables_of_enabledAt (x := f.addr + j) ((enabledAt_fragWords f en _).2 ⟨by omega, by omega, ?_⟩)
  rw [Nat.add_sub_cancel_left]
  exact hj

end Enables

/-! ### O28 -/

/-- Design memory lies in HBM alone (R218). -/
theorem dmOffset_bank (s : State) (m : MasterKind) {a : Nat} (h : a < hbmLo) : dmOffset s m a = none := by
  have hoff : ∀ p, partOffset s p a = none := by
    intro p
    have hin : inPlacement s p a = false := by
      rw [inPlacement]
      exact if_pos (Or.inr (Or.inl h))
    rw [partOffset, hin]
    rfl
  unfold dmOffset
  split
  · split
    · rw [hoff]
    · rfl
  · rfl

/-- The unit is a bank. -/
def isBank : MemUnit → Bool
  | .bank _ => true
  | .pc .. => false

section Writes

variable {s : State} {f : Frag} {data : List Byte} {en : List Bool} {tap : Bool} {rv : Rivals} (hd : dead s = false) (ht : tagBusy s f = false)
include hd ht

theorem memWriteOp_barred {u : MemUnit} (hu : unitOf s f.addr = some u)
    (hm : mayReach s (masterKind f.master.toNat) u f.addr = false ∨ (tapOf s (masterKind f.master.toNat) u).isSome = true ∨ (tap = true ∧ ∃ b, u = .bank b)) :
    memWriteOp s f data en tap rv [] = emit s (.bus f.master f.tag [] 4) := by
  unfold memWriteOp
  rw [hd, ht, hu]
  simp only [Bool.or_self, Bool.false_eq_true, if_false]
  refine if_pos ?_
  rcases hm with h | h | ⟨h, b, rfl⟩
  · rw [h]
    rfl
  · rw [h, Bool.or_true, Bool.true_or]
  · rw [h, Bool.true_and, Bool.or_true]

variable {u : MemUnit} (hu : unitOf s f.addr = some u) (hm : mayReach s (masterKind f.master.toNat) u f.addr = true)
  (hn : tapOf s (masterKind f.master.toNat) u = none) (hb : tap = true → ∃ st c row w, u = .pc st c row w)
include hu hm hn hb

theorem memWriteOp_sent : memWriteOp s f data en tap rv [] =
    match sentTo s (masterKind f.master.toNat) u false rv with
    | none => s
    | some s1 =>
      match heldAt s1 (masterKind f.master.toNat) u with
      | some b => modBank s1 b fun k => { k with held := k.held ++ [{ frag := f, data := some (data, en) }] }
      | none =>
        let r := fragWrite (masterKind f.master.toNat) (codeAt s u (masterKind f.master.toNat)) f data en (fragWords f) s1
        emit r.2 (.bus f.master f.tag [] r.1) := by
  have hbar : (!mayReach s (masterKind f.master.toNat) u f.addr || (tapOf s (masterKind f.master.toNat) u).isSome ||
      (tap && isBank u)) = false := by
    rw [hm, hn]
    cases tap with
    | false => rfl
    | true =>
      obtain ⟨st, c, row, w, rfl⟩ := hb rfl
      rfl
  unfold memWriteOp
  rw [hd, ht, hu]
  simp only [Bool.or_self, Bool.false_eq_true, if_false]
  refine (if_neg (ne_true_of_eq_false hbar)).trans ?_
  rfl

theorem memWriteOp_served {s1 : State} (hs : sentTo s (masterKind f.master.toNat) u false rv = some s1) (hh : heldAt s1 (masterKind f.master.toNat) u = none)
    {st : Nat} {t : State} (hr : fragWrite (masterKind f.master.toNat) (codeAt s u (masterKind f.master.toNat)) f data en (fragWords f) s1 = (st, t)) :
    memWriteOp s f data en tap rv [] = emit t (.bus f.master f.tag [] st) := by
  rw [memWriteOp_sent hd ht hu hm hn hb, hs]
  dsimp only
  rw [hh]
  dsimp only
  rw [hr]

end Writes

/-- Settles O28: the way is won or waited for; then each word with enabled bytes is stored, held, counted or refused by one unit. -/
theorem memoryWriteResults : Obligations.MemoryWriteResults := by
  intro s f data en tap rv hplain hwf hdata hen henw hd hfz ht m i stores told8
  obtain ⟨hinv, hp, hl, hr⟩ := hplain
  have hcells : cellsWf s.mem.cells = true := ((Memory.wf_iff s.mem).1 hinv).1
  have hok : (f.wf && decide (data.length = f.len) && decide (en.length = f.len) && f.enablesWf en) = true := by
    rw [hwf, hdata, hen, henw]
    simp
  have hexec : exec i s = .next (memWriteOp s f data en tap rv []) :=
    (exec_memoryWrite f data en tap rv [] s).trans (congrArg Host.Outcome.next (if_pos hok))
  refine ⟨fun u hu hm hn hb => ⟨fun hf hdm => ?_, fun hf => ⟨fun hnone => ?_, fun s1 hg => ?_⟩⟩, fun u hu hbar => ?_⟩
  · have hall : ∀ x, x ∈ fragWords f → ∃ u, unitOf s x.1 = some u ∧ unitFenced s (masterDie m) u = true := by
      intro x hx
      cases u with
      | pc st c row w => exact ⟨_, fragWords_pc hwf hu hx, hf⟩
      | bank b => exact ⟨_, fragWords_bank hwf hu hx, hf⟩
    refine ⟨_, hexec.trans (congrArg Host.Outcome.next (memWriteOp_served hd ht hu hm hn hb (sentTo_fenced hf) (heldAt_fenced hf) (fragWrite_fenced hdm hall))), rfl,
      fun hj => ?_⟩
    rw [if_pos (enables_fragWords hen hj)]
    rfl
  · rw [hexec, memWriteOp_sent hd ht hu hm hn hb, sentTo_way hf, hnone]
  · have hk := pathGrant_keeps hg
    have hs : sentTo s m u false rv = some s1 := (sentTo_way hf).trans hg
    have hserve : heldAt s1 m u = none → (∀ m', ∀ x, x ∈ fragWords f → dmOffset { s1 with mem := m' } m x.1 = none) →
        (∀ b, u = .bank b → ownerCheck s.banks[b] (codeAt s u m) = 0) → stores s1 := by
      intro hh hdm ho
      have hall : ∀ x, x ∈ fragWords f → ∃ u', unitOf s1 x.1 = some u' ∧ unitFenced s1 (masterDie m) u' = false ∧ ownAt s1 u' (codeAt s u m) = 0 := by
        intro x hx
        cases u with
        | pc st c row w => exact ⟨_, fragWords_pc hwf ((hk.unitOf f.addr).trans hu) hx, (hk.unitFenced _ _).trans hf, rfl⟩
        | bank b =>
          refine ⟨_, fragWords_bank hwf ((hk.unitOf f.addr).trans hu) hx, (hk.unitFenced _ _).trans hf, ?_⟩
          rw [ownAt, hk.banks]
          exact ho b rfl
      obtain ⟨m', hrun, hp', hl', hbytes⟩ := fragWrite_served (data := data) (en := en) hdm (fun x hx => (fragWords_block hwf hx).2.1) hall
        (by rw [hk.mem]; exact hcells) (by rw [hk.mem]; exact hp) (by rw [hk.mem]; exact hl) (by rw [hk.twin]; exact hr)
      refine ⟨_, hexec.trans (congrArg Host.Outcome.next (memWriteOp_served hd ht hu hm hn hb hs hh hrun)), rfl, fun a => ?_, hp', hl'⟩
      refine (hbytes a).trans ?_
      rw [hk.mem]
      by_cases ha : enabledAt f en (fragWords f) a = true
      · have hin := (enabledAt_fragWords f en a).1 ha
        rw [if_pos ha, if_pos ⟨hin.1, hin.2.1, hin.2.2⟩, fragByte, if_pos hin.1]
      · rw [if_neg ha, if_neg]
        rintro ⟨hlo, hhi, hen'⟩
        exact ha ((enabledAt_fragWords f en a).2 ⟨hlo, hhi, hen'⟩)
    refine ⟨fun st c row w hpc hdm => ?_, fun b hbank => ?_⟩
    · subst hpc
      refine hserve rfl (fun m' x hx => ?_) (fun _ h => nomatch h)
      have hdm1 : dmOffset { s1 with mem := m' } m x.1 = dmOffset s m x.1 := by
        rw [hk]
        rfl
      rw [hdm1, hdm x hx]
    · subst hbank
      have hheld := heldAt_bank hk hf
      have hlow : ∀ (t : State) x, x ∈ fragWords f → dmOffset t m x.1 = none := by
        intro t x hx
        refine dmOffset_bank t m ?_
        have hb := (unitOf_eq_bank_iff s x.1 b).1 (fragWords_bank hwf hu hx)
        simp only [spHi, hbmLo] at hb ⊢
        omega
      refine ⟨fun ho => ?_, fun ho => ?_, fun ho => ?_⟩
      · refine hserve (hheld.trans (if_neg (by rw [ho]; decide))) (fun m' x hx => hlow _ x hx) (fun b' hb' => ?_)
        cases hb'
        exact ho
      · rw [hexec, memWriteOp_sent hd ht hu hm hn hb, hs]
        dsimp only
        rw [hheld.trans (if_pos ho)]
      · have ho1 : ownerCheck s1.banks[b] (masterCode s b m) = 5 := by
          rw [hk.banks]
          exact ho
        obtain ⟨t, hrun, hmem, houts⟩ := fragWrite_nonOwner (f := f) (data := data) (en := en) hlow
          (fun x hx => fragWords_bank hwf ((hk.unitOf f.addr).trans hu) hx) ((hk.unitFenced _ _).trans hf) ho1
        refine ⟨_, hexec.trans (congrArg Host.Outcome.next (memWriteOp_served hd ht hu hm hn hb hs (hheld.trans (if_neg (by rw [ho]; decide))) hrun)),
          hmem.trans hk.mem, fun hj => ?_⟩
        rw [if_pos (enables_fragWords hen hj)]
        exact congrArg (· ++ [.bus f.master f.tag [] 5]) (houts.trans hk.outs)
  · rw [hexec, memWriteOp_barred hd ht hu hbar]

end Sys2Proof.Machine

/-! PROOF. Atomics: O29. -/
namespace Sys2Proof.Machine

/-! ### O29: the atomics -/

/-- What an atomic leaves of an HBM word without errors. -/
theorem atomicWord_served {s : State} {d a : Nat} {g : W128 → W128} {st : StackId} {c : Fin 32} {row w : Nat} (hu : unitOf s a = some (.pc st c row w))
    (hf : unitFenced s d (.pc st c row w) = false) (hp : s.mem.poison = []) (hl : s.mem.latent = []) (hr : s.twin.resync = none) :
    atomicWord s d a g =
      Acc.mk (wordGet s.mem (a / 16)) 0 { s with mem := wordSet s.mem (a / 16) (g (wordGet s.mem (a / 16))), atomicOps := s.atomicOps + 1 } := by
  have hclean := checkWord_clean hp hl (.pc st c row w) 0 (a / 16)
  rw [atomicWord, hu]
  refine (if_neg (ne_true_of_eq_false hf)).trans ?_
  rw [hclean]
  dsimp only
  rw [if_neg (by decide), dirtyMark_quiet (by exact hr)]

theorem atomicWord_fenced {s : State} {d a : Nat} {g : W128 → W128} {st : StackId} {c : Fin 32} {row w : Nat} (hu : unitOf s a = some (.pc st c row w))
    (hf : unitFenced s d (.pc st c row w) = true) : atomicWord s d a g = { data := 0, status := 8, s := s } := by
  rw [atomicWord, hu]
  exact if_pos hf

/-- `ADD64` adds the low halves and keeps the high one (Table 8.2). -/
theorem add64_eq (m v : W128) : add64 m v = ((m >>> 64) <<< 64) ||| ((m + v).setWidth 64).setWidth 128 := by
  have hm : m.toNat < 2 ^ 128 := m.isLt
  have hhigh : at' 128 64 (fld m 127 64) = (m >>> 64) <<< 64 := by
    apply BitVec.eq_of_toNat_eq
    have hfld : fld m 127 64 = m.toNat >>> 64 := by
      rw [fld, Nat.shiftRight_eq_div_pow]
      exact Nat.mod_eq_of_lt (by omega)
    rw [at', BitVec.toNat_ofNat, BitVec.toNat_shiftLeft, BitVec.toNat_ushiftRight, hfld]
  have hlow : at' 128 0 ((fld m 63 0 + fld v 63 0) % 2 ^ 64) = ((m + v).setWidth 64).setWidth 128 := by
    apply BitVec.eq_of_toNat_eq
    rw [at', BitVec.toNat_ofNat, BitVec.toNat_setWidth, BitVec.toNat_setWidth, BitVec.toNat_add, fld, fld, Nat.shiftLeft_zero, Nat.shiftRight_zero,
      Nat.shiftRight_zero]
    omega
  rw [add64, hhigh, hlow]

section Atomics

variable {s : State} {f : Frag} {rv : Rivals} {isOr ret : Bool} {g : W128 → W128} (hd : dead s = false) (ht : tagBusy s f = false)
include hd ht

theorem atomicOp_bank {b : BankId} (hu : unitOf s f.addr = some (.bank b)) : atomicOp s f rv [] isOr ret g = emit s (.bus f.master f.tag [] 4) := by
  simp only [atomicOp, hd, ht, hu, Bool.or_self, Bool.false_eq_true, if_false]

variable {st : StackId} {c : Fin 32} {row w : Nat} (hu : unitOf s f.addr = some (.pc st c row w))
include hu

theorem atomicOp_barred (h : mayAtomic (masterKind f.master.toNat) isOr = false ∨ mayReach s (masterKind f.master.toNat) (.pc st c row w) f.addr = false) :
    atomicOp s f rv [] isOr ret g = emit s (.bus f.master f.tag [] 4) := by
  have hbar : (!mayAtomic (masterKind f.master.toNat) isOr || !mayReach s (masterKind f.master.toNat) (.pc st c row w) f.addr) = true := by
    rcases h with h | h
    · rw [h]
      rfl
    · rw [h]
      exact Bool.or_true _
  simp only [atomicOp, hd, ht, hu, hbar, Bool.or_self, Bool.false_eq_true, if_false, if_true]

variable (ha : mayAtomic (masterKind f.master.toNat) isOr = true) (hm : mayReach s (masterKind f.master.toNat) (.pc st c row w) f.addr = true)
include ha hm

theorem atomicOp_stays (hs : sentTo s (masterKind f.master.toNat) (.pc st c row w) false rv = none) : atomicOp s f rv [] isOr ret g = s := by
  simp only [atomicOp, hd, ht, hu, ha, hm, hs, Bool.or_self, Bool.not_true, Bool.false_eq_true, if_false]

theorem atomicOp_sent {s1 : State} (hs : sentTo s (masterKind f.master.toNat) (.pc st c row w) false rv = some s1) {r : Acc}
    (hr : atomicWord s1 (masterDie (masterKind f.master.toNat)) f.addr g = r) :
    atomicOp s f rv [] isOr ret g = emit r.s (.bus f.master f.tag (if ret && r.status == 0 then [r.data] else []) r.status) := by
  simp only [atomicOp, hd, ht, hu, ha, hm, hs, Bool.or_self, Bool.not_true, Bool.false_eq_true, if_false, emit_addUpsets_nil, addUpsets_nil, hr]

end Atomics

/-- One atomic, by the word that it makes of the old one. -/
theorem atomic_results {s : State} {f : Frag} {rv : Rivals} (hplain : Plain s) (hd : dead s = false) (ht : tagBusy s f = false) {i : Instr} {isOr ret : Bool}
    {g : W128 → W128} (hi : exec i s = .next (atomicOp s f rv [] isOr ret g)) :
    let m := masterKind f.master.toNat
    let w := f.addr / 16
    let old := wordGet s.mem w
    (∀ st c row k, unitOf s f.addr = some (.pc st c row k) →
      (mayAtomic m isOr = true → mayReach s m (.pc st c row k) f.addr = true →
        (unitFenced s (masterDie m) (.pc st c row k) = true → exec i s = .next (emit s (.bus f.master f.tag [] 8))) ∧
        (unitFenced s (masterDie m) (.pc st c row k) = false → pathGrant s m (.pc st c row k) false rv = none → exec i s = .next s) ∧
        ∀ s1, unitFenced s (masterDie m) (.pc st c row k) = false → pathGrant s m (.pc st c row k) false rv = some s1 →
          ∃ t, exec i s = .next t ∧ t.outs = s.outs ++ [.bus f.master f.tag (if ret then [old] else []) 0] ∧ t.atomicOps = s.atomicOps + 1 ∧
            wordGet t.mem w = g old ∧ (∀ a, a / 16 ≠ w → cellGet t.mem.cells a = cellGet s.mem.cells a) ∧
            t = { s1 with mem := t.mem, outs := t.outs, atomicOps := t.atomicOps }) ∧
      (mayAtomic m isOr = false ∨ mayReach s m (.pc st c row k) f.addr = false → exec i s = .next (emit s (.bus f.master f.tag [] 4)))) ∧
    (∀ b, unitOf s f.addr = some (.bank b) → exec i s = .next (emit s (.bus f.master f.tag [] 4))) := by
  intro m w old
  obtain ⟨hinv, hp, hl, hr⟩ := hplain
  have hcells : cellsWf s.mem.cells = true := ((Memory.wf_iff s.mem).1 hinv).1
  refine ⟨fun st c row k hu => ⟨fun ha hm => ⟨fun hf => ?_, fun hf hnone => ?_, fun s1 hf hg => ?_⟩, fun hbar => ?_⟩, fun b hu => ?_⟩
  · have hrefused : (emit s (.bus f.master f.tag (if ret && (8 : Nat) == 0 then [0] else []) 8)) = emit s (.bus f.master f.tag [] 8) := by
      rw [show ((8 : Nat) == 0) = false from rfl, Bool.and_false]
      rfl
    rw [hi, atomicOp_sent hd ht hu ha hm (sentTo_fenced hf) (atomicWord_fenced hu hf)]
    exact congrArg Host.Outcome.next hrefused
  · rw [hi, atomicOp_stays hd ht hu ha hm ((sentTo_way hf).trans hnone)]
  · have hk := pathGrant_keeps hg
    have hw1 : cellsWf s1.mem.cells = true := by
      rw [hk.mem]
      exact hcells
    have hops : s1.atomicOps = s.atomicOps := by rw [hk]
    have hword := atomicWord_served (g := g) ((hk.unitOf f.addr).trans hu) ((hk.unitFenced (masterDie m) _).trans hf) (by rw [hk.mem]; exact hp)
      (by rw [hk.mem]; exact hl) (by rw [hk.twin]; exact hr)
    refine ⟨_, hi.trans (congrArg Host.Outcome.next (atomicOp_sent hd ht hu ha hm ((sentTo_way hf).trans hg) hword)), ?_, ?_, ?_, fun a hne => ?_, rfl⟩
    · have houts : s1.outs = s.outs := hk.outs
      have hret : (if ret && (0 : Nat) == 0 then [wordGet s1.mem (f.addr / 16)] else []) = if ret then [old] else [] := by
        rw [show ((0 : Nat) == 0) = true from rfl, Bool.and_true, hk.mem]
      change s1.outs ++ _ = _
      rw [houts, hret]
    · exact congrArg (· + 1) hops
    · change wordGet (wordSet s1.mem w (g (wordGet s1.mem w))) w = _
      rw [wordGet_wordSet_same hw1, hk.mem]
    · change cellGet (wordSet s1.mem w (g (wordGet s1.mem w))).cells a = _
      rw [cellGet_wordSet hw1, if_neg hne, hk.mem]
  · rw [hi, atomicOp_barred hd ht hu hbar]
  · rw [hi, atomicOp_bank hd ht hu]

/-- Settles O29: an atomic is one read and one store of a word, whatever its operation; each of the five then names its own. -/
theorem atomicResults : Obligations.AtomicResults := by
  intro s f v e rv hplain hone hd hfz ht m w old atomic
  refine ⟨?_, ?_, ?_, ?_, ?_⟩
  · exact atomic_results (g := (· ||| v)) hplain hd ht (congrArg Host.Outcome.next (if_pos hone))
  · exact atomic_results (g := (· &&& v)) hplain hd ht (congrArg Host.Outcome.next (if_pos hone))
  · have h := atomic_results (rv := rv) (isOr := false) (ret := true) (g := fun m => add64 m v) hplain hd ht
      (i := .atomicAdd64 f v rv []) (congrArg Host.Outcome.next (if_pos hone))
    dsimp only at h
    rw [add64_eq] at h
    exact h
  · exact atomic_results (g := fun _ => v) hplain hd ht (congrArg Host.Outcome.next (if_pos hone))
  · exact atomic_results (g := fun m => if m = e then v else m) hplain hd ht (congrArg Host.Outcome.next (if_pos hone))

end Sys2Proof.Machine

/-! PROOF. Reports, and the fences of memory. -/
namespace Sys2Proof.Machine

/-! ### Reports

What raising an event and noting a fence can change: latches, the alert cause with its in-band interrupt, the outputs, and the supervisor's notice. -/

/-- From `s` to `t` only reports were made. -/
def Reported (s t : State) : Prop := ∃ l d a o n, t = { s with
  ev := { s.ev with latches := l }, dict := { s.dict with alertCause := d }, i3c := { s.i3c with ibiAlert := a }, outs := o
  ls := { s.ls with fenceNotice := n } }

theorem Reported.refl (s : State) : Reported s s := ⟨s.ev.latches, s.dict.alertCause, s.i3c.ibiAlert, s.outs, s.ls.fenceNotice, rfl⟩

theorem Reported.trans {s t u : State} (h : Reported s t) (k : Reported t u) : Reported s u := by
  obtain ⟨l, d, a, o, n, rfl⟩ := h
  obtain ⟨l', d', a', o', n', rfl⟩ := k
  exact ⟨l', d', a', o', n', rfl⟩

theorem raiseN_reported (s : State) (x : Nat) (dt : W32) : Reported s (raiseN s x dt) := by
  obtain ⟨l, d, a, o, h⟩ := raiseN_frame s x dt
  exact ⟨l, d, a, o, s.ls.fenceNotice, h⟩

theorem raise_reported (s : State) (x : SrcId) (dt : W32) : Reported s (raise s x dt) := by
  obtain ⟨l, d, a, o, h⟩ := raise_frame s x dt
  exact ⟨l, d, a, o, s.ls.fenceNotice, h⟩

theorem setAlert_reported (s : State) (i : Nat) : Reported s (setAlert s i) := by
  obtain ⟨d, a, o, h⟩ := setAlert_frame s i
  exact ⟨s.ev.latches, d, a, o, s.ls.fenceNotice, h⟩

theorem bankEvent_reported (s : State) (b : BankId) (k c l : Nat) : Reported s (bankEvent s b k c l) := raiseN_reported _ _ _

theorem fenceEvent_reported (s : State) (k n r : Nat) : Reported s (fenceEvent s k n r) := by
  obtain ⟨l, d, a, o, h⟩ := raiseN_frame { s with ls := { s.ls with fenceNotice := true } } 725 (at' 32 28 k ||| at' 32 16 n ||| at' 32 8 r)
  exact ⟨l, d, a, o, true, h⟩

theorem emit_reported (s : State) (o : Out) : Reported s (emit s o) :=
  ⟨s.ev.latches, s.dict.alertCause, s.i3c.ibiAlert, s.outs ++ [o], s.ls.fenceNotice, rfl⟩

section Fields

variable {s t : State} (h : Reported s t)
include h

theorem Reported.boot : t.boot = s.boot := by obtain ⟨l, d, a, o, n, rfl⟩ := h; rfl
theorem Reported.seq : t.seq = s.seq := by obtain ⟨l, d, a, o, n, rfl⟩ := h; rfl
theorem Reported.eng : t.eng = s.eng := by obtain ⟨l, d, a, o, n, rfl⟩ := h; rfl
theorem Reported.sv : t.sv = s.sv := by obtain ⟨l, d, a, o, n, rfl⟩ := h; rfl
theorem Reported.mem : t.mem = s.mem := by obtain ⟨l, d, a, o, n, rfl⟩ := h; rfl
theorem Reported.stk : t.stk = s.stk := by obtain ⟨l, d, a, o, n, rfl⟩ := h; rfl
theorem Reported.banks : t.banks = s.banks := by obtain ⟨l, d, a, o, n, rfl⟩ := h; rfl
theorem Reported.ceTotal : t.ceTotal = s.ceTotal := by obtain ⟨l, d, a, o, n, rfl⟩ := h; rfl
theorem Reported.ueTotal : t.ueTotal = s.ueTotal := by obtain ⟨l, d, a, o, n, rfl⟩ := h; rfl
theorem Reported.wideGib : t.wideGib = s.wideGib := by obtain ⟨l, d, a, o, n, rfl⟩ := h; rfl
theorem Reported.fab : t.fab = s.fab := by obtain ⟨l, d, a, o, n, rfl⟩ := h; rfl
theorem Reported.parts : t.parts = s.parts := by obtain ⟨l, d, a, o, n, rfl⟩ := h; rfl
theorem Reported.ports : t.ports = s.ports := by obtain ⟨l, d, a, o, n, rfl⟩ := h; rfl
theorem Reported.clusters : t.clusters = s.clusters := by obtain ⟨l, d, a, o, n, rfl⟩ := h; rfl
theorem Reported.pw : t.pw = s.pw := by obtain ⟨l, d, a, o, n, rfl⟩ := h; rfl
theorem Reported.crc : t.crc = s.crc := by obtain ⟨l, d, a, o, n, rfl⟩ := h; rfl
theorem Reported.twin : t.twin = s.twin := by obtain ⟨l, d, a, o, n, rfl⟩ := h; rfl
theorem Reported.fz : t.fz = s.fz := by obtain ⟨l, d, a, o, n, rfl⟩ := h; rfl
theorem Reported.dieFenced : t.dieFenced = s.dieFenced := by obtain ⟨l, d, a, o, n, rfl⟩ := h; rfl
theorem Reported.lsState : t.ls.state = s.ls.state := by obtain ⟨l, d, a, o, n, rfl⟩ := h; rfl
theorem Reported.isOpen : t.dict.isOpen = s.dict.isOpen := by obtain ⟨l, d, a, o, n, rfl⟩ := h; rfl
theorem Reported.waiting : t.dict.waiting = s.dict.waiting := by obtain ⟨l, d, a, o, n, rfl⟩ := h; rfl
theorem Reported.dictPending : t.dict.pending = s.dict.pending := by obtain ⟨l, d, a, o, n, rfl⟩ := h; rfl

theorem Reported.dead : dead t = dead s := by rw [Machine.dead, Machine.dead, h.boot]
theorem Reported.frozen : frozen t = frozen s := by rw [Machine.frozen, Machine.frozen, h.fz]
theorem Reported.unitOf (a : Nat) : unitOf t a = unitOf s a := by rw [Machine.unitOf, Machine.unitOf, h.wideGib]

end Fields

/-! ### Fences of memory -/

/-- A fence of a pseudo-channel sets its bit, notes the partitions it reaches, and is reported (R239). -/
theorem fencePc_reported (s : State) (st : StackId) (c r : Nat) (h : bit s.stk[st].pcFenced c = false) :
    Reported (modStack (hitParts s (stackReach s st)) st fun k => { k with pcFenced := setBit k.pcFenced c true }) (fencePc s st c r) := by
  rw [fencePc, if_neg (ne_true_of_eq_false h)]
  exact (raiseN_reported _ _ _).trans (fenceEvent_reported _ _ _ _)

theorem fencePc_again (s : State) (st : StackId) (c r : Nat) (h : bit s.stk[st].pcFenced c = true) : fencePc s st c r = s := by rw [fencePc, if_pos h]

theorem fenceStack_reported (s : State) (st : StackId) (r : Nat) (h : s.stk[st].fenced = false) :
    Reported (modStack (hitParts s (stackReach s st)) st fun k => { k with fenced := true, pcFenced := BitVec.allOnes 32, quiet := none }) (fenceStack s st r) := by
  rw [fenceStack, if_neg (ne_true_of_eq_false h)]
  exact (raiseN_reported _ _ _).trans (fenceEvent_reported _ _ _ _)

theorem fenceStack_again (s : State) (st : StackId) (r : Nat) (h : s.stk[st].fenced = true) : fenceStack s st r = s := by rw [fenceStack, if_pos h]

/-- The fields of a pseudo-channel's stack after its fence. -/
theorem fencePc_stk (s : State) (st : StackId) (c r : Nat) (hc : c < 32) : ∃ x, (fencePc s st c r).stk[st] = { s.stk[st] with pcFenced := x } ∧
    ∀ i, bit x i = (bit s.stk[st].pcFenced i || i == c) := by
  cases h : bit s.stk[st].pcFenced c with
  | true =>
    rw [fencePc_again s st c r h]
    refine ⟨s.stk[st].pcFenced, rfl, fun i => ?_⟩
    by_cases hi : i = c
    · rw [hi, h]
      rfl
    · rw [beq_eq_false_iff_ne.2 hi, Bool.or_false]
  | false =>
    refine ⟨setBit s.stk[st].pcFenced c true, ?_, fun i => ?_⟩
    · rw [(fencePc_reported s st c r h).stk, modStack_same]
      rfl
    · rw [bit_setBit _ _ _ _ hc]
      by_cases hi : i = c
      · rw [if_pos hi, hi, beq_self_eq_true, Bool.or_true]
      · rw [if_neg hi, beq_eq_false_iff_ne.2 hi, Bool.or_false]

theorem fencePc_stk_other (s : State) {st i : StackId} (c r : Nat) (hi : i ≠ st) : (fencePc s st c r).stk[i] = s.stk[i] := by
  cases h : bit s.stk[st].pcFenced c with
  | true => rw [fencePc_again s st c r h]
  | false =>
    rw [(fencePc_reported s st c r h).stk, modStack_other _ _ _ _ (Ne.symm hi)]
    rfl

theorem fencePc_ueTotal (s : State) (st : StackId) (c r : Nat) : (fencePc s st c r).ueTotal = s.ueTotal := by
  cases h : bit s.stk[st].pcFenced c with
  | true => rw [fencePc_again s st c r h]
  | false => exact (fencePc_reported s st c r h).ueTotal

theorem fencePc_wideGib (s : State) (st : StackId) (c r : Nat) : (fencePc s st c r).wideGib = s.wideGib := by
  cases h : bit s.stk[st].pcFenced c with
  | true => rw [fencePc_again s st c r h]
  | false => exact (fencePc_reported s st c r h).wideGib

/-- A refusal kept for later leaves banks and totals alone. -/
theorem refuseHeld_frame (s : State) (r : Requester) (ix sub c : Nat) : (refuseHeld s r ix sub c).banks = s.banks ∧
    (refuseHeld s r ix sub c).ueTotal = s.ueTotal ∧ (refuseHeld s r ix sub c).wideGib = s.wideGib ∧ (refuseHeld s r ix sub c).stk = s.stk := by
  have k := refuseHeld_keeps s r ix sub c
  have hdict : (dictRefuse s r ix sub true c).banks = s.banks ∧ (dictRefuse s r ix sub true c).ueTotal = s.ueTotal ∧
      (dictRefuse s r ix sub true c).wideGib = s.wideGib ∧ (dictRefuse s r ix sub true c).stk = s.stk := by
    unfold dictRefuse
    split
    · unfold i3cReady
      split
      · exact ⟨rfl, rfl, rfl, rfl⟩
      · dsimp only
        split
        · exact ⟨rfl, rfl, rfl, rfl⟩
        · exact ⟨rfl, rfl, rfl, rfl⟩
    · dsimp only
      split
      · exact ⟨rfl, rfl, rfl, rfl⟩
      · exact ⟨rfl, rfl, rfl, rfl⟩
  unfold refuseHeld
  split
  · exact ⟨rfl, rfl, rfl, rfl⟩
  · exact hdict

/-- A fenced bank loses its drain and what it held; its counts stand. -/
theorem fenceBank_banks (s : State) (b : BankId) (r : Nat) (h : s.banks[b].fenced = false) :
    (fenceBank s b r).banks = s.banks.set b { s.banks[b] with fenced := true, drain := none, held := [], waiters := [] } ∧
    (fenceBank s b r).ueTotal = s.ueTotal ∧ (fenceBank s b r).wideGib = s.wideGib ∧ (fenceBank s b r).stk = s.stk := by
  have hfold : ∀ (l : List HeldFrag) (t : State), Reported t (l.foldl (fun t h => emit t (.bus h.frag.master h.frag.tag [] 8)) t) := by
    intro l
    induction l with
    | nil => exact Reported.refl
    | cons x l ih => exact fun t => (emit_reported t _).trans (ih _)
  have hdrop : ∀ t : State, t.banks = s.banks → (modBank t b fun k => { k with fenced := true, drain := none, held := [], waiters := [] }).banks =
      s.banks.set b { s.banks[b] with fenced := true, drain := none, held := [], waiters := [] } := by
    intro t ht
    rw [modBank, updV, ht]
  unfold fenceBank
  rw [if_neg (ne_true_of_eq_false h)]
  dsimp only
  generalize hs0 : hitParts s _ = s0
  have hs0' : s0.banks = s.banks ∧ s0.ueTotal = s.ueTotal ∧ s0.wideGib = s.wideGib ∧ s0.stk = s.stk := by
    rw [← hs0]
    exact ⟨rfl, rfl, rfl, rfl⟩
  have hsh := hfold s.banks[b].held s0
  have hs1 := hdrop _ (hsh.banks.trans hs0'.1)
  have hrep := fun t => (bankEvent_reported t b 6 0 r).trans (fenceEvent_reported _ 2 b.val r)
  split
  · next new r' hd =>
    obtain ⟨k1, k2, k3, k4⟩ := refuseHeld_frame (modBank (s.banks[b].held.foldl (fun t h => emit t (.bus h.frag.master h.frag.tag [] 8)) s0) b
      fun k => { k with fenced := true, drain := none, held := [], waiters := [] }) r' (0x5000 + b.val) 2 0x0008
    exact ⟨(hrep _).banks.trans (k1.trans hs1), (hrep _).ueTotal.trans (k2.trans (hsh.ueTotal.trans hs0'.2.1)),
      (hrep _).wideGib.trans (k3.trans (hsh.wideGib.trans hs0'.2.2.1)), (hrep _).stk.trans (k4.trans (hsh.stk.trans hs0'.2.2.2))⟩
  · exact ⟨(hrep _).banks.trans hs1, (hrep _).ueTotal.trans (hsh.ueTotal.trans hs0'.2.1), (hrep _).wideGib.trans (hsh.wideGib.trans hs0'.2.2.1),
      (hrep _).stk.trans (hsh.stk.trans hs0'.2.2.2)⟩

theorem fenceBank_again (s : State) (b : BankId) (r : Nat) (h : s.banks[b].fenced = true) : fenceBank s b r = s := by rw [fenceBank, if_pos h]

end Sys2Proof.Machine

/-! PROOF. Upsets and poison: O30. -/
namespace Sys2Proof.Machine

/-! ### O30: upsets and poison -/

theorem mem_insertAsc {x y : Nat} {l : List Nat} : y ∈ insertAsc x l ↔ y = x ∨ y ∈ l := by
  induction l with
  | nil => simp [insertAsc]
  | cons z l ih =>
    rw [insertAsc]
    split
    · exact List.mem_cons
    · split
      · next h =>
        subst h
        simp
      · simp only [List.mem_cons, ih]
        tauto

/-- A unit serves itself: it is not out of its own reach. -/
theorem unitFenced_own {s : State} {d : Nat} {u : MemUnit} (h : unitFenced s d u = false) : unitFenced s (unitDie u) u = false := by
  have hown : reachable s (unitDie u) (unitDie u) = true := by
    have harc : ∀ a, arcLinks a a = [] := by
      intro a
      rw [arcLinks, show (a + 4 - a) % 4 = 0 by omega]
      rfl
    simp only [reachable, harc, List.all_nil, Bool.true_or]
  cases u with
  | pc st c row w =>
    simp only [unitFenced, Bool.or_eq_false_iff, hown] at h ⊢
    exact ⟨rfl, h.2⟩
  | bank b =>
    simp only [unitFenced, Bool.or_eq_false_iff, hown] at h ⊢
    exact ⟨rfl, h.2⟩

/-- A served read is the check of its word. -/
theorem readWord_served {s : State} {d code a : Nat} {u : MemUnit} (hu : unitOf s a = some u) (hf : unitFenced s d u = false)
    (ho : ∀ b, u = .bank b → ownerCheck s.banks[b] code = 0) : readWord s d code a = checkWord s u code (a / 16) := by
  cases u with
  | pc st c row w => exact readWord_pc hu hf
  | bank b => exact readWord_owner hu hf (ho b rfl)

section Upsets

variable {s : State} {u : MemUnit} {code w : Nat}

theorem checkWord_single {fl : W128} (hp : w ∉ s.mem.poison) (h : s.mem.latent.find? (·.word = w) = some { word := w, flips := fl, multi := false }) :
    checkWord s u code w = { data := wordGet s.mem w, status := 0, s := corrected s u code w } := by
  have hc : s.mem.poison.contains w = false := by simpa using hp
  rw [checkWord, h]
  dsimp only
  rw [if_neg (by decide), if_neg (ne_true_of_eq_false hc)]

theorem checkWord_double {fl : W128} (h : s.mem.latent.find? (·.word = w) = some { word := w, flips := fl, multi := true }) :
    checkWord s u code w = { data := wordGet s.mem w ^^^ fl, status := 6, s := uncorrectable s u code w (wordGet s.mem w ^^^ fl) } := by
  rw [checkWord, h]
  dsimp only
  rw [if_pos rfl]

theorem checkWord_poisoned (hp : w ∈ s.mem.poison) (hl : s.mem.latent = []) :
    checkWord s u code w = { data := wordGet s.mem w, status := 7, s := poisonedRead s u code w } := by
  have hc : s.mem.poison.contains w = true := by simpa using hp
  rw [checkWord, hl]
  dsimp only
  exact if_pos hc

/-! A corrected upset (R220, R222). -/

/-- A corrected upset noted: the word waits for its write-back. -/
def noted (s : State) (w : Nat) : State := { s with ceTotal := satInc s.ceTotal, mem := { s.mem with writeBack := insertAsc w s.mem.writeBack } }

theorem corrected_pc (s : State) (st : StackId) (c : Fin 32) (row word code w : Nat) :
    Reported (modStack (noted s w) st fun k => { k with ce := satInc k.ce, ceSeen := s.stk[st].ceSeen + 1 }) (corrected s (.pc st c row word) code w) := by
  unfold corrected
  dsimp only
  split
  · exact raiseN_reported _ _ _
  · exact Reported.refl _

theorem corrected_bank (s : State) (b : BankId) (code w : Nat) :
    Reported (modBank (noted s w) b fun k => { k with ce := satInc k.ce, ceSeen := s.banks[b].ceSeen + 1 }) (corrected s (.bank b) code w) := by
  unfold corrected
  dsimp only
  split
  · exact bankEvent_reported _ _ _ _ _
  · exact Reported.refl _

/-- What a corrected upset leaves. -/
theorem corrected_frame (s : State) (u : MemUnit) (code w : Nat) :
    (corrected s u code w).mem = { s.mem with writeBack := insertAsc w s.mem.writeBack } ∧ (corrected s u code w).ceTotal = satInc s.ceTotal ∧
    (corrected s u code w).ueTotal = s.ueTotal ∧ (corrected s u code w).wideGib = s.wideGib ∧ (corrected s u code w).boot = s.boot ∧
    (corrected s u code w).fz = s.fz ∧ (corrected s u code w).fab = s.fab := by
  cases u with
  | pc st c row word =>
    have hr := corrected_pc s st c row word code w
    exact ⟨hr.mem, hr.ceTotal, hr.ueTotal, hr.wideGib, hr.boot, hr.fz, hr.fab⟩
  | bank b =>
    have hr := corrected_bank s b code w
    exact ⟨hr.mem, hr.ceTotal, hr.ueTotal, hr.wideGib, hr.boot, hr.fz, hr.fab⟩

theorem corrected_bank_same (s : State) (b : BankId) (code w : Nat) : (corrected s (.bank b) code w).banks[b] =
    { s.banks[b] with ce := satInc s.banks[b].ce, ceSeen := s.banks[b].ceSeen + 1 } := by
  rw [(corrected_bank s b code w).banks, modBank_same]
  rfl

theorem corrected_pc_same (s : State) (st : StackId) (c : Fin 32) (row word code w : Nat) : (corrected s (.pc st c row word) code w).stk[st] =
    { s.stk[st] with ce := satInc s.stk[st].ce, ceSeen := s.stk[st].ceSeen + 1 } := by
  rw [(corrected_pc s st c row word code w).stk, modStack_same]
  rfl

/-- No correction fences a unit. -/
theorem corrected_unitFenced (s : State) (u : MemUnit) (d code w : Nat) : unitFenced (corrected s u code w) d u = unitFenced s d u := by
  obtain ⟨-, -, -, -, -, -, hfab⟩ := corrected_frame s u code w
  cases u with
  | pc st c row word => simp only [unitFenced, reachable, hfab, corrected_pc_same s st c row word code w]
  | bank b => simp only [unitFenced, reachable, hfab, corrected_bank_same s b code w]

/-- The write-back of a waiting word ends its upset (R222). -/
theorem exec_writeBack {t : State} (hd : dead t = false) (hz : frozen t = false) (hw : w ∈ t.mem.writeBack) {a : Nat} (ha : 16 * w = a)
    (hu : unitOf t a = some u) (hf : unitFenced t (unitDie u) u = false) : exec (.correctedWriteBack w) t =
      .next { t with mem := { t.mem with writeBack := t.mem.writeBack.filter (· ≠ w), latent := t.mem.latent.filter (·.word ≠ w) } } := by
  have hc : t.mem.writeBack.contains w = true := by simpa using hw
  rw [exec_correctedWriteBack, execCorrectedWriteBack, writeBackOp, hd, hz, hc, ha, hu]
  exact congrArg Host.Outcome.next (if_neg (ne_true_of_eq_false hf))

/-! An uncorrectable upset (R221, R239, R240). -/

theorem fenceBank_same (s : State) (b : BankId) (r : Nat) (h : s.banks[b].fenced = false) :
    (fenceBank s b r).banks[b] = { s.banks[b] with fenced := true, drain := none, held := [], waiters := [] } := by
  rw [(fenceBank_banks s b r h).1]
  exact Vector.getElem_set_self _

/-- An uncorrectable upset noted: the word is poisoned over the data as read. -/
def poisonedAs (s : State) (w : Nat) (v : W128) : State := { s with ueTotal := satInc s.ueTotal, mem := wordPoison s.mem w v }

theorem uncorrectable_bank (s : State) (b : BankId) (code w : Nat) (v : W128) (hf : s.banks[b].fenced = false) :
    (uncorrectable s (.bank b) code w v).mem = wordPoison s.mem w v ∧ (uncorrectable s (.bank b) code w v).ueTotal = satInc s.ueTotal ∧
    (uncorrectable s (.bank b) code w v).wideGib = s.wideGib ∧ (uncorrectable s (.bank b) code w v).banks[b].ue = satInc s.banks[b].ue ∧
    (uncorrectable s (.bank b) code w v).banks[b].fenced = decide (s.bankUeLimit ≠ 0 ∧ s.bankUeLimit.toNat ≤ (satInc s.banks[b].ue).toNat) := by
  have hr := bankEvent_reported (modBank (poisonedAs s w v) b fun k => { k with ue := satInc k.ue }) b 4 code (w % 2 ^ 18)
  obtain ⟨s2, hs2⟩ := exists_eq (a' := bankEvent (modBank (poisonedAs s w v) b fun k => { k with ue := satInc k.ue }) b 4 code (w % 2 ^ 18))
  rw [← hs2] at hr
  have hbank : s2.banks[b] = { s.banks[b] with ue := satInc s.banks[b].ue } := by
    rw [hr.banks, modBank_same]
    rfl
  have hmem : s2.mem = wordPoison s.mem w v := by rw [hr.mem, modBank_mem, poisonedAs]
  have hue2 : s2.ueTotal = satInc s.ueTotal := by rw [hr.ueTotal, modBank_ueTotal, poisonedAs]
  have hgib : s2.wideGib = s.wideGib := by rw [hr.wideGib, modBank_wideGib, poisonedAs]
  have hrun : uncorrectable s (.bank b) code w v =
      if s.bankUeLimit ≠ 0 ∧ s.bankUeLimit.toNat ≤ (satInc s.banks[b].ue).toNat then fenceBank s2 b 1 else s2 := by
    have hue : (modBank (poisonedAs s w v) b fun k => { k with ue := satInc k.ue }).banks[b].ue = satInc s.banks[b].ue := by
      rw [modBank_same]
      rfl
    rw [← hue, hs2]
    rfl
  rw [hrun]
  by_cases hlim : s.bankUeLimit ≠ 0 ∧ s.bankUeLimit.toNat ≤ (satInc s.banks[b].ue).toNat
  · obtain ⟨-, hue, hw, -⟩ := fenceBank_banks s2 b 1 (by rw [hbank]; exact hf)
    have hsame := fenceBank_same s2 b 1 (by rw [hbank]; exact hf)
    rw [if_pos hlim, hsame, hbank, decide_eq_true hlim, fenceBank_mem, hue, hw]
    exact ⟨hmem, hue2, hgib, rfl, rfl⟩
  · rw [if_neg hlim, hbank, decide_eq_false hlim]
    exact ⟨hmem, hue2, hgib, rfl, hf⟩

theorem val_beq_val {n : Nat} (i j : Fin n) : (i.val == j.val) = (i == j) := by
  rw [Bool.eq_iff_iff, beq_iff_eq, beq_iff_eq, Fin.ext_iff]

/-- The rows of a pseudo-channel with uncorrectable upsets, this one included. -/
def badRows (s : State) (st : StackId) (c : Fin 32) (row : Nat) : List Nat := insertAsc row s.stk[st].ueRows[c]

/-- An uncorrectable upset of a pseudo-channel counted and reported. -/
def pcCounted (s : State) (st : StackId) (c : Fin 32) (row word w : Nat) (v : W128) : State :=
  raiseN (modStack (poisonedAs s w v) st fun k =>
    { k with ue := satInc k.ue, lastUe := BitVec.ofNat 64 (16 * w), ueRows := updV k.ueRows c fun _ => badRows s st c row }) (513 + 8 * st.val) (eccDetail c.val row word)

theorem uncorrectable_pc_eq (s : State) (st : StackId) (c : Fin 32) (row word code w : Nat) (v : W128) : uncorrectable s (.pc st c row word) code w v =
    if s.pcUeLimit ≠ 0 ∧ s.pcUeLimit.toNat ≤ (badRows s st c row).length then fencePc (pcCounted s st c row word w v) st c.val 1
    else pcCounted s st c row word w v := rfl

theorem pcCounted_reported (s : State) (st : StackId) (c : Fin 32) (row word w : Nat) (v : W128) : Reported (modStack (poisonedAs s w v) st fun k =>
    { k with ue := satInc k.ue, lastUe := BitVec.ofNat 64 (16 * w), ueRows := updV k.ueRows c fun _ => badRows s st c row }) (pcCounted s st c row word w v) :=
  raiseN_reported _ _ _

/-- The stack of a pseudo-channel with an uncorrectable upset; `x` are its fenced pseudo-channels. -/
def pcStack (s : State) (st : StackId) (c : Fin 32) (row w : Nat) (x : W32) : Stack :=
  { s.stk[st] with ue := satInc s.stk[st].ue, lastUe := BitVec.ofNat 64 (16 * w), ueRows := updV s.stk[st].ueRows c fun _ => badRows s st c row, pcFenced := x }

theorem pcCounted_stk (s : State) (st : StackId) (c : Fin 32) (row word w : Nat) (v : W128) :
    (pcCounted s st c row word w v).stk[st] = pcStack s st c row w s.stk[st].pcFenced := by
  rw [(pcCounted_reported s st c row word w v).stk, modStack_same]
  rfl

theorem uncorrectable_pc_stk (s : State) (st : StackId) (c : Fin 32) (row word code w : Nat) (v : W128) :
    ∃ x, (uncorrectable s (.pc st c row word) code w v).stk[st] = pcStack s st c row w x ∧
      ∀ i : Fin 32, bit x i.val = (bit s.stk[st].pcFenced i.val || (i == c && decide (s.pcUeLimit ≠ 0 ∧ s.pcUeLimit.toNat ≤ (badRows s st c row).length))) := by
  rw [uncorrectable_pc_eq]
  by_cases hlim : s.pcUeLimit ≠ 0 ∧ s.pcUeLimit.toNat ≤ (badRows s st c row).length
  · obtain ⟨x, hx, hbits⟩ := fencePc_stk (pcCounted s st c row word w v) st c.val 1 c.isLt
    rw [pcCounted_stk] at hx hbits
    rw [if_pos hlim, hx, decide_eq_true hlim]
    refine ⟨x, rfl, fun i => ?_⟩
    rw [Bool.and_true, hbits, pcStack, val_beq_val]
  · rw [if_neg hlim, pcCounted_stk, decide_eq_false hlim]
    refine ⟨_, rfl, fun i => ?_⟩
    rw [Bool.and_false, Bool.or_false]

theorem uncorrectable_pc_frame (s : State) (st : StackId) (c : Fin 32) (row word code w : Nat) (v : W128) :
    (uncorrectable s (.pc st c row word) code w v).mem = wordPoison s.mem w v ∧
    (uncorrectable s (.pc st c row word) code w v).ueTotal = satInc s.ueTotal ∧ (uncorrectable s (.pc st c row word) code w v).wideGib = s.wideGib := by
  have hr := pcCounted_reported s st c row word w v
  have hmem : (pcCounted s st c row word w v).mem = wordPoison s.mem w v := by rw [hr.mem, modStack_mem, poisonedAs]
  have hue : (pcCounted s st c row word w v).ueTotal = satInc s.ueTotal := by rw [hr.ueTotal, modStack_ueTotal, poisonedAs]
  have hw : (pcCounted s st c row word w v).wideGib = s.wideGib := by rw [hr.wideGib, modStack_wideGib, poisonedAs]
  rw [uncorrectable_pc_eq]
  split
  · rw [fencePc_mem, fencePc_ueTotal, fencePc_wideGib]
    exact ⟨hmem, hue, hw⟩
  · exact ⟨hmem, hue, hw⟩

end Upsets

/-! A word stored with poison over it. -/

theorem wordGet_wordPoison {m : Store} (hm : cellsWf m.cells = true) (w : Nat) (v : W128) : wordGet (wordPoison m w v) w = v :=
  (wordGet_wordSet_same hm w v)

theorem cellGet_wordPoison {m : Store} (hm : cellsWf m.cells = true) {w x : Nat} (v : W128) (h : x / 16 ≠ w) :
    cellGet (wordPoison m w v).cells x = cellGet m.cells x := (cellGet_wordSet hm w x v).trans (if_neg h)

theorem mem_wordPoison (m : Store) (w : Nat) (v : W128) : w ∈ (wordPoison m w v).poison := mem_insertAsc.2 (Or.inl rfl)

theorem poisonedRead_memory (s : State) (u : MemUnit) (code w : Nat) : (poisonedRead s u code w).mem = s.mem := poisonedRead_mem s u code w

/-- A whole word written over whatever stood there. -/
theorem writeWord_served {s : State} {d code a : Nat} {u : MemUnit} (hu : unitOf s a = some u) (hf : unitFenced s d u = false) (ho : ownAt s u code = 0)
    (hr : s.twin.resync = none) (x : W128) : writeWord s d code a x = { data := 0, status := 0, s := { s with mem := wordSet s.mem (a / 16) x } } := by
  have h9 : ¬ ownAt s u code = 9 := by
    rw [ho]
    decide
  have h0 : ¬ ownAt s u code ≠ 0 := by
    rw [ho]
    decide
  rw [writeWord, writeMasked, hu]
  refine (if_neg (ne_true_of_eq_false hf)).trans ((if_neg h9).trans ((if_neg h0).trans ((if_pos (by decide)).trans ?_)))
  rw [dirtyMark_quiet (by exact hr)]

/-- A fenced unit serves and stores nothing (R239). -/
theorem fenced_still {t : State} {d code a : Nat} {u : MemUnit} (hu : unitOf t a = some u) (hf : unitFenced t d u = true) (x : W128) :
    (readWord t d code a).status = 8 ∧ (readWord t d code a).s = t ∧ (writeWord t d code a x).status = 8 ∧ (writeWord t d code a x).s = t := by
  rw [readWord_fenced hu hf, writeWord, writeMasked_fenced hu hf]
  exact ⟨rfl, rfl, rfl, rfl⟩

/-- Settles O30: the check of a word meets no upset, one bit's or more; each leaves its counts, its place in the lists and, at the limit, the fence. -/
theorem errorHandling : Obligations.ErrorHandling := by
  intro s u d code a hinv hu ha hf ho w v r
  have hcells : cellsWf s.mem.cells = true := ((Memory.wf_iff s.mem).1 hinv).1
  have hread : r = checkWord s u code w := readWord_served hu hf ho
  have h16 : 16 * w = a := by
    change 16 * (a / 16) = a
    omega
  have hown : ownAt s u code = 0 := by
    cases u with
    | pc => rfl
    | bank b => exact ho b rfl
  refine ⟨fun hp fl hl => ?_, fun fl hl => ?_, fun hp hl => ?_, fun x hres => ?_⟩
  · have hone := hread.trans (checkWord_single hp hl)
    obtain ⟨hmem, hce, hue, hgib, hboot, hfz, -⟩ := corrected_frame s u code w
    rw [hone]
    refine ⟨rfl, rfl, ?_, ?_, hce, hue, fun b hb => ?_, fun st c row k hpc => ?_, fun hd hz => ?_⟩
    · rw [hmem]
    · rw [hmem]
      exact mem_insertAsc.2 (Or.inl rfl)
    · subst hb
      rw [corrected_bank_same]
    · subst hpc
      rw [corrected_pc_same]
    · have hu' : unitOf (corrected s u code w) a = some u := by
        rw [unitOf, hgib]
        exact hu
      have hf' : unitFenced (corrected s u code w) (unitDie u) u = false := (corrected_unitFenced s u _ code w).trans (unitFenced_own hf)
      refine ⟨_, exec_writeBack (by rw [dead, hboot]; exact hd) (by rw [frozen, hfz]; exact hz) (by rw [hmem]; exact mem_insertAsc.2 (Or.inl rfl)) h16 hu' hf',
        ?_, ?_, ?_⟩
      · dsimp only
        rw [hmem]
      · simp
      · dsimp only
        rw [hmem]
  · have hone := hread.trans (checkWord_double hl)
    rw [hone]
    have hframe : (uncorrectable s u code w (v ^^^ fl)).mem = wordPoison s.mem w (v ^^^ fl) ∧ (uncorrectable s u code w (v ^^^ fl)).ueTotal = satInc s.ueTotal ∧
        (uncorrectable s u code w (v ^^^ fl)).wideGib = s.wideGib := by
      cases u with
      | pc st c row k => exact uncorrectable_pc_frame s st c row k code w _
      | bank b =>
        simp only [unitFenced, Bool.or_eq_false_iff] at hf
        obtain ⟨h1, h2, h3, -⟩ := uncorrectable_bank s b code w (v ^^^ fl) hf.2
        exact ⟨h1, h2, h3⟩
    obtain ⟨hmem, hue, hgib⟩ := hframe
    refine ⟨rfl, rfl, ?_, ?_, hue, fun x hx => ?_, fun b hb => ?_, fun st c row k hpc => ?_, fun hfen x => ?_⟩
    · dsimp only
      rw [hmem, wordGet_wordPoison hcells]
    · dsimp only
      rw [hmem]
      exact mem_wordPoison _ _ _
    · dsimp only
      rw [hmem, cellGet_wordPoison hcells _ hx]
    · subst hb
      simp only [unitFenced, Bool.or_eq_false_iff] at hf
      obtain ⟨-, -, -, hub, hfb⟩ := uncorrectable_bank s b code w (v ^^^ fl) hf.2
      exact ⟨hub, hfb⟩
    · subst hpc
      obtain ⟨x, hstk, hbits⟩ := uncorrectable_pc_stk s st c row k code w (v ^^^ fl)
      have hrows : (updV s.stk[st].ueRows c fun _ => badRows s st c row)[c] = badRows s st c row := updV_same _ _ _
      dsimp only
      rw [hstk]
      refine ⟨rfl, rfl, ?_, fun y hy => ?_, hbits⟩
      · dsimp only [pcStack]
        rw [hrows]
        exact mem_insertAsc.2 (Or.inl rfl)
      · dsimp only [pcStack]
        rw [hrows]
        exact mem_insertAsc.2 (Or.inr hy)
    · have hu' : unitOf (uncorrectable s u code w (v ^^^ fl)) a = some u := by
        rw [unitOf, hgib]
        exact hu
      exact fenced_still hu' hfen x
  · have hone := hread.trans (checkWord_poisoned hp hl)
    rw [hone]
    exact ⟨rfl, rfl, poisonedRead_memory s u code w⟩
  · have hone := writeWord_served hu hf hown hres x
    intro y
    have hy : y = { data := 0, status := 0, s := { s with mem := wordSet s.mem w x } } := hone
    rw [hy]
    refine ⟨rfl, ?_, wordGet_wordSet_same hcells w x, rfl⟩
    intro hmem
    have hfil := (List.mem_filter.1 hmem).2
    simp at hfil

end Sys2Proof.Machine

/-! PROOF. The freeze, REMAP and the watchdog: O34. -/
namespace Sys2Proof.Machine

/-! ### Responses sunk at a withdrawal (R261) -/

/-- A fold of reporting steps is a report. -/
theorem foldl_reported {α : Type} {f : State → α → State} (hf : ∀ t x, Reported t (f t x)) (l : List α) (s : State) : Reported s (l.foldl f s) := by
  induction l generalizing s with
  | nil => exact .refl s
  | cons x xs ih => exact (hf s x).trans (ih (f s x))

/-- A step that only reports and counts sunk responses. -/
def Sinks (s t : State) : Prop := ∃ k, Reported { s with fab := { s.fab with sink := k } } t

theorem Reported.sinks {s t : State} (h : Reported s t) : Sinks s t := ⟨s.fab.sink, h⟩

theorem Sinks.trans {s t u : State} (h : Sinks s t) (k : Sinks t u) : Sinks s u := by
  obtain ⟨x, l, d, a, o, n, rfl⟩ := h
  obtain ⟨y, l', d', a', o', n', rfl⟩ := k
  exact ⟨y, l', d', a', o', n', rfl⟩

theorem sinkResponses_sinks (s : State) (m k : Nat) : Sinks s (sinkResponses s m k) := by
  unfold sinkResponses
  split
  · exact (Reported.refl s).sinks
  · exact ⟨_, raiseN_reported _ _ _⟩

theorem foldl_sinks {α : Type} {f : State → α → State} (hf : ∀ t x, Sinks t (f t x)) (l : List α) (s : State) : Sinks s (l.foldl f s) := by
  induction l generalizing s with
  | nil => exact (Reported.refl s).sinks
  | cons x xs ih => exact (hf s x).trans (ih (f s x))

theorem sinkVe_sinks (s : State) (n : VeId) (k : Nat) (l : Sunk) : Sinks s (sinkVe s n k l) := foldl_sinks (fun _ _ => sinkResponses_sinks _ _ _) _ _

section Fields

variable {s t : State} (h : Sinks s t)
include h

theorem Sinks.eng : t.eng = s.eng := by obtain ⟨_, h⟩ := h; exact h.eng
theorem Sinks.seq : t.seq = s.seq := by obtain ⟨_, h⟩ := h; exact h.seq
theorem Sinks.mem : t.mem = s.mem := by obtain ⟨_, h⟩ := h; exact h.mem
theorem Sinks.banks : t.banks = s.banks := by obtain ⟨_, h⟩ := h; exact h.banks
theorem Sinks.parts : t.parts = s.parts := by obtain ⟨_, h⟩ := h; exact h.parts
theorem Sinks.wdBreaks : t.fab.wdBreaks = s.fab.wdBreaks := by obtain ⟨_, h⟩ := h; rw [h.fab]

end Fields

/-! ### The freeze (R415, R416) -/

theorem freezeSet_on (s : State) (a b : Bool) (h : b = true ∨ (a = true ∧ s.dict.isOpen = true)) :
    freezeSet s a b = { s with fz := { s.fz with holdN := a, dbg := b, state := if s.fz.state = 0 then 1 else s.fz.state } } := by
  have hnow : (b || (a && s.dict.isOpen)) = true := by
    rcases h with rfl | ⟨rfl, h⟩
    · rfl
    · rw [h, Bool.and_self, Bool.or_true]
  by_cases hz : s.fz.state = 0
  · simp only [freezeSet, hnow, hz, if_true]
  · simp only [freezeSet, hnow, hz, if_true, if_false]

theorem freezeSet_off (s : State) (a : Bool) (h : a = false ∨ s.dict.isOpen = false) :
    freezeSet s a false = if s.fz.state = 0 then { s with fz := { s.fz with holdN := a, dbg := false } }
      else thaw { s with fz := { s.fz with holdN := a, dbg := false } } := by
  have hnow : (false || (a && s.dict.isOpen)) = false := by
    rcases h with rfl | h
    · rfl
    · rw [h, Bool.and_false, Bool.or_false]
  simp only [freezeSet, hnow, Bool.false_eq_true, if_false]

theorem singleWrite_nest (s : State) (r : Requester) (u v : Nat) (sunk : Sunk) :
    singleWrite s r 0x9000 u v sunk = (freezeSet s s.fz.holdN (v == 1), .done) := by
  rw [singleWrite, if_neg (by omega), if_neg (by omega), dif_neg (by omega), dif_neg (by omega), dif_neg (by omega), if_neg (by omega),
    dif_neg (by omega), dif_neg (by omega), dif_neg (by omega), if_neg (by omega), dif_neg (by omega), dif_neg (by omega), if_neg (by omega),
    if_pos rfl]

theorem exec_freezeEntered_due (s : State) (hd : dead s = false) (hz : s.fz.state = 1) :
    ∃ t, exec .freezeEntered s = .next t ∧ Reported { s with fz := { s.fz with state := 2, startAt := timeNow s } } t := by
  have hc : ¬ (dead s || s.fz.state != 1) = true := by simp [hd, hz]
  rw [exec_freezeEntered, execFreezeEntered, freezeEnteredOp, if_neg hc]
  exact ⟨_, rfl, foldl_reported (fun _ _ => raiseN_reported _ _ _) _ _⟩

theorem exec_freezeEntered_idle (s : State) (h : dead s = true ∨ s.fz.state ≠ 1) : exec .freezeEntered s = .next s := by
  rw [exec_freezeEntered, execFreezeEntered, freezeEnteredOp, if_pos]
  rcases h with h | h
  · rw [h, Bool.true_or]
  · simp [h]

/-! ### The wait-for watchdog (R258, R259) -/

section Watchdog

variable {s : State} {w : WaitOn} (hd : dead s = false) (hf : frozen s = false)
include hd hf

theorem watchdogOp_idle (sunk : Sunk) (h : waitStart s w = none) : watchdogOp s w sunk = s := by
  simp only [watchdogOp, hd, hf, h, Bool.or_self, Bool.false_eq_true, if_false]

variable {n : Nat} {firsts : List Nat} (h : waitStart s w = some (n, firsts))
include h

theorem watchdogOp_open (sunk : Sunk) (hc : firsts.findSome? (fun m => waitPath s n 96 m) = none) :
    watchdogOp s w sunk = raiseN s 785 (waitDetail w) := by
  simp only [watchdogOp, hd, hf, h, hc, Bool.or_self, Bool.false_eq_true, if_false]

variable {circle : List Nat} (hc : firsts.findSome? (fun m => waitPath s n 96 m) = some circle)
include hc

theorem watchdogOp_ungranted (sunk : Sunk) (hg : latestGrant s circle = none) : watchdogOp s w sunk = raiseN s 785 (waitDetail w) := by
  simp only [watchdogOp, hd, hf, h, hc, hg, Bool.or_self, Bool.false_eq_true, if_false]

/-- The counted break of a circle, before its report. -/
def broken (s : State) (p : PartId) (slot : Nat) (v : VeId) (sunk : Sunk) : State :=
  { revokeGrant s p slot v sunk with fab := { (revokeGrant s p slot v sunk).fab with wdBreaks := satInc (revokeGrant s p slot v sunk).fab.wdBreaks } }

theorem watchdogOp_broken (sunk : Sunk) {p : PartId} {slot o : Nat} {v : VeId} (hg : latestGrant s circle = some (p, slot, o, v)) :
    watchdogOp s w sunk = raiseN (broken s p slot v sunk) 784 (at' 32 26 v.val ||| waitDetail w) := by
  simp only [watchdogOp, hd, hf, h, hc, hg, Bool.or_self, Bool.false_eq_true, if_false, broken]

end Watchdog

/-- A circle's holder, its grant revoked, before its responses are sunk. -/
def revoked (s : State) (p : PartId) (slot : Nat) (v : VeId) : State :=
  withdraw (modEng (modPart s p fun q => { q with run := q.run.map fun r =>
    { r with slots := r.slots.filter fun y => y.1 != slot, grants := r.grants.filter fun g => g.1 != slot } }) v fun e =>
      { e with wdAborts := satInc e.wdAborts, queue := e.queue.map fun g => { g with started := false } }) (veMasters v 7)

theorem revokeGrant_sinks (s : State) (p : PartId) (slot : Nat) (v : VeId) (sunk : Sunk) : Sinks (revoked s p slot v) (revokeGrant s p slot v sunk) :=
  sinkVe_sinks _ _ _ _

theorem revoked_eng (s : State) (p : PartId) (slot : Nat) (v m : VeId) : (revoked s p slot v).eng[m] =
    if m = v then { s.eng[v] with wdAborts := satInc s.eng[v].wdAborts, queue := s.eng[v].queue.map fun g => { g with started := false } } else s.eng[m] := by
  split
  next hm => subst hm; exact modEng_same _ _ _
  next hm => exact modEng_other s v m _ (Ne.symm hm)

theorem revoked_run (s : State) (p : PartId) (slot : Nat) (v : VeId) : (revoked s p slot v).parts[p].run =
    s.parts[p].run.map fun r => { r with slots := r.slots.filter fun y => y.1 != slot, grants := r.grants.filter fun g => g.1 != slot } :=
  congrArg Partition.run (modPart_same s p _)

/-- Settles O34: the freeze by its two sources, REMAP, and what the watchdog does with a wait in a circle and with any other. -/
theorem freezeRemapWatchdog : Obligations.FreezeRemapWatchdog := by
  unfold Obligations.FreezeRemapWatchdog
  intro s
  refine ⟨rfl, rfl, fun r a v hs => ?_, fun a b hab => ?_, fun a ha => ?_, fun hd hz => ?_, exec_freezeEntered_idle s, fun v hc => ?_, fun w sunk hd hf => ?_⟩
  · exact hs.completes (sunk := []) (by omega) (by omega) rfl (by decide) (singleWrite_nest _ _ _ _ _)
  · have h := freezeSet_on s a b hab
    refine ⟨?_, h⟩
    rw [h]
    by_cases hz : s.fz.state = 0
    · simp [frozen, hz]
    · simp [frozen, hz]
  · rw [freezeSet_off s a ha]
    exact ⟨fun hz => if_neg hz, fun hz => if_pos hz⟩
  · obtain ⟨t, ht, hr⟩ := exec_freezeEntered_due s hd hz
    exact ⟨t, ht, hr.fz, hr.mem, hr.parts, hr.seq, hr.eng, hr.banks⟩
  · rw [exec_remap, execRemap, hc]
    simp [Bool.and_eq_true]
  · rw [exec_watchdogExpiry, execWatchdogExpiry]
    refine ⟨fun h => by rw [watchdogOp_idle hd hf sunk h], fun n firsts h => ⟨fun hc => by rw [watchdogOp_open hd hf h sunk hc], fun circle hc =>
      ⟨fun hg => by rw [watchdogOp_ungranted hd hf h hc sunk hg], fun p slot o v hg => ?_⟩⟩⟩
    rw [watchdogOp_broken hd hf h hc sunk hg]
    have hk := revokeGrant_sinks s p slot v sunk
    have hr := raiseN_reported (broken s p slot v sunk) 784 (at' 32 26 v.val ||| waitDetail w)
    have heng : ∀ m : VeId, (raiseN (broken s p slot v sunk) 784 (at' 32 26 v.val ||| waitDetail w)).eng[m] = (revoked s p slot v).eng[m] := by
      intro m
      rw [hr.eng]
      exact congrArg (·[m]) hk.eng
    have hrun : (raiseN (broken s p slot v sunk) 784 (at' 32 26 v.val ||| waitDetail w)).parts[p].run = (revoked s p slot v).parts[p].run := by
      rw [hr.parts]
      exact congrArg (fun x => Partition.run x[p]) hk.parts
    refine ⟨_, rfl, ?_, ?_, hr.mem.trans hk.mem, hr.banks.trans hk.banks, fun m hm => ?_, fun run hrun' => ?_⟩
    · rw [hr.fab]
      exact congrArg satInc hk.wdBreaks
    · rw [heng, revoked_eng, if_pos rfl]
    · rw [heng, revoked_eng, if_neg hm]
    · rw [hrun, revoked_run, hrun']
      exact ⟨_, rfl, rfl, rfl⟩

end Sys2Proof.Machine

/-! PROOF. Tap reads, DBG_DATA and ABORT_LAST: O35. -/
namespace Sys2Proof.Machine

/-! ### Tap reads of a line (R237-R239) -/

theorem tapGrant_keeps {s t : State} {b : BankId} {me : Nat} {k : Contest} (h : tapGrant s b me k = some t) : WayKeeps s t := by
  unfold tapGrant at h
  by_cases hf : frozen s = true
  · rw [if_pos hf] at h
    by_cases hm : me = 0
    · rw [if_pos hm] at h
      exact absurd h (by simp)
    · rw [if_neg hm, Option.some.injEq] at h
      exact h ▸ .refl s
  · rw [if_neg hf, Option.map_eq_some_iff] at h
    obtain ⟨a, -, rfl⟩ := h
    rfl

theorem tapTurn_keeps {s t : State} {b : BankId} {who : TapReq} {k : Contest} (h : tapTurn s b who k = some t) : WayKeeps s t := by
  cases who with
  | nest => exact tapGrant_keeps h
  | crc u => exact tapGrant_keeps h
  | scrub =>
    rw [tapTurn] at h
    split at h
    · exact absurd h (by simp)
    · rw [Option.some.injEq] at h
      exact h ▸ .refl s

theorem tapGrant_free {s t : State} {b : BankId} {me : Nat} {k : Contest} (h : tapGrant s b me k = some t) : t.free = s.free := by rw [tapGrant_keeps h]

theorem reachable_self (s : State) (d : Nat) : reachable s d d = true := by
  have h : arcLinks (ringPos d) (ringPos d) = [] := by simp [arcLinks]
  rw [reachable, h]
  rfl

/-- A tap of its own die's bank is fenced just where the bank is. -/
theorem unitFenced_tap (s : State) {b : BankId} {who : TapReq} (h : tapMay b who = true) : unitFenced s (tapDie b who) (.bank b) = s.banks[b].fenced := by
  have hdie : tapDie b who = b.val / 64 := by
    cases who with
    | crc u => exact eq_of_beq h
    | nest => rfl
    | scrub => rfl
  rw [unitFenced, hdie, unitDie, reachable_self]
  rfl

/-- A line whose words all read alike leaves the state alone. -/
theorem tapLine_uniform {s : State} {d code st : Nat} {b : BankId} {line : BitVec 16} {f : Nat → W128}
    (hw : ∀ w, tapWord s d b code (lineWord b line w) = { data := f w, status := st, s := s }) :
    tapLine s d b code line = ((List.range 4).map f, st, s) := by
  have hr : List.range 4 = [0, 1, 2, 3] := rfl
  by_cases hst : st = 0
  · simp [tapLine, hr, hw, hst]
  · simp [tapLine, hr, hw, hst]

/-- A line that is read clean: its words, or all ones of a fenced bank. -/
def lineWords (s : State) (b : BankId) (line : BitVec 16) : List W128 :=
  (List.range 4).map fun w => if s.banks[b].fenced then BitVec.allOnes 128 else wordGet s.mem (lineWord b line w / 16)

theorem tapLine_clean {s : State} {b : BankId} {who : TapReq} (line : BitVec 16) (hp : s.mem.poison = []) (hl : s.mem.latent = []) (hm : tapMay b who = true) :
    tapLine s (tapDie b who) b (tapCode b who) line = (lineWords s b line, if s.banks[b].fenced then 8 else 0, s) := by
  have hu := unitFenced_tap s hm
  refine tapLine_uniform fun w => ?_
  cases hf : s.banks[b].fenced with
  | true =>
    rw [hf] at hu
    simp only [tapWord_fenced hu, if_true]
  | false =>
    rw [hf] at hu
    simp only [tapWord_served hu, checkWord_clean hp hl, Bool.false_eq_true, if_false]

/-- The four free words of a torn line. -/
def freeLine (n : Nat) : List W128 := (List.range 4).map fun i => Config.freeWord (n + i)

theorem drawLine_eq (s : State) : drawLine s = (freeLine s.free, { s with free := s.free + 4 }) := by
  simp [drawLine, freeLine, show List.range 4 = [0, 1, 2, 3] from rfl, drawWord]

/-- The state after a read of a line that the owner's write met. -/
def torn (s : State) (b : BankId) (line : BitVec 16) (h : SenseWrite) : State :=
  emit (modBank { senseWrite s b line h with free := s.free + 4 } b fun k => { k with tapRetries := satInc k.tapRetries })
    (.tap b (freeLine s.free) true 0)

theorem torn_outs (s : State) (b : BankId) (line : BitVec 16) (h : SenseWrite) : (torn s b line h).outs = s.outs ++ [.tap b (freeLine s.free) true 0] := by
  simp only [torn, emit, modBank_outs, senseWrite]
theorem torn_banks (s : State) (b : BankId) (line : BitVec 16) (h : SenseWrite) :
    (torn s b line h).banks = s.banks.set b { s.banks[b] with tapRetries := satInc s.banks[b].tapRetries } := rfl
theorem torn_free (s : State) (b : BankId) (line : BitVec 16) (h : SenseWrite) : (torn s b line h).free = s.free + 4 := by
  simp only [torn, emit, modBank_free]
theorem torn_parts (s : State) (b : BankId) (line : BitVec 16) (h : SenseWrite) : (torn s b line h).parts = s.parts := by
  simp only [torn, emit, modBank_parts, senseWrite]
theorem torn_mem (s : State) (b : BankId) (line : BitVec 16) (h : SenseWrite) :
    (torn s b line h).mem = wordSet s.mem (lineWord b line h.word.toNat / 16) h.val := rfl

section TapRead

variable {s s1 : State} {b : BankId} {line : BitVec 16} {who : TapReq} {c : Contest} (hd : dead s = false) (hm : tapMay b who = true)
  (ht : tapTurn s b who c = some s1)
include hd hm ht

/-- A tap read that no owner's write meets, or of a fenced bank. -/
theorem tapReadOp_clean (hp : s.mem.poison = []) (hl : s.mem.latent = []) {hit : Option SenseWrite} (hh : s.banks[b].fenced = true ∨ hit = none) :
    tapReadOp s b line who c hit = emit s1 (.tap b (lineWords s b line) false (if s.banks[b].fenced then 8 else 0)) := by
  have hk := tapTurn_keeps ht
  have hnone : (if s.banks[b].fenced then none else hit) = none := by
    rcases hh with h | h
    · rw [h]; rfl
    · rw [h, ite_self]
  have hline : tapLine s1 (tapDie b who) b (tapCode b who) line = (lineWords s b line, if s.banks[b].fenced then 8 else 0, s1) := by
    rw [tapLine_clean line (by rw [hk.mem, hp]) (by rw [hk.mem, hl]) hm, lineWords, lineWords, hk.banks, hk.mem]
  simp only [tapReadOp, hd, hm, ht, hnone, hline, Bool.not_true, Bool.or_self, Bool.false_eq_true, if_false]

variable (hf : s.banks[b].fenced = false) (h : SenseWrite)
include hf

theorem tapReadOp_unowned (ho : s.banks[b].owner = 0) : tapReadOp s b line who c (some h) = s := by
  simp only [tapReadOp, hd, hm, ht, hf, ho, Bool.not_true, Bool.or_self, Bool.false_eq_true, if_false, if_true]

theorem tapReadOp_torn (ho : s.banks[b].owner ≠ 0) : tapReadOp s b line who c (some h) = torn s1 b line h := by
  simp only [tapReadOp, hd, hm, ht, hf, ho, Bool.not_true, Bool.or_self, Bool.false_eq_true, if_false, drawLine_eq]
  rfl

end TapRead

theorem tapReadOp_barred {s : State} {b : BankId} (line : BitVec 16) {who : TapReq} (c : Contest) (hit : Option SenseWrite) (h : dead s = true ∨ tapMay b who = false) :
    tapReadOp s b line who c hit = s := by
  rw [tapReadOp, if_pos]
  rcases h with h | h
  · rw [h, Bool.true_or]
  · rw [h, Bool.not_false, Bool.or_true]

theorem tapReadOp_waits {s : State} {b : BankId} (line : BitVec 16) {who : TapReq} {c : Contest} (hit : Option SenseWrite) (h : tapTurn s b who c = none) :
    tapReadOp s b line who c hit = s := by
  unfold tapReadOp
  rw [h]
  exact ite_self s

/-! ### Reads of an entry with an effect (R320, R414) -/

/-- The answer of a dictionary read with value `v`. -/
def answered (s t : State) (r : Requester) (bytes : Nat) (v : W128) : State :=
  if r.val = 4 then i3cReady (i3cHold t (respDone (i3cSeq s) (bytesOf v bytes))) else emit t (.dictRead r v)

/-- What a read of DBG_DATA makes of its tap. -/
def tapped (s : State) (bytes off : Nat) : Option (W128 × State) → State × RRes
  | some y => (y.2, .value (BitVec.ofNat 128 (y.1.toNat / 2 ^ (8 * off) % 2 ^ (8 * bytes))))
  | none => (s, .wait)

section ReadAccess

variable {s : State} {r : Requester} {ix sub bytes off : Nat} {hit : Option SenseWrite}

theorem fifoSub_nonzero (r : Requester) (ix : Nat) {sub : Nat} (h : sub ≠ 0) : fifoSub r ix sub = false := by
  rw [Bool.eq_false_iff]
  intro hc
  simp only [fifoSub, Bool.and_eq_true, beq_iff_eq] at hc
  exact h hc.2

theorem readAccess_of_heeds (h : Heeds s r) (hix : ix < 65536) (hsub : sub < 256) (hz : sub ≠ 0) (bytes off : Nat) (hit : Option SenseWrite) :
    readAccess s r ix sub bytes off hit = (dictReadOp s r ix sub bytes off hit).getD
      { s with dict := { s.dict with waiting := [.read r (BitVec.ofNat 16 ix) (BitVec.ofNat 8 sub) bytes off hit] } } := by
  have h1 : (BitVec.ofNat 16 ix).toNat = ix := Nat.mod_eq_of_lt hix
  have h2 : (BitVec.ofNat 8 sub).toNat = sub := Nat.mod_eq_of_lt hsub
  rw [readAccess, accessOp_of_heeds h rfl]
  simp only [serve, h1, h2, fifoSub_nonzero r ix hz, Bool.false_eq_true, and_false, dite_false]
  cases dictReadOp s r ix sub bytes off hit with
  | none => rfl
  | some t => rfl

theorem dictReadOp_value {t : State} {v : W128} (h : dictRead s r ix sub bytes off hit = (t, .value v)) :
    dictReadOp s r ix sub bytes off hit = some (answered s t r bytes v) := by
  rw [dictReadOp, h]
  rfl

theorem dictReadOp_wait {t : State} (h : dictRead s r ix sub bytes off hit = (t, .wait)) : dictReadOp s r ix sub bytes off hit = none := by
  rw [dictReadOp, h]

variable {e : Entry} (hh : headCode s r ix sub false = none) (he : entryAt s r ix sub = some e) (hw : widthOk r e.ty bytes off = true)
include hh he hw

/-- A read of DBG_DATA taps its bank. -/
theorem dictRead_debug {b : BankId} (hb : ix = 0x5000 + b.val) (hs : sub = 0x11) {y : Option (W128 × State)}
    (hy : debugTap (heard s r) r b hit = y) : dictRead s r ix sub bytes off hit = tapped s bytes off y := by
  have hwrong : ¬ (!widthOk r e.ty bytes off) = true := by
    rw [hw]
    decide
  subst hb
  have hbank : (⟨0x5000 + b.val - 0x5000, by omega⟩ : BankId) = b := Fin.ext (by simp only; omega)
  unfold dictRead
  rw [hh, he]
  refine (if_neg hwrong).trans ((dif_pos ⟨⟨by omega, by omega⟩, hs⟩).trans ?_)
  simp only [heard] at hy
  simp only [hbank, hy]
  cases y with
  | none => rfl
  | some y => rfl

/-- A read of ABORT_LAST clears it. -/
theorem dictRead_abort (h : 0x2100 ≤ ix ∧ ix < 0x2104) (hs : sub = 0x10) {p : PortId} (hp : ix - 0x2100 = p.val) :
    dictRead s r ix sub bytes off hit =
      (modPort (heard s r) p fun t => { t with abortLast := 0 }, .value (BitVec.ofNat 128 (e.val.toNat / 2 ^ (8 * off) % 2 ^ (8 * bytes)))) := by
  have hwrong : ¬ (!widthOk r e.ty bytes off) = true := by
    rw [hw]
    decide
  have hdbg : ¬ ((0x5000 ≤ ix ∧ ix < 0x5100) ∧ sub = 0x11) := fun hc => by omega
  have hport : (⟨ix - 0x2100, by omega⟩ : PortId) = p := Fin.ext (by simp only; omega)
  unfold dictRead
  rw [hh, he]
  exact (if_neg hwrong).trans ((dif_neg hdbg).trans ((dif_pos ⟨h, hs⟩).trans (by rw [hport]; rfl)))

end ReadAccess

/-! ### DBG_DATA (R414, R415) -/

section DebugTap

/-- DBG_DATA's flags of a requester. -/
def dbgFlagged (t : State) (r : Requester) (b : BankId) (f : Byte) : State :=
  modBank t b fun k => { k with dbg := updV k.dbg r fun d => { d with flags := f } }

variable {s : State} {r : Requester} {b : BankId} {hit : Option SenseWrite}

theorem debugTap_fenced (h : unitFenced s (reqDie r) (.bank b) = true) : debugTap s r b hit = some (BitVec.allOnes 128, dbgFlagged s r b 8) := by
  simp only [debugTap, h, if_true]
  rfl

variable (h : unitFenced s (reqDie r) (.bank b) = false)
include h

theorem debugTap_waits (hg : tapGrant s b (debugSlot r b) .alone = none) : debugTap s r b hit = none := by
  simp only [debugTap, h, hg, Bool.false_eq_true, if_false]

variable {s1 : State} (hg : tapGrant s b (debugSlot r b) .alone = some s1)
include hg

theorem debugTap_clean (hp : s.mem.poison = []) (hl : s.mem.latent = []) (hq : hit = none ∨ frozen s = true ∨ s.banks[b].owner = 0) : debugTap s r b hit =
    some (wordGet s.mem ((spLo + b.val * bankBytes + 16 * (s.banks[b].dbg[r].addr.toNat % 2 ^ 18)) / 16), dbgFlagged s1 r b 0) := by
  have hk := tapGrant_keeps hg
  have hnone : (if frozen s ∨ s.banks[b].owner = 0 then none else hit) = none := by
    rcases hq with rfl | hq
    · exact ite_self _
    · exact if_pos hq
  have hf1 : unitFenced s1 (reqDie r) (.bank b) = false := by rw [hk.unitFenced, h]
  simp only [debugTap, h, hg, hnone, Bool.false_eq_true, if_false, tapWord_served hf1, checkWord_clean (hk.mem ▸ hp) (hk.mem ▸ hl), hk.mem]
  rfl

theorem debugTap_torn (hf : frozen s = false) (ho : s.banks[b].owner ≠ 0) (x : SenseWrite) : ∃ t : State, debugTap s r b (some x) = some (Config.freeWord s.free, t) ∧
    t.free = s.free + 1 ∧ t.banks[b].torn = satInc s.banks[b].torn ∧ t.banks[b].dbg = s.banks[b].dbg.set r { s.banks[b].dbg[r] with flags := 1 } := by
  have hk := tapGrant_keeps hg
  have hc : ¬ (frozen s = true ∨ s.banks[b].owner = 0) := by
    rintro (hz | hz)
    · rw [hf] at hz; exact absurd hz (by decide)
    · exact ho hz
  obtain ⟨t, htorn⟩ := exists_eq (a' := modBank (drawWord (senseWrite s1 b (BitVec.ofNat 16 (s.banks[b].dbg[r].addr.toNat % 2 ^ 18 / 4)) x)).2 b
    fun k => { k with torn := satInc k.torn })
  have hbank : t.banks[b] = { s.banks[b] with torn := satInc s.banks[b].torn } := by
    rw [htorn, modBank_same, drawWord_banks, ← hk.banks]
    rfl
  refine ⟨dbgFlagged t r b 1, ?_, ?_, ?_, ?_⟩
  · simp only [debugTap, h, hg, if_neg hc, Bool.false_eq_true, if_false, htorn, ← tapGrant_free hg]
    rfl
  · rw [htorn, ← tapGrant_free hg]
    rfl
  · rw [dbgFlagged, modBank_same, hbank]
  · rw [dbgFlagged, modBank_same, hbank]
    rfl

end DebugTap

theorem unitFenced_heard (s : State) (r : Requester) (d : Nat) (b : BankId) : unitFenced (heard s r) d (.bank b) = unitFenced s d (.bank b) := rfl

/-- A port's ABORT_LAST is read by its host. -/
theorem exec_abortLast_of_heeds {s : State} {h : PortId} {r : Requester} (hr : r.val = h.val) (hh : Heeds s r) (bytes off : Nat) :
    exec (.abortLast h bytes off) s = .next ((dictReadOp s r (0x2100 + h.val) 0x10 bytes off none).getD
      { s with dict := { s.dict with waiting := [.read r (BitVec.ofNat 16 (0x2100 + h.val)) (BitVec.ofNat 8 0x10) bytes off none] } }) := by
  obtain rfl : r = h.castLE (by decide) := Fin.ext hr
  rw [exec_abortLast, execAbortLast, readAccess_of_heeds hh (by omega) (by omega) (by omega)]

/-- Settles O35: tap reads of a line clean, fenced and torn; DBG_DATA by its bank and its arbiter; ABORT_LAST cleared or refused. -/
theorem tapAndDebugReads : Obligations.TapAndDebugReads := by
  refine ⟨fun s b line who hinv hd hp hl hm => ⟨fun s1 ht => ?_, fun c s1 ht => ⟨?_, fun h => ⟨fun hf => ?_, fun hf ho => ?_, fun hf ho => ?_⟩⟩⟩,
    fun s b line who c h => ⟨fun hbar => ⟨?_, ?_⟩, fun ht => ?_, fun ht => ?_⟩, fun s r ix sub bytes off e hh hnone he hw => ⟨fun h hix hsub hr => ?_,
      fun b hit hix hsub hp hl => ⟨fun hf => ?_, fun hf hg => ?_, fun s1 hf hg => ⟨fun hq => ?_, fun x hx hz ho => ?_⟩⟩⟩, fun s h bytes off code r hr hh hc => ?_⟩
  · exact congrArg Host.Outcome.next (tapReadOp_clean hd hm ht hp hl (.inr rfl))
  · exact congrArg Host.Outcome.next (tapReadOp_clean hd hm ht hp hl (.inr rfl))
  · exact congrArg Host.Outcome.next (tapReadOp_clean hd hm ht hp hl (.inl hf))
  · exact congrArg Host.Outcome.next (tapReadOp_unowned hd hm ht hf h ho)
  · have hk := tapTurn_keeps ht
    have hfree : s1.free = s.free := by rw [hk]
    refine ⟨torn s1 b line h, congrArg Host.Outcome.next (tapReadOp_torn hd hm ht hf h ho), ?_, ?_, ?_, ?_, fun w => ?_⟩
    · rw [torn_outs, hfree, hk.outs]
      rfl
    · rw [torn_banks, hk.banks]
    · rw [torn_free, hfree]
    · rw [torn_parts, hk.parts]
    · rw [torn_mem]
      have hcells : cellsWf s.mem.cells = true := ((Memory.wf_iff s.mem).1 hinv).1
      rw [hk.mem]
      split
      next hwd =>
        rw [hwd]
        exact wordGet_wordSet_same hcells _ _
      next hwd => exact wordGet_wordSet_other hcells hwd _
  · exact congrArg Host.Outcome.next (tapReadOp_barred line c h hbar)
  · exact congrArg Host.Outcome.next (tapReadOp_barred line .alone none hbar)
  · exact congrArg Host.Outcome.next (tapReadOp_waits line h ht)
  · exact congrArg Host.Outcome.next (tapReadOp_waits line none ht)
  · subst hix
    subst hsub
    rw [exec_abortLast_of_heeds hr hh, dictReadOp_value (dictRead_abort hnone he hw (by omega) rfl (p := h) (by omega))]
    rfl
  · subst hix hsub
    rw [exec_debugRead, execDebugRead, readAccess_of_heeds hh (by omega) (by omega) (by omega),
      dictReadOp_value (dictRead_debug hnone he hw rfl rfl (debugTap_fenced ((unitFenced_heard s r _ b).trans hf)))]
    rfl
  · subst hix hsub
    rw [exec_debugRead, execDebugRead, readAccess_of_heeds hh (by omega) (by omega) (by omega),
      dictReadOp_wait (dictRead_debug hnone he hw rfl rfl (debugTap_waits ((unitFenced_heard s r _ b).trans hf) hg))]
    rfl
  · subst hix hsub
    rw [exec_debugRead, execDebugRead, readAccess_of_heeds hh (by omega) (by omega) (by omega),
      dictReadOp_value (dictRead_debug hnone he hw rfl rfl (debugTap_clean ((unitFenced_heard s r _ b).trans hf) hg hp hl hq))]
    rfl
  · subst hix hsub hx
    obtain ⟨t, ht, hfree, htorn, hdbg⟩ := debugTap_torn ((unitFenced_heard s r _ b).trans hf) hg hz ho x
    refine ⟨t, ?_, hfree, htorn, hdbg⟩
    rw [exec_debugRead, execDebugRead, readAccess_of_heeds hh (by omega) (by omega) (by omega),
      dictReadOp_value (dictRead_debug hnone he hw rfl rfl ht)]
    rfl
  · have hr4 : r.val < 4 := by omega
    rw [exec_abortLast_of_heeds hr hh, dictReadOp_of_refused hr4 (dictRead_head hc)]
    rfl

end Sys2Proof.Machine

/-! PROOF. The common command codes: O50. -/
namespace Sys2Proof.Machine

/-! ### Common command codes (R334, R335) -/

theorem exec_enec_forMe {s : State} {dst : Option (BitVec 7)} (h : forMe s dst = true) : exec (.enec dst) s =
    .next (flushIbi { s with i3c := { s.i3c with ibiOn := true, ibiRecovery := s.i3c.ibiRecovery || s.boot.state == 7 } }) := by
  simp only [exec_enec, execEnec, enecOp, h, Bool.not_true, Bool.false_eq_true, if_false]

theorem exec_disec_forMe {s : State} {dst : Option (BitVec 7)} (h : forMe s dst = true) :
    exec (.disec dst) s = .next { s with i3c := { s.i3c with ibiOn := false } } := by
  simp only [exec_disec, execDisec, disecOp, h, Bool.not_true, Bool.false_eq_true, if_false]

theorem setLimit_within {s : State} {dst : Option (BitVec 7)} (h : forMe s dst = true) {v : W16} (hlo : 26 ≤ v.toNat) (hhi : v.toNat ≤ 256) (f : I3c → I3c) :
    setLimit s dst v f = { s with i3c := f s.i3c } := by
  simp only [setLimit, h, hlo, hhi, Bool.not_true, Bool.false_eq_true, if_false, and_self, if_true]

theorem setLimit_beyond {s : State} {dst : Option (BitVec 7)} (h : forMe s dst = true) {v : W16} (hv : v.toNat < 26 ∨ 256 < v.toNat) (f : I3c → I3c) :
    setLimit s dst v f = emit s .i3cNack := by
  have hn : ¬ (26 ≤ v.toNat ∧ v.toNat ≤ 256) := by omega
  simp only [setLimit, h, hn, Bool.not_true, Bool.false_eq_true, if_false]

theorem setLimit_other {s : State} {dst : Option (BitVec 7)} (h : forMe s dst = false) (v : W16) (f : I3c → I3c) : setLimit s dst v f = s := by
  simp only [setLimit, h, Bool.not_false, if_true]

theorem ccGet_mine {s : State} {dst : BitVec 7} (h : forMe s (some dst) = true) (data : List Byte) : ccGet s dst data = emit s (.i3c data) := if_pos h

theorem ccGet_other {s : State} {dst : BitVec 7} (h : forMe s (some dst) = false) (data : List Byte) : ccGet s dst data = s := if_neg (ne_true_of_eq_false h)

theorem bytesOf_two (v : W16) : (bytesOf v 2).reverse = [byteOf v 1, byteOf v 0] := rfl

/-- The provisional ID begins with the manufacturer's 15 bits and a 1. -/
theorem pidBytes_head : pidBytes.take 2 = [0x14, 0xFB] := by
  have key : ∀ c : BitVec 32, (bytesOf (BitVec.ofNat 48 (0x0A7D * 2 ^ 33 + 2 ^ 32 + c.toNat)) 6).reverse.take 2 = [0x14, 0xFB] := by
    intro c
    have h4 : byteOf (BitVec.ofNat 48 (0x0A7D * 2 ^ 33 + 2 ^ 32 + c.toNat)) 4 = 0xFB := by
      apply BitVec.eq_of_toNat_eq
      rw [byteOf, BitVec.toNat_ofNat, BitVec.toNat_ofNat, Nat.shiftRight_eq_div_pow]
      change _ = 251
      omega
    have h5 : byteOf (BitVec.ofNat 48 (0x0A7D * 2 ^ 33 + 2 ^ 32 + c.toNat)) 5 = 0x14 := by
      apply BitVec.eq_of_toNat_eq
      rw [byteOf, BitVec.toNat_ofNat, BitVec.toNat_ofNat, Nat.shiftRight_eq_div_pow]
      change _ = 20
      omega
    change [byteOf _ 5, byteOf _ 4] = _
    rw [h4, h5]
  exact key _

theorem flushIbi_closed {s : State} (h : ibiCan s = false) : flushIbi s = s := by
  rw [flushIbi, h]
  rfl

/-- An alert and a response that are pending are raised in this order. -/
theorem flushIbi_both {s : State} (hc : ibiCan s = true) (ha : s.i3c.ibiAlert = true) (hr : s.i3c.ibiResp = true) (hrec : s.i3c.ibiRecovery = false) :
    (flushIbi s).outs = s.outs ++ [.ibi ((0x02 : Byte) :: bytesOf s.dict.alertCause 4), .ibi [0x01]] ∧
      (flushIbi s).i3c = { s.i3c with ibiAlert := false, ibiResp := false } := by
  simp [flushIbi, hc, ha, hr, hrec, emit]

/-- Settles O50: each code by whether it is sent to this target, and by its operand. -/
theorem commonCommandCodes : Obligations.CommonCommandCodes := by
  intro s hd
  have hbroad : forMe s none = true := by rw [forMe, hd]; rfl
  have hmine : ∀ a, s.i3c.dyn = some a → forMe s (some a) = true := fun a h => by rw [forMe, hd, h]; exact beq_self_eq_true _
  have hother : ∀ a, s.i3c.dyn ≠ some a → forMe s (some a) = false := fun a h => by rw [forMe, hd]; exact beq_false_of_ne h
  refine ⟨fun dst => ⟨fun hm => ⟨exec_enec_forMe hm, exec_disec_forMe hm, fun v => ⟨fun hlo hhi => ⟨?_, ?_⟩, fun hv => ⟨?_, ?_⟩⟩, ?_, fun a ha => ?_⟩,
    fun hm v a => ⟨?_, ?_, ?_, ?_, ?_⟩, fun c => ⟨fun h => ?_, fun hdst hc hm => ?_⟩⟩, ?_, ?_, fun a d => ⟨fun hn => ⟨?_, ?_⟩, fun hn => ⟨?_, ?_⟩, fun ha => ?_, fun ha => ?_,
      fun ha => ?_⟩, rfl, pidBytes_head, flushIbi_both, flushIbi_closed⟩
  · rw [exec_setmwl, execSetmwl, setLimit_within hm hlo hhi]
  · rw [exec_setmrl, execSetmrl, setLimit_within hm hlo hhi]
  · rw [exec_setmwl, execSetmwl, setLimit_beyond hm hv]
  · rw [exec_setmrl, execSetmrl, setLimit_beyond hm hv]
  · simp only [exec_rstact, execRstact, rstactOp, hm, Bool.not_true, Bool.false_eq_true, if_false, ne_eq, not_true_eq_false]
  · simp only [exec_rstact, execRstact, rstactOp, hm, Bool.not_true, Bool.false_eq_true, if_false, ne_eq, ha, not_false_eq_true, if_true]
  · simp only [exec_enec, execEnec, enecOp, hm, Bool.not_false, if_true]
  · simp only [exec_disec, execDisec, disecOp, hm, Bool.not_false, if_true]
  · rw [exec_setmwl, execSetmwl, setLimit_other hm]
  · rw [exec_setmrl, execSetmrl, setLimit_other hm]
  · simp only [exec_rstact, execRstact, rstactOp, hm, Bool.not_false, if_true]
  · have hc : (dst.isNone || directCodes.contains c || !forMe s dst) = true := by
      rcases h with rfl | h | h
      · rfl
      · rw [List.contains_iff_mem.2 h, Bool.or_true, Bool.true_or]
      · rw [h, Bool.not_false, Bool.or_true]
    rw [exec_entas, execEntas, entasOp, if_pos hc]
  · have hn : ¬ (dst.isNone || directCodes.contains c || !forMe s dst) = true := by
      rw [hm]
      simp [hdst, hc]
    rw [exec_entas, execEntas, entasOp, if_neg hn]
  · simp only [exec_rstdaa, execRstdaa, hd, Bool.false_eq_true, if_false]
  · simp only [exec_enthdr0, execEnthdr0, hd, Bool.false_eq_true, if_false]
  · simp only [exec_entdaa, execEntdaa, hd, hn, Option.isSome_none, Bool.or_self, Bool.false_eq_true, if_false, setDyn]
  · simp only [exec_setdasa, execSetdasa, hd, hn, bne_self_eq_false, Option.isSome_none, Bool.or_self, Bool.false_eq_true, if_false, setDyn]
  · rw [exec_entdaa, execEntdaa, Option.isSome_iff_ne_none.2 hn, Bool.or_true, if_pos rfl]
  · rw [exec_setdasa, execSetdasa, Option.isSome_iff_ne_none.2 hn, Bool.or_true, if_pos rfl]
  · rw [exec_setdasa, execSetdasa, bne_iff_ne.2 ha, Bool.or_true, Bool.true_or, if_pos rfl]
  · have hm := hmine a ha
    exact ⟨congrArg Host.Outcome.next (if_pos hm), congrArg Host.Outcome.next (ccGet_mine hm _), congrArg Host.Outcome.next (ccGet_mine hm _),
      congrArg Host.Outcome.next (ccGet_mine hm _), congrArg Host.Outcome.next (ccGet_mine hm _), congrArg Host.Outcome.next (ccGet_mine hm _),
      congrArg Host.Outcome.next (ccGet_mine hm _), congrArg Host.Outcome.next (ccGet_mine hm _)⟩
  · have hm := hother a ha
    exact ⟨congrArg Host.Outcome.next (if_neg (ne_true_of_eq_false hm)), congrArg Host.Outcome.next (ccGet_other hm _),
      congrArg Host.Outcome.next (ccGet_other hm _), congrArg Host.Outcome.next (ccGet_other hm _)⟩

end Sys2Proof.Machine

/-! PROOF. Management requests: O49 is refuted. -/
namespace Sys2Proof.Machine

/-! ### A request that is not executed while an access of the target still waits (R317, R338) -/

/-- A target with a dynamic address whose read of an entry still waits its turn. -/
def readWaits : State := { State.reset with
  i3c := { State.reset.i3c with dyn := some 0x10 }
  dict := { State.reset.dict with waiting := [.read 4 0 0 1 0 none] } }

theorem readWaits_alive : dead readWaits = false := by decide
theorem readWaits_takes : takesTransfer readWaits 0x10 none = true := by decide

/-- Its answer is not ready: the access that waits is still to end. -/
theorem readWaits_unready : (i3cRequest readWaits none []).i3c.ready = false := by decide

/-- Refutes O49: a frame without a CRC (`[]`) reaches a target whose earlier read still waits. The answer 0x03 is stored, but the port does not become
ready before that read has ended, so `ready = true` fails. -/
theorem not_managementRequests : ¬ Obligations.ManagementRequests := by
  unfold Obligations.ManagementRequests
  intro h
  obtain ⟨-, hreq, -⟩ := h readWaits none [] readWaits_alive
  obtain ⟨-, hcrc, -⟩ := hreq (.i3cReadRequest none []) (.inl rfl)
  obtain ⟨t, ht, -, hready, -⟩ := hcrc readWaits_takes (by decide)
  rw [exec_i3cReadRequest, execI3cReadRequest, Host.Outcome.next.injEq] at ht
  rw [← ht, readWaits_unready] at hready
  exact absurd hready (by decide)

end Sys2Proof.Machine

/-! PROOF. Images over I3C and the end of a flash write: O60. -/
namespace Sys2Proof.Machine

/-! ### Images received over I3C (R426) -/

/-- The byte at index `i` among those put down from offset `off + k`. -/
theorem find_indexed {α : Type} (l : List α) (off k i : Nat) : ((l.zipIdx k).map fun x => (off + x.2, x.1)).find? (fun x => x.1 == i) =
    if off + k ≤ i then l[i - (off + k)]?.map fun b => (i, b) else none := by
  induction l generalizing k with
  | nil => simp
  | cons b l ih =>
    rw [List.zipIdx_cons, List.map_cons, List.find?_cons, ih]
    by_cases h : off + k = i
    · simp [h]
    · rw [show (off + k == i) = false from beq_false_of_ne h]
      dsimp only
      by_cases hle : off + k ≤ i
      · have h1 : off + (k + 1) ≤ i := by omega
        have h2 : i - (off + k) = i - (off + (k + 1)) + 1 := by omega
        rw [if_pos h1, if_pos hle, h2, List.getElem?_cons_succ]
      · rw [if_neg (by omega), if_neg hle]

/-- Byte `i` of an image being received, as it stands. -/
def receivedByte (s : State) (got : List (Nat × Byte)) (i : Nat) : Byte :=
  ((got.find? fun x => x.1 == i).map (·.2)).getD ((Config.freeWord (s.free + i)).setWidth 8)

theorem receivedImage_some {s : State} {t size : Nat} {got : List (Nat × Byte)} (h : s.boot.incoming = some (t, size, got)) :
    receivedImage s = (List.range size).map (receivedByte s got) := by
  rw [receivedImage, h]
  rfl

/-- Once the whole image is held no byte of it is free. -/
theorem receivedImage_whole {s u : State} {t size : Nat} {got : List (Nat × Byte)} (h : s.boot.incoming = some (t, size, got))
    (hu : u.boot.incoming = some (t, size, (receivedImage s).zipIdx.map fun x => (x.2, x.1))) : receivedImage u = receivedImage s := by
  rw [receivedImage_some hu]
  have hlen : (receivedImage s).length = size := by rw [receivedImage_some h, List.length_map, List.length_range]
  refine List.ext_getElem (by rw [List.length_map, List.length_range, hlen]) fun i hi _ => ?_
  have hlt : i < (receivedImage s).length := by rwa [List.length_map, List.length_range, ← hlen] at hi
  have hfind : ((receivedImage s).zipIdx.map fun x => (x.2, x.1)).find? (fun x => x.1 == i) = some (i, (receivedImage s)[i]) := by
    have key := find_indexed (receivedImage s) 0 0 i
    simp only [Nat.zero_add, Nat.sub_zero, Nat.zero_le, if_true, List.getElem?_eq_getElem hlt, Option.map_some] at key
    exact key
  rw [List.getElem_map, List.getElem_range, receivedByte, hfind]
  rfl

section Start

variable {s : State} {target size : Nat}

/-- The target may be asked for in the device's present state (R426). -/
def startable (s : State) (target : Nat) : Prop :=
  (target = 0 ∧ s.boot.state = 7) ∨ ((target = 1 ∨ target = 2) ∧ s.boot.state = 6 ∧ s.boot.slot + 1 ≠ target)

theorem recStart_unknown (h : 2 < target) : recStart s target size = .error 0x0005 := if_pos h

theorem recStart_barred (hle : target ≤ 2)
    (h : target = 0 ∧ s.boot.state ≠ 7 ∨ target ≠ 0 ∧ (s.boot.state ≠ 6 ∨ s.boot.slot + 1 = target) ∨ s.boot.flashBusy.isSome = true) :
    recStart s target size = .error 0x0007 := (if_neg (by omega)).trans (if_pos h)

theorem recStart_startable (h : startable s target) (hb : s.boot.flashBusy = none) : recStart s target size =
    if 983552 < size then .error 0x0015 else .ok { s with boot := { s.boot with incoming := some (target, size, []), recDone := false } } := by
  have hn : ¬ (target = 0 ∧ s.boot.state ≠ 7 ∨ target ≠ 0 ∧ (s.boot.state ≠ 6 ∨ s.boot.slot + 1 = target) ∨ s.boot.flashBusy.isSome = true) := by
    rw [hb]
    rintro (⟨h0, h7⟩ | ⟨h0, h6⟩ | hsome)
    · rcases h with ⟨-, h'⟩ | ⟨h', -⟩
      · exact h7 h'
      · omega
    · rcases h with ⟨h', -⟩ | ⟨-, h6', hs⟩
      · exact h0 h'
      · exact h6.elim (· h6') hs
    · exact absurd hsome (by decide)
  have hle : ¬ 2 < target := by rcases h with ⟨h, -⟩ | ⟨h, -⟩ <;> omega
  exact (if_neg hle).trans (if_neg hn)

end Start

section Data

variable {s : State} {t size : Nat} {got : List (Nat × Byte)} (h : s.boot.incoming = some (t, size, got))
include h

theorem recData_ended (off : Nat) (data : List Byte) (hd : s.boot.recDone = true) : recData s off data = .error 0x0007 := by
  rw [recData, h]
  exact if_pos hd

variable (hd : s.boot.recDone = false)
include hd

theorem recData_beyond {off : Nat} {data : List Byte} (hlt : size < off + data.length) : recData s off data = .error 0x0005 := by
  rw [recData, h]
  exact (if_neg (ne_true_of_eq_false hd)).trans (if_pos hlt)

/-- What has been received once bytes `data` have arrived at `off`. -/
def withData (got : List (Nat × Byte)) (off : Nat) (data : List Byte) : List (Nat × Byte) :=
  got.filter (fun x => !decide (off ≤ x.1 ∧ x.1 < off + data.length)) ++ data.zipIdx.map fun x => (off + x.2, x.1)

theorem recData_within {off : Nat} {data : List Byte} (hle : off + data.length ≤ size) :
    recData s off data = .ok { s with boot := { s.boot with incoming := some (t, size, withData got off data) } } := by
  rw [recData, h]
  exact (if_neg (ne_true_of_eq_false hd)).trans (if_neg (by omega))

omit h hd in
theorem receivedByte_withData (u : State) (got : List (Nat × Byte)) (off : Nat) (data : List Byte) (i : Nat) : receivedByte u (withData got off data) i =
    if h : off ≤ i ∧ i < off + data.length then data[i - off] else receivedByte u got i := by
  have hnew := find_indexed data off 0 i
  rw [Nat.add_zero] at hnew
  rw [receivedByte, withData, List.find?_append, List.find?_filter]
  by_cases hi : off ≤ i ∧ i < off + data.length
  · have hold : got.find? (fun x => decide ((!decide (off ≤ x.1 ∧ x.1 < off + data.length)) = true ∧ (x.1 == i) = true)) = none := by
      rw [List.find?_eq_none]
      intro x _ hx
      simp only [decide_eq_true_eq, beq_iff_eq, Bool.not_eq_true', decide_eq_false_iff_not] at hx
      exact hx.1 (hx.2 ▸ hi)
    rw [hold, hnew, if_pos hi.1, dif_pos hi, List.getElem?_eq_getElem (by omega)]
    rfl
  · have hold : (fun x : Nat × Byte => decide ((!decide (off ≤ x.1 ∧ x.1 < off + data.length)) = true ∧ (x.1 == i) = true)) = fun x => x.1 == i := by
      funext x
      by_cases hx : x.1 = i
      · simp [hx, hi]
      · simp [hx]
    have hnone : (if off ≤ i then data[i - off]?.map fun b => (i, b) else none) = none := by
      split
      · rw [List.getElem?_eq_none (by omega), Option.map_none]
      · rfl
    rw [hold, hnew, hnone, Option.or_none, dif_neg hi, receivedByte]

end Data

section Finish

variable {s : State} {t size : Nat} {got : List (Nat × Byte)} (h : s.boot.incoming = some (t, size, got))
include h

theorem recFinish_ended (hd : s.boot.recDone = true) : recFinish s = .error (0x0007, s) := by
  rw [recFinish, h]
  exact if_pos hd

variable (hd : s.boot.recDone = false)
include hd

/-- What FINISH finds of the image (R423, R426). -/
def finishVerdict (s : State) (size : Nat) : Nat := if size = 512 + bodyBytes (receivedImage s) then imageVerdict (receivedImage s) else 1

/-- The state in which FINISH has noted its verdict. -/
def judged (s : State) (size : Nat) : State :=
  { s with free := s.free + size, boot := { s.boot with fail := (s.boot.fail &&& 0xFFFF) ||| at' 32 16 (finishVerdict s size) } }

/-- The state in which the whole image is kept. -/
def kept (s : State) (t size : Nat) (busy : Option Nat) : State :=
  { judged s size with boot := { (judged s size).boot with
    recDone := true, incoming := some (t, size, (receivedImage s).zipIdx.map fun x => (x.2, x.1)), flashBusy := busy } }

theorem recFinish_refused (hv : finishVerdict s size ≠ 0) : recFinish s = .error (0x0007, judged s size) := by
  rw [recFinish, h]
  exact (if_neg (ne_true_of_eq_false hd)).trans (if_pos hv)

theorem recFinish_ram (hv : finishVerdict s size = 0) (ht : t = 0) : recFinish s = .ok (kept s t size s.boot.flashBusy, false) := by
  rw [recFinish, h]
  exact (if_neg (ne_true_of_eq_false hd)).trans ((if_neg (not_not.2 hv)).trans (if_pos ht))

theorem recFinish_flash (hv : finishVerdict s size = 0) (ht : t ≠ 0) : recFinish s = .ok (kept s t size (some (t - 1)), true) := by
  rw [recFinish, h]
  exact (if_neg (ne_true_of_eq_false hd)).trans ((if_neg (not_not.2 hv)).trans (if_neg ht))

end Finish

/-! ### The end of a flash write (R426) -/

/-- The state with a slot's image replaced and the write ended. -/
def slotWritten (s : State) (k : Nat) (img : List Byte) : State :=
  let b := { s.boot with flashBusy := none, incoming := none, recDone := false }
  if k = 0 then { s with boot := { b with flashA := img, fwA := fwWord img (imageVerdict img) } }
  else { s with boot := { b with flashB := img, fwB := fwWord img (imageVerdict img) } }

/-- The state before the report of a write's end, the answer of FINISH given. -/
def flashAnswered (s : State) (k : Nat) (failed : Bool) : State :=
  let s1 := slotWritten (if failed then { s with free := s.free + 61472 } else s) k (if failed then brokenFlash s else receivedImage s)
  let d := drawNat s1
  i3cReady (if failed ∧ s1.i3c.busy then
    { d.2 with i3c := { d.2.i3c with resp := if d.1 % 2 = 0 then respDone (s1.i3c.lastSeq.getD 0) [] else respRefused (s1.i3c.lastSeq.getD 0) 0x0007 } } else s1)

theorem flashDoneOp_due {s : State} (hd : dead s = false) {k : Nat} (hk : s.boot.flashBusy = some k) (failed : Bool) :
    flashDoneOp s failed = raiseN (flashAnswered s k failed) 731 (at' 32 8 failed.toNat ||| BitVec.ofNat 32 k) := by
  rw [flashDoneOp, hk]
  exact if_neg (ne_true_of_eq_false hd)

/-- Only the management port, the outputs and the free values drawn differ. -/
def PortOnly (s t : State) : Prop := ∃ c o n, t = { s with i3c := c, outs := o, free := n }

theorem PortOnly.trans {s t u : State} (h : PortOnly s t) (k : PortOnly t u) : PortOnly s u := by
  obtain ⟨c, o, n, rfl⟩ := h
  obtain ⟨c', o', n', rfl⟩ := k
  exact ⟨c', o', n', rfl⟩

theorem i3cReady_portOnly (s : State) : PortOnly s (i3cReady s) := by
  unfold i3cReady
  split
  · exact ⟨s.i3c, s.outs, s.free, rfl⟩
  · dsimp only
    split
    · exact ⟨_, _, s.free, rfl⟩
    · exact ⟨_, s.outs, s.free, rfl⟩

theorem i3cReady_due {s : State} (hb : s.i3c.busy = true) (hw : ∀ x ∈ s.dict.waiting, x.by' ≠ 4) :
    (i3cReady s).i3c.ready = true ∧ (i3cReady s).i3c.busy = false ∧ (i3cReady s).i3c.resp = s.i3c.resp := by
  have hn : ¬ (!s.i3c.busy || s.dict.waiting.any (·.by' == 4)) = true := by
    rw [hb, Bool.not_true, Bool.false_or, Bool.not_eq_true, List.any_eq_false]
    exact fun x hx => by simpa using hw x hx
  rw [i3cReady, if_neg hn]
  dsimp only
  split
  · exact ⟨rfl, rfl, rfl⟩
  · exact ⟨rfl, rfl, rfl⟩

theorem slotWritten_free (s : State) (n k : Nat) (img : List Byte) : slotWritten { s with free := n } k img = { slotWritten s k img with free := n } := by
  by_cases hk : k = 0
  · simp only [slotWritten, hk, if_true]
  · simp only [slotWritten, hk, if_false]

theorem slotWritten_portOnly (s : State) (n k : Nat) (img : List Byte) : PortOnly (slotWritten s k img) (slotWritten { s with free := n } k img) :=
  ⟨(slotWritten s k img).i3c, (slotWritten s k img).outs, n, slotWritten_free s n k img⟩

theorem PortOnly.refl (s : State) : PortOnly s s := ⟨s.i3c, s.outs, s.free, rfl⟩

theorem PortOnly.answer (s : State) (p : Prop) [Decidable p] (r : List Byte) :
    PortOnly s (if p then { (drawNat s).2 with i3c := { (drawNat s).2.i3c with resp := r } } else s) := by
  split
  · exact ⟨{ s.i3c with resp := r }, s.outs, s.free + 1, rfl⟩
  · exact .refl s

theorem slotWritten_drawn (s : State) (n k : Nat) (img : List Byte) (failed : Bool) :
    PortOnly (slotWritten s k img) (slotWritten (if failed then { s with free := n } else s) k img) := by
  cases failed with
  | false => exact .refl _
  | true => exact slotWritten_portOnly s n k img

/-- What the end of a flash write leaves, before its report. -/
theorem flashAnswered_portOnly (s : State) (k : Nat) (failed : Bool) :
    PortOnly (slotWritten s k (if failed then brokenFlash s else receivedImage s)) (flashAnswered s k failed) := by
  have hfree := slotWritten_drawn s (s.free + 61472) k (if failed then brokenFlash s else receivedImage s) failed
  exact hfree.trans ((PortOnly.answer _ _ _).trans (i3cReady_portOnly _))

section PortFields

variable {s t : State} (h : PortOnly s t)
include h

theorem PortOnly.boot : t.boot = s.boot := by obtain ⟨c, o, n, rfl⟩ := h; rfl
theorem PortOnly.mem : t.mem = s.mem := by obtain ⟨c, o, n, rfl⟩ := h; rfl
theorem PortOnly.parts : t.parts = s.parts := by obtain ⟨c, o, n, rfl⟩ := h; rfl
theorem PortOnly.ev : t.ev = s.ev := by obtain ⟨c, o, n, rfl⟩ := h; rfl

end PortFields

section Written

variable (s : State) (k : Nat) (img : List Byte)

theorem slotWritten_mem : (slotWritten s k img).mem = s.mem := by unfold slotWritten; dsimp only; split <;> rfl
theorem slotWritten_parts : (slotWritten s k img).parts = s.parts := by unfold slotWritten; dsimp only; split <;> rfl
theorem slotWritten_ev : (slotWritten s k img).ev = s.ev := by unfold slotWritten; dsimp only; split <;> rfl
theorem slotWritten_i3c : (slotWritten s k img).i3c = s.i3c := by unfold slotWritten; dsimp only; split <;> rfl
theorem slotWritten_dict : (slotWritten s k img).dict = s.dict := by unfold slotWritten; dsimp only; split <;> rfl
theorem slotWritten_busy : (slotWritten s k img).boot.flashBusy = none := by unfold slotWritten; dsimp only; split <;> rfl
theorem slotWritten_incoming : (slotWritten s k img).boot.incoming = none := by unfold slotWritten; dsimp only; split <;> rfl
theorem slotWritten_flashA : (slotWritten s k img).boot.flashA = if k = 0 then img else s.boot.flashA := by unfold slotWritten; dsimp only; split <;> rfl
theorem slotWritten_flashB : (slotWritten s k img).boot.flashB = if k = 0 then s.boot.flashB else img := by unfold slotWritten; dsimp only; split <;> rfl

end Written

/-- Recovery boot goes on at step 5 with the received image in working RAM. -/
theorem recoveryContinueOp_due {s : State} {size : Nat} {got : List (Nat × Byte)} (hd : dead s = false) (h : s.boot.incoming = some (0, size, got))
    (h7 : s.boot.state = 7) (hr : s.boot.recDone = true) (hu : s.i3c.unread = false) :
    recoveryContinueOp s = bootAt (loadBody { s with i3c := { s.i3c with ibiRecovery := false } }) 5 3 := by
  rw [recoveryContinueOp, h]
  exact if_neg (by simp [hd, h7, hr, hu])

theorem recoveryContinueOp_idle {s : State} (h : s.boot.incoming = none ∨ s.boot.state ≠ 7 ∨ s.boot.recDone = false ∨ s.i3c.unread = true) :
    recoveryContinueOp s = s := by
  unfold recoveryContinueOp
  split
  · next hin =>
    refine if_pos ?_
    rcases h with h | h | h | h
    · rw [h] at hin
      exact absurd hin (by simp)
    · simp [h]
    · simp [h]
    · simp [h]
  · rfl

/-- Settles O60: the recovery boot, the end of a flash write, and the operations on an image by their states. -/
theorem recoveryAndFlash : Obligations.RecoveryAndFlash := by
  refine ⟨fun s hd => ⟨fun size got h h7 hr hu hslot => ?_, fun h => congrArg Host.Outcome.next (recoveryContinueOp_idle h), fun h b => ?_, fun k hk hlt => ?_,
    fun k b hk hlt => ?_, fun k hk hlt => ?_⟩, fun s => ⟨fun target size => ⟨recStart_unknown, fun h0 h7 => recStart_barred (by omega) (.inl ⟨h0, h7⟩), fun ht h6 => ?_,
      fun h => ⟨fun hb => ?_, fun hb hlt => ?_, fun hb hle => ?_⟩⟩, fun t size got off data h => ⟨recData_ended h off data, fun hd hlt => recData_beyond h hd hlt, fun hd hle => ?_⟩, fun h => ?_,
        fun t size got h => ⟨?_, recFinish_ended h, fun hd => ⟨fun hv => ⟨_, recFinish_refused h hd hv, rfl⟩, fun hv ht => ?_, fun hv ht => ?_⟩⟩⟩⟩
  · rw [exec_recoveryBootContinue, execRecoveryBootContinue, recoveryContinueOp_due hd h h7 hr hu]
    refine ⟨_, rfl, rfl, ?_, rfl, rfl, rfl⟩
    have himg : bootImage s = receivedImage s := by
      rw [bootImage, hslot]
      rfl
    rw [← himg]
    rfl
  · rw [exec_flashSlotWriteDone, execFlashSlotWriteDone, flashDoneOp, h]
  · rw [exec_flashSlotWriteDone, execFlashSlotWriteDone, flashDoneOp_due hd hk]
    have hr := raiseN_reported (flashAnswered s k false) 731 (at' 32 8 (false : Bool).toNat ||| BitVec.ofNat 32 k)
    have hp := flashAnswered_portOnly s k false
    have hboot := hr.boot.trans hp.boot
    refine ⟨_, rfl, ?_, ?_, ?_, ?_, fun hb hw => ?_, (hr.mem.trans hp.mem).trans (slotWritten_mem _ _ _), (hr.parts.trans hp.parts).trans (slotWritten_parts _ _ _)⟩
    · rw [hboot, slotWritten_busy]
    · rw [hboot, slotWritten_incoming]
    · rw [hboot, slotWritten_flashA]
      rfl
    · rw [hboot, slotWritten_flashB]
      rfl
    · have hi : ∀ x dt, (raiseN (flashAnswered s k false) x dt).i3c = { (flashAnswered s k false).i3c with ibiAlert := (raiseN (flashAnswered s k false) x dt).i3c.ibiAlert } := by
        intro x dt
        obtain ⟨l, d, a, o, n, h⟩ := raiseN_reported (flashAnswered s k false) x dt
        rw [h]
      have hdue := i3cReady_due (s := slotWritten s k (receivedImage s)) (by rw [slotWritten_i3c, hb]) (by rw [slotWritten_dict]; exact hw)
      rw [slotWritten_i3c] at hdue
      rw [hi]
      exact hdue
  · have hp := flashAnswered_portOnly s k b
    refine ⟨flashAnswered s k b, congrArg Host.Outcome.next (flashDoneOp_due hd hk b), hp.ev.trans (slotWritten_ev _ _ _), ?_⟩
    rw [hp.boot, slotWritten_busy]
  · rw [exec_flashSlotWriteDone, execFlashSlotWriteDone, flashDoneOp_due hd hk]
    have hr := raiseN_reported (flashAnswered s k true) 731 (at' 32 8 (true : Bool).toNat ||| BitVec.ofNat 32 k)
    have hp := flashAnswered_portOnly s k true
    have hboot := hr.boot.trans hp.boot
    refine ⟨_, rfl, ?_, fun h => ?_, fun h => ?_, (hr.mem.trans hp.mem).trans (slotWritten_mem _ _ _)⟩
    · rw [hboot, slotWritten_busy]
    · rw [hboot, slotWritten_flashB, if_pos h]
    · rw [hboot, slotWritten_flashA, if_neg (by omega)]
  · exact recStart_barred (by omega) (.inr (.inl ⟨by omega, h6⟩))
  · refine recStart_barred ?_ (.inr (.inr hb))
    rcases h with ⟨h, -⟩ | ⟨h, -⟩
    · omega
    · omega
  · rw [recStart_startable h hb, if_pos hlt]
  · rw [recStart_startable h hb, if_neg (by omega)]
  · refine ⟨_, withData got off data, recData_within h hd hle, rfl, fun i hi => ?_⟩
    rw [receivedImage_some (t := t) (size := size) (got := withData got off data) rfl, receivedImage_some h, List.getElem?_map, List.getElem?_map,
      List.getElem?_range hi, Option.map_some, Option.map_some, receivedByte_withData]
    split
    · next hin => rw [List.getElem?_eq_getElem (by omega)]
    · rfl
  · exact ⟨by rw [recData, h], by rw [recFinish, h], by rw [recQuery, h]; rfl⟩
  · rw [recQuery, h]
  · exact ⟨_, recFinish_ram h hd hv ht, rfl, rfl, receivedImage_whole h rfl⟩
  · exact ⟨_, recFinish_flash h hd hv ht, rfl, rfl, receivedImage_whole h rfl⟩

end Sys2Proof.Machine

/-! PROOF. What ending items leaves alone. -/
namespace Sys2Proof.Machine

-- The frame lemmas here are many and short: checked in turn they take less memory.
set_option Elab.async false

/-! ### What ending items leaves alone -/

/-- What no ending of items changes of a partition. -/
def firmPart (q : Partition) := (q.fenced, { q.cfg with exchShadowSlots := 0, exchSwap := false }, q.streams.map fun x => (x.depth, x.watermark))

/-- What no ending of items changes: the boot's record, the units' fences, the links, the supervisor, the clusters, and the ports and stacks but for what
they carry. -/
def solid (s : State) :=
  (s.boot, s.crc, s.dieFenced, s.fab.links, s.fab.remap, { s.ls with dictRequest := false, fenceNotice := false }, s.sv, s.dict.isOpen, s.clusters,
    s.eng.map (fun e => (e.fenced, e.pairMismatches)), s.ports.map (fun p => (p.fenced, p.link, p.width, p.speed, p.cfg, p.eqOut)),
    s.stk.map (fun k => (k.fenced, k.quiet, k.calSafe, k.calRec, k.temp, k.hot, k.ready)), s.parts.map firmPart)

/-- From `s` to `t` what is solid stands, no pseudo-channel loses its fence, with no upset in memory the stacks stand, and with no access waiting none waits. -/
structure Still (s t : State) : Prop where
  solid : solid t = solid s
  latent : s.mem.latent = [] → t.mem.latent = [] ∧ t.stk = s.stk
  grows : ∀ (st : StackId) (c : Nat), bit s.stk[st].pcFenced c = true → bit t.stk[st].pcFenced c = true
  waits : s.dict.waiting = [] → t.dict.waiting = []

theorem Still.refl (s : State) : Still s s := ⟨rfl, fun h => ⟨h, rfl⟩, fun _ _ h => h, id⟩

theorem Still.trans {s t u : State} (h : Still s t) (k : Still t u) : Still s u :=
  ⟨k.solid.trans h.solid, fun hl => ⟨(k.latent (h.latent hl).1).1, (k.latent (h.latent hl).1).2.trans (h.latent hl).2⟩, fun st c hc => k.grows st c (h.grows st c hc),
    k.waits ∘ h.waits⟩

/-- A change of nothing solid, of no upset, of no stack and of no waiting access. -/
theorem Still.upd {s t u : State} (hs : Machine.solid u = Machine.solid t) (hm : u.mem.latent = t.mem.latent) (hk : u.stk = t.stk) (h : Still s t)
    (hw : u.dict.waiting = t.dict.waiting := by rfl) : Still s u :=
  h.trans ⟨hs, fun hl => ⟨hm.trans hl, hk⟩, fun st c hc => by rw [hk]; exact hc, hw.trans⟩

/-- A unit changed in nothing that a view of it shows. -/
theorem map_updV {α β : Type} {n : Nat} (v : Vector α n) (i : Fin n) (f : α → α) (g : α → β) (h : ∀ x, g (f x) = g x) : (updV v i f).map g = v.map g := by
  ext j hj
  rw [Vector.getElem_map, Vector.getElem_map]
  by_cases hi : i = ⟨j, hj⟩
  · subst hi
    exact (congrArg g (updV_same v ⟨j, hj⟩ f)).trans (h _)
  · exact congrArg g (updV_other v i ⟨j, hj⟩ f hi)

/-- The state that `π` shows of an answer keeps them. (A definition of its own, so that a proof can follow the answer's cases.) -/
def StillBy {α : Type} (π : α → State) (s : State) (x : α) : Prop := Still s (π x)

theorem StillBy.out {α : Type} {π : α → State} {s : State} {x : α} (h : StillBy π s x) : Still s (π x) := h

/-- What an answer carries, once the answer is known. -/
theorem StillBy.along {α : Type} {π : α → State} {s : State} {x y : α} (e : x = y) (h : StillBy π s x) : StillBy π s y := e ▸ h

theorem StillBy.intro {α : Type} {π : α → State} {s : State} {x : α} (h : Still s (π x)) : StillBy π s x := h

/-- An outcome, where there is one, keeps them. -/
def StillIf {α : Type} (π : α → State) (s : State) (o : Option α) : Prop := ∀ x, o = some x → Still s (π x)

theorem StillIf.none {α : Type} {π : α → State} {s : State} : StillIf π s none := fun _ h => nomatch h

theorem StillIf.some {α : Type} {π : α → State} {s : State} {x : α} (h : Still s (π x)) : StillIf π s (some x) := by
  rintro _ ⟨⟩
  exact h

theorem StillIf.bind {α β : Type} {π : α → State} {ρ : β → State} {s : State} {o : Option α} {f : α → Option β} (h : StillIf π s o)
    (hf : ∀ x, Still s (π x) → StillIf ρ s (f x)) : StillIf ρ s (o.bind f) := by
  intro y hy
  obtain ⟨x, hx, hy⟩ := Option.bind_eq_some_iff.1 hy
  exact hf x (h x hx) y hy

theorem StillIf.map {α β : Type} {π : α → State} {ρ : β → State} {s : State} {o : Option α} {f : α → β} (h : StillIf π s o)
    (hf : ∀ x, Still s (π x) → Still s (ρ (f x))) : StillIf ρ s (o.map f) := by
  intro y hy
  obtain ⟨x, hx, rfl⟩ := Option.map_eq_some_iff.1 hy
  exact hf x (h x hx)

/-- A result that some choice gives, whatever the choice. -/
theorem StillIf.of_choice {α β : Type} {ρ : β → State} {s : State} {o : Option α} {f : α → Option β} (hf : ∀ x, StillIf ρ s (f x)) :
    StillIf ρ s (o.bind f) := by
  intro y hy
  obtain ⟨x, -, hy⟩ := Option.bind_eq_some_iff.1 hy
  exact hf x y hy

theorem StillIf.map_choice {α β : Type} {ρ : β → State} {s : State} {o : Option α} {f : α → β} (hf : ∀ x, Still s (ρ (f x))) :
    StillIf ρ s (o.map f) := by
  intro y hy
  obtain ⟨x, -, rfl⟩ := Option.map_eq_some_iff.1 hy
  exact hf x

theorem Still.ite {c : Prop} [Decidable c] {s x y : State} (hx : c → Still s x) (hy : ¬c → Still s y) : Still s (if c then x else y) := by
  split
  · exact hx ‹_›
  · exact hy ‹_›

theorem Still.dite {c : Prop} [Decidable c] {s : State} {x : c → State} {y : ¬c → State} (hx : ∀ h, Still s (x h)) (hy : ∀ h, Still s (y h)) :
    Still s (if h : c then x h else y h) := by
  split
  · exact hx ‹_›
  · exact hy ‹_›

theorem StillBy.ite {α : Type} {π : α → State} {s : State} {c : Prop} [Decidable c] {x y : α} (hx : c → StillBy π s x)
    (hy : ¬c → StillBy π s y) : StillBy π s (if c then x else y) := by
  split
  · exact hx ‹_›
  · exact hy ‹_›

theorem StillBy.dite {α : Type} {π : α → State} {s : State} {c : Prop} [Decidable c] {x : c → α} {y : ¬c → α} (hx : ∀ h, StillBy π s (x h))
    (hy : ∀ h, StillBy π s (y h)) : StillBy π s (if h : c then x h else y h) := by
  split
  · exact hx ‹_›
  · exact hy ‹_›

/-- An outcome or, where there is none, the state that stood. -/
theorem StillIf.getD {s0 s : State} {o : Option State} (h : StillIf id s0 o) (hs : Still s0 s) : Still s0 (o.getD s) := by
  cases o with
  | none => exact hs
  | some t => exact h t rfl

/-- A fold over an accumulator that carries the state as `π` shows it. -/
theorem still_foldl_of {α β : Type} {π : β → State} {s0 : State} {x : β} {f : β → α → β} {l : List α} (h : Still s0 (π x))
    (hf : ∀ y a, Still s0 (π y) → StillBy π s0 (f y a)) : Still s0 (π (l.foldl f x)) := by
  induction l generalizing x with
  | nil => exact h
  | cons a l ih => exact ih (hf x a h)

theorem still_foldl {α : Type} {s0 s : State} {f : State → α → State} {l : List α} (h : Still s0 s) (hf : ∀ t a, Still s0 t → Still s0 (f t a)) :
    Still s0 (l.foldl f s) := still_foldl_of (π := id) h hf

theorem still_foldl_fst {α β : Type} {s0 : State} {x : State × β} {f : State × β → α → State × β} {l : List α} (h : Still s0 x.1)
    (hf : ∀ y a, Still s0 y.1 → StillBy Prod.fst s0 (f y a)) : Still s0 (l.foldl f x).1 := still_foldl_of h hf

theorem still_foldl_snd {α β : Type} {s0 : State} {x : β × State} {f : β × State → α → β × State} {l : List α} (h : Still s0 x.2)
    (hf : ∀ y a, Still s0 y.2 → StillBy Prod.snd s0 (f y a)) : Still s0 (l.foldl f x).2 := still_foldl_of h hf

theorem still_foldl_third {α β γ : Type} {s0 : State} {x : β × γ × State} {f : β × γ × State → α → β × γ × State} {l : List α}
    (h : Still s0 x.2.2) (hf : ∀ y a, Still s0 y.2.2 → StillBy third s0 (f y a)) : Still s0 (l.foldl f x).2.2 :=
  still_foldl_of (π := third) h hf

/-! The answers, by their makers. -/

section Makers

variable {s t : State}

theorem StillBy.acc {d : W128} {n : Nat} (h : Still s t) : StillBy Acc.s s { data := d, status := n, s := t } := h

theorem StillBy.snd {β : Type} {b : β} (h : Still s t) : StillBy Prod.snd s (b, t) := h

theorem StillBy.slotRun {d : List W128} {w : List PhaseWrite} {e : SlotEnd} (h : Still s t) :
    StillBy SlotRun.s s { s := t, data := d, writes := w, stop := e } := h

theorem StillBy.commitRun {b : Option (Nat × Nat)} (h : Still s t) : StillBy CommitRun.s s { s := t, bad := b } := h

theorem StillBy.imgRes {e : ImgEnd} (h : Still s t) : StillBy ImgRes.s s { s := t, stop := e } := h

end Makers


/-! ### The operations, in the order of the definitions -/

theorem still_modSeq {s0 : State} {s : State} {n : VeId} {f : Core → Core} (h : Still s0 s) :
    Still s0 (modSeq s n f) := by
  unfold modSeq
  exact Still.upd (t:=s) rfl rfl rfl h

theorem still_modEng {s0 : State} {s : State} {n : VeId} {f : Engine → Engine} (h : Still s0 s)
    (hf : ∀ x, ((f x).fenced, (f x).pairMismatches) = (x.fenced, x.pairMismatches) := by intro x; rfl) :
    Still s0 (modEng s n f) :=
  Still.upd (t:=s) (by simp only [solid, modEng, map_updV _ _ _ (fun x : Engine => (x.fenced, x.pairMismatches)) hf]) rfl rfl h

theorem still_modPart {s0 : State} {s : State} {p : PartId} {f : Partition → Partition} (h : Still s0 s) (hf : ∀ x, firmPart (f x) = firmPart x := by intro x; rfl) :
    Still s0 (modPart s p f) :=
  Still.upd (t:=s) (by simp only [solid, modPart, map_updV _ _ _ firmPart hf]) rfl rfl h

/-- One stream changed in neither its depth nor its watermark. -/
theorem firm_updV (fen : Bool) (c : PartCfg) (v : Vector Stream 8) (k : Fin 8) (f : Stream → Stream)
    (hf : ∀ x, ((f x).depth, (f x).watermark) = (x.depth, x.watermark)) :
    (fen, c, (updV v k f).map fun x => (x.depth, x.watermark)) = (fen, c, v.map fun x => (x.depth, x.watermark)) := by
  rw [map_updV _ _ _ _ hf]

theorem still_modBank {s0 : State} {s : State} {b : BankId} {f : Bank → Bank} (h : Still s0 s) :
    Still s0 (modBank s b f) := by
  unfold modBank
  exact Still.upd (t:=s) rfl rfl rfl h

theorem still_modPort {s0 : State} {s : State} {p : PortId} {f : Port → Port} (h : Still s0 s)
    (hf : ∀ x, ((f x).fenced, (f x).link, (f x).width, (f x).speed, (f x).cfg, (f x).eqOut) = (x.fenced, x.link, x.width, x.speed, x.cfg, x.eqOut) := by intro x; rfl) :
    Still s0 (modPort s p f) :=
  Still.upd (t:=s) (by simp only [solid, modPort, map_updV _ _ _ (fun x : Port => (x.fenced, x.link, x.width, x.speed, x.cfg, x.eqOut)) hf]) rfl rfl h

theorem still_modStream {s0 : State} {s : State} {p : PartId} {k : Fin 8} {f : Stream → Stream} (h : Still s0 s)
    (hf : ∀ x, ((f x).depth, (f x).watermark) = (x.depth, x.watermark) := by intro x; rfl) : Still s0 (modStream s p k f) := by
  unfold modStream
  exact still_modPart h fun q => firm_updV _ _ _ _ _ hf

theorem still_emit {s0 : State} {s : State} {o : Out} (h : Still s0 s) :
    Still s0 (emit s o) := by
  unfold emit
  exact Still.upd (t:=s) rfl rfl rfl h

theorem still_drawWord {s0 : State} {s : State} (h : Still s0 s) :
    StillBy Prod.snd s0 (drawWord s) := by
  unfold drawWord
  exact StillBy.snd (Still.upd (t:=s) rfl rfl rfl h)

theorem still_drawNat {s0 : State} {s : State} (h : Still s0 s) :
    StillBy Prod.snd s0 (drawNat s) := by
  unfold drawNat
  exact StillBy.snd (Still.upd (t:=s) rfl rfl rfl h)

theorem still_setAlert {s0 : State} {s : State} {i : ℕ} (h : Still s0 s) :
    Still s0 (setAlert s i) := by
  have h1 : Still s0 { s with dict := { s.dict with alertCause := setBit s.dict.alertCause i true } } := .upd (t := s) rfl rfl rfl h
  unfold setAlert
  dsimp only
  split
  · exact h1
  · split
    · exact still_emit h1
    · exact .upd (t := s) rfl rfl rfl h

theorem still_toTwinState {s0 : State} {s : State} {st : Fin 7} (h : Still s0 s) :
    Still s0 (toTwinState s st) := by
  unfold toTwinState
  extract_lets +onlyGivenNames s1
  clear_value s1
  extract_lets +onlyGivenNames s11
  have hs11 : Still s0 s11 := Still.upd (t:=s) rfl rfl rfl h
  clear_value s11
  split
  · exact still_setAlert hs11
  · exact hs11

theorem still_i3cReady {s0 : State} {s : State} (h : Still s0 s) :
    Still s0 (i3cReady s) := by
  unfold i3cReady
  split
  · exact h
  · extract_lets +onlyGivenNames s1
    clear_value s1
    extract_lets +onlyGivenNames s11
    have hs11 : Still s0 s11 := Still.upd (t:=s) rfl rfl rfl h
    clear_value s11
    split
    · exact still_emit hs11
    · exact Still.upd (t:=s11) rfl rfl rfl hs11

theorem still_portAbort {s0 : State} {s : State} {h1 : PortId} {ix : ℕ} {sub : ℕ} {write : Bool} {code : ℕ} (h : Still s0 s) :
    Still s0 (portAbort s h1 ix sub write code) := by
  unfold portAbort
  exact still_modPort h

theorem still_dictRefuse {s0 : State} {s : State} {r : Requester} {ix : ℕ} {sub : ℕ} {write : Bool} {code : ℕ} (h : Still s0 s) :
    Still s0 (dictRefuse s r ix sub write code) := by
  unfold dictRefuse
  split
  · exact still_i3cReady (Still.upd (t:=s) rfl rfl rfl h)
  · extract_lets +onlyGivenNames s1
    have hs1 : Still s0 s1 := by
      unfold s1
      split
      · exact still_portAbort h
      · exact h
    clear_value s1
    exact still_emit hs1

theorem still_refuseHeld {s0 : State} {s : State} {r : Requester} {ix : ℕ} {sub : ℕ} {code : ℕ} (h : Still s0 s) :
    Still s0 (refuseHeld s r ix sub code) := by
  unfold refuseHeld
  split
  · exact h
  · exact still_dictRefuse h

theorem still_dictFinish {s0 : State} {s : State} {r : Requester} (h : Still s0 s) :
    Still s0 (dictFinish s r) := by
  unfold dictFinish
  split
  · exact still_i3cReady h
  · exact still_emit h

theorem still_raise {s0 : State} {s : State} {x : SrcId} {dt : W32} (h : Still s0 s) :
    Still s0 (raise s x dt) := by
  unfold raise
  extract_lets +onlyGivenNames l s1
  clear_value l s1
  extract_lets +onlyGivenNames s11
  have hs11 : Still s0 s11 := Still.upd (t:=s) rfl rfl rfl h
  clear_value s11
  split
  · split
    · exact still_setAlert hs11
    · exact hs11
  · exact hs11

theorem still_raiseN {s0 : State} {s : State} {x : ℕ} {dt : W32} (h : Still s0 s) :
    Still s0 (raiseN s x dt) := by
  unfold raiseN
  split
  · exact still_raise h
  · exact h

theorem still_sinkResponses {s0 : State} {s : State} {master : ℕ} {sunk : ℕ} (h : Still s0 s) :
    Still s0 (sinkResponses s master sunk) := by
  unfold sinkResponses
  split
  · exact h
  · exact still_raiseN (Still.upd (t:=s) rfl rfl rfl h)

theorem still_sinkVe {s0 : State} {s : State} {n : VeId} {k : ℕ} {l : Sunk} (h : Still s0 s) :
    Still s0 (sinkVe s n k l) := by
  unfold sinkVe
  exact still_foldl h (fun _ _ h2 => still_sinkResponses h2)

theorem still_fenceEvent {s0 : State} {s : State} {kind : ℕ} {number : ℕ} {reason : ℕ} (h : Still s0 s) :
    Still s0 (fenceEvent s kind number reason) := by
  unfold fenceEvent
  exact still_raiseN (Still.upd (t:=s) rfl rfl rfl h)

theorem still_hitParts {s0 : State} {s : State} {m : W16} (h : Still s0 s) :
    Still s0 (hitParts s m) := by
  unfold hitParts
  exact Still.upd (t:=s) rfl rfl rfl h

theorem still_bankEvent {s0 : State} {s : State} {b : BankId} {kind : ℕ} {code : ℕ} {low : ℕ} (h : Still s0 s) :
    Still s0 (bankEvent s b kind code low) := by
  unfold bankEvent
  exact still_raiseN h

theorem still_fenceBank {s0 : State} {s : State} {b : BankId} {reason : ℕ} (h : Still s0 s) :
    Still s0 (fenceBank s b reason) := by
  unfold fenceBank
  split
  · exact h
  · extract_lets +onlyGivenNames s01 sh s1 s2
    have hs01 : Still s0 s01 := still_hitParts h
    have hsh : Still s0 sh := still_foldl hs01 (fun _ _ h4 => still_emit h4)
    have hs1 : Still s0 s1 := still_modBank hsh
    have hs2 : Still s0 s2 := by
      unfold s2
      split
      · exact still_refuseHeld hs1
      · exact hs1
    clear_value s01 sh s1 s2
    exact still_fenceEvent (still_bankEvent hs2)

theorem still_withdraw {s0 : State} {s : State} {who : ℕ → Bool} (h : Still s0 s) :
    Still s0 (withdraw s who) := by
  unfold withdraw
  exact Still.upd (t:=s) rfl rfl rfl h

theorem still_poisonedRead {s0 : State} {s : State} {u : MemUnit} {code : ℕ} {w : ℕ} (h : Still s0 s) :
    Still s0 (poisonedRead s u code w) := by
  unfold poisonedRead
  split
  · exact still_raiseN h
  · exact still_bankEvent h

/-! Memory's own part: an upset that is found is the only thing by which the stacks change. -/

/-- What an upset's finding leaves: the solid part, and every fence of a pseudo-channel. -/
def Firm (s t : State) : Prop := solid t = solid s ∧ ∀ (st : StackId) (c : Nat), bit s.stk[st].pcFenced c = true → bit t.stk[st].pcFenced c = true

theorem Still.firm {s t : State} (h : Still s t) : Firm s t := ⟨h.solid, h.grows⟩

theorem Firm.trans {s t u : State} (h : Firm s t) (k : Firm t u) : Firm s u := ⟨k.1.trans h.1, fun st c hc => k.2 st c (h.2 st c hc)⟩

/-- A stack changed in nothing solid, that loses no fence. -/
theorem firm_modStack {s : State} {i : StackId} {f : Stack → Stack}
    (hf : ∀ x, ((f x).fenced, (f x).quiet, (f x).calSafe, (f x).calRec, (f x).temp, (f x).hot, (f x).ready) =
      (x.fenced, x.quiet, x.calSafe, x.calRec, x.temp, x.hot, x.ready))
    (hp : ∀ (x : Stack) (c : Nat), bit x.pcFenced c = true → bit (f x).pcFenced c = true) : Firm s (modStack s i f) := by
  refine ⟨?_, fun st c hc => ?_⟩
  · simp only [solid, modStack, map_updV _ _ _ (fun x : Stack => (x.fenced, x.quiet, x.calSafe, x.calRec, x.temp, x.hot, x.ready)) hf]
  · by_cases h : i = st
    · subst h
      rw [modStack_same]
      exact hp _ c hc
    · rw [modStack_other _ _ _ _ h]
      exact hc

theorem bit_setBit_of_bit {n : Nat} (x : BitVec n) (i j : Nat) (h : bit x j = true) : bit (setBit x i true) j = true := by
  unfold bit at h ⊢
  rw [setBit, if_pos rfl, BitVec.toNat_or, Nat.testBit_or, h, Bool.true_or]

theorem fencePc_firm (s : State) (st : StackId) (c r : Nat) : Firm s (fencePc s st c r) := by
  unfold fencePc
  split
  · exact (Still.refl s).firm
  · have h1 : Firm s (modStack (hitParts s (stackReach s st)) st fun k => { k with pcFenced := setBit k.pcFenced c true }) :=
      (still_hitParts (.refl s)).firm.trans (firm_modStack (fun _ => rfl) fun x i hi => bit_setBit_of_bit _ _ _ hi)
    exact h1.trans (still_fenceEvent (still_raiseN (.refl _))).firm

theorem corrected_firm (s : State) (u : MemUnit) (code w : Nat) : Firm s (corrected s u code w) := by
  have h0 : Firm s { s with ceTotal := satInc s.ceTotal, mem := { s.mem with writeBack := insertAsc w s.mem.writeBack } } := ⟨rfl, fun _ _ h => h⟩
  unfold corrected
  cases u with
  | pc st c row word =>
    have h1 := h0.trans (firm_modStack (i := st) (f := fun k => { k with ce := satInc k.ce, ceSeen := s.stk[st].ceSeen + 1 }) (fun _ => rfl) fun _ _ h => h)
    dsimp only
    split
    · exact h1.trans (still_raiseN (.refl _)).firm
    · exact h1
  | bank b =>
    have h1 := h0.trans (still_modBank (b := b) (f := fun k => { k with ce := satInc k.ce, ceSeen := s.banks[b].ceSeen + 1 }) (.refl _)).firm
    dsimp only
    split
    · exact h1.trans (still_bankEvent (.refl _)).firm
    · exact h1

theorem uncorrectable_firm (s : State) (u : MemUnit) (code w : Nat) (v : W128) : Firm s (uncorrectable s u code w v) := by
  have h0 : Firm s { s with ueTotal := satInc s.ueTotal, mem := wordPoison s.mem w v } := ⟨rfl, fun _ _ h => h⟩
  unfold uncorrectable
  cases u with
  | pc st c row word =>
    have h1 := h0.trans (firm_modStack (i := st) (f := fun k => { k with
      ue := satInc k.ue, lastUe := BitVec.ofNat 64 (16 * w), ueRows := updV k.ueRows c fun _ => insertAsc row s.stk[st].ueRows[c] }) (fun _ => rfl) fun _ _ h => h)
    have h2 := h1.trans (still_raiseN (x := 513 + 8 * st.val) (dt := eccDetail c.val row word) (.refl _)).firm
    dsimp only
    split
    · exact h2.trans (fencePc_firm _ _ _ _)
    · exact h2
  | bank b =>
    have h1 := h0.trans (still_modBank (b := b) (f := fun k => { k with ue := satInc k.ue }) (.refl _)).firm
    have h2 := h1.trans (still_bankEvent (b := b) (kind := 4) (code := code) (low := w % 2 ^ 18) (.refl _)).firm
    dsimp only
    split
    · exact h2.trans (still_fenceBank (.refl _)).firm
    · exact h2

/-- An answer found in memory with an upset need be firm only. -/
theorem Still.found {s t : State} (h : Firm s t) (hr : ReadKeeps s t) (hl : s.mem.latent ≠ []) : Still s t := by
  refine ⟨h.1, fun hn => absurd hn hl, h.2, fun hw => ?_⟩
  rw [ReadKeeps] at hr
  rw [hr]
  exact hw

theorem still_checkWord {s0 : State} {s : State} {u : MemUnit} {code : ℕ} {w : ℕ} (h : Still s0 s) :
    StillBy Acc.s s0 (checkWord s u code w) := by
  unfold checkWord
  extract_lets +onlyGivenNames v
  clear_value v
  split
  · next l hl =>
    have hne : s.mem.latent ≠ [] := fun he => by rw [he] at hl; exact absurd hl (by simp)
    split
    · exact StillBy.acc (h.trans (.found (uncorrectable_firm _ _ _ _ _) (uncorrectable_keeps _ _ _ _ _) hne))
    · split
      · exact StillBy.acc (still_poisonedRead (h.trans (.found (corrected_firm _ _ _ _) (corrected_keeps _ _ _ _) hne)))
      · exact StillBy.acc (h.trans (.found (corrected_firm _ _ _ _) (corrected_keeps _ _ _ _) hne))
  · split
    · exact StillBy.acc (still_poisonedRead h)
    · exact StillBy.acc h

theorem still_nonOwner {s0 : State} {s : State} {b : BankId} {code : ℕ} {w : ℕ} {write : Bool} (h : Still s0 s) :
    Still s0 (nonOwner s b code w write) := by
  unfold nonOwner
  exact still_bankEvent (still_modBank h)

theorem still_readWord {s0 : State} {s : State} {d : ℕ} {code : ℕ} {a : ℕ} (h : Still s0 s) :
    StillBy Acc.s s0 (readWord s d code a) := by
  unfold readWord
  split
  · exact StillBy.acc h
  · split
    · exact StillBy.acc h
    · split
      · split
        · exact still_checkWord h
        · exact StillBy.acc h
        · exact StillBy.acc (still_nonOwner h)
      · exact still_checkWord h

/-- A word stored ends upsets and makes none. -/
theorem still_wordSet {s0 s : State} {w : Nat} {v : W128} (h : Still s0 s) : Still s0 { s with mem := wordSet s.mem w v } :=
  h.trans ⟨rfl, fun hl => ⟨by rw [wordSet, hl]; rfl, rfl⟩, fun _ _ hc => hc, id⟩

theorem still_orWord {s0 s : State} {d a : Nat} {v : W128} (h : Still s0 s) : Still s0 (orWord s d a v) := by
  unfold orWord
  split
  · split
    · exact h
    · extract_lets r
      have hr : Still s0 r.s := still_checkWord h
      split
      · exact hr
      · exact .upd (t := { r.s with mem := wordSet r.s.mem (a / 16) (r.data ||| v) }) rfl rfl rfl (still_wordSet hr)
  · exact h

theorem still_dirtyMark {s0 : State} {s : State} {a : ℕ} (h : Still s0 s) :
    Still s0 (dirtyMark s a) := by
  unfold dirtyMark
  split
  · exact h
  · split
    · exact h
    · extract_lets +onlyGivenNames inside
      clear_value inside
      extract_lets +onlyGivenNames inside1
      clear_value inside1
      extract_lets +onlyGivenNames inside2
      clear_value inside2
      extract_lets +onlyGivenNames inside3
      clear_value inside3
      split
      · extract_lets +onlyGivenNames g
        clear_value g
        exact still_orWord h
      · exact h

theorem still_writeMasked {s0 s : State} {d code a : Nat} {v : W128} {mask : List Bool} (h : Still s0 s) :
    StillBy Acc.s s0 (writeMasked s d code a v mask) := by
  unfold writeMasked
  split
  · exact StillBy.acc h
  · split
    · exact StillBy.acc h
    · extract_lets own r
      have hr : Still s0 r.s := still_checkWord h
      split
      · exact StillBy.acc h
      · split
        · split
          · exact StillBy.acc (still_nonOwner h)
          · exact StillBy.acc h
        · split
          · exact StillBy.acc (still_dirtyMark (still_wordSet h))
          · split
            · exact StillBy.acc hr
            · exact StillBy.acc (still_dirtyMark (still_wordSet hr))

theorem still_writeWord {s0 : State} {s : State} {d : ℕ} {code : ℕ} {a : ℕ} {v : W128} (h : Still s0 s) :
    StillBy Acc.s s0 (writeWord s d code a v) := by
  unfold writeWord
  exact still_writeMasked h

theorem still_atomicWord {s0 s : State} {d a : Nat} {f : W128 → W128} (h : Still s0 s) : StillBy Acc.s s0 (atomicWord s d a f) := by
  unfold atomicWord
  split
  · split
    · exact StillBy.acc h
    · extract_lets r
      have hr : Still s0 r.s := still_checkWord h
      split
      · exact hr
      · exact StillBy.acc (still_dirtyMark (.upd (t := { r.s with mem := wordSet r.s.mem (a / 16) (f r.data) }) rfl rfl rfl (still_wordSet hr)))
  · exact StillBy.acc h

theorem still_msixSend {s0 : State} {s : State} {h1 : PortId} {v : ℕ} (h : Still s0 s) :
    Still s0 (msixSend s h1 v) := by
  unfold msixSend
  split
  · exact still_modPort h
  · extract_lets +onlyGivenNames t
    clear_value t
    exact still_emit h

theorem still_msix {s0 : State} {s : State} {p : PartId} (h : Still s0 s) :
    Still s0 (msix s p) := by
  unfold msix
  extract_lets +onlyGivenNames h1
  split
  · exact h
  · extract_lets +onlyGivenNames c s1 s2
    have hs1 : Still s0 s1 := by
      unfold s1
      split
      · exact still_modPart (still_msixSend h)
      · exact h
    have hs2 : Still s0 s2 := by
      unfold s2
      split
      · exact still_modPart (still_msixSend hs1)
      · exact hs1
    clear_value c s1 s2
    split
    · exact still_modPart (still_msixSend hs2)
    · exact hs2

theorem still_sendFrame {s0 : State} {s : State} {kind : Byte} {payload : List W128} (h : Still s0 s) :
    Still s0 (sendFrame s kind payload) := by
  unfold sendFrame
  split
  · extract_lets +onlyGivenNames t
    clear_value t
    exact still_emit (Still.upd (t:=s) rfl rfl rfl h)
  · exact h

theorem still_ledgerPut {s0 : State} {s : State} {p : PartId} {r : W128} (h : Still s0 s) :
    Still s0 (ledgerPut s p r) := by
  unfold ledgerPut
  extract_lets +onlyGivenNames cause
  clear_value cause
  exact still_msix (still_modPart h)

theorem still_ledgerEnd {s0 : State} {s : State} {p : PartId} {item : W32} {kind : ℕ} {cause : ℕ} {detail : W64} (h : Still s0 s) :
    Still s0 (ledgerEnd s p item kind cause detail) := by
  unfold ledgerEnd
  extract_lets +onlyGivenNames r
  clear_value r
  split
  · split
    · extract_lets +onlyGivenNames seq
      clear_value seq
      exact still_modPart (still_sendFrame h)
    · exact h
  · exact still_ledgerPut h

theorem still_ledgerItem {s0 : State} {s : State} {p : PartId} {item : W32} {kind : ℕ} {cause : ℕ} {detail : Option W64} (h : Still s0 s) :
    Still s0 (ledgerItem s p item kind cause detail) := by
  unfold ledgerItem
  split
  · exact still_ledgerEnd h
  · exact still_ledgerEnd (still_drawWord h)

theorem still_ledgerAcked {s0 : State} {s : State} {ack : Option W32} {p : PartId} (h : Still s0 s) :
    Still s0 (ledgerAcked s ack p) := by
  unfold ledgerAcked
  extract_lets +onlyGivenNames w ok s1
  have hs1 : Still s0 s1 := still_modPart h
  clear_value w s1
  exact still_foldl hs1 (fun _ _ h3 => still_ledgerPut h3)

theorem still_landEdit {s0 : State} {p : PartId} {s : State} {e : Edit} (h : Still s0 s) :
    Still s0 (landEdit p s e) := by
  unfold landEdit
  extract_lets +onlyGivenNames s1
  have hs1 : Still s0 s1 := still_modPart h
  clear_value s1
  split
  · exact still_dictFinish hs1
  · exact hs1

theorem still_applyEdits {s0 : State} {s : State} {p : PartId} {ok : Edit → Bool} (h : Still s0 s) :
    Still s0 (applyEdits s p ok) := by
  unfold applyEdits
  exact still_foldl (still_modPart h) (fun _ _ h2 => still_landEdit h2)

theorem still_applySwap {s0 : State} {s : State} {p : PartId} (h : Still s0 s) :
    Still s0 (applySwap s p) := by
  unfold applySwap
  split
  · extract_lets +onlyGivenNames s1 q
    have hs1 : Still s0 s1 := still_modPart h
    clear_value s1 q
    exact still_raiseN hs1
  · exact h

theorem still_tablesEnd {s0 : State} {s : State} {p : PartId} (h : Still s0 s) :
    Still s0 (tablesEnd s p) := by
  unfold tablesEnd
  exact still_applyEdits (still_applySwap (still_applyEdits h))

theorem still_settle {s0 : State} {s : State} {p : PartId} (h : Still s0 s) :
    Still s0 (settle s p) := by
  unfold settle
  exact still_modPart h fun q => by split <;> rfl

theorem still_doneEvent {s0 : State} {how : ℕ} {p : PartId} {s : State} {n : VeId} (h : Still s0 s) :
    Still s0 (doneEvent how p s n) := by
  unfold doneEvent
  exact still_raiseN h

theorem still_freeTriggers {s0 : State} {s : State} {p : PartId} (h : Still s0 s) :
    Still s0 (freeTriggers s p) := by
  unfold freeTriggers
  split
  · exact still_modPart (Still.upd (t:=s) rfl rfl rfl h)
  · exact still_modPart h

theorem still_disarm {s0 : State} {s : State} {p : PartId} (h : Still s0 s) :
    Still s0 (disarm s p) := by
  unfold disarm
  exact still_modPart (still_foldl h (fun _ _ h3 => still_modEng h3))

theorem still_stopSeq {s0 : State} {s : State} {n : VeId} (h : Still s0 s) :
    Still s0 (stopSeq s n) := by
  unfold stopSeq
  extract_lets +onlyGivenNames s1
  have hs1 : Still s0 s1 := still_modSeq h
  clear_value s1
  exact still_modEng hs1

theorem still_failRun {s0 : State} {s : State} {p : PartId} {cause : ℕ} {detail : W64} (h : Still s0 s) :
    Still s0 (failRun s p cause detail) := by
  unfold failRun
  split
  · exact h
  · extract_lets +onlyGivenNames b s1 s2 s3 s4
    have hs1 : Still s0 s1 := still_disarm (still_foldl h (fun _ _ h5 => still_stopSeq h5))
    have hs2 : Still s0 s2 := still_modPart hs1 fun q => firm_updV _ _ _ _ _ fun _ => rfl
    have hs3 : Still s0 s3 := still_foldl (still_freeTriggers hs2) (fun _ _ h4 => still_doneEvent h4)
    have hs4 : Still s0 s4 := still_tablesEnd hs3
    clear_value b s1 s2 s3 s4
    exact still_settle (still_ledgerEnd hs4)

theorem still_failSegment {s0 : State} {s : State} {p : PartId} {cause : ℕ} {detail : W64} (h : Still s0 s) :
    Still s0 (failSegment s p cause detail) := by
  unfold failSegment
  split
  · exact h
  · split
    · split
      · exact still_failRun (still_sendFrame h)
      · extract_lets +onlyGivenNames s1
        have hs1 : Still s0 s1 := still_sendFrame h
        clear_value s1
        exact still_failRun (still_toTwinState hs1)
    · exact still_failRun h

theorem still_failSegmentFree {s0 : State} {s : State} {p : PartId} {cause : ℕ} (h : Still s0 s) :
    Still s0 (failSegmentFree s p cause) := by
  unfold failSegmentFree
  exact still_failSegment (still_drawWord h)

theorem still_commitDone {s0 : State} {s : State} {pd : Pending} {parts : List PartId} {cause : ℕ} {code : ℕ} {detail : W64} (h : Still s0 s) :
    Still s0 (commitDone s pd parts cause code detail) := by
  unfold commitDone
  exact still_foldl (.upd (t := s) rfl rfl rfl h) (fun _ _ h4 => still_ledgerEnd h4)

theorem still_commitFails {s0 : State} {s : State} {pd : Pending} {cause : ℕ} {code : ℕ} (h : Still s0 s) :
    Still s0 (commitFails s pd cause code) := by
  unfold commitFails
  exact still_commitDone h

theorem still_loseClaims {s0 : State} {s : State} {which : Claim → Bool} (h : Still s0 s) :
    Still s0 (loseClaims s which) := by
  unfold loseClaims
  extract_lets +onlyGivenNames gone
  clear_value gone
  exact Still.upd (t:=s) rfl rfl rfl h

theorem still_modRing {s0 : State} {s : State} {r : RingId} {f : Ring → Ring} (h : Still s0 s) :
    Still s0 (modRing s r f) := by
  unfold modRing
  split
  · exact Still.upd (t:=s) rfl rfl rfl h
  · exact Still.upd (t:=s) rfl rfl rfl h
  · exact Still.upd (t:=s) rfl rfl rfl h

theorem still_ringAppend {s0 : State} {s : State} {r : RingId} {e : EvRec} (h : Still s0 s) :
    Still s0 (ringAppend s r e) := by
  unfold ringAppend
  extract_lets +onlyGivenNames s1 s2
  have hs1 : Still s0 s1 := still_modRing h
  clear_value s1 s2
  extract_lets +onlyGivenNames s21
  have hs21 : Still s0 s21 := Still.upd (t:=s1) rfl rfl rfl hs1
  clear_value s21
  split
  · exact still_msix hs21
  · exact hs21

theorem still_deliverAs {s0 : State} {s : State} {a : Arrival} {r : RingId} {code : Byte} {ret : Bool} (h : Still s0 s) :
    Still s0 (deliverAs s a r code ret) := by
  unfold deliverAs
  extract_lets +onlyGivenNames c g
  clear_value c g
  split
  · exact still_modRing h
  · split
    · exact still_modRing h
    · exact still_ringAppend h

theorem still_ringPut {s0 : State} {s : State} {r : RingId} {e : EvRec} (h : Still s0 s) :
    Still s0 (ringPut s r e) := by
  unfold ringPut
  split
  · exact still_modRing h
  · exact still_ringAppend h

theorem still_moveRing {s0 : State} {s : State} {n : VeId} (h : Still s0 s) :
    Still s0 (moveRing s n) := by
  unfold moveRing
  extract_lets +onlyGivenNames g s1 s2
  have hs1 : Still s0 s1 := still_modRing h
  have hs2 : Still s0 s2 := still_foldl hs1 (fun _ _ h3 => still_ringPut h3)
  clear_value g s1 s2
  refine still_foldl hs2 ?_
  intro t3 x31 h3
  split
  · exact still_deliverAs h3
  · exact still_ringPut h3

theorem still_crossWay {s0 : State} {m : MasterKind} {way : List (ℕ × ℕ)} {s : State} (h : Still s0 s) :
    Still s0 (crossWay m way s) := by
  unfold crossWay
  split
  · exact h
  · exact Still.upd (t:=s) rfl rfl rfl h

theorem still_portTake_mgt {s0 : State} {s : State} {slot : ℕ} (h : Still s0 s) :
    Still s0 (portTake.mgt s slot) := by
  unfold portTake.mgt
  exact Still.upd (t:=s) rfl rfl rfl h

theorem still_portTake {s0 : State} {s : State} {a : MasterKind} (h : Still s0 s) :
    Still s0 (portTake s a) := by
  unfold portTake
  split
  · exact Still.upd (t:=s) rfl rfl rfl h
  · exact still_portTake_mgt h
  · exact still_portTake_mgt h
  · exact still_portTake_mgt h
  · exact still_portTake_mgt h
  · exact h

theorem still_bridgesTake {s0 : State} {slot : ℕ} {l : List (ℕ × ℕ)} {s : State} (h : Still s0 s) :
    Still s0 (bridgesTake slot l s) := by
  induction l generalizing slot s with
  | nil =>
    rw [bridgesTake]
    exact h
  | cons x xs ih =>
    rw [bridgesTake]
    exact ih (Still.upd (t:=s) rfl rfl rfl h)

theorem still_targetTake {s0 : State} {s : State} {m : MasterKind} {viaTap : Bool} {a : MemUnit} (h : Still s0 s) :
    Still s0 (targetTake s m viaTap a) := by
  unfold targetTake
  split
  · exact Still.upd (t:=s) rfl rfl rfl h
  · split
    · exact Still.upd (t:=s) rfl rfl rfl h
    · exact h

theorem still_pathTake {s0 : State} {s : State} {m : MasterKind} {u : MemUnit} {viaTap : Bool} (h : Still s0 s) :
    Still s0 (pathTake s m u viaTap) := by
  unfold pathTake
  extract_lets +onlyGivenNames w
  clear_value w
  exact still_targetTake (still_crossWay (still_bridgesTake (still_portTake h)))

theorem still_via {s0 s : State} {m : MasterKind} {a : Nat} {f : State → Acc} (h : Still s0 s) (hf : ∀ t, Still s0 t → StillBy Acc.s s0 (f t)) :
    StillBy Acc.s s0 (via s m a f) := by
  unfold via
  split
  · exact h
  · split
    · exact h
    · split
      · exact h
      · exact hf _ (still_pathTake h)

theorem still_noteWait {s0 : State} {s : State} {m : MasterKind} {a : ℕ} (h : Still s0 s) :
    Still s0 (noteWait s m a) := by
  unfold noteWait
  split
  · split
    · exact still_modBank h
    · exact h
  · exact h

theorem still_readPart {s0 : State} {s : State} {p : PartId} {m : MasterKind} {code : ℕ} {space : Bool} {x : ℕ} (h : Still s0 s) :
    StillBy Acc.s s0 (readPart s p m code space x) := by
  unfold readPart
  split
  · exact still_via h (fun _ h3 => still_readWord h3)
  · exact StillBy.acc h

theorem still_writePart {s0 : State} {s : State} {p : PartId} {m : MasterKind} {code : ℕ} {space : Bool} {x : ℕ} {v : W128} {mask : List Bool} (h : Still s0 s) :
    StillBy Acc.s s0 (writePart s p m code space x v mask) := by
  unfold writePart
  split
  · exact still_via h (fun _ h3 => still_writeMasked h3)
  · exact StillBy.acc h

theorem still_noteWaitAt {s0 : State} {s : State} {p : PartId} {m : MasterKind} {space : Bool} {x : ℕ} (h : Still s0 s) :
    Still s0 (noteWaitAt s p m space x) := by
  unfold noteWaitAt
  split
  · exact still_noteWait h
  · exact h

theorem still_dropLines {s0 : State} {s : State} {b : BankId} (h : Still s0 s) :
    Still s0 (dropLines s b) := by
  unfold dropLines
  extract_lets +onlyGivenNames o
  split
  · extract_lets +onlyGivenNames n
    clear_value n
    split
    · exact still_modSeq h
    · exact h
  · exact h

theorem still_drainWriter {s0 : State} {s : State} {a : DrainFor} (h : Still s0 s) :
    Still s0 (drainWriter s a) := by
  unfold drainWriter
  split
  · exact still_dictFinish h
  · exact h
  · exact h

theorem still_startDrain {s0 : State} {s : State} {b : BankId} {new : Byte} {why : DrainFor} (h : Still s0 s) :
    Still s0 (startDrain s b new why) := by
  unfold startDrain
  extract_lets +onlyGivenNames k
  clear_value k
  split
  · exact h
  · split
    · exact still_modBank (still_drainWriter h)
    · split
      · exact still_drainWriter h
      · exact still_modBank (still_dropLines h)

theorem still_banksToHost {s0 : State} {s : State} {p : PartId} (h : Still s0 s) :
    Still s0 (banksToHost s p) := by
  unfold banksToHost
  exact still_foldl h (fun _ _ h2 => still_startDrain h2)

theorem still_veBanksToHost {s0 : State} {s : State} {p : PartId} {n : VeId} (h : Still s0 s) :
    Still s0 (veBanksToHost s p n) := by
  unfold veBanksToHost
  refine still_foldl h ?_
  intro t2 x21 h2
  split
  · exact still_startDrain h2
  · exact h2

theorem still_pickWord {s0 : State} {s : State} {l : List W128} (h : Still s0 s) :
    StillBy Prod.snd s0 (pickWord s l) := by
  unfold pickWord
  split
  · exact StillBy.snd h
  · extract_lets +onlyGivenNames d
    have hd : StillBy Prod.snd s0 d := still_drawNat h
    clear_value d
    exact StillBy.snd hd

theorem still_slotGet {s0 : State} {direct : Bool} {s : State} {p : PartId} {n : VeId} {code : ℕ} {space : Bool} {off : ℕ} (h : Still s0 s) :
    StillBy Acc.s s0 (slotGet direct s p n code space off) := by
  unfold slotGet
  split
  · split
    · exact still_readWord h
    · exact StillBy.acc h
  · exact still_readPart h

theorem still_slotPut {s0 : State} {direct : Bool} {s : State} {p : PartId} {n : VeId} {code : ℕ} {space : Bool} {off : ℕ} {v : W128} (h : Still s0 s) :
    StillBy Acc.s s0 (slotPut direct s p n code space off v) := by
  unfold slotPut
  split
  · split
    · exact still_writeWord h
    · exact StillBy.acc h
  · exact still_writePart h

theorem still_slotReads {s0 : State} {direct : Bool} {p : PartId} {r0 : Run} {n : VeId} {ss : List Slot} {i : ℕ} {x : Slot} {n1 : ℕ} {n2 : ℕ} {a : SlotRun} (h : StillBy SlotRun.s s0 a) :
    StillBy SlotRun.s s0 (slotReads direct p r0 n ss i x n1 n2 a) := by
  induction n1 generalizing n2 a with
  | zero =>
    rw [slotReads]
    exact h
  | succ n1 ih =>
    rw [slotReads]
    split
    · exact h
    · extract_lets +onlyGivenNames r
      have hr : StillBy Acc.s s0 r := still_slotGet h
      clear_value r
      split
      · exact StillBy.slotRun h
      · split
        · exact StillBy.slotRun hr
        · extract_lets +onlyGivenNames key w
          have hw : StillBy Prod.snd s0 w := still_pickWord hr
          clear_value key w
          exact StillBy.intro (ih (StillBy.slotRun hw))

theorem still_slotWrites {s0 : State} {direct : Bool} {p : PartId} {n : VeId} {m : VeId} {ss : List Slot} {i : ℕ} {x : Slot} {l : List W128} {n1 : ℕ} {a : SlotRun} (h : StillBy SlotRun.s s0 a) :
    StillBy SlotRun.s s0 (slotWrites direct p n m ss i x l n1 a) := by
  induction l generalizing n1 a with
  | nil =>
    rw [slotWrites]
    exact h
  | cons x xs ih =>
    rw [slotWrites]
    split
    · exact h
    · extract_lets +onlyGivenNames key old d r
      have hd : StillBy Prod.snd s0 d := still_pickWord h
      have hr : StillBy Acc.s s0 r := still_slotPut hd
      clear_value key old d r
      split
      · exact StillBy.slotRun h
      · split
        · exact StillBy.slotRun hr
        · exact StillBy.intro (ih (StillBy.slotRun hr))

theorem still_slotOr {s0 : State} {direct : Bool} {s : State} {n : VeId} {d : ℕ} {v : W128} (h : Still s0 s) :
    StillBy Acc.s s0 (slotOr direct s n d v) := by
  unfold slotOr
  split
  · split
    · exact still_atomicWord h
    · exact StillBy.acc h
  · exact still_via h (fun _ h3 => still_atomicWord h3)

theorem still_slotMarks {s0 : State} {direct : Bool} {p : PartId} {n : VeId} {im : Image} {off : ℕ} {words : ℕ} {t : SlotRun} (h : StillBy SlotRun.s s0 t) :
    StillBy SlotRun.s s0 (slotMarks direct p n im off words t) := by
  unfold slotMarks
  split
  · exact h
  · extract_lets +onlyGivenNames es els
    clear_value es els
    refine StillBy.intro ?_
    refine still_foldl_of (π:=SlotRun.s) h ?_
    intro y5 x51 h5
    split
    · exact StillBy.intro h5
    · extract_lets +onlyGivenNames a v
      clear_value a v
      split
      · exact StillBy.slotRun h5
      · extract_lets +onlyGivenNames r
        have hr : StillBy Acc.s s0 r := still_slotOr h5
        clear_value r
        split
        · exact StillBy.slotRun h5
        · split
          · exact StillBy.slotRun hr
          · exact StillBy.slotRun hr

theorem still_slotFrags {s0 : State} {direct : Bool} {p : PartId} {n : VeId} {m : VeId} {ss : List Slot} {i : ℕ} {x : Slot} {im : Image} {base : ℕ} {n1 : ℕ} {l : List W128} {n2 : ℕ} {a : SlotRun} (h : StillBy SlotRun.s s0 a) :
    StillBy SlotRun.s s0 (slotFrags direct p n m ss i x im base n1 l n2 a) := by
  induction n1 generalizing l n2 a with
  | zero =>
    rw [slotFrags]
    exact h
  | succ n1 ih =>
    rw [slotFrags]
    split
    · exact h
    · extract_lets +onlyGivenNames off k t1 t2
      have ht1 : StillBy SlotRun.s s0 t1 := still_slotWrites h
      have ht2 : StillBy SlotRun.s s0 t2 := by
        unfold t2
        split
        · exact still_slotMarks ht1
        · exact ht1
      clear_value off k t1 t2
      exact StillBy.intro (ih ht2)

theorem still_slotMove {s0 : State} {direct : Bool} {s : State} {p : PartId} {r : Run} {i : ℕ} {x : Slot} {n : VeId} {m : VeId} {im : Image} {words : ℕ} (h : Still s0 s) :
    StillBy SlotRun.s s0 (slotMove direct s p r i x n m im words) := by
  unfold slotMove
  extract_lets +onlyGivenNames ss t1
  have ht1 : StillBy SlotRun.s s0 t1 := still_slotReads (StillBy.slotRun h)
  clear_value ss t1
  exact still_slotFrags ht1

theorem still_exchangeStops {s0 : State} {s : State} {p : PartId} {but : Option ℕ} {cut : ExchCut} (h : Still s0 s) :
    Still s0 (exchangeStops s p but cut) := by
  unfold exchangeStops
  extract_lets +onlyGivenNames s1
  have hs1 : Still s0 s1 := by
    unfold s1
    refine still_foldl h ?_
    intro t3 x31 h3
    split
    · split
      · split
        · exact h3
        · extract_lets +onlyGivenNames u
          have hu : StillBy SlotRun.s s0 u := still_slotMove h3
          clear_value u
          exact still_modPart hu
      · exact h3
    · exact h3
  clear_value s1
  exact still_foldl hs1 (fun _ _ h3 => still_sinkResponses h3)

theorem still_exchangeFails {s0 : State} {s : State} {p : PartId} {i : ℕ} {n : VeId} {st : ℕ} {atDst : Bool} {space : Bool} {a : ℕ} {cut : ExchCut} (h : Still s0 s) :
    Still s0 (exchangeFails s p i n st atDst space a cut) := by
  unfold exchangeFails
  extract_lets +onlyGivenNames s1
  have hs1 : Still s0 s1 := still_raiseN (still_exchangeStops h)
  clear_value s1
  exact still_failSegment hs1

theorem still_freeCut {s0 : State} {s : State} {p : PartId} (h : Still s0 s) :
    StillBy Prod.snd s0 (freeCut s p) := by
  unfold freeCut
  split
  · exact StillBy.snd h
  · extract_lets +onlyGivenNames a b
    have ha : StillBy Prod.snd s0 a := by
      unfold a
      refine StillBy.intro ?_
      refine still_foldl_snd h ?_
      intro y5 x51 h5
      extract_lets +onlyGivenNames d
      have hd : StillBy Prod.snd s0 d := still_drawNat h5
      clear_value d
      exact StillBy.snd hd
    have hb : StillBy Prod.snd s0 b := by
      unfold b
      refine StillBy.intro ?_
      refine still_foldl_snd ha ?_
      intro y5 x51 h5
      extract_lets +onlyGivenNames d
      have hd : StillBy Prod.snd s0 d := still_drawNat h5
      clear_value d
      exact StillBy.snd hd
    clear_value a b
    exact StillBy.snd hb

theorem still_imgPut {s0 : State} {s : State} {p : PartId} {space : Bool} {off : ℕ} {w : W128} (h : Still s0 s) :
    StillBy ImgRes.s s0 (imgPut s p space off w) := by
  unfold imgPut
  extract_lets +onlyGivenNames r
  have hr : StillBy Acc.s s0 r := still_writePart h
  clear_value r
  split
  · exact StillBy.imgRes hr
  · split
    · exact StillBy.imgRes (still_noteWaitAt h)
    · exact StillBy.imgRes hr

theorem still_imgPuts {s0 : State} {p : PartId} {space : Bool} {f : ℕ → W128} {l : List ℕ} {a : ImgRes} (h : StillBy ImgRes.s s0 a) :
    StillBy ImgRes.s s0 (imgPuts p space f l a) := by
  induction l generalizing a with
  | nil =>
    rw [imgPuts]
    exact h
  | cons x xs ih =>
    rw [imgPuts]
    split
    · exact h
    · exact StillBy.intro (ih (still_imgPut h))

theorem still_imgAbandon {s0 : State} {s : State} {p : PartId} {cause : ℕ} (h : Still s0 s) :
    StillBy ImgRes.s s0 (imgAbandon s p cause) := by
  unfold imgAbandon
  exact StillBy.imgRes (still_modPart h)

theorem still_loadFills {s0 : State} {s : State} {p : PartId} {im : Image} {ws : List W128} (h : Still s0 s) :
    StillBy ImgRes.s s0 (loadFills s p im ws) := by
  unfold loadFills
  extract_lets +onlyGivenNames z bufs base
  have hz : StillBy ImgRes.s s0 z := by
    unfold z
    refine StillBy.intro ?_
    refine still_foldl_of (π:=ImgRes.s) h ?_
    intro y4 x41 h4
    split
    · exact still_imgPuts (StillBy.intro h4)
    · split
      · exact still_imgPuts (StillBy.intro h4)
      · exact StillBy.intro h4
  clear_value z bufs base
  refine StillBy.intro ?_
  refine still_foldl_of (π:=ImgRes.s) hz ?_
  intro y4 x41 h4
  split
  · split
    · extract_lets +onlyGivenNames c
      clear_value c
      refine StillBy.intro ?_
      refine still_foldl_of (π:=ImgRes.s) h4 ?_
      intro y10 x101 h10
      extract_lets +onlyGivenNames b
      clear_value b
      exact still_imgPuts (StillBy.intro h10)
    · exact StillBy.intro h4
  · exact StillBy.intro h4

theorem still_loadEnd {s0 : State} {s : State} {p : PartId} (h : Still s0 s) :
    StillBy ImgRes.s s0 (loadEnd s p) := by
  unfold loadEnd
  extract_lets +onlyGivenNames ws im bound
  clear_value ws im bound
  split
  · exact still_imgAbandon h
  · extract_lets +onlyGivenNames r
    have hr : StillBy ImgRes.s s0 r := by
      unfold r
      split
      · exact StillBy.imgRes h
      · exact still_loadFills h
    clear_value r
    split
    · exact StillBy.imgRes hr
    · extract_lets +onlyGivenNames t
      clear_value t
      refine StillBy.imgRes (still_settle (still_modPart hr fun q => ?_))
      refine (firm_updV q.fenced _ _ 4 _ ?_).trans (firm_updV q.fenced _ _ 3 _ ?_) <;> exact fun _ => rfl

theorem still_fillGo {s0 : State} {s : State} {p : PartId} (h : Still s0 s) :
    Still s0 (fillGo s p) := by
  unfold fillGo
  extract_lets +onlyGivenNames q
  clear_value q
  split
  · split
    · exact h
    · extract_lets +onlyGivenNames r
      have hr : StillBy ImgRes.s s0 r := still_loadFills h
      clear_value r
      split
      · exact hr
      · exact still_modPart hr
  · exact h

theorem still_forward {s0 : State} {s : State} {kind : ℕ} {p : PartId} {k : ℕ} {x : ℕ} {body : List W128} (h : Still s0 s) :
    Still s0 (forward s kind p k x body) := by
  unfold forward
  split
  · exact still_sendFrame h
  · exact still_foldl h (fun _ _ h3 => still_sendFrame h3)

theorem still_blockFails {s0 : State} {s : State} {p : PartId} {k : Fin 8} {b : InBlock} {cause : ℕ} {detail : Option W64} (h : Still s0 s) :
    Still s0 (blockFails s p k b cause detail) := by
  unfold blockFails
  exact still_ledgerItem (still_modStream h)

theorem still_dropLoad {s0 : State} {s : State} {p : PartId} {mark : ℕ} {left : ℕ} (h : Still s0 s) :
    Still s0 (dropLoad s p mark left) := by
  unfold dropLoad
  exact still_modPart h

theorem still_failBlock {s0 : State} {s : State} {p : PartId} {k : Fin 8} {b : InBlock} {cause : ℕ} {detail : Option W64} (h : Still s0 s) :
    Still s0 (failBlock s p k b cause detail) := by
  unfold failBlock
  extract_lets +onlyGivenNames s1
  have hs1 : Still s0 s1 := still_modStream h
  clear_value s1
  split
  · exact hs1
  · refine still_blockFails ?_
    split
    · exact still_dropLoad hs1
    · exact hs1

theorem still_failSkip {s0 : State} {s : State} {p : PartId} {k : Fin 8} {b : InBlock} {cause : ℕ} {detail : Option W64} (h : Still s0 s) :
    Still s0 (failSkip s p k b cause detail) := by
  unfold failSkip
  extract_lets +onlyGivenNames s1
  have hs1 : Still s0 s1 := still_failBlock h
  clear_value s1
  split
  · exact still_modStream hs1
  · exact hs1

theorem still_takeJobs {s0 : State} {p : PartId} {n : ℕ} {s : State} (h : Still s0 s) :
    Still s0 (takeJobs p n s) := by
  induction n generalizing s with
  | zero =>
    rw [takeJobs]
    exact h
  | succ n ih =>
    rw [takeJobs]
    split
    · split
      · exact h
      · exact ih (still_settle (still_modPart (still_modStream h)))
    · exact h

theorem still_joinJobs {s0 : State} {s : State} {p : PartId} (h : Still s0 s) :
    Still s0 (joinJobs s p) := by
  unfold joinJobs
  exact still_takeJobs h

theorem still_completeBlock {s0 : State} {s : State} {p : PartId} {k : Fin 8} {b : InBlock} (h : Still s0 s) :
    Still s0 (completeBlock s p k b) := by
  unfold completeBlock
  extract_lets +onlyGivenNames s1 s2
  have hs1 : Still s0 s1 := still_modStream h
  have hs2 : Still s0 s2 := still_ledgerEnd hs1
  clear_value s1 s2
  split
  · exact still_joinJobs hs2
  · exact hs2

theorem still_loadBlock {s0 : State} {s : State} {p : PartId} (h : Still s0 s) :
    StillBy Prod.snd s0 (loadBlock s p) := by
  unfold loadBlock
  extract_lets +onlyGivenNames q
  clear_value q
  split
  · exact StillBy.snd h
  · split
    · exact StillBy.snd h
    · split
      · exact StillBy.snd h
      · exact StillBy.snd (still_banksToHost (still_modPart h))

theorem still_headerWord {s0 : State} {s : State} {p : PartId} {k : Fin 8} {w : W128} (h : Still s0 s) :
    Still s0 (headerWord s p k w) := by
  unfold headerWord
  extract_lets +onlyGivenNames len b toDiscard skipped
  clear_value len b
  split
  · unfold toDiscard
    exact still_modStream (still_blockFails h)
  · split
    · unfold toDiscard
      exact still_modStream (still_blockFails h)
    · split
      · unfold skipped
        exact still_modStream (still_blockFails h)
      · extract_lets +onlyGivenNames r
        have hr : StillBy Prod.snd s0 r := by
          unfold r
          split
          · exact still_loadBlock h
          · exact StillBy.snd h
        clear_value r
        split
        · unfold skipped
          exact still_modStream (still_blockFails hr)
        · extract_lets +onlyGivenNames s1
          have hs1 : Still s0 s1 := still_modStream hr
          clear_value s1
          split
          · exact still_forward hs1
          · exact hs1

theorem still_endRecvd {s0 : State} {s : State} {p : PartId} {k : Fin 8} (h : Still s0 s) :
    Still s0 (endRecvd s p k) := by
  unfold endRecvd
  split
  · exact h
  · split
    · exact h
    · extract_lets +onlyGivenNames s1 x
      have hs1 : Still s0 s1 := still_modStream h
      have hx : StillBy ImgRes.s s0 x := by
        unfold x
        split
        · exact still_loadEnd hs1
        · exact StillBy.imgRes hs1
      clear_value s1 x
      split
      · exact still_blockFails (still_dropLoad (still_modStream hx))
      · exact still_completeBlock hx

theorem still_endBlock {s0 : State} {s : State} {p : PartId} {k : Fin 8} {b : InBlock} (h : Still s0 s) :
    Still s0 (endBlock s p k b) := by
  unfold endBlock
  split
  · exact still_failBlock h
  · extract_lets +onlyGivenNames s1 b1
    have hs1 : Still s0 s1 := by
      unfold s1
      split
      · exact still_forward h
      · exact h
    clear_value s1 b1
    exact still_endRecvd (still_modStream hs1)

theorem still_wordTaken {s0 : State} {s : State} {p : PartId} (h : Still s0 s) :
    Still s0 (wordTaken s p) := by
  unfold wordTaken
  exact still_modPart h

theorem still_writeFails {s0 : State} {s : State} {p : PartId} {c : ℕ} {d : Option W64} (h : Still s0 s) :
    Still s0 (writeFails s p c d) := by
  unfold writeFails
  extract_lets +onlyGivenNames st mine
  clear_value st
  split
  · split
    · exact still_failSkip h
    · exact still_wordTaken h
  · split
    · exact still_blockFails (still_dropLoad (still_modStream h))
    · exact still_wordTaken h
  · exact still_wordTaken h

theorem still_drainLoad {s0 : State} {p : PartId} {n : ℕ} {s : State} (h : Still s0 s) :
    Still s0 (drainLoad p n s) := by
  induction n generalizing s with
  | zero =>
    rw [drainLoad]
    exact h
  | succ n ih =>
    rw [drainLoad]
    split
    · exact h
    · split
      · exact h
      · split
        · exact ih (still_wordTaken h)
        · extract_lets +onlyGivenNames r
          have hr : StillBy ImgRes.s s0 r := still_imgPut h
          clear_value r
          split
          · exact ih (still_wordTaken hr)
          · exact hr
          · exact ih (still_writeFails hr)

theorem still_loadGo {s0 : State} {s : State} {p : PartId} (h : Still s0 s) :
    Still s0 (loadGo s p) := by
  unfold loadGo
  exact still_fillGo (still_drainLoad h)

theorem still_imageInWord {s0 : State} {s : State} {p : PartId} {b : InBlock} {w : W128} (h : Still s0 s) :
    Still s0 (imageInWord s p b w) := by
  unfold imageInWord
  extract_lets +onlyGivenNames b1 put
  clear_value b1
  split
  · split
    · refine still_endBlock ?_
      unfold put
      exact still_modStream h
    · unfold put
      exact still_modStream h
  · split
    · exact still_failSkip (still_imgAbandon h)
    · extract_lets +onlyGivenNames b2 s1
      have hs1 : Still s0 s1 := by
        unfold s1
        refine still_loadGo ?_
        unfold put
        exact still_modStream (still_modPart h)
      clear_value b2 s1
      split
      · split
        · exact still_endBlock hs1
        · exact hs1
      · exact hs1

theorem still_feedWord {s0 : State} {s : State} {p : PartId} {k : Fin 8} {w : W128} (h : Still s0 s) :
    Still s0 (feedWord s p k w) := by
  unfold feedWord
  split
  · exact still_headerWord h
  · extract_lets +onlyGivenNames b1
    clear_value b1
    split
    · exact still_modStream h
    · split
      · exact still_imageInWord h
      · extract_lets +onlyGivenNames s1
        have hs1 : Still s0 s1 := still_modStream h
        clear_value s1
        split
        · exact still_endBlock hs1
        · exact hs1

theorem still_readRaw {s0 : State} {p : PartId} {k : Fin 8} {n : ℕ} {s : State} (h : Still s0 s) :
    Still s0 (readRaw p k n s) := by
  induction n generalizing s with
  | zero =>
    rw [readRaw]
    exact h
  | succ n ih =>
    rw [readRaw]
    split
    · exact h
    · split
      · exact h
      · exact ih (still_feedWord (still_modStream h))

theorem still_endBlocks {s0 : State} {s : State} {p : PartId} {k : Fin 8} (h : Still s0 s) :
    Still s0 (endBlocks s p k) := by
  unfold endBlocks
  extract_lets +onlyGivenNames t
  have ht : Still s0 t := still_endRecvd h
  clear_value t
  exact still_readRaw ht

theorem still_pushWord {s0 : State} {s : State} {p : PartId} {k : Fin 8} {w : W128} (h : Still s0 s) :
    StillIf id s0 (pushWord s p k w) := by
  unfold pushWord
  extract_lets +onlyGivenNames st room
  clear_value st room
  split
  · exact StillIf.some (still_modStream h)
  · split
    · split
      · exact StillIf.some (still_modStream h)
      · exact StillIf.none
    · split
      · exact StillIf.some (still_feedWord h)
      · exact StillIf.none

theorem still_pushWords {s0 : State} {p : PartId} {k : Fin 8} {l : List W128} {s : State} (h : Still s0 s) :
    StillBy Prod.snd s0 (pushWords p k l s) := by
  induction l generalizing s with
  | nil =>
    rw [pushWords]
    exact StillBy.snd h
  | cons x xs ih =>
    rw [pushWords]
    split
    · refine StillBy.intro ?_
      refine ih ?_
      rename_i hk
      exact still_pushWord h _ hk
    · exact StillBy.snd h

theorem still_drainRx {s0 : State} {h1 : PortId} {n : ℕ} {s : State} (h : Still s0 s) :
    Still s0 (drainRx h1 n s) := by
  induction n generalizing s with
  | zero =>
    rw [drainRx]
    exact h
  | succ n ih =>
    rw [drainRx]
    split
    · exact h
    · extract_lets +onlyGivenNames y
      have hy : StillBy Prod.snd s0 y := still_pushWords h
      clear_value y
      split
      · exact ih (still_modPort hy)
      · exact still_modPort hy

theorem still_kick {s0 : State} {s : State} {p : PartId} (h : Still s0 s) :
    Still s0 (kick s p) := by
  unfold kick
  extract_lets +onlyGivenNames s1 h1
  have hs1 : Still s0 s1 := still_joinJobs (still_foldl (still_loadGo h) (fun _ _ h4 => still_endBlocks h4))
  exact still_msix (still_drainRx hs1)

theorem still_failPush {s0 : State} {s : State} {p : PartId} {k : Fin 8} {cause : ℕ} {detail : Option W64} (h : Still s0 s) :
    Still s0 (failPush s p k cause detail) := by
  unfold failPush
  extract_lets +onlyGivenNames st
  clear_value st
  split
  · exact still_failBlock h
  · exact still_blockFails (still_modStream h)
  · exact h

theorem still_failPushes {s0 : State} {s : State} {p : PartId} {cause : ℕ} {detail : Option W64} (h : Still s0 s) :
    Still s0 (failPushes s p cause detail) := by
  unfold failPushes
  exact still_foldl h (fun _ _ h2 => still_failPush h2)

theorem still_failItems {s0 : State} {s : State} {p : PartId} {cause : ℕ} {detail : Option W64} (h : Still s0 s) :
    Still s0 (failItems s p cause detail) := by
  unfold failItems
  refine still_foldl (still_failPushes h) ?_
  intro t2 x21 h2
  extract_lets +onlyGivenNames bs t1 t21
  have ht1 : Still s0 t1 := still_modStream h2
  have ht21 : Still s0 t21 := by
    unfold t21
    split
    · exact still_dropLoad ht1
    · exact ht1
  clear_value bs t1 t21
  exact still_foldl ht21 (fun _ _ h5 => still_blockFails h5)

theorem still_rewindOut {s0 : State} {s : State} {p : PartId} (h : Still s0 s) :
    Still s0 (rewindOut s p) := by
  unfold rewindOut
  refine still_modPart h fun q => ?_
  simp only [firmPart, Vector.map_map]
  rfl

theorem still_stopTrace {s0 : State} {s : State} {p : PartId} {d : DieId} (h : Still s0 s) :
    Still s0 (stopTrace s p d) := by
  unfold stopTrace
  exact still_raiseN (still_modPart h)

theorem still_clearRegion {s0 : State} {p : PartId} {d : MasterKind} {im : Image} {off : ℕ} {c : CommitRun} (h : StillBy CommitRun.s s0 c) :
    StillBy CommitRun.s s0 (clearRegion p d im off c) := by
  unfold clearRegion
  refine StillBy.intro ?_
  refine still_foldl_of (π:=CommitRun.s) h ?_
  intro y3 x31 h3
  split
  · exact StillBy.intro h3
  · extract_lets +onlyGivenNames r
    have hr : StillBy Acc.s s0 r := still_writePart h3
    clear_value r
    exact StillBy.commitRun hr

theorem still_agreeTo {s0 : State} {s : State} {p : PartId} {k : ℕ} (h : Still s0 s) :
    Still s0 (agreeTo s p k) := by
  unfold agreeTo
  exact still_modPart h

theorem still_restoreEnd {s0 : State} {s : State} {p : PartId} {r : Restore} {cause : ℕ} {detail : Option W64} (h : Still s0 s) :
    Still s0 (restoreEnd s p r cause detail) := by
  unfold restoreEnd
  extract_lets +onlyGivenNames lost
  clear_value lost
  exact still_settle (still_ledgerItem (still_modPart (still_modStream h)))

theorem still_restoreDone {s0 : State} {s : State} {p : PartId} {im : Image} {c : ℕ} (h : Still s0 s) :
    StillBy CommitRun.s s0 (restoreDone s p im c) := by
  unfold restoreDone
  extract_lets +onlyGivenNames d c1 c2
  have hc1 : StillBy CommitRun.s s0 c1 := by
    unfold c1
    split
    · exact still_clearRegion (StillBy.commitRun h)
    · exact StillBy.commitRun h
  have hc2 : StillBy CommitRun.s s0 c2 := by
    unfold c2
    split
    · exact still_clearRegion hc1
    · exact hc1
  clear_value d c1 c2
  exact StillBy.commitRun (still_modPart (still_modStream (still_modStream hc2)))

theorem still_restoreWord {s0 : State} {s : State} {p : PartId} {r : Restore} {im : Image} {w : W128} (h : Still s0 s) :
    StillIf id s0 (restoreWord s p r im w) := by
  unfold restoreWord
  extract_lets +onlyGivenNames i q keep rs
  clear_value i q rs
  split
  · split
    · exact StillIf.some (still_restoreEnd h)
    · split
      · exact StillIf.some (still_restoreEnd h)
      · refine StillIf.some ?_
        unfold keep
        exact still_modPart h
  · split
    · refine StillIf.some ?_
      split
      · exact still_restoreEnd h
      · unfold keep
        exact still_modPart h
    · split
      · refine StillIf.some ?_
        split
        · exact still_restoreEnd h
        · unfold keep
          exact still_modPart h
      · split
        · extract_lets +onlyGivenNames inBuf bufs offs o
          have ho : StillBy Prod.snd s0 o := by
            unfold o
            refine StillBy.intro ?_
            refine still_foldl_snd h ?_
            intro y9 x91 h9
            split
            · exact StillBy.intro h9
            · extract_lets +onlyGivenNames a
              have ha : StillBy Acc.s s0 a := still_writePart h9
              clear_value a
              exact StillBy.snd ha
          clear_value inBuf bufs offs o
          split
          · exact StillIf.none
          · exact StillIf.some (still_restoreEnd (still_modPart ho))
          · refine StillIf.some ?_
            unfold keep
            exact still_modPart ho
        · extract_lets +onlyGivenNames c v
          clear_value c v
          split
          · exact StillIf.some (still_restoreEnd (still_modPart h))
          · extract_lets +onlyGivenNames d
            have hd : StillBy CommitRun.s s0 d := still_restoreDone h
            clear_value d
            split
            · exact StillIf.none
            · exact StillIf.some (still_restoreEnd h)
            · exact StillIf.some (still_restoreEnd hd)

theorem still_restoreTake {s0 : State} {p : PartId} {n : ℕ} {s : State} (h : Still s0 s) :
    Still s0 (restoreTake p n s) := by
  induction n generalizing s with
  | zero =>
    rw [restoreTake]
    exact h
  | succ n ih =>
    rw [restoreTake]
    split
    · split
      · exact h
      · split
        · refine ih ?_
          rename_i hk
          exact still_restoreWord (still_modStream h) _ hk
        · exact h
    · exact h

theorem still_restoreGo {s0 : State} {s : State} {p : PartId} (h : Still s0 s) :
    Still s0 (restoreGo s p) := by
  unfold restoreGo
  exact still_restoreTake h

theorem still_finishWaits {s0 : State} {s : State} {p : PartId} {ok : W32 → Bool} (h : Still s0 s) :
    Still s0 (finishWaits s p ok) := by
  unfold finishWaits
  refine still_foldl h ?_
  intro t2 x21 h2
  extract_lets +onlyGivenNames t1
  have ht1 : Still s0 t1 := still_modStream h2
  clear_value t1
  exact still_endBlocks ht1

theorem still_partGo {s0 : State} {s : State} {p : PartId} (h : Still s0 s) :
    Still s0 (partGo s p) := by
  unfold partGo
  exact still_restoreGo (still_kick h)

theorem still_soloPart {s0 : State} {s : State} {p : PartId} (h : Still s0 s) :
    Still s0 (soloPart s p) := by
  unfold soloPart
  extract_lets +onlyGivenNames s1
  have hs1 : Still s0 s1 := still_finishWaits (still_ledgerAcked h)
  clear_value s1
  exact still_partGo (still_agreeTo hs1)

theorem still_resyncEnd {s0 : State} {s : State} {cause : ℕ} (h : Still s0 s) :
    Still s0 (resyncEnd s cause) := by
  unfold resyncEnd
  split
  · exact h
  · extract_lets +onlyGivenNames s1 s2
    have hs2 : Still s0 s2 := Still.upd (t:=s) rfl rfl rfl h
    clear_value s1 s2
    extract_lets +onlyGivenNames s21
    have hs21 : Still s0 s21 := still_foldl hs2 (fun _ _ h5 => still_ledgerItem h5)
    clear_value s21
    exact still_raiseN hs21

theorem still_loseTwin {s0 : State} {s : State} {byDetach : Bool} (h : Still s0 s) :
    Still s0 (loseTwin s byDetach) := by
  unfold loseTwin
  split
  · extract_lets +onlyGivenNames s1
    clear_value s1
    extract_lets +onlyGivenNames s11
    have hs11 : Still s0 s11 := still_resyncEnd (still_toTwinState (Still.upd (t:=s) rfl rfl rfl h))
    clear_value s11
    exact still_raiseN (still_foldl hs11 (fun _ _ h6 => still_soloPart h6))
  · exact h

theorem still_promotePart {s0 : State} {s : State} {p : PartId} (h : Still s0 s) :
    Still s0 (promotePart s p) := by
  unfold promotePart
  extract_lets +onlyGivenNames m s1 s2 s3
  have hs1 : Still s0 s1 := still_modPart h
  have hs2 : Still s0 s2 := still_foldl hs1 (fun _ _ h3 => still_ledgerPut h3)
  have hs3 : Still s0 s3 := by
    unfold s3
    refine still_foldl hs2 ?_
    intro t3 x31 h3
    split
    · exact still_failBlock h3
    · exact h3
  clear_value m s1 s2 s3
  exact still_partGo (still_agreeTo hs3)

theorem still_promote {s0 : State} {s : State} (h : Still s0 s) :
    Still s0 (promote s) := by
  unfold promote
  extract_lets +onlyGivenNames s1
  clear_value s1
  extract_lets +onlyGivenNames s11
  have hs11 : Still s0 s11 := still_toTwinState (Still.upd (t:=s) rfl rfl rfl h)
  clear_value s11
  exact still_raiseN (still_foldl hs11 (fun _ _ h5 => still_promotePart h5))

theorem still_secondaryLoss {s0 : State} {s : State} (h : Still s0 s) :
    Still s0 (secondaryLoss s) := by
  unfold secondaryLoss
  split
  · exact still_toTwinState h
  · split
    · exact h
    · split
      · exact still_promote h
      · exact Still.upd (t:=s) rfl rfl rfl h

theorem still_twinIsLost {s0 : State} {s : State} (h : Still s0 s) :
    Still s0 (twinIsLost s) := by
  unfold twinIsLost
  split
  · exact still_loseTwin h
  · exact still_secondaryLoss h

theorem still_fenceEventFree {s0 : State} {s : State} {kind : ℕ} {number : ℕ} (h : Still s0 s) :
    Still s0 (fenceEventFree s kind number) := by
  unfold fenceEventFree
  exact still_fenceEvent (still_drawNat h)

theorem still_failCkpt {s0 : State} {s : State} {p : PartId} {cause : ℕ} {detail : Option W64} (h : Still s0 s) :
    Still s0 (failCkpt s p cause detail) := by
  unfold failCkpt
  extract_lets +onlyGivenNames s1
  have hs1 : Still s0 s1 := by
    unfold s1
    split
    · exact still_settle (still_ledgerItem (still_modPart h))
    · exact h
  clear_value s1
  split
  · exact still_restoreEnd hs1
  · exact hs1

theorem still_stopSlots {s0 : State} {s : State} {p : PartId} {but : List VeId} (h : Still s0 s) :
    Still s0 (stopSlots s p but) := by
  unfold stopSlots
  split
  · extract_lets +onlyGivenNames c
    have hc : StillBy Prod.snd s0 c := still_freeCut h
    clear_value c
    exact still_exchangeStops hc
  · exact h

theorem still_failJobs {s0 : State} {s : State} {p : PartId} {cause : ℕ} {detail : Option W64} (h : Still s0 s) :
    Still s0 (failJobs s p cause detail) := by
  unfold failJobs
  extract_lets +onlyGivenNames s01 s1 s2
  have hs01 : Still s0 s01 := still_stopSlots h
  have hs1 : Still s0 s1 := by
    unfold s1
    split
    · exact still_failSegment hs01
    · exact still_failSegmentFree hs01
  have hs2 : Still s0 s2 := still_failCkpt hs1
  clear_value s01 s1 s2
  exact still_settle (still_foldl (still_modPart hs2) (fun _ _ h4 => still_ledgerItem h4))

theorem still_endSegment {s0 : State} {s : State} {p : PartId} (h : Still s0 s) :
    Still s0 (endSegment s p) := by
  unfold endSegment
  split
  · extract_lets +onlyGivenNames c
    have hc : StillBy Prod.snd s0 c := still_freeCut h
    clear_value c
    exact still_exchangeFails hc
  · exact still_failSegmentFree (still_stopSlots h)

theorem still_endHostItems {s0 : State} {s : State} {p : PartId} (h : Still s0 s) :
    Still s0 (endHostItems s p) := by
  unfold endHostItems
  exact still_kick (still_failItems (still_failCkpt h))

theorem still_endReached {s0 : State} {s : State} (h : Still s0 s) :
    Still s0 (endReached s) := by
  unfold endReached
  extract_lets +onlyGivenNames m
  clear_value m
  split
  · exact h
  · refine still_foldl (Still.upd (t:=s) rfl rfl rfl h) ?_
    intro t4 x41 h4
    split
    · exact still_endHostItems (still_endSegment h4)
    · exact h4

theorem still_fenceReach {s0 : State} {s : State} (h : Still s0 s) :
    Still s0 (fenceReach s) := by
  unfold fenceReach
  refine still_endReached ?_
  split
  · exact still_toTwinState (still_sendFrame h)
  · exact h

theorem still_portStreams {s0 : State} {s : State} {h1 : PortId} {cause : ℕ} {detail : Option W64} {sunk : ℕ} (h : Still s0 s) :
    Still s0 (portStreams s h1 cause detail sunk) := by
  unfold portStreams
  extract_lets s1 s2 s3 d s4
  have hs1 : Still s0 s1 := still_modPort h
  have hs2 : Still s0 s2 := still_sinkResponses (still_withdraw hs1)
  have hs3 : Still s0 s3 := still_loseClaims hs2
  have hs4 : Still s0 s4 := hs3.trans ⟨rfl, fun hl => ⟨hl, rfl⟩, fun _ _ hc => hc, fun hw => by
    rw [show s4.dict.waiting = s3.dict.waiting.filter fun x => x.by' != h1.castLE (by decide) from rfl, hw]
    rfl⟩
  exact still_foldl hs4 (fun _ _ h4 => still_rewindOut (still_failPushes h4))

theorem still_failUnchecked {s0 : State} {s : State} {p : PartId} (h : Still s0 s) :
    Still s0 (failUnchecked s p) := by
  unfold failUnchecked
  refine still_foldl h ?_
  intro t2 x21 h2
  split
  · exact still_failSkip h2
  · exact h2

theorem still_noCrc {s0 : State} {s : State} (h : Still s0 s) :
    Still s0 (noCrc s) := by
  unfold noCrc
  split
  · exact still_twinIsLost (still_foldl h (fun _ _ h4 => still_failUnchecked (still_failJobs h4)))
  · exact h

theorem still_stopTraces {s0 : State} {s : State} {d : DieId} (h : Still s0 s) :
    Still s0 (stopTraces s d) := by
  unfold stopTraces
  split
  · exact h
  · refine still_foldl h ?_
    intro t3 x31 h3
    split
    · split
      · exact still_stopTrace h3
      · exact h3
    · split
      · exact still_stopTrace h3
      · exact h3

theorem still_markUnreachable {s0 : State} {s : State} (h : Still s0 s) :
    Still s0 (markUnreachable s) := by
  unfold markUnreachable
  refine still_foldl h ?_
  intro t2 x21 h2
  split
  · exact still_raiseN (Still.upd (t:=t2) rfl rfl rfl h2)
  · exact h2

theorem still_cutItems {s0 : State} {s : State} {t : State} {p : PartId} (h1 : Still s0 t) :
    Still s0 (cutItems s t p) := by
  unfold cutItems
  extract_lets +onlyGivenNames host t1
  have ht1 : Still s0 t1 := by
    unfold t1
    split
    · exact still_endSegment h1
    · exact h1
  clear_value host t1
  split
  · exact still_endHostItems ht1
  · exact ht1

theorem still_cutHeld {s0 : State} {s : State} (h : Still s0 s) :
    Still s0 (cutHeld s) := by
  unfold cutHeld
  refine still_foldl h ?_
  intro t2 x21 h2
  extract_lets +onlyGivenNames out u
  have hu : Still s0 u := still_foldl h2 (fun _ _ h5 => still_emit h5)
  clear_value u
  exact still_modBank hu

theorem still_resendKept {s0 : State} {s : State} {i : ℕ} (h : Still s0 s) :
    Still s0 (resendKept s i) := by
  unfold resendKept
  extract_lets +onlyGivenNames way from'
  clear_value way
  exact Still.upd (t:=s) rfl rfl rfl h

end Sys2Proof.Machine

/-! PROOF. Patrol, refresh and the stacks: O31. -/
namespace Sys2Proof.Machine

/-! ### Solid fields, one by one -/

theorem Reported.still {s t : State} (h : Reported s t) : Still s t := by
  obtain ⟨l, d, a, o, n, rfl⟩ := h
  exact .upd (t := s) rfl rfl rfl (.refl s)

section Solid

variable {s t : State} (h : solid t = solid s)
include h

theorem solid_boot : t.boot = s.boot := congrArg Prod.fst h
theorem solid_crc : t.crc = s.crc := congrArg (fun x => x.2.1) h
theorem solid_dieFenced : t.dieFenced = s.dieFenced := congrArg (fun x => x.2.2.1) h
theorem solid_links : t.fab.links = s.fab.links := congrArg (fun x => x.2.2.2.1) h
theorem solid_remap : t.fab.remap = s.fab.remap := congrArg (fun x => x.2.2.2.2.1) h
theorem solid_ls : { t.ls with dictRequest := false, fenceNotice := false } = { s.ls with dictRequest := false, fenceNotice := false } :=
  congrArg (fun x => x.2.2.2.2.2.1) h
theorem solid_sv : t.sv = s.sv := congrArg (fun x => x.2.2.2.2.2.2.1) h
theorem solid_clusters : t.clusters = s.clusters := congrArg (fun x => x.2.2.2.2.2.2.2.2.1) h

theorem solid_engine (n : VeId) : (t.eng[n].fenced, t.eng[n].pairMismatches) = (s.eng[n].fenced, s.eng[n].pairMismatches) := by
  have hm : t.eng.map (fun e => (e.fenced, e.pairMismatches)) = s.eng.map (fun e => (e.fenced, e.pairMismatches)) :=
    congrArg (fun x => x.2.2.2.2.2.2.2.2.2.1) h
  simpa using congrArg (fun v => v[n]) hm

theorem solid_eng (n : VeId) : t.eng[n].fenced = s.eng[n].fenced := congrArg Prod.fst (solid_engine h n)
theorem solid_pairMismatches (n : VeId) : t.eng[n].pairMismatches = s.eng[n].pairMismatches := congrArg Prod.snd (solid_engine h n)

theorem solid_port (p : PortId) : (t.ports[p].fenced, t.ports[p].link, t.ports[p].width, t.ports[p].speed, t.ports[p].cfg, t.ports[p].eqOut) =
    (s.ports[p].fenced, s.ports[p].link, s.ports[p].width, s.ports[p].speed, s.ports[p].cfg, s.ports[p].eqOut) := by
  have hm : t.ports.map (fun p => (p.fenced, p.link, p.width, p.speed, p.cfg, p.eqOut)) =
      s.ports.map (fun p => (p.fenced, p.link, p.width, p.speed, p.cfg, p.eqOut)) := congrArg (fun x => x.2.2.2.2.2.2.2.2.2.2.1) h
  simpa using congrArg (fun v => v[p]) hm

theorem solid_portFenced (p : PortId) : t.ports[p].fenced = s.ports[p].fenced := congrArg Prod.fst (solid_port h p)
theorem solid_portLink (p : PortId) : t.ports[p].link = s.ports[p].link := congrArg (fun x => x.2.1) (solid_port h p)
theorem solid_portWidth (p : PortId) : t.ports[p].width = s.ports[p].width := congrArg (fun x => x.2.2.1) (solid_port h p)
theorem solid_portSpeed (p : PortId) : t.ports[p].speed = s.ports[p].speed := congrArg (fun x => x.2.2.2.1) (solid_port h p)
theorem solid_portCfg (p : PortId) : t.ports[p].cfg = s.ports[p].cfg := congrArg (fun x => x.2.2.2.2.1) (solid_port h p)
theorem solid_portEqOut (p : PortId) : t.ports[p].eqOut = s.ports[p].eqOut := congrArg (fun x => x.2.2.2.2.2) (solid_port h p)

theorem solid_stk (i : StackId) :
    (t.stk[i].fenced, t.stk[i].quiet, t.stk[i].calSafe, t.stk[i].calRec, t.stk[i].temp, t.stk[i].hot, t.stk[i].ready) =
      (s.stk[i].fenced, s.stk[i].quiet, s.stk[i].calSafe, s.stk[i].calRec, s.stk[i].temp, s.stk[i].hot, s.stk[i].ready) := by
  have hm : t.stk.map (fun k => (k.fenced, k.quiet, k.calSafe, k.calRec, k.temp, k.hot, k.ready)) =
      s.stk.map (fun k => (k.fenced, k.quiet, k.calSafe, k.calRec, k.temp, k.hot, k.ready)) := congrArg (fun x => x.2.2.2.2.2.2.2.2.2.2.2.1) h
  simpa using congrArg (fun v => v[i]) hm

theorem solid_stkFenced (i : StackId) : t.stk[i].fenced = s.stk[i].fenced := congrArg Prod.fst (solid_stk h i)
theorem solid_stkQuiet (i : StackId) : t.stk[i].quiet = s.stk[i].quiet := congrArg (fun x => x.2.1) (solid_stk h i)
theorem solid_stkCalSafe (i : StackId) : t.stk[i].calSafe = s.stk[i].calSafe := congrArg (fun x => x.2.2.1) (solid_stk h i)
theorem solid_stkCalRec (i : StackId) : t.stk[i].calRec = s.stk[i].calRec := congrArg (fun x => x.2.2.2.1) (solid_stk h i)
theorem solid_stkTemp (i : StackId) : t.stk[i].temp = s.stk[i].temp := congrArg (fun x => x.2.2.2.2.1) (solid_stk h i)

theorem solid_firmPart (p : PartId) : firmPart t.parts[p] = firmPart s.parts[p] := by
  have hm : t.parts.map firmPart = s.parts.map firmPart := congrArg (fun x => x.2.2.2.2.2.2.2.2.2.2.2.2) h
  simpa using congrArg (fun v => v[p]) hm

theorem solid_part (p : PartId) : t.parts[p].fenced = s.parts[p].fenced := congrArg Prod.fst (solid_firmPart h p)

/-- The configuration stands but for what an exchange's swap uses. -/
theorem solid_cfg (p : PartId) : { t.parts[p].cfg with exchShadowSlots := 0, exchSwap := false } =
    { s.parts[p].cfg with exchShadowSlots := 0, exchSwap := false } := congrArg (fun x => x.2.1) (solid_firmPart h p)

theorem solid_stream (p : PartId) (k : Fin 8) : (t.parts[p].streams[k].depth, t.parts[p].streams[k].watermark) =
    (s.parts[p].streams[k].depth, s.parts[p].streams[k].watermark) := by
  simpa [firmPart] using congrArg (fun x => x.2.2[k]) (solid_firmPart h p)

end Solid

/-- What follows a fence leaves memory alone where it reached no partition's memory. -/
theorem fenceReach_mem {s : State} (h : s.fab.hit = 0) : (fenceReach s).mem = s.mem := by
  have hend : ∀ t : State, t.fab.hit = 0 → endReached t = t := fun t ht => by rw [endReached]; exact if_pos ht
  unfold fenceReach
  split
  · have ht : (toTwinState (sendFrame s 0x02 [inputWord 10 0 0 0]) 4).fab = s.fab ∧ (toTwinState (sendFrame s 0x02 [inputWord 10 0 0 0]) 4).mem = s.mem := by
      have hs : (sendFrame s 0x02 [inputWord 10 0 0 0]).fab = s.fab ∧ (sendFrame s 0x02 [inputWord 10 0 0 0]).mem = s.mem := by
        unfold sendFrame
        split
        · exact ⟨rfl, rfl⟩
        · exact ⟨rfl, rfl⟩
      generalize sendFrame s 0x02 [inputWord 10 0 0 0] = u at hs
      unfold toTwinState
      dsimp only
      split
      · exact ⟨(setAlert_reported _ _).fab.trans hs.1, (setAlert_reported _ _).mem.trans hs.2⟩
      · exact hs
    rw [hend _ (by rw [ht.1, h]), ht.2]
  · rw [hend s h]

/-! ### Patrol and refresh (R222, R224) -/

section Patrol

variable {s : State} (hd : dead s = false) (hz : frozen s = false) (hl : s.mem.latent = []) (hp : s.mem.poison = [])
include hd hz

theorem exec_patrol_stack {st : StackId} : exec (.patrolScrub (.inl st) []) s = .next (patrolStackOp s st []) := by
  simp only [exec_patrolScrub, execPatrolScrub, hd, hz, Bool.or_self, Bool.false_eq_true, if_false]

theorem exec_patrol_bank {b : BankId} : exec (.patrolScrub (.inr b) []) s = .next (patrolBankOp s b []) := by
  simp only [exec_patrolScrub, execPatrolScrub, hd, hz, Bool.or_self, Bool.false_eq_true, if_false]

omit hd hz
include hl hp

omit hl hp in
/-- The patrol of a stack has moved on by a word. -/
def patrolled (s : State) (st : StackId) : State :=
  { s with mem := { s.mem with patrolStack := s.mem.patrolStack.set st ((s.mem.patrolStack[st] + 1) % (3 * 2 ^ 29)) } }

/-- A read of memory without errors leaves the state. -/
theorem checkWord_state (u : MemUnit) (code w : Nat) : (checkWord s u code w).s = s := by rw [checkWord_clean hp hl]

end Patrol

/-- The patrol of a bank has moved on by a word. -/
def patrolledBank (s : State) (b : BankId) : State :=
  { s with mem := { s.mem with patrolBank := s.mem.patrolBank.set b ((s.mem.patrolBank[b] + 1) % 2 ^ 18) } }

/-- So does one through a bank's tap port from its own die. -/
theorem tapWord_state {t : State} {b : BankId} (hf : t.banks[b].fenced = false) (hl : t.mem.latent = []) (hp : t.mem.poison = []) (a : Nat) :
    (tapWord t (b.val / 64) b 0 a).s = t := by
  have hu : unitFenced t (b.val / 64) (.bank b) = false := by
    rw [unitFenced, unitDie, reachable_self]
    exact hf
  rw [tapWord_served hu, checkWord_state hl hp]

theorem scrubs {s : State} {st : StackId} (h0 : s.scrubHours ≠ 0) (hf : s.stk[st].fenced = false) : ¬ (s.scrubHours = 0 ∨ s.stk[st].fenced = true) := by
  rintro (h | h)
  · exact h0 h
  · rw [hf] at h
    exact absurd h (by decide)

theorem exec_refresh_pc (s : State) (hd : dead s = false) (st : StackId) (c : Fin 32) : exec (.refresh ⟨32 * st.val + c.val, by omega⟩) s =
    .next (if bit s.stk[st].pcFenced c.val then s else modStack s st fun k => { k with refreshedAt := updV k.refreshedAt c fun _ => timeOn s (dieOfStack st) }) := by
  have hst : (⟨(32 * st.val + c.val) / 32, by omega⟩ : StackId) = st := Fin.ext (by simp only; omega)
  rw [exec_refresh, execRefresh, refreshOp]
  simp only [hst, hd, Bool.false_or, show (32 * st.val + c.val) % 32 = c.val by omega]

/-! ### Quiet windows (R228) -/

/-- The fence of several pseudo-channels of a stack. -/
theorem fencePcs_stk (s : State) (st : StackId) (r : Nat) (l : List Nat) (hl : ∀ c ∈ l, c < 32) :
    (l.foldl (fun t c => fencePc t st c r) s).mem = s.mem ∧ ∃ x, (l.foldl (fun t c => fencePc t st c r) s).stk[st] = { s.stk[st] with pcFenced := x } ∧
      ∀ i, bit x i = (bit s.stk[st].pcFenced i || l.contains i) := by
  induction l generalizing s with
  | nil => exact ⟨rfl, s.stk[st].pcFenced, rfl, fun i => (Bool.or_false _).symm⟩
  | cons c l ih =>
    obtain ⟨hmem, x, hx, hbits⟩ := ih (fencePc s st c r) fun d hd => hl d (List.mem_cons_of_mem c hd)
    obtain ⟨y, hy, hybits⟩ := fencePc_stk s st c r (hl c List.mem_cons_self)
    have hm : (fencePc s st c r).mem = s.mem := by
      cases h : bit s.stk[st].pcFenced c with
      | true => rw [fencePc_again s st c r h]
      | false => exact (fencePc_reported s st c r h).mem
    refine ⟨hmem.trans hm, x, ?_, fun i => ?_⟩
    · rw [List.foldl_cons, hx, hy]
    · rw [hbits, hy]
      simp only
      rw [hybits, List.contains_cons, Bool.or_assoc]

/-- Fields side by side add up. -/
theorem record_sum {now cnt load volt temp : Nat} (hl : load < 4) (hv : volt < 1024) (ht : temp < 256) (hc : cnt < 256) :
    now * 2 ^ 64 ||| cnt * 2 ^ 24 ||| load * 2 ^ 18 ||| volt * 2 ^ 8 ||| temp = now * 2 ^ 64 + (cnt * 2 ^ 24 + (load * 2 ^ 18 + (volt * 2 ^ 8 + temp))) := by
  have join : ∀ (a b k : Nat), b < 2 ^ k → a * 2 ^ k ||| b = a * 2 ^ k + b := fun a b k hb => by
    rw [← Nat.shiftLeft_eq, ← Nat.shiftLeft_add_eq_or_of_lt hb]
  rw [Nat.or_assoc, Nat.or_assoc, Nat.or_assoc, join volt temp 8 ht, join load _ 18 (by omega), join cnt _ 24 (by omega), join now _ 64 (by omega)]

/-- The fields of a calibration record (Table 8.3). -/
theorem newRecord_fields (old : W128) (time : W64) {load volt temp : Nat} (hl : load < 4) (hv : volt < 1024) (ht : temp < 256) :
    fld (newRecord old time load volt temp) 7 0 = temp ∧ fld (newRecord old time load volt temp) 17 8 = volt ∧ fld (newRecord old time load volt temp) 127 64 = time.toNat := by
  have hc : min 255 (fld old 31 24 + 1) < 256 := by omega
  have hsum : (newRecord old time load volt temp).toNat = time.toNat * 2 ^ 64 + (min 255 (fld old 31 24 + 1) * 2 ^ 24 + (load * 2 ^ 18 + (volt * 2 ^ 8 + temp))) := by
    have htime := time.isLt
    simp only [newRecord, at', BitVec.toNat_or, BitVec.toNat_ofNat, Nat.shiftLeft_eq]
    generalize min 255 (fld old 31 24 + 1) = cnt at hc ⊢
    generalize time.toNat = now at htime ⊢
    rw [Nat.mod_eq_of_lt (a := now * 2 ^ 64) (by omega), Nat.mod_eq_of_lt (a := cnt * 2 ^ 24) (by omega), Nat.mod_eq_of_lt (a := load * 2 ^ 18) (by omega),
      Nat.mod_eq_of_lt (a := volt * 2 ^ 8) (by omega), Nat.mod_eq_of_lt (a := temp) (by omega)]
    exact record_sum hl hv ht hc
  have htime := time.isLt
  generalize min 255 (fld old 31 24 + 1) = cnt at hc hsum
  simp only [fld, hsum, Nat.shiftRight_eq_div_pow]
  omega

/-- The state with a group's window ended. -/
def windowEnded (s : State) (st : StackId) : State := modStack s st fun k => { k with quiet := none }

section Quiet

variable {s : State} {st : StackId} {g : Fin 4} (hd : dead s = false) (hf : s.stk[st].fenced = false) (hq : s.stk[st].quiet = some g)
include hd hf hq

theorem quietEndOp_ok (volt : BitVec 10) (load : BitVec 2) : ∃ t, Reported (modStack (windowEnded s st) st fun k => { k with
      calRec := updV k.calRec g fun _ => newRecord s.stk[st].calRec[g] (timeOn s (dieOfStack st)) (max load.toNat s.stk[st].band[g].toNat) volt.toNat s.stk[st].temp.toNat
      calSafe := setBit k.calSafe g.val false }) t ∧ quietEndOp s st true volt load = t := by
  rw [quietEndOp, hq]
  simp only [hd, hf, Bool.or_self, Bool.false_eq_true, if_false, if_true]
  exact ⟨_, raiseN_reported _ _ _, rfl⟩

theorem quietEndOp_failed (volt : BitVec 10) (load : BitVec 2) : quietEndOp s st false volt load =
    (List.range 8).foldl (fun t i => fencePc t st (8 * g.val + i) 2) (modStack (windowEnded s st) st fun k => { k with calSafe := setBit k.calSafe g.val false }) := by
  rw [quietEndOp, hq]
  simp only [hd, hf, Bool.or_self, Bool.false_eq_true, if_false]
  rfl

end Quiet

/-! ### The stack's own fence (R224, R240) -/

/-- A stack that is fenced whole, once what the fence reached has ended. -/
theorem fenceReach_stack {s : State} {st : StackId} {r : Nat} (hf : s.stk[st].fenced = false) :
    (fenceReach (fenceStack s st r)).stk[st].fenced = true ∧ (fenceReach (fenceStack s st r)).stk[st].pcFenced = BitVec.allOnes 32 ∧
      (fenceReach (fenceStack s st r)).stk[st].quiet = none ∧ (fenceReach (fenceStack s st r)).stk[st].temp = s.stk[st].temp ∧
      (stackReach s st = 0 → s.fab.hit = 0 → (fenceReach (fenceStack s st r)).mem = s.mem) ∧
      (s.mem.latent = [] → ∀ i, i ≠ st → (fenceReach (fenceStack s st r)).stk[i] = s.stk[i]) := by
  have hr := fenceStack_reported s st r hf
  have hk := still_fenceReach (.refl (fenceStack s st r))
  have hstk : (fenceStack s st r).stk[st] = { s.stk[st] with fenced := true, pcFenced := BitVec.allOnes 32, quiet := none } := by
    rw [hr.stk, modStack_same]
    rfl
  refine ⟨?_, ?_, ?_, ?_, fun h0 hh => ?_, fun hl i hi => ?_⟩
  · rw [solid_stkFenced hk.solid, hstk]
  · have hones : ∀ c, c < 32 → bit (BitVec.allOnes 32) c = true := by decide
    refine BitVec.eq_of_getLsbD_eq fun c hc => ?_
    have hgrow := hk.grows st c (by rw [hstk]; exact hones c hc)
    exact hgrow.trans (hones c hc).symm
  · rw [solid_stkQuiet hk.solid, hstk]
  · rw [solid_stkTemp hk.solid, hstk]
  · have hhit : (fenceStack s st r).fab.hit = 0 := by
      rw [hr.fab]
      change s.fab.hit ||| stackReach s st = 0
      rw [h0, hh]
      decide
    rw [fenceReach_mem hhit, hr.mem]
    rfl
  · have hl' : (fenceStack s st r).mem.latent = [] := by
      rw [hr.mem]
      exact hl
    rw [(hk.latent hl').2, hr.stk, modStack_other _ _ _ _ (Ne.symm hi)]
    rfl

/-- Settles O31: write-back, patrol and refresh by their guards; calibration, quiet windows and hot stacks by what their fences leave. -/
theorem memoryUpkeepAndStacks : Obligations.MemoryUpkeepAndStacks := by
  refine ⟨fun s hd => ⟨fun w u hz hw hu hf => exec_writeBack hd hz hw rfl hu hf, fun st hz hsc hf hl hp => ⟨fun hs => ?_, fun hs => ?_⟩, fun b hz hf ha hl hp => ?_,
    fun st c => ⟨fun hb => ?_, fun hb => ?_⟩⟩, fun s st hd hf => ⟨fun g hb hrec => ?_, fun g hq volt load => ⟨?_, ?_⟩, fun temp ht => ?_, ?_, fun temp hlim h105 hhot => ?_⟩⟩
  · have hfr : targetFrozen s false (.pc st (Fin.ofNat 32 (s.mem.patrolStack[st] / 16)) (s.mem.patrolStack[st] / 512) (s.mem.patrolStack[st] % 16)) = true := by
      rw [targetFrozen, Bool.or_eq_true]
      exact hs.2
    rw [exec_patrol_stack hd hz, patrolStackOp, if_neg (scrubs hsc hf)]
    exact congrArg Host.Outcome.next ((if_neg (ne_true_of_eq_false hs.1)).trans (if_pos hfr))
  · rw [exec_patrol_stack hd hz, patrolStackOp, if_neg (scrubs hsc hf)]
    refine congrArg Host.Outcome.next ?_
    cases hb : bit s.stk[st].pcFenced (Fin.ofNat 32 (s.mem.patrolStack[st] / 16)).val with
    | true => exact if_pos hb
    | false =>
      have hfr : ¬ targetFrozen s false (.pc st (Fin.ofNat 32 (s.mem.patrolStack[st] / 16)) (s.mem.patrolStack[st] / 512) (s.mem.patrolStack[st] % 16)) = true := by
        rw [targetFrozen, Bool.or_eq_true]
        exact fun h => hs ⟨hb, h⟩
      exact (if_neg (ne_true_of_eq_false hb)).trans ((if_neg hfr).trans (checkWord_state (s := patrolled s st) hl hp _ _ _))
  · rw [exec_patrol_bank hd hz, patrolBankOp, if_neg (by rw [hf, ha]; decide)]
    refine congrArg Host.Outcome.next ?_
    exact tapWord_state (t := patrolledBank s b) hf hl hp _
  · rw [exec_refresh_pc s hd, if_pos hb]
  · rw [exec_refresh_pc s hd, if_neg (ne_true_of_eq_false hb)]
    exact ⟨_, rfl, rfl, fun i hi => modStack_other _ _ _ _ (Ne.symm hi), modStack_same _ _ _⟩
  · rw [exec_calRecordBreak, execCalRecordBreak, calBreakOp]
    simp only [hd, hf, hb, hrec, Bool.or_self, Bool.false_eq_true, if_false]
    refine ⟨_, rfl, ?_⟩
    rw [(raiseN_reported _ _ _).stk, modStack_same, hf]
  · obtain ⟨t, hr, ht⟩ := quietEndOp_ok hd hf hq volt load
    have hk := still_fenceReach (.refl t)
    have hstk := hr.stk
    have hst := congrArg (fun v => v[st]) hstk
    simp only [modStack_same, windowEnded] at hst
    have hload : max load.toNat s.stk[st].band[g].toNat < 4 := by omega
    have hfields := newRecord_fields s.stk[st].calRec[g] (timeOn s (dieOfStack st)) hload volt.isLt s.stk[st].temp.isLt
    rw [exec_quietWindowEnd, execQuietWindowEnd, ht]
    refine ⟨_, rfl, ?_, ?_, fun h hh => ⟨?_, ?_⟩, ?_⟩
    · rw [solid_stkQuiet hk.solid, hst]
    · rw [solid_stkCalSafe hk.solid, hst, bit_setBit _ _ _ _ g.isLt, if_pos rfl]
    · rw [solid_stkCalRec hk.solid, hst, updV_other _ _ _ _ (Ne.symm hh)]
    · rw [solid_stkCalSafe hk.solid, hst, bit_setBit _ _ _ _ g.isLt, if_neg (fun he => hh (Fin.ext he))]
    · rw [solid_stkCalRec hk.solid, hst, updV_same]
      exact hfields
  · obtain ⟨t, ht⟩ := exists_eq (a' := (List.range 8).foldl (fun t i => fencePc t st (8 * g.val + i) 2)
      (modStack (windowEnded s st) st fun k => { k with calSafe := setBit k.calSafe g.val false }))
    obtain ⟨hmem, x, hx, hbits⟩ := fencePcs_stk (modStack (windowEnded s st) st fun k => { k with calSafe := setBit k.calSafe g.val false }) st 2
      ((List.range 8).map (8 * g.val + ·)) (by simp only [List.mem_map, List.mem_range]; omega)
    rw [List.foldl_map, ← ht] at hmem hx
    simp only [modStack_same, windowEnded] at hx hbits
    have hk := still_fenceReach (.refl t)
    rw [exec_quietWindowEnd, execQuietWindowEnd, quietEndOp_failed hd hf hq, ← ht]
    refine ⟨_, rfl, ?_, fun hl => ?_⟩
    · rw [solid_stkQuiet hk.solid, hx]
    · have hl' : t.mem.latent = [] := by
        rw [hmem]
        exact hl
      rw [(hk.latent hl').2, hx]
      refine ⟨hf, fun c hc => ?_⟩
      rw [hbits]
      refine congrArg _ ?_
      rw [Bool.eq_iff_iff, List.contains_iff_mem, beq_iff_eq, List.mem_map]
      constructor
      · rintro ⟨i, hi, rfl⟩
        rw [List.mem_range] at hi
        omega
      · intro h
        exact ⟨c - 8 * g.val, List.mem_range.2 (by omega), by omega⟩
  · have hlt : ¬ (dead s || decide (temp.toNat < 105)) = true := by
      rw [hd, Bool.false_or, decide_eq_true_eq]
      omega
    obtain ⟨h1, h2, h3, h4, h5, -⟩ := fenceReach_stack (s := modStack s st fun k => { k with temp := temp }) (st := st) (r := 3) (by rw [modStack_same]; exact hf)
    rw [exec_stackOverheat, execStackOverheat, overheatOp, if_neg hlt]
    refine ⟨_, rfl, ⟨h1, h2, h3, h5⟩, ?_⟩
    rw [h4, modStack_same]
  · obtain ⟨h1, h2, h3, -, h5, h6⟩ := fenceReach_stack (s := s) (st := st) (r := 5) hf
    rw [exec_controllerOrPhyFailure, execControllerOrPhyFailure, if_neg (ne_true_of_eq_false hd)]
    exact ⟨_, rfl, ⟨h1, h2, h3, h5⟩, h6⟩
  · have hlt : ¬ (dead s || s.stk[st].fenced || s.stk[st].hot || decide (temp.toNat ≤ s.pw.stackTlimit.toNat)) = true := by
      rw [hd, hf, hhot, Bool.or_self, Bool.or_self, Bool.false_or, decide_eq_true_eq]
      omega
    rw [exec_stackAboveThermalLimit, execStackAboveThermalLimit, stackHotOp, if_neg hlt]
    have hr := raiseN_reported (modStack s st fun k => { k with temp := temp, hot := true }) (517 + 8 * st.val) (temp.setWidth 32)
    refine ⟨_, rfl, ?_, hr.mem, fun i hi => ?_⟩
    · rw [hr.stk, modStack_same]
    · rw [hr.stk, modStack_other _ _ _ _ (Ne.symm hi)]

end Sys2Proof.Machine

/-! PROOF. Faults, fences and losses: O33. -/
namespace Sys2Proof.Machine

/-! ### What a fence leaves of the others -/

/-- Fences of engines and ports only come; dies and the boot's record stand. -/
structure Worsens (s t : State) : Prop where
  eng : ∀ n : VeId, s.eng[n].fenced ≠ 0 → t.eng[n].fenced ≠ 0
  port : ∀ h : PortId, s.ports[h].fenced = true → t.ports[h].fenced = true
  dies : t.dieFenced = s.dieFenced
  boot : t.boot = s.boot

theorem Worsens.refl (s : State) : Worsens s s := ⟨fun _ h => h, fun _ h => h, rfl, rfl⟩

theorem Worsens.trans {s t u : State} (h : Worsens s t) (k : Worsens t u) : Worsens s u :=
  ⟨fun n hn => k.eng n (h.eng n hn), fun p hp => k.port p (h.port p hp), k.dies.trans h.dies, k.boot.trans h.boot⟩

theorem Still.worsens {s t : State} (h : Still s t) : Worsens s t :=
  ⟨fun n hn => by rw [solid_eng h.solid]; exact hn, fun p hp => by rw [solid_portFenced h.solid]; exact hp, solid_dieFenced h.solid, solid_boot h.solid⟩

theorem Worsens.foldl {α : Type} {f : State → α → State} (hf : ∀ t x, Worsens t (f t x)) (l : List α) (s : State) : Worsens s (l.foldl f s) := by
  induction l generalizing s with
  | nil => exact .refl s
  | cons x xs ih => exact (hf s x).trans (ih (f s x))

/-! ### Engines -/

/-- A fenced engine's own state (Table 15.4). -/
def fencedEng (s : State) (n : VeId) (r : Nat) : State :=
  modEng s n fun e => { e with fenced := BitVec.ofNat 8 r, queue := [], openIns := [], stopped := false, vfDue := false, substEn := false }

theorem fenceVe_again {s : State} {n : VeId} (h : s.eng[n].fenced ≠ 0) (r : Nat) (sunk : Sunk) : fenceVe s n r sunk = s := if_pos h

/-- What follows of an engine's fence ends items alone. -/
theorem fenceVe_still {s : State} {n : VeId} (h : s.eng[n].fenced = 0) (r : Nat) (sunk : Sunk) : Still (fencedEng s n r) (fenceVe s n r sunk) := by
  unfold fenceVe
  rw [if_neg (not_not.2 h)]
  extract_lets s1 s2 s3 s4
  have h2 : Still s1 s2 := still_sinkVe (still_modSeq (still_withdraw (.refl s1)))
  have h3 : Still s1 s3 := by
    unfold s3
    split
    · exact still_failSegment (still_stopSlots h2)
    · exact h2
  have h4 : Still s1 s4 := by
    unfold s4
    split
    · exact still_veBanksToHost h3
    · exact h3
  exact still_fenceEvent (still_moveRing h4)

theorem fenceVe_eng {s : State} {n : VeId} (h : s.eng[n].fenced = 0) (r : Nat) (sunk : Sunk) (m : VeId) :
    (fenceVe s n r sunk).eng[m].fenced = if m = n then BitVec.ofNat 8 r else s.eng[m].fenced := by
  rw [solid_eng (fenceVe_still h r sunk).solid]
  split
  next hm =>
    subst hm
    rw [fencedEng, modEng_same]
  next hm => rw [fencedEng, modEng_other _ _ _ _ (Ne.symm hm)]

theorem fenceVe_worsens (s : State) (n : VeId) {r : Nat} (hr : BitVec.ofNat 8 r ≠ 0) (sunk : Sunk) : Worsens s (fenceVe s n r sunk) := by
  by_cases h : s.eng[n].fenced = 0
  · have hk := (fenceVe_still h r sunk).solid
    refine ⟨fun m hm => ?_, fun p hp => ?_, (solid_dieFenced hk).trans rfl, (solid_boot hk).trans rfl⟩
    · rw [fenceVe_eng h]
      split
      · exact hr
      · exact hm
    · rw [solid_portFenced hk]
      exact hp
  · rw [fenceVe_again h]
    exact .refl s

theorem fenceVe_fenced (s : State) (n : VeId) {r : Nat} (hr : BitVec.ofNat 8 r ≠ 0) (sunk : Sunk) : (fenceVe s n r sunk).eng[n].fenced ≠ 0 := by
  by_cases h : s.eng[n].fenced = 0
  · rw [fenceVe_eng h, if_pos rfl]
    exact hr
  · rw [fenceVe_again h]
    exact h

/-- Every engine of a list that is fenced in turn is fenced. -/
theorem fenceVes_fenced {r : Nat} (hr : BitVec.ofNat 8 r ≠ 0) (sunk : Sunk) (l : List VeId) (s : State) {n : VeId} (hn : n ∈ l) :
    (l.foldl (fun t n => fenceVe t n r sunk) s).eng[n].fenced ≠ 0 := by
  induction l generalizing s with
  | nil => exact absurd hn List.not_mem_nil
  | cons m l ih =>
    rcases List.mem_cons.1 hn with rfl | hn
    · exact (Worsens.foldl (fun t m => fenceVe_worsens t m hr sunk) l _).eng n (fenceVe_fenced s n hr sunk)
    · exact ih _ hn

/-! ### Ports, banks, stacks and links -/

theorem fencePort_again {s : State} {h : PortId} (hf : s.ports[h].fenced = true) (why sunk : Nat) : fencePort s h why sunk = s := if_pos hf

theorem fencePort_still {s : State} {h : PortId} (hf : s.ports[h].fenced = false) (why sunk : Nat) :
    Still (modPort s h fun t => { t with fenced := true, link := 3, width := 0, speed := 0 }) (fencePort s h why sunk) := by
  unfold fencePort
  rw [if_neg (ne_true_of_eq_false hf)]
  exact still_fenceEvent (still_raiseN (still_portStreams (.refl _)))

theorem fencePort_port {s : State} {h : PortId} (hf : s.ports[h].fenced = false) (why sunk : Nat) :
    (fencePort s h why sunk).ports[h].fenced = true ∧ (fencePort s h why sunk).ports[h].link = 3 := by
  have hk := (fencePort_still hf why sunk).solid
  rw [solid_portFenced hk, solid_portLink hk, modPort_same]
  exact ⟨rfl, rfl⟩

theorem fencePort_fenced (s : State) (h : PortId) (why sunk : Nat) : (fencePort s h why sunk).ports[h].fenced = true := by
  cases hf : s.ports[h].fenced with
  | true => rw [fencePort_again hf, hf]
  | false => exact (fencePort_port hf why sunk).1

theorem fencePort_worsens (s : State) (h : PortId) (why sunk : Nat) : Worsens s (fencePort s h why sunk) := by
  cases hf : s.ports[h].fenced with
  | true => rw [fencePort_again hf]; exact .refl s
  | false =>
    have hk := (fencePort_still hf why sunk).solid
    refine ⟨fun n hn => by rw [solid_eng hk]; exact hn, fun p hp => ?_, (solid_dieFenced hk).trans rfl, (solid_boot hk).trans rfl⟩
    rw [solid_portFenced hk]
    by_cases hph : h = p
    · subst hph
      rw [modPort_same]
    · rw [modPort_other _ _ _ _ hph]
      exact hp

theorem fenceStack_worsens (s : State) (i : StackId) (r : Nat) : Worsens s (fenceStack s i r) := by
  cases hf : s.stk[i].fenced with
  | true => rw [fenceStack_again s i r hf]; exact .refl s
  | false =>
    have hr := fenceStack_reported s i r hf
    exact ⟨fun n hn => by rw [hr.eng]; exact hn, fun p hp => by rw [hr.ports]; exact hp, hr.dieFenced, hr.boot⟩

/-- A link that is fenced: what it carried, and what the cut ends. -/
def cutLink (s : State) (i : Nat) : State := resendKept { s with fab := { s.fab with links := setBit s.fab.links i true } } i

theorem cutLink_worsens (s : State) (i : Nat) : Worsens s (cutLink s i) := ⟨fun _ h => h, fun _ h => h, rfl, rfl⟩

theorem fenceLink_again {s : State} {i : Nat} (h : bit s.fab.links i = true) : fenceLink s i = s := if_pos h

theorem fenceLink_still {s : State} {i : Nat} (h : bit s.fab.links i = false) : Still (cutLink s i) (fenceLink s i) := by
  unfold fenceLink
  rw [if_neg (ne_true_of_eq_false h)]
  extract_lets f s1 cut s2
  have h2 : Still s1 s2 := by
    unfold s2
    split
    · exact still_cutHeld (still_foldl (.refl s1) fun _ _ h4 => still_cutItems h4)
    · exact .refl s1
  exact still_markUnreachable (still_fenceEventFree (still_raiseN h2))

theorem fenceLink_worsens (s : State) (i : Nat) : Worsens s (fenceLink s i) := by
  cases h : bit s.fab.links i with
  | true => rw [fenceLink_again h]; exact .refl s
  | false => exact (cutLink_worsens s i).trans (fenceLink_still h).worsens

/-! ### Dies and clocks -/

/-- A die's segments, engines, memory, port and links are fenced with it (Table 15.4). -/
theorem fenceDie_fenced {s : State} {d : DieId} (hd : d ≠ 0) (h : bit s.dieFenced d.val = false) (sunk : Sunk) :
    (fenceDie s d sunk).dieFenced = setBit s.dieFenced d.val true ∧ (fenceDie s d sunk).ports[(⟨d.val, d.isLt⟩ : PortId)].fenced = true ∧
      (∀ n : VeId, dieOfVe n = d → (fenceDie s d sunk).eng[n].fenced ≠ 0) ∧ (fenceDie s d sunk).boot = s.boot := by
  unfold fenceDie
  rw [if_neg (ne_true_of_eq_false h), if_neg hd]
  extract_lets s0 s1 s2 s3 s4 s5 x s6
  have h1 : Worsens s0 s1 := Still.worsens (still_foldl (.refl s0) fun t p ht => by
    split
    · exact still_failSegment (still_stopSlots ht)
    · exact ht)
  have h2 : Worsens s1 s2 := .foldl (fun t n => fenceVe_worsens t n (by decide) sunk) _ _
  have h3 : Worsens s2 s3 := Still.worsens (still_foldl (.refl s2) fun _ _ ht => still_fenceBank ht)
  have h4 : Worsens s3 s4 := .foldl (fun t k => fenceStack_worsens t k 6) _ _
  have h5 : Worsens s4 s5 := fencePort_worsens _ _ _ _
  have h6 : Worsens s5 s6 := (fenceLink_worsens _ _).trans (fenceLink_worsens _ _)
  have h7 : Worsens s6 (fenceEventFree s6 8 d.val) := Still.worsens (still_fenceEventFree (.refl s6))
  have hall := h1.trans (h2.trans (h3.trans (h4.trans (h5.trans (h6.trans h7)))))
  refine ⟨hall.dies, (h6.trans h7).port _ (fencePort_fenced _ _ _ _), fun n hn => ?_, hall.boot⟩
  refine (h3.trans (h4.trans (h5.trans (h6.trans h7)))).eng n (fenceVes_fenced (by decide) sunk _ _ ?_)
  exact List.mem_filter.2 ⟨List.mem_finRange n, beq_iff_eq.2 hn⟩

theorem fenceDie_first {s : State} (h : bit s.dieFenced 0 = false) (sunk : Sunk) : fenceDie s 0 sunk = loseDevice (setAlert s 1) := by
  rw [fenceDie]
  exact (if_neg (ne_true_of_eq_false h)).trans (if_pos rfl)

theorem loseDevice_lost (s : State) : (loseDevice s).boot.lost = true := rfl

theorem sendFrame_mem (s : State) (k : Byte) (l : List W128) : (sendFrame s k l).mem = s.mem := by
  unfold sendFrame
  split
  · rfl
  · rfl

theorem sendFrame_ports (s : State) (k : Byte) (l : List W128) : (sendFrame s k l).ports = s.ports := by
  unfold sendFrame
  split
  · rfl
  · rfl

theorem loseDevice_port (s : State) (h : PortId) : (loseDevice s).ports[h].fenced = s.ports[h].fenced ∧
    (s.ports[h].fenced = false → (loseDevice s).ports[h].link = 0) := by
  have hp : (loseDevice s).ports[h] = if s.ports[h].fenced then s.ports[h] else { s.ports[h] with link := 0, width := 0, speed := 0 } := by
    unfold loseDevice
    split
    · simp [sendFrame_ports]
    · simp
  rw [hp]
  cases hf : s.ports[h].fenced with
  | true => exact ⟨hf, fun h => absurd h (by decide)⟩
  | false => exact ⟨hf, fun _ => rfl⟩

theorem loseDevice_mem (s : State) : (loseDevice s).mem = s.mem := by
  unfold loseDevice
  split
  · exact sendFrame_mem _ _ _
  · rfl

theorem loseDevice_twin {s : State} (hp : s.twin.primary = true) (hl : s.twin.linkUp = true) : (loseDevice s).twin = (sendFrame s 0x07 []).twin := by
  rw [loseDevice, if_pos ⟨hp, hl⟩]

theorem fenceReach_still (s : State) : Still s (fenceReach s) := still_fenceReach (.refl s)

theorem endReached_still (s : State) : Still s (endReached s) := still_endReached (.refl s)

theorem pllLost_reported (s : State) (i : Nat) : Reported { s with boot := { s.boot with
    pllLock := setBit s.boot.pllLock i false, pllGone := setBit s.boot.pllGone i true, pllLosses := satInc s.boot.pllLosses } } (pllLost s i) := raiseN_reported _ _ _

theorem pllsLost_dieFenced (l : List Nat) (s : State) : (l.foldl (fun t i => if bit t.boot.pllLock i then pllLost t i else t) s).dieFenced = s.dieFenced := by
  induction l generalizing s with
  | nil => rfl
  | cons i l ih =>
    rw [List.foldl_cons, ih]
    split
    · exact (pllLost_reported s i).dieFenced
    · rfl

theorem domainLost_main {s : State} {i : Nat} (hi : i = 8 ∨ i = 25) (sunk : Sunk) : domainLost s i sunk = fenceDie s 0 sunk := by
  rcases hi with rfl | rfl
  · rfl
  · rfl

theorem domainLost_engine {s : State} {n : VeId} (sunk : Sunk) : (domainLost s (n.val / 8) sunk).eng[n].fenced ≠ 0 := by
  rw [domainLost, dif_pos (show n.val / 8 < 8 by omega)]
  exact fenceVes_fenced (by decide) sunk _ _ (List.mem_filter.2 ⟨List.mem_finRange n, beq_self_eq_true _⟩)

/-- The loss of a lock ends what it reaches; the boot's record and the fences stand through it. -/
theorem fenceReach_lost {s : State} (h : s.boot.lost = true) : (fenceReach s).boot.lost = true := by rw [solid_boot (fenceReach_still s).solid, h]

section ClockLoss

variable {s : State} (hd : dead s = false)
include hd

theorem exec_pllLoss (x : ClockLoss) : exec (.pllLossOfLock x) s = .next (fenceReach (clockLost (endReached s) x.sunk x.src)) := by
  rw [exec_pllLossOfLock, execPllLossOfLock, if_neg (ne_true_of_eq_false hd)]

theorem exec_dieLoss (d : DieLoss) : exec (.dieFence d) s = .next (fenceReach (fenceDie (endReached s) d.die d.sunk)) := by
  rw [exec_dieFence, execDieFence, if_neg (ne_true_of_eq_false hd)]

end ClockLoss

/-! ### The lockstep pair and paired engines -/

theorem fenceLockstep_still (s : State) : Still { s with ls := { s.ls with state := 2 }, sv := { s.sv with st := .stopped } } (fenceLockstep s) := by
  unfold fenceLockstep
  extract_lets s1
  exact still_fenceEventFree (still_raiseN (still_foldl (.refl _) fun _ _ ht => still_commitFails ht))

/-- A lockstep mismatch as it is counted, before its report. -/
def mismatched (s : State) : State :=
  let pc := s.sv.r.pc
  { s with ls := { s.ls with
    mismatches := satInc s.ls.mismatches, lastPc := pc.setWidth 64, repeatAt := some pc
    repeats := if s.ls.repeatAt == some pc && s.ls.atRetired == s.sv.retired then s.ls.repeats + 1 else 1, atRetired := s.sv.retired
    recent := (s.ls.recent.filter fun t => decide ((timeNow s - t).toNat < 1000000000)) ++ [timeNow s] } }

theorem lockstepOp_due {s : State} (hd : dead s = false) (hl : s.ls.state = 0) (hr : s.sv.st = .running) : lockstepOp s =
    let s2 := raiseN (mismatched s) 726 (BitVec.ofNat 32 (s.sv.r.pc.toNat % 2 ^ 32))
    if 3 ≤ (mismatched s).ls.repeats ∨ 17 ≤ (mismatched s).ls.recent.length then fenceLockstep s2
    else { s2 with ls := { s2.ls with state := 1 }, sv := { s2.sv with st := .recovery } } := by
  have hn : ¬ (dead s || s.ls.state != 0 || s.sv.st != .running) = true := by
    rw [hd, hl, hr]
    decide
  rw [lockstepOp, if_neg hn]
  rfl

section Paired

/-- The engine's groups start again. -/
def restarted (e : Engine) : Engine := { e with queue := e.queue.map fun g => { g with started := false } }

/-- The pair `n`, `m` reset as masters, its mismatch at a place counted, and the slot there withdrawn where it was one. -/
def pairReset (s : State) (n m : VeId) (p : PartId) (kind slot : Nat) (here : Bool × Nat) : State :=
  let s2 := modEng (modEng (withdraw (withdraw s (veMasters n 7)) (veMasters m 7)) n fun e => restarted
    { e with pairMismatches := satInc e.pairMismatches, pairLog := (here, pairRepeat s.eng[n] here) :: e.pairLog.filter fun x => x.1 != here }) m restarted
  if kind = 2 then
    modPart s2 p fun q => { q with run := q.run.map fun r =>
      { r with slots := r.slots.filter fun y => !(y.1 == slot && y.2 != .complete), grants := r.grants.filter fun g => g.1 != slot } }
  else s2

theorem pairReset_mem (s : State) (n m : VeId) (p : PartId) (kind slot : Nat) (here : Bool × Nat) : (pairReset s n m p kind slot here).mem = s.mem := by
  unfold pairReset
  dsimp only
  split
  · rfl
  · rfl

theorem pairReset_seq (s : State) (n m : VeId) (p : PartId) (kind slot : Nat) (here : Bool × Nat) : (pairReset s n m p kind slot here).seq = s.seq := by
  unfold pairReset
  dsimp only
  split
  · rfl
  · rfl

theorem pairReset_eng {s : State} {n m : VeId} (h : n ≠ m) (p : PartId) (kind slot : Nat) (here : Bool × Nat) :
    (pairReset s n m p kind slot here).eng[n] = restarted
      { s.eng[n] with pairMismatches := satInc s.eng[n].pairMismatches
                      pairLog := (here, pairRepeat s.eng[n] here) :: s.eng[n].pairLog.filter fun x => x.1 != here } ∧
      (pairReset s n m p kind slot here).eng[m] = restarted s.eng[m] := by
  have key : ∀ t : State, t.eng = (modEng (modEng (withdraw (withdraw s (veMasters n 7)) (veMasters m 7)) n fun e => restarted
      { e with pairMismatches := satInc e.pairMismatches, pairLog := (here, pairRepeat s.eng[n] here) :: e.pairLog.filter fun x => x.1 != here }) m restarted).eng →
      t.eng[n] = restarted { s.eng[n] with
        pairMismatches := satInc s.eng[n].pairMismatches, pairLog := (here, pairRepeat s.eng[n] here) :: s.eng[n].pairLog.filter fun x => x.1 != here } ∧
      t.eng[m] = restarted s.eng[m] := by
    intro t ht
    rw [ht, modEng_other _ _ _ _ (Ne.symm h), modEng_same, modEng_same, modEng_other _ _ _ _ h]
    exact ⟨rfl, rfl⟩
  unfold pairReset
  dsimp only
  split
  · exact key _ rfl
  · exact key _ rfl

/-- The reset pair once its responses have been sunk and its mismatch reported. -/
def pairReported (s : State) (pair : Fin 32) (n m : VeId) (p : PartId) (kind slot : Nat) (here : Bool × Nat) (sunk : Sunk) : State :=
  raiseN (sinkVe (sinkVe (pairReset s n m p kind slot here) n 7 sunk) m 7 sunk) (16 * pair.val + 4)
    (at' 32 28 kind ||| at' 32 26 (pairRepeat s.eng[n] here) ||| BitVec.ofNat 32 (here.2 % 2 ^ 26))

theorem pairReported_sinks (s : State) (pair : Fin 32) (n m : VeId) (p : PartId) (kind slot : Nat) (here : Bool × Nat) (sunk : Sunk) :
    Sinks (pairReset s n m p kind slot here) (pairReported s pair n m p kind slot here sunk) :=
  (sinkVe_sinks _ _ _ _).trans ((sinkVe_sinks _ _ _ _).trans (raiseN_reported _ _ _).sinks)

variable {s : State} {pair : Fin 32} {n m : VeId} {p : PartId} (hn : n.val = 2 * pair.val) (hm : m.val = 2 * pair.val + 1) (hp : execPart s n = some p)
  (hclock : clockRuns s (clusterOfVe n) = true) (hst : s.seq[n].st ≠ .recovery) (hfn : s.eng[n].fenced = 0) (hfm : s.eng[m].fenced = 0)
  (hpair : s.parts[p].cfg.paired = true) (hserve : servesRun s p n = true)
include hn hm hp hclock hst hfn hfm hpair hserve

theorem pairedOp_due (kind slot : Nat) (sunk : Sunk) : pairedOp s pair kind slot sunk =
    let here := (kind == 2, if kind = 2 then slot else s.seq[n].r.pc.toNat)
    let s4 := pairReported s pair n m p kind slot here sunk
    if 3 ≤ pairRepeat s.eng[n] here then fenceReach (fenceVe (fenceVe (endReached s4) n 2 []) m 2 []) else modSeq s4 n recoverSeq := by
  have h1 : 2 * pair.val < 64 := by omega
  have h2 : 2 * pair.val + 1 < 64 := by omega
  obtain rfl : n = ⟨2 * pair.val, h1⟩ := Fin.ext hn
  obtain rfl : m = ⟨2 * pair.val + 1, h2⟩ := Fin.ext hm
  have hno : ¬ (!clockRuns s (clusterOfVe ⟨2 * pair.val, h1⟩) || s.seq[(⟨2 * pair.val, h1⟩ : VeId)].st == .recovery ||
      s.eng[(⟨2 * pair.val, h1⟩ : VeId)].fenced != 0 || s.eng[(⟨2 * pair.val + 1, h2⟩ : VeId)].fenced != 0 || !s.parts[p].cfg.paired ||
      !servesRun s p ⟨2 * pair.val, h1⟩) = true := by
    rw [hclock, hfn, hfm, hpair, hserve, beq_false_of_ne hst]
    decide
  unfold pairedOp
  extract_lets a b
  rw [show execPart s a = some p from hp]
  exact if_neg hno

end Paired

theorem pllLost_bits (u : State) (i : Fin 26) : bit (pllLost u i.val).boot.pllLock i.val = false ∧ bit (pllLost u i.val).boot.pllGone i.val = true ∧
    (pllLost u i.val).boot.pllLosses = satInc u.boot.pllLosses := by
  have hb := (pllLost_reported u i.val).boot
  dsimp only at hb
  have key : ∀ (x : W32) (b : Bool), bit (setBit x i.val b) i.val = b := fun x b => (bit_setBit x i.val i.val b (by omega)).trans (if_pos rfl)
  simp only [hb, key, and_self]

theorem clockLoss_due {s : State} (hd : dead s = false) :
    let e := endReached s
    ∀ x : ClockLoss, ∃ t, exec (.pllLossOfLock x) s = .next t ∧
      (x.src = .sysclk → bit s.dieFenced 0 = false → t.boot.lost = true) ∧
      (∀ i, x.src = .domain i →
        (bit s.boot.pllLock i.val = false → t = fenceReach e) ∧
        (bit s.boot.pllLock i.val = true → t = fenceReach (domainLost (pllLost e i.val) i.val x.sunk) ∧ bit (pllLost e i.val).boot.pllLock i.val = false ∧ bit (pllLost e i.val).boot.pllGone i.val = true ∧
          (pllLost e i.val).boot.pllLosses = satInc s.boot.pllLosses ∧ (i.val = 8 ∨ i.val = 25 → bit s.dieFenced 0 = false → t.boot.lost = true) ∧
          ∀ n : VeId, i.val = n.val / 8 → t.eng[n].fenced ≠ 0)) ∧
      (∀ i, x.src = .refclk i → t = fenceReach (allLinksDown (([20, 21, 22, 23, 24] : List Nat).foldl (fun t i => if bit t.boot.pllLock i then pllLost t i else t) e) x.sunk)) := by
  intro e x
  have he : Still s e := endReached_still s
  have hdies : e.dieFenced = s.dieFenced := solid_dieFenced he.solid
  have hboot : e.boot = s.boot := solid_boot he.solid
  obtain ⟨src, sunk⟩ := x
  rw [exec_pllLoss hd]
  refine ⟨_, rfl, fun hs h0 => ?_, fun i hi => ⟨fun hb => ?_, fun hb => ⟨?_, ?_, ?_, ?_, fun hmain h0 => ?_, fun n hn => ?_⟩⟩, fun i hi => ?_⟩
  · obtain rfl := hs
    refine fenceReach_lost ?_
    rw [clockLost, fenceDie_first (by rw [pllsLost_dieFenced, hdies]; exact h0), loseDevice_lost]
  · obtain rfl := hi
    exact congrArg fenceReach (if_neg (by rw [hboot, hb]; decide))
  · obtain rfl := hi
    exact congrArg fenceReach (if_pos (by rw [hboot]; exact hb))
  · exact (pllLost_bits e i).1
  · exact (pllLost_bits e i).2.1
  · exact (pllLost_bits e i).2.2.trans (congrArg (fun b => satInc (Boot.pllLosses b)) hboot)
  · obtain rfl := hi
    refine fenceReach_lost ?_
    have hpos : bit (endReached s).boot.pllLock i.val = true := by
      rw [hboot]
      exact hb
    have h0' : bit (pllLost e i.val).dieFenced 0 = false := by
      rw [(pllLost_reported e i.val).dieFenced]
      change bit e.dieFenced 0 = false
      rw [hdies, h0]
    rw [clockLost, if_pos hpos, domainLost_main hmain, fenceDie_first h0', loseDevice_lost]
  · obtain rfl := hi
    have hpos : bit (endReached s).boot.pllLock i.val = true := by
      rw [hboot]
      exact hb
    rw [clockLost, if_pos hpos, hn]
    exact (fenceReach_still _).worsens.eng n (domainLost_engine sunk)
  · obtain rfl := hi
    rfl

theorem lockstepMismatch_due {s : State} (hd : dead s = false) :
    s.ls.state = 0 → s.sv.st = .running →
      let pc := s.sv.r.pc
      let n := if s.ls.repeatAt = some pc ∧ s.ls.atRetired = s.sv.retired then s.ls.repeats + 1 else 1
      let recent := s.ls.recent.filter fun t => decide ((timeNow s - t).toNat < 1000000000)
      ∃ t, exec .lockstepMismatch s = .next t ∧ t.ls.mismatches = satInc s.ls.mismatches ∧ t.ls.lastPc = pc.setWidth 64 ∧ t.ls.repeatAt = some pc ∧ t.ls.repeats = n ∧
        (n < 3 → recent.length < 16 → t.ls.state = 1 ∧ t.sv = { s.sv with st := .recovery } ∧ t.dict.pending = s.dict.pending) ∧
        (3 ≤ n ∨ 16 ≤ recent.length → t.ls.state = 2 ∧ t.sv.st = .stopped ∧ t.sv.r = s.sv.r) := by
  intro hl hr pc n recent
  have hrep : (mismatched s).ls.repeats = n := by
    change (if s.ls.repeatAt == some pc && s.ls.atRetired == s.sv.retired then s.ls.repeats + 1 else 1) = n
    simp only [Bool.and_eq_true, beq_iff_eq]
    rfl
  have hlen : (mismatched s).ls.recent.length = recent.length + 1 := List.length_append
  have hrs := raiseN_reported (mismatched s) 726 (BitVec.ofNat 32 (s.sv.r.pc.toNat % 2 ^ 32))
  obtain ⟨u, hu⟩ := exists_eq (a' := raiseN (mismatched s) 726 (BitVec.ofNat 32 (s.sv.r.pc.toNat % 2 ^ 32)))
  rw [← hu] at hrs
  obtain ⟨hmis, hpc, hat, hreps⟩ : u.ls.mismatches = satInc s.ls.mismatches ∧ u.ls.lastPc = pc.setWidth 64 ∧ u.ls.repeatAt = some pc ∧ u.ls.repeats = n := by
    obtain ⟨l, d, a, o, x, rfl⟩ := hrs
    exact ⟨rfl, rfl, rfl, hrep⟩
  rw [exec_lockstepMismatch, execLockstepMismatch, lockstepOp_due hd hl hr, ← hu]
  dsimp only
  rw [hrep, hlen]
  by_cases hc : 3 ≤ n ∨ 17 ≤ recent.length + 1
  · rw [if_pos hc]
    have hk := (fenceLockstep_still u).solid
    have hls := solid_ls hk
    have hsv := solid_sv hk
    refine ⟨_, rfl, (congrArg Lockstep.mismatches hls).trans hmis, (congrArg Lockstep.lastPc hls).trans hpc, (congrArg Lockstep.repeatAt hls).trans hat,
      (congrArg Lockstep.repeats hls).trans hreps, fun h3 h16 => absurd hc (by omega), fun _ => ⟨(congrArg Lockstep.state hls).trans rfl, ?_, ?_⟩⟩
    · rw [hsv]
    · rw [hsv, hrs.sv]
      rfl
  · rw [if_neg hc]
    refine ⟨_, rfl, hmis, hpc, hat, hreps, fun _ _ => ⟨rfl, ?_, hrs.dictPending⟩, fun h => absurd (show 3 ≤ n ∨ 17 ≤ recent.length + 1 by omega) hc⟩
    change { u.sv with st := SeqState.recovery } = _
    rw [hrs.sv]
    rfl

theorem pairedMismatch_due {s : State} :
    ∀ (pair : Fin 32) (kind : BitVec 2) (slot : Fin 4096) (n m : VeId) (p : PartId) (sunk : Sunk), n.val = 2 * pair.val → m.val = 2 * pair.val + 1 → execPart s n = some p →
      clockRuns s (clusterOfVe n) = true → s.seq[n].st ≠ .recovery → s.eng[n].fenced = 0 → s.eng[m].fenced = 0 → s.parts[p].cfg.paired = true → servesRun s p n = true →
      let here := (kind.toNat == 2, if kind.toNat = 2 then slot.val else s.seq[n].r.pc.toNat)
      let rep := pairRepeat s.eng[n] here
      ∃ t, exec (.pairedMismatch pair kind slot sunk) s = .next t ∧
        (rep < 3 → t.eng[n].pairMismatches = satInc s.eng[n].pairMismatches ∧ t.eng[n].pairLog = (here, rep) :: s.eng[n].pairLog.filter (fun x => x.1 != here) ∧ t.eng[n].fenced = 0 ∧ t.eng[m].fenced = 0 ∧
          (∀ g, g ∈ t.eng[n].queue ∨ g ∈ t.eng[m].queue → g.started = false) ∧ t.mem = s.mem ∧
          t.seq[n] = { s.seq[n] with st := .recovery, back := s.seq[n].st } ∧ ∀ i, i ≠ n → t.seq[i] = s.seq[i]) ∧
        (3 ≤ rep → t.eng[n].fenced = 2 ∧ t.eng[m].fenced = 2) := by
  intro pair kind slot n m p sunk hn hm hp hclock hst hfn hfm hpair hserve here rep
  have hnm : n ≠ m := fun h => by rw [h] at hn; omega
  have hhere : here = (kind.toNat == 2, if kind.toNat = 2 then slot.val else s.seq[n].r.pc.toNat) := rfl
  rw [exec_pairedMismatch, execPairedMismatch, pairedOp_due hn hm hp hclock hst hfn hfm hpair hserve]
  dsimp only
  rw [← hhere]
  have hsk := pairReported_sinks s pair n m p kind.toNat slot.val here sunk
  obtain ⟨hen, hem⟩ := pairReset_eng (s := s) hnm p kind.toNat slot.val here
  obtain ⟨u, hu⟩ := exists_eq (a' := pairReported s pair n m p kind.toNat slot.val here sunk)
  rw [← hu] at hsk ⊢
  have hun : u.eng[n] = _ := (congrArg (fun v => v[n]) hsk.eng).trans hen
  have hum : u.eng[m] = _ := (congrArg (fun v => v[m]) hsk.eng).trans hem
  by_cases h3 : 3 ≤ rep
  · have he4 := endReached_still u
    have hn0 : (endReached u).eng[n].fenced = 0 := by rw [solid_eng he4.solid, hun]; exact hfn
    have hm0 : (endReached u).eng[m].fenced = 0 := by rw [solid_eng he4.solid, hum]; exact hfm
    have hm1 : (fenceVe (endReached u) n 2 []).eng[m].fenced = 0 := by rw [fenceVe_eng hn0, if_neg (Ne.symm hnm), hm0]
    rw [if_pos h3]
    refine ⟨_, rfl, fun h => absurd h (by omega), fun _ => ⟨?_, ?_⟩⟩
    · rw [solid_eng (fenceReach_still _).solid, fenceVe_eng hm1, if_neg hnm, fenceVe_eng hn0, if_pos rfl]
      rfl
    · rw [solid_eng (fenceReach_still _).solid, fenceVe_eng hm1, if_pos rfl]
      rfl
  · rw [if_neg h3]
    refine ⟨_, rfl, fun _ => ⟨?_, ?_, ?_, ?_, fun g hg => ?_, (hsk.mem.trans (pairReset_mem _ _ _ _ _ _ _) : _), ?_, fun i hi => ?_⟩, fun h => absurd h h3⟩
    · exact congrArg Engine.pairMismatches hun
    · exact congrArg Engine.pairLog hun
    · exact (congrArg Engine.fenced hun).trans hfn
    · exact (congrArg Engine.fenced hum).trans hfm
    · have hq : ∀ e : Engine, g ∈ (restarted e).queue → g.started = false := by
        intro e h
        obtain ⟨x, -, rfl⟩ := List.mem_map.1 h
        rfl
      rcases hg with hg | hg
      · exact hq _ ((congrArg Engine.queue hun) ▸ hg)
      · exact hq _ ((congrArg Engine.queue hum) ▸ hg)
    · rw [modSeq_same, hsk.seq, pairReset_seq]
      rfl
    · rw [modSeq_other _ _ _ _ (Ne.symm hi), hsk.seq, pairReset_seq]

/-- Settles O33: each fault by the fence or the loss that follows of it, which what ends with it leaves in force. -/
theorem faultEvents : Obligations.FaultEvents := by
  intro s hd e
  have he : Still s e := endReached_still s
  have hdies : e.dieFenced = s.dieFenced := solid_dieFenced he.solid
  refine ⟨fun sunk => ?_, fun d sunk hd0 => ?_, fun u => ⟨loseDevice_lost u, loseDevice_mem u, loseDevice_twin, loseDevice_port u⟩, fun x => ?_, clockLoss_due hd,
    lockstepMismatch_due hd, pairedMismatch_due⟩
  · rw [exec_dieLoss hd]
    refine congrArg Host.Outcome.next ?_
    cases hb : bit e.dieFenced 0 with
    | true => exact congrArg fenceReach (if_pos hb)
    | false => exact congrArg fenceReach (fenceDie_first hb sunk)
  · rw [exec_dieLoss hd]
    have hk := fenceReach_still (fenceDie (endReached s) d sunk)
    refine ⟨_, rfl, ?_, fun hb => ?_⟩
    · rw [solid_dieFenced hk.solid]
      cases hb : bit e.dieFenced d.val with
      | true => rw [show fenceDie (endReached s) d sunk = e from if_pos hb, hb]
      | false => rw [(fenceDie_fenced hd0 hb sunk).1, bit_setBit _ _ _ _ d.isLt, if_pos rfl]
    · obtain ⟨-, hport, heng, -⟩ := fenceDie_fenced (s := e) hd0 (by rw [hdies]; exact hb) sunk
      exact ⟨hk.worsens.port _ hport, fun n hn => hk.worsens.eng n (heng n hn)⟩
  · rw [exec_streamPathFault, execStreamPathFault, if_neg (ne_true_of_eq_false hd)]

end Sys2Proof.Machine

/-! PROOF. The fence entries: O32. -/
namespace Sys2Proof.Machine

-- The frame lemmas here are many and short: checked in turn they take less memory.
set_option Elab.async false

/-! ### What reports of ended items leave alone -/

/-- What the reports of ended items leave of a partition: all but its configuration, exchange and trace, its image's load, its saves, its streams and its ledger. -/
def itemless (q : Partition) :=
  (q.designCycle, q.image, q.bind, q.curBuf, q.jobs, q.run, q.fresh, q.handDue, q.frames, q.released, q.undo, q.undoNext, q.saved, q.fenced)

/-- From `s` to `t` the reports of ended items leave memory, the units, the cores and what `itemless` shows of the partitions. -/
def Idle (s t : State) : Prop :=
  (t.mem, t.stk, t.banks, t.eng, t.seq, t.sv, t.fab, t.clusters, t.crc, t.parts.map itemless) =
    (s.mem, s.stk, s.banks, s.eng, s.seq, s.sv, s.fab, s.clusters, s.crc, s.parts.map itemless)

theorem Idle.refl (s : State) : Idle s s := rfl

theorem Idle.trans {s t u : State} (h : Idle s t) (k : Idle t u) : Idle s u := Eq.trans k h

theorem Idle.upd {s t u : State} (hu : (u.mem, u.stk, u.banks, u.eng, u.seq, u.sv, u.fab, u.clusters, u.crc, u.parts.map itemless) =
    (t.mem, t.stk, t.banks, t.eng, t.seq, t.sv, t.fab, t.clusters, t.crc, t.parts.map itemless)) (h : Idle s t) : Idle s u := Eq.trans hu h

theorem Idle.mem {s t : State} (h : Idle s t) : t.mem = s.mem := congrArg Prod.fst h

theorem Idle.part {s t : State} (h : Idle s t) (p : PartId) : itemless t.parts[p] = itemless s.parts[p] := by
  have hp := congrArg (fun x => x.2.2.2.2.2.2.2.2.2[p]) h
  dsimp only at hp
  rw [Fin.getElem_fin, Fin.getElem_fin, Vector.getElem_map, Vector.getElem_map] at hp
  exact hp

theorem Idle.jobs {s t : State} (h : Idle s t) (p : PartId) : t.parts[p].jobs = s.parts[p].jobs := congrArg (fun x => x.2.2.2.2.1) (h.part p)

theorem Idle.run {s t : State} (h : Idle s t) (p : PartId) : t.parts[p].run = s.parts[p].run := congrArg (fun x => x.2.2.2.2.2.1) (h.part p)

theorem Idle.fenced {s t : State} (h : Idle s t) (p : PartId) : t.parts[p].fenced = s.parts[p].fenced :=
  congrArg (fun x => x.2.2.2.2.2.2.2.2.2.2.2.2.2) (h.part p)

theorem idle_foldl {α : Type} {s0 s : State} {f : State → α → State} {l : List α} (h : Idle s0 s) (hf : ∀ t a, Idle s0 t → Idle s0 (f t a)) :
    Idle s0 (l.foldl f s) := by
  induction l generalizing s with
  | nil => exact h
  | cons a l ih => exact ih (hf s a h)

/-- The state that `π` shows of an answer keeps them. -/
def IdleBy {α : Type} (π : α → State) (s : State) (x : α) : Prop := Idle s (π x)

theorem IdleBy.snd {s t : State} {β : Type} {b : β} (h : Idle s t) : IdleBy Prod.snd s (b, t) := h

theorem idle_modPart {s0 : State} {s : State} {p : PartId} {f : Partition → Partition} (h : Idle s0 s) (hf : ∀ x, itemless (f x) = itemless x := by intro x; rfl) :
    Idle s0 (modPart s p f) :=
  Idle.upd (t := s) (by simp only [modPart, map_updV _ _ _ itemless hf]) h

theorem idle_modStream {s0 : State} {s : State} {p : PartId} {k : Fin 8} {f : Stream → Stream} (h : Idle s0 s) :
    Idle s0 (modStream s p k f) := by
  unfold modStream
  exact idle_modPart h

theorem idle_modPort {s0 : State} {s : State} {h1 : PortId} {f : Port → Port} (h : Idle s0 s) :
    Idle s0 (modPort s h1 f) := by
  unfold modPort
  exact Idle.upd (t:=s) rfl h

theorem idle_emit {s0 : State} {s : State} {o : Out} (h : Idle s0 s) :
    Idle s0 (emit s o) := by
  unfold emit
  exact Idle.upd (t:=s) rfl h

theorem idle_drawWord {s0 : State} {s : State} (h : Idle s0 s) :
    IdleBy Prod.snd s0 (drawWord s) := by
  unfold drawWord
  exact IdleBy.snd (Idle.upd (t:=s) rfl h)

theorem idle_drawNat {s0 : State} {s : State} (h : Idle s0 s) :
    IdleBy Prod.snd s0 (drawNat s) := by
  unfold drawNat
  exact IdleBy.snd (Idle.upd (t:=s) rfl h)

theorem idle_setAlert {s0 : State} {s : State} {i : ℕ} (h : Idle s0 s) :
    Idle s0 (setAlert s i) := by
  unfold setAlert
  extract_lets +onlyGivenNames c s1
  clear_value c s1
  extract_lets +onlyGivenNames s11
  have hs11 : Idle s0 s11 := Idle.upd (t:=s) rfl h
  clear_value s11
  split
  · exact hs11
  · split
    · exact idle_emit hs11
    · exact Idle.upd (t:=s11) rfl hs11

theorem idle_i3cReady {s0 : State} {s : State} (h : Idle s0 s) :
    Idle s0 (i3cReady s) := by
  unfold i3cReady
  split
  · exact h
  · extract_lets +onlyGivenNames s1
    clear_value s1
    extract_lets +onlyGivenNames s11
    have hs11 : Idle s0 s11 := Idle.upd (t:=s) rfl h
    clear_value s11
    split
    · exact idle_emit hs11
    · exact Idle.upd (t:=s11) rfl hs11

theorem idle_dictFinish {s0 : State} {s : State} {r : Requester} (h : Idle s0 s) :
    Idle s0 (dictFinish s r) := by
  unfold dictFinish
  split
  · exact idle_i3cReady h
  · exact idle_emit h

theorem idle_raise {s0 : State} {s : State} {x : SrcId} {dt : W32} (h : Idle s0 s) :
    Idle s0 (raise s x dt) := by
  unfold raise
  extract_lets +onlyGivenNames l s1
  clear_value l s1
  extract_lets +onlyGivenNames s11
  have hs11 : Idle s0 s11 := Idle.upd (t:=s) rfl h
  clear_value s11
  split
  · split
    · exact idle_setAlert hs11
    · exact hs11
  · exact hs11

theorem idle_raiseN {s0 : State} {s : State} {x : ℕ} {dt : W32} (h : Idle s0 s) :
    Idle s0 (raiseN s x dt) := by
  unfold raiseN
  split
  · exact idle_raise h
  · exact h

theorem idle_fenceEvent {s0 : State} {s : State} {kind : ℕ} {number : ℕ} {reason : ℕ} (h : Idle s0 s) :
    Idle s0 (fenceEvent s kind number reason) := by
  unfold fenceEvent
  exact idle_raiseN (Idle.upd (t:=s) rfl h)

theorem idle_msixSend {s0 : State} {s : State} {h1 : PortId} {v : ℕ} (h : Idle s0 s) :
    Idle s0 (msixSend s h1 v) := by
  unfold msixSend
  split
  · exact idle_modPort h
  · extract_lets +onlyGivenNames t
    clear_value t
    exact idle_emit h

theorem idle_msix {s0 : State} {s : State} {p : PartId} (h : Idle s0 s) :
    Idle s0 (msix s p) := by
  unfold msix
  extract_lets +onlyGivenNames h1
  split
  · exact h
  · extract_lets +onlyGivenNames c s1 s2
    have hs1 : Idle s0 s1 := by
      unfold s1
      split
      · exact idle_modPart (idle_msixSend h)
      · exact h
    have hs2 : Idle s0 s2 := by
      unfold s2
      split
      · exact idle_modPart (idle_msixSend hs1)
      · exact hs1
    clear_value c s1 s2
    split
    · exact idle_modPart (idle_msixSend hs2)
    · exact hs2

theorem idle_sendFrame {s0 : State} {s : State} {kind : Byte} {payload : List W128} (h : Idle s0 s) :
    Idle s0 (sendFrame s kind payload) := by
  unfold sendFrame
  split
  · extract_lets +onlyGivenNames t
    clear_value t
    exact idle_emit (Idle.upd (t:=s) rfl h)
  · exact h

theorem idle_ledgerPut {s0 : State} {s : State} {p : PartId} {r : W128} (h : Idle s0 s) :
    Idle s0 (ledgerPut s p r) := by
  unfold ledgerPut
  extract_lets +onlyGivenNames cause
  clear_value cause
  exact idle_msix (idle_modPart h)

theorem idle_ledgerEnd {s0 : State} {s : State} {p : PartId} {item : W32} {kind : ℕ} {cause : ℕ} {detail : W64} (h : Idle s0 s) :
    Idle s0 (ledgerEnd s p item kind cause detail) := by
  unfold ledgerEnd
  extract_lets +onlyGivenNames r
  clear_value r
  split
  · split
    · extract_lets +onlyGivenNames seq
      clear_value seq
      exact idle_modPart (idle_sendFrame h)
    · exact h
  · exact idle_ledgerPut h

theorem idle_ledgerItem {s0 : State} {s : State} {p : PartId} {item : W32} {kind : ℕ} {cause : ℕ} {detail : Option W64} (h : Idle s0 s) :
    Idle s0 (ledgerItem s p item kind cause detail) := by
  unfold ledgerItem
  split
  · exact idle_ledgerEnd h
  · exact idle_ledgerEnd (idle_drawWord h)

theorem idle_landEdit {s0 : State} {p : PartId} {s : State} {e : Edit} (h : Idle s0 s) :
    Idle s0 (landEdit p s e) := by
  unfold landEdit
  extract_lets +onlyGivenNames s1
  have hs1 : Idle s0 s1 := idle_modPart h
  clear_value s1
  split
  · exact idle_dictFinish hs1
  · exact hs1

theorem idle_applyEdits {s0 : State} {s : State} {p : PartId} {ok : Edit → Bool} (h : Idle s0 s) :
    Idle s0 (applyEdits s p ok) := by
  unfold applyEdits
  exact idle_foldl (idle_modPart h) (fun _ _ h2 => idle_landEdit h2)

theorem idle_applySwap {s0 : State} {s : State} {p : PartId} (h : Idle s0 s) :
    Idle s0 (applySwap s p) := by
  unfold applySwap
  split
  · extract_lets +onlyGivenNames s1 q
    have hs1 : Idle s0 s1 := idle_modPart h
    clear_value s1 q
    exact idle_raiseN hs1
  · exact h

theorem idle_tablesEnd {s0 : State} {s : State} {p : PartId} (h : Idle s0 s) :
    Idle s0 (tablesEnd s p) := by
  unfold tablesEnd
  exact idle_applyEdits (idle_applySwap (idle_applyEdits h))

theorem idle_settle {s0 : State} {s : State} {p : PartId} (h : Idle s0 s) :
    Idle s0 (settle s p) := by
  unfold settle
  exact idle_modPart h fun q => by split <;> rfl

theorem idle_doneEvent {s0 : State} {how : ℕ} {p : PartId} {s : State} {n : VeId} (h : Idle s0 s) :
    Idle s0 (doneEvent how p s n) := by
  unfold doneEvent
  exact idle_raiseN h

theorem idle_freeTriggers {s0 : State} {s : State} {p : PartId} (h : Idle s0 s) :
    Idle s0 (freeTriggers s p) := by
  unfold freeTriggers
  split
  · exact idle_modPart (Idle.upd (t:=s) rfl h)
  · exact idle_modPart h

theorem idle_commitDone {s0 : State} {s : State} {pd : Pending} {parts : List PartId} {cause : ℕ} {code : ℕ} {detail : W64} (h : Idle s0 s) :
    Idle s0 (commitDone s pd parts cause code detail) := by
  unfold commitDone
  extract_lets +onlyGivenNames s1
  clear_value s1
  extract_lets +onlyGivenNames s11
  have hs11 : Idle s0 s11 := Idle.upd (t:=s) rfl h
  clear_value s11
  exact idle_foldl hs11 (fun _ _ h4 => idle_ledgerEnd h4)

theorem idle_commitFails {s0 : State} {s : State} {pd : Pending} {cause : ℕ} {code : ℕ} (h : Idle s0 s) :
    Idle s0 (commitFails s pd cause code) := by
  unfold commitFails
  exact idle_commitDone h

theorem idle_blockFails {s0 : State} {s : State} {p : PartId} {k : Fin 8} {b : InBlock} {cause : ℕ} {detail : Option W64} (h : Idle s0 s) :
    Idle s0 (blockFails s p k b cause detail) := by
  unfold blockFails
  exact idle_ledgerItem (idle_modStream h)

theorem idle_dropLoad {s0 : State} {s : State} {p : PartId} {mark : ℕ} {left : ℕ} (h : Idle s0 s) :
    Idle s0 (dropLoad s p mark left) := by
  unfold dropLoad
  exact idle_modPart h

theorem idle_failBlock {s0 : State} {s : State} {p : PartId} {k : Fin 8} {b : InBlock} {cause : ℕ} {detail : Option W64} (h : Idle s0 s) :
    Idle s0 (failBlock s p k b cause detail) := by
  unfold failBlock
  extract_lets +onlyGivenNames s1
  have hs1 : Idle s0 s1 := idle_modStream h
  clear_value s1
  split
  · exact hs1
  · refine idle_blockFails ?_
    split
    · exact idle_dropLoad hs1
    · exact hs1

theorem idle_failPush {s0 : State} {s : State} {p : PartId} {k : Fin 8} {cause : ℕ} {detail : Option W64} (h : Idle s0 s) :
    Idle s0 (failPush s p k cause detail) := by
  unfold failPush
  extract_lets +onlyGivenNames st
  clear_value st
  split
  · exact idle_failBlock h
  · exact idle_blockFails (idle_modStream h)
  · exact h

theorem idle_failPushes {s0 : State} {s : State} {p : PartId} {cause : ℕ} {detail : Option W64} (h : Idle s0 s) :
    Idle s0 (failPushes s p cause detail) := by
  unfold failPushes
  exact idle_foldl h (fun _ _ h2 => idle_failPush h2)

theorem idle_failItems {s0 : State} {s : State} {p : PartId} {cause : ℕ} {detail : Option W64} (h : Idle s0 s) :
    Idle s0 (failItems s p cause detail) := by
  unfold failItems
  refine idle_foldl (idle_failPushes h) ?_
  intro t2 x21 h2
  extract_lets +onlyGivenNames bs t1 t21
  have ht1 : Idle s0 t1 := idle_modStream h2
  have ht21 : Idle s0 t21 := by
    unfold t21
    split
    · exact idle_dropLoad ht1
    · exact ht1
  clear_value bs t1 t21
  exact idle_foldl ht21 (fun _ _ h5 => idle_blockFails h5)

theorem idle_restoreEnd {s0 : State} {s : State} {p : PartId} {r : Restore} {cause : ℕ} {detail : Option W64} (h : Idle s0 s) :
    Idle s0 (restoreEnd s p r cause detail) := by
  unfold restoreEnd
  extract_lets +onlyGivenNames lost
  clear_value lost
  exact idle_settle (idle_ledgerItem (idle_modPart (idle_modStream h)))

theorem idle_fenceEventFree {s0 : State} {s : State} {kind : ℕ} {number : ℕ} (h : Idle s0 s) :
    Idle s0 (fenceEventFree s kind number) := by
  unfold fenceEventFree
  exact idle_fenceEvent (idle_drawNat h)

theorem idle_failCkpt {s0 : State} {s : State} {p : PartId} {cause : ℕ} {detail : Option W64} (h : Idle s0 s) :
    Idle s0 (failCkpt s p cause detail) := by
  unfold failCkpt
  extract_lets +onlyGivenNames s1
  have hs1 : Idle s0 s1 := by
    unfold s1
    split
    · exact idle_settle (idle_ledgerItem (idle_modPart h))
    · exact h
  clear_value s1
  split
  · exact idle_restoreEnd hs1
  · exact hs1

/-! ### The fence of a partition -/

theorem failRun_run (s : State) (p : PartId) (cause : Nat) (detail : W64) : (failRun s p cause detail).parts[p].run = none := by
  unfold failRun
  split
  · assumption
  · extract_lets b s1 s2 s3 s4
    have h2 : s2.parts[p].run = none := congrArg Partition.run (modPart_same s1 p _)
    have h3 : Idle s2 s3 := idle_foldl (idle_freeTriggers (.refl s2)) fun _ _ h => idle_doneEvent h
    have h4 : Idle s2 s4 := idle_tablesEnd h3
    exact ((idle_settle (idle_ledgerEnd h4)).run p).trans h2

theorem failSegment_run (s : State) (p : PartId) (cause : Nat) (detail : W64) : (failSegment s p cause detail).parts[p].run = none := by
  unfold failSegment
  split
  · assumption
  · split
    · split
      · exact failRun_run _ _ _ _
      · exact failRun_run _ _ _ _
    · exact failRun_run _ _ _ _

theorem failJobs_idle (s : State) (p : PartId) (cause : Nat) (detail : Option W64) :
    (failJobs s p cause detail).parts[p].jobs = [] ∧ (failJobs s p cause detail).parts[p].run = none := by
  unfold failJobs
  extract_lets s0 s1 s2
  have h1 : s1.parts[p].run = none := by
    unfold s1
    split
    · exact failSegment_run _ _ _ _
    · exact failSegment_run _ _ _ _
  have h2 : s2.parts[p].run = none := ((idle_failCkpt (.refl s1)).run p).trans h1
  have hs : Idle (modPart s2 p fun q => { q with jobs := [] }) _ := idle_settle (p := p)
    (idle_foldl (l := s2.parts[p].jobs) (.refl (modPart s2 p fun q => { q with jobs := [] })) fun _ j h => idle_ledgerItem (p := p) (item := jobId j) (kind := jobKind j) (cause := cause) (detail := detail) h)
  exact ⟨(hs.jobs p).trans (congrArg Partition.jobs (modPart_same s2 p _)), (hs.run p).trans ((congrArg Partition.run (modPart_same s2 p _)).trans h2)⟩

theorem fencePart_again {s : State} {p : PartId} (h : s.parts[p].fenced = true) : fencePart s p = s := if_pos h

theorem fencePart_ended {s : State} {p : PartId} (h : s.parts[p].fenced = false) :
    (fencePart s p).parts[p].fenced = true ∧ (fencePart s p).parts[p].jobs = [] ∧ (fencePart s p).parts[p].run = none := by
  have h0 := failJobs_idle s p 0x0F03 none
  rw [fencePart, if_neg (ne_true_of_eq_false h)]
  dsimp only
  generalize failJobs s p 0x0F03 none = s1 at h0 ⊢
  have h2 : Idle s1 (failItems s1 p 0x0F03 none) := idle_failItems (.refl s1)
  generalize failItems s1 p 0x0F03 none = s2 at h2 ⊢
  have h3 : ∀ l : List Pending, Idle s2 (l.foldl (fun t d => commitFails t d 0x0F03 0x0008) s2) := fun l => idle_foldl (.refl s2) fun _ _ h => idle_commitFails h
  have h3 := h3 (s2.dict.pending.filter fun d => grpIn s2 p d.grp)
  generalize (s2.dict.pending.filter fun d => grpIn s2 p d.grp).foldl _ s2 = s3 at h3 ⊢
  have h5 := modPart_same s3 p fun q => { q with fenced := true }
  generalize modPart s3 p (fun q => { q with fenced := true }) = s4 at h5 ⊢
  have h4 : Idle s4 (fenceEventFree s4 7 p.val) := idle_fenceEventFree (.refl _)
  generalize fenceEventFree s4 7 p.val = s5 at h4 ⊢
  refine ⟨(h4.fenced p).trans ?_, (h4.jobs p).trans ?_, (h4.run p).trans ?_⟩
  · rw [h5]
  · rw [h5]
    exact (h3.jobs p).trans ((h2.jobs p).trans h0.1)
  · rw [h5]
    exact (h3.run p).trans ((h2.run p).trans h0.2)

/-! ### The fence entries -/

section Entries

variable (s : State) (r : Requester) (u v : Nat) (sunk : Sunk)

theorem singleWrite_port (h : PortId) : singleWrite s r (0x2100 + h.val) u v sunk =
    (if v = 1 then fenceReach (fencePort (endReached s) h 1 (sunkOf sunk (0x200 + h.val))) else s, .done) := by
  have hh : (⟨0x2100 + h.val - 0x2100, by omega⟩ : PortId) = h := Fin.ext (by simp only; omega)
  have hs : 0x200 + (0x2100 + h.val - 0x2100) = 0x200 + h.val := by omega
  rw [singleWrite, if_neg (by omega), if_neg (by omega), dif_neg (by omega), dif_pos ⟨by omega, by omega⟩, hh, hs]

theorem singleWrite_stack (k : StackId) : singleWrite s r (0x4010 + k.val) u v sunk = (if v = 1 then fenceReach (fenceStack s k 4) else s, .done) := by
  have hk : (⟨0x4010 + k.val - 0x4010, by omega⟩ : StackId) = k := Fin.ext (by simp only; omega)
  rw [singleWrite, if_neg (by omega), if_neg (by omega), dif_neg (by omega), dif_neg (by omega), dif_neg (by omega), if_neg (by omega),
    dif_pos ⟨by omega, by omega⟩, hk]

theorem singleWrite_crc (c : CrcId) : singleWrite s r (0x8010 + c.val) u v sunk = (crcFenceWrite s c v, .done) := by
  have hc : (⟨0x8010 + c.val - 0x8010, by omega⟩ : CrcId) = c := Fin.ext (by simp only; omega)
  rw [singleWrite, if_neg (by omega), if_neg (by omega), dif_neg (by omega), dif_neg (by omega), dif_neg (by omega), if_neg (by omega),
    dif_neg (by omega), dif_neg (by omega), dif_neg (by omega), if_neg (by omega), dif_neg (by omega), dif_pos ⟨by omega, by omega⟩, hc]

theorem bankWrite_fence (b : BankId) : bankWrite s r b 9 v = (if v = 1 then fenceReach (fenceBank s b 4) else s, .done) := by
  rw [bankWrite, if_neg (by decide)]
  by_cases hv : v = 1
  · rw [if_pos ⟨rfl, hv⟩, if_pos hv]
  · rw [if_neg (fun h => hv h.2), if_neg (by decide), if_neg hv]

theorem engineWrite_fence (n : VeId) : engineWrite s n 0x60 v sunk = if v = 1 then fenceReach (fenceVe (endReached s) n 1 sunk) else s := by
  rw [engineWrite, if_neg (by decide), if_neg (by decide), if_neg (by decide)]
  by_cases hv : v = 1
  · rw [if_pos ⟨rfl, hv⟩, if_pos hv]
  · rw [if_neg (fun h => hv h.2), if_neg hv]

theorem partWrite_fence (p : PartId) : partWrite s r p 0x73 v = (if v = 1 then fenceReach (fencePart (endReached s) p) else s, .done) := rfl

theorem clockWrite_fence : clockWrite s 0x46 v = fenceReach ((List.range 4).foldl (fun t i => if v.testBit i then fenceLink t i else t) (endReached s)) := rfl

theorem sunkOf_single (h : PortId) (k : Fin 33) : sunkOf [(BitVec.ofNat 10 (0x200 + h.val), k)] (0x200 + h.val) = k.val := by
  have hm : ((BitVec.ofNat 10 (0x200 + h.val)).toNat == 0x200 + h.val) = true := by
    rw [beq_iff_eq, BitVec.toNat_ofNat, Nat.mod_eq_of_lt (by omega)]
  rw [sunkOf, List.find?_cons_of_pos (by exact hm)]
  rfl

end Entries

section Written

variable {s : State} {r : Requester} {ix sub v : Nat} {a : DAcc} {i : Instr} {sunk : Sunk} {f : State → State}

/-- A fence entry, by what its write of 0 and of 1 does. -/
theorem fence_completes (hix : ix < 65536) (hsub : sub < 256) (hi : exec i s = .next (writeAccess s r ix sub a sunk))
    (hg : grpOf (BitVec.ofNat 16 ix) (BitVec.ofNat 8 sub) = none)
    (hw : ∀ t : State, singleWrite t r ix sub v sunk = (if v = 1 then fenceReach (f t) else t, .done)) (h : Serves s r ix sub a v) :
    (v = 0 → Completes i s r ix sub v id) ∧ (v = 1 → Completes i s r ix sub v fun s => fenceReach (f s)) := by
  refine ⟨fun hv => h.completes hix hsub hi hg ((hw _).trans ?_), fun hv => h.completes hix hsub hi hg ((hw _).trans ?_)⟩
  · rw [if_neg (by omega)]
    rfl
  · rw [if_pos hv]

end Written

/-! ### A link -/

theorem idle_markUnreachable {s0 s : State} (h : Idle s0 s) : Idle s0 (markUnreachable s) := by
  unfold markUnreachable
  refine idle_foldl h fun t d ht => ?_
  split
  · exact idle_raiseN (Idle.upd (t := t) rfl ht)
  · exact ht

/-- The ring without one of its links still joins every two dies. -/
theorem arcs_whole : ∀ i : Fin 4, ∀ x ∈ diePairs, (arcLinks (ringPos x.1) (ringPos x.2)).all (fun j => !bit (setBit (0 : BitVec 4) i.val true) j) = true ∨
    (arcLinks (ringPos x.2) (ringPos x.1)).all (fun j => !bit (setBit (0 : BitVec 4) i.val true) j) = true := by decide

theorem cutLink_links (s : State) (i : Nat) : (cutLink s i).fab.links = setBit s.fab.links i true := rfl

theorem cutLink_reachable {s : State} (h : s.fab.links = 0) (i : Fin 4) {x : Nat × Nat} (hx : x ∈ diePairs) : reachable (cutLink s i.val) x.1 x.2 = true := by
  simp only [reachable, cutLink_links, h, Bool.or_eq_true]
  exact arcs_whole i x hx

theorem fenceLink_mem {s : State} (h : s.fab.links = 0) (i : Fin 4) : (fenceLink s i.val).mem = s.mem := by
  have hb : bit s.fab.links i.val = false := by
    rw [h]
    revert i
    decide
  have hcut : (diePairs.any fun x => reachable s x.1 x.2 && !reachable (cutLink s i.val) x.1 x.2) = false := by
    rw [List.any_eq_false]
    intro x hx
    rw [cutLink_reachable h i hx]
    simp
  have hk : fenceLink s i.val = markUnreachable (fenceEventFree (raiseN (cutLink s i.val) 786 (at' 32 4 false.toNat ||| BitVec.ofNat 32 i.val)) 6 i.val) := by
    rw [fenceLink, if_neg (ne_true_of_eq_false hb)]
    change (let cut := diePairs.any fun x => reachable s x.1 x.2 && !reachable (cutLink s i.val) x.1 x.2
      markUnreachable (fenceEventFree (raiseN (if cut then cutHeld ((List.finRange 16).foldl (cutItems s) (cutLink s i.val)) else cutLink s i.val) 786
        (at' 32 4 cut.toNat ||| BitVec.ofNat 32 i.val)) 6 i.val)) = _
    rw [hcut]
    rfl
  rw [hk]
  exact (idle_markUnreachable (idle_fenceEventFree (idle_raiseN (.refl (cutLink s i.val))))).mem

theorem fenceLink_links {s : State} {i : Fin 4} (h : bit s.fab.links i.val = false) (j : Fin 4) :
    bit (fenceLink s i.val).fab.links j.val = (bit s.fab.links j.val || j == i) := by
  rw [solid_links (fenceLink_still h).solid, cutLink_links, bit_setBit _ _ _ _ i.isLt]
  by_cases hj : j = i
  · rw [if_pos (congrArg Fin.val hj), beq_iff_eq.2 hj, Bool.or_true]
  · rw [if_neg (fun hv => hj (Fin.ext hv)), beq_false_of_ne hj, Bool.or_false]

theorem fenceCrc_again {s : State} {u : CrcId} (h : s.crc[u].fenced = true) (x k : Nat) : fenceCrc s u x k = s := if_pos h

/-- A fenced stack, but for what its fence says of it. -/
theorem fenceStack_due {s : State} {i : StackId} (h : s.stk[i].fenced = false) (x : Nat) :
    (fenceStack s i x).stk = s.stk.set i { s.stk[i] with fenced := true, pcFenced := BitVec.allOnes 32, quiet := none } :=
  (fenceStack_reported s i x h).stk

/-- Settles O32: the entries by what their write runs, and each fence by what it leaves of its unit. -/
theorem dictionaryFences : Obligations.DictionaryFences := by
  refine ⟨fun s r a v sunk all => ⟨fun k => ?_, fun b => ?_, fun u => ?_, fun n => ?_, fun h => ?_, fun p => ?_, fun hs => ?_⟩, fun s x k all =>
    ⟨fun i => ⟨fenceStack_again s i x, fun h => ⟨fenceStack_due h x, fenceStack_mem s i x⟩⟩,
      fun b => ⟨fenceBank_again s b x, fun h => ⟨(fenceBank_banks s b x h).1, fenceBank_mem s b x⟩⟩,
      fun n => ⟨fun h => fenceVe_again h x all, fun h _ => (fenceVe_eng h x all n).trans (if_pos rfl)⟩,
      fun h => ⟨fun hf => fencePort_again hf x k, fun hf => fencePort_port hf x k⟩,
      fun p => ⟨fencePart_again, fencePart_ended⟩,
      fun u => ⟨fun h => fenceCrc_again h x k, fun h => fenced_fenceCrc h x k⟩,
      fun i => ⟨fenceLink_again, fenceLink_links, fun h => fenceLink_mem h i⟩⟩⟩
  · exact fence_completes (by omega) (by decide) rfl
      (grpOf_other_none (by omega) (by omega) (by omega) (by omega) (by omega) (by omega) (by omega) _) fun t => singleWrite_stack t r 8 v [] k
  · exact fence_completes (by omega) (by decide) rfl (grpOf_bank_none b (by decide) (by decide)) fun t => (singleWrite_bank t r 9 v [] b).trans (bankWrite_fence t r v b)
  · refine fence_completes (by omega) (by decide) rfl
      (grpOf_other_none (by omega) (by omega) (by omega) (by omega) (by omega) (by omega) (by omega) _)
      (f := fun s => fenceCrc (drawNat (endReached s)).2 u 1 (drawNat (endReached s)).1) fun t => singleWrite_crc t r 6 v [] u
  · refine fence_completes (by omega) (by decide) rfl
      (grpOf_other_none (by omega) (by omega) (by omega) (by omega) (by omega) (by omega) (by omega) _)
      (f := fun s => fenceVe (endReached s) n 1 all) fun t => (singleWrite_engine t r 0x60 v all n).trans ?_
    rw [engineWrite_fence]
  · refine fence_completes (by omega) (by decide) rfl
      (grpOf_other_none (by omega) (by omega) (by omega) (by omega) (by omega) (by omega) (by omega) _)
      (f := fun s => fencePort (endReached s) h 1 sunk.val) fun t => (singleWrite_port t r 5 v _ h).trans ?_
    rw [sunkOf_single]
  · exact fence_completes (by omega) (by decide) rfl (grpOf_part_none p (by decide) (by decide))
      (f := fun s => fencePart (endReached s) p) fun t => (singleWrite_part t r 0x73 v [] p).trans (partWrite_fence t r v p)
  · refine hs.completes (by decide) (by decide) rfl (by decide) ?_
    rw [singleWrite_clock, clockWrite_fence]

end Sys2Proof.Machine

/-! PROOF. The boot steps: O59. -/
namespace Sys2Proof.Machine

/-! ### The boot steps -/

section Steps

variable {s : State} {f : BootFindings} (hd : dead s = false) (hs : s.boot.state < 7)
include hd hs

/-- A boot step of a device that boots. -/
theorem bootStepOp_running : bootStepOp s f =
    if s.boot.step = 1 then
      let s1 := { s with boot := { s.boot with pllLock := f.locked &&& 0x3FFFFFF &&& ~~~s.boot.pllGone } }
      if s1.boot.pllLock = 0x3FFFFFF then startUp s1 else s1
    else if s.boot.step = 2 then
      let s1 := { s with
        seq := .ofFn fun n => { s.seq[n] with st := .recovery, back := if bit f.selfTestFail n.val then .failedSelfTest else .unbound }
        sv := { s.sv with r := { Regs.start with pc := 0 }, st := .running } }
      bootAt s1 3 2
    else if s.boot.step = 3 then
      let s1 := romData s
      if s.boot.bootsel = 0 then bootAt s1 4 3
      else if s.boot.bootsel = 1 then enterRecovery (showSlots s1)
      else { showSlots s1 with boot := { (showSlots s1).boot with state := 8 }, ports := s.ports.map fun t => { t with link := 0, width := 0, speed := 0 } }
    else if s.boot.step = 4 then bootFlash s
    else if s.boot.step = 5 then bootPatch s f.selfTestFail
    else if s.boot.step = 6 then bootDies s f.dieFail f.crcFail
    else if s.boot.step = 7 then bootStacks s f.stackFail f.temp f.volt
    else if s.boot.step = 8 then bootOpen s f.ms
    else s := by
  have hno : ¬ (dead s || decide (7 ≤ s.boot.state)) = true := by
    rw [hd, Bool.false_or, decide_eq_true_eq]
    omega
  exact if_neg hno

end Steps

/-! #### Step 1 -/

/-- Step 1 with every PLL locked. -/
theorem boot_locked {s : State} {f : BootFindings} (hd : dead s = false) (hs : s.boot.state < 7) (h : s.boot.step = 1)
    (hl : f.locked &&& 0x3FFFFFF &&& ~~~s.boot.pllGone = 0x3FFFFFF) : bootStepOp s f = { s with
      boot := { s.boot with pllLock := 0x3FFFFFF, step := 2, state := 1 }
      seq := s.seq.map fun c => { c with st := .recovery }, sv := { s.sv with st := .recovery }
      ports := if s.boot.bootsel.toNat < 2 then s.ports.map fun t => if t.link = 0 then { t with link := 1 } else t else s.ports } := by
  rw [bootStepOp_running hd hs, if_pos h, hl]
  exact if_pos rfl

theorem boot_unlocked {s : State} {f : BootFindings} (hd : dead s = false) (hs : s.boot.state < 7) (h : s.boot.step = 1)
    (hl : f.locked &&& 0x3FFFFFF &&& ~~~s.boot.pllGone ≠ 0x3FFFFFF) :
    bootStepOp s f = { s with boot := { s.boot with pllLock := f.locked &&& 0x3FFFFFF &&& ~~~s.boot.pllGone } } := by
  rw [bootStepOp_running hd hs, if_pos h]
  exact if_neg hl

/-! #### Step 3 -/

theorem cellGet_cellsSet_below {m : List Host.Cell} (hm : cellsWf m = true) {a lo : Nat} (h : a < lo) (l : List Byte) :
    cellGet (cellsSet m lo l) a = cellGet m a := by
  rw [cellGet_cellsSet hm, dif_neg (by omega)]

theorem romData_ram {s : State} (h : Inv s) {a : Nat} (ha : a < 0xF0000) : cellGet (romData s).mem.ram a = cellGet s.mem.ram a := by
  unfold romData
  generalize (List.range 4096).map _ = l
  exact cellGet_cellsSet_below ((Memory.wf_iff s.mem).1 h).2 ha _

theorem enterRecovery_frame (s : State) : (enterRecovery s).boot = { s.boot with state := 7, slot := 2 } ∧ (enterRecovery s).mem = s.mem ∧
    (enterRecovery s).ports = s.ports ∧ (enterRecovery s).parts = s.parts := by
  unfold enterRecovery
  extract_lets s1
  split
  · exact ⟨rfl, rfl, rfl, rfl⟩
  · exact ⟨rfl, rfl, rfl, rfl⟩

theorem romData_frame (s : State) : ∃ r n, romData s = { s with mem := { s.mem with ram := r }, free := n } := by
  unfold romData
  generalize s.free + 4096 = n
  exact ⟨_, n, rfl⟩

/-- What step 3 does of BOOTSEL. -/
def sampled (s : State) : State :=
  if s.boot.bootsel = 0 then bootAt (romData s) 4 3
  else if s.boot.bootsel = 1 then enterRecovery (showSlots (romData s))
  else { showSlots (romData s) with boot := { (showSlots (romData s)).boot with state := 8 }, ports := s.ports.map fun t => { t with link := 0, width := 0, speed := 0 } }

theorem boot_sampled (s : State) :
    (s.boot.bootsel = 0 → (sampled s).boot = { s.boot with step := 4, state := 3 } ∧ (sampled s).ports = s.ports) ∧
    (s.boot.bootsel ≠ 0 → (sampled s).boot.fwA = (if slotVerdict s false = 0 then at' 32 24 (le s.boot.flashA 4 1) ||| at' 32 16 (le s.boot.flashA 5 1) else 0) ∧
      (sampled s).boot.fwB = (if slotVerdict s true = 0 then at' 32 24 (le s.boot.flashB 4 1) ||| at' 32 16 (le s.boot.flashB 5 1) else 0)) ∧
    (s.boot.bootsel = 1 → (sampled s).boot = { s.boot with state := 7, slot := 2, fwA := (sampled s).boot.fwA, fwB := (sampled s).boot.fwB } ∧
      (sampled s).ports = s.ports) ∧
    (s.boot.bootsel ≠ 0 → s.boot.bootsel ≠ 1 → (sampled s).boot = { s.boot with state := 8, fwA := (sampled s).boot.fwA, fwB := (sampled s).boot.fwB } ∧
      ∀ h : PortId, (sampled s).ports[h].link = 0) ∧
    (sampled s).mem = { s.mem with ram := (sampled s).mem.ram } ∧
    (Inv s → ∀ a, a < 0xF0000 → cellGet (sampled s).mem.ram a = cellGet s.mem.ram a) ∧ (sampled s).parts = s.parts := by
  have hrom : Inv s → ∀ a, a < 0xF0000 → cellGet (romData s).mem.ram a = cellGet s.mem.ram a := fun hi a ha => romData_ram hi ha
  obtain ⟨r, n, hr⟩ := romData_frame s
  have hmem : (sampled s).mem = (romData s).mem ∧ (sampled s).parts = s.parts := by
    unfold sampled
    rw [hr]
    split
    · exact ⟨rfl, rfl⟩
    · split
      · obtain ⟨-, hm, -, hp⟩ := enterRecovery_frame (showSlots { s with mem := { s.mem with ram := r }, free := n })
        exact ⟨hm, hp⟩
      · exact ⟨rfl, rfl⟩
  have hram : (romData s).mem = { s.mem with ram := (romData s).mem.ram } := by rw [hr]
  refine ⟨fun h => ?_, fun h => ?_, fun h => ?_, fun h h1 => ?_, ?_, fun hi a ha => ?_, hmem.2⟩
  · rw [sampled, if_pos h, hr]
    exact ⟨rfl, rfl⟩
  · rw [sampled, if_neg h, hr]
    split
    · rw [(enterRecovery_frame _).1]
      exact ⟨rfl, rfl⟩
    · exact ⟨rfl, rfl⟩
  · obtain ⟨hb, -, hp, -⟩ := enterRecovery_frame (showSlots (romData s))
    rw [sampled, if_neg (by rw [h]; decide), if_pos h, hb, hp, hr]
    exact ⟨rfl, rfl⟩
  · rw [sampled, if_neg h, if_neg h1, hr]
    exact ⟨rfl, fun p => congrArg Port.link (Vector.getElem_map _ _)⟩
  · rw [hmem.1]
    exact hram
  · rw [hmem.1]
    exact hrom hi a ha

/-! #### Step 4 -/

theorem imageVerdict_le (b : List Byte) : imageVerdict b ≤ 5 := by
  unfold imageVerdict
  split_ifs <;> omega

theorem slotVerdict_le (s : State) (second : Bool) : slotVerdict s second ≤ 5 := by
  unfold slotVerdict
  split
  · omega
  · exact imageVerdict_le _

theorem failWord (a b : Nat) (ha : a ≤ 5) (hb : b ≤ 5) : (at' 32 8 b ||| BitVec.ofNat 32 a).toNat = b * 256 + a := by
  interval_cases a <;> interval_cases b <;> rfl

/-! #### Steps 6 and 7 -/

/-- The bytes of a memory from which some are dropped. -/
theorem cellGet_filter {m : List Host.Cell} (h : cellsWf m = true) (ok : Nat → Bool) (a : Nat) :
    cellGet (m.filter fun c => ok c.1) a = if ok a then cellGet m a else 0 := by
  induction m with
  | nil => exact (ite_self _).symm
  | cons p r ih =>
    obtain ⟨x, v⟩ := p
    obtain ⟨-, hf, hr⟩ := (cellsWf_cons x v r).1 h
    have hbelow : ∀ b, b ≤ x → cellGet (r.filter fun c => ok c.1) b = 0 := fun b hb =>
      cellGet_below (b := x + 1) (fun q hq => hf q (List.mem_of_mem_filter hq)) (by omega)
    rw [List.filter_cons]
    by_cases hx : ok x = true
    · rw [if_pos hx, cellGet, cellGet, ih hr]
      by_cases hlt : a < x
      · rw [if_pos hlt, if_pos hlt, ite_self]
      · rw [if_neg hlt, if_neg hlt]
        by_cases ha : a = x
        · rw [if_pos ha, if_pos ha, ha, if_pos hx]
        · rw [if_neg ha, if_neg ha]
    · rw [if_neg hx, cellGet]
      by_cases hlt : a < x
      · rw [if_pos hlt, hbelow a (by omega), ite_self]
      · rw [if_neg hlt]
        by_cases ha : a = x
        · rw [if_pos ha, hbelow a (by omega), ha, if_neg hx]
        · rw [if_neg ha, ih hr]

theorem spWord_byte (a : Nat) : spWord (a / 16) = decide (spLo ≤ a ∧ a < spHi) := by
  have hlo : spLo = 16 * (spLo / 16) := by decide
  have hhi : spHi = 16 * (spHi / 16) := by decide
  unfold spWord
  rw [decide_eq_decide]
  generalize spLo / 16 = l at hlo
  generalize spHi / 16 = h at hhi
  rw [hlo, hhi]
  omega

theorem fenceVe_crc (s : State) (n : VeId) (r : Nat) (sunk : Sunk) : (fenceVe s n r sunk).crc = s.crc := by
  by_cases h : s.eng[n].fenced = 0
  · exact (solid_crc (fenceVe_still h r sunk).solid).trans rfl
  · rw [fenceVe_again h]

theorem fencePort_crc (s : State) (h : PortId) (why sunk : Nat) : (fencePort s h why sunk).crc = s.crc := by
  cases hf : s.ports[h].fenced with
  | true => rw [fencePort_again hf]
  | false => exact (solid_crc (fencePort_still hf why sunk).solid).trans rfl

theorem fenceStack_crc (s : State) (i : StackId) (r : Nat) : (fenceStack s i r).crc = s.crc := by
  cases hf : s.stk[i].fenced with
  | true => rw [fenceStack_again s i r hf]
  | false => exact (fenceStack_reported s i r hf).crc

theorem fenceLink_crc (s : State) (i : Nat) : (fenceLink s i).crc = s.crc := by
  cases h : bit s.fab.links i with
  | true => rw [fenceLink_again h]
  | false => exact (solid_crc (fenceLink_still h).solid).trans rfl

theorem fenceDie_again {s : State} {d : DieId} (h : bit s.dieFenced d.val = true) (sunk : Sunk) : fenceDie s d sunk = s := if_pos h

theorem fenceDie_crc (s : State) {d : DieId} (hd : d ≠ 0) (sunk : Sunk) : (fenceDie s d sunk).crc = s.crc := by
  unfold fenceDie
  split
  · rfl
  · extract_lets s0 s1 s2 s3 s4 s5 x s6
    have h1 : s1.crc = s0.crc := foldl_crc _ (fun t p => by
      split
      · exact solid_crc (still_failSegment (still_stopSlots (.refl t))).solid
      · rfl) _ _
    have h2 : s2.crc = s1.crc := foldl_crc _ (fun t n => fenceVe_crc t n 4 sunk) _ _
    have h3 : s3.crc = s2.crc := foldl_crc _ (fun t b => solid_crc (still_fenceBank (.refl t)).solid) _ _
    have h4 : s4.crc = s3.crc := foldl_crc _ (fun t k => fenceStack_crc t k 6) _ _
    have h5 : s5.crc = s4.crc := fencePort_crc _ _ _ _
    have h6 : s6.crc = s5.crc := (fenceLink_crc _ _).trans (fenceLink_crc _ _)
    exact (solid_crc (still_fenceEventFree (.refl s6)).solid).trans (h6.trans (h5.trans (h4.trans (h3.trans (h2.trans h1)))))

/-- The failing units are fenced, each once. -/
theorem fenceCrcs_crc {which : CrcId → Bool} {low : State → Nat} (l : List CrcId) (s : State) (u : CrcId) (h : s.crc[u].fenced = true ∨ (u ∈ l ∧ which u = true)) :
    (l.foldl (fun t u => if which u then fenceCrc (drawNat t).2 u 2 (low t) else t) s).crc[u].fenced = true := by
  induction l generalizing s with
  | nil => exact h.elim id fun hu => absurd hu.1 List.not_mem_nil
  | cons v l ih =>
    have hfence : (fenceCrc (drawNat s).2 v 2 (low s)).crc[v].fenced = true ∧ (s.crc[u].fenced = true → (fenceCrc (drawNat s).2 v 2 (low s)).crc[u].fenced = true) := by
      cases hv : (drawNat s).2.crc[v].fenced with
      | true =>
        rw [fenceCrc_again hv]
        exact ⟨hv, id⟩
      | false =>
        refine ⟨fenced_fenceCrc hv 2 _, fun hu => ?_⟩
        by_cases huv : v = u
        · exact huv ▸ fenced_fenceCrc hv 2 _
        · rw [fenceCrc_crc hv, updV_other _ _ _ _ huv]
          exact hu
    refine ih _ ?_
    dsimp only
    by_cases hw : which v = true
    · rw [if_pos hw]
      rcases h with hu | ⟨hu, hw'⟩
      · exact .inl (hfence.2 hu)
      · rcases List.mem_cons.1 hu with rfl | hu
        · exact .inl hfence.1
        · exact .inr ⟨hu, hw'⟩
    · rw [if_neg hw]
      rcases h with hu | ⟨hu, hw'⟩
      · exact .inl hu
      · rcases List.mem_cons.1 hu with rfl | hu
        · exact absurd hw' hw
        · exact .inr ⟨hu, hw'⟩

/-- The failing dies are fenced, each once. -/
theorem fenceDies_dieFenced {which : DieId → Bool} (l : List DieId) (h0 : ∀ d ∈ l, d ≠ 0) (s : State) (d : DieId)
    (h : bit s.dieFenced d.val = true ∨ (d ∈ l ∧ which d = true)) :
    bit (l.foldl (fun t d => if which d then fenceDie t d [] else t) s).dieFenced d.val = true := by
  induction l generalizing s with
  | nil => exact h.elim id fun hu => absurd hu.1 List.not_mem_nil
  | cons e l ih =>
    have he := h0 e List.mem_cons_self
    refine ih (fun d hd => h0 d (List.mem_cons_of_mem _ hd)) _ ?_
    dsimp only
    have hfence : bit (fenceDie s e []).dieFenced e.val = true ∧ (bit s.dieFenced d.val = true → bit (fenceDie s e []).dieFenced d.val = true) := by
      cases hf : bit s.dieFenced e.val with
      | true =>
        rw [fenceDie_again hf]
        exact ⟨hf, id⟩
      | false =>
        rw [(fenceDie_fenced he hf []).1]
        exact ⟨(bit_setBit _ _ _ _ e.isLt).trans (if_pos rfl), bit_setBit_of_bit _ _ _⟩
    rcases h with hd | ⟨hd, hw⟩
    · left
      split
      · exact hfence.2 hd
      · exact hd
    · rcases List.mem_cons.1 hd with rfl | hd
      · left
        rw [if_pos hw]
        exact hfence.1
      · exact .inr ⟨hd, hw⟩

theorem fenceDies_crc {which : DieId → Bool} (l : List DieId) (h0 : ∀ d ∈ l, d ≠ 0) (s : State) :
    (l.foldl (fun t d => if which d then fenceDie t d [] else t) s).crc = s.crc := by
  induction l generalizing s with
  | nil => rfl
  | cons e l ih =>
    refine (ih (fun d hd => h0 d (List.mem_cons_of_mem _ hd)) _).trans ?_
    dsimp only
    split
    · exact fenceDie_crc s (h0 e List.mem_cons_self) []
    · rfl

/-! Step 7: the stacks, one after another. -/

/-- A stack's turn in step 7. -/
def stackTurn (fail : Byte) (temp : Byte) (volt : BitVec 10) (t : State) (i : StackId) : State :=
  if t.stk[i].fenced then t else trainStack temp volt (bit fail i.val) t i

theorem bootStacks_eq (s : State) (fail temp : Byte) (volt : BitVec 10) :
    bootStacks s fail temp volt = bootAt ((List.finRange 8).foldl (stackTurn fail temp volt) (zeroWords s fun w => !spWord w)) 8 5 := rfl

section Stacks

variable (fail temp : Byte) (volt : BitVec 10) (t : State) (i : StackId)

theorem stackTurn_mem : (stackTurn fail temp volt t i).mem = t.mem := by
  unfold stackTurn trainStack
  split
  · rfl
  · split
    · exact fenceStack_mem _ _ _
    · rfl

theorem stackTurn_failed (hf : t.stk[i].fenced = false) (hb : bit fail i.val = true) : stackTurn fail temp volt t i = fenceStack t i 5 := by
  rw [stackTurn, if_neg (ne_true_of_eq_false hf), trainStack, if_pos hb]

theorem stackTurn_trained (hf : t.stk[i].fenced = false) (hb : bit fail i.val = false) : stackTurn fail temp volt t i = modStack t i fun k =>
    { k with ready := true, temp := temp, vddq := volt.toNat, band := .replicate 4 0
             calRec := k.calRec.map fun r => newRecord r (timeOn t (dieOfStack i)) 0 volt.toNat temp.toNat } := by
  rw [stackTurn, if_neg (ne_true_of_eq_false hf), trainStack, if_neg (ne_true_of_eq_false hb)]

theorem stackTurn_other {k : StackId} (h : i ≠ k) : (stackTurn fail temp volt t i).stk[k] = t.stk[k] := by
  cases hf : t.stk[i].fenced with
  | true => rw [stackTurn, if_pos hf]
  | false =>
    cases hb : bit fail i.val with
    | true =>
      rw [stackTurn_failed _ _ _ _ _ hf hb, fenceStack_due hf]
      exact Vector.getElem_set_ne _ _ (fun he => h (Fin.ext he))
    | false =>
      rw [stackTurn_trained _ _ _ _ _ hf hb]
      exact modStack_other _ _ _ _ h

theorem stackTurn_same (hf : t.stk[i].fenced = false) : (bit fail i.val = false → (stackTurn fail temp volt t i).stk[i].ready = true ∧
      (stackTurn fail temp volt t i).stk[i].temp = temp ∧ (stackTurn fail temp volt t i).stk[i].vddq = volt.toNat) ∧
    (bit fail i.val = true → (stackTurn fail temp volt t i).stk[i].fenced = true) := by
  refine ⟨fun hb => ?_, fun hb => ?_⟩
  · rw [stackTurn_trained _ _ _ _ _ hf hb, modStack_same]
    exact ⟨rfl, rfl, rfl⟩
  · rw [stackTurn_failed _ _ _ _ _ hf hb, fenceStack_due hf]
    exact congrArg Stack.fenced (Vector.getElem_set_self _)

theorem stackTurn_again (hf : t.stk[i].fenced = true) : stackTurn fail temp volt t i = t := if_pos hf

theorem stackTurns_mem (l : List StackId) : (l.foldl (stackTurn fail temp volt) t).mem = t.mem := by
  induction l generalizing t with
  | nil => rfl
  | cons i l ih => exact (ih _).trans (stackTurn_mem fail temp volt t i)

theorem stackTurns_other (l : List StackId) {k : StackId} (h : k ∉ l) : (l.foldl (stackTurn fail temp volt) t).stk[k] = t.stk[k] := by
  induction l generalizing t with
  | nil => rfl
  | cons i l ih =>
    exact (ih _ fun hk => h (List.mem_cons_of_mem _ hk)).trans (stackTurn_other fail temp volt t i fun hk => h (hk ▸ List.mem_cons_self))

/-- Each stack is trained in its own turn. -/
theorem stackTurns_stk (l : List StackId) (hl : l.Nodup) {k : StackId} (hk : k ∈ l) :
    ∃ u : State, u.stk[k] = t.stk[k] ∧ (l.foldl (stackTurn fail temp volt) t).stk[k] = (stackTurn fail temp volt u k).stk[k] := by
  induction l generalizing t with
  | nil => exact absurd hk List.not_mem_nil
  | cons i l ih =>
    obtain ⟨hi, hl⟩ := List.nodup_cons.1 hl
    rcases List.mem_cons.1 hk with rfl | hk'
    · exact ⟨t, rfl, stackTurns_other fail temp volt _ l hi⟩
    · have hik : i ≠ k := fun h => hi (h ▸ hk')
      obtain ⟨u, hu, h⟩ := ih (stackTurn fail temp volt t i) hl hk'
      exact ⟨u, hu.trans (stackTurn_other fail temp volt t i hik), h⟩

end Stacks

theorem bootAt_mem (s : State) (k n : Nat) : (bootAt s k n).mem = s.mem := rfl

theorem bootAt_stk (s : State) (k n : Nat) : (bootAt s k n).stk = s.stk := rfl

theorem bootStacks_stks (s : State) (fail temp : Byte) (volt : BitVec 10) : (bootStacks s fail temp volt).stk =
    ((List.finRange 8).foldl (stackTurn fail temp volt) (zeroWords s fun w => !spWord w)).stk := by
  rw [bootStacks_eq, bootAt_stk]

/-- What step 7 leaves of a stack. -/
theorem bootStacks_stk (s : State) (fail temp : Byte) (volt : BitVec 10) (k : StackId) :
    (s.stk[k].fenced = false → bit fail k.val = false → (bootStacks s fail temp volt).stk[k].ready = true ∧
      (bootStacks s fail temp volt).stk[k].temp = temp ∧ (bootStacks s fail temp volt).stk[k].vddq = volt.toNat) ∧
    (s.stk[k].fenced = true ∨ bit fail k.val = true → (bootStacks s fail temp volt).stk[k].fenced = true) := by
  obtain ⟨u, hu, h⟩ := stackTurns_stk fail temp volt (zeroWords s fun w => !spWord w) (List.finRange 8) (List.nodup_finRange 8) (List.mem_finRange k)
  have hu : u.stk[k] = s.stk[k] := hu
  rw [bootStacks_stks, h, ← hu]
  cases hf : u.stk[k].fenced with
  | true =>
    rw [stackTurn_again _ _ _ _ _ hf]
    exact ⟨fun h => (nomatch h), fun _ => hf⟩
  | false =>
    obtain ⟨h1, h2⟩ := stackTurn_same fail temp volt u k hf
    exact ⟨fun _ => h1, fun h => h2 (h.resolve_left (by decide))⟩

theorem bootStacks_mem (s : State) (fail temp : Byte) (volt : BitVec 10) : (bootStacks s fail temp volt).mem = (zeroWords s fun w => !spWord w).mem := by
  rw [bootStacks_eq, bootAt_mem, stackTurns_mem]

theorem zeroWords_cells (s : State) (which : Nat → Bool) :
    (zeroWords s which).mem.cells = s.mem.cells.filter fun c => (fun a => !which (a / 16)) c.1 := rfl

theorem zeroWords_byte {s : State} (h : Inv s) (which : Nat → Bool) (a : Nat) :
    cellGet (zeroWords s which).mem.cells a = if which (a / 16) then 0 else cellGet s.mem.cells a := by
  rw [zeroWords_cells, cellGet_filter ((Memory.wf_iff s.mem).1 h).1 fun a => !which (a / 16)]
  generalize which (a / 16) = b
  cases b with
  | true => rfl
  | false => rfl

theorem spWord_iff (w : Nat) : spWord w = true ↔ spLo ≤ 16 * w ∧ 16 * w < spHi := decide_eq_true_iff

theorem slotVerdict_boot {s t : State} (h : t.boot.flashA = s.boot.flashA) (h' : t.boot.flashB = s.boot.flashB) (second : Bool) :
    slotVerdict t second = slotVerdict s second := by
  rw [slotVerdict, slotVerdict, h, h']

section Flash

variable {s : State}

/-- Step 4 with slot A accepted. -/
theorem bootFlash_first (h : slotVerdict s false = 0) : (bootFlash s).boot.slot = 0 ∧ (bootFlash s).boot.step = 5 ∧ (bootFlash s).boot.state = 3 ∧
    (bootFlash s).mem = { s.mem with ram := cellsSet s.mem.ram 0 (imageBody s.boot.flashA) } := by
  unfold bootFlash
  extract_lets a b s1
  rw [if_pos h]
  exact ⟨rfl, rfl, rfl, rfl⟩

/-- Step 4 with slot B as the second choice. -/
theorem bootFlash_second (ha : slotVerdict s false ≠ 0) (hb : slotVerdict s true = 0) : (bootFlash s).boot.slot = 1 ∧ (bootFlash s).boot.step = 5 ∧
    (bootFlash s).boot.fail.toNat = slotVerdict s false ∧ (bootFlash s).mem.ram = cellsSet s.mem.ram 0 (imageBody s.boot.flashB) := by
  have hle := slotVerdict_le s false
  unfold bootFlash
  extract_lets a b s1
  rw [if_neg ha, if_pos hb]
  obtain ⟨u, hu⟩ := exists_eq (a' := bootAt (loadBody { s1 with boot := { s1.boot with slot := 1, fail := BitVec.ofNat 32 a } }) 5 3)
  have hr := raiseN_reported u 730 (BitVec.ofNat 32 a)
  rw [← hu, hr.boot, hr.mem, hu]
  exact ⟨rfl, rfl, Nat.mod_eq_of_lt (show slotVerdict s false < 2 ^ 32 by omega), rfl⟩

/-- Step 4 with both slots refused. -/
theorem bootFlash_none (ha : slotVerdict s false ≠ 0) (hb : slotVerdict s true ≠ 0) : (bootFlash s).boot.state = 7 ∧ (bootFlash s).boot.slot = 2 ∧
    (bootFlash s).mem = s.mem ∧ (bootFlash s).boot.fail.toNat = slotVerdict s true * 256 + slotVerdict s false := by
  unfold bootFlash
  extract_lets a b s1
  rw [if_neg ha, if_neg hb]
  obtain ⟨hboot, hmem, -⟩ := enterRecovery_frame { s1 with boot := { s1.boot with fail := at' 32 8 b ||| BitVec.ofNat 32 a } }
  rw [hboot, hmem]
  exact ⟨rfl, rfl, rfl, failWord _ _ (slotVerdict_le s false) (slotVerdict_le s true)⟩

end Flash

/-- The state in which step 5 fences the engines that failed start-up. -/
def patched (s : State) (failed : W64) : State :=
  let im := bootImage s
  let words (o n : Nat) : List W32 := (List.range n).map fun i => BitVec.ofNat 32 (le im (patchOff im + o + 4 * i) 4)
  let bad (n : VeId) : Bool := bit failed n.val || s.seq[n].back == .failedSelfTest
  { s with
    ls := { s.ls with patchId := BitVec.ofNat 32 (le im 0x14 4), patchUsed := BitVec.ofNat 8 (le im 0x18 2), patchMatch := words 0 16, patchWords := words 64 128 }
    seq := .ofFn fun n => { s.seq[n] with st := if bad n then .failedSelfTest else .unbound, back := .unbound }
    fab := { s.fab with remap := true, remapDue := false }
    sv := { s.sv with r := { s.sv.r with pc := BitVec.ofNat 40 (le im 0xC 4) }, icache := [] }
    boot := { s.boot with fwMajor := BitVec.ofNat 8 (le im 4 1), fwMinor := BitVec.ofNat 8 (le im 5 1), entry := BitVec.ofNat 32 (le im 0xC 4), warm := BitVec.ofNat 32 (le im 0x10 4) } }

theorem bootPatch_eq (s : State) (failed : W64) : bootPatch s failed = bootAt (((List.finRange 64).filter fun n => bit failed n.val || s.seq[n].back == .failedSelfTest).foldl
    (fun t n => fenceVe t n 3 []) (patched s failed)) 6 4 := rfl

/-- Fences of engines leave the patch set, REMAP and the supervisor alone. -/
theorem fenceVes_patch (l : List VeId) (s : State) : (l.foldl (fun t n => fenceVe t n 3 []) s).fab.remap = s.fab.remap ∧
    (l.foldl (fun t n => fenceVe t n 3 []) s).sv = s.sv ∧
    { (l.foldl (fun t n => fenceVe t n 3 []) s).ls with dictRequest := false, fenceNotice := false } = { s.ls with dictRequest := false, fenceNotice := false } := by
  induction l generalizing s with
  | nil => exact ⟨rfl, rfl, rfl⟩
  | cons n l ih =>
    obtain ⟨h1, h2, h3⟩ := ih (fenceVe s n 3 [])
    by_cases h : s.eng[n].fenced = 0
    · have hk := (fenceVe_still h 3 []).solid
      exact ⟨h1.trans ((solid_remap hk).trans rfl), h2.trans ((solid_sv hk).trans rfl), h3.trans ((solid_ls hk).trans rfl)⟩
    · rw [fenceVe_again h] at h1 h2 h3
      rw [List.foldl_cons, fenceVe_again h]
      exact ⟨h1, h2, h3⟩

/-- What step 5 leaves. -/
theorem bootPatch_due (s : State) (failed : W64) : (bootPatch s failed).boot.step = 6 ∧ (bootPatch s failed).boot.state = 4 ∧
    (bootPatch s failed).fab.remap = true ∧ (bootPatch s failed).sv.r.pc = BitVec.ofNat 40 (le (bootImage s) 0xC 4) ∧
    (bootPatch s failed).ls.patchId = BitVec.ofNat 32 (le (bootImage s) 0x14 4) ∧ (bootPatch s failed).ls.patchMatch.length = 16 ∧
    (bootPatch s failed).ls.patchWords.length = 128 ∧
    ∀ n : VeId, (bit failed n.val = true ∨ s.seq[n].back = .failedSelfTest) → (bootPatch s failed).eng[n].fenced ≠ 0 := by
  rw [bootPatch_eq]
  obtain ⟨l, hl⟩ := exists_eq (a' := (List.finRange 64).filter fun n => bit failed n.val || s.seq[n].back == .failedSelfTest)
  have hmem : ∀ n : VeId, (bit failed n.val = true ∨ s.seq[n].back = .failedSelfTest) → n ∈ l := fun n hn => by
    rw [hl, List.mem_filter, Bool.or_eq_true, beq_iff_eq]
    exact ⟨List.mem_finRange n, hn⟩
  rw [← hl]
  obtain ⟨hremap, hsv, hls⟩ := fenceVes_patch l (patched s failed)
  have heng : ∀ n ∈ l, (l.foldl (fun t n => fenceVe t n 3 []) (patched s failed)).eng[n].fenced ≠ 0 := fun n hn =>
    fenceVes_fenced (by decide) [] l _ hn
  generalize l.foldl (fun t n => fenceVe t n 3 []) (patched s failed) = u at hremap hsv hls heng ⊢
  refine ⟨rfl, rfl, hremap, congrArg (fun k => k.r.pc) hsv, congrArg Lockstep.patchId hls, ?_, ?_, fun n hn => heng n (hmem n hn)⟩
  · refine (congrArg (fun k => k.patchMatch.length) hls).trans ?_
    exact List.length_map _
  · refine (congrArg (fun k => k.patchWords.length) hls).trans ?_
    exact List.length_map _

/-- Step 6 before its dies: the scratchpad zeroed, the failing CRC units fenced. -/
def unitsTested (s : State) (units : W16) : State :=
  (List.finRange 16).foldl (fun t u => if bit units u.val then fenceCrc (drawNat t).2 u 2 (at' 32 20 ((drawNat t).1 % 4)).toNat else t) (zeroWords s spWord)

theorem bootDies_eq (s : State) (dies : BitVec 4) (units : W16) : bootDies s dies units =
    bootAt (([1, 2, 3] : List DieId).foldl (fun t d => if bit dies d.val then fenceDie t d [] else t) (unitsTested s units)) 7 5 := rfl

theorem ones_of_zero {n : Nat} (x : Nat) : bit (0 : BitVec n) x = false := by
  exact Nat.zero_testBit x

/-- Step 6 where nothing fails. -/
theorem bootDies_good (s : State) : bootDies s 0 0 = bootAt (zeroWords s spWord) 7 5 := by
  have h1 : unitsTested s 0 = zeroWords s spWord := by
    rw [unitsTested]
    generalize zeroWords s spWord = t
    generalize List.finRange 16 = l
    induction l with
    | nil => rfl
    | cons u l ih => rw [List.foldl_cons, if_neg (by rw [ones_of_zero]; decide), ih]
  rw [bootDies_eq, h1]
  generalize zeroWords s spWord = t
  generalize ([1, 2, 3] : List DieId) = l
  refine congrArg (fun t => bootAt t 7 5) ?_
  induction l with
  | nil => rfl
  | cons d l ih => rw [List.foldl_cons, if_neg (by rw [ones_of_zero]; decide), ih]

theorem bootDies_boot (s : State) (dies : BitVec 4) (units : W16) : (bootDies s dies units).boot.step = 7 ∧ (bootDies s dies units).boot.state = 5 := ⟨rfl, rfl⟩

theorem bootDies_crc (s : State) (dies : BitVec 4) (units : W16) (u : CrcId) (h : bit units u.val = true) : (bootDies s dies units).crc[u].fenced = true := by
  have hk : (bootDies s dies units).crc = (unitsTested s units).crc := by
    rw [bootDies_eq]
    exact fenceDies_crc (which := fun d => bit dies d.val) [1, 2, 3] (by decide) _
  rw [hk]
  exact fenceCrcs_crc (which := fun u => bit units u.val) _ _ u (.inr ⟨List.mem_finRange u, h⟩)

theorem bootDies_dieFenced (s : State) (dies : BitVec 4) (units : W16) (d : DieId) (hd : d ≠ 0) (h : bit dies d.val = true) :
    bit (bootDies s dies units).dieFenced d.val = true := by
  rw [bootDies_eq]
  refine fenceDies_dieFenced (which := fun d => bit dies d.val) [1, 2, 3] (by decide) _ d (.inr ⟨?_, h⟩)
  revert hd
  clear h
  revert d
  decide

/-- Step 8 with the dictionary open. -/
theorem bootOpen_reported (s : State) (ms : W32) : Reported { s with
    ev := { s.ev with started := true }, dict := { s.dict with isOpen := true }, boot := { s.boot with step := 9, state := 6, ms := ms }
    fz := { s.fz with state := if s.fz.holdN && s.fz.state == 0 then 1 else s.fz.state } } (bootOpen s ms) := by
  unfold bootOpen
  refine (foldl_reported (fun t l => ?_) _ _).trans (raiseN_reported _ _ _)
  split
  · exact setAlert_reported _ _
  · exact .refl t

/-- Settles O59: the step under way, by what it runs and what that leaves. -/
theorem bootSteps : Obligations.BootSteps := by
  intro s f hd hs i locked
  have hex : exec i s = .next (bootStepOp s f) := rfl
  have hrun := bootStepOp_running (f := f) hd hs
  rw [hex]
  refine ⟨fun h hl => congrArg _ (boot_locked hd hs h hl), fun h hl => congrArg _ (boot_unlocked hd hs h hl), fun h => ?_, fun h => ?_, fun h => ?_, fun h => ?_, fun h => ?_,
    fun h => ?_, fun h => ?_⟩
  · rw [if_neg (by omega), if_pos h] at hrun
    refine ⟨_, congrArg _ hrun, rfl, fun n => ?_, rfl, rfl⟩
    exact Vector.getElem_ofFn _
  · rw [if_neg (by omega), if_neg (by omega), if_pos h] at hrun
    rw [hrun]
    exact ⟨_, rfl, boot_sampled s⟩
  · rw [if_neg (by omega), if_neg (by omega), if_neg (by omega), if_pos h] at hrun
    rw [hrun]
    refine ⟨fun ha => ?_, fun ha hb => ?_, fun ha hb => ?_⟩
    · obtain ⟨h1, h2, h3, h4⟩ := bootFlash_first ha
      exact ⟨_, rfl, h1, h2, h3, by rw [h4], by rw [h4]⟩
    · exact ⟨_, rfl, bootFlash_second ha hb⟩
    · exact ⟨_, rfl, bootFlash_none ha hb⟩
  · rw [if_neg (by omega), if_neg (by omega), if_neg (by omega), if_neg (by omega), if_pos h] at hrun
    rw [hrun]
    exact ⟨_, rfl, bootPatch_due s _⟩
  · rw [if_neg (by omega), if_neg (by omega), if_neg (by omega), if_neg (by omega), if_neg (by omega), if_pos h] at hrun
    rw [hrun]
    refine ⟨_, rfl, rfl, rfl, fun hc hdi => ?_, bootDies_crc s _ _, bootDies_dieFenced s _ _⟩
    rw [hc, hdi, bootDies_good]
    refine ⟨rfl, fun w => ?_, fun hinv a => ?_⟩
    · rw [← spWord_iff, Bool.not_eq_true, ← Bool.not_eq_true', ← List.mem_filter (p := fun w => !spWord w)]
      rfl
    · refine (zeroWords_byte hinv spWord a).trans ?_
      simp only [spWord_byte, decide_eq_true_eq]
  · rw [if_neg (by omega), if_neg (by omega), if_neg (by omega), if_neg (by omega), if_neg (by omega), if_neg (by omega), if_pos h] at hrun
    rw [hrun]
    refine ⟨_, rfl, rfl, rfl, fun hinv a => ?_, fun w => ?_, fun l => ?_, fun k => bootStacks_stk s _ _ _ k⟩
    · rw [bootStacks_mem, zeroWords_byte hinv, spWord_byte]
      by_cases hsp : spLo ≤ a ∧ a < spHi
      · rw [if_pos hsp, decide_eq_true hsp]
        rfl
      · rw [if_neg hsp, decide_eq_false hsp]
        rfl
    · rw [bootStacks_mem, ← spWord_iff, ← Bool.not_not (spWord w), ← List.mem_filter (p := fun w => !!spWord w)]
      rfl
    · rw [bootStacks_mem, ← spWord_iff, ← Bool.not_not (spWord l.word), ← List.mem_filter (p := fun l : Latent => !!spWord l.word)]
      rfl
  · rw [if_neg (by omega), if_neg (by omega), if_neg (by omega), if_neg (by omega), if_neg (by omega), if_neg (by omega), if_neg (by omega), if_pos h] at hrun
    rw [hrun]
    have hr := bootOpen_reported s f.ms
    generalize bootOpen s f.ms = u at hr ⊢
    obtain ⟨l, d, a, o, x, rfl⟩ := hr
    refine ⟨_, rfl, rfl, rfl, rfl, rfl, rfl, ?_, rfl, rfl⟩
    simp only [Bool.and_eq_true, beq_iff_eq]

end Sys2Proof.Machine

/-! PROOF. States near another: one core and the arbiters of its ways. -/
namespace Sys2Proof.Machine

/-! ### Requests that go their way keep every FREEZE -/

/-- No arbiter's FREEZE differs. -/
structure SameFreezes (s t : State) : Prop where
  pc : ∀ i : Fin 256, t.fab.pcArb[i].frozen = s.fab.pcArb[i].frozen
  tap : ∀ i : Fin 256, t.fab.tapArb[i].frozen = s.fab.tapArb[i].frozen
  cluster : ∀ i : Fin 8, t.fab.clusterArb[i].frozen = s.fab.clusterArb[i].frozen
  bridge : ∀ i : Fin 8, t.fab.bridgeArb[i].frozen = s.fab.bridgeArb[i].frozen
  mgt : t.fab.mgtArb.frozen = s.fab.mgtArb.frozen

theorem SameFreezes.refl (s : State) : SameFreezes s s := ⟨fun _ => rfl, fun _ => rfl, fun _ => rfl, fun _ => rfl, rfl⟩

theorem SameFreezes.trans {s t u : State} (h : SameFreezes s t) (k : SameFreezes t u) : SameFreezes s u :=
  ⟨fun i => (k.pc i).trans (h.pc i), fun i => (k.tap i).trans (h.tap i), fun i => (k.cluster i).trans (h.cluster i),
    fun i => (k.bridge i).trans (h.bridge i), k.mgt.trans h.mgt⟩

theorem SameFreezes.of_fab {s t : State} (h : t.fab = s.fab) : SameFreezes s t := by
  constructor <;> simp [h]

/-- A grant leaves the FREEZE of every arbiter of a row. -/
theorem frozen_updV {n : Nat} (v : Vector Arb n) (i j : Fin n) (base : Nat → Nat) (me : Nat) :
    (updV v i (arbAlone base me))[j].frozen = v[j].frozen := by
  by_cases h : i = j
  · rw [h, updV_same]
    rfl
  · rw [updV_other _ _ _ _ h]

theorem portTake_freezes (s : State) (m : MasterKind) : SameFreezes s (portTake s m) := by
  cases m with
  | engine n u => exact ⟨fun _ => rfl, fun _ => rfl, fun _ => frozen_updV _ _ _ _ _, fun _ => rfl, rfl⟩
  | supervisor => exact ⟨fun _ => rfl, fun _ => rfl, fun _ => rfl, fun _ => rfl, rfl⟩
  | events => exact ⟨fun _ => rfl, fun _ => rfl, fun _ => rfl, fun _ => rfl, rfl⟩
  | ledger => exact ⟨fun _ => rfl, fun _ => rfl, fun _ => rfl, fun _ => rfl, rfl⟩
  | dictionary => exact ⟨fun _ => rfl, fun _ => rfl, fun _ => rfl, fun _ => rfl, rfl⟩
  | hostPath => exact SameFreezes.refl s
  | nest => exact SameFreezes.refl s
  | twin => exact SameFreezes.refl s
  | crc => exact SameFreezes.refl s
  | unused => exact SameFreezes.refl s

theorem bridgesTake_freezes (slot : Nat) (w : List (Nat × Nat)) (s : State) : SameFreezes s (bridgesTake slot w s) := by
  induction w generalizing slot s with
  | nil => exact SameFreezes.refl s
  | cons x w ih =>
    have hstep : SameFreezes s { s with fab := { s.fab with
        bridgeArb := updV s.fab.bridgeArb (Fin.ofNat 8 (2 * x.1 + x.2)) (arbAlone (fun _ => 0) slot) } } :=
      ⟨fun _ => rfl, fun _ => rfl, fun _ => rfl, fun _ => frozen_updV _ _ _ _ _, rfl⟩
    exact hstep.trans (ih _ _)

theorem crossWay_freezes (m : MasterKind) (w : List (Nat × Nat)) (s : State) : SameFreezes s (crossWay m w s) := by
  unfold crossWay
  split
  · exact SameFreezes.refl s
  · exact ⟨fun _ => rfl, fun _ => rfl, fun _ => rfl, fun _ => rfl, rfl⟩

theorem targetTake_freezes (s : State) (m : MasterKind) (tap : Bool) (u : MemUnit) : SameFreezes s (targetTake s m tap u) := by
  cases u with
  | pc => exact ⟨fun _ => frozen_updV _ _ _ _ _, fun _ => rfl, fun _ => rfl, fun _ => rfl, rfl⟩
  | bank b =>
    cases tap with
    | false => exact SameFreezes.refl s
    | true => exact ⟨fun _ => rfl, fun _ => frozen_updV _ _ _ _ _, fun _ => rfl, fun _ => rfl, rfl⟩

theorem pathTake_freezes (s : State) (m : MasterKind) (u : MemUnit) (tap : Bool) : SameFreezes s (pathTake s m u tap) :=
  (((portTake_freezes _ _).trans (bridgesTake_freezes _ _ _)).trans (crossWay_freezes _ _ _)).trans (targetTake_freezes _ _ _ _)

theorem portTake_wayKeeps (s : State) (m : MasterKind) : WayKeeps s (portTake s m) := by cases m <;> rfl

theorem bridgesTake_wayKeeps (slot : Nat) (w : List (Nat × Nat)) (s : State) : WayKeeps s (bridgesTake slot w s) := by
  induction w generalizing slot s with
  | nil => rfl
  | cons x w ih => exact WayKeeps.trans (t := { s with fab := { s.fab with bridgeArb := _ } }) rfl (ih _ _)

theorem targetTake_wayKeeps (s : State) (m : MasterKind) (tap : Bool) (u : MemUnit) : WayKeeps s (targetTake s m tap u) := by
  cases u with
  | pc => rfl
  | bank b => cases tap <;> rfl

theorem pathTake_wayKeeps (s : State) (m : MasterKind) (u : MemUnit) (tap : Bool) : WayKeeps s (pathTake s m u tap) :=
  (((portTake_wayKeeps _ _).trans (bridgesTake_wayKeeps _ _ _)).trans (crossWay_wayKeeps _ _ _)).trans (targetTake_wayKeeps _ _ _ _)

/-! ### States that differ at one core and at the arbiters of its ways -/

/-- `t` is `u` but for core `c` and for the arbiters and bridges that requests have passed, with no FREEZE changed. -/
structure Near (u : State) (c : CoreId) (t : State) : Prop where
  fab : t.fab = { u.fab with
    pcArb := t.fab.pcArb, tapArb := t.fab.tapArb, clusterArb := t.fab.clusterArb, bridgeArb := t.fab.bridgeArb, mgtArb := t.fab.mgtArb
    veTurn := t.fab.veTurn, bridges := t.fab.bridges }
  rest : t = modCore { u with fab := t.fab } c fun _ => core t c
  freezes : SameFreezes u t

section Near

variable {u t v : State} {c : CoreId}

theorem Near.refl (u : State) (c : CoreId) : Near u c u := ⟨rfl, (modCore_self u c).symm, SameFreezes.refl u⟩

theorem Near.way (h : Near u c t) (hk : WayKeeps t v) (hf : SameFreezes t v) : Near u c v ∧ core v c = core t c := by
  have hcore : core v c = core t c := by
    rw [hk]
    cases c <;> rfl
  have hvt : v = { t with fab := v.fab } := by rw [hk]
  refine ⟨⟨?_, ?_, h.freezes.trans hf⟩, hcore⟩
  · have hv : v.fab = { t.fab with
      pcArb := v.fab.pcArb, tapArb := v.fab.tapArb, clusterArb := v.fab.clusterArb, bridgeArb := v.fab.bridgeArb, mgtArb := v.fab.mgtArb
      veTurn := v.fab.veTurn, bridges := v.fab.bridges } := by rw [hk]
    rw [hv, h.fab]
  · have ht : { t with fab := v.fab } = modCore { u with fab := v.fab } c fun _ => core t c := by
      conv_lhs => rw [h.rest]
      cases c <;> rfl
    rw [hcore, ← ht]
    exact hvt

theorem Near.modCore (h : Near u c t) (f : Core → Core) : Near u c (modCore t c f) := by
  have hfab : (Machine.modCore t c f).fab = t.fab := by cases c <;> rfl
  refine ⟨?_, ?_, h.freezes.trans (SameFreezes.of_fab hfab)⟩
  · rw [hfab]
    exact h.fab
  · rw [hfab, core_modCore]
    conv_lhs => rw [h.rest, modCore_modCore]
    exact modCore_const _ _ _ |>.trans (by
      simp only [Function.comp_def])

theorem Near.wayKeeps (h : Near u c t) : WayKeeps u { u with fab := t.fab } := by
  rw [WayKeeps]
  dsimp only
  rw [← h.fab]

/-- Up to its arbiters and its core, a near state is the same. -/
theorem Near.frame (h : Near u c t) : ∃ q k, t = { u with fab := t.fab, seq := q, sv := k } := by
  refine ⟨t.seq, t.sv, ?_⟩
  have hr := h.rest
  cases c with
  | ve n =>
    rw [hr]
    rfl
  | sv =>
    rw [hr]
    rfl

section Reads

variable (h : Near u c t)
include h

theorem Near.mem : t.mem = u.mem := by
  obtain ⟨q, k, e⟩ := h.frame
  rw [e]

theorem Near.banks : t.banks = u.banks := by
  obtain ⟨q, k, e⟩ := h.frame
  rw [e]

theorem Near.eng : t.eng = u.eng := by
  obtain ⟨q, k, e⟩ := h.frame
  rw [e]

theorem Near.parts : t.parts = u.parts := by
  obtain ⟨q, k, e⟩ := h.frame
  rw [e]

theorem Near.twin : t.twin = u.twin := by
  obtain ⟨q, k, e⟩ := h.frame
  rw [e]

theorem Near.remap : t.fab.remap = u.fab.remap := by rw [h.fab]

theorem Near.links : t.fab.links = u.fab.links := by rw [h.fab]

theorem Near.unitOf (a : Nat) : Machine.unitOf t a = Machine.unitOf u a := by
  obtain ⟨q, k, e⟩ := h.frame
  rw [e]
  rfl

theorem Near.unitFenced (d : Nat) (x : MemUnit) : Machine.unitFenced t d x = Machine.unitFenced u d x := by
  have hstk : t.stk = u.stk := by
    obtain ⟨q, k, e⟩ := h.frame
    rw [e]
  simp only [Machine.unitFenced, reachable, h.links, hstk, h.banks]

theorem Near.execPart (n : VeId) : Machine.execPart t n = Machine.execPart u n := by
  obtain ⟨q, k, e⟩ := h.frame
  rw [e]
  rfl

theorem Near.corePart (d : CoreId) : Machine.corePart t d = Machine.corePart u d := by
  cases d with
  | ve n => exact h.execPart n
  | sv => rfl

theorem Near.veCode (n : VeId) : Machine.veCode t n = Machine.veCode u n := by
  simp only [Machine.veCode, h.execPart, h.parts]

theorem Near.partDev (p : PartId) (sp : Bool) (x : Nat) : Machine.partDev t p sp x = Machine.partDev u p sp x := by
  obtain ⟨q, k, e⟩ := h.frame
  rw [e]
  rfl

theorem Near.pathWaits (m : MasterKind) (x : MemUnit) (tap : Bool) : Machine.pathWaits t m x tap = Machine.pathWaits u m x tap := by
  have hfz : t.fz = u.fz := by
    obtain ⟨q, k, e⟩ := h.frame
    rw [e]
  have hstk : t.stk = u.stk := by
    obtain ⟨q, k, e⟩ := h.frame
    rw [e]
  have hhold : freezeHolds t m = freezeHolds u m := by simp only [freezeHolds, frozen, hfz]
  have hport : portFrozen t m = portFrozen u m := by cases m <;> simp only [portFrozen, h.freezes.cluster, h.freezes.mgt]
  have hway : wayOf t m x = wayOf u m x := by simp only [wayOf, diePath, h.links]
  have htarget : targetFrozen t tap x = targetFrozen u tap x := by cases x <;> simp only [targetFrozen, hstk, h.freezes.pc, h.freezes.tap]
  simp only [Machine.pathWaits, hhold, hport, hway, htarget, h.freezes.bridge]

theorem Near.devWaits (m : MasterKind) (a : Nat) : Machine.devWaits t m a = Machine.devWaits u m a := by
  simp only [Machine.devWaits, h.unitOf, h.pathWaits]

theorem Near.lowRam (a : Nat) : Machine.lowRam t a = Machine.lowRam u a := by simp only [Machine.lowRam, h.remap]

theorem Near.accCheck (d : CoreId) (w : Want) (a : Nat) : Machine.accCheck t d w a = Machine.accCheck u d w a := by
  simp only [Machine.accCheck, h.execPart, h.partDev, h.unitOf, h.unitFenced, h.banks, h.veCode, h.lowRam]

theorem Near.storeQueued (d : CoreId) (a : Nat) : Machine.storeQueued t d a = Machine.storeQueued u d a := by
  simp only [Machine.storeQueued, h.corePart, h.parts]

theorem Near.detCore (d : CoreId) : Machine.detCore t d = Machine.detCore u d := by
  simp only [Machine.detCore, h.corePart, h.parts]

end Reads

end Near

end Sys2Proof.Machine

/-! PROOF. Accesses of a core that reach their unit. -/
namespace Sys2Proof.Machine

/-! ### A core's request that is served -/

/-- A request of core `c` for address `a` is admitted, goes to unit `x` at device address `d` and does not wait. -/
structure Reach (u : State) (c : CoreId) (w : Want) (a d : Nat) (x : MemUnit) : Prop where
  check : accCheck u c w a = 0
  unit : unitOf u d = some x
  unfenced : unitFenced u (masterDie (coreMaster c w)) x = false
  free : pathWaits u (coreMaster c w) x false = false
  place : match c with
    | .ve n => ∃ p, execPart u n = some p ∧ partDev u p (a.testBit 38) (a % 2 ^ 38) = some d ∧ ownAt u x (veCode u n) = 0
    | .sv => d = a ∧ hbmLo ≤ a ∧ a < hbmHi

/-- Two units with one arbiter and one fence: the same bank, or the same pseudo-channel. -/
def sameUnit : MemUnit → MemUnit → Prop
  | .pc st c _ _, .pc st' c' _ _ => st = st' ∧ c = c'
  | .bank b, .bank b' => b = b'
  | _, _ => False

theorem sameUnit.refl (x : MemUnit) : sameUnit x x := by cases x <;> simp [sameUnit]

section SameUnit

variable {x y : MemUnit} (h : sameUnit x y)
include h

theorem sameUnit.unitFenced (s : State) (d : Nat) : unitFenced s d y = unitFenced s d x := by
  cases x <;> cases y <;> simp only [sameUnit] at h
  · obtain ⟨rfl, rfl⟩ := h
    exact unitFenced_pc s d _ _ _ _ _ _
  · rw [h]

theorem sameUnit.pathWaits (s : State) (m : MasterKind) (tap : Bool) : pathWaits s m y tap = pathWaits s m x tap := by
  cases x <;> cases y <;> simp only [sameUnit] at h
  · obtain ⟨rfl, rfl⟩ := h
    rfl
  · rw [h]

theorem sameUnit.ownAt (s : State) (code : Nat) : ownAt s y code = ownAt s x code := by
  cases x <;> cases y <;> simp only [sameUnit] at h
  · rfl
  · rw [h]

end SameUnit

/-- The device addresses of one line of 64 bytes belong to one unit. -/
theorem unitOf_line {s : State} {d e : Nat} {x : MemUnit} (h : unitOf s d = some x) (hl : e / 64 = d / 64) : ∃ y, unitOf s e = some y ∧ sameUnit x y := by
  cases x with
  | bank b =>
    exact ⟨.bank b, unitOf_bank_block (by omega) h, rfl⟩
  | pc st c row w =>
    have hd := hbm_of_unitOf_pc h
    have he : hbmLo ≤ e ∧ e < hbmHi := by
      simp only [hbmLo, hbmHi] at hd ⊢
      omega
    rw [unitOf_hbm s hd, Option.some.injEq, MemUnit.pc.injEq] at h
    obtain ⟨h1, h2, -, -⟩ := h
    obtain ⟨e1, e2, -, -⟩ := hbmLoc_block s.wideGib.toNat (y := e - hbmLo) (z := d - hbmLo) (by simp only [hbmLo] at *; omega)
    refine ⟨_, unitOf_hbm s he, ?_⟩
    rw [sameUnit, e1, e2]
    exact ⟨h1.symm, h2.symm⟩

theorem hbmDev_line (w : Nat) (c : PartCfg) {x y : Nat} (h : y / 64 = x / 64) : hbmDev w c y = hbmDev w c x / 64 * 64 + y % 64 := by
  unfold hbmDev
  by_cases hm : c.hbmMode = 0
  · rw [if_pos hm, if_pos hm]
    simp only [hbmLo, gib]
    omega
  · rw [if_neg hm, if_neg hm]
    have hg : y / 256 = x / 256 := by omega
    simp only [hg]
    generalize (stackSet c.hbmStacks).1 = s0
    generalize (stackSet c.hbmStacks).2 = k
    generalize x / 256 % k = r
    generalize x / 256 / k = q
    obtain ⟨z, hz⟩ : ∃ z, (s0 + r) * ((24 - w) * gib) = 64 * z := ⟨(s0 + r) * (24 - w) * 0x1000000, by
      rw [gib]
      ring⟩
    rw [hz]
    simp only [hbmLo, gib]
    omega

theorem partDev_line {s : State} {p : PartId} {sp : Bool} {x y d : Nat} (h : partDev s p sp x = some d) (hl : y / 64 = x / 64) :
    partDev s p sp y = some (d / 64 * 64 + y % 64) := by
  unfold partDev at h ⊢
  cases sp with
  | true =>
    simp only [if_true] at h ⊢
    have hb : y / bankBytes = x / bankBytes := by
      simp only [bankBytes]
      omega
    rw [hb]
    cases hk : (partBanks s p)[x / bankBytes]? with
    | none => simp [hk] at h
    | some b =>
      rw [hk] at h
      have h' := Option.some.inj h
      subst h'
      refine congrArg some ?_
      simp only [bankBytes, spLo]
      omega
  | false =>
    dsimp only at h ⊢
    simp only [Bool.false_eq_true, if_false] at h ⊢
    split at h
    · next hx =>
      have h' := Option.some.inj h
      subst h'
      have hy : y < s.parts[p].cfg.hbmSize.toNat * gib := by
        simp only [gib] at hx ⊢
        omega
      rw [if_pos hy, hbmDev_line _ _ hl]
    · cases h

theorem testBit38_line {a b : Nat} (h : b / 64 = a / 64) : b.testBit 38 = a.testBit 38 := by
  rw [Nat.testBit_eq_decide_div_mod_eq, Nat.testBit_eq_decide_div_mod_eq]
  have : b / 2 ^ 38 = a / 2 ^ 38 := by omega
  rw [this]

/-- What an admitted access of a VE's sequencer names. -/
theorem accCheck_ve {u : State} {n : VeId} {w : Want} {a : Nat} : accCheck u (.ve n) w a = 0 ↔ a < 2 ^ 39 ∧ ∃ p d x, execPart u n = some p ∧
    partDev u p (a.testBit 38) (a % 2 ^ 38) = some d ∧ unitOf u d = some x ∧ unitFenced u (n.val / 16) x = false ∧ ownAt u x (veCode u n) = 0 := by
  unfold accCheck
  dsimp only
  by_cases ha : 2 ^ 39 ≤ a
  · rw [if_pos ha]
    constructor
    · intro h
      cases h
    · rintro ⟨h, -⟩
      omega
  rw [if_neg ha]
  cases hp : execPart u n with
  | none => simp
  | some p =>
    dsimp only
    cases hd : partDev u p (a.testBit 38) (a % 2 ^ 38) with
    | none =>
      refine ⟨fun h => (by cases h), ?_⟩
      rintro ⟨-, p', d', x', hp', hd', -⟩
      cases hp'
      rw [hd] at hd'
      cases hd'
    | some d =>
      dsimp only
      cases hx : unitOf u d with
      | none =>
        refine ⟨fun h => (by cases h), ?_⟩
        rintro ⟨-, p', d', x', hp', hd', hx', -⟩
        cases hp'
        rw [hd] at hd'
        cases hd'
        rw [hx] at hx'
        cases hx'
      | some x =>
        dsimp only
        constructor
        · intro h
          by_cases hf : unitFenced u (n.val / 16) x = true
          · rw [if_pos hf] at h
            cases h
          · rw [if_neg hf] at h
            refine ⟨by omega, p, d, x, rfl, hd, hx, by simpa using hf, ?_⟩
            cases x <;> exact h
        · rintro ⟨-, p', d', x', hp', hd', hx', hf, ho⟩
          cases hp'
          rw [hd] at hd'
          cases hd'
          rw [hx] at hx'
          cases hx'
          rw [if_neg (by simp [hf])]
          cases x <;> exact ho

/-- An access that a byte's address can be served at reaches its unit. -/
theorem reach_of_seqByte {u : State} {n : VeId} {w : Want} {a d : Nat} (h : seqByte u n w a = some d) : ∃ x, Reach u (.ve n) w a d x := by
  unfold seqByte at h
  split at h
  · cases h
  next hc =>
    have hc0 : accCheck u (.ve n) w a = 0 := by simpa using hc
    obtain ⟨-, p, d', x, hp, hd, hx, hf, ho⟩ := accCheck_ve.1 hc0
    rw [hp, Option.bind_some, hd] at h
    dsimp only at h
    split at h
    · cases h
    · next hw =>
      cases h
      refine ⟨x, hc0, hx, hf, ?_, p, hp, hd, ho⟩
      simp only [devWaits, hx] at hw
      simpa using hw

theorem Reach.addr_ve {u : State} {n : VeId} {w : Want} {a d : Nat} {x : MemUnit} (h : Reach u (.ve n) w a d x) : a < 2 ^ 39 := (accCheck_ve.1 h.check).1

theorem reach_sv {u : State} {w : Want} {a : Nat} (hw : w ≠ .fetch) (h1 : hbmLo ≤ a) (h2 : a < hbmHi) (hc : accCheck u .sv w a = 0)
    (hf : devWaits u .supervisor a = false) : ∃ x, Reach u .sv w a a x := by
  have hlow : ¬ a < 0x100000 := by
    simp only [hbmLo] at h1
    omega
  have hx := unitOf_hbm u ⟨h1, h2⟩
  refine ⟨_, hc, hx, ?_, ?_, rfl, h1, h2⟩
  · unfold accCheck at hc
    dsimp only at hc
    rw [if_neg hlow, if_pos ⟨h1, h2⟩, if_neg hw, hx] at hc
    dsimp only at hc
    by_contra hcon
    rw [if_pos (by simpa [coreMaster, masterDie] using hcon)] at hc
    cases hc
  · rw [devWaits, hx] at hf
    exact hf

/-- A whole line of 64 bytes is served where one byte of it is. -/
theorem Reach.line {u : State} {c : CoreId} {w : Want} {a b d : Nat} {x : MemUnit} (hw : c = .sv → w ≠ .fetch) (h : Reach u c w a d x) (hl : b / 64 = a / 64) :
    ∃ y, Reach u c w b (d / 64 * 64 + b % 64) y := by
  obtain ⟨y, hy, hs⟩ := unitOf_line (e := d / 64 * 64 + b % 64) h.unit (by omega)
  have hfree : Machine.pathWaits u (coreMaster c w) y false = false := (hs.pathWaits _ _ _).trans h.free
  have hopen : Machine.unitFenced u (masterDie (coreMaster c w)) y = false := (hs.unitFenced _ _).trans h.unfenced
  cases c with
  | ve n =>
    obtain ⟨p, hp, hd, ho⟩ := h.place
    have hpd : partDev u p (b.testBit 38) (b % 2 ^ 38) = some (d / 64 * 64 + b % 64) := by
      have := partDev_line (y := b % 2 ^ 38) hd (by omega)
      rw [testBit38_line hl, this]
      congr 2
      omega
    have hob : Machine.ownAt u y (veCode u n) = 0 := (hs.ownAt _ _).trans ho
    have hb : b < 2 ^ 39 := by
      have := h.addr_ve
      omega
    exact ⟨y, accCheck_ve.2 ⟨hb, p, _, y, hp, hpd, hy, hopen, hob⟩, hy, hopen, hfree, p, hp, hpd, hob⟩
  | sv =>
    obtain ⟨rfl, h1, h2⟩ := h.place
    have hb : d / 64 * 64 + b % 64 = b := by omega
    have hb1 : hbmLo ≤ b := by
      simp only [hbmLo] at h1 ⊢
      omega
    have hb2 : b < hbmHi := by
      simp only [hbmHi] at h2 ⊢
      omega
    have hlow : ¬ b < 0x100000 := by
      simp only [hbmLo] at hb1
      omega
    rw [hb] at hy ⊢
    refine ⟨y, ?_, hy, hopen, hfree, rfl, hb1, hb2⟩
    unfold accCheck
    dsimp only
    rw [if_neg hlow, if_pos ⟨hb1, hb2⟩, if_neg (hw rfl), hy]
    dsimp only
    rw [if_neg (by simpa [coreMaster, masterDie] using hopen)]

/-! ### Served reads -/

/-- A read of core `c` at word address `a` is served, on `u` and on every near state, and changes no core. -/
def Served (u : State) (c : CoreId) (w : Want) (a : Nat) (z : W128) : Prop :=
  ∀ v, Near u c v → ∃ t, coreRead v c w a = { data := z, status := 0, s := t } ∧ Near u c t ∧ core t c = core v c

theorem via_served {v : State} {m : MasterKind} {d : Nat} {x : MemUnit} (hx : unitOf v d = some x) (hf : unitFenced v (masterDie m) x = false)
    (hw : pathWaits v m x false = false) (f : State → Acc) : via v m d f = f (pathTake v m x false) := by
  rw [via, hx]
  dsimp only
  rw [if_neg (by simp [hf]), if_neg (by simp [hw])]

/-- On memory without errors a read at a unit that serves it returns the word and changes nothing. -/
theorem readWord_clean {s : State} {d code a : Nat} {x : MemUnit} (hx : unitOf s a = some x) (hf : unitFenced s d x = false) (ho : ownAt s x code = 0)
    (hp : s.mem.poison = []) (hl : s.mem.latent = []) : readWord s d code a = { data := wordGet s.mem (a / 16), status := 0, s := s } := by
  rw [readWord_served hx hf fun b hb => by
    rw [hb] at ho
    exact ho, checkWord_clean hp hl]

theorem WayKeeps.ownAt {s t : State} (h : WayKeeps s t) (x : MemUnit) (code : Nat) : ownAt t x code = ownAt s x code := by
  cases x <;> simp only [Machine.ownAt, h.banks]

theorem Near.ownAt {u t : State} {c : CoreId} (h : Near u c t) (x : MemUnit) (code : Nat) : Machine.ownAt t x code = Machine.ownAt u x code := by
  cases x <;> simp only [Machine.ownAt, h.banks]

theorem served_of_reach {u : State} {c : CoreId} {w : Want} {a d : Nat} {x : MemUnit} (hp : u.mem.poison = []) (hl : u.mem.latent = [])
    (h : Reach u c w a d x) (ha : a % 16 = 0) : Served u c w a (wordGet u.mem (d / 16)) := by
  intro v hn
  have hk := pathTake_wayKeeps v (coreMaster c w) x false
  obtain ⟨hn', hcore⟩ := hn.way hk (pathTake_freezes _ _ _ _)
  have hfree := (hn.pathWaits (coreMaster c w) x false).trans h.free
  have hopen := (hn.unitFenced (masterDie (coreMaster c w)) x).trans h.unfenced
  have hvia := via_served ((hn.unitOf d).trans h.unit) hopen hfree
  refine ⟨pathTake v (coreMaster c w) x false, ?_, hn', hcore⟩
  cases c with
  | ve n =>
    obtain ⟨p, hpt, hd, ho⟩ := h.place
    obtain ⟨y, hy, hs⟩ := unitOf_line (e := d / 16 * 16) h.unit (by omega)
    simp only [coreRead, hn.execPart, hpt, readPart, hn.partDev, hd, hvia]
    rw [readWord_clean (x := y)]
    · rw [hn'.mem]
      congr 2
      omega
    · rw [hn'.unitOf, hy]
    · rw [hn'.unitFenced, hs.unitFenced]
      exact h.unfenced
    · rw [hn'.ownAt, hs.ownAt, hn.veCode, ho]
    · rw [hn'.mem, hp]
    · rw [hn'.mem, hl]
  | sv =>
    obtain ⟨rfl, h1, h2⟩ := h.place
    have hm : coreMaster .sv w = .supervisor := rfl
    rw [hm] at hvia hn' ⊢
    simp only [coreRead, if_pos (And.intro h1 h2), hvia]
    rw [readWord_clean (x := x)]
    · rw [hn'.mem]
    · rw [hn'.unitOf, h.unit]
    · rw [hn'.unitFenced]
      exact h.unfenced
    · have hu := h.unit
      rw [unitOf_hbm u ⟨h1, h2⟩] at hu
      cases hu
      rfl
    · rw [hn'.mem, hp]
    · rw [hn'.mem, hl]

end Sys2Proof.Machine

/-! PROOF. Words that are served, and lines of the data cache. -/
namespace Sys2Proof.Machine

/-! ### The supervisor's own memory -/

theorem internalVia_served {v : State} (hf : v.fab.mgtArb.frozen = false) (f : State → Acc) : internalVia v f = f (portTake v .supervisor) := by
  rw [internalVia, if_neg (by simp [hf])]

/-- Boot ROM and working RAM, in the low window and at their own place. -/
theorem internalWord_low (s : State) {a : Nat} (h : a < 0x100000) : internalWord s a = { data := ramWord s (!lowRam s a) a, status := 0, s := s } := by
  rw [internalWord, if_pos h]

theorem internalWord_ram (s : State) {a : Nat} (h1 : 0x80F0000000 ≤ a) (h2 : a < 0x80F0100000) :
    internalWord s a = { data := ramWord s false (a - 0x80F0000000), status := 0, s := s } := by
  rw [internalWord, if_neg (by omega), if_pos ⟨h1, h2⟩]

theorem Near.ramWord {u t : State} {c : CoreId} (h : Near u c t) (rom : Bool) (o : Nat) : Machine.ramWord t rom o = Machine.ramWord u rom o := by
  rw [Machine.ramWord, Machine.ramWord, h.mem]

theorem served_internal {u : State} {w : Want} {a : Nat} {z : W128} (hf : u.fab.mgtArb.frozen = false) (ha : ¬ (hbmLo ≤ a ∧ a < hbmHi))
    (hz : ∀ t, Near u .sv t → internalWord t a = { data := z, status := 0, s := t }) : Served u .sv w a z := by
  intro v hn
  obtain ⟨hn', hcore⟩ := hn.way (portTake_wayKeeps v .supervisor) (portTake_freezes v .supervisor)
  refine ⟨portTake v .supervisor, ?_, hn', hcore⟩
  simp only [coreRead, if_neg ha]
  rw [internalVia_served (hn.freezes.mgt.trans hf), hz _ hn']

theorem served_low {u : State} {w : Want} {a : Nat} (hf : u.fab.mgtArb.frozen = false) (ha : a < 0x100000) :
    Served u .sv w a (ramWord u (!lowRam u a) a) :=
  served_internal hf (by simp only [hbmLo]; omega) fun t ht => by rw [internalWord_low t ha, ht.ramWord, ht.lowRam]

theorem served_ram {u : State} {w : Want} {a : Nat} (hf : u.fab.mgtArb.frozen = false) (h1 : 0x80F0000000 ≤ a) (h2 : a < 0x80F0100000) :
    Served u .sv w a (ramWord u false (a - 0x80F0000000)) :=
  served_internal hf (by simp only [hbmHi]; omega) fun t ht => by rw [internalWord_ram t h1 h2, ht.ramWord]

/-! ### The data cache -/

/-- Of a data cache the lines `b` holds hold the words `z` (a word by its address). -/
def LineGood (z : Nat → W128) (b : Nat) (ls : List CacheLine) : Prop :=
  ∀ l ∈ ls, l.line = b → ∀ j, j < 4 → nth l.words j 0 = z (64 * b + 16 * j)

theorem mem_of_mem_lru {α : Type} {key : α → Nat} {x y : α} {ls : List α} (h : y ∈ lru key x ls) : y = x ∨ y ∈ ls := by
  unfold lru at h
  dsimp only at h
  split at h
  · rcases List.mem_cons.1 h with h | h
    · exact .inl h
    · exact .inr (List.mem_of_mem_filter h)
  · rcases List.mem_cons.1 h with h | h
    · exact .inl h
    · exact .inr (List.mem_of_mem_filter (List.mem_of_mem_filter h))

theorem LineGood.lru {z : Nat → W128} {b : Nat} {x : CacheLine} {ls : List CacheLine} (hx : LineGood z b [x]) (h : LineGood z b ls) :
    LineGood z b (lru CacheLine.line x ls) := by
  intro l hl hb
  rcases mem_of_mem_lru hl with rfl | hl
  · exact hx l (List.mem_singleton.2 rfl) hb
  · exact h l hl hb

/-- Between two near states core `c` differs by its data cache and its misses alone, which stay good for every line that `z` names. -/
structure DcMoved (z : Nat → W128) (k k' : Core) : Prop where
  frame : k' = { k with dcache := k'.dcache, dcMiss := k'.dcMiss }
  good : ∀ b, LineGood z b k.dcache → LineGood z b k'.dcache

theorem DcMoved.refl (z : Nat → W128) (k : Core) : DcMoved z k k := ⟨rfl, fun _ h => h⟩

theorem DcMoved.trans {z : Nat → W128} {k l m : Core} (h : DcMoved z k l) (g : DcMoved z l m) : DcMoved z k m :=
  ⟨by rw [g.frame, h.frame], fun b hb => g.good b (h.good b hb)⟩

/-- The line `x` is used by a core: it is the first of its data cache. -/
def useLine (x : CacheLine) (k : Core) : Core := { k with dcache := lru CacheLine.line x k.dcache }

theorem dcMoved_useLine {z : Nat → W128} {x : CacheLine} {k k' : Core} (hk : DcMoved z k k')
    (hx : ∀ j, j < 4 → nth x.words j 0 = z (64 * x.line + 16 * j)) : DcMoved z k (useLine x k') := by
  refine hk.trans ⟨rfl, fun b hb => LineGood.lru ?_ hb⟩
  intro l hl hlb
  rw [List.mem_singleton.1 hl] at hlb ⊢
  rw [← hlb]
  exact hx

/-- The words of a line that are all served. -/
theorem lineFold_served {u v : State} {c : CoreId} {ln : Nat} {z : Nat → W128} (hn : Near u c v)
    (hs : ∀ i, i < 4 → Served u c .read (64 * ln + 16 * i) (z (64 * ln + 16 * i))) :
    ∃ t, (List.range 4).foldl (fun (x : List (Nat × W128) × State) i =>
        let r := coreRead x.2 c .read (64 * ln + 16 * i)
        (x.1 ++ [(r.status, r.data)], r.s)) ([], v) = ((List.range 4).map fun i => (0, z (64 * ln + 16 * i)), t) ∧ Near u c t ∧ core t c = core v c := by
  obtain ⟨t0, e0, n0, c0⟩ := hs 0 (by decide) v hn
  obtain ⟨t1, e1, n1, c1⟩ := hs 1 (by decide) t0 n0
  obtain ⟨t2, e2, n2, c2⟩ := hs 2 (by decide) t1 n1
  obtain ⟨t3, e3, n3, c3⟩ := hs 3 (by decide) t2 n2
  refine ⟨t3, ?_, n3, c3.trans (c2.trans (c1.trans c0))⟩
  have h4 : List.range 4 = [0, 1, 2, 3] := rfl
  simp only [h4, List.foldl_cons, List.foldl_nil, List.map_cons, List.map_nil, e0, e1, e2, e3]
  rfl

/-- The word at `a` by a data cache that holds good lines, where memory serves its line. -/
theorem cacheWord_served {u v : State} {c : CoreId} {a : Nat} {z : Nat → W128} (hn : Near u c v) (ha : a % 16 = 0)
    (hs : ∀ i, i < 4 → Served u c .read (64 * (a / 64) + 16 * i) (z (64 * (a / 64) + 16 * i))) (hg : LineGood z (a / 64) (core v c).dcache) :
    ∃ t, cacheWord v c a = { data := z a, status := 0, s := t } ∧ Near u c t ∧ DcMoved z (core v c) (core t c) := by
  have hj : a / 16 % 4 < 4 := Nat.mod_lt _ (by decide)
  have haj : 64 * (a / 64) + 16 * (a / 16 % 4) = a := by omega
  unfold cacheWord
  dsimp only
  cases hfind : (core v c).dcache.find? fun l => l.line == a / 64 with
  | some l =>
    have hl : l.line = a / 64 := by simpa using List.find?_some hfind
    have hmem := List.mem_of_find?_eq_some hfind
    dsimp only
    refine ⟨modCore v c (useLine l), ?_, hn.modCore _, ?_⟩
    · rw [hg l hmem hl _ hj, haj]
      rfl
    · rw [core_modCore]
      refine dcMoved_useLine (DcMoved.refl _ _) fun j hj => ?_
      rw [hg l hmem hl j hj, hl]
  | none =>
    dsimp only
    obtain ⟨t, e, hnt, hct⟩ := lineFold_served (hn.modCore fun k => { k with dcMiss := satInc k.dcMiss }) hs
    rw [e]
    dsimp only
    rw [core_modCore] at hct
    refine ⟨modCore t c (useLine { line := a / 64, words := (List.range 4).map fun i => z (64 * (a / 64) + 16 * i) }), ?_, hnt.modCore _, ?_⟩
    · rw [nth_map_range, if_pos hj, haj, if_pos (by simp)]
      simp only [List.map_map, Function.comp_def]
      rfl
    · rw [core_modCore, hct]
      refine dcMoved_useLine ⟨rfl, fun b hb => hb⟩ fun j hj => ?_
      rw [nth_map_range, if_pos hj]

end Sys2Proof.Machine

/-! PROOF. Loads that are served. -/
namespace Sys2Proof.Machine

/-! ### Loads that are served -/

section Loads

variable {u v : State} {c : CoreId} {a w : Nat} {z : Nat → W128}

/-- What a load of core `c` needs at word address `a`: it is served, with its whole line where the data cache serves the core. -/
structure WordServed (u : State) (c : CoreId) (z : Nat → W128) (k : Core) (a : Nat) : Prop where
  word : Served u c .read a (z a)
  line : dcServes u c a = true → ∀ i, i < 4 → Served u c .read (64 * (a / 64) + 16 * i) (z (64 * (a / 64) + 16 * i))
  good : dcServes u c a = true → LineGood z (a / 64) k.dcache

theorem WordServed.moved {k k' : Core} (h : WordServed u c z k a) (hk : DcMoved z k k') : WordServed u c z k' a :=
  ⟨h.word, h.line, fun hd => hk.good _ (h.good hd)⟩

/-- An empty issue queue changes no word that a load reads. -/
theorem hazard_quiet {r : Acc} (hn : Near u c r.s) (hq : ∀ n, c = .ve n → u.eng[n].queue = []) : hazard c a r = r := by
  cases c with
  | sv => rfl
  | ve n =>
    have he : u.eng[n].queue = [] := hq n rfl
    have hm : mayChange r.s n a = false := by
      rw [mayChange, hn.eng, he]
      exact Bool.and_false _
    unfold hazard
    dsimp only
    split
    · rfl
    · simp [hm]

theorem cachedRead_served (hn : Near u c v) (ha : a % 16 = 0) (hq : ∀ n, c = .ve n → u.eng[n].queue = [])
    (hs : WordServed u c z (core v c) a) :
    ∃ t, cachedRead v c a = { data := z a, status := 0, s := t } ∧ Near u c t ∧ DcMoved z (core v c) (core t c) := by
  have hdc : dcServes v c a = dcServes u c a := by cases c <;> simp only [dcServes, hn.detCore]
  unfold cachedRead
  rw [hdc]
  by_cases hd : dcServes u c a = true
  · obtain ⟨t, e, hnt, hk⟩ := cacheWord_served hn ha (hs.line hd) (hs.good hd)
    refine ⟨t, ?_, hnt, hk⟩
    rw [if_neg (by simp [hd]), e]
    exact hazard_quiet hnt hq
  · obtain ⟨t, e, hnt, hk⟩ := hs.word v hn
    refine ⟨t, ?_, hnt, ?_⟩
    · rw [if_pos (by simpa using hd), loadWord, e]
      exact hazard_quiet hnt hq
    · rw [hk]
      exact DcMoved.refl _ _

theorem partsBad_one (s : State) (want : Want) (x : Nat × Nat) (h : accCheck s c want x.1 = 0) : partsBad s c want [x] = none := by
  simp [partsBad, h]

theorem partsBad_two (s : State) (want : Want) (x y : Nat × Nat) (hx : accCheck s c want x.1 = 0) (hy : accCheck s c want y.1 = 0) :
    partsBad s c want [x, y] = none := by
  simp [partsBad, hx, hy]

theorem partsHeld_one (s : State) (want : Want) (x : Nat × Nat) (h : accCheck s c want x.1 = 0) : partsHeld s c want [x] = false := by
  simp [partsHeld, h]

theorem partsHeld_two (s : State) (want : Want) (x y : Nat × Nat) (hx : accCheck s c want x.1 = 0) (hy : accCheck s c want y.1 = 0) :
    partsHeld s c want [x, y] = false := by
  simp [partsHeld, hx, hy]

/-- Bytes `lo` to `lo + n - 1` of a word as a number. -/
def lanes (x : W128) (lo n : Nat) : Nat := x.toNat / 2 ^ (8 * lo) % 2 ^ (8 * n)

/-- A load within one word. -/
theorem loadGo_one (hn : Near u c v) (hq : ∀ n, c = .ve n → u.eng[n].queue = []) (hw : a % 16 + w ≤ 16) (hc : accCheck u c .read a = 0)
    (hs : WordServed u c z (core v c) (a / 16 * 16)) :
    ∃ t, loadAcc.go c v a w = .ok (BitVec.ofNat 128 (lanes (z (a / 16 * 16)) (a % 16) w)) t ∧ Near u c t ∧ DcMoved z (core v c) (core t c) := by
  obtain ⟨t, e, hnt, hk⟩ := cachedRead_served hn (Nat.mul_mod_left _ _) hq hs
  have hp : accParts a w = [(a, w)] := if_pos hw
  have hv : accCheck v c .read a = 0 := (hn.accCheck _ _ _).trans hc
  refine ⟨t, ?_, hnt, hk⟩
  unfold loadAcc.go
  dsimp only
  rw [hp, partsBad_one _ _ _ hv, partsHeld_one _ _ _ hv]
  simp only [Bool.false_eq_true, if_false, List.foldl_cons, List.foldl_nil, e, if_true, Nat.mul_zero, Nat.pow_zero, Nat.mul_one, Nat.zero_add]
  rfl

/-- A load that goes on in the next word. -/
theorem loadGo_two (hn : Near u c v) (hq : ∀ n, c = .ve n → u.eng[n].queue = []) (hw : ¬ a % 16 + w ≤ 16) (hc : accCheck u c .read a = 0)
    (hc2 : accCheck u c .read ((a / 16 + 1) * 16 % 2 ^ 40) = 0) (hs : WordServed u c z (core v c) (a / 16 * 16))
    (hs2 : WordServed u c z (core v c) ((a / 16 + 1) * 16 % 2 ^ 40)) :
    ∃ t, loadAcc.go c v a w = .ok (BitVec.ofNat 128 (lanes (z (a / 16 * 16)) (a % 16) (16 - a % 16) +
        lanes (z ((a / 16 + 1) * 16 % 2 ^ 40)) 0 (a % 16 + w - 16) * 2 ^ (8 * (16 - a % 16)))) t ∧ Near u c t ∧ DcMoved z (core v c) (core t c) := by
  have h16 : (a / 16 + 1) * 16 % 2 ^ 40 % 16 = 0 := by omega
  have h16' : (a / 16 + 1) * 16 % 2 ^ 40 / 16 * 16 = (a / 16 + 1) * 16 % 2 ^ 40 := by omega
  obtain ⟨t1, e1, hn1, hk1⟩ := cachedRead_served hn (Nat.mul_mod_left _ _) hq hs
  obtain ⟨t2, e2, hn2, hk2⟩ := cachedRead_served hn1 h16 hq (hs2.moved hk1)
  have hp : accParts a w = [(a, 16 - a % 16), ((a / 16 + 1) * 16 % 2 ^ 40, a % 16 + w - 16)] := if_neg hw
  have hv : accCheck v c .read a = 0 := (hn.accCheck _ _ _).trans hc
  have hv2 : accCheck v c .read ((a / 16 + 1) * 16 % 2 ^ 40) = 0 := (hn.accCheck _ _ _).trans hc2
  refine ⟨t2, ?_, hn2, hk1.trans hk2⟩
  unfold loadAcc.go
  dsimp only
  rw [hp, partsBad_two _ _ _ _ hv hv2, partsHeld_two _ _ _ _ hv hv2]
  generalize (a / 16 + 1) * 16 % 2 ^ 40 = b at *
  simp only [Bool.false_eq_true, if_false, List.foldl_cons, List.foldl_nil, e1, h16', h16, e2, if_true, Nat.mul_zero, Nat.pow_zero, Nat.mul_one, Nat.zero_add]
  rw [lanes, lanes, Nat.mul_zero, Nat.pow_zero]

/-- Byte `i` of the lanes of a word. -/
theorem lanes_byte (x : W128) {lo n i : Nat} (hi : i < n) : (lanes x lo n >>> (8 * i)) % 256 = (byteOf x (lo + i)).toNat := by
  rw [lanes, byteOf, BitVec.toNat_ofNat, Nat.shiftRight_eq_div_pow, Nat.shiftRight_eq_div_pow]
  apply Nat.eq_of_testBit_eq
  intro j
  rw [show (256 : Nat) = 2 ^ 8 from rfl, Nat.testBit_mod_two_pow, Nat.testBit_mod_two_pow, Nat.testBit_div_two_pow, Nat.testBit_mod_two_pow,
    Nat.testBit_div_two_pow, Nat.testBit_div_two_pow]
  by_cases hj : j < 8
  · have : 8 * i + j < 8 * n := by omega
    have h2 : 8 * lo + (8 * i + j) = 8 * (lo + i) + j := by omega
    simp only [hj, decide_true, Bool.true_and]
    rw [show j + 8 * i = 8 * i + j by omega]
    simp only [this, decide_true, Bool.true_and]
    congr 1
    omega
  · simp [hj]

theorem lanes_lt (x : W128) (lo n : Nat) : lanes x lo n < 2 ^ (8 * n) := Nat.mod_lt _ (Nat.two_pow_pos _)

/-- A number of `w` bytes is known by them. -/
theorem eq_of_bytes {w x y : Nat} (hx : x < 2 ^ (8 * w)) (hy : y < 2 ^ (8 * w)) (h : ∀ i, i < w → (x >>> (8 * i)) % 256 = (y >>> (8 * i)) % 256) : x = y := by
  apply Nat.eq_of_testBit_eq
  intro j
  by_cases hj : j < 8 * w
  · have hb := congrArg (fun n => n.testBit (j % 8)) (h (j / 8) (by omega))
    simp only [show (256 : Nat) = 2 ^ 8 from rfl, Nat.testBit_mod_two_pow, Nat.testBit_shiftRight, Nat.mod_lt j (show 0 < 8 by decide), decide_true,
      Bool.true_and] at hb
    rwa [show 8 * (j / 8) + j % 8 = j by omega] at hb
  · rw [Nat.testBit_lt_two_pow (lt_of_lt_of_le hx (Nat.pow_le_pow_right (by decide) (by omega))),
      Nat.testBit_lt_two_pow (lt_of_lt_of_le hy (Nat.pow_le_pow_right (by decide) (by omega)))]

end Loads

end Sys2Proof.Machine

/-! PROOF. Fetches from memory without errors. -/
namespace Sys2Proof.Machine

/-! ### A fetch from memory without errors -/

/-- What a read of memory without errors leaves as it is: memory, the stacks, every FREEZE, and of a bank its partition, owner and fence. -/
structure ReadsClean (s t : State) : Prop where
  mem : t.mem = s.mem
  stk : t.stk = s.stk
  freezes : SameFreezes s t
  banks : ∀ b : BankId, t.banks[b].part = s.banks[b].part ∧ t.banks[b].owner = s.banks[b].owner ∧ t.banks[b].drain = s.banks[b].drain ∧
    t.banks[b].fenced = s.banks[b].fenced

theorem ReadsClean.refl (s : State) : ReadsClean s s := ⟨rfl, rfl, SameFreezes.refl s, fun _ => ⟨rfl, rfl, rfl, rfl⟩⟩

theorem ReadsClean.trans {s t u : State} (h : ReadsClean s t) (k : ReadsClean t u) : ReadsClean s u :=
  ⟨k.mem.trans h.mem, k.stk.trans h.stk, h.freezes.trans k.freezes, fun b =>
    ⟨(k.banks b).1.trans (h.banks b).1, (k.banks b).2.1.trans (h.banks b).2.1, (k.banks b).2.2.1.trans (h.banks b).2.2.1,
      (k.banks b).2.2.2.trans (h.banks b).2.2.2⟩⟩

theorem ReadsClean.way {s t : State} (h : WayKeeps s t) (hf : SameFreezes s t) : ReadsClean s t :=
  ⟨h.mem, h.stk, hf, fun b => by rw [h.banks]; exact ⟨rfl, rfl, rfl, rfl⟩⟩

theorem readsClean_modCore (s : State) (c : CoreId) (f : Core → Core) : ReadsClean s (modCore s c f) := by
  cases c with
  | ve n => exact ⟨rfl, rfl, SameFreezes.of_fab rfl, fun _ => ⟨rfl, rfl, rfl, rfl⟩⟩
  | sv => exact ⟨rfl, rfl, SameFreezes.of_fab rfl, fun _ => ⟨rfl, rfl, rfl, rfl⟩⟩

/-- A change of one bank's counters or of who waits there. -/
theorem readsClean_modBank (s : State) (b : BankId) (f : Bank → Bank)
    (h : ∀ k, (f k).part = k.part ∧ (f k).owner = k.owner ∧ (f k).drain = k.drain ∧ (f k).fenced = k.fenced) : ReadsClean s (modBank s b f) := by
  refine ⟨rfl, rfl, SameFreezes.of_fab rfl, fun d => ?_⟩
  by_cases hd : b = d
  · rw [← hd, modBank_same]
    exact h _
  · rw [modBank_other _ _ _ _ hd]
    exact ⟨rfl, rfl, rfl, rfl⟩

theorem readsClean_nonOwner (s : State) (b : BankId) (c w : Nat) (wr : Bool) : ReadsClean s (nonOwner s b c w wr) := by
  obtain ⟨x, e⟩ := nonOwner_frame s b c w wr
  rw [e]
  have hb := readsClean_modBank s b (fun k => { k with nonowner := satInc k.nonowner }) fun k => ⟨rfl, rfl, rfl, rfl⟩
  exact ⟨hb.mem, hb.stk, SameFreezes.of_fab rfl, hb.banks⟩

theorem readsClean_noteWait (s : State) (m : MasterKind) (a : Nat) : ReadsClean s (noteWait s m a) := by
  unfold noteWait
  split
  · split
    · exact readsClean_modBank _ _ _ fun k => ⟨rfl, rfl, rfl, rfl⟩
    · exact ReadsClean.refl s
  · exact ReadsClean.refl s

theorem readsClean_noteCore (s : State) (c : CoreId) (w : Want) (a : Nat) : ReadsClean s (noteCore s c w a) := by
  cases c with
  | sv => exact ReadsClean.refl s
  | ve n =>
    unfold noteCore
    dsimp only
    split
    · unfold noteWaitAt
      split
      · exact readsClean_noteWait _ _ _
      · exact ReadsClean.refl s
    · exact ReadsClean.refl s

section Reads

variable {s : State}

theorem readsClean_readWord (hp : s.mem.poison = []) (hl : s.mem.latent = []) (d code a : Nat) : ReadsClean s (readWord s d code a).s := by
  unfold readWord
  split
  · exact ReadsClean.refl s
  · split
    · exact ReadsClean.refl s
    · split
      · split
        · rw [checkWord_clean hp hl]
          exact ReadsClean.refl s
        · exact ReadsClean.refl s
        · exact readsClean_nonOwner _ _ _ _ _
      · rw [checkWord_clean hp hl]
        exact ReadsClean.refl s

theorem readsClean_via {m : MasterKind} {a : Nat} {f : State → Acc} (hf : ∀ t, t.mem = s.mem → ReadsClean t (f t).s) : ReadsClean s (via s m a f).s := by
  unfold via
  split
  · exact ReadsClean.refl s
  · split
    · exact ReadsClean.refl s
    · split
      · exact ReadsClean.refl s
      · have hk := pathTake_wayKeeps s m ‹_› false
        exact (ReadsClean.way hk (pathTake_freezes _ _ _ _)).trans (hf _ hk.mem)

/-- A read that a core's fetch makes. -/
theorem readsClean_coreRead {c : CoreId} {a : Nat} (hc : (c = .sv ∧ a < 0x100000) ∨ (s.mem.poison = [] ∧ s.mem.latent = [])) (hsv : c = .sv → a < 0x100000) :
    ReadsClean s (coreRead s c .fetch a).s := by
  cases c with
  | ve n =>
    obtain ⟨h, -⟩ | ⟨hp, hl⟩ := hc
    · cases h
    unfold coreRead
    dsimp only
    split
    · exact ReadsClean.refl s
    · unfold readPart
      split
      · exact readsClean_via fun t ht => readsClean_readWord (ht ▸ hp) (ht ▸ hl) _ _ _
      · exact ReadsClean.refl s
  | sv =>
    have ha := hsv rfl
    unfold coreRead
    dsimp only
    rw [if_neg (by simp only [hbmLo]; omega)]
    unfold internalVia
    split
    · exact ReadsClean.refl s
    · dsimp only
      rw [internalWord_low _ ha]
      exact ReadsClean.way (portTake_wayKeeps s .supervisor) (portTake_freezes s .supervisor)

/-- Where a core's fetch changes no word of memory: the supervisor's, and a VE's from memory without errors. -/
def fetchClean (s : State) (c : CoreId) : Prop := c = .sv ∨ (s.mem.poison = [] ∧ s.mem.latent = [])

theorem fetchClean.of {t : State} {c : CoreId} (h : fetchClean s c) (hk : ReadsClean s t) : fetchClean t c := by
  rw [fetchClean, hk.mem]
  exact h

theorem readsClean_fetchRead {t : State} {c : CoreId} {a : Nat} (h : fetchClean s c) (hk : ReadsClean s t) (hsv : c = .sv → a < 0x100000) :
    ReadsClean s (coreRead t c .fetch a).s := by
  refine hk.trans (readsClean_coreRead ?_ hsv)
  rcases h.of hk with hc | hc
  · exact .inl ⟨hc, hsv hc⟩
  · exact .inr hc

theorem readsClean_lineRead {c : CoreId} {l : Nat} (h : fetchClean s c) (hsv : c = .sv → 64 * l < 0x100000) : ReadsClean s (lineRead s c l).2 := by
  unfold lineRead
  have hfold : ∀ is : List Nat, (∀ i ∈ is, i < 4) → ∀ x : List (Nat × W128) × State, ReadsClean s x.2 → ReadsClean s
      (is.foldl (fun (x : List (Nat × W128) × State) i =>
        let r := coreRead x.2 c .fetch (64 * l + 16 * i)
        (x.1 ++ [(r.status, r.data)], r.s)) x).2 := by
    intro is
    induction is with
    | nil => exact fun _ x hx => hx
    | cons i is ih =>
      intro hi x hx
      refine ih (fun j hj => hi j (List.mem_cons_of_mem _ hj)) _ (readsClean_fetchRead h hx fun hc => ?_)
      have := hi i (List.mem_cons_self ..)
      have := hsv hc
      omega
  exact hfold _ (fun i hi => List.mem_range.1 hi) _ (ReadsClean.refl s)

theorem readsClean_aheadRead {n : VeId} {ws : List Nat} (h : fetchClean s (.ve n)) : ReadsClean s (aheadRead (.ve n) ws s).2 := by
  unfold aheadRead
  suffices hfold : ∀ x : List (Nat × Nat) × State, ReadsClean s x.2 → ReadsClean s
      (ws.foldl (fun x w =>
        let r := coreRead x.2 (.ve n) .fetch (16 * w)
        if r.status = 9 then x else (if r.status = 0 ∨ r.status = 6 ∨ r.status = 7 then x.1 ++ [(w, r.status)] else x.1, r.s)) x).2 from
    hfold _ (ReadsClean.refl s)
  induction ws with
  | nil => exact fun x hx => hx
  | cons w ws ih =>
    intro x hx
    refine ih _ ?_
    dsimp only
    split
    · exact hx
    · exact readsClean_fetchRead h hx fun hc => by cases hc

/-- The supervisor fetches from boot ROM and the low window alone. -/
theorem accCheck_sv_fetch {a : Nat} (h : accCheck s .sv .fetch a = 0) : a < 0x100000 := by
  unfold accCheck at h
  dsimp only at h
  split at h
  · assumption
  · split at h
    · rw [if_pos rfl] at h
      cases h
    · rw [if_neg (by simp)] at h
      cases h

theorem readsClean_fetchAt {c : CoreId} {a : Nat} (h : fetchClean s c) : ReadsClean s (fetchAt s c a).2 := by
  unfold fetchAt
  dsimp only
  split
  · exact readsClean_noteCore _ _ _ _
  · split
    · exact ReadsClean.refl s
    next hk9 hk0 =>
      have hsv : c = .sv → a < 0x100000 := fun hc => by
        subst hc
        exact accCheck_sv_fetch (by simpa using hk0)
      split
      next hdet =>
        cases c with
        | sv => cases hdet
        | ve n =>
          split
          · exact ReadsClean.refl s
          · unfold fetchDet
            dsimp only
            split
            all_goals
              dsimp only
              exact (readsClean_aheadRead h).trans (readsClean_modCore _ _ _)
      · split
        · exact readsClean_modCore _ _ _
        · split
          · exact ReadsClean.refl s
          · exact (readsClean_lineRead h fun hc => by have := hsv hc; omega).trans (readsClean_modCore _ _ _)

theorem readsClean_fetched {c : CoreId} {long : Bool} (h : fetchClean s c) : ReadsClean s (fetched s c long) := by
  unfold fetched fetchGo
  dsimp only
  have h1 := readsClean_fetchAt (a := (core s c).r.pc.toNat) h
  have h2 : ∀ b, ReadsClean s (fetchAt (fetchAt s c (core s c).r.pc.toNat).2 c b).2 := fun b => h1.trans (readsClean_fetchAt (h.of h1))
  split
  · exact h1
  · split
    · exact h1
    · split
      · split
        · exact h2 _
        · split
          · exact h2 _
          · exact h2 _
      · exact h1

end Reads

end Sys2Proof.Machine

/-! PROOF. Loads of a VE from memory. -/
namespace Sys2Proof.Machine

/-! ### LD -/

theorem isLong_memOps (r : Regs) (st : Bool) (f : MemForm) : isLong (memOps r st f).enc = ((memOps r st f).len == 4) := by
  cases f with
  | h0 rt base =>
    have := rt.isLt; have := base.isLt
    cases st
    · exact isLong_short _ (by simp; omega)
    · exact isLong_short _ (by simp; omega)
  | h5 rt off =>
    have := rt.isLt; have := off.isLt
    cases st
    · exact isLong_short _ (by simp; omega)
    · exact isLong_short _ (by simp; omega)
  | c3 sz x rt base off => exact isLong_long _ _ (by decide) (by decide)

theorem loadReg_withPc (r : Regs) (x : MemOps) (v : W128) (p : Addr) : loadReg { r with pc := p } x v = { loadReg r x v with pc := p } := by
  unfold loadReg
  split
  · exact xSet_withPc r _ _ _
  · split
    · exact regSet_withPc r _ _ _
    · exact regSet_withPc r _ _ _

/-- What a step from a near state does, it does from the state with the arbiters as they then are. -/
theorem Near.steps {u v t : State} {c : CoreId} {z : Nat → W128} {r : Regs} (hn : Near u c v) (hk : DcMoved z (core u c) (core v c)) (h : Steps v t c r) :
    Steps { u with fab := v.fab } t c r := by
  obtain ⟨honly, hcore⟩ := h
  have hrest : OnlyCore { u with fab := v.fab } v c := hn.rest
  have hfab : core { u with fab := v.fab } c = core u c := by cases c <;> rfl
  refine ⟨hrest.trans honly, ?_⟩
  have hcr : core v c = { core u c with dcache := (core v c).dcache, dcMiss := (core v c).dcMiss } := hk.frame
  rw [hfab, hcore, hcr]

section Ld

variable {s : State} {c : CoreId} {f : MemForm}

/-- A load whose access gives a value completes with it. -/
theorem ld_gets {z : Nat → W128} {v : W128} {t : State} (hr : Ready s c (memOps (core s c).r false f).len) (hok : (memOps (core s c).r false f).ok = true)
    (hl : loadAcc (taken s c (memOps (core s c).r false f).len) c (memOps (core s c).r false f).addr (2 ^ (memOps (core s c).r false f).sz) = .ok v t)
    (hn : Near (taken s c (memOps (core s c).r false f).len) c t)
    (hk : DcMoved z (core (taken s c (memOps (core s c).r false f).len) c) (core t c)) :
    ∃ g t', exec (.ld c f) s = .next t' ∧ WayKeeps (taken s c (memOps (core s c).r false f).len) g ∧
      Steps g t' c { loadReg (core s c).r (memOps (core s c).r false f) v with
        pc := nextPc s c (memOps (core s c).r false f).len &&& ~~~(1 : Addr) } := by
  refine ⟨_, _, exec_of_seqOp (i := .ld c f) rfl (isLong_memOps _ _ _) hr hok, hn.wayKeeps, ?_⟩
  rw [hl]
  have hregs : (core t c).r = (core s c).r := by rw [hk.frame, fetched_regs]
  have hst := steps_regOp t c (memOps (core s c).r false f).len (f := fun r => loadReg r (memOps (core s c).r false f) v)
    fun r p => loadReg_withPc r _ v p
  rw [nextPc, hregs] at hst
  exact hn.steps hk hst

/-- A load whose access fails enters vector 3. -/
theorem ld_faults {k : Nat} {up : Bool} {a : Nat} {t : State} (hr : Ready s c (memOps (core s c).r false f).len)
    (hok : (memOps (core s c).r false f).ok = true)
    (hl : loadAcc (taken s c (memOps (core s c).r false f).len) c (memOps (core s c).r false f).addr (2 ^ (memOps (core s c).r false f).sz) = .bad k up a t) :
    exec (.ld c f) s = .next (dataFault t c k false (memOps (core s c).r false f).sz up a) := by
  rw [exec_of_seqOp (i := .ld c f) rfl (isLong_memOps _ _ _) hr hok, hl]

end Ld

/-! ### Numbers by their bytes -/

theorem testBit_of_byte {x y i k j : Nat} (h : (x >>> (8 * i)) % 256 = (y >>> (8 * k)) % 256) (hj : j < 8) :
    x.testBit (8 * i + j) = y.testBit (8 * k + j) := by
  have hb := congrArg (fun n => n.testBit j) h
  simpa only [show (256 : Nat) = 2 ^ 8 from rfl, Nat.testBit_mod_two_pow, Nat.testBit_shiftRight, hj, decide_true, Bool.true_and] using hb

/-- A number whose low bytes are `x` and whose others are `y`. -/
theorem joined_bytes {n w x y v : Nat} (hn : n ≤ w) (hx : x < 2 ^ (8 * n)) (hy : y < 2 ^ (8 * (w - n))) (hv : v < 2 ^ (8 * w))
    (hlo : ∀ i, i < n → (x >>> (8 * i)) % 256 = (v >>> (8 * i)) % 256)
    (hhi : ∀ i, i < w - n → (y >>> (8 * i)) % 256 = (v >>> (8 * (n + i))) % 256) : x + y * 2 ^ (8 * n) = v := by
  apply Nat.eq_of_testBit_eq
  intro j
  rw [Nat.add_comm, Nat.mul_comm, Nat.testBit_two_pow_mul_add _ hx]
  by_cases hj : j < 8 * n
  · rw [if_pos hj]
    have := testBit_of_byte (hlo (j / 8) (by omega)) (Nat.mod_lt j (by decide))
    rwa [show 8 * (j / 8) + j % 8 = j by omega] at this
  · rw [if_neg hj]
    by_cases hw : j < 8 * w
    · have := testBit_of_byte (hhi (j / 8 - n) (by omega)) (Nat.mod_lt j (by decide))
      rwa [show 8 * (j / 8 - n) + j % 8 = j - 8 * n by omega, show 8 * (n + (j / 8 - n)) + j % 8 = j by omega] at this
    · rw [Nat.testBit_lt_two_pow (lt_of_lt_of_le hy (Nat.pow_le_pow_right (by decide) (by omega))),
        Nat.testBit_lt_two_pow (lt_of_lt_of_le hv (Nat.pow_le_pow_right (by decide) (by omega)))]

/-! ### Loads of a VE from memory -/

/-- Where a VE's address lies in the device. -/
def devOf (u : State) (n : VeId) (a : Nat) : Nat := ((execPart u n).bind fun p => partDev u p (a.testBit 38) (a % 2 ^ 38)).getD 0

/-- The word that a VE's sequencer finds at a word address. -/
def veWord (u : State) (n : VeId) (a : Nat) : W128 := wordGet u.mem (devOf u n a / 16)

section VeLoads

variable {u : State} {n : VeId} {w : Want} {a d : Nat} {x : MemUnit}

theorem Reach.devOf (h : Reach u (.ve n) w a d x) : Machine.devOf u n a = d := by
  obtain ⟨p, hp, hd, -⟩ := h.place
  rw [Machine.devOf, hp, Option.bind_some, hd]
  rfl

/-- A byte's address within its line is that of its place within its line. -/
theorem Reach.mod (h : Reach u (.ve n) w a d x) : d % 64 = a % 64 := by
  obtain ⟨y, hy⟩ := h.line (fun hc => by cases hc) rfl
  have := hy.devOf.symm.trans h.devOf
  omega

theorem wordServed_ve {k : Core} (hp : u.mem.poison = []) (hl : u.mem.latent = []) (h : Reach u (.ve n) .read a d x)
    (hg : ∀ l ∈ k.dcache, l.line ≠ a / 64) : WordServed u (.ve n) (veWord u n) k (a / 16 * 16) := by
  have hs : ∀ b, b % 16 = 0 → b / 64 = a / 64 → Served u (.ve n) .read b (veWord u n b) := fun b hb hba => by
    obtain ⟨y, hy⟩ := h.line (fun hc => by cases hc) hba
    rw [veWord, hy.devOf]
    exact served_of_reach hp hl hy hb
  refine ⟨hs _ (Nat.mul_mod_left _ _) (by omega), fun _ i hi => hs _ (by omega) (by omega), fun _ l hl hb => absurd ?_ (hg l hl)⟩
  omega

theorem byteOf_veWord (h : Reach u (.ve n) w a d x) : byteOf (veWord u n (a / 16 * 16)) (a % 16) = cellGet u.mem.cells d := by
  obtain ⟨y, hy⟩ := h.line (b := a / 16 * 16) (fun hc => by cases hc) (by omega)
  have hm := h.mod
  rw [veWord, hy.devOf, byteOf_wordGet _ _ (Nat.mod_lt _ (by decide))]
  congr 1
  omega

/-- The next word after that of an address. -/
def nextWord (a : Nat) : Nat := (a / 16 + 1) * 16 % 2 ^ 40

theorem nthAddr_low {a i : Nat} (ha : a < 2 ^ 40) (h : a % 16 + i < 16) : nthAddr a i / 16 * 16 = a / 16 * 16 ∧ nthAddr a i % 16 = a % 16 + i := by
  rw [nthAddr]
  omega

theorem nthAddr_next {a i : Nat} (h : i < 16) : nthAddr a (16 - a % 16 + i) / 16 * 16 = nextWord a ∧ nthAddr a (16 - a % 16 + i) % 16 = i := by
  rw [nthAddr, nextWord]
  omega

theorem nextWord_mod (a : Nat) : nextWord a / 16 * 16 = nextWord a := by
  rw [nextWord]
  omega

/-- The value `v` of `w` bytes has those that the words `y` hold from address `a` on. -/
def BytesAt (y : Nat → W128) (a w : Nat) (v : W128) : Prop := ∀ i, i < w → byteOf v i = byteOf (y (nthAddr a i / 16 * 16)) (nthAddr a i % 16)

section Values

variable {y : Nat → W128} {a w : Nat} {v : W128}

theorem BytesAt.low (h : BytesAt y a w v) (ha : a < 2 ^ 40) {i : Nat} (hi : i < w) (hl : a % 16 + i < 16) {n : Nat} (hn : i < n) :
    (lanes (y (a / 16 * 16)) (a % 16) n >>> (8 * i)) % 256 = (v.toNat >>> (8 * i)) % 256 := by
  obtain ⟨h1, h2⟩ := nthAddr_low ha hl
  have hb := congrArg BitVec.toNat (h i hi)
  rw [h1, h2] at hb
  rw [lanes_byte _ hn, ← hb, byteOf, BitVec.toNat_ofNat]

theorem BytesAt.high (h : BytesAt y a w v) {i : Nat} (hi : 16 - a % 16 + i < w) (hl : i < 16) {n : Nat} (hn : i < n) :
    (lanes (y (nextWord a)) 0 n >>> (8 * i)) % 256 = (v.toNat >>> (8 * (16 - a % 16 + i))) % 256 := by
  obtain ⟨h1, h2⟩ := nthAddr_next (a := a) hl
  have hb := congrArg BitVec.toNat (h _ hi)
  rw [h1, h2] at hb
  rw [lanes_byte _ hn, Nat.zero_add, ← hb, byteOf, BitVec.toNat_ofNat]

theorem BytesAt.one (h : BytesAt y a w v) (ha : a < 2 ^ 40) (hv : v.toNat < 2 ^ (8 * w)) (hw : a % 16 + w ≤ 16) :
    BitVec.ofNat 128 (lanes (y (a / 16 * 16)) (a % 16) w) = v := by
  have hval : lanes (y (a / 16 * 16)) (a % 16) w = v.toNat := eq_of_bytes (lanes_lt _ _ _) hv fun i hi => h.low ha hi (by omega) hi
  rw [hval, BitVec.ofNat_toNat, BitVec.setWidth_eq]

theorem BytesAt.two (h : BytesAt y a w v) (ha : a < 2 ^ 40) (hv : v.toNat < 2 ^ (8 * w)) (hw : ¬ a % 16 + w ≤ 16) (hw16 : w ≤ 16) :
    BitVec.ofNat 128 (lanes (y (a / 16 * 16)) (a % 16) (16 - a % 16) + lanes (y (nextWord a)) 0 (a % 16 + w - 16) * 2 ^ (8 * (16 - a % 16))) = v := by
  have hlen : a % 16 + w - 16 = w - (16 - a % 16) := by omega
  have hval := joined_bytes (n := 16 - a % 16) (w := w) (by omega) (lanes_lt (y (a / 16 * 16)) (a % 16) _)
    (lanes_lt (y (nextWord a)) 0 _) hv (fun i hi => h.low ha (by omega) (by omega) hi) fun i hi => h.high (by omega) (by omega) hi
  rw [hlen, hval, BitVec.ofNat_toNat, BitVec.setWidth_eq]

end Values

/-- A load from memory gets its bytes. -/
theorem loadAcc_ve {a w : Nat} {v : W128} (hq : u.eng[n].queue = []) (hp : u.mem.poison = []) (hl : u.mem.latent = []) (hw0 : 0 < w) (hw : w ≤ 16)
    (hv : v.toNat < 2 ^ (8 * w)) (ha : a < 2 ^ 40)
    (hb : ∀ i, i < w → ∃ d, seqByte u n .read (nthAddr a i) = some d ∧ byteOf v i = cellGet u.mem.cells d)
    (hg : ∀ i, i < w → ∀ l ∈ (core u (.ve n)).dcache, l.line ≠ nthAddr a i / 64) :
    ∃ t, loadAcc u (.ve n) a w = .ok v t ∧ Near u (.ve n) t ∧ DcMoved (veWord u n) (core u (.ve n)) (core t (.ve n)) := by
  have hreach : ∀ i, i < w → ∃ d x, Reach u (.ve n) .read (nthAddr a i) d x ∧ byteOf v i = cellGet u.mem.cells d := fun i hi => by
    obtain ⟨d, hd, hbyte⟩ := hb i hi
    obtain ⟨x, hx⟩ := reach_of_seqByte hd
    exact ⟨d, x, hx, hbyte⟩
  have hbytes : BytesAt (veWord u n) a w v := fun i hi => by
    obtain ⟨d, x, hr, he⟩ := hreach i hi
    rw [he, byteOf_veWord hr]
  have h0 : nthAddr a 0 = a := Nat.mod_eq_of_lt ha
  obtain ⟨d0, x0, hr0, -⟩ := hreach 0 hw0
  rw [h0] at hr0
  have hlow := hr0.addr_ve
  have hs0 := wordServed_ve (k := core u (.ve n)) hp hl hr0 (by simpa only [h0] using hg 0 hw0)
  have hquiet : ∀ m, CoreId.ve n = CoreId.ve m → u.eng[m].queue = [] := fun m hm => by
    cases hm
    exact hq
  have hgo : loadAcc u (.ve n) a w = loadAcc.go (.ve n) u a w := if_neg (Nat.not_le_of_lt hlow)
  rw [hgo]
  by_cases hone : a % 16 + w ≤ 16
  · obtain ⟨t, e, hn, hk⟩ := loadGo_one (Near.refl u (.ve n)) hquiet hone hr0.check hs0
    exact ⟨t, by rw [e, hbytes.one ha hv hone], hn, hk⟩
  · have hcut : 16 - a % 16 < w := by omega
    obtain ⟨d1, x1, hr1, -⟩ := hreach _ hcut
    have hg1 := hg _ hcut
    have hnext : nthAddr a (16 - a % 16) = nextWord a := by
      rw [nthAddr, nextWord]
      congr 1
      omega
    rw [hnext] at hr1 hg1
    have hs1 := wordServed_ve (k := core u (.ve n)) hp hl hr1 hg1
    rw [nextWord_mod] at hs1
    obtain ⟨t, e, hn, hk⟩ := loadGo_two (Near.refl u (.ve n)) hquiet hone hr0.check hr1.check hs0 hs1
    refine ⟨t, ?_, hn, hk⟩
    rw [e]
    exact congrArg (MemRes.ok · t) (hbytes.two ha hv hone hw)

end VeLoads

end Sys2Proof.Machine

/-! PROOF. The clauses of a load. -/
namespace Sys2Proof.Machine

theorem effAddr_lt (base : W64) (off : Int) : effAddr base off < 2 ^ 40 := by
  unfold effAddr
  omega

theorem memOps_addr (r : Regs) (st : Bool) (f : MemForm) : (memOps r st f).addr < 2 ^ 40 := by
  cases f with
  | h0 rt base => exact effAddr_lt (regGet r (hreg base)) 0
  | h5 rt off => exact effAddr_lt r.g[(7 : Fin 8)] (8 * off.toNat : Nat)
  | c3 sz x rt base off => exact effAddr_lt (regGet r base) off.toInt

theorem memOps_sz {r : Regs} {st : Bool} {f : MemForm} (h : (memOps r st f).ok = true) : (memOps r st f).sz ≤ 4 := by
  cases f with
  | h0 => exact (by decide : 3 ≤ 4)
  | h5 => exact (by decide : 3 ≤ 4)
  | c3 sz x rt base off =>
    simp only [memOps, Bool.and_eq_true, decide_eq_true_eq] at h ⊢
    exact h.1.1

/-- A load of eight bytes or more is not extended. -/
theorem memOps_ext {r : Regs} {st : Bool} {f : MemForm} (h : (memOps r st f).ok = true) (hs : 3 ≤ (memOps r st f).sz) : (memOps r st f).ext = false := by
  cases f with
  | h0 => rfl
  | h5 => rfl
  | c3 sz x rt base off =>
    simp only [memOps, Bool.and_eq_true, decide_eq_true_eq, Bool.or_eq_true, Bool.not_eq_true'] at h hs ⊢
    rcases h.1.2 with hx | hx
    · exact hx
    · omega

theorem bytes_le {sz : Nat} (h : sz ≤ 4) : 2 ^ sz ≤ 16 := Nat.pow_le_pow_right (by decide) h

section VeClauses

variable {s : State} {n : VeId} {f : MemForm}

theorem ld_memory (hr : Ready s (.ve n) (memOps (core s (.ve n)).r false f).len) (hok : (memOps (core s (.ve n)).r false f).ok = true) (v : W128)
    (hq : s.eng[n].queue = []) (hp : s.mem.poison = []) (hl : s.mem.latent = []) (hv : v.toNat < 2 ^ (8 * 2 ^ (memOps (core s (.ve n)).r false f).sz))
    (hb : ∀ i, i < 2 ^ (memOps (core s (.ve n)).r false f).sz → ∃ d, seqByte (taken s (.ve n) (memOps (core s (.ve n)).r false f).len) n .read
      (nthAddr (memOps (core s (.ve n)).r false f).addr i) = some d ∧ byteOf v i = cellGet s.mem.cells d)
    (hg : ∀ i, i < 2 ^ (memOps (core s (.ve n)).r false f).sz → ∀ l ∈ (core s (.ve n)).dcache,
      l.line ≠ nthAddr (memOps (core s (.ve n)).r false f).addr i / 64) :
    ∃ g t, exec (.ld (.ve n) f) s = .next t ∧ WayKeeps (taken s (.ve n) (memOps (core s (.ve n)).r false f).len) g ∧
      Steps g t (.ve n) { loadReg (core s (.ve n)).r (memOps (core s (.ve n)).r false f) v with
        pc := nextPc s (.ve n) (memOps (core s (.ve n)).r false f).len &&& ~~~(1 : Addr) } := by
  have hmem := (readsClean_fetched (long := (memOps (core s (.ve n)).r false f).len == 4) (c := .ve n) (.inr ⟨hp, hl⟩)).mem
  obtain ⟨t, e, hn, hk⟩ := loadAcc_ve (u := taken s (.ve n) (memOps (core s (.ve n)).r false f).len) (n := n) (v := v)
    (a := (memOps (core s (.ve n)).r false f).addr) (w := 2 ^ (memOps (core s (.ve n)).r false f).sz)
    (by rw [fetched_queue, hq]) (by rw [hmem, hp]) (by rw [hmem, hl]) (Nat.two_pow_pos _) (bytes_le (memOps_sz hok)) hv (memOps_addr _ _ _)
    (by rw [hmem]; exact hb) (by rw [fetched_dcache]; exact hg)
  exact ld_gets hr hok e hn hk

theorem loadGo_bad {u : State} {c : CoreId} {a w i k pa : Nat} (h : partsBad u c .read (accParts a w) = some (i, k, pa)) :
    loadAcc.go c u a w = .bad k (i == 1) pa u := by
  unfold loadAcc.go
  dsimp only
  rw [h]

theorem veLoad_plain {u : State} {k b w : Nat} {v : W128} (he : veEntry u n k = some (b, v)) (hdb : k ≠ 0x23) (hring : k = 0x26 → w = 8) :
    veLoad u n k w = some (if w = 8 then v &&& BitVec.ofNat 128 (2 ^ 64 - 1) else v, u) := by
  rw [veLoad, he]
  dsimp only
  rw [if_neg hdb, if_neg (fun h => by have := hring h.1; omega)]

theorem loadAcc_block {u : State} {a w : Nat} (ha : 2 ^ 39 ≤ a) (h16 : a % 16 = 0) (hw : w = 8 ∨ w = 16) (hsub : (a - 2 ^ 39) / 16 < 256) :
    loadAcc u (.ve n) a w = match veLoad u n ((a - 2 ^ 39) / 16) w with
      | some (v, t) => .ok v t
      | none => .bad 0x0B false a u := (if_pos ha).trans (if_pos ⟨hw, h16, hsub⟩)

theorem loadAcc_offBlock {u : State} {a w : Nat} (ha : 2 ^ 39 ≤ a) (h : ¬ ((w = 8 ∨ w = 16) ∧ a % 16 = 0 ∧ (a - 2 ^ 39) / 16 < 256)) :
    loadAcc u (.ve n) a w = .bad 0x0B false a u := (if_pos ha).trans (if_neg h)

theorem loadAcc_noEntry {u : State} {w a : Nat} (ha : 2 ^ 39 ≤ a)
    (h : a % 16 ≠ 0 ∨ w < 8 ∨ 256 ≤ (a - 2 ^ 39) / 16 ∨ veEntry u n ((a - 2 ^ 39) / 16) = none) : loadAcc u (.ve n) a w = .bad 0x0B false a u := by
  by_cases hc : (w = 8 ∨ w = 16) ∧ a % 16 = 0 ∧ (a - 2 ^ 39) / 16 < 256
  · obtain ⟨hw, h16, hsub⟩ := hc
    have hnone : veEntry u n ((a - 2 ^ 39) / 16) = none := by
      rcases h with h | h | h | h
      · exact absurd h16 h
      · omega
      · exact absurd hsub (Nat.not_lt_of_le h)
      · exact h
    rw [loadAcc_block ha h16 hw hsub, veLoad, hnone]
  · exact loadAcc_offBlock ha hc

theorem setWidth_mask (v : W128) : v &&& BitVec.ofNat 128 (2 ^ 64 - 1) = (v.setWidth 64).setWidth 128 := by
  apply BitVec.eq_of_toNat_eq
  rw [BitVec.toNat_and, BitVec.toNat_setWidth, BitVec.toNat_setWidth, BitVec.toNat_ofNat, Nat.mod_eq_of_lt (show 2 ^ 64 - 1 < 2 ^ 128 by decide),
    Nat.and_two_pow_sub_one_eq_mod, Nat.mod_eq_of_lt (a := _ % 2 ^ 64) (by omega)]

theorem ld_entry (hr : Ready s (.ve n) (memOps (core s (.ve n)).r false f).len) (hok : (memOps (core s (.ve n)).r false f).ok = true) {b : Nat} {v : W128}
    (ha : 2 ^ 39 ≤ (memOps (core s (.ve n)).r false f).addr) (h16 : (memOps (core s (.ve n)).r false f).addr % 16 = 0)
    (hw : 2 ^ (memOps (core s (.ve n)).r false f).sz = 8 ∨ 2 ^ (memOps (core s (.ve n)).r false f).sz = 16)
    (hsub : ((memOps (core s (.ve n)).r false f).addr - 2 ^ 39) / 16 < 256)
    (he : veEntry (taken s (.ve n) (memOps (core s (.ve n)).r false f).len) n (((memOps (core s (.ve n)).r false f).addr - 2 ^ 39) / 16) = some (b, v))
    (hdb : ((memOps (core s (.ve n)).r false f).addr - 2 ^ 39) / 16 ≠ 0x23)
    (hring : ((memOps (core s (.ve n)).r false f).addr - 2 ^ 39) / 16 = 0x26 → 2 ^ (memOps (core s (.ve n)).r false f).sz = 8) :
    ∃ t, exec (.ld (.ve n) f) s = .next t ∧ Steps (taken s (.ve n) (memOps (core s (.ve n)).r false f).len) t (.ve n)
      { loadReg (core s (.ve n)).r (memOps (core s (.ve n)).r false f)
          (if 2 ^ (memOps (core s (.ve n)).r false f).sz = 8 then (v.setWidth 64).setWidth 128 else v) with
        pc := nextPc s (.ve n) (memOps (core s (.ve n)).r false f).len &&& ~~~(1 : Addr) } := by
  have e := loadAcc_block (u := taken s (.ve n) (memOps (core s (.ve n)).r false f).len) (n := n) ha h16 hw hsub
  rw [veLoad_plain he hdb hring, setWidth_mask] at e
  refine ⟨_, exec_of_seqOp (i := .ld (.ve n) f) rfl (isLong_memOps _ _ _) hr hok, ?_⟩
  rw [e]
  have hst := steps_regOp (taken s (.ve n) (memOps (core s (.ve n)).r false f).len) (.ve n) (memOps (core s (.ve n)).r false f).len
    (f := fun r => loadReg r (memOps (core s (.ve n)).r false f)
      (if 2 ^ (memOps (core s (.ve n)).r false f).sz = 8 then (v.setWidth 64).setWidth 128 else v)) fun r p => loadReg_withPc r _ _ p
  rw [fetched_regs, nextPc_taken] at hst
  exact hst

end VeClauses

/-! ### Loads of the supervisor -/

section SvClauses

variable {s : State} {f : MemForm}

/-- The supervisor's load within one word that is served. -/
theorem ld_sv {z : Nat → W128} (hr : Ready s .sv (memOps (core s .sv).r false f).len) (hok : (memOps (core s .sv).r false f).ok = true)
    (hone : (memOps (core s .sv).r false f).addr % 16 + 2 ^ (memOps (core s .sv).r false f).sz ≤ 16)
    (hal : 2 ^ 39 ≤ (memOps (core s .sv).r false f).addr → (2 ^ (memOps (core s .sv).r false f).sz = 8 ∨ 2 ^ (memOps (core s .sv).r false f).sz = 16) ∧
      (memOps (core s .sv).r false f).addr % 16 = 0)
    (hc : accCheck (taken s .sv (memOps (core s .sv).r false f).len) .sv .read (memOps (core s .sv).r false f).addr = 0)
    (hs : WordServed (taken s .sv (memOps (core s .sv).r false f).len) .sv z (core s .sv) ((memOps (core s .sv).r false f).addr / 16 * 16)) :
    ∃ g t, exec (.ld .sv f) s = .next t ∧ WayKeeps (taken s .sv (memOps (core s .sv).r false f).len) g ∧
      Steps g t .sv { loadReg (core s .sv).r (memOps (core s .sv).r false f)
        (BitVec.ofNat 128 ((z ((memOps (core s .sv).r false f).addr / 16 * 16)).toNat / 2 ^ (8 * ((memOps (core s .sv).r false f).addr % 16)) %
          2 ^ (8 * 2 ^ (memOps (core s .sv).r false f).sz))) with pc := nextPc s .sv (memOps (core s .sv).r false f).len &&& ~~~(1 : Addr) } := by
  obtain ⟨t, e, hn, hk⟩ := loadGo_one (Near.refl (taken s .sv (memOps (core s .sv).r false f).len) .sv) (fun n hn => by cases hn) hone hc
    ⟨hs.word, hs.line, fun hd => by rw [fetched_dcache]; exact hs.good hd⟩
  refine ld_gets hr hok ?_ hn hk
  rw [← lanes, ← e]
  exact if_neg fun h => h.2 (hal h.1)

end SvClauses

end Sys2Proof.Machine

/-! PROOF. Loads (O13). -/
namespace Sys2Proof.Machine

/-! ### Where the supervisor's loads are served -/

section SvWords

variable {u : State} {a : Nat} {k : Core}

theorem lineGood_absent {z : Nat → W128} {b : Nat} {ls : List CacheLine} (h : ∀ l ∈ ls, l.line ≠ b) : LineGood z b ls :=
  fun l hl hb => absurd hb (h l hl)

/-- Boot ROM and the low window of working RAM. -/
theorem wordServed_low (hf : u.fab.mgtArb.frozen = false) (ha : a < 0x100000) (hg : ∀ l ∈ k.dcache, l.line ≠ a / 64) :
    WordServed u .sv (fun b => ramWord u (!lowRam u b) b) k (a / 16 * 16) :=
  ⟨served_low hf (by omega), fun _ i hi => served_low hf (by omega), fun _ => lineGood_absent fun l hl => by
    have := hg l hl
    omega⟩

/-- Working RAM at its own place, which no data cache holds. -/
theorem wordServed_ram (hf : u.fab.mgtArb.frozen = false) (h1 : 0x80F0000000 ≤ a) (h2 : a < 0x80F0100000) :
    WordServed u .sv (fun b => ramWord u false (b - 0x80F0000000)) k (a / 16 * 16) := by
  have hdc : dcServes u .sv (a / 16 * 16) = false := decide_eq_false (by omega)
  exact ⟨served_ram hf (by omega) (by omega), fun h => by simp [hdc] at h, fun h => by simp [hdc] at h⟩

/-- HBM. -/
theorem wordServed_hbm {x : MemUnit} {m : Store} (hm : u.mem = m) (hp : m.poison = []) (hl : m.latent = []) (h : Reach u .sv .read a a x) (hg : ∀ l ∈ k.dcache, l.line ≠ a / 64) :
    WordServed u .sv (fun b => wordGet m (b / 16)) k (a / 16 * 16) := by
  subst hm
  have hs : ∀ b, b % 16 = 0 → b / 64 = a / 64 → Served u .sv .read b (wordGet u.mem (b / 16)) := fun b hb hba => by
    obtain ⟨y, hy⟩ := h.line (b := b) (fun _ hw => by cases hw) hba
    have hpl : a / 64 * 64 + b % 64 = b := by omega
    rw [hpl] at hy
    exact served_of_reach hp hl hy hb
  exact ⟨hs _ (Nat.mul_mod_left _ _) (by omega), fun _ i hi => hs _ (by omega) (by omega), fun _ => lineGood_absent fun l hl => by
    have := hg l hl
    omega⟩

theorem accCheck_low (ha : a < 0x100000) : accCheck u .sv .read a = 0 := by
  unfold accCheck
  dsimp only
  rw [if_pos ha]
  rfl

/-- The internal register space takes every access of the supervisor but a fetch. -/
theorem accCheck_internal {w : Want} (hw : w ≠ .fetch) (ha : 0x8000000000 ≤ a) : accCheck u .sv w a = 0 := by
  unfold accCheck
  dsimp only
  rw [if_neg (by omega), if_neg (by simp only [hbmHi]; omega), if_pos ⟨ha, hw⟩]

end SvWords

section Svs

variable {s : State} {len : Nat}

theorem taken_sv_mgt (hf : s.fab.mgtArb.frozen = false) : (taken s .sv len).fab.mgtArb.frozen = false :=
  (readsClean_fetched (.inl rfl)).freezes.mgt.trans hf

theorem ramWord_taken (rom : Bool) (o : Nat) : ramWord (taken s .sv len) rom o = ramWord s rom o := by
  rw [ramWord, ramWord, (readsClean_fetched (long := len == 4) (c := .sv) (.inl rfl)).mem]

theorem lowRam_taken (c : CoreId) (a : Nat) : lowRam (taken s c len) a = lowRam s a := by
  rw [lowRam, lowRam, fetched_remap]

end Svs

/-- Settles O13: the parts of an access are served one after the other, through data-cache lines that one unit fills, and give the value its bytes. -/
theorem loadResults : Obligations.LoadResults := by
  unfold Obligations.LoadResults
  refine ⟨?_, ?_⟩
  · intro s n f c r x w u block hr hok
    refine ⟨fun v => ld_memory hr hok v, ?_, ?_, ?_⟩
    · intro i k a ha hbad
      refine ld_faults hr hok ?_
      rw [← loadGo_bad hbad]
      exact if_neg (Nat.not_le_of_lt ha)
    · intro b v ha h16 hw hsub he hdb hring
      exact ld_entry hr hok ha h16 hw hsub he hdb hring
    · intro ha h
      exact ld_faults hr hok (loadAcc_noEntry ha h)
  · intro s f c r x w u a gets hr hok hone hf hg low
    have hmgt : u.fab.mgtArb.frozen = false := taken_sv_mgt hf
    have hx40 : x.addr < 2 ^ 40 := memOps_addr _ _ _
    refine ⟨fun ha => ?_, fun h1 h2 h16 hw => ?_, fun hp hl h1 h2 hc hd => ?_⟩
    · have h := ld_sv hr hok hone (fun h => absurd h (Nat.not_le_of_lt (lt_of_lt_of_le ha (by decide)))) (accCheck_low ha) (wordServed_low hmgt ha hg)
      simp only [ramWord_taken, lowRam_taken] at h
      exact h
    · have h := ld_sv hr hok hone (fun _ => ⟨hw, h16⟩) (accCheck_internal (by decide) (le_trans (by decide) h1)) (wordServed_ram hmgt h1 h2)
      simp only [ramWord_taken] at h
      exact h
    · have hmem : u.mem = s.mem := (readsClean_fetched (.inl rfl)).mem
      obtain ⟨y, hy⟩ := reach_sv (by decide) h1 h2 hc hd
      have h := ld_sv hr hok hone (fun h => absurd h (Nat.not_le_of_lt (lt_of_lt_of_le h2 (by decide)))) hc
        (wordServed_hbm hmem hp hl hy hg)
      simp only [Nat.mul_div_cancel _ (show 0 < 16 by decide)] at h
      exact h

end Sys2Proof.Machine

/-! PROOF. Stores that are served. -/
namespace Sys2Proof.Machine

/-! ### Stores that are served -/

/-- What a store leaves of its core: all but its caches and its prefetched words. -/
def StMoved (k k' : Core) : Prop := k' = { k with icache := k'.icache, ahead := k'.ahead, dcache := k'.dcache }

theorem StMoved.refl (k : Core) : StMoved k k := rfl

theorem StMoved.trans {k l m : Core} (h : StMoved k l) (g : StMoved l m) : StMoved k m := by
  rw [StMoved] at h g ⊢
  rw [g, h]

theorem Near.store {u t : State} {c : CoreId} (h : Near u c t) (m : Store) : Near { u with mem := m } c { t with mem := m } := by
  refine ⟨h.fab, ?_, ⟨h.freezes.pc, h.freezes.tap, h.freezes.cluster, h.freezes.bridge, h.freezes.mgt⟩⟩
  have hcore : core { t with mem := m } c = core t c := by cases c <;> rfl
  rw [hcore]
  conv_lhs => rw [h.rest]
  cases c <;> rfl

theorem Reach.store {u : State} {c : CoreId} {w : Want} {a d : Nat} {x : MemUnit} (h : Reach u c w a d x) (m : Store) :
    Reach { u with mem := m } c w a d x := by
  refine ⟨h.check, h.unit, h.unfenced, h.free, ?_⟩
  cases c with
  | ve n => exact h.place
  | sv => exact h.place

section Store

variable {u v : State} {c : CoreId} {a d : Nat} {x : MemUnit} {y : W128} {k : List Bool}

/-- A word's write that is served stores its enabled bytes. -/
theorem coreWrite_reach (hn : Near u c v) (hp : u.mem.poison = []) (hl : u.mem.latent = []) (hr : u.twin.resync = none) (h : Reach u c .write a d x)
    (ha : a % 16 = 0) (hq : storeQueued u c a = false) :
    ∃ t, coreWrite v c a y k = { data := 0, status := 0, s := t } ∧ Near { u with mem := maskedStore u.mem (d / 16) y k } c t ∧ core t c = core v c := by
  have hk := pathTake_wayKeeps v (coreMaster c .write) x false
  obtain ⟨hn', hcore⟩ := hn.way hk (pathTake_freezes _ _ _ _)
  have hvia := via_served ((hn.unitOf d).trans h.unit) ((hn.unitFenced (masterDie (coreMaster c .write)) x).trans h.unfenced)
    ((hn.pathWaits (coreMaster c .write) x false).trans h.free)
  have hmem : (pathTake v (coreMaster c .write) x false).mem = u.mem := hn'.mem
  have hpm : (pathTake v (coreMaster c .write) x false).mem.poison = [] := by rw [hmem, hp]
  have hlm : (pathTake v (coreMaster c .write) x false).mem.latent = [] := by rw [hmem, hl]
  have hrs : (pathTake v (coreMaster c .write) x false).twin.resync = none := by rw [hn'.twin, hr]
  refine ⟨{ pathTake v (coreMaster c .write) x false with mem := maskedStore u.mem (d / 16) y k }, ?_, hn'.store _, ?_⟩
  · cases c with
    | ve n =>
      obtain ⟨p, hpt, hd, ho⟩ := h.place
      obtain ⟨z, hz, hs⟩ := unitOf_line (e := d / 16 * 16) h.unit (by omega)
      have hwrite : coreWrite v (.ve n) a y k = writePart v p (.engine n 5) (veCode v n) (a.testBit 38) (a % 2 ^ 38) y k := by
        simp only [coreWrite, hn.execPart, hpt, veWrite, hn.parts]
        cases hrun : u.parts[p].run with
        | none => rfl
        | some r =>
          have hnq : (!a.testBit 38 && inDmem u.parts[p] (a % 2 ^ 38)) = false := by
            have hq' := hq
            rw [storeQueued, corePart, hpt] at hq'
            dsimp only at hq'
            rw [hrun] at hq'
            exact hq'
          dsimp only
          rw [if_neg (by rw [hnq]; exact Bool.false_ne_true)]
      have hm : coreMaster (.ve n) .write = .engine n 5 := rfl
      rw [hwrite]
      rw [hm] at hvia hn' hmem hpm hlm hrs ⊢
      simp only [writePart, hn.partDev, hd, hvia]
      rw [writeMasked_served (u := z) (by rw [hn'.unitOf, hz]) (by rw [hn'.unitFenced, hs.unitFenced]; exact h.unfenced)
        (by rw [hn'.ownAt, hs.ownAt, hn.veCode, ho]) hpm hlm hrs, hmem, Nat.mul_div_cancel _ (show 0 < 16 by decide)]
    | sv =>
      obtain ⟨rfl, h1, h2⟩ := h.place
      have hm : coreMaster .sv .write = .supervisor := rfl
      rw [hm] at hvia hn' hmem hpm hlm hrs ⊢
      simp only [coreWrite, if_pos (And.intro h1 h2), hvia]
      have ho : ownAt (pathTake v .supervisor x false) x 0 = 0 := by
        have hu := h.unit
        rw [unitOf_hbm u ⟨h1, h2⟩] at hu
        cases hu
        rfl
      rw [writeMasked_served (u := x) (by rw [hn'.unitOf, h.unit]) (by rw [hn'.unitFenced]; exact h.unfenced) ho hpm hlm hrs, hmem]
  · rw [← hcore]
    cases c <;> rfl

theorem near_cacheStore (hn : Near u c v) (a : Nat) (y : W128) (k : List Bool) :
    Near u c (cacheStore v c a y k) ∧ StMoved (core v c) (core (cacheStore v c a y k) c) := by
  refine ⟨hn.modCore _, ?_⟩
  unfold cacheStore
  dsimp only
  rw [core_modCore]
  rfl

/-- A store into one word that is served. -/
theorem coreStore_reach (hn : Near u c v) (hp : u.mem.poison = []) (hl : u.mem.latent = []) (hr : u.twin.resync = none) (h : Reach u c .write a d x)
    (ha : a % 16 = 0) (hq : storeQueued u c a = false) :
    ∃ t, coreStore v c a y k = { data := 0, status := 0, s := t } ∧ Near { u with mem := maskedStore u.mem (d / 16) y k } c t ∧
      StMoved (core v c) (core t c) := by
  obtain ⟨t, e, hnt, hk⟩ := coreWrite_reach (y := y) (k := k) hn hp hl hr h ha hq
  obtain ⟨hnc, hmv⟩ := near_cacheStore hnt a y k
  refine ⟨cacheStore t c a y k, ?_, hnc, ?_⟩
  · unfold coreStore
    dsimp only
    rw [e, if_pos ⟨rfl, by rw [hn.storeQueued, hq]; rfl⟩]
  · rw [hk] at hmv
    exact hmv

/-- An empty issue queue is not tainted. -/
theorem taintStore_quiet (hq : ∀ n, c = .ve n → v.eng[n].queue = []) (a : Nat) : taintStore v c a = v := by
  cases c with
  | sv => rfl
  | ve n =>
    have he : v.eng[n].queue.isEmpty = true := by rw [hq n rfl]; rfl
    unfold taintStore
    dsimp only
    rw [if_pos (by rw [he, Bool.or_true])]

/-- The data of a part as its word is written: number `n`, put at lane `lo`. -/
def partData (n lo : Nat) : W128 := BitVec.ofNat 128 (n * 2 ^ (8 * lo))

theorem storePut_eq (s : State) (pa n z : Nat) : storeAcc.put c s pa n z = coreStore s c (pa / 16 * 16) (partData z (pa % 16)) (byteMask (pa % 16) n) := rfl

end Store

/-- Memory after part `n` bytes at device address `d` took the number `z`. -/
def partStored (m : Store) (d n z : Nat) : Store := maskedStore m (d / 16) (partData z (d % 16)) (byteMask (d % 16) n)

theorem partStored_clean {m : Store} (d n z : Nat) (hp : m.poison = []) (hl : m.latent = []) :
    (partStored m d n z).poison = [] ∧ (partStored m d n z).latent = [] := maskedStore_clean _ _ _ hp hl

theorem byteOf_partData {z lo i : Nat} (h : lo + i < 16) : byteOf (partData z lo) (lo + i) = BitVec.ofNat 8 (z >>> (8 * i)) := by
  apply BitVec.eq_of_toNat_eq
  rw [byteOf, partData, BitVec.toNat_ofNat, BitVec.toNat_ofNat, BitVec.toNat_ofNat]
  apply Nat.eq_of_testBit_eq
  intro j
  rw [Nat.testBit_mod_two_pow, Nat.testBit_mod_two_pow]
  by_cases hj : j < 8
  · rw [Nat.testBit_shiftRight, Nat.testBit_mod_two_pow, Nat.testBit_shiftRight, Nat.testBit_mul_two_pow]
    have h1 : 8 * (lo + i) + j < 128 := by omega
    have h2 : 8 * lo ≤ 8 * (lo + i) + j := by omega
    simp only [hj, h1, h2, decide_true, Bool.true_and]
    congr 1
    omega
  · simp [hj]

theorem nth_byteMask (lo n i : Nat) : nth (byteMask lo n) i false = decide (i < 16 ∧ lo ≤ i ∧ i < lo + n) := by
  rw [byteMask, nth_map_range]
  by_cases h : i < 16
  · simp [h]
  · simp [h]

/-- A part's bytes are stored, and no others. -/
theorem cellGet_partStored {m : Store} (hm : cellsWf m.cells = true) {d n : Nat} (z : Nat) (h : d % 16 + n ≤ 16) (a : Nat) :
    cellGet (partStored m d n z).cells a = if d ≤ a ∧ a < d + n then BitVec.ofNat 8 (z >>> (8 * (a - d))) else cellGet m.cells a := by
  rw [partStored, cellGet_maskedStore hm]
  by_cases ha : d ≤ a ∧ a < d + n
  · have hw : a / 16 = d / 16 := by omega
    have hl : a % 16 = d % 16 + (a - d) := by omega
    rw [if_pos ha, if_pos ⟨hw, by rw [nth_byteMask, decide_eq_true_eq]; omega⟩, hl, byteOf_partData (by omega)]
  · rw [if_neg ha, if_neg]
    rintro ⟨hw, hb⟩
    rw [nth_byteMask, decide_eq_true_eq] at hb
    omega

end Sys2Proof.Machine

/-! PROOF. Stores of a core. -/
namespace Sys2Proof.Machine

/-! ### ST -/

/-- Memory after a store of `w` bytes from address `a` on went to device address `d`, and from the next word on to `d2`. -/
def crossStored (m : Store) (a w d d2 : Nat) (y : W128) : Store :=
  let low := 16 - a % 16
  partStored (partStored m d low (lanes y 0 low)) d2 (a % 16 + w - 16) (lanes y low (a % 16 + w - 16))

section Go

variable {u : State} {c : CoreId} {a w d : Nat} {x : MemUnit} {y : W128}

theorem partsWrite_one (s : State) (p : Nat × Nat) (h : accCheck s c .write p.1 = 0) :
    partsBad s c .write [p] = none ∧ partsHeld s c .write [p] = false := ⟨partsBad_one _ _ _ h, partsHeld_one _ _ _ h⟩

/-- The word of a part that is served takes its number. -/
theorem storePut_reach {v : State} {n z : Nat} (hn : Near u c v) (hp : u.mem.poison = []) (hl : u.mem.latent = []) (hr : u.twin.resync = none)
    (h : Reach u c .write a d x) (hd : d % 16 = a % 16) (hq : storeQueued u c (a / 16 * 16) = false) :
    ∃ t, storeAcc.put c v a n z = { data := 0, status := 0, s := t } ∧ Near { u with mem := partStored u.mem d n z } c t ∧
      StMoved (core v c) (core t c) := by
  obtain ⟨y, hy⟩ := h.line (b := a / 16 * 16) (fun _ hw => by cases hw) (by omega)
  have hdd : d / 64 * 64 + a % 64 = d := by
    obtain ⟨y', hy'⟩ := h.line (b := a) (fun _ hw => by cases hw) rfl
    cases c with
    | ve n => exact hy'.devOf.symm.trans h.devOf
    | sv =>
      obtain ⟨rfl, -, -⟩ := h.place
      omega
  obtain ⟨t, e, hnt, hk⟩ := coreStore_reach (y := partData z (a % 16)) (k := byteMask (a % 16) n) hn hp hl hr hy (Nat.mul_mod_left _ _) hq
  refine ⟨t, ?_, ?_, hk⟩
  · rw [storePut_eq, e]
  · have hw : (d / 64 * 64 + a / 16 * 16 % 64) / 16 = d / 16 := by omega
    rw [hw] at hnt
    rw [partStored, hd]
    exact hnt

/-- A store within one word that is served. -/
theorem storeGo_one (hp : u.mem.poison = []) (hl : u.mem.latent = []) (hr : u.twin.resync = none) (hq : ∀ n, c = .ve n → u.eng[n].queue = [])
    (hw : a % 16 + w ≤ 16) (h : Reach u c .write a d x) (hd : d % 16 = a % 16) (hsq : storeQueued u c (a / 16 * 16) = false) :
    ∃ t, storeAcc.go c u a w y = .ok 0 t ∧ Near { u with mem := partStored u.mem d w (lanes y 0 w) } c t ∧ StMoved (core u c) (core t c) := by
  obtain ⟨t, e, hn, hk⟩ := storePut_reach (n := w) (z := lanes y 0 w) (Near.refl u c) hp hl hr h hd hsq
  obtain ⟨hb, hh⟩ := partsWrite_one u (a, w) h.check
  have hps : accParts a w = [(a, w)] := if_pos hw
  have hz : y.toNat % 2 ^ (8 * w) = lanes y 0 w := by rw [lanes, Nat.mul_zero, Nat.pow_zero, Nat.div_one]
  have ht : taintStore t c a = t := taintStore_quiet (fun n hc => by rw [hn.eng]; exact hq n hc) a
  refine ⟨t, ?_, hn, hk⟩
  unfold storeAcc.go
  dsimp only
  rw [hps, hb, hh]
  dsimp only
  rw [hz, e]
  dsimp only
  rw [if_neg Bool.false_ne_true, if_neg (by decide), if_pos rfl, ht]

/-- A store that goes on in the next word: the lower part, then the upper one. -/
theorem storeGo_two {d2 : Nat} {x2 : MemUnit} (hp : u.mem.poison = []) (hl : u.mem.latent = []) (hr : u.twin.resync = none)
    (hq : ∀ n, c = .ve n → u.eng[n].queue = []) (hw : ¬ a % 16 + w ≤ 16) (h : Reach u c .write a d x) (hd : d % 16 = a % 16)
    (h2 : Reach u c .write (nextWord a) d2 x2) (hd2 : d2 % 16 = nextWord a % 16)
    (hsq : storeQueued u c (a / 16 * 16) = false) (hsq2 : storeQueued u c (nextWord a / 16 * 16) = false) :
    ∃ t, storeAcc.go c u a w y = .ok 0 t ∧
      Near { u with mem := crossStored u.mem a w d d2 y } c t ∧ StMoved (core u c) (core t c) := by
  obtain ⟨t1, e1, hn1, hk1⟩ := storePut_reach (n := 16 - a % 16) (z := lanes y 0 (16 - a % 16)) (Near.refl u c) hp hl hr h hd hsq
  obtain ⟨t2, e2, -, -⟩ := storePut_reach (n := a % 16 + w - 16) (z := lanes y (16 - a % 16) (a % 16 + w - 16)) (Near.refl u c) hp hl hr h2 hd2 hsq2
  obtain ⟨hp1, hl1⟩ := partStored_clean d (16 - a % 16) (lanes y 0 (16 - a % 16)) hp hl
  obtain ⟨t3, e3, hn3, hk3⟩ := storePut_reach (u := { u with mem := partStored u.mem d (16 - a % 16) (lanes y 0 (16 - a % 16)) })
    (n := a % 16 + w - 16) (z := lanes y (16 - a % 16) (a % 16 + w - 16))
    hn1 hp1 hl1 hr (h2.store _) hd2 hsq2
  have hb : partsBad u c .write [(a, 16 - a % 16), (nextWord a, a % 16 + w - 16)] = none := partsBad_two _ _ _ _ h.check h2.check
  have hh : partsHeld u c .write [(a, 16 - a % 16), (nextWord a, a % 16 + w - 16)] = false := partsHeld_two _ _ _ _ h.check h2.check
  have hps : accParts a w = [(a, 16 - a % 16), (nextWord a, a % 16 + w - 16)] := if_neg hw
  have hz : y.toNat % 2 ^ (8 * (16 - a % 16)) = lanes y 0 (16 - a % 16) := by rw [lanes, Nat.mul_zero, Nat.pow_zero, Nat.div_one]
  have hz2 : y.toNat / 2 ^ (8 * (16 - a % 16)) % 2 ^ (8 * (a % 16 + w - 16)) = lanes y (16 - a % 16) (a % 16 + w - 16) := rfl
  have hq3 : ∀ n, c = .ve n → t3.eng[n].queue = [] := fun n hc => by rw [hn3.eng]; exact hq n hc
  refine ⟨t3, ?_, hn3, hk1.trans hk3⟩
  unfold storeAcc.go
  dsimp only
  rw [hps, hb, hh]
  dsimp only
  rw [hz, hz2, e1, e2]
  dsimp only
  rw [if_neg Bool.false_ne_true, if_neg (by decide), if_neg (by decide), if_neg (by decide), e3]
  dsimp only
  rw [taintStore_quiet hq3, taintStore_quiet hq3]

end Go

end Sys2Proof.Machine

/-! PROOF. The bytes that a store changes. -/
namespace Sys2Proof.Machine

/-! ### The bytes that a store changes -/

/-- `n` bytes of `y` from lane `lo` on are stored at device address `d`. -/
theorem cellGet_partStored_lanes {m : Store} (hm : cellsWf m.cells = true) {d n lo : Nat} (y : W128) (h : d % 16 + n ≤ 16) (a : Nat) :
    cellGet (partStored m d n (lanes y lo n)).cells a = if d ≤ a ∧ a < d + n then byteOf y (lo + (a - d)) else cellGet m.cells a := by
  rw [cellGet_partStored hm _ h]
  by_cases ha : d ≤ a ∧ a < d + n
  · rw [if_pos ha, if_pos ha]
    apply BitVec.eq_of_toNat_eq
    rw [BitVec.toNat_ofNat, show (2 : Nat) ^ 8 = 256 from rfl, lanes_byte y (by omega)]
  · rw [if_neg ha, if_neg ha]

theorem cellsWf_partStored {m : Store} (hm : cellsWf m.cells = true) (d n z : Nat) : cellsWf (partStored m d n z).cells = true :=
  cellsWf_maskedStore hm _ _ _

/-- One part puts its bytes at consecutive device addresses. -/
theorem stored_one {m m' : Store} (hm : cellsWf m.cells = true) {d : Nat → Nat} {n : Nat} {y : W128} (h : d 0 % 16 + n ≤ 16)
    (hd : ∀ i, i < n → d i = d 0 + i) (hm' : m' = partStored m (d 0) n (lanes y 0 n)) :
    (∀ i, i < n → cellGet m'.cells (d i) = byteOf y i) ∧ ∀ a, (∀ i, i < n → d i ≠ a) → cellGet m'.cells a = cellGet m.cells a := by
  subst hm'
  refine ⟨fun i hi => ?_, fun a ha => ?_⟩
  · rw [cellGet_partStored_lanes hm y h, hd i hi, if_pos (by omega)]
    congr 1
    omega
  · rw [cellGet_partStored_lanes hm y h, if_neg]
    rintro ⟨h1, h2⟩
    exact ha (a - d 0) (by omega) (by rw [hd _ (by omega)]; omega)

/-- Two parts, the upper one after the lower. -/
theorem stored_two {m m' : Store} (hm : cellsWf m.cells = true) {d : Nat → Nat} {a n : Nat} {y : W128} (ha : d 0 % 16 = a % 16) (hn : ¬ a % 16 + n ≤ 16)
    (hn16 : n ≤ 16) (h2 : d (16 - a % 16) % 16 = 0) (hd : ∀ i, i < 16 - a % 16 → d i = d 0 + i)
    (hd2 : ∀ i, i < a % 16 + n - 16 → d (16 - a % 16 + i) = d (16 - a % 16) + i) (hm' : m' = crossStored m a n (d 0) (d (16 - a % 16)) y) :
    (∀ i, i < n → (∀ j, j < n → d j = d i → j ≤ i) → cellGet m'.cells (d i) = byteOf y i) ∧
      ∀ b, (∀ i, i < n → d i ≠ b) → cellGet m'.cells b = cellGet m.cells b := by
  subst hm'
  have hc : ∀ b, cellGet (crossStored m a n (d 0) (d (16 - a % 16)) y).cells b =
      if d (16 - a % 16) ≤ b ∧ b < d (16 - a % 16) + (a % 16 + n - 16) then byteOf y (16 - a % 16 + (b - d (16 - a % 16)))
      else if d 0 ≤ b ∧ b < d 0 + (16 - a % 16) then byteOf y (0 + (b - d 0)) else cellGet m.cells b := fun b => by
    rw [crossStored, cellGet_partStored_lanes (cellsWf_partStored hm _ _ _) y (by omega), cellGet_partStored_lanes hm y (by omega)]
  generalize hlow : 16 - a % 16 = low at *
  refine ⟨fun i hi hlast => ?_, fun b hb => ?_⟩
  · rw [hc]
    by_cases hil : i < low
    · rw [if_neg, if_pos (by rw [hd i hil]; omega), hd i hil]
      · congr 1
        omega
      · rintro ⟨h3, h4⟩
        have hj := hlast (low + (d i - d low)) (by omega) (by rw [hd2 _ (by omega)]; omega)
        omega
    · have hdi := hd2 (i - low) (by omega)
      rw [show low + (i - low) = i by omega] at hdi
      rw [hdi, if_pos (by omega)]
      congr 1
      omega
  · rw [hc, if_neg, if_neg]
    · rintro ⟨h3, h4⟩
      exact hb (b - d 0) (by omega) (by rw [hd _ (by omega)]; omega)
    · rintro ⟨h3, h4⟩
      exact hb (low + (b - d low)) (by omega) (by rw [hd2 _ (by omega)]; omega)

/-! ### Stores of a VE to memory -/

section VeStores

variable {u : State} {n : VeId} {a w : Nat} {y : W128} {d : Nat → Nat}

/-- Bytes of one word lie one after the other. -/
theorem Reach.next {w : Want} {a b d e : Nat} {x z : MemUnit} (h : Reach u (.ve n) w a d x) (k : Reach u (.ve n) w b e z) (hl : b / 16 = a / 16) :
    e + a = d + b := by
  obtain ⟨z', hz⟩ := h.line (b := b) (fun hc => by cases hc) (by omega)
  have he := hz.devOf.symm.trans k.devOf
  have := h.mod
  omega

theorem storeAcc_ve (hq : u.eng[n].queue = []) (hp : u.mem.poison = []) (hl : u.mem.latent = []) (hr : u.twin.resync = none) (hwf : cellsWf u.mem.cells = true)
    (hw0 : 0 < w) (hw : w ≤ 16) (ha : a < 2 ^ 40) (hsq : ∀ i, i < w → storeQueued u (.ve n) (nthAddr a i / 16 * 16) = false)
    (hd : ∀ i, i < w → seqByte u n .write (nthAddr a i) = some (d i)) :
    ∃ t m, storeAcc u (.ve n) a w y = .ok 0 t ∧ Near { u with mem := m } (.ve n) t ∧ StMoved (core u (.ve n)) (core t (.ve n)) ∧
      (∀ i, i < w → (∀ j, j < w → d j = d i → j ≤ i) → cellGet m.cells (d i) = byteOf y i) ∧
      ∀ b, (∀ i, i < w → d i ≠ b) → cellGet m.cells b = cellGet u.mem.cells b := by
  have hreach : ∀ i, i < w → ∃ x, Reach u (.ve n) .write (nthAddr a i) (d i) x := fun i hi => reach_of_seqByte (hd i hi)
  have h0 : nthAddr a 0 = a := Nat.mod_eq_of_lt ha
  obtain ⟨x0, hr0⟩ := hreach 0 hw0
  rw [h0] at hr0
  have hm0 : d 0 % 16 = a % 16 := by
    have := hr0.mod
    omega
  have hs0 : storeQueued u (.ve n) (a / 16 * 16) = false := by simpa only [h0] using hsq 0 hw0
  have hquiet : ∀ m, CoreId.ve n = CoreId.ve m → u.eng[m].queue = [] := fun m hm => by
    cases hm
    exact hq
  have hgo : storeAcc u (.ve n) a w y = storeAcc.go (.ve n) u a w y := if_neg (Nat.not_le_of_lt hr0.addr_ve)
  have hlow : ∀ i, i < w → a % 16 + i < 16 → d i = d 0 + i := fun i hi hil => by
    obtain ⟨x, hx⟩ := hreach i hi
    have hal : nthAddr a i = a + i := by
      have := hr0.addr_ve
      rw [nthAddr]
      omega
    have := hr0.next hx (by omega)
    omega
  rw [hgo]
  by_cases hone : a % 16 + w ≤ 16
  · obtain ⟨t, e, hn, hk⟩ := storeGo_one (y := y) hp hl hr hquiet hone hr0 hm0 hs0
    obtain ⟨hin, hout⟩ := stored_one (y := y) hwf (d := d) (n := w) (by omega) (fun i hi => hlow i hi (by omega)) rfl
    exact ⟨t, _, e, hn, hk, fun i hi _ => hin i hi, hout⟩
  · have hcut : 16 - a % 16 < w := by omega
    obtain ⟨x1, hr1⟩ := hreach _ hcut
    have hs1 := hsq _ hcut
    have hnext : nthAddr a (16 - a % 16) = nextWord a := by
      rw [nthAddr, nextWord]
      congr 1
      omega
    have hup : ∀ i, i < a % 16 + w - 16 → d (16 - a % 16 + i) = d (16 - a % 16) + i := fun i hi => by
      obtain ⟨x, hx⟩ := hreach (16 - a % 16 + i) (by omega)
      have hx40 := hx.addr_ve
      have h40 := hr1.addr_ve
      have hai : nthAddr a (16 - a % 16 + i) = nthAddr a (16 - a % 16) + i := by
        rw [nthAddr, nthAddr] at *
        omega
      have h16 : nthAddr a (16 - a % 16) % 16 = 0 := by
        rw [nthAddr]
        omega
      have := hr1.next hx (by omega)
      omega
    have hm1 : d (16 - a % 16) % 16 = nextWord a % 16 := by
      have := hr1.mod
      rw [hnext] at this
      omega
    have hnw : nextWord a % 16 = 0 := by
      rw [nextWord]
      omega
    rw [hnext] at hr1 hs1
    obtain ⟨t, e, hn, hk⟩ := storeGo_two (y := y) hp hl hr hquiet hone hr0 hm0 hr1 hm1 hs0 hs1
    obtain ⟨hin, hout⟩ := stored_two (y := y) hwf hm0 hone hw (hm1.trans hnw) (fun i hi => hlow i (by omega) (by omega)) hup rfl
    exact ⟨t, _, e, hn, hk, hin, hout⟩

end VeStores

end Sys2Proof.Machine

/-! PROOF. The ways of two states, and a master's write to partition memory. -/
namespace Sys2Proof.Machine

/-! ### The ways of two states -/

/-- Two states whose requests take the same ways, and wait, reach and are refused alike. -/
structure Alike (s t : State) : Prop where
  fz : t.fz = s.fz
  links : t.fab.links = s.fab.links
  wide : t.wideGib = s.wideGib
  parts : t.parts = s.parts
  pw : t.pw = s.pw
  stk : t.stk = s.stk
  freezes : SameFreezes s t
  banks : ∀ b : BankId, t.banks[b].part = s.banks[b].part ∧ t.banks[b].owner = s.banks[b].owner ∧ t.banks[b].drain = s.banks[b].drain ∧
    t.banks[b].fenced = s.banks[b].fenced

theorem Alike.trans {s t u : State} (h : Alike s t) (k : Alike t u) : Alike s u :=
  ⟨k.fz.trans h.fz, k.links.trans h.links, k.wide.trans h.wide, k.parts.trans h.parts, k.pw.trans h.pw, k.stk.trans h.stk, h.freezes.trans k.freezes, fun b =>
    ⟨(k.banks b).1.trans (h.banks b).1, (k.banks b).2.1.trans (h.banks b).2.1, (k.banks b).2.2.1.trans (h.banks b).2.2.1,
      (k.banks b).2.2.2.trans (h.banks b).2.2.2⟩⟩

theorem Alike.of_keeps {s t : State} (h : ReadKeeps s t) (k : ReadsClean s t) : Alike s t :=
  ⟨by rw [h], by rw [h], by rw [h], by rw [h], by rw [h], k.stk, k.freezes, k.banks⟩

theorem Alike.store {s t : State} (h : Alike s t) (m : Store) : Alike s { t with mem := m } :=
  ⟨h.fz, h.links, h.wide, h.parts, h.pw, h.stk, ⟨h.freezes.pc, h.freezes.tap, h.freezes.cluster, h.freezes.bridge, h.freezes.mgt⟩, h.banks⟩

theorem alike_taken {s : State} {c : CoreId} {len : Nat} (h : fetchClean s c) : Alike s (taken s c len) := by
  have k := readsClean_fetched (long := len == 4) h
  obtain ⟨i, m, b, t, ht, e⟩ := fetched_keeps s c (len == 4)
  have h1 : (taken s c len).fz = s.fz ∧ (taken s c len).fab.links = s.fab.links ∧ (taken s c len).wideGib = s.wideGib ∧ (taken s c len).pw = s.pw := by
    rw [taken, e, ht]
    cases c <;> exact ⟨rfl, rfl, rfl, rfl⟩
  obtain ⟨hfz, hlinks, hwide, hpw⟩ := h1
  exact ⟨hfz, hlinks, hwide, fetched_parts s c _, hpw, k.stk, k.freezes, k.banks⟩

section Ways

variable {s t : State} (h : Alike s t)
include h

theorem Alike.unitOf (a : Nat) : Machine.unitOf t a = Machine.unitOf s a := by rw [Machine.unitOf, Machine.unitOf, h.wide]

theorem Alike.partDev (p : PartId) (sp : Bool) (x : Nat) : Machine.partDev t p sp x = Machine.partDev s p sp x := by
  have hb : partBanks t p = partBanks s p := by
    unfold partBanks
    congr 1
    funext b
    rw [(h.banks b).1]
  rw [Machine.partDev, Machine.partDev, hb, h.parts, h.wide]

theorem Alike.ownerCheck (b : BankId) (code : Nat) : Machine.ownerCheck t.banks[b] code = Machine.ownerCheck s.banks[b] code := by
  obtain ⟨-, ho, hd, -⟩ := h.banks b
  rw [Machine.ownerCheck, Machine.ownerCheck, ho, hd]

theorem Alike.pathWaits (m : MasterKind) (x : MemUnit) (tap : Bool) : Machine.pathWaits t m x tap = Machine.pathWaits s m x tap := by
  have hhold : freezeHolds t m = freezeHolds s m := by simp only [freezeHolds, frozen, h.fz]
  have hport : portFrozen t m = portFrozen s m := by cases m <;> simp only [portFrozen, h.freezes.cluster, h.freezes.mgt]
  have hway : wayOf t m x = wayOf s m x := by simp only [wayOf, diePath, h.links]
  have htarget : targetFrozen t tap x = targetFrozen s tap x := by cases x <;> simp only [targetFrozen, h.stk, h.freezes.pc, h.freezes.tap]
  simp only [Machine.pathWaits, hhold, hport, hway, htarget, h.freezes.bridge]

theorem Alike.devWaits (m : MasterKind) (a : Nat) : Machine.devWaits t m a = Machine.devWaits s m a := by
  simp only [Machine.devWaits, h.unitOf, h.pathWaits]

theorem Alike.execPart (n : VeId) : Machine.execPart t n = Machine.execPart s n := by
  simp only [Machine.execPart, slotPartOf, vePartition, h.parts, h.pw]

theorem Alike.veCode (n : VeId) : Machine.veCode t n = Machine.veCode s n := by simp only [Machine.veCode, h.execPart, h.parts]

end Ways

/-! ### A master's write to partition memory -/

theorem ownerCheck_cases (k : Bank) (code : Nat) : ownerCheck k code = 0 ∨ ownerCheck k code = 5 ∨ ownerCheck k code = 9 := by
  unfold ownerCheck
  split
  · split
    · split
      · exact .inl rfl
      · exact .inr (.inr rfl)
    · exact .inr (.inl rfl)
  · split
    · exact .inl rfl
    · exact .inr (.inl rfl)

theorem writeMasked_held {s : State} {d code a : Nat} {v : W128} {k : List Bool} {b : BankId} (hu : unitOf s a = some (.bank b))
    (hf : unitFenced s d (.bank b) = false) (ho : ownerCheck s.banks[b] code = 9) : writeMasked s d code a v k = { data := 0, status := 9, s := s } := by
  rw [writeMasked, hu]
  exact (if_neg (ne_true_of_eq_false hf)).trans (if_pos ho)

/-- A write to partition memory changes bytes of the word of device address `o` alone, keeps memory clean and the ways as they were, and waits
where `waits` says. -/
structure PartWrite (v : State) (o : Option Nat) (waits : Nat → Prop) (r : Acc) : Prop where
  keeps : ReadKeeps v r.s
  alike : Alike v r.s
  poison : r.s.mem.poison = []
  latent : r.s.mem.latent = []
  wf : cellsWf r.s.mem.cells = true
  cells : ∀ a, cellGet r.s.mem.cells a ≠ cellGet v.mem.cells a → ∃ d, o = some d ∧ a / 16 = d / 16
  held : r.status = 9 → ∃ d, o = some d ∧ waits d

/-- Why a write by master `m` to device address `d` waits: an arbiter of its way, or a bank in handover. -/
def writeHeld (v : State) (m : MasterKind) (code d : Nat) : Prop :=
  devWaits v m d = true ∨ ∃ b, unitOf v d = some (.bank b) ∧ ownerCheck v.banks[b] code = 9

section Journal

variable {v : State} {p : PartId} {m : MasterKind} {code : Nat} {sp : Bool} {x : Nat} {y : W128} {k : List Bool}

theorem PartWrite.same {o : Option Nat} {waits : Nat → Prop} {st : Nat} {z : W128} {t : State} (hk : ReadKeeps v t) (hc : ReadsClean v t)
    (hp : v.mem.poison = []) (hl : v.mem.latent = []) (hwf : cellsWf v.mem.cells = true) (hst : st = 9 → ∃ d, o = some d ∧ waits d) :
    PartWrite v o waits { data := z, status := st, s := t } :=
  ⟨hk, .of_keeps hk hc, hc.mem ▸ hp, hc.mem ▸ hl, hc.mem ▸ hwf, fun a h => absurd (by rw [hc.mem]) h, hst⟩

theorem ReadKeeps.of_way {s t : State} (h : WayKeeps s t) : ReadKeeps s t := by
  rw [h]
  rfl

/-- A masked write at a unit that has been reached. -/
theorem writeMasked_part {g : State} {z : MemUnit} {d : Nat} (hk : WayKeeps v g) (hfr : SameFreezes v g) (hp : v.mem.poison = []) (hl : v.mem.latent = [])
    (hwf : cellsWf v.mem.cells = true) (hr : v.twin.resync = none) (hu : unitOf v d = some z) :
    PartWrite v (some d) (writeHeld v m code) (writeMasked g (masterDie m) code (d / 16 * 16) y k) := by
  have hrk := ReadKeeps.of_way hk
  have hrc := ReadsClean.way hk hfr
  obtain ⟨z', hz', hs⟩ := unitOf_line (e := d / 16 * 16) hu (by omega)
  have huz : unitOf g (d / 16 * 16) = some z' := (hk.unitOf _).trans hz'
  by_cases hf : unitFenced g (masterDie m) z' = true
  · rw [writeMasked_fenced huz hf]
    exact .same hrk hrc hp hl hwf fun h => by cases h
  have hf' : unitFenced g (masterDie m) z' = false := by simpa using hf
  by_cases ho : ownAt g z' code = 0
  · rw [writeMasked_served huz hf' ho (by rw [hk.mem, hp]) (by rw [hk.mem, hl]) (by rw [hk.twin, hr]), hk.mem]
    obtain ⟨hcp, hcl⟩ := maskedStore_clean (m := v.mem) (d / 16 * 16 / 16) y k hp hl
    refine ⟨hrk.trans rfl, (Alike.of_keeps hrk hrc).store _, hcp, hcl, cellsWf_maskedStore hwf _ _ _, fun a ha => ⟨d, rfl, ?_⟩, fun h => by cases h⟩
    by_contra hne
    dsimp only at ha
    rw [cellGet_maskedStore hwf, if_neg fun h => hne (by omega)] at ha
    exact ha rfl
  cases z' with
  | pc => exact absurd rfl ho
  | bank b =>
    rcases ownerCheck_cases g.banks[b] code with h | h | h
    · exact absurd h ho
    · rw [writeMasked_nonOwner huz hf' h]
      exact .same (hrk.trans (nonOwner_keeps _ _ _ _ _)) (hrc.trans (readsClean_nonOwner _ _ _ _ _)) hp hl hwf fun h => by cases h
    · rw [writeMasked_held huz hf' h]
      refine .same hrk hrc hp hl hwf fun _ => ⟨d, rfl, .inr ⟨b, ?_, by rw [← hk.banks, h]⟩⟩
      cases z with
      | pc => exact hs.elim
      | bank b' =>
        have hbb : b' = b := hs
        rw [hu, hbb]

theorem writePart_clean (hp : v.mem.poison = []) (hl : v.mem.latent = []) (hwf : cellsWf v.mem.cells = true) (hr : v.twin.resync = none) :
    PartWrite v (partDev v p sp x) (writeHeld v m code) (writePart v p m code sp x y k) := by
  unfold writePart
  cases hd : partDev v p sp x with
  | none => exact .same rfl (ReadsClean.refl v) hp hl hwf fun h => by cases h
  | some d =>
    dsimp only
    unfold via
    cases hu : unitOf v d with
    | none => exact .same rfl (ReadsClean.refl v) hp hl hwf fun h => by cases h
    | some z =>
      dsimp only
      split
      · exact .same rfl (ReadsClean.refl v) hp hl hwf fun h => by cases h
      · split
        · next hw =>
          refine .same rfl (ReadsClean.refl v) hp hl hwf fun _ => ⟨d, rfl, .inl ?_⟩
          rw [devWaits, hu]
          exact hw
        · exact writeMasked_part (pathTake_wayKeeps _ _ _ _) (pathTake_freezes _ _ _ _) hp hl hwf hr hu

/-- Two words written one after the other, neither of which waits. -/
theorem writeRun_two {y1 y2 : W128} (hp : v.mem.poison = []) (hl : v.mem.latent = []) (hwf : cellsWf v.mem.cells = true) (hr : v.twin.resync = none)
    (hfree : ∀ j d, j < 2 → partDev v p sp (x + 16 * j) = some d → ¬ writeHeld v m code d) :
    let r := writeRun v p m code sp x [y1, y2]
    r.1.map (·.2) ≠ some 9 ∧ ReadKeeps v r.2 ∧
      ∀ a, cellGet r.2.mem.cells a ≠ cellGet v.mem.cells a → ∃ j d, j < 2 ∧ partDev v p sp (x + 16 * j) = some d ∧ a / 16 = d / 16 := by
  have h1 := writePart_clean (p := p) (m := m) (code := code) (sp := sp) (x := x) (y := y1) (k := allBytes) hp hl hwf hr
  have hc1 : ∀ a, cellGet (writePart v p m code sp x y1 allBytes).s.mem.cells a ≠ cellGet v.mem.cells a →
      ∃ j d, j < 2 ∧ partDev v p sp (x + 16 * j) = some d ∧ a / 16 = d / 16 := fun a ha => by
    obtain ⟨d, hd, had⟩ := h1.cells a ha
    exact ⟨0, d, by decide, hd, had⟩
  have h91 : (writePart v p m code sp x y1 allBytes).status ≠ 9 := fun h => by
    obtain ⟨d, hd, hh⟩ := h1.held h
    exact hfree 0 d (by decide) hd hh
  simp only [writeRun]
  generalize writePart v p m code sp x y1 allBytes = r1 at h1 hc1 h91 ⊢
  by_cases hs1 : r1.status = 0
  · rw [if_neg (by simp [hs1])]
    have hr1 : r1.s.twin.resync = none := by rw [h1.keeps, hr]
    have h2 := writePart_clean (p := p) (m := m) (code := code) (sp := sp) (x := x + 16) (y := y2) (k := allBytes) h1.poison h1.latent h1.wf hr1
    have h92 : (writePart r1.s p m code sp (x + 16) y2 allBytes).status ≠ 9 := fun h => by
      obtain ⟨d, hd, hh⟩ := h2.held h
      rw [h1.alike.partDev] at hd
      refine hfree 1 d (by decide) hd (hh.imp (fun h => ?_) ?_)
      · rwa [h1.alike.devWaits] at h
      · rintro ⟨b, hb, ho⟩
        exact ⟨b, by rwa [h1.alike.unitOf] at hb, by rwa [h1.alike.ownerCheck] at ho⟩
    have hc2 : ∀ a, cellGet (writePart r1.s p m code sp (x + 16) y2 allBytes).s.mem.cells a ≠ cellGet v.mem.cells a →
        ∃ j d, j < 2 ∧ partDev v p sp (x + 16 * j) = some d ∧ a / 16 = d / 16 := fun a ha => by
      by_cases hch : cellGet r1.s.mem.cells a = cellGet v.mem.cells a
      · obtain ⟨d, hd, had⟩ := h2.cells a (by rwa [hch])
        rw [h1.alike.partDev] at hd
        exact ⟨1, d, by decide, hd, had⟩
      · exact hc1 a hch
    have hk2 := h1.keeps.trans h2.keeps
    generalize writePart r1.s p m code sp (x + 16) y2 allBytes = r2 at h92 hc2 hk2 ⊢
    by_cases hs2 : r2.status = 0
    · rw [if_neg (by simp [hs2])]
      exact ⟨by simp, hk2, hc2⟩
    · rw [if_pos hs2]
      exact ⟨fun h => h92 (Option.some.inj h), hk2, hc2⟩
  · rw [if_pos hs1]
    exact ⟨fun h => h91 (Option.some.inj h), h1.keeps, hc1⟩

end Journal

end Sys2Proof.Machine

/-! PROOF. Stores that join the write queue. -/
namespace Sys2Proof.Machine

/-! ### Stores that join the write queue -/

section Queued

variable {u : State} {n : VeId} {p : PartId} {ru : Run}

/-- The write of VE `n` of the word at address `a` as the write queue takes it (R44). -/
def queuedWrite (u : State) (n : VeId) (p : PartId) (a : Nat) (y : W128) (k : List Bool) : DmWrite :=
  { lve := u.parts[p].bind.idxOf n, addr := a % 2 ^ 38 / 16 * 16, data := y, mask := k }

/-- Entry `i` of the queue does not wait at the JOURNAL section. -/
theorem journalQueue_free {v : State} {m : MasterKind} {code i : Nat} (hp : v.mem.poison = []) (hl : v.mem.latent = []) (hwf : cellsWf v.mem.cells = true)
    (hr : v.twin.resync = none)
    (hfree : ∀ im y j d, v.parts[p].image = some im → journalOf im = some y → j < 2 → partDev v p (y.space == 1) (y.offset + 32 * i + 16 * j) = some d →
      ¬ writeHeld v m code d) :
    (journalQueue v m code p i).1 = 0 ∧ ReadKeeps v (journalQueue v m code p i).2 ∧
      ∀ a, cellGet (journalQueue v m code p i).2.mem.cells a ≠ cellGet v.mem.cells a → ∃ im y j d, v.parts[p].image = some im ∧ journalOf im = some y ∧
        i < im.hdr.dmwMax ∧ j < 2 ∧ partDev v p (y.space == 1) (y.offset + 32 * i + 16 * j) = some d ∧ a / 16 = d / 16 := by
  unfold journalQueue
  cases him : v.parts[p].image with
  | none => exact ⟨rfl, rfl, fun a h => absurd rfl h⟩
  | some im =>
    dsimp only
    cases hy : journalOf im with
    | none => exact ⟨rfl, rfl, fun a h => absurd rfl h⟩
    | some y =>
      dsimp only
      by_cases hi : i < im.hdr.dmwMax
      · rw [if_pos hi]
        -- The two free words drawn change nothing else.
        have hdraw : (drawWord (drawWord v).2).2 = { v with free := v.free + 1 + 1 } := rfl
        obtain ⟨h9, hk, hc⟩ := writeRun_two (v := { v with free := v.free + 1 + 1 }) (p := p) (m := m) (code := code) (sp := y.space == 1)
          (x := y.offset + 32 * i) (y1 := (drawWord v).1) (y2 := (drawWord (drawWord v).2).1) hp hl hwf hr
          (fun j d hj hd hh => hfree im y j d him hy hj hd hh)
        rw [hdraw]
        generalize writeRun { v with free := v.free + 1 + 1 } p m code (y.space == 1) (y.offset + 32 * i) _ = r at h9 hk hc ⊢
        rw [if_neg h9]
        refine ⟨rfl, ReadKeeps.trans (t := { v with free := v.free + 1 + 1 }) rfl hk, fun a ha => ?_⟩
        obtain ⟨j, d, hj, hd, had⟩ := hc a ha
        exact ⟨im, y, j, d, rfl, hy, hi, hj, hd, had⟩
      · rw [if_neg hi]
        exact ⟨rfl, rfl, fun a h => absurd rfl h⟩

theorem veWrite_queued {x d : Nat} {y : W128} {k : List Bool} {sp : Bool} (hru : u.parts[p].run = some ru) (hin : (!sp && inDmem u.parts[p] x) = true)
    (hd : partDev u p false x = some d) (hj : (journalQueue u (.engine n 5) (veCode u n) p ru.dmq.length).1 = 0) :
    veWrite u n 5 p sp x y k = { data := 0, status := 0, s := modPart (journalQueue u (.engine n 5) (veCode u n) p ru.dmq.length).2 p fun q =>
      { q with run := some { ru with dmq := ru.dmq ++ [{ lve := u.parts[p].bind.idxOf n, addr := x / 16 * 16, data := y, mask := k }] } } } := by
  rw [veWrite]
  simp only [hru, hd, hin, hj, if_true]

/-- A queued store writes no byte but those of its JOURNAL entry. -/
theorem coreStore_queued {a : Nat} {y : W128} {k : List Bool} {d : Nat} (hpt : execPart u n = some p) (hru : u.parts[p].run = some ru)
    (hq : storeQueued u (.ve n) a = true) (hd : partDev u p false (a % 2 ^ 38) = some d)
    (hj : (journalQueue u (.engine n 5) (veCode u n) p ru.dmq.length).1 = 0) :
    coreStore u (.ve n) a y k = { data := 0, status := 0, s := modPart (journalQueue u (.engine n 5) (veCode u n) p ru.dmq.length).2 p fun q =>
      { q with run := some { ru with dmq := ru.dmq ++ [queuedWrite u n p a y k] } } } := by
  have hq' := hq
  rw [storeQueued, corePart, hpt] at hq'
  dsimp only at hq'
  rw [hru, Option.isSome_some, Bool.true_and] at hq'
  have hin : (!a.testBit 38 && inDmem u.parts[p] (a % 2 ^ 38)) = true := hq'
  have hwrite : coreWrite u (.ve n) a y k = veWrite u n 5 p (a.testBit 38) (a % 2 ^ 38) y k := by rw [coreWrite, hpt]
  unfold coreStore
  dsimp only
  rw [hwrite, veWrite_queued hru hin hd hj, if_neg (by rw [hq]; simp), queuedWrite]

end Queued

end Sys2Proof.Machine

/-! PROOF. The supervisor's stores. -/
namespace Sys2Proof.Machine

/-! ### Working RAM -/

theorem bytesOf_length (x : W128) (n : Nat) : (bytesOf x n).length = n := by simp [bytesOf]

/-- A part's bytes in working RAM. -/
theorem cellGet_ramStored {ram : List Host.Cell} (hm : cellsWf ram = true) {off lo n : Nat} (y : W128) (h : lo + n ≤ 16) (b : Nat) :
    cellGet (cellsSet ram off (bytesOf (mergeBytes (wordOfBytes (cellsGet ram off 16)) (partData (lanes y 0 n) lo) (byteMask lo n)) 16)) b =
      if off + lo ≤ b ∧ b < off + lo + n then byteOf y (b - (off + lo)) else cellGet ram b := by
  rw [cellGet_cellsSet hm]
  by_cases hb : off ≤ b ∧ b < off + 16
  · have hlen : off ≤ b ∧ b < off + (bytesOf (mergeBytes (wordOfBytes (cellsGet ram off 16)) (partData (lanes y 0 n) lo) (byteMask lo n)) 16).length := by
      rw [bytesOf_length]
      exact hb
    rw [dif_pos hlen]
    simp only [bytesOf, List.getElem_map, List.getElem_range]
    rw [byteOf_mergeBytes _ _ _ (by omega), nth_byteMask]
    by_cases hin : off + lo ≤ b ∧ b < off + lo + n
    · rw [if_pos (by rw [decide_eq_true_eq]; omega), if_pos hin]
      have hi : b - off = lo + (b - (off + lo)) := by omega
      rw [hi, byteOf_partData (by omega)]
      apply BitVec.eq_of_toNat_eq
      rw [BitVec.toNat_ofNat, show (2 : Nat) ^ 8 = 256 from rfl, lanes_byte y (by omega), Nat.zero_add]
    · rw [if_neg (by rw [decide_eq_true_eq]; omega), if_neg hin, byteOf_wordOfBytes (by simp [cellsGet]), cellsGet, nth_map_range, if_pos (by omega)]
      congr 1
      omega
  · rw [dif_neg (by rw [bytesOf_length]; exact hb), if_neg (by omega)]

/-! ### The clauses of a store -/

section Clauses

variable {s : State} {c : CoreId} {f : MemForm}

/-- What a store's register holds. -/
def storeVal (r : Regs) (x : MemOps) : W128 := if x.sz = 4 then xGet r x.rt else (regGet r x.rt).setWidth 128

theorem st_ok {t : State} (hr : Ready s c (memOps (core s c).r true f).len) (hok : (memOps (core s c).r true f).ok = true)
    (hl : storeAcc (taken s c (memOps (core s c).r true f).len) c (memOps (core s c).r true f).addr (2 ^ (memOps (core s c).r true f).sz)
      (storeVal (core s c).r (memOps (core s c).r true f)) = .ok 0 t) :
    exec (.st c f) s = .next (retire t c (nextPc s c (memOps (core s c).r true f).len)) := by
  rw [exec_of_seqOp (i := .st c f) rfl (isLong_memOps _ _ _) hr hok]
  dsimp only
  rw [fetched_regs, nextPc_taken]
  rw [storeVal] at hl
  rw [hl]

theorem st_bad {t : State} {k : Nat} {up : Bool} {a : Nat} (hr : Ready s c (memOps (core s c).r true f).len) (hok : (memOps (core s c).r true f).ok = true)
    (hl : storeAcc (taken s c (memOps (core s c).r true f).len) c (memOps (core s c).r true f).addr (2 ^ (memOps (core s c).r true f).sz)
      (storeVal (core s c).r (memOps (core s c).r true f)) = .bad k up a t) :
    exec (.st c f) s = .next (dataFault t c k true (memOps (core s c).r true f).sz up a) := by
  rw [exec_of_seqOp (i := .st c f) rfl (isLong_memOps _ _ _) hr hok]
  dsimp only
  rw [fetched_regs]
  rw [storeVal] at hl
  rw [hl]

theorem storeGo_bad {u : State} {a w i k pa : Nat} {y : W128} (h : partsBad u c .write (accParts a w) = some (i, k, pa)) :
    storeAcc.go c u a w y = .bad k (i == 1) pa u := by
  unfold storeAcc.go
  dsimp only
  rw [h]

/-- A store within one word, by what its word's store does. -/
theorem storeGo_put {u t : State} {a w : Nat} {y : W128} (hw : a % 16 + w ≤ 16) (hc : accCheck u c .write a = 0)
    (hp : storeAcc.put c u a w (lanes y 0 w) = { data := 0, status := 0, s := t }) (hq : ∀ n, c = .ve n → t.eng[n].queue = []) :
    storeAcc.go c u a w y = .ok 0 t := by
  obtain ⟨hb, hh⟩ := partsWrite_one u (a, w) hc
  have hps : accParts a w = [(a, w)] := if_pos hw
  have hz : y.toNat % 2 ^ (8 * w) = lanes y 0 w := by rw [lanes, Nat.mul_zero, Nat.pow_zero, Nat.div_one]
  unfold storeAcc.go
  dsimp only
  rw [hps, hb, hh]
  dsimp only
  rw [hz, hp]
  dsimp only
  rw [if_neg Bool.false_ne_true, if_neg (by decide), if_pos rfl, taintStore_quiet hq]

end Clauses

/-! ### The supervisor's stores outside HBM -/

section Internal

variable {u : State} {a w : Nat} {y : W128}

theorem coreStore_internal {k : List Bool} (hf : u.fab.mgtArb.frozen = false) (ha : ¬ (hbmLo ≤ a ∧ a < hbmHi)) :
    coreStore u .sv a y k = { data := 0, status := 0, s := cacheStore (internalStore (portTake u .supervisor) a y k) .sv a y k } := by
  have hwrite : coreWrite u .sv a y k = { data := 0, status := 0, s := internalStore (portTake u .supervisor) a y k } := by
    rw [coreWrite, if_neg ha, internalVia_served hf]
  unfold coreStore
  dsimp only
  rw [hwrite, if_pos ⟨rfl, rfl⟩]

theorem cacheStore_frame (s : State) (a : Nat) (k : List Bool) : ∃ g, cacheStore s .sv a y k = { s with sv := g } ∧ g.r = s.sv.r := ⟨_, rfl, rfl⟩

/-- The word at `off` of working RAM takes masked bytes. -/
def ramPut (s : State) (off : Nat) (v : W128) (mask : List Bool) : State :=
  { s with mem := { s.mem with ram := cellsSet s.mem.ram off (bytesOf (mergeBytes (ramWord s false off) v mask) 16) } }

theorem internalStore_low (s : State) (k : List Bool) (ha : a < 0x100000) : internalStore s a y k = ramPut s a y k := if_pos ha

theorem internalStore_ram (s : State) (k : List Bool) (h1 : 0x80F0000000 ≤ a) (h2 : a < 0x80F0100000) :
    internalStore s a y k = ramPut s (a - 0x80F0000000) y k :=
  (if_neg (Nat.not_lt_of_le (le_trans (by decide) h1))).trans (if_pos ⟨h1, h2⟩)

theorem internalStore_freeze (s : State) (k : List Bool) (h1 : 0x8000000000 ≤ a) (h2 : ¬ (0x80F0000000 ≤ a ∧ a < 0x80F0100000)) :
    internalStore s a y k = setFreezeOf s a y k :=
  (if_neg (Nat.not_lt_of_le (le_trans (by decide) h1))).trans (if_neg h2)

end Internal

end Sys2Proof.Machine

/-! PROOF. Stores of a VE to memory. -/
namespace Sys2Proof.Machine

/-- A state near one whose memory took a store is that with the store's memory. -/
theorem stored_of_near {u t : State} {c : CoreId} {m : Store} (h : Near { u with mem := m } c t) :
    ∃ g, WayKeeps u g ∧ t = { modCore g c (fun _ => core t c) with mem := t.mem } := by
  refine ⟨{ u with fab := t.fab }, ?_, ?_⟩
  · rw [WayKeeps]
    dsimp only
    rw [← h.fab]
  · rw [h.mem]
    conv_lhs => rw [h.rest]
    cases c <;> rfl

section VeSt

variable {s : State} {n : VeId} {f : MemForm}

theorem plain_taken {c : CoreId} {len : Nat} (h : Plain s) : let u := taken s c len
    u.mem = s.mem ∧ u.mem.poison = [] ∧ u.mem.latent = [] ∧ u.twin.resync = none ∧ cellsWf u.mem.cells = true ∧ cellsWf u.mem.ram = true := by
  obtain ⟨hi, hp, hl, hr⟩ := h
  have hm : (taken s c len).mem = s.mem := (readsClean_fetched (.inr ⟨hp, hl⟩)).mem
  have ht : (taken s c len).twin = s.twin := by
    obtain ⟨i, m, b, t, ht, e⟩ := fetched_keeps s c (len == 4)
    rw [taken, e, ht]
    cases c <;> rfl
  obtain ⟨hc, hram⟩ := (Memory.wf_iff s.mem).1 hi
  dsimp only
  rw [hm, ht]
  exact ⟨rfl, hp, hl, hr, hc, hram⟩

/-- A store to memory that is served. -/
theorem st_memory (hr : Ready s (.ve n) (memOps (core s (.ve n)).r true f).len) (hok : (memOps (core s (.ve n)).r true f).ok = true) (hpl : Plain s)
    (hq : s.eng[n].queue = [])
    (hsq : ∀ i, i < 2 ^ (memOps (core s (.ve n)).r true f).sz → storeQueued s (.ve n) (nthAddr (memOps (core s (.ve n)).r true f).addr i / 16 * 16) = false)
    (d : Nat → Nat) (hd : ∀ i, i < 2 ^ (memOps (core s (.ve n)).r true f).sz →
      seqByte (taken s (.ve n) (memOps (core s (.ve n)).r true f).len) n .write (nthAddr (memOps (core s (.ve n)).r true f).addr i) = some (d i)) :
    ∃ g t, exec (.st (.ve n) f) s = .next t ∧ WayKeeps (taken s (.ve n) (memOps (core s (.ve n)).r true f).len) g ∧
      Stored s t (2 ^ (memOps (core s (.ve n)).r true f).sz) d (byteOf (storeVal (core s (.ve n)).r (memOps (core s (.ve n)).r true f))) ∧
      (core t (.ve n)).r = { (core s (.ve n)).r with pc := nextPc s (.ve n) (memOps (core s (.ve n)).r true f).len &&& ~~~(1 : Addr) } ∧
      t = { modCore g (.ve n) (fun _ => core t (.ve n)) with mem := t.mem } := by
  obtain ⟨hm, hp, hl, hrs, hwf, -⟩ := plain_taken (c := .ve n) (len := (memOps (core s (.ve n)).r true f).len) hpl
  have hal := alike_taken (c := .ve n) (len := (memOps (core s (.ve n)).r true f).len) (.inr ⟨hpl.2.1, hpl.2.2.1⟩)
  obtain ⟨t, m, e, hn, hk, hin, hout⟩ := storeAcc_ve (u := taken s (.ve n) (memOps (core s (.ve n)).r true f).len) (n := n)
    (a := (memOps (core s (.ve n)).r true f).addr) (w := 2 ^ (memOps (core s (.ve n)).r true f).sz)
    (y := storeVal (core s (.ve n)).r (memOps (core s (.ve n)).r true f)) (d := d) (by rw [fetched_queue, hq]) hp hl hrs hwf (Nat.two_pow_pos _)
    (bytes_le (memOps_sz hok)) (memOps_addr _ _ _)
    (fun i hi => by rw [storeQueued, corePart, hal.execPart, hal.parts]; exact hsq i hi) hd
  have hregs : (core t (.ve n)).r = (core s (.ve n)).r := by
    have hk' : core t (.ve n) = _ := hk
    rw [hk']
    exact fetched_regs s (.ve n) _
  have hn' := hn.modCore fun k => { k with retired := k.retired + 1, r := { k.r with pc := nextPc s (.ve n) (memOps (core s (.ve n)).r true f).len &&& ~~~(1 : Addr) } }
  have hmem : (retire t (.ve n) (nextPc s (.ve n) (memOps (core s (.ve n)).r true f).len)).mem = m := hn'.mem
  obtain ⟨g, hg, ht⟩ := stored_of_near hn'
  refine ⟨g, _, st_ok hr hok e, hg, ⟨fun i hi hj => ?_, fun b hb => ?_⟩, ?_, ht⟩
  · rw [hmem]
    exact hin i hi hj
  · rw [hmem, hout b hb, hm]
  · rw [retire_regs, hregs]

end VeSt

end Sys2Proof.Machine

/-! PROOF. Queued stores. -/
namespace Sys2Proof.Machine

/-! ### Queued stores and the register block -/

section VeSt

variable {s : State} {n : VeId} {f : MemForm}

theorem retire_keeps (t : State) (c : CoreId) (pc : Addr) : (retire t c pc).parts = t.parts ∧ (retire t c pc).mem = t.mem ∧ (retire t c pc).eng = t.eng ∧
    (retire t c pc).fab = t.fab := by cases c <;> exact ⟨rfl, rfl, rfl, rfl⟩

/-- A store to design memory during evaluation joins the write queue. -/
theorem st_queued (hr : Ready s (.ve n) (memOps (core s (.ve n)).r true f).len) (hok : (memOps (core s (.ve n)).r true f).ok = true) {p : PartId} {ru : Run}
    (hpt : execPart s n = some p) (hru : s.parts[p].run = some ru) (hq : s.eng[n].queue = [])
    (hone : (memOps (core s (.ve n)).r true f).addr % 16 + 2 ^ (memOps (core s (.ve n)).r true f).sz ≤ 16) (hpl : Plain s)
    (hsq : storeQueued s (.ve n) ((memOps (core s (.ve n)).r true f).addr / 16 * 16) = true)
    (hb : seqByte (taken s (.ve n) (memOps (core s (.ve n)).r true f).len) n .write (memOps (core s (.ve n)).r true f).addr ≠ none)
    (hj : ∀ im y k d, s.parts[p].image = some im → journalOf im = some y →
      partDev s p (y.space == 1) (y.offset + 32 * ru.dmq.length + 16 * k) = some d →
      (∀ b, unitOf s d = some (.bank b) → ownerCheck s.banks[b] (veCode s n) ≠ 9) ∧ devWaits s (.engine n 5) d = false) :
    ∃ t ru', exec (.st (.ve n) f) s = .next t ∧ t.parts[p].run = some { ru with dmq := ru.dmq ++ [ru'] } ∧
      ru'.lve = s.parts[p].bind.idxOf n ∧ ru'.addr = (memOps (core s (.ve n)).r true f).addr % 2 ^ 38 / 16 * 16 ∧
      ru'.mask = byteMask ((memOps (core s (.ve n)).r true f).addr % 16) (2 ^ (memOps (core s (.ve n)).r true f).sz) ∧
      (∀ i, i < 2 ^ (memOps (core s (.ve n)).r true f).sz → byteOf ru'.data ((memOps (core s (.ve n)).r true f).addr % 16 + i) =
        byteOf (storeVal (core s (.ve n)).r (memOps (core s (.ve n)).r true f)) i) ∧
      (core t (.ve n)).r = { (core s (.ve n)).r with pc := nextPc s (.ve n) (memOps (core s (.ve n)).r true f).len &&& ~~~(1 : Addr) } ∧
      ∀ a, cellGet t.mem.cells a ≠ cellGet s.mem.cells a →
        ∃ im y k d, s.parts[p].image = some im ∧ journalOf im = some y ∧ ru.dmq.length < im.hdr.dmwMax ∧ k < 2 ∧
          partDev s p (y.space == 1) (y.offset + 32 * ru.dmq.length + 16 * k) = some d ∧ a / 16 = d / 16 := by
  obtain ⟨hm, hp, hl, hrs, hwf, -⟩ := plain_taken (c := .ve n) (len := (memOps (core s (.ve n)).r true f).len) hpl
  have hal := alike_taken (c := .ve n) (len := (memOps (core s (.ve n)).r true f).len) (.inr ⟨hpl.2.1, hpl.2.2.1⟩)
  have hqu : (taken s (.ve n) (memOps (core s (.ve n)).r true f).len).eng[n].queue = [] := by rw [fetched_queue, hq]
  have hcore : (core (taken s (.ve n) (memOps (core s (.ve n)).r true f).len) (.ve n)).r = (core s (.ve n)).r := fetched_regs s (.ve n) _
  have hst := fun t => st_ok (t := t) hr hok
  generalize taken s (.ve n) (memOps (core s (.ve n)).r true f).len = u at *
  generalize hx : memOps (core s (.ve n)).r true f = x at *
  generalize hy : storeVal (core s (.ve n)).r x = y at *
  obtain ⟨d, hd⟩ := Option.ne_none_iff_exists'.1 hb
  obtain ⟨z, hz⟩ := reach_of_seqByte hd
  obtain ⟨z', hz'⟩ := hz.line (b := x.addr / 16 * 16) (fun hc => by cases hc) (by omega)
  have hsq' : storeQueued u (.ve n) (x.addr / 16 * 16) = true := by
    rw [storeQueued, corePart, hal.execPart, hal.parts]
    exact hsq
  have hsp : (x.addr / 16 * 16).testBit 38 = false := by
    have h := hsq
    rw [storeQueued, corePart, hpt] at h
    dsimp only at h
    rw [Bool.and_eq_true, Bool.and_eq_true, Bool.not_eq_true'] at h
    exact h.1.2
  have hpu : execPart u n = some p := by rw [hal.execPart, hpt]
  have hpd : partDev u p false (x.addr / 16 * 16 % 2 ^ 38) = some (d / 64 * 64 + x.addr / 16 * 16 % 64) := by
    obtain ⟨p', hp', hd', -⟩ := hz'.place
    rw [hpu] at hp'
    cases hp'
    rwa [hsp] at hd'
  obtain ⟨hj0, hjk, hjc⟩ := journalQueue_free (v := u) (p := p) (m := .engine n 5) (code := veCode u n) (i := ru.dmq.length) hp hl hwf hrs
    (fun im y k d him hy _ hd hh => by
      rw [hal.parts] at him
      rw [hal.partDev] at hd
      obtain ⟨h1, h2⟩ := hj im y k d him hy hd
      rcases hh with hh | ⟨b, hb, ho⟩
      · rw [hal.devWaits, h2] at hh
        cases hh
      · rw [hal.unitOf] at hb
        rw [hal.ownerCheck, hal.veCode] at ho
        exact h1 b hb ho)
  have hstore := coreStore_queued (a := x.addr / 16 * 16) (y := partData (lanes y 0 (2 ^ x.sz)) (x.addr % 16)) (k := byteMask (x.addr % 16) (2 ^ x.sz))
    hpu (by rw [hal.parts, hru]) hsq' hpd hj0
  generalize hjq : (journalQueue u (.engine n 5) (veCode u n) p ru.dmq.length).2 = j at hstore hjk hjc
  have hjeng : j.eng = u.eng := by rw [hjk]
  have hgo := storeGo_put (c := .ve n) (y := y) hone hz.check hstore fun m hm => by
    cases hm
    show j.eng[n].queue = []
    rw [hjeng, hqu]
  have hacc : storeAcc u (.ve n) x.addr (2 ^ x.sz) y = storeAcc.go (.ve n) u x.addr (2 ^ x.sz) y := if_neg (Nat.not_le_of_lt hz.addr_ve)
  have hex := hst _ (hacc.trans hgo)
  generalize hnp : nextPc s (.ve n) x.len = pc at *
  refine ⟨_, queuedWrite u n p (x.addr / 16 * 16) (partData (lanes y 0 (2 ^ x.sz)) (x.addr % 16)) (byteMask (x.addr % 16) (2 ^ x.sz)), hex, ?_, ?_, ?_, rfl, ?_, ?_, ?_⟩
  · rw [(retire_keeps _ _ _).1, modPart_same]
  · rw [queuedWrite, hal.parts]
  · rw [queuedWrite]
    dsimp only
    omega
  · intro i hi
    rw [queuedWrite]
    dsimp only
    rw [byteOf_partData (by omega)]
    apply BitVec.eq_of_toNat_eq
    rw [BitVec.toNat_ofNat, show (2 : Nat) ^ 8 = 256 from rfl, lanes_byte y hi, Nat.zero_add]
  · rw [retire_regs]
    have hjr : core j (.ve n) = core u (.ve n) := by
      rw [hjk]
      rfl
    have hjr' : (core j (.ve n)).r = (core s (.ve n)).r := by rw [hjr, hcore]
    exact congrArg (fun r : Regs => { r with pc := pc &&& ~~~(1 : Addr) }) hjr'
  · intro a ha
    rw [(retire_keeps _ _ _).2.1] at ha
    obtain ⟨im, y, k, d, him, hy, hlt, hk, hd, had⟩ := hjc a (by rwa [hm])
    exact ⟨im, y, k, d, by rwa [hal.parts] at him, hy, hlt, hk, by rwa [hal.partDev] at hd, had⟩

end VeSt

end Sys2Proof.Machine

/-! PROOF. Stores to the register block and to working RAM. -/
namespace Sys2Proof.Machine

section Block

variable {s u : State} {n : VeId} {f : MemForm} {a w : Nat} {y : W128}

theorem storeAcc_block (ha : 2 ^ 39 ≤ a) (h : a % 16 = 0 ∧ (a - 2 ^ 39) / 16 < 256) :
    storeAcc u (.ve n) a w y = match veStore u n ((a - 2 ^ 39) / 16) w y with
      | some t => .ok 0 t
      | none => .bad 0x0B false a u := (if_pos ha).trans (if_pos h)

theorem storeAcc_offBlock (ha : 2 ^ 39 ≤ a) (h : ¬ (a % 16 = 0 ∧ (a - 2 ^ 39) / 16 < 256)) : storeAcc u (.ve n) a w y = .bad 0x0B false a u :=
  (if_pos ha).trans (if_neg h)

theorem veStore_none {sub : Nat} (h8 : ¬ (w = 8 ∧ (sub = 0x3B ∨ sub = 0x3C ∨ sub = 0x42))) (h16 : ¬ (w = 16 ∧ sub = 0x41)) : veStore u n sub w y = none := by
  rw [veStore, if_neg (fun h => h8 ⟨h.2, .inl h.1⟩), if_neg (fun h => h8 ⟨h.2, .inr (.inl h.1)⟩), if_neg (fun h => h16 ⟨h.2, h.1⟩),
    if_neg (fun h => h8 ⟨h.2, .inr (.inr h.1)⟩)]

/-- A store to an entry of the register block. -/
theorem st_entry {sub : Nat} {e : Engine} (hr : Ready s (.ve n) (memOps (core s (.ve n)).r true f).len) (hok : (memOps (core s (.ve n)).r true f).ok = true)
    (hsub : sub < 256) (ha : (memOps (core s (.ve n)).r true f).addr = 2 ^ 39 + 16 * sub) {t : State}
    (hv : veStore (taken s (.ve n) (memOps (core s (.ve n)).r true f).len) n sub (2 ^ (memOps (core s (.ve n)).r true f).sz)
      (storeVal (core s (.ve n)).r (memOps (core s (.ve n)).r true f)) = some t)
    (hm : t.mem = (taken s (.ve n) (memOps (core s (.ve n)).r true f).len).mem) (he : t.eng[n] = e)
    (hc : core t (.ve n) = core (taken s (.ve n) (memOps (core s (.ve n)).r true f).len) (.ve n)) :
    ∃ t', exec (.st (.ve n) f) s = .next t' ∧ t'.mem = (taken s (.ve n) (memOps (core s (.ve n)).r true f).len).mem ∧ t'.eng[n] = e ∧
      (core t' (.ve n)).r = { (core s (.ve n)).r with pc := nextPc s (.ve n) (memOps (core s (.ve n)).r true f).len &&& ~~~(1 : Addr) } := by
  have h39 : 2 ^ 39 ≤ (memOps (core s (.ve n)).r true f).addr := by omega
  have hidx : ((memOps (core s (.ve n)).r true f).addr - 2 ^ 39) / 16 = sub := by omega
  have h16 : (memOps (core s (.ve n)).r true f).addr % 16 = 0 := by omega
  refine ⟨_, st_ok (t := t) hr hok ?_, ?_, ?_, ?_⟩
  · rw [storeAcc_block h39 ⟨h16, by rw [hidx]; exact hsub⟩, hidx, hv]
  · rw [(retire_keeps _ _ _).2.1, hm]
  · rw [(retire_keeps _ _ _).2.2.1, he]
  · rw [retire_regs, hc]
    exact congrArg (fun r : Regs => { r with pc := nextPc s (.ve n) (memOps (core s (.ve n)).r true f).len &&& ~~~(1 : Addr) }) (fetched_regs s (.ve n) _)

end Block

/-! ### The supervisor's stores -/

section Sv

variable {s : State} {f : MemForm}

theorem accCheck_lowWrite {u : State} {a : Nat} (ha : a < 0x100000) : accCheck u .sv .write a = if lowRam u a then 0 else 0x0C := by
  unfold accCheck
  dsimp only
  rw [if_pos ha]
  cases lowRam u a <;> rfl

theorem lowRam_word (u : State) (a : Nat) : lowRam u (a / 16 * 16) = lowRam u a := by
  rw [lowRam, lowRam]
  congr 1
  exact decide_eq_decide.2 (by omega)

/-- A store of the supervisor outside HBM, by what its space does with the word. -/
theorem storeAcc_internal {u i : State} {a w : Nat} {y : W128} (hf : u.fab.mgtArb.frozen = false) (hone : a % 16 + w ≤ 16)
    (hal : 2 ^ 39 ≤ a → (w = 8 ∨ w = 16) ∧ a % 16 = 0) (hc : accCheck u .sv .write a = 0) (hout : ¬ (hbmLo ≤ a / 16 * 16 ∧ a / 16 * 16 < hbmHi))
    (hi : internalStore (portTake u .supervisor) (a / 16 * 16) (partData (lanes y 0 w) (a % 16)) (byteMask (a % 16) w) = i) :
    ∃ g, storeAcc u .sv a w y = .ok 0 { i with sv := g } ∧ g.r = i.sv.r := by
  have hput := coreStore_internal (y := partData (lanes y 0 w) (a % 16)) (k := byteMask (a % 16) w) hf hout
  rw [hi] at hput
  obtain ⟨g, hg, hgr⟩ := cacheStore_frame (y := partData (lanes y 0 w) (a % 16)) i (a / 16 * 16) (byteMask (a % 16) w)
  rw [hg] at hput
  refine ⟨g, ?_, hgr⟩
  rw [← storeGo_put (c := .sv) hone hc hput fun n hn => by cases hn]
  exact if_neg fun h => h.2 (hal h.1)

/-- A store that completes: what it leaves besides its core is what its access left. -/
theorem st_done {c : CoreId} {t : State} {x : MemOps} (hx : memOps (core s c).r true f = x) (hr : Ready s c x.len) (hok : x.ok = true)
    (hl : storeAcc (taken s c x.len) c x.addr (2 ^ x.sz) (storeVal (core s c).r x) = .ok 0 t) (hc : (core t c).r = (core s c).r) :
    ∃ t', exec (.st c f) s = .next t' ∧ t'.mem = t.mem ∧ t'.fab = t.fab ∧
      (core t' c).r = { (core s c).r with pc := nextPc s c x.len &&& ~~~(1 : Addr) } := by
  subst hx
  obtain ⟨-, hm, -, hf⟩ := retire_keeps t c (nextPc s c (memOps (core s c).r true f).len)
  exact ⟨_, st_ok hr hok hl, hm, hf, by rw [retire_regs, hc]⟩

theorem st_internal {i : State} {x : MemOps} (hx : memOps (core s .sv).r true f = x) (hr : Ready s .sv x.len) (hok : x.ok = true)
    (hone : x.addr % 16 + 2 ^ x.sz ≤ 16) (hf : s.fab.mgtArb.frozen = false)
    (hal : 2 ^ 39 ≤ x.addr → (2 ^ x.sz = 8 ∨ 2 ^ x.sz = 16) ∧ x.addr % 16 = 0) (hc : accCheck (taken s .sv x.len) .sv .write x.addr = 0)
    (hout : ¬ (hbmLo ≤ x.addr / 16 * 16 ∧ x.addr / 16 * 16 < hbmHi))
    (hi : internalStore (portTake (taken s .sv x.len) .supervisor) (x.addr / 16 * 16) (partData (lanes (storeVal (core s .sv).r x) 0 (2 ^ x.sz)) (x.addr % 16))
      (byteMask (x.addr % 16) (2 ^ x.sz)) = i) (hsv : i.sv = (taken s .sv x.len).sv) :
    ∃ t, exec (.st .sv f) s = .next t ∧ t.mem = i.mem ∧ t.fab = i.fab ∧
      (core t .sv).r = { (core s .sv).r with pc := nextPc s .sv x.len &&& ~~~(1 : Addr) } := by
  obtain ⟨g, hacc, hgr⟩ := storeAcc_internal (y := storeVal (core s .sv).r x) (taken_sv_mgt hf) hone hal hc hout hi
  have hcr : (core { i with sv := g } .sv).r = (core s .sv).r := hgr.trans ((congrArg Core.r hsv).trans (fetched_regs s .sv _))
  exact st_done (t := { i with sv := g }) hx hr hok hacc hcr

/-- Working RAM takes the bytes of a part. -/
theorem ramPut_reads {g : State} {off lo n : Nat} {y : W128} (hwf : cellsWf g.mem.ram = true) (h : lo + n ≤ 16) (b : Nat) :
    cellGet (ramPut g off (partData (lanes y 0 n) lo) (byteMask lo n)).mem.ram b =
      if off + lo ≤ b ∧ b < off + lo + n then byteOf y (b - (off + lo)) else cellGet g.mem.ram b := by
  have hram : ramWord g false off = wordOfBytes (cellsGet g.mem.ram off 16) := by rw [ramWord, if_neg Bool.false_ne_true]
  have h := cellGet_ramStored (off := off) hwf y h b
  rw [← hram] at h
  exact h

end Sv

end Sys2Proof.Machine

/-! PROOF. Stores (O14). -/
namespace Sys2Proof.Machine

section SvClauses

variable {s : State} {f : MemForm} {x : MemOps}

/-- Working RAM takes the bytes, in the low window and at its own place. -/
theorem st_ram (hx : memOps (core s .sv).r true f = x) (hr : Ready s .sv x.len) (hok : x.ok = true) (hone : x.addr % 16 + 2 ^ x.sz ≤ 16)
    (hf : s.fab.mgtArb.frozen = false) {o : Nat}
    (ho : (x.addr < 0x100000 ∧ lowRam s (x.addr / 16 * 16) = true ∧ o = x.addr) ∨
      (0x80F0000000 ≤ x.addr ∧ x.addr < 0x80F0100000 ∧ x.addr % 16 = 0 ∧ (2 ^ x.sz = 8 ∨ 2 ^ x.sz = 16) ∧ o = x.addr - 0x80F0000000)) (hi : Inv s) :
    ∃ t, exec (.st .sv f) s = .next t ∧ t.mem.cells = s.mem.cells ∧
      (core t .sv).r = { (core s .sv).r with pc := nextPc s .sv x.len &&& ~~~(1 : Addr) } ∧
      ∀ b, cellGet t.mem.ram b = if o ≤ b ∧ b < o + 2 ^ x.sz then byteOf (storeVal (core s .sv).r x) (b - o) else cellGet s.mem.ram b := by
  have hm : (portTake (taken s .sv x.len) .supervisor).mem = s.mem :=
    (portTake_wayKeeps _ _).mem.trans (readsClean_fetched (long := x.len == 4) (c := .sv) (.inl rfl)).mem
  have hsv : (portTake (taken s .sv x.len) .supervisor).sv = (taken s .sv x.len).sv := rfl
  obtain ⟨-, hwf⟩ := (Memory.wf_iff s.mem).1 hi
  -- Both places put the part at its offset of working RAM.
  obtain ⟨off, hoff, hal, hc, hout, hint⟩ : ∃ off, off + x.addr % 16 = o ∧
      (2 ^ 39 ≤ x.addr → (2 ^ x.sz = 8 ∨ 2 ^ x.sz = 16) ∧ x.addr % 16 = 0) ∧ accCheck (taken s .sv x.len) .sv .write x.addr = 0 ∧
      ¬ (hbmLo ≤ x.addr / 16 * 16 ∧ x.addr / 16 * 16 < hbmHi) ∧
      ∀ y k, internalStore (portTake (taken s .sv x.len) .supervisor) (x.addr / 16 * 16) y k = ramPut (portTake (taken s .sv x.len) .supervisor) off y k := by
    rcases ho with ⟨ha, hl, ho⟩ | ⟨h1, h2, h16, hw, ho⟩
    · refine ⟨x.addr / 16 * 16, by omega, fun h => by omega, ?_, by simp only [hbmLo]; omega, fun y k => internalStore_low _ k (by omega)⟩
      rw [accCheck_lowWrite ha, lowRam_taken, ← lowRam_word, hl, if_pos rfl]
    · exact ⟨x.addr / 16 * 16 - 0x80F0000000, by omega, fun _ => ⟨hw, h16⟩, accCheck_internal (by decide) (by omega), by simp only [hbmHi]; omega,
        fun y k => internalStore_ram _ k (by omega) (by omega)⟩
  obtain ⟨t, he, htm, -, htr⟩ := st_internal hx hr hok hone hf hal hc hout (hint _ _) hsv
  refine ⟨t, he, ?_, htr, fun b => ?_⟩
  · rw [htm, ramPut, hm]
  · rw [htm, ramPut_reads (by rw [hm]; exact hwf) hone, hoff, hm]

/-- A store to boot ROM fails. -/
theorem st_rom (hx : memOps (core s .sv).r true f = x) (hr : Ready s .sv x.len) (hok : x.ok = true) (hone : x.addr % 16 + 2 ^ x.sz ≤ 16)
    (ha : x.addr < 0x100000) (hl : lowRam s (x.addr / 16 * 16) = false) :
    exec (.st .sv f) s = .next (dataFault (taken s .sv x.len) .sv 0x0C true x.sz false x.addr) := by
  have hc : accCheck (taken s .sv x.len) .sv .write x.addr = 0x0C := by
    rw [accCheck_lowWrite ha, lowRam_taken, ← lowRam_word, hl, if_neg Bool.false_ne_true]
  have hps : accParts x.addr (2 ^ x.sz) = [(x.addr, 2 ^ x.sz)] := if_pos hone
  have hbad : partsBad (taken s .sv x.len) .sv .write (accParts x.addr (2 ^ x.sz)) = some (0, 0x0C, x.addr) := by
    rw [hps]
    simp [partsBad, hc]
  have hgo := storeGo_bad (y := storeVal (core s .sv).r x) hbad
  have hacc : storeAcc (taken s .sv x.len) .sv x.addr (2 ^ x.sz) (storeVal (core s .sv).r x) = .bad 0x0C (0 == 1) x.addr (taken s .sv x.len) := by
    rw [← hgo]
    exact if_neg fun h => by omega
  subst hx
  exact st_bad hr hok hacc

theorem setFreeze_frame (s : State) (i : Nat) (v : Bool) : (setFreeze s i v).sv = s.sv ∧ (setFreeze s i v).mem = s.mem := ⟨rfl, rfl⟩

/-- A store to an arbiter's FREEZE. -/
theorem st_freeze (hx : memOps (core s .sv).r true f = x) (hr : Ready s .sv x.len) (hok : x.ok = true) (hone : x.addr % 16 + 2 ^ x.sz ≤ 16)
    (hf : s.fab.mgtArb.frozen = false) {i : Nat} (h1 : 0x8000000000 ≤ x.addr) (h2 : ¬ (0x80F0000000 ≤ x.addr ∧ x.addr < 0x80F0100000)) (h16 : x.addr % 16 = 0)
    (hw : 2 ^ x.sz = 8 ∨ 2 ^ x.sz = 16) (hi : Config.freezeReg x.addr = some i) :
    ∃ t, exec (.st .sv f) s = .next t ∧ t.fab = (setFreeze (portTake (taken s .sv x.len) .supervisor) i (bit (storeVal (core s .sv).r x) 0)).fab ∧
      t.mem = s.mem := by
  have hm : (portTake (taken s .sv x.len) .supervisor).mem = s.mem :=
    (portTake_wayKeeps _ _).mem.trans (readsClean_fetched (long := x.len == 4) (c := .sv) (.inl rfl)).mem
  have hword : x.addr / 16 * 16 = x.addr := by omega
  have hbit : bit (partData (lanes (storeVal (core s .sv).r x) 0 (2 ^ x.sz)) (x.addr % 16)) 0 = bit (storeVal (core s .sv).r x) 0 := by
    have hb : byteOf (partData (lanes (storeVal (core s .sv).r x) 0 (2 ^ x.sz)) (x.addr % 16)) 0 = byteOf (storeVal (core s .sv).r x) 0 := by
      rw [h16, show (0 : Nat) = 0 + 0 from rfl, byteOf_partData (by decide)]
      apply BitVec.eq_of_toNat_eq
      rw [BitVec.toNat_ofNat, show (2 : Nat) ^ 8 = 256 from rfl, lanes_byte _ (by omega)]
    have h0 := congrArg (fun b : Byte => b.toNat.testBit 0) hb
    exact (testBit_byteOf _ 0).trans (h0.trans (testBit_byteOf _ 0).symm)
  have hint : internalStore (portTake (taken s .sv x.len) .supervisor) (x.addr / 16 * 16)
      (partData (lanes (storeVal (core s .sv).r x) 0 (2 ^ x.sz)) (x.addr % 16)) (byteMask (x.addr % 16) (2 ^ x.sz)) =
      setFreeze (portTake (taken s .sv x.len) .supervisor) i (bit (storeVal (core s .sv).r x) 0) := by
    have hmask : nth (byteMask (x.addr % 16) (2 ^ x.sz)) 0 false = true := by
      rw [nth_byteMask, decide_eq_true_eq]
      omega
    rw [hword, internalStore_freeze _ _ h1 h2, setFreezeOf, hmask, if_pos rfl, freezeWrite, hi, hbit]
  obtain ⟨t, he, htm, htf, -⟩ := st_internal hx hr hok hone hf (fun _ => ⟨hw, h16⟩) (accCheck_internal (by decide) h1)
    (by simp only [hbmHi]; omega) hint (setFreeze_frame _ _ _).1
  exact ⟨t, he, htf, htm.trans ((setFreeze_frame _ _ _).2.trans hm)⟩

/-- A store to HBM. -/
theorem st_hbm (hx : memOps (core s .sv).r true f = x) (hr : Ready s .sv x.len) (hok : x.ok = true) (hone : x.addr % 16 + 2 ^ x.sz ≤ 16) (hpl : Plain s)
    (h1 : hbmLo ≤ x.addr) (h2 : x.addr < hbmHi) (hc : accCheck (taken s .sv x.len) .sv .write x.addr = 0)
    (hd : devWaits (taken s .sv x.len) .supervisor x.addr = false) :
    ∃ t, exec (.st .sv f) s = .next t ∧ Stored s t (2 ^ x.sz) (fun i => x.addr + i) (byteOf (storeVal (core s .sv).r x)) ∧
      (core t .sv).r = { (core s .sv).r with pc := nextPc s .sv x.len &&& ~~~(1 : Addr) } := by
  obtain ⟨hm, hp, hl, hrs, hwf, -⟩ := plain_taken (c := .sv) (len := x.len) hpl
  obtain ⟨y, hy⟩ := reach_sv (by decide) h1 h2 hc hd
  obtain ⟨t, e, hn, hk⟩ := storeGo_one (y := storeVal (core s .sv).r x) hp hl hrs (fun n hn => by cases hn) hone hy rfl rfl
  have hacc : storeAcc (taken s .sv x.len) .sv x.addr (2 ^ x.sz) (storeVal (core s .sv).r x) = .ok 0 t := by
    rw [← e]
    exact if_neg fun h => by
      simp only [hbmHi] at h2
      omega
  have hregs : (core t .sv).r = (core s .sv).r := by
    have hk' : core t .sv = _ := hk
    rw [hk']
    exact fetched_regs s .sv _
  obtain ⟨t', he, htm, -, htr⟩ := st_done hx hr hok hacc hregs
  obtain ⟨hin, hout⟩ := stored_one (y := storeVal (core s .sv).r x) hwf (d := fun i => x.addr + i) (n := 2 ^ x.sz) (by omega) (fun i _ => rfl) rfl
  refine ⟨t', he, ⟨fun i hi _ => ?_, fun b hb => ?_⟩, htr⟩
  · rw [htm, hn.mem]
    exact hin i hi
  · rw [htm, hn.mem, ← hm]
    exact hout b hb

end SvClauses

/-- Settles O14: the parts of a store are written one after the other into the words that its unit serves, the queue takes those of design memory. -/
theorem storeResults : Obligations.StoreResults := by
  unfold Obligations.StoreResults
  refine ⟨?_, ?_⟩
  · intro s n f c r x w v u next hr hok
    refine ⟨fun hpl hq hsq d hd => st_memory hr hok hpl hq hsq d hd, ?_, ?_, ?_, ?_⟩
    · intro p ru hpt hru hq hone hpl hsq hb hj
      exact st_queued hr hok hpt hru hq hone hpl hsq hb hj
    · intro i k a ha hbad
      refine st_bad hr hok ?_
      rw [← storeGo_bad hbad]
      exact if_neg (Nat.not_le_of_lt ha)
    · intro done
      have hcore : ∀ e : Vector Engine 64, core { u with eng := e } (.ve n) = core u (.ve n) := fun _ => rfl
      have heng : u.eng[n] = s.eng[n] := by rw [fetched_eng]
      refine ⟨fun hw => ⟨fun ha => ?_, fun ha => ?_, fun ha => ?_⟩, fun hw ha => ?_⟩
      · exact st_entry hr hok (by decide) ha (if_pos ⟨rfl, hw⟩) rfl (by rw [modEng_same, heng]; rfl) (hcore _)
      · exact st_entry hr hok (by decide) ha ((if_neg fun h => absurd h.1 (by decide)).trans (if_pos ⟨rfl, hw⟩)) rfl (by rw [modEng_same, heng]; rfl) (hcore _)
      · exact st_entry hr hok (by decide) ha ((if_neg fun h => absurd h.1 (by decide)).trans ((if_neg fun h => absurd h.1 (by decide)).trans ((if_neg fun h => absurd h.1 (by decide)).trans (if_pos ⟨rfl, hw⟩)))) rfl
          (by rw [substArm, substArm, modEng_same, modEng_same, heng]; rfl) (hcore _)
      · exact st_entry hr hok (by decide) ha ((if_neg fun h => absurd h.1 (by decide)).trans ((if_neg fun h => absurd h.1 (by decide)).trans (if_pos ⟨rfl, hw⟩))) rfl
          (by rw [modEng_same, heng]; rfl) (hcore _)
    · intro ha h8 h16
      refine st_bad hr hok ?_
      by_cases hb : x.addr % 16 = 0 ∧ (x.addr - 2 ^ 39) / 16 < 256
      · rw [storeAcc_block ha hb, veStore_none]
        · rintro ⟨hw, hs⟩
          exact h8 ⟨hw, by omega⟩
        · rintro ⟨hw, hs⟩
          exact h16 ⟨hw, by omega⟩
      · exact storeAcc_offBlock ha hb
  · intro s f c r x w v u next hr hok hone hf
    refine ⟨fun o ho hi => st_ram rfl hr hok hone hf ho hi, fun ha hl => st_rom rfl hr hok hone ha hl, ?_, ?_⟩
    · intro i h1 h2 h16 hw hi
      exact st_freeze rfl hr hok hone hf h1 h2 h16 hw hi
    · intro hpl h1 h2 hc hd
      exact st_hbm rfl hr hok hone hpl h1 h2 hc hd

end Sys2Proof.Machine

/-! PROOF. Entries whose frame is served. -/
namespace Sys2Proof.Machine

/-! ### Exception entry -/

section Entry

variable {s : State} {n : VeId}

theorem lru_self {α : Type} (key : α → Nat) (x : α) (ls : List α) : x ∈ lru key x ls := by
  unfold lru
  dsimp only
  split
  · exact List.mem_cons_self ..
  · exact List.mem_cons_self ..

/-- The whole word stored. -/
theorem maskedStore_all (m : Store) (w : Nat) (y : W128) : maskedStore m w y allBytes = wordSet m w y := by
  rw [maskedStore, if_pos (by decide)]

theorem cellGet_wordStored {m : Store} (hm : cellsWf m.cells = true) (w a : Nat) (y : W128) (h : a / 16 ≠ w) :
    cellGet (wordSet m w y).cells a = cellGet m.cells a := by rw [cellGet_wordSet hm, if_neg h]

/-- The instruction cache of a core after a store keeps the lines of other words. -/
theorem cacheStore_icache (v : State) (c : CoreId) (a : Nat) (y : W128) (k : List Bool) {l : Nat} (hl : l ∈ (core v c).icache) (h : l ≠ cacheAddr v c a / 64) :
    l ∈ (core (cacheStore v c a y k) c).icache := by
  unfold cacheStore
  dsimp only
  rw [core_modCore]
  exact List.mem_filter.2 ⟨hl, by simpa using h⟩

/-- A word of a VE's stores, and the lines of code it leaves. -/
theorem coreStore_word {u v : State} {a d : Nat} {x : MemUnit} {y : W128} (hn : Near u (.ve n) v) (hp : u.mem.poison = []) (hl : u.mem.latent = [])
    (hr : u.twin.resync = none) (h : Reach u (.ve n) .write a d x) (ha : a % 16 = 0) (hq : storeQueued u (.ve n) a = false) :
    ∃ t, coreStore v (.ve n) a y allBytes = { data := 0, status := 0, s := t } ∧ Near { u with mem := wordSet u.mem (d / 16) y } (.ve n) t ∧
      (core t (.ve n)).r = (core v (.ve n)).r ∧ ∀ l ∈ (core v (.ve n)).icache, l ≠ a / 64 → l ∈ (core t (.ve n)).icache := by
  obtain ⟨w, ew, hnw, hkw⟩ := coreWrite_reach (y := y) (k := allBytes) hn hp hl hr h ha hq
  rw [maskedStore_all] at hnw
  have hqv : storeQueued v (.ve n) a = false := by rw [hn.storeQueued, hq]
  refine ⟨cacheStore w (.ve n) a y allBytes, ?_, (near_cacheStore hnw a y allBytes).1, ?_, fun l hlm hla => ?_⟩
  · unfold coreStore
    dsimp only
    rw [ew, if_pos ⟨rfl, by rw [hqv]; rfl⟩]
  · have hst : core (cacheStore w (.ve n) a y allBytes) (.ve n) = _ := (near_cacheStore hnw a y allBytes).2
    rw [hst, hkw]
  · refine cacheStore_icache w (.ve n) a y allBytes (by rwa [hkw]) ?_
    rw [cacheAddr, if_neg fun hc => by cases hc.1]
    exact hla

/-- A frame whose two words are served. -/
theorem frameWrite_served {a d e : Nat} {x z : MemUnit} {lo hi : W128} (hpl : Plain s) (h : Reach s (.ve n) .write a d x)
    (k : Reach s (.ve n) .write (a + 16) e z) (ha : a % 16 = 0) (hq : storeQueued s (.ve n) a = false) (hq2 : storeQueued s (.ve n) (a + 16) = false) :
    ∃ t, frameWrite s (.ve n) a lo hi = some t ∧ Near { s with mem := wordSet (wordSet s.mem (d / 16) lo) (e / 16) hi } (.ve n) t ∧
      (core t (.ve n)).r = (core s (.ve n)).r ∧ ∀ l ∈ (core s (.ve n)).icache, l ≠ a / 64 → l ≠ (a + 16) / 64 → l ∈ (core t (.ve n)).icache := by
  obtain ⟨-, hp, hl, hr⟩ := hpl
  obtain ⟨t1, e1, hn1, hr1, hi1⟩ := coreStore_word (y := lo) (Near.refl s (.ve n)) hp hl hr h ha hq
  obtain ⟨hp1, hl1⟩ := maskedStore_clean (m := s.mem) (d / 16) lo allBytes hp hl
  rw [maskedStore_all] at hp1 hl1
  obtain ⟨t2, e2, hn2, hr2, hi2⟩ := coreStore_word (u := { s with mem := wordSet s.mem (d / 16) lo }) (y := hi) hn1 hp1 hl1 hr (k.store _) (by omega) hq2
  refine ⟨t2, ?_, hn2, hr2.trans hr1, fun l hl h1 h2 => hi2 l (hi1 l hl h1) h2⟩
  unfold frameWrite
  dsimp only
  rw [e1]
  dsimp only
  rw [e2]
  exact if_neg fun h => h.elim (fun h => by cases h) fun h => by cases h

/-- A fetch from a line of the instruction cache. -/
theorem fetchAt_cached {u : State} {c : CoreId} {a : Nat} (hc : accCheck u c .fetch a = 0) (hd : detCore u c = false) (hi : a / 64 ∈ (core u c).icache) :
    fetchAt u c a = (0, modCore u c fun k => { k with icache := lru id (a / 64) k.icache }) := by
  unfold fetchAt
  dsimp only
  rw [hc, if_neg (by decide), if_neg (by decide), hd, if_neg Bool.false_ne_true, if_pos (List.contains_iff_mem.2 hi)]

/-- The registers with which the handler of vector `v` begins (R193, R196). -/
def enteredRegs (r : Regs) (v : Nat) : Regs :=
  { r with g := updV r.g 7 (· - 32)
           fl := if 0x11 ≤ v ∧ v ≤ 0x17 then (r.fl &&& ~~~(0xE00 : W64)) ||| at' 64 9 (v - 0x10) else r.fl
           pc := vectorAddr r v }

/-- An entry whose frame is written and whose handler hits the instruction cache. -/
theorem enter_served {v code qual a : Nat} {detail : W64} {saved : Addr} {t : State}
    (h16 : (core s (.ve n)).r.g[(7 : Fin 8)].toNat % 16 = 0) (hlim : (core s (.ve n)).r.slim.toNat + 32 ≤ (core s (.ve n)).r.g[(7 : Fin 8)].toNat)
    (ha : ((core s (.ve n)).r.g[(7 : Fin 8)].toNat - 32) % 2 ^ 40 = a)
    (hc : accCheck s (.ve n) .write a = 0) (hc2 : accCheck s (.ve n) .write (a + 16) = 0)
    (hf : frameWrite s (.ve n) a (frameLo saved (core s (.ve n)).r.fl) (frameHi (causeWord v code qual) detail) = some t)
    (hregs : (core t (.ve n)).r = (core s (.ve n)).r)
    (hcf : accCheck t (.ve n) .fetch (vectorAddr (core s (.ve n)).r v).toNat = 0) (hd : detCore t (.ve n) = false)
    (hi : (vectorAddr (core s (.ve n)).r v).toNat / 64 ∈ (core t (.ve n)).icache) :
    (enter s (.ve n) v code qual detail saved).mem = t.mem ∧ (core (enter s (.ve n) v code qual detail saved) (.ve n)).r = enteredRegs (core s (.ve n)).r v := by
  have hn := (Near.refl t (.ve n)).modCore fun k => { k with r := enteredRegs k.r v }
  have hcore : core (modCore t (.ve n) fun k => { k with r := enteredRegs k.r v }) (.ve n) =
      { core t (.ve n) with r := enteredRegs (core t (.ve n)).r v } := core_modCore _ _ _
  have hhit := fetchAt_cached ((hn.accCheck _ .fetch _).trans hcf) ((hn.detCore _).trans hd) (by rw [hcore]; exact hi)
  have he : enter s (.ve n) v code qual detail saved =
      (fetchAt (modCore t (.ve n) fun k => { k with r := enteredRegs k.r v }) (.ve n) (vectorAddr (core s (.ve n)).r v).toNat).2 := by
    unfold enter
    dsimp only
    rw [if_neg (by omega), ha, hc, hc2, if_neg (by decide), if_neg (by decide), if_neg (by decide), hf]
    have hgo : ∀ f : Nat × State, f.1 = 0 →
        (if f.1 ≠ 0 ∧ f.1 ≠ 9 then doubleFault f.2 (.ve n) 3 v saved (causeWord v code qual) detail else f.2) = f.2 := fun f h0 => if_neg fun h => h.1 h0
    exact hgo _ (congrArg Prod.fst hhit)
  rw [he, hhit]
  refine ⟨rfl, ?_⟩
  dsimp only
  rw [core_modCore, hcore]
  dsimp only
  rw [hregs]

end Entry

end Sys2Proof.Machine

/-! PROOF. Exception entry, TRAP and RTI (O16). -/
namespace Sys2Proof.Machine

section EntryMemory

variable {s : State} {n : VeId}

theorem accCheck_store (s : State) (m : Store) (c : CoreId) (w : Want) (a : Nat) : accCheck { s with mem := m } c w a = accCheck s c w a := by
  cases c <;> rfl

theorem detCore_store (s : State) (m : Store) (c : CoreId) : detCore { s with mem := m } c = detCore s c := by cases c <;> rfl

/-- An entry that stores its frame and fetches its handler. -/
theorem enter_frame {v code qual a : Nat} {detail : W64} {saved : Addr} (hadr : ((core s (.ve n)).r.g[(7 : Fin 8)].toNat - 32) % 2 ^ 40 = a) (hpl : Plain s)
    (h16 : (core s (.ve n)).r.g[(7 : Fin 8)].toNat % 16 = 0) (hlim : (core s (.ve n)).r.slim.toNat + 32 ≤ (core s (.ve n)).r.g[(7 : Fin 8)].toNat)
    (hq : storeQueued s (.ve n) a = false) (hq2 : storeQueued s (.ve n) (a + 16) = false) {d e : Nat} (hd : seqByte s n .write a = some d)
    (he : seqByte s n .write (a + 16) = some e) (hcf : accCheck s (.ve n) .fetch (vectorAddr (core s (.ve n)).r v).toNat = 0)
    (hi : (vectorAddr (core s (.ve n)).r v).toNat / 64 ∈ (core s (.ve n)).icache) (hdet : detCore s (.ve n) = false)
    (hl : (vectorAddr (core s (.ve n)).r v).toNat / 64 ≠ a / 64) (hl2 : (vectorAddr (core s (.ve n)).r v).toNat / 64 ≠ (a + 16) / 64) :
    wordGet (enter s (.ve n) v code qual detail saved).mem (e / 16) = frameHi (causeWord v code qual) detail ∧
      (d ≠ e → wordGet (enter s (.ve n) v code qual detail saved).mem (d / 16) = frameLo saved (core s (.ve n)).r.fl) ∧
      (∀ b, b / 16 ≠ d / 16 → b / 16 ≠ e / 16 → cellGet (enter s (.ve n) v code qual detail saved).mem.cells b = cellGet s.mem.cells b) ∧
      (core (enter s (.ve n) v code qual detail saved) (.ve n)).r = enteredRegs (core s (.ve n)).r v := by
  obtain ⟨hwf, -⟩ := (Memory.wf_iff s.mem).1 hpl.1
  have ha : a % 16 = 0 := by omega
  obtain ⟨x, hx⟩ := reach_of_seqByte hd
  obtain ⟨z, hz⟩ := reach_of_seqByte he
  obtain ⟨t, hf, hn, hr, hic⟩ := frameWrite_served (lo := frameLo saved (core s (.ve n)).r.fl) (hi := frameHi (causeWord v code qual) detail) hpl hx hz ha hq hq2
  obtain ⟨hm, hregs⟩ := enter_served (v := v) (code := code) (qual := qual) (detail := detail) (saved := saved) h16 hlim hadr hx.check hz.check hf hr
    (by rw [hn.accCheck, accCheck_store, hcf]) (by rw [hn.detCore, detCore_store, hdet]) (hic _ hi hl hl2)
  have hmem : (enter s (.ve n) v code qual detail saved).mem =
      wordSet (wordSet s.mem (d / 16) (frameLo saved (core s (.ve n)).r.fl)) (e / 16) (frameHi (causeWord v code qual) detail) := hm.trans hn.mem
  have hwf1 : cellsWf (wordSet s.mem (d / 16) (frameLo saved (core s (.ve n)).r.fl)).cells = true := by
    rw [← maskedStore_all]
    exact cellsWf_maskedStore hwf _ _ _
  have hmd := hx.mod
  have hme := hz.mod
  rw [hmem]
  refine ⟨wordGet_wordSet_same hwf1 _ _, fun hne => ?_, fun b hbd hbe => ?_, hregs⟩
  · rw [wordGet_wordSet_other hwf1 (by omega), wordGet_wordSet_same hwf]
  · rw [cellGet_wordStored hwf1 _ _ _ hbe, cellGet_wordStored hwf _ _ _ hbd]

/-- An entry without room for its frame is a double fault. -/
theorem enter_noRoom {c : CoreId} {v code qual : Nat} {detail : W64} {saved : Addr}
    (h : (core s c).r.g[(7 : Fin 8)].toNat % 16 ≠ 0 ∨ (core s c).r.g[(7 : Fin 8)].toNat < (core s c).r.slim.toNat + 32) :
    enter s c v code qual detail saved = doubleFault s c 1 v saved (causeWord v code qual) detail := by
  unfold enter
  dsimp only
  exact if_pos (by omega)

end EntryMemory

/-! ### TRAP and RTI -/

section Trap

variable {s : State} {c : CoreId}

/-- A plain exit on a core without open faults. -/
theorem steps_popFrame {v : State} {fl : W64} {pc : Addr} (ho : (core v c).openFaults = []) :
    Steps v (popFrame v c fl (pc &&& ~~~(1 : Addr))) c
      { (core v c).r with fl := fl, g := (core v c).r.g.set 7 ((core v c).r.g[(7 : Fin 8)] + 32), pc := pc &&& ~~~(1 : Addr) } := by
  have hidem : pc &&& ~~~(1 : Addr) &&& ~~~(1 : Addr) = pc &&& ~~~(1 : Addr) := by rw [BitVec.and_assoc, BitVec.and_self]
  have hstep : Steps v (retire (modRegs v c fun r => { r with fl := fl, g := updV r.g 7 (· + 32) }) c (pc &&& ~~~(1 : Addr))) c
      { (core v c).r with fl := fl, g := (core v c).r.g.set 7 ((core v c).r.g[(7 : Fin 8)] + 32), pc := pc &&& ~~~(1 : Addr) } := by
    refine ⟨(onlyCore_modCore v c _).trans (onlyCore_modCore _ c _), ?_⟩
    rw [retire, core_modCore, core_modRegs, hidem]
    rfl
  have hpop : popFrame v c fl (pc &&& ~~~(1 : Addr)) = retire (modRegs v c fun r => { r with fl := fl, g := updV r.g 7 (· + 32) }) c (pc &&& ~~~(1 : Addr)) := by
    cases c with
    | sv => rfl
    | ve n =>
      have hof : (retire (modRegs v (.ve n) fun r => { r with fl := fl, g := updV r.g 7 (· + 32) }) (.ve n) (pc &&& ~~~(1 : Addr))).seq[n].openFaults = [] := by
        have := congrArg Core.openFaults hstep.2
        exact this.trans ho
      unfold popFrame
      dsimp only
      rw [hof, List.find?_nil]
  rw [hpop]
  exact hstep

theorem rti_completes {lo hi : W128} {v : State} (hr : Ready s c 2)
    (hf : frameRead (taken s c 2) c ((core s c).r.g[(7 : Fin 8)].toNat % 2 ^ 40) = .ok lo hi v)
    (hadm : admitted v c (flRestore (BitVec.ofNat 64 (fld lo 127 64))) = none) (ho : (core v c).openFaults = []) :
    ∃ t, exec (.rti c 0) s = .next t ∧ Steps v t c { (core v c).r with
      fl := flRestore (BitVec.ofNat 64 (fld lo 127 64)), g := (core v c).r.g.set 7 ((core v c).r.g[(7 : Fin 8)] + 32)
      pc := BitVec.ofNat 40 (fld lo 39 0) &&& ~~~(1 : Addr) } := by
  refine ⟨_, exec_of_seqOp (i := .rti c 0) rfl (isLong_h4 2 0 (by decide)) hr rfl, ?_⟩
  unfold rtiOp
  dsimp only
  rw [fetched_regs, hf]
  dsimp only
  rw [hadm]
  exact steps_popFrame ho

theorem rti_faults {ad : Nat} {v : State} (hr : Ready s c 2)
    (hf : frameRead (taken s c 2) c ((core s c).r.g[(7 : Fin 8)].toNat % 2 ^ 40) = .bad ad v) :
    exec (.rti c 0) s = .next (doubleFault v c 4 0 (core s c).r.pc 0 (BitVec.ofNat 64 ad)) := by
  rw [exec_of_seqOp (i := .rti c 0) rfl (isLong_h4 2 0 (by decide)) hr rfl]
  unfold rtiOp
  dsimp only
  rw [fetched_regs, hf]

theorem trap_enters {arg : BitVec 8} (hr : Ready s c 2) (ha : arg ≠ 0xFF) :
    ∃ t, Steps (taken s c 2) t c { (core s c).r with pc := nextPc s c 2 &&& ~~~(1 : Addr) } ∧
      exec (.trap c arg) s = .next (enter (if 0x80 ≤ arg.toNat then coreEvent t c 7 (arg.setWidth 32) else t) c 9 arg.toNat 0
        ((core s c).r.pc.setWidth 64) (nextPc s c 2)) := by
  refine ⟨_, steps_taken_plain s c 2, ?_⟩
  rw [exec_of_seqOp (i := .trap c arg) (ok := true) rfl (isLong_h4 3 arg (by decide)) hr rfl]
  dsimp only
  rw [if_neg ha, fetched_regs, nextPc_taken]

end Trap

/-- Settles O16: a frame is two served word stores below G7, and `TRAP` and `RTI` retire around an entry and a frame's read. -/
theorem exceptionEntryAndReturn : Obligations.ExceptionEntryAndReturn := by
  unfold Obligations.ExceptionEntryAndReturn
  refine ⟨?_, ?_⟩
  · intro s n v code qual detail saved c r g7 a t
    exact ⟨fun hpl h16 hlim _ hq hq2 d e hd he hcf hi hdet hl hl2 => enter_frame rfl hpl h16 hlim hq hq2 hd he hcf hi hdet hl hl2, fun h => enter_noRoom h⟩
  · intro s c hr u r
    exact ⟨fun arg ha => trap_enters hr ha, fun lo hi s1 hf hadm ho => rti_completes hr hf hadm ho, fun ad s1 hf => rti_faults hr hf⟩

end Sys2Proof.Machine

/-! PROOF. Branches and windows. -/
namespace Sys2Proof.Machine

/-! ### Branches -/

section Branches

variable {s : State} {c : CoreId}

theorem isLong_brOps (f : BrForm) : isLong (brOps f).enc = ((brOps f).len == 4) := by
  cases f with
  | h3 cond off =>
    have := cond.isLt; have := off.isLt
    exact isLong_short _ (by simp; omega)
  | c4 cond off => exact isLong_long _ _ (by decide) (by decide)

/-- A transfer of control: the predictor may have moved. -/
theorem steps_branch (v : State) (c : CoreId) (taken : Bool) (pc : Addr) :
    Steps v (retire (predict v c taken) c pc) c { (core v c).r with pc := pc &&& ~~~(1 : Addr) } := by
  refine ⟨(onlyCore_modCore v c _).trans (onlyCore_modCore _ c _), ?_⟩
  rw [retire, core_modCore, predict, core_modCore]

theorem bCond_completes {f : BrForm} {b : Bool} (hr : Ready s c (brOps f).len) (hc : (brOps f).cond < 15) (hb : condHolds (brOps f).cond (core s c).r.fl = b) :
    ∃ t, exec (.bCond c f) s = .next t ∧ Steps (taken s c (brOps f).len) t c
      { (core s c).r with
        pc := (if b then relPc (core s c).r.pc (brOps f).off else (core s c).r.pc + BitVec.ofNat 40 (brOps f).len) &&& ~~~(1 : Addr) } := by
  have hok : ((brOps f).cond != 15) = true := bne_iff_ne.2 (by omega)
  refine ⟨_, exec_of_seqOp (i := .bCond c f) rfl (isLong_brOps f) hr hok, ?_⟩
  dsimp only
  rw [fetched_regs, hb, nextPc_taken]
  have h := steps_branch (taken s c (brOps f).len) c b (if b then relPc (core s c).r.pc (brOps f).off else nextPc s c (brOps f).len)
  rw [fetched_regs] at h
  exact h

theorem bCond_illegal {f : BrForm} (hr : Ready s c (brOps f).len) (hc : (brOps f).cond = 15) :
    exec (.bCond c f) s = .next (enter (taken s c (brOps f).len) c 1 1 0 ((brOps f).enc.setWidth 64) (core s c).r.pc) := by
  have hok : ((brOps f).cond != 15) = false := by simp [hc]
  exact congrArg Host.Outcome.next (seqOp_bad hr (isLong_brOps f) _ hok)

theorem bReg_completes {rs : BitVec 5} (hr : Ready s c 4) : ∃ t, exec (.bReg c rs 0 0) s = .next t ∧
    Steps (taken s c 4) t c { (core s c).r with pc := (regGet (core s c).r rs).setWidth 40 &&& ~~~(1 : Addr) } := by
  refine ⟨_, exec_of_seqOp (i := .bReg c rs 0 0) rfl (isLong_long _ _ (by decide) (by decide)) hr rfl, ?_⟩
  dsimp only
  refine ⟨onlyCore_modCore _ c _, ?_⟩
  rw [retire, core_modCore, fetched_regs]

/-- The conditions of Table 6.7 in order. -/
theorem condHolds_table (fl : W64) (k : Nat) (hk : k < 15) :
    condHolds k fl = ([true, flZ fl, !flZ fl, flN fl != flV fl, flN fl == flV fl, flZ fl || flN fl != flV fl, !flZ fl && flN fl == flV fl, !flC fl, flC fl,
      !flC fl || flZ fl, flC fl && !flZ fl, flN fl, !flN fl, flV fl, !flV fl] : List Bool)[k] := by
  interval_cases k <;> rfl

end Branches

/-! ### Windows -/

section Windows

variable {s : State} {c : CoreId}

/-- `CALL` with room for its frame and a window for its callee. -/
theorem callOp_plain {v : State} {target : Addr} (h16 : (core v c).r.g[(7 : Fin 8)].toNat % 16 = 0)
    (hroom : (core v c).r.slim.toNat + 144 ≤ (core v c).r.g[(7 : Fin 8)].toNat) (hres : (core v c).r.resident ≠ 15) :
    callOp v c target = retire (modRegs v c fun r => callRegs r (r.pc + 4)) c target := by
  unfold callOp
  dsimp only
  rw [if_neg (by omega), if_neg hres]

theorem steps_callRegs (v : State) (c : CoreId) (target : Addr) :
    Steps v (retire (modRegs v c fun r => callRegs r (r.pc + 4)) c target) c { callRegs (core v c).r ((core v c).r.pc + 4) with pc := target &&& ~~~(1 : Addr) } := by
  refine ⟨(onlyCore_modCore v c _).trans (onlyCore_modCore _ c _), ?_⟩
  rw [retire, core_modCore, core_modRegs]

/-- The caller's P registers are the callee's A registers. -/
theorem regGet_callee (r q : Regs) (hw : q.win = r.win) (hc : q.cwp = r.cwp + 1) (k : Fin 8) :
    regGet q (BitVec.ofNat 5 (8 + k.val)) = regGet r (BitVec.ofNat 5 (24 + k.val)) := by
  have h1 : (BitVec.ofNat 5 (8 + k.val)).toNat = 8 + k.val := by
    rw [BitVec.toNat_ofNat]
    omega
  have h2 : (BitVec.ofNat 5 (24 + k.val)).toNat = 24 + k.val := by
    rw [BitVec.toNat_ofNat]
    omega
  have hn : nextWin r.cwp = r.cwp + 1 := by
    have : ∀ w : Fin 16, nextWin w = w + 1 := by decide
    exact this _
  unfold regGet
  rw [dif_neg (by omega), if_pos (by omega), dif_neg (by omega), if_neg (by omega)]
  simp only [h1, h2, hw, hc, hn, Nat.add_sub_cancel_left]

theorem call_plain {i : Instr} {target : Addr} {enc : W32} {ok : Bool} {f : State → Addr}
    (he : exec i s = .next (seqOp s c enc (badIf ok) fun s => callOp s c (f s))) (hl : isLong enc = (4 == 4)) (hok : ok = true)
    (hf : f (taken s c 4) = target) (hr : Ready s c 4) (h16 : (core s c).r.g[(7 : Fin 8)].toNat % 16 = 0)
    (hroom : (core s c).r.slim.toNat + 144 ≤ (core s c).r.g[(7 : Fin 8)].toNat) (hres : (core s c).r.resident ≠ 15) :
    ∃ t, exec i s = .next t ∧ Steps (taken s c 4) t c { callRegs (core s c).r ((core s c).r.pc + 4) with pc := target &&& ~~~(1 : Addr) } ∧
      ∀ k : Fin 8, regGet (core t c).r (BitVec.ofNat 5 (8 + k.val)) = regGet (core s c).r (BitVec.ofNat 5 (24 + k.val)) := by
  have hregs : (core (taken s c 4) c).r = (core s c).r := fetched_regs s c _
  have hst := steps_callRegs (taken s c 4) c target
  have hop := callOp_plain (v := taken s c 4) (c := c) (target := target) (by rw [hregs, h16]) (by rw [hregs]; exact hroom) (by rw [hregs]; exact hres)
  rw [hregs] at hst
  refine ⟨_, ?_, hst, fun k => ?_⟩
  · rw [exec_of_seqOp he hl hr hok, hf, hop]
  · have hcr : (core _ c).r = { callRegs (core s c).r ((core s c).r.pc + 4) with pc := target &&& ~~~(1 : Addr) } := congrArg Core.r hst.2
    rw [hcr]
    exact regGet_callee (core s c).r { callRegs (core s c).r ((core s c).r.pc + 4) with pc := target &&& ~~~(1 : Addr) } rfl rfl k

theorem call_noRoom {i : Instr} {enc : W32} {ok : Bool} {f : State → Addr}
    (he : exec i s = .next (seqOp s c enc (badIf ok) fun s => callOp s c (f s))) (hl : isLong enc = (4 == 4)) (hok : ok = true) (hr : Ready s c 4)
    (hroom : ¬ ((core s c).r.g[(7 : Fin 8)].toNat % 16 = 0 ∧ (core s c).r.slim.toNat + 144 ≤ (core s c).r.g[(7 : Fin 8)].toNat)) :
    exec i s = .next (enter (coreEvent (taken s c 4) c 6 (at' 32 24 1)) c 4 0 0 (core s c).r.g[(7 : Fin 8)] (core s c).r.pc) := by
  have hregs : (core (taken s c 4) c).r = (core s c).r := fetched_regs s c _
  rw [exec_of_seqOp he hl hr hok]
  unfold callOp
  dsimp only
  rw [hregs, if_pos (by omega)]

/-- The registers after a `RET` to a resident window (R161). -/
def retRegs (r : Regs) : Regs :=
  let w := r.cwp - 1
  { r with g := updV r.g 7 fun _ => r.wslot[w] + 144, cwp := w, resident := r.resident - 1, pc := r.ra[r.cwp] &&& ~~~(1 : Addr) }

theorem retOp_plain {v : State} (hres : (core v c).r.resident ≠ 1) : ∃ t, retOp v c = t ∧ Steps v t c (retRegs (core v c).r) := by
  refine ⟨_, rfl, ?_⟩
  unfold retOp
  dsimp only
  rw [if_neg fun h => hres h.1, if_neg hres]
  refine ⟨((onlyCore_modCore v c _).trans (onlyCore_modCore _ c _)).trans (onlyCore_modCore _ c _), ?_⟩
  rw [retire, core_modCore, core_modRegs, core_modRegs]
  rfl

theorem ret_completes (hr : Ready s c 2) (hres : (core s c).r.resident ≠ 1) : ∃ t, exec (.ret c 0) s = .next t ∧
    Steps (taken s c 2) t c (retRegs (core s c).r) := by
  have hregs : (core (taken s c 2) c).r = (core s c).r := fetched_regs s c _
  obtain ⟨t, ht, hst⟩ := retOp_plain (v := taken s c 2) (c := c) (by rw [hregs]; exact hres)
  rw [hregs] at hst
  refine ⟨t, ?_, hst⟩
  rw [exec_of_seqOp (i := .ret c 0) rfl (isLong_h4 1 0 (by decide)) hr rfl, ht]

theorem ret_noCaller (hr : Ready s c 2) (hres : (core s c).r.resident = 1) (htop : (core s c).r.spillTop = 1) :
    exec (.ret c 0) s = .next (windowFault (taken s c 2) c 3 0 0) := by
  have hregs : (core (taken s c 2) c).r = (core s c).r := fetched_regs s c _
  rw [exec_of_seqOp (i := .ret c 0) rfl (isLong_h4 1 0 (by decide)) hr rfl]
  unfold retOp
  dsimp only
  rw [if_pos ⟨(congrArg Regs.resident hregs).trans hres, (congrArg Regs.spillTop hregs).trans htop⟩]

end Windows

end Sys2Proof.Machine

/-! PROOF. The slots of windows. -/
namespace Sys2Proof.Machine

/-! ### The parts of a window's slot -/

/-- The parts `ps` cover the bytes from `i` up to `e` of the slot at `a`, each within one word. -/
def PartsFrom (a : Nat) : Nat → List (Nat × Nat × Nat) → Nat → Prop
  | i, [], e => i = e
  | i, (b, lo, n) :: ps, e => b % 16 = 0 ∧ lo + n ≤ 16 ∧ 0 < n ∧ nthAddr a i = b + lo ∧ PartsFrom a (i + n) ps e

theorem slotParts_from {a : Nat} (ha : a < 2 ^ 40) : PartsFrom a 0 (slotParts a) 144 := by
  have h9 : List.range 9 = [0, 1, 2, 3, 4, 5, 6, 7, 8] := rfl
  have h8 : List.range 8 = [0, 1, 2, 3, 4, 5, 6, 7] := rfl
  unfold slotParts
  by_cases h : a % 16 = 0
  · rw [if_pos h, h9]
    simp only [List.map_cons, List.map_nil, PartsFrom, nthAddr, and_true]
    and_intros <;> omega
  · rw [if_neg h, h8]
    simp only [List.map_cons, List.map_nil, List.cons_append, List.nil_append, PartsFrom, nthAddr]
    and_intros <;> omega

section Slots

variable {u : State} {n : VeId} {a e : Nat} {w : Want} {d : Nat → Nat}

/-- Bytes `i` to `e - 1` of the slot at `a` are served at the device addresses `d`. -/
def SlotServed (u : State) (n : VeId) (w : Want) (a i e : Nat) (d : Nat → Nat) : Prop :=
  ∀ j, i ≤ j → j < e → ∃ x, Reach u (.ve n) w (nthAddr a j) (d j) x

theorem PartsFrom.le {i : Nat} {ps : List (Nat × Nat × Nat)} (h : PartsFrom a i ps e) : i ≤ e := by
  induction ps generalizing i with
  | nil => exact le_of_eq h
  | cons p ps ih =>
    obtain ⟨b, lo, n⟩ := p
    obtain ⟨-, -, -, -, hrest⟩ := h
    have := ih hrest
    omega

/-- A part's word is served, and its bytes lie one after the other. -/
theorem SlotServed.part {i b lo m : Nat} (h : SlotServed u n w a i e d) (hb : b % 16 = 0) (hlo : lo + m ≤ 16) (hm : 0 < m) (hi : nthAddr a i = b + lo)
    (he : i + m ≤ e) : (∃ x, Reach u (.ve n) w b (d i / 16 * 16) x) ∧ d i % 16 = lo ∧ ∀ k, k < m → d (i + k) = d i + k := by
  obtain ⟨x, hx⟩ := h i le_rfl (by omega)
  have hmod := hx.mod
  have h39 := hx.addr_ve
  refine ⟨?_, by omega, fun k hk => ?_⟩
  · obtain ⟨y, hy⟩ := hx.line (b := b) (fun hc => by cases hc) (by omega)
    have hpl : d i / 64 * 64 + b % 64 = d i / 16 * 16 := by omega
    rw [hpl] at hy
    exact ⟨y, hy⟩
  · obtain ⟨z, hz⟩ := h (i + k) (by omega) (by omega)
    have hik : nthAddr a (i + k) = nthAddr a i + k := by
      simp only [nthAddr] at hi h39 hmod ⊢
      omega
    have := hx.next hz (by omega)
    omega

/-- Every part of a served slot passes its checks. -/
theorem slot_checks {i : Nat} {ps : List (Nat × Nat × Nat)} (h : SlotServed u n w a i e d) (hp : PartsFrom a i ps e) :
    ∀ p ∈ ps, accCheck u (.ve n) w p.1 = 0 := by
  induction ps generalizing i with
  | nil => exact fun p hp => by cases hp
  | cons q ps ih =>
    obtain ⟨b, lo, m⟩ := q
    obtain ⟨hb, hlo, hm, hi, hrest⟩ := hp
    have hle := hrest.le
    intro p hpm
    rcases List.mem_cons.1 hpm with rfl | hpm
    · obtain ⟨⟨x, hx⟩, -⟩ := h.part hb hlo hm hi hle
      exact hx.check
    · exact ih (fun j hj hje => h j (by omega) hje) hrest p hpm

theorem slotBad_served (ha : a < 2 ^ 40) (h : SlotServed u n w a 0 144 d) : slotBad u (.ve n) w a = none ∧ slotHeld u (.ve n) w a = false := by
  have hc := slot_checks h (slotParts_from ha)
  constructor
  · unfold slotBad
    rw [List.findSome?_eq_none_iff]
    intro p hp
    dsimp only
    rw [hc p hp, if_pos (.inl rfl)]
  · unfold slotHeld
    rw [List.any_eq_false]
    intro p hp
    rw [hc p hp]
    decide

/-! ### A slot stored -/

theorem SlotServed.store {i : Nat} (h : SlotServed u n w a i e d) (m : Store) : SlotServed { u with mem := m } n w a i e d := fun j hj hje => by
  obtain ⟨x, hx⟩ := h j hj hje
  exact ⟨x, hx.store m⟩

theorem natOfBytes_take_byte (l : List Byte) {n k : Nat} (hk : k < n) : BitVec.ofNat 8 (natOfBytes (l.take n) >>> (8 * k)) = nth l k 0 := by
  apply BitVec.eq_of_toNat_eq
  rw [BitVec.toNat_ofNat, show (2 : Nat) ^ 8 = 256 from rfl, natOfBytes_byte]
  simp only [nth, List.getD_eq_getElem?_getD, List.getElem?_take_of_lt hk]

theorem slotStore_served {i : Nat} {ps : List (Nat × Nat × Nat)} {bs : List Byte} {v : State} (hp : PartsFrom a i ps e) (hn : Near u (.ve n) v)
    (hpo : u.mem.poison = []) (hla : u.mem.latent = []) (hrs : u.twin.resync = none) (hwf : cellsWf u.mem.cells = true) (hq : u.eng[n].queue = [])
    (hs : SlotServed u n .write a i e d) (hsq : ∀ j, i ≤ j → j < e → storeQueued u (.ve n) (nthAddr a j / 16 * 16) = false) :
    ∃ t m, slotStore (.ve n) ps bs v = (none, t) ∧ Near { u with mem := m } (.ve n) t ∧ StMoved (core v (.ve n)) (core t (.ve n)) ∧
      (∀ j, i ≤ j → j < e → (∀ k, k < e → d k = d j → k ≤ j) → cellGet m.cells (d j) = nth bs (j - i) 0) ∧
      ∀ b, (∀ j, i ≤ j → j < e → d j ≠ b) → cellGet m.cells b = cellGet u.mem.cells b := by
  induction ps generalizing i bs u v with
  | nil =>
    have hie : i = e := hp
    exact ⟨v, u.mem, rfl, hn, StMoved.refl _, fun j hj hje => by omega, fun b _ => rfl⟩
  | cons q ps ih =>
    obtain ⟨b, lo, m⟩ := q
    obtain ⟨hb, hlo, hm, hi, hrest⟩ := hp
    have hle := hrest.le
    obtain ⟨⟨x, hx⟩, hmod, hseq⟩ := hs.part hb hlo hm hi hle
    have hsqb : storeQueued u (.ve n) b = false := by
      have := hsq i le_rfl (by omega)
      rwa [show nthAddr a i / 16 * 16 = b by omega] at this
    obtain ⟨t1, e1, hn1, hk1⟩ := coreStore_reach (y := partData (natOfBytes (bs.take m)) lo) (k := byteMask lo m) hn hpo hla hrs hx hb hsqb
    have hstored : maskedStore u.mem (d i / 16 * 16 / 16) (partData (natOfBytes (bs.take m)) lo) (byteMask lo m) =
        partStored u.mem (d i) m (natOfBytes (bs.take m)) := by rw [partStored, hmod, Nat.mul_div_cancel _ (show 0 < 16 by decide)]
    rw [hstored] at hn1
    obtain ⟨hpo1, hla1⟩ := partStored_clean (d i) m (natOfBytes (bs.take m)) hpo hla
    have htaint : taintStore t1 (.ve n) b = t1 := taintStore_quiet (fun k hk => by
      cases hk
      rw [hn1.eng]
      exact hq) b
    have hs1 : SlotServed { u with mem := partStored u.mem (d i) m (natOfBytes (bs.take m)) } n .write a (i + m) e d :=
      fun j hj hje => hs.store (partStored u.mem (d i) m (natOfBytes (bs.take m))) j (by omega) hje
    have hsq1 : ∀ j, i + m ≤ j → j < e → storeQueued u (.ve n) (nthAddr a j / 16 * 16) = false := fun j hj hje => hsq j (by omega) hje
    obtain ⟨t, m', he, hnt, hkt, hin, hout⟩ := ih (u := { u with mem := partStored u.mem (d i) m (natOfBytes (bs.take m)) }) (bs := bs.drop m) hrest hn1 hpo1 hla1 hrs
      (cellsWf_partStored hwf _ _ _) hq hs1 hsq1
    refine ⟨t, m', ?_, hnt, hk1.trans hkt, fun j hj hje hlast => ?_, fun y hy => ?_⟩
    · unfold slotStore
      dsimp only
      rw [partData] at e1
      rw [e1, if_neg fun h => h rfl, htaint]
      exact he
    · by_cases hjm : j < i + m
      · have hdj := hseq (j - i) (by omega)
        rw [show i + (j - i) = j by omega] at hdj
        rw [hout (d j) fun k hk hke heq => by
          have := hlast k hke heq
          omega]
        dsimp only
        rw [cellGet_partStored hwf _ (by omega), if_pos (by omega), show d j - d i = j - i by omega]
        exact natOfBytes_take_byte _ (by omega)
      · rw [hin j (by omega) hje hlast]
        simp only [nth, List.getD_eq_getElem?_getD, List.getElem?_drop]
        congr 2
        omega
    · rw [hout y fun j hj hje => hy j (by omega) hje]
      dsimp only
      rw [cellGet_partStored hwf _ (by omega), if_neg]
      rintro ⟨h1, h2⟩
      exact hy (i + (y - d i)) (by omega) (by omega) (by rw [hseq _ (by omega)]; omega)

/-! ### A slot loaded -/

theorem slotLoad_served {i : Nat} {ps : List (Nat × Nat × Nat)} {v : State} (hp : PartsFrom a i ps e) (hn : Near u (.ve n) v)
    (hpo : u.mem.poison = []) (hla : u.mem.latent = []) (hq : u.eng[n].queue = []) (hs : SlotServed u n .read a i e d) :
    ∃ t, slotLoad (.ve n) ps v = ((List.range (e - i)).map fun k => cellGet u.mem.cells (d (i + k)), none, t) ∧ Near u (.ve n) t ∧
      core t (.ve n) = core v (.ve n) := by
  induction ps generalizing i v with
  | nil =>
    have hie : i = e := hp
    refine ⟨v, ?_, hn, rfl⟩
    rw [hie, Nat.sub_self]
    rfl
  | cons q ps ih =>
    obtain ⟨b, lo, m⟩ := q
    obtain ⟨hb, hlo, hm, hi, hrest⟩ := hp
    have hle := hrest.le
    obtain ⟨⟨x, hx⟩, hmod, hseq⟩ := hs.part hb hlo hm hi hle
    obtain ⟨t1, e1, hn1, hk1⟩ := served_of_reach hpo hla hx hb v hn
    have hquiet : ∀ k, CoreId.ve n = CoreId.ve k → u.eng[k].queue = [] := fun k hk => by
      cases hk
      exact hq
    have hword : loadWord v (.ve n) b = { data := wordGet u.mem (d i / 16 * 16 / 16), status := 0, s := t1 } := by
      rw [loadWord, e1]
      exact hazard_quiet hn1 hquiet
    obtain ⟨t, he, hnt, hkt⟩ := ih hrest hn1 (fun j hj hje => hs j (by omega) hje)
    refine ⟨t, ?_, hnt, hkt.trans hk1⟩
    unfold slotLoad
    dsimp only
    rw [hword, if_neg fun h => h rfl]
    dsimp only
    rw [he]
    dsimp only
    congr 1
    have hlen : e - i = m + (e - (i + m)) := by omega
    rw [hlen, List.range_add, List.map_append]
    congr 1
    · apply List.ext_getElem
      · simp only [List.length_take, List.length_drop, bytesOf_length, List.length_map, List.length_range]
        omega
      · intro k h1 h2
        have hkm : k < m := by simpa using h2
        simp only [List.getElem_take, List.getElem_drop, bytesOf, List.getElem_map, List.getElem_range]
        rw [byteOf_wordGet _ _ (by omega), hseq k hkm]
        congr 1
        omega
    · rw [List.map_map]
      apply List.map_congr_left
      intro k _
      dsimp only [Function.comp_apply]
      rw [Nat.add_assoc]

end Slots

end Sys2Proof.Machine

/-! PROOF. Spill and fill. -/
namespace Sys2Proof.Machine

/-! ### The bytes of a slot -/

theorem nth_append_left {l m : List Byte} {i : Nat} (h : i < l.length) : nth (l ++ m) i 0 = nth l i 0 := by
  simp only [nth, List.getD_eq_getElem?_getD, List.getElem?_append_left h]

theorem nth_append_right {l m : List Byte} {i : Nat} (h : l.length ≤ i) : nth (l ++ m) i 0 = nth m (i - l.length) 0 := by
  simp only [nth, List.getD_eq_getElem?_getD, List.getElem?_append_right h]

theorem length_bytesOf {m : Nat} (x : BitVec m) (k : Nat) : (bytesOf x k).length = k := by rw [bytesOf, List.length_map, List.length_range]

theorem nth_bytesOf {m : Nat} (x : BitVec m) {k i : Nat} (h : i < k) : nth (bytesOf x k) i 0 = byteOf x i := by
  simp only [nth, bytesOf, List.getD_eq_getElem?_getD, List.getElem?_map, List.getElem?_range h, Option.map_some, Option.getD_some]

theorem length_flatMap_bytes {α : Type} {m : Nat} (f : α → BitVec m) (l : List α) : (l.flatMap fun i => bytesOf (f i) 8).length = 8 * l.length := by
  induction l with
  | nil => rfl
  | cons a l ih =>
    rw [List.flatMap_cons, List.length_append, ih, length_bytesOf, List.length_cons]
    omega

theorem nth_flatMap_bytes {α : Type} {m : Nat} (f : α → BitVec m) (l : List α) (j : Nat) (h : j / 8 < l.length) :
    nth (l.flatMap fun i => bytesOf (f i) 8) j 0 = byteOf (f l[j / 8]) (j % 8) := by
  induction l generalizing j with
  | nil => exact absurd h (Nat.not_lt_zero _)
  | cons a l ih =>
    rw [List.flatMap_cons]
    by_cases hj : j < 8
    · rw [nth_append_left (by rw [length_bytesOf]; exact hj), nth_bytesOf _ hj, Nat.mod_eq_of_lt hj]
      simp only [Nat.div_eq_of_lt hj, List.getElem_cons_zero]
    · rw [List.length_cons] at h
      rw [nth_append_right (by rw [length_bytesOf]; omega), length_bytesOf, ih (j - 8) (by omega)]
      have hd : j / 8 = (j - 8) / 8 + 1 := by omega
      have hm : (j - 8) % 8 = j % 8 := by omega
      simp only [hd, List.getElem_cons_succ, hm]

/-- The layout of Table 6.3. -/
theorem nth_slotBytes (r : Regs) (o : Fin 16) {i : Nat} (hi : i < 144) : nth (slotBytes r o) i 0 =
    if i < 0x80 then byteOf (r.win[winIx o (Fin.ofNat 16 (i / 8))]) (i % 8) else if i < 0x88 then byteOf r.spillTop (i - 0x80) else byteOf r.ra[o] (i - 0x88) := by
  have hl := length_flatMap_bytes (fun i => r.win[winIx o i]) (List.finRange 16)
  rw [List.length_finRange] at hl
  have hl2 : ((List.finRange 16).flatMap (fun i => bytesOf (r.win[winIx o i]) 8) ++ bytesOf r.spillTop 8).length = 136 := by
    rw [List.length_append, hl, length_bytesOf]
  unfold slotBytes
  by_cases h1 : i < 0x80
  · rw [if_pos h1, nth_append_left (by omega), nth_append_left (by omega), nth_flatMap_bytes _ _ _ (by rw [List.length_finRange]; omega), List.getElem_finRange]
    have hf : Fin.cast (List.length_finRange (n := 16)) ⟨i / 8, by rw [List.length_finRange]; omega⟩ = Fin.ofNat 16 (i / 8) :=
      Fin.ext (Nat.mod_eq_of_lt (by omega)).symm
    rw [hf]
  · rw [if_neg h1]
    by_cases h2 : i < 0x88
    · rw [if_pos h2, nth_append_left (by omega), nth_append_right (by omega), hl, nth_bytesOf _ (by omega)]
    · rw [if_neg h2, nth_append_right (by omega), hl2, nth_bytesOf _ (by omega)]

theorem word64At_served (f : Nat → Byte) {i : Nat} (h : i + 8 ≤ 144) :
    word64At ((List.range 144).map f) i = BitVec.ofNat 64 (natOfBytes ((List.range 8).map fun j => f (i + j))) := by
  have hl : (((List.range 144).map f).drop i).take 8 = (List.range 8).map fun j => f (i + j) := by
    apply List.ext_getElem
    · simp only [List.length_take, List.length_drop, List.length_map, List.length_range]
      omega
    · intro k h1 h2
      simp only [List.getElem_take, List.getElem_drop, List.getElem_map, List.getElem_range]
  rw [word64At, hl]

theorem word64_toNat (f : Nat → Byte) : (BitVec.ofNat 64 (natOfBytes ((List.range 8).map f))).toNat = natOfBytes ((List.range 8).map f) := by
  have h := natOfBytes_lt ((List.range 8).map f)
  rw [List.length_map, List.length_range] at h
  rw [BitVec.toNat_ofNat]
  exact Nat.mod_eq_of_lt (Nat.lt_of_lt_of_eq h (by decide))

/-! ### A window restored -/

theorem foldl_set_other {α : Type} {k : Nat} {ι : Type} (ix : ι → Fin k) (g : ι → α) (l : List ι) (v : Vector α k) (j : Fin k) (h : ∀ i ∈ l, ix i ≠ j) :
    (l.foldl (fun v i => v.set (ix i) (g i)) v)[j] = v[j] := by
  induction l generalizing v with
  | nil => rfl
  | cons a l ih =>
    rw [List.foldl_cons, ih _ fun i hi => h i (List.mem_cons_of_mem _ hi)]
    have hne : (ix a).val ≠ j.val := fun e => h a List.mem_cons_self (Fin.ext e)
    exact Vector.getElem_set_ne _ _ hne

theorem foldl_set_same {α : Type} {k : Nat} {ι : Type} (ix : ι → Fin k) (g : ι → α) (hix : ∀ a b, ix a = ix b → a = b) (l : List ι) (v : Vector α k)
    (a : ι) (h : a ∈ l) : (l.foldl (fun v i => v.set (ix i) (g i)) v)[ix a] = g a := by
  induction l generalizing v with
  | nil => cases h
  | cons b l ih =>
    rw [List.foldl_cons]
    by_cases hl : a ∈ l
    · exact ih _ hl
    · have hab : a = b := (List.mem_cons.1 h).resolve_right hl
      subst hab
      rw [foldl_set_other ix g l _ _ fun i hi e => hl ((hix i a e) ▸ hi)]
      exact Vector.getElem_set_self _

theorem winIx_inj (w : Fin 16) (a b : Fin 16) (h : winIx w a = winIx w b) : a = b := by
  have h1 : 16 * w.val + a.val = 16 * w.val + b.val := congrArg Fin.val h
  exact Fin.ext (by omega)

theorem winRestore_same (r : Regs) (w : Fin 16) (bs : List Byte) (i : Fin 16) : (winRestore r w bs).win[winIx w i] = word64At bs (8 * i.val) :=
  foldl_set_same (winIx w) _ (winIx_inj w) _ _ i (List.mem_finRange i)

theorem winRestore_other (r : Regs) (w : Fin 16) (bs : List Byte) (j : Fin 256) (h : j.val / 16 ≠ w.val) : (winRestore r w bs).win[j] = r.win[j] :=
  foldl_set_other (winIx w) _ _ _ _ fun i _ e => h (by
    have : (winIx w i).val = j.val := congrArg Fin.val e
    have h2 : 16 * w.val + i.val = j.val := this
    omega)

/-! ### Spill and fill (R162) -/

section SpillFill

variable {s : State} {n : VeId} {d : Nat → Nat}

theorem slotServed_of {u : State} {w : Want} {a : Nat} (h : ∀ i, i < 144 → seqByte u n w (nthAddr a i) = some (d i)) : SlotServed u n w a 0 144 d :=
  fun j _ hj => reach_of_seqByte (h j hj)

/-- The oldest window goes to its slot. -/
theorem spill_served {u : State} {o : Fin 16} {r : Regs} (hr : (core u (.ve n)).r = r) (hpo : u.mem.poison = []) (hla : u.mem.latent = []) (hrs : u.twin.resync = none) (hwf : cellsWf u.mem.cells = true)
    (hq : u.eng[n].queue = []) (ho : oldest r = o)
    (hs : SlotServed u n .write (r.wslot[o].toNat % 2 ^ 40) 0 144 d)
    (hsq : ∀ i, i < 144 → storeQueued u (.ve n) (nthAddr (r.wslot[o].toNat % 2 ^ 40) i / 16 * 16) = false) :
    ∃ t, spill u (.ve n) = .ok (modRegs (countSpill t (.ve n)) (.ve n) fun q => { q with spillTop := r.wslot[o], resident := q.resident - 1 }) ∧
      StMoved (core u (.ve n)) (core t (.ve n)) ∧ Stored u t 144 d (fun i => nth (slotBytes r o) i 0) := by
  subst ho hr
  have ha : (core u (.ve n)).r.wslot[oldest (core u (.ve n)).r].toNat % 2 ^ 40 < 2 ^ 40 := Nat.mod_lt _ (Nat.two_pow_pos _)
  obtain ⟨hbad, hheld⟩ := slotBad_served ha hs
  obtain ⟨t, m, he, hn, hk, hin, hout⟩ := slotStore_served (bs := slotBytes (core u (.ve n)).r (oldest (core u (.ve n)).r)) (slotParts_from ha) (Near.refl u (.ve n)) hpo hla hrs hwf hq hs
    fun j _ hj => hsq j hj
  refine ⟨t, ?_, hk, fun i hi hlast => ?_, fun b hb => ?_⟩
  · unfold spill
    dsimp only
    rw [hbad]
    dsimp only
    rw [hheld, if_neg Bool.false_ne_true, he]
  · rw [hn.mem]
    exact hin i (Nat.zero_le _) hi hlast
  · rw [hn.mem]
    exact hout b fun j _ hj => hb j hj

/-- The caller's window comes from the slot that SPILLTOP names. -/
theorem fill_served {u : State} (w : Fin 16) (hpo : u.mem.poison = []) (hla : u.mem.latent = []) (hq : u.eng[n].queue = [])
    (hs : SlotServed u n .read ((core u (.ve n)).r.spillTop.toNat % 2 ^ 40) 0 144 d) :
    ∃ t, fill u (.ve n) w = .ok (modRegs (countSpill t (.ve n)) (.ve n) fun r => winRestore r w ((List.range 144).map fun k => cellGet u.mem.cells (d k))) ∧
      core t (.ve n) = core u (.ve n) ∧ t.mem = u.mem := by
  have ha : (core u (.ve n)).r.spillTop.toNat % 2 ^ 40 < 2 ^ 40 := Nat.mod_lt _ (Nat.two_pow_pos _)
  obtain ⟨hbad, hheld⟩ := slotBad_served ha hs
  obtain ⟨t, he, hn, hk⟩ := slotLoad_served (slotParts_from ha) (Near.refl u (.ve n)) hpo hla hq hs
  refine ⟨t, ?_, hk, hn.mem⟩
  unfold fill
  dsimp only
  rw [hbad]
  dsimp only
  rw [hheld, if_neg Bool.false_ne_true, he]
  simp only [Nat.sub_zero, Nat.zero_add]

theorem spill_oldest (r : Regs) (h : r.resident = 15) : oldest r = r.cwp - 14 := by
  rw [oldest, h]
  rfl

/-- `CALL` with 15 windows resident. -/
theorem call_spills {off : BitVec 24} (hr : Ready s (.ve n) 4) (hpl : Plain s) (hq : s.eng[n].queue = [])
    (h16 : (core s (.ve n)).r.g[(7 : Fin 8)].toNat % 16 = 0)
    (hroom : (core s (.ve n)).r.slim.toNat + 144 ≤ (core s (.ve n)).r.g[(7 : Fin 8)].toNat) (hres : (core s (.ve n)).r.resident = 15) {o : Fin 16}
    (ho : (core s (.ve n)).r.cwp - 14 = o)
    (hs : ∀ i, i < 144 → seqByte (taken s (.ve n) 4) n .write (nthAddr ((core s (.ve n)).r.wslot[o].toNat % 2 ^ 40) i) = some (d i))
    (hsq : ∀ i, i < 144 → storeQueued s (.ve n) (nthAddr ((core s (.ve n)).r.wslot[o].toNat % 2 ^ 40) i / 16 * 16) = false) :
    ∃ t, exec (.call (.ve n) off) s = .next t ∧ Stored s t 144 d (fun i => nth (slotBytes (core s (.ve n)).r o) i 0) ∧
      (core t (.ve n)).spills = satInc (core (taken s (.ve n) 4) (.ve n)).spills ∧
      (core t (.ve n)).r = { callRegs { (core s (.ve n)).r with spillTop := (core s (.ve n)).r.wslot[o], resident := (core s (.ve n)).r.resident - 1 }
        ((core s (.ve n)).r.pc + 4) with pc := relPc (core s (.ve n)).r.pc off.toInt &&& ~~~(1 : Addr) } := by
  obtain ⟨hm, hpo, hla, hrs, hwf, -⟩ := plain_taken (c := .ve n) (len := 4) hpl
  have hal := alike_taken (s := s) (c := .ve n) (len := 4) (.inr ⟨hpl.2.1, hpl.2.2.1⟩)
  have hregs : (core (taken s (.ve n) 4) (.ve n)).r = (core s (.ve n)).r := fetched_regs s (.ve n) _
  obtain ⟨t, he, hk, hst⟩ := spill_served (u := taken s (.ve n) 4) (o := o) hregs hpo hla hrs hwf (by rw [fetched_queue, hq])
    ((spill_oldest _ hres).trans ho) (slotServed_of hs)
    (fun i hi => by rw [storeQueued, corePart, hal.execPart, hal.parts]; exact hsq i hi)
  have hkr : (core t (.ve n)).r = (core s (.ve n)).r := by
    have hk' : core t (.ve n) = _ := hk
    rw [hk']
    exact hregs
  have hks : (core t (.ve n)).spills = (core (taken s (.ve n) 4) (.ve n)).spills := by
    have hk' : core t (.ve n) = _ := hk
    rw [hk']
  have hop : callOp (taken s (.ve n) 4) (.ve n) (relPc (core (taken s (.ve n) 4) (.ve n)).r.pc off.toInt) =
      retire (modRegs (modRegs (countSpill t (.ve n)) (.ve n) fun r => { r with spillTop := (core s (.ve n)).r.wslot[o], resident := r.resident - 1 }) (.ve n)
        fun r => callRegs r (r.pc + 4)) (.ve n) (relPc (core s (.ve n)).r.pc off.toInt) := by
    unfold callOp
    dsimp only
    rw [hregs, if_neg (by omega), if_pos hres, he]
  refine ⟨_, (exec_of_seqOp (i := .call (.ve n) off) rfl (isLong_long _ _ (by decide) (by decide)) hr rfl).trans (congrArg Host.Outcome.next hop), ?_, ?_, ?_⟩
  · rw [Stored] at hst ⊢
    rw [hm] at hst
    exact hst
  · rw [retire, core_modCore, core_modRegs, core_modRegs, countSpill, core_modCore, hks]
  · rw [retire, core_modCore, core_modRegs, core_modRegs, countSpill, core_modCore, hkr]

theorem retOp_fills {u v : State} {r : Regs} (hr : (core u (.ve n)).r = r) (hres : r.resident = 1) (htop : r.spillTop ≠ 1)
    (hf : fill u (.ve n) (r.cwp - 1) = .ok v) :
    retOp u (.ve n) = retire (modRegs v (.ve n) fun q => { q with cwp := r.cwp - 1, g := updV q.g 7 fun _ => q.wslot[r.cwp - 1] + 144 }) (.ve n) r.ra[r.cwp] := by
  subst hr
  unfold retOp
  dsimp only
  rw [if_neg fun h => htop h.2, if_pos hres, hf]

/-- `RET` to a window that is not resident. -/
theorem ret_fills (hr : Ready s (.ve n) 2) (hpl : Plain s) (hq : s.eng[n].queue = []) (hres : (core s (.ve n)).r.resident = 1)
    (htop : (core s (.ve n)).r.spillTop ≠ 1)
    (hs : ∀ i, i < 144 → seqByte (taken s (.ve n) 2) n .read (nthAddr ((core s (.ve n)).r.spillTop.toNat % 2 ^ 40) i) = some (d i)) :
    ∃ t, exec (.ret (.ve n) 0) s = .next t ∧ t.mem = s.mem ∧ (core t (.ve n)).spills = satInc (core (taken s (.ve n) 2) (.ve n)).spills ∧
      (core t (.ve n)).r = { retRegs (winRestore (core s (.ve n)).r ((core s (.ve n)).r.cwp - 1) ((List.range 144).map fun k => cellGet s.mem.cells (d k))) with
        resident := 1, pc := (core s (.ve n)).r.ra[(core s (.ve n)).r.cwp] &&& ~~~(1 : Addr) } := by
  obtain ⟨hm, hpo, hla, -⟩ := plain_taken (c := .ve n) (len := 2) hpl
  have hregs : (core (taken s (.ve n) 2) (.ve n)).r = (core s (.ve n)).r := fetched_regs s (.ve n) _
  obtain ⟨t, he, hk, htm⟩ := fill_served (u := taken s (.ve n) 2) ((core s (.ve n)).r.cwp - 1) hpo hla (by rw [fetched_queue, hq])
    (by rw [hregs]; exact slotServed_of hs)
  rw [hm] at he
  have hop := retOp_fills hregs hres htop he
  refine ⟨_, (exec_of_seqOp (i := .ret (.ve n) 0) rfl (isLong_h4 1 0 (by decide)) hr rfl).trans (congrArg Host.Outcome.next hop), htm.trans hm, ?_, ?_⟩
  · rw [retire, core_modCore, core_modRegs, core_modRegs, countSpill, core_modCore, hk]
  · rw [retire, core_modCore, core_modRegs, core_modRegs, countSpill, core_modCore, hk, hregs]
    simp only [retRegs, winRestore]

end SpillFill

end Sys2Proof.Machine

/-! PROOF. What accesses do not look at. -/
namespace Sys2Proof.Machine

/-! ### What accesses do not look at: the queue of commands and a core's open faults -/

/-- `s` with the waiting commands changed by `q` and the open faults of VE `z` by `g`. -/
def overlay (z : VeId) (g : List OpenFault → List OpenFault) (q : List Instr → List Instr) (s : State) : State :=
  { s with seq := updV s.seq z fun k => { k with openFaults := g k.openFaults }, pending := q s.pending }

/-- An access's result with its state overlaid. -/
def Acc.overlay (z : VeId) (g : List OpenFault → List OpenFault) (q : List Instr → List Instr) (x : Acc) : Acc := { x with s := Machine.overlay z g q x.s }

/-- A pair whose state is overlaid. -/
def pairOverlay {α : Type} (z : VeId) (g : List OpenFault → List OpenFault) (q : List Instr → List Instr) (x : α × State) : α × State := (x.1, overlay z g q x.2)

theorem ite_congr_under {α β : Type} {f : α → β} {c : Prop} [Decidable c] {x y : β} {a b : α} (h : x = f a) (k : y = f b) :
    (if c then x else y) = f (if c then a else b) := by
  by_cases hc : c
  · rw [if_pos hc, if_pos hc, h]
  · rw [if_neg hc, if_neg hc, k]

section Overlay

variable {z : VeId} {g : List OpenFault → List OpenFault} {q : List Instr → List Instr} {s t : State}

theorem emit_overlay {o : Out} (h : t = overlay z g q s) : emit t o = overlay z g q (emit s o) := congrArg (emit · o) h

theorem modPort_overlay {i : PortId} {f : Port → Port} (h : t = overlay z g q s) : modPort t i f = overlay z g q (modPort s i f) := congrArg (modPort · i f) h

theorem modBank_overlay {b : BankId} {f : Bank → Bank} (h : t = overlay z g q s) : modBank t b f = overlay z g q (modBank s b f) := congrArg (modBank · b f) h

theorem modStack_overlay {i : StackId} {f : Stack → Stack} (h : t = overlay z g q s) : modStack t i f = overlay z g q (modStack s i f) :=
  congrArg (modStack · i f) h

/-- A core's open faults under the overlay. -/
def faultsUnder (z : VeId) (g : List OpenFault → List OpenFault) : CoreId → List OpenFault → List OpenFault
  | .ve n, l => if n = z then g l else l
  | .sv, l => l

theorem seq_overlay (n : VeId) : (overlay z g q s).seq[n] = { s.seq[n] with openFaults := faultsUnder z g (.ve n) s.seq[n].openFaults } := by
  by_cases h : n = z
  · subst h
    simp only [faultsUnder, if_true]
    exact updV_same ..
  · simp only [faultsUnder, if_neg h]
    exact updV_other s.seq z n _ (fun e => h e.symm)

theorem core_overlay (c : CoreId) : core (overlay z g q s) c = { core s c with openFaults := faultsUnder z g c (core s c).openFaults } := by
  cases c with
  | ve n => exact seq_overlay n
  | sv => rfl

theorem modCore_overlay {c : CoreId} {f h : Core → Core} (hf : ∀ k, f { k with openFaults := faultsUnder z g c k.openFaults } =
    { h k with openFaults := faultsUnder z g c (h k).openFaults }) (ht : t = overlay z g q s) : modCore t c f = overlay z g q (modCore s c h) := by
  subst ht
  cases c with
  | sv => exact congrArg (fun k => { overlay z g q s with sv := k }) (hf s.sv)
  | ve n =>
    have hseq : updV (updV s.seq z fun k => { k with openFaults := g k.openFaults }) n f = updV (updV s.seq n h) z fun k => { k with openFaults := g k.openFaults } := by
      have hov : ∀ (t : State) (m : VeId), (updV t.seq z fun k => { k with openFaults := g k.openFaults })[m] =
        { t.seq[m] with openFaults := faultsUnder z g (.ve m) t.seq[m].openFaults } := fun t m => seq_overlay (s := t) (q := q) m
      ext i hi
      have h1 := hov s ⟨i, hi⟩
      have h2 := hov { s with seq := updV s.seq n h } ⟨i, hi⟩
      by_cases hn : n = ⟨i, hi⟩
      · subst hn
        refine ((updV_same _ _ _).trans (congrArg f h1)).trans ((hf _).trans ?_)
        refine (h2.trans ?_).symm
        have h3 : (updV s.seq ⟨i, hi⟩ h)[(⟨i, hi⟩ : VeId)] = h s.seq[(⟨i, hi⟩ : VeId)] := updV_same ..
        simp only [h3]
      · refine ((updV_other _ n ⟨i, hi⟩ _ hn).trans h1).trans ?_
        refine (h2.trans ?_).symm
        have h3 : (updV s.seq n h)[(⟨i, hi⟩ : VeId)] = s.seq[(⟨i, hi⟩ : VeId)] := updV_other _ n ⟨i, hi⟩ _ hn
        simp only [h3]
    exact congrArg (fun v => { s with seq := v, pending := q s.pending }) hseq

theorem setAlert_overlay {i : Nat} (h : t = overlay z g q s) : setAlert t i = overlay z g q (setAlert s i) := by
  subst h
  exact ite_congr_under rfl (ite_congr_under rfl rfl)

theorem raise_overlay {x : SrcId} {dt : W32} (h : t = overlay z g q s) : raise t x dt = overlay z g q (raise s x dt) := by
  subst h
  unfold raise
  dsimp only
  cases alertBit x dt with
  | none => rfl
  | some i => exact ite_congr_under (setAlert_overlay rfl) rfl

theorem raiseN_overlay {x : Nat} {dt : W32} (h : t = overlay z g q s) : raiseN t x dt = overlay z g q (raiseN s x dt) := by
  unfold raiseN
  split
  · exact raise_overlay h
  · exact h

theorem fenceEvent_overlay {kind number reason : Nat} (h : t = overlay z g q s) :
    fenceEvent t kind number reason = overlay z g q (fenceEvent s kind number reason) := by
  subst h
  unfold fenceEvent
  exact raiseN_overlay rfl

theorem fencePc_overlay {st : StackId} {c reason : Nat} (h : t = overlay z g q s) : fencePc t st c reason = overlay z g q (fencePc s st c reason) := by
  subst h
  unfold fencePc
  exact ite_congr_under rfl (fenceEvent_overlay (raiseN_overlay rfl))

theorem bankEvent_overlay {b : BankId} {kind code low : Nat} (h : t = overlay z g q s) : bankEvent t b kind code low = overlay z g q (bankEvent s b kind code low) :=
  raiseN_overlay h

theorem i3cReady_overlay (h : t = overlay z g q s) : i3cReady t = overlay z g q (i3cReady s) := by
  subst h
  exact ite_congr_under rfl (ite_congr_under rfl rfl)

theorem dictRefuse_overlay {r : Requester} {ix sub code : Nat} {write : Bool} (h : t = overlay z g q s) :
    dictRefuse t r ix sub write code = overlay z g q (dictRefuse s r ix sub write code) := by
  subst h
  unfold dictRefuse
  refine ite_congr_under (i3cReady_overlay rfl) ?_
  by_cases h : r.val < 4
  · rw [dif_pos h, dif_pos h]
    rfl
  · rw [dif_neg h, dif_neg h]
    rfl

theorem refuseHeld_overlay {r : Requester} {ix sub code : Nat} (h : t = overlay z g q s) : refuseHeld t r ix sub code = overlay z g q (refuseHeld s r ix sub code) := by
  subst h
  exact ite_congr_under rfl (dictRefuse_overlay rfl)

theorem foldl_overlay {α : Type} {f : State → α → State} (hf : ∀ t x, f (overlay z g q t) x = overlay z g q (f t x)) (l : List α) (h : t = overlay z g q s) :
    l.foldl f t = overlay z g q (l.foldl f s) := by
  subst h
  induction l generalizing s with
  | nil => rfl
  | cons a l ih => rw [List.foldl_cons, List.foldl_cons, hf, ih]

theorem fenceBank_overlay {b : BankId} {reason : Nat} (h : t = overlay z g q s) : fenceBank t b reason = overlay z g q (fenceBank s b reason) := by
  subst h
  unfold fenceBank
  refine ite_congr_under rfl (fenceEvent_overlay (bankEvent_overlay ?_))
  have hb : (overlay z g q s).banks = s.banks := rfl
  have hp : bankPart (overlay z g q s) b = bankPart s b := rfl
  rw [hb, hp]
  have hmod : ∀ m, modBank (s.banks[b].held.foldl (fun t h => emit t (.bus h.frag.master h.frag.tag [] 8)) (hitParts (overlay z g q s) m)) b
      (fun k => { k with fenced := true, drain := none, held := [], waiters := [] }) =
      overlay z g q (modBank (s.banks[b].held.foldl (fun t h => emit t (.bus h.frag.master h.frag.tag [] 8)) (hitParts s m)) b
        fun k => { k with fenced := true, drain := none, held := [], waiters := [] }) := fun m =>
    modBank_overlay (foldl_overlay (fun _ _ => rfl) _ rfl)
  cases s.banks[b].drain with
  | none => exact hmod _
  | some d =>
    obtain ⟨o, w⟩ := d
    cases w with
    | write r => exact refuseHeld_overlay (hmod _)
    | _ => exact hmod _

theorem uncorrectable_overlay {u : MemUnit} {code w : Nat} {v : W128} (h : t = overlay z g q s) :
    uncorrectable t u code w v = overlay z g q (uncorrectable s u code w v) := by
  subst h
  cases u with
  | pc st c row word =>
    have h0 := modStack_overlay (z := z) (g := g) (q := q) (i := st) (f := fun k =>
      { k with ue := satInc k.ue, lastUe := BitVec.ofNat 64 (16 * w), ueRows := updV k.ueRows c fun _ => insertAsc row s.stk[st].ueRows[c] })
      (s := { s with ueTotal := satInc s.ueTotal, mem := wordPoison s.mem w v }) rfl
    exact ite_congr_under (fencePc_overlay (raiseN_overlay h0)) (raiseN_overlay h0)
  | bank b =>
    have h0 := modBank_overlay (z := z) (g := g) (q := q) (b := b) (f := fun k => { k with ue := satInc k.ue })
      (s := { s with ueTotal := satInc s.ueTotal, mem := wordPoison s.mem w v }) rfl
    exact ite_congr_under (fenceBank_overlay (bankEvent_overlay h0)) (bankEvent_overlay h0)

theorem poisonedRead_overlay {u : MemUnit} {code w : Nat} (h : t = overlay z g q s) : poisonedRead t u code w = overlay z g q (poisonedRead s u code w) := by
  cases u with
  | pc st c row word => exact raiseN_overlay h
  | bank b => exact bankEvent_overlay h

theorem corrected_overlay {u : MemUnit} {code w : Nat} (h : t = overlay z g q s) : corrected t u code w = overlay z g q (corrected s u code w) := by
  subst h
  cases u with
  | pc st c row word => exact ite_congr_under (raiseN_overlay rfl) rfl
  | bank b => exact ite_congr_under (bankEvent_overlay rfl) rfl

theorem nonOwner_overlay {b : BankId} {code w : Nat} {write : Bool} (h : t = overlay z g q s) : nonOwner t b code w write = overlay z g q (nonOwner s b code w write) :=
  bankEvent_overlay (modBank_overlay h)

/-! #### Reads -/

theorem acc_overlay {x : W128} {n : Nat} (h : t = overlay z g q s) : ({ data := x, status := n, s := t } : Acc) = Acc.overlay z g q { data := x, status := n, s := s } := by
  rw [h]
  rfl

theorem checkWord_overlay {u : MemUnit} {code w : Nat} (h : t = overlay z g q s) : checkWord t u code w = (checkWord s u code w).overlay z g q := by
  subst h
  unfold checkWord
  have hm : (overlay z g q s).mem = s.mem := rfl
  rw [hm]
  dsimp only
  cases s.mem.latent.find? (·.word = w) with
  | none => exact ite_congr_under (acc_overlay (poisonedRead_overlay rfl)) rfl
  | some l =>
    exact ite_congr_under (acc_overlay (uncorrectable_overlay rfl))
      (ite_congr_under (acc_overlay (poisonedRead_overlay (corrected_overlay rfl))) (acc_overlay (corrected_overlay rfl)))

theorem readWord_overlay {d code a : Nat} (h : t = overlay z g q s) : readWord t d code a = (readWord s d code a).overlay z g q := by
  subst h
  unfold readWord
  have hu : unitOf (overlay z g q s) a = unitOf s a := rfl
  rw [hu]
  cases unitOf s a with
  | none => rfl
  | some u =>
    refine ite_congr_under rfl ?_
    cases u with
    | pc => exact checkWord_overlay rfl
    | bank b =>
      have hb : (overlay z g q s).banks = s.banks := rfl
      dsimp only
      rw [hb]
      split
      · exact checkWord_overlay rfl
      · rfl
      · exact acc_overlay (nonOwner_overlay rfl)

theorem portTake_overlay {m : MasterKind} (h : t = overlay z g q s) : portTake t m = overlay z g q (portTake s m) := by
  subst h
  cases m <;> rfl

theorem bridgesTake_overlay {slot : Nat} {w : List (Nat × Nat)} (h : t = overlay z g q s) : bridgesTake slot w t = overlay z g q (bridgesTake slot w s) := by
  induction w generalizing slot s t with
  | nil => exact h
  | cons x w ih =>
    subst h
    rw [bridgesTake, bridgesTake]
    exact ih rfl

theorem crossWay_overlay {m : MasterKind} {w : List (Nat × Nat)} (h : t = overlay z g q s) : crossWay m w t = overlay z g q (crossWay m w s) := by
  subst h
  exact ite_congr_under rfl rfl

theorem targetTake_overlay {m : MasterKind} {tap : Bool} {u : MemUnit} (h : t = overlay z g q s) : targetTake t m tap u = overlay z g q (targetTake s m tap u) := by
  subst h
  cases u with
  | pc => rfl
  | bank b => exact ite_congr_under rfl rfl

theorem pathTake_overlay {m : MasterKind} {tap : Bool} {u : MemUnit} (h : t = overlay z g q s) : pathTake t m u tap = overlay z g q (pathTake s m u tap) := by
  subst h
  exact targetTake_overlay (crossWay_overlay (bridgesTake_overlay (portTake_overlay rfl)))

theorem via_overlay {m : MasterKind} {a : Nat} {f : State → Acc} (hf : ∀ u, f (overlay z g q u) = (f u).overlay z g q) (h : t = overlay z g q s) :
    via t m a f = (via s m a f).overlay z g q := by
  subst h
  unfold via
  have hu : unitOf (overlay z g q s) a = unitOf s a := rfl
  rw [hu]
  cases unitOf s a with
  | none => rfl
  | some u => exact ite_congr_under rfl (ite_congr_under rfl ((congrArg f (pathTake_overlay rfl)).trans (hf _)))

theorem coreRead_overlay {c : CoreId} {w : Want} {a : Nat} (h : t = overlay z g q s) : coreRead t c w a = (coreRead s c w a).overlay z g q := by
  subst h
  cases c with
  | ve n =>
    unfold coreRead
    dsimp only
    have hp : execPart (overlay z g q s) n = execPart s n := rfl
    rw [hp]
    cases execPart s n with
    | none => rfl
    | some p =>
      unfold readPart
      dsimp only
      have hd : partDev (overlay z g q s) p (a.testBit 38) (a % 2 ^ 38) = partDev s p (a.testBit 38) (a % 2 ^ 38) := rfl
      rw [hd]
      cases partDev s p (a.testBit 38) (a % 2 ^ 38) with
      | none => rfl
      | some b => exact via_overlay (fun u => readWord_overlay rfl) rfl
  | sv =>
    refine ite_congr_under (via_overlay (fun u => readWord_overlay rfl) rfl) ?_
    refine ite_congr_under rfl ?_
    refine (congrArg (internalWord · a) (portTake_overlay rfl)).trans ?_
    exact ite_congr_under rfl (ite_congr_under rfl (ite_congr_under rfl rfl))

/-! #### Fetches -/

theorem noteWait_overlay {m : MasterKind} {a : Nat} (h : t = overlay z g q s) : noteWait t m a = overlay z g q (noteWait s m a) := by
  subst h
  unfold noteWait
  have hu : unitOf (overlay z g q s) a = unitOf s a := rfl
  rw [hu]
  cases unitOf s a with
  | none => rfl
  | some u =>
    cases u with
    | pc => rfl
    | bank b => exact ite_congr_under rfl rfl

theorem noteCore_overlay {c : CoreId} {w : Want} {a : Nat} (h : t = overlay z g q s) : noteCore t c w a = overlay z g q (noteCore s c w a) := by
  subst h
  cases c with
  | sv => rfl
  | ve n =>
    unfold noteCore
    dsimp only
    have hp : execPart (overlay z g q s) n = execPart s n := rfl
    rw [hp]
    cases execPart s n with
    | none => rfl
    | some p =>
      unfold noteWaitAt
      dsimp only
      have hd : partDev (overlay z g q s) p (a.testBit 38) (a % 2 ^ 38) = partDev s p (a.testBit 38) (a % 2 ^ 38) := rfl
      rw [hd]
      cases partDev s p (a.testBit 38) (a % 2 ^ 38) with
      | none => rfl
      | some b => exact noteWait_overlay rfl

theorem foldl_pairOnQueue {α β : Type} {f : β × State → α → β × State} (hf : ∀ x i, f (pairOverlay z g q x) i = pairOverlay z g q (f x i)) (l : List α) (x : β × State) :
    l.foldl f (pairOverlay z g q x) = pairOverlay z g q (l.foldl f x) := by
  induction l generalizing x with
  | nil => rfl
  | cons a l ih => rw [List.foldl_cons, List.foldl_cons, hf, ih]

theorem lineRead_overlay {c : CoreId} {l : Nat} : lineRead (overlay z g q s) c l = pairOverlay z g q (lineRead s c l) := by
  refine foldl_pairOnQueue (fun x i => ?_) (List.range 4) ([], s)
  dsimp only [pairOverlay]
  rw [coreRead_overlay rfl]
  rfl

theorem aheadRead_overlay {c : CoreId} {ws : List Nat} : aheadRead c ws (overlay z g q s) = pairOverlay z g q (aheadRead c ws s) := by
  refine foldl_pairOnQueue (fun x i => ?_) ws ([], s)
  dsimp only [pairOverlay]
  rw [coreRead_overlay rfl]
  exact ite_congr_under (f := pairOverlay z g q) rfl rfl

theorem fetchDet_overlay {c : CoreId} {a : Nat} : fetchDet (overlay z g q s) c a = pairOverlay z g q (fetchDet s c a) := by
  have hc := core_overlay (z := z) (g := g) (q := q) (s := s) c
  unfold fetchDet
  dsimp only
  rw [hc, aheadRead_overlay, coreRead_overlay rfl]
  dsimp only [pairOverlay]
  have hmod : ∀ x b, modCore (overlay z g q x) c (fun _ => { core s c with openFaults := faultsUnder z g c (core s c).openFaults, ahead := b }) =
      overlay z g q (modCore x c fun _ => { core s c with ahead := b }) := fun x b => modCore_overlay (h := fun _ => { core s c with ahead := b }) (fun _ => rfl) rfl
  rw [hmod]
  split
  · next w h => simp only [h]
  · next h =>
    simp only [h]
    rfl

theorem fetchAt_overlay {c : CoreId} {a : Nat} : fetchAt (overlay z g q s) c a = pairOverlay z g q (fetchAt s c a) := by
  have hc := core_overlay (z := z) (g := g) (q := q) (s := s) c
  have ha : accCheck (overlay z g q s) c .fetch a = accCheck s c .fetch a := by cases c <;> rfl
  have hd : detCore (overlay z g q s) c = detCore s c := by cases c <;> rfl
  unfold fetchAt
  dsimp only
  rw [hc, ha, hd, fetchDet_overlay, lineRead_overlay, noteCore_overlay rfl]
  dsimp only [pairOverlay]
  have hmod : ∀ x m i, modCore (overlay z g q x) c (fun _ => { core s c with openFaults := faultsUnder z g c (core s c).openFaults, icMiss := m, icache := i }) =
      overlay z g q (modCore x c fun _ => { core s c with icMiss := m, icache := i }) := fun x m i =>
    modCore_overlay (h := fun _ => { core s c with icMiss := m, icache := i }) (fun _ => rfl) rfl
  have hlru : modCore (overlay z g q s) c (fun k => { k with icache := lru id (a / 64) k.icache }) =
      overlay z g q (modCore s c fun k => { k with icache := lru id (a / 64) k.icache }) :=
    modCore_overlay (h := fun k => { k with icache := lru id (a / 64) k.icache }) (fun _ => rfl) rfl
  rw [hmod, hlru]
  exact ite_congr_under (f := pairOverlay z g q) rfl (ite_congr_under (f := pairOverlay z g q) rfl
    (ite_congr_under (f := pairOverlay z g q) (ite_congr_under (f := pairOverlay z g q) rfl rfl)
      (ite_congr_under (f := pairOverlay z g q) rfl (ite_congr_under (f := pairOverlay z g q) rfl rfl))))

theorem fetchGo_overlay {c : CoreId} {long : Bool} : fetchGo (overlay z g q s) c long = pairOverlay z g q (fetchGo s c long) := by
  have hc := core_overlay (z := z) (g := g) (q := q) (s := s) c
  unfold fetchGo
  dsimp only
  rw [hc, fetchAt_overlay]
  dsimp only [pairOverlay]
  simp only [fetchAt_overlay]
  exact ite_congr_under (f := pairOverlay z g q) rfl (ite_congr_under (f := pairOverlay z g q) rfl
    (ite_congr_under (f := pairOverlay z g q) (ite_congr_under (f := pairOverlay z g q) rfl (ite_congr_under (f := pairOverlay z g q) rfl rfl)) rfl))

theorem coreRuns_overlay {c : CoreId} : coreRuns (overlay z g q s) c = coreRuns s c := by
  cases c with
  | sv => rfl
  | ve n =>
    unfold coreRuns
    dsimp only
    rw [seq_overlay]
    rfl

theorem admitted_overlay {c : CoreId} {fl : W64} : admitted (overlay z g q s) c fl = admitted s c fl := by
  cases c with
  | sv => rfl
  | ve n =>
    have hs : sources (overlay z g q s) (.ve n) = sources s (.ve n) := by
      unfold sources
      dsimp only
      rw [seq_overlay]
      rfl
    rw [admitted, admitted, hs]

/-- A core is as ready whatever commands wait. -/
theorem ready_overlay {c : CoreId} {len : Nat} (h : Ready s c len) : Ready (overlay z g q s) c len := by
  obtain ⟨hrun, hopen, hdue, hok⟩ := h
  have hc := core_overlay (z := z) (g := g) (q := q) (s := s) c
  refine ⟨?_, ?_, ?_, ?_⟩
  · rw [← hrun, canRun, hc, coreRuns_overlay]
    rfl
  · rw [← hopen]
    cases c <;> rfl
  · rw [← hdue, entryDue, hc, admitted_overlay]
    cases c <;> rfl
  · rw [← hok, fetchGo_overlay]
    rfl

end Overlay

end Sys2Proof.Machine

/-! PROOF. Branches, CALL and RET (O15). -/
namespace Sys2Proof.Machine

/-- `s` with the commands `q` waiting. -/
def onQueue (q : List Instr) (s : State) : State := { s with pending := q }

theorem onQueue_overlay (q : List Instr) (s : State) : onQueue q s = overlay 0 id (fun _ => q) s := by
  have h : updV s.seq (0 : VeId) (fun k => { k with openFaults := id k.openFaults }) = s.seq := Vector.set_getElem_self _
  rw [overlay, h]
  rfl

theorem ready_onQueue {q : List Instr} {s : State} {c : CoreId} {len : Nat} (h : Ready s c len) : Ready (onQueue q s) c len := by
  rw [onQueue_overlay]
  exact ready_overlay h

/-! ### A CALL and its RET -/

section RoundTrip

variable {s : State} {c : CoreId} {q : List Instr}

/-- What a `RET` after the `CALL` finds and leaves. -/
theorem retRegs_called (r : Regs) (target : Addr) (x : BitVec 5) :
    (retRegs { callRegs r (r.pc + 4) with pc := target }).pc = (r.pc + 4) &&& ~~~(1 : Addr) ∧
    (retRegs { callRegs r (r.pc + 4) with pc := target }).cwp = r.cwp ∧
    (retRegs { callRegs r (r.pc + 4) with pc := target }).resident = r.resident ∧
    regGet (retRegs { callRegs r (r.pc + 4) with pc := target }) x = regGet r x := by
  have hback : ∀ w : Fin 16, w + 1 - 1 = w := by decide
  have hcwp : (retRegs { callRegs r (r.pc + 4) with pc := target }).cwp = r.cwp := hback _
  have hg : (retRegs { callRegs r (r.pc + 4) with pc := target }).g = r.g := by
    have hslot : (callRegs r (r.pc + 4)).wslot[(callRegs r (r.pc + 4)).cwp - 1] = r.g[(7 : Fin 8)] - 144 := by
      have h : (callRegs r (r.pc + 4)).cwp - 1 = r.cwp := hback _
      simp only [h]
      exact Vector.getElem_set_self _
    have hset : (retRegs { callRegs r (r.pc + 4) with pc := target }).g =
        (r.g.set 7 (r.g[(7 : Fin 8)] - 144)).set 7 ((callRegs r (r.pc + 4)).wslot[(callRegs r (r.pc + 4)).cwp - 1] + 144) := rfl
    rw [hset, hslot, BitVec.sub_add_cancel]
    simp only [Vector.set_set]
    exact Vector.set_getElem_self _
  refine ⟨?_, hcwp, hback _, ?_⟩
  · exact congrArg (· &&& ~~~(1 : Addr)) (Vector.getElem_set_self (xs := r.ra) (i := (r.cwp + 1).val) _)
  · have hwin : (retRegs { callRegs r (r.pc + 4) with pc := target }).win = r.win := rfl
    unfold regGet
    simp only [hg, hwin, hcwp]

/-- The registers after a command at the queue's front. -/
theorem core_onQueue : core (onQueue q s) c = core s c := by cases c <;> rfl

theorem call_ret {off : BitVec 24} (hr : Ready s c 4) (h16 : (core s c).r.g[(7 : Fin 8)].toNat % 16 = 0)
    (hroom : (core s c).r.slim.toNat + 144 ≤ (core s c).r.g[(7 : Fin 8)].toNat) (hres : (core s c).r.resident ≠ 15) (hpos : 0 < (core s c).r.resident.val)
    (hq : s.pending = .call c off :: .ret c 0 :: q) (hnext : ∀ t, step s = .next t → Ready t c 2) :
    ∃ t, Host.Core.run Sys2Proof.core 2 s = .next t ∧ t.pending = q ∧
      (core t c).r = retRegs { callRegs (core s c).r ((core s c).r.pc + 4) with pc := relPc (core s c).r.pc off.toInt &&& ~~~(1 : Addr) } := by
  have h1 : step s = exec (.call c off) (onQueue (.ret c 0 :: q) s) := by
    unfold step
    rw [hq]
    rfl
  have hcore : core (onQueue (.ret c 0 :: q) s) c = core s c := core_onQueue
  obtain ⟨u, hu, hsteps, -⟩ := call_plain (i := .call c off) (s := onQueue (.ret c 0 :: q) s) (f := fun v => relPc (core v c).r.pc off.toInt)
    rfl (isLong_long _ _ (by decide) (by decide)) rfl rfl (ready_onQueue hr) (by rw [hcore, h16]) (by rw [hcore]; exact hroom) (by rw [hcore]; exact hres)
  have hur : (core u c).r = { callRegs (core s c).r ((core s c).r.pc + 4) with pc := relPc (core s c).r.pc off.toInt &&& ~~~(1 : Addr) } := by
    have h := congrArg Core.r hsteps.2
    rw [fetched_regs, hcore] at h
    exact h
  have hstep : step s = .next u := h1.trans hu
  have hpend : u.pending = .ret c 0 :: q := by
    obtain ⟨v, hv, hk⟩ := exec_keptNext (.call c off) (onQueue (.ret c 0 :: q) s)
    rw [hu] at hv
    cases hv
    exact hk.1
  have hures : (core u c).r.resident ≠ 1 := by
    rw [hur]
    have : ∀ w : Fin 16, 0 < w.val → w ≠ 15 → w + 1 ≠ 1 := by decide
    exact this _ hpos hres
  obtain ⟨t, ht, hts⟩ := ret_completes (ready_onQueue (q := q) (hnext u hstep)) (by rw [core_onQueue]; exact hures)
  have h2 : step u = .next t := by
    unfold step
    rw [hpend]
    exact ht
  refine ⟨t, ?_, ?_, ?_⟩
  · exact (run_succ (M := Sys2Proof.core) (m := 1) hstep).trans (run_succ (M := Sys2Proof.core) (m := 0) h2)
  · obtain ⟨v, hv, hk⟩ := exec_keptNext (.ret c 0) (onQueue q u)
    rw [ht] at hv
    cases hv
    exact hk.1
  · have h := congrArg Core.r hts.2
    rw [core_onQueue, hur] at h
    exact h

end RoundTrip

/-- A `RET` whose caller's window has been filled. -/
theorem retRegs_filled (r : Regs) (w : Fin 16) (bs : List Byte) (pc : Addr) (hw : r.cwp - 1 = w) (hres : r.resident = 1) :
    ({ retRegs (winRestore r (r.cwp - 1) bs) with resident := 1, pc := pc } : Regs) = { r with
      win := (winRestore r w bs).win, cwp := w, spillTop := word64At bs 0x80, wslot := r.wslot.set w r.spillTop
      g := r.g.set 7 (r.spillTop + 144), ra := r.ra.set w ((word64At bs 0x88).setWidth 40 &&& ~~~(1 : Addr)), pc := pc } := by
  subst hw
  have hslot : (r.wslot.set (r.cwp - 1 : Fin 16).val r.spillTop)[r.cwp - 1] = r.spillTop := Vector.getElem_set_self _
  simp only [retRegs, winRestore, hslot, hres]
  rfl

/-- Settles O15: a branch or a window move changes the core's registers alone, and a slot is nine or ten served parts. -/
theorem branchesAndCalls : Obligations.BranchesAndCalls := by
  unfold Obligations.BranchesAndCalls
  refine ⟨?_, ?_, ?_, ?_⟩
  · intro s c r n z cy v table
    refine ⟨?_, fun f hc hr => bCond_illegal hr hc, fun rs hr => bReg_completes hr⟩
    intro f h target hr
    exact bCond_completes hr h (condHolds_table r.fl (brOps f).cond h)
  · intro s c r g7 room called
    refine ⟨fun off => ⟨fun hr hroom hres => ?_, fun hr hroom => ?_⟩, fun rs => ⟨fun hr hroom hres => ?_, fun hr hroom => ?_⟩, fun hr hres => ?_,
      fun hr hres htop => ret_noCaller hr hres htop⟩
    · exact call_plain (i := .call c off) (f := fun v => relPc (core v c).r.pc off.toInt) rfl (isLong_long _ _ (by decide) (by decide)) rfl
        (congrArg (fun r : Regs => relPc r.pc off.toInt) (fetched_regs s c _)) hr hroom.1 hroom.2 hres
    · exact call_noRoom (i := .call c off) (f := fun v => relPc (core v c).r.pc off.toInt) rfl (isLong_long _ _ (by decide) (by decide)) rfl hr hroom
    · exact call_plain (i := .callReg c rs 0 0) (f := fun v => (regGet (core v c).r rs).setWidth 40) rfl (isLong_long _ _ (by decide) (by decide)) rfl
        (congrArg (fun r : Regs => (regGet r rs).setWidth 40) (fetched_regs s c _)) hr hroom.1 hroom.2 hres
    · exact call_noRoom (i := .callReg c rs 0 0) (f := fun v => (regGet (core v c).r rs).setWidth 40) rfl (isLong_long _ _ (by decide) (by decide)) rfl hr hroom
    · exact ret_completes hr fun h => by
        rw [show r.resident = 1 from h] at hres
        exact absurd hres (by decide)
  · intro s n d hpl hq c r g7 slot
    refine ⟨?_, ?_⟩
    · intro off hr h16 hroom hres u o w hs hsq
      obtain ⟨t, he, hst, hsp, hreg⟩ := call_spills hr hpl hq h16 hroom hres rfl hs hsq
      refine ⟨t, he, ?_, hsp, ?_⟩
      · obtain ⟨hin, hout⟩ := hst
        exact ⟨fun i hi hl => (hin i hi hl).trans (nth_slotBytes r o hi), hout⟩
      · have hback : r.resident - 1 + 1 = r.resident := sub_add_cancel _ _
        rw [hreg]
        simp only [callRegs]
        rw [hback]
        rfl
    · intro hr hres htop u w bytes hs
      obtain ⟨t, he, hm, hsp, hreg⟩ := ret_fills hr hpl hq hres htop hs
      have hword : ∀ i, i + 8 ≤ 144 → word64At ((List.range 144).map fun k => cellGet s.mem.cells (d k)) i = BitVec.ofNat 64 (bytes i 8) := fun i hi =>
        word64At_served (fun k => cellGet s.mem.cells (d k)) hi
      have hwin : (core t c).r.win = (winRestore r w ((List.range 144).map fun k => cellGet s.mem.cells (d k))).win := by rw [hreg]; rfl
      refine ⟨t, he, hm, hsp, fun i => ?_, fun j hj => ?_, ?_⟩
      · rw [hwin, winRestore_same, hword _ (by omega)]
        exact word64_toNat _
      · rw [hwin]
        exact winRestore_other r w _ j hj
      · have hra := congrArg (fun x : W64 => x.setWidth 40 &&& ~~~(1 : Addr)) (hword 0x88 (by decide))
        have hset : (BitVec.ofNat 64 (bytes 0x88 8)).setWidth 40 = BitVec.ofNat 40 (bytes 0x88 8) := BitVec.setWidth_ofNat_of_le (by decide) _
        rw [hset] at hra
        rw [hwin, hreg, retRegs_filled r w _ _ rfl hres, hword 0x80 (by decide), hra]
  · intro s c off q hr r h16 hroom hpos hres hq hnext
    obtain ⟨t, ht, hp, hreg⟩ := call_ret hr h16 hroom hres hpos hq hnext
    have hback := retRegs_called r (relPc r.pc off.toInt &&& ~~~(1 : Addr))
    refine ⟨t, ht, hp, ?_, ?_, ?_, fun x => ?_⟩
    · rw [hreg]
      exact (hback 0).1
    · rw [hreg]
      exact (hback 0).2.1
    · rw [hreg]
      exact (hback 0).2.2.1
    · rw [hreg]
      exact (hback x).2.2.2

end Sys2Proof.Machine

/-! PROOF. Stores under an overlay. -/
namespace Sys2Proof.Machine

/-! ### Stores under an overlay -/

section Overlay

variable {z : VeId} {g : List OpenFault → List OpenFault} {q : List Instr → List Instr} {s t : State}

theorem orWord_overlay {d a : Nat} {v : W128} (h : t = overlay z g q s) : orWord t d a v = overlay z g q (orWord s d a v) := by
  subst h
  unfold orWord
  have hu : unitOf (overlay z g q s) a = unitOf s a := rfl
  rw [hu]
  cases unitOf s a with
  | none => rfl
  | some u =>
    cases u with
    | bank b => rfl
    | pc st c row word =>
      dsimp only
      rw [checkWord_overlay rfl]
      exact ite_congr_under rfl (ite_congr_under rfl rfl)

theorem dirtyMark_overlay {a : Nat} (h : t = overlay z g q s) : dirtyMark t a = overlay z g q (dirtyMark s a) := by
  subst h
  unfold dirtyMark
  have ht : (overlay z g q s).twin = s.twin := rfl
  rw [ht]
  cases s.twin.resync with
  | none => rfl
  | some r => exact ite_congr_under rfl (ite_congr_under (orWord_overlay rfl) rfl)

theorem writeMasked_overlay {d code a : Nat} {v : W128} {mask : List Bool} (h : t = overlay z g q s) :
    writeMasked t d code a v mask = (writeMasked s d code a v mask).overlay z g q := by
  subst h
  unfold writeMasked
  have hu : unitOf (overlay z g q s) a = unitOf s a := rfl
  rw [hu]
  cases unitOf s a with
  | none => rfl
  | some u =>
    dsimp only
    rw [checkWord_overlay rfl]
    refine ite_congr_under rfl (ite_congr_under ?_ (ite_congr_under ?_ (ite_congr_under (acc_overlay (dirtyMark_overlay rfl))
      (ite_congr_under rfl (acc_overlay (dirtyMark_overlay rfl))))))
    · cases u <;> rfl
    · cases u with
      | pc => rfl
      | bank b => exact acc_overlay (nonOwner_overlay rfl)

theorem writePart_overlay {p : PartId} {m : MasterKind} {code x : Nat} {space : Bool} {v : W128} {mask : List Bool} (h : t = overlay z g q s) :
    writePart t p m code space x v mask = (writePart s p m code space x v mask).overlay z g q := by
  subst h
  unfold writePart
  have hd : partDev (overlay z g q s) p space x = partDev s p space x := rfl
  rw [hd]
  cases partDev s p space x with
  | none => rfl
  | some b => exact via_overlay (fun u => writeMasked_overlay rfl) rfl

theorem writeRun_overlay {p : PartId} {m : MasterKind} {code x : Nat} {space : Bool} {vs : List W128} :
    writeRun (overlay z g q s) p m code space x vs = pairOverlay z g q (writeRun s p m code space x vs) := by
  induction vs generalizing x s with
  | nil => rfl
  | cons v vs ih =>
    unfold writeRun
    dsimp only
    rw [writePart_overlay rfl]
    exact ite_congr_under (f := pairOverlay z g q) rfl ih

theorem journalQueue_overlay {m : MasterKind} {code i : Nat} {p : PartId} :
    journalQueue (overlay z g q s) m code p i = pairOverlay z g q (journalQueue s m code p i) := by
  unfold journalQueue
  have hp : (overlay z g q s).parts = s.parts := rfl
  rw [hp]
  cases s.parts[p].image with
  | none => rfl
  | some im =>
    dsimp only
    cases journalOf im with
    | none => rfl
    | some x =>
      refine ite_congr_under (f := pairOverlay z g q) ?_ rfl
      have hw := writeRun_overlay (z := z) (g := g) (q := q) (s := (drawWord (drawWord s).2).2) (p := p) (m := m) (code := code) (space := x.space == 1)
        (x := x.offset + 32 * i) (vs := [(drawWord s).1, (drawWord (drawWord s).2).1])
      have hw2 : writeRun (drawWord (drawWord (overlay z g q s)).2).2 p m code (x.space == 1) (x.offset + 32 * i)
          [(drawWord (overlay z g q s)).1, (drawWord (drawWord (overlay z g q s)).2).1] = _ := hw
      rw [hw2]
      exact ite_congr_under (f := pairOverlay z g q) rfl rfl

theorem modPart_overlay {p : PartId} {f : Partition → Partition} (h : t = overlay z g q s) : modPart t p f = overlay z g q (modPart s p f) :=
  congrArg (modPart · p f) h

section VeWrite

variable {n : VeId} {u x : Nat} {p : PartId} {space : Bool} {v : W128} {mask : List Bool}

theorem veWrite_idle (hr : s.parts[p].run = none) : veWrite s n u p space x v mask = writePart s p (.engine n u) (veCode s n) space x v mask := by
  rw [veWrite]
  simp only [hr]

theorem veWrite_elsewhere (hin : (!space && inDmem s.parts[p] x) = false) :
    veWrite s n u p space x v mask = writePart s p (.engine n u) (veCode s n) space x v mask := by
  rw [veWrite]
  split
  · exact if_neg (by rw [hin]; exact Bool.false_ne_true)
  · rfl

theorem veWrite_hole {r : Run} (hr : s.parts[p].run = some r) (hin : (!space && inDmem s.parts[p] x) = true) (hd : partDev s p false x = none) :
    veWrite s n u p space x v mask = { data := 0, status := 4, s := s } := by
  rw [veWrite]
  simp only [hr, hin, hd, if_true]

theorem veWrite_journal {r : Run} {b : Nat} {j : Nat × State} (hr : s.parts[p].run = some r) (hin : (!space && inDmem s.parts[p] x) = true)
    (hd : partDev s p false x = some b) (hj : journalQueue s (.engine n u) (veCode s n) p r.dmq.length = j) :
    veWrite s n u p space x v mask = { data := 0, status := j.1, s := if j.1 = 0 then modPart j.2 p fun q => { q with
      run := some { r with dmq := r.dmq ++ [{ lve := s.parts[p].bind.idxOf n, addr := x / 16 * 16, data := v, mask := mask }] } } else s } := by
  rw [veWrite]
  simp only [hr, hin, hd, hj, if_true]

theorem veWrite_overlay : veWrite (overlay z g q s) n u p space x v mask = (veWrite s n u p space x v mask).overlay z g q := by
  have hwrite := writePart_overlay (z := z) (g := g) (q := q) (s := s) (p := p) (m := .engine n u) (code := veCode s n) (x := x) (space := space) (v := v)
    (mask := mask) rfl
  cases hr : s.parts[p].run with
  | none =>
    rw [veWrite_idle hr, veWrite_idle (s := overlay z g q s) hr]
    exact hwrite
  | some r =>
    cases hin : (!space && inDmem s.parts[p] x) with
    | false =>
      rw [veWrite_elsewhere hin, veWrite_elsewhere (s := overlay z g q s) hin]
      exact hwrite
    | true =>
      cases hd : partDev s p false x with
      | none =>
        rw [veWrite_hole hr hin hd, veWrite_hole (s := overlay z g q s) hr hin hd]
        rfl
      | some b =>
        rw [veWrite_journal hr hin hd rfl, veWrite_journal (s := overlay z g q s) hr hin hd journalQueue_overlay]
        exact acc_overlay (ite_congr_under (modPart_overlay rfl) rfl)

end VeWrite

theorem coreWrite_overlay {n : VeId} {a : Nat} {v : W128} {mask : List Bool} :
    coreWrite (overlay z g q s) (.ve n) a v mask = (coreWrite s (.ve n) a v mask).overlay z g q := by
  unfold coreWrite
  dsimp only
  have hp : execPart (overlay z g q s) n = execPart s n := rfl
  rw [hp]
  cases execPart s n with
  | none => rfl
  | some p => exact veWrite_overlay

theorem cacheStore_overlay {n : VeId} {a : Nat} {v : W128} {mask : List Bool} :
    cacheStore (overlay z g q s) (.ve n) a v mask = overlay z g q (cacheStore s (.ve n) a v mask) := by
  unfold cacheStore
  exact modCore_overlay (fun _ => rfl) rfl

theorem coreStore_overlay {n : VeId} {a : Nat} {v : W128} {mask : List Bool} :
    coreStore (overlay z g q s) (.ve n) a v mask = (coreStore s (.ve n) a v mask).overlay z g q := by
  have hq : storeQueued (overlay z g q s) (.ve n) a = storeQueued s (.ve n) a := rfl
  unfold coreStore
  rw [coreWrite_overlay, hq]
  generalize coreWrite s (.ve n) a v mask = r
  obtain ⟨data, status, x⟩ := r
  refine ite_congr_under ?_ rfl
  exact acc_overlay (t := cacheStore (overlay z g q x) (.ve n) a v mask) cacheStore_overlay

theorem frameWrite_overlay {n : VeId} {a : Nat} {lo hi : W128} :
    frameWrite (overlay z g q s) (.ve n) a lo hi = (frameWrite s (.ve n) a lo hi).map (overlay z g q) := by
  have hs : ∀ x, (Acc.overlay z g q x).s = overlay z g q x.s := fun _ => rfl
  have hst : ∀ x, (Acc.overlay z g q x).status = x.status := fun _ => rfl
  unfold frameWrite
  simp only [coreStore_overlay, hs, hst]
  exact ite_congr_under (f := Option.map (overlay z g q)) rfl rfl

end Overlay

end Sys2Proof.Machine

/-! PROOF. What a store leaves alone. -/
namespace Sys2Proof.Machine

/-! ### What a store leaves alone -/

/-- From `s` to `t` a store changed what reads change, and the count of atomics. -/
def WriteKeeps (s t : State) : Prop := ReadKeeps { s with atomicOps := t.atomicOps } t

theorem ReadKeeps.atomicOps {s t : State} (h : ReadKeeps s t) : t.atomicOps = s.atomicOps := by
  rw [ReadKeeps] at h
  rw [h]

theorem ReadKeeps.writeKeeps {s t : State} (h : ReadKeeps s t) : WriteKeeps s t := by
  have ha := h.atomicOps
  rw [WriteKeeps, ha]
  exact h

theorem WriteKeeps.refl (s : State) : WriteKeeps s s := rfl

theorem WriteKeeps.trans {s t u : State} (h : WriteKeeps s t) (k : WriteKeeps t u) : WriteKeeps s u := by
  rw [WriteKeeps, ReadKeeps] at h k ⊢
  rw [k, h]

theorem WriteKeeps.withMem {s t : State} (h : WriteKeeps s t) (m : Store) : WriteKeeps s { t with mem := m } := by
  rw [WriteKeeps, ReadKeeps] at h ⊢
  rw [h]

theorem WriteKeeps.seq {s t : State} (h : WriteKeeps s t) : t.seq = s.seq := by
  rw [WriteKeeps, ReadKeeps] at h
  rw [h]

section Writes

variable (s : State)

theorem orWord_keeps (d a : Nat) (v : W128) : WriteKeeps s (orWord s d a v) := by
  unfold orWord
  split
  next st c row word _ =>
    have hcheck := (checkWord_keeps s (.pc st c row word) 0 (a / 16)).writeKeeps
    dsimp only
    split
    · exact .refl s
    · split
      · exact hcheck
      · exact hcheck.trans rfl
  · exact .refl s

theorem dirtyMark_keeps (a : Nat) : WriteKeeps s (dirtyMark s a) := by
  unfold dirtyMark
  split
  · exact .refl s
  · split
    · exact .refl s
    · dsimp only
      split
      · exact orWord_keeps s _ _ _
      · exact .refl s

theorem writeMasked_keeps (d code a : Nat) (v : W128) (mask : List Bool) : WriteKeeps s (writeMasked s d code a v mask).s := by
  unfold writeMasked
  split
  · exact .refl s
  next u _ =>
    have hcheck := (checkWord_keeps s u code (a / 16)).writeKeeps
    dsimp only
    split_ifs
    · exact .refl s
    · exact .refl s
    · cases u with
      | pc => exact .refl s
      | bank b => exact (nonOwner_keeps s b code (a / 16) true).writeKeeps
    · exact WriteKeeps.trans (t := { s with mem := wordSet s.mem (a / 16) v }) rfl (dirtyMark_keeps _ a)
    · exact hcheck
    · exact (hcheck.withMem _).trans (dirtyMark_keeps _ a)

theorem via_writeKeeps (m : MasterKind) (a : Nat) {f : State → Acc} (hf : ∀ t, WriteKeeps t (f t).s) : WriteKeeps s (via s m a f).s := by
  unfold via
  split
  · exact .refl s
  · split
    · exact .refl s
    · split
      · exact .refl s
      · exact (pathTake_keeps _ _ _ _).writeKeeps.trans (hf _)

theorem writePart_keeps (p : PartId) (m : MasterKind) (code : Nat) (sp : Bool) (x : Nat) (v : W128) (mask : List Bool) :
    WriteKeeps s (writePart s p m code sp x v mask).s := by
  unfold writePart
  split
  · exact via_writeKeeps _ _ _ fun _ => writeMasked_keeps _ _ _ _ _ _
  · exact .refl s

theorem writeRun_keeps (p : PartId) (m : MasterKind) (code : Nat) (sp : Bool) (x : Nat) (vs : List W128) : WriteKeeps s (writeRun s p m code sp x vs).2 := by
  induction vs generalizing s x with
  | nil => exact .refl s
  | cons v vs ih =>
    unfold writeRun
    dsimp only
    split
    · exact writePart_keeps s p m code sp x v allBytes
    · exact (writePart_keeps s p m code sp x v allBytes).trans (ih _ _)

theorem journalQueue_keeps (m : MasterKind) (code : Nat) (p : PartId) (i : Nat) : WriteKeeps s (journalQueue s m code p i).2 := by
  unfold journalQueue
  split
  · exact .refl s
  · split
    · split
      · dsimp only
        split
        · exact .refl s
        · exact WriteKeeps.trans (t := (drawWord (drawWord s).2).2) rfl (writeRun_keeps _ _ _ _ _ _ _)
      · exact .refl s
    · exact .refl s

end Writes

/-! ### A store by a VE's core leaves the cores' registers alone -/

section CoreStores

variable {s : State} {n : VeId}

theorem veWrite_seq {u x : Nat} {p : PartId} {space : Bool} {v : W128} {mask : List Bool} : (veWrite s n u p space x v mask).s.seq = s.seq := by
  cases hr : s.parts[p].run with
  | none =>
    rw [veWrite_idle hr]
    exact (writePart_keeps _ _ _ _ _ _ _ _).seq
  | some r =>
    cases hin : (!space && inDmem s.parts[p] x) with
    | false =>
      rw [veWrite_elsewhere hin]
      exact (writePart_keeps _ _ _ _ _ _ _ _).seq
    | true =>
      cases hd : partDev s p false x with
      | none => rw [veWrite_hole hr hin hd]
      | some b =>
        rw [veWrite_journal hr hin hd rfl]
        dsimp only
        split
        · exact (journalQueue_keeps _ _ _ _ _).seq
        · rfl

theorem coreWrite_seq {a : Nat} {v : W128} {mask : List Bool} : (coreWrite s (.ve n) a v mask).s.seq = s.seq := by
  unfold coreWrite
  dsimp only
  split
  · rfl
  · exact veWrite_seq

theorem coreStore_regs {a : Nat} {v : W128} {mask : List Bool} : (core (coreStore s (.ve n) a v mask).s (.ve n)).r = (core s (.ve n)).r := by
  have h : core (coreWrite s (.ve n) a v mask).s (.ve n) = core s (.ve n) := congrArg (·[n]) coreWrite_seq
  unfold coreStore
  dsimp only
  split
  · rw [cacheStore]
    dsimp only
    rw [core_modCore, h]
  · rw [h]

theorem frameWrite_regs {a : Nat} {lo hi : W128} {t : State} (h : frameWrite s (.ve n) a lo hi = some t) : (core t (.ve n)).r = (core s (.ve n)).r := by
  unfold frameWrite at h
  dsimp only at h
  split at h
  · cases h
  · cases h
    exact coreStore_regs.trans coreStore_regs

end CoreStores

end Sys2Proof.Machine

/-! PROOF. Entries that open a fault. -/
namespace Sys2Proof.Machine

/-! ### A double fault halts its core -/

section Halted

variable {s : State}

theorem stopSeq_st (n m : VeId) (h : s.seq[n].st ≠ .running) : (stopSeq s m).seq[n].st ≠ .running := by
  unfold stopSeq
  dsimp only
  by_cases hm : m = n
  · subst hm
    have hs : ∀ f g, (modEng (modSeq s m f) m g).seq[m] = f s.seq[m] := fun f _ => updV_same ..
    rw [hs]
    dsimp only
    split <;> decide
  · have hs : ∀ f g, (modEng (modSeq s m f) m g).seq[n] = s.seq[n] := fun f _ => updV_other _ m n f hm
    rw [hs]
    exact h

theorem foldl_stopSeq_st (n : VeId) (l : List VeId) (h : s.seq[n].st ≠ .running) : (l.foldl stopSeq s).seq[n].st ≠ .running := by
  induction l generalizing s with
  | nil => exact h
  | cons m l ih => exact ih (stopSeq_st n m h)

theorem Idle.seq {s t : State} (h : Idle s t) : t.seq = s.seq := congrArg (fun x => x.2.2.2.2.1) h

theorem foldl_modEng_seq (l : List VeId) (f : Engine → Engine) : (l.foldl (fun t n => modEng t n f) s).seq = s.seq := by
  induction l generalizing s with
  | nil => rfl
  | cons m l ih => exact ih

theorem doneEvent_seq (how : Nat) (p : PartId) (l : List VeId) : (l.foldl (doneEvent how p) s).seq = s.seq :=
  (idle_foldl (.refl s) fun _ _ h => idle_raiseN h).seq

theorem failRun_halted {p : PartId} {cause : Nat} {detail : W64} (n : VeId) (h : s.seq[n].st ≠ .running) : (failRun s p cause detail).seq[n].st ≠ .running := by
  unfold failRun
  split
  · exact h
  next r _ =>
    dsimp only
    have hstop := foldl_stopSeq_st n s.parts[p].bind h
    generalize s.parts[p].bind.foldl stopSeq s = s0 at hstop
    have hdis : (disarm s0 p).seq = s0.seq := foldl_modEng_seq _ _
    generalize hs1 : disarm s0 p = s1 at hdis
    have hend : ∀ x, ∀ v : State, v.seq = s0.seq → (settle (ledgerEnd (tablesEnd (s.parts[p].bind.foldl (doneEvent 1 p) (freeTriggers v p)) p) p x 0x01 cause detail) p).seq = s0.seq :=
      fun x v hv => ((idle_settle (idle_ledgerEnd (idle_tablesEnd (idle_foldl (f := doneEvent 1 p) (idle_freeTriggers (.refl v)) fun _ _ h => idle_raiseN h)))).seq).trans hv
    rw [hend]
    · exact hstop
    · exact hdis

theorem toTwinState_seq (st : Fin 7) : (toTwinState s st).seq = s.seq := by
  unfold toTwinState
  split
  · obtain ⟨l, d, a, o, m, h⟩ := setAlert_reported { s with twin := { s.twin with state := st } } 3
    rw [h]
  · rfl

theorem failSegment_halted {p : PartId} {cause : Nat} {detail : W64} (n : VeId) (h : s.seq[n].st ≠ .running) :
    (failSegment s p cause detail).seq[n].st ≠ .running := by
  unfold failSegment
  split
  · exact h
  · split
    · split
      · refine failRun_halted n ?_
        rw [(idle_sendFrame (.refl s)).seq]
        exact h
      · refine failRun_halted n ?_
        rw [toTwinState_seq, (idle_sendFrame (.refl s)).seq]
        exact h
    · exact failRun_halted n h

theorem doubleFault_halted {n : VeId} {reason v : Nat} {pc : Addr} {cause detail : W64} : (doubleFault s (.ve n) reason v pc cause detail).seq[n].st ≠ .running := by
  unfold doubleFault
  dsimp only
  have hst : ∀ t f, (modEng (modSeq t n fun k => { k with st := .doubleFault, openFaults := [], entry := none }) n f).seq[n].st ≠ .running := fun t f => by
    have hs : (modEng (modSeq t n fun k => { k with st := .doubleFault, openFaults := [], entry := none }) n f).seq[n] =
      { t.seq[n] with st := .doubleFault, openFaults := [], entry := none } := updV_same ..
    rw [hs]
    exact fun h => by cases h
  split
  · exact failSegment_halted n (hst _ _)
  · exact hst _ _

end Halted

/-! ### Entries -/

section Entries

variable {s : State} {n : VeId}

/-- The end of an entry: the handler's first instruction is fetched. -/
theorem fetched_pushed {s2 : State} {x : Addr} {F : Regs → Regs} {v : Nat} {saved : Addr} {cause detail : W64} {g : List OpenFault → List OpenFault}
    {y : Nat × State} (hy : fetchAt (modRegs s2 (.ve n) F) (.ve n) x.toNat = y)
    (hrun : (if y.1 ≠ 0 ∧ y.1 ≠ 9 then doubleFault y.2 (.ve n) 3 v saved cause detail else y.2).seq[n].st = .running) :
    (if (pairOverlay n g id y).1 ≠ 0 ∧ (pairOverlay n g id y).1 ≠ 9 then doubleFault (pairOverlay n g id y).2 (.ve n) 3 v saved cause detail
      else (pairOverlay n g id y).2) =
      overlay n g id (if y.1 ≠ 0 ∧ y.1 ≠ 9 then doubleFault y.2 (.ve n) 3 v saved cause detail else y.2) ∧
      (if y.1 ≠ 0 ∧ y.1 ≠ 9 then doubleFault y.2 (.ve n) 3 v saved cause detail else y.2).seq[n].r = F (core s2 (.ve n)).r := by
  have hregs : y.2.seq[n].r = F (core s2 (.ve n)).r := by
    obtain ⟨i, m, b, t, -, ht⟩ := fetchAt_keeps (modRegs s2 (.ve n) F) (.ve n) x.toNat
    rw [hy] at ht
    have hc : y.2.seq[n] = core y.2 (.ve n) := rfl
    rw [hc, ht, core_modCore, core_modRegs]
  obtain ⟨k, t⟩ := y
  dsimp only at hrun hregs ⊢
  by_cases h : k ≠ 0 ∧ k ≠ 9
  · rw [if_pos h] at hrun
    exact absurd hrun doubleFault_halted
  · rw [if_neg h] at hrun
    rw [if_neg h]
    exact ⟨if_neg h, hregs⟩

/-- An entry after which the core runs, with its frame written, does not look at the open faults. -/
theorem enter_pushed {v code qual : Nat} {detail : W64} {saved : Addr} (g : List OpenFault → List OpenFault)
    (hrun : (enter s (.ve n) v code qual detail saved).seq[n].st = .running) (hentry : (enter s (.ve n) v code qual detail saved).seq[n].entry = none) :
    enter (overlay n g id s) (.ve n) v code qual detail saved = overlay n g id (enter s (.ve n) v code qual detail saved) ∧
      (enter s (.ve n) v code qual detail saved).seq[n].r.g[(7 : Fin 8)] = s.seq[n].r.g[(7 : Fin 8)] - 32 := by
  have hr : (core (overlay n g id s) (.ve n)).r = (core s (.ve n)).r := by rw [core_overlay]
  have hk : ∀ a, accCheck (overlay n g id s) (.ve n) .write a = accCheck s (.ve n) .write a := fun _ => rfl
  have hwait : ∀ t e, (modCore t (.ve n) fun k => { k with entry := some e }).seq[n].entry ≠ none := fun t e => by
    have hs : (modCore t (.ve n) fun k => { k with entry := some e }).seq[n] = { t.seq[n] with entry := some e } := updV_same ..
    rw [hs]
    exact fun h => by cases h
  unfold enter at hrun hentry ⊢
  dsimp only at hrun hentry ⊢
  rw [hr]
  split at hrun
  · exact absurd hrun doubleFault_halted
  next h1 =>
    rw [if_neg h1] at hentry
    rw [if_neg h1, if_neg h1]
    split at hrun
    · exact absurd hrun doubleFault_halted
    next h2 =>
      rw [if_neg h2] at hentry
      simp only [hk]
      rw [if_neg h2, if_neg h2]
      split at hrun
      · exact absurd hrun doubleFault_halted
      next h3 =>
        rw [if_neg h3] at hentry
        rw [if_neg h3, if_neg h3]
        split at hrun
        next h4 =>
          rw [if_pos h4] at hentry
          exact absurd hentry (hwait _ _)
        next h4 =>
          rw [if_neg h4] at hentry
          rw [if_neg h4, if_neg h4]
          rw [frameWrite_overlay]
          generalize hf : frameWrite s (.ve n) (((core s (.ve n)).r.g[(7 : Fin 8)].toNat - 32) % 2 ^ 40) (frameLo saved (core s (.ve n)).r.fl)
            (frameHi (causeWord v code qual) detail) = o at hrun hentry ⊢
          cases o with
          | none => exact absurd hentry (hwait _ _)
          | some s2 =>
            dsimp only [Option.map_some] at hrun ⊢
            have hmod : ∀ f : Regs → Regs, modRegs (overlay n g id s2) (.ve n) f = overlay n g id (modRegs s2 (.ve n) f) := fun f =>
              modCore_overlay (h := fun k => { k with r := f k.r }) (fun _ => rfl) rfl
            rw [hmod, fetchAt_overlay]
            obtain ⟨h5, h6⟩ := fetched_pushed (g := g) rfl hrun
            refine ⟨h5, ?_⟩
            rw [h6, frameWrite_regs hf]
            exact updV_same ..

end Entries

end Sys2Proof.Machine

/-! PROOF. Entries at a boundary (O19). -/
namespace Sys2Proof.Machine

/-! ### Entries at a boundary -/

section Boundary

variable {s : State} {c : CoreId}

theorem interrupt_enters {x : Nat × Nat × W64} (hp : atInterruptPoint s c = true) (hd : faultDue s c = false) (ho : openGroup s c = [])
    (ha : admitted s c (core s c).r.fl = some x) :
    exec (.interruptEntry c) s = .next (takeNotice (enter (modCore s c fun k => { k with st := .running }) c (0x10 + x.1) x.2.1 0 x.2.2 (core s c).r.pc) c x.2.1) := by
  refine congrArg Host.Outcome.next ?_
  unfold interruptOp
  rw [if_neg (by rw [hp, hd, ho]; decide), ha]

theorem interrupt_none (ha : admitted s c (core s c).r.fl = none) : exec (.interruptEntry c) s = .next s := by
  refine congrArg Host.Outcome.next ?_
  unfold interruptOp
  rw [ha]
  exact ite_self _

/-- An encoding that decode finds illegal. -/
theorem illegal_enters {enc : W32} {code : Nat} (hr : Ready s c 4) (h1 : 0x30 ≤ fld enc 31 26) (h2 : fld enc 31 26 < 0x38)
    (hi : illegalCode s c true enc = some code) :
    exec (.illegalInstruction c true enc) s = .next (enter (taken s c 4) c 1 code 0 (enc.setWidth 64) (core s c).r.pc) := by
  have hlong : isLong enc = (4 == 4) := by
    have h : fld enc 31 30 = fld enc 31 26 / 16 := by
      simp only [fld]
      omega
    rw [isLong, h, show fld enc 31 26 / 16 = 3 by omega]
    rfl
  have ho : openGroup (taken s c 4) c = [] := (fetched_open _).trans hr.2.1
  refine congrArg Host.Outcome.next ?_
  unfold illegalOp
  rw [hi]
  dsimp only
  rw [if_neg (by rw [Bool.true_and, decide_eq_true_eq]; omega)]
  unfold seqOp
  rw [atBoundary_ready hr hlong]
  dsimp only
  rw [illegal, discardOpen_ready ho, fetched_regs]

theorem atFetch_bad {long : Bool} {f : State → State} {k a : Nat} {u : State} (hrun : canRun s c = true) (hdue : entryDue s c = false)
    (hf : fetchGo s c long = (.bad k a, u)) : atFetch s c long f = enter (discardOpen u c) c 2 k 0 (BitVec.ofNat 64 a) (core s c).r.pc := by
  unfold atFetch
  rw [if_neg (by rw [hrun, hdue]; decide), hf]

theorem fetch_faults {k a : Nat} {u : State} (hrun : canRun s c = true) (hdue : entryDue s c = false) (hf : fetchGo s c (crosses s c) = (.bad k a, u)) :
    exec (.instructionAccess c) s = .next (enter (discardOpen u c) c 2 k 0 (BitVec.ofNat 64 a) (core s c).r.pc) := by
  refine congrArg Host.Outcome.next ?_
  unfold instrAccessOp
  rw [hf]
  exact atFetch_bad hrun hdue hf

theorem isLong_nop (arg : BitVec 8) : isLong (h4 0 arg) = false := isLong_h4 0 arg (by decide)

theorem nop_faults {k a : Nat} {u : State} {arg : BitVec 8} (hrun : canRun s c = true) (hdue : entryDue s c = false) (hf : fetchGo s c false = (.bad k a, u)) :
    exec (.nop c arg) s = .next (enter (discardOpen u c) c 2 k 0 (BitVec.ofNat 64 a) (core s c).r.pc) := by
  refine congrArg Host.Outcome.next ?_
  unfold seqOp atBoundary
  rw [isLong_nop]
  exact atFetch_bad hrun hdue hf

theorem nop_waits {arg : BitVec 8} (h : canRun s c = false ∨ entryDue s c = true) : exec (.nop c arg) s = .next s := by
  refine congrArg Host.Outcome.next ?_
  unfold seqOp atBoundary atFetch
  rw [if_pos]
  rcases h with h | h
  · rw [h]
    rfl
  · rw [h, Bool.or_true]

theorem nop_held {arg : BitVec 8} (hrun : canRun s c = true) (hdue : entryDue s c = false) (hf : (fetchGo s c false).1 = .held) :
    exec (.nop c arg) s = .next (fetched s c false) := by
  have he : fetchGo s c false = (.held, fetched s c false) := Prod.ext hf rfl
  refine congrArg Host.Outcome.next ?_
  unfold seqOp atBoundary atFetch
  rw [isLong_nop, if_neg (by rw [hrun, hdue]; decide), he]

/-- A fetch changes its core's cache and buffer, and what reads change. -/
theorem fetched_frame (long : Bool) : core (fetched s c long) c =
    { core s c with icache := (core (fetched s c long) c).icache, icMiss := (core (fetched s c long) c).icMiss, ahead := (core (fetched s c long) c).ahead } ∧
      ReadKeeps (modCore s c fun _ => core (fetched s c long) c) (fetched s c long) := by
  obtain ⟨i, m, b, t, ht, he⟩ := fetched_keeps s c long
  rw [he, core_modCore]
  refine ⟨rfl, ?_⟩
  rw [ReadKeeps] at ht ⊢
  rw [ht]
  cases c <;> rfl

theorem accCheck_modCore (f : Core → Core) (w : Want) (a : Nat) : accCheck (modCore s c f) c w a = accCheck s c w a := by cases c <;> rfl

theorem detCore_modCore (f : Core → Core) : detCore (modCore s c f) c = detCore s c := by cases c <;> rfl

theorem modCore_comp (f g : Core → Core) : modCore (modCore s c f) c g = modCore s c (g ∘ f) := by
  cases c with
  | sv => rfl
  | ve n => exact congrArg (fun v => ({ s with seq := v } : State)) (updV_updV s.seq n f g)

/-- A fetch from cached lines. -/
theorem fetched_cached {long : Bool} (h : Cached s c (if long then 4 else 2)) (hpc : (core s c).r.pc.toNat % 2 = 0) :
    (fetchGo s c long).1 = .ok ∧ fetched s c long = modCore s c fun k => { k with icache := (core (fetched s c long) c).icache } := by
  obtain ⟨hdet, hlines⟩ := h
  have hlt := (core s c).r.pc.isLt
  obtain ⟨hc0, hi0⟩ := hlines 0 (by split <;> decide)
  rw [Nat.add_zero, Nat.mod_eq_of_lt hlt] at hc0 hi0
  have h1 := fetchAt_cached hc0 hdet hi0
  -- The state of either fetch differs from `s` in the cached lines alone.
  have hgo : ∀ ic, fetchGo s c long = (.ok, modCore s c fun k => { k with icache := ic }) →
      (fetchGo s c long).1 = .ok ∧ fetched s c long = modCore s c fun k => { k with icache := (core (fetched s c long) c).icache } := by
    intro ic he
    refine ⟨by rw [he], ?_⟩
    rw [fetched, he]
    dsimp only
    rw [core_modCore]
  have hself : ∀ ic, (modCore s c fun k => { k with icache := lru id ic k.icache }) = modCore s c fun k => { k with icache := lru id ic (core s c).icache } := by
    intro ic
    cases c with
    | sv => rfl
    | ve n => exact congrArg (fun v => { s with seq := v }) rfl
  by_cases hx : long = true ∧ (core s c).r.pc.toNat % 16 = 14
  · obtain ⟨hlong, h14⟩ := hx
    rw [hlong, if_pos rfl] at hlines
    obtain ⟨hc2, hi2⟩ := hlines 2 (by decide)
    have hline : ((core s c).r.pc.toNat + 2) % 2 ^ 40 / 64 ∈ lru id ((core s c).r.pc.toNat / 64) (core s c).icache := by
      refine mem_lru ?_
      by_cases he : ((core s c).r.pc.toNat + 2) % 2 ^ 40 / 64 = (core s c).r.pc.toNat / 64
      · exact .inl he
      · exact .inr ⟨hi2, by omega⟩
    have h2 := fetchAt_cached (u := modCore s c fun k => { k with icache := lru id ((core s c).r.pc.toNat / 64) (core s c).icache })
      ((accCheck_modCore _ _ _).trans hc2) ((detCore_modCore _).trans hdet) (by rw [core_modCore]; exact hline)
    refine hgo (lru id (((core s c).r.pc.toNat + 2) % 2 ^ 40 / 64) (lru id ((core s c).r.pc.toNat / 64) (core s c).icache)) ?_
    unfold fetchGo
    dsimp only
    rw [h1]
    dsimp only
    rw [if_neg (by decide), if_neg (by decide), if_pos ⟨hlong, h14⟩, hself, h2]
    dsimp only
    rw [if_neg (by decide), if_neg (by decide)]
    refine congrArg (Prod.mk FetchRes.ok) ?_
    rw [modCore_comp]
    rfl
  · refine hgo (lru id ((core s c).r.pc.toNat / 64) (core s c).icache) ?_
    unfold fetchGo
    dsimp only
    rw [h1]
    dsimp only
    rw [if_neg (by decide), if_neg (by decide), if_neg hx, hself]

theorem dbValue_read {n : VeId} (hrun : canRun s (.ve n) = true) : ∃ t, exec (.dbValueRead n) s = .next t ∧
    t.outs = s.outs ++ [.block (.ve n) (s.seq[n].db.setWidth 128)] ∧ t = { modCore s (.ve n) (fun k => { k with dbPend := false }) with outs := t.outs } := by
  have hv : (s.seq[n].db.setWidth 128 &&& BitVec.ofNat 128 (2 ^ 64 - 1) : W128) = s.seq[n].db.setWidth 128 := by
    apply BitVec.eq_of_toNat_eq
    have hlt := s.seq[n].db.isLt
    rw [BitVec.toNat_and, BitVec.toNat_setWidth, BitVec.toNat_ofNat, Nat.mod_eq_of_lt (show 2 ^ 64 - 1 < 2 ^ 128 by decide), Nat.and_two_pow_sub_one_eq_mod]
    omega
  have hl : veLoad s n 0x23 8 = some (s.seq[n].db.setWidth 128, modSeq s n fun c => { c with dbPend := false }) := by
    rw [← hv]
    rfl
  refine ⟨emit (modSeq s n fun c => { c with dbPend := false }) (.block (.ve n) (s.seq[n].db.setWidth 128)), ?_, rfl, rfl⟩
  refine congrArg Host.Outcome.next ?_
  rw [hrun, hl]
  rfl

theorem substEn_written {n : VeId} {v : W64} (hrun : canRun s (.ve n) = true) : exec (.vfSubstEn n v) s = .next (modEng s n fun e =>
    { e with substEn := bit v 0, substElem := if bit v 0 then e.vfElem else e.substElem, substPos := if bit v 0 then e.vfPos else e.substPos }) := by
  refine congrArg Host.Outcome.next ?_
  rw [hrun]
  refine congrArg (modEng s n) (funext fun e => ?_)
  cases bit v 0 <;> rfl

end Boundary

/-! ### Vector faults -/

section Faults

variable {s : State} {n : VeId}

theorem fault_notDue (h : s.eng[n].vfDue = false) : exec (.vectorFaultEntry n) s = .next s := by
  refine congrArg Host.Outcome.next ?_
  unfold faultEntry
  dsimp only
  rw [if_pos (by rw [h]; simp)]

theorem fault_open (ho : s.eng[n].openIns ≠ []) (hq : queueFill s.eng[n] < 32) : exec (.vectorFaultEntry n) s = .next s := by
  have he : s.eng[n].openIns.isEmpty = false := List.isEmpty_eq_false_iff.2 ho
  refine congrArg Host.Outcome.next ?_
  unfold faultEntry
  dsimp only
  rw [if_pos (by rw [he, decide_eq_true hq]; simp)]

/-- The fault that an entry at vector 8 opens. -/
def faultOpened (s : State) (n : VeId) : OpenFault :=
  { frame := s.seq[n].r.g[(7 : Fin 8)] - 32, cause := s.eng[n].vfCause.toNat, elem := s.eng[n].vfElem.toNat, addr := s.eng[n].vfAddr
    drain := bit s.eng[n].vfPos 4, issue := s.eng[n].vfIssue }

theorem fault_enters {saved : Addr} (hrun : canRun s (.ve n) = true) (hdue : s.eng[n].vfDue = true)
    (hsaved : s.eng[n].openIns = [] ∧ saved = (core s (.ve n)).r.pc ∨ 32 ≤ queueFill s.eng[n] ∧ s.eng[n].openIns.head?.map (·.pc) = some saved) {u : State}
    (hu : enter (modEng s n fun e => { e with vfDue := false, openIns := [] }) (.ve n) 8 s.eng[n].vfCause.toNat s.eng[n].vfElem.toNat s.eng[n].vfPc saved = u)
    (hst : u.seq[n].st = .running) (hentry : u.seq[n].entry = none) :
    exec (.vectorFaultEntry n) s = .next (modSeq u n fun k => { k with openFaults := faultOpened s n :: k.openFaults }) ∧
      (faultOpened s n).frame = u.seq[n].r.g[(7 : Fin 8)] := by
  subst hu
  obtain ⟨hpush, hg⟩ := enter_pushed (fun l => faultOpened s n :: l) hst hentry
  refine ⟨congrArg Host.Outcome.next ?_, hg.symm⟩
  have hguard : ¬ (!canRun s (.ve n) || !s.eng[n].vfDue || (!s.eng[n].openIns.isEmpty && decide (queueFill s.eng[n] < 32))) = true := by
    rw [hrun, hdue]
    rcases hsaved with ⟨ho, -⟩ | ⟨hq, -⟩
    · rw [ho]
      exact Bool.false_ne_true
    · rw [decide_eq_false (by omega), Bool.and_false]
      decide
  unfold faultEntry
  dsimp only
  rw [if_neg hguard]
  rcases hsaved with ⟨ho, rfl⟩ | ⟨-, hh⟩
  · rw [ho]
    exact hpush
  · cases ho : s.eng[n].openIns with
    | nil =>
      rw [ho] at hh
      cases hh
    | cons q rest =>
      rw [ho] at hh
      cases hh
      exact hpush

theorem closeFault_open {o : OpenFault} (hf : unfixable o = false) :
    (closeFault s n o).eng[n] = { s.eng[n] with stopped := false } ∧ o ∉ (closeFault s n o).seq[n].openFaults ∧
      (closeFault s n o).seq[n].r = s.seq[n].r := by
  have heng : (closeFault s n o).eng[n] = { s.eng[n] with stopped := false } := by
    unfold closeFault
    rw [hf]
    exact updV_same ..
  have hseq : (closeFault s n o).seq[n] = { s.seq[n] with openFaults := s.seq[n].openFaults.filter (· ≠ o) } := by
    unfold closeFault
    rw [hf]
    exact updV_same ..
  refine ⟨heng, ?_, ?_⟩
  · rw [hseq]
    simp
  · rw [hseq]

/-- The `RTI` that pops the frame of an open fault closes it. -/
theorem rti_closes {lo hi : W128} {s1 : State} {o : OpenFault} (hr : Ready s (.ve n) 2)
    (hf : frameRead (taken s (.ve n) 2) (.ve n) (s.seq[n].r.g[(7 : Fin 8)].toNat % 2 ^ 40) = .ok lo hi s1)
    (hadm : admitted s1 (.ve n) (flRestore (BitVec.ofNat 64 (fld lo 127 64))) = none)
    (ho : s1.seq[n].openFaults.find? (fun o => o.frame == s1.seq[n].r.g[(7 : Fin 8)]) = some o) (hfix : unfixable o = false) :
    ∃ t, exec (.rti (.ve n) 0) s = .next t ∧ t.eng[n] = { s1.eng[n] with stopped := false } ∧ o ∉ t.seq[n].openFaults ∧
      t.seq[n].r.pc = BitVec.ofNat 40 (fld lo 39 0) &&& ~~~(1 : Addr) := by
  refine ⟨_, exec_of_seqOp (i := .rti (.ve n) 0) rfl (isLong_h4 2 0 (by decide)) hr rfl, ?_⟩
  have hop : rtiOp (taken s (.ve n) 2) (.ve n) = popFrame s1 (.ve n) (flRestore (BitVec.ofNat 64 (fld lo 127 64))) (BitVec.ofNat 40 (fld lo 39 0) &&& ~~~(1 : Addr)) := by
    unfold rtiOp
    dsimp only
    rw [fetched_regs, show (core s (.ve n)).r = s.seq[n].r from rfl, hf]
    dsimp only
    rw [hadm]
  dsimp only
  rw [hop]
  generalize hv : retire (modRegs s1 (.ve n) fun r => { r with fl := flRestore (BitVec.ofNat 64 (fld lo 127 64)), g := updV r.g 7 (· + 32) }) (.ve n)
    (BitVec.ofNat 40 (fld lo 39 0) &&& ~~~(1 : Addr)) = v
  have hcore : core v (.ve n) = { core s1 (.ve n) with retired := (core s1 (.ve n)).retired + 1, r := (core v (.ve n)).r } := by
    rw [← hv, retire, core_modCore, core_modRegs]
  have hpc : (core v (.ve n)).r.pc = BitVec.ofNat 40 (fld lo 39 0) &&& ~~~(1 : Addr) := by
    rw [← hv, retire, core_modCore]
    dsimp only
    rw [BitVec.and_assoc, BitVec.and_self]
  have hfaults : v.seq[n].openFaults = s1.seq[n].openFaults := by
    have h := congrArg Core.openFaults hcore
    exact h
  have heng1 : v.eng[n] = s1.eng[n] := by rw [← hv]; rfl
  have hpop : popFrame s1 (.ve n) (flRestore (BitVec.ofNat 64 (fld lo 127 64))) (BitVec.ofNat 40 (fld lo 39 0) &&& ~~~(1 : Addr)) = closeFault v n o := by
    unfold popFrame
    dsimp only
    rw [hv, hfaults, show core s1 (.ve n) = s1.seq[n] from rfl, ho]
  rw [hpop]
  obtain ⟨heng, hof, hregs⟩ := closeFault_open (s := v) (n := n) hfix
  exact ⟨heng.trans (by rw [heng1]), hof, (congrArg Regs.pc hregs).trans hpc⟩

end Faults

/-- Settles O19: entries are made at a boundary alone, and one that ends with a running core does not look at the open faults. -/
theorem coreAndFaultEntries : Obligations.CoreAndFaultEntries := by
  unfold Obligations.CoreAndFaultEntries
  refine ⟨?_, ?_⟩
  · intro s c
    exact ⟨fun x hp hd ho ha => interrupt_enters hp hd ho ha, fun ha => interrupt_none ha, fun enc code hr h1 h2 hi => illegal_enters hr h1 h2 hi,
      fun k a u hrun hdue hf => fetch_faults hrun hdue hf, fun k a u arg hrun hdue hf => nop_faults hrun hdue hf, fun arg h => nop_waits h,
      fun arg hrun hdue hf => nop_held hrun hdue hf, fun long => ⟨(fetched_frame long).1, (fetched_frame long).2, fun h hpc => fetched_cached h hpc⟩,
      fun n hn hrun => by
        subst hn
        exact dbValue_read hrun,
      fun n v hn hrun => by
        subst hn
        exact substEn_written hrun⟩
  · intro s n hrun e s1
    refine ⟨fault_notDue, fun _ ho hq => fault_open ho hq, ?_, fun o _ hfix => ?_, fun lo hi t1 o hr hf hadm ho hfix => rti_closes hr hf hadm ho hfix⟩
    · intro saved hdue hsaved s2 hst hentry
      obtain ⟨he, hframe⟩ := fault_enters hrun hdue hsaved rfl hst hentry
      exact ⟨_, faultOpened s n, he, rfl, hframe, rfl, rfl, rfl⟩
    · obtain ⟨heng, hof, -⟩ := closeFault_open (s := s) (n := n) hfix
      exact ⟨heng, hof⟩

end Sys2Proof.Machine

/-! PROOF. What posting a record, a message or an event leaves alone. -/
namespace Sys2Proof.Machine

/-! ### What posting a record, a message or an event leaves alone -/

/-- A port but for its pending messages. -/
def quietPort (t : Port) : Port := { t with msixPending := 0 }

/-- A partition but for its ledger and its armed messages. -/
def quietPart (q : Partition) : Partition :=
  { q with ledger := { ring := [], appended := 0, held := false, failed := 0, lastCause := 0, uncopied := 0, waiting := [] }
           armEvq := false, armLedger := false, armStream := false }

/-- A state but for what is posted: latches, alerts, outputs, pending messages, ledgers, frames sent to the twin, and the free values drawn. -/
def quiet (s : State) : State :=
  { s with ev := { s.ev with latches := [] }, dict := { s.dict with alertCause := 0 }, i3c := { s.i3c with ibiAlert := false }, outs := []
           ls := { s.ls with fenceNotice := false }, ports := s.ports.map quietPort, parts := s.parts.map quietPart
           twin := { s.twin with sendSeq := 0, unacked := [] }, free := 0 }

/-- From `s` to `t` only records, messages, frames and events were posted. -/
def Posted (s t : State) : Prop := quiet t = quiet s

namespace Posted

variable {s t u : State}

theorem refl (s : State) : Posted s s := rfl

theorem trans (h : Posted s t) (k : Posted t u) : Posted s u := Eq.trans k h

theorem get {α : Type} (h : Posted s t) (f : State → α) : f (quiet t) = f (quiet s) := congrArg f h

theorem mem (h : Posted s t) : t.mem = s.mem := h.get State.mem

theorem seq (h : Posted s t) : t.seq = s.seq := h.get State.seq

theorem eng (h : Posted s t) : t.eng = s.eng := h.get State.eng

theorem banks (h : Posted s t) : t.banks = s.banks := h.get State.banks

theorem fab (h : Posted s t) : t.fab = s.fab := h.get State.fab

theorem boot (h : Posted s t) : t.boot = s.boot := h.get State.boot

theorem pw (h : Posted s t) : t.pw = s.pw := h.get State.pw

theorem clusters (h : Posted s t) : t.clusters = s.clusters := h.get State.clusters

theorem fz (h : Posted s t) : t.fz = s.fz := h.get State.fz

theorem part (h : Posted s t) (p : PartId) : quietPart t.parts[p] = quietPart s.parts[p] := by
  have hp := h.get fun x => x.parts[p]
  simpa only [quiet, Fin.getElem_fin, Vector.getElem_map] using hp

theorem port (h : Posted s t) (i : PortId) : quietPort t.ports[i] = quietPort s.ports[i] := by
  have hp := h.get fun x => x.ports[i]
  simpa only [quiet, Fin.getElem_fin, Vector.getElem_map] using hp

theorem getPart {α : Type} (h : Posted s t) (p : PartId) (f : Partition → α) : f (quietPart t.parts[p]) = f (quietPart s.parts[p]) := congrArg f (h.part p)

theorem getPort {α : Type} (h : Posted s t) (i : PortId) (f : Port → α) : f (quietPort t.ports[i]) = f (quietPort s.ports[i]) := congrArg f (h.port i)

theorem streams (h : Posted s t) (p : PartId) : t.parts[p].streams = s.parts[p].streams := h.getPart p Partition.streams

theorem cfg (h : Posted s t) (p : PartId) : t.parts[p].cfg = s.parts[p].cfg := h.getPart p Partition.cfg

theorem run (h : Posted s t) (p : PartId) : t.parts[p].run = s.parts[p].run := h.getPart p Partition.run

theorem rx (h : Posted s t) (i : PortId) : t.ports[i].rx = s.ports[i].rx := h.getPort i Port.rx

/-- A change that the quiet view does not show. -/
theorem upd (h : Posted s t) (hu : quiet u = quiet t) : Posted s u := h.trans hu

end Posted

/-! #### Each posting -/

section Postings

variable (s : State)

theorem posted_reported {t : State} (h : Reported s t) : Posted s t := by
  obtain ⟨l, d, a, o, n, rfl⟩ := h
  rfl

theorem posted_raiseN (x : Nat) (dt : W32) : Posted s (raiseN s x dt) := posted_reported s (raiseN_reported s x dt)

theorem posted_emit (o : Out) : Posted s (emit s o) := rfl

theorem posted_modPart (p : PartId) (f : Partition → Partition) (h : ∀ q, quietPart (f q) = quietPart q) : Posted s (modPart s p f) :=
  congrArg (fun v => ({ quiet s with parts := v } : State)) (map_updV s.parts p f quietPart h)

theorem posted_modPort (i : PortId) (f : Port → Port) (h : ∀ q, quietPort (f q) = quietPort q) : Posted s (modPort s i f) :=
  congrArg (fun v => ({ quiet s with ports := v } : State)) (map_updV s.ports i f quietPort h)

theorem posted_msixSend (h : PortId) (v : Nat) : Posted s (msixSend s h v) := by
  unfold msixSend
  split
  · exact posted_modPort s h _ fun _ => rfl
  · exact posted_emit s _

theorem posted_msix (p : PartId) : Posted s (msix s p) := by
  have hcond : ∀ (t : State) (c : Prop) [Decidable c] (h : PortId) (v : Nat) (f : Partition → Partition), (∀ q, quietPart (f q) = quietPart q) → Posted s t →
      Posted s (if c then modPart (msixSend t h v) p f else t) := by
    intro t c _ h v f hf ht
    split
    · exact (ht.trans (posted_msixSend t h v)).trans (posted_modPart _ p f hf)
    · exact ht
  unfold msix
  dsimp only
  split
  · exact .refl s
  · exact hcond _ _ _ _ _ (fun _ => rfl) (hcond _ _ _ _ _ (fun _ => rfl) (hcond _ _ _ _ _ (fun _ => rfl) (.refl s)))

theorem posted_sendFrame (kind : Byte) (l : List W128) : Posted s (sendFrame s kind l) := by
  unfold sendFrame
  split <;> rfl

theorem posted_ledgerPut (p : PartId) (r : W128) : Posted s (ledgerPut s p r) := by
  refine Posted.trans (posted_modPart s p _ ?_) (posted_msix _ p)
  exact fun _ => rfl

theorem posted_ledgerEnd (p : PartId) (item : W32) (kind cause : Nat) (detail : W64) : Posted s (ledgerEnd s p item kind cause detail) := by
  unfold ledgerEnd
  dsimp only
  split
  · split
    · exact (posted_sendFrame s _ _).trans (posted_modPart _ p _ fun _ => rfl)
    · exact .refl s
  · exact posted_ledgerPut s p _

theorem posted_drawWord : Posted s (drawWord s).2 := rfl

theorem posted_ledgerItem (p : PartId) (item : W32) (kind cause : Nat) (detail : Option W64) : Posted s (ledgerItem s p item kind cause detail) := by
  unfold ledgerItem
  split
  · exact posted_ledgerEnd s p item kind cause _
  · exact (posted_drawWord s).trans (posted_ledgerEnd _ p item kind cause _)

end Postings

end Sys2Proof.Machine

/-! PROOF. Host links (O38). -/
namespace Sys2Proof.Machine

/-! ### A port's streams begin anew -/

/-- From `s` to `t` no block came into progress at a port, no word of a block was read and no port received anything. -/
structure Rewound (s t : State) : Prop where
  rx : ∀ i : PortId, t.ports[i].rx = s.ports[i].rx
  cfg : ∀ p : PartId, t.parts[p].cfg = s.parts[p].cfg
  cur : ∀ (p : PartId) (k : Fin 8), s.parts[p].streams[k].cur = none → t.parts[p].streams[k].cur = none
  out : ∀ (p : PartId) (k : Fin 8), (∀ b ∈ s.parts[p].streams[k].out, b.read = 0) → ∀ b ∈ t.parts[p].streams[k].out, b.read = 0

namespace Rewound

variable {s t u : State}

theorem refl (s : State) : Rewound s s := ⟨fun _ => rfl, fun _ => rfl, fun _ _ h => h, fun _ _ h => h⟩

theorem trans (h : Rewound s t) (k : Rewound t u) : Rewound s u :=
  ⟨fun i => (k.rx i).trans (h.rx i), fun p => (k.cfg p).trans (h.cfg p), fun p i hc => k.cur p i (h.cur p i hc), fun p i ho => k.out p i (h.out p i ho)⟩

theorem of_posted (h : Posted s t) : Rewound s t :=
  ⟨h.rx, h.cfg, fun p k hc => by rw [h.streams p]; exact hc, fun p k ho => by rw [h.streams p]; exact ho⟩

end Rewound

section Streams

variable (s : State)

/-- A partition's streams after a change of the partition. -/
theorem rewound_modPart (p : PartId) (f : Partition → Partition) (hcfg : ∀ q, (f q).cfg = q.cfg)
    (hcur : ∀ q, ∀ k : Fin 8, q.streams[k].cur = none → (f q).streams[k].cur = none)
    (hout : ∀ q, ∀ k : Fin 8, (∀ b ∈ q.streams[k].out, b.read = 0) → ∀ b ∈ (f q).streams[k].out, b.read = 0) : Rewound s (modPart s p f) := by
  have hp : ∀ i : PartId, (modPart s p f).parts[i] = if i = p then f s.parts[i] else s.parts[i] := by
    intro i
    by_cases h : i = p
    · subst h
      rw [if_pos rfl]
      exact updV_same ..
    · rw [if_neg h]
      exact updV_other _ _ _ _ (Ne.symm h)
  refine ⟨fun _ => rfl, fun i => ?_, fun i k hc => ?_, fun i k ho => ?_⟩ <;> rw [hp] <;> split
  · exact hcfg _
  · rfl
  · exact hcur _ _ hc
  · exact hc
  · exact hout _ _ ho
  · exact ho

theorem rewound_modStream (p : PartId) (k : Fin 8) (f : Stream → Stream) (hcur : ∀ st, st.cur = none → (f st).cur = none) (hout : ∀ st, (f st).out = st.out) :
    Rewound s (modStream s p k f) := by
  have hst : ∀ (q : Partition) (i : Fin 8), (updV q.streams k f)[i] = if i = k then f q.streams[i] else q.streams[i] := by
    intro q i
    by_cases h : i = k
    · subst h
      rw [if_pos rfl]
      exact updV_same ..
    · rw [if_neg h]
      exact updV_other _ _ _ _ (Ne.symm h)
  refine rewound_modPart s p _ (fun _ => rfl) (fun q i hc => ?_) fun q i ho => ?_ <;> rw [hst] <;> split
  · exact hcur _ hc
  · exact hc
  · rw [hout]
    exact ho
  · exact ho

theorem rewound_blockFails (p : PartId) (k : Fin 8) (b : InBlock) (cause : Nat) (detail : Option W64) : Rewound s (blockFails s p k b cause detail) := by
  unfold blockFails
  exact (rewound_modStream s p k (fun st => { st with fails := satInc st.fails }) (fun _ h => h) fun _ => rfl).trans (.of_posted (posted_ledgerItem _ _ _ _ _ _))

theorem rewound_dropLoad (p : PartId) (mark left : Nat) : Rewound s (dropLoad s p mark left) :=
  rewound_modPart s p _ (fun _ => rfl) (fun _ _ h => h) fun _ _ h => h

theorem modStream_at (p : PartId) (k : Fin 8) (f : Stream → Stream) : (modStream s p k f).parts[p].streams[k] = f s.parts[p].streams[k] := by
  have h1 : (modStream s p k f).parts[p] = { s.parts[p] with streams := updV s.parts[p].streams k f } := updV_same ..
  rw [h1]
  exact updV_same ..

theorem failBlock_cur (p : PartId) (k : Fin 8) (b : InBlock) (cause : Nat) (detail : Option W64) :
    Rewound s (failBlock s p k b cause detail) ∧ (failBlock s p k b cause detail).parts[p].streams[k].cur = none := by
  have h1 : Rewound s (modStream s p k fun st => { st with cur := none }) := rewound_modStream s p k _ (fun _ _ => rfl) fun _ => rfl
  have hc : (modStream s p k fun st => { st with cur := none }).parts[p].streams[k].cur = none := by rw [modStream_at]
  unfold failBlock
  dsimp only
  split
  · exact ⟨h1, hc⟩
  · split
    · have h2 := (rewound_dropLoad (modStream s p k fun st => { st with cur := none }) p b.mark b.left).trans (rewound_blockFails _ p k b cause detail)
      exact ⟨h1.trans h2, h2.cur p k hc⟩
    · have h2 := rewound_blockFails (modStream s p k fun st => { st with cur := none }) p k b cause detail
      exact ⟨h1.trans h2, h2.cur p k hc⟩

theorem failPush_cur (p : PartId) (k : Fin 8) (cause : Nat) (detail : Option W64) :
    Rewound s (failPush s p k cause detail) ∧ (failPush s p k cause detail).parts[p].streams[k].cur = none := by
  unfold failPush
  dsimp only
  split
  · exact failBlock_cur s p k _ cause detail
  next n b hc _ =>
    have h2 := (rewound_modStream s p k (fun st => { st with raw := st.raw.take n }) (fun _ h => h) fun _ => rfl).trans (rewound_blockFails _ p k b cause detail)
    exact ⟨h2, h2.cur p k hc⟩
  next hc _ => exact ⟨.refl s, hc⟩

theorem failPushes_cur (p : PartId) (cause : Nat) (detail : Option W64) :
    Rewound s (failPushes s p cause detail) ∧ ∀ k ∈ inEntries, (failPushes s p cause detail).parts[p].streams[k].cur = none := by
  unfold failPushes
  induction inEntries generalizing s with
  | nil => exact ⟨.refl s, fun _ h => by cases h⟩
  | cons i l ih =>
    obtain ⟨h1, hc1⟩ := failPush_cur s p i cause detail
    obtain ⟨h2, hc2⟩ := ih (failPush s p i cause detail)
    refine ⟨h1.trans h2, fun k hk => ?_⟩
    rcases List.mem_cons.1 hk with rfl | hk
    · exact h2.cur p k hc1
    · exact hc2 k hk

/-- A stream none of whose presented words has been read. -/
def rewound (st : Stream) : Stream := { st with out := st.out.map fun b => { b with read := 0 } }

theorem rewindOut_out (p : PartId) : Rewound s (rewindOut s p) ∧ ∀ k : Fin 8, ∀ b ∈ (rewindOut s p).parts[p].streams[k].out, b.read = 0 := by
  have hst : ∀ (q : Partition) (k : Fin 8), (q.streams.map rewound)[k] = rewound q.streams[k] := fun q k => by
    rw [Fin.getElem_fin, Vector.getElem_map]
    rfl
  have hzero : ∀ (l : List OutBlock), ∀ b ∈ l.map (fun b : OutBlock => { b with read := 0 }), b.read = 0 := by
    intro l b hb
    obtain ⟨c, -, rfl⟩ := List.mem_map.1 hb
    rfl
  have heq : rewindOut s p = modPart s p fun q => { q with streams := q.streams.map rewound } := rfl
  rw [heq]
  refine ⟨rewound_modPart s p (fun q => { q with streams := q.streams.map rewound }) (fun _ => rfl) (fun q k hc => ?_) fun q k _ => ?_, fun k => ?_⟩
  · exact (congrArg Stream.cur (hst q k)).trans hc
  · exact fun b hb => hzero _ b ((congrArg Stream.out (hst q k)) ▸ hb)
  · have h1 : (modPart s p fun q => { q with streams := q.streams.map rewound }).parts[p] = { s.parts[p] with streams := s.parts[p].streams.map rewound } :=
      updV_same ..
    rw [h1]
    exact fun b hb => hzero _ b ((congrArg Stream.out (hst s.parts[p] k)) ▸ hb)

/-- Both, for each partition of a list. -/
theorem foldl_rewound (l : List PartId) (cause : Nat) (detail : Option W64) :
    Rewound s (l.foldl (fun t p => rewindOut (failPushes t p cause detail) p) s) ∧
      ∀ p ∈ l, (∀ k ∈ inEntries, (l.foldl (fun t p => rewindOut (failPushes t p cause detail) p) s).parts[p].streams[k].cur = none) ∧
        ∀ k : Fin 8, ∀ b ∈ (l.foldl (fun t p => rewindOut (failPushes t p cause detail) p) s).parts[p].streams[k].out, b.read = 0 := by
  induction l generalizing s with
  | nil => exact ⟨.refl s, fun _ h => by cases h⟩
  | cons i l ih =>
    obtain ⟨h1, hc1⟩ := failPushes_cur s i cause detail
    obtain ⟨h2, ho2⟩ := rewindOut_out (failPushes s i cause detail) i
    obtain ⟨h3, h4⟩ := ih (rewindOut (failPushes s i cause detail) i)
    have h12 := h1.trans h2
    rw [List.foldl_cons]
    generalize rewindOut (failPushes s i cause detail) i = v at h2 h12 h3 h4 ho2 ⊢
    generalize l.foldl (fun t p => rewindOut (failPushes t p cause detail) p) v = t at h3 h4 ⊢
    refine ⟨h12.trans h3, fun p hp => ?_⟩
    rcases List.mem_cons.1 hp with rfl | hp
    · exact ⟨fun k hk => h3.cur p k (h2.cur p k (hc1 k hk)), fun k => h3.out p k (ho2 k)⟩
    · exact h4 p hp

theorem inEntries_mem (k : Fin 8) (h : k.val ≤ 2 ∨ k.val = 7) : k ∈ inEntries := by
  revert k
  decide

/-- After the end of a port's streams. -/
theorem portStreams_ends (h : PortId) (cause : Nat) (detail : Option W64) (sunk : Nat) :
    (portStreams s h cause detail sunk).ports[h].rx = [] ∧ ∀ p : PartId, ownerOf s p = h →
      (∀ k : Fin 8, (k.val ≤ 2 ∨ k.val = 7) → (portStreams s h cause detail sunk).parts[p].streams[k].cur = none) ∧
      ∀ k : Fin 8, ∀ b ∈ (portStreams s h cause detail sunk).parts[p].streams[k].out, b.read = 0 := by
  have hrx : (modPort s h fun t => { t with rx := [] }).ports[h].rx = [] := by
    have h1 : (modPort s h fun t => { t with rx := [] }).ports[h] = { s.ports[h] with rx := [] } := updV_same ..
    rw [h1]
  have hsink : (sinkResponses (withdraw (modPort s h fun t => { t with rx := [] }) fun m => m == 0x200 + h.val) (0x200 + h.val) sunk).ports[h].rx = [] := by
    unfold sinkResponses
    split
    · exact hrx
    · exact ((posted_raiseN _ _ _).rx h).trans hrx
  unfold portStreams
  dsimp only
  generalize hs4 : ({ loseClaims _ _ with dict := _ } : State) = s4
  have h4 : s4.ports[h].rx = [] := by
    rw [← hs4]
    exact hsink
  obtain ⟨hr, hall⟩ := foldl_rewound s4 (ownedBy s h) cause detail
  refine ⟨(hr.rx h).trans h4, fun p hp => ?_⟩
  obtain ⟨hc, ho⟩ := hall p (List.mem_filter.2 ⟨List.mem_finRange p, by rw [hp]; exact decide_eq_true rfl⟩)
  exact ⟨fun k hk => hc k (inEntries_mem k hk), ho⟩

end Streams

/-! ### Links -/

section Links

variable {s : State} {h : PortId}

theorem modPort_at (s : State) (h : PortId) (f : Port → Port) : (modPort s h f).ports[h] = f s.ports[h] := updV_same ..

theorem modPort_part (s : State) (h : PortId) (f : Port → Port) : (modPort s h f).parts = s.parts := rfl

/-- A port is as after a reset of its PCIe logic. -/
def PortReset (s t : State) (h : PortId) (link : Nat) (width speed : Byte) : Prop :=
  t.ports[h].link = link ∧ t.ports[h].width = width ∧ t.ports[h].speed = speed ∧ t.ports[h].rx = [] ∧ t.ports[h].msixTable = msixTableReset ∧
  t.ports[h].msixPending = 0 ∧ t.ports[h].cfg = PciCfg.reset ∧ ∀ p : PartId, ownerOf s p = h →
    (∀ k : Fin 8, (k.val ≤ 2 ∨ k.val = 7) → t.parts[p].streams[k].cur = none) ∧ ∀ k : Fin 8, ∀ b, b ∈ t.parts[p].streams[k].out → b.read = 0

theorem portReset_resets (s : State) (h : PortId) (sunk x : Nat) (dt : W32) :
    PortReset s (raiseN (portReset s h sunk) x dt) h s.ports[h].link.val s.ports[h].width s.ports[h].speed := by
  obtain ⟨hrx, hall⟩ := portStreams_ends s h 0x0901 (some (BitVec.ofNat 64 (0x200 + h.val))) sunk
  have hk := (still_portStreams (h1 := h) (cause := 0x0901) (detail := some (BitVec.ofNat 64 (0x200 + h.val))) (sunk := sunk) (.refl s)).solid
  have hl := solid_portLink hk h
  have hw := solid_portWidth hk h
  have hsp := solid_portSpeed hk h
  obtain ⟨l, d, a, o, hr⟩ := raiseN_frame (portReset s h sunk) x dt
  have hports : (raiseN (portReset s h sunk) x dt).ports = (portReset s h sunk).ports := by rw [hr]
  have hparts : (raiseN (portReset s h sunk) x dt).parts = (portReset s h sunk).parts := by rw [hr]
  unfold PortReset
  rw [hports, hparts]
  unfold portReset
  rw [modPort_at, modPort_part]
  exact ⟨congrArg Fin.val hl, hw, hsp, hrx, rfl, rfl, rfl, hall⟩

theorem still_msixFlush {s0 : State} (hs : Still s0 s) : Still s0 (msixFlush s h) := by
  unfold msixFlush
  refine still_foldl hs fun t v ht => ?_
  split
  · exact still_msixSend (still_modPort ht)
  · exact ht

theorem linkUp_idle {width : BitVec 4} {speed : BitVec 3} {volt : BitVec 10} {load : BitVec 2}
    (hc : s.ports[h].fenced = true ∨ s.ports[h].link = 2 ∨ s.boot.state = 8 ∨ bit s.boot.pllGone (20 + h.val) = true ∨ Config.linkTrains width speed = false) :
    exec (.hostLinkUp h width speed volt load) s = .next s := by
  refine congrArg Host.Outcome.next ?_
  unfold linkUpOp
  refine if_pos ?_
  rcases hc with hc | hc | hc | hc | hc <;> simp only [hc, beq_self_eq_true, Bool.or_true, Bool.true_or, Bool.not_false]

theorem linkUp_trains {width : BitVec 4} {speed : BitVec 3} {volt : BitVec 10} {load : BitVec 2} (hd : dead s = false)
    (hf : s.ports[h].fenced = false) (hl : s.ports[h].link ≠ 2) (hb : s.boot.state ≠ 8) (hp : bit s.boot.pllGone (20 + h.val) = false)
    (ht : Config.linkTrains width speed = true) : ∃ t, exec (.hostLinkUp h width speed volt load) s = .next t ∧
      t.ports[h].link = 2 ∧ t.ports[h].width = width.setWidth 8 ∧ t.ports[h].speed = speed.setWidth 8 ∧ t.ports[h].eqOut = false ∧
      t.ports[h].cfg = enumerated s.ports[h].cfg := by
  have hop : ∃ s1 t, linkUpOp s h width speed volt load = t ∧ Still s1 t ∧ s1.ports[h].link = 2 ∧ s1.ports[h].width = width.setWidth 8 ∧
      s1.ports[h].speed = speed.setWidth 8 ∧ s1.ports[h].eqOut = false ∧ s1.ports[h].cfg = enumerated s.ports[h].cfg := by
    refine ⟨modPort s h fun t =>
      { t with link := 2, cfg := enumerated t.cfg, width := width.setWidth 8, speed := speed.setWidth 8, eqOut := false
               eqCal := newRecord t.eqCal (timeOn s h) load.toNat volt.toNat s.pw.dieTemp[h].toNat }, _, rfl, ?_, ?_⟩
    · unfold linkUpOp
      dsimp only
      rw [if_neg]
      · exact still_foldl (still_raiseN (still_msixFlush (.refl _))) fun _ _ hk => still_kick hk
      · rw [hd, hf, hp, ht, beq_eq_false_iff_ne.2 hl, beq_eq_false_iff_ne.2 hb]
        decide
    · rw [modPort_at]
      exact ⟨rfl, rfl, rfl, rfl, rfl⟩
  obtain ⟨s1, t, he, hk, h1, h2, h3, h4, h5⟩ := hop
  refine ⟨t, congrArg Host.Outcome.next he, (solid_portLink hk.solid h).trans h1, (solid_portWidth hk.solid h).trans h2, (solid_portSpeed hk.solid h).trans h3,
    (solid_portEqOut hk.solid h).trans h4, (solid_portCfg hk.solid h).trans h5⟩

theorem linkDown_idle {sunk : Fin 33} (hc : s.ports[h].fenced = true ∨ s.ports[h].link = 0) : exec (.hostLinkDown h sunk) s = .next s := by
  refine congrArg Host.Outcome.next ?_
  unfold linkDown
  rw [if_pos (c := (s.ports[h].fenced || s.ports[h].link == 0) = true), ite_self]
  rcases hc with hc | hc <;> simp only [hc, beq_self_eq_true, Bool.or_true, Bool.true_or]

theorem linkDown_resets {sunk : Fin 33} (hd : dead s = false) (hf : s.ports[h].fenced = false) (hl : s.ports[h].link ≠ 0) :
    ∃ t, exec (.hostLinkDown h sunk) s = .next t ∧ PortReset s t h 0 0 0 := by
  have hr := portReset_resets (modPort s h fun t => { t with link := 0, width := 0, speed := 0 }) h sunk.val (577 + 8 * h.val) 0
  rw [modPort_at] at hr
  refine ⟨_, congrArg Host.Outcome.next ?_, hr⟩
  rw [if_neg (by rw [hd]; decide)]
  unfold linkDown
  rw [if_neg]
  rw [hf, beq_eq_false_iff_ne.2 hl]
  decide

theorem hotReset_resets {sunk : Fin 33} (hd : dead s = false) (hl : s.ports[h].link = 2) : ∃ t, exec (.hotReset h sunk) s = .next t ∧ PortReset s t h 1 0 0 := by
  have hr := portReset_resets (modPort s h fun t => { t with link := 1, width := 0, speed := 0 }) h sunk.val (577 + 8 * h.val) 0
  rw [modPort_at] at hr
  refine ⟨_, congrArg Host.Outcome.next ?_, hr⟩
  unfold hotResetOp
  rw [if_neg]
  rw [hd, hl]
  decide

theorem functionReset_resets {sunk : Fin 33} (hd : dead s = false) (hl : s.ports[h].link = 2) :
    ∃ t, exec (.functionLevelReset h sunk) s = .next t ∧ PortReset s t h 2 s.ports[h].width s.ports[h].speed := by
  have hr := portReset_resets s h sunk.val (578 + 8 * h.val) 0
  rw [hl] at hr
  refine ⟨_, congrArg Host.Outcome.next ?_, hr⟩
  unfold flrOp
  rw [if_neg]
  rw [hd, hl]
  decide

theorem resets_idle {sunk : Fin 33} (hl : s.ports[h].link ≠ 2) : exec (.hotReset h sunk) s = .next s ∧ exec (.functionLevelReset h sunk) s = .next s := by
  have hc : (dead s || s.ports[h].link != 2) = true := by rw [bne_iff_ne.2 hl, Bool.or_true]
  exact ⟨congrArg Host.Outcome.next (if_pos hc), congrArg Host.Outcome.next (if_pos hc)⟩

theorem linkError_idle (hl : s.ports[h].link = 0 ∨ s.ports[h].link = 3) : exec (.correctableLinkError h) s = .next s := by
  refine congrArg Host.Outcome.next (if_pos ?_)
  rcases hl with hl | hl <;> simp only [hl, beq_self_eq_true, Bool.or_true, Bool.true_or]

theorem linkError_counts (hd : dead s = false) (h0 : s.ports[h].link ≠ 0) (h3 : s.ports[h].link ≠ 3) {s1 : State} {n : Nat}
    (hs1 : s1 = modPort (drawWord s).2 h fun p => { p with correctable := p.correctable + 1, cfg := { p.cfg with
        aerCorrectable := p.cfg.aerCorrectable ||| (drawWord s).1.setWidth 32 } }) (hn : n = s.ports[h].correctable + 1) :
    exec (.correctableLinkError h) s = .next (if n = 1 ∨ n % 256 = 0 then raiseN s1 (582 + 8 * h.val) (BitVec.ofNat 32 (n % 65536)) else s1) := by
  subst hs1 hn
  refine congrArg Host.Outcome.next (if_neg ?_)
  rw [hd, beq_eq_false_iff_ne.2 h0, beq_eq_false_iff_ne.2 h3]
  decide

end Links

/-- Settles O38: a reset ends a port's streams partition by partition, and what else follows leaves the port's link alone. -/
theorem hostLinks : Obligations.HostLinks := by
  unfold Obligations.HostLinks
  intro s h sunk hd o isReset
  refine ⟨fun width speed volt load => ⟨fun hc => linkUp_idle hc, fun hf hl hb hp ht => linkUp_trains hd hf hl hb hp ht⟩, fun hc => linkDown_idle hc,
    fun hf hl => linkDown_resets hd hf hl, fun hl => resets_idle hl, fun hl => ⟨hotReset_resets hd hl, functionReset_resets hd hl⟩, fun hl => linkError_idle hl, ?_⟩
  intro h0 h3 s1 n
  exact linkError_counts hd h0 h3 rfl rfl

end Sys2Proof.Machine

/-! PROOF. A bank at rest. -/
namespace Sys2Proof.Machine

-- The frame lemmas here are many and short: checked in turn they take less memory.
set_option Elab.async false

/-! ### A bank at rest stays so -/

/-- The bank has this owner, nothing drains it, and nothing is held for it or waits for it. -/
def calm (o : Byte) (k : Bank) : Prop := k.owner = o ∧ k.drain = none ∧ k.held = [] ∧ k.waiters = []

/-- No access of the dictionary waits, and the bank named, if one is, is calm with its owner. -/
def Rest (x0 : Option (BankId × Byte)) (s : State) : Prop := s.dict.waiting = [] ∧ ∀ y, x0 = some y → calm y.2 s.banks[y.1]

section Rests

variable {x0 : Option (BankId × Byte)}

/-- A change of no bank and of no waiting access. -/
theorem Rest.upd {t u : State} (hw : u.dict.waiting = t.dict.waiting) (hb : u.banks = t.banks) (h : Rest x0 t) : Rest x0 u :=
  ⟨hw.trans h.1, fun y hy => by rw [hb]; exact h.2 y hy⟩

/-- The state that `π` shows of an answer keeps them. (A definition of its own, so that a proof can follow the answer's cases.) -/
def RestBy {α : Type} (π : α → State) (x0 : Option (BankId × Byte)) (x : α) : Prop := Rest x0 (π x)

theorem RestBy.intro {α : Type} {π : α → State} {x : α} (h : Rest x0 (π x)) : RestBy π x0 x := h

/-- An outcome, where there is one, keeps them. -/
def RestIf {α : Type} (π : α → State) (x0 : Option (BankId × Byte)) (o : Option α) : Prop := ∀ x, o = some x → Rest x0 (π x)

theorem RestIf.none {α : Type} {π : α → State} : RestIf π x0 none := fun _ h => nomatch h

theorem RestIf.some {α : Type} {π : α → State} {x : α} (h : Rest x0 (π x)) : RestIf π x0 (some x) := by
  rintro _ ⟨⟩
  exact h

theorem RestIf.bind {α β : Type} {π : α → State} {ρ : β → State} {o : Option α} {f : α → Option β} (h : RestIf π x0 o)
    (hf : ∀ x, Rest x0 (π x) → RestIf ρ x0 (f x)) : RestIf ρ x0 (o.bind f) := by
  intro y hy
  obtain ⟨x, hx, hy⟩ := Option.bind_eq_some_iff.1 hy
  exact hf x (h x hx) y hy

theorem RestIf.map {α β : Type} {π : α → State} {ρ : β → State} {o : Option α} {f : α → β} (h : RestIf π x0 o)
    (hf : ∀ x, Rest x0 (π x) → Rest x0 (ρ (f x))) : RestIf ρ x0 (o.map f) := by
  intro y hy
  obtain ⟨x, hx, rfl⟩ := Option.map_eq_some_iff.1 hy
  exact hf x (h x hx)

theorem Rest.ite {c : Prop} [Decidable c] {x y : State} (hx : c → Rest x0 x) (hy : ¬c → Rest x0 y) : Rest x0 (if c then x else y) := by
  split
  · exact hx ‹_›
  · exact hy ‹_›

theorem Rest.dite {c : Prop} [Decidable c] {x : c → State} {y : ¬c → State} (hx : ∀ h, Rest x0 (x h)) (hy : ∀ h, Rest x0 (y h)) :
    Rest x0 (if h : c then x h else y h) := by
  split
  · exact hx ‹_›
  · exact hy ‹_›

theorem RestBy.ite {α : Type} {π : α → State} {c : Prop} [Decidable c] {x y : α} (hx : c → RestBy π x0 x)
    (hy : ¬c → RestBy π x0 y) : RestBy π x0 (if c then x else y) := by
  split
  · exact hx ‹_›
  · exact hy ‹_›

theorem RestBy.dite {α : Type} {π : α → State} {c : Prop} [Decidable c] {x : c → α} {y : ¬c → α} (hx : ∀ h, RestBy π x0 (x h))
    (hy : ∀ h, RestBy π x0 (y h)) : RestBy π x0 (if h : c then x h else y h) := by
  split
  · exact hx ‹_›
  · exact hy ‹_›

/-- An outcome or, where there is none, the state that stood. -/
theorem RestIf.getD {s : State} {o : Option State} (h : RestIf id x0 o) (hs : Rest x0 s) : Rest x0 (o.getD s) := by
  cases o with
  | none => exact hs
  | some t => exact h t rfl

/-- A fold over an accumulator that carries the state as `π` shows it. -/
theorem rest_foldl_of {α β : Type} {π : β → State} {x : β} {f : β → α → β} {l : List α} (h : Rest x0 (π x))
    (hf : ∀ y a, Rest x0 (π y) → RestBy π x0 (f y a)) : Rest x0 (π (l.foldl f x)) := by
  induction l generalizing x with
  | nil => exact h
  | cons a l ih => exact ih (hf x a h)

theorem rest_foldl {α : Type} {s : State} {f : State → α → State} {l : List α} (h : Rest x0 s) (hf : ∀ t a, Rest x0 t → Rest x0 (f t a)) :
    Rest x0 (l.foldl f s) := rest_foldl_of (π := id) h hf

theorem rest_foldl_snd {α β : Type} {x : β × State} {f : β × State → α → β × State} {l : List α} (h : Rest x0 x.2)
    (hf : ∀ y a, Rest x0 y.2 → RestBy Prod.snd x0 (f y a)) : Rest x0 (l.foldl f x).2 := rest_foldl_of h hf

/-! The answers, by their makers. -/

section Makers

variable {t : State}

theorem RestBy.acc {d : W128} {n : Nat} (h : Rest x0 t) : RestBy Acc.s x0 { data := d, status := n, s := t } := h

theorem RestBy.snd {β : Type} {b : β} (h : Rest x0 t) : RestBy Prod.snd x0 (b, t) := h

theorem RestBy.thd {β γ : Type} {b : β} {c : γ} (h : Rest x0 t) : RestBy third x0 (b, c, t) := h

end Makers


theorem rest_modSeq {s : State} {n : VeId} {f : Core → Core} (h : Rest x0 s) :
    Rest x0 (modSeq s n f) := by
  unfold modSeq
  exact Rest.upd (t:=s) rfl rfl h

theorem rest_modEng {s : State} {n : VeId} {f : Engine → Engine} (h : Rest x0 s) :
    Rest x0 (modEng s n f) := by
  unfold modEng
  exact Rest.upd (t:=s) rfl rfl h

theorem rest_modPart {s : State} {p : PartId} {f : Partition → Partition} (h : Rest x0 s) :
    Rest x0 (modPart s p f) := by
  unfold modPart
  exact Rest.upd (t:=s) rfl rfl h

theorem rest_modBank {s : State} {b : BankId} {f : Bank → Bank} (h : Rest x0 s) (hf : ∀ o k, calm o k → calm o (f k) := by exact fun _ _ hk => hk) :
    Rest x0 (modBank s b f) := by
  refine ⟨h.1, fun y hy => ?_⟩
  have hy := h.2 y hy
  by_cases hb : b = y.1
  · subst hb
    exact (updV_same s.banks y.1 f).symm ▸ hf _ _ hy
  · exact (updV_other s.banks b y.1 f hb).symm ▸ hy

theorem rest_modStack {s : State} {i : StackId} {f : Stack → Stack} (h : Rest x0 s) :
    Rest x0 (modStack s i f) := by
  unfold modStack
  exact Rest.upd (t:=s) rfl rfl h

theorem rest_modPort {s : State} {h1 : PortId} {f : Port → Port} (h : Rest x0 s) :
    Rest x0 (modPort s h1 f) := by
  unfold modPort
  exact Rest.upd (t:=s) rfl rfl h

theorem rest_modCore {s : State} {c : CoreId} {f : Core → Core} (h : Rest x0 s) :
    Rest x0 (modCore s c f) := by
  unfold modCore
  split
  · exact rest_modSeq h
  · exact Rest.upd (t:=s) rfl rfl h

theorem rest_modRegs {s : State} {c : CoreId} {f : Regs → Regs} (h : Rest x0 s) :
    Rest x0 (modRegs s c f) := by
  unfold modRegs
  exact rest_modCore h

theorem rest_emit {s : State} {o : Out} (h : Rest x0 s) :
    Rest x0 (emit s o) := by
  unfold emit
  exact Rest.upd (t:=s) rfl rfl h

theorem rest_drawWord {s : State} (h : Rest x0 s) :
    RestBy Prod.snd x0 (drawWord s) := by
  unfold drawWord
  exact RestBy.snd (Rest.upd (t:=s) rfl rfl h)

theorem rest_setAlert {s : State} {i : ℕ} (h : Rest x0 s) :
    Rest x0 (setAlert s i) := by
  unfold setAlert
  extract_lets +onlyGivenNames c s1 s11
  have hs11 : Rest x0 s11 := Rest.upd (t:=s) rfl rfl h
  clear_value s11
  split
  · exact hs11
  · split
    · exact rest_emit hs11
    · exact Rest.upd (t:=s11) rfl rfl hs11

theorem rest_toTwinState {s : State} {st : Fin 7} (h : Rest x0 s) :
    Rest x0 (toTwinState s st) := by
  unfold toTwinState
  extract_lets +onlyGivenNames s1
  clear_value s1
  extract_lets +onlyGivenNames s11
  have hs11 : Rest x0 s11 := Rest.upd (t:=s) rfl rfl h
  clear_value s11
  split
  · exact rest_setAlert hs11
  · exact hs11

theorem rest_i3cReady {s : State} (h : Rest x0 s) :
    Rest x0 (i3cReady s) := by
  unfold i3cReady
  split
  · exact h
  · extract_lets +onlyGivenNames s1
    clear_value s1
    extract_lets +onlyGivenNames s11
    have hs11 : Rest x0 s11 := Rest.upd (t:=s) rfl rfl h
    clear_value s11
    split
    · exact rest_emit hs11
    · exact Rest.upd (t:=s11) rfl rfl hs11

theorem rest_portAbort {s : State} {h1 : PortId} {ix : ℕ} {sub : ℕ} {write : Bool} {code : ℕ} (h : Rest x0 s) :
    Rest x0 (portAbort s h1 ix sub write code) := by
  unfold portAbort
  exact rest_modPort h

theorem rest_dictRefuse {s : State} {r : Requester} {ix : ℕ} {sub : ℕ} {write : Bool} {code : ℕ} (h : Rest x0 s) :
    Rest x0 (dictRefuse s r ix sub write code) := by
  unfold dictRefuse
  split
  · exact rest_i3cReady (Rest.upd (t:=s) rfl rfl h)
  · extract_lets +onlyGivenNames s1
    have hs1 : Rest x0 s1 := by
      unfold s1
      split
      · exact rest_portAbort h
      · exact h
    clear_value s1
    exact rest_emit hs1

theorem rest_refuseHeld {s : State} {r : Requester} {ix : ℕ} {sub : ℕ} {code : ℕ} (h : Rest x0 s) :
    Rest x0 (refuseHeld s r ix sub code) := by
  unfold refuseHeld
  split
  · exact h
  · exact rest_dictRefuse h

theorem rest_dictFinish {s : State} {r : Requester} (h : Rest x0 s) :
    Rest x0 (dictFinish s r) := by
  unfold dictFinish
  split
  · exact rest_i3cReady h
  · exact rest_emit h

theorem rest_raise {s : State} {x : SrcId} {dt : W32} (h : Rest x0 s) :
    Rest x0 (raise s x dt) := by
  unfold raise
  extract_lets +onlyGivenNames l s1
  clear_value l s1
  extract_lets +onlyGivenNames s11
  have hs11 : Rest x0 s11 := Rest.upd (t:=s) rfl rfl h
  clear_value s11
  split
  · split
    · exact rest_setAlert hs11
    · exact hs11
  · exact hs11

theorem rest_raiseN {s : State} {x : ℕ} {dt : W32} (h : Rest x0 s) :
    Rest x0 (raiseN s x dt) := by
  unfold raiseN
  split
  · exact rest_raise h
  · exact h

theorem rest_fenceEvent {s : State} {kind : ℕ} {number : ℕ} {reason : ℕ} (h : Rest x0 s) :
    Rest x0 (fenceEvent s kind number reason) := by
  unfold fenceEvent
  exact rest_raiseN (Rest.upd (t:=s) rfl rfl h)

theorem rest_hitParts {s : State} {m : W16} (h : Rest x0 s) :
    Rest x0 (hitParts s m) := by
  unfold hitParts
  exact Rest.upd (t:=s) rfl rfl h

theorem rest_fencePc {s : State} {st : StackId} {c : ℕ} {reason : ℕ} (h : Rest x0 s) :
    Rest x0 (fencePc s st c reason) := by
  unfold fencePc
  split
  · exact h
  · extract_lets +onlyGivenNames s1
    have hs1 : Rest x0 s1 := rest_modStack (rest_hitParts h)
    clear_value s1
    exact rest_fenceEvent (rest_raiseN hs1)

theorem rest_bankEvent {s : State} {b : BankId} {kind : ℕ} {code : ℕ} {low : ℕ} (h : Rest x0 s) :
    Rest x0 (bankEvent s b kind code low) := by
  unfold bankEvent
  exact rest_raiseN h

theorem rest_fenceBank {s : State} {b : BankId} {reason : ℕ} (h : Rest x0 s) :
    Rest x0 (fenceBank s b reason) := by
  unfold fenceBank
  split
  · exact h
  · extract_lets +onlyGivenNames s01 sh s1 s2
    have hs01 : Rest x0 s01 := rest_hitParts h
    have hsh : Rest x0 sh := rest_foldl hs01 (fun _ _ h4 => rest_emit h4)
    have hs1 : Rest x0 s1 := rest_modBank hsh fun _ _ hk => ⟨hk.1, rfl, rfl, rfl⟩
    have hs2 : Rest x0 s2 := by
      unfold s2
      split
      · exact rest_refuseHeld hs1
      · exact hs1
    clear_value s01 sh s1 s2
    exact rest_fenceEvent (rest_bankEvent hs2)

theorem rest_corrected {s : State} {u : MemUnit} {code w : Nat} (h : Rest x0 s) : Rest x0 (corrected s u code w) := by
  have hs0 : Rest x0 { s with ceTotal := satInc s.ceTotal, mem := { s.mem with writeBack := insertAsc w s.mem.writeBack } } := .upd (t := s) rfl rfl h
  cases u with
  | pc st c row word =>
    dsimp only [corrected]
    split
    · exact rest_raiseN (rest_modStack hs0)
    · exact rest_modStack hs0
  | bank b =>
    dsimp only [corrected]
    split
    · exact rest_bankEvent (rest_modBank hs0)
    · exact rest_modBank hs0

theorem rest_uncorrectable {s : State} {u : MemUnit} {code w : Nat} {asRead : W128} (h : Rest x0 s) :
    Rest x0 (uncorrectable s u code w asRead) := by
  have hs0 : Rest x0 { s with ueTotal := satInc s.ueTotal, mem := wordPoison s.mem w asRead } := .upd (t := s) rfl rfl h
  cases u with
  | pc st c row word =>
    dsimp only [uncorrectable]
    split
    · exact rest_fencePc (rest_raiseN (rest_modStack hs0))
    · exact rest_raiseN (rest_modStack hs0)
  | bank b =>
    dsimp only [uncorrectable]
    split
    · exact rest_fenceBank (rest_bankEvent (rest_modBank hs0))
    · exact rest_bankEvent (rest_modBank hs0)

theorem rest_poisonedRead {s : State} {u : MemUnit} {code : ℕ} {w : ℕ} (h : Rest x0 s) :
    Rest x0 (poisonedRead s u code w) := by
  unfold poisonedRead
  split
  · exact rest_raiseN h
  · exact rest_bankEvent h

theorem rest_checkWord {s : State} {u : MemUnit} {code : ℕ} {w : ℕ} (h : Rest x0 s) :
    RestBy Acc.s x0 (checkWord s u code w) := by
  unfold checkWord
  extract_lets +onlyGivenNames v
  clear_value v
  split
  · split
    · extract_lets +onlyGivenNames bad
      clear_value bad
      exact RestBy.acc (rest_uncorrectable h)
    · split
      · exact RestBy.acc (rest_poisonedRead (rest_corrected h))
      · exact RestBy.acc (rest_corrected h)
  · split
    · exact RestBy.acc (rest_poisonedRead h)
    · exact RestBy.acc h

theorem rest_nonOwner {s : State} {b : BankId} {code : ℕ} {w : ℕ} {write : Bool} (h : Rest x0 s) :
    Rest x0 (nonOwner s b code w write) := by
  unfold nonOwner
  exact rest_bankEvent (rest_modBank h)

theorem rest_readWord {s : State} {d : ℕ} {code : ℕ} {a : ℕ} (h : Rest x0 s) :
    RestBy Acc.s x0 (readWord s d code a) := by
  unfold readWord
  split
  · exact RestBy.acc h
  · split
    · exact RestBy.acc h
    · split
      · split
        · exact rest_checkWord h
        · exact RestBy.acc h
        · exact RestBy.acc (rest_nonOwner h)
      · exact rest_checkWord h

theorem rest_tapWord {s : State} {d : ℕ} {b : BankId} {code : ℕ} {a : ℕ} (h : Rest x0 s) :
    RestBy Acc.s x0 (tapWord s d b code a) := by
  unfold tapWord
  split
  · exact RestBy.acc h
  · exact rest_checkWord h

theorem rest_orWord {s : State} {d a : Nat} {v : W128} (h : Rest x0 s) : Rest x0 (orWord s d a v) := by
  unfold orWord
  split
  · split
    · exact h
    · extract_lets r
      have hr : Rest x0 r.s := rest_checkWord h
      clear_value r
      split
      · exact hr
      · exact .upd (t := r.s) rfl rfl hr
  · exact h

theorem rest_dirtyMark {s : State} {a : ℕ} (h : Rest x0 s) :
    Rest x0 (dirtyMark s a) := by
  unfold dirtyMark
  split
  · exact h
  · split
    · exact h
    · extract_lets +onlyGivenNames inside
      clear_value inside
      extract_lets +onlyGivenNames inside1
      clear_value inside1
      extract_lets +onlyGivenNames inside2
      clear_value inside2
      extract_lets +onlyGivenNames inside3
      clear_value inside3
      split
      · extract_lets +onlyGivenNames g
        clear_value g
        exact rest_orWord h
      · exact h

theorem rest_writeMasked {s : State} {d code a : Nat} {v : W128} {mask : List Bool} (h : Rest x0 s) :
    RestBy Acc.s x0 (writeMasked s d code a v mask) := by
  unfold writeMasked
  split
  · exact h
  · split
    · exact h
    · extract_lets own r
      have hr : Rest x0 r.s := rest_checkWord h
      clear_value own r
      split
      · exact h
      · split
        · split
          · exact rest_nonOwner h
          · exact h
        · split
          · exact rest_dirtyMark (.upd (t := s) rfl rfl h)
          · split
            · exact hr
            · exact rest_dirtyMark (.upd (t := r.s) rfl rfl hr)

theorem rest_msixSend {s : State} {h1 : PortId} {v : ℕ} (h : Rest x0 s) :
    Rest x0 (msixSend s h1 v) := by
  unfold msixSend
  split
  · exact rest_modPort h
  · extract_lets +onlyGivenNames t
    clear_value t
    exact rest_emit h

theorem rest_msix {s : State} {p : PartId} (h : Rest x0 s) :
    Rest x0 (msix s p) := by
  unfold msix
  extract_lets +onlyGivenNames h1
  split
  · exact h
  · extract_lets +onlyGivenNames c s1 s2
    have hs1 : Rest x0 s1 := by
      unfold s1
      split
      · exact rest_modPart (rest_msixSend h)
      · exact h
    have hs2 : Rest x0 s2 := by
      unfold s2
      split
      · exact rest_modPart (rest_msixSend hs1)
      · exact hs1
    clear_value c s1 s2
    split
    · exact rest_modPart (rest_msixSend hs2)
    · exact hs2

theorem rest_sendFrame {s : State} {kind : Byte} {payload : List W128} (h : Rest x0 s) :
    Rest x0 (sendFrame s kind payload) := by
  unfold sendFrame
  split
  · extract_lets +onlyGivenNames t
    clear_value t
    exact rest_emit (Rest.upd (t:=s) rfl rfl h)
  · exact h

theorem rest_ledgerPut {s : State} {p : PartId} {r : W128} (h : Rest x0 s) :
    Rest x0 (ledgerPut s p r) := by
  unfold ledgerPut
  extract_lets +onlyGivenNames cause
  clear_value cause
  exact rest_msix (rest_modPart h)

theorem rest_ledgerEnd {s : State} {p : PartId} {item : W32} {kind : ℕ} {cause : ℕ} {detail : W64} (h : Rest x0 s) :
    Rest x0 (ledgerEnd s p item kind cause detail) := by
  unfold ledgerEnd
  extract_lets +onlyGivenNames r
  clear_value r
  split
  · split
    · extract_lets +onlyGivenNames seq
      clear_value seq
      exact rest_modPart (rest_sendFrame h)
    · exact h
  · exact rest_ledgerPut h

theorem rest_landEdit {p : PartId} {s : State} {e : Edit} (h : Rest x0 s) :
    Rest x0 (landEdit p s e) := by
  unfold landEdit
  extract_lets +onlyGivenNames s1
  have hs1 : Rest x0 s1 := rest_modPart h
  clear_value s1
  split
  · exact rest_dictFinish hs1
  · exact hs1

theorem rest_applyEdits {s : State} {p : PartId} {ok : Edit → Bool} (h : Rest x0 s) :
    Rest x0 (applyEdits s p ok) := by
  unfold applyEdits
  exact rest_foldl (rest_modPart h) (fun _ _ h2 => rest_landEdit h2)

theorem rest_applySwap {s : State} {p : PartId} (h : Rest x0 s) :
    Rest x0 (applySwap s p) := by
  unfold applySwap
  split
  · extract_lets +onlyGivenNames s1 q
    have hs1 : Rest x0 s1 := rest_modPart h
    clear_value s1 q
    exact rest_raiseN hs1
  · exact h

theorem rest_tablesEnd {s : State} {p : PartId} (h : Rest x0 s) :
    Rest x0 (tablesEnd s p) := by
  unfold tablesEnd
  exact rest_applyEdits (rest_applySwap (rest_applyEdits h))

theorem rest_settle {s : State} {p : PartId} (h : Rest x0 s) :
    Rest x0 (settle s p) := by
  unfold settle
  exact rest_modPart h

theorem rest_doneEvent {how : ℕ} {p : PartId} {s : State} {n : VeId} (h : Rest x0 s) :
    Rest x0 (doneEvent how p s n) := by
  unfold doneEvent
  exact rest_raiseN h

theorem rest_freeTriggers {s : State} {p : PartId} (h : Rest x0 s) :
    Rest x0 (freeTriggers s p) := by
  unfold freeTriggers
  split
  · exact rest_modPart (Rest.upd (t:=s) rfl rfl h)
  · exact rest_modPart h

theorem rest_disarm {s : State} {p : PartId} (h : Rest x0 s) :
    Rest x0 (disarm s p) := by
  unfold disarm
  exact rest_modPart (rest_foldl h (fun _ _ h3 => rest_modEng h3))

theorem rest_stopSeq {s : State} {n : VeId} (h : Rest x0 s) :
    Rest x0 (stopSeq s n) := by
  unfold stopSeq
  extract_lets +onlyGivenNames s1
  have hs1 : Rest x0 s1 := rest_modSeq h
  clear_value s1
  exact rest_modEng hs1

theorem rest_failRun {s : State} {p : PartId} {cause : ℕ} {detail : W64} (h : Rest x0 s) :
    Rest x0 (failRun s p cause detail) := by
  unfold failRun
  split
  · exact h
  · extract_lets +onlyGivenNames b s1 s2 s3 s4
    have hs1 : Rest x0 s1 := rest_disarm (rest_foldl h (fun _ _ h5 => rest_stopSeq h5))
    have hs2 : Rest x0 s2 := rest_modPart hs1
    have hs3 : Rest x0 s3 := rest_foldl (rest_freeTriggers hs2) (fun _ _ h4 => rest_doneEvent h4)
    have hs4 : Rest x0 s4 := rest_tablesEnd hs3
    clear_value b s1 s2 s3 s4
    exact rest_settle (rest_ledgerEnd hs4)

theorem rest_failSegment {s : State} {p : PartId} {cause : ℕ} {detail : W64} (h : Rest x0 s) :
    Rest x0 (failSegment s p cause detail) := by
  unfold failSegment
  split
  · exact h
  · split
    · split
      · exact rest_failRun (rest_sendFrame h)
      · extract_lets +onlyGivenNames s1
        have hs1 : Rest x0 s1 := rest_sendFrame h
        clear_value s1
        exact rest_failRun (rest_toTwinState hs1)
    · exact rest_failRun h

theorem rest_commitDone {s : State} {pd : Pending} {parts : List PartId} {cause : ℕ} {code : ℕ} {detail : W64} (h : Rest x0 s) :
    Rest x0 (commitDone s pd parts cause code detail) := by
  unfold commitDone
  extract_lets +onlyGivenNames s1 s11
  have hs11 : Rest x0 s11 := Rest.upd (t:=s) rfl rfl h
  clear_value s11
  exact rest_foldl hs11 (fun _ _ h4 => rest_ledgerEnd h4)

theorem rest_loseClaims {s : State} {which : Claim → Bool} (h : Rest x0 s) :
    Rest x0 (loseClaims s which) := by
  unfold loseClaims
  extract_lets +onlyGivenNames gone
  clear_value gone
  exact Rest.upd (t:=s) rfl rfl h

theorem rest_crossWay {m : MasterKind} {way : List (ℕ × ℕ)} {s : State} (h : Rest x0 s) :
    Rest x0 (crossWay m way s) := by
  unfold crossWay
  split
  · exact h
  · exact Rest.upd (t:=s) rfl rfl h

theorem rest_portTake_mgt {s : State} {slot : ℕ} (h : Rest x0 s) :
    Rest x0 (portTake.mgt s slot) := by
  unfold portTake.mgt
  exact Rest.upd (t:=s) rfl rfl h

theorem rest_portTake {s : State} {a : MasterKind} (h : Rest x0 s) :
    Rest x0 (portTake s a) := by
  unfold portTake
  split
  · exact Rest.upd (t:=s) rfl rfl h
  · exact rest_portTake_mgt h
  · exact rest_portTake_mgt h
  · exact rest_portTake_mgt h
  · exact rest_portTake_mgt h
  · exact h

theorem rest_bridgesTake {slot : ℕ} {l : List (ℕ × ℕ)} {s : State} (h : Rest x0 s) :
    Rest x0 (bridgesTake slot l s) := by
  induction l generalizing slot s with
  | nil =>
    rw [bridgesTake]
    exact h
  | cons x xs ih =>
    rw [bridgesTake]
    exact ih (Rest.upd (t:=s) rfl rfl h)

theorem rest_targetTake {s : State} {m : MasterKind} {viaTap : Bool} {a : MemUnit} (h : Rest x0 s) :
    Rest x0 (targetTake s m viaTap a) := by
  unfold targetTake
  split
  · exact Rest.upd (t:=s) rfl rfl h
  · split
    · exact Rest.upd (t:=s) rfl rfl h
    · exact h

theorem rest_pathTake {s : State} {m : MasterKind} {u : MemUnit} {viaTap : Bool} (h : Rest x0 s) :
    Rest x0 (pathTake s m u viaTap) := by
  unfold pathTake
  extract_lets +onlyGivenNames w
  clear_value w
  exact rest_targetTake (rest_crossWay (rest_bridgesTake (rest_portTake h)))

theorem rest_via {s : State} {m : MasterKind} {a : Nat} {f : State → Acc} (h : Rest x0 s) (hf : ∀ t, Rest x0 t → RestBy Acc.s x0 (f t)) :
    RestBy Acc.s x0 (via s m a f) := by
  unfold via
  split
  · exact h
  · split
    · exact h
    · split
      · exact h
      · exact hf _ (rest_pathTake h)

theorem rest_noteWait {s : State} {m : MasterKind} {a : ℕ} (h : Rest x0 s) :
    Rest x0 (noteWait s m a) := by
  unfold noteWait
  split
  · split
    next b _ hw =>
      refine ⟨h.1, fun y hy => ?_⟩
      obtain ⟨ho, hd, hrest⟩ := h.2 y hy
      have hb : b ≠ y.1 := by
        rintro rfl
        have hne : ownerCheck s.banks[y.1] (masterCode s y.1 m) ≠ 9 := by
          rw [ownerCheck, hd]
          dsimp only
          split <;> decide
        exact hne hw.1
      exact (updV_other s.banks b y.1 _ hb).symm ▸ h.2 y hy
    · exact h
  · exact h

theorem rest_setFreeze {s : State} {i : ℕ} {v : Bool} (h : Rest x0 s) :
    Rest x0 (setFreeze s i v) := by
  unfold setFreeze
  extract_lets +onlyGivenNames f up
  clear_value f
  exact Rest.upd (t:=s) rfl rfl h

theorem rest_freezeWrite {s : State} {a : ℕ} {v : Bool} (h : Rest x0 s) :
    Rest x0 (freezeWrite s a v) := by
  unfold freezeWrite
  split
  · exact rest_setFreeze h
  · exact h

theorem rest_readPart {s : State} {p : PartId} {m : MasterKind} {code : ℕ} {space : Bool} {x : ℕ} (h : Rest x0 s) :
    RestBy Acc.s x0 (readPart s p m code space x) := by
  unfold readPart
  split
  · exact rest_via h (fun _ h3 => rest_readWord h3)
  · exact RestBy.acc h

theorem rest_writePart {s : State} {p : PartId} {m : MasterKind} {code : ℕ} {space : Bool} {x : ℕ} {v : W128} {mask : List Bool} (h : Rest x0 s) :
    RestBy Acc.s x0 (writePart s p m code space x v mask) := by
  unfold writePart
  split
  · exact rest_via h (fun _ h3 => rest_writeMasked h3)
  · exact RestBy.acc h

theorem rest_noteWaitAt {s : State} {p : PartId} {m : MasterKind} {space : Bool} {x : ℕ} (h : Rest x0 s) :
    Rest x0 (noteWaitAt s p m space x) := by
  unfold noteWaitAt
  split
  · exact rest_noteWait h
  · exact h

theorem rest_writeRun {s : State} {p : PartId} {m : MasterKind} {code : ℕ} {space : Bool} {x : ℕ} {l : List W128} (h : Rest x0 s) :
    RestBy Prod.snd x0 (writeRun s p m code space x l) := by
  induction l generalizing s x with
  | nil =>
    rw [writeRun]
    exact RestBy.snd h
  | cons x xs ih =>
    rw [writeRun]
    split
    · exact RestBy.snd (rest_writePart h)
    · exact RestBy.intro (ih (rest_writePart h))

theorem rest_noteCore {s : State} {c : CoreId} {w : Want} {a : ℕ} (h : Rest x0 s) :
    Rest x0 (noteCore s c w a) := by
  unfold noteCore
  split
  · exact h
  · split
    · exact rest_noteWaitAt h
    · exact h

theorem rest_internalVia {s : State} {f : State → Acc} (h : Rest x0 s) (hf : ∀ t, Rest x0 t → RestBy Acc.s x0 (f t)) :
    RestBy Acc.s x0 (internalVia s f) := by
  unfold internalVia
  split
  · exact RestBy.acc h
  · exact RestBy.intro (hf _ (rest_portTake h))

theorem rest_internalWord {s : State} {a : ℕ} (h : Rest x0 s) :
    RestBy Acc.s x0 (internalWord s a) := by
  unfold internalWord
  split
  · exact RestBy.acc h
  · split
    · exact RestBy.acc h
    · split
      · exact RestBy.acc h
      · exact RestBy.acc (rest_drawWord h)

theorem rest_coreRead {s : State} {c : CoreId} {w : Want} {a : ℕ} (h : Rest x0 s) :
    RestBy Acc.s x0 (coreRead s c w a) := by
  unfold coreRead
  split
  · split
    · exact RestBy.acc h
    · exact rest_readPart h
  · split
    · exact rest_via h (fun _ h4 => rest_readWord h4)
    · exact rest_internalVia h (fun _ h4 => rest_internalWord h4)

theorem rest_journalQueue {s : State} {m : MasterKind} {code : ℕ} {p : PartId} {i : ℕ} (h : Rest x0 s) :
    RestBy Prod.snd x0 (journalQueue s m code p i) := by
  unfold journalQueue
  split
  · exact RestBy.snd h
  · split
    · split
      · extract_lets +onlyGivenNames r t w
        have hr : RestBy Prod.snd x0 r := rest_drawWord h
        have ht : RestBy Prod.snd x0 t := rest_drawWord hr
        have hw : RestBy Prod.snd x0 w := rest_writeRun ht
        clear_value r t w
        split
        · exact RestBy.snd h
        · exact RestBy.snd hw
      · exact RestBy.snd h
    · exact RestBy.snd h

theorem rest_veWrite {s : State} {n : VeId} {u : ℕ} {p : PartId} {space : Bool} {x : ℕ} {v : W128} {mask : List Bool} (h : Rest x0 s) :
    RestBy Acc.s x0 (veWrite s n u p space x v mask) := by
  unfold veWrite
  extract_lets +onlyGivenNames q
  clear_value q
  split
  · split
    · split
      · exact RestBy.acc h
      · extract_lets +onlyGivenNames lve w j
        have hj : RestBy Prod.snd x0 j := rest_journalQueue h
        clear_value lve w j
        refine RestBy.acc ?_
        split
        · exact rest_modPart hj
        · exact h
    · exact rest_writePart h
  · exact rest_writePart h

theorem rest_setFreezeOf {s : State} {a : ℕ} {v : W128} {mask : List Bool} (h : Rest x0 s) :
    Rest x0 (setFreezeOf s a v mask) := by
  unfold setFreezeOf
  split
  · exact rest_freezeWrite h
  · exact h

theorem rest_internalStore {s : State} {a : Nat} {v : W128} {mask : List Bool} (h : Rest x0 s) :
    Rest x0 (internalStore s a v mask) := by
  unfold internalStore
  extract_lets m put
  have hput : ∀ off, Rest x0 (put off) := fun off => .upd (t := s) rfl rfl h
  split
  · exact hput _
  · split
    · exact hput _
    · exact rest_setFreezeOf h

theorem rest_coreWrite {s : State} {c : CoreId} {a : ℕ} {v : W128} {mask : List Bool} (h : Rest x0 s) :
    RestBy Acc.s x0 (coreWrite s c a v mask) := by
  unfold coreWrite
  split
  · split
    · exact RestBy.acc h
    · exact rest_veWrite h
  · split
    · exact rest_via h (fun _ h4 => rest_writeMasked h4)
    · exact rest_internalVia h (fun _ h4 => RestBy.acc (rest_internalStore h4))

theorem rest_cacheStore {s : State} {c : CoreId} {a : ℕ} {v : W128} {mask : List Bool} (h : Rest x0 s) :
    Rest x0 (cacheStore s c a v mask) := by
  unfold cacheStore
  extract_lets +onlyGivenNames x
  clear_value x
  exact rest_modCore h

theorem rest_coreStore {s : State} {c : CoreId} {a : ℕ} {v : W128} {mask : List Bool} (h : Rest x0 s) :
    RestBy Acc.s x0 (coreStore s c a v mask) := by
  unfold coreStore
  extract_lets +onlyGivenNames r
  have hr : RestBy Acc.s x0 r := rest_coreWrite h
  clear_value r
  split
  · exact RestBy.acc (rest_cacheStore hr)
  · exact hr

theorem rest_lineRead {s : State} {c : CoreId} {l : ℕ} (h : Rest x0 s) :
    RestBy Prod.snd x0 (lineRead s c l) := by
  unfold lineRead
  refine RestBy.intro ?_
  refine rest_foldl_snd h ?_
  intro y3 x31 h3
  extract_lets +onlyGivenNames r
  have hr : RestBy Acc.s x0 r := rest_coreRead h3
  clear_value r
  exact RestBy.snd hr

theorem rest_aheadRead {c : CoreId} {ws : List ℕ} {s : State} (h : Rest x0 s) :
    RestBy Prod.snd x0 (aheadRead c ws s) := by
  unfold aheadRead
  refine RestBy.intro ?_
  refine rest_foldl_snd h ?_
  intro y3 x31 h3
  extract_lets +onlyGivenNames r
  have hr : RestBy Acc.s x0 r := rest_coreRead h3
  clear_value r
  split
  · exact RestBy.intro h3
  · exact RestBy.snd hr

theorem rest_fetchDet {s : State} {c : CoreId} {a : ℕ} (h : Rest x0 s) :
    RestBy Prod.snd x0 (fetchDet s c a) := by
  unfold fetchDet
  extract_lets +onlyGivenNames f old onward known want r all t
  have hr : RestBy Prod.snd x0 r := rest_aheadRead h
  have ht : Rest x0 t := rest_modCore hr
  clear_value f old onward known want r all t
  split
  · exact RestBy.snd ht
  · exact RestBy.snd ht

theorem rest_fetchAt {s : State} {c : CoreId} {a : ℕ} (h : Rest x0 s) :
    RestBy Prod.snd x0 (fetchAt s c a) := by
  unfold fetchAt
  extract_lets +onlyGivenNames k
  clear_value k
  split
  · exact RestBy.snd (rest_noteCore h)
  · split
    · exact RestBy.snd h
    · split
      · extract_lets +onlyGivenNames r
        have hr : RestBy Prod.snd x0 r := rest_fetchDet h
        clear_value r
        split
        · exact RestBy.snd h
        · exact hr
      · extract_lets +onlyGivenNames l f
        clear_value l f
        split
        · exact RestBy.snd (rest_modCore h)
        · extract_lets +onlyGivenNames r k1
          have hr : RestBy Prod.snd x0 r := rest_lineRead h
          clear_value r k1
          split
          · exact RestBy.snd h
          · exact RestBy.snd (rest_modCore hr)

theorem rest_coreEvent {s : State} {c : CoreId} {i : ℕ} {dt : W32} (h : Rest x0 s) :
    Rest x0 (coreEvent s c i dt) := by
  unfold coreEvent
  split
  · exact rest_raiseN h
  · split
    · exact rest_raiseN h
    · split
      · exact rest_raiseN h
      · exact h

theorem rest_warmRestart {s : State} (h : Rest x0 s) :
    Rest x0 (warmRestart s) := by
  unfold warmRestart
  extract_lets +onlyGivenNames s1 s2
  clear_value s1 s2
  extract_lets +onlyGivenNames s11 s21
  have hs11 : Rest x0 s11 := Rest.upd (t:=s) rfl rfl h
  have hs21 : Rest x0 s21 := rest_loseClaims hs11
  clear_value s11 s21
  exact rest_foldl hs21 (fun _ _ h4 => rest_commitDone h4)

theorem rest_doubleFault {s : State} {c : CoreId} {reason : ℕ} {v : ℕ} {pc : Addr} {cause : W64} {detail : W64} (h : Rest x0 s) :
    Rest x0 (doubleFault s c reason v pc cause detail) := by
  unfold doubleFault
  extract_lets +onlyGivenNames e s1
  have hs1 : Rest x0 s1 := rest_coreEvent (rest_modCore h)
  clear_value e s1
  split
  · extract_lets +onlyGivenNames s2
    have hs2 : Rest x0 s2 := rest_modEng (rest_modSeq hs1)
    clear_value s2
    split
    · exact rest_failSegment hs2
    · exact hs2
  · exact rest_warmRestart hs1

theorem rest_frameWrite {s : State} {c : CoreId} {a : ℕ} {lo : W128} {hi : W128} (h : Rest x0 s) :
    RestIf id x0 (frameWrite s c a lo hi) := by
  unfold frameWrite
  extract_lets +onlyGivenNames x y
  have hx : RestBy Acc.s x0 x := rest_coreStore h
  have hy : RestBy Acc.s x0 y := rest_coreStore hx
  clear_value x y
  split
  · exact RestIf.none
  · exact RestIf.some hy

theorem rest_enter {s : State} {c : CoreId} {v : ℕ} {code : ℕ} {qual : ℕ} {detail : W64} {saved : Addr} (h : Rest x0 s) :
    Rest x0 (enter s c v code qual detail saved) := by
  unfold enter
  extract_lets +onlyGivenNames r g7 cause
  clear_value r g7 cause
  split
  · exact rest_doubleFault h
  · extract_lets +onlyGivenNames a k1 k2 wait
    have hwait : Rest x0 wait := rest_modCore (rest_noteCore (rest_noteCore h))
    clear_value a k1 k2 wait
    split
    · exact rest_doubleFault h
    · split
      · exact rest_doubleFault h
      · split
        · exact hwait
        · split
          · exact hwait
          · extract_lets +onlyGivenNames s3 f
            have hs3 : Rest x0 s3 := by
              unfold s3
              refine rest_modRegs ?_
              rename_i hk
              exact rest_frameWrite h _ hk
            have hf : RestBy Prod.snd x0 f := rest_fetchAt hs3
            clear_value s3 f
            split
            · exact rest_doubleFault hf
            · exact hf

theorem rest_resumeEntry {s : State} {c : CoreId} (h : Rest x0 s) :
    Rest x0 (resumeEntry s c) := by
  unfold resumeEntry
  split
  · split
    · exact rest_enter (rest_modCore h)
    · exact h
  · exact h

theorem rest_fragRead {m : MasterKind} {code : ℕ} {tap : Option BankId} {l : List (ℕ × List Bool)} {s : State} (h : Rest x0 s) :
    RestBy third x0 (fragRead m code tap l s) := by
  induction l generalizing s with
  | nil =>
    unfold fragRead
    exact RestBy.thd h
  | cons x xs ih =>
    unfold fragRead
    extract_lets +onlyGivenNames x1 y
    have hx1 : RestBy Acc.s x0 x1 := by
      unfold x1
      split
      · exact rest_tapWord h
      · exact rest_readWord h
    have hy : RestBy third x0 y := RestBy.intro (ih hx1)
    exact RestBy.thd hy

theorem rest_fragWrite {m : MasterKind} {code : ℕ} {f : Frag} {data : List Byte} {en : List Bool} {l : List (ℕ × List Bool)} {s : State} (h : Rest x0 s) :
    RestBy Prod.snd x0 (fragWrite m code f data en l s) := by
  induction l generalizing s with
  | nil =>
    rw [fragWrite]
    exact RestBy.snd h
  | cons x xs ih =>
    rw [fragWrite]
    split
    · exact RestBy.intro (ih h)
    · extract_lets +onlyGivenNames x1 y
      have hx1 : RestBy Acc.s x0 x1 := by
        unfold x1
        split
        · exact rest_veWrite h
        · exact rest_writeMasked h
      have hy : RestBy Prod.snd x0 y := RestBy.intro (ih hx1)
      exact RestBy.snd hy

theorem rest_admitHeld {s : State} {x : HeldFrag} (h : Rest x0 s) :
    Rest x0 (admitHeld s x) := by
  unfold admitHeld
  extract_lets +onlyGivenNames m
  clear_value m
  split
  · extract_lets +onlyGivenNames code
    clear_value code
    split
    · extract_lets +onlyGivenNames r
      have hr : RestBy third x0 r := rest_fragRead h
      clear_value r
      exact rest_emit hr
    · extract_lets +onlyGivenNames r
      have hr : RestBy Prod.snd x0 r := rest_fragWrite h
      clear_value r
      exact rest_emit hr
  · exact h

theorem rest_drainWriter {s : State} {a : DrainFor} (h : Rest x0 s) :
    Rest x0 (drainWriter s a) := by
  unfold drainWriter
  split
  · exact rest_dictFinish h
  · exact h
  · exact h

end Rests

end Sys2Proof.Machine

/-! PROOF. The owner of a bank and its drain (O47). -/
namespace Sys2Proof.Machine

/-! ### The owner of a bank and its drain (R233, R234) -/

section Owners

variable {s : State} {r : Requester}

theorem bankEntry_owner (b : BankId) : entryAt s r (0x5000 + b.val) 2 = eOf .u8 .rw (bv s.banks[b].owner) (ownerOk b) := by
  have hb := b.isLt
  rw [entryAt, if_neg (by omega), if_neg (by omega), dif_neg (by omega), dif_neg (by omega), dif_neg (by omega), if_neg (by omega),
    dif_neg (by omega), dif_pos (by omega)]
  simp only [Nat.add_sub_cancel_left]
  rfl

/-- A written owner is a byte. -/
theorem Serves.owner_lt {b : BankId} {a : DAcc} {v : Nat} (h : Serves s r (0x5000 + b.val) 2 a v) : v < 256 := by
  obtain ⟨-, -, -, e, he, -, -, -, hlt, -⟩ := h
  rw [bankEntry_owner] at he
  cases he
  exact hlt

theorem singleWrite_owner (b : BankId) (v : Nat) (sunk : Sunk) : singleWrite s r (0x5000 + b.val) 2 v sunk = ownerWrite s r b v := by
  rw [singleWrite_bank, bankWrite, if_pos rfl]

theorem ownerWrite_refused {b : BankId} {v : Nat} (h : firstCode (ownerRules s b v) ≠ 0) :
    ownerWrite s r b v = (s, .refused (firstCode (ownerRules s b v))) := if_pos h

theorem ownerWrite_present {b : BankId} {v : Nat} (h : firstCode (ownerRules s b v) = 0) (ho : s.banks[b].owner.toNat = v) :
    ownerWrite s r b v = (s, .done) := by
  rw [ownerWrite]
  simp only [h, ho, ne_eq, not_true_eq_false, if_false, if_true]

theorem ownerWrite_other {b : BankId} {v : Nat} (h : firstCode (ownerRules s b v) = 0) (ho : s.banks[b].owner.toNat ≠ v) :
    ownerWrite s r b v = (startDrain s b (BitVec.ofNat 8 v) (.write r), .held) := by
  rw [ownerWrite]
  simp only [h, ne_eq, not_true_eq_false, if_false, if_neg ho]

/-- Where each rule has a code, a code of 0 says that no rule fails. -/
theorem firstCode_eq_zero {l : List (Bool × Nat)} (hl : ∀ x ∈ l, x.2 ≠ 0) (h : firstCode l = 0) : ∀ x ∈ l, x.1 = false := by
  induction l with
  | nil => exact fun _ hx => absurd hx List.not_mem_nil
  | cons y l ih =>
    rw [firstCode] at h
    split at h
    · exact absurd h (hl y List.mem_cons_self)
    next hy =>
      intro x hx
      rcases List.mem_cons.1 hx with rfl | hx
      · exact Bool.eq_false_of_not_eq_true hy
      · exact ih (fun x hx => hl x (List.mem_cons_of_mem _ hx)) h x hx

/-- A bank whose new owner breaks no rule has no fence and no drain. -/
theorem ownerRules_zero {b : BankId} {v : Nat} (h : firstCode (ownerRules s b v) = 0) : s.banks[b].fenced = false ∧ s.banks[b].drain = none := by
  have hall := firstCode_eq_zero (l := ownerRules s b v) (by simp [ownerRules]) h
  have hf : s.banks[b].fenced = false := hall (s.banks[b].fenced, 0x0008) (by simp [ownerRules])
  have hd := hall (s.banks[b].drain.isSome && !s.banks[b].fenced, 0x0007) (by simp [ownerRules])
  rw [hf, Bool.not_false, Bool.and_true] at hd
  exact ⟨hf, Option.isSome_eq_false_iff.1 hd |> Option.isNone_iff_eq_none.1⟩

theorem dropLines_frame (s : State) (b : BankId) : (dropLines s b).banks = s.banks ∧ (dropLines s b).outs = s.outs ∧ (dropLines s b).mem = s.mem ∧
    (dropLines s b).parts = s.parts ∧ (dropLines s b).twin = s.twin := by
  rw [dropLines]
  split
  · dsimp only
    split
    · exact ⟨rfl, rfl, rfl, rfl, rfl⟩
    · exact ⟨rfl, rfl, rfl, rfl, rfl⟩
  · exact ⟨rfl, rfl, rfl, rfl, rfl⟩

/-- A drain that starts. -/
theorem startDrain_starts {b : BankId} {new : Byte} {why : DrainFor} (hf : s.banks[b].fenced = false) (hd : s.banks[b].drain = none)
    (ho : s.banks[b].owner ≠ new) : startDrain s b new why = modBank (dropLines s b) b fun k => { k with drain := some (new, why) } := by
  rw [startDrain]
  simp only [hf, Bool.false_eq_true, if_false, hd, if_neg ho]

theorem indexPart_bank (t : State) (b : BankId) : indexPart t (0x5000 + b.val) = bankPart t b := by
  have hb := b.isLt
  rw [indexPart, dif_neg (by omega), dif_neg (by omega), dif_neg (by omega), dif_neg (by omega), dif_pos (by omega)]
  simp only [Nat.add_sub_cancel_left]

/-- The owner of a bank whose partition has no twin at work is not forwarded. -/
theorem forwardSingle_owner {t : State} {b : BankId} {v : Nat} {e : Entry} (h : ∀ p, bankPart t b = some p → forwards t p = false) :
    forwardSingle t (0x5000 + b.val) 2 v e = t := by
  have hb := b.isLt
  rw [forwardSingle, if_neg (by omega : ¬(0x2000 ≤ 0x5000 + b.val ∧ 0x5000 + b.val < 0x2010)),
    if_neg (by omega : ¬(0x3000 ≤ 0x5000 + b.val ∧ 0x5000 + b.val < 0x3040)),
    if_pos (by omega : 0x5000 ≤ 0x5000 + b.val ∧ 0x5000 + b.val < 0x5100), if_pos rfl, indexPart_bank]
  split
  next p hp =>
    split at hp
    · cases hp
    · rw [h p hp]
      rfl
  · rfl

/-- A held answer over I3C leaves the banks, memory and the outputs as they are. -/
theorem answerHeld_frame (t : State) (ix sub : Nat) : (answerWrite t r ix sub .held).banks = t.banks ∧
    (answerWrite t r ix sub .held).outs = t.outs ∧ (answerWrite t r ix sub .held).mem = t.mem := by
  rw [answerWrite]
  split
  · exact ⟨rfl, rfl, rfl⟩
  · exact ⟨rfl, rfl, rfl⟩

end Owners

/-! ### The end of a drain -/

section Drains

variable {s : State} {b : BankId} {new : Byte} {why : DrainFor} {x0 : Option (BankId × Byte)}

theorem rest_resumeWaiters {ms : List (BitVec 10)} (h : Rest x0 s) : Rest x0 (resumeWaiters s ms) := by
  unfold resumeWaiters
  refine rest_foldl h fun t m ht => ?_
  split
  · exact rest_resumeEntry ht
  · exact ht

theorem finishDrain_eq (hd : s.banks[b].drain = some (new, why)) : finishDrain s b = drainWriter (resumeWaiters
    (s.banks[b].held.foldl admitHeld (modBank s b fun k => { k with owner := new, drain := none, held := [], waiters := [] })) s.banks[b].waiters) why := by
  rw [finishDrain, hd]

/-- The end of a drain leaves the bank calm with its new owner. -/
theorem rest_finishDrain (hw : s.dict.waiting = []) (hd : s.banks[b].drain = some (new, why)) : Rest (some (b, new)) (finishDrain s b) := by
  have h0 : Rest (some (b, new)) (modBank s b fun k => { k with owner := new, drain := none, held := [], waiters := [] }) := by
    refine ⟨hw, fun y hy => ?_⟩
    cases hy
    exact (updV_same s.banks b _).symm ▸ ⟨rfl, rfl, rfl, rfl⟩
  rw [finishDrain_eq hd]
  exact rest_drainWriter (rest_resumeWaiters (rest_foldl h0 fun _ _ h => rest_admitHeld h))

/-- Where no access waits, none is served. -/
theorem serveWaiting_none (hw : s.dict.waiting = []) : serveWaiting s = s := by
  rw [serveWaiting, hw]
  split <;> rfl

theorem kick_waits (p : PartId) (hw : s.dict.waiting = []) : (kick s p).dict.waiting = [] := by
  have h : Still s (kick s p) := still_kick (.refl s)
  exact h.waits hw

theorem drainEnds_eq (hd : s.banks[b].drain = some (new, why)) (hc : ∀ c, why ≠ .commit c) :
    drainEnds s b = match bankPart s b with | some p => kick (finishDrain s b) p | none => finishDrain s b := by
  rw [drainEnds, hd]
  cases why with
  | commit c => exact absurd rfl (hc c)
  | write r => rfl
  | device => rfl

theorem drainEnds_none (hd : s.banks[b].drain = none) : drainEnds s b = s := by rw [drainEnds, hd]

theorem Idle.banks {s t : State} (h : Idle s t) : t.banks = s.banks := congrArg (fun x => x.2.2.1) h

theorem drainWriter_frame (why : DrainFor) (s : State) : (drainWriter s why).banks = s.banks ∧ (drainWriter s why).mem = s.mem := by
  cases why with
  | write r => exact ⟨(idle_dictFinish (.refl s)).banks, (idle_dictFinish (.refl s)).mem⟩
  | device => exact ⟨rfl, rfl⟩
  | commit c => exact ⟨rfl, rfl⟩

theorem updV_eq_set {n : Nat} {α : Type} (v : Vector α n) (i : Fin n) (f : α → α) : updV v i f = v.set i (f v[i]) := by
  ext j hj
  by_cases h : i = ⟨j, hj⟩
  · subst h
    exact (updV_same v ⟨j, hj⟩ f).trans (Vector.getElem_set_self _).symm
  · exact (updV_other v i ⟨j, hj⟩ f h).trans (Vector.getElem_set_ne _ _ (fun e => h (Fin.ext e))).symm

theorem modBank_banks (s : State) (b : BankId) (f : Bank → Bank) : (modBank s b f).banks = updV s.banks b f := rfl

/-- With nothing held and nobody waiting the end of a drain changes the owner and answers the writer. -/
theorem finishDrain_alone (hd : s.banks[b].drain = some (new, why)) (hh : s.banks[b].held = []) (hw : s.banks[b].waiters = []) :
    finishDrain s b = drainWriter (modBank s b fun k => { k with owner := new, drain := none, held := [], waiters := [] }) why := by
  rw [finishDrain_eq hd, hh, hw]
  rfl

end Drains

/-- Settles O47: the rules of R233 decide a write of OWNER; a drain that ends makes the bank calm, and no access waits then. -/
theorem ownerAndDrain : Obligations.OwnerAndDrain := by
  intro s b k
  refine ⟨?_, ?_, ?_⟩
  · intro r a v hv i code
    have hb := b.isLt
    have hg : grpOf (BitVec.ofNat 16 (0x5000 + b.val)) (BitVec.ofNat 8 2) = none := grpOf_bank_none b (by decide) (by decide)
    have hi : exec i s = .next (writeAccess s r (0x5000 + b.val) 2 a []) := rfl
    have hw := singleWrite_owner (s := heard s r) (r := r) b v []
    refine ⟨fun hc => hv.refuses (by omega) (by decide) hi hg (hw.trans (ownerWrite_refused hc)),
      fun hc ho => hv.completes (f := id) (by omega) (by decide) hi hg (hw.trans (ownerWrite_present hc ho)), fun hc ho hf => ?_⟩
    obtain ⟨hfen, hd⟩ := ownerRules_zero hc
    refine ⟨hfen, hd, ?_⟩
    have hne : (heard s r).banks[b].owner ≠ BitVec.ofNat 8 v := by
      intro e
      refine ho ((congrArg BitVec.toNat e).trans ?_)
      exact Nat.mod_eq_of_lt hv.owner_lt
    have hstart := startDrain_starts (s := heard s r) (why := .write r) hfen hd hne
    obtain ⟨hbanks, houts, hmem, hparts, htwin⟩ := dropLines_frame (heard s r) b
    obtain ⟨e, -, hex⟩ := hv.holds (by omega) (by decide) hi hg (hw.trans (ownerWrite_other hc ho))
    rw [hstart] at hex
    obtain ⟨t, ht⟩ := exists_eq (a' := modBank (dropLines (heard s r) b) b fun k => { k with drain := some (BitVec.ofNat 8 v, .write r) })
    rw [← ht] at hex
    have hpart : bankPart t b = bankPart s b := by
      have hk : t.banks[b].part = s.banks[b].part := by
        rw [ht]
        exact (congrArg Bank.part (updV_same _ b _)).trans (by rw [hbanks]; rfl)
      simp only [bankPart, hk]
    have hfw : ∀ p, forwards t p = forwards s p := fun p => by
      rw [ht]
      show (((dropLines (heard s r) b).parts[p].cfg.twinMode && (dropLines (heard s r) b).twin.state == 3) && (dropLines (heard s r) b).twin.primary) = _
      rw [hparts, htwin]
      rfl
    rw [forwardSingle_owner fun p hp => (hfw p).trans (hf p (hpart.symm.trans hp))] at hex
    obtain ⟨h1, h2, h3⟩ := answerHeld_frame (r := r) t (0x5000 + b.val) 2
    refine ⟨_, hex, ?_, ?_, ?_⟩
    · rw [h1, ht]
      rw [modBank_banks, hbanks, updV_eq_set]
      rfl
    · rw [h2, ht]
      exact houts
    · rw [h3, ht]
      exact hmem
  · intro hdead hw hd
    show Host.Outcome.next (if dead s then s else serveWaiting (drainEnds s b)) = _
    rw [hdead, drainEnds_none hd, serveWaiting_none hw]
    rfl
  · intro hdead hw new why hd hc
    have hrest := rest_finishDrain hw hd
    have hquiet : (finishDrain s b).dict.waiting = [] := hrest.1
    obtain ⟨ho, hdr, hheld, hwait⟩ := hrest.2 _ rfl
    refine ⟨finishDrain s b, ?_, ho, hdr, hheld, hwait, fun hk hkw => ?_⟩
    · show Host.Outcome.next (if dead s then s else serveWaiting (drainEnds s b)) = _
      rw [hdead, if_neg Bool.false_ne_true, drainEnds_eq hd hc]
      generalize finishDrain s b = t at hquiet
      cases bankPart s b with
      | some p =>
        have hk : serveWaiting (kick t p) = kick t p := serveWaiting_none (kick_waits p hquiet)
        dsimp only
        rw [hk]
      | none =>
        have hk : serveWaiting t = t := serveWaiting_none hquiet
        dsimp only
        rw [hk]
    · rw [finishDrain_alone hd hk hkw]
      obtain ⟨hbanks, hmem⟩ := drainWriter_frame why (modBank s b fun k => { k with owner := new, drain := none, held := [], waiters := [] })
      refine ⟨?_, hmem, fun r hwhy hr => ?_⟩
      · rw [hbanks]
        rw [modBank_banks, updV_eq_set]
        have hsame : ∀ k : Bank, k.held = [] → k.waiters = [] →
            ({ k with owner := new, drain := none, held := [], waiters := [] } : Bank) = { k with owner := new, drain := none } := by
          rintro ⟨⟩ rfl rfl
          rfl
        rw [hsame _ hk hkw]
      · rw [hwhy]
        exact congrArg State.outs (if_neg hr)

end Sys2Proof.Machine

/-! PROOF. Staging, commits and discards. -/
namespace Sys2Proof.Machine

/-! ### Staging, commits and discards (R329-R333, R386) -/

section Groups

variable {s : State} {r : Requester} {ix : W16} {sub : Byte} {g : Grp} {a : DAcc} {v : Nat}

theorem grpOf_ofNat (hg : grpOf ix sub = some g) : grpOf (BitVec.ofNat 16 ix.toNat) (BitVec.ofNat 8 sub.toNat) = some g := by
  rw [BitVec.ofNat_toNat, BitVec.ofNat_toNat, BitVec.setWidth_eq, BitVec.setWidth_eq, hg]

/-- A group's own writes are not forwarded singly. -/
theorem forwardSingle_group (hg : grpOf ix sub = some g) (t : State) (e : Entry) : forwardSingle t ix.toNat sub.toNat v e = t := by
  rw [forwardSingle, grpOf_ofNat hg, if_pos (Or.inr Option.isSome_some)]

/-- A write to a group's entry whose rule is done at once. -/
theorem group_done (h : Serves s r ix.toNat sub.toNat a v) (hg : grpOf ix sub = some g) {c : Instr} {t : State}
    (hc : exec c s = .next (writeAccess s r ix.toNat sub.toNat a []))
    (hw : ∀ e, entryAt s r ix.toNat sub.toNat = some e → entryWrite (heard s r) r ix.toNat sub.toNat e.cls v [] = (t, .done)) :
    exec c s = .next (told t r) := by
  obtain ⟨e, he, hx⟩ := h.exec ix.isLt sub.isLt hc
  rw [hx, hw e he, concluded]
  dsimp only
  rw [forwardSingle_group hg]
  rfl

/-- A write to a group's entry whose rule refuses it. -/
theorem group_refused (h : Serves s r ix.toNat sub.toNat a v) {c : Instr} {t : State} {code : Nat}
    (hc : exec c s = .next (writeAccess s r ix.toNat sub.toNat a []))
    (hw : ∀ e, entryAt s r ix.toNat sub.toNat = some e → entryWrite (heard s r) r ix.toNat sub.toNat e.cls v [] = (t, .refused code)) :
    exec c s = .next (dictRefuse t r ix.toNat sub.toNat true code) := by
  obtain ⟨e, he, hx⟩ := h.exec ix.isLt sub.isLt hc
  rw [hx, hw e he, concluded]

theorem entryWrite_staged (hg : grpOf ix sub = some g) {cls : Class} (hcls : cls = .rws) :
    entryWrite s r ix.toNat sub.toNat cls v [] = stageWrite s r g sub.toNat v := by
  rw [entryWrite, grpOf_ofNat hg]
  exact if_pos hcls

theorem entryWrite_commit (hg : grpOf ix sub = some g) {cls : Class} (hcls : cls ≠ .rws) (hs : sub = (grpCtl g).2.2.1) :
    entryWrite s r ix.toNat sub.toNat cls v [] = commitWrite s r g v := by
  rw [entryWrite, grpOf_ofNat hg]
  exact (if_neg hcls).trans (if_pos (congrArg BitVec.toNat hs))

theorem entryWrite_discard (hg : grpOf ix sub = some g) {cls : Class} (hcls : cls ≠ .rws) (hs : sub.toNat ≠ (grpCtl g).2.2.1.toNat) :
    entryWrite s r ix.toNat sub.toNat cls v [] = discardWrite s r g v := by
  rw [entryWrite, grpOf_ofNat hg]
  exact (if_neg hcls).trans (if_neg hs)

/-- The control entries are written, not staged. -/
theorem ctlEntry_cls {u : Nat} {e : Entry} (h : ctlEntry s g u = some e) (hu : u ≠ (grpCtl g).2.1.toNat) : e.cls = .wo := by
  rw [ctlEntry] at h
  simp only [if_neg hu] at h
  split_ifs at h
  · cases h; rfl
  · cases h; rfl

/-- COMMIT and DISCARD of a group lie at its control entries. -/
theorem entryAt_ctl (hg : grpOf ix sub = some g) (hs : sub = (grpCtl g).2.2.1 ∨ sub = (grpCtl g).2.2.2) :
    entryAt s r ix.toNat sub.toNat = ctlEntry s g sub.toNat := by
  rw [grpOf] at hg
  split at hg
  next h =>
    split_ifs at hg
    cases hg
    rw [entryAt, if_neg (by omega), if_neg (by omega), dif_pos h]
    rcases hs with rfl | rfl <;> rfl
  split at hg
  next h1 h =>
    split_ifs at hg
    cases hg
    rw [entryAt, if_neg (by omega), if_neg (by omega), dif_neg (by omega), dif_neg (by omega), dif_neg (by omega), if_neg (by omega),
      dif_neg (by omega), dif_neg (by omega), if_neg (by omega), dif_neg (by omega), if_neg (by omega), if_neg (by omega), if_neg (by omega),
      if_neg (by omega), dif_neg (by omega), if_neg (by omega), if_neg (by omega), if_neg (by omega), dif_neg (by omega), dif_pos h]
    rcases hs with rfl | rfl <;> rfl
  split at hg
  next h1 h2 h =>
    split_ifs at hg
    cases hg
    rw [entryAt, if_neg (by omega), if_neg (by omega), dif_neg (by omega), dif_neg (by omega), dif_neg (by omega), if_neg (by omega),
      dif_neg (by omega), dif_pos h]
    rcases hs with rfl | rfl <;> rfl
  split at hg
  next h =>
    split_ifs at hg
    cases hg
    rw [h]
    rcases hs with rfl | rfl <;> rfl
  split at hg
  next h =>
    have hsub := sub.isLt
    rw [h]
    split_ifs at hg with hu hu'
    · cases hg
      rcases hs with hs | hs <;> · have := congrArg BitVec.toNat hs; simp [grpCtl] at this; omega
    · cases hg
      show reefEntryOf s sub.toNat = _
      rw [reefEntryOf, dif_neg hu, dif_neg (by omega), dif_neg (by omega), dif_neg (by omega), dif_neg (by omega), dif_pos ⟨hu'.1, hu'.2.2⟩]
  split_ifs at hg with h
  cases hg
  rw [h]
  rcases hs with rfl | rfl <;> rfl

theorem grpCtl_distinct (g : Grp) : (grpCtl g).2.2.1.toNat ≠ (grpCtl g).2.1.toNat ∧ (grpCtl g).2.2.2.toNat ≠ (grpCtl g).2.1.toNat ∧
    (grpCtl g).2.2.2.toNat ≠ (grpCtl g).2.2.1.toNat := by
  have h3 : ((0xFE : Byte).toNat ≠ (0xFD : Byte).toNat ∧ (0xFF : Byte).toNat ≠ (0xFD : Byte).toNat ∧ (0xFF : Byte).toNat ≠ (0xFE : Byte).toNat) := by decide
  cases g with
  | reef c => revert c; decide
  | part p => exact h3
  | stream p k => exact h3
  | bank b => exact h3
  | mem => exact h3
  | slots => exact h3

/-- COMMIT and DISCARD of a group are not staged. -/
theorem ctl_notStaged (hg : grpOf ix sub = some g) (hs : sub = (grpCtl g).2.2.1 ∨ sub = (grpCtl g).2.2.2) {e : Entry}
    (he : entryAt s r ix.toNat sub.toNat = some e) : e.cls ≠ .rws := by
  rw [entryAt_ctl hg hs] at he
  obtain ⟨hcommit, hdiscard, -⟩ := grpCtl_distinct g
  rw [ctlEntry_cls he (by rcases hs with rfl | rfl; exacts [hcommit, hdiscard])]
  exact fun h => nomatch h

/-! #### The rules of a staging write -/

theorem stageWrite_lost (hl : claimLost s g r = true) (u : Nat) : stageWrite s r g u v = (hearLost s g r, .refused 0x0016) := if_pos hl

theorem stageWrite_pending (hl : claimLost s g r = false) (hp : pendingOf s g ≠ none) (u : Nat) : stageWrite s r g u v = (s, .refused 0x0011) := by
  have hs : (pendingOf s g).isSome = true := Option.isSome_iff_ne_none.2 hp
  simp only [stageWrite, hl, hs, Bool.false_eq_true, if_false, if_true]

theorem stageWrite_fenced (hl : claimLost s g r = false) (hp : pendingOf s g = none) (hf : grpFenced s g = true) (u : Nat) :
    stageWrite s r g u v = (s, .refused 0x0008) := by
  simp only [stageWrite, hl, hp, hf, Option.isSome_none, Bool.false_eq_true, if_false, if_true]

/-- Staged values with the value of one member replaced. -/
def staged (u v : Nat) (l : List (Byte × W128)) : List (Byte × W128) := l.map fun m => if m.1.toNat = u then (m.1, BitVec.ofNat 128 v) else m

theorem stageWrite_first (hl : claimLost s g r = false) (hp : pendingOf s g = none) (hf : grpFenced s g = false) (u : Nat)
    (hc : s.dict.claims.find? (fun c => c.grp == g) = none) : stageWrite s r g u v = ({ s with dict := { s.dict with
      claims := s.dict.claims ++ [{ grp := g, by' := r, shadow := staged u v (members s g), at' := timeNow s }] } }, .done) := by
  simp only [stageWrite, hl, hp, hf, hc, Option.isSome_none, Bool.false_eq_true, if_false]
  rfl

theorem stageWrite_other (hl : claimLost s g r = false) (hp : pendingOf s g = none) (hf : grpFenced s g = false) (u : Nat) {x : Claim}
    (hc : s.dict.claims.find? (fun c => c.grp == g) = some x) (hr : x.by' ≠ r) : stageWrite s r g u v = (s, .refused 0x0010) := by
  simp only [stageWrite, hl, hp, hf, hc, Option.isSome_none, Bool.false_eq_true, if_false]
  exact if_pos hr

theorem stageWrite_again (hl : claimLost s g r = false) (hp : pendingOf s g = none) (hf : grpFenced s g = false) (u : Nat) {x : Claim}
    (hc : s.dict.claims.find? (fun c => c.grp == g) = some x) (hr : x.by' = r) : stageWrite s r g u v = ({ s with dict := { s.dict with
      claims := s.dict.claims.map fun c => if c.grp = g then { c with shadow := staged u v c.shadow, at' := timeNow s } else c } }, .done) := by
  simp only [stageWrite, hl, hp, hf, hc, Option.isSome_none, Bool.false_eq_true, if_false]
  exact if_neg (not_not_intro hr)

/-! #### The rules of COMMIT and DISCARD -/

theorem commitWrite_restart (hs : s.ls.state = 2) : commitWrite s r g v = (s, .refused 0x0008) := if_pos hs

theorem commitWrite_lost (hs : s.ls.state ≠ 2) (hl : claimLost s g r = true) : commitWrite s r g v = (hearLost s g r, .refused 0x0016) :=
  (if_neg hs).trans (if_pos hl)

theorem commitWrite_pending (hs : s.ls.state ≠ 2) (hl : claimLost s g r = false) (hp : pendingOf s g ≠ none) :
    commitWrite s r g v = (s, .refused 0x0011) := by
  have hsome : (pendingOf s g).isSome = true := Option.isSome_iff_ne_none.2 hp
  simp only [commitWrite, hs, hl, hsome, Bool.false_eq_true, if_false, if_true]

theorem commitWrite_unclaimed (hs : s.ls.state ≠ 2) (hl : claimLost s g r = false) (hp : pendingOf s g = none)
    (hc : s.dict.claims.find? (fun c => c.grp == g && c.by' == r) = none) : commitWrite s r g v = (s, .refused 0x0012) := by
  simp only [commitWrite, hs, hl, hp, hc, Option.isSome_none, Bool.false_eq_true, if_false]

/-- The commit that a COMMIT makes of a claim. -/
def commitOf (s : State) (r : Requester) (g : Grp) (tag : Nat) (c : Claim) : Pending :=
  { grp := g, by' := r, tag := BitVec.ofNat 32 tag, set := c.shadow, due := commitDue s g }

/-- The state with the commit pending. -/
def committed (s : State) (r : Requester) (g : Grp) (tag : Nat) (c : Claim) : State :=
  { s with
    dict := { s.dict with
      claims := s.dict.claims.filter fun c => c.grp != g
      pending := s.dict.pending ++ [commitOf s r g tag c], commits := s.dict.commits + 1
      results := updV s.dict.results r fun _ => at' 64 32 (BitVec.ofNat 32 tag).toNat ||| at' 64 24 1 }
    ls := { s.ls with dictRequest := s.ls.dictRequest || r != 5 } }

theorem commitWrite_claimed (hs : s.ls.state ≠ 2) (hl : claimLost s g r = false) (hp : pendingOf s g = none) {x : Claim}
    (hc : s.dict.claims.find? (fun c => c.grp == g && c.by' == r) = some x) (hn : pendingCount s r g < 32) :
    commitWrite s r g v = (commitGo (forwardCommit (committed s r g v x) (commitOf s r g v x)) (commitOf s r g v x), .done) := by
  simp only [commitWrite, hs, hl, hp, hc, Option.isSome_none, Bool.false_eq_true, if_false, if_neg (Nat.not_le.2 hn)]
  rfl

theorem discardWrite_zero : discardWrite s r g 0 = (s, .done) := rfl

theorem discardWrite_lost (hl : claimLost s g r = true) : discardWrite s r g 1 = (hearLost s g r, .refused 0x0016) := if_pos hl

theorem discardWrite_unclaimed (hl : claimLost s g r = false) (hp : pendingOf s g = none)
    (hc : (s.dict.claims.any fun c => c.grp == g && c.by' == r) = false) : discardWrite s r g 1 = (s, .refused 0x0012) := by
  simp only [discardWrite, hl, hp, hc, Option.isSome_none, Bool.false_eq_true, if_false, one_ne_zero]

theorem discardWrite_claimed (hl : claimLost s g r = false) (hp : pendingOf s g = none)
    (hc : (s.dict.claims.any fun c => c.grp == g && c.by' == r) = true) : discardWrite s r g 1 =
      ({ s with dict := { s.dict with claims := s.dict.claims.filter fun c => c.grp != g } }, .done) := by
  simp only [discardWrite, hl, hp, hc, Option.isSome_none, Bool.false_eq_true, if_false, if_true, one_ne_zero]

/-- A group without a partition of its own is committed by another command. -/
theorem commitGo_alone {t : State} {pd : Pending} (h : (∃ c, pd.grp = .reef c) ∨ pd.grp = .slots) : commitGo (forwardCommit t pd) pd = t := by
  rcases h with ⟨c, h⟩ | h
  · rw [commitGo, forwardCommit, h]
    rfl
  · rw [commitGo, forwardCommit, h]
    rfl

/-- One who has heard of a lost claim has heard it. -/
theorem claimLost_hearLost : claimLost (hearLost s g r) g r = false := by
  rw [claimLost, hearLost, Bool.eq_false_iff]
  simp

end Groups

end Sys2Proof.Machine

/-! PROOF. Commits at their safe point (O48). -/
namespace Sys2Proof.Machine

/-! ### Commits at their safe point (R330) -/

section Commits

variable {s : State} {pd : Pending}

/-- The commit's result where its committer reads it, and the commit pending no more. -/
def recorded (s : State) (pd : Pending) (cause code : Nat) : State :=
  { s with dict := { s.dict with
    pending := s.dict.pending.filter (· ≠ pd)
    results := updV s.dict.results pd.by' fun _ =>
      at' 64 32 pd.tag.toNat ||| at' 64 24 (if cause = 0 then 2 else 3) ||| BitVec.ofNat 64 code } }

theorem recorded_parts (s : State) (pd : Pending) (cause code : Nat) : (recorded s pd cause code).parts = s.parts := rfl

theorem posted_foldl {α : Type} {f : State → α → State} (hf : ∀ t a, Posted t (f t a)) (l : List α) (t : State) : Posted t (l.foldl f t) := by
  induction l generalizing t with
  | nil => exact .refl t
  | cons a l ih => exact (hf t a).trans (ih _)

theorem posted_commitDone (s : State) (pd : Pending) (parts : List PartId) (cause code : Nat) (detail : W64) :
    Posted (recorded s pd cause code) (commitDone s pd parts cause code detail) :=
  posted_foldl (fun t p => posted_ledgerEnd t p pd.tag 0x04 cause detail) parts _

theorem commitDone_answers (s : State) (pd : Pending) (parts : List PartId) (cause code : Nat) (detail : W64) :
    pd ∉ (commitDone s pd parts cause code detail).dict.pending ∧ (commitDone s pd parts cause code detail).dict.results[pd.by'] =
      at' 64 32 pd.tag.toNat ||| at' 64 24 (if cause = 0 then 2 else 3) ||| BitVec.ofNat 64 code := by
  have h := posted_commitDone s pd parts cause code detail
  have hp : (commitDone s pd parts cause code detail).dict.pending = (recorded s pd cause code).dict.pending := h.get fun x => x.dict.pending
  have hr : (commitDone s pd parts cause code detail).dict.results = (recorded s pd cause code).dict.results := h.get fun x => x.dict.results
  refine ⟨?_, ?_⟩
  · rw [hp]
    simp [recorded]
  · rw [hr]
    exact updV_same _ _ _

theorem settleCommit_passes (h : firstCode (groupRules s pd.grp pd.set) = 0) : settleCommit s pd =
    commitDone (applySet s pd.grp pd.set) pd (grpLedgers s pd.grp pd.set) 0 0 (commitDetail pd.grp 0) := if_pos h

theorem settleCommit_fails (h : firstCode (groupRules s pd.grp pd.set) ≠ 0) : settleCommit s pd =
    commitFails s pd 0x0C01 (firstCode (groupRules s pd.grp pd.set)) := if_neg h

/-- What a settled commit posts stands besides its effect. -/
theorem posted_settled (h : firstCode (groupRules s pd.grp pd.set) = 0) :
    Posted (recorded (applySet s pd.grp pd.set) pd 0 0) (settleCommit s pd) := by
  rw [settleCommit_passes h]
  exact posted_commitDone _ _ _ _ _ _

theorem settleCommit_answers (s : State) (pd : Pending) : pd ∉ (settleCommit s pd).dict.pending ∧
    (settleCommit s pd).dict.results[pd.by'] = at' 64 32 pd.tag.toNat |||
      at' 64 24 (if firstCode (groupRules s pd.grp pd.set) = 0 then 2 else 3) ||| BitVec.ofNat 64 (firstCode (groupRules s pd.grp pd.set)) := by
  by_cases h : firstCode (groupRules s pd.grp pd.set) = 0
  · rw [settleCommit_passes h, h]
    exact commitDone_answers _ _ _ _ _ _
  · rw [settleCommit_fails h, if_neg h]
    exact commitDone_answers _ _ _ _ _ _

theorem commitApplyOp_settles {ix : W16} {sub : Byte} {g : Grp} (hg : grpOf ix sub = some g) (hdead : dead s = false) (hp : pendingOf s g = some pd)
    (ha : atSafePoint s g = true) : commitApplyOp s ix sub = settleCommit s pd := by
  rw [commitApplyOp, hg]
  dsimp only
  rw [hp]
  dsimp only
  rw [hdead, ha]
  rfl

theorem pendingOf_grp {g : Grp} (hp : pendingOf s g = some pd) : pd.grp = g := by
  have h := List.find?_some hp
  exact eq_of_beq h

/-! #### The new values -/

/-- A partition's configuration but for its exchange's shadow and its vectors, which a new owner clears. -/
def ownPart (c : PartCfg) : PartCfg := { c with exchShadowSlots := 0, exchSwap := false, msixEvq := 0, msixLedger := 0, msixStream := 0 }

theorem Still.ownPart {t u : State} (h : Still t u) (p : PartId) : Machine.ownPart u.parts[p].cfg = Machine.ownPart t.parts[p].cfg := by
  have hc := congrArg Machine.ownPart (solid_cfg h.solid p)
  exact hc

theorem ownerMoves_ownPart (s : State) (p : PartId) (old : PortId) : ownPart (ownerMoves s p old).parts[p].cfg = ownPart s.parts[p].cfg := by
  have h1 : Still s (rewindOut (failPushes s p 0x0B06 none) p) := still_rewindOut (still_failPushes (.refl s))
  have h2 := still_modPort (p := old) (f := fun t => { t with rx := t.rx.filter fun x => x.part != p }) h1
  have h3 := still_foldl (f := fun t x => raiseN t (579 + 8 * old.val) (accessDetail p x.k true))
    (l := (s.ports[old].rx.filter fun x => x.part == p)) h2 fun _ _ h => still_raiseN h
  rw [← h3.ownPart p]
  rw [ownerMoves]
  dsimp only
  rw [modPart_same]
  rfl

/-- A partition's commit puts its configuration in force. -/
theorem applyPart_ownPart (s : State) (p : PartId) (c : PartCfg) : ownPart (applyPart s p c).parts[p].cfg = ownPart c := by
  obtain ⟨s0, hs0⟩ := exists_eq (a' := (vesOf (s.parts[p].cfg.veSet ^^^ c.veSet)).foldl moveRing s)
  have h1 : (modPart s0 p fun q => { q with cfg := c, swapDue := q.swapDue || c.exchSwap }).parts[p].cfg = c :=
    congrArg Partition.cfg (updV_same _ p _)
  rw [applyPart, ← hs0]
  generalize modPart s0 p (fun q => { q with cfg := c, swapDue := q.swapDue || c.exchSwap }) = s1 at h1 ⊢
  have h2 : ownPart (if c.ownerPort ≠ s.parts[p].cfg.ownerPort then ownerMoves s1 p (Fin.ofNat 4 s.parts[p].cfg.ownerPort.toNat) else s1).parts[p].cfg = ownPart c := by
    split
    · rw [ownerMoves_ownPart, h1]
    · rw [h1]
  generalize (if c.ownerPort ≠ s.parts[p].cfg.ownerPort then ownerMoves s1 p (Fin.ofNat 4 s.parts[p].cfg.ownerPort.toNat) else s1) = s2 at h2 ⊢
  split
  · rw [(still_applySwap (Still.refl s2)).ownPart p, h2]
  · exact h2

theorem applySet_stream (s : State) (p : PartId) (k : Fin 8) (set : List (Byte × W128)) :
    ((applySet s (.stream p k) set).parts[p].streams[k].depth, (applySet s (.stream p k) set).parts[p].streams[k].watermark) =
      (BitVec.ofNat 16 (member set 1), BitVec.ofNat 16 (member set 2)) := by
  rw [applySet]
  refine (solid_stream (still_kick (Still.refl _)).solid p k).trans ?_
  rw [modStream_at]

theorem applySet_bank (s : State) (b : BankId) (set : List (Byte × W128)) (h : member set 1 < 256) :
    (applySet s (.bank b) set).banks[b].part = BitVec.ofNat 8 (member set 1) := by
  rw [applySet, modBank_banks, updV_same]
  dsimp only
  split
  next he => rw [he, BitVec.ofNat_toNat, BitVec.setWidth_eq]
  · rfl

theorem settled_part {p : PartId} (hok : firstCode (groupRules s pd.grp pd.set) = 0) (hg : pd.grp = .part p) :
    ownPart (settleCommit s pd).parts[p].cfg = ownPart (cfgOf s.parts[p].cfg pd.set) := by
  rw [(posted_settled hok).cfg p, hg]
  exact applyPart_ownPart s p _

theorem settled_stream {p : PartId} {k : Fin 8} (hok : firstCode (groupRules s pd.grp pd.set) = 0) (hg : pd.grp = .stream p k) :
    ((settleCommit s pd).parts[p].streams[k].depth, (settleCommit s pd).parts[p].streams[k].watermark) =
      (BitVec.ofNat 16 (member pd.set 1), BitVec.ofNat 16 (member pd.set 2)) := by
  rw [(posted_settled hok).streams p, hg, recorded_parts]
  exact applySet_stream s p k pd.set

theorem settled_bank {b : BankId} (hok : firstCode (groupRules s pd.grp pd.set) = 0) (hg : pd.grp = .bank b) (h : member pd.set 1 < 256) :
    (settleCommit s pd).banks[b].part = BitVec.ofNat 8 (member pd.set 1) := by
  rw [(posted_settled hok).banks, hg]
  exact applySet_bank s b pd.set h

theorem Posted.wideGib {t u : State} (h : Posted t u) : u.wideGib = t.wideGib := h.get State.wideGib

/-- A commit that fails a rule changes neither memory nor a configuration. -/
theorem settled_fails (h : firstCode (groupRules s pd.grp pd.set) ≠ 0) : (settleCommit s pd).mem = s.mem ∧
    (settleCommit s pd).clusters = s.clusters ∧ (settleCommit s pd).pw = s.pw ∧ ∀ p : PartId, (settleCommit s pd).parts[p].cfg = s.parts[p].cfg := by
  rw [settleCommit_fails h]
  have hpost := posted_commitDone s pd (failLedgers s pd.grp) 0x0C01 (firstCode (groupRules s pd.grp pd.set))
    (commitDetail pd.grp (firstCode (groupRules s pd.grp pd.set)))
  exact ⟨hpost.mem, hpost.clusters, hpost.pw, hpost.cfg⟩

theorem settled_mem (hg : pd.grp = .mem) : (settleCommit s pd).wideGib =
    if firstCode (groupRules s pd.grp pd.set) = 0 then BitVec.ofNat 8 (member pd.set 1) else s.wideGib := by
  split
  next h =>
    rw [(posted_settled h).wideGib, hg]
    rfl
  next h =>
    rw [settleCommit_fails h]
    exact (posted_commitDone s pd _ _ _ _).wideGib

theorem settled_reef {c : ClusterId} (hg : pd.grp = .reef c) (hok : firstCode (groupRules s (.reef c) pd.set) = 0) (l : Fin 8) :
    (settleCommit s pd).clusters[c].row[l] = BitVec.ofNat 32 (member pd.set (8 * c.val + l.val)) := by
  rw [(posted_settled (hg ▸ hok)).clusters, hg]
  have hrow : (recorded (applySet s (.reef c) pd.set) pd 0 0).clusters[c].row = .ofFn fun l => nth (rowOf c pd.set) l.val 0 :=
    congrArg Cluster.row (updV_same s.clusters c _)
  rw [hrow, Fin.getElem_fin, Vector.getElem_ofFn]
  simp [rowOf, nth]

theorem settled_slots (hg : pd.grp = .slots) (hok : firstCode (groupRules s .slots pd.set) = 0) : (settleCommit s pd).pw =
    { s.pw with slots := .ofFn fun i => BitVec.ofNat 128 (member pd.set i.val), active := .ofFn fun i => BitVec.ofNat 128 (member pd.set i.val)
                slotsLen := BitVec.ofNat 8 (member pd.set 0x40), poolSet := BitVec.ofNat 64 (member pd.set 0x41), edits := [] } := by
  rw [(posted_settled (hg ▸ hok)).pw, hg]
  exact (posted_raiseN _ _ _).pw

/-- The fields of a configuration that no new owner and no exchange changes. -/
theorem ownPart_fields {c d : PartCfg} (h : ownPart c = ownPart d) : c.veSet = d.veSet ∧ c.fpsub = d.fpsub ∧ c.deterministic = d.deterministic ∧
    c.hbmMode = d.hbmMode ∧ c.hbmStacks = d.hbmStacks ∧ c.hbmBase = d.hbmBase ∧ c.hbmSize = d.hbmSize ∧ c.ownerPort = d.ownerPort ∧
    c.paired = d.paired ∧ c.twinMode = d.twinMode := by
  have hf : ∀ {α : Type} (f : PartCfg → α), f (ownPart c) = f (ownPart d) := fun f => congrArg f h
  exact ⟨hf PartCfg.veSet, hf PartCfg.fpsub, hf PartCfg.deterministic, hf PartCfg.hbmMode, hf PartCfg.hbmStacks, hf PartCfg.hbmBase,
    hf PartCfg.hbmSize, hf PartCfg.ownerPort, hf PartCfg.paired, hf PartCfg.twinMode⟩

end Commits

/-- Settles O48: the rules of a staging write, COMMIT and DISCARD one by one, and a commit at its safe point as `settleCommit` leaves it. -/
theorem claimsAndCommits : Obligations.ClaimsAndCommits := by
  intro s ix sub g hg i u
  refine ⟨?_, ?_, ?_, ?_, ?_, ?_, ?_⟩
  · intro r a v hv hl s0 put
    have hput : put = staged u v := rfl
    have hl0 : claimLost s0 g r = false := hl
    refine ⟨?_, ?_, ?_⟩
    · intro e he hcls c
      have hc : exec c s = .next (writeAccess s r i u a []) := rfl
      have hrule : ∀ e', entryAt s r i u = some e' → entryWrite s0 r i u e'.cls v [] = stageWrite s0 r g u v := by
        intro e' he'
        cases he.symm.trans he'
        exact entryWrite_staged hg hcls
      refine ⟨fun hp => group_refused hv hc fun e' he' => (hrule e' he').trans (stageWrite_pending hl0 hp u),
        fun hp hf => group_refused hv hc fun e' he' => (hrule e' he').trans (stageWrite_fenced hl0 hp hf u), fun hp hf => ⟨fun hnone => ?_, fun x hx => ⟨fun hr => ?_, fun hr => ?_⟩⟩⟩
      · exact group_done hv hg hc fun e' he' => (hrule e' he').trans (stageWrite_first hl0 hp hf u hnone)
      · exact group_refused hv hc fun e' he' => (hrule e' he').trans (stageWrite_other hl0 hp hf u hx hr)
      · exact group_done hv hg hc fun e' he' => (hrule e' he').trans (stageWrite_again hl0 hp hf u hx hr)
    · intro hsub c
      have hc : exec c s = .next (writeAccess s r i u a []) := rfl
      have hrule : ∀ e', entryAt s r i u = some e' → entryWrite s0 r i u e'.cls v [] = commitWrite s0 r g v :=
        fun e' he' => entryWrite_commit hg (ctl_notStaged hg (.inl hsub) he') hsub
      refine ⟨fun hs => group_refused hv hc fun e' he' => (hrule e' he').trans (commitWrite_restart hs),
        fun hs hp => group_refused hv hc fun e' he' => (hrule e' he').trans (commitWrite_pending hs hl0 hp), fun hs hp => ⟨fun hnone => ?_, fun x hx hn => ?_⟩⟩
      · exact group_refused hv hc fun e' he' => (hrule e' he').trans (commitWrite_unclaimed hs hl0 hp hnone)
      · refine ⟨commitOf s0 r g v x, committed s0 r g v x, group_done hv hg hc fun e' he' => (hrule e' he').trans (commitWrite_claimed (s := s0) hs hl0 hp hx hn),
          rfl, rfl, rfl, rfl, rfl, rfl, rfl, ?_, rfl, rfl, commitGo_alone (pd := commitOf s0 r g v x)⟩
        exact updV_same _ _ _
    · intro hsub c
      have hc : exec c s = .next (writeAccess s r i u a []) := rfl
      have hdiff : sub.toNat ≠ (grpCtl g).2.2.1.toNat := by
        rw [hsub]
        exact (grpCtl_distinct g).2.2
      have hrule : ∀ e', entryAt s r i u = some e' → entryWrite s0 r i u e'.cls v [] = discardWrite s0 r g v :=
        fun e' he' => entryWrite_discard hg (ctl_notStaged hg (.inr hsub) he') hdiff
      refine ⟨fun h0 => ?_, fun h1 hp => ⟨fun hn => ?_, fun hy => ?_⟩⟩
      · subst h0
        exact group_done hv hg hc fun e' he' => (hrule e' he').trans discardWrite_zero
      · subst h1
        exact group_refused hv hc fun e' he' => (hrule e' he').trans (discardWrite_unclaimed hl0 hp hn)
      · subst h1
        exact group_done hv hg hc fun e' he' => (hrule e' he').trans (discardWrite_claimed hl0 hp hy)
  · intro r a v hv hl hears
    have hl0 : claimLost (heard s r) g r = true := hl
    refine ⟨fun hsub => ?_, fun e he hcls => ?_, fun hsub => ?_, claimLost_hearLost⟩
    · have hrule : ∀ e', entryAt s r i u = some e' → entryWrite (heard s r) r i u e'.cls v [] = commitWrite (heard s r) r g v :=
        fun e' he' => entryWrite_commit hg (ctl_notStaged hg (.inl hsub) he') hsub
      exact ⟨fun hs => group_refused hv rfl fun e' he' => (hrule e' he').trans (commitWrite_restart hs),
        fun hs => group_refused hv rfl fun e' he' => (hrule e' he').trans (commitWrite_lost hs hl0)⟩
    · refine group_refused hv rfl fun e' he' => ?_
      cases he.symm.trans he'
      exact (entryWrite_staged hg hcls).trans (stageWrite_lost hl0 u)
    · have hdiff : sub.toNat ≠ (grpCtl g).2.2.1.toNat := by
        rw [hsub]
        exact (grpCtl_distinct g).2.2
      have hrule : ∀ e', entryAt s r i u = some e' → entryWrite (heard s r) r i u e'.cls v [] = discardWrite (heard s r) r g v :=
        fun e' he' => entryWrite_discard hg (ctl_notStaged hg (.inr hsub) he') hdiff
      refine ⟨fun h1 => ?_, fun h0 => ?_⟩
      · subst h1
        exact group_refused hv rfl fun e' he' => (hrule e' he').trans (discardWrite_lost hl0)
      · subst h0
        exact group_done hv hg rfl fun e' he' => (hrule e' he').trans discardWrite_zero
  · intro pd hdead hp ha code
    have hpg := pendingOf_grp hp
    have hx : exec (.commitApply ix sub) s = .next (settleCommit s pd) := congrArg _ (commitApplyOp_settles hg hdead hp ha)
    obtain ⟨hout, hres⟩ := settleCommit_answers s pd
    have hpart := fun p => settled_part (s := s) (pd := pd) (p := p)
    have hstream := fun p k => settled_stream (s := s) (pd := pd) (p := p) (k := k)
    have hbank := fun b => settled_bank (s := s) (pd := pd) (b := b)
    have hmem := settled_mem (s := s) (pd := pd)
    have hfails := settled_fails (s := s) (pd := pd)
    rw [hpg] at hpart hstream hbank hmem hfails hres
    generalize settleCommit s pd = t at hx hout hres hpart hstream hbank hmem hfails
    refine ⟨t, hx, hout, hres, fun hok => ⟨fun p hgp => ?_, fun p k hgp => ?_, fun b hgp hlt => hbank b hok hgp hlt⟩, hmem, hfails⟩
    · exact ownPart_fields (hpart p hok hgp)
    · exact Prod.mk.inj (hstream p k hok hgp)
  · intro c pd hpd hok l
    exact settled_reef hpd hok l
  · intro pd hpd hok w
    have hw : w = _ := settled_slots hpd hok
    rw [hw]
    exact ⟨fun i => ⟨Vector.getElem_ofFn .., rfl⟩, rfl, rfl, rfl⟩
  · intro hp
    show Host.Outcome.next (commitApplyOp s ix sub) = _
    rw [commitApplyOp, hg]
    dsimp only
    rw [hp]
  · intro hdead hfz
    show Host.Outcome.next (stageExpiryOp s ix sub) = _
    rw [stageExpiryOp, hg]
    dsimp only
    rw [hdead, hfz]
    rfl

end Sys2Proof.Machine

/-! PROOF. What a slot's transfer leaves alone. -/
namespace Sys2Proof.Machine

/-! ### What a slot's transfer leaves alone -/

section Slots

variable {s s0 : State} {p : PartId} {n m : VeId} {ss : List Slot} {i : Nat} {x : Slot} {im : Image} {direct : Bool}

theorem atomicWord_keeps (s : State) (d a : Nat) (f : W128 → W128) : WriteKeeps s (atomicWord s d a f).s := by
  unfold atomicWord
  split
  next st c row word _ =>
    have hcheck := (checkWord_keeps s (.pc st c row word) 0 (a / 16)).writeKeeps
    dsimp only
    split
    · exact .refl s
    · split
      · exact hcheck
      · refine hcheck.trans (WriteKeeps.trans ?_ (dirtyMark_keeps _ _))
        rfl
  · exact .refl s

theorem pickWord_keeps (s : State) (l : List W128) : WriteKeeps s (pickWord s l).2 := by
  unfold pickWord
  split
  · exact .refl s
  · rfl

theorem slotGet_keeps (s : State) (p : PartId) (n : VeId) (code : Nat) (space : Bool) (off : Nat) : WriteKeeps s (slotGet direct s p n code space off).s := by
  unfold slotGet
  split
  · split
    · exact (readWord_keeps _ _ _ _).writeKeeps
    · exact .refl s
  · exact (readPart_keeps _ _ _ _ _ _).writeKeeps

theorem slotPut_keeps (s : State) (p : PartId) (n : VeId) (code : Nat) (space : Bool) (off : Nat) (v : W128) :
    WriteKeeps s (slotPut direct s p n code space off v).s := by
  unfold slotPut
  split
  · split
    · exact writeMasked_keeps _ _ _ _ _ _
    · exact .refl s
  · exact writePart_keeps _ _ _ _ _ _ _ _

theorem slotOr_keeps (s : State) (n : VeId) (d : Nat) (v : W128) : WriteKeeps s (slotOr direct s n d v).s := by
  unfold slotOr
  split
  · split
    · exact atomicWord_keeps _ _ _ _
    · exact .refl s
  · exact via_writeKeeps _ _ _ fun t => atomicWord_keeps _ _ _ _

theorem slotReads_keeps {r : Run} {k off : Nat} {t : SlotRun} (h : WriteKeeps s0 t.s) : WriteKeeps s0 (slotReads direct p r n ss i x k off t).s := by
  induction k generalizing off t with
  | zero => exact h
  | succ k ih =>
    rw [slotReads]
    have hget := h.trans (slotGet_keeps (direct := direct) t.s p n (veCode t.s n) x.srcSpace off)
    dsimp only
    split
    · exact h
    · split
      · exact h
      · split
        · exact hget
        · exact ih (hget.trans (pickWord_keeps _ _))

theorem slotWrites_keeps {vs : List W128} {off : Nat} {t : SlotRun} (h : WriteKeeps s0 t.s) : WriteKeeps s0 (slotWrites direct p n m ss i x vs off t).s := by
  induction vs generalizing off t with
  | nil => exact h
  | cons v vs ih =>
    rw [slotWrites]
    dsimp only
    generalize hd : pickWord t.s (writeChoices ss t.writes i (phaseKey x.dstSpace off) ((storedWord t.s p x.dstSpace off).getD 0) v) = d
    have hpick : WriteKeeps s0 d.2 := h.trans (hd ▸ pickWord_keeps _ _)
    have hput := hpick.trans (slotPut_keeps (direct := direct) d.2 p n (veCode d.2 m) x.dstSpace off d.1)
    split
    · exact h
    · split
      · exact h
      · split
        · exact hput
        · exact ih hput

/-- The state of a transfer keeps them. (A definition of its own, so that a proof can follow the transfer's cases.) -/
def RunKeeps (s : State) (t : SlotRun) : Prop := WriteKeeps s t.s

theorem RunKeeps.mk {t : State} {d : List W128} {w : List PhaseWrite} {e : SlotEnd} (h : WriteKeeps s0 t) :
    RunKeeps s0 { s := t, data := d, writes := w, stop := e } := h

theorem foldl_runKeeps {α : Type} {f : SlotRun → α → SlotRun} {l : List α} {t : SlotRun} (h : RunKeeps s0 t)
    (hf : ∀ t a, RunKeeps s0 t → RunKeeps s0 (f t a)) : RunKeeps s0 (l.foldl f t) := by
  induction l generalizing t with
  | nil => exact h
  | cons a l ih => exact ih (hf t a h)

theorem slotMarks_keeps {off words : Nat} {t : SlotRun} (h : RunKeeps s0 t) : RunKeeps s0 (slotMarks direct p n im off words t) := by
  unfold slotMarks
  split
  · exact h
  · refine foldl_runKeeps h fun t w ht => ?_
    split
    · exact ht
    · extract_lets +onlyGivenNames a v
      clear_value a v
      split
      · exact .mk ht
      next d _ =>
        extract_lets +onlyGivenNames r
        have hor : WriteKeeps s0 r.s := WriteKeeps.trans ht (slotOr_keeps t.s n d v)
        clear_value r
        split
        · exact .mk ht
        · split
          · exact .mk hor
          · exact .mk hor

theorem slotFrags_keeps {base fuel done : Nat} {vs : List W128} {t : SlotRun} (h : WriteKeeps s0 t.s) :
    WriteKeeps s0 (slotFrags direct p n m ss i x im base fuel vs done t).s := by
  induction fuel generalizing vs done t with
  | zero => exact h
  | succ fuel ih =>
    rw [slotFrags]
    split
    · exact h
    · refine ih ?_
      have hw := slotWrites_keeps (direct := direct) (p := p) (n := n) (m := m) (ss := ss) (i := i) (x := x)
        (vs := vs.take (min (fragRoom x.dstSpace (base + 16 * done)) vs.length)) (off := base + 16 * done) h
      split
      · exact slotMarks_keeps hw
      · exact hw

theorem slotMove_keeps (s : State) (r : Run) (words : Nat) : WriteKeeps s (slotMove direct s p r i x n m im words).s :=
  slotFrags_keeps (slotReads_keeps (.refl s))

end Slots

end Sys2Proof.Machine

/-! PROOF. Ends of runs, and their records. -/
namespace Sys2Proof.Machine

/-! ### The end of a run with a cause -/

section Ends

variable {s t : State} {p : PartId} {cause : Nat} {detail : W64}

/-- The cause of an item is where its ledger record has it. -/
theorem fld_ledgerRec {item : W32} {kind : Nat} (hc : cause < 65536) : fld (ledgerRec item kind cause detail) 79 64 = cause := by
  refine Nat.eq_of_testBit_eq fun i => ?_
  rw [fld, Nat.testBit_mod_two_pow, Nat.testBit_shiftRight, ledgerRec]
  by_cases hi : i < 16
  · have hd : detail.toNat.testBit (64 + i) = false := Nat.testBit_lt_two_pow (lt_of_lt_of_le detail.isLt (Nat.pow_le_pow_right (by decide) (by omega)))
    simp only [at', BitVec.toNat_or, BitVec.toNat_ofNat, Nat.testBit_or, Nat.testBit_mod_two_pow, Nat.testBit_shiftLeft]
    have h1 : decide (64 + i < 128) = true := by simp; omega
    have h2 : decide (64 + i ≥ 96) = false := by simp; omega
    have h3 : decide (64 + i ≥ 88) = false := by simp; omega
    have h4 : decide (64 + i ≥ 80) = false := by simp; omega
    have h5 : decide (i < 79 + 1 - 64) = true := by simp; omega
    simp only [h1, h2, h3, h4, h5, ge_iff_le, Nat.le_add_right, decide_true, Bool.true_and, Bool.false_and, Bool.false_or, Nat.zero_le, Nat.sub_zero,
      Nat.add_sub_cancel_left, hd, Bool.or_false]
  · have h5 : decide (i < 79 + 1 - 64) = false := by simp; omega
    rw [h5, Bool.false_and]
    exact (Nat.testBit_lt_two_pow (lt_of_lt_of_le hc (show 2 ^ 16 ≤ 2 ^ i from Nat.pow_le_pow_right (by decide) (by omega)))).symm

theorem msixSend_parts (h : PortId) (v : Nat) : (msixSend s h v).parts = s.parts := by
  unfold msixSend
  split <;> rfl

/-- Messages for the host leave every ledger as it is. -/
theorem msix_ledger (s : State) (p q : PartId) : (msix s p).parts[q].ledger = s.parts[q].ledger := by
  have hmod : ∀ (t : State) (f : Partition → Partition), (∀ x, (f x).ledger = x.ledger) → (modPart t p f).parts[q].ledger = t.parts[q].ledger := by
    intro t f hf
    by_cases hpq : p = q
    · subst hpq
      rw [modPart_same, hf]
    · exact congrArg Partition.ledger (updV_other t.parts p q f hpq)
  have hcond : ∀ (t : State) (c : Prop) [Decidable c] (h : PortId) (v : Nat) (f : Partition → Partition), (∀ x, (f x).ledger = x.ledger) →
      t.parts[q].ledger = s.parts[q].ledger → (if c then modPart (msixSend t h v) p f else t).parts[q].ledger = s.parts[q].ledger := by
    intro t c _ h v f hf ht
    split
    · rw [hmod _ f hf, msixSend_parts, ht]
    · exact ht
  unfold msix
  dsimp only
  split
  · rfl
  · exact hcond _ _ _ _ _ (fun _ => rfl) (hcond _ _ _ _ _ (fun _ => rfl) (hcond _ _ _ _ _ (fun _ => rfl) rfl))

theorem ledgerPut_lastCause {r : W128} (hr : fld r 79 64 ≠ 0) : (ledgerPut s p r).parts[p].ledger.lastCause = BitVec.ofNat 16 (fld r 79 64) := by
  rw [ledgerPut]
  dsimp only
  rw [msix_ledger, modPart_same]
  exact if_neg hr

theorem ledgerEnd_lastCause {item : W32} {kind : Nat} (ht : twinActive s p = false) (hc : cause < 65536) (h0 : cause ≠ 0) :
    (ledgerEnd s p item kind cause detail).parts[p].ledger.lastCause = BitVec.ofNat 16 cause := by
  have hf : fld (ledgerRec item kind cause detail) 79 64 = cause := fld_ledgerRec hc
  rw [ledgerEnd, ht]
  dsimp only
  rw [if_neg Bool.false_ne_true, ledgerPut_lastCause (by rw [hf]; exact h0), hf]

theorem settle_ledger (s : State) (p : PartId) : (settle s p).parts[p].ledger = s.parts[p].ledger := by
  rw [settle, modPart_same]
  split <;> rfl

/-- A sequencer that ends with its run stops, or is left as it was. -/
theorem stopSeq_stops (s : State) (n m : VeId) : (stopSeq s m).seq[n].st = .stopped ∨ (stopSeq s m).seq[n].st = s.seq[n].st := by
  by_cases h : m = n
  · subst h
    have hs : ∀ f g, (modEng (modSeq s m f) m g).seq[m] = f s.seq[m] := fun f _ => updV_same ..
    unfold stopSeq
    dsimp only
    rw [hs]
    dsimp only
    split
    next h => exact .inr h.symm
    next h => exact .inr h.symm
    next h => exact .inr h.symm
    · exact .inl rfl
  · have hs : ∀ f g, (modEng (modSeq s m f) m g).seq[n] = s.seq[n] := fun f _ => updV_other _ m n f h
    unfold stopSeq
    dsimp only
    rw [hs]
    exact .inr rfl

theorem foldl_stopSeq_stops (l : List VeId) (s : State) (n : VeId) : (l.foldl stopSeq s).seq[n].st = .stopped ∨ (l.foldl stopSeq s).seq[n].st = s.seq[n].st := by
  induction l generalizing s with
  | nil => exact .inr rfl
  | cons m l ih =>
    rcases ih (stopSeq s m) with h | h
    · exact .inl h
    · rcases stopSeq_stops s n m with h' | h'
      · exact .inl (h.trans h')
      · exact .inr (h.trans h')

theorem foldl_stopSeq_parts (l : List VeId) (s : State) : (l.foldl stopSeq s).parts = s.parts ∧ (l.foldl stopSeq s).mem = s.mem ∧
    (l.foldl stopSeq s).twin = s.twin := by
  induction l generalizing s with
  | nil => exact ⟨rfl, rfl, rfl⟩
  | cons m l ih => exact ih (stopSeq s m)

theorem foldl_modEng_rest (l : List VeId) (f : Engine → Engine) (s : State) : (l.foldl (fun t n => modEng t n f) s).parts = s.parts ∧
    (l.foldl (fun t n => modEng t n f) s).mem = s.mem ∧ (l.foldl (fun t n => modEng t n f) s).twin = s.twin := by
  induction l generalizing s with
  | nil => exact ⟨rfl, rfl, rfl⟩
  | cons m l ih => exact ih (modEng s m f)

end Ends

end Sys2Proof.Machine

/-! PROOF. Exchange tables, held edits and swaps. -/
namespace Sys2Proof.Machine

/-! ### Exchange tables: held edits and due swaps (R281, R282) -/

/-- The tables of a partition once an edit has landed. -/
def landedIn (q : Partition) (v : Vector (List (W128 × W128)) 2) (e : Edit) : Vector (List (W128 × W128)) 2 :=
  updV v (if e.shadow then shadowTable q else actTable q) fun t => tableSet t e.slot (e.w0, e.w1)

/-- A partition once the edits that `ok` chooses have landed. -/
def landed (ok : Edit → Bool) (q : Partition) : Partition :=
  { q with edits := q.edits.filter fun e => !ok e, exchTables := (q.edits.filter ok).foldl (landedIn q) q.exchTables }

/-- A partition once a due swap has been made. -/
def swapped (q : Partition) : Partition :=
  if q.swapDue then
    { q with exchActive := !q.exchActive, swapDue := false, exchSlotsAct := q.cfg.exchShadowSlots
             cfg := { q.cfg with exchSwap := false, exchShadowSlots := q.exchSlotsAct } }
  else q

section Tables

variable {s : State} {p : PartId}

theorem dictFinish_twin (r : Requester) : (dictFinish s r).parts = s.parts ∧ (dictFinish s r).twin = s.twin := by
  unfold dictFinish
  split
  · have h := i3cReady_keeps s
    rw [ReadKeeps] at h
    rw [h]
    exact ⟨rfl, rfl⟩
  · exact ⟨rfl, rfl⟩

/-- What is output stands; more may follow. -/
def Grows (s t : State) : Prop := s.outs <+: t.outs

theorem dictFinish_grows (s : State) (r : Requester) : Grows s (dictFinish s r) := by
  unfold dictFinish
  split
  · unfold i3cReady
    split
    · exact List.prefix_rfl
    · dsimp only
      split
      · exact List.prefix_append _ _
      · exact List.prefix_rfl
  · exact List.prefix_append _ _

theorem dictFinish_outs {r : Requester} (hr : r ≠ 4) : .dictDone r ∈ (dictFinish s r).outs := by
  have hv : r.val ≠ 4 := fun h => hr (Fin.ext h)
  rw [dictFinish, if_neg hv]
  exact List.mem_append_right _ (List.mem_singleton_self _)

theorem raiseN_grows (s : State) (x : Nat) (dt : W32) : Grows s (raiseN s x dt) := by
  unfold raiseN
  split
  · unfold raise
    dsimp only
    split
    · split
      · unfold setAlert
        dsimp only
        split
        · exact List.prefix_rfl
        · split
          · exact List.prefix_append _ _
          · exact List.prefix_rfl
      · exact List.prefix_rfl
    · exact List.prefix_rfl
  · exact List.prefix_rfl

theorem landEdit_eq (s : State) (e : Edit) : ∃ s1, s1.parts[p] = { s.parts[p] with exchTables := landedIn s.parts[p] s.parts[p].exchTables e } ∧
    s1.twin = s.twin ∧ s1.outs = s.outs ∧ landEdit p s e = match e.by' with | some r => dictFinish s1 r | none => s1 :=
  ⟨modPart s p fun q => { q with exchTables := landedIn q q.exchTables e }, modPart_same s p _, rfl, rfl, rfl⟩

theorem landEdit_part (s : State) (e : Edit) :
    (landEdit p s e).parts[p] = { s.parts[p] with exchTables := landedIn s.parts[p] s.parts[p].exchTables e } ∧
    (landEdit p s e).twin = s.twin ∧ Grows s (landEdit p s e) ∧ ∀ b, e.by' = some b → b ≠ 4 → .dictDone b ∈ (landEdit p s e).outs := by
  obtain ⟨s1, hpart, htwin, houts, he⟩ := landEdit_eq (p := p) s e
  rw [he]
  cases hb : e.by' with
  | none =>
    refine ⟨hpart, htwin, ?_, fun _ h => nomatch h⟩
    show s.outs <+: s1.outs
    rw [houts]
  | some r =>
    dsimp only
    obtain ⟨hp, ht⟩ := dictFinish_twin (s := s1) r
    refine ⟨by rw [hp, hpart], ht.trans htwin, ?_, ?_⟩
    · rw [Grows, ← houts]
      exact dictFinish_grows s1 r
    · intro b h hne
      cases h
      exact dictFinish_outs hne

theorem foldl_landEdit (l : List Edit) (s : State) :
    (l.foldl (landEdit p) s).parts[p] = { s.parts[p] with exchTables := l.foldl (landedIn s.parts[p]) s.parts[p].exchTables } ∧
    (l.foldl (landEdit p) s).twin = s.twin ∧ Grows s (l.foldl (landEdit p) s) ∧
    ∀ e ∈ l, ∀ b, e.by' = some b → b ≠ 4 → .dictDone b ∈ (l.foldl (landEdit p) s).outs := by
  induction l generalizing s with
  | nil => exact ⟨rfl, rfl, List.prefix_rfl, fun _ h => nomatch h⟩
  | cons e l ih =>
    obtain ⟨hpart, htwin, hgrows, hdone⟩ := landEdit_part (p := p) s e
    obtain ⟨hparts, htwins, hgrow, hdones⟩ := ih (landEdit p s e)
    refine ⟨?_, htwins.trans htwin, hgrows.trans hgrow, fun e' he' b hb hne => ?_⟩
    · rw [List.foldl_cons, hparts, hpart]
      rfl
    · rcases List.mem_cons.1 he' with rfl | he'
      · exact hgrow.subset (hdone b hb hne)
      · exact hdones e' he' b hb hne

theorem applyEdits_eq (s : State) (p : PartId) (ok : Edit → Bool) : (applyEdits s p ok).parts[p] = landed ok s.parts[p] ∧
    (applyEdits s p ok).twin = s.twin ∧ Grows s (applyEdits s p ok) ∧
    ∀ e ∈ s.parts[p].edits, ok e = true → ∀ b, e.by' = some b → b ≠ 4 → .dictDone b ∈ (applyEdits s p ok).outs := by
  obtain ⟨hpart, htwin, hgrows, hdone⟩ := foldl_landEdit (p := p) (s.parts[p].edits.filter ok) (modPart s p fun q => { q with edits := q.edits.filter fun e => !ok e })
  rw [modPart_same] at hpart
  exact ⟨hpart, htwin, hgrows, fun e he hok => hdone e (List.mem_filter.2 ⟨he, hok⟩)⟩

theorem applySwap_eq (s : State) (p : PartId) : (applySwap s p).parts[p] = swapped s.parts[p] ∧ (applySwap s p).twin = s.twin ∧ Grows s (applySwap s p) := by
  unfold applySwap
  split
  next h =>
    obtain ⟨s1, hs1⟩ := exists_eq (a' := modPart s p fun q =>
      { q with exchActive := !q.exchActive, swapDue := false, exchSlotsAct := q.cfg.exchShadowSlots
               cfg := { q.cfg with exchSwap := false, exchShadowSlots := q.exchSlotsAct } })
    have hpart : s1.parts[p] = swapped s.parts[p] := by
      rw [hs1, modPart_same, swapped, if_pos h]
    have hrest : s1.twin = s.twin ∧ s1.outs = s.outs := by
      rw [hs1]
      exact ⟨rfl, rfl⟩
    dsimp only
    rw [← hs1]
    obtain ⟨l, d, a, o, n, hr⟩ := raiseN_reported s1 793 (at' 32 5 (s1.parts[p].exchSlotsAct.toNat - 1) |||
      at' 32 4 (if s1.parts[p].exchActive then 1 else 0) ||| at' 32 0 p.val)
    have hg := raiseN_grows s1 793 (at' 32 5 (s1.parts[p].exchSlotsAct.toNat - 1) |||
      at' 32 4 (if s1.parts[p].exchActive then 1 else 0) ||| at' 32 0 p.val)
    refine ⟨?_, ?_, ?_⟩
    · rw [hr]
      exact hpart
    · rw [hr]
      exact hrest.1
    · rw [Grows, ← hrest.2]
      exact hg
  next h => exact ⟨(if_neg h).symm, rfl, List.prefix_rfl⟩

/-! #### The tables themselves -/

theorem shadowTable_ne (q : Partition) : shadowTable q ≠ actTable q := by
  unfold shadowTable actTable
  cases q.exchActive <;> decide

theorem nth_tableSet (t : List (W128 × W128)) (i j : Nat) (v : W128 × W128) : nth (tableSet t i v) j (0, 0) = if j = i then v else nth t j (0, 0) := by
  unfold tableSet nth
  split
  next h =>
    by_cases hj : j = i
    · subst hj
      simp [List.getD, h]
    · simp [List.getD, List.getElem?_set_ne (Ne.symm hj), hj]
  next h =>
    rw [List.getD_eq_getElem?_getD, List.getD_eq_getElem?_getD]
    rcases Nat.lt_trichotomy j i with hj | hj | hj
    · rw [if_neg (by omega), List.getElem?_append_left (by simp; omega)]
      by_cases hl : j < t.length
      · rw [List.getElem?_append_left hl]
      · rw [List.getElem?_append_right (by omega), List.getElem?_replicate_of_lt (by omega), List.getElem?_eq_none (by omega)]
        rfl
    · subst hj
      rw [if_pos rfl, List.getElem?_append_right (by simp; omega)]
      simp [Nat.add_sub_cancel' (Nat.le_of_not_lt h)]
    · rw [if_neg (by omega), List.getElem?_eq_none (by simp; omega), List.getElem?_eq_none (by omega)]

/-- Edits of the active table leave the shadow and land in their order. -/
theorem foldl_landedIn {q : Partition} (l : List Edit) (h : ∀ e ∈ l, e.shadow = false) (v : Vector (List (W128 × W128)) 2) :
    (l.foldl (landedIn q) v)[shadowTable q] = v[shadowTable q] ∧
    (l.foldl (landedIn q) v)[actTable q] = l.foldl (fun t e => tableSet t e.slot (e.w0, e.w1)) v[actTable q] := by
  induction l generalizing v with
  | nil => exact ⟨rfl, rfl⟩
  | cons e l ih =>
    obtain ⟨hs, ha⟩ := ih (fun e' he' => h e' (List.mem_cons_of_mem _ he')) (landedIn q v e)
    have he : landedIn q v e = updV v (actTable q) fun t => tableSet t e.slot (e.w0, e.w1) := by
      rw [landedIn, h e List.mem_cons_self]
      rfl
    rw [List.foldl_cons, List.foldl_cons, hs, ha, he, updV_same]
    exact ⟨updV_other v _ _ _ (shadowTable_ne q).symm, rfl⟩

theorem nth_foldl_tableSet_other {l : List Edit} {i : Nat} (h : ∀ e ∈ l, e.slot ≠ i) (t : List (W128 × W128)) :
    nth (l.foldl (fun t e => tableSet t e.slot (e.w0, e.w1)) t) i (0, 0) = nth t i (0, 0) := by
  induction l generalizing t with
  | nil => rfl
  | cons e l ih =>
    rw [List.foldl_cons, ih (fun e' he' => h e' (List.mem_cons_of_mem _ he')), nth_tableSet, if_neg (h e List.mem_cons_self).symm]

theorem nth_foldl_tableSet_last {l l' : List Edit} {e : Edit} (h : ∀ e' ∈ l', e'.slot ≠ e.slot) (t : List (W128 × W128)) :
    nth ((l ++ e :: l').foldl (fun t e => tableSet t e.slot (e.w0, e.w1)) t) e.slot (0, 0) = (e.w0, e.w1) := by
  rw [List.foldl_append, List.foldl_cons, nth_foldl_tableSet_other h, nth_tableSet, if_pos rfl]

end Tables

end Sys2Proof.Machine

/-! PROOF. The end of a segment and the cut of its exchange. -/
namespace Sys2Proof.Machine

/-! ### The end of a segment, and the cut of its exchange -/

theorem WriteKeeps.parts {s t : State} (h : WriteKeeps s t) : t.parts = s.parts := by
  rw [WriteKeeps, ReadKeeps] at h
  rw [h]

theorem WriteKeeps.twin {s t : State} (h : WriteKeeps s t) : t.twin = s.twin := by
  rw [WriteKeeps, ReadKeeps] at h
  rw [h]

section Failing

variable {s : State} {p : PartId} {cause : Nat} {detail : W64}

theorem twinActive_eq {s t : State} {p : PartId} (hc : t.parts[p].cfg.twinMode = s.parts[p].cfg.twinMode) (ht : t.twin.state = s.twin.state) :
    twinActive t p = twinActive s p := by rw [twinActive, twinActive, hc, ht]

theorem swapped_twinMode (q : Partition) : (swapped q).cfg.twinMode = q.cfg.twinMode := by
  unfold swapped
  split <;> rfl

theorem tablesEnd_twinActive (s : State) (p : PartId) : twinActive (tablesEnd s p) p = twinActive s p := by
  obtain ⟨h1, t1, -⟩ := applyEdits_eq s p fun e => !e.post
  obtain ⟨h2, t2, -⟩ := applySwap_eq (applyEdits s p fun e => !e.post) p
  obtain ⟨h3, t3, -⟩ := applyEdits_eq (applySwap (applyEdits s p fun e => !e.post) p) p fun _ => true
  refine twinActive_eq ?_ (congrArg Twin.state (t3.trans (t2.trans t1)))
  rw [tablesEnd, h3]
  show (applySwap (applyEdits s p fun e => !e.post) p).parts[p].cfg.twinMode = _
  rw [h2, swapped_twinMode, h1]
  rfl

theorem freeTriggers_twinActive (s : State) (p : PartId) : twinActive (freeTriggers s p) p = twinActive s p := by
  unfold freeTriggers
  split
  · exact twinActive_eq (by rw [modPart_same]) rfl
  · exact twinActive_eq (by rw [modPart_same]) rfl

theorem Posted.twinActive {s t : State} (h : Posted s t) (p : PartId) : twinActive t p = twinActive s p :=
  twinActive_eq (congrArg PartCfg.twinMode (h.cfg p)) (h.get fun x => x.twin.state)

theorem posted_doneEvents (how : Nat) (p : PartId) (l : List VeId) (s : State) : Posted s (l.foldl (doneEvent how p) s) :=
  posted_foldl (fun t _ => posted_raiseN t _ _) l s

/-- A run that ends with a cause, outside twin mode (R242, R276). -/
structure RunEnded (s t : State) (p : PartId) (cause : Nat) : Prop where
  run : t.parts[p].run = none
  fresh : t.parts[p].fresh = true
  cycle : t.parts[p].designCycle = s.parts[p].designCycle
  cause : t.parts[p].ledger.lastCause = BitVec.ofNat 16 cause
  mem : t.mem = s.mem
  stops : ∀ n : VeId, t.seq[n].st = .stopped ∨ t.seq[n].st = s.seq[n].st

theorem disarm_part (s : State) (p : PartId) : (disarm s p).parts[p] =
    { s.parts[p] with saved := s.parts[p].saved.map fun x => { x with eng := { x.eng with substEn := false } } } := by
  rw [disarm, modPart_same, (foldl_modEng_rest _ _ _).1]

theorem failRun_ended {r : Run} (hr : s.parts[p].run = some r) (ht : twinActive s p = false) (hc : cause < 65536) (h0 : cause ≠ 0) :
    RunEnded s (failRun s p cause detail) p cause := by
  unfold failRun
  rw [hr]
  dsimp only
  have hstop := foldl_stopSeq_stops s.parts[p].bind s
  obtain ⟨hparts, hmem, htwin⟩ := foldl_stopSeq_parts s.parts[p].bind s
  generalize s.parts[p].bind.foldl stopSeq s = s0 at hstop hparts hmem htwin ⊢
  have hdp := disarm_part s0 p
  have hds : (disarm s0 p).seq = s0.seq := foldl_modEng_seq _ _
  have hdm : (disarm s0 p).mem = s0.mem := (foldl_modEng_rest _ _ _).2.1
  have hdt : (disarm s0 p).twin = s0.twin := (foldl_modEng_rest _ _ _).2.2
  generalize disarm s0 p = s1 at hdp hds hdm hdt ⊢
  rw [hparts] at hdp
  obtain ⟨s2, hs2⟩ := exists_eq (a' := modPart s1 p fun q =>
    { q with run := none, fresh := true, streams := updV q.streams 2 fun st => { st with fifo := r.stim ++ st.fifo } })
  rw [← hs2]
  have hp2 : s2.parts[p] = { s1.parts[p] with run := none, fresh := true, streams := updV s1.parts[p].streams 2 fun st => { st with fifo := r.stim ++ st.fifo } } := by
    rw [hs2, modPart_same]
  have hrest : s2.mem = s.mem ∧ s2.seq = s0.seq ∧ s2.twin = s.twin := by
    rw [hs2]
    exact ⟨hdm.trans hmem, hds, hdt.trans htwin⟩
  obtain ⟨hm2, hq2, ht2⟩ := hrest
  have hi : Idle s2 (settle (ledgerEnd (tablesEnd (s.parts[p].bind.foldl (doneEvent 1 p) (freeTriggers s2 p)) p) p (jobId r.job) 0x01 cause detail) p) :=
    idle_settle (idle_ledgerEnd (idle_tablesEnd (idle_foldl (f := doneEvent 1 p) (idle_freeTriggers (.refl s2)) fun _ _ h => idle_raiseN h)))
  have hta : twinActive (tablesEnd (s.parts[p].bind.foldl (doneEvent 1 p) (freeTriggers s2 p)) p) p = false := by
    rw [tablesEnd_twinActive, (posted_doneEvents 1 p _ _).twinActive, freeTriggers_twinActive]
    refine (twinActive_eq (s := s) ?_ (congrArg Twin.state ht2)).trans ht
    rw [hp2, hdp]
  have hcause := (settle_ledger (ledgerEnd (tablesEnd (s.parts[p].bind.foldl (doneEvent 1 p) (freeTriggers s2 p)) p) p (jobId r.job) 0x01 cause detail) p).symm ▸
    ledgerEnd_lastCause (item := jobId r.job) (kind := 0x01) (detail := detail) hta hc h0
  generalize settle (ledgerEnd (tablesEnd (s.parts[p].bind.foldl (doneEvent 1 p) (freeTriggers s2 p)) p) p (jobId r.job) 0x01 cause detail) p = t at hi hcause ⊢
  have hview := hi.part p
  have hfresh : t.parts[p].fresh = s2.parts[p].fresh := congrArg (fun x => x.2.2.2.2.2.2.1) hview
  have hcycle : t.parts[p].designCycle = s2.parts[p].designCycle := congrArg (fun x => x.1) hview
  refine ⟨(hi.run p).trans ?_, hfresh.trans ?_, hcycle.trans ?_, hcause, hi.mem.trans hm2, fun n => ?_⟩
  · rw [hp2]
  · rw [hp2]
  · rw [hp2, hdp]
  · rw [hi.seq, hq2]
    exact hstop n

theorem failSegment_ended {r : Run} (hr : s.parts[p].run = some r) (ht : twinActive s p = false) (hc : cause < 65536) (h0 : cause ≠ 0) :
    RunEnded s (failSegment s p cause detail) p cause := by
  have he : failSegment s p cause detail = failRun s p cause detail := by
    rw [failSegment, hr, ht]
    rfl
  rw [he]
  exact failRun_ended hr ht hc h0

end Failing

/-! #### The cut of an exchange -/

/-- A partition but for the words that its phase has written. -/
def cutless (q : Partition) : Partition := { q with run := q.run.map fun r => { r with writes := [] } }

/-- From `s` to `t` a partition's exchange was cut: its run's written words differ, and what writes to memory change. -/
structure Cut (s t : State) (p : PartId) : Prop where
  part : cutless t.parts[p] = cutless s.parts[p]
  seq : t.seq = s.seq
  twin : t.twin.state = s.twin.state

section Cuts

variable {s t u : State} {p : PartId}

theorem Cut.refl (s : State) (p : PartId) : Cut s s p := ⟨rfl, rfl, rfl⟩

theorem Cut.trans (h : Cut s t p) (k : Cut t u p) : Cut s u p := ⟨k.part.trans h.part, k.seq.trans h.seq, k.twin.trans h.twin⟩

theorem WriteKeeps.cut (h : WriteKeeps s t) (p : PartId) : Cut s t p := ⟨by rw [h.parts], h.seq, by rw [h.twin]⟩

theorem cut_raiseN (s : State) (p : PartId) (x : Nat) (dt : W32) : Cut s (raiseN s x dt) p := (raiseN_keeps s x dt).writeKeeps.cut p

theorem cut_foldl {α : Type} {f : State → α → State} (hf : ∀ t a, Cut t (f t a) p) (l : List α) (s : State) : Cut s (l.foldl f s) p := by
  induction l generalizing s with
  | nil => exact .refl s p
  | cons a l ih => exact (hf s a).trans (ih _)

theorem Cut.some_run {r : Run} (h : Cut s t p) (hr : s.parts[p].run = some r) : ∃ r', t.parts[p].run = some r' := by
  have he : t.parts[p].run.map (fun r => { r with writes := [] }) = s.parts[p].run.map fun r => { r with writes := [] } := congrArg Partition.run h.part
  rw [hr] at he
  cases ht : t.parts[p].run with
  | none => rw [ht] at he; cases he
  | some r' => exact ⟨r', rfl⟩

theorem cut_writes {r : Run} {w : List PhaseWrite} (hr : s.parts[p].run = some r) :
    Cut s (modPart s p fun q => { q with run := some { r with writes := w } }) p := by
  refine ⟨?_, rfl, rfl⟩
  rw [modPart_same, cutless, cutless, hr]
  rfl

theorem cut_sinkResponses (s : State) (m k : Nat) : Cut s (sinkResponses s m k) p := by
  unfold sinkResponses
  split
  · exact .refl s p
  · exact Cut.trans (t := { s with fab := { s.fab with sink := satAdd s.fab.sink k } }) ⟨rfl, rfl, rfl⟩ (cut_raiseN _ _ _ _)

/-- A slot that memory cuts short moves some of its words. -/
theorem cut_exchangeStops (s : State) (p : PartId) (but : Option Nat) (cut : ExchCut) : Cut s (exchangeStops s p but cut) p := by
  unfold exchangeStops
  refine Cut.trans (cut_foldl (fun t y => ?_) _ _) (cut_foldl (fun t y => cut_sinkResponses _ _ _) _ _)
  split
  next r x im hr _ _ =>
    split
    next n m _ _ =>
      split
      · exact .refl t p
      · have hk := slotMove_keeps (direct := true) (p := p) (n := n) (m := m) (i := y.1.val) (x := x) (im := im) t r (min y.2 x.words)
        extract_lets u
        refine (hk.cut p).trans (cut_writes ?_)
        rw [hk.parts]
        exact hr
    · exact .refl t p
  · exact .refl t p

/-- With nothing moved the cut of an exchange leaves memory alone. -/
theorem exchangeStops_mem (s : State) (p : PartId) (but : Option Nat) (cut : ExchCut) (h : cut.moved = []) : (exchangeStops s p but cut).mem = s.mem := by
  have hsink : ∀ (l : List (VeId × Fin 33)) (t : State), (l.foldl (fun t y => sinkResponses t (8 * y.1.val + 6) y.2.val) t).mem = t.mem := by
    intro l
    induction l with
    | nil => exact fun _ => rfl
    | cons a l ih =>
      intro t
      rw [List.foldl_cons, ih, sinkResponses]
      split
      · rfl
      · exact (posted_raiseN _ _ _).mem
  rw [exchangeStops, h]
  exact hsink _ _

end Cuts

end Sys2Proof.Machine

/-! PROOF. The release of a barrier. -/
namespace Sys2Proof.Machine

/-! ### The release of a barrier -/

/-- The run of a partition at the release of its barrier. -/
def releasedRun (r : Run) : Run := { r with phase := .commit, done := [], firstDone := none, slots := [], writes := [], grants := [] }

/-- The partition at the release of its barrier, before held edits land. -/
def releasedPart (s : State) (r : Run) (q : Partition) : Partition :=
  { q with exchWraps := q.exchWraps + 1, barLastNs := (match r.firstDone with | some t => timeNow s - t | none => 0).setWidth 32
           run := some (releasedRun r) }

/-- The edits due before commit. -/
def dueBefore (k : Nat) (e : Edit) : Bool := decide (e.due < k) || (e.due == k && !e.post)

section Release

variable {s : State} {p : PartId} {r : Run}

theorem swapped_frame (q : Partition) : (swapped q).edits = q.edits ∧ (swapped q).run = q.run ∧ (swapped q).exchTables = q.exchTables ∧
    (swapped q).exchWraps = q.exchWraps ∧ (swapped q).barLastNs = q.barLastNs ∧ (swapped q).swapDue = false ∧
    (swapped q).exchActive = (q.exchActive != q.swapDue) := by
  unfold swapped
  cases h : q.swapDue with
  | true => exact ⟨rfl, rfl, rfl, rfl, rfl, rfl, by simp⟩
  | false => exact ⟨rfl, rfl, rfl, rfl, rfl, h, by simp⟩

/-- A barrier that all bound VEs have reached releases. -/
theorem barrierReleaseOp_releases (hdead : dead s = false) (hr : s.parts[p].run = some r) (hphase : r.phase = .evaluate) (hb : s.parts[p].bind ≠ [])
    (hall : ∀ n, n ∈ s.parts[p].bind → n ∈ r.done) : barrierReleaseOp s p = tablesRelease (modPart s p (releasedPart s r)) p r.cycle := by
  have hempty : s.parts[p].bind.isEmpty = false := by simpa using hb
  have hdone : (s.parts[p].bind.all fun n => r.done.contains n) = true := by simpa using hall
  rw [barrierReleaseOp, hr]
  dsimp only
  rw [hdead, hphase, hempty, hdone]
  rfl

theorem tablesRelease_eq (s : State) (p : PartId) (k : Nat) : ∃ t, tablesRelease s p k = t ∧
    t.parts[p] = landed (fun e => decide (e.due ≤ k)) (swapped (landed (dueBefore k) s.parts[p])) ∧ t.mem = s.mem ∧
    ∀ e ∈ s.parts[p].edits, dueBefore k e = true → ∀ b, e.by' = some b → b ≠ 4 → .dictDone b ∈ t.outs := by
  obtain ⟨h1, -, -, hdone⟩ := applyEdits_eq s p (dueBefore k)
  obtain ⟨h2, -, hg2⟩ := applySwap_eq (applyEdits s p (dueBefore k)) p
  obtain ⟨h3, -, hg3, -⟩ := applyEdits_eq (applySwap (applyEdits s p (dueBefore k)) p) p fun e => decide (e.due ≤ k)
  refine ⟨_, rfl, ?_, ?_, fun e he hok b hb hne => hg3.subset (hg2.subset (hdone e he hok b hb hne))⟩
  · exact h3.trans (by rw [h2, h1])
  · exact (idle_applyEdits (idle_applySwap (idle_applyEdits (.refl s)))).mem

theorem applyEdits_none {ok : Edit → Bool} (h : s.parts[p].edits = []) : (applyEdits s p ok).outs = s.outs ∧ (applyEdits s p ok).parts[p].edits = [] ∧
    (applyEdits s p ok).parts[p].swapDue = s.parts[p].swapDue := by
  have he := (applyEdits_eq s p ok).1
  refine ⟨?_, ?_, ?_⟩
  · rw [applyEdits, h]
    rfl
  · rw [he, landed, h]
    rfl
  · rw [he]
    rfl

theorem applySwap_none (h : s.parts[p].swapDue = false) : applySwap s p = s := if_neg (ne_true_of_eq_false h)

/-- With no held edit and no swap due nothing is output at the release. -/
theorem tablesRelease_none {k : Nat} (he : s.parts[p].edits = []) (hs : s.parts[p].swapDue = false) : (tablesRelease s p k).outs = s.outs := by
  obtain ⟨h1, he1, hs1⟩ := applyEdits_none (ok := dueBefore k) he
  have hswap : applySwap (applyEdits s p (dueBefore k)) p = applyEdits s p (dueBefore k) := applySwap_none (hs1.trans hs)
  show (applyEdits (applySwap (applyEdits s p (dueBefore k)) p) p _).outs = _
  rw [hswap, (applyEdits_none he1).1, h1]

/-- The edits that stay held are those due later. -/
theorem mem_edits_released {k : Nat} {e : Edit} (q : Partition) :
    e ∈ (landed (fun e => decide (e.due ≤ k)) (swapped (landed (dueBefore k) q))).edits ↔ e ∈ q.edits ∧ k < e.due := by
  have hedits : (landed (fun e => decide (e.due ≤ k)) (swapped (landed (dueBefore k) q))).edits =
      (q.edits.filter fun e => !dueBefore k e).filter fun e => !decide (e.due ≤ k) := by
    rw [landed]
    dsimp only
    rw [(swapped_frame _).1]
    rfl
  rw [hedits, List.mem_filter, List.mem_filter]
  simp only [dueBefore, Bool.not_eq_true', Bool.or_eq_false_iff, decide_eq_false_iff_not, Bool.and_eq_false_iff, beq_eq_false_iff_ne, Bool.not_eq_false']
  constructor
  · rintro ⟨⟨he, -⟩, hk⟩
    exact ⟨he, by omega⟩
  · rintro ⟨he, hk⟩
    exact ⟨⟨he, by omega, .inl (by omega)⟩, by omega⟩

/-- Edits all due before commit land in the active table and leave none. -/
theorem released_before {k : Nat} {q : Partition} (h : ∀ e ∈ q.edits, e.shadow = false ∧ (e.due < k ∨ (e.due = k ∧ e.post = false))) :
    (landed (fun e => decide (e.due ≤ k)) (swapped (landed (dueBefore k) q))).edits = [] ∧
    (landed (fun e => decide (e.due ≤ k)) (swapped (landed (dueBefore k) q))).exchTables[shadowTable q] = q.exchTables[shadowTable q] ∧
    (landed (fun e => decide (e.due ≤ k)) (swapped (landed (dueBefore k) q))).exchTables[actTable q] =
      q.edits.foldl (fun t e => tableSet t e.slot (e.w0, e.w1)) q.exchTables[actTable q] := by
  have hok : ∀ e ∈ q.edits, dueBefore k e = true := by
    intro e he
    rcases (h e he).2 with hlt | ⟨heq, hpost⟩
    · simp [dueBefore, hlt]
    · simp [dueBefore, heq, hpost]
  have hall : q.edits.filter (dueBefore k) = q.edits := List.filter_eq_self.2 hok
  have hnone : (q.edits.filter fun e => !dueBefore k e) = [] := List.filter_eq_nil_iff.2 fun e he => by simp [hok e he]
  have h1 : (landed (dueBefore k) q).edits = [] := hnone
  have h2 : (landed (dueBefore k) q).exchTables = q.edits.foldl (landedIn q) q.exchTables := by
    rw [landed]
    dsimp only
    rw [hall]
  obtain ⟨hedits, -, htables, -⟩ := swapped_frame (landed (dueBefore k) q)
  rw [h1] at hedits
  rw [h2] at htables
  have hlast : ∀ x : Partition, x.edits = [] → (landed (fun e => decide (e.due ≤ k)) x).edits = [] ∧
      (landed (fun e => decide (e.due ≤ k)) x).exchTables = x.exchTables := by
    intro x hx
    rw [landed, hx]
    exact ⟨rfl, rfl⟩
  obtain ⟨he, ht⟩ := hlast _ hedits
  obtain ⟨hs, ha⟩ := foldl_landedIn (q := q) q.edits (fun e he => (h e he).1) q.exchTables
  refine ⟨he, ?_, ?_⟩
  · rw [ht, htables, hs]
  · rw [ht, htables, ha]

end Release

end Sys2Proof.Machine

/-! PROOF. Barriers and faults of the exchange (O37). -/
namespace Sys2Proof.Machine

section Barriers

variable {s : State} {p : PartId} {r : Run}

/-- The barrier of a segment whose run waits elsewhere, or for a VE, does not release. -/
theorem barrierReleaseOp_waits (hr : s.parts[p].run = some r)
    (h : r.phase ≠ .evaluate ∨ s.parts[p].bind = [] ∨ ∃ n, n ∈ s.parts[p].bind ∧ n ∉ r.done) : barrierReleaseOp s p = s := by
  rw [barrierReleaseOp, hr]
  refine if_pos ?_
  generalize s.parts[p].bind = b at h
  rcases h with h | h | ⟨n, hn, hd⟩
  · simp [h]
  · simp [h]
  · have hall : (b.all fun n => r.done.contains n) = false := by
      rw [List.all_eq_false]
      exact ⟨n, hn, by simpa using hd⟩
    rw [hall, Bool.not_false, Bool.or_true]

/-- The VEs that a barrier still waits for. -/
def lateVes (s : State) (p : PartId) (r : Run) : List VeId := s.parts[p].bind.filter fun n => !r.done.contains n

/-- What the barrier's timer reports of the late VEs. -/
def lateNoted (s : State) (p : PartId) (r : Run) : State :=
  raiseN ((lateVes s p r).foldl (fun t n =>
    raiseN t (8 * n.val + 5) (at' 32 12 (if s.seq[n].begunBarrier then 0 else 1) ||| BitVec.ofNat 32 (lateSlot s p r n))) s) 794
    (BitVec.ofNat 32 (((lateVes s p r).map (·.val)).foldl min 63 * 16 + p.val))

theorem barrierTimeoutOp_eq {cut : ExchCut} (hr : s.parts[p].run = some r) : barrierTimeoutOp s p cut =
    if dead s || frozen s || r.phase != .evaluate || r.firstDone.isNone || (lateVes s p r).isEmpty || !allResident s p then s
    else failSegment (exchangeStops (lateNoted s p r) p none cut) p 0x0A04 (BitVec.ofNat 64 (((lateVes s p r).map (·.val)).foldl min 63 * 16 + p.val)) := by
  rw [barrierTimeoutOp, hr]
  rfl

theorem barrierTimeoutOp_waits {cut : ExchCut} (hr : s.parts[p].run = some r)
    (h : frozen s = true ∨ r.phase ≠ .evaluate ∨ r.firstDone = none ∨ (∀ n, n ∈ s.parts[p].bind → n ∈ r.done) ∨ allResident s p = false) :
    barrierTimeoutOp s p cut = s := by
  rw [barrierTimeoutOp_eq hr]
  refine if_pos ?_
  rcases h with h | h | h | h | h
  · simp [h]
  · simp [h]
  · simp [h]
  · have hl : lateVes s p r = [] := List.filter_eq_nil_iff.2 fun n hn => by simp [h n hn]
    simp [hl]
  · simp [h]

/-- A barrier whose timer has passed fails the segment (R276). -/
theorem barrierTimeoutOp_fails {cut : ExchCut} (hdead : dead s = false) (hr : s.parts[p].run = some r) (hz : frozen s = false) (hphase : r.phase = .evaluate)
    (hf : r.firstDone ≠ none) (hl : ∃ n, n ∈ s.parts[p].bind ∧ n ∉ r.done) (ha : allResident s p = true) :
    ∃ d, barrierTimeoutOp s p cut = failSegment (exchangeStops (lateNoted s p r) p none cut) p 0x0A04 d := by
  obtain ⟨n, hn, hd⟩ := hl
  have hmem : n ∈ lateVes s p r := List.mem_filter.2 ⟨hn, by simpa using hd⟩
  have hlate : (lateVes s p r).isEmpty = false := by simpa using List.ne_nil_of_mem hmem
  have hsome : r.firstDone.isNone = false := by
    cases hx : r.firstDone with
    | none => exact absurd hx hf
    | some t => rfl
  have hcond : ¬ (dead s || frozen s || r.phase != .evaluate || r.firstDone.isNone || (lateVes s p r).isEmpty || !allResident s p) = true := by
    rw [hdead, hz, hphase, hsome, hlate, ha]
    decide
  exact ⟨_, (barrierTimeoutOp_eq hr).trans (if_neg hcond)⟩

theorem lateNoted_cut (s : State) (p : PartId) (r : Run) : Cut s (lateNoted s p r) p ∧ (lateNoted s p r).mem = s.mem :=
  ⟨Cut.trans (cut_foldl (fun _ _ => cut_raiseN _ _ _ _) _ _) (cut_raiseN _ _ _ _),
    ((posted_raiseN _ _ _).mem).trans (posted_foldl (fun _ _ => posted_raiseN _ _ _) _ _).mem⟩

end Barriers

/-- A segment that fails behind the cut of its exchange. -/
theorem failSegment_cut {s t : State} {p : PartId} {r : Run} {cause : Nat} {d : W64} (hr : s.parts[p].run = some r)
    (ht : twinActive s p = false) (hcut : Cut s t p) (hc : cause < 65536) (h0 : cause ≠ 0) : RunEnded t (failSegment t p cause d) p cause := by
  obtain ⟨r', hr'⟩ := hcut.some_run hr
  have hcfg : t.parts[p].cfg = s.parts[p].cfg := by
    have hc := congrArg (fun q : Partition => q.cfg) hcut.part
    exact hc
  exact failSegment_ended hr' ((twinActive_eq (congrArg PartCfg.twinMode hcfg) hcut.twin).trans ht) hc h0

/-! ### The fault of a slot (R279) -/

section Faults

variable {s : State} {p : PartId} {r : Run} {i : Nat} {x : Slot} {n m : VeId} {im : Image} {cut : ExchCut}

/-- A slot that may start is not in progress. -/
theorem slotRuns_of_eligible (h : slotEligible s p r i = true) : slotRuns r i = false := by
  rw [slotEligible] at h
  dsimp only at h
  split at h
  · cases h
  · split at h
    · cases h
    · simp only [Bool.and_eq_true, Bool.not_eq_true'] at h
      obtain ⟨⟨⟨-, hslots⟩, -⟩, -⟩ := h
      rw [slotRuns, List.any_eq_false]
      rw [List.any_eq_false] at hslots
      intro y hy
      have hne := hslots y hy
      simp only [Bool.and_eq_true, not_and]
      exact fun he => absurd he hne

/-- A read outside the partition fails at its first word. -/
theorem slotReads_outside {ss : List Slot} {k off : Nat} {d : List W128} {w : List PhaseWrite} (hp : partDev s p x.srcSpace off = none) :
    slotReads false p r n ss i x (k + 1) off { s := s, data := d, writes := w, stop := .good } =
      { s := s, data := d, writes := w, stop := .bad 4 false x.srcSpace off } := by
  have hget : slotGet false s p n (veCode s n) x.srcSpace off = { data := 0, status := 4, s := s } := by
    rw [slotGet, if_neg Bool.false_ne_true, readPart, hp]
  rw [slotReads, if_neg (fun h => h rfl)]
  dsimp only
  rw [hget]
  rfl

theorem slotMove_nothing : slotMove true s p r i x n m im 0 = { s := s, data := [], writes := r.writes, stop := .good } := rfl

/-- The fault of a slot that has not started and whose source lies outside the partition. -/
theorem faultRun_outside (hruns : slotRuns r i = false) (hw : 0 < x.words) (hp : partDev s p x.srcSpace (slotOff s p x.srcRel x.srcOff) = none) :
    ∃ d w, faultRun s p r i x n m im cut = { s := s, data := d, writes := w, stop := .bad 4 false x.srcSpace (slotOff s p x.srcRel x.srcOff) } := by
  obtain ⟨k, hk⟩ : ∃ k, x.words = k + 1 := ⟨x.words - 1, by omega⟩
  have hread := fun d w => slotReads_outside (r := r) (n := n) (ss := actSlots s.parts[p]) (i := i) (k := k) (d := d) (w := w) hp
  refine ⟨[], r.writes, ?_⟩
  rw [faultRun]
  simp only [hruns, Bool.false_eq_true, if_false, hk, hread, Nat.zero_min, slotMove_nothing]

theorem exchangeFaultOp_outside (hdead : dead s = false) (hr : s.parts[p].run = some r) (hx : (actSlots s.parts[p])[i]? = some x) (him : s.parts[p].image = some im)
    (hn : boundVe s.parts[p] x.src = some n) (hm : boundVe s.parts[p] x.dst = some m) (hw : 0 < x.words) (he : slotEligible s p r i = true)
    (hp : partDev s p x.srcSpace (slotOff s p x.srcRel x.srcOff) = none) :
    exchangeFaultOp s p i cut = exchangeFails s p i n 4 false x.srcSpace (slotOff s p x.srcRel x.srcOff) cut := by
  obtain ⟨d, w, hf⟩ := faultRun_outside (n := n) (m := m) (im := im) (cut := cut) (slotRuns_of_eligible he) hw hp
  rw [exchangeFaultOp, hr, hx, him]
  dsimp only
  rw [hn, hm]
  dsimp only
  rw [hdead, he, hf]
  rfl

end Faults

/-- The partition at the release of its barrier, field by field. -/
theorem released_fields (s : State) (r : Run) (q : Partition) (k : Nat) : ∃ q', q' = landed (fun e => decide (e.due ≤ k)) (swapped (landed (dueBefore k) (releasedPart s r q))) ∧
    q'.run = some (releasedRun r) ∧ q'.exchWraps = q.exchWraps + 1 ∧ (∀ t0, r.firstDone = some t0 → q'.barLastNs = (timeNow s - t0).setWidth 32) ∧
    q'.swapDue = false ∧ q'.exchActive = (q.exchActive != q.swapDue) ∧
    (q.swapDue = true → q'.exchSlotsAct = q.cfg.exchShadowSlots ∧ q'.cfg.exchShadowSlots = q.exchSlotsAct) ∧
    (q.edits = [] → q.swapDue = false → q'.exchTables = q.exchTables ∧ q'.exchActive = q.exchActive) := by
  obtain ⟨hedits, hrun, htables, hwraps, hbar, hswap, hactive⟩ := swapped_frame (landed (dueBefore k) (releasedPart s r q))
  refine ⟨_, rfl, hrun, hwraps, fun t0 h0 => ?_, hswap, hactive, fun hd => ?_, fun he hd => ⟨?_, ?_⟩⟩
  · refine hbar.trans ?_
    show (match r.firstDone with | some t => timeNow s - t | none => 0).setWidth 32 = _
    rw [h0]
  · have hsw : swapped (landed (dueBefore k) (releasedPart s r q)) = _ := if_pos hd
    rw [landed, hsw]
    exact ⟨rfl, rfl⟩
  · have hsw : swapped (landed (dueBefore k) (releasedPart s r q)) = landed (dueBefore k) (releasedPart s r q) := if_neg (ne_true_of_eq_false hd)
    have hfirst : landed (dueBefore k) (releasedPart s r q) = releasedPart s r q := by
      simp only [landed, releasedPart, he, List.filter_nil, List.foldl_nil]
    rw [hsw, hfirst]
    simp only [landed, releasedPart, he, List.filter_nil, List.foldl_nil]
  · refine hactive.trans ?_
    show (q.exchActive != q.swapDue) = q.exchActive
    rw [hd, Bool.bne_false]

/-- Settles O37: the release as `landed` and `swapped` describe it, the timeout and the fault as ends of the run behind the cut of its exchange. -/
theorem barriersAndFaults : Obligations.BarriersAndFaults := by
  refine ⟨fun s p i cut vs idle hr => ?_, ?_⟩
  · have h1 : barrierReleaseOp s p = s := by rw [barrierReleaseOp, hr]
    have h2 : barrierTimeoutOp s p cut = s := by rw [barrierTimeoutOp, hr]
    have h3 : exchangeFaultOp s p i.val cut = s := by rw [exchangeFaultOp, hr]
    have h4 : slotCompleteOp s p i.val = s := by rw [slotCompleteOp, hr]
    have h5 : slotStartOp s p i.val vs idle = s := by rw [slotStartOp, hr]
    exact ⟨congrArg _ h1, congrArg _ h2, congrArg _ h3, congrArg _ h4, congrArg _ h5⟩
  intro s p r cut hdead hr q
  refine ⟨fun h => ?_, fun hphase hb hall => ?_, fun h => ?_, fun hz hphase hf hl ha htw => ?_, fun i im x n m hx him hn hm hw he htw hp => ?_⟩
  · exact congrArg _ (barrierReleaseOp_waits hr h)
  · have hx : exec (.barrierRelease p) s = .next (tablesRelease (modPart s p (releasedPart s r)) p r.cycle) :=
      congrArg _ (barrierReleaseOp_releases hdead hr hphase hb hall)
    obtain ⟨t, ht, hpart, hmem, hdone⟩ := tablesRelease_eq (modPart s p (releasedPart s r)) p r.cycle
    have hnone := tablesRelease_none (s := modPart s p (releasedPart s r)) (p := p) (k := r.cycle)
    obtain ⟨q', hq', hrun, hwraps, hbar, hswap, hactive, hslots, hstay⟩ := released_fields s r q r.cycle
    rw [modPart_same] at hpart hdone hnone
    rw [ht] at hx hnone
    have htq : t.parts[p] = q' := hpart.trans hq'.symm
    refine ⟨t, releasedRun r, hx, htq ▸ hrun, rfl, htq ▸ hwraps, fun t0 h0 => htq ▸ hbar t0 h0, fun he hd => ?_, htq ▸ ⟨hswap, hactive⟩, htq ▸ hslots, fun hedits => ?_,
      fun e => ?_, hmem⟩
    · obtain ⟨htab, hact⟩ := hstay he hd
      exact ⟨htq ▸ htab, htq ▸ hact, hnone he hd⟩
    · obtain ⟨hgone, hshadow, hact⟩ := released_before (k := r.cycle) (q := releasedPart s r q) hedits
      rw [← hpart] at hgone hshadow hact
      refine ⟨hgone, hshadow, fun l e l' hl hlast => ?_, fun j hj => ?_, fun e b he hb hne => ?_⟩
      · refine (congrArg (fun v => nth v e.slot (0, 0)) hact).trans ?_
        show nth (q.edits.foldl (fun t e => tableSet t e.slot (e.w0, e.w1)) q.exchTables[actTable q]) e.slot (0, 0) = _
        rw [hl]
        exact nth_foldl_tableSet_last hlast _
      · exact (congrArg (fun v => nth v j (0, 0)) hact).trans (nth_foldl_tableSet_other hj _)
      · refine hdone e he ?_ b hb hne
        rcases (hedits e he).2 with hlt | ⟨heq, hpost⟩
        · simp [dueBefore, hlt]
        · simp [dueBefore, heq, hpost]
    · rw [hpart]
      exact mem_edits_released _
  · exact congrArg _ (barrierTimeoutOp_waits hr h)
  · obtain ⟨d, hop⟩ := barrierTimeoutOp_fails (cut := cut) hdead hr hz hphase hf hl ha
    obtain ⟨hcut, hm⟩ := lateNoted_cut s p r
    have hk := hcut.trans (cut_exchangeStops (lateNoted s p r) p none cut)
    have hend := failSegment_cut (cause := 0x0A04) (d := d) hr htw hk (by decide) (by decide)
    refine ⟨_, congrArg Host.Outcome.next hop, hend.run, hend.fresh, hend.cycle.trans ?_, hend.cause, fun hnone => hend.mem.trans ((exchangeStops_mem _ p none cut hnone).trans hm), fun n _ => ?_⟩
    · have hc := congrArg (fun q : Partition => q.designCycle) hk.part
      exact hc
    · have hst := hend.stops n
      rw [hk.seq] at hst
      exact hst
  · have hop := exchangeFaultOp_outside (cut := cut) hdead hr hx him hn hm hw he hp
    rw [exchangeFails] at hop
    have hk := (cut_exchangeStops s p (some i.val) cut).trans (cut_raiseN _ p 792
      (at' 32 26 n.val ||| at' 32 22 4 ||| at' 32 10 i.val ||| at' 32 9 false.toNat ||| BitVec.ofNat 32 p.val))
    have hend := failSegment_cut (cause := exchCause 4 false) (d := at' 64 58 n.val ||| at' 64 54 4 ||| at' 64 42 i.val ||| at' 64 41 false.toNat |||
      at' 64 38 x.srcSpace.toNat ||| BitVec.ofNat 64 (slotOff s p x.srcRel x.srcOff % 2 ^ 38)) hr htw hk (by decide) (by decide)
    exact ⟨_, congrArg Host.Outcome.next hop, hend.run, hend.cause, fun hnone => hend.mem.trans ((posted_raiseN _ _ _).mem.trans (exchangeStops_mem _ p _ cut hnone))⟩

end Sys2Proof.Machine
